-- ==== Sys2Proof/Word.lean ====
section
/-! DEFINITION. The machine's words, and `Tab`: a sparse table with a default, in one canonical form. -/

namespace Sys2Proof

/-- One byte (R5: memory is little-endian bytes). -/
abbrev Byte := BitVec 8
/-- A 32-bit lane word. -/
abbrev Word32 := BitVec 32
/-- A scalar register or control register (R130, R147). -/
abbrev Word64 := BitVec 64
/-- A vector register, a mask register or a temporary: 32 lane words of 32 bits (R220, R223). -/
abbrev VReg := BitVec 1024

/-- A sparse table: keys strictly rising, and (where it has a default) no entry equal to it. -/
abbrev Tab (α : Type) := List (Nat × α)

end Sys2Proof
end

