-- ==== Sys2Proof/Config.lean ====
section
/-! DEFINITION. What the implementation or the environment decides and the spec leaves open: opaque functions, with no body, so
that nothing can be proved about a value they give. The first argument of each free value is the machine's step counter
(`State.tick`), the second says which choice of the step it is.
(DESIGN CHOICE, log entry 3) -/

namespace Sys2Proof.Config

/-- Which of several values a read receives where the spec gives no choice (R19, R20, R91, R92, R120). -/
opaque pick : Nat → Nat → Nat
/-- The value of a 32-bit word the spec calls undefined (R91: a temporary not yet written by the run). -/
opaque freeWord : Nat → Nat → Word32
/-- A number the spec does not state. -/
opaque freeNat : Nat → Nat → Nat
/-- Whether a stale cached translation still hits (R161, R162: replacement is not stated). -/
opaque tlbHit : Nat → Nat → Bool
/-- Form and contents internal to the device (R116: wait records, held-store descriptors, cohort headers). -/
opaque internalByte : Nat → Nat → Byte

end Sys2Proof.Config
end

