-- ==== Sys2Proof/Machine/Bits.lean ====
section
/-! DEFINITION. Bit fields, sign extension and byte order: the helpers every reader and writer of encoded data uses. -/

namespace Sys2Proof

/-- Bits `hi:lo` of a number (R5). -/
def bits (x hi lo : Nat) : Nat := x / 2 ^ lo % 2 ^ (hi + 1 - lo)

/-- The two's-complement value of the low `w` bits (R28, R64). -/
def sext (w x : Nat) : Int :=
  if x % 2 ^ w < 2 ^ (w - 1) then (x % 2 ^ w : Nat) else (x % 2 ^ w : Nat) - (2 ^ w : Nat)

/-- An integer wrapped to `w` bits (R28). -/
def wrap (w : Nat) (x : Int) : Nat := (x % (2 ^ w : Nat)).toNat

/-- Field `[off, off + w)` of `x` replaced by the low `w` bits of `v`. -/
def setBits (x off w v : Nat) : Nat :=
  x - (x / 2 ^ off % 2 ^ w) * 2 ^ off + (v % 2 ^ w) * 2 ^ off

/-- 1 or 0. -/
def b2n (b : Bool) : Nat := if b then 1 else 0

/-- The little-endian number a list of bytes holds (R5). -/
def fromBytes : List Byte → Nat
  | [] => 0
  | b :: t => b.toNat + 256 * fromBytes t

/-- The `n` little-endian bytes of a number. -/
def toBytes : Nat → Nat → List Byte
  | 0, _ => []
  | n + 1, x => BitVec.ofNat 8 x :: toBytes n (x / 256)

/-- Ceiling division. -/
def cdiv (a b : Nat) : Nat := (a + b - 1) / b

/-- Bit `L` of a lane set. -/
def inSet (m : Word32) (L : Nat) : Bool := m.getLsbD L

/-- The lane set with exactly the lanes for which `f` holds. -/
def laneSet (f : Nat → Bool) : Word32 :=
  BitVec.ofNat 32 ((List.range 32).foldl (fun acc L => if f L then acc + 2 ^ L else acc) 0)

/-- The lanes of a set, ascending. -/
def lanesOf (m : Word32) : List Nat := (List.range 32).filter (inSet m)

/-- 32-bit lane word `L` of a register (R220). -/
def laneWord (r : VReg) (L : Nat) : Word32 := BitVec.ofNat 32 (r.toNat / 2 ^ (32 * L))

/-- A register with lane word `L` replaced. -/
def setLaneWord (r : VReg) (L : Nat) (x : Word32) : VReg :=
  BitVec.ofNat 1024 (setBits r.toNat (32 * L) 32 x.toNat)

/-- A register built lane word by lane word. -/
def ofLanes (f : Nat → Word32) : VReg :=
  BitVec.ofNat 1024 ((List.range 32).foldl (fun acc L => acc + (f L).toNat * 2 ^ (32 * L)) 0)

end Sys2Proof
end

