-- ==== Sys2Proof/Machine/Flags.lean ====
section
/-! DEFINITION. The floating-point flags of `fflags` (R47) as bits of a number, and how they combine (R48). -/

namespace Sys2Proof.Fl

/-- Inexact. -/
def nx : Nat := 1
/-- Underflow: tiny and inexact, or a flush. -/
def uf : Nat := 2
/-- Overflow. -/
def of : Nat := 4
/-- Division by zero. -/
def dz : Nat := 8
/-- Invalid operation. -/
def nv : Nat := 16

/-- Flags accumulate (R48). -/
def or (a b : Nat) : Nat := a ||| b

/-- A flag if a condition holds. -/
def when (c : Bool) (f : Nat) : Nat := if c then f else 0

end Sys2Proof.Fl
end

