-- ==== Sys2Proof/Machine/Numbers.lean ====
section
/-! DEFINITION. Element formats, their exact values, rounding, conversion and the fused dot product (R28 to R53). -/

namespace Sys2Proof

/-- The floating-point element formats (R29). -/
inductive Fmt where
  | f64 | f32 | f16 | bf16 | e5m2 | e4m3 | e3m2 | e2m3 | e2m1
  deriving DecidableEq, Repr

/-- The rounding modes of `frm`.RM (R35). -/
inductive Rm where
  | rne | rtz | rdn | rup | sr
  deriving DecidableEq, Repr

/-- The exact value of an element: a NaN (signalling or not), an infinity, or a finite value (n / d) with its sign (R29, R30). -/
inductive FVal where
  | nan (sig : Bool)
  | inf (neg : Bool)
  | fin (neg : Bool) (n d : Nat)
  deriving DecidableEq, Repr

namespace Fmt

/-- Width in bits. -/
def bits : Fmt → Nat
  | f64 => 64 | f32 => 32 | f16 => 16 | bf16 => 16 | e5m2 => 8 | e4m3 => 8 | e3m2 => 6 | e2m3 => 6 | e2m1 => 4

/-- Mantissa field bits p (R29). -/
def p : Fmt → Nat
  | f64 => 52 | f32 => 23 | f16 => 10 | bf16 => 7 | e5m2 => 2 | e4m3 => 3 | e3m2 => 2 | e2m3 => 3 | e2m1 => 1

/-- Exponent bias (R29). -/
def bias : Fmt → Nat
  | f64 => 1023 | f32 => 127 | f16 => 15 | bf16 => 127 | e5m2 => 15 | e4m3 => 7 | e3m2 => 3 | e2m3 => 1 | e2m1 => 1

/-- The format has infinities (R29). -/
def hasInf : Fmt → Bool
  | f64 => true | f32 => true | f16 => true | bf16 => true | e5m2 => true
  | e4m3 => false | e3m2 => false | e2m3 => false | e2m1 => false

/-- The encoding of the max finite value without its sign (R29). -/
def maxMag : Fmt → Nat
  | f64 => 0x7FEFFFFFFFFFFFFF | f32 => 0x7F7FFFFF | f16 => 0x7BFF | bf16 => 0x7F7F
  | e5m2 => 0x7B | e4m3 => 0x7E | e3m2 => 0x1F | e2m3 => 0x1F | e2m1 => 0x7

/-- The canonical NaN (R30); the formats without one never produce it. -/
def canonNaN : Fmt → Nat
  | f64 => 0x7FF8000000000000 | f32 => 0x7FC00000 | f16 => 0x7E00 | bf16 => 0x7FC0
  | e5m2 => 0x7E | e4m3 => 0x7F | e3m2 => 0 | e2m3 => 0 | e2m1 => 0

/-- NaN inputs of the format can be signalling (R30). -/
def ieee : Fmt → Bool
  | f64 => true | f32 => true | f16 => true | bf16 => true
  | e5m2 => false | e4m3 => false | e3m2 => false | e2m3 => false | e2m1 => false

/-- The encoding of an infinity. -/
def infBits (F : Fmt) (neg : Bool) : Nat := F.maxMag + 1 + (if neg then 2 ^ (F.bits - 1) else 0)

/-- Encoding of a magnitude with its sign. -/
def signed (F : Fmt) (neg : Bool) (mag : Nat) : Nat := mag + (if neg then 2 ^ (F.bits - 1) else 0)

/-- Exponent of the smallest normal value. -/
def emin (F : Fmt) : Int := 1 - (F.bias : Int)

end Fmt

/-- `m × 2^e` as a fraction. -/
def dyadic (neg : Bool) (m : Nat) (e : Int) : FVal :=
  if 0 ≤ e then .fin neg (m * 2 ^ e.toNat) 1 else .fin neg m (2 ^ (-e).toNat)

/-- *Decode* of R53: the exact value of an encoding. -/
def Fmt.decode (F : Fmt) (b : Nat) : FVal :=
  let neg := b.testBit (F.bits - 1)
  let mag := b % 2 ^ (F.bits - 1)
  if mag ≤ F.maxMag then
    let x := mag / 2 ^ F.p
    let m := mag % 2 ^ F.p
    if x = 0 then dyadic neg m (F.emin - F.p) else dyadic neg (2 ^ F.p + m) ((x : Int) - F.bias - F.p)
  else if F.hasInf && mag == F.maxMag + 1 then .inf neg
  else .nan (F.ieee && !(mag.testBit (F.p - 1)))

/-- *Exponent* of R53: floor (log2 (n / d)) for a non-zero fraction. -/
def fracLog2 (n d : Nat) : Int :=
  let k : Int := (n.log2 : Int) - d.log2
  if 0 ≤ k then (if n < d * 2 ^ k.toNat then k - 1 else k)
  else (if n * 2 ^ (-k).toNat < d then k - 1 else k)

/-- A fraction divided by `2^ue`: quotient, remainder and divisor. -/
def scaleDiv (n d : Nat) (ue : Int) : Nat × Nat × Nat :=
  if 0 ≤ ue then
    let dd := d * 2 ^ ue.toNat
    (n / dd, n % dd, dd)
  else
    let nn := n * 2 ^ (-ue).toNat
    (nn / d, nn % d, d)

/-- Whether the larger neighbour is chosen for quotient `q`, remainder `r` of divisor `dd` (R37, R41). -/
def roundsUp (mode : Rm) (neg : Bool) (word q r dd : Nat) : Bool :=
  match mode with
  | .rne => decide (dd < 2 * r) || (decide (2 * r = dd) && decide (q % 2 = 1))
  | .rtz => false
  | .rdn => neg && decide (r ≠ 0)
  | .rup => !neg && decide (r ≠ 0)
  | .sr => decide (2 ^ 32 ≤ r * 2 ^ 32 / dd + word)

/-- Tininess after rounding (R37): the value rounded to the format's precision without a lower exponent bound stays below the
smallest normal value. -/
def tiny (F : Fmt) (mode : Rm) (word : Nat) (neg : Bool) (n d : Nat) : Bool :=
  let e := fracLog2 n d
  if F.emin ≤ e then false
  else if e < F.emin - 1 then true
  else
    let (q, r, dd) := scaleDiv n d (e - F.p)
    let q' := if roundsUp mode neg word q r dd then q + 1 else q
    decide (q' < 2 ^ (F.p + 1))

/-- The overflow results of R37. -/
def overflowBits (F : Fmt) (mode : Rm) (sat neg : Bool) : Nat :=
  let toMax : Bool := sat ||
    (match mode with
     | .rne => false
     | .sr => false
     | .rtz => true
     | .rdn => !neg
     | .rup => neg)
  if toMax then F.signed neg F.maxMag
  else if F.hasInf then F.infBits neg
  else match F with
    | .e4m3 => F.canonNaN
    | _ => F.signed neg F.maxMag

/-- *Round* of R37 for a finite value: encoding and flags. `word` is the random word of R41. -/
def roundFin (F : Fmt) (mode : Rm) (sat : Bool) (word : Nat) (neg : Bool) (n d : Nat) : Nat × Nat :=
  if n = 0 then (F.signed neg 0, 0)
  else
    let ue := max (fracLog2 n d) F.emin - F.p
    let (q, r, dd) := scaleDiv n d ue
    let m := if roundsUp mode neg word q r dd then q + 1 else q
    let mag := (ue - (F.emin - F.p)).toNat * 2 ^ F.p + m
    if F.maxMag < mag then (overflowBits F mode sat neg, Fl.of + Fl.nx)
    else if r = 0 then (F.signed neg mag, 0)
    else (F.signed neg mag, Fl.nx + Fl.when (tiny F mode word neg n d) Fl.uf)

/-- A result that would be subnormal becomes zero of the same sign under FZ (R38). -/
def flushOut (F : Fmt) (fz : Bool) (r : Nat × Nat) : Nat × Nat :=
  let mag := r.1 % 2 ^ (F.bits - 1)
  if fz && decide (mag ≠ 0) && decide (mag < 2 ^ F.p) then (r.1 - mag, Fl.uf + Fl.nx) else r

/-- A subnormal input reads as zero of the same sign under FZ (R38). (DEDUCED, log entry 12) -/
def flushIn (F : Fmt) (fz : Bool) (b : Nat) : Nat :=
  let mag := b % 2 ^ (F.bits - 1)
  if fz && decide (mag < 2 ^ F.p) then b - mag else b

/-- *Decode* as lane instructions read an element under FZ (R38). -/
def decodeFz (F : Fmt) (fz : Bool) (b : Nat) : FVal := F.decode (flushIn F fz b)

/-- A value written to a format: NaNs canonical, infinities kept where the format has them (R30, R43). -/
def roundVal (F : Fmt) (mode : Rm) (sat fz : Bool) (word : Nat) : FVal → Nat × Nat
  | .nan _ => (F.canonNaN, 0)
  | .inf neg =>
    if F.hasInf then (F.infBits neg, 0)
    else match F with
      | .e4m3 => if sat then (F.signed neg F.maxMag, Fl.of + Fl.nx) else (F.canonNaN, 0)
      | _ => (F.signed neg F.maxMag, Fl.of + Fl.nx)
  | .fin neg n d => flushOut F fz (roundFin F mode sat word neg n d)

namespace FVal

/-- NaN of either kind. -/
def isNan : FVal → Bool
  | nan _ => true
  | _ => false

/-- Signalling NaN. -/
def isSig : FVal → Bool
  | nan true => true
  | _ => false

/-- Infinity. -/
def isInf : FVal → Bool
  | inf _ => true
  | _ => false

/-- Zero of either sign. -/
def isZero : FVal → Bool
  | fin _ 0 _ => true
  | _ => false

/-- The sign bit of a non-NaN. -/
def sign : FVal → Bool
  | nan _ => false
  | inf neg => neg
  | fin neg _ _ => neg

/-- The value with its sign inverted. -/
def neg : FVal → FVal
  | nan s => nan s
  | inf b => inf (!b)
  | fin b n d => fin (!b) n d

/-- A finite value as a signed numerator over its denominator. -/
def num (b : Bool) (n : Nat) : Int := if b then -(n : Int) else n

/-- Exact sum; `down` is the sign an exact zero of opposite operands takes (R37). Flags: NV. -/
def add (down : Bool) : FVal → FVal → FVal × Nat
  | nan a, nan b => (nan false, Fl.when (a || b) Fl.nv)
  | nan a, _ => (nan false, Fl.when a Fl.nv)
  | _, nan b => (nan false, Fl.when b Fl.nv)
  | inf a, inf b => if a == b then (inf a, 0) else (nan false, Fl.nv)
  | inf a, fin _ _ _ => (inf a, 0)
  | fin _ _ _, inf b => (inf b, 0)
  | fin a n d, fin b n' d' =>
    let z : Int := num a n * d' + num b n' * d
    if z = 0 then (fin (if a == b then a else down) 0 1, 0)
    else (fin (decide (z < 0)) z.natAbs (d * d'), 0)

/-- Exact product. Flags: NV. -/
def mul : FVal → FVal → FVal × Nat
  | nan a, nan b => (nan false, Fl.when (a || b) Fl.nv)
  | nan a, _ => (nan false, Fl.when a Fl.nv)
  | _, nan b => (nan false, Fl.when b Fl.nv)
  | inf a, inf b => (inf (a != b), 0)
  | inf a, fin b n _ => if n = 0 then (nan false, Fl.nv) else (inf (a != b), 0)
  | fin a n _, inf b => if n = 0 then (nan false, Fl.nv) else (inf (a != b), 0)
  | fin a n d, fin b n' d' => (fin (a != b) (n * n') (d * d'), 0)

/-- Exact quotient. Flags: NV, DZ. -/
def div : FVal → FVal → FVal × Nat
  | nan a, nan b => (nan false, Fl.when (a || b) Fl.nv)
  | nan a, _ => (nan false, Fl.when a Fl.nv)
  | _, nan b => (nan false, Fl.when b Fl.nv)
  | inf _, inf _ => (nan false, Fl.nv)
  | inf a, fin b _ _ => (inf (a != b), 0)
  | fin a _ _, inf b => (fin (a != b) 0 1, 0)
  | fin a n d, fin b n' d' =>
    if n' = 0 then (if n = 0 then (nan false, Fl.nv) else (inf (a != b), Fl.dz))
    else (fin (a != b) (n * d') (d * n'), 0)

/-- Ordering of two non-NaN values, with −0 equal to +0. -/
def lt : FVal → FVal → Bool
  | nan _, _ => false
  | _, nan _ => false
  | inf a, inf b => a && !b
  | inf a, fin _ _ _ => a
  | fin _ _ _, inf b => !b
  | fin a n d, fin b n' d' => decide (num a n * d' < num b n' * d)

/-- Equality of two non-NaN values, with −0 equal to +0. -/
def eq : FVal → FVal → Bool
  | nan _, _ => false
  | _, nan _ => false
  | inf a, inf b => a == b
  | inf _, fin _ _ _ => false
  | fin _ _ _, inf _ => false
  | fin a n d, fin b n' d' => decide (num a n * d' = num b n' * d)

/-- Scaled by a power of two, exactly. -/
def scale2 (x : FVal) (e : Int) : FVal :=
  match x with
  | nan s => nan s
  | inf b => inf b
  | fin b n d => if 0 ≤ e then fin b (n * 2 ^ e.toNat) d else fin b n (d * 2 ^ (-e).toNat)

end FVal

/-- Bits `k − 1` down to 0 of the integer square root of `N`, on top of `r`. -/
def isqrtBits (N : Nat) : Nat → Nat → Nat
  | 0, r => r
  | k + 1, r => isqrtBits N k (if (r + 2 ^ k) * (r + 2 ^ k) ≤ N then r + 2 ^ k else r)

/-- Integer square root. -/
def isqrt (N : Nat) : Nat := isqrtBits N (N.log2 / 2 + 1) 0

/-- A fraction whose every rounding to at most 53 bits is that of the exact root of `n / d`: the root's first bits, and
a half unit below them where it is inexact. -/
def sqrtFrac (n d : Nat) : Nat × Nat :=
  let k := 64 + d.log2
  let N := n * d * 4 ^ k
  let r := isqrt N
  if r * r = N then (r, d * 2 ^ k) else (2 * r + 1, 2 * (d * 2 ^ k))

/-- Square root of a value (R229). Flags: NV. -/
def FVal.sqrt : FVal → FVal × Nat
  | .nan a => (.nan false, Fl.when a Fl.nv)
  | .inf neg => if neg then (.nan false, Fl.nv) else (.inf false, 0)
  | .fin neg n d =>
    if n = 0 then (.fin neg 0 1, 0)
    else if neg then (.nan false, Fl.nv)
    else let r := sqrtFrac n d; (.fin false r.1 r.2, 0)

/-- A finite value rounded to an integer by a mode, and whether that was inexact (R43). -/
def roundInt (mode : Rm) (word : Nat) (neg : Bool) (n d : Nat) : Int × Bool :=
  let q := n / d
  let r := n % d
  let m := if roundsUp mode neg word q r d then q + 1 else q
  (FVal.num neg m, decide (r ≠ 0))

/-- Bounds of a `w`-bit integer format (R28). -/
def intMin (sgn : Bool) (w : Nat) : Int := if sgn then -(2 ^ (w - 1) : Nat) else 0
/-- Bounds of a `w`-bit integer format (R28). -/
def intMax (sgn : Bool) (w : Nat) : Int := if sgn then (2 ^ (w - 1) : Nat) - 1 else (2 ^ w : Nat) - 1

/-- *Saturate* of R53: the value and whether it changed. -/
def saturate (sgn : Bool) (w : Nat) (x : Int) : Int × Bool :=
  if x < intMin sgn w then (intMin sgn w, true)
  else if intMax sgn w < x then (intMax sgn w, true)
  else (x, false)

/-- The value of a `w`-bit integer element (R28). -/
def intVal (sgn : Bool) (w x : Nat) : Int := if sgn then sext w x else (x % 2 ^ w : Nat)

/-- *RoundShift* of R49. -/
def roundShift (x : Int) (n : Nat) : Int := if n = 0 then x else (x + (2 ^ (n - 1) : Nat)) / (2 ^ n : Nat)

/-- Float to integer (R43, R53): result, flags, and whether *Saturate* changed it. -/
def floatToInt (sgn : Bool) (w : Nat) (mode : Rm) (word : Nat) : FVal → Nat × Nat × Bool
  | .nan _ => (0, Fl.nv, false)
  | .inf neg => (wrap w (if neg then intMin sgn w else intMax sgn w), Fl.nv, false)
  | .fin neg n d =>
    let (x, ix) := roundInt mode word neg n d
    let (y, ch) := saturate sgn w x
    (wrap w y, Fl.when ch Fl.nv ||| Fl.when ix Fl.nx, ch)

/-- Integer to float (R43). -/
def intToFloat (F : Fmt) (mode : Rm) (sat fz : Bool) (word : Nat) (x : Int) : Nat × Nat :=
  roundVal F mode sat fz word (.fin (decide (x < 0)) x.natAbs 1)

/-- Float to float (R43). -/
def floatToFloat (F : Fmt) (mode : Rm) (sat fz : Bool) (word : Nat) (x : FVal) : Nat × Nat :=
  let r := roundVal F mode sat fz word x
  (r.1, r.2 ||| Fl.when x.isSig Fl.nv)

/-- *Rotl* of R53. -/
def rotl32 (x n : Nat) : Nat := (x * 2 ^ n ||| x / 2 ^ (32 - n)) % 2 ^ 32

/-- *Advance* of R40. -/
def sgenAdvance (s : Nat) : Nat := if s % 2 = 1 then (s / 2) ^^^ 0x80200003 else s / 2

/-- *SRWord* of R40 for a state, a lane and an element's place in its lane. -/
def srWord (state lane k : Nat) : Nat := rotl32 state ((5 * lane + 11 * k) % 32)

/-- The `.E8M0` scale applied to an element value (R32, R33). -/
def mxScale (x : FVal) (e : Nat) : FVal := if e = 255 then .nan false else x.scale2 ((e : Int) - 127)

/-- One term of a fused sum: a signed integer times a power of two. -/
structure Term where
  neg : Bool
  m : Nat
  e : Int
  deriving DecidableEq, Repr

/-- A finite value whose denominator is a power of two, as a term. -/
def FVal.term : FVal → Term
  | .fin neg n d => ⟨neg, n, -(d.log2 : Int)⟩
  | .inf neg => ⟨neg, 0, 0⟩
  | .nan _ => ⟨false, 0, 0⟩

/-- *Exponent* of a non-zero term. -/
def Term.exp (t : Term) : Int := (t.m.log2 : Int) + t.e

/-- A term truncated toward zero to a multiple of `2^u`, in units of `2^u`. -/
def Term.trunc (t : Term) (u : Int) : Int :=
  FVal.num t.neg (if u ≤ t.e then t.m * 2 ^ (t.e - u).toNat else t.m / 2 ^ (u - t.e).toNat)

/-- The largest exponent among non-zero terms. -/
def maxExp (ts : List Term) : Option Int :=
  ts.foldl (fun acc t => if t.m = 0 then acc else
    match acc with
    | none => some t.exp
    | some e => some (max e t.exp)) none

/-- *FusedDot* of R50: the FP32 result and flags. -/
def fusedDot (c : FVal) (ab : List (FVal × FVal)) : Nat × Nat :=
  let prods := ab.map (fun x => (FVal.mul x.1 x.2).1)
  let sig := c.isSig || ab.any (fun x => x.1.isSig || x.2.isSig)
  let zinf := ab.any (fun x => (x.1.isZero && x.2.isInf) || (x.1.isInf && x.2.isZero))
  if c.isNan || prods.any FVal.isNan then (Fmt.f32.canonNaN, Fl.when (sig || zinf) Fl.nv)
  else
    let terms := c :: prods
    if terms.any FVal.isInf then
      let pos := terms.any (fun t => t.isInf && !t.sign)
      let neg := terms.any (fun t => t.isInf && t.sign)
      if pos && neg then (Fmt.f32.canonNaN, Fl.nv) else (Fmt.f32.infBits neg, 0)
    else
      let ts := terms.map FVal.term
      match maxExp ts with
      | none => (Fmt.f32.signed (terms.all FVal.sign) 0, 0)
      | some emax =>
        let u := emax - 48
        let S := ts.foldl (fun acc t => acc + t.trunc u) (0 : Int)
        if S = 0 then (0, 0)
        else match dyadic (decide (S < 0)) S.natAbs u with
          | .fin neg n d => roundFin .f32 .rne false 0 neg n d
          | _ => (0, 0)

end Sys2Proof
end

