-- ==== Sys2Proof/Machine/Tab.lean ====
section
/-! DEFINITION. Reading and writing a sparse table (`Tab`): the one home of every indexed piece of state. -/

namespace Sys2Proof.Tab

/-- The entry of a key, if there is one. -/
def find {α : Type} : Tab α → Nat → Option α
  | [], _ => none
  | (k, v) :: t, i => if i = k then some v else find t i

/-- The value at a key; `d` is what an unlisted key reads as. -/
def get {α : Type} (d : α) (m : Tab α) (i : Nat) : α := (find m i).getD d

/-- The table without a key. -/
def del {α : Type} (m : Tab α) (i : Nat) : Tab α := m.filter (fun e => e.1 != i)

/-- A new key put where the order of keys wants it. -/
def ins {α : Type} (i : Nat) (x : α) : Tab α → Tab α
  | [] => [(i, x)]
  | (k, v) :: t => if i < k then (i, x) :: (k, v) :: t else (k, v) :: ins i x t

/-- Lists `x` at a key, whatever stood there. -/
def put {α : Type} (m : Tab α) (i : Nat) (x : α) : Tab α := ins i x (del m i)

/-- Writes `x` at a key, keeping the canonical form: the default is never listed. -/
def set {α : Type} [DecidableEq α] (d : α) (m : Tab α) (i : Nat) (x : α) : Tab α :=
  if x = d then del m i else put m i x

/-- Changes one listed entry; a key that is not listed stays so. -/
def upd {α : Type} (m : Tab α) (i : Nat) (f : α → α) : Tab α :=
  match find m i with
  | some x => put m i (f x)
  | none => m

/-- The keys, rising. -/
def keys {α : Type} (m : Tab α) : List Nat := m.map (·.1)

/-- The canonical form: keys strictly rise and no entry is the default. -/
def wf {α : Type} [DecidableEq α] (d : α) : Tab α → Bool
  | [] => true
  | [(_, v)] => v != d
  | (k, v) :: (k', v') :: t => v != d && decide (k < k') && wf d ((k', v') :: t)

end Sys2Proof.Tab
end

