-- ==== Sys2Proof/Syntax.lean ====
section
/-! DEFINITION. The abstract syntax: one constructor of `Instr` per row of the opcode table. -/

namespace Sys2Proof

/-- Operands of a 16-bit form: mask bit, source and destination (R63). -/
structure HF where
  m : Nat
  vs : Nat
  vd : Nat
  deriving DecidableEq, Repr

/-- Operands of format LV: second source, first source, destination, bank, predicate (R69). -/
structure LV where
  vs2 : Nat
  vs1 : Nat
  vd : Nat
  vb : Nat
  pr : Nat
  deriving DecidableEq, Repr

/-- Operands of format LW: destination, source, their indirect flags, predicate (R69). -/
structure LW where
  a : Nat
  b : Nat
  ia : Nat
  ib : Nat
  pr : Nat
  deriving DecidableEq, Repr

/-- Operands of format MV: data, index or offset, bank, base, token, predicate (R69). -/
structure MV where
  vr : Nat
  vx : Nat
  vb : Nat
  sb : Nat
  tk : Nat
  pm : Nat
  deriving DecidableEq, Repr

/-- Operands of format MA: as MV without a predicate (R69). -/
structure MA where
  vr : Nat
  vx : Nat
  vb : Nat
  sb : Nat
  tk : Nat
  deriving DecidableEq, Repr

/-- Where the front end places one cohort of a team (R96): core, cohort index on it, and the first free core group
indices its groups receive, one each. -/
structure CohortPlace where
  core : Nat
  cidx : Nat
  groups : List Nat
  deriving DecidableEq, Repr

/-- A fabric packet as its receiver decodes it (R367): source and target rank, path, end-to-end number and floor, tenant id,
offset, operation or refusal cause, size in bytes, data, the counts of a flag store. -/
structure Pkt where
  src : Nat
  dst : Nat
  path : Nat
  num : Nat
  floor : Nat
  tenant : Nat
  off : Nat
  op : Nat
  size : Nat
  data : List Byte
  counts : List Nat
  deriving DecidableEq, Repr

/-- What the device-side kernel on the host cores writes (R334, R350, R354, R401, R404). -/
inductive HostStore where
  /-- Bytes at a physical address: queue tables, page tables, ASID tables. -/
  | bytes (pa : Nat) (data : List Byte)
  /-- The binding of a partition's ASID to a GASID, or none. -/
  | bind (part asid : Nat) (gasid : Option Nat)
  /-- An ASID's frame quota. -/
  | quota (part asid n : Nat)
  /-- A global address space: member ranks, key, bucket table as member indices, tenants admitted. -/
  | space (gasid : Nat) (members : List Nat) (key : Nat) (buckets : List Nat) (tenants : List Nat)
  /-- A directory record of a page with its home: HKIND and HOMEID. -/
  | record (gasid vpn kind home : Nat)
  /-- The first record of the decline queue taken. -/
  | takeDecline
  /-- An ASID given to a new address space with its level-3 table (R161). -/
  | giveAsid (part asid root : Nat)
  /-- Bytes written into the Meridian mailbox at an offset (R355). -/
  | mailbox (off : Nat) (data : List Byte)
  deriving DecidableEq, Repr

/-- How a reply to Meridian reads (R342, R348). -/
inductive MerReply where
  /-- The directory has served a request no shipment of a holder follows: the STATE the device's entry takes (1, 3, or 4 + 16 × READERS;
  2: it no longer holds the page; 0: a mailbox command is complete) and the page's home, 65536 × HKIND + HOMEID. -/
  | granted (state home : Nat)
  /-- As `granted`, the data to be read from the page's home, a storage server. -/
  | readFrom (state home : Nat)
  /-- A reader addition was accepted, or refused because the VERSION had moved on. -/
  | added (ok : Bool)
  | notHere
  /-- The directory declines: no record, no binding or tenant not admitted; or the home reported an uncorrectable error. -/
  | declined (reason : Nat)
  deriving DecidableEq, Repr

/-- What a `MIGRATION_CUTOVER` reaches (R358): the old home, when every line has been copied; the directory, with the new home, the
VERSION the old home knew and the sender; the new home, with the record's VERSION and the STATE its entry takes. -/
inductive Cutover where
  | oldHome
  | directory (home rank tenant ver : Nat)
  | newHome (ver state : Nat)
  deriving DecidableEq, Repr

/-- A page of Meridian, by the space it belongs to and its number in it (R334). -/
structure PageRef where
  gasid : Nat
  vpn : Nat
  deriving DecidableEq, Repr

/-- Who sends the directory a message (R342, R349). -/
structure Asker where
  rank : Nat
  tenant : Nat
  deriving DecidableEq, Repr

/-- How a rank learns that its gang has ended (R108, R356, R395, R399): it lost contact; a part failed with a status code, with the trap
registers of a fatal trap; the gang was killed after a decline, with its reason code and page address. -/
inductive GangWhy where
  | lost
  | failed (status : Nat) (rec : List Word64)
  | killed (reason page : Nat)
  deriving DecidableEq, Repr

/-- A gang, and how it has ended. -/
structure GangEnd where
  gang : Nat
  why : GangWhy
  deriving DecidableEq, Repr

/-- A tick of a partition's account with the energy its rails have been metered for since the last metering, in mJ (R411). -/
structure EnergyMeter where
  part : Nat
  mj : Nat
  deriving DecidableEq, Repr

/-- A sample of the sensors (R407): temperatures of the clusters in eighths of a degree, currents of the voltage rails. -/
structure Sample where
  temps : List Int
  amps : List Int
  deriving DecidableEq, Repr

/-- Fatal errors beside a Shutdown temperature and the watchdog (R414): a cluster held Critical; firmware or Meridian state with an
uncorrectable error. -/
inductive FatalErr where
  | critical (c : Nat)
  | badState
  deriving DecidableEq, Repr

/-- What a `DIRECTORY_RELEASE` says: the VERSION of the copy given up (R353), or that a replica is removed because it did not confirm a lock
(R175): its rank. -/
structure Leaving where
  ver : Nat
  removed : Option Nat
  deriving DecidableEq, Repr

/-- A holder's acknowledgement: the VERSION it answers, and the reason it cannot do its part, or 0 (R342, R345). -/
structure DirAnswer where
  ver : Nat
  reason : Nat
  deriving DecidableEq, Repr

/-- A channel of a cohort (R296). -/
structure ChanRef where
  cid : Nat
  ch : Nat
  deriving DecidableEq, Repr

/-- THE INSTRUCTION SET: one constructor per row of the opcode table: the 119 rows that are events of the machine's agents (they have
no encoding and `decode` never yields one), then the 325 encoded rows in the table's order of families. -/
inductive Instr where
  /-- MATRIX_STEP_PERFORM (R259): The engine performs one step of a step or loop at its place in the z-tile order, clearing the token after the last step. -/
  | matrixStepPerform (cid : Nat) (zt : Nat) (errs : List (Nat × Nat))
  /-- ZTILE_ACCESS_PERFORM (R265): A pending MXRDZ or MXWRZ is performed at its place in the z-tile order. -/
  | ztileAccessPerform (cid : Nat) (zt : Nat) (errs : List (Nat × Nat))
  /-- TEAM_TRANSFER_ARRIVAL (R266): A team transfer arrives at the owning core and is applied to the target z-tile. -/
  | teamTransferArrival (gid : Nat) (pid : Nat) (errs : List (Nat × Nat))
  /-- ZTILE_QUEUE_ROOM (R250): A ninth z-tile instruction is accepted once one of the cohort's eight completes. -/
  | ztileQueueRoom (gid : Nat)
  /-- WAVELET_REQUEST_DONE (R284): A wavelet instruction's bank requests complete, writing registers, tags, masks or memory and clearing its token. -/
  | waveletRequestDone (gid : Nat) (pid : Nat)
  /-- LATTICE_WRITE_PERFORM (R323): The lattice unit performs a queued LJOIN or LPUT element on the local replica. -/
  | latticeWritePerform (gid : Nat) (pid : Nat)
  /-- LWAIT_TIMEOUT (R326): An LWAIT timeout of c clocks expires; value and TO status written, token cleared. -/
  | lwaitTimeout (gid : Nat) (pid : Nat)
  /-- LATTICE_QUEUE_ROOM (R322): A lattice instruction finding the 64-entry port queue full is accepted at end of run once room exists. -/
  | latticeQueueRoom (gid : Nat)
  /-- EXCHANGE_ROUND_START (R316): Period timer expiry or forced request starts a round: snapshots of changed lines taken and change bits cleared. -/
  | exchangeRoundStart (part : Nat)
  /-- EXCHANGE_TRANSFER_ARRIVAL (R317): A partner's snapshot arrives and is joined cell by cell into the replica. -/
  | exchangeTransferArrival (part : Nat) (i : Nat)
  /-- LATTICE_PAGE_CLEAR (R330): After any round in progress ends, every replica writes the bottom into each cell and clears change bits. -/
  | latticePageClear (part : Nat)
  /-- LOAD_DATA_ARRIVAL (R201): Data of a pending load arrives; destination elements and policies are written and the token clears. -/
  | loadDataArrival (gid : Nat) (pid : Nat) (bad : List Nat) (addr : Nat)
  /-- ATOMIC_PERFORM (R210): A pending atomic is performed where R172 places it, returning old values and clearing the token. -/
  | atomicPerform (gid : Nat) (pid : Nat)
  /-- CBLOAD_TABLE_WRITE (R218): A CBLOAD writes its slot once earlier expansions finish, releasing waiting LDCBs. -/
  | cbloadTableWrite (core : Nat) (k : Nat)
  /-- CBLOAD_QUEUE_ROOM (R218): A third CBLOAD to a slot is accepted at end of run once one earlier CBLOAD is written. -/
  | cbloadQueueRoom (gid : Nat)
  /-- STORE_QUEUE_ROOM (R186): A store finding the 64-entry group store queue full is accepted once room exists. -/
  | storeQueueRoom (gid : Nat)
  /-- COHERENCE_REQUEST (R168): A transient token-counting request arrives at an agent or home and is served. -/
  | coherenceRequest (agent : Nat) (line : Nat) (excl : Bool)
  /-- TRANSIENT_REQUEST_TIMEOUT (R169): A transient request not satisfied in 512 clk is retried, becoming persistent after 4 failures. -/
  | transientRequestTimeout (agent : Nat) (line : Nat) (excl : Bool)
  /-- REGION_MERGE (R170): Sibling regions without conflict for 100 us merge. -/
  | regionMerge (base : Nat) (size : Nat)
  /-- LOCK_UPDATE_ARRIVAL (R174): A locked-replica store's lock or write arrives at a replica, locking or updating and unlocking the line. -/
  | lockUpdateArrival (gasid : Nat) (vpn : Nat) (off : Nat) (writer : Nat) (id : Nat) (data : Option (List Byte))
  /-- WRITER_LOCK_TIMEOUT (R175): Writer's 2 us timer expires; the store completes on confirmed replicas and others are removed. -/
  | writerLockTimeout (id : Nat)
  /-- REPLICA_LOCK_TIMEOUT (R175): Replica's 2 us lock timer expires; the entry becomes ABSENT-REMOTE and stalled loads released. -/
  | replicaLockTimeout (gasid : Nat) (vpn : Nat) (off : Nat)
  /-- COPY_CHUNK_DELIVERY (R303): A chunk becomes visible at its destination, advancing wp.POS and counting down the barrier. -/
  | copyChunkDelivery (cid : Nat) (ch : Nat) (ecc : Bool)
  /-- WEIGHT_PAGE_CHECK (R310): A weight page's hash and tree path are checked; pass delivers it, failure poisons and raises HASH. -/
  | weightPageCheck (chan : ChanRef) (ecc : Bool)
  /-- COPY_SLOT_FREE (R297): A copy that found every slot taken is accepted once a slot frees. -/
  | copySlotFree (gid : Nat)
  /-- SLOT_PICK (R99): At a run boundary the slot picks one ready group by overdue, priority, role, age and index and issues its run. -/
  | slotPick (sl : Nat)
  /-- ASYNC_CONDITION_DELIVERY (R110): A condition from asynchronous work is delivered as a trap at the first run boundary of the group's slot. -/
  | asyncConditionDelivery (gid : Nat)
  /-- GROUP_RELEASE (R128): An ended group's last token clears; its window, slot and save area are released and completion may be recorded. -/
  | groupRelease (gid : Nat) (mj : Nat)
  /-- PREEMPTION (R113): Pre-emption of a gang or team: issue stops, runs in progress complete and save areas are written. -/
  | preemption (lid : Nat) (team : Option Nat)
  /-- RESTORE (R118): A pre-empted team is placed again and its saved state, held stores and tokens restored. -/
  | restore (lid : Nat) (team : Nat) (place : List CohortPlace)
  /-- GANG_SUSPEND (R114): Privileged suspension of a gang by the device-side kernel or host. -/
  | gangSuspend (lid : Nat)
  /-- FAULT_QUEUE_ROOM (R337): An access waiting for a full die fault queue is admitted when a record frees. -/
  | faultQueueRoom (die : Nat)
  /-- DIRECTORY_READ_REQUEST (R343): A read request is served at the directory record in arrival order. -/
  | directoryReadRequest (page : PageRef) (rank : Nat) (tenant : Nat) (supplied : Bool)
  /-- DIRECTORY_WRITE_REQUEST (R343): A write request is served at the directory, invalidating other holders. `mode` 1: of a page supplied
  as EXCL owner (R355); 2: a store to a locked replica asks for its turn (R174). -/
  | directoryWriteRequest (page : PageRef) (rank : Nat) (tenant : Nat) (mode : Nat)
  /-- DIRECTORY_RELEASE (R343): A release by eviction or PAGEREL is served at the directory. -/
  | directoryRelease (page : PageRef) (asker : Asker) (left : Leaving)
  /-- REPLICATE_REQUEST (R347): The directory serves REPLICATE, making the page LOCKED-REPLICA on a set. -/
  | replicateRequest (page : PageRef) (rank : Nat) (tenant : Nat) (set : Nat)
  /-- UNREPLICATE_REQUEST (R347): The directory serves UNREPLICATE, returning the page to its home. -/
  | unreplicateRequest (page : PageRef) (rank : Nat) (tenant : Nat)
  /-- READER_ADDITION (R348): A candidate's reader addition arrives at the directory and is accepted or refused by VERSION. -/
  | readerAddition (page : PageRef) (reader : Nat) (rank : Nat) (tenant : Nat) (ver : Nat)
  /-- PROBE (R348): A read probe arrives at a candidate, served as a forwarded request or answered NOT-HERE. -/
  | probe (gasid : Nat) (vpn : Nat) (rank : Nat) (tenant : Nat)
  /-- NOT_HERE_REPLY (R349): The NOT-HERE reply leaves exactly 2.0 us after the probe arrived. -/
  | notHereReply (id : Nat)
  /-- INVALIDATION (R345): A device gives up or ships its copy: TRANSIT, shoot-down, token gathering, shipment, final entry. -/
  | invalidation (page : PageRef) (ver : Nat) (ship : Option Nat) (final : Nat) (home : Nat) (owner : Option Nat)
  /-- PAGE_SHIPMENT_ARRIVAL (R338): Page data arrive; the frame is installed and the entry set TRANSIT with FRAME. -/
  | pageShipmentArrival (gasid : Nat) (vpn : Nat) (ver : Nat) (state : Nat) (hc : Bool) (home : Nat) (data : List Byte)
  /-- RECORD_REPLAY (R339): One chained record is replayed completely; when the chain empties the final state is written. -/
  | recordReplay (gasid : Nat) (vpn : Nat)
  /-- WRITE_BACK_ARRIVAL (R352): A written-back page arrives at its home, which acknowledges. -/
  | writeBackArrival (gasid : Nat) (vpn : Nat) (rank : Nat) (ver : Nat) (data : List Byte)
  /-- WRITE_BACK_ACK (R352): The home's acknowledgement frees the frame and sets the entry ABSENT-REMOTE. -/
  | writeBackAck (gasid : Nat) (vpn : Nat)
  /-- FILTER_ADDITION (R348): A member's presence-filter additions arrive by ordered delivery. -/
  | filterAddition (gasid : Nat) (member : Nat) (keys : List Nat) (rebuilt : Bool)
  /-- FILTER_REBUILD (R348): Every 10 ms a member publishes a rebuilt presence filter. -/
  | filterRebuild (gasid : Nat)
  /-- MERIDIAN_ATTEMPT_TIMEOUT (R353): A Meridian operation attempt times out and is retried on another port. -/
  | meridianAttemptTimeout (gasid : Nat) (vpn : Nat)
  /-- DECLINE_QUEUE_ROOM (R354): A decline record waiting in Meridian enters the queue once room exists. -/
  | declineQueueRoom
  /-- FRAME_WAIT_TIMEOUT (R351): No frame could be chosen for 1 ms; the resolution is declined with reason 0x06. -/
  | frameWaitTimeout (gasid : Nat) (vpn : Nat)
  /-- SUPPLY (R355): Mailbox command installing a kernel-supplied frame and resuming the resolution. -/
  | supply (handle : Nat) (frame : Nat) (flags : Nat)
  /-- RETRY (R355): Mailbox command restarting the failed operation with fresh attempts. -/
  | retry (handle : Nat)
  /-- REFUSE (R355): Mailbox command ending chained copies with CODE 0x04 and killing other records' gangs. -/
  | refuse (handle : Nat)
  /-- KILL (R355): Mailbox command ending the gang of the declined record's group. -/
  | kill (handle : Nat)
  /-- REPLICATE (R347): Mailbox command sending a REPLICATE request for a page and member set. -/
  | replicate (gasid : Nat) (vpn : Nat) (set : Nat)
  /-- UNREPLICATE (R347): Mailbox command sending an UNREPLICATE request for a page. -/
  | unreplicate (gasid : Nat) (vpn : Nat)
  /-- PAGE_MIGRATION (R358): Kernel-initiated move of a page's home: the old home copies lines while the page stays in use. -/
  | pageMigration (page : PageRef) (home : Nat) (lines : Nat) (arrived : Option (Nat × List (BitVec 8)))
  /-- MIGRATION_CUTOVER (R358): Old home goes TRANSIT, re-copies marked lines and updates HOMEID at the directory. -/
  | migrationCutover (page : PageRef) (role : Cutover)
  /-- HEAD (R366): Receipt of a HEAD flit opening a packet, checked, decoded and acknowledged or rejected. -/
  | head (port : Nat) (seq : Nat) (c : Bool) (good : Bool) (payload : List Byte)
  /-- BODY (R366): Receipt of a BODY flit continuing the open packet. -/
  | body (port : Nat) (seq : Nat) (c : Bool) (good : Bool) (payload : List Byte)
  /-- ACK (R366): Receipt of an ACK flit releasing retry-buffer images. -/
  | ack (port : Nat) (num : Nat)
  /-- RETRY_FLIT (R365): Receipt of a RETRY request; the sender resends the named image and all later ones. -/
  | retryFlit (port : Nat) (num : Nat)
  /-- CREDIT (R366): Receipt of a CREDIT flit updating freed-flit counts. -/
  | credit (port : Nat) (c0 : Nat) (c1 : Nat)
  /-- TRAIN (R366): Receipt of a training flit during link training. -/
  | train (port : Nat)
  /-- IDLE (R366): Receipt of an IDLE flit. -/
  | idle (port : Nat)
  /-- LANE_LOCK_LOSS (R369): A lane loses lock and its link goes down. -/
  | laneLockLoss (port : Nat)
  /-- LINK_TRAINED (R369): A link completes retraining with empty tables and sequence 0. -/
  | linkTrained (port : Nat)
  /-- ACK_TIMER (R366): 0.5 us timer forcing an ACK while accepted flits are unacknowledged. -/
  | ackTimer (port : Nat)
  /-- CREDIT_TIMER (R366): 1 us timer forcing a CREDIT while credits are owed. -/
  | creditTimer (port : Nat)
  /-- LOAD_REQUEST (R373): A space-1 load request arrives at the target and is served, replied or refused. -/
  | loadRequest (p : Pkt)
  /-- STORE_REQUEST (R373): A space-1 store arrives, filtered by end-to-end number, performed once and acknowledged. -/
  | storeRequest (p : Pkt)
  /-- ATOMIC_REQUEST (R373): A space-1 atomic arrives and is performed once at its switch atomic unit. -/
  | atomicRequest (p : Pkt)
  /-- FLAG_STORE (R381): A flag store arrives and is held until the performed counts pass its counts. -/
  | flagStore (p : Pkt)
  /-- FLAG_STORE_RELEASE (R381): A held flag store's counts are satisfied and it is performed. -/
  | flagStoreRelease (src : Nat) (num : Nat)
  /-- FLOOR_NOTICE (R377): A floor notice arrives, closing the abandoned number, and is acknowledged. -/
  | floorNotice (p : Pkt)
  /-- LOAD_REPLY (R373): A load reply arrives at the source with the bytes read. -/
  | loadReply (p : Pkt)
  /-- ACKNOWLEDGEMENT (R374): An acknowledgement arrives, resolving the request's number. -/
  | acknowledgement (p : Pkt)
  /-- ATOMIC_REPLY (R383): An atomic reply arrives with the old value, distributed over a reduced set. -/
  | atomicReply (p : Pkt)
  /-- REFUSAL (R371): A refusal arrives; loads and atomics get all ones and REJ is recorded. -/
  | refusal (p : Pkt)
  /-- REFUSAL_SEND (R371): A tenant refusal leaves the target 2.0 us after arrival. -/
  | refusalSend (id : Nat)
  /-- E2E_ATTEMPT_TIMEOUT (R374): An 8 us attempt timeout retransmits on another path or, after 4 attempts, abandons. -/
  | e2eAttemptTimeout (rank : Nat) (num : Nat)
  /-- E2E_WINDOW_ROOM (R373): A request waiting for the 4,096-number window is transmitted once the floor advances. -/
  | e2eWindowRoom (rank : Nat)
  /-- QUEUE_DOORBELL (R391): A write to a valid queue's WPTR line reaches the front end, mapping the queue if needed. -/
  | queueDoorbell (part : Nat) (q : Nat)
  /-- PACKET_ADMISSION (R392): The front end reads, checks and admits a head packet, placing all its teams or refusing it. -/
  | packetAdmission (part : Nat) (q : Nat) (bad : Bool) (place : List (List CohortPlace))
  /-- ADMISSION_WAIT_TIMEOUT (R392): A head packet waiting 10 ms blocks lower-ranked packets and holds freed resources. -/
  | admissionWaitTimeout (part : Nat) (q : Nat)
  /-- RESERVE (R399): A gang reservation arrives at a rank, which grants and holds or refuses at once. -/
  | reserve (gang : Nat) (part : Nat) (asid : Nat) (addr : Nat) (pkt : List Byte) (place : List (List CohortPlace))
  /-- GRANT (R399): A rank's grant or refusal reaches the coordinator. -/
  | grant (gang : Nat) (rank : Nat) (ok : Bool)
  /-- COMMIT (R399): Commit with a common start time arrives at a rank. -/
  | commit (gang : Nat) (start : Nat)
  /-- ROLLBACK (R399): Rollback arrives; the reservation is released. -/
  | rollback (gang : Nat)
  /-- GANG_RESERVE_TIMEOUT (R399): Not every rank granted within 200 us; rollback is sent. -/
  | gangReserveTimeout (gang : Nat)
  /-- GANG_RETRY_TIMER (R399): Retry delay expires; the gang is reserved again or refused after 10 ms. -/
  | gangRetryTimer (gang : Nat) (place : List (List CohortPlace))
  /-- GANG_START (R399): The committed start time arrives and the part starts. -/
  | gangStart (gang : Nat)
  /-- ENERGY_TICK (R411): 1 ms tick: debits, refill, then admission tests against the account. -/
  | energyTick (tick : EnergyMeter)
  /-- NPART_WRITE (R403): Write of PCFG.NPART pre-empts every gang and rebuilds the partitions. -/
  | npartWrite (n : Nat)
  /-- SPLIT_REGISTER_WRITE (R167): Write of a die's PV split moves die-SRAM ways between LLC and program-visible use. -/
  | splitRegisterWrite (die : Nat) (v : Nat)
  /-- REGISTER_WRITE (R7): Write to a configuration or management register without behaviour of its own. -/
  | registerWrite (off : Nat) (v : Nat)
  /-- SENSOR_SAMPLE (R407): 1 ms sensor sampling, classifying each cluster's thermal level. -/
  | sensorSample (x : Sample)
  /-- HOT_HOLD_TIMEOUT (R412): A cluster held Hot for 10 ms requests thermal migration. -/
  | hotHoldTimeout (c : Nat)
  /-- THERMAL_MIGRATION (R413): A migration request moves the longest-resident qualifying team or is retried every 1 ms. -/
  | thermalMigration (c : Nat) (place : List CohortPlace)
  /-- CLOCK_STEP_DOWN (R412): Every 1 ms a Critical cluster's clock is lowered by 10 % down to 50 %. -/
  | clockStepDown (c : Nat)
  /-- CLOCK_STEP_UP (R412): After 10 ms below 95 C the clock is raised again in steps. -/
  | clockStepUp (c : Nat)
  /-- CRITICAL_TIMEOUT (R412): A cluster still Critical after 100 ms at 50 % is a fatal error. -/
  | criticalTimeout (e : FatalErr)
  /-- WATCHDOG_EXPIRY (R414): The 100 ms firmware watchdog expires, a fatal error. -/
  | watchdogExpiry
  /-- FIRMWARE_IMAGE_WRITE (R409): Host writes a firmware image into the inactive slot, which Nadir verifies. -/
  | firmwareImageWrite (ver : Nat) (sigOk : Bool)
  /-- ANTI_ROLLBACK_RAISE (R409): Host request raising the anti-rollback value to the new version. -/
  | antiRollbackRaise
  /-- DUMPCLR (R416): Writing 1 releases the kept dump region for scrubbing. -/
  | dumpclr
  /-- POWER_UP (R417): Rail good starts the power-up sequence of boot, firmware selection, training, scrub and kernel boot. -/
  | powerUp (reached : Bool)
  /-- TLB_INVALIDATION_COMPLETE (R150): A TLBI.VA or TLBI.ASID invalidation finishes in every TLB and walk cache of the partition, satisfying the issuing group's wait condition. -/
  | tlbInvalidationComplete (gid : Nat)
  /-- REPLICA_CONFIRMATION (R175): A replica's confirmation of a locked-replica store's step reaches the writer, and the store is performed once every replica has confirmed. -/
  | replicaConfirmation (id : Nat) (rank : Nat)
  /-- MERIDIAN_REPLY (R342): A directory reply, an acceptance or refusal of a reader addition, or a NOT-HERE answer arrives at the requesting Meridian and is acted on or discarded by VERSION. -/
  | meridianReply (gasid : Nat) (vpn : Nat) (ver : Nat) (reply : MerReply)
  /-- DIRECTORY_ACKNOWLEDGEMENT (R345): A holder's or replica member's acknowledgement reaches the directory rank, which completes the pending request or REPLICATE once all are in. -/
  | directoryAcknowledgement (page : PageRef) (rank : Nat) (answer : DirAnswer)
  /-- UNKNOWN_KIND_FLIT (R366): A flit with a good CRC and a kind from 7 to 31 is received, discarded as rejected, and a retry request for the expected number follows. -/
  | unknownKindFlit (port : Nat)
  /-- REACHABILITY_REPORT (R370): A plane's switches report a target rank reachable or unreachable, making a path live or not live and releasing an attempt that fell due while no path was live. -/
  | reachabilityReport (plane : Nat) (rank : Nat) (up : Bool)
  /-- GANG_CONTACT_LOST (R399): A rank loses contact with its gang after commit and fails its part, which fails every part of the gang. -/
  | gangContactLost (x : GangEnd)
  /-- BAR2_WINDOW_ACCESS (R402): A host read or write through a function's BAR2 window performs a system-scope memory event on the partition's device-virtual space. -/
  | bar2WindowAccess (part : Nat) (va : Nat) (w : Option (List Byte))
  /-- HOST_CORE_STORE (R401): The device-side kernel on the host cores writes queue tables, page tables, ASID tables, GASID bindings, quotas or the decline queue in memory. -/
  | hostCoreStore (h : HostStore)
  /-- LOG_ENTRY_FLASH_WRITE (R408): An event-log entry finishes writing to the management flash, after which a pending root-slot write is performed and its CPROOT token clears. -/
  | logEntryFlashWrite
  /-- POWER_LOSS (R416): The supply rails are lost, and HBM and every volatile state lose their contents. -/
  | powerLoss
  /-- DEVICE_RESET (R414): A reset of the device ends a halt after a fatal error, zeroes the counters and reruns power-up while keeping a valid dump region. -/
  | deviceReset
  /-- RUN_HEAD (R57): Run head that opens a run, giving its body length, awaited tokens, PARK and TMP. -/
  | runHead (t : Nat) (p : Nat) (a : Nat) (l : Nat)
  /-- PAD (R59): Canonical pad halfword, executed as a no-operation. -/
  | pad
  /-- VMOV (R227): 16-bit move of vs to vd on active words, copying the source sidecars. -/
  | vmov (f : HF)
  /-- VADD_I32_16BIT (R227): 16-bit wrapping 32-bit integer add, vd := vd + vs. -/
  | vaddI32H (f : HF)
  /-- VSUB_I32_16BIT (R227): 16-bit wrapping 32-bit integer subtract. -/
  | vsubI32H (f : HF)
  /-- VMUL_I32_16BIT (R227): 16-bit low-half 32-bit integer multiply. -/
  | vmulI32H (f : HF)
  /-- VAND_16BIT (R227): 16-bit bitwise AND of words. -/
  | vandH (f : HF)
  /-- VOR_16BIT (R227): 16-bit bitwise OR of words. -/
  | vorH (f : HF)
  /-- VXOR_16BIT (R227): 16-bit bitwise XOR of words. -/
  | vxorH (f : HF)
  /-- VSHL_I32_16BIT (R227): 16-bit left shift of words by vs mod 32. -/
  | vshlI32H (f : HF)
  /-- VSRA_I32_16BIT (R227): 16-bit arithmetic right shift of words by vs mod 32. -/
  | vsraI32H (f : HF)
  /-- VADD_F32_16BIT (R227): 16-bit FP32 add of words. -/
  | vaddF32H (f : HF)
  /-- VSUB_F32_16BIT (R227): 16-bit FP32 subtract of words. -/
  | vsubF32H (f : HF)
  /-- VMUL_F32_16BIT (R227): 16-bit FP32 multiply of words. -/
  | vmulF32H (f : HF)
  /-- VMAX_F32_16BIT (R227): 16-bit FP32 maximum of words. -/
  | vmaxF32H (f : HF)
  /-- VMIN_F32_16BIT (R227): 16-bit FP32 minimum of words. -/
  | vminF32H (f : HF)
  /-- VADD_BF16X2_16BIT (R227): 16-bit packed BF16 pair add. -/
  | vaddBf16x2H (f : HF)
  /-- VMUL_BF16X2_16BIT (R227): 16-bit packed BF16 pair multiply. -/
  | vmulBf16x2H (f : HF)
  /-- NOP (R127): System no-operation. -/
  | nop
  /-- EXIT (R127): Live lanes of the active set exit, becoming helper or exited lanes. -/
  | exit
  /-- TRET (R107): Leaves the trap handler, resuming at tepc or returning to a kept wait. -/
  | tret
  /-- BREAK (R127): Raises BREAK with the given code in tcause.DETAIL. -/
  | brk (i : Nat)
  /-- WAITDEP (R101): Wait instruction until every producer launch is triggered; acquire at gang scope on completion. -/
  | waitdep
  /-- TRIGGER (R101): Marks the group triggered, acting as a gang-scope release. -/
  | trigger
  /-- TKRD (R127): Reads a snapshot of the group's pending tokens into a scalar. -/
  | tkrd (a : Nat)
  /-- BRA (R123): Unconditional branch to W + OFF. -/
  | bra (o : Int)
  /-- CALL (R123): Call: writes the next run's word index into the link register and branches. -/
  | call (o : Int) (l : Nat)
  /-- BRM (R124): Per-lane branch where the lane's mask bit is 1. -/
  | brm (o : Int) (k : Nat)
  /-- BRMZ (R124): Per-lane branch where the lane's mask bit is 0. -/
  | brmz (o : Int) (k : Nat)
  /-- BRANY (R124): Branch of the whole active set if any active lane's mask bit is 1. -/
  | brany (o : Int) (k : Nat)
  /-- BRALL (R124): Branch of the whole active set if every active lane's mask bit is 1. -/
  | brall (o : Int) (k : Nat)
  /-- BNZ (R125): Uniform branch if the scalar is non-zero. -/
  | bnz (o : Int) (c : Nat)
  /-- BZ (R125): Uniform branch if the scalar is zero. -/
  | bz (o : Int) (c : Nat)
  /-- JMP (R126): Indirect jump to the word index held in a scalar. -/
  | jmp (a : Nat)
  /-- JMPV (R126): Per-lane indirect jump to word L of a vector (RET is its alias). -/
  | jmpv (a : Nat)
  /-- CALLI (R126): Indirect call to a scalar target, writing the link per lane. -/
  | calli (a : Nat) (b : Nat)
  /-- CALLV (R126): Per-lane indirect call to word L of a vector, writing the link. -/
  | callv (a : Nat) (b : Nat)
  /-- SETVL (R139): Sets vtype from an immediate and vl := min(sN, VLMAX), returning vl. -/
  | setvl (d : Nat) (n : Nat) (p : Nat) (g : Nat) (e : Nat)
  /-- SETVLR (R139): Sets vtype from a scalar and vl := min(sN, VLMAX), returning vl. -/
  | setvlr (d : Nat) (n : Nat) (c : Nat)
  /-- MAND (R141): Mask AND. -/
  | mand (d : Nat) (a : Nat) (b : Nat)
  /-- MOR (R141): Mask OR. -/
  | mor (d : Nat) (a : Nat) (b : Nat)
  /-- MXOR (R141): Mask XOR. -/
  | mxor (d : Nat) (a : Nat) (b : Nat)
  /-- MANDN (R141): Mask AND NOT. -/
  | mandn (d : Nat) (a : Nat) (b : Nat)
  /-- MORN (R141): Mask OR NOT. -/
  | morn (d : Nat) (a : Nat) (b : Nat)
  /-- MNOT (R141): Mask NOT. -/
  | mnot (d : Nat) (a : Nat)
  /-- MMOV (R141): Mask move. -/
  | mmov (d : Nat) (a : Nat)
  /-- MVL (R141): Sets mask bits below vl. -/
  | mvl (d : Nat)
  /-- MACT (R141): Writes the active-set lane mask. -/
  | mact (d : Nat)
  /-- MPOP (R141): Counts the one bits of a mask into a scalar. -/
  | mpop (d : Nat) (a : Nat)
  /-- MFIRST (R141): Index of the lowest set mask bit, or all ones. -/
  | mfirst (d : Nat) (a : Nat)
  /-- MRDS (R141): Reads 64 bits of a mask into a scalar. -/
  | mrds (d : Nat) (a : Nat) (k : Nat)
  /-- MWRS (R141): Writes 64 bits of a mask from a scalar. -/
  | mwrs (d : Nat) (b : Nat) (k : Nat)
  /-- BAR_ARRIVE (R142): Arrives on a barrier, adding bytes to PEND and returning the ticket; cohort-scope release. -/
  | barArrive (a : Nat) (b : Nat) (c : Nat)
  /-- BAR_CHARGE (R142): Adds a byte count to a barrier's PEND. -/
  | barCharge (a : Nat) (b : Nat)
  /-- BAR_WAIT (R142): Wait instruction until the barrier's GEN has passed the ticket. -/
  | barWait (a : Nat) (b : Nat)
  /-- STG_ARRIVE (R146): Inverts the phase of a stage-ring stage. -/
  | stgArrive (n : Nat) (k : Nat)
  /-- STG_WAIT (R146): Wait instruction until a stage's phase equals the expected value. -/
  | stgWait (n : Nat) (k : Nat) (p : Nat)
  /-- CSRR (R149): Reads a control register into a scalar. -/
  | csrr (a : Nat) (n : Nat)
  /-- CSRW (R149): Writes a control register, with the special behaviour of vtype, barrier and other registers. -/
  | csrw (a : Nat) (n : Nat)
  /-- CSRSET (R149): ORs a scalar into the RW fields of a control register. -/
  | csrset (a : Nat) (n : Nat)
  /-- CSRCLR (R149): Clears bits of the RW fields of a control register. -/
  | csrclr (a : Nat) (n : Nat)
  /-- RDTS (R149): Reads a saved trap temporary into a vector register. -/
  | rdts (a : Nat) (n : Nat)
  /-- WRTS (R149): Writes a saved trap temporary from a vector register. -/
  | wrts (a : Nat) (n : Nat)
  /-- RDVPC (R149): Reads every lane's PC into a vector register. -/
  | rdvpc (a : Nat)
  /-- TLBI_VA (R150): Privileged invalidation of one page's translations in the partition; wait until complete. -/
  | tlbiVa (a : Nat) (b : Nat)
  /-- TLBI_ASID (R150): Privileged invalidation of every translation of an ASID; wait until complete. -/
  | tlbiAsid (a : Nat)
  /-- PTSYNC (R150): Makes the group's page-table stores visible to later walks. -/
  | ptsync
  /-- ADD (R130): Scalar add. -/
  | add (d : Nat) (a : Nat) (b : Nat)
  /-- SUB (R130): Scalar subtract. -/
  | sub (d : Nat) (a : Nat) (b : Nat)
  /-- MUL (R130): Scalar multiply, low 64 bits. -/
  | mul (d : Nat) (a : Nat) (b : Nat)
  /-- MULH (R130): Scalar signed multiply, high 64 bits. -/
  | mulh (d : Nat) (a : Nat) (b : Nat)
  /-- MULHU (R130): Scalar unsigned multiply, high 64 bits. -/
  | mulhu (d : Nat) (a : Nat) (b : Nat)
  /-- DIV (R131): Scalar signed divide, with defined edge cases. -/
  | div (d : Nat) (a : Nat) (b : Nat)
  /-- DIVU (R131): Scalar unsigned divide. -/
  | divu (d : Nat) (a : Nat) (b : Nat)
  /-- REM (R131): Scalar signed remainder. -/
  | rem (d : Nat) (a : Nat) (b : Nat)
  /-- REMU (R131): Scalar unsigned remainder. -/
  | remu (d : Nat) (a : Nat) (b : Nat)
  /-- AND (R130): Scalar AND. -/
  | and (d : Nat) (a : Nat) (b : Nat)
  /-- OR (R130): Scalar OR. -/
  | or (d : Nat) (a : Nat) (b : Nat)
  /-- XOR (R130): Scalar XOR. -/
  | xor (d : Nat) (a : Nat) (b : Nat)
  /-- ANDN (R130): Scalar AND NOT. -/
  | andn (d : Nat) (a : Nat) (b : Nat)
  /-- SHL (R130): Scalar left shift. -/
  | shl (d : Nat) (a : Nat) (b : Nat)
  /-- SHR (R130): Scalar logical right shift. -/
  | shr (d : Nat) (a : Nat) (b : Nat)
  /-- SRA (R130): Scalar arithmetic right shift. -/
  | sra (d : Nat) (a : Nat) (b : Nat)
  /-- ROR (R130): Scalar rotate right. -/
  | ror (d : Nat) (a : Nat) (b : Nat)
  /-- SLT (R130): Scalar signed less-than. -/
  | slt (d : Nat) (a : Nat) (b : Nat)
  /-- SLTU (R130): Scalar unsigned less-than. -/
  | sltu (d : Nat) (a : Nat) (b : Nat)
  /-- SEQ (R130): Scalar equality test. -/
  | seq (d : Nat) (a : Nat) (b : Nat)
  /-- MIN (R130): Scalar signed minimum. -/
  | min (d : Nat) (a : Nat) (b : Nat)
  /-- MAX (R130): Scalar signed maximum. -/
  | max (d : Nat) (a : Nat) (b : Nat)
  /-- MINU (R130): Scalar unsigned minimum. -/
  | minu (d : Nat) (a : Nat) (b : Nat)
  /-- MAXU (R130): Scalar unsigned maximum. -/
  | maxu (d : Nat) (a : Nat) (b : Nat)
  /-- CLZ (R130): Count of leading zero bits. -/
  | clz (d : Nat) (a : Nat)
  /-- POPC (R130): Count of one bits. -/
  | popc (d : Nat) (a : Nat)
  /-- ADDI (R132): Scalar add of a sign-extended 12-bit immediate. -/
  | addi (d : Nat) (a : Nat) (i : Int)
  /-- ANDI (R132): Scalar AND with an immediate. -/
  | andi (d : Nat) (a : Nat) (i : Int)
  /-- ORI (R132): Scalar OR with an immediate. -/
  | ori (d : Nat) (a : Nat) (i : Int)
  /-- XORI (R132): Scalar XOR with an immediate. -/
  | xori (d : Nat) (a : Nat) (i : Int)
  /-- SHLI (R133): Scalar left shift by immediate. -/
  | shli (d : Nat) (a : Nat) (n : Nat)
  /-- SHRI (R133): Scalar logical right shift by immediate. -/
  | shri (d : Nat) (a : Nat) (n : Nat)
  /-- SRAI (R133): Scalar arithmetic right shift by immediate. -/
  | srai (d : Nat) (a : Nat) (n : Nat)
  /-- RORI (R133): Scalar rotate right by immediate. -/
  | rori (d : Nat) (a : Nat) (n : Nat)
  /-- LUI (R134): Loads a sign-extended 18-bit immediate times 2^12. -/
  | lui (d : Nat) (i : Int)
  /-- SEQI (R135): Scalar equality with an immediate. -/
  | seqi (d : Nat) (a : Nat) (i : Int)
  /-- SLTI (R135): Scalar signed less-than an immediate. -/
  | slti (d : Nat) (a : Nat) (i : Int)
  /-- SLTIU (R135): Scalar unsigned less-than an immediate. -/
  | sltiu (d : Nat) (a : Nat) (i : Int)
  /-- SGTI (R135): Scalar signed greater-than an immediate. -/
  | sgti (d : Nat) (a : Nat) (i : Int)
  /-- PSPACE (R136): Sets a pointer's space bits. -/
  | pspace (d : Nat) (a : Nat) (k : Nat)
  /-- PRANK (R136): Builds a space-1 pointer with a rank. -/
  | prank (d : Nat) (a : Nat) (b : Nat)
  /-- PPOL (R136): Sets a pointer's allocation-policy bit. -/
  | ppol (d : Nat) (a : Nat) (p : Nat)
  /-- PGET (R136): Extracts a field of a pointer. -/
  | pget (d : Nat) (a : Nat) (k : Nat)
  /-- VADD (R230): Vector integer add, width in T. -/
  | vadd (f : LV) (t : Nat)
  /-- VSUB (R230): Vector integer subtract. -/
  | vsub (f : LV) (t : Nat)
  /-- VMUL (R230): Vector integer multiply, low half. -/
  | vmul (f : LV) (t : Nat)
  /-- VMULH_I (R230): Vector signed multiply, high half. -/
  | vmulhI (f : LV)
  /-- VMULH_N (R230): Vector unsigned multiply, high half. -/
  | vmulhN (f : LV)
  /-- VMULH_IN (R230): Vector signed-by-unsigned multiply, high half. -/
  | vmulhIn (f : LV)
  /-- VMIN_I (R230): Vector signed minimum. -/
  | vminI (f : LV)
  /-- VMIN_N (R230): Vector unsigned minimum. -/
  | vminN (f : LV)
  /-- VMAX_I (R230): Vector signed maximum. -/
  | vmaxI (f : LV)
  /-- VMAX_N (R230): Vector unsigned maximum. -/
  | vmaxN (f : LV)
  /-- VADDS_I (R230): Vector saturating signed add. -/
  | vaddsI (f : LV)
  /-- VADDS_N (R230): Vector saturating unsigned add. -/
  | vaddsN (f : LV)
  /-- VAVG_I (R230): Vector signed rounding average. -/
  | vavgI (f : LV)
  /-- VAVG_N (R230): Vector unsigned rounding average. -/
  | vavgN (f : LV)
  /-- VSUBS_I (R230): Vector saturating signed subtract. -/
  | vsubsI (f : LV)
  /-- VSUBS_N (R230): Vector saturating unsigned subtract. -/
  | vsubsN (f : LV)
  /-- VABSD_I (R230): Vector signed absolute difference. -/
  | vabsdI (f : LV)
  /-- VABSD_N (R230): Vector unsigned absolute difference. -/
  | vabsdN (f : LV)
  /-- VAND (R230): Vector bitwise AND. -/
  | vand (f : LV)
  /-- VOR (R230): Vector bitwise OR. -/
  | vor (f : LV)
  /-- VXOR (R230): Vector bitwise XOR. -/
  | vxor (f : LV)
  /-- VANDN (R230): Vector bitwise AND NOT. -/
  | vandn (f : LV)
  /-- VSHL_VECTOR (R230): Vector left shift by vector amounts. -/
  | vshlVector (f : LV)
  /-- VSRL_VECTOR (R230): Vector logical right shift by vector amounts. -/
  | vsrlVector (f : LV)
  /-- VSRA_VECTOR (R230): Vector arithmetic right shift by vector amounts. -/
  | vsraVector (f : LV)
  /-- VRSRA_VECTOR (R230): Vector rounding arithmetic right shift by vector amounts. -/
  | vrsraVector (f : LV)
  /-- VSHL_SCALAR (R230): Vector left shift by a short scalar. -/
  | vshlScalar (f : LV)
  /-- VSRL_SCALAR (R230): Vector logical right shift by a short scalar. -/
  | vsrlScalar (f : LV)
  /-- VSRA_SCALAR (R230): Vector arithmetic right shift by a short scalar. -/
  | vsraScalar (f : LV)
  /-- VRSRA_SCALAR (R230): Vector rounding right shift by a short scalar. -/
  | vrsraScalar (f : LV)
  /-- VSHL_IMM (R230): Vector left shift by a 5-bit immediate. -/
  | vshlImm (f : LV)
  /-- VSRL_IMM (R230): Vector logical right shift by an immediate. -/
  | vsrlImm (f : LV)
  /-- VSRA_IMM (R230): Vector arithmetic right shift by an immediate. -/
  | vsraImm (f : LV)
  /-- VRSRA_IMM (R230): Vector rounding right shift by an immediate. -/
  | vrsraImm (f : LV)
  /-- VCMPEQ (R230): Integer equality compare to a mask. -/
  | vcmpeq (f : LV)
  /-- VCMPNE (R230): Integer inequality compare to a mask. -/
  | vcmpne (f : LV)
  /-- VCMPLT_I (R230): Signed less-than compare to a mask. -/
  | vcmpltI (f : LV)
  /-- VCMPLT_N (R230): Unsigned less-than compare to a mask. -/
  | vcmpltN (f : LV)
  /-- VPMAC2_I16X2 (R231): Packed I16 pair multiply-accumulate into I32, vector operand. -/
  | vpmac2I16x2 (f : LV)
  /-- VPMAC2_I16X2_SCALAR (R231): Packed I16 pair multiply-accumulate with a scalar operand. -/
  | vpmac2I16x2Scalar (f : LV)
  /-- VPADDS_I16X2 (R231): Packed saturating I16 pair add. -/
  | vpaddsI16x2 (f : LV)
  /-- VMAC (R230): Integer multiply-accumulate modulo 2^SEW. -/
  | vmac (f : LV)
  /-- VADD_SCALAR (R230): Vector integer add of a scalar. -/
  | vaddScalar (f : LV)
  /-- VSUB_SCALAR (R230): Vector integer subtract of a scalar. -/
  | vsubScalar (f : LV)
  /-- VRSUB (R230): Scalar minus vector, integer. -/
  | vrsub (f : LV)
  /-- VMUL_SCALAR (R230): Vector integer multiply by a scalar, low half. -/
  | vmulScalar (f : LV)
  /-- VSEL (R232): Selects elements of two sources under the predicate. -/
  | vsel (f : LV)
  /-- VSPLAT (R232): Writes a scalar to every active element. -/
  | vsplat (s : Nat) (d : Nat) (b : Nat) (p : Nat)
  /-- VID (R232): Writes each active element's index. -/
  | vid (d : Nat) (b : Nat) (p : Nat)
  /-- VADD_F (R228): Floating-point add, format in T (MX at SEW 8 and 4). -/
  | vaddF (f : LV) (t : Nat)
  /-- VSUB_F (R228): Floating-point subtract. -/
  | vsubF (f : LV) (t : Nat)
  /-- VMUL_F (R228): Floating-point multiply. -/
  | vmulF (f : LV) (t : Nat)
  /-- VDIV_F (R228): Floating-point divide. -/
  | vdivF (f : LV) (t : Nat)
  /-- VFMA_F (R228): Fused multiply-add into the destination. -/
  | vfmaF (f : LV) (t : Nat)
  /-- VFMS_F (R228): Fused multiply-subtract. -/
  | vfmsF (f : LV) (t : Nat)
  /-- VFNMA_F (R228): Fused negated multiply-add. -/
  | vfnmaF (f : LV) (t : Nat)
  /-- VMIN_F (R228): Floating-point minimum. -/
  | vminF (f : LV) (t : Nat)
  /-- VMAX_F (R228): Floating-point maximum. -/
  | vmaxF (f : LV) (t : Nat)
  /-- VFCMPEQ (R229): Floating-point equality compare to a mask. -/
  | vfcmpeq (f : LV)
  /-- VFCMPLT (R229): Floating-point less-than compare to a mask. -/
  | vfcmplt (f : LV)
  /-- VFCMPLE (R229): Floating-point less-or-equal compare to a mask. -/
  | vfcmple (f : LV)
  /-- VFCMPUN (R229): Floating-point unordered compare to a mask. -/
  | vfcmpun (f : LV)
  /-- VSQRT (R229): Correctly rounded square root. -/
  | vsqrt (f : LW)
  /-- VABS (R229): Clears the sign of non-NaN elements. -/
  | vabs (f : LW)
  /-- VNEG (R229): Inverts the sign of non-NaN elements. -/
  | vneg (f : LW)
  /-- VCLASS (R229): Writes a one-hot class code of each element. -/
  | vclass (f : LW)
  /-- VADD_F_SCALAR (R229): Floating-point add of a scalar. -/
  | vaddFScalar (f : LV)
  /-- VMUL_F_SCALAR (R229): Floating-point multiply by a scalar. -/
  | vmulFScalar (f : LV)
  /-- VFMA_F_SCALAR (R229): Fused multiply-add with a scalar. -/
  | vfmaFScalar (f : LV)
  /-- VSUB_F_SCALAR (R229): Floating-point subtract of a scalar. -/
  | vsubFScalar (f : LV)
  /-- VADD_BF16X2 (R229): Packed BF16 pair add. -/
  | vaddBf16x2 (f : LV)
  /-- VSUB_BF16X2 (R229): Packed BF16 pair subtract. -/
  | vsubBf16x2 (f : LV)
  /-- VMUL_BF16X2 (R229): Packed BF16 pair multiply. -/
  | vmulBf16x2 (f : LV)
  /-- VFMA_BF16X2 (R229): Packed BF16 pair fused multiply-add. -/
  | vfmaBf16x2 (f : LV)
  /-- VFCVT (R233): Float-to-float conversion, pair selected by T and SEW, advancing sgen under SR. -/
  | vfcvt (f : LW) (t : Nat)
  /-- VFCVT_I (R233): Float-to-signed-integer conversion rounding by frm. -/
  | vfcvtI (f : LW)
  /-- VFCVT_N (R233): Float-to-unsigned-integer conversion rounding by frm. -/
  | vfcvtN (f : LW)
  /-- VFCVTZ_I (R233): Float-to-signed-integer conversion toward zero. -/
  | vfcvtzI (f : LW)
  /-- VFCVTZ_N (R233): Float-to-unsigned-integer conversion toward zero. -/
  | vfcvtzN (f : LW)
  /-- VICVT_I (R233): Signed-integer-to-float conversion. -/
  | vicvtI (f : LW)
  /-- VICVT_N (R233): Unsigned-integer-to-float conversion. -/
  | vicvtN (f : LW)
  /-- VSEXT (R233): Sign-extending widening integer conversion. -/
  | vsext (f : LW)
  /-- VZEXT (R233): Zero-extending widening integer conversion. -/
  | vzext (f : LW)
  /-- VNARROW (R233): Wrapping narrowing integer conversion. -/
  | vnarrow (f : LW)
  /-- VNARROWS (R233): Saturating narrowing integer conversion. -/
  | vnarrows (f : LW)
  /-- VMXCVT_TO_MX (R236): F32 to MX block conversion, choosing scales by R44. -/
  | vmxcvtToMx (f : LW) (t : Nat)
  /-- VMXCVT_FROM_MX (R236): MX block to F32 conversion. -/
  | vmxcvtFromMx (f : LW) (t : Nat)
  /-- VMXCVT_MXINT8_F32 (R236): F32 to MXINT8 block conversion. -/
  | vmxcvtMxint8F32 (f : LW)
  /-- VMXCVT_F32_MXINT8 (R236): MXINT8 block to F32 conversion. -/
  | vmxcvtF32Mxint8 (f : LW)
  /-- VBFPCVT_BFP8_F32 (R236): F32 to BFP8 block conversion. -/
  | vbfpcvtBfp8F32 (f : LW)
  /-- VBFPCVT_F32_BFP8 (R236): BFP8 block to F32 conversion. -/
  | vbfpcvtF32Bfp8 (f : LW)
  /-- VEXP2 (R238): Base-2 exponential. -/
  | vexp2 (f : LW)
  /-- VLOG2 (R238): Base-2 logarithm. -/
  | vlog2 (f : LW)
  /-- VEXP (R238): Natural exponential. -/
  | vexp (f : LW)
  /-- VLOG (R238): Natural logarithm. -/
  | vlog (f : LW)
  /-- VRCP (R238): Reciprocal. -/
  | vrcp (f : LW)
  /-- VRSQ (R238): Reciprocal square root. -/
  | vrsq (f : LW)
  /-- VTANH (R238): Hyperbolic tangent. -/
  | vtanh (f : LW)
  /-- VSIN (R238): Sine. -/
  | vsin (f : LW)
  /-- VCOS (R238): Cosine. -/
  | vcos (f : LW)
  /-- VMOV_W (R239): Wide or indirect element move, copying sidecars of written registers. -/
  | vmovW (f : LW)
  /-- VSCGET (R239): Reads scale sidecars into words of a register. -/
  | vscget (f : LW)
  /-- VSCPUT (R239): Writes scale sidecars from words of a register. -/
  | vscput (f : LW)
  /-- VSLIDEDN (R241): Slides member elements down by 1, 2, 4 or 8 with a fill value. -/
  | vslidedn (d : Nat) (m : Nat) (s : Nat) (k : Nat)
  /-- VSLIDEUP (R241): Slides member elements up by 1, 2, 4 or 8 with a fill value. -/
  | vslideup (d : Nat) (m : Nat) (s : Nat) (k : Nat)
  /-- VPERM (R242): Permutes member elements by indices held in the destination. -/
  | vperm (d : Nat) (m : Nat) (s : Nat)
  /-- VREV (R242): Reverses member elements. -/
  | vrev (d : Nat) (m : Nat) (s : Nat)
  /-- VREDSUM (R243): Integer sum reduction over member elements. -/
  | vredsum (d : Nat) (m : Nat) (s : Nat)
  /-- VREDMAX_I (R243): Signed maximum reduction. -/
  | vredmaxI (d : Nat) (m : Nat) (s : Nat)
  /-- VREDMAX_N (R243): Unsigned maximum reduction. -/
  | vredmaxN (d : Nat) (m : Nat) (s : Nat)
  /-- VREDMIN_I (R243): Signed minimum reduction. -/
  | vredminI (d : Nat) (m : Nat) (s : Nat)
  /-- VREDMIN_N (R243): Unsigned minimum reduction. -/
  | vredminN (d : Nat) (m : Nat) (s : Nat)
  /-- VREDAND (R243): Bitwise AND reduction. -/
  | vredand (d : Nat) (m : Nat) (s : Nat)
  /-- VREDOR (R243): Bitwise OR reduction. -/
  | vredor (d : Nat) (m : Nat) (s : Nat)
  /-- VREDSUM_F (R243): Ordered floating-point sum reduction. -/
  | vredsumF (d : Nat) (m : Nat) (s : Nat)
  /-- VREDMAX_F (R243): Floating-point maximum reduction. -/
  | vredmaxF (d : Nat) (m : Nat) (s : Nat)
  /-- VREDMIN_F (R243): Floating-point minimum reduction. -/
  | vredminF (d : Nat) (m : Nat) (s : Nat)
  /-- VSCANSUM (R243): Integer inclusive prefix sum in place. -/
  | vscansum (d : Nat) (m : Nat)
  /-- VSCANSUM_F (R243): Floating-point inclusive ordered prefix sum. -/
  | vscansumF (d : Nat) (m : Nat)
  /-- VSCANMAX_I (R243): Signed inclusive prefix maximum. -/
  | vscanmaxI (d : Nat) (m : Nat)
  /-- VEXSCANSUM (R243): Integer exclusive prefix sum. -/
  | vexscansum (d : Nat) (m : Nat)
  /-- VQX_X1 (R244): Quad exchange with partner L XOR 1. -/
  | vqxX1 (d : Nat) (m : Nat)
  /-- VQX_X2 (R244): Quad exchange with partner L XOR 2. -/
  | vqxX2 (d : Nat) (m : Nat)
  /-- VQX_X3 (R244): Quad exchange with partner L XOR 3. -/
  | vqxX3 (d : Nat) (m : Nat)
  /-- VQX_B0 (R244): Quad broadcast from quad lane 0. -/
  | vqxB0 (d : Nat) (m : Nat)
  /-- VQX_B1 (R244): Quad broadcast from quad lane 1. -/
  | vqxB1 (d : Nat) (m : Nat)
  /-- VQX_B2 (R244): Quad broadcast from quad lane 2. -/
  | vqxB2 (d : Nat) (m : Nat)
  /-- VQX_B3 (R244): Quad broadcast from quad lane 3. -/
  | vqxB3 (d : Nat) (m : Nat)
  /-- MXLDA (R264): Loads a 64-row A fragment from memory. -/
  | mxlda (d : Nat) (c : Nat) (s : Nat) (k : Nat)
  /-- MXLDB (R264): Loads a 96-row B fragment from memory. -/
  | mxldb (d : Nat) (c : Nat) (s : Nat) (k : Nat)
  /-- MXLDS (R264): Loads scale sidecars of n registers from memory. -/
  | mxlds (d : Nat) (c : Nat) (s : Nat) (k : Nat)
  /-- MXSTEP (R259): One dense matrix step into a z-tile. -/
  | mxstep (z : Nat) (c : Nat) (k : Nat)
  /-- MXLOOP (R259): Dense matrix loop walking its fragment registers over STEPS+1 steps. -/
  | mxloop (z : Nat) (c : Nat) (k : Nat)
  /-- MXSPSTEP (R260): One structured-sparse matrix step. -/
  | mxspstep (z : Nat) (c : Nat) (k : Nat)
  /-- MXSPLOOP (R260): Structured-sparse matrix loop. -/
  | mxsploop (z : Nat) (c : Nat) (k : Nat)
  /-- MXRDZ (R265): Reads eight z-tile rows into 24 registers with the tile's tag. -/
  | mxrdz (v : Nat) (p : Nat) (k : Nat)
  /-- MXWRZ (R265): Writes eight z-tile rows from 24 registers. -/
  | mxwrz (v : Nat) (p : Nat) (k : Nat)
  /-- MXTRED (R266): Adds a whole z-tile into the same z-tile of another cohort of the team. -/
  | mxtred (z : Nat) (n : Nat) (k : Nat)
  /-- MXTMOV (R266): Copies a whole z-tile into another cohort of the team. -/
  | mxtmov (z : Nat) (n : Nat) (k : Nat)
  /-- MXELOG (R269): Reads an entry of the matrix error log. -/
  | mxelog (d : Nat) (n : Nat)
  /-- MXESTAT (R269): Reads the matrix status word. -/
  | mxestat (d : Nat)
  /-- MXECLR (R269): Privileged clear of the matrix error log and status. -/
  | mxeclr
  /-- WFWD (R290): Forward Haar transform of a tile in place, tagging it Haar. -/
  | wfwd (t : Nat) (k : Nat)
  /-- WINV (R290): Inverse Haar transform of a tile in place, tagging it spatial. -/
  | winv (t : Nat) (k : Nat)
  /-- WTHR (R291): Thresholds a Haar tile and writes its row mask. -/
  | wthr (t : Nat) (k : Nat)
  /-- WTHSET (R295): Sets a threshold register. -/
  | wthset (n : Nat) (a : Nat)
  /-- WST (R292): Stores a tile as a packed thresholded tile in memory. -/
  | wst (t : Nat) (b : Nat) (k : Nat)
  /-- WLD (R293): Loads a packed tile into registers, tags and row mask. -/
  | wld (t : Nat) (b : Nat) (k : Nat)
  /-- WLD_RAW (R294): Loads a headerless 64-row coefficient image as a Haar tile. -/
  | wldRaw (t : Nat) (b : Nat) (k : Nat)
  /-- WTAG (R295): Writes a tag into every tile register's tag sidecar. -/
  | wtag (t : Nat) (g : Nat) (k : Nat)
  /-- WCNT (R295): Reads a wavelet counter or a threshold register. -/
  | wcnt (d : Nat) (n : Nat)
  /-- LJOIN (R323): Scalar lattice join into the local replica. -/
  | ljoin (v : Nat) (r : Nat) (b : Nat)
  /-- LJOIN_V (R323): Vector lattice join, one 32-bit cell per lane. -/
  | ljoinV (v : Nat) (r : Nat) (b : Nat)
  /-- LPUT (R323): Scalar asserted lattice store, refused if not monotone. -/
  | lput (v : Nat) (r : Nat) (b : Nat) (k : Nat)
  /-- LPUT_V (R323): Vector asserted lattice store. -/
  | lputV (v : Nat) (r : Nat) (b : Nat) (k : Nat)
  /-- LGET (R325): Scalar read of a lattice cell from the local replica. -/
  | lget (d : Nat) (q : Nat) (b : Nat) (k : Nat)
  /-- LGET_V (R325): Vector read of 32-bit lattice cells. -/
  | lgetV (d : Nat) (q : Nat) (b : Nat) (k : Nat)
  /-- LWAIT (R326): Waits until a lattice cell passes a threshold or a timeout expires. -/
  | lwait (d : Nat) (q : Nat) (b : Nat) (k : Nat)
  /-- LXSCHED (R327): Reads, and if privileged writes, the partition's exchange schedule. -/
  | lxsched (d : Nat) (a : Nat)
  /-- LXNOW (R328): Requests a forced exchange round. -/
  | lxnow (k : Nat)
  /-- LTYPE (R329): Reports a page's state and lattice type code. -/
  | ltype (d : Nat) (b : Nat) (k : Nat)
  /-- LCLR (R330): Privileged clear of a lattice page to its bottom in every replica. -/
  | lclr (b : Nat) (k : Nat)
  /-- LDV (R205): Contiguous vector load. -/
  | ldv (f : MV)
  /-- STV (R205): Contiguous vector store. -/
  | stv (f : MV)
  /-- LDG (R206): Vector gather load. -/
  | ldg (f : MV)
  /-- STG (R206): Vector scatter store. -/
  | stg (f : MV)
  /-- LDFF (R208): First-fault vector load that truncates vl at a faulting or remote later element. -/
  | ldff (f : MV)
  /-- LDR (R209): Residency-probe load returning zero and a mask bit for non-resident elements. -/
  | ldr (r : Nat) (m : Nat) (b : Nat) (s : Nat) (k : Nat) (p : Nat)
  /-- LD (R204): Scalar 8-byte load. -/
  | ld (d : Nat) (b : Nat) (k : Nat) (i : Int)
  /-- ST (R204): Scalar 8-byte store. -/
  | st (d : Nat) (b : Nat) (i : Int)
  /-- AT_ADD (R210): Vector atomic add returning old values. -/
  | atAdd (f : MA)
  /-- AT_SWAP (R210): Vector atomic swap. -/
  | atSwap (f : MA)
  /-- AT_CAS (R210): Vector atomic compare-and-swap. -/
  | atCas (f : MA)
  /-- AT_FADD (R210): Vector atomic floating-point add. -/
  | atFadd (f : MA)
  /-- AT_AND (R210): Vector atomic AND. -/
  | atAnd (f : MA)
  /-- AT_OR (R210): Vector atomic OR. -/
  | atOr (f : MA)
  /-- AT_MAX (R210): Vector atomic signed maximum. -/
  | atMax (f : MA)
  /-- AT_MAXU (R210): Vector atomic unsigned maximum. -/
  | atMaxu (f : MA)
  /-- FENCE_ACQ (R212): Acquire fence at the encoded scope. -/
  | fenceAcq (c : Nat)
  /-- FENCE_REL (R212): Release fence, held in the store queue under R186. -/
  | fenceRel (c : Nat)
  /-- FENCE_AR (R212): Acquire-release fence. -/
  | fenceAr (c : Nat)
  /-- FENCE_SC (R212): Sequentially consistent fence. -/
  | fenceSc (c : Nat)
  /-- FENCE_ACK (R212): Token clears once every earlier space-1 store and atomic is resolved. -/
  | fenceAck (k : Nat)
  /-- LDA (R212): Scalar acquire load at the encoded scope. -/
  | lda (d : Nat) (m : Nat) (b : Nat) (k : Nat)
  /-- LDA_SC (R212): Scalar seqcst load. -/
  | ldaSc (d : Nat) (m : Nat) (b : Nat) (k : Nat)
  /-- STL (R212): Scalar release store at the encoded scope. -/
  | stl (d : Nat) (m : Nat) (b : Nat)
  /-- STL_SC (R212): Scalar seqcst store. -/
  | stlSc (d : Nat) (m : Nat) (b : Nat)
  /-- LDB (R214): Buffer-record vector load with bounds handling. -/
  | ldb (v : Nat) (m : Nat) (i : Nat) (k : Nat)
  /-- STB (R214): Buffer-record vector store with bounds handling. -/
  | stb (v : Nat) (m : Nat) (i : Nat)
  /-- CBLOAD (R218): Loads a codebook table into a core table slot. -/
  | cbload (w : Nat) (k : Nat) (s : Nat) (t : Nat)
  /-- LDCB (R219): Expands packed indices through a codebook table into BF16 elements. -/
  | ldcb (d : Nat) (k : Nat) (s : Nat) (t : Nat)
  /-- PREF (R215): Prefetch hint for consecutive lines. -/
  | pref (c : Nat) (l : Nat) (s : Nat)
  /-- MCNT (R216): Reads a memory counter of the core. -/
  | mcnt (d : Nat) (k : Nat)
  /-- PAGEREQ (R360): Makes a page resident for reading. -/
  | pagereq (b : Nat) (k : Nat)
  /-- PAGEREQ_W (R360): Makes a page resident for writing. -/
  | pagereqW (b : Nat) (k : Nat)
  /-- PAGEHINT (R361): Non-trapping hint to make a page resident for reading. -/
  | pagehint (b : Nat)
  /-- PAGEHINT_W (R361): Non-trapping hint to make a page resident for writing. -/
  | pagehintW (b : Nat)
  /-- PAGEREL (R362): Gives up the device's copy of a page as an eviction would. -/
  | pagerel (b : Nat) (k : Nat)
  /-- CP (R302): Bulk asynchronous copy of one row. -/
  | cp (s : Nat) (q : Nat) (k : Nat)
  /-- CP_2D (R302): Bulk asynchronous strided copy of several rows. -/
  | cp2d (s : Nat) (q : Nat) (k : Nat)
  /-- CPFILL (R302): Fills a destination with a 64-bit pattern. -/
  | cpfill (s : Nat) (q : Nat) (k : Nat)
  /-- CPVER (R310): Copies weight pages verified against a SHA-256 hash tree. -/
  | cpver (s : Nat) (q : Nat) (k : Nat)
  /-- CPWP (R308): Reads a channel's write pointer; acquire of delivered chunks. -/
  | cpwp (d : Nat) (h : Nat)
  /-- CPWP_CLR (R308): Reads a write pointer and clears its FAIL bit in one action. -/
  | cpwpClr (d : Nat) (h : Nat)
  /-- CPNUM (R308): Reads the number of the cohort's copies holding slots. -/
  | cpnum (d : Nat)
  /-- CPSEED (R306): Seeds a channel's stochastic-rounding generator in channel order. -/
  | cpseed (h : Nat) (a : Nat)
  /-- CPROOT (R309): Privileged write of a 32-byte root digest into a root slot, logged. -/
  | cproot (k : Nat) (b : Nat) (t : Nat)
  /-- CPROOT_CLR (R309): Privileged clear of a root slot, logged. -/
  | cprootClr (k : Nat) (t : Nat)
  /-- FXSTAT (R386): Reads fstat. -/
  | fxstat (d : Nat)
  /-- FXCLR (R386): Clears selected W1C fields of fstat. -/
  | fxclr (a : Nat)
  /-- FXRANK (R386): Reads the partition's fabric rank. -/
  | fxrank (d : Nat)
  /-- FXPATH (R386): Reads the mask of live paths to a rank. -/
  | fxpath (d : Nat) (a : Nat)
  /-- FXSTO (R381): Ordered-flag space-1 store carrying per-path counts. -/
  | fxsto (d : Nat) (b : Nat)
  /-- FXSTO_REL (R387): Ordered-flag store that is also a system-scope release. -/
  | fxstoRel (d : Nat) (b : Nat)
  /-- FXCNT (R388): Reads a fabric engine counter. -/
  | fxcnt (d : Nat) (k : Nat)
  deriving DecidableEq, Repr

end Sys2Proof
end

