-- ==== Sys2Proof/Machine/Units.lean ====
section
/-! DEFINITION. The state of the package's units outside the cores: translation caches, coherence tokens, Meridian and Almanac, the
fabric engine, the lattice units, the front end and the management processor. Times are in the unit of `State.now`. -/

namespace Sys2Proof.Machine

/-! ### Memory engine -/

/-- Where the data of a load goes. -/
inductive Dst where
  /-- `w` bits at bit `off` of window register `r`. -/
  | v (r off w : Nat)
  /-- A scalar register. -/
  | s (r : Nat)
  /-- The scale sidecar of window register `r` (R264). -/
  | sc (r : Nat)
  | none
  deriving DecidableEq, Repr

/-- One element of a load that is not yet served: pointer, bytes, nibble, destination; whether a helper lane reads it (R88); for `LDR`
the mask location and the bit that say the page is not resident (R209). -/
structure LdEl where
  ptr : Nat
  n : Nat
  nib : Option Nat
  dst : Dst
  helper : Bool := false
  probe : Option (Nat × Nat) := none
  deriving DecidableEq, Repr

/-- One element of a store: pointer, bytes, nibble, value. -/
structure StEl where
  ptr : Nat
  n : Nat
  nib : Option Nat
  val : Nat
  deriving DecidableEq, Repr

/-- One element of an atomic: element number, pointer, operand, new value of AT.CAS; a helper lane's only reads (R88, R210). -/
structure AtEl where
  e : Nat
  ptr : Nat
  v : Nat
  nv : Nat
  helper : Bool
  deriving DecidableEq, Repr

/-- A cached leaf translation (R162): `unit` is a core (its L1 TLB) or 1000 + a cluster; the entry as it was read, its
physical address and level. -/
structure TlbE where
  unit : Nat
  part : Nat
  asid : Nat
  gen : Nat
  page : Nat
  lvl : Nat
  addr : Nat
  pte : Nat
  deriving DecidableEq, Repr

/-- A TABLE entry in a cluster's walk cache (R162), with the generation it was filled under (R161). -/
structure WalkE where
  cluster : Nat
  part : Nat
  asid : Nat
  gen : Nat
  addr : Nat
  pte : Nat
  deriving DecidableEq, Repr

/-- A line of an L1 slice (R164 to R166): the slice by its core, the tag (bits 59:7 of the virtual address, ASID, GEN), the stamp
copied from the translation that filled it (MGEN, RD, W, X), and the physical line it holds. Its bytes are the line's, which the tokens
keep equal in every copy (R168). -/
structure L1Line where
  slice : Nat
  tag : Nat
  part : Nat
  asid : Nat
  gen : Nat
  mgen : Nat
  rd : Bool
  wr : Bool
  x : Bool
  line : Nat
  deriving DecidableEq, Repr

/-- A transient request that has not gathered its tokens (R169, R170): the agent, the retries so far, when it is over, the
clusters it was sent to beside the home. -/
structure Transient where
  agent : Nat
  tries : Nat
  due : Nat
  sent : List Nat
  deriving DecidableEq, Repr

/-- Where the 64 tokens of a line are (R168): agents with how many each holds; the rest, and an owner token nobody holds, are at
home. `persist` are persistent requests in arrival order, the first active (R169); `tries` are the transient requests outstanding.
Agents: slices by their core, copy engines 1000 + core, walkers 2000 + cluster. (DESIGN CHOICE, log entry 118) -/
structure LineTok where
  held : List (Nat × Nat) := []
  owner : Option Nat := none
  persist : List (Nat × Bool) := []
  tries : List Transient := []
  deriving DecidableEq, Repr

/-- A tracking region (R170): base and size in bytes, the cluster it is private to, the time of its last conflict. -/
structure Region where
  base : Nat
  size : Nat
  cluster : Option Nat
  quiet : Nat
  deriving DecidableEq, Repr

/-- A lock on bytes of a locked-replica page (R174, R175). `own` says this device is the writer: then `gid`, `hid`, `el` name the
held store element and `left` the member ranks whose confirmation of `step` is awaited; in step 0 the directory has not yet granted
the store its turn (R174). -/
structure Lock where
  id : Nat
  key : Nat
  off : Nat
  own : Bool
  writer : Nat
  step : Nat
  left : List Nat
  gid : Nat
  hid : Nat
  el : Nat
  /-- The fabric request that is the store, with its OPC. -/
  pkt : Option (Nat × Pkt)
  part : Nat
  data : List Byte
  since : Nat
  /-- The store is a copy chunk of cohort `gid`, channel `hid`; a write of the host through BAR2 (R402). -/
  copy : Bool := false
  host : Bool := false
  /-- Attempts of its request to the directory, and the port of the last (R353); the VERSION its turn came with. -/
  tries : Nat := 1
  port : Nat := 0
  ver : Nat := 0
  deriving DecidableEq, Repr

/-! ### Meridian and Almanac -/

/-- What a chain's record stands for: an access of R336; a `PAGEREL` at its turn (R362), which is no fault record; a write-back that failed
with no access chained (R354). -/
inductive RecRole where
  | access | pagerel | writeBack
  deriving DecidableEq, Repr

/-- A fault record (R337). `gid` and `op` name the access in the model: a group with its pending operation or held store; for a copy,
its cohort and channel. NEXT is the next record of the chain that holds it. -/
structure FaultRec where
  handle : Nat
  time : Nat
  die : Nat
  vpn : Nat
  part : Nat
  asid : Nat
  gen : Nat
  kind : Nat
  flags : Nat
  core : Nat
  unit : Nat
  token : Nat
  gasid : Nat
  tenant : Nat
  reason : Nat
  attempts : Nat
  gid : Nat
  op : Nat
  role : RecRole := .access
  /-- NEXT as the decline queue's copy of a record holds it (R354). -/
  next : Nat := 0
  deriving DecidableEq, Repr

/-- Where a page's resolution stands (R338, R348, R351, R354). -/
inductive Phase where
  /-- A probe to a filter candidate (0) or to the home hint (1), the directory request (2), or the page read from a storage server (3),
  is out. -/
  | asked (stage : Nat)
  /-- Only hints ask for the page, and demand records of their die's queue go before them (R361). -/
  | hinted
  /-- A SUPPLY names the page's frame with its FLAGS (R355); it waits for room in the quota, or, once `told`, for the directory. -/
  | supplied (frame flags : Nat) (told : Bool)
  /-- The page waits for a frame. -/
  | noFrame
  /-- The page is in its frame and records are replayed; the final state of the entry. -/
  | replay (state : Nat)
  /-- The first record stands in the decline queue, or waits for room there. -/
  | declined
  /-- The device's copy is being given up (R352): the directory's answer is awaited, or, once `sent`, the home's acknowledgement of the
  write-back, which has been declined when `stuck`. -/
  | leaving (sent stuck : Bool)
  deriving DecidableEq, Repr

/-- The chain of a page (R338): its records in order, the resolution's phase, whether it asks for write ownership, attempts made,
the partition and ASID the frame is counted for, the frame. -/
structure Chain where
  recs : List FaultRec := []
  phase : Phase
  write : Bool := false
  attempts : Nat := 0
  since : Nat := 0
  part : Nat := 0
  asid : Nat := 0
  frame : Nat := 0
  ver : Nat := 0
  reason : Nat := 0
  inQueue : Bool := false
  /-- The port of the last attempt (R353); home and state of a page that comes from a storage server. -/
  port : Nat := 0
  home : Nat := 0
  st : Nat := 0
  /-- What failed when it was declined, for a RETRY (R355). -/
  failed : Option Phase := none
  deriving DecidableEq, Repr

/-- A frame Meridian has installed (R350, R351): page, frame, the ASID it counts for; EXCL, OWNER (supplier) and HC of the record as
this device knows it; the page's home (65536 × kind + id, 0 when not known); whether the page is LOCKED-REPLICA. -/
structure Frame where
  part : Nat
  asid : Nat
  gasid : Nat
  vpn : Nat
  pa : Nat
  excl : Bool
  owner : Bool
  hc : Bool
  home : Nat
  dirty : Bool
  locked : Bool
  ver : Nat
  deriving DecidableEq, Repr

/-- A global address space (R334): member ranks in index order, SipHash key, bucket table, tenants its member table admits. -/
structure Space where
  members : List Nat
  key : Nat
  buckets : List Nat
  tenants : List Nat
  deriving DecidableEq, Repr

/-- The states of a directory record (R341). -/
inductive DState where
  | home | excl | shared | locked
  deriving DecidableEq, Repr

/-- A request at the directory (R343, R347). -/
inductive DReq where
  | read (rank : Nat)
  | write (rank : Nat)
  /-- A store of a member to a locked replica (R174). -/
  | store (rank : Nat)
  /-- With the VERSION the releaser knows (R353). -/
  | release (rank ver : Nat)
  | replicate (rank set : Nat)
  | unreplicate (rank : Nat)
  /-- A replica that did not confirm a lock is removed, as the writer asks (R175). -/
  | remove (rank by' : Nat)
  /-- A rank holds a page its kernel supplied, as owner or reader (R355). -/
  | supplied (rank : Nat) (wr : Bool)
  /-- The page's new home, told by its old one (R358). -/
  | newHome (rank home ver : Nat)
  deriving DecidableEq, Repr

/-- The rank a request's answer goes to. -/
def DReq.rank : DReq → Nat
  | .read r => r
  | .write r => r
  | .store r => r
  | .release r _ => r
  | .replicate r _ => r
  | .unreplicate r => r
  | .remove _ r => r
  | .supplied r _ => r
  | .newHome r _ _ => r

/-- A directory record (R341); `busy` is the request being served and the ranks whose acknowledgement it awaits, `queue` those that
follow (R342). HOMEID is `home`, HKIND `hkind`. -/
structure DirRec where
  hkind : Nat := 1
  home : Nat
  state : DState := .home
  hc : Bool := true
  owner : Nat := 0xFFFF
  readers : Nat := 0
  version : Nat := 1
  busy : Option (DReq × List Nat) := none
  queue : List DReq := []
  /-- Attempts of the requests sent for it, when the last was and on which port; the VERSION of the last release of each rank that was
  applied (R353). -/
  tries : Nat := 1
  since : Nat := 0
  port : Nat := 0
  rels : List (Nat × Nat) := []
  /-- Which of the request's two sets of orders is out; ranks whose entry is still to be brought to what R344 says of the record, with the
  attempts of those orders, when the last was and on which port (R353). -/
  stage : Nat := 1
  owed : List Nat := []
  owedTries : Nat := 0
  owedSince : Nat := 0
  owedPort : Nat := 0
  deriving DecidableEq, Repr

/-- A move of a page that this device has been told of and cannot begin yet (R345): see `Msg.invalidate`. -/
structure Move where
  gasid : Nat
  vpn : Nat
  ver : Nat
  ship : Option Nat
  final : Nat
  home : Nat
  owner : Option Nat
  deriving DecidableEq, Repr

/-- A probe: its NOT-HERE leaves at its time (R349), or, while `wait`, it awaits the directory's answer to the reader addition: with the
VERSION that names, and the attempts, when the last was and on which port (R353). -/
structure ProbeOut where
  id : Nat
  wait : Bool
  rank : Nat
  gasid : Nat
  vpn : Nat
  due : Nat
  ver : Nat := 0
  tries : Nat := 1
  since : Nat := 0
  port : Nat := 0
  deriving DecidableEq, Repr

/-- A release told to the directory that nothing here waits for (R343, R353): of a copy of this device that is gone already, with its VERSION,
or (`arg` a rank + 1) of another device's replica that did not confirm a lock (R175). -/
structure Tell where
  key : Nat
  part : Nat
  arg : Nat
  ver : Nat
  tries : Nat
  since : Nat
  port : Nat
  deriving DecidableEq, Repr

/-- A mailbox command of OP 5 (with its set) or 6 in progress (R347, R353). -/
structure MailCmd where
  key : Nat
  set : Option Nat
  attempts : Nat
  since : Nat
  port : Nat := 0
  deriving DecidableEq, Repr

/-- A migration of a page's home in progress (R358): new home, lines already copied in ascending order, lines written since. -/
structure Migration where
  home : Nat
  copied : Nat
  marked : List Nat
  /-- The directory has been told: the STATE the entry had, and the attempts of the message, when the last was and on which port (R353). -/
  cut : Bool := false
  st : Nat := 1
  tries : Nat := 0
  since : Nat := 0
  port : Nat := 0
  deriving DecidableEq, Repr

/-! ### Fabric engine -/

/-- A space-1 request at its source (R373 to R377). `num` once transmitted, `path` of its first transmission, `tried` all its paths.
It serves elements of a group's pending load `pid`, an atomic's elements (the first leads a reduced set, R383), or a chunk of a
copy. `after` are requests it follows (R377), `notice` says a floor notice for its number is out, `live` whether its last attempt
has been sent, `since` when that fell due. -/
structure Req where
  gid : Nat
  core : Nat
  part : Nat
  rank : Nat
  opc : Nat
  off : Nat
  op : Nat
  size : Nat
  data : List Byte
  pid : Option Nat
  els : List LdEl
  at' : List AtEl
  copy : Option (Nat × Nat)
  num : Option Nat := none
  path : Nat := 0
  tried : List Nat := []
  attempts : Nat := 0
  counts : List Nat := []
  live : Bool := true
  after : List Nat := []
  notice : Bool := false
  since : Nat := 0
  /-- A lone nibble that an `AT.CAS` of its word stores (R201): its place in the word and its value. -/
  nib : Option (Nat × Nat) := none
  /-- The place in program order of the access it belongs to, for releases that wait for it (R212, R379). -/
  po : Nat := 0
  deriving DecidableEq, Repr

/-- A source's numbering toward a target (R373, R380): next number, floor, numbers resolved above it, counts per path, counts of the
partition. -/
structure Flow where
  next : Nat := 0
  floor : Nat := 0
  done : List Nat := []
  counts : List Nat := [0, 0, 0, 0]
  deriving DecidableEq, Repr

/-- What a target's filter remembers of a number (R373, R377). -/
inductive Perf where
  | stored
  | atomic (old : List Byte)
  | refused (cause : Nat)
  | closed
  deriving DecidableEq, Repr

/-- A target's view of a source (R373, R380): floor, performed numbers, performed counts per path. -/
structure Filt where
  floor : Nat := 0
  perf : List (Nat × Perf) := []
  counts : List Nat := [0, 0, 0, 0]
  /-- Numbers closed by a notice with the path they count on once the floor passes them (R376, R380). -/
  closedOn : List (Nat × Nat) := []
  deriving DecidableEq, Repr

/-- A packet, or the rest of one, that waits on a link for credits or room in the retry buffer (R365, R366): channel, header byte OPC, packet,
bytes not yet sent, no flit sent yet. -/
structure TxPkt where
  vc : Nat
  opc : Nat
  pkt : Pkt
  bytes : List Byte
  fresh : Bool
  deriving DecidableEq, Repr

/-- A scale-up link of one port (R365 to R369). (DESIGN CHOICE, log entry 38) -/
structure Link where
  up : Bool := true
  txSeq : Nat := 0
  rxSeq : Nat := 0
  txDict : List (Nat × Nat) := []
  rxDict : List (Nat × Nat) := []
  retryBuf : List (Nat × List Byte) := []
  retries : Nat := 0
  retryNum : Nat := 0
  rejecting : Bool := false
  unacked : Nat := 0
  owed : Nat := 0
  rxFreed : List Nat := [0, 0]
  txSent : List Nat := [0, 0]
  txFreed : List Nat := [0, 0]
  packet : Option (Nat × List Byte) := none
  got : List (List Byte) := []
  waiting : List TxPkt := []
  deriving DecidableEq, Repr

/-! ### Lattice units -/

/-- One pair of an exchange round: dies, and the lines of the snapshots that the partner has not joined yet, each at 8 × its offset in
the stack + type. -/
structure XPair where
  lo : Nat
  hi : Nat
  snapLo : List (Nat × List Byte)
  snapHi : List (Nat × List Byte)
  deriving DecidableEq, Repr

/-- A page clear in progress (R330): its operation, the page's offset in every stack, its type, dies done. -/
structure LClear where
  gid : Nat
  pid : Nat
  off : Nat
  ty : Nat
  done : Nat
  deriving DecidableEq, Repr

/-- The exchange schedule of a partition (R316, R317, R327, R328, R330): PERIOD in clk / 64, index of the next distance, the round in
progress, when the last one started, forced requests and clears waiting, requests the round in progress serves. -/
structure Lattice where
  period : Nat := 32
  next : Nat := 0
  round : Option (List XPair) := none
  started : Nat := 0
  forced : List (Nat × Nat) := []
  serving : List (Nat × Nat) := []
  clears : List LClear := []
  deriving DecidableEq, Repr

/-! ### Front end -/

/-- A packet the front end has copied from its ring (R390): its id in the model, ring address, index and 128 bytes. -/
structure Head where
  id : Nat
  addr : Nat
  index : Nat
  bytes : List Byte
  deriving DecidableEq, Repr

/-- What the front end knows of a user queue (R390 to R392): packets read, slot mapped, when it last had a packet pending, the head packet
read and not yet admitted, since when it waits for space, holding back others. -/
structure Queue where
  rptr : Nat := 0
  mapped : Bool := false
  lastPending : Nat := 0
  head : Option Head := none
  waiting : Option Nat := none
  holding : Bool := false
  deriving DecidableEq, Repr

/-- A packet done with: a completed, cancelled or refused launch (R395, R397). -/
structure Past where
  part : Nat
  pkt : Nat
  id : Nat
  status : Nat
  deriving DecidableEq, Repr

/-- A gang reservation on one partition of the package (R399): the gang, whether this part coordinates it, its ranks, the packet
with its ring address, and its queue; as coordinator the ranks that have granted and whether one refused; whether a placement is held;
`start` once committed, `lid` once started, `gone` once it has ended. -/
structure Gang where
  gang : Nat
  part : Nat
  coord : Bool
  ranks : List Nat
  addr : Nat
  pkt : List Byte
  asid : Nat
  queue : Nat
  place : List (List CohortPlace) := []
  /-- Frames held for the save areas of its cohorts. -/
  saves : List Nat := []
  granted : List Nat := []
  refused : Bool := false
  held : Bool := false
  firstAt : Nat := 0
  sentAt : Nat := 0
  start : Option Nat := none
  lid : Option Nat := none
  gone : Bool := false
  deriving DecidableEq, Repr

/-- Energy account of a partition (R410, R411): balance, estimates admitted, measured energy to debit with its estimate, in order, the last
tick. The balance starts at the reset value of CEIL, here for one partition. -/
structure Energy where
  bal : Int := 2600000
  rsvd : Nat := 0
  debits : List (Nat × Nat) := []
  tickAt : Nat := 0
  deriving DecidableEq, Repr

/-! ### Management -/

/-- An event-log entry (R408). -/
structure LogE where
  time : Nat
  seq : Nat
  kind : Nat
  part : Nat
  data : List Byte
  deriving DecidableEq, Repr

/-- The thermal levels (R412). -/
inductive Level where
  | normal | warm | hot | critical | shutdown
  deriving DecidableEq, Repr

/-- A cluster's thermal state (R407, R412): sample, level and since when, clock in percent, since when below 95 °C, since when
Critical at 50 %, a migration requested, when the clock was last stepped. -/
structure Therm where
  temp : Int := 0
  level : Level := .normal
  since : Nat := 0
  clock : Nat := 100
  coolSince : Nat := 0
  floorSince : Option Nat := none
  hotAsked : Bool := false
  lastStep : Nat := 0
  deriving DecidableEq, Repr

/-- A root-slot write that waits for its log entry (R309, R408): slot, digest (none clears), the `CPROOT` to finish. -/
structure RootWr where
  part : Nat
  slot : Nat
  digest : Option Nat
  gid : Nat
  pid : Nat
  deriving DecidableEq, Repr

/-- The management flash and firmware (R309, R406 to R409). -/
structure Mgmt where
  seq : Nat := 0
  log : List LogE := []
  /-- Entries not yet in the flash, each with the root-slot write that waits for it. -/
  writing : List (LogE × Option RootWr) := []
  /-- Version and validity of the images in firmware slots A and B. -/
  slots : List (Option (Nat × Bool)) := [some (1, true), none]
  slot : Nat := 0
  version : Nat := 1
  fails : Nat := 0
  antiRollback : Nat := 0
  deriving DecidableEq, Repr

/-- What leaves the package: messages of Meridian, the front end and the fabric engine to their peers, and signals to the host. -/
inductive Msg where
  /-- A fabric packet on a port's plane, with its header byte OPC. -/
  | packet (opc : Nat) (p : Pkt)
  /-- A directory request of R343 and R347 to a rank; `op` 0 read, 1 write, 2 release (of
  rank `arg` - 1 if `arg` is not 0: R175), 3 REPLICATE, 4 UNREPLICATE, 5 reader addition, 6 and 7 a page supplied as EXCL owner or reader,
  8 a store to a locked replica. -/
  | directory (rank op gasid vpn tenant arg ver : Nat)
  /-- A Meridian message sent on a port: fabric ports 0 to 23, Ultra Ethernet ports 24 to 27 (R353). -/
  | onPort (port : Nat) (m : Msg)
  | probe (rank gasid vpn tenant : Nat)
  /-- NOT-HERE of a probe (R349), or, with the VERSION of a release, the directory's order to write the page back (R343). -/
  | notHere (rank gasid vpn ver : Nat)
  /-- A request of the directory to a holder: ship to a rank if there is one, then hold `final` (see `INVALIDATION`); the page's home, and
  its new owner where it has one. -/
  | invalidate (rank gasid vpn ver : Nat) (ship : Option Nat) (final home : Nat) (owner : Option Nat)
  | shipment (rank gasid vpn ver state : Nat) (hc : Bool) (home : Nat) (data : List Byte)
  /-- A page read from a storage-server home, for the VERSION the data will belong to (R342). -/
  | serverRead (server gasid vpn rank ver : Nat)
  | writeBack (kind home gasid vpn ver : Nat) (data : List Byte)
  /-- An acknowledgement, or, with a reason code, that the request cannot be met. -/
  | ack (rank gasid vpn ver reason : Nat)
  | granted (rank gasid vpn ver state home : Nat)
  | readFrom (rank gasid vpn ver state home : Nat)
  | added (rank gasid vpn ver : Nat) (ok : Bool)
  | declinedReply (rank gasid vpn reason : Nat)
  | filter (gasid member : Nat) (keys : List Nat) (rebuilt : Bool)
  | lockStep (rank gasid vpn off id : Nat) (data : Option (List Byte))
  | lockConfirm (rank id : Nat)
  | migrate (rank gasid vpn : Nat) (line : Nat) (data : List Byte)
  | newHome (rank gasid vpn home tenant ver : Nat)
  /-- The directory tells a page's new home its VERSION and its STATE (R358); its old home, with STATE 2, that the migration is abandoned. -/
  | cutover (rank gasid vpn ver state : Nat)
  | reserve (rank gang asid addr : Nat) (pkt : List Byte)
  | grant (rank gang : Nat) (ok : Bool)
  | commit (rank gang start : Nat)
  | rollback (rank gang : Nat)
  /-- A part of the gang failed, with its status and the trap registers of a fatal trap (R108, R395); the gang was killed (R356). -/
  | gangFailed (rank gang status : Nat) (rec : List Word64)
  | gangKilled (rank gang reason page : Nat)
  /-- The host cores are signalled that the decline queue holds a record (R354). -/
  | declineSignal
  /-- A flit sent on a port: ACK, RETRY, CREDIT (kinds 3 to 5) with their number or counts. -/
  | flit (port kind n c0 c1 : Nat)
  | resend (port : Nat) (images : List (Nat × List Byte))
  /-- A host read through BAR2 answered. -/
  | hostData (part va : Nat) (data : List Byte)
  deriving DecidableEq, Repr

end Sys2Proof.Machine
end

