-- ==== Sys2Proof/Machine/State.lean ====
section
/-! DEFINITION. Everything the spec gives the device, as plain data, and the machine right after reset. A field a group, cohort,
launch or unit starts with stands as that field's default. Ids (`gid`, `cid`, launch ids, operation ids) are the model's own
names for groups, cohorts, launches and pending operations; they are drawn from `State.nextId`. -/

namespace Sys2Proof.Machine

/-- Why the machine stops. -/
inductive Fault where
  /-- Raised by the meaning of an encoded instruction when no run is in progress on the slot whose turn it is. `step` never does
  so. Safe: the device executes instructions only within runs (R57). -/
  | notIssuing
  deriving DecidableEq, Repr

/-- Why an instruction has no meaning here. -/
inductive Refusal where
  /-- Raised by `exec` for an instruction the model has no meaning for yet. Safe. -/
  | notModelled (mnemonic : String)
  deriving DecidableEq, Repr

/-- Roles (R14). -/
inductive Role where
  | vector | matrix | copy
  deriving DecidableEq, Repr

/-- The state of a lane (R85). -/
inductive LanePC where
  | live (pc : Nat)
  | helper
  | exited
  deriving DecidableEq, Repr

/-- A write of some bits of one register location (see `Loc` in Ops for the numbering of locations). -/
structure Wr where
  loc : Nat
  mask : Nat
  val : Nat
  deriving DecidableEq, Repr

/-- A condition from asynchronous work that waits for delivery (R110). -/
structure Cond where
  code : Nat
  detail : Nat
  addr : Nat
  lanes : Option Nat
  deriving DecidableEq, Repr

/-- Wait conditions of a blocked group (R129, and the queue-room waits of R186, R218, R250, R297, R322). -/
inductive Wait where
  /-- `BAR.WAIT` on barrier `b` with its ticket. -/
  | bar (b ticket : Nat)
  /-- `BAR.WAIT` on barrier `b` at place `id` of program order, behind releases that have not taken effect: then it reads its ticket from
  scalar `sb` and is a `bar` (R142). -/
  | barAfter (b sb id : Nat)
  | stg (n k p : Nat)
  | dep
  /-- A TLB invalidation of R150. -/
  | tlbi (id : Nat)
  /-- A pending operation not yet accepted by its engine's queue. -/
  | accept (pid : Nat)
  /-- Stores that found the group's store queue full (R186). -/
  | store
  deriving DecidableEq, Repr

/-- What a release does when it takes effect (R186). -/
inductive RelAct where
  | fence (ord scope : Nat)
  /-- `PTSYNC`: the stores before it are visible to every walker from its issue on (R150). -/
  | ptsync
  | store (e : StEl) (scope sc : Nat)
  | bar (b : Nat) (bytes : Int) (pid : Nat)
  | stg (n k : Nat)
  | trigger
  /-- A release lattice write, a `PAGEREL` or a `FENCE.ACK`: a pending operation of the group. -/
  | op (pid : Nat)
  /-- A flag store not yet offered to the fabric engine: its pointer and value; with `rel` it is a release at system scope too (R381, R387). -/
  | flag (ptr v : Nat) (rel : Bool)
  deriving DecidableEq, Repr

/-- An entry of a group's store queue (R186): a held store, element by element; a held atomic; a release. -/
inductive Held where
  | store (hid : Nat) (els : Tab StEl)
  | atomic (hid pid : Nat)
  | rel (hid : Nat) (a : RelAct)
  deriving DecidableEq, Repr

/-- A matrix step or loop as accepted (R256 to R262); D0 as read and whether it is a loop (R270). -/
structure MxJob where
  zt : Nat
  a : Int
  b : Int
  q : Int
  ai : Int
  bi : Int
  qi : Int
  steps : Nat
  fmt : Nat
  m : Nat
  zi : Bool
  scl : Bool
  sparse : Bool
  tagA : Nat
  rows : Nat
  next : Nat
  d0 : Nat
  loop : Bool
  deriving DecidableEq, Repr

/-- A z-tile: 64 × 96 FP32 elements, element (r, c) at key 96 r + c, and a tag (R245). -/
structure ZTile where
  el : Tab Word32 := []
  tag : Nat := 0
  deriving DecidableEq, Repr

/-- A tile descriptor (R289); `x` names another group than the issuer. -/
structure TileDesc where
  mkr : Nat
  gidx : Nat
  x : Bool
  th : Nat
  l : Nat
  fmt : Nat
  c : Nat
  base : Nat
  /-- The issuing group. -/
  by' : Nat
  deriving DecidableEq, Repr

/-- The wavelet operations that wait for their banks (R284). -/
inductive WvOp where
  | fwd | inv | thr
  /-- `WST`; whether it transforms first (R292). -/
  | st (ptr : Nat) (fwd : Bool)
  | ld (ptr : Nat)
  | raw (ptr pitch : Nat)
  | tag (t : Nat)
  deriving DecidableEq, Repr

/-- A copy as issued (R299, R300). -/
structure CopyJob where
  gid : Nat
  pid : Nat
  kind : Nat
  dst : Nat
  src : Nat
  pat : Nat
  rows : Nat
  len : Nat
  dstr : Int
  sstr : Int
  conv : Nat
  rm : Nat
  sat : Bool
  bar : Option Nat
  /-- The group whose window a space-3 destination names. -/
  xgid : Nat
  tree : Nat
  logp : Nat
  first : Nat
  root : Option Nat
  done : Nat
  flags : Nat
  /-- Weight pages that have passed their check (R310). -/
  checked : Nat
  abort : Bool
  /-- Fabric requests, or a lock, of the chunk in progress; the pieces of its source it has; the DETAIL and address of the error one of
  its requests met (R305); whether the chunk's bytes are on their way to the destination. -/
  net : Nat
  buf : List (Nat × List Byte)
  err : Option (Nat × Nat)
  sent : Bool
  /-- Its destination lines are not allocated in a last-level cache (R153, R300). -/
  stream : Bool := false
  /-- Its present page failed its check: the destination lines already zeroed and poisoned, and the DETAIL (R310, R311). -/
  failing : Option (Nat × Nat) := none
  deriving DecidableEq, Repr

/-- One element of a lattice instruction: lanes it stands for, pointer, physical address in the local replica, type, value. -/
structure LatEl where
  mask : Nat
  ptr : Nat
  pa : Nat
  ty : Nat
  v : Nat
  deriving DecidableEq, Repr

/-- An entry of a channel's order (R303). -/
inductive ChanOp where
  | copy (j : CopyJob)
  | seed (v : Nat)
  deriving DecidableEq, Repr

/-- What an `LDFF` needs where an element after its first can no longer be loaded (R208): width, first register and number of registers of its
destination, `vl`, TA and the active set at its issue, its first element. -/
structure FfLoad where
  w : Nat
  idx : Nat
  n : Nat
  vl : Nat
  ta : Bool
  act : Nat
  first : Nat
  deriving DecidableEq, Repr

/-- A pending asynchronous operation of a group. -/
inductive POp where
  /-- A load; what is more of an `LDFF`. -/
  | load (ff : Option FfLoad)
  /-- An atomic: width, operation (AOP + 4 for major 0x69), register group base, elements still to perform, unpredicated. -/
  | atomic (w op vr : Nat) (els : List AtEl)
  | cbload (k b : Nat)
  /-- `LDCB`: it expands packed bytes, from byte `first` on, with the table the slot holds after `need` writes; its elements. -/
  | ldcb (k need vd : Nat) (els : List Nat)
  /-- `FENCE.ACK`. -/
  | fenceAck
  | mx (j : MxJob)
  /-- `MXRDZ`; it has read its tile once it has left the tile's order. -/
  | mxrdz (v zt rb : Nat)
  /-- `MXWRZ` with the common tag of its source registers. -/
  | mxwrz (v zt rb tag : Nat)
  /-- A team transfer; its data once the source tile has been read. -/
  | mxt (zt k : Nat) (mov : Bool) (data : Option ZTile)
  /-- A wavelet operation with the threshold register's value and whether its results are known. A tile of another group of the cohort
  (R285) has, in that group, an operation of the same id that holds the writes. -/
  | wavelet (d : TileDesc) (op : WvOp) (th : Nat) (done : Bool)
  /-- A copy of a channel with its status register, and the job while it waits for a slot (R297). -/
  | copy (ch sd : Nat) (wait : Option CopyJob)
  | cproot (k ptr : Nat) (digest : Option Nat)
  /-- A lattice write: LPUT or LJOIN, a release that has not taken effect; elements still to perform; refused lanes, address, DETAIL. -/
  | lwrite (put rel : Bool) (els : List LatEl) (refused : List (Nat × Nat × Nat))
  /-- A lattice read; its elements still to read, each with the location it goes to as its value. -/
  | lget (els : List LatEl)
  /-- A lattice wait: the cell with the threshold as its value, the first destination, when it times out. -/
  | lwait (e : LatEl) (sd : Nat) (due : Option Nat)
  | lxnow
  /-- A page clear: its pointer, the page's offset in every stack and its type. -/
  | lclr (ptr off ty : Nat)
  | ltype
  | pagereq (wr : Bool) (ptr : Nat)
  | pagerel (ptr : Nat)
  /-- A release held in the store queue whose scalar destination is pending (R142). -/
  | ticket
  deriving DecidableEq, Repr

/-- A pending operation: its token, what it does, the writes already known, the locations it writes as ranges, those of them
overwritten since (R20), the locations it reads later as ranges with values overwritten there since (R249), how many fabric requests are outstanding, elements waiting (for a recall, a lock or Meridian), what its
accesses stay behind (R212: pending operations and entries of the store queue), flags and fabric events (R378: kind and rank) to record when it ends, an uncorrectable error met (its line's address + the DETAIL) and the
32-bit words it spoils (R199: location + 2^32 × word). -/
structure Pend where
  tok : Option Nat := none
  op : POp
  wrs : List Wr := []
  dst : List (Nat × Nat) := []
  clob : List Nat := []
  src : List (Nat × Nat) := []
  olds : List (Nat × Nat) := []
  left : Nat := 0
  els : Tab LdEl := []
  behind : List Nat := []
  flags : Nat := 0
  fev : List (Nat × Nat) := []
  accepted : Bool := true
  ecc : Option Nat := none
  bad : List Nat := []
  /-- It loads from die SRAM or a window: the wavelet operations that work on its registers keep their order with it (R284). -/
  bank : Bool := false
  /-- A `CBLOAD` already counted in CB.HELD (R216). -/
  noted : Bool := false
  /-- Its gang has ended: its results are discarded (R108). -/
  void : Bool := false
  deriving DecidableEq, Repr

/-- Where a `TRET` with HEAD = 0 resumes (R107): word, offset, saved active set, the run as `TRET` read it: LEN, TMP, PARK, AWAIT and the
bytes of its body from the offset on. -/
structure Resume where
  word : Nat
  off : Nat
  aset : Word32
  len : Nat
  tmp : Bool
  park : Bool
  await : Nat
  buf : List Byte
  deriving DecidableEq, Repr

/-- The fields of `fstat` (R378). -/
structure FStat where
  trank : Nat := 0
  tocnt : Nat := 0
  unkcnt : Nat := 0
  nopath : Bool := false
  rej : Bool := false
  unk : Bool := false
  tmo : Bool := false
  deriving DecidableEq, Repr

/-- A group (R84, R95). -/
structure Group where
  cid : Nat
  gidx : Nat
  idx : Nat
  role : Role
  w : Nat
  vpc : List LanePC
  s : Tab Word64 := []
  m : Tab VReg := [(0, BitVec.allOnes 1024)]
  v : Tab VReg := []
  scale : Tab Word64 := []
  tag : Tab Byte := []
  tk : BitVec 16 := 0
  ts : Tab VReg := []
  th : Tab Word64 := []
  vl : Nat := 32
  vtype : Nat := 3
  frm : Nat := 0
  fflags : Nat := 0
  sat : Bool := false
  sgen : Nat := 1
  dmode : Bool := false
  fstat : FStat := {}
  fft : Bool := false
  rpz : Bool := false
  rstr : Bool := false
  trap : Bool := false
  tcause : Word64 := 0
  tepc : Word64 := 0
  tlanes : Word64 := 0
  taddr : Word64 := 0
  parked : Bool := false
  waits : List Wait := []
  keptWaits : List Wait := []
  conds : List Cond := []
  resume : Option Resume := none
  triggered : Bool := false
  ended : Bool := false
  /-- Its gang has ended while its run was in progress: it ends with that run (R90). -/
  ending : Bool := false
  stq : List Held := []
  stqWait : List Held := []
  /-- Operations that later accesses of some lanes stay behind, with those lanes (R180, R212); the lanes of operations and of entries of the
  store queue that were issued in a part of the group's lanes (R176). -/
  acq : List (Nat × Nat) := []
  lanesAt : Tab Nat := []
  pend : Tab Pend := []
  ready : Bool := false
  readySince : Nat := 0
  lost : Nat := 0
  overdueAt : Nat := 0
  streak : Nat := 0
  killEnd : Bool := false
  runWaits : List Wait := []
  deriving DecidableEq, Repr

/-- A run in progress on an issue slot: the group, the head's word index, LEN, TMP, PARK, AWAIT, the active set (helpers
included), the bytes of the body not yet executed, their offset in halfwords, the lanes' chosen targets, waits the run's
instructions began, values overwritten earlier in the run (R120) and the temporaries' words written by the run (R91). -/
structure Run where
  gid : Nat
  word : Nat
  len : Nat := 0
  tmp : Bool := false
  park : Bool := false
  aset : Word32
  head : Bool := true
  buf : List Byte := []
  off : Nat := 0
  xfer : Tab Nat := []
  exits : Bool := false
  tret : Bool := false
  res : Option Resume := none
  waits : List Wait := []
  olds : List (Nat × Nat) := []
  t : Tab Word32 := []
  deriving DecidableEq, Repr

/-- A barrier object (R23). -/
structure Barrier where
  pend : Int := 0
  gen : Nat := 0
  err : Bool := false
  arrived : Nat := 0
  target : Nat := 1
  deriving DecidableEq, Repr

/-- A copy channel (R296, R308). -/
structure Chan where
  pos : Nat := 0
  fail : Bool := false
  gen : Nat := 1
  q : List ChanOp := []
  deriving DecidableEq, Repr

/-- A cohort (R84, R97). -/
structure Cohort where
  launch : Nat
  team : Nat
  tcoh : Nat
  core : Nat
  cidx : Nat
  gids : List Nat
  nz : Nat
  bars : Tab Barrier := []
  rings : Tab Nat := []
  tvecEn : Bool := false
  tvecWord : Nat := 0
  z : Tab ZTile := []
  zq : List (Nat × Nat) := []
  chans : Tab Chan := []
  resident : Bool := true
  /-- Its pre-emption has been requested (R113); the cluster a thermal migration restores it on (R114, R413). -/
  leaving : Bool := false
  dest : Option Nat := none
  /-- The temperature of the cluster it migrates from, when that was asked for. -/
  heat : Int := 0
  placedAt : Nat := 0
  save : Nat := 0
  deriving DecidableEq, Repr

/-- A codebook slot (R217): index width, entries; CBLOADs not yet written and expansions using the present table, in slot order. -/
structure CbSlot where
  b : Nat := 1
  e : List Nat := [0, 0]
  loads : List (Nat × Nat) := []
  ver : Nat := 0
  deriving DecidableEq, Repr

/-- Per-core state that no group or cohort owns: codebooks, counters, matrix status and log (R216, R217, R268, R295). -/
structure Core where
  cb : Tab CbSlot := []
  mcnt : Tab Nat := []
  wcnt : Tab Nat := []
  ovf : Nat := 0
  ecc : Bool := false
  log : List Word64 := []
  /-- Prefetched lines not yet used, each with its level (R215, R216). -/
  pf : List (Nat × Nat) := []
  deriving DecidableEq, Repr

/-- What moves next: a turn of an issue slot, an event, or time passing by a number of ninths of a nanosecond (one clk is 4). -/
inductive Act where
  | issue (slot : Nat)
  | event (i : Instr)
  | time (d : Nat)
  deriving DecidableEq, Repr

/-- A launch admitted, or a part of a gang (R393, R395, R399). -/
structure Launch where
  pkt : Nat
  queue : Option Nat := none
  index : Nat := 0
  part : Nat := 0
  asid : Nat := 0
  code : Nat := 0
  entry : Nat := 0
  clen : Nat := 1
  ptable : Nat := 0
  teams : Nat := 1
  cohorts : Nat := 1
  groups : Nat := 1
  win : Nat := 1
  prio : Nat := 0
  priv : Bool := false
  roles : Nat := 0
  zt : Nat := 0
  ch : Nat := 0
  energy : Nat := 0
  deps : List Nat := []
  done : Nat := 0
  gang : Option Nat := none
  /-- Fatal trap, kill or other end of the gang: the status code of R395, 0 while none. -/
  failed : Nat := 0
  trapRec : List Word64 := []
  /-- Occupied core-clocks since its partition's energy was last metered, each 400 of them one clk, and the energy it is charged with so far,
  in 2^-32 mJ (R411). (DESIGN CHOICE, log entry 153) -/
  occ : Nat := 0
  met : Nat := 0
  finished : Bool := false
  deriving DecidableEq, Repr

/-- The machine: one package, and what moves it. A key `part.asid` is 65536 × partition + ASID; a page key is 2^44 × GASID + VPN. -/
structure State where
  /-- Time in ninths of a nanosecond (one clk is 4), the step counter of the free values, and the next free id.
  (DESIGN CHOICE, log entries 3 and 4) -/
  now : Nat := 0
  tick : Nat := 0
  nextId : Nat := 1
  /-- The issue slot whose turn it is: 4 × core + slot. -/
  turn : Nat := 0
  /-- What moves next, and what has left the package. (DESIGN CHOICE, log entry 1) -/
  agenda : List Act := []
  outbox : List Msg := []
  /-- Fused identity (R406): CODE, DIES, STEP, SERIAL. (values: DESIGN CHOICE, log entry 6) -/
  code : Nat := 0
  dies : Nat := 0xFF
  stepping : Nat := 0
  serial : Word64 := 0
  /-- PCFG.NPART and the other read-write registers of BAR0 by offset (R167, R403, R404, R410, R416). -/
  npart : Nat := 1
  /-- A value of NPART written that waits for the pre-emption of every gang (R403). -/
  npartAsked : Option Nat := none
  cfg : Tab Nat := []
  /-- HBM and LPDDR by physical address, die SRAM by 2^26 × die + offset, and lines marked poisoned (R159, R167, R311). -/
  mem : List Host.Cell := []
  sram : List Host.Cell := []
  poison : List Nat := []
  /-- Translation caches, lines of the L1 slices, HBM lines in the LLC, tokens of lines, tracking regions, locks of locked-replica lines
  (R153, R162, R164, R167, R168, R170, R174). -/
  tlb : List TlbE := []
  walks : List WalkE := []
  l1 : List L1Line := []
  llc : List Nat := []
  coh : Tab LineTok := []
  regions : List Region := []
  locks : List Lock := []
  groups : Tab Group := []
  cohorts : Tab Cohort := []
  launches : Tab Launch := []
  runs : Tab Run := []
  cores : Tab Core := []
  /-- Meridian and Almanac (R333 to R358): chains and migrations by page key, frames in order of installation, clock hands, bindings
  and quotas by part.asid, spaces by GASID, directory records by page key, filters by 64 × GASID + member, probes and
  moves in hand, migrations, newest VERSION acted on, frames of pages homed here and held elsewhere, member ranks of locked replicas here, mailbox
  commands in progress, the decline queue, mailbox status. -/
  chains : Tab Chain := []
  frames : List Frame := []
  hands : Tab Nat := []
  binds : Tab Nat := []
  quotas : Tab Nat := []
  spaces : Tab Space := []
  dir : Tab DirRec := []
  filters : Tab (List Nat) := []
  probes : List ProbeOut := []
  moves : List Move := []
  migr : Tab Migration := []
  vers : Tab Nat := []
  homes : Tab Nat := []
  lockSets : Tab (List Nat) := []
  mail : List MailCmd := []
  declineQ : List FaultRec := []
  mailCount : Nat := 0
  mailReason : Nat := 0
  /-- The mailbox's command slot (R355); pages homed here that this device owns or supplies (R348); when each space's presence filter was
  last published whole (R348); frames that take the lines of a page whose home moves here (R358). -/
  mailSlot : List Byte := List.replicate 32 0
  ownHome : List Nat := []
  filterAt : Tab Nat := []
  incoming : Tab Nat := []
  /-- Releases told to directories that have not answered yet (R353). -/
  tells : List Tell := []
  /-- Fabric engine (R363 to R388): requests, flows by 4096 × part + target rank, filters by 4096 × part + source rank, flag stores
  held, requests stalled at a locked line, refusals not yet sent (packet, cause, due), live (plane, rank) pairs, links by port, counters. -/
  reqs : Tab Req := []
  flows : Tab Flow := []
  filts : Tab Filt := []
  heldFlags : List Pkt := []
  stalled : List (Nat × Pkt) := []
  refusals : Tab (Pkt × Nat × Nat) := []
  reach : List (Nat × Nat) := []
  links : Tab Link := []
  fxcnt : Tab Nat := []
  /-- Lattice schedules by partition, change bits by physical line (R316, R317). -/
  lattices : Tab Lattice := []
  change : Tab Nat := []
  /-- Front end: queues by 4096 × part + number, packets done with (newest first), gangs by 16 × gang id + partition, next gang sequence
  number, energy accounts (R389 to R399, R410). -/
  queues : Tab Queue := []
  history : List Past := []
  gangs : Tab Gang := []
  gangSeq : Nat := 0
  energy : Tab Energy := []
  /-- Management: clusters, flash, root slots by 16 × part + slot, power, halt after a fatal error, boot done (R309, R406 to R417).
  (values: DESIGN CHOICE, log entries 6 and 7) -/
  therm : Tab Therm := []
  mgmt : Mgmt := {}
  roots : Tab Nat := []
  powered : Bool := true
  halted : Bool := false
  /-- The cause of a fatal error whose dump is not yet written with its time (R414, R415), sensor samples of the last 64 ms, newest first
  (R407, R415), and when the last was taken. -/
  dying : Option (Nat × Nat) := none
  samples : List Sample := []
  sampledAt : Nat := 0
  booted : Bool := true
  deriving DecidableEq, Repr

/-- The machine right after reset: power-up (R417) has ended, nothing is submitted, and memory is scrubbed. (DESIGN CHOICE, log entry 6) -/
def State.reset : State := {}

end Sys2Proof.Machine
end

