-- ==== Sys2Proof/Machine/Ops.lean ====
section
/-! DEFINITION. The named operations over registers, lanes and runs, the issue of one instruction, taking a trap and the end of a
run: every meaning is written over these. -/

namespace Sys2Proof.Machine

/-! ### Locations: one number per register or register word -/

/-- Scalar `r`. -/
def locS (r : Nat) : Nat := r
/-- Mask register `r`. -/
def locM (r : Nat) : Nat := 64 + r
/-- Scale byte `k` of register `r` (R234). -/
def locScale (r k : Nat) : Nat := 1024 + 8 * r + k
/-- Tag of register `r` (R278). -/
def locTag (r : Nat) : Nat := 16384 + r
/-- `vl` as a destination of `LDFF` (R140). -/
def locVl : Nat := 60000
/-- 32-bit lane word `L` of register `r` (R220); temporary `tk` is register 2000 + k. -/
def locV (r L : Nat) : Nat := 65536 + 32 * r + L
/-- The register number of temporary `tk` (R66). -/
def tempReg (k : Nat) : Nat := 2000 + k

namespace Group

/-- Scalar `r`; `s0` reads zero (R70). -/
def sGet (g : Group) (r : Nat) : Word64 := if r = 0 then 0 else g.s.get 0 r
/-- Scalar `r` written; a write to `s0` is discarded (R70). -/
def sSet (g : Group) (r : Nat) (x : Word64) : Group := if r = 0 then g else { g with s := g.s.set 0 r x }
/-- Mask register `r`. -/
def mGet (g : Group) (r : Nat) : VReg := g.m.get 0 r
/-- Mask register `r` written. -/
def mSet (g : Group) (r : Nat) (x : VReg) : Group := { g with m := g.m.set 0 r x }
/-- Window register `r`. -/
def vGet (g : Group) (r : Nat) : VReg := g.v.get 0 r
/-- Window register `r` written. -/
def vSet (g : Group) (r : Nat) (x : VReg) : Group := { g with v := g.v.set 0 r x }
/-- Scale sidecar of register `r`: 0x7F in every byte until written (R95). -/
def scaleGet (g : Group) (r : Nat) : Word64 := g.scale.get 0x7F7F7F7F7F7F7F7F r
/-- Scale sidecar written. -/
def scaleSet (g : Group) (r : Nat) (x : Word64) : Group :=
  { g with scale := g.scale.set 0x7F7F7F7F7F7F7F7F r x }
/-- Tag sidecar of register `r`. -/
def tagGet (g : Group) (r : Nat) : Byte := g.tag.get 0 r
/-- Tag sidecar written. -/
def tagSet (g : Group) (r : Nat) (x : Byte) : Group := { g with tag := g.tag.set 0 r x }

/-- The value a location holds. -/
def getLoc (g : Group) (l : Nat) : Nat :=
  if l < 64 then (g.sGet l).toNat
  else if l < 1024 then (g.mGet (l - 64)).toNat
  else if l < 16384 then (g.scaleGet ((l - 1024) / 8)).toNat / 2 ^ (8 * (l % 8)) % 256
  else if l = locVl then g.vl
  else if l < 65536 then (g.tagGet (l - 16384)).toNat
  else (laneWord (g.vGet ((l - 65536) / 32)) (l % 32)).toNat

/-- A location written whole. -/
def setLoc (g : Group) (l x : Nat) : Group :=
  if l < 64 then g.sSet l (BitVec.ofNat 64 x)
  else if l < 1024 then g.mSet (l - 64) (BitVec.ofNat 1024 x)
  else if l < 16384 then
    g.scaleSet ((l - 1024) / 8)
      (BitVec.ofNat 64 (setBits (g.scaleGet ((l - 1024) / 8)).toNat (8 * (l % 8)) 8 x))
  else if l = locVl then { g with vl := x }
  else if l < 65536 then g.tagSet (l - 16384) (BitVec.ofNat 8 x)
  else g.vSet ((l - 65536) / 32) (setLaneWord (g.vGet ((l - 65536) / 32)) (l % 32) (BitVec.ofNat 32 x))

/-- The lane's state; lanes are 0 to 31. -/
def lane (g : Group) (L : Nat) : LanePC := g.vpc.getD L .exited
/-- The lane is live (R85). -/
def isLive (g : Group) (L : Nat) : Bool :=
  match g.lane L with
  | .live _ => true
  | _ => false
/-- The lane is a helper (R85). -/
def isHelper (g : Group) (L : Nat) : Bool :=
  match g.lane L with
  | .helper => true
  | _ => false
/-- The set of live lanes. -/
def liveSet (g : Group) : Word32 := laneSet g.isLive
/-- Lanes that count towards the issue address: all live ones, or under a trap those of `tlanes`.ASET (R103). -/
def countsSet (g : Group) : Word32 :=
  if g.trap then g.liveSet &&& BitVec.ofNat 32 (g.tlanes.toNat / 2 ^ 32) else g.liveSet
/-- The issue address: the least PC over the lanes that count (R86). -/
def issueAddr (g : Group) : Option Nat :=
  (lanesOf g.countsSet).foldl (fun acc L =>
    match g.lane L with
    | .live pc => some (match acc with
      | some a => min a pc
      | none => pc)
    | _ => acc) none
/-- The active set at an issue address: the lanes there, and the helpers whose quad has one (R86). -/
def activeAt (g : Group) (a : Nat) : Word32 :=
  let base := laneSet (fun L => inSet g.countsSet L && (g.lane L == .live a))
  laneSet (fun L => inSet base L ||
    (g.isHelper L && (List.range 4).any (fun k => inSet base (4 * (L / 4) + k))))

/-- Lanes of a set that exit become helpers or exited; helpers of a quad without live lanes become exited (R85). -/
def exitLanes (g : Group) (x : Word32) : Group :=
  let stays (L : Nat) : Bool := g.isLive L && !inSet x L
  let quadLive (L : Nat) : Bool := (List.range 4).any (fun k => stays (4 * (L / 4) + k))
  let vpc := (List.range 32).map (fun L =>
    match g.lane L with
    | .live pc => if inSet x L then (if quadLive L then .helper else .exited) else .live pc
    | .helper => if quadLive L then .helper else .exited
    | .exited => .exited)
  { g with vpc := vpc, ended := !vpc.any (fun p => match p with | .live _ => true | _ => false) }

/-- Flags accumulate in `fflags` (R48). -/
def orFlags (g : Group) (f : Nat) : Group := { g with fflags := g.fflags ||| f }
/-- Token `n` is pending. -/
def tokPending (g : Group) (n : Nat) : Bool := g.tk.getLsbD n
/-- Token `n` set pending or clear (R16). -/
def setTok (g : Group) (n : Nat) (b : Bool) : Group :=
  { g with tk := if b then g.tk ||| BitVec.ofNat 16 (2 ^ n) else g.tk &&& ~~~(BitVec.ofNat 16 (2 ^ n)) }
/-- `vtype`.SEW in bits (R138). -/
def sew (g : Group) : Nat := 4 * 2 ^ (g.vtype % 8)
/-- `vtype`.GRP as a number of registers (R138). -/
def grp (g : Group) : Nat := 2 ^ (g.vtype / 8 % 4)
/-- `vtype`.TA. -/
def ta (g : Group) : Bool := g.vtype.testBit 6
/-- `vtype`.MA. -/
def ma (g : Group) : Bool := g.vtype.testBit 7
/-- VLMAX (R138). -/
def vlmax (g : Group) : Nat := 1024 / g.sew * g.grp
/-- `frm`.FZ. -/
def fz (g : Group) : Bool := g.frm.testBit 3
/-- `frm`.RM (R35). -/
def rm (g : Group) : Rm :=
  match g.frm % 8 with
  | 1 => .rtz
  | 2 => .rdn
  | 3 => .rup
  | 4 => .sr
  | _ => .rne
/-- `frm`.RM with SR acting as RNE (R36). -/
def rmArith (g : Group) : Rm :=
  match g.rm with
  | .sr => .rne
  | m => m

end Group

/-! ### Updating one entry of the machine -/

namespace State

/-- Changes a group. -/
def updG (s : State) (gid : Nat) (f : Group → Group) : State := { s with groups := s.groups.upd gid f }
/-- Changes a cohort. -/
def updC (s : State) (cid : Nat) (f : Cohort → Cohort) : State := { s with cohorts := s.cohorts.upd cid f }
/-- Changes the run of a slot. -/
def updR (s : State) (slot : Nat) (f : Run → Run) : State := { s with runs := s.runs.upd slot f }
/-- Changes a launch. -/
def updL (s : State) (lid : Nat) (f : Launch → Launch) : State := { s with launches := s.launches.upd lid f }
/-- The state of a core; a core never touched is at its reset values (R216, R217, R268, R295). -/
def core (s : State) (k : Nat) : Core := s.cores.get {} k
/-- Changes a core. -/
def updCore (s : State) (k : Nat) (f : Core → Core) : State :=
  { s with cores := s.cores.set {} k (f (s.core k)) }

end State

/-- Where an instruction executes: slot, run, group, cohort, launch. -/
structure Ctx where
  slot : Nat
  run : Run
  g : Group
  co : Cohort
  la : Launch
  tick : Nat
  deriving DecidableEq, Repr

/-- The context of the slot whose turn it is. -/
def ctxOf (s : State) : Option Ctx :=
  match s.runs.find s.turn with
  | none => none
  | some r => match s.groups.find r.gid with
    | none => none
    | some g => match s.cohorts.find g.cid with
      | none => none
      | some co => match s.launches.find co.launch with
        | none => none
        | some la => some ⟨s.turn, r, g, co, la, s.tick⟩

/-- Size of the page a leaf of a level maps, as a power of two (R155). -/
def pageBits (lvl : Nat) : Nat :=
  match lvl with
  | 0 => 16
  | 1 => 21
  | _ => 30

/-- A synchronous trap: condition code, DETAIL, address, and the lanes that caused it (none: the live active set). -/
structure Trap where
  code : Nat
  detail : Nat := 0
  addr : Nat := 0
  lanes : Option Nat := none
  deriving DecidableEq, Repr

namespace Trap
/-- ILLEGAL (R104). (DEDUCED, log entry 25) -/
def illegal (d : Nat := 0) : Trap := { code := 0x01, detail := d }
/-- OVERLAP (R75). -/
def overlap : Trap := { code := 0x03 }
/-- MEMBER (R240). -/
def member (lanes : Nat) : Trap := { code := 0x04, lanes := some lanes }
/-- ROLE (R14). -/
def role : Trap := { code := 0x05 }
/-- WINDOW (R65). -/
def window (idx : Nat) (d : Nat := 0) : Trap := { code := 0x06, detail := d, addr := idx }
/-- PERM for a privileged instruction (R150). -/
def privileged : Trap := { code := 0x09, detail := 1 }
/-- TOKEN (R17). -/
def token : Trap := { code := 0x0B }
/-- DOMAIN (R283). -/
def domain (d : Nat) : Trap := { code := 0x0C, detail := d }
end Trap

/-! ### Ending groups -/

/-- A pending operation whose results are discarded, a codebook table or a root slot's digest among them: its token still clears (R18,
R108). -/
def Pend.discard (p : Pend) : Pend := { p with wrs := [], dst := [], ecc := none, flags := 0, void := true }

/-- A pending operation that ends with its gang: a lattice wait (R326). -/
def Pend.dies (p : Pend) : Bool :=
  match p.op with
  | .lwait _ _ _ => true
  | _ => false

/-- A group that runs no further: its lanes exit, its waits and undelivered conditions go, its pending operations go on without results,
and its store queue drains as that of a group that has ended (R108, R128, R340). (DEDUCED, log entry 121) -/
def Group.endNow (g : Group) : Group :=
  let tk := (g.pend.filter (fun e => e.2.dies)).foldl (fun (t : BitVec 16) (e : Nat × Pend) => match e.2.tok with
    | some k => t &&& ~~~(BitVec.ofNat 16 (2 ^ k))
    | none => t) g.tk
  { g with vpc := List.replicate 32 .exited, ended := true, waits := [], keptWaits := [], runWaits := [],
           conds := [], resume := none, parked := false, ready := false, tk := tk,
           pend := (g.pend.filter (fun e => !e.2.dies)).map (fun e => (e.1, e.2.discard)) }

/-- A copy whose gang ended stops at its next chunk boundary (R312). (DEDUCED, log entry 81) -/
def ChanOp.abort : ChanOp → ChanOp
  | .copy j => .copy { j with abort := true }
  | .seed v => .seed v

/-- The groups of a launch. -/
def State.launchGids (s : State) (lid : Nat) : List Nat :=
  (s.cohorts.filter (fun (c : Nat × Cohort) => c.2.launch == lid)).flatMap (fun c => c.2.gids)

/-- A channel whose gang has ended: each of its copies stops (R312). -/
def Chan.abort (h : Chan) : Chan := { h with q := h.q.map ChanOp.abort }

/-- The copies of a group that wait for room in their channel's queue stop too (R312). -/
def Group.abortCopies (g : Group) : Group := { g with pend := g.pend.map (fun (e : Nat × Pend) => (e.1, match e.2.op with
  | .copy ch sd (some j) => { e.2 with op := .copy ch sd (some { j with abort := true }) }
  | _ => e.2)) }

/-- A group of a gang that ends: one that has a run in progress executes it to its end first (R90). (DEDUCED, log entry 122) -/
def Group.endWith (g : Group) (inRun : Bool) : Group := if inRun && !g.ended then { g with ending := true } else g.endNow.abortCopies

/-- The group of a slot's run ends here if its gang ended meanwhile: with it the copies its run pushed (R90, R108, R312). -/
def stopGroup (gid : Nat) (s : State) : State :=
  match s.groups.find gid with
  | none => s
  | some g =>
    if !g.ending then s
    else
      let stop (o : ChanOp) : ChanOp := match o with
        | .copy j => if j.gid = gid then .copy { j with abort := true } else .copy j
        | .seed v => .seed v
      (s.updG gid (fun g => { g.endNow.abortCopies with ending := false })).updC g.cid (fun co =>
        { co with chans := co.chans.map (fun (h : Nat × Chan) => (h.1, { h.2 with q := h.2.q.map stop })) })

/-- Every group of a launch's part ends, with a completion status (R108, R356, R395, R403): at once, or where a run of it is in progress at
that run's end (R90). (DEDUCED, log entry 122) -/
def endLaunch (lid status : Nat) (rec : List Word64) (s : State) : State :=
  let gids := s.launchGids lid
  let s1 := gids.foldl (fun s gid => s.updG gid (fun g => g.endWith (s.runs.any (fun r => r.2.gid == gid)))) s
  let s2 := { s1 with
    cohorts := s1.cohorts.map (fun (c : Nat × Cohort) =>
      if c.2.launch == lid then (c.1, { c.2 with chans := c.2.chans.map (fun (h : Nat × Chan) => (h.1, h.2.abort)) }) else c) }
  s2.updL lid (fun l => if l.failed = 0 then { l with failed := status, trapRec := rec } else l)

/-- The parts in this package of a launch's gang: itself, and those with its gang id (R399). -/
def State.gangLids (s : State) (lid : Nat) : List Nat :=
  match (s.launches.find lid).bind (·.gang) with
  | none => [lid]
  | some g => lid :: ((s.launches.filter (fun (e : Nat × Launch) => e.1 != lid && e.2.gang == some g)).map (·.1))

/-- Every group of a gang ends (R108): this launch's part and the gang's other parts here; the record of each carries the trap (R395). -/
def endGangParts (lid status : Nat) (rec : List Word64) (s : State) : State :=
  (s.gangLids lid).foldl (fun s l => endLaunch l status rec s) s

/-! ### Traps -/

/-- The role field of `gstat` (R112). -/
def Role.code : Role → Nat
  | .vector => 0
  | .matrix => 1
  | .copy => 2

/-- `gstat` (R112). -/
def gstatOf (g : Group) (co : Cohort) (la : Launch) : Nat :=
  co.core * 2 ^ 39 + co.cidx * 2 ^ 37 + g.idx * 2 ^ 32 + co.tcoh * 2 ^ 29 + g.gidx * 2 ^ 25 +
  la.prio * 2 ^ 22 + g.role.code * 2 ^ 20 + g.w / 16 * 2 ^ 13 +
  b2n g.fft * 128 + b2n g.rpz * 64 + b2n g.rstr * 32 + b2n g.trap * 16

/-- The trap registers (R104 to R106). -/
structure TrapRegs where
  tcause : Nat
  tepc : Nat
  tlanes : Nat
  taddr : Nat
  deriving DecidableEq, Repr

/-- The live lanes of an active set (R106: helper lanes are excluded). -/
def liveOf (g : Group) (a : Word32) : Word32 := a &&& g.liveSet

/-- The trap registers of a synchronous trap at halfword `off` of the run at `word`, or at its head (R102 to R106). -/
def trapRegs (t : Trap) (head : Bool) (off word : Nat) (aset : Word32) : TrapRegs :=
  { tcause := t.detail % 65536 * 65536 + t.code
    tepc := word + (if head then 2 ^ 38 else off * 2 ^ 32)
    tlanes := aset.toNat * 2 ^ 32 + (if head then aset.toNat else t.lanes.getD aset.toNat)
    taddr := t.addr % 2 ^ 64 }

/-- The temporaries as a trap copies them; a word the run has not written is undefined (R91, R102). -/
def tempsOf (tick : Nat) (r : Run) : Tab VReg :=
  (List.range 8).foldl (fun acc k =>
    acc.set 0 k (ofLanes (fun L => (r.t.find (32 * k + L)).getD (Config.freeWord tick (32 * k + L))))) []

/-- A lane's PC: targets outside the range of word indices saturate (R85), as do the handler's word of `tvec` and a launch's entry, so that no
live lane's PC reads as a helper or exited code. (DEDUCED, log entry 143) -/
def pcOf (t : Int) : Nat := if t < 0 ∨ 0xFFFFFFFD < t then 0xFFFFFFFD else t.toNat

/-- The group's part of a trap's entry: registers written, TRAP set, lanes of the set sent to the handler (R102, R110). -/
def Group.enterTrap (g : Group) (q : TrapRegs) (aset : Word32) (handler : Nat) : Group :=
  { g with tcause := BitVec.ofNat 64 q.tcause, tepc := BitVec.ofNat 64 q.tepc,
           tlanes := BitVec.ofNat 64 q.tlanes, taddr := BitVec.ofNat 64 q.taddr, trap := true,
           vpc := (List.range 32).map (fun L =>
             match g.lane L with
             | .live pc => if inSet aset L then .live (pcOf handler) else .live pc
             | p => p) }

/-- TAKING A TRAP (R102, R108): the run leaves its slot; without an enabled handler, or inside one, the gang ends. A group whose gang has
ended during the run ends with it. (DEDUCED, log entry 24) `gstat` in the record of a fatal trap is as it stood before the trap: its TRAP says
whether a handler was active. (DESIGN CHOICE, log entry 144) -/
def enterTrap (gid : Nat) (q : TrapRegs) (aset : Word32) (ts : Option (Tab VReg)) (rw : List Wait) (s : State) : State :=
  match s.groups.find gid with
  | none => s
  | some g => match s.cohorts.find g.cid with
    | none => s
    | some co => match s.launches.find co.launch with
      | none => s
      | some la =>
        let s0 := { s with runs := s.runs.filter (fun r => r.2.gid != gid) }
        if g.ending then stopGroup gid s0
        else if g.trap || !co.tvecEn then
          endGangParts co.launch 2
            [BitVec.ofNat 64 q.tcause, BitVec.ofNat 64 q.tepc, BitVec.ofNat 64 q.tlanes, BitVec.ofNat 64 q.taddr,
             BitVec.ofNat 64 (gstatOf g co la)]
            (s0.updG gid (fun g => { g with
              tcause := BitVec.ofNat 64 q.tcause, tepc := BitVec.ofNat 64 q.tepc,
              tlanes := BitVec.ofNat 64 q.tlanes, taddr := BitVec.ofNat 64 q.taddr }))
        else
          s0.updG gid (fun g =>
            let g := g.enterTrap q aset co.tvecWord
            { g with ts := ts.getD g.ts, runWaits := rw, parked := false })

/-- A TLB entry that denied an access is dropped (R158): those of the page in the core's TLB and the cluster's. -/
def dropDenied (core asid : Nat) (t : Trap) (s : State) : State :=
  if t.code = 0x09 ∧ [2, 3, 4, 6, 7].contains t.detail then
    { s with tlb := s.tlb.filter (fun e => !((e.unit == core || e.unit == 1000 + core / 8) && e.asid == asid &&
        e.page == t.addr % 2 ^ 60 / 2 ^ pageBits e.lvl)) }
  else s

/-- A synchronous trap ends its group's run: the group counts as having become ready then (R98). -/
def dateTrap (gid : Nat) (s : State) : State := s.updG gid (fun g => { g with readySince := s.tick })

/-- The trap of the instruction the slot stands at (R61, R102); DOMAIN is counted (R295). -/
def takeTrap (c : Ctx) (t : Trap) (s0 : State) : State :=
  let s1 := dropDenied c.co.core c.la.asid t s0
  let s := if t.code = 0x0C then
      s1.updCore c.co.core (fun q => { q with wcnt := q.wcnt.set 0 7 ((q.wcnt.get 0 7 + 1) % 2 ^ 64) })
    else s1
  dateTrap c.run.gid <|
  enterTrap c.run.gid (trapRegs t c.run.head c.run.off c.run.word (liveOf c.g c.run.aset))
    (liveOf c.g c.run.aset) (some (tempsOf c.tick c.run)) c.run.waits s

/-! ### Waits -/

/-- Barrier `b` of a cohort; TARGET starts as the number of groups (R23). -/
def Cohort.bar (co : Cohort) (b : Nat) : Barrier := co.bars.get { target := co.gids.length } b
/-- A ticket is passed (R25). -/
def Barrier.passed (x : Barrier) (ticket : Nat) : Bool :=
  let d := (x.gen + 65536 - ticket % 65536) % 65536
  decide (1 ≤ d) && decide (d ≤ 32767)

/-- The phase bits of ring `n` (R148). -/
def Cohort.ring (co : Cohort) (n : Nat) : Nat := co.rings.get 0 n
/-- A launch is triggered: every group has executed TRIGGER or ended (R101). One not yet admitted is not. -/
def isTriggered (s : State) (lid : Nat) : Bool :=
  match s.launches.find lid with
  | none => !s.queues.any (fun (e : Nat × Queue) => match e.2.head with
      | some h => h.id == lid
      | none => false)
  | some l => l.finished || (!(s.launchGids lid).isEmpty && (s.launchGids lid).all (fun gid => match s.groups.find gid with
      | some g => g.triggered || g.ended
      | none => true))

/-- A wait condition holds (R101, R129, R142, R146). -/
def waitHolds (s : State) (g : Group) (co : Cohort) (la : Launch) (w : Wait) : Bool :=
  match w with
  | .bar b t => (co.bar b).passed t
  | .barAfter _ _ _ => false
  | .stg n k p => (co.ring n).testBit k == (p == 1)
  | .dep => la.deps.all (isTriggered s)
  | .tlbi _ => false
  | .accept pid => match g.pend.find pid with
    | some p => p.accepted
    | none => true
  | .store => g.stqWait.isEmpty

/-- A run boundary tests a group's waits: once all hold it waits no more (R129). -/
def meetWaits (gid : Nat) (s : State) : State :=
  match s.groups.find gid with
  | none => s
  | some g => match s.cohorts.find g.cid with
    | none => s
    | some co => match s.launches.find co.launch with
      | none => s
      | some la => if !g.waits.isEmpty && g.waits.all (waitHolds s g co la) then s.updG gid (fun g => { g with waits := [] }) else s

/-! ### The end of a run -/

/-- The word index of the next run in sequence (R58). -/
def Run.next (r : Run) : Nat := r.word + 1 + (r.len + 1) / 2

/-- The lanes' PCs at the end of a run (R87). -/
def Group.advance (g : Group) (r : Run) : Group :=
  { g with vpc := (List.range 32).map (fun L =>
      match g.lane L with
      | .live pc => if inSet r.aset L then .live ((r.xfer.find L).getD (pcOf r.next)) else .live pc
      | p => p) }

/-- The effect of `TRET` at the end of its run (R107); DECLINED groups end instead of resuming (R110). -/
def Group.leaveTrap (g : Group) (r : Run) : Group :=
  let word : Nat := g.tepc.toNat % 2 ^ 32
  let set := BitVec.ofNat 32 (g.tlanes.toNat / 2 ^ 32)
  let g1 : Group := { g with
    trap := false
    vpc := (List.range 32).map (fun L =>
      match g.lane L with
      | .live pc => if inSet set L then .live (pcOf word) else .live pc
      | p => p)
    waits := r.waits ++ (if g.tepc.toNat.testBit 39 then g.keptWaits else [])
    keptWaits := []
    tepc := BitVec.ofNat 64 (setBits g.tepc.toNat 39 1 0) }
  if g.killEnd then g1.endNow
  else if g.tepc.toNat.testBit 38 then { g1 with resume := none, runWaits := [] }
  else { g1 with resume := r.res }

/-- The run of a slot ends: transfers act, lanes exit, waits and PARK take effect, the slot is free (R87, R93, R129). -/
def endRun (slot : Nat) (s : State) : State :=
  match s.runs.find slot with
  | none => s
  | some r =>
    let s0 := { s with runs := s.runs.del slot }
    stopGroup r.gid <| meetWaits r.gid <| s0.updG r.gid (fun g =>
      let g1 := if r.tret then g.leaveTrap r
        else
          let g2 := if r.exits then g.exitLanes (r.aset &&& g.liveSet) else g.advance r
          { g2 with waits := g2.waits ++ r.waits }
      { g1 with parked := r.park && g1.tk != 0, readySince := s.tick })

/-- An instruction of `sz` bytes is done: the run goes on behind it or ends (R87). -/
def retire (sz slot : Nat) (s : State) : State :=
  match s.runs.find slot with
  | none => s
  | some r =>
    let buf := r.buf.drop sz
    let s1 := s.updR slot (fun r => { r with buf := buf, off := r.off + sz / 2 })
    if buf.isEmpty then endRun slot s1 else s1

/-- The outcome type of every meaning. -/
abbrev Out := Host.Outcome State Fault Refusal

/-- ONE INSTRUCTION of `sz` bytes on the slot whose turn it is: its effect and the step past it, or its trap (R61). -/
def issue (sz : Nat) (s : State) (f : Ctx → Except Trap State) : Out :=
  match ctxOf s with
  | none => .fault .notIssuing
  | some c =>
    match f c with
    | .ok s' => .next (retire sz c.slot s')
    | .error t => .next (takeTrap c t s)

/-- As `issue`, for an engine only one role may use (R14); `early` is what ranks before ROLE (ILLEGAL). -/
def issueRole (r : Role) (sz : Nat) (s : State) (early : Ctx → Option Trap) (f : Ctx → Except Trap State) : Out :=
  issue sz s (fun c =>
    match early c with
    | some t => .error t
    | none => if c.g.role = r then f c else .error .role)

/-! ### Reading registers: which of several values a read receives -/

/-- The writes of a pending operation as they land: the 32-bit words that came with an uncorrectable error are zero (R199). -/
def Pend.good (p : Pend) : List Wr :=
  if p.bad.isEmpty then p.wrs
  else p.wrs.map (fun w => { w with val := (p.bad.filter (fun b => b % 2 ^ 32 == w.loc)).foldl (fun x b => setBits x (32 * (b / 2 ^ 32)) 32 0) w.val })

/-- The value of a location after a write of some of its bits. -/
def merge (old : Nat) (w : Wr) : Nat := (old &&& (old ^^^ w.mask)) ||| (w.val &&& w.mask)

/-- Two writes of one location as one, the second over the first. -/
def Wr.over (a b : Wr) : Wr := ⟨a.loc, a.mask ||| b.mask, merge a.val b⟩

/-- The writes of one operation, those of one location joined: the location changes once, and no read sees it half written (R19, R120). -/
def joinWrs : List Wr → List Wr
  | [] => []
  | w :: t =>
    let r := joinWrs t
    match r.find? (fun x => x.loc == w.loc) with
    | some x => w.over x :: r.filter (fun y => y.loc != w.loc)
    | none => w :: r

/-- A pending operation knows all it writes to a location: nothing of it is outstanding, or every bit of the word is there. -/
def Pend.whole (p : Pend) (loc : Nat) (ws : List Wr) : Bool :=
  (p.left == 0 && p.els.isEmpty) || (ws.foldl (fun m w => m ||| w.mask) 0 == 2 ^ (if loc < 64 then 64 else if loc < 1024 then 1024 else 32) - 1)

/-- The values a location of a group can read as beside the one it holds: those overwritten earlier in the run (R120) and, whole, those a
pending operation writes once it knows them (R19, R200). (DESIGN CHOICE, log entry 59) -/
def othersOf (g : Group) (olds : List (Nat × Nat)) (loc : Nat) : List Nat :=
  (olds.filter (fun o => o.1 == loc)).map (·.2) ++
  g.pend.filterMap (fun p =>
    let ws := p.2.good.filter (fun w => w.loc == loc)
    if ws.isEmpty || !p.2.whole loc ws then none else some (ws.foldl merge (g.getLoc loc)))

/-- The values a location can read as beside the one it holds, as an instruction reads it. -/
def others (c : Ctx) (loc : Nat) : List Nat := othersOf c.g c.run.olds loc

/-- One of a list's values, by a free choice, or the first where it is the only one. -/
def choose (tick key : Nat) (cur : Nat) : List Nat → Nat
  | [] => cur
  | l => (cur :: l).getD (Config.pick tick key % (l.length + 1)) cur

/-- A location as an instruction reads it (R19, R120). -/
def Ctx.rd (c : Ctx) (loc : Nat) : Nat := choose c.tick loc (c.g.getLoc loc) (others c loc)

/-- Scalar `r` as an instruction reads it. -/
def Ctx.s (c : Ctx) (r : Nat) : Word64 := if r = 0 then 0 else BitVec.ofNat 64 (c.rd (locS r))
/-- Scalar `r` as a number. -/
def Ctx.sn (c : Ctx) (r : Nat) : Nat := (c.s r).toNat
/-- Mask register `r` as an instruction reads it. -/
def Ctx.m (c : Ctx) (r : Nat) : VReg := BitVec.ofNat 1024 (c.rd (locM r))
/-- Lane word `L` of register `r`, or of a temporary (R91). -/
def Ctx.vw (c : Ctx) (r L : Nat) : Nat :=
  if 2000 ≤ r then
    ((c.run.t.find (32 * (r - 2000) + L)).getD (Config.freeWord c.tick (32 * (r - 2000) + L))).toNat
  else c.rd (locV r L)
/-- Scale byte `k` of a register; temporaries read 0x7F (R66). -/
def Ctx.scale (c : Ctx) (r k : Nat) : Nat := if 2000 ≤ r then 0x7F else c.rd (locScale r k)
/-- Tag of a register; temporaries read 0 (R66). -/
def Ctx.tag (c : Ctx) (r : Nat) : Nat := if 2000 ≤ r then 0 else c.rd (locTag r)

/-- All 32 words of a register as an instruction reads it. -/
def Ctx.vr (c : Ctx) (r : Nat) : VReg := ofLanes (fun L => BitVec.ofNat 32 (c.vw r L))

/-- A write of a whole scalar. -/
def wrS (r : Nat) (x : Word64) : List Wr := if r = 0 then [] else [⟨locS r, 2 ^ 64 - 1, x.toNat⟩]
/-- A write of a whole mask register. -/
def wrM (r : Nat) (x : VReg) : List Wr := [⟨locM r, 2 ^ 1024 - 1, x.toNat⟩]
/-- A write of a lane word. -/
def wrV (r L x : Nat) : Wr := ⟨locV r L, 2 ^ 32 - 1, x⟩
/-- A write of `w` bits at bit `off` of a register: one word, or two for 64 bits (R220). -/
def wrBits (r off w x : Nat) : List Wr :=
  if w ≤ 32 then [⟨locV r (off / 32), (2 ^ w - 1) * 2 ^ (off % 32), x * 2 ^ (off % 32)⟩]
  else [wrV r (off / 32) (x % 2 ^ 32), wrV r (off / 32 + 1) (x / 2 ^ 32)]
/-- A tag written; temporaries have none (R66). -/
def wrTag (r x : Nat) : List Wr := if 2000 ≤ r then [] else [⟨locTag r, 255, x⟩]
/-- A scale byte written; temporaries have none (R66). -/
def wrScale (r k x : Nat) : List Wr := if 2000 ≤ r then [] else [⟨locScale r k, 255, x⟩]

/-- The writes of a loaded value. -/
def Dst.writes (d : Dst) (x : Nat) : List Wr :=
  match d with
  | .v reg off w => wrBits reg off w x
  | .s r => wrS r (BitVec.ofNat 64 x)
  | .sc r => (List.range 8).flatMap (fun k => wrScale r k (x / 256 ^ k % 256))
  | .none => []

/-- A pending operation notes that one of its destinations was overwritten meanwhile (R20), or what a location it reads later held
before (R249). -/
def Pend.note (loc old : Nat) (p : Pend) : Pend :=
  let p1 : Pend := if p.dst.any (fun d => d.1 ≤ loc && loc ≤ d.2) then { p with clob := loc :: p.clob } else p
  if p.src.any (fun d => d.1 ≤ loc && loc ≤ d.2) then { p1 with olds := (loc, old) :: p1.olds } else p1

/-- One write of a group's register by an instruction of its own (R20). -/
def Group.write (g : Group) (w : Wr) : Group :=
  let g1 := g.setLoc w.loc (merge (g.getLoc w.loc) w)
  if g.pend.isEmpty then g1 else { g1 with pend := g1.pend.map (fun e => (e.1, e.2.note w.loc (g.getLoc w.loc))) }

/-- A location of a temporary. -/
def isTempLoc (l : Nat) : Bool := decide (locV 2000 0 ≤ l)

/-- Writes of a fixed-latency instruction: to window registers, and to temporaries, whose sidecars do not exist (R66, R120). -/
def commitW (c : Ctx) (ws : List Wr) (s : State) : State :=
  (joinWrs ws).foldl (fun s w =>
    if isTempLoc w.loc then
      s.updR c.slot (fun r =>
        let k := w.loc - locV 2000 0
        let old := ((r.t.find k).getD (Config.freeWord c.tick k)).toNat
        { r with t := r.t.put k (BitVec.ofNat 32 (merge old w)) })
    else
      match s.groups.find c.run.gid with
      | none => s
      | some g =>
        let old := g.getLoc w.loc
        let s1 := s.updG c.run.gid (fun g => g.write w)
        if merge old w = old then s1
        else s1.updR c.slot (fun r => { r with olds := (w.loc, old) :: r.olds })) s

/-- The issuing group changed. -/
def updCtxG (c : Ctx) (f : Group → Group) (s : State) : State := s.updG c.run.gid f

/-- Whether token `k` can be bound (R17). -/
def bindable (c : Ctx) (k : Nat) : Except Trap Unit := if c.g.tokPending k then .error .token else .ok ()

/-- The threads an instruction belongs to: its active lanes (R176). -/
def threads (c : Ctx) : Nat :=
  let m := (liveOf c.g c.run.aset).toNat
  if m = 0 then 2 ^ 32 - 1 else m

/-- What is issued as `id` belongs to some of the group's lanes (R176). -/
def Group.noteLanes (g : Group) (id set : Nat) : Group := { g with lanesAt := g.lanesAt.set (2 ^ 32 - 1) id set }

/-- A new pending operation of the issuing group, its token bound (R16). -/
def addPend (c : Ctx) (p : Pend) (s : State) : State :=
  let pid := s.nextId
  let s1 := s.updG c.run.gid (fun g =>
    let g1 := match p.tok with
      | some k => g.setTok k true
      | none => g
    { g1.noteLanes pid (threads c) with pend := g1.pend.put pid p })
  { s1 with nextId := pid + 1 }

/-- The writes of a pending operation land; a word overwritten meanwhile holds either value (R20). Other operations note them.
(DESIGN CHOICE, log entry 59) -/
def Group.land (tick : Nat) (g : Group) (p : Pend) : Group :=
  (joinWrs p.good).foldl (fun g w =>
    let cur := g.getLoc w.loc
    let new := merge cur w
    let g1 := g.setLoc w.loc (if p.clob.contains w.loc then choose tick w.loc cur [new] else new)
    { g1 with pend := g1.pend.map (fun e => (e.1, e.2.note w.loc cur)) }) g

/-- A fabric event recorded in `fstat` (R378): kind 0 TO, 1 UNK, 2 REJ, 3 NOPATH, and the target rank. -/
def FStat.record (f : FStat) (e : Nat × Nat) : FStat :=
  let f1 := if f.tmo || f.unk || f.rej || f.nopath then f else { f with trank := e.2 }
  match e.1 with
  | 0 => { f1 with tmo := true, tocnt := min 65535 (f1.tocnt + 1) }
  | 1 => { f1 with unk := true, unkcnt := min 65535 (f1.unkcnt + 1) }
  | 2 => { f1 with rej := true }
  | _ => { f1 with nopath := true }

/-- What locations held before a landing is kept for the reads of the group's run in progress that follow (R19, R120). -/
def noteLanding (gid : Nat) (ws : List Wr) (s : State) : State :=
  if ws.isEmpty || !s.runs.any (fun r => r.2.gid == gid) then s
  else match s.groups.find gid with
    | none => s
    | some g =>
      let os := ((ws.map (·.loc)).eraseDups).map (fun l => (l, g.getLoc l))
      { s with runs := s.runs.map (fun r => if r.2.gid = gid then (r.1, { r.2 with olds := os ++ r.2.olds }) else r) }

/-- A pending operation of a group ends: its writes land, its flags and fabric events are recorded, its token clears, an uncorrectable
error it met waits for delivery (R16, R18, R48, R199, R311, R378). -/
def finish (gid pid : Nat) (s0 : State) : State :=
  let s := noteLanding gid ((((s0.groups.find gid).bind (fun g => if g.ended then none else g.pend.find pid)).map (·.wrs)).getD []) s0
  s.updG gid (fun g =>
    match g.pend.find pid with
    | none => g
    | some p =>
      let g1 := if g.ended then g else
        let g0 := (g.land s.tick p).orFlags p.flags
        { g0 with fstat := p.fev.foldl FStat.record g0.fstat }
      let g2 := match p.tok with
        | some k => g1.setTok k false
        | none => g1
      let cs : List Cond := match p.ecc with
        | some a => if g.ended then [] else [⟨0x11, a % 128, a / 128 * 128, none⟩]
        | none => []
      { g2 with pend := g2.pend.del pid, lanesAt := g2.lanesAt.del pid, parked := g2.parked && g2.tk != 0, conds := g2.conds ++ cs })

/-- A condition for delivery at the group's next run boundary (R110). -/
def addCond (gid : Nat) (k : Cond) (s : State) : State :=
  s.updG gid (fun g => if g.ended then g else { g with conds := g.conds ++ [k] })

end Sys2Proof.Machine
end

