-- ==== Sys2Proof/Machine/Haar.lean ====
section
/-! DEFINITION. The Haar transform of one column of a tile, forwards and backwards (R272, R274). -/

namespace Sys2Proof.Machine

/-- One butterfly output: the exact sum or difference, halved in the forward direction, rounded once to FP32 (R274). -/
def butterfly (inv minus : Bool) (x y : FVal) : FVal × Nat :=
  let (z, f) := FVal.add false x (if minus then y.neg else y)
  let (b, f') := roundVal .f32 .rne inv false 0 (if inv then z else z.scale2 (-1))
  (Fmt.f32.decode b, f ||| f')

/-- One level `l` of the transform on a column, entry by entry from the old column (R274). -/
def haarLevel (inv : Bool) (l : Nat) (y : List FVal) : List (FVal × Nat) :=
  let h := 2 ^ (l - 1)
  let at' (i : Nat) : FVal := y.getD i (.fin false 0 1)
  (List.range y.length).map (fun r =>
    if r % (2 * h) = 0 then butterfly inv false (at' r) (at' (r + h))
    else if r % (2 * h) = h then butterfly inv true (at' (r - h)) (at' r)
    else (at' r, 0))

/-- The levels in their order, flags accumulated. -/
def haarLevels (inv : Bool) (ls : List Nat) (y : List FVal) : List FVal × Nat :=
  ls.foldl (fun acc l =>
    let z := haarLevel inv l acc.1
    (z.map (·.1), z.foldl (fun f x => f ||| x.2) acc.2)) (y, 0)

/-- A column of encodings of format `F` transformed with `L` levels: encodings and flags (R274). -/
def haarCol (inv : Bool) (L : Nat) (F : Fmt) (col : List Nat) : List Nat × Nat :=
  let y := col.map F.decode
  let f0 := Fl.when (y.any FVal.isSig) Fl.nv
  let ls := (List.range L).map (· + 1)
  let (z, f1) := haarLevels inv (if inv then ls.reverse else ls) (y.map (fun v => if v.isNan then .nan false else v))
  let w := z.map (roundVal F .rne inv false 0)
  (w.map (·.1), w.foldl (fun f x => f ||| x.2) (f0 ||| f1))

/-- The level of row `r` in a tile of `L` levels; 0 for an approximation row (R272). -/
def rowLevel (L r : Nat) : Nat :=
  if r % 2 ^ L = 0 then 0 else ((List.range 6).find? (fun k => r.testBit k)).getD 0 + 1

/-- The position of row `r` in tree order (R273). -/
def treePos (L r : Nat) : Nat :=
  let l := rowLevel L r
  if l = 0 then r / 2 ^ L else 64 / 2 ^ l + (r - 2 ^ (l - 1)) / 2 ^ l

end Sys2Proof.Machine
end

