-- ==== Sys2Proof/Machine/Operands.lean ====
section
/-! DEFINITION. Every operand form of the lane instructions, the classes of destination elements, and the handling of domain tags
(R64 to R67, R74 to R76, R220 to R226, R281, R282). -/

namespace Sys2Proof.Machine

/-- A vector operand: its first register, how many, whether it names temporaries (R66, R74). -/
structure VOp where
  idx : Nat
  n : Nat
  temp : Bool
  deriving DecidableEq, Repr

/-- Register `i` of an operand, as a register number of Ops. -/
def VOp.reg (o : VOp) (i : Nat) : Nat := if o.temp then tempReg (o.idx + i) else o.idx + i

/-- A direct or banked register number `r` with `n` registers; under TMP, 248 to 255 name temporaries (R66). -/
def vOp (c : Ctx) (r n : Nat) : VOp := if c.run.tmp && decide (248 ≤ r) then ⟨r - 248, n, true⟩ else ⟨r, n, false⟩
/-- A banked operand (R64). -/
def bankOp (c : Ctx) (vb f n : Nat) : VOp := vOp c (32 * vb + f) n
/-- A direct or indirect operand of format LW (R64). -/
def wideOp (c : Ctx) (f ind n : Nat) : VOp := if ind = 1 then ⟨c.sn f, n, false⟩ else vOp c f n

/-- A grouped temporary that runs beyond t7 (R66). -/
def tempFits (o : VOp) : Bool := !o.temp || decide (o.idx + o.n ≤ 8)
/-- Two register sets are equal or disjoint (R75). -/
def apart (a b : VOp) : Bool :=
  a.temp != b.temp || decide (a.idx = b.idx ∧ a.n = b.n) || decide (a.idx + a.n ≤ b.idx) || decide (b.idx + b.n ≤ a.idx)
/-- The index WINDOW reports for an operand, if it leaves the window (R65). -/
def beyond (w : Nat) (o : VOp) : Option Nat :=
  if o.temp ∨ o.idx + o.n ≤ w then none else some (max o.idx w)

/-- A trap if a condition fails. -/
def need (b : Bool) (t : Trap) : Except Trap Unit := if b then .ok () else .error t

/-- The checks of a lane instruction in the order of R61: ILLEGAL, ROLE, OVERLAP, WINDOW; operands in syntax order, `ds` the
destinations among them. -/
def laneChecks (c : Ctx) (legal : Bool) (d : Nat) (ds os : List VOp) : Except Trap Unit := do
  need legal (.illegal d)
  need (os.all tempFits) (.illegal 0x000A)
  need (c.g.role == .vector) .role
  need (ds.all (fun a => os.all (fun b => apart a b))) .overlap
  match os.findSome? (beyond c.g.w) with
  | some i => .error (.window i)
  | none => .ok ()

/-- The predicate of PR (R67), read when the instruction issues. (DEDUCED, log entry 8) -/
def predOf (c : Ctx) (pr : Nat) : Nat → Bool :=
  if pr = 0 then fun _ => true
  else
    let m := c.m (pr % 8)
    if pr < 8 then fun e => m.getLsbD e else fun e => !m.getLsbD e

/-- The lane of element `e` of width `w` (R220). -/
def laneOf (w e : Nat) : Nat := e * w % 1024 / 32
/-- Lane `L` is in the active set. -/
def Ctx.act (c : Ctx) (L : Nat) : Bool := inSet c.run.aset L
/-- *ActiveElem* (R53). -/
def activeEl (c : Ctx) (w : Nat) (pred : Nat → Bool) (e : Nat) : Bool :=
  decide (e < c.g.vl) && c.act (laneOf w e) && pred e

/-- Element `e` of width `w` of an operand (R220). -/
def elt (c : Ctx) (o : VOp) (w e : Nat) : Nat :=
  let r := o.reg (e * w / 1024)
  let off := e * w % 1024
  if w ≤ 32 then c.vw r (off / 32) / 2 ^ (off % 32) % 2 ^ w
  else (c.vw r (off / 32) + c.vw r (off / 32 + 1) * 2 ^ 32) % 2 ^ w

/-- Element `e` of width `w` of a destination written. -/
def wrElt (o : VOp) (w e x : Nat) : List Wr := wrBits (o.reg (e * w / 1024)) (e * w % 1024) w (x % 2 ^ w)

/-- What an element operation gives: its value, the flags, whether it saturated. -/
structure ElRes where
  val : Nat
  flags : Nat := 0
  sat : Bool := false
  deriving DecidableEq, Repr

/-- What a lane instruction writes. -/
structure LaneRes where
  wrs : List Wr := []
  flags : Nat := 0
  sat : Bool := false
  deriving DecidableEq, Repr

/-- Two results one after the other. -/
def LaneRes.and (a b : LaneRes) : LaneRes := ⟨a.wrs ++ b.wrs, a.flags ||| b.flags, a.sat || b.sat⟩

/-- The writes of an inactive element under a policy (R222). -/
def policyW (o : VOp) (w e : Nat) (agnostic : Bool) : List Wr := if agnostic then wrElt o w e (2 ^ w - 1) else []

/-- One destination element by its class (R222); helper lanes set no flag (R88). -/
def elemClass (c : Ctx) (o : VOp) (w : Nat) (pred : Nat → Bool) (f : Nat → ElRes) (e : Nat) : LaneRes :=
  let L := laneOf w e
  if !c.act L then {}
  else if c.g.vl ≤ e then { wrs := policyW o w e c.g.ta }
  else if !pred e then { wrs := policyW o w e c.g.ma }
  else
    let r := f e
    { wrs := wrElt o w e r.val, flags := if c.g.isLive L then r.flags else 0, sat := r.sat && c.g.isLive L }

/-- All elements of a destination group (R222). -/
def elemwise (c : Ctx) (o : VOp) (w : Nat) (pred : Nat → Bool) (f : Nat → ElRes) : LaneRes :=
  (List.range (1024 / w * o.n)).foldl (fun acc e => acc.and (elemClass c o w pred f e)) {}

/-- The bits of a mask destination by their classes (R223): mask and value of one write. -/
def maskBits (c : Ctx) (w vlmax : Nat) (pred : Nat → Bool) (f : Nat → ElRes) : (Nat × Nat) × Nat :=
  (List.range vlmax).foldl (fun acc e =>
    let L := laneOf w e
    if 1024 ≤ e ∨ !c.act L then acc
    else if c.g.vl ≤ e then
      (if c.g.ta then ((acc.1.1 + 2 ^ e, acc.1.2 + 2 ^ e), acc.2) else acc)
    else if !pred e then
      (if c.g.ma then ((acc.1.1 + 2 ^ e, acc.1.2 + 2 ^ e), acc.2) else acc)
    else
      let r := f e
      ((acc.1.1 + 2 ^ e, acc.1.2 + (r.val % 2) * 2 ^ e), acc.2 ||| (if c.g.isLive L then r.flags else 0)))
    ((0, 0), 0)

/-! ### Domain tags -/

/-- How an instruction treats tags (R224). -/
inductive TagClass where
  | copy | linear | nonlinear
  deriving DecidableEq, Repr

/-- The registers of the Haar block of a register whose tag has L levels: first and count (R281). -/
def haarBlock (j L : Nat) : Nat × Nat :=
  let u := if L ≤ 2 then 1 else 2 ^ (L - 2)
  (u * (j / u), u)

/-- The Haar-tagged registers of an operand with their levels. -/
def haarRegs (c : Ctx) (o : VOp) : List (Nat × Nat) :=
  if o.temp then [] else
    (List.range o.n).filterMap (fun i =>
      let t := c.tag (o.idx + i)
      if t % 4 = 1 then some (o.idx + i, t / 4 % 8) else none)

/-- Writes and flags of the inverse transform of one block (R282). -/
def reconBlock (c : Ctx) (F : Fmt) (b u L : Nat) : LaneRes :=
  let w := F.bits
  (List.range (256 / w)).foldl (fun acc j =>
    let at' (r : Nat) : VOp := ⟨b + r / 4, 1, false⟩
    let el (r : Nat) : Nat := (r % 4 * 256 + j * w) / w
    let col := (List.range (4 * u)).map (fun r => elt c (at' r) w (el r))
    let (z, f) := haarCol true L F col
    acc.and { wrs := (List.range (4 * u)).flatMap (fun r => wrElt (at' r) w (el r) (z.getD r 0)), flags := f })
    { wrs := (List.range u).flatMap (fun i => wrTag (b + i) 0) }

/-- What a forced reconstruction did: its writes and flags, the blocks, the largest level. -/
structure Recon where
  res : LaneRes := {}
  blocks : Nat := 0
  level : Nat := 0
  deriving DecidableEq, Repr

/-- Forced reconstruction of Haar-tagged registers, each with its levels and whether its operand contains its block, or the DOMAIN it
raises (R226, R281 to R283). -/
def reconRegs (c : Ctx) (hs : List (Nat × Nat × Bool)) (F : Option Fmt) : Except Trap Recon :=
  let uniform (j L : Nat) : Bool :=
    (List.range (haarBlock j L).2).all (fun i =>
      let t := c.tag ((haarBlock j L).1 + i)
      t % 4 == 1 && t / 4 % 8 == L)
  if hs.isEmpty then .ok {}
  else if !hs.all (fun h => h.2.2) then .error (.domain 2)
  else if !hs.all (fun h => uniform h.1 h.2.1) then .error (.domain 6)
  else if c.g.dmode then .error (.domain 1)
  else match F with
    | none => .error (.domain 3)
    | some F =>
      let blocks := (hs.map (fun h => ((haarBlock h.1 h.2.1).1, (haarBlock h.1 h.2.1).2, h.2.1))).eraseDups
      .ok { res := blocks.foldl (fun acc b => acc.and (reconBlock c F b.1 b.2.1 b.2.2)) {}
            blocks := blocks.length
            level := blocks.foldl (fun m b => max m b.2.2) 0 }

/-- Forced reconstruction of the Haar-tagged sources of a non-linear instruction (R226, R281). -/
def reconstruct (c : Ctx) (srcs : List VOp) (F : Option Fmt) : Except Trap Recon :=
  reconRegs c (srcs.flatMap (fun o => (haarRegs c o).map (fun h =>
    let b := haarBlock h.1 h.2
    (h.1, h.2, decide (o.idx ≤ b.1) && decide (b.1 + b.2 ≤ o.idx + o.n))))) F

/-- The context with writes of this very instruction already in its registers (R226: reconstruction comes before the read). -/
def Ctx.after (c : Ctx) (ws : List Wr) : Ctx :=
  { c with g := { (ws.foldl (fun g w => g.setLoc w.loc (merge (g.getLoc w.loc) w)) c.g) with
                  pend := if ws.isEmpty then c.g.pend else [] }
           run := { c.run with olds := c.run.olds.filter (fun o => !ws.any (fun w => w.loc == o.1)) } }

/-- The common tag of all source registers, if there is one (R224). -/
def commonTag (c : Ctx) (srcs : List VOp) : Option Nat :=
  match srcs.flatMap (fun o => (List.range o.n).map (fun i => c.tag (o.reg i))) with
  | [] => some 0
  | t :: ts => if ts.all (· == t) then some t else none

/-- The tag a class of instruction gives its destination registers, and the reconstruction it forces (R224). (DEDUCED, log entry 14) -/
def tagRule (c : Ctx) (k : TagClass) (srcs : List VOp) (F : Option Fmt) : Except Trap (Nat × Recon) :=
  match k, commonTag c srcs with
  | .copy, some t => .ok (t, {})
  | .linear, some t => .ok (t, {})
  | _, _ => do
    let r ← reconstruct c srcs F
    return (0, r)

/-- The registers of an operand of which some word is written (R225). -/
def writtenRegs (o : VOp) (ws : List Wr) : List Nat :=
  ((List.range o.n).map o.reg).filter (fun r => ws.any (fun w => decide (locV r 0 ≤ w.loc) && decide (w.loc < locV r 0 + 32)))

/-- A value added to a wavelet counter of the core (R295). -/
def addWcnt (core k n : Nat) (s : State) : State :=
  if n = 0 then s else s.updCore core (fun q => { q with wcnt := q.wcnt.set 0 k ((q.wcnt.get 0 k + n) % 2 ^ 64) })

/-- The state after a reconstruction's counting (R282, R295). -/
def countRecon (core : Nat) (r : Recon) (s : State) : State :=
  if r.blocks = 0 then s else addWcnt core 1 (4 + 2 * r.level) (addWcnt core 0 r.blocks s)

/-- A lane instruction commits: reconstruction, results, tags of the registers written, flags (R48, R225). -/
def commitLane (c : Ctx) (o : VOp) (tag : Nat) (rc : Recon) (r : LaneRes) (s : State) : State :=
  let tags := (writtenRegs o r.wrs).flatMap (fun x => wrTag x tag)
  let s1 := countRecon c.co.core rc (commitW c (rc.res.wrs ++ r.wrs ++ tags) s)
  updCtxG c (fun g => { (g.orFlags (rc.res.flags ||| r.flags)) with sat := g.sat || r.sat }) s1

/-- The format SEW selects for a reconstruction by a lane instruction (R282). -/
def reconFmt (w : Nat) : Option Fmt :=
  match w with
  | 32 => some .f32
  | 16 => some .bf16
  | 8 => some .e4m3
  | _ => none

/-- The body of a lane instruction with an element-wise destination: checks, tags, elements, commit. `ops` in syntax order, the
destination first; `srcs` are those whose tags count; `rf` is the format a reconstruction takes. -/
def laneBody (s : State) (legal : Ctx → Bool) (ops : Ctx → VOp × List VOp) (readsD : Bool) (k : TagClass)
    (rf : Ctx → Option Fmt) (run : Ctx → VOp → List VOp → LaneRes) (c : Ctx) : Except Trap State := do
  let (d, ss) := ops c
  laneChecks c (legal c) 2 [d] (d :: ss)
  let (tag, rc) ← tagRule c k (if readsD then d :: ss else ss) (rf c)
  return commitLane c d tag rc (run (c.after rc.res.wrs) d ss) s

/-- A LANE INSTRUCTION with an element-wise destination. -/
def laneElem (sz : Nat) (s : State) (legal : Ctx → Bool) (ops : Ctx → VOp × List VOp) (readsD : Bool) (k : TagClass)
    (rf : Ctx → Option Fmt) (run : Ctx → VOp → List VOp → LaneRes) : Out :=
  issue sz s (laneBody s legal ops readsD k rf run)

end Sys2Proof.Machine
end

