-- ==== Sys2Proof/Machine/Arith.lean ====
section
/-! DEFINITION. The arithmetic of one element: integer (R230, R231) and floating point (R228, R229). -/

namespace Sys2Proof.Machine

/-! ### Integers of width `w` -/

/-- A result wrapped to `w` bits. -/
def wrapR (w : Nat) (x : Int) : ElRes := { val := wrap w x }
/-- A saturated result and the `sat` it sets. -/
def satR (sgn : Bool) (w : Nat) (x : Int) : ElRes :=
  let r := saturate sgn w x
  { val := wrap w r.1, sat := r.2 }
/-- High half of a product whose operands are read as `sa`, `sb` say (R230). -/
def mulhR (sa sb : Bool) (w a b : Nat) : ElRes := wrapR w (intVal sa w a * intVal sb w b / (2 ^ w : Nat))
/-- The smaller by a signedness. -/
def minR (sgn : Bool) (w a b : Nat) : ElRes := { val := if intVal sgn w a ≤ intVal sgn w b then a else b }
/-- The larger by a signedness. -/
def maxR (sgn : Bool) (w a b : Nat) : ElRes := { val := if intVal sgn w a ≤ intVal sgn w b then b else a }
/-- `VAVG`. -/
def avgR (sgn : Bool) (w a b : Nat) : ElRes := wrapR w (roundShift (intVal sgn w a + intVal sgn w b) 1)
/-- `VABSD`. -/
def absdR (sgn : Bool) (w a b : Nat) : ElRes := { val := (intVal sgn w a - intVal sgn w b).natAbs }
/-- `VSHL`, `VSRL`, `VSRA`, `VRSRA` by an amount taken modulo the width. -/
def shlR (w a n : Nat) : ElRes := { val := a * 2 ^ (n % w) % 2 ^ w }
/-- Logical shift right. -/
def srlR (w a n : Nat) : ElRes := { val := a / 2 ^ (n % w) }
/-- Arithmetic shift right. -/
def sraR (w a n : Nat) : ElRes := wrapR w (intVal true w a / (2 ^ (n % w) : Nat))
/-- Rounding shift right. -/
def rsraR (w a n : Nat) : ElRes := wrapR w (roundShift (intVal true w a) (n % w))
/-- `VPMAC2.I16X2` (R231). -/
def pmac2R (d a b : Nat) : ElRes :=
  satR true 32 (intVal true 32 d +
    (intVal true 16 (a % 65536) * intVal true 16 (b % 65536) +
     intVal true 16 (a / 65536) * intVal true 16 (b / 65536)))
/-- `VPADDS.I16X2` (R231). -/
def paddsR (a b : Nat) : ElRes :=
  let lo := satR true 16 (intVal true 16 (a % 65536) + intVal true 16 (b % 65536))
  let hi := satR true 16 (intVal true 16 (a / 65536) + intVal true 16 (b / 65536))
  { val := lo.val + 65536 * hi.val, sat := lo.sat || hi.sat }

/-! ### Floating point -/

/-- How an instruction rounds: format, mode, FZ. -/
structure FEnv where
  F : Fmt
  rm : Rm
  fz : Bool
  deriving DecidableEq, Repr

/-- The environment of lane arithmetic (R36, R38). -/
def fenv (c : Ctx) (F : Fmt) : FEnv := ⟨F, c.g.rmArith, c.g.fz⟩

/-- An operand's exact value. -/
def FEnv.dec (E : FEnv) (x : Nat) : FVal := decodeFz E.F E.fz x
/-- An exact zero of opposite terms is −0 under RDN (R37). -/
def FEnv.down (E : FEnv) : Bool := E.rm == .rdn
/-- A value rounded once, with flags already known. -/
def FEnv.out (E : FEnv) (r : FVal × Nat) : ElRes :=
  let q := roundVal E.F E.rm false E.fz 0 r.1
  { val := q.1, flags := r.2 ||| q.2 }
/-- x + y. -/
def FEnv.add (E : FEnv) (x y : Nat) : ElRes := E.out (FVal.add E.down (E.dec x) (E.dec y))
/-- x − y. -/
def FEnv.sub (E : FEnv) (x y : Nat) : ElRes := E.out (FVal.add E.down (E.dec x) (E.dec y).neg)
/-- x × y. -/
def FEnv.mul (E : FEnv) (x y : Nat) : ElRes := E.out (FVal.mul (E.dec x) (E.dec y))
/-- x / y. -/
def FEnv.div (E : FEnv) (x y : Nat) : ElRes := E.out (FVal.div (E.dec x) (E.dec y))
/-- ± x × y ± d with one rounding. -/
def FEnv.fma (E : FEnv) (negP negD : Bool) (x y d : Nat) : ElRes :=
  let p := FVal.mul (E.dec x) (E.dec y)
  let r := FVal.add E.down (if negP then p.1.neg else p.1) (if negD then (E.dec d).neg else E.dec d)
  E.out (r.1, p.2 ||| r.2)
/-- Order with −0 below +0 (R228). -/
def FVal.below (x y : FVal) : Bool := FVal.lt x y || (FVal.eq x y && x.sign && !y.sign)
/-- Minimum and maximum (R228): the larger if `mx`. -/
def FEnv.minmax (E : FEnv) (mx : Bool) (x y : Nat) : ElRes :=
  let a := E.dec x
  let b := E.dec y
  let f := Fl.when (a.isSig || b.isSig) Fl.nv
  let ax := flushIn E.F E.fz x
  let bx := flushIn E.F E.fz y
  { val := if a.isNan && b.isNan then E.F.canonNaN
           else if a.isNan then bx
           else if b.isNan then ax
           else if FVal.below b a == mx then ax else bx
    flags := f }
/-- Compares (R229): 0 EQ, 1 LT, 2 LE, 3 UN. -/
def FEnv.cmp (E : FEnv) (k x y : Nat) : ElRes :=
  let a := E.dec x
  let b := E.dec y
  let un := a.isNan || b.isNan
  let sig := a.isSig || b.isSig
  match k with
  | 0 => { val := b2n (FVal.eq a b), flags := Fl.when sig Fl.nv }
  | 1 => { val := b2n (FVal.lt a b), flags := Fl.when un Fl.nv }
  | 2 => { val := b2n (FVal.lt a b || FVal.eq a b), flags := Fl.when un Fl.nv }
  | _ => { val := b2n un, flags := Fl.when sig Fl.nv }
/-- Square root (R229). -/
def FEnv.sqrt (E : FEnv) (x : Nat) : ElRes := E.out (E.dec x).sqrt
/-- `VABS` and `VNEG` (R229): the sign bit alone, whatever FZ holds. -/
def signOp (F : Fmt) (neg : Bool) (x : Nat) : ElRes :=
  match F.decode x with
  | .nan sg => { val := F.canonNaN, flags := Fl.when sg Fl.nv }
  | _ =>
    let mag := x % 2 ^ (F.bits - 1)
    { val := if neg then (x + 2 ^ (F.bits - 1)) % 2 ^ F.bits else mag }
/-- `VCLASS` (R229). -/
def classOp (F : Fmt) (x : Nat) : ElRes :=
  let mag := x % 2 ^ (F.bits - 1)
  let k := match F.decode x with
    | .nan sg => if sg then 8 else 9
    | .inf neg => if neg then 0 else 7
    | .fin neg n _ =>
      if n = 0 then (if neg then 3 else 4)
      else if mag < 2 ^ F.p then (if neg then 2 else 5)
      else (if neg then 1 else 6)
  { val := 2 ^ k }
/-- Both BF16 halves of a word (R229). -/
def halves (f : Nat → Nat → ElRes) (x y : Nat) : ElRes :=
  let a := f (x % 65536) (y % 65536)
  let b := f (x / 65536) (y / 65536)
  { val := a.val + 65536 * b.val, flags := a.flags ||| b.flags }
/-- Both BF16 halves of three words. -/
def halves3 (f : Nat → Nat → Nat → ElRes) (x y z : Nat) : ElRes :=
  let a := f (x % 65536) (y % 65536) (z % 65536)
  let b := f (x / 65536) (y / 65536) (z / 65536)
  { val := a.val + 65536 * b.val, flags := a.flags ||| b.flags }

/-- The format T names in majors 0x30 to 0x38 (R221). -/
def fmtT (t : Nat) : Fmt :=
  match t with
  | 0 => .f16
  | 1 => .bf16
  | 2 => .f32
  | _ => .f64
/-- The format SEW selects in majors 0x39 to 0x3B, and for reductions (R221). -/
def fmtSew (w : Nat) : Option Fmt :=
  match w with
  | 16 => some .bf16
  | 32 => some .f32
  | 64 => some .f64
  | _ => none

end Sys2Proof.Machine
end

