-- ==== Sys2Proof/Machine/Memory.lean ====
section
/-! DEFINITION. The memory engine below the instructions: partitions, the physical map, page walks, translation caches, coherence
tokens, and reading and writing at the place a pointer names (R151 to R172). -/

namespace Sys2Proof.Machine

/-! ### Partitions and the physical map -/

/-- The C-die of a core; cores are 40 to a die, 8 to a cluster (R2). -/
def dieOf (core : Nat) : Nat := core / 40
/-- The cluster of a core. -/
def clusterOf (core : Nat) : Nat := core / 8
/-- The time that `n` clocks of a core take: its cluster's arithmetic clock runs at a percentage of its rate (R412). -/
def clkTime (s : State) (core n : Nat) : Nat := cdiv (400 * n) (s.therm.get {} (clusterOf core)).clock

namespace State

/-- The enabled C-dies, ascending. -/
def enabledDies (s : State) : List Nat := (List.range 8).filter (fun d => s.dies.testBit d)
/-- Enabled dies per partition (R403). -/
def diesPerPart (s : State) : Nat := s.enabledDies.length / s.npart
/-- The dies of partition `k` (R403). -/
def partDies (s : State) (k : Nat) : List Nat := (s.enabledDies.drop (k * s.diesPerPart)).take s.diesPerPart
/-- The partition of a die. -/
def partOfDie (s : State) (d : Nat) : Nat :=
  ((List.range s.npart).find? (fun k => (s.partDies k).contains d)).getD 0
/-- The partition of a core. -/
def partOf (s : State) (core : Nat) : Nat := s.partOfDie (dieOf core)
/-- A 64-bit register of BAR0 without behaviour of its own; unwritten registers read as their reset value. -/
def cfgGet (s : State) (off : Nat) : Nat := s.cfg.get 0 off
/-- Offset of partition `k`'s block (R404). -/
def pblock (k : Nat) : Nat := 0x2000 + 0x40 * k
/-- The fabric rank of a partition, if it has one (R404). -/
def rankOf (s : State) (k : Nat) : Option Nat :=
  let x := s.cfgGet (pblock k + 0x20)
  if x.testBit 15 then some (x % 4096) else none
/-- The tenant of a partition (R404). -/
def tenantOf (s : State) (k : Nat) : Nat := s.cfgGet (pblock k + 0x20) / 2 ^ 16 % 2 ^ 16
/-- The partition of this package with a fabric rank. -/
def partOfRank (s : State) (rank : Nat) : Option Nat :=
  (List.range s.npart).find? (fun k => s.rankOf k == some rank)
/-- Program-visible bytes of a die's SRAM (R167). -/
def sramSize (s : State) (die : Nat) : Nat := s.cfgGet (0x1000 + 0x100 * die) % 16 * 2 ^ 23

end State

/-- Base of the HBM stack of a die (R159). -/
def hbmBase (d : Nat) : Nat := d * 2 ^ 36
/-- LPDDR: base and size (R159). -/
def lpBase : Nat := 0x010000000000
/-- LPDDR size. -/
def lpSize : Nat := 0xC000000000
/-- Host-core memory (R401). -/
def hostMem : Nat := 0x01BF00000000
/-- The dump region (R415). -/
def dumpBase (s : State) : Nat := hbmBase ((s.enabledDies.head?).getD 0) + 0x000FC0000000

/-- A physical range lies in a partition's memory (R159, R403). -/
def inPart (s : State) (k pa n : Nat) : Bool :=
  (s.partDies k).any (fun d => decide (hbmBase d ≤ pa) && decide (pa + n ≤ hbmBase d + 2 ^ 36)
      && (decide (pa + n ≤ dumpBase s) || decide (dumpBase s + 2 ^ 30 ≤ pa))) ||
  (decide (lpBase + k * (lpSize / s.npart) ≤ pa) && decide (pa + n ≤ lpBase + (k + 1) * (lpSize / s.npart))
      && decide (pa + n ≤ hostMem))

/-! ### Cells -/

/-- A byte of a cell list; unlisted bytes are zero (R167, R417). (DEDUCED, log entry 113) -/
def cellGet : List Host.Cell → Nat → Byte
  | [], _ => 0
  | (k, b) :: t, a => if a = k then b else cellGet t a
/-- A byte written, the list kept rising and free of zeros. -/
def cellSet : List Host.Cell → Nat → Byte → List Host.Cell
  | [], a, x => if x = 0 then [] else [(a, x)]
  | (k, b) :: t, a, x =>
    if a < k then (if x = 0 then (k, b) :: t else (a, x) :: (k, b) :: t)
    else if a = k then (if x = 0 then t else (a, x) :: t)
    else (k, b) :: cellSet t a x
/-- `n` bytes from an address. -/
def cellsGet (m : List Host.Cell) (a n : Nat) : List Byte := (List.range n).map (fun i => cellGet m (a + i))
/-- Bytes written at an address. -/
def cellsSet (m : List Host.Cell) (a : Nat) : List Byte → List Host.Cell
  | [] => m
  | b :: t => cellsSet (cellSet m a b) (a + 1) t
/-- The canonical form of a memory: addresses strictly rise, and no listed byte is zero. -/
def Memory.wf : List Host.Cell → Bool
  | [] => true
  | [(_, b)] => b != 0
  | (k, b) :: (k', b') :: t => b != 0 && decide (k < k') && Memory.wf ((k', b') :: t)

namespace State
/-- Physical bytes as a number. -/
def pmRd (s : State) (pa n : Nat) : Nat := fromBytes (cellsGet s.mem pa n)
/-- Physical bytes written. -/
def pmWr (s : State) (pa n v : Nat) : State := { s with mem := cellsSet s.mem pa (toBytes n v) }
end State

/-! ### Page walks -/

/-- Who accesses: group (for its window), core, partition, ASID, privilege, code segment. -/
structure Who where
  gid : Nat
  core : Nat
  part : Nat
  asid : Nat
  priv : Bool
  code : Nat
  clen : Nat
  w : Nat
  deriving DecidableEq, Repr

/-- The accessor of an instruction. -/
def whoOf (s : State) (c : Ctx) : Who :=
  { gid := c.run.gid, core := c.co.core, part := s.partOf c.co.core, asid := c.la.asid, priv := c.la.priv,
    code := c.la.code, clen := c.la.clen, w := c.g.w }

/-- The accessor that a group is. -/
def whoOfGid (s : State) (gid : Nat) : Option Who :=
  match s.groups.find gid with
  | none => none
  | some g => match s.cohorts.find g.cid with
    | none => none
    | some co => match s.launches.find co.launch with
      | none => none
      | some la => some { gid := gid, core := co.core, part := s.partOf co.core, asid := la.asid, priv := la.priv,
                          code := la.code, clen := la.clen, w := g.w }

/-- A leaf found by a walk: its physical address, value and level (R155, R156). -/
structure Leaf where
  addr : Nat
  pte : Nat
  lvl : Nat
  deriving DecidableEq, Repr

/-- Index of a virtual address at a level (R155). -/
def vaIndex (lvl va : Nat) : Nat :=
  match lvl with
  | 0 => bits va 20 16
  | 1 => bits va 29 21
  | 2 => bits va 44 30
  | _ => bits va 59 45
/-- Size of a table of a level (R155). -/
def tableSize (lvl : Nat) : Nat :=
  match lvl with
  | 0 => 256
  | 1 => 4096
  | _ => 0x40000

namespace Leaf
/-- STATE (R157). -/
def st (l : Leaf) : Nat := l.pte % 16
/-- The field FRAME as a physical address. -/
def frame (l : Leaf) : Nat := bits l.pte 47 16 * 2 ^ 16
/-- RD, W, X, PRIV. -/
def rd (l : Leaf) : Bool := l.pte.testBit 6
/-- W. -/
def wr (l : Leaf) : Bool := l.pte.testBit 7
/-- X. -/
def x (l : Leaf) : Bool := l.pte.testBit 8
/-- PRIV. -/
def priv (l : Leaf) : Bool := l.pte.testBit 9
/-- MGEN (R163). -/
def mgen (l : Leaf) : Nat := bits l.pte 63 56
/-- The lattice type code. -/
def aux (l : Leaf) : Nat := bits l.pte 55 48
/-- Physical address of a virtual address on the page; a lattice page has its replica on the core's die (R313, R314). -/
def pa (l : Leaf) (die va : Nat) : Nat :=
  if l.st = 5 then hbmBase die + bits l.pte 35 16 * 2 ^ 16 + va % 2 ^ 16
  else l.frame + va % 2 ^ pageBits l.lvl
end Leaf

/-- The DETAIL of ADDRESS a leaf entry raises, if any (R157, R313). (DEDUCED, log entry 89) -/
def leafFault (s : State) (part lvl pte : Nat) : Option Nat :=
  let st := pte % 16
  let l : Leaf := ⟨0, pte, lvl⟩
  if st = 0 then some 2
  else if 8 ≤ st then some 3
  else if bits pte 15 12 ≠ 0 ∨ bits pte 5 4 ≠ 0 then some 3
  else if lvl = 3 then some 3
  else if st = 5 ∧ (l.aux = 0 ∨ 7 < l.aux) then some 3
  else if st = 2 ∧ (bits pte 55 50 ≠ 0 ∨ bits pte 35 16 ≠ 0 ∨ bits pte 49 48 = 3) then some 3
  else if st ≠ 5 ∧ st ≠ 2 ∧ l.aux ≠ 0 then some 3
  else if st ≠ 1 ∧ 0 < lvl then some 6
  else if st = 5 ∧ bits pte 47 36 ≠ 0 then some 4
  else if st ≠ 2 ∧ st ≠ 5 ∧ (l.frame % 2 ^ pageBits lvl ≠ 0 ∨ !inPart s part l.frame (2 ^ pageBits lvl)) then some 4
  else none

/-- The DETAIL a TABLE entry of a level raises, if any (R156, R157). (DEDUCED, log entry 36) -/
def tableFault (s : State) (part lvl pte : Nat) : Option Nat :=
  let base := bits pte 47 8 * 256
  if lvl = 0 ∨ bits pte 63 48 ≠ 0 ∨ bits pte 7 4 ≠ 0 then some 3
  else if base % tableSize (lvl - 1) ≠ 0 ∨ !inPart s part base (tableSize (lvl - 1)) then some 4
  else none

/-- The walk from a level down (R155, R157), its entries read by `rd`: the leaf and the TABLE entries passed, or a DETAIL of ADDRESS. -/
def walkFrom (s : State) (part : Nat) (rd : Nat → Nat) (va : Nat) : Nat → Nat → List (Nat × Nat) → Except Nat (Leaf × List (Nat × Nat))
  | 0, _, _ => .error 3
  | n + 1, base, path =>
    let addr := base + 8 * vaIndex n va
    let pte := rd addr
    if pte % 16 = 7 then
      match tableFault s part n pte with
      | some d => .error d
      | none => walkFrom s part rd va n (bits pte 47 8 * 256) ((addr, pte) :: path)
    else match leafFault s part n pte with
      | some d => .error d
      | none => .ok (⟨addr, pte, n⟩, path)

/-- The ASID table's entry (R160). -/
def asidEntry (s : State) (part asid : Nat) : Nat := s.pmRd (s.cfgGet (State.pblock part + 8) + 8 * asid) 8
/-- V of an ASID. -/
def asidValid (s : State) (part asid : Nat) : Bool := (asidEntry s part asid).testBit 15
/-- GEN of an ASID. -/
def asidGen (s : State) (part asid : Nat) : Nat := asidEntry s part asid % 4096

/-- A walk from the root of an ASID, its entries read by `rd`. -/
def walkWith (s : State) (part asid : Nat) (rd : Nat → Nat) (va : Nat) : Except Nat (Leaf × List (Nat × Nat)) :=
  let e := asidEntry s part asid
  if !e.testBit 15 then .error 9
  else
    let root := bits e 47 18 * 2 ^ 18
    if !inPart s part root 0x40000 then .error 4
    else walkFrom s part rd va 4 root []

/-- The place of an entry of a store queue in program order. -/
def Held.id : Held → Nat
  | .store i _ => i
  | .atomic i _ => i
  | .rel i _ => i

/-- An entry of a store queue is a `PTSYNC` (R150). -/
def Held.isSync : Held → Bool
  | .rel _ .ptsync => true
  | _ => false

/-- The entries of a store queue that some later `PTSYNC` of the group has made visible to the walkers (R150). -/
def syncedBefore : List Held → List Held
  | [] => []
  | h :: t => if (h :: t).any Held.isSync then h :: syncedBefore t else []

/-- The bytes a held store will leave, by the physical address its page stands at, in program order (R150, R163). -/
def syncedBytes (s : State) (part : Nat) : List (Nat × Byte) :=
  s.groups.flatMap (fun (e : Nat × Group) =>
    let q := syncedBefore (e.2.stq ++ e.2.stqWait)
    if q.isEmpty then []
    else match s.cohorts.find e.2.cid with
      | none => []
      | some co => match s.launches.find co.launch with
        | none => []
        | some la =>
          if s.partOf co.core ≠ part then []
          else
            let els : List StEl := q.flatMap (fun h => match h with
              | .store _ els => els.map (·.2)
              | .rel _ (.store x _ _) => [x]
              | _ => [])
            els.flatMap (fun x =>
              if bits x.ptr 62 60 ≠ 0 then []
              else match walkWith s part la.asid (fun a => s.pmRd a 8) (x.ptr % 2 ^ 60) with
                | .ok (l, _) => if l.st = 1 then (List.range x.n).map (fun i =>
                    (l.frame + x.ptr % 2 ^ 60 % 2 ^ pageBits l.lvl + i, BitVec.ofNat 8 (x.val / 256 ^ i))) else []
                | .error _ => []))

/-- Bytes of memory with synced held stores laid over them. -/
def overlaid (s : State) (syn : List (Nat × Byte)) (a n : Nat) : Nat :=
  if syn.isEmpty then s.pmRd a n
  else fromBytes ((List.range n).map (fun i => match (syn.filter (fun b => b.1 == a + i)).getLast? with
    | some b => b.2
    | none => cellGet s.mem (a + i)))

/-- A table entry as the walker reads it: as the table stands, or a stale TABLE entry of the walk cache that may still hit (R150, R161, R162). -/
def readEntry (s : State) (syn : List (Nat × Byte)) (part asid cluster addr : Nat) : Nat :=
  let v := overlaid s syn addr 8
  match s.walks.find? (fun e => e.cluster == cluster && e.part == part && e.asid == asid && e.addr == addr && e.gen == asidGen s part asid) with
  | some e => if e.pte ≠ v ∧ Config.tlbHit s.tick addr then e.pte else v
  | none => v

/-- The entries a walk reads from a level down, whether it ends at a leaf or in a fault (R155, R168). -/
def walkReads (s : State) (part : Nat) (rd : Nat → Nat) (va : Nat) : Nat → Nat → List Nat
  | 0, _ => []
  | n + 1, base =>
    let addr := base + 8 * vaIndex n va
    let pte := rd addr
    addr :: (if pte % 16 = 7 ∧ (tableFault s part n pte).isNone then walkReads s part rd va n (bits pte 47 8 * 256) else [])

/-- The table lines that the walk of an address reads. -/
def walkLines (s : State) (part asid cluster va : Nat) : List Nat :=
  let e := asidEntry s part asid
  let root := bits e 47 18 * 2 ^ 18
  if !e.testBit 15 || !inPart s part root 0x40000 then []
  else (walkReads s part (readEntry s (syncedBytes s part) part asid cluster) va 4 root).map (· / 128)

/-- THE WALK of a virtual address under an ASID (R155 to R163). -/
def walk (s : State) (part asid cluster va : Nat) : Except Nat (Leaf × List (Nat × Nat)) :=
  walkWith s part asid (readEntry s (syncedBytes s part) part asid cluster) va

/-! ### Translation -/

/-- Kinds of access. -/
inductive Acc where
  | rd | wr | at | fetch
  deriving DecidableEq, Repr

/-- The page lies in the launch's code segment (R56). -/
def inCode (u : Who) (va lvl : Nat) : Bool :=
  let b := va / 2 ^ pageBits lvl
  decide (u.code / 2 ^ pageBits lvl ≤ b) && decide (b ≤ (u.code + 4 * u.clen - 1) / 2 ^ pageBits lvl)

/-- The DETAIL of PERM an access raises on a leaf, if any (R56, R158): a page of the launch's code segment is execute-only whatever its W
says, and RD alone decides whether it can be loaded from (DESIGN CHOICE, log entry 146). Where several deny, the missing permission comes before
PRIV. (DEDUCED, log entry 36) -/
def permFault (u : Who) (a : Acc) (va : Nat) (l : Leaf) : Option Nat :=
  let user : Option Nat := if l.priv && !u.priv then some 4 else none
  match a with
  | .fetch => if !l.x then some 7 else user
  | .rd => if !l.rd then some 2 else user
  | _ => if inCode u va l.lvl then some 6 else if !l.wr then some 3 else user

/-- The cached translation of an address that could hit (R161, R162). (DESIGN CHOICE, log entry 35) -/
def tlbFind (s : State) (u : Who) (va : Nat) : Option TlbE :=
  let gen := asidGen s u.part u.asid
  s.tlb.find? (fun e => (e.unit == u.core || e.unit == 1000 + clusterOf u.core) && e.part == u.part && e.asid == u.asid &&
    e.gen == gen && e.page == va / 2 ^ pageBits e.lvl)

/-- A translation: the leaf used, and whether it came from the table as it stands. -/
structure Xlat where
  leaf : Leaf
  fresh : Bool
  path : List (Nat × Nat)
  deriving DecidableEq, Repr

/-- TRANSLATION (R157, R158, R162, R163): a stale cached entry may hit; one that denies the access is dropped and the page walked, and so
is the page of a first write through one, whose D the walker cannot set where the entry has changed. -/
def xlate (s : State) (u : Who) (a : Acc) (va : Nat) : Except Nat Xlat :=
  let w := walk s u.part u.asid (clusterOf u.core) va
  let fresh : Except Nat Xlat := match w with
    | .ok (l, p) => .ok ⟨l, true, p⟩
    | .error d => .error d
  match tlbFind s u va with
  | none => fresh
  | some e =>
    let l : Leaf := ⟨e.addr, e.pte, e.lvl⟩
    let same : Bool := match w with
      | .ok (l', _) => l' == l
      | .error _ => false
    let first : Bool := (a == .wr || a == .at) && l.st != 3 && !l.pte.testBit 10
    if !same && !first && Config.tlbHit s.tick va && (permFault u a va l).isNone then .ok ⟨l, false, []⟩ else fresh

/-! ### L1 slices -/

/-- The L1 slice that serves an address for a cluster: an agent, by its core (R166). -/
def sliceOf (core va : Nat) : Nat := 8 * clusterOf core + va / 128 % 8

/-- The permission bits of a line allow an access (R164). -/
def L1Line.allows (x : L1Line) (a : Acc) : Bool :=
  match a with
  | .rd => x.rd
  | .fetch => x.x
  | _ => x.wr

/-- A line's tag is that of an access (R164). -/
def L1Line.tagged (s : State) (u : Who) (va : Nat) (x : L1Line) : Bool :=
  x.slice == sliceOf u.core va && x.tag == va / 128 && x.part == u.part && x.asid == u.asid && x.gen == asidGen s u.part u.asid

/-- The line of the slice that an access hits (R164): tag, stamp of the current translation, permission. -/
def l1Hit (s : State) (u : Who) (a : Acc) (va : Nat) (l : Leaf) : Option L1Line :=
  s.l1.find? (fun x => x.tagged s u va && x.mgen == l.mgen && x.allows a)

/-- Where a pointer leads. -/
inductive Place where
  /-- A physical address on a resident page of a state. -/
  | phys (pa st : Nat)
  | sram (k : Nat)
  | win (off : Nat)
  | fabric (rank off : Nat)
  /-- A page that Meridian must bring or collapse (R158): its VPN. -/
  | away (vpn : Nat)
  deriving DecidableEq, Repr

/-- The page key of a device-virtual page under an ASID, if a GASID is bound to it (R334, R335). -/
def pageKey (s : State) (part asid vpn : Nat) : Option Nat :=
  (s.binds.find (65536 * part + asid)).map (fun g => g * 2 ^ 44 + vpn)
/-- The key of a page as an ASID reaches it; an ASID without a binding has keys of its own (R334). -/
def keyOf (s : State) (part asid vpn : Nat) : Nat :=
  (pageKey s part asid vpn).getD (2 ^ 76 + (65536 * part + asid) * 2 ^ 44 + vpn)

/-- Records are chained on a resident page: no access to it is performed directly (R186, R338). -/
def chained (s : State) (u : Who) (st va : Nat) : Bool :=
  !s.chains.isEmpty && (st == 1 || st == 3 || st == 4) && (s.chains.find (keyOf s u.part u.asid (va / 2 ^ 16))).isSome

/-- A device-virtual address of `n` bytes (R154, R157, R158): place or fault, in the order ADDRESS, ALIGN, PERM, LTYPE. (DEDUCED, log entry 21) -/
def place0 (s : State) (u : Who) (a : Acc) (ptr n : Nat) : Except Trap Place :=
  let va := ptr % 2 ^ 60
  match xlate s u a va with
  | .error d => .error { code := 0x07, detail := d, addr := ptr }
  | .ok x =>
    if va % n ≠ 0 then .error { code := 0x08, addr := ptr }
    else match permFault u a va x.leaf with
      | some d => .error { code := 0x09, detail := d, addr := ptr }
      | none =>
        let st := x.leaf.st
        let line : Option L1Line := if st = 5 then none else l1Hit s u a va x.leaf
        let here : Except Trap Place := .ok (.phys (match line with
          | some h => 128 * h.line + va % 128
          | none => x.leaf.pa (dieOf u.core) va) st)
        let away : Except Trap Place := .ok (.away (va / 2 ^ 16))
        let held := chained s u st va
        match a with
        | .rd => if st = 2 ∨ st = 6 ∨ held then away else here
        | .fetch => here
        | _ => if st = 5 then .error { code := 0x0E, detail := 3, addr := ptr }
               else if st = 2 ∨ st = 3 ∨ st = 6 ∨ held then away else here

/-- WHERE AN ACCESS GOES (R151 to R154): `n` bytes at a pointer, or the fault it raises. -/
def placeOf (s : State) (u : Who) (a : Acc) (ptr n : Nat) : Except Trap Place :=
  let sp := bits ptr 62 60
  match sp with
  | 0 => place0 s u a ptr n
  | 1 => if ptr % n ≠ 0 then .error { code := 0x08, addr := ptr } else .ok (.fabric (bits ptr 59 48) (ptr % 2 ^ 48))
  | 2 =>
    let die := bits ptr 28 26
    let off := ptr % 2 ^ 26
    if bits ptr 59 29 ≠ 0 ∨ !s.dies.testBit die ∨ s.sramSize die ≤ off then .error { code := 0x07, detail := 5, addr := ptr }
    else if ptr % n ≠ 0 then .error { code := 0x08, addr := ptr }
    else if !(s.partDies u.part).contains die then .error { code := 0x09, detail := 5, addr := ptr }
    else .ok (.sram (die * 2 ^ 26 + off))
  | 3 =>
    let off := ptr % 2 ^ 60
    if 128 * u.w ≤ off then .error (.window (off / 128))
    else if ptr % n ≠ 0 then .error { code := 0x08, addr := ptr }
    else .ok (.win off)
  | _ => .error { code := 0x07, detail := 1, addr := ptr }

/-! ### Lines held by copies -/

/-- Destination bytes per row of a copy (R302). -/
def CopyJob.dlen (j : CopyJob) : Nat :=
  if j.conv = 1 ∨ j.conv = 2 then j.len / 2 else if j.conv = 3 ∨ j.conv = 4 then 2 * j.len else j.len
/-- Address of a destination byte: row and place in it (R302). -/
def CopyJob.dstAt (j : CopyJob) (row k : Nat) : Nat := wrap 64 ((j.dst : Int) + (row : Int) * j.dstr + (k : Int))

/-- The destination bytes not yet delivered: address and length of the rest of each row. -/
def CopyJob.rest (j : CopyJob) : List (Nat × Nat) :=
  (List.range (j.rows - j.done / j.dlen)).map (fun i =>
    let row := j.done / j.dlen + i
    let k := if i = 0 then j.done % j.dlen else 0
    (j.dstAt row k, j.dlen - k))

/-- A copy holds the tokens of a physical line: it is a destination line in space 0 not yet written (R171). (DEDUCED, log entry 66) -/
def CopyJob.holds (s : State) (part asid die : Nat) (j : CopyJob) (pa : Nat) : Bool :=
  bits j.dst 62 60 == 0 && j.rest.any (fun e =>
    let va := e.1 % 2 ^ 60
    (List.range ((va % 65536 + e.2 - 1) / 65536 + 1)).any (fun i =>
      let page := (va / 65536 + i) * 65536
      match walk s part asid 40 page with
      | .ok (l, _) =>
        let line := page / 128 + pa % 65536 / 128
        l.pa die page / 65536 == pa / 65536 && l.st != 2 && l.st != 6 && decide (va / 128 ≤ line) && decide (line ≤ (va + e.2 - 1) / 128)
      | .error _ => false))

/-- Some copy holds a physical line against an accessor: not against the accesses its own group made before it (R171), nor, for a copy
engine (`core` with `asCopy`), against copies of the same core or issued later. -/
def heldByCopy (s : State) (gid id core : Nat) (asCopy : Bool) (pa : Nat) : Bool :=
  s.cohorts.any (fun c =>
    c.2.chans.any (fun h => h.2.q.any (fun o => match o with
      | .copy j =>
        if asCopy then c.2.core != core && decide (j.pid < id) else !(j.gid == gid && decide (id < j.pid))
      | .seed _ => false)) &&
    (match s.launches.find c.2.launch with
      | some la => c.2.chans.any (fun h => h.2.q.any (fun o => match o with
        | .copy j =>
          (if asCopy then c.2.core != core && decide (j.pid < id) else !(j.gid == gid && decide (id < j.pid))) &&
          j.holds s (s.partOf c.2.core) la.asid (dieOf c.2.core) pa
        | .seed _ => false))
      | none => false))

/-! ### Coherence -/

/-- The tokens of a line that slices and walkers hold. -/
def tokOf (s : State) (line : Nat) : LineTok := s.coh.get {} line
/-- A change of a line's token state. -/
def updTok (line : Nat) (f : LineTok → LineTok) (s : State) : State := { s with coh := s.coh.set {} line (f (tokOf s line)) }

/-- The tokens of a line (R168, R171): the engine of a copy holds all 64 of a destination line from the copy's issue on. -/
def tokensOf (s : State) (line : Nat) : LineTok :=
  match s.cohorts.find? (fun c => match s.launches.find c.2.launch with
    | some la => c.2.chans.any (fun h => h.2.q.any (fun o => match o with
      | .copy j => j.holds s (s.partOf c.2.core) la.asid (dieOf c.2.core) (128 * line)
      | .seed _ => false))
    | none => false) with
  | some c => { tokOf s line with held := [(1000 + c.2.core, 64)], owner := some (1000 + c.2.core) }
  | none => tokOf s line

namespace LineTok
/-- Tokens an agent holds. -/
def of (t : LineTok) (agent : Nat) : Nat := ((t.held.find? (fun h => h.1 == agent)).map (·.2)).getD 0
/-- Tokens at home. -/
def home (t : LineTok) : Nat := 64 - (t.held.map (·.2)).foldl (· + ·) 0
/-- One token taken from whoever can spare it: the home, the owner token last, or the holder with the most (R168). -/
def giveOne (t : LineTok) (agent : Nat) : LineTok :=
  if t.of agent ≠ 0 then t
  else if t.home ≠ 0 then
    { t with held := (agent, 1) :: t.held, owner := if t.home = 1 ∧ t.owner = none then some agent else t.owner }
  else
    let best := t.held.foldl (fun (b : Nat × Nat) h => if b.2 < h.2 then h else b) (0, 0)
    { t with held := (agent, 1) :: (t.held.map (fun h => if h.1 = best.1 then (h.1, h.2 - 1) else h)).filter (fun h => h.2 != 0)
             owner := if t.owner = some best.1 ∧ best.2 = 1 then some agent else t.owner }
/-- All 64 tokens taken (R168). -/
def giveAll (t : LineTok) (agent : Nat) : LineTok := { t with held := [(agent, 64)], owner := some agent }
/-- An agent's tokens return to the home, the owner token among them (R168). -/
def putBack (t : LineTok) (agent : Nat) : LineTok :=
  { t with held := t.held.filter (fun h => h.1 != agent), owner := if t.owner = some agent then none else t.owner }
/-- A request is over: it is no longer outstanding, its persistent entry is released, the next one in order takes every token (R169). -/
def release (agent : Nat) (t : LineTok) : LineTok :=
  let t1 : LineTok := { t with tries := t.tries.filter (fun e => e.agent != agent), persist := t.persist.filter (fun e => e.1 != agent) }
  match t.persist, t1.persist with
  | (a, _) :: _, (b, _) :: _ => if a = agent then t1.giveAll b else t1
  | _, _ => t1
/-- Another agent's persistent request is active (R169). -/
def claimed (t : LineTok) (agent : Nat) : Bool :=
  match t.persist with
  | (a, _) :: _ => a != agent
  | [] => false
end LineTok

/-- Prefetched lines, by core, line and level, that are lost before any demand access: PF.USELESS (R216). -/
def endPf (bad : Nat → Nat × Nat → Bool) (s : State) : State :=
  (s.cores.filter (fun (e : Nat × Core) => e.2.pf.any (bad e.1))).foldl (fun s e =>
    s.updCore e.1 (fun q => { q with
      pf := q.pf.filter (fun p => !bad e.1 p), mcnt := q.mcnt.set 0 3 ((q.mcnt.get 0 3 + (q.pf.filter (bad e.1)).length) % 2 ^ 64) })) s

/-- Lines leave their L1 slices (R164, R168): a slice's tokens of a line go home unless it holds the line under another address too. -/
def dropLines (bad : L1Line → Bool) (s : State) : State :=
  let gone := s.l1.filter bad
  if gone.isEmpty then s
  else
    let keep := s.l1.filter (fun x => !bad x)
    gone.foldl (fun s x =>
      endPf (fun k p => clusterOf k == clusterOf x.slice && p == (x.line, 0))
        (if keep.any (fun y => y.slice == x.slice && y.line == x.line) then s else updTok x.line (fun t => t.putBack x.slice) s))
      { s with l1 := keep }

/-- Halves of a region until the line's region is a line or no other cluster holds lines in it (R170). -/
def splitAt (others : List Nat) (line cl now : Nat) : Nat → Region → List Region
  | 0, r => [{ r with cluster := none, quiet := now }]
  | n + 1, r =>
    let clash := others.any (fun x => decide (r.base ≤ x * 128) && decide (x * 128 < r.base + r.size))
    if !clash then [{ r with cluster := some cl, quiet := now }]
    else if r.size ≤ 128 then [{ r with cluster := none, quiet := now }]
    else
      let h := r.size / 2
      let lo : Region := { r with size := h, quiet := now }
      let hi : Region := { r with base := r.base + h, size := h, quiet := now }
      if line * 128 < r.base + h then splitAt others line cl now n lo ++ [hi] else lo :: splitAt others line cl now n hi

/-- The region of a line. -/
def regionOf (s : State) (line : Nat) : Option Region :=
  s.regions.find? (fun r => decide (r.base ≤ line * 128) && decide (line * 128 < r.base + r.size))

/-- Lines that other clusters hold tokens of. -/
def othersLines (s : State) (cl : Nat) : List Nat :=
  (s.coh.filter (fun (e : Nat × LineTok) => e.2.held.any (fun h => decide (h.1 < 320) && h.1 / 8 != cl))).map (·.1)

/-- A request of a cluster seen by the region tracking (R170): `others` are the lines other clusters held when it was sent. -/
def trackRegion (cl line : Nat) (others : List Nat) (s : State) : State :=
  match regionOf s line with
  | none => { s with regions := ⟨line / 512 * 65536, 65536, some cl, s.now⟩ :: s.regions }
  | some r =>
    if r.cluster = some cl ∨ r.cluster = none then s
    else { s with regions := s.regions.filter (fun x => x.base != r.base || x.size != r.size) ++ splitAt others line cl s.now 10 r }

/-- Where a cluster's transient request for a line goes beside the home (R170): nowhere from a region private to it, else to every other
cluster of the partition. -/
def requestTargets (s : State) (cl line : Nat) : List Nat :=
  if (regionOf s line).any (fun r => r.cluster == some cl) then []
  else (s.partDies (s.partOfDie (cl / 5))).flatMap (fun d => ((List.range 5).map (fun i => 5 * d + i)).filter (· != cl))

/-- An agent gathers the tokens its access needs, and its request is over (R168, R169): slices left without a token lose the line;
accesses of cores are seen by the region tracking. (DESIGN CHOICE, log entry 74) -/
def takeTokens (agent line : Nat) (excl : Bool) (s : State) : State :=
  let t := tokOf s line
  let t' := if excl then t.giveAll agent else t.giveOne agent
  let others := othersLines s (agent / 8)
  let s1 := if t' = t then s else dropLines (fun x => x.line == line && t'.of x.slice == 0) { s with coh := s.coh.set {} line t' }
  let s2 := if agent < 320 ∧ t' ≠ t then trackRegion (agent / 8) line others s1 else s1
  if t.tries.isEmpty ∧ t.persist.isEmpty then s2
  else
    let s3 := updTok line (LineTok.release agent) s2
    dropLines (fun x => x.line == line && (tokOf s3 line).of x.slice == 0) s3

/-- Tokens taken for one access and returned (R153, R168): a walker's, a copy engine's read, a miss that allocates no line. -/
def lendTokens (agent line : Nat) (excl : Bool) (s : State) : State :=
  updTok line (fun t => t.putBack agent) (takeTokens agent line excl s)

/-- The home gathers every token of `n` lines for a write of its own (R168): no slice keeps one of them. -/
def homeTake (line n : Nat) (s : State) : State :=
  let mine (k : Nat) : Bool := decide (line ≤ k) && decide (k < line + n)
  let s1 := dropLines (fun x => mine x.line) s
  if s1.coh.isEmpty then s1
  else { s1 with coh := s1.coh.filterMap (fun (e : Nat × LineTok) =>
    if !mine e.1 then some e
    else if e.2.tries.isEmpty && e.2.persist.isEmpty then none else some (e.1, { e.2 with held := [], owner := none })) }

/-- Meridian gathers every token of a page it moves (R168, R333, R345): no slice keeps a line of it, nor does the LLC. -/
def gatherPage (pa : Nat) (s : State) : State :=
  let s1 := homeTake (pa / 65536 * 512) 512 s
  endPf (fun _ p => p.1 / 512 == pa / 65536) { s1 with llc := s1.llc.filter (fun l => l / 512 != pa / 65536) }

/-- A list with its entry `k` of those with a property left out. -/
def dropNth {α : Type} (p : α → Bool) : Nat → List α → List α
  | _, [] => []
  | k, x :: t => if p x then (match k with
      | 0 => t
      | k + 1 => x :: dropNth p k t) else x :: dropNth p k t

/-- An entry added to a structure that holds at most `cap` entries of its kind: a full one loses the entry that `k` names (R162, R164). -/
def capped {α : Type} (p : α → Bool) (cap k : Nat) (x : α) (l : List α) : List α :=
  let n := (l.filter p).length
  x :: (if n < cap then l else dropNth p (k % max 1 n) l)

/-- A line filled into a slice of 2,048 lines (R4, R164); the line a full slice loses is not stated. (DESIGN CHOICE, log entry 35) -/
def fillLine (x : L1Line) (s : State) : State :=
  let mine := s.l1.filter (fun y => y.slice == x.slice)
  if mine.length < 2048 then { s with l1 := x :: s.l1 }
  else match mine[Config.pick s.tick x.tag % mine.length]? with
    | some v => let s1 := dropLines (· == v) s
                { s1 with l1 := x :: s1.l1 }
    | none => s

/-- Lines of a die's LLC: its ways not program-visible (R167). -/
def llcCap (s : State) (die : Nat) : Nat := (8 - s.cfgGet (0x1000 + 0x100 * die) % 16) * 65536

/-- A physical line allocated in the LLC of the die that carries its stack (R153, R167); LPDDR frames have none. -/
def llcFill (line : Nat) (s : State) : State :=
  let die := line / 2 ^ 29
  if 8 ≤ die ∨ s.llc.contains line ∨ llcCap s die = 0 then s
  else
    let llc := capped (fun l => l / 2 ^ 29 == die) (llcCap s die) (Config.pick s.tick line) line s.llc
    endPf (fun _ p => p.2 == 1 && s.llc.contains p.1 && !llc.contains p.1) { s with llc := llc }

/-- A demand access of a core to a prefetched line: present or late (R216). An exclusive one of another cluster has ended the
prefetches of its slices. -/
def usePrefetch (core line : Nat) (s : State) : State :=
  (s.cores.filter (fun (e : Nat × Core) =>
    (clusterOf e.1 == clusterOf core && e.2.pf.contains (line, 0)) || e.2.pf.contains (line, 1))).foldl (fun s e =>
      s.updCore e.1 (fun q => { q with
        pf := q.pf.filter (fun p => p.1 != line)
        mcnt := let k := 1 + Config.pick s.tick line % 2
                q.mcnt.set 0 k ((q.mcnt.get 0 k + 1) % 2 ^ 64) })) s

/-! ### Performing an access -/

/-- A bit mask or-ed into a table entry as an atomic event of the walker (R156, R163): into memory, and into the stores a `PTSYNC` has made
visible that are still held, which come before it in coherence order. -/
def orEntry (part addr m : Nat) (s : State) : State :=
  let s1 := s.pmWr addr 8 (s.pmRd addr 8 ||| m)
  if !(syncedBytes s part).any (fun b => decide (addr ≤ b.1) && decide (b.1 < addr + 8)) then s1
  else
    let orEl (asid : Nat) (x : StEl) : StEl :=
      if bits x.ptr 62 60 ≠ 0 then x
      else match walkWith s part asid (fun a => s.pmRd a 8) (x.ptr % 2 ^ 60) with
        | .ok (l, _) =>
          let pa := l.frame + x.ptr % 2 ^ 60 % 2 ^ pageBits l.lvl
          { x with val := (List.range x.n).foldl (fun v i =>
            if addr ≤ pa + i ∧ pa + i < addr + 8 then v ||| m / 256 ^ (pa + i - addr) % 256 * 256 ^ i else v) x.val }
        | .error _ => x
    let orHeld (asid : Nat) (h : Held) : Held := match h with
      | .store i els => .store i (els.map (fun (e : Nat × StEl) => (e.1, orEl asid e.2)))
      | .rel i (.store x a b) => .rel i (.store (orEl asid x) a b)
      | h => h
    { s1 with groups := s1.groups.map (fun (e : Nat × Group) =>
        match (s.cohorts.find e.2.cid).bind (fun co => (s.launches.find co.launch).map (fun la => (co, la))) with
        | some (co, la) =>
          if s.partOf co.core ≠ part then e
          else
            let syn := syncedBefore (e.2.stq ++ e.2.stqWait)
            let f (h : Held) : Held := if syn.contains h then orHeld la.asid h else h
            (e.1, { e.2 with stq := e.2.stq.map f, stqWait := e.2.stqWait.map f })
        | none => e) }

/-- A translation installed in the core's TLB of 256 entries and the cluster's of 8,192, 8-way, TABLE entries in the walk cache of 1,024;
A and D set by the walker, which is an agent of its own for table lines (R156, R162, R163, R168). One whose MGEN is 0 first ends the
page's lines in the cluster's slices (R165). (DESIGN CHOICE, log entry 35) -/
def install (u : Who) (a : Acc) (va : Nat) (s : State) : State :=
  let cl := clusterOf u.core
  let s0 := (walkLines s u.part u.asid cl va).foldl (fun s l => lendTokens (2000 + cl) l false s) s
  match xlate s u a va with
  | .error _ => s0
  | .ok x =>
    let st := x.leaf.st
    if !x.fresh then s
    else if st = 2 ∨ st = 6 then s0
    else
      let page := va / 2 ^ pageBits x.leaf.lvl
      let dirty := (a == .wr || a == .at) && st != 3
      let pte := x.leaf.pte ||| 0x800 ||| (if dirty then 0x400 else 0)
      let s1 := if pte = x.leaf.pte then s0
        else orEntry u.part x.leaf.addr (pte &&& 0xC00) (lendTokens (2000 + cl) (x.leaf.addr / 128) true s0)
      let gen := asidGen s u.part u.asid
      let known := s.tlb.any (fun e => e.unit == 1000 + cl && e.part == u.part && e.asid == u.asid && e.gen == gen && e.page == page &&
        e.lvl == x.leaf.lvl && bits e.pte 63 56 == 0)
      let s2 := if x.leaf.mgen = 0 ∧ !known then
          dropLines (fun y => clusterOf y.slice == cl && y.part == u.part && y.asid == u.asid && y.tag / 2 ^ (pageBits x.leaf.lvl - 7) == page) s1
        else s1
      let mk (unit : Nat) : TlbE := ⟨unit, u.part, u.asid, gen, page, x.leaf.lvl, x.leaf.addr, pte⟩
      let same (e : TlbE) : Bool := (e.unit == u.core || e.unit == 1000 + cl) && e.part == u.part && e.asid == u.asid &&
        e.page == page && e.lvl == x.leaf.lvl
      let k := Config.pick s.tick va
      let tlb := capped (fun e => e.unit == 1000 + cl && e.page % 1024 == page % 1024) 8 k (mk (1000 + cl)) (s2.tlb.filter (fun e => !same e))
      { s2 with tlb := capped (fun e => e.unit == u.core) 256 k (mk u.core) tlb
                walks := x.path.foldl (fun ws p => capped (fun e => e.cluster == cl) 1024 k ⟨cl, u.part, u.asid, gen, p.1, p.2⟩
                  (ws.filter (fun e => e.cluster != cl || e.part != u.part || e.asid != u.asid || e.addr != p.1))) s2.walks }

/-- An access at a resident place of space 0 seen by the caches (R153, R164, R166, R168): a hit is served from the slice's line; on a miss
the stale line goes, tokens are gathered and, unless the pointer streams (POL), the line is filled from the LLC or the memory. -/
def cacheAccess (u : Who) (a : Acc) (ptr pa : Nat) (s : State) : State :=
  let va := ptr % 2 ^ 60
  let slice := sliceOf u.core va
  let excl := a == .wr || a == .at
  match xlate s u a va with
  | .error _ => s
  | .ok x =>
    if (l1Hit s u a va x.leaf).isSome then takeTokens slice (pa / 128) excl s
    else
      let s1 := dropLines (fun y => y.tagged s u va) s
      if ptr.testBit 63 then
        (if s1.l1.any (fun y => y.slice == slice && y.line == pa / 128) then takeTokens else lendTokens) slice (pa / 128) excl s1
      else
        fillLine { slice := slice, tag := va / 128, part := u.part, asid := u.asid, gen := asidGen s u.part u.asid, mgen := x.leaf.mgen
                   rd := x.leaf.rd, wr := x.leaf.wr, x := x.leaf.x, line := pa / 128 } (llcFill (pa / 128) (takeTokens slice (pa / 128) excl s1))

/-- What an access leaves in the memory system beside its data: translation, lines and tokens, prefetch accounting (R216). The lines of a
lattice page are never in a slice (R314). -/
def touch (u : Who) (a : Acc) (ptr : Nat) (p : Place) (s : State) : State :=
  match p with
  | .phys pa st =>
    let s1 := usePrefetch u.core (pa / 128) (install u a (ptr % 2 ^ 60) s)
    if st = 5 then (if ptr.testBit 63 then s1 else llcFill (pa / 128) s1)
    else cacheAccess u a ptr pa s1
  | _ => s

/-- Bytes at a place: `none` where they are not in this package. -/
def placeBytes (s : State) (u : Who) (p : Place) (n : Nat) : List Byte :=
  match p with
  | .phys pa _ => cellsGet s.mem pa n
  | .sram k => cellsGet s.sram k n
  | .win off => match s.groups.find u.gid with
    | some g =>
      let olds := (s.runs.filter (fun r => r.2.gid == u.gid)).flatMap (fun r => r.2.olds)
      (List.range n).map (fun i =>
        let loc := locV ((off + i) / 128) ((off + i) % 128 / 4)
        BitVec.ofNat 8 (choose s.tick loc (g.getLoc loc) (othersOf g olds loc) / 2 ^ (8 * ((off + i) % 4))))
    | none => []
  | _ => []

/-- The line of a place is poisoned (R311). -/
def poisoned (s : State) (p : Place) : Bool :=
  match p with
  | .phys pa _ => s.poison.contains (pa / 128)
  | .sram k => s.poison.contains (2 ^ 50 + k / 128)
  | _ => false

/-- The value a location of a group held before a write is kept for the reads of the run in progress that follow (R120). -/
def noteOld (gid loc : Nat) (s : State) : State :=
  match s.groups.find gid with
  | none => s
  | some g => { s with runs := s.runs.map (fun r =>
      if r.2.gid != gid then r
      else (r.1, { r.2 with olds := (loc, g.getLoc loc) :: r.2.olds })) }

/-- Words of a group's window written: each is one register write of its group, seen as such by the reads of the run (R15, R120, R154). -/
def winWrites (gid : Nat) (ws : List Wr) (s : State) : State :=
  (joinWrs ws).foldl (fun s w => (noteOld gid w.loc s).updG gid (fun g => g.write w)) s

/-- The writes of bytes at an offset of a window. -/
def winWrs (off : Nat) (bs : List Byte) : List Wr :=
  (List.range bs.length).map (fun i =>
    ⟨locV ((off + i) / 128) ((off + i) % 128 / 4), 255 * 2 ^ (8 * ((off + i) % 4)), (bs.getD i 0).toNat * 2 ^ (8 * ((off + i) % 4))⟩)

/-- Bytes written to a window. -/
def winWrite (gid off : Nat) (bs : List Byte) (s : State) : State := winWrites gid (winWrs off bs) s

/-- Bytes written at a place. -/
def placeWrite (u : Who) (p : Place) (bs : List Byte) (s : State) : State :=
  match p with
  | .phys pa _ => { s with mem := cellsSet s.mem pa bs }
  | .sram k => { s with sram := cellsSet s.sram k bs }
  | .win off => winWrite u.gid off bs s
  | _ => s

/-- The key under which stores to a LOCKED-REPLICA page are serialised: of a page of a known space (R174, R334). -/
def lockKey (s : State) (part asid vpn : Nat) : Option Nat :=
  match pageKey s part asid vpn with
  | some k => if (s.spaces.find (k / 2 ^ 44)).isSome then some k else none
  | none => none

/-- The line of a resident place is locked in this replica (R174); for a write, a store to it stands before it. -/
def lockedLine (s : State) (u : Who) (ptr : Nat) (p : Place) (write : Bool) : Bool :=
  match p with
  | .phys _ 4 =>
    match lockKey s u.part u.asid (ptr % 2 ^ 60 / 2 ^ 16) with
    | some k => s.locks.any (fun l => l.key == k && l.off / 128 == ptr % 2 ^ 16 / 128 && (write || l.step != 0))
    | none => false
  | _ => false

/-- A copy engine holds the line of a place (R171): the access with an id sends a recall and waits. (DEDUCED, log entry 31) -/
def recalled (s : State) (u : Who) (id : Nat) (p : Place) : Bool :=
  match p with
  | .phys pa _ => heldByCopy s u.gid id u.core false pa
  | _ => false

/-- Another agent's persistent request for the line of a place is active (R169). -/
def claimedLine (s : State) (u : Who) (ptr : Nat) (p : Place) : Bool :=
  match p with
  | .phys pa st => st != 5 && (tokOf s (pa / 128)).claimed (sliceOf u.core (ptr % 2 ^ 60))
  | _ => false

/-- Some line may be out of an agent's reach: a persistent request is active, or a copy engine holds destination lines. -/
def contended (s : State) : Bool :=
  s.coh.any (fun (e : Nat × LineTok) => !e.2.persist.isEmpty) ||
  s.cohorts.any (fun (c : Nat × Cohort) => c.2.chans.any (fun h => !h.2.q.isEmpty))

/-- An agent cannot have a token of a line now: another agent's persistent request is active, or a copy engine holds all 64 (R168, R169, R171). -/
def lineBusy (s : State) (u : Who) (id agent line : Nat) : Bool :=
  (tokOf s line).claimed agent || heldByCopy s u.gid id u.core false (128 * line)

/-- The walk an access needs has to wait for a table line (R163, R168, R169). -/
def walkWaits (s : State) (u : Who) (id ptr : Nat) : Bool :=
  contended s && bits ptr 62 60 == 0 &&
    (walkLines s u.part u.asid (clusterOf u.core) (ptr % 2 ^ 60)).any (lineBusy s u id (2000 + clusterOf u.core))

/-- An access at a resident place must wait (R169, R171, R174). -/
def mustWait (s : State) (u : Who) (id ptr : Nat) (p : Place) (write : Bool) : Bool :=
  recalled s u id p || lockedLine s u ptr p write || claimedLine s u ptr p || walkWaits s u id ptr

/-- The nibble of a byte, or the whole. -/
def nibble (nib : Option Nat) (x : Nat) : Nat :=
  match nib with
  | none => x
  | some k => x / 16 ^ k % 16

/-- A value read at a resident place, zero on a poisoned line (R311). -/
def readVal (s : State) (u : Who) (p : Place) (n : Nat) (nib : Option Nat) : Nat :=
  if poisoned s p then 0 else nibble nib (fromBytes (placeBytes s u p n))

/-- The bytes a store leaves: all of them, or one nibble replaced (R201). -/
def storeBytes (s : State) (u : Who) (p : Place) (n : Nat) (nib : Option Nat) (v : Nat) : List Byte :=
  match nib with
  | none => toBytes n v
  | some k => toBytes n (setBits (fromBytes (placeBytes s u p n)) (4 * k) 4 v)

/-! ### Pages of this device mapped by others -/

/-- A home page in migration is marked where a write falls behind the copy (R358). -/
def markMigrated (key off : Nat) (s : State) : State :=
  match s.migr.find key with
  | some m => if off / 128 < m.copied ∧ !m.marked.contains (off / 128) then
      { s with migr := s.migr.put key { m with marked := (off / 128) :: m.marked } } else s
  | none => s

/-- A write by an accessor: bytes, tokens, translation, migration marks. (DESIGN CHOICE, log entry 2) -/
def performWrite (u : Who) (a : Acc) (ptr n : Nat) (nib : Option Nat) (v : Nat) (p : Place) (s : State) : State :=
  let s1 := placeWrite u p (storeBytes s u p n nib v) (touch u a ptr p s)
  match p with
  | .phys _ _ =>
    match pageKey s1 u.part u.asid (ptr % 2 ^ 60 / 2 ^ 16) with
    | some k => markMigrated k (ptr % 2 ^ 16) s1
    | none => s1
  | _ => s1

/-- Lines all of whose bytes were written lose their poison (R311). -/
def clearPoison (written : List Place) (s : State) : State :=
  if s.poison.isEmpty then s
  else
    let offs := written.filterMap (fun p => match p with
      | .phys pa _ => some pa
      | .sram k => some (2 ^ 57 + k)
      | _ => none)
    { s with poison := s.poison.filter (fun l => !(List.range 128).all (fun i => offs.contains (l * 128 + i))) }

/-- Translations of one page of an ASID dropped in every TLB of the partition (R150, R163, R345). -/
def shootPage (part asid vpn : Nat) (s : State) : State :=
  { s with tlb := s.tlb.filter (fun e => !(e.part == part && e.asid == asid && e.page == vpn * 2 ^ 16 / 2 ^ pageBits e.lvl)) }

/-- The translations an accessor's core and cluster cache of a page go (R158). -/
def dropStale (u : Who) (va : Nat) (s : State) : State :=
  { s with tlb := s.tlb.filter (fun e => !((e.unit == u.core || e.unit == 1000 + clusterOf u.core) && e.part == u.part && e.asid == u.asid &&
      e.page == va / 2 ^ pageBits e.lvl)) }

/-- An entry rewritten: STATE and FRAME, MGEN incremented if asked (R163). -/
def pteWith (pte st frame : Nat) (bump : Bool) : Nat :=
  let p := setBits (setBits pte 0 4 st) 16 32 (frame / 2 ^ 16)
  if bump then setBits p 56 8 (bits p 63 56 + 1) else p

/-! ### The event log (R408) -/

/-- An event recorded in the management log (R408): it is on its way to the flash, with the root-slot write that waits for it. -/
def logEvent (kind part : Nat) (data : List Byte) (root : Option RootWr) (s : State) : State :=
  let e : LogE := { time := s.now / 9, seq := s.mgmt.seq, kind := kind, part := part, data := data }
  { s with mgmt := { s.mgmt with seq := (s.mgmt.seq + 1) % 2 ^ 32, writing := s.mgmt.writing ++ [(e, root)] } }

/-- An uncorrectable memory error is logged (R408, KIND 9); the spec does not state its DATA. -/
def memoryError (part : Nat) (s : State) : State :=
  logEvent 9 part ((List.range 48).map (Config.internalByte s.mgmt.seq)) none s

end Sys2Proof.Machine
end

