-- ==== Sys2Proof/Machine/Link.lean ====
section
/-! DEFINITION. Scale-up links: flits, compression, retry, credits and packets (R363 to R369). -/

namespace Sys2Proof.Machine

/-- The plane of a port (R363). -/
def planeOf (port : Nat) : Nat := port % 12 / 3
/-- A link; an untouched one is up and trained. -/
def State.link (s : State) (port : Nat) : Link := s.links.get {} port
/-- Changes a link. -/
def State.updLink (s : State) (port : Nat) (f : Link → Link) : State :=
  { s with links := s.links.set {} port (f (s.link port)) }
/-- A counter of the fabric engine raised (R388). -/
def bumpFx (k n : Nat) (s : State) : State := { s with fxcnt := s.fxcnt.set 0 k ((s.fxcnt.get 0 k + n) % 2 ^ 64) }
/-- A message leaves the package. -/
def State.send (s : State) (m : Msg) : State := { s with outbox := s.outbox ++ [m] }

/-! ### The dictionary -/

/-- The index of a word in a dictionary, whose entries stand most recently used first: index and word (R365). -/
def dictFind (d : List (Nat × Nat)) (w : Nat) : Option Nat := (d.find? (fun e => e.2 == w)).map (·.1)
/-- A dictionary after a word: a hit becomes the most recent, a literal takes an unused or the least recent entry (R368). -/
def dictUse (d : List (Nat × Nat)) (w : Nat) : List (Nat × Nat) :=
  match dictFind d w with
  | some i => (i, w) :: d.filter (fun e => e.1 != i)
  | none =>
    if d.length < 256 then (d.length, w) :: d
    else match d.getLast? with
      | some e => (e.1, w) :: d.dropLast
      | none => [(0, w)]

/-- The 8-byte words of bytes, the last one filled with zeros. -/
def wordsOf (bs : List Byte) : List Nat :=
  (List.range (cdiv bs.length 8)).map (fun i => fromBytes ((bs.drop (8 * i)).take 8))

/-- The encoded words of a compressed flit: value and length in bits, and the dictionary after them (R368). -/
def encodeWords (d : List (Nat × Nat)) : List Nat → (Nat × Nat) × List (Nat × Nat)
  | [] => ((0, 0), d)
  | w :: ws =>
    let (v, n) : Nat × Nat := match dictFind d w with
      | some i => (1 + 2 * i, 9)
      | none => (2 * w, 65)
    let r := encodeWords (dictUse d w) ws
    ((v + r.1.1 * 2 ^ n, n + r.1.2), r.2)

/-- The words a compressed flit holds: `n` words from a bit string (R368). -/
def decodeWords (d : List (Nat × Nat)) : Nat → Nat → List Nat × List (Nat × Nat)
  | 0, _ => ([], d)
  | n + 1, x =>
    if x % 2 = 1 then
      let w := ((d.find? (fun e => e.1 == x / 2 % 256)).map (·.2)).getD 0
      let r := decodeWords (dictUse d w) n (x / 2 ^ 9)
      (w :: r.1, r.2)
    else
      let w := x / 2 % 2 ^ 64
      let r := decodeWords (dictUse d w) n (x / 2 ^ 65)
      (w :: r.1, r.2)

/-- The largest number of words from `n` down that one flit can carry compressed (R368): where several numbers fit, the most. (DESIGN CHOICE,
log entry 157) -/
def fitWords (d : List (Nat × Nat)) (ws : List Nat) : Nat → Nat
  | 0 => 0
  | n + 1 => if (encodeWords d (ws.take (n + 1))).1.2 + 4 ≤ 464 then n + 1 else fitWords d ws n

/-- One flit of the remaining packet bytes: C, payload, bytes carried, dictionary after it (R365, R368). -/
def makeFlit (d : List (Nat × Nat)) (bs : List Byte) : Bool × List Byte × Nat × List (Nat × Nat) :=
  let ws := wordsOf bs
  let n := fitWords d ws (min 16 ws.length)
  if 58 < 8 * n ∧ 58 < bs.length then
    let e := encodeWords d (ws.take n)
    (true, toBytes 58 ((n - 1) + 16 * e.1.1), min (8 * n) bs.length, e.2)
  else
    let p := bs.take 58 ++ List.replicate (58 - min 58 bs.length) 0
    (false, p, min 58 bs.length, ((wordsOf (p.take 56)).foldl dictUse d))

/-- The image of a sequenced flit without its CRC: kind, C, number, payload (R364). (DESIGN CHOICE, log entry 22) -/
def flitImage (kind seq : Nat) (c : Bool) (p : List Byte) : List Byte :=
  toBytes 2 (seq + (if c then 1024 else 0) + kind * 2048) ++ p

/-- Header and data of a packet (R367). -/
def packetBytes (opc : Nat) (p : Pkt) : List Byte :=
  let vc := if 0x80 ≤ opc then 1 else 0
  toBytes 1 opc ++ toBytes 1 (p.path + 4 * vc + 8 * p.size.log2) ++ toBytes 2 p.src ++ toBytes 2 p.dst ++
  toBytes 2 p.tenant ++ toBytes 4 p.num ++ toBytes 4 p.floor ++ toBytes 6 p.off ++ toBytes 1 p.op ++ toBytes 1 0 ++
  (if opc = 4 then p.counts.flatMap (toBytes 4) else []) ++ p.data

/-- The length of a packet by its header (R367). -/
def packetLen (opc op size : Nat) : Nat :=
  match opc with
  | 0x02 => 24 + size
  | 0x03 => 24 + (if op % 8 = 2 then 2 * size else size)
  | 0x04 => 24 + 16 + 8
  | 0x81 => 24 + size
  | 0x83 => 24 + size
  | _ => 24

/-- A packet as its receiver reads it. -/
def parsePacket (b : List Byte) : Nat × Pkt :=
  let f (i n : Nat) : Nat := fromBytes ((b.drop i).take n)
  let opc := f 0 1
  let body := b.drop (if opc = 4 then 40 else 24)
  (opc, { path := f 1 1 % 4, size := 2 ^ (f 1 1 / 8 % 16), src := f 2 2 % 4096, dst := f 4 2 % 4096, tenant := f 6 2,
          num := f 8 4, floor := f 12 4, off := f 16 6, op := f 22 1,
          counts := if opc = 4 then [f 24 4, f 28 4, f 32 4, f 36 4] else []
          data := body })

/-- A flit of a channel may be transmitted for the first time (R365, R366): fewer than 256 flits not freed, and room in the retry buffer. -/
def Link.mayTx (l : Link) (vc : Nat) : Bool :=
  decide ((l.txSent.getD vc 0 + 2 ^ 32 - l.txFreed.getD vc 0) % 2 ^ 32 < 256) && decide (l.retryBuf.length < 512)

/-- The packet whose flit goes out next: the one begun, as packets are not interleaved, else the first whose channel has a credit (R366). -/
def Link.nextTx (l : Link) : Option TxPkt :=
  match l.waiting.find? (fun t => !t.fresh) with
  | some t => if l.mayTx t.vc then some t else none
  | none => l.waiting.find? (fun t => l.mayTx t.vc)

/-- The next flit of a waiting packet is sent (R365, R366, R368): its image is kept for retry, and the packet has left with its last flit. -/
def Link.sendFlit (l : Link) (t : TxPkt) : Link × Option TxPkt :=
  let (c, p, k, d) := makeFlit l.txDict t.bytes
  let rest := t.bytes.drop k
  ({ l with
    txDict := d, txSeq := (l.txSeq + 1) % 1024
    retryBuf := l.retryBuf ++ [(l.txSeq, flitImage (if t.fresh then 1 else 2) l.txSeq c p)]
    txSent := l.txSent.set t.vc ((l.txSent.getD t.vc 0 + 1) % 2 ^ 32)
    waiting := if rest.isEmpty then l.waiting.erase t else { t with bytes := rest, fresh := false } :: l.waiting.erase t },
   if rest.isEmpty then some t else none)

/-- The flits that a link can send now, at most `n` (R366, R388): FLITS.TX and TX.WIRE count their first transmissions alone, not the flits of a
retry and not ACK, RETRY and CREDIT flits. (DESIGN CHOICE, log entry 156) -/
def pump (port : Nat) : Nat → State → State
  | 0, s => s
  | n + 1, s => match (s.link port).nextTx with
    | none => s
    | some t =>
      let r := (s.link port).sendFlit t
      let s1 := bumpFx 0 1 (bumpFx 7 58 (s.updLink port (fun _ => r.1)))
      pump port n (match r.2 with
        | some q => s1.send (.packet q.opc q.pkt)
        | none => s1)

/-- A packet offered to the links of a plane (R366, R370, R388): it goes to a live port of it, and is lost where none is. A
retransmission's PATH stays that of its number's first transmission (R380), whatever plane carries it. -/
def sendPacket (opc plane : Nat) (p : Pkt) (s : State) : State :=
  match (List.range 24).filter (fun q => planeOf q == plane && (s.link q).up) with
  | [] => s
  | q0 :: qs =>
    let q := (q0 :: qs).getD (Config.pick s.tick p.num % (qs.length + 1)) q0
    let bs := packetBytes opc p
    pump q 512 (bumpFx 6 bs.length (s.updLink q (fun l => { l with waiting := l.waiting ++ [⟨if 0x80 ≤ opc then 1 else 0, opc, p, bs, true⟩] })))

/-! ### Receiving flits -/

/-- A link goes down (R369): packets not accepted are lost to it. -/
def linkDown (port : Nat) (s : State) : State :=
  if (s.link port).up then bumpFx 2 1 (s.updLink port (fun l => { l with up := false, packet := none, waiting := [] })) else s

/-- A rejected flit: it and the later ones are discarded, a retry request goes out (R365). -/
def rejectFlit (port : Nat) (s : State) : State :=
  (s.updLink port (fun l => { l with rejecting := true })).send (.flit port 4 (s.link port).rxSeq 0 0)

/-- The data of an accepted sequenced flit and the table after it (R365, R368). -/
def flitData (d : List (Nat × Nat)) (c : Bool) (p : List Byte) : List Byte × List (Nat × Nat) :=
  if c then
    let x := fromBytes p
    let r := decodeWords d (x % 16 + 1) (x / 16)
    (r.1.flatMap (toBytes 8), r.2)
  else (p, (wordsOf (p.take 56)).foldl dictUse d)

/-- A sequenced flit accepted: acknowledged and freed as R366 asks; a whole packet is left in `got`. -/
def acceptFlit (port : Nat) (opens : Bool) (c : Bool) (p : List Byte) (s : State) : State :=
  let l := s.link port
  let (data, d) := flitData l.rxDict c p
  let l1 : Link := { l with rxDict := d, rxSeq := (l.rxSeq + 1) % 1024, rejecting := false, unacked := l.unacked + 1, owed := l.owed + 1 }
  if opens ≠ l.packet.isNone then linkDown port (s.updLink port (fun _ => l1))
  else
    let sofar := (match l.packet with
      | some q => q.2
      | none => []) ++ data
    let f (i n : Nat) : Nat := fromBytes ((sofar.drop i).take n)
    let len := packetLen (f 0 1) (f 22 1) (2 ^ (f 1 1 / 8 % 16))
    let vc := f 1 1 / 4 % 2
    let whole := decide (len ≤ sofar.length)
    let l2 : Link := { l1 with
      packet := if whole then none else some (len, sofar)
      got := if whole then l1.got ++ [sofar.take len] else l1.got
      rxFreed := l1.rxFreed.set vc ((l1.rxFreed.getD vc 0 + 1) % 2 ^ 32) }
    let (l3, m3) : Link × List Msg := if 32 ≤ l2.unacked then
        ({ l2 with unacked := 0 }, [.flit port 3 ((l2.rxSeq + 1023) % 1024) 0 0]) else (l2, [])
    let (l4, m4) : Link × List Msg := if 64 ≤ l3.owed then
        ({ l3 with owed := 0 }, [.flit port 5 0 (l3.rxFreed.getD 0 0) (l3.rxFreed.getD 1 0)]) else (l3, [])
    let s1 := s.updLink port (fun _ => l4)
    { s1 with outbox := s1.outbox ++ m3 ++ m4 }

/-- A `HEAD` or `BODY` flit received (R365, R366). Behind a rejected flit, a good one with a later number is discarded without another
request, and a bad one, which may be the flit sent again, asks once more. (DEDUCED, log entry 120) -/
def recvFlit (port seq : Nat) (opens c good : Bool) (p : List Byte) (s : State) : State :=
  let l := s.link port
  if !l.up then s
  else if !good then rejectFlit port s
  else if seq ≠ l.rxSeq then (if l.rejecting then s else rejectFlit port s)
  else acceptFlit port opens c p s

/-- Flits up to and including a number leave the retry buffer (R366). -/
def ackTo (n : Nat) (b : List (Nat × List Byte)) : List (Nat × List Byte) :=
  if b.any (fun e => e.1 == n) then (b.dropWhile (fun e => e.1 != n)).drop 1 else b

/-- A retry request received: the image and all later ones go out again, and every image stays until it is acknowledged; with a flit's
eighth retry in a row the link goes down (R365, R369). -/
def retryFrom (port n : Nat) (s : State) : State :=
  let l := s.link port
  let again := l.retryBuf.dropWhile (fun e => e.1 != n)
  if !l.up ∨ again.isEmpty then s
  else
    let k := if l.retryNum = n then l.retries + 1 else 1
    let s1 := bumpFx 1 again.length (s.updLink port (fun l => { l with retries := k, retryNum := n }))
    let s2 := s1.send (.resend port again)
    if 8 ≤ k then linkDown port s2 else s2

/-- Images acknowledged (R366); the count of retries in a row ends with the flit that was retried (R369). -/
def Link.acked (l : Link) (n : Nat) : Link :=
  let b := ackTo n l.retryBuf
  { l with retryBuf := b, retries := if b.any (fun e => e.1 == l.retryNum) then l.retries else 0 }

/-- `ACK` (R366): the acknowledged images leave the retry buffer, and flits that waited for room go out. -/
def execAck (port num : Nat) (s : State) : Out :=
  .next (if (s.link port).up then pump port 512 (s.updLink port (fun l => l.acked num)) else s)
/-- `RETRY` (R365). -/
def execRetryFlit (port num : Nat) (s : State) : Out := .next (retryFrom port num s)
/-- `CREDIT` (R366): flits that waited for credits go out. -/
def execCredit (port c0 c1 : Nat) (s : State) : Out :=
  .next (if (s.link port).up then
      pump port 512 (s.updLink port (fun l => { l with txFreed := [c0 % 2 ^ 32, c1 % 2 ^ 32] })) else s)
/-- `TRAIN` (R366): a training exchange changes nothing a trained link holds. -/
def execTrain (_port : Nat) (s : State) : Out := .next s
/-- `IDLE` (R366). -/
def execIdle (_port : Nat) (s : State) : Out := .next s
/-- A lane loses lock (R369). -/
def execLaneLockLoss (port : Nat) (s : State) : Out := .next (linkDown port s)
/-- The 0.5 µs timer of acknowledgements (R366). -/
def execAckTimer (port : Nat) (s : State) : Out :=
  let l := s.link port
  .next (if l.up ∧ l.unacked ≠ 0 then
      (s.updLink port (fun l => { l with unacked := 0 })).send (.flit port 3 ((l.rxSeq + 1023) % 1024) 0 0) else s)
/-- The 1 µs timer of credits (R366). -/
def execCreditTimer (port : Nat) (s : State) : Out :=
  let l := s.link port
  .next (if l.up ∧ l.owed ≠ 0 then
      (s.updLink port (fun l => { l with owed := 0 })).send (.flit port 5 0 (l.rxFreed.getD 0 0) (l.rxFreed.getD 1 0)) else s)
/-- A flit of a kind from 7 to 31 (R366): rejected. -/
def execUnknownKindFlit (port : Nat) (s : State) : Out := .next (if (s.link port).up then rejectFlit port s else s)

end Sys2Proof.Machine
end

