-- ==== Sys2Proof/Machine/Space.lean ====
section
/-! DEFINITION. Global address spaces: keys, the hash that places a page's record, and requests to its directory (R334, R335, R349, R353). -/

namespace Sys2Proof.Machine

/-! ### SipHash-2-4 (R335) -/

/-- Rotate left of 64 bits. -/
def rotl64 (x : Word64) (n : Nat) : Word64 := x.rotateLeft n

/-- One SipRound. -/
def sipRound (v : Word64 × Word64 × Word64 × Word64) : Word64 × Word64 × Word64 × Word64 :=
  let (v0, v1, v2, v3) := v
  let a0 := v0 + v1
  let b1 := rotl64 v1 13 ^^^ a0
  let c0 := rotl64 a0 32
  let a2 := v2 + v3
  let b3 := rotl64 v3 16 ^^^ a2
  let d0 := c0 + b3
  let e3 := rotl64 b3 21 ^^^ d0
  let d2 := a2 + b1
  let e1 := rotl64 b1 17 ^^^ d2
  (d0, e1, rotl64 d2 32, e3)

/-- The compression of one message word. -/
def sipWord (m : Word64) (v : Word64 × Word64 × Word64 × Word64) : Word64 × Word64 × Word64 × Word64 :=
  let (v0, v1, v2, v3) := v
  let (w0, w1, w2, w3) := sipRound (sipRound (v0, v1, v2, v3 ^^^ m))
  (w0 ^^^ m, w1, w2, w3)

/-- SipHash-2-4 of the 12 bytes of a directory key under a 128-bit key (R335). -/
def sipHash (key gasid vpn : Nat) : Nat :=
  let k0 := BitVec.ofNat 64 key
  let k1 := BitVec.ofNat 64 (key / 2 ^ 64)
  let v := (k0 ^^^ 0x736f6d6570736575, k1 ^^^ 0x646f72616e646f6d, k0 ^^^ 0x6c7967656e657261, k1 ^^^ 0x7465646279746573)
  let m0 := BitVec.ofNat 64 (gasid % 2 ^ 32 + vpn % 2 ^ 32 * 2 ^ 32)
  let m1 := BitVec.ofNat 64 (12 * 2 ^ 56 + vpn / 2 ^ 32)
  let (w0, w1, w2, w3) := sipWord m1 (sipWord m0 v)
  let (x0, x1, x2, x3) := sipRound (sipRound (sipRound (sipRound (w0, w1, w2 ^^^ 0xff, w3))))
  (x0 ^^^ x1 ^^^ x2 ^^^ x3).toNat

/-- The rank whose Meridian holds the record of a page (R335). -/
def directoryRank (sp : Space) (gasid vpn : Nat) : Nat :=
  sp.members.getD (sp.buckets.getD (sipHash sp.key gasid vpn % 65536) 0) 0

/-- The three filter bits of a page (R348). -/
def filterBits (sp : Space) (gasid vpn : Nat) : List Nat :=
  let h := sipHash sp.key gasid vpn
  [h % 2 ^ 20, h / 2 ^ 20 % 2 ^ 20, h / 2 ^ 40 % 2 ^ 20]

/-! ### Keys -/

/-- GASID of a key. -/
def keyGasid (key : Nat) : Nat := key / 2 ^ 44
/-- VPN of a key. -/
def keyVpn (key : Nat) : Nat := key % 2 ^ 44
/-- A key no binding leads to. -/
def keyUnbound (key : Nat) : Bool := decide (2 ^ 76 ≤ key)

/-! ### Requests to a directory -/

/-- The port of an attempt (R353): of a retry another than the one before, of a page read or write-back to a storage server the other
Ultra Ethernet port of the X-die. (DESIGN CHOICE, log entry 123) -/
def attemptPort (s : State) (key last tries : Nat) (server : Bool) : Nat :=
  let k := Config.pick s.tick key
  if server then (if tries ≤ 1 then 24 + k % 4 else 24 + (last - 24) / 2 * 2 + (1 - last % 2))
  else if tries ≤ 1 then k % 28 else (last + 1 + k % 27) % 28

/-- A request to a page's directory on a port; the tenant of a partition goes with every one (R349). -/
def askOn (port key op part arg ver : Nat) (s : State) : State :=
  match s.spaces.find (keyGasid key) with
  | some sp => s.send (.onPort port (.directory (directoryRank sp (keyGasid key) (keyVpn key)) op (keyGasid key) (keyVpn key) (s.tenantOf part) arg ver))
  | none => s

/-- A first attempt of a request to a page's directory. -/
def askDirectory (key op part arg ver : Nat) (s : State) : State := askOn (attemptPort s key 0 1 false) key op part arg ver s

/-- A release nothing here waits for goes to the page's directory, and is kept until that answers (R343, R353). -/
def tellRelease (key part arg ver : Nat) (s : State) : State :=
  let p := attemptPort s key 0 1 false
  askOn p key 2 part arg ver { s with
    tells := s.tells.filter (fun t => t.key != key || t.arg != arg) ++ [⟨key, part, arg, ver, 1, s.now, p⟩] }

/-- Releases of a page are answered, or asked for no more: those of this device's own copy, or of other devices'. -/
def dropTells (key : Nat) (own : Bool) (s : State) : State :=
  { s with tells := s.tells.filter (fun t => t.key != key || (t.arg == 0) != own) }

/-- Attempts of a page's releases have timed out (R353): again on another port; after the third the record keeps what it has. -/
def tellTimeout (key : Nat) (s : State) : State :=
  (s.tells.filter (fun t => t.key == key && decide (t.since + 900000 ≤ s.now))).foldl (fun s t =>
    let p := attemptPort s key t.port (t.tries + 1) false
    let rest : State := { s with tells := s.tells.erase t }
    if t.tries < 3 then askOn p key 2 t.part t.arg t.ver { rest with tells := rest.tells ++ [{ t with tries := t.tries + 1, since := s.now, port := p }] }
    else rest) s

end Sys2Proof.Machine
end

