-- ==== Sys2Proof/Machine/Fabric.lean ====
section
/-! DEFINITION. The fabric engine: requests and their numbers at the source, replay filters and performance at the target, flag
stores, outcomes (R370 to R383). -/

namespace Sys2Proof.Machine

/-! ### Atomic operations -/

/-- New value and flags of an atomic on a word of `w` bits: operations in the order of R367, `AT.CAS` with its new value (R210). -/
def atomOp (w op old v nv : Nat) : Nat × Nat :=
  match op with
  | 0 => ((old + v) % 2 ^ w, 0)
  | 1 => (v % 2 ^ w, 0)
  | 2 => (if old % 2 ^ w = v % 2 ^ w then nv % 2 ^ w else old, 0)
  | 3 =>
    let F : Fmt := if w = 32 then .f32 else .f64
    let r := FVal.add false (F.decode old) (F.decode v)
    let o := roundVal F .rne false false 0 r.1
    (o.1, r.2 ||| o.2)
  | 4 => (old &&& v % 2 ^ w, 0)
  | 5 => (old ||| v % 2 ^ w, 0)
  | 6 => (if sext w old < sext w v then v % 2 ^ w else old, 0)
  | _ => (max old (v % 2 ^ w), 0)

/-- The operand one reduced set sends for its elements (R383). -/
def reduceOp (w op : Nat) (vs : List Nat) : Nat :=
  match vs with
  | [] => 0
  | v :: t => t.foldl (fun a x => (atomOp w op a x 0).1) v

/-! ### Paths -/

/-- The live paths from a partition to a rank (R370); a partition without a rank takes no part in the fabric (R404).
(DESIGN CHOICE, log entry 40) -/
def livePaths (s : State) (part rank : Nat) : List Nat :=
  match s.rankOf part with
  | none => []
  | some _ => (List.range 4).filter (fun p =>
      s.reach.contains (p, rank) && (List.range 24).any (fun q => planeOf q == p && (s.link q).up))

/-- The key of a source's flow, or of a target's filter (R373). -/
def flowKey (part rank : Nat) : Nat := 4096 * part + rank
/-- A flow. -/
def State.flow (s : State) (k : Nat) : Flow := s.flows.get {} k
/-- A flow changed. -/
def State.updFlow (s : State) (k : Nat) (f : Flow → Flow) : State := { s with flows := s.flows.set {} k (f (s.flow k)) }
/-- A filter. -/
def State.filt (s : State) (k : Nat) : Filt := s.filts.get {} k
/-- A filter changed. -/
def State.updFilt (s : State) (k : Nat) (f : Filt → Filt) : State := { s with filts := s.filts.set {} k (f (s.filt k)) }

/-- `a` is at or above `b` by serial-number arithmetic (R373, R381). -/
def serialGe (a b : Nat) : Bool := decide ((a + 2 ^ 32 - b % 2 ^ 32) % 2 ^ 32 < 2 ^ 31)

/-- The floor moved past the numbers resolved (R373). -/
def Flow.settle : Nat → Flow → Flow
  | 0, f => f
  | n + 1, f =>
    if f.done.contains f.floor then
      Flow.settle n { f with done := f.done.filter (· != f.floor), floor := (f.floor + 1) % 2 ^ 32 }
    else f

/-! ### The source -/

/-- Two requests share a byte of a target (R377). -/
def Req.meets (a b : Req) : Bool :=
  a.rank == b.rank && decide (a.off < b.off + b.size) && decide (b.off < a.off + a.size)

/-- A request enters the fabric engine in its core's issue order (R377): behind those of its bytes that were issued before it or have
been transmitted, before the others. (DEDUCED, log entry 158) -/
def newReq (r : Req) (s : State) : State :=
  let mine (e : Nat × Req) : Bool := e.2.core == r.core && r.meets e.2
  let later (e : Nat × Req) : Bool := mine e && e.2.num.isNone && decide (r.po < e.2.po)
  let after := (s.reqs.filter (fun (e : Nat × Req) => mine e && !later e)).map (·.1)
  let reqs : Tab Req := s.reqs.map (fun (e : Nat × Req) => if later e then (e.1, { e.2 with after := s.nextId :: e.2.after }) else e)
  { s with reqs := reqs.put s.nextId { r with after := after }, nextId := s.nextId + 1 }

/-- A packet of a request: its first-transmission path, its number, the source's present floor (R367). A floor notice has no data; a load's
names size 2, a store's or atomic's size 1. (DEDUCED, log entry 41; DESIGN CHOICE, log entry 42) -/
def reqPkt (s : State) (r : Req) (num : Nat) : Pkt :=
  { src := (s.rankOf r.part).getD 0, dst := r.rank, path := r.path, num := num,
    floor := (s.flow (flowKey r.part r.rank)).floor, tenant := s.tenantOf r.part, off := r.off,
    op := if r.notice then 0 else r.op, size := if r.notice then (if r.opc = 1 then 2 else 1) else r.size,
    data := if r.notice then [] else r.data, counts := r.counts }

/-- A request, or the floor notice of its number, put on a plane. -/
def putOut (r : Req) (plane : Nat) (s : State) : State :=
  match r.num with
  | none => s
  | some n => sendPacket (if r.notice then 5 else r.opc) plane (reqPkt s r n) s

/-- Bytes `[a, a + n)` of data that starts at offset `off`. -/
def slice (data : List Byte) (off a n : Nat) : List Byte := (data.drop (a - off)).take n

/-- The residency bit an element of `LDR` writes (R209). -/
def LdEl.mark (e : LdEl) (gone : Bool) : List Wr :=
  match e.probe with
  | some (loc, k) => if k < 1024 then [⟨loc, 2 ^ k, if gone then 2 ^ k else 0⟩] else []
  | none => []

/-- The writes a load reply gives an operation (R206, R209, R367). -/
def loadWrites (r : Req) (data : List Byte) : List Wr :=
  r.els.flatMap (fun e =>
    e.dst.writes (nibble e.nib (fromBytes (slice data r.off (e.ptr % 2 ^ 48) e.n))) ++ e.mark false)

/-- The writes and flags an atomic reply gives: a reduced set from its one old value, in element order (R383). -/
def atomWrites (w op vr : Nat) (els : List AtEl) (old : Nat) : List Wr × Nat :=
  let step (acc : (Nat × List Wr) × Nat) (e : AtEl) : (Nat × List Wr) × Nat :=
    let r := atomOp w op acc.1.1 e.v e.nv
    ((r.1, acc.1.2 ++ wrBits (vr + e.e * w / 1024) (e.e * w % 1024) w acc.1.1), acc.2 ||| r.2)
  let r := els.foldl step ((old, []), 0)
  (r.1.2, r.2)

/-- Every element of a failed atomic receives all ones (R210, R376). -/
def atomOnes (w vr : Nat) (els : List AtEl) : List Wr :=
  els.flatMap (fun e => wrBits (vr + e.e * w / 1024) (e.e * w % 1024) w (2 ^ w - 1))

/-- An atomic is complete: nothing waits, nothing is out. A load ends when its data arrives (R199). -/
def Pend.isDone (p : Pend) : Bool :=
  p.left == 0 && p.els.isEmpty && p.accepted && match p.op with
    | .atomic _ _ _ els => els.isEmpty
    | _ => false

/-- A pending atomic that is complete ends (R210). -/
def finishIfDone (gid pid : Nat) (s : State) : State :=
  match s.groups.find gid with
  | none => s
  | some g => match g.pend.find pid with
    | none => s
    | some p => if p.isDone then finish gid pid s else s

/-- How a request ends. -/
inductive ReqEnd where
  | data (d : List Byte)
  /-- Not performed, or not known: the `fstat` events (R378), and a refusal's cause (R367). -/
  | fail (kinds : List Nat) (cause : Nat)
  deriving DecidableEq, Repr

/-- A pending operation receives what one of its requests brought (R371, R375, R376, R383). -/
def Pend.receive (p : Pend) (r : Req) (e : ReqEnd) : Pend :=
  let fev := match e with
    | .data _ => []
    | .fail ks _ => ks.map (fun k => (k, r.rank))
  let (ws, fl) : List Wr × Nat := if r.opc = 1 then (loadWrites r (match e with
      | .data d => d
      | .fail _ _ => List.replicate r.size 255), 0) else match p.op, e with
    | .atomic w op vr _, .data d => atomWrites w op vr r.at' (fromBytes d)
    | .atomic w _ vr _, .fail _ _ => (atomOnes w vr r.at', 0)
    | _, .data d => (loadWrites r d, 0)
    | _, .fail _ _ => (loadWrites r (List.replicate r.size 255), 0)
  { p with left := p.left - 1, wrs := p.wrs ++ ws, flags := p.flags ||| fl, fev := p.fev ++ fev }

/-- A copy's chunk receives what one of its requests brought (R305, R376): bytes of its source, or an error with its address. -/
def CopyJob.receive (j : CopyJob) (r : Req) (e : ReqEnd) : CopyJob :=
  let addr := 2 ^ 60 + r.rank * 2 ^ 48 + r.off
  match e with
  | .data d => { j with net := j.net - 1, buf := if r.opc = 1 then j.buf ++ [(addr, d)] else j.buf }
  | .fail ks cause =>
    let detail := if ks.contains 2 then 0x10 + cause else if ks.contains 1 then 2 else 1
    { j with net := j.net - 1
             err := match j.err with
               | some x => if addr < x.2 then some (detail, addr) else some x
               | none => some (detail, addr) }

/-- The head copy of a channel changed. -/
def updCopy (cid ch : Nat) (f : CopyJob → CopyJob) (s : State) : State :=
  s.updC cid (fun co => { co with chans := co.chans.upd ch (fun h =>
    { h with q := match h.q with
        | .copy j :: t => .copy (f j) :: t
        | q => q }) })

/-- What a request brought goes to its operation, its copy or, for a store, into `fstat` at once (R378). -/
def deliver (r : Req) (e : ReqEnd) (s : State) : State :=
  match r.copy with
  | some (cid, ch) => updCopy cid ch (fun j => if r.pid = some j.pid then j.receive r e else j) s
  | none => match r.pid with
    | some pid => finishIfDone r.gid pid (s.updG r.gid (fun g => { g with pend := g.pend.upd pid (fun p => p.receive r e) }))
    | none => match e with
      | .data _ => s
      | .fail ks _ => s.updG r.gid (fun g => { g with fstat := ks.foldl (fun f k => f.record (k, r.rank)) g.fstat })

/-- A number is resolved (R373). -/
def resolve (r : Req) (s : State) : State :=
  match r.num with
  | none => s
  | some n => s.updFlow (flowKey r.part r.rank) (fun f => Flow.settle 4097 { f with done := n :: f.done })

/-- Space-1 stores and atomics of a group issued before `id` that are not resolved (R379). -/
def unresolved (s : State) (gid id : Nat) : Bool :=
  s.reqs.any (fun e => decide (e.2.po < id) && e.2.gid == gid && e.2.copy.isNone && e.2.opc != 1 && !e.2.notice)

/-- A group's space-1 store or atomic issued before `id`, toward a rank of some kind, has not yet been offered to the fabric engine
(R212, R379, R381). -/
def Group.netBefore (g : Group) (id : Nat) (dst : Nat → Bool) : Bool :=
  let far (ptr : Nat) : Bool := bits ptr 62 60 == 1 && dst (bits ptr 59 48)
  (g.stq ++ g.stqWait).any (fun h => decide (h.id < id) && match h with
    | .store _ els => els.any (fun e => far e.2.ptr)
    | .rel _ (.store e _ _) => far e.ptr
    | .rel _ (.flag ptr _ _) => far ptr
    | _ => false) ||
  g.pend.any (fun e => decide (e.1 < id) && match e.2.op with
    | .atomic _ _ _ els => els.any (fun x => !x.helper && far x.ptr)
    | .wavelet _ (.st q _) _ done => !done && far q
    | _ => false)

/-- `FENCE.ACK`s of a group whose space-1 stores and atomics are all resolved clear their tokens (R212). -/
def ackGroup (gid : Nat) (s : State) : State :=
  match s.groups.find gid with
  | none => s
  | some g => g.pend.foldl (fun s (q : Nat × Pend) => match q.2.op with
      | .fenceAck => if unresolved s gid q.1 || g.netBefore q.1 (fun _ => true) then s else finish gid q.1 s
      | _ => s) s

/-- Every group's. -/
def ackFences (s : State) : State := s.groups.foldl (fun s (e : Nat × Group) => ackGroup e.1 s) s

/-- Bytes queued toward a rank on a plane's links (R370). -/
def queuedBytes (s : State) (plane rank : Nat) : Nat :=
  (s.links.filter (fun (e : Nat × Link) => planeOf e.1 == plane)).foldl (fun n e =>
    e.2.waiting.foldl (fun n t => if t.pkt.dst = rank then n + t.bytes.length else n) n) 0

/-- The path of a first transmission (R370): of the live ones the one with the fewest bytes queued toward the target, of those the lowest. -/
def pickPath (s : State) (rank : Nat) : List Nat → Option Nat
  | [] => none
  | p :: t => match pickPath s rank t with
    | none => some p
    | some q => if queuedBytes s p rank ≤ queuedBytes s q rank then some p else some q

/-- First transmission (R370, R373, R375, R380), or the definite failure where no path is live. -/
def firstTransmit (id : Nat) (r : Req) (s : State) : State :=
  match pickPath s r.rank (livePaths s r.part r.rank) with
  | none =>
    let s1 := { s with reqs := (s.reqs.del id).map (fun (e : Nat × Req) => (e.1, { e.2 with after := e.2.after.filter (· != id) })) }
    ackFences (deliver r (.fail [3] 0) s1)
  | some path =>
    let k := flowKey r.part r.rank
    let f := s.flow k
    let r1 : Req := { r with num := some f.next, path := path, tried := [path], attempts := 1, live := true, since := s.now
                             counts := if r.opc = 4 then f.counts else [] }
    let s1 := s.updFlow k (fun f => { f with
      next := (f.next + 1) % 2 ^ 32
      counts := if r.opc = 1 then f.counts else f.counts.set path ((f.counts.getD path 0 + 1) % 2 ^ 32) })
    putOut r1 path { s1 with reqs := s1.reqs.put id r1 }

/-- A request may be transmitted first now (R373, R377); a flag store's counts name every earlier store and atomic of its group to its
target, which have therefore been transmitted (R381). -/
def mayTransmit (s : State) (_id : Nat) (r : Req) : Bool :=
  let f := s.flow (flowKey r.part r.rank)
  r.num.isNone && r.after.isEmpty && decide ((f.next + 2 ^ 32 - f.floor) % 2 ^ 32 < 4096) &&
  (r.opc != 4 || !s.reqs.any (fun e => decide (e.2.po < r.po) && e.2.gid == r.gid && e.2.copy.isNone && e.2.rank == r.rank &&
    e.2.opc != 1 && e.2.num.isNone))

/-- The requests that may go out do so, in issue order. -/
def transmitAll (s : State) : State :=
  s.reqs.keys.foldl (fun s id => match s.reqs.find id with
    | some r => if mayTransmit s id r then firstTransmit id r s else s
    | none => s) s

/-- Requests freed by others that failed at once go out in turn: as many passes as requests. -/
def transmitLoop : Nat → State → State
  | 0, s => s
  | n + 1, s => if s.reqs.any (fun e => mayTransmit s e.1 e.2) then transmitLoop n (transmitAll s) else s

/-- Requests offered to the fabric engine, and those that may go out sent. -/
def newReqs (rs : List Req) (s : State) : State :=
  let s1 := rs.foldl (fun s r => newReq r s) s
  transmitLoop (s1.reqs.length + 1) s1

/-- A request leaves the engine. -/
def dropReq (id : Nat) (s : State) : State :=
  let s1 := { s with reqs := (s.reqs.del id).map (fun (e : Nat × Req) => (e.1, { e.2 with after := e.2.after.filter (· != id) })) }
  transmitLoop (s1.reqs.length + 1) s1

/-- A nibble put into a word. -/
def nibbleInto (q : Nat × Nat) (w : Nat) : Nat := setBits w q.1 4 q.2

/-- A lone nibble's `AT.CAS` found another word: it is tried again with that one, under a new number (R201, R367). -/
def casAgain (id : Nat) (r : Req) (q : Nat × Nat) (old : Nat) (s : State) : State :=
  let s1 := resolve r s
  let s2 := { s1 with reqs := s1.reqs.put id { r with
    data := toBytes 4 old ++ toBytes 4 (nibbleInto q old), num := none, tried := [], attempts := 0, live := true } }
  transmitLoop (s2.reqs.length + 1) s2

/-- A request is resolved by a reply (R373). -/
def endReq (id : Nat) (r : Req) (e : ReqEnd) (s : State) : State :=
  match r.nib, e with
  | some q, .data d =>
    if fromBytes d = fromBytes (r.data.take 4) then
      dropReq id (ackFences (deliver r e (resolve r { s with reqs := s.reqs.put id { r with notice := true } })))
    else casAgain id r q (fromBytes d) s
  | _, _ => dropReq id (ackFences (deliver r e (resolve r { s with reqs := s.reqs.put id { r with notice := true } })))

/-- A request whose four attempts have timed out (R376): its outcome recorded, its number passed, its floor notice sent. -/
def abandon (id : Nat) (r : Req) (s : State) : State :=
  let s1 := resolve r s
  let r1 : Req := { r with notice := true, attempts := 1, tried := [], live := false, since := s.now }
  let kinds := match r.opc with
    | 1 => [0]
    | 3 => if r.nib.isSome then [1] else [0, 1]
    | _ => [1]
  let s2 := ackFences (deliver r (.fail kinds 0) { s1 with reqs := s1.reqs.put id r1 })
  match pickPath s2 r.rank (livePaths s2 r.part r.rank) with
  | none => s2
  | some p => putOut r1 p { s2 with reqs := s2.reqs.put id { r1 with live := true, tried := [p] } }

/-- The path of a retransmission: live and untried if there is one, else live (R374). -/
def retryPath (s : State) (r : Req) : Option Nat :=
  let live := livePaths s r.part r.rank
  match live.filter (fun p => !r.tried.contains p) with
  | p :: _ => some p
  | [] => live.head?

/-- An attempt timed out (R374): retransmitted, or waiting for a path, or abandoned. Floor notices are repeated until acknowledged. -/
def attemptTimeout (id : Nat) (r : Req) (s : State) : State :=
  if 4 ≤ r.attempts ∧ !r.notice then abandon id r s
  else
    let r1 := { r with attempts := r.attempts + 1, since := s.now }
    match retryPath s r with
    | some p => bumpFx 3 (if r.notice then 0 else 1) (putOut r1 p { s with reqs := s.reqs.put id { r1 with live := true, tried := p :: r.tried } })
    | none => { s with reqs := s.reqs.put id { r1 with live := false } }

/-- Attempts that wait for a path go out once one is live (R374). -/
def sendWaiting (s : State) : State :=
  (s.reqs.filter (fun (e : Nat × Req) => !e.2.live)).foldl (fun s e =>
    match retryPath s e.2 with
    | some p => bumpFx 3 (if e.2.notice then 0 else 1) (putOut e.2 p { s with reqs := s.reqs.put e.1 { e.2 with live := true, tried := p :: e.2.tried } })
    | none => s) s

/-- The request a reply or a timeout names: partition, target rank, number. -/
def reqOf (s : State) (part rank num : Nat) : Option (Nat × Req) :=
  s.reqs.find? (fun e => e.2.part == part && e.2.rank == rank && e.2.num == some num)

/-! ### From accesses to requests -/

/-- The largest power of two, at most 128, that divides an offset and fits `n` bytes (R367). -/
def pieceAt (off n : Nat) : Nat :=
  (List.range 8).foldl (fun m k => if off % 2 ^ k = 0 ∧ 2 ^ k ≤ n then 2 ^ k else m) 1

/-- A run of contiguous bytes cut into pieces: offset and size (R367). -/
def pieces : Nat → Nat → Nat → List (Nat × Nat)
  | 0, _, _ => []
  | k + 1, off, n => if n = 0 then [] else (off, pieceAt off n) :: pieces k (off + pieceAt off n) (n - pieceAt off n)

/-- Sorted offsets of bytes as runs within 128-byte lines (R367). -/
def runsOf : List Nat → List (Nat × Nat)
  | [] => []
  | a :: t => match runsOf t with
    | (b, n) :: rest => if a + 1 = b ∧ a / 128 = b / 128 then (a, n + 1) :: rest else (a, 1) :: (b, n) :: rest
    | [] => [(a, 1)]

/-- The pieces that cover a set of byte offsets. -/
def cover (offs : List Nat) : List (Nat × Nat) := (runsOf offs).flatMap (fun r => pieces r.2 r.1 r.2)

/-- A blank request. -/
def blankReq (gid core part rank opc off size : Nat) : Req :=
  { gid := gid, core := core, part := part, rank := rank, opc := opc, off := off, op := 0, size := size, data := [], pid := none,
    els := [], at' := [], copy := none }

/-- The load requests of the space-1 elements of one load (R367). -/
def loadReqs (gid core part pid : Nat) (els : List LdEl) : List Req :=
  let rank (e : LdEl) : Nat := bits e.ptr 59 48
  (els.map rank).eraseDups.flatMap (fun k =>
    let mine := els.filter (fun e => rank e == k)
    let offs := ((mine.flatMap (fun e => (List.range e.n).map (fun i => e.ptr % 2 ^ 48 + i))).eraseDups).mergeSort (fun a b => decide (a ≤ b))
    (cover offs).map (fun q =>
      { blankReq gid core part k 1 q.1 q.2 with
        pid := some pid
        els := mine.filter (fun e => decide (q.1 ≤ e.ptr % 2 ^ 48) && decide (e.ptr % 2 ^ 48 < q.1 + q.2)) }))

/-- The store requests of the space-1 elements of one store: later elements overwrite earlier ones (R203, R367). The
atomic read-modify-write of a lone nibble is an `AT.CAS` of its aligned word. (DESIGN CHOICE, log entry 43) -/
def storeReqs (gid core part : Nat) (els : List StEl) : List Req :=
  let rank (e : StEl) : Nat := bits e.ptr 59 48
  (els.map rank).eraseDups.flatMap (fun k =>
    let mine := els.filter (fun e => rank e == k)
    let put (m : Tab (Nat × Nat)) (e : StEl) : Tab (Nat × Nat) :=
      let o := e.ptr % 2 ^ 48
      match e.nib with
      | some h =>
        let old := m.get (0, 0) o
        m.put o (setBits old.1 (4 * h) 4 e.val, old.2 ||| (h + 1))
      | none => (List.range e.n).foldl (fun m i => m.put (o + i) (e.val / 2 ^ (8 * i) % 256, 3)) m
    let m := mine.foldl put []
    let whole := m.filter (fun (b : Nat × (Nat × Nat)) => b.2.2 == 3)
    let lone := m.filter (fun (b : Nat × (Nat × Nat)) => b.2.2 != 3)
    (cover (whole.map (·.1))).map (fun q =>
      { blankReq gid core part k 2 q.1 q.2 with
        data := (List.range q.2).map (fun i => BitVec.ofNat 8 (Tab.get (0, 0) whole (q.1 + i)).1) }) ++
    lone.map (fun b =>
      let h := if b.2.2 = 2 then 4 else 0
      let q : Nat × Nat := (8 * (b.1 % 4) + h, b.2.1 / 2 ^ h % 16)
      { blankReq gid core part k 3 (b.1 / 4 * 4) 4 with op := 2, data := toBytes 4 0 ++ toBytes 4 (nibbleInto q 0), nib := some q }))

/-- The atomic requests of the space-1 elements of one atomic: reduced sets as one, chained sets element by element (R383). -/
def atomicReqs (gid core part pid w op : Nat) (els : List AtEl) : List Req :=
  let mk (e : AtEl) (set : List AtEl) (v : Nat) : Req :=
    { blankReq gid core part (bits e.ptr 59 48) 3 (e.ptr % 2 ^ 48) (w / 8) with
      op := op + (if w = 64 then 8 else 0), pid := some pid, at' := set
      data := toBytes (w / 8) v ++ (if op = 2 then toBytes (w / 8) e.nv else []) }
  if op = 2 ∨ op = 3 then els.map (fun e => mk e [e] e.v)
  else
    (els.map (fun e => e.ptr % 2 ^ 63)).eraseDups.flatMap (fun a =>
      let set := els.filter (fun e => e.ptr % 2 ^ 63 == a)
      match set with
      | e :: _ => [mk e set (reduceOp w op (set.map (·.v)))]
      | [] => [])

/-! ### The target -/

/-- A field of a packet. -/
def pfield (b : List Byte) (i n : Nat) : Nat := fromBytes ((b.drop i).take n)

/-- A launch as its packet states it. -/
def pktLaunch (b : List Byte) (addr part asid : Nat) : Launch :=
  { pkt := addr, part := part, asid := asid, code := pfield b 0 8, entry := pfield b 8 4, clen := pfield b 12 4, ptable := pfield b 16 8
    teams := pfield b 24 2, cohorts := pfield b 26 1, groups := pfield b 27 1, win := pfield b 28 1, prio := pfield b 29 1 % 8
    priv := (pfield b 30 1).testBit 0, roles := pfield b 32 4, zt := pfield b 36 1, ch := pfield b 37 1, energy := pfield b 40 8
    done := pfield b 80 8 }

/-- The accessor that serves a source's packets in a partition (R371): as the gang's part running there which has the source among its ranks
would access, with its ASID, privilege and code segment; else in the export ASID, which has no code segment. A packet names no gang.
(DEDUCED, log entry 37) -/
def servedIn (s : State) (part src : Nat) : Option Who :=
  match s.launches.find? (fun e => e.2.part == part && !e.2.finished && (match e.2.gang with
      | some g => match s.gangs.find (16 * g + part) with
        | some q => q.ranks.contains src && !q.gone
        | none => false
      | none => s.rankOf part == some src)) with
  | some e => some { gid := 0, core := 0, part := part, asid := e.2.asid, priv := e.2.priv, code := e.2.code, clen := e.2.clen, w := 0 }
  | none =>
    let x := s.cfgGet (State.pblock part + 0x20) / 2 ^ 32 % 2 ^ 16
    if x = 0 then none else some { gid := 0, core := 0, part := part, asid := x, priv := false, code := 2 ^ 60, clen := 1, w := 0 }

/-- The physical place of an access at its target, or the cause of its refusal (R371); the page's state and key come along. -/
structure Served where
  pa : Nat
  st : Nat
  key : Option Nat
  deriving DecidableEq, Repr

/-- Where the target serves an access, or why it refuses (R371). -/
def serveAt (s : State) (part src off : Nat) (write : Bool) : Except Nat Served :=
  match servedIn s part src with
  | none => .error 1
  | some u =>
    match walk s part u.asid 40 off with
    | .error _ => .error 1
    | .ok (l, _) =>
      if (permFault u (if write then .wr else .rd) off l).isSome then .error 2
      else
        let st := l.st
        let ok := st == 1 || st == 4 || (!write && (st == 3 || st == 5))
        if ok then .ok ⟨l.pa ((s.partDies part).headD 0) off, st, if st = 4 then lockKey s part u.asid (off / 2 ^ 16) else pageKey s part u.asid (off / 2 ^ 16)⟩ else .error 3

/-- The walker's A and D updates for a served access (R156). -/
def markServed (s0 : State) (part src off : Nat) (write : Bool) (s : State) : State :=
  match servedIn s0 part src with
  | none => s
  | some u => match walk s0 part u.asid 40 off with
    | .ok (l, _) => orEntry part l.addr (if write then 0xC00 else 0x800) s
    | .error _ => s

/-- The floor of a source raised at its target (R373, R376, R380): entries below it go; a noticed number not performed is counted; a
number passed without notice is kept until its notice tells its path (4: not told yet). -/
def Filt.raise : Nat → Nat → Filt → Filt
  | 0, _, f => f
  | n + 1, lim, f =>
    if f.floor = lim then f
    else
      let k := f.floor
      let f1 : Filt := match f.perf.find? (fun e => e.1 == k) with
        | some (_, .closed) =>
          let p := ((f.closedOn.find? (fun e => e.1 == k)).map (·.2)).getD 4
          { f with counts := if p < 4 then f.counts.set p ((f.counts.getD p 0 + 1) % 2 ^ 32) else f.counts
                   closedOn := f.closedOn.filter (fun e => e.1 != k) }
        | some _ => f
        | none => { f with closedOn := (k, 4) :: f.closedOn }
      Filt.raise n lim { f1 with perf := f1.perf.filter (fun e => e.1 != k), floor := (k + 1) % 2 ^ 32 }

/-- The target's floor for a source after a packet's floor (R373, R380). -/
def Filt.toFloor (f : Filt) (floor : Nat) : Filt :=
  if serialGe floor f.floor then f.raise ((floor + 2 ^ 32 - f.floor % 2 ^ 32) % 2 ^ 32) floor else f

/-- A reply to a packet (R367): a packet of its own from the answering partition, with its tenant, on a live path to the source chosen as R370
says, whatever path the request came on. Where none is live it is lost, and the source asks again (R374). One that carries no data names the
request's size (DESIGN CHOICE, log entry 42). -/
def reply (opc : Nat) (p : Pkt) (op : Nat) (data : List Byte) (s : State) : State :=
  match (s.partOfRank p.dst).bind (fun part => (pickPath s p.src (livePaths s part p.src)).map (fun path => (part, path))) with
  | none => s
  | some (part, path) =>
    sendPacket opc path { p with src := p.dst, dst := p.src, path := path, floor := 0, tenant := s.tenantOf part, op := op, data := data
                                 counts := [] } s

/-- A number performed, or refused, at the target: recorded, and counted on its path unless it is a load (R373, R380). -/
def recordPerf (part : Nat) (opc : Nat) (p : Pkt) (x : Perf) (s : State) : State :=
  s.updFilt (flowKey part p.src) (fun f => { f with
    perf := (p.num, x) :: f.perf.filter (fun e => e.1 != p.num)
    closedOn := f.closedOn.filter (fun e => e.1 != p.num)
    counts := if opc = 1 then f.counts else f.counts.set p.path ((f.counts.getD p.path 0 + 1) % 2 ^ 32) })

/-- A request refused (R371). -/
def refuse (part opc cause : Nat) (p : Pkt) (s : State) : State :=
  reply 0x84 p cause [] (recordPerf part opc p (.refused cause) s)

/-- The bytes a store, flag store or atomic leaves, with an atomic's old value. -/
def newBytes (opc : Nat) (p : Pkt) (old : List Byte) : List Byte :=
  if opc = 3 then
    let w := if p.op / 8 % 2 = 1 then 64 else 32
    let v := fromBytes (p.data.take (w / 8))
    toBytes (w / 8) (atomOp w (p.op % 8) (fromBytes old) v (fromBytes (p.data.drop (w / 8)))).1
  else p.data

/-- A write performed at its coherence point and acknowledged (R372, R374). (DEDUCED, log entry 44) -/
def performRemote (part opc pa : Nat) (p : Pkt) (s : State) : State :=
  let n := if opc = 3 then (if p.op / 8 % 2 = 1 then 8 else 4) else p.size
  let old := cellsGet s.mem pa n
  let new := newBytes opc p old
  let s1 := clearPoison ((List.range new.length).map (fun i => Place.phys (pa + i) 1)) { homeTake (pa / 128) 1 s with mem := cellsSet s.mem pa new }
  if opc = 3 then reply 0x83 p 0 old (recordPerf part opc p (.atomic old) s1)
  else reply 0x82 p 0 [] (recordPerf part opc p .stored s1)

/-- The counts of a source allow a flag store (R381). -/
def flagReady (s : State) (part : Nat) (p : Pkt) : Bool :=
  let f := s.filt (flowKey part p.src)
  (List.range 4).all (fun k => serialGe (f.counts.getD k 0) (p.counts.getD k 0))

/-! ### Locked replicas -/

/-- The ranks at the set bits of a member mask. -/
def ranksIn (sp : Space) (mask : Nat) : List Nat :=
  (List.range sp.members.length).filterMap (fun i => if mask.testBit i then sp.members[i]? else none)

/-- The other replicas of a locked page, as this device knows them (R174). -/
def lockOthers (s : State) (key : Nat) : List Nat :=
  (s.lockSets.get [] key).filter (fun r => (s.partOfRank r).isNone)

/-- A store to a locked page asks the page's directory record for its turn (R174). (DEDUCED, log entry 124) -/
def startLock (l : Lock) (s : State) : State :=
  let p := attemptPort s l.key 0 1 false
  askOn p l.key 8 l.part 0 0 { s with
    locks := s.locks ++ [{ l with id := s.nextId, step := 0, left := [], since := s.now, tries := 1, port := p }], nextId := s.nextId + 1 }

/-- A line of a page is locked here, or, for a write, a store to it stands before it. -/
def isLocked (s : State) (key off : Nat) (write : Bool) : Bool :=
  s.locks.any (fun l => l.key == key && l.off / 128 == off / 128 && (write || l.step != 0))

/-- A request that passed the filter is performed, refused, stalled at a locked line, or locks its line; a line a copy engine holds is recalled, and one with an active
persistent request waits for it (R169, R171, R174, R371). -/
def serveReq (part opc : Nat) (p : Pkt) (s : State) : State :=
  let write := opc != 1
  match serveAt s part p.src p.off write with
  | .error c => refuse part opc c p s
  | .ok v =>
    let locked : Bool := match v.st, v.key with
      | 4, some k => isLocked s k (p.off % 2 ^ 16) write
      | _, _ => false
    if locked ∨ heldByCopy s 0 0 0 false v.pa ∨ !(tokOf s (v.pa / 128)).persist.isEmpty then { s with stalled := s.stalled ++ [(opc, p)] }
    else
      let s1 := markServed s part p.src p.off write s
      if opc = 1 then
        let d := if s.poison.contains (v.pa / 128) then List.replicate p.size 0 else cellsGet s.mem v.pa p.size
        reply 0x81 p 0 d (recordPerf part 1 p .stored s1)
      else match v.st, v.key with
        | 4, some k => startLock { id := 0, key := k, off := p.off % 2 ^ 16, own := true, writer := 0, step := 1, left := [],
                                   gid := 0, hid := 0, el := 0, pkt := some (opc, p), part := part, data := [], since := 0 } s1
        | _, some k => markMigrated k (p.off % 2 ^ 16) (performRemote part opc v.pa p s1)
        | _, none => performRemote part opc v.pa p s1

/-- A request of a packet the target already knows is answered again (R373). -/
def answerAgain (part opc : Nat) (p : Pkt) (x : Perf) (s : State) : State :=
  match x with
  | .stored => if opc = 1 then serveReq part 1 p s else bumpFx 4 1 (reply 0x82 p 0 [] s)
  | .atomic old => bumpFx 4 1 (reply 0x83 p 0 old s)
  | .refused c => bumpFx 4 1 (reply 0x84 p c [] s)
  | .closed => bumpFx 4 1 s

/-- A packet's store is being performed under a line's lock: it has its turn, or asks for it (R174). -/
def lockedPkt (s : State) (p : Pkt) : Bool :=
  s.locks.any (fun l => match l.pkt with
    | some q => q.2.src == p.src && q.2.dst == p.dst && q.2.num == p.num
    | none => false)

/-- A request is already here, held, stalled, or waiting to be refused. -/
def alreadyHere (s : State) (p : Pkt) : Bool :=
  let same (q : Pkt) : Bool := q.src == p.src && q.dst == p.dst && q.num == p.num
  s.heldFlags.any same || s.stalled.any (fun e => same e.2) || s.refusals.any (fun e => same e.2.1) || lockedPkt s p

/-- THE ARRIVAL OF A REQUEST (R371, R373, R381): filter first, then tenant, then performance or holding. -/
def arrive (opc : Nat) (p : Pkt) (s : State) : State :=
  match s.partOfRank p.dst with
  | none => s
  | some part =>
    let k := flowKey part p.src
    let s1 := s.updFilt k (fun f => f.toFloor p.floor)
    let f := s1.filt k
    if !serialGe p.num f.floor then bumpFx 4 1 s1
    else match f.perf.find? (fun e => e.1 == p.num) with
      | some (_, x) => answerAgain part opc p x s1
      | none =>
        if alreadyHere s1 p then bumpFx 4 1 s1
        else if p.tenant ≠ s.tenantOf part then
          { s1 with refusals := s1.refusals.put s1.nextId (p, opc * 16 + 4, s1.now + 18000), nextId := s1.nextId + 1 }
        else if opc = 4 ∧ !flagReady s1 part p then
          (if 256 ≤ (s1.heldFlags.filter (fun q => s1.partOfRank q.dst == some part)).length then s1 else { s1 with heldFlags := s1.heldFlags ++ [p] })
        else serveReq part opc p s1

/-- The arrival of a floor notice (R376, R377, R380): the number is closed unless it was performed, and acknowledged. While its store is being
performed the notice is not answered; the source repeats it. (DEDUCED, log entry 16; DESIGN CHOICE, log entry 42) -/
def arriveNotice (p : Pkt) (s : State) : State :=
  match s.partOfRank p.dst with
  | none => s
  | some part =>
    let k := flowKey part p.src
    let s1 := s.updFilt k (fun f => f.toFloor p.floor)
    let f := s1.filt k
    let count (f : Filt) : Filt :=
      if p.size = 2 then f else { f with counts := f.counts.set p.path ((f.counts.getD p.path 0 + 1) % 2 ^ 32) }
    let f1 : Filt :=
      if serialGe p.num f.floor then
        (if f.perf.any (fun e => e.1 == p.num) then f
         else { f with perf := (p.num, .closed) :: f.perf, closedOn := (p.num, if p.size = 2 then 4 else p.path) :: f.closedOn })
      else if f.closedOn.contains (p.num, 4) then count { f with closedOn := f.closedOn.filter (fun e => e != (p.num, 4)) }
      else f
    let gone (q : Pkt) : Bool := q.src == p.src && q.dst == p.dst && q.num == p.num
    if lockedPkt s1 p then s1
    else reply 0x82 p 0 [] { (s1.updFilt k (fun _ => f1)) with
      heldFlags := s1.heldFlags.filter (fun q => !gone q), stalled := s1.stalled.filter (fun q => !gone q.2) }

/-- A reply reaches the source (R373): it resolves its request, or acknowledges a floor notice. -/
def arriveReply (opc : Nat) (p : Pkt) (s : State) : State :=
  match s.partOfRank p.dst with
  | none => s
  | some part => match reqOf s part p.src p.num with
    | none => s
    | some (id, r) =>
      if r.notice then (if opc = 0x82 then dropReq id s else s)
      else match opc with
        | 0x81 => if r.opc = 1 then endReq id r (.data p.data) s else s
        | 0x82 => if r.opc = 2 ∨ r.opc = 4 then endReq id r (.data []) s else s
        | 0x83 => if r.opc = 3 then endReq id r (.data p.data) s else s
        | _ => endReq id r (.fail [2] p.op) s

/-- Requests stalled at lines no longer locked are served (R174). -/
def unstall (s : State) : State :=
  s.stalled.foldl (fun s e => match s.partOfRank e.2.dst with
    | some part => serveReq part e.1 e.2 s
    | none => s) { s with stalled := [] }

end Sys2Proof.Machine
end

