-- ==== Sys2Proof/Machine/Almanac.lean ====
section
/-! DEFINITION. Meridian: the entries and frames of remote pages, chains of fault records, candidates, eviction and declines
(R333 to R357). -/

namespace Sys2Proof.Machine

/-! ### Entries of a page -/

/-- The ASIDs that reach a page: partition × 65536 + ASID (R334). -/
def mappers (s : State) (key : Nat) : List Nat :=
  if keyUnbound key then [key / 2 ^ 44 % 2 ^ 32] else (s.binds.filter (fun b => b.2 == keyGasid key)).map (·.1)

/-- The 64 KiB leaves that map a page: ASID, entry address, entry. -/
def leavesOf (s : State) (key : Nat) : List (Nat × Nat × Nat) :=
  (mappers s key).filterMap (fun a =>
    match walk s (a / 65536) (a % 65536) 40 (keyVpn key * 2 ^ 16) with
    | .ok (l, _) => if l.lvl = 0 then some (a, l.addr, l.pte) else none
    | .error _ => none)

/-- Every leaf of a page rewritten; Meridian gathers the tokens of an entry's line before it changes it (R168). -/
def mapLeaves (key : Nat) (f : Nat → Nat) (s : State) : State :=
  (leavesOf s key).foldl (fun s l => if f l.2.2 = l.2.2 then s else (homeTake (l.2.1 / 128) 1 s).pmWr l.2.1 8 (f l.2.2)) s

/-- The page's translations shot down everywhere (R345). -/
def shootKey (key : Nat) (s : State) : State :=
  (mappers s key).foldl (fun s a => shootPage (a / 65536) (a % 65536) (keyVpn key) s) s

/-- Entries to a resident state or TRANSIT with their frame, MGEN incremented (R163). -/
def enterState (key st pa : Nat) (s : State) : State :=
  mapLeaves key (fun pte => if pte % 16 = st ∧ bits pte 47 16 = pa / 2 ^ 16 then pte else setBits (pteWith pte st pa true) 48 8 0) s

/-- Entries to ABSENT-REMOTE with a home hint (kind, id), MGEN incremented (R156, R344, R352). -/
def enterAbsent (key kind home : Nat) (s : State) : State :=
  shootKey key (mapLeaves key (fun pte => setBits (pteWith pte 2 (home % 4096 * 2 ^ 36) true) 48 8 kind) s)

/-- The state of a page's entry on this device. -/
def stateOf (s : State) (key : Nat) : Nat := ((leavesOf s key).head?.map (fun l => l.2.2 % 16)).getD 0

/-- The home hint of a page's entry: kind and id (R156). -/
def hintOf (s : State) (key : Nat) : Nat × Nat :=
  match (leavesOf s key).head? with
  | some (_, _, pte) => if pte % 16 = 2 then (bits pte 49 48, bits pte 47 36) else (0, 0)
  | none => (0, 0)

/-- The frame this device holds of a page. -/
def frameOf (s : State) (key : Nat) : Option Frame := s.frames.find? (fun f => f.gasid * 2 ^ 44 + f.vpn == key)

/-! ### Frames (R350) -/

/-- The quota of an ASID; at least 2 frames (R350). (DESIGN CHOICE, log entry 34) -/
def quotaOf (s : State) (a : Nat) : Nat := max 2 (s.quotas.get 2 a)
/-- A frame counts for an ASID: a locked replica's for each bound ASID that maps it (R347), any other's for the one it was installed for. -/
def Frame.countsFor (s : State) (a : Nat) (f : Frame) : Bool :=
  if f.locked then (mappers s (f.gasid * 2 ^ 44 + f.vpn)).contains a else 65536 * f.part + f.asid == a
/-- Frames that count for an ASID: installed, and reserved by resolutions in progress. -/
def framesUsed (s : State) (a : Nat) : Nat :=
  (s.frames.filter (Frame.countsFor s a)).length +
  (s.chains.filter (fun (c : Nat × Chain) => c.2.frame != 0 && (frameOf s c.1).isNone && 65536 * c.2.part + c.2.asid == a)).length

/-- Bytes of a group's record in a save area, `w` its window (R116). -/
def groupBytes (w : Nat) : Nat := 13312 + 128 * w + 128 * cdiv (9 * w) 128
/-- Bytes of a cohort's save area: groups, window, z-tiles (R117). -/
def saveBytes (groups w nz : Nat) : Nat := 512 + groups * groupBytes w + 24576 * nz

/-- The frames a cohort's save area takes. -/
def saveFrames (s : State) (co : Cohort) : List Nat :=
  match s.launches.find co.launch with
  | some la => (List.range (cdiv (saveBytes la.groups (16 * la.win) co.nz) 65536)).map (fun i => co.save / 65536 + i)
  | none => []

/-- Frames of a partition's pool that are held, reserved, or not left zero. -/
def usedFrames (s : State) : List Nat :=
  s.frames.map (fun f => f.pa / 65536) ++ s.chains.map (fun (c : Nat × Chain) => c.2.frame / 65536) ++
    s.homes.map (fun (h : Nat × Nat) => h.2 / 65536) ++ s.incoming.map (fun (h : Nat × Nat) => h.2 / 65536) ++ (s.mem.map (fun (c : Host.Cell) => c.1 / 65536)).eraseDups ++
    s.cohorts.flatMap (fun (c : Nat × Cohort) => saveFrames s c.2) ++ s.gangs.flatMap (fun (g : Nat × Gang) => g.2.saves)

/-- `n` frames in a row of a partition's pool that nothing uses and a list does not name: the lowest. The dump region and host-core memory
are outside every pool (R401, R403, R415). -/
def freeRunBut (s : State) (part n : Nat) (taken : List Nat) : Option Nat :=
  let lo : Nat := cdiv (s.cfgGet (State.pblock part + 16)) 65536
  let hi : Nat := s.cfgGet (State.pblock part + 24) / 65536
  let used := taken ++ usedFrames s
  let outside : List (Nat × Nat) := [(dumpBase s / 65536, 16384), (hostMem / 65536, 65536)]
  let starts := (lo :: outside.map (fun (z : Nat × Nat) => z.1 + z.2) ++ used.map (· + 1)).filter (fun f =>
    decide (lo ≤ f) && decide (f + n ≤ hi) && !used.any (fun u => decide (f ≤ u) && decide (u < f + n)) &&
    !outside.any (fun (z : Nat × Nat) => decide (f < z.1 + z.2) && decide (z.1 < f + n)))
  match starts with
  | [] => none
  | f :: t => some ((t.foldl min f) * 65536)

/-- `n` frames in a row of a partition's pool that nothing uses. -/
def freeRun (s : State) (part n : Nat) : Option Nat := freeRunBut s part n []

/-- The frames of so many runs of `n`, with some taken already: all frames then taken, or none where there is no room. -/
def freeRuns (s : State) (part n : Nat) : Nat → List Nat → Option (List Nat)
  | 0, taken => some taken
  | k + 1, taken => match freeRunBut s part n taken with
    | none => none
    | some pa => freeRuns s part n k (taken ++ (List.range n).map (fun i => pa / 65536 + i))

/-- A 64 KiB frame of a partition's pool that nothing uses: the lowest that is not held or reserved and whose bytes are all zero.
(DESIGN CHOICE, log entry 33) -/
def freeFrame (s : State) (part : Nat) : Option Nat := freeRun s part 1

/-- A frame freed: it is left zero, and unused; but a resolution in progress of its own page keeps it reserved (R350). -/
def freeOf (key pa : Nat) (s : State) : State :=
  let keeps (c : Chain) : Chain := match c.phase with
    | .asked _ => { c with frame := pa }
    | _ => c
  { s with frames := s.frames.filter (fun f => f.gasid * 2 ^ 44 + f.vpn != key)
           chains := if (frameOf s key).isSome then s.chains.upd key keeps else s.chains
           mem := s.mem.filter (fun c => decide (c.1 < pa) || decide (pa + 65536 ≤ c.1)) }

/-! ### Messages -/

/-- The member whose presence filter holds a page, this device's own aside (R348). -/
def filterMember (s : State) (key : Nat) : Option Nat :=
  match s.spaces.find (keyGasid key) with
  | none => none
  | some sp =>
    let bs := filterBits sp (keyGasid key) (keyVpn key)
    ((List.range sp.members.length).filter (fun m =>
      let f := s.filters.get [] (64 * keyGasid key + m)
      bs.all f.contains && (s.partOfRank (sp.members.getD m 0)).isNone)).head?.bind (fun m => sp.members[m]?)

/-- A read's next candidate from a stage on (R348): stage and rank; 2 is the directory. (DESIGN CHOICE, log entry 46) -/
def candidate (s : State) (key : Nat) (write : Bool) (stage : Nat) : Nat × Nat :=
  let h := hintOf s key
  let hint : Nat × Nat := if h.1 = 1 ∧ (s.partOfRank h.2).isNone then (1, h.2) else (2, 0)
  if write then (2, 0)
  else match stage, filterMember s key with
    | 0, some r => (0, r)
    | 0, none => hint
    | 1, _ => hint
    | _, _ => (2, 0)

/-- A request for the page goes out from a stage on (R348), on the port of this attempt (R353). (DEDUCED, log entry 48) -/
def ask (key stage : Nat) (s : State) : State :=
  match s.chains.find key with
  | none => s
  | some c =>
    let (st, r) := if stage = 3 then (3, 0) else candidate s key c.write stage
    let p := attemptPort s key c.port c.attempts (st == 3)
    let s1 := dropTells key true { s with chains := s.chains.put key { c with phase := .asked st, since := s.now, port := p } }
    match st with
    | 3 => s1.send (.onPort p (.serverRead (c.home % 65536) (keyGasid key) (keyVpn key) ((s.rankOf c.part).getD 0) c.ver))
    | 2 => askOn p key (if c.write then 1 else 0) c.part 0 0 s1
    | _ => s1.send (.onPort p (.probe r (keyGasid key) (keyVpn key) (s.tenantOf c.part)))

/-! ### Declines (R354) -/

/-- The decline queue holds 256 records in host-core memory. -/
def declineRoom (s : State) : Bool := decide (s.declineQ.length < 256)

/-- The fault records of a chain: a `PAGEREL` is none. -/
def Chain.faults (c : Chain) : List FaultRec := c.recs.filter (fun r => r.role != .pagerel)
/-- The NEXT of a chain's first record. -/
def Chain.nextHandle (c : Chain) : Nat := ((c.faults.drop 1).head?.map (·.handle)).getD 0

/-- A record with what a decline writes into it. -/
def FaultRec.declined (r : FaultRec) (reason attempts next : Nat) : FaultRec := { r with reason := reason, attempts := attempts, next := next }

/-- The first record of a declined chain goes to the decline queue, or waits (R354). -/
def pushDecline (key : Nat) (s : State) : State :=
  match s.chains.find key with
  | none => s
  | some c => match c.recs.find? (fun r => r.role != .pagerel) with
    | none => s
    | some r =>
      if c.inQueue ∨ !declineRoom s then s
      else ({ s with declineQ := s.declineQ ++ [r.declined c.reason c.attempts c.nextHandle]
                     chains := s.chains.put key { c with inQueue := true } }).send .declineSignal

/-- A resolution is declined; one that only hints asked for is dropped (R354, R361). -/
def decline (key reason : Nat) (s : State) : State :=
  match s.chains.find key with
  | none => s
  | some c =>
    let rs := c.recs.filter (fun r => r.kind != 7)
    if rs.all (fun r => r.role == .pagerel) then rs.foldl (fun s r => finish r.gid r.op s) { s with chains := s.chains.del key }
    else
      let d : Chain := { c with phase := .declined, reason := reason, inQueue := false, recs := rs, failed := some c.phase }
      pushDecline key { s with chains := s.chains.put key d }

/-! ### Giving up a copy (R352) -/

/-- The page goes to TRANSIT, its translations go, and its lines' tokens are gathered (R345, steps 1 and 2). -/
def toTransit (key pa : Nat) (s : State) : State := gatherPage pa (shootKey key (enterState key 6 pa s))

/-- A copy engine holds a line of a page, or a line is locked: a move waits (R171, R174, R333, R345). -/
def pageBusy (s : State) (key pa : Nat) : Bool :=
  s.locks.any (fun l => l.key == key && l.step != 0) ||
  (s.cohorts.any (fun c => c.2.chans.any (fun h => !h.2.q.isEmpty)) && (List.range 512).any (fun i => heldByCopy s 0 0 0 false (pa + 128 * i)))

/-- The chain of a page being given up. -/
def leaveChain (key : Nat) (f : Frame) (sent : Bool) (s : State) : State :=
  let c : Chain := (s.chains.find key).getD { phase := .leaving sent false, part := f.part, asid := f.asid }
  { s with chains := s.chains.put key { c with phase := .leaving sent false, since := s.now, attempts := 1, frame := 0 } }

/-- An attempt of a page's leaving (R352, R353): the release asked of the directory, or, once it has ordered so, the page written back to
its home. -/
def leaveAttempt (key : Nat) (f : Frame) (s : State) : State :=
  match s.chains.find key with
  | none => s
  | some c =>
    let sent := match c.phase with
      | .leaving b _ => b
      | _ => false
    let p := attemptPort s key c.port c.attempts (sent && f.home / 65536 == 2)
    let s1 := { s with chains := s.chains.put key { c with port := p, since := s.now } }
    if sent then s1.send (.onPort p (.writeBack (f.home / 65536) (f.home % 65536) f.gasid f.vpn f.ver (cellsGet s.mem f.pa 65536)))
    else askOn p key 2 f.part 0 f.ver s1

/-- The page is written back to its home, whose acknowledgement is awaited (R352). (DESIGN CHOICE, log entry 79) -/
def writeBack (key : Nat) (f : Frame) (s : State) : State := leaveAttempt key f (leaveChain key f true s)

/-- The copy is dropped: ABSENT-REMOTE with the home as its hint, the frame free (R352). -/
def dropPage (key : Nat) (f : Frame) (s : State) : State :=
  freeOf key f.pa (gatherPage f.pa (enterAbsent key (f.home / 65536) (f.home % 65536) { s with lockSets := s.lockSets.del key }))

/-- A copy that can go at once: a reader's (R352). -/
def cleanCopy (f : Frame) : Bool := !f.locked && !f.excl && !f.dirty && (!f.owner || f.hc)

/-- Release of a frame (R343, R352): a reader's copy is dropped; any other goes to TRANSIT, and the directory, which serves releases in
their order, answers whether it is to be written back. -/
def releaseFrame (key : Nat) (f : Frame) (s : State) : State :=
  if cleanCopy f then tellRelease key f.part 0 f.ver (dropPage key f s)
  else leaveAttempt key f (leaveChain key f false (toTransit key f.pa s))

/-- A group holds a store, a release store or an atomic of a page (R351). -/
def Group.holdsOn (s : State) (key : Nat) (g : Group) : Bool :=
  let on (ptr : Nat) : Bool := bits ptr 62 60 == 0 && (match s.cohorts.find g.cid with
    | some co => match s.launches.find co.launch with
      | some la => keyOf s (s.partOf co.core) la.asid (ptr % 2 ^ 60 / 2 ^ 16) == key
      | none => false
    | none => false)
  (g.stq ++ g.stqWait).any (fun h => match h with
    | .store _ els => els.any (fun x => on x.2.ptr)
    | .rel _ (.store x _ _) => on x.ptr
    | .atomic _ pid => match g.pend.find pid with
      | some p => match p.op with
        | .atomic _ _ _ els => els.any (fun x => on x.ptr)
        | _ => false
      | none => false
    | .rel _ _ => false)

/-- A move of a page is in progress (R351): one the directory has ordered, begun or not, a migration, or a store to a locked replica. -/
def pageMoves (s : State) (key : Nat) : Bool :=
  stateOf s key == 6 || s.moves.any (fun m => m.gasid * 2 ^ 44 + m.vpn % 2 ^ 44 == key) || (s.migr.find key).isSome || s.locks.any (fun l => l.key == key)

/-- A frame the clock hand skips: its page has a chain, a move in progress, or held stores (R351). -/
def handSkips (s : State) (key : Nat) : Bool :=
  (s.chains.find key).isSome || pageMoves s key ||
  s.groups.any (fun (e : Nat × Group) => e.2.holdsOn s key)

/-- The clock hand (R351): frames with A = 1 lose it and their translations, the first with A = 0 is the victim. (DESIGN CHOICE, log entry 15) -/
def clockHand (a : Nat) : Nat → State → State × Option Frame
  | 0, s => (s, none)
  | n + 1, s =>
    let fs := s.frames.filter (Frame.countsFor s a)
    let i := s.hands.get 0 a % max 1 fs.length
    match fs[i]? with
    | none => (s, none)
    | some f =>
      let key := f.gasid * 2 ^ 44 + f.vpn
      let next := { s with hands := s.hands.set 0 a (i + 1) }
      if handSkips s key then clockHand a n next
      else if (leavesOf s key).any (fun l => l.2.2.testBit 11) then
        clockHand a n (shootKey key (mapLeaves key (fun p => setBits p 11 1 0) next))
      else ({ s with hands := s.hands.set 0 a i }, some f)

/-- A chain is of a page on its way out. -/
def Chain.departs (c : Chain) : Bool :=
  match c.phase with
  | .leaving _ _ => true
  | _ => false

/-- A chain waits for a frame, or for room in the quota. -/
def Chain.lacksFrame (c : Chain) : Bool :=
  match c.phase with
  | .noFrame => true
  | .supplied _ _ false => true
  | _ => false

/-- A frame is being given up already for a chain of an ASID: as many of its pages leave as chains wait for a frame, this one counted. -/
def evicting (a key : Nat) (s : State) : Bool :=
  let of' (c : Chain) : Bool := 65536 * c.part + c.asid == a
  decide ((s.chains.filter (fun (e : Nat × Chain) => e.1 != key && of' e.2 && e.2.lacksFrame)).length <
    (s.chains.filter (fun (e : Nat × Chain) => of' e.2 && e.2.departs)).length)

/-- One of an ASID's frames is evicted for a page if one can be chosen (R350, R351); a victim a copy engine holds lines of goes once they are
written (R333). (DEDUCED, log entry 47) -/
def evict (a key : Nat) (s : State) : State :=
  if evicting a key s then s else
  let n := (s.frames.filter (Frame.countsFor s a)).length
  match clockHand a (2 * n) s with
  | (s1, some f) => if pageBusy s1 (f.gasid * 2 ^ 44 + f.vpn) f.pa then s1 else releaseFrame (f.gasid * 2 ^ 44 + f.vpn) f s1
  | (s1, none) => s1

/-! ### Resolutions (R338) -/

/-- Only hints ask for a page. -/
def Chain.hintOnly (c : Chain) : Bool := !c.recs.isEmpty && c.recs.all (fun r => r.kind == 7)

/-- A frame reserved for a chain if its quota and the pool allow, evicting first if the quota is full; then the first request. A hint
never evicts, and is dropped without a frame (R361). -/
def beginResolution (key : Nat) (s : State) : State :=
  match s.chains.find key with
  | none => s
  | some c =>
    if keyUnbound key then decline key 4 s
    else if (s.spaces.find (keyGasid key)).isNone then decline key 4 s
    else if (frameOf s key).isSome ∨ (s.homes.find key).isSome then ask key 0 s
    else
      let a := 65536 * c.part + c.asid
      let s1 := if quotaOf s a ≤ framesUsed s a ∧ !c.hintOnly then evict a key s else s
      let room := decide (framesUsed s1 a < quotaOf s1 a)
      match s1.chains.find key, (if room then freeFrame s1 c.part else none) with
      | some c1, some pa => ask key 0 { s1 with chains := s1.chains.put key { c1 with frame := pa, attempts := 1 } }
      | some c1, none =>
        if c1.hintOnly then { s1 with chains := s1.chains.del key }
        else { s1 with chains := s1.chains.put key { c1 with phase := .noFrame, since := s1.now } }
      | none, _ => s1

/-- A supplied page enters the ASID's quota, evicting first if needed, and the directory is told (R355). -/
def trySupply (key : Nat) (s : State) : State :=
  match s.chains.find key with
  | none => s
  | some c => match c.phase with
    | .supplied frame flags false =>
      let a := 65536 * c.part + c.asid
      let s1 := if quotaOf s a ≤ framesUsed s a then evict a key s else s
      if framesUsed s1 a < quotaOf s1 a then
        let p := attemptPort s1 key 0 1 false
        askOn p key (if flags.testBit 0 then 6 else 7) c.part 0 0 { s1 with chains := s1.chains.put key { c with
          phase := .supplied frame flags true, frame := frame, attempts := 1, since := s1.now, port := p } }
      else s1
    | _ => s

/-- A hint's turn has come: no demand record that was in its die's queue before it is left (R361). -/
def hintDue (s : State) (c : Chain) : Bool :=
  match c.recs with
  | h :: _ => !s.chains.any (fun (e : Nat × Chain) => e.2.recs.any (fun r =>
      r.role == .access && r.kind != 7 && r.die == h.die && decide (r.handle < h.handle)))
  | [] => true

/-- Hints whose turn has come are served. -/
def startHints (s : State) : State :=
  (s.chains.filter (fun (c : Nat × Chain) => c.2.phase == .hinted)).foldl (fun s c =>
    match s.chains.find c.1 with
    | some d => if d.phase = .hinted ∧ hintDue s d then beginResolution c.1 s else s
    | none => s) s

/-- Chains that wait for a frame of an ASID try again, and hints whose turn has come start. -/
def retryFrames (s : State) : State :=
  startHints ((s.chains.filter (fun (c : Nat × Chain) => c.2.lacksFrame)).foldl (fun s c =>
    match s.chains.find c.1 with
    | none => s
    | some d0 =>
      if d0.phase = .noFrame then
        let s1 := beginResolution c.1 s
        match s1.chains.find c.1 with
        | some d => if d.phase = .noFrame then { s1 with chains := s1.chains.put c.1 { d with since := c.2.since } } else s1
        | none => s1
      else trySupply c.1 s) s)

/-- A resolution starts anew for the records that remain (R355), or the chain goes. -/
def restartChain (key : Nat) (s : State) : State :=
  match s.chains.find key with
  | none => s
  | some c =>
    if c.recs.isEmpty then { s with chains := s.chains.del key }
    else
      let d : Chain := { c with
        phase := .asked 2, attempts := 1, frame := 0, inQueue := false, reason := 0, since := s.now
        write := c.recs.head?.any (fun r => r.flags % 2 == 1) }
      beginResolution key { s with chains := s.chains.put key d }

/-! ### Fault records (R336, R337) -/

/-- Records of a die's queue. -/
def queueLen (s : State) (die : Nat) : Nat :=
  s.chains.foldl (fun n (c : Nat × Chain) => n + (c.2.recs.filter (fun r => r.die == die && r.role == .access)).length) 0

/-- A record in its place in a chain (R338): at the tail, before those of the same ns from dies with higher numbers. -/
def insertRec (r : FaultRec) : List FaultRec → List FaultRec
  | [] => [r]
  | x :: t => if x.time = r.time ∧ r.die < x.die ∧ t.all (fun y => y.time == r.time) then r :: x :: t else x :: insertRec r t

/-- What a record is of. -/
structure RecOf where
  kind : Nat
  held : Bool := false
  unit : Nat
  token : Nat := 0xFF
  gid : Nat
  op : Nat
  deriving DecidableEq, Repr

/-- Kinds that need write ownership (R337). -/
def kindWrites (k : Nat) (hintW : Bool) : Bool := k == 1 || k == 2 || k == 4 || k == 6 || (k == 7 && hintW)

/-- A record of an access exists. -/
def hasRec (s : State) (key gid op kind : Nat) : Bool :=
  match s.chains.find key with
  | some c => c.recs.any (fun r => r.gid == gid && r.op == op && r.kind == kind)
  | none => false

/-- A record as an access makes it (R337). -/
def newRec (s : State) (u : Who) (vpn : Nat) (x : RecOf) (w : Bool) (role : RecRole) : FaultRec :=
  { handle := s.nextId, time := s.now / 9, die := dieOf u.core, vpn := vpn, part := u.part, asid := u.asid
    gen := asidGen s u.part u.asid, kind := x.kind, flags := b2n w + 2 * b2n x.held + 4 * b2n u.priv, core := u.core
    unit := x.unit, token := x.token, gasid := (s.binds.find (65536 * u.part + u.asid)).getD 0, tenant := s.tenantOf u.part
    reason := 0, attempts := 0, gid := x.gid, op := x.op, role := role }

/-- A fault record joins its page's chain (R336 to R338): one for each instruction and page; a full queue makes the access wait
without one (R337). A new chain starts the resolution, a hint's when its turn comes. A TLB entry that led here is dropped (R158). -/
def record (u : Who) (vpn : Nat) (x : RecOf) (hintW : Bool) (s0 : State) : State :=
  let s := dropStale u (vpn * 2 ^ 16) s0
  let key := keyOf s u.part u.asid vpn
  if hasRec s key x.gid x.op x.kind ∨ 1024 ≤ queueLen s (dieOf u.core) then s
  else
    let w := kindWrites x.kind hintW
    let r := newRec s u vpn x w .access
    let s1 := { s with nextId := s.nextId + 1 }
    match s1.chains.find key with
    | some c =>
      let s2 := { s1 with chains := s1.chains.put key { c with recs := insertRec r c.recs } }
      if c.phase = .hinted ∧ x.kind ≠ 7 then beginResolution key s2 else s2
    | none =>
      let d : Chain := { recs := [r], phase := if x.kind = 7 then .hinted else .asked 2, write := w, attempts := 1, since := s1.now,
                         part := u.part, asid := u.asid }
      let s2 := { s1 with chains := s1.chains.put key d }
      if x.kind = 7 then startHints s2 else beginResolution key s2

/-- A `PAGEREL` joins the tail of a page's chain, which it finds or is the first of (R362). -/
def chainPagerel (u : Who) (vpn unit gid op : Nat) (fresh : Chain) (s : State) : State :=
  let key := keyOf s u.part u.asid vpn
  let r := newRec s u vpn { kind := 0, unit := unit, gid := gid, op := op } false .pagerel
  let c := (s.chains.find key).getD fresh
  { s with nextId := s.nextId + 1, chains := s.chains.put key { c with recs := c.recs ++ [r] } }

/-- The group index on the core that a record's UNIT holds. -/
def unitOf (s : State) (gid : Nat) : Nat := ((s.groups.find gid).map (·.idx)).getD 0

/-- A frame's page is among those held: installed in the ASID's frames (R350). -/
def addFrame (f : Frame) (s : State) : State :=
  { s with frames := s.frames.filter (fun g => g.gasid != f.gasid || g.vpn != f.vpn) ++ [f] }

/-! ### Killing a gang (R356) -/

/-- The launch of a group. -/
def launchOf (s : State) (gid : Nat) : Nat :=
  match s.groups.find gid with
  | some g => ((s.cohorts.find g.cid).map (·.launch)).getD 0
  | none => 0

/-- A pending operation that leaves a chain without its data: the destination elements are zero (R356). -/
def LdEl.zero (e : LdEl) : List Wr := e.dst.writes 0

end Sys2Proof.Machine
end

