-- ==== Sys2Proof/Machine/Barrier.lean ====
section
/-! DEFINITION. Barrier objects and stage rings (R21 to R25). -/

namespace Sys2Proof.Machine

/-- Barrier `b` written. -/
def Cohort.setBar (co : Cohort) (b : Nat) (x : Barrier) : Cohort :=
  { co with bars := co.bars.set { target := co.gids.length } b x }

/-- The completion test that follows every change (R24). -/
def Barrier.test (x : Barrier) : Barrier :=
  if x.target ≤ x.arrived ∧ x.pend = 0 then { x with gen := (x.gen + 1) % 65536, arrived := 0 } else x

/-- Bytes added, with or without an arrival, as one change, in their range (R24, R25). -/
def Barrier.change (x : Barrier) (bytes : Int) (arrives : Bool) : Barrier :=
  let p := x.pend + bytes
  if arrives ∧ x.arrived = 16 then { x with err := true }
  else if p < -2147483648 ∨ 2147483647 < p then { x with err := true }
  else Barrier.test { x with pend := p, arrived := x.arrived + (if arrives then 1 else 0) }

/-- The state word of a barrier (R23). -/
def Barrier.word (x : Barrier) : Nat :=
  (x.pend % (2 ^ 32 : Nat)).toNat * 2 ^ 32 + x.gen * 2 ^ 16 + b2n x.err * 2 ^ 15 + x.arrived * 2 ^ 8 + x.target

/-- A new TARGET: zero writes 1, above 16 sets ERR and leaves it (R25, R149). -/
def Barrier.setTarget (x : Barrier) (t : Nat) : Barrier :=
  if 16 < t then { x with err := true } else Barrier.test { x with target := if t = 0 then 1 else t }

/-- A change of a cohort's barrier. -/
def updBar (cid b : Nat) (f : Barrier → Barrier) (s : State) : State := s.updC cid (fun co => co.setBar b (f (co.bar b)))

/-- The phase of a stage inverted (R21). -/
def flipStage (cid n k : Nat) (s : State) : State :=
  s.updC cid (fun co => { co with rings := co.rings.set 0 n (co.ring n ^^^ 2 ^ k) })

end Sys2Proof.Machine
end

