-- ==== Sys2Proof/Machine/Order.lean ====
section
/-! DEFINITION. Performing loads, stores and atomics, and the order that the store queue, releases and acquires give them (R172 to
R187, R199 to R212, R379). Every access is performed in one total order, that of the steps. -/

namespace Sys2Proof.Machine

/-! ### What has been performed -/

/-- A pending load or atomic that has not returned all its values. -/
def Pend.unserved (p : Pend) : Bool :=
  match p.op with
  | .load _ => p.left != 0 || !p.els.isEmpty
  | .atomic _ _ _ els => p.left != 0 || !els.isEmpty
  | .cbload _ _ => p.left != 0 || !p.els.isEmpty
  | .ldcb _ _ _ _ => p.left != 0 || !p.els.isEmpty
  | .cproot _ _ _ => p.left != 0 || !p.els.isEmpty
  | .wavelet _ (.ld _) _ done => !done
  | .wavelet _ (.raw _ _) _ done => !done
  | .lget els => !els.isEmpty
  | .lwait _ _ _ => true
  | _ => false

/-- A pending `WST`, lattice write or page clear, whose stores later releases and overlapping accesses come after (R180, R292, R330, R331). -/
def Pend.storing (p : Pend) : Bool :=
  match p.op with
  | .wavelet _ (.st _ _) _ _ => true
  | .lwrite _ _ els _ => !els.isEmpty
  | .lclr _ _ _ => true
  | _ => false

/-- An id of a pending operation or an entry of the store queue that later accesses may have to stay behind. -/
def Group.blocks (g : Group) (id : Nat) : Bool :=
  (match g.pend.find id with
    | some p => p.unserved || p.storing
    | none => false) ||
  (g.stq ++ g.stqWait).any (fun h => match h with
    | .store i _ => i == id
    | .atomic i _ => i == id
    | .rel i _ => i == id)

/-- The lanes that an operation or an entry of the store queue belongs to (R176). -/
def Group.lanesOfId (g : Group) (id : Nat) : Nat := g.lanesAt.get (2 ^ 32 - 1) id

/-- One precedes the other in the program order of some lane: a thread is a lane (R176, R180). -/
def Group.po (g : Group) (a b : Nat) : Bool := decide (a < b) && (g.lanesOfId a &&& g.lanesOfId b) != 0

/-- What the accesses of some lanes now issued stay behind (R180, R212). -/
def Group.acqIds (g : Group) (set : Nat) : List Nat := (g.acq.filter (fun a => (a.2 &&& set) != 0 && g.blocks a.1)).map (·.1)

/-- Some load or atomic issued before `id` has not returned its values (R183: a store waits for it). -/
def Group.loadsBefore (g : Group) (id : Nat) : Bool := g.pend.any (fun e => g.po e.1 id && e.2.unserved)

/-- Accesses of a group whose order its program fixes: those to a common byte, to a common 64-byte block of die SRAM, or to a common window
register (R180, R284). -/
def orderGrain (space : Nat) : Nat :=
  match space with
  | 2 => 64
  | 3 => 128
  | _ => 1

/-- Two ranges of pointers meet in a byte or a block whose order the program fixes. -/
def meets (p n q m : Nat) : Bool :=
  let w := orderGrain (p / 2 ^ 60 % 8)
  p / 2 ^ 60 % 8 == q / 2 ^ 60 % 8 && decide (p % 2 ^ 60 / w ≤ (q % 2 ^ 60 + m - 1) / w) && decide (q % 2 ^ 60 / w ≤ (p % 2 ^ 60 + n - 1) / w)

/-- The physical bytes of a range of pointers, page by page, as far as its pages are resident: of space 0, or of space 1 in a partition of this
package (R151, R157, R371). -/
def spots (s : State) (u : Who) (ptr n : Nat) : List (Nat × Nat) :=
  (List.range ((ptr % 2 ^ 16 + n - 1) / 2 ^ 16 + 1)).filterMap (fun i =>
    let a := if i = 0 then ptr else (ptr / 2 ^ 16 + i) * 2 ^ 16
    let len := min (ptr + n) ((ptr / 2 ^ 16 + i + 1) * 2 ^ 16) - a
    let at' (part asid die va : Nat) : Option (Nat × Nat) :=
      match walk s part asid (clusterOf u.core) va with
      | .ok (l, _) => if l.st = 2 ∨ l.st = 6 then none else some (l.pa die va, len)
      | .error _ => none
    match bits ptr 62 60 with
    | 0 => at' u.part u.asid (dieOf u.core) (a % 2 ^ 60)
    | 1 => (s.partOfRank (bits a 59 48)).bind (fun k => (servedIn s k ((s.rankOf u.part).getD 0)).bind (fun v =>
        at' k v.asid ((s.partDies k).headD 0) (a % 2 ^ 48)))
    | _ => none)

/-- Two ranges name a common byte of memory under different addresses (R151, R180, R182). (DEDUCED, log entry 52) -/
def aliased (s : State) (u : Who) (p n q m : Nat) : Bool :=
  decide (bits p 62 60 ≤ 1) && decide (bits q 62 60 ≤ 1) && (spots s u p n).any (fun a => (spots s u q m).any (fun b =>
    decide (a.1 < b.1 + b.2) && decide (b.1 < a.1 + a.2)))

/-- Two accesses meet in a byte of memory, or in a block whose order the program fixes. -/
def meetsIn (s : State) (u : Who) (p n q m : Nat) : Bool := meets p n q m || aliased s u p n q m

/-- A release whose effect comes before that of every later store of its group (R180, R181, R212): a fence, or a seqcst store, which is
followed by one (R178). A release store or arrival lets later stores pass (R186). (DEDUCED, log entry 125) -/
def Held.isFence : Held → Bool
  | .rel _ (.fence _ _) => true
  | .rel _ (.store _ _ 1) => true
  | _ => false

/-- A release fence earlier in program order than `id` has not taken effect. -/
def Group.fencesBefore (g : Group) (id : Nat) : Bool := (g.stq ++ g.stqWait).any (fun h => g.po h.id id && h.isFence)

/-- An entry of the queue holds a write to some byte of an access. -/
def Held.covers (s : State) (u : Who) (g : Group) (h : Held) (ptr n : Nat) : Bool :=
  match h with
  | .store _ els => els.any (fun e => meetsIn s u e.2.ptr e.2.n ptr n)
  | .atomic _ pid => match g.pend.find pid with
    | some p => match p.op with
      | .atomic w _ _ els => els.any (fun e => meetsIn s u e.ptr (w / 8) ptr n)
      | _ => false
    | none => false
  | .rel _ (.store e _ _) => meetsIn s u e.ptr e.n ptr n
  | .rel _ (.flag p _ _) => meetsIn s u p 8 ptr n
  | .rel _ _ => false

/-- Bytes of a tile element (R271). -/
def TileDesc.w (d : TileDesc) : Nat :=
  match d.fmt with
  | 0 => 4
  | 1 => 2
  | _ => 1
/-- Registers of a tile (R271). -/
def TileDesc.nr (d : TileDesc) : Nat := 16 * cdiv (d.c * d.w) 32
/-- The bytes the checks of a packed tile cover (R292). -/
def TileDesc.maxBytes (d : TileDesc) : Nat := 32 + 64 * d.c * d.w

/-- A pending wavelet operation touches bytes: its tile in this group's window (R284), or the packed tile it stores (R180). -/
def Pend.tileMeets (s : State) (u : Who) (p : Pend) (ptr n : Nat) : Bool :=
  match p.op with
  | .wavelet d op _ _ =>
    ((!d.x || p.tok.isNone) && meets (3 * 2 ^ 60 + 128 * d.base) (128 * d.nr) ptr n) ||
    (match op with
      | .st q _ => p.tok.isSome && meetsIn s u q d.maxBytes ptr n
      | _ => false)
  | _ => false

/-- Bytes of a cell of a lattice type (R54). -/
def latWidth (ty : Nat) : Nat :=
  match ty with
  | 4 => 8
  | 6 => 8
  | 7 => 32
  | _ => 4

/-- A pending lattice write touches bytes (R331). -/
def Pend.latMeets (s : State) (u : Who) (p : Pend) (ptr n : Nat) : Bool :=
  match p.op with
  | .lwrite _ _ els _ => els.any (fun e => meetsIn s u e.ptr (latWidth e.ty) ptr n)
  | .lclr p _ _ => meetsIn s u (p / 2 ^ 16 * 2 ^ 16) 65536 ptr n
  | _ => false

/-- A group's own request to a rank of this package, not yet resolved, names a byte of an access to space 0 issued later; `rd` takes in
its loads (R180, R182). Space-1 requests keep their order by R377. -/
def netMeets (s : State) (u : Who) (id ptr n : Nat) (rd : Bool) : Bool :=
  bits ptr 62 60 == 0 && s.reqs.any (fun e => e.2.gid == u.gid && e.2.copy.isNone && decide (e.2.po < id) && !e.2.notice && (rd || e.2.opc != 1) &&
    aliased s u (2 ^ 60 + e.2.rank * 2 ^ 48 + e.2.off) e.2.size ptr n)

/-- A write earlier in program order than `id` to some byte of an access is still held (R180, R186). -/
def Group.heldAt (g : Group) (s : State) (u : Who) (id ptr n : Nat) : Bool :=
  (g.stq ++ g.stqWait).any (fun h => g.po h.id id && h.covers s u g ptr n) ||
  g.pend.any (fun e => g.po e.1 id && match e.2.op with
    | .atomic w _ _ els => els.any (fun x => meetsIn s u x.ptr (w / 8) ptr n)
    | _ => e.2.tileMeets s u ptr n || e.2.latMeets s u ptr n) ||
  netMeets s u id ptr n false

/-- A pending read has yet to be performed on some byte of an access. -/
def Pend.readsAt (s : State) (u : Who) (p : Pend) (ptr n : Nat) : Bool :=
  p.els.any (fun e => meetsIn s u e.2.ptr e.2.n ptr n) || (match p.op with
    | .lget els => els.any (fun e => meetsIn s u e.ptr (latWidth e.ty) ptr n)
    | .lwait e _ _ => meetsIn s u e.ptr (latWidth e.ty) ptr n
    | .wavelet d (.ld q) _ done => !done && meetsIn s u q d.maxBytes ptr n
    | .wavelet d (.raw q pitch) _ done => !done && (List.range 64).any (fun r => meetsIn s u (q + r * pitch) (d.c * d.w) ptr n)
    | _ => false)

/-- An access earlier in program order than `id` to some byte of another is still to be performed: the later one waits for it (R180). -/
def Group.meetsAt (g : Group) (s : State) (u : Who) (id ptr n : Nat) : Bool :=
  g.heldAt s u id ptr n || g.pend.any (fun e => g.po e.1 id && e.2.readsAt s u ptr n) || netMeets s u id ptr n true

/-- A pending wavelet operation earlier than `id` works on a window register (R284). -/
def Group.tileAt (g : Group) (id reg : Nat) : Bool :=
  g.pend.any (fun e => decide (e.1 < id) && match e.2.op with
    | .wavelet d _ _ _ => (!d.x || e.2.tok.isNone) && decide (d.base ≤ reg) && decide (reg < d.base + d.nr)
    | _ => false)

/-- A load element goes from die SRAM or a window to a register that an earlier wavelet operation works on: it comes after it (R284). -/
def Group.loadsTile (g : Group) (id : Nat) (e : LdEl) : Bool :=
  match e.dst with
  | .v reg _ _ => (bits e.ptr 62 60 == 2 || bits e.ptr 62 60 == 3) && g.tileAt id reg
  | _ => false

/-! ### Loads -/

/-- The writes of a loaded value. -/
def LdEl.write (e : LdEl) (x : Nat) : List Wr := e.dst.writes x

/-- What can be done with a load element now. -/
inductive LdTry where
  | served (ws : List Wr) (p : Place) (bad : Bool)
  | away (vpn : Nat)
  | net
  | wait
  | fault (t : Trap)
  deriving DecidableEq, Repr

/-- A load element tried: behind its acquires and the group's earlier accesses to its bytes it waits (R180, R212), and where its line is
out of reach, which the elements of one line settle together. -/
def tryLoad (s : State) (u : Who) (g : Group) (pid : Nat) (e : LdEl) : LdTry :=
  match placeOf s u .rd e.ptr e.n with
  | .error t => .fault t
  | .ok (.fabric _ _) => .net
  | .ok (.away v) => .away v
  | .ok p =>
    if g.meetsAt s u pid e.ptr e.n || g.loadsTile pid e then .wait
    else .served (e.write (readVal s u p e.n e.nib)) p (poisoned s p)

/-- The line of an access is out of its reach (R169, R171, R174); as this is settled for a line before any element of an instruction is
performed, the elements that name bytes of one line are performed together (R203). -/
def lineStuck (s : State) (u : Who) (id : Nat) (a : Acc) (write : Bool) (ptr n : Nat) : Bool :=
  match placeOf s u a ptr n with
  | .ok p => mustWait s u id ptr p write
  | .error _ => false

/-- The page of a pointer is not resident: ABSENT-REMOTE or TRANSIT (R208, R209). -/
def pageGone (s : State) (u : Who) (ptr : Nat) : Bool :=
  bits ptr 62 60 == 0 && match xlate s u .rd (ptr % 2 ^ 60) with
    | .ok x => x.leaf.st == 2 || x.leaf.st == 6
    | .error _ => false

/-- A load element is over: it leaves its operation with the writes it gives, and the line of an uncorrectable error. -/
def dropLoad (gid pid k : Nat) (ws : List Wr) (ecc : Option Nat) (s : State) : State :=
  s.updG gid (fun g => { g with pend := g.pend.upd pid (fun p => { p with
    els := p.els.del k, wrs := p.wrs ++ ws, ecc := if p.ecc.isNone then ecc else p.ecc }) })

/-- The number of a load's element, from its place in a register group that starts at `idx`. -/
def LdEl.num (e : LdEl) (idx w : Nat) : Nat :=
  match e.dst with
  | .v r off _ => (r - idx) * (1024 / w) + off / w
  | _ => 0

/-- A write lies in elements from `k` on of a register group. -/
def FfLoad.beyond (ff : FfLoad) (k : Nat) (w : Wr) : Bool :=
  (List.range (1024 / ff.w * ff.n - k)).any (fun i =>
    (wrBits (ff.idx + (k + i) * ff.w / 1024) ((k + i) * ff.w % 1024) ff.w (2 ^ ff.w - 1)).any (fun x => x.loc == w.loc && (x.mask &&& w.mask) != 0))

/-- AN `LDFF` TRUNCATED at an element that can no longer be loaded (R208): this and the later elements are tail elements, `vl` is its number. -/
def truncLate (gid pid k : Nat) (ff : FfLoad) (s : State) : State :=
  let tail := (List.range (1024 / ff.w * ff.n - k)).flatMap (fun i =>
    if ff.act.testBit (laneOf ff.w (k + i)) then policyW ⟨ff.idx, ff.n, false⟩ ff.w (k + i) ff.ta else [])
  let s1 := s.updG gid (fun g => { g with fft := true, pend := g.pend.upd pid (fun p => { p with
    op := .load (some { ff with vl := k })
    els := p.els.filter (fun (e : Nat × LdEl) => decide (e.2.num ff.idx ff.w < k))
    wrs := p.wrs.filter (fun w => !ff.beyond k w && w.loc != locVl) ++ tail ++ [⟨locVl, 2 ^ 64 - 1, k⟩]
    dst := (locVl, locVl) :: p.dst ++ tail.map (fun w => (w.loc, w.loc)) }) })
  { s1 with reqs := s1.reqs.map (fun (e : Nat × Req) =>
      if e.2.gid = gid ∧ e.2.pid = some pid then (e.1, { e.2 with els := e.2.els.filter (fun x => decide (x.num ff.idx ff.w < k)) }) else e) }

/-- The number at which an element of a pending `LDFF` truncates it: not its first, nor a helper lane's (R88, R208). -/
def Pend.truncates (p : Pend) (e : LdEl) : Option (FfLoad × Nat) :=
  match p.op with
  | .load (some ff) => if e.num ff.idx ff.w = ff.first ∨ e.helper then none else some (ff, e.num ff.idx ff.w)
  | _ => none

/-- A load element whose page Meridian has to bring (R158): an `LDR` reads zero where the page is not resident, and waits where it is; a
helper lane reads zero (R88); an `LDFF` is truncated by one that is not its first (R208); any other is recorded. -/
def loadAway (u : Who) (pid : Nat) (v : Nat) (e : Nat × LdEl) (s : State) : State :=
  if e.2.probe.isSome then
    (if pageGone s u e.2.ptr then
      (dropLoad u.gid pid e.1 (e.2.zero ++ e.2.mark true) none s).updG u.gid (fun g => { g with rpz := true })
    else s)
  else if e.2.helper then (if pageGone s u e.2.ptr then dropLoad u.gid pid e.1 e.2.zero none s else s)
  else match s.groups.find u.gid with
    | none => s
    | some g => match g.pend.find pid with
      | some p => match p.truncates e.2 with
        | some (ff, k) => if pageGone s u e.2.ptr then truncLate u.gid pid k ff s else s
        | none => record u v { kind := 0, unit := g.idx, token := p.tok.getD 0xFF, gid := u.gid, op := pid } false s
      | none => s

/-- One element of a pending load tried: `net` elements become requests elsewhere. `on` restricts a replay to one page (R336). A condition that has
arisen since the issue is delivered, the element reads zero (R339); a helper lane's only reads zero (R88). -/
def serveEl (u : Who) (pid : Nat) (on : Option Nat) (s : State) (e : Nat × LdEl) : State :=
  match s.groups.find u.gid with
  | none => s
  | some g =>
    let page := decide (bits e.2.ptr 62 60 = 0) && (on.isNone || on == some (e.2.ptr % 2 ^ 60 / 2 ^ 16))
    if on.isSome ∧ !page then s
    else match tryLoad s u g pid e.2 with
      | .served ws p bad =>
        dropLoad u.gid pid e.1 (ws ++ e.2.mark false) (if bad then some (e.2.ptr / 128 * 128 + 2) else none) (touch u .rd e.2.ptr p s)
      | .away v => loadAway u pid v e s
      | .net => s
      | .wait => s
      | .fault t => match (g.pend.find pid).bind (·.truncates e.2) with
        | some (ff, k) => truncLate u.gid pid k ff (dropDenied u.core u.asid t s)
        | none =>
          let s1 := dropLoad u.gid pid e.1 (e.2.zero ++ e.2.mark false) none (dropDenied u.core u.asid t s)
          if e.2.helper then s1 else addCond u.gid ⟨t.code, t.detail, t.addr, none⟩ s1

/-- The space-1 elements of a load go out (R367, R377), but those whose bytes an earlier access of the group has still to reach. -/
def loadNet (u : Who) (pid : Nat) (s : State) : State :=
  match s.groups.find u.gid with
  | none => s
  | some g => match g.pend.find pid with
    | none => s
    | some p =>
      let net := p.els.filter (fun (e : Nat × LdEl) => bits e.2.ptr 62 60 == 1 && !g.meetsAt s u pid e.2.ptr e.2.n)
      if net.isEmpty then s
      else
        let rs := (loadReqs u.gid u.core u.part pid (net.map (·.2))).map (fun r => { r with po := pid })
        newReqs rs (s.updG u.gid (fun g => { g with pend := g.pend.upd pid (fun p => { p with
          left := p.left + rs.length, els := p.els.filter (fun (e : Nat × LdEl) => !net.any (fun x => x.1 == e.1)) }) }))

/-- A table load reads its source after all its group's earlier events, its space-1 stores among them (R187, R218). -/
def Pend.afterStores (p : Pend) : Bool :=
  match p.op with
  | .cbload _ _ => true
  | _ => false

/-- An expansion of packed bytes in die SRAM or a window writes registers that an earlier wavelet operation works on: it comes after it
(R284). -/
def Pend.expandsTile (p : Pend) (g : Group) (pid : Nat) : Bool :=
  p.bank && match p.op with
    | .ldcb _ _ vd els => els.any (fun e => g.tileAt pid (vd + e * 16 / 1024))
    | _ => false

/-- A pending operation of a group. -/
def pendAt (s : State) (gid pid : Nat) : Option Pend := (s.groups.find gid).bind (fun g => g.pend.find pid)

/-- A pending load is served as far as it can be (R199, R206). -/
def serveLoad (gid pid : Nat) (on : Option Nat) (s : State) : State :=
  match whoOfGid s gid, (s.groups.find gid).bind (fun g => (g.pend.find pid).map (fun p => (g, p))) with
  | some u, some (g, p) =>
    if p.behind.any g.blocks || (p.afterStores && unresolved s gid pid) || p.expandsTile g pid then s
    else
      let free := p.els.filter (fun (e : Nat × LdEl) => !lineStuck s u pid .rd false e.2.ptr e.2.n)
      let s1 := free.foldl (fun s e => match (pendAt s gid pid).bind (fun p => p.els.find e.1) with
        | some x => serveEl u pid on s (e.1, x)
        | none => s) s
      if on.isSome then s1 else loadNet u pid s1
  | _, _ => s

/-! ### Stores -/

/-- The elements of a held store after element `k` has gone. -/
def dropHeld (gid hid k : Nat) (s : State) : State :=
  s.updG gid (fun g => { g with stq := g.stq.filterMap (fun h => match h with
    | .store i els => if i = hid then (if (els.del k).isEmpty then none else some (.store i (els.del k))) else some h
    | .rel i (.store e sc x) => if i = hid then none else some (.rel i (.store e sc x))
    | h => some h) })

/-- A lock on the line of a page that this device's own access asks for (R174). -/
def accessLock (u : Who) (k ptr hid el : Nat) : Lock :=
  { id := 0, key := k, off := ptr % 2 ^ 16, own := true, writer := 0, step := 0, left := [], gid := u.gid, hid := hid, el := el, pkt := none
    part := u.part, data := [], since := 0 }

/-- The elements of a held store that are still in the queue. -/
def heldEls (s : State) (gid hid : Nat) : Tab StEl :=
  ((s.groups.find gid).bind (fun g => g.stq.findSome? (fun h => match h with
    | .store i els => if i = hid then some els else none
    | _ => none))).getD []

/-- A held store must stay: an earlier access to its bytes, an earlier load, or an earlier fence is not performed (R180, R183, R212). -/
def Group.storeWaits (g : Group) (s : State) (u : Who) (hid : Nat) (x : StEl) : Bool :=
  g.heldAt s u hid x.ptr x.n || g.loadsBefore hid || g.fencesBefore hid

/-- The elements of a held store that name the group's window are performed as one change of each register's words (R15, R120, R203). -/
def storeWin (u : Who) (hid : Nat) (s : State) : State :=
  match s.groups.find u.gid with
  | none => s
  | some g =>
    let win := (heldEls s u.gid hid).filter (fun (e : Nat × StEl) => bits e.2.ptr 62 60 == 3 && !g.storeWaits s u hid e.2)
    let bytes (off : Nat) (x : StEl) : List Wr := match x.nib with
      | none => winWrs off (toBytes x.n x.val)
      | some k => [⟨locV (off / 128) (off % 128 / 4), 15 * 2 ^ (8 * (off % 4) + 4 * k), x.val % 16 * 2 ^ (8 * (off % 4) + 4 * k)⟩]
    if win.isEmpty then s
    else winWrites u.gid (win.flatMap (fun e => bytes (e.2.ptr % 2 ^ 60) e.2)) (win.foldl (fun s e => dropHeld u.gid hid e.1 s) s)

/-- A store element is performed, asks for its page, takes its lock, goes to the fabric, or stays (R172, R174, R186). -/
def storeEl (u : Who) (hid : Nat) (on : Option Nat) (s : State) (e : Nat × StEl) : State :=
  match s.groups.find u.gid with
  | none => s
  | some g =>
    let x := e.2
    if on.isSome ∧ (bits x.ptr 62 60 ≠ 0 ∨ on ≠ some (x.ptr % 2 ^ 60 / 2 ^ 16)) then s
    else if g.storeWaits s u hid x then s
    else match placeOf s u .wr x.ptr x.n with
      | .error t => addCond u.gid ⟨t.code, t.detail, t.addr, none⟩ (dropHeld u.gid hid e.1 (dropDenied u.core u.asid t s))
      | .ok (.away v) => record u v { kind := 1, held := true, unit := g.idx, gid := u.gid, op := hid } false s
      | .ok (.fabric _ _) =>
        newReqs ((storeReqs u.gid u.core u.part [x]).map (fun r => { r with po := hid })) (dropHeld u.gid hid e.1 s)
      | .ok (.phys pa st) =>
        if mustWait s u hid x.ptr (.phys pa st) true then s
        else match (if st = 4 then lockKey s u.part u.asid (x.ptr % 2 ^ 60 / 2 ^ 16) else none) with
          | some k => startLock (accessLock u k x.ptr hid e.1) s
          | none => performWrite u .wr x.ptr x.n x.nib x.val (.phys pa st) (dropHeld u.gid hid e.1 s)
      | .ok p => performWrite u .wr x.ptr x.n x.nib x.val p (dropHeld u.gid hid e.1 s)

/-- The bytes of a place. -/
def Place.bytes (n : Nat) (p : Place) : List Place :=
  (List.range n).filterMap (fun i => match p with
    | .phys pa st => some (.phys (pa + i) st)
    | .sram k => some (.sram (k + i))
    | _ => none)

/-- The bytes that elements wrote whole: a byte of which only a nibble is written is not among them. -/
def wholeBytes (s : State) (u : Who) (els : List StEl) : List Place :=
  els.flatMap (fun x =>
    if x.nib.isSome && !els.any (fun y => y.ptr == x.ptr && y.nib != x.nib) then []
    else match placeOf s u .wr x.ptr x.n with
      | .ok p => p.bytes x.n
      | .error _ => [])

/-- The space-1 elements of a held store that nothing holds back go out together: a request for each run of bytes (R367). -/
def storeNet (u : Who) (hid : Nat) (s : State) : State :=
  match s.groups.find u.gid with
  | none => s
  | some g =>
    let net := (heldEls s u.gid hid).filter (fun (e : Nat × StEl) => bits e.2.ptr 62 60 == 1 && !g.storeWaits s u hid e.2 &&
      (match placeOf s u .wr e.2.ptr e.2.n with
        | .ok _ => true
        | .error _ => false))
    if net.isEmpty then s
    else
      let wav := (g.pend.find hid).isSome
      let rs := (storeReqs u.gid u.core u.part (net.map (·.2))).map (fun r => { r with po := hid, pid := if wav then some hid else none })
      let s1 := net.foldl (fun s e => dropHeld u.gid hid e.1 s) s
      newReqs rs (if wav then s1.updG u.gid (fun g => { g with pend := g.pend.upd hid (fun p => { p with left := p.left + rs.length }) }) else s1)

/-- A held store is performed as far as it can be; a line it writes whole loses its poison (R311). -/
def serveStore (gid hid : Nat) (on : Option Nat) (s : State) : State :=
  match whoOfGid s gid, s.groups.find gid with
  | some u, some g =>
    match g.stq.find? (fun h => h.id == hid) with
    | some (.store _ els) =>
      let s0 := if on.isSome then s else storeWin u hid s
      let s1 := (els.filter (fun (e : Nat × StEl) => bits e.2.ptr 62 60 != 1 && bits e.2.ptr 62 60 != 3)).foldl (storeEl u hid on) s0
      let left := heldEls s1 gid hid
      let s2 := if s1.poison.isEmpty then s1
        else clearPoison (wholeBytes s u ((els.filter (fun (e : Nat × StEl) => !left.any (fun x => x.1 == e.1))).map (·.2))) s1
      if on.isSome then s2 else storeNet u hid s2
    | some (.rel _ (.store e _ _)) => storeEl u hid on s (0, e)
    | _ => s
  | _, _ => s

/-! ### Atomics -/

/-- One element of an atomic performed at a resident place: the old value returned, flags kept (R172, R210). -/
def atomicAt (u : Who) (pid w op vr : Nat) (e : AtEl) (p : Place) (s : State) : State :=
  let old := readVal s u p (w / 8) none
  let r := atomOp w op old e.v e.nv
  let s1 := performWrite u .at e.ptr (w / 8) none r.1 p s
  s1.updG u.gid (fun g => { g with pend := g.pend.upd pid (fun q => { q with
    wrs := q.wrs ++ wrBits (vr + e.e * w / 1024) (e.e * w % 1024) w old, flags := q.flags ||| r.2
    ecc := if q.ecc.isNone ∧ poisoned s p then some (e.ptr / 128 * 128 + 2) else q.ecc
    op := match q.op with
      | .atomic a b c els => .atomic a b c (els.filter (fun x => x.e != e.e))
      | o => o }) })

/-- An element of an atomic leaves it, reading a value. -/
def dropAtomic (gid pid w vr : Nat) (e : AtEl) (x : Nat) (s : State) : State :=
  s.updG gid (fun g => { g with pend := g.pend.upd pid (fun q => { q with
    wrs := q.wrs ++ wrBits (vr + e.e * w / 1024) (e.e * w % 1024) w x
    op := match q.op with
      | .atomic a b c els => .atomic a b c (els.filter (fun x => x.e != e.e))
      | o => o }) })

/-- An atomic whose page is away stands in the store queue, where releases wait for it (R186). -/
def holdAtomic (gid pid : Nat) (s : State) : State :=
  s.updG gid (fun g =>
    if (g.stq ++ g.stqWait).any (fun h => match h with
      | .atomic _ p => p == pid
      | _ => false) then g
    else { g with stq := g.stq ++ [.atomic pid pid] })

/-- A helper lane's element of an atomic: it performs none and receives what a load would return (R88, R210), in its turn. -/
def helperRead (u : Who) (pid w vr : Nat) (e : AtEl) (s : State) : State :=
  match placeOf s u .rd e.ptr (w / 8) with
  | .error _ => dropAtomic u.gid pid w vr e 0 s
  | .ok (.away _) => if pageGone s u e.ptr then dropAtomic u.gid pid w vr e 0 s else s
  | .ok (.fabric _ _) => s
  | .ok p => dropAtomic u.gid pid w vr e (readVal s u p (w / 8) none) (touch u .rd e.ptr p s)

/-- One element of an atomic: performed, or waiting for its page, its line or its lock. One lock serves the elements of a line (R174, R203). -/
def atomicEl (u : Who) (pid w op vr : Nat) (on : Option Nat) (s : State) (e : AtEl) : State :=
  match s.groups.find u.gid with
  | none => s
  | some g =>
    if on.isSome ∧ (bits e.ptr 62 60 ≠ 0 ∨ on ≠ some (e.ptr % 2 ^ 60 / 2 ^ 16)) then s
    else if e.helper then helperRead u pid w vr e s
    else match placeOf s u .at e.ptr (w / 8) with
      | .error t => addCond u.gid ⟨t.code, t.detail, t.addr, none⟩ (dropAtomic u.gid pid w vr e 0 (dropDenied u.core u.asid t s))
      | .ok (.away v) =>
        holdAtomic u.gid pid
          (record u v { kind := 2, held := true, unit := g.idx, token := ((g.pend.find pid).bind (·.tok)).getD 0xFF, gid := u.gid, op := pid } false s)
      | .ok (.fabric _ _) => s
      | .ok (.phys pa st) =>
        match (if st = 4 then lockKey s u.part u.asid (e.ptr % 2 ^ 60 / 2 ^ 16) else none) with
        | some k => if lockedLine s u e.ptr (.phys pa st) true then s else startLock (accessLock u k e.ptr pid e.e) s
        | none => atomicAt u pid w op vr e (.phys pa st) s
      | .ok p => atomicAt u pid w op vr e p s

/-- Elements leave an atomic: they have become requests. -/
def Pend.dropEls (p : Pend) (gone : AtEl → Bool) : Pend :=
  { p with op := match p.op with
      | .atomic a b c els => .atomic a b c (els.filter (fun x => !gone x))
      | o => o }

/-- The space-1 elements of an atomic go out: a helper lane's as loads (R88), the others reduced or chained (R172, R383). -/
def atomicNet (u : Who) (pid w op vr : Nat) (els : List AtEl) (s : State) : State :=
  let net := els.filter (fun e => bits e.ptr 62 60 == 1)
  if net.isEmpty then s
  else
    let reads : List LdEl := (net.filter (·.helper)).map (fun e =>
      { ptr := e.ptr, n := w / 8, nib := none, dst := .v (vr + e.e * w / 1024) (e.e * w % 1024) w, helper := true })
    let ok (x : LdEl) : Bool := match placeOf s u .rd x.ptr x.n with
      | .ok _ => true
      | .error _ => false
    let rs := (atomicReqs u.gid u.core u.part pid w op (net.filter (fun e => !e.helper)) ++ loadReqs u.gid u.core u.part pid (reads.filter ok)).map
      (fun r => { r with po := pid })
    newReqs rs (s.updG u.gid (fun g => { g with pend := g.pend.upd pid (fun q =>
      let q1 := q.dropEls (fun x => bits x.ptr 62 60 == 1)
      { q1 with left := q1.left + rs.length, wrs := q1.wrs ++ (reads.filter (fun x => !ok x)).flatMap LdEl.zero }) }))

/-- An atomic may be performed now: after the group's earlier loads, fences and accesses to its bytes, and after the wavelet operations that
work on its destination where it names a window or die SRAM (R180, R284). -/
def Group.atomicFree (g : Group) (s : State) (u : Who) (pid w vr : Nat) (p : Pend) (els : List AtEl) : Bool :=
  !p.behind.any g.blocks && !g.loadsBefore pid && !g.fencesBefore pid && !els.any (fun e => g.meetsAt s u pid e.ptr (w / 8)) &&
  !els.any (fun e => (bits e.ptr 62 60 == 2 || bits e.ptr 62 60 == 3) && g.tileAt pid (vr + e.e * w / 1024))

/-- The elements of an atomic whose gang has ended that are still performed: those that stand in a page's chain (R108, R340). -/
def hasRecord (s : State) (u : Who) (pid : Nat) (e : AtEl) : Bool :=
  bits e.ptr 62 60 == 0 && hasRec s (keyOf s u.part u.asid (e.ptr % 2 ^ 60 / 2 ^ 16)) u.gid pid 2

/-- A pending atomic is performed as far as it can be: after the group's earlier loads and its earlier accesses to the same bytes. The elements
of lines that must wait stay; the others follow one another in ascending order, with nothing between them (R203). -/
def serveAtomic (gid pid : Nat) (on : Option Nat) (s : State) : State :=
  match whoOfGid s gid, (s.groups.find gid).bind (fun g => (g.pend.find pid).map (fun p => (g, p))) with
  | some u, some (g, p) =>
    match p.op with
    | .atomic w op vr els =>
      if p.void ∧ on.isNone then
        s.updG gid (fun g => { g with pend := g.pend.upd pid (fun q => q.dropEls (fun e => !hasRecord s u pid e)) })
      else if !g.atomicFree s u pid w vr p els then s
      else
        let free := els.filter (fun e => bits e.ptr 62 60 != 1 && !lineStuck s u pid (if e.helper then .rd else .at) (!e.helper) e.ptr (w / 8))
        let s1 := free.foldl (atomicEl u pid w op vr on) s
        if on.isSome then s1 else atomicNet u pid w op vr els s1
    | _ => s
  | _, _ => s

/-! ### Releases -/

/-- The scope and kind of a release: whether it covers loads whose tokens are pending, whether it waits for space-1 resolution
(R145, R379). -/
def RelAct.wide : RelAct → Bool
  | .fence _ sc => decide (5 ≤ sc)
  | .store _ sc _ => decide (5 ≤ sc)
  | .trigger => true
  | .op _ => true
  | .flag _ _ sys => sys
  | _ => false
/-- It is ordered after pending loads too (R180); barriers, stages and TRIGGER leave those out (R101, R145). -/
def RelAct.loads : RelAct → Bool
  | .fence _ _ => true
  | .store _ _ _ => true
  | .op _ => true
  | .flag _ _ _ => true
  | _ => false

/-- A z-tile instruction that has not yet its place in its z-tile's order: releases wait for it (R248, R250). -/
def Pend.unplaced (p : Pend) : Bool :=
  !p.accepted && match p.op with
    | .mx _ => true
    | .mxrdz _ _ _ => true
    | .mxwrz _ _ _ _ => true
    | .mxt _ _ _ _ => true
    | _ => false

/-- A release may take effect: nothing of its group is held before it, and at gang or system scope its earlier space-1 stores and atomics are
resolved (R186, R379). A plain flag store goes to the fabric engine behind its group's earlier accesses as any store does, and behind the stores
to its target (R381, R387). (DEDUCED, log entry 45; DEDUCED, log entry 69) -/
def relReady (s : State) (gid id : Nat) (a : RelAct) : Bool :=
  match s.groups.find gid, whoOfGid s gid with
  | some g, some u =>
    match a with
    | .flag ptr _ false =>
      !g.loadsBefore id && !g.fencesBefore id && !g.heldAt s u id ptr 8 && !g.netBefore id (fun r => r == bits ptr 59 48)
    | _ =>
      let at' : Nat := match a with
        | .op i => i
        | _ => id
      !(g.stq ++ g.stqWait).any (fun h => decide (h.id < id)) && !g.pend.any (fun e => decide (e.1 < id) && e.2.unplaced) && (!a.loads || !g.loadsBefore id) &&
      !g.pend.any (fun e => decide (e.1 < id) && a != .op e.1 && e.2.storing && (a.loads || e.2.tok.isNone)) &&
      (!a.wide || (!unresolved s gid at' && !g.netBefore at' (fun _ => true)))
  | _, _ => false

/-- The scalar a held arrival writes, at the moment of its change (R142): until then only its old value can be read. -/
def takeTicket (gid pid : Nat) (x : Nat) (s : State) : State :=
  finish gid pid (s.updG gid (fun g => { g with pend := g.pend.upd pid (fun p => { p with
    wrs := p.dst.flatMap (fun d => wrS d.1 (BitVec.ofNat 64 x)) }) }))

/-- A `PAGEREL` has to wait: a copy engine holds lines of its page, or a lock stands on it (R171, R174, R333). -/
def pagerelBusy (s : State) (gid ptr : Nat) : Bool :=
  match whoOfGid s gid with
  | none => false
  | some u =>
    let key := keyOf s u.part u.asid (ptr % 2 ^ 60 / 2 ^ 16)
    (s.chains.find key).isNone && match frameOf s key with
      | some f => pageBusy s key f.pa
      | none => false

/-- A page held through Meridian is given up (R362): a reader's copy, an owner's, a locked replica; anything else clears the token. On a page
with a chain it takes the chain's next place. -/
def actPagerel (gid pid ptr : Nat) (s : State) : State :=
  match whoOfGid s gid with
  | none => s
  | some u =>
    let vpn := ptr % 2 ^ 60 / 2 ^ 16
    let key := keyOf s u.part u.asid vpn
    let join (s : State) : State := chainPagerel u vpn (unitOf s gid) gid pid { phase := .asked 2 } s
    if (s.chains.find key).isSome then join s
    else match frameOf s key with
      | none => finish gid pid s
      | some f =>
        let s1 := releaseFrame key f s
        if (s1.chains.find key).isSome then join s1 else finish gid pid s1

/-- A flag store as a request (R381, R387): its data, and its place in program order. -/
def flagReq (u : Who) (hid ptr v : Nat) : Req :=
  { blankReq u.gid u.core u.part (bits ptr 59 48) 4 (ptr % 2 ^ 48) 8 with data := toBytes 8 v, po := hid }

/-- The effect of a release that is not a store (R101, R142, R146, R331, R387), and of a `PAGEREL` that waited for its group's stores. -/
def relAct (gid hid : Nat) (a : RelAct) (s : State) : State :=
  match s.groups.find gid with
  | none => s
  | some g => match a with
    | .fence _ _ => s
    | .ptsync => s
    | .store _ _ _ => s
    | .bar b bytes pid =>
      let gen := ((s.cohorts.find g.cid).map (fun co => (co.bar b).gen)).getD 0
      takeTicket gid pid gen (updBar g.cid b (fun x => x.change bytes true) s)
    | .stg n k => flipStage g.cid n k s
    | .trigger => s.updG gid (fun g => { g with triggered := true })
    | .flag ptr v _ => match whoOfGid s gid with
      | some u => newReqs [flagReq u hid ptr v] s
      | none => s
    | .op id => match g.pend.find id with
      | some p => match p.op with
        | .pagerel ptr => actPagerel gid id ptr s
        | .lwrite put _ els r => s.updG gid (fun g => { g with pend := g.pend.put id { p with op := .lwrite put false els r } })
        | _ => s
      | none => s

/-- A release is a `PAGEREL` that still has to wait. -/
def pagerelHeld (s : State) (gid : Nat) (a : RelAct) : Bool :=
  match a with
  | .op id => match (s.groups.find gid).bind (fun g => g.pend.find id) with
    | some p => match p.op with
      | .pagerel ptr => pagerelBusy s gid ptr
      | _ => false
    | none => false
  | _ => false

/-- One entry of the store queue tried. -/
def serveHeld (gid : Nat) (s : State) (h : Held) : State :=
  match h with
  | .store hid _ => serveStore gid hid none s
  | .atomic hid pid =>
    let s1 := serveAtomic gid pid none s
    match (s1.groups.find gid).bind (fun g => g.pend.find pid) with
    | some p => match p.op with
      | .atomic _ _ _ els =>
        if els.isEmpty then
          finishIfDone gid pid (s1.updG gid (fun g => { g with stq := g.stq.filter (fun h => h.id != hid) }))
        else s1
      | _ => s1
    | none => s1.updG gid (fun g => { g with stq := g.stq.filter (fun h => h.id != hid) })
  | .rel hid a =>
    if !relReady s gid hid a || pagerelHeld s gid a then s
    else match a with
      | .store _ _ _ => serveStore gid hid none s
      | _ => relAct gid hid a (s.updG gid (fun g => { g with stq := g.stq.filter (fun h => h.id != hid) }))

/-- Entries of 128 bytes a held store takes (R116, R186). -/
def Held.size : Held → Nat
  | .store _ els => (els.map (fun e => e.2.ptr / 128)).eraseDups.length
  | .atomic _ _ => 1
  | .rel _ (.store _ _ _) => 1
  | .rel _ _ => 0

/-- Entries in use. -/
def stqUsed (g : Group) : Nat := g.stq.foldl (fun n h => n + h.size) 0

/-- Waiting stores move into the queue while it has room; one larger than the queue enters an empty one. -/
def Group.admitHeld (g : Group) : Nat → Group
  | 0 => g
  | n + 1 => match g.stqWait with
    | [] => g
    | h :: t =>
      if stqUsed g + h.size ≤ 64 ∨ g.stq.isEmpty then Group.admitHeld { g with stq := g.stq ++ [h], stqWait := t } n else g

/-- A pass over a group's store queue. -/
def settlePass (gid : Nat) (s : State) : State :=
  match s.groups.find gid with
  | none => s
  | some g =>
    let s1 := g.stq.foldl (serveHeld gid) s
    s1.updG gid (fun g => 
      let g1 := g.admitHeld (g.stqWait.length)
      { g1 with acq := g1.acq.filter (fun a => g1.blocks a.1)
                lanesAt := g1.lanesAt.filter (fun (e : Nat × Nat) => (g1.pend.find e.1).isSome || (g1.stq ++ g1.stqWait).any (fun h => h.id == e.1)) })

/-- An entry of the store queue is a release event (R186). -/
def Held.isRelease (g : Group) (h : Held) : Bool :=
  match h with
  | .rel _ .ptsync => false
  | .rel _ (.flag _ _ sys) => sys
  | .rel _ (.op pid) => match g.pend.find pid with
    | some p => p.storing
    | none => false
  | .rel _ _ => true
  | _ => false

/-- A release earlier in program order than `id` has not taken effect. -/
def Group.releasesBefore (g : Group) (id : Nat) : Bool := (g.stq ++ g.stqWait).any (fun h => decide (h.id < id) && h.isRelease g)

/-- A `BAR.WAIT` behind releases begins testing once they have all taken effect, with the ticket its register holds then (R142). -/
def latchWait (s : State) (g : Group) (w : Wait) : Wait :=
  match w with
  | .barAfter b sb id =>
    if g.releasesBefore id then w
    else .bar b (choose s.tick (locS sb) (g.getLoc (locS sb)) (othersOf g [] (locS sb)) % 65536)
  | _ => w

/-- The waits of a group, of its run in progress and those a trap keeps, latched. -/
def latchWaits (gid : Nat) (s : State) : State :=
  match s.groups.find gid with
  | none => s
  | some g =>
    let f := List.map (latchWait s g)
    let behind (w : Wait) : Bool := match w with
      | .barAfter _ _ _ => true
      | _ => false
    if !(g.waits ++ g.keptWaits ++ g.runWaits).any behind && !s.runs.any (fun r => r.2.gid == gid && r.2.waits.any behind) then s
    else { (s.updG gid (fun g => { g with waits := f g.waits, keptWaits := f g.keptWaits, runWaits := f g.runWaits })) with
      runs := s.runs.map (fun (r : Nat × Run) => if r.2.gid = gid then (r.1, { r.2 with waits := f r.2.waits }) else r) }

/-- A group's queue served as far as it goes; waits behind its releases begin, `FENCE.ACK`s end. -/
def settle (gid : Nat) (s : State) : State :=
  match s.groups.find gid with
  | none => s
  | some g =>
    ackGroup gid <| latchWaits gid <|
    if g.stq.isEmpty ∧ g.stqWait.isEmpty ∧ g.acq.isEmpty then s
    else ((List.range (g.stq.length + g.stqWait.length + 1)).foldl (fun s _ => settlePass gid s) s)

/-- Every group's queue. -/
def settleAll (s : State) : State := s.groups.keys.foldl (fun s gid => settle gid s) s

/-- A new entry of a group's store queue, tried at once; a queue without room makes the group wait at the end of its run (R129, R186).
The entry's place in program order is the id drawn. -/
def hold (c : Ctx) (mk : Nat → Held) (s : State) : State :=
  let id := s.nextId
  let h := mk id
  let s1 := ({ s with nextId := id + 1 } : State).updG c.run.gid (fun g => g.noteLanes id (threads c))
  match s1.groups.find c.run.gid with
  | none => s1
  | some g =>
    if g.stqWait.isEmpty ∧ (stqUsed g + h.size ≤ 64 ∨ g.stq.isEmpty) then
      settle c.run.gid (s1.updG c.run.gid (fun g => { g with stq := g.stq ++ [h] }))
    else
      let s2 := s1.updG c.run.gid (fun g => { g with stqWait := g.stqWait ++ [h] })
      settle c.run.gid (s2.updR c.slot (fun r => if r.waits.contains .store then r else { r with waits := r.waits ++ [.store] }))

end Sys2Proof.Machine
end

