-- ==== Sys2Proof/Machine/Directory.lean ====
section
/-! DEFINITION. The Almanac directory this device's Meridian holds, and this device as a holder of pages: requests, reader additions,
probes, transfers of ownership, write-backs, presence filters (R341 to R349, R352). -/

namespace Sys2Proof.Machine

/-- The key of a page named by GASID and VPN. -/
def dirKey (gasid vpn : Nat) : Nat := gasid * 2 ^ 44 + vpn % 2 ^ 44
/-- The key of the page a message names. -/
def keyOfRef (page : PageRef) : Nat := dirKey page.gasid page.vpn

/-! ### The directory (R343, R347) -/

/-- The bit of a member rank in READERS. -/
def memberBit (sp : Space) (rank : Nat) : Nat :=
  match sp.members.findIdx? (· == rank) with
  | some i => 2 ^ i
  | none => 0
/-- Ranks of READERS without one. -/
def without (sp : Space) (mask rank : Nat) : Nat := mask &&& (mask ^^^ memberBit sp rank)

/-- What serving a request takes: orders to send and the ranks whose acknowledgement they await; a second set, sent once the first is
acknowledged; the record then, messages then, and the ranks whose entry is brought to what R344 says of the record after it. `anyway`: it is
completed also where an order stays unacknowledged. -/
structure Plan where
  msgs : List Msg := []
  wait : List Nat := []
  msgs2 : List Msg := []
  wait2 : List Nat := []
  next : DirRec
  done : List Msg := []
  owed : List Nat := []
  anyway : Bool := false
  deriving DecidableEq, Repr

/-- A plan whose first set of orders is empty has only the second. -/
def Plan.staged (p : Plan) : Plan :=
  if p.wait.isEmpty then { p with msgs := p.msgs ++ p.msgs2, wait := p.wait2, msgs2 := [], wait2 := [] } else p

/-- A record back at its home. -/
def DirRec.atHome (d : DirRec) : DirRec := { d with state := .home, hc := true, owner := 0xFFFF, readers := 0 }
/-- A record with one owner. -/
def DirRec.owned (d : DirRec) (r : Nat) : DirRec := { d with state := .excl, hc := false, owner := r, readers := 0 }
/-- The home is a peer. -/
def DirRec.peer (d : DirRec) : Bool := d.hkind == 1
/-- The home as HKIND and HOMEID. -/
def DirRec.homeCode (d : DirRec) : Nat := 65536 * d.hkind + d.home

/-- STATE as a record holds it (R341). -/
def DState.code : DState → Nat
  | .home => 0
  | .excl => 1
  | .shared => 2
  | .locked => 3

/-- THE 32 BYTES OF A DIRECTORY RECORD (R341) under its key. -/
def DirRec.bytes (key : Nat) (d : DirRec) : List Byte :=
  toBytes 4 (keyGasid key) ++ toBytes 6 (keyVpn key) ++ toBytes 1 d.hkind ++ toBytes 2 d.home ++
  toBytes 1 (d.state.code + 128 * b2n d.hc) ++ toBytes 2 d.owner ++ toBytes 8 d.readers ++ toBytes 8 d.version

/-- The devices other than `r` that hold a copy, a peer home with HC included. -/
def DirRec.holders (d : DirRec) (sp : Space) (r : Nat) : List Nat :=
  let rs : List Nat := match d.state with
    | .excl => [d.owner]
    | .home => []
    | _ => ranksIn sp d.readers
  (rs ++ (if d.peer && d.hc && !rs.contains d.home then [d.home] else [])).filter (· != r)

/-- The device that supplies the data, or none for a storage server. -/
def DirRec.source (d : DirRec) (sp : Space) : Option Nat :=
  match d.state with
  | .excl => some d.owner
  | .locked => (ranksIn sp d.readers).head?
  | .shared => if d.owner ≠ 0xFFFF then some d.owner else if d.peer then some d.home else none
  | .home => if d.peer then some d.home else none

/-- A rank has the page as owner, supplier or home, or as a member of a locked set. -/
def DirRec.own (d : DirRec) (sp : Space) (r : Nat) : Bool :=
  match d.state with
  | .excl => d.owner == r
  | .home => d.peer && d.home == r
  | .shared => (d.owner == r) || (d.peer && d.hc && d.home == r)
  | .locked => (ranksIn sp d.readers).contains r

/-- The STATE of the entry of a rank that has the page, as replies name it. -/
def DirRec.entryOf (d : DirRec) : Nat :=
  match d.state with
  | .shared => 3
  | .locked => 4 + 16 * d.readers
  | _ => 1

/-- THE ENTRY THAT A RECORD GIVES A RANK (R344), as the `final` of an order: see `plan`. -/
def DirRec.finalOf (d : DirRec) (sp : Space) (h : Nat) : Nat :=
  let home := d.peer && d.home == h
  match d.state with
  | .home => if home then 1 else 2
  | .excl => if d.owner = h then 1 else 2
  | .shared => if (ranksIn sp d.readers).contains h then (if d.owner = h then 3 + 16 else 3) else if home ∧ d.hc then 3 else 2
  | .locked => if (ranksIn sp d.readers).contains h then 4 + 16 * d.readers else 2

/-- THE TABLE OF R343: what a request takes. A `final` of a holder is its STATE in bits 3:0 (6: TRANSIT, more follows; 7: TRANSIT and
acknowledged, more follows; 15: written back to the home); above, for STATE 3, whether it now supplies copies, else the READERS mask of the
locked replica that is made. A write that takes its data from another device has every other copy invalidated before that device gives up its
own (R346); a page that is replicated, or is so no longer, stands TRANSIT at its holders until every member has answered, so that a command
that fails finds all of it where it was (R347). REPLICATE of a page that is a locked replica already, or to a set that names no member, changes
nothing and succeeds. (DEDUCED, log entry 30; DEDUCED, log entry 133; DESIGN CHOICE, log entry 150) -/
def plan (sp : Space) (gasid vpn : Nat) (d : DirRec) (q : DReq) : Plan :=
  let v := (d.version + 1) % 2 ^ 64
  let d1 : DirRec := { d with version := v }
  let inv (r : Nat) (ship : Option Nat) (final : Nat) (owner : Option Nat) : Msg := .invalidate r gasid vpn v ship final d.homeCode owner
  let reply (r ver st : Nat) : Msg := .granted r gasid vpn ver st d.homeCode
  let asIs (r st : Nat) : Plan := { next := d, done := [reply r d.version st] }
  -- an owner that asks again may have lost the page a server sent it: the read is repeated (R353)
  let again (r : Nat) : Plan :=
    if d.peer then asIs r d.entryOf else { next := d, done := [.readFrom r gasid vpn d.version d.entryOf d.homeCode] }
  -- the data of a page for `r`, whose entry is to be `st`: shipped by a holder, or read from a server
  let fetch (r final st : Nat) (owner : Option Nat) (next : DirRec) : Plan :=
    match d.source sp with
    | some h => { msgs := [inv h (some r) final owner], wait := [h], next := next }
    | none => { next := next, done := [.readFrom r gasid vpn v st d.homeCode] }
  let bit (r : Nat) : Nat := memberBit sp r
  let olds := ranksIn sp d.readers
  -- `r` receives a copy from the lowest-indexed other member, also where it has lost the one it had (R175)
  let join (r : Nat) : Plan :=
    let m := d.readers ||| bit r
    let ks := olds.filter (· != r)
    if ks.isEmpty then asIs r d.entryOf
    else { msgs := ks.map (fun k => inv k (if ks.head? = some k then some r else none) (4 + 16 * m) none), wait := ks ++ [r]
           next := { d1 with readers := m } }
  let tell (m : Nat) : List Msg := (ranksIn sp m).map (fun k => inv k none (4 + 16 * m) none)
  match q with
  | .read r =>
    if d.state ≠ .locked ∧ d.own sp r then again r
    else match d.state with
      | .home => fetch r 3 3 none { d1 with state := .shared, hc := true, owner := 0xFFFF, readers := bit r }
      | .shared => fetch r (if d.owner = 0xFFFF then 3 else 3 + 16) 3 none { d1 with readers := d.readers ||| bit r }
      | .excl => fetch r (3 + 16) 3 none { d1 with state := .shared, hc := false, readers := bit d.owner ||| bit r }
      | .locked => join r
  | .write r =>
    match d.state with
    | .locked => join r
    | .shared =>
      let src := d.source sp
      let has := olds.contains r || d.own sp r
      let gives (h : Nat) : Bool := !has && src == some h
      let hs := (d.holders sp r).filter (fun h => !gives h)
      Plan.staged
        { msgs := hs.map (fun h => inv h none 2 (some r)), wait := hs
          msgs2 := (src.toList.filter gives).map (fun h => inv h (some r) 2 (some r)), wait2 := src.toList.filter gives, next := d1.owned r
          done := if has then [reply r v 1] else if src.isNone then [.readFrom r gasid vpn v 1 d.homeCode] else [] }
    | _ => if d.own sp r then again r else fetch r 2 1 (some r) (d1.owned r)
  | .store r =>
    if d.state = .locked ∧ d.own sp r then { msgs := [reply r v d.entryOf], wait := [r], next := d1 } else asIs r 2
  | .release r _ =>
    let back : Plan := { msgs := [.notHere r gasid vpn v], wait := [r], next := d1.atHome }
    let rest := without sp d.readers r
    match d.state with
    | .excl => if d.owner = r then back else asIs r 2
    | .shared =>
      if d.owner = r ∧ !d.hc then
        match (ranksIn sp rest).head? with
        | none => back
        | some n => { msgs := [inv n none (3 + 16) none], wait := [n], next := { d1 with readers := rest, owner := n }, done := [reply r v 2] }
      else if !olds.contains r then asIs r 2
      else if rest = 0 ∧ d.hc then
        { msgs := if d.peer then [inv d.home none 1 none] else [], wait := if d.peer then [d.home] else [], next := d1.atHome
          done := [reply r v 2], anyway := true }
      else { next := { d1 with readers := rest }, done := [reply r v 2] }
    | .locked =>
      if !olds.contains r then asIs r 2
      else if rest = 0 then back
      else { msgs := tell rest, wait := ranksIn sp rest, next := { d1 with readers := rest }, done := [reply r v 2], anyway := true }
    | .home => asIs r 2
  | .remove r by' =>
    let rest := without sp d.readers r
    if d.state ≠ .locked ∨ !olds.contains r ∨ rest = 0 then asIs by' 5
    else { msgs := inv r none 2 none :: tell rest, wait := r :: ranksIn sp rest, next := { d1 with readers := rest }, done := [reply by' v 5]
           anyway := true }
  | .replicate r set =>
    let ms := ranksIn sp set
    if d.state = .locked ∨ ms.isEmpty then asIs r 0
    else
      let next : DirRec := { d1 with state := .locked, readers := set, owner := 0xFFFF, hc := false }
      let src := d.source sp
      let others := (d.holders sp 0xFFFF).filter (fun h => src != some h)
      let out := others.filter (fun h => !ms.contains h)
      { msgs := (others.filter ms.contains).map (fun m => inv m none 6 none) ++ out.map (fun h => inv h none 7 none) ++
          (match src with
            | none => ms.map (fun m => .readFrom m gasid vpn v (4 + 16 * set) d.homeCode)
            | some h => (ms.filter (· != h)).map (fun m => inv h (some m) (6 + 16 * set) none) ++
                [inv h none (if ms.contains h then 4 + 16 * set else 7) none])
        wait := (ms ++ out ++ src.toList).eraseDups, next := next, done := [reply r v 0]
        owed := out ++ src.toList.filter (fun h => !ms.contains h) }
  | .unreplicate r =>
    if d.state ≠ .locked then asIs r 0
    else
      let keeps := d.peer && olds.contains d.home
      let k := if keeps then d.home else olds.headD 0
      { msgs := olds.map (fun m => inv m none 7 none), wait := olds, msgs2 := [inv k none (if keeps then 1 else 15) none], wait2 := [k]
        next := d1.atHome, done := [reply r v 0], owed := olds.filter (· != k) }
  | .supplied r wr =>
    let hs := d.holders sp r
    if d.state = .locked then
      { msgs := (olds.filter (· != r)).map (fun k => inv k none (4 + 16 * (d.readers ||| bit r)) none), wait := olds.filter (· != r)
        next := { d1 with readers := d.readers ||| bit r }, done := [reply r v (4 + 16 * (d.readers ||| bit r))] }
    else if wr then { msgs := hs.map (fun h => inv h none 2 (some r)), wait := hs, next := d1.owned r, done := [reply r v 1] }
    else match d.state with
      | .excl =>
        if d.owner = r then asIs r 1
        else { msgs := [inv d.owner none (3 + 16) none], wait := [d.owner], done := [reply r v 3]
               next := { d1 with state := .shared, hc := false, readers := bit d.owner ||| bit r } }
      | .home => { msgs := hs.map (fun h => inv h none 3 none), wait := hs, done := [reply r v 3]
                   next := { d1 with state := .shared, hc := true, owner := 0xFFFF, readers := bit r } }
      | _ => { next := { d1 with readers := d.readers ||| bit r }, done := [reply r v 3] }
  | .newHome r home ver =>
    let told : Msg := .granted r gasid vpn v 2 (65536 + home)
    if d.peer ∧ d.home = home then { next := d, done := [told] }
    else if ver ≤ d.version ∧ d.peer ∧ d.home = r ∧ d.hc ∧ (d.state = .home ∨ d.state = .shared) then
      { msgs := [.cutover home gasid vpn v (if d.state = .home then 1 else 3)], wait := [home], next := { d1 with home := home }, done := [told] }
    else { next := d, done := [.declinedReply r gasid vpn 0] }

/-- Messages sent in order. -/
def sendAll (ms : List Msg) (s : State) : State := ms.foldl State.send s

/-- The messages of an attempt go out on its port (R353). -/
def sendAttempt (port : Nat) (ms : List Msg) (s : State) : State := sendAll (ms.map (Msg.onPort port)) s

/-- The releases of a rank up to a VERSION are of no more account. -/
def DirRec.past (d : DirRec) (r ver : Nat) : DirRec := { d with rels := (r, ver) :: d.rels.filter (fun e => e.1 != r) }

/-- The record a request leaves: a release is remembered by the VERSION it named, and a later copy of it changes nothing; nor does one of a
copy older than the one a rank has now (R353). -/
def DirRec.after (d : DirRec) (q : DReq) : DirRec :=
  match q with
  | .release r ver => d.past r ver
  | .read r => d.past r (d.version - 1)
  | .write r => d.past r (d.version - 1)
  | _ => d

/-- Ranks are told the entry that R344 gives them (R344, R353): orders at the record's VERSION. (DESIGN CHOICE, log entry 151) -/
def settleOwed (key : Nat) (ranks : List Nat) (s : State) : State :=
  match s.dir.find key, s.spaces.find (keyGasid key) with
  | some d, some sp =>
    let all := (d.owed ++ ranks).eraseDups
    if all.isEmpty then s
    else
      let fresh := !ranks.isEmpty
      let n := if fresh then 1 else d.owedTries + 1
      let port := attemptPort s key d.owedPort n false
      sendAttempt port (all.map (fun h => .invalidate h (keyGasid key) (keyVpn key) d.version none (d.finalOf sp h) d.homeCode
          (if d.state = .excl then some d.owner else none)))
        { s with dir := s.dir.put key { d with owed := all, owedTries := n, owedSince := s.now, owedPort := port } }
  | _, _ => s

/-- A request is complete: one change of the record and its VERSION, and the replies (R342). -/
def completeDir (key : Nat) (q : DReq) (p : Plan) (queue : List DReq) (s : State) : State :=
  let s1 := sendAll p.done { s with dir := s.dir.put key { p.next.after q with busy := none, stage := 1, queue := queue } }
  if p.owed.isEmpty then s1 else settleOwed key p.owed s1

/-- Requests of a record served in order, as far as none awaits an acknowledgement (R342). (DESIGN CHOICE, log entry 76) -/
def serveDir (key : Nat) : Nat → State → State
  | 0, s => s
  | n + 1, s =>
    match s.dir.find key, s.spaces.find (keyGasid key) with
    | some d, some sp =>
      (match d.busy, d.queue with
        | none, q :: t =>
          let p := plan sp (keyGasid key) (keyVpn key) d q
          if p.wait.isEmpty then serveDir key n (completeDir key q p t (sendAll p.msgs s))
          else
            let port := attemptPort s key 0 1 false
            sendAttempt port p.msgs { s with dir := s.dir.put key { d with busy := some (q, p.wait), queue := t, tries := 1, since := s.now, port := port } }
        | _, _ => s)
    | _, _ => s

/-- A release that the record has applied already, or is serving, or has queued (R353). -/
def DirRec.knows (d : DirRec) (q : DReq) : Bool :=
  match q with
  | .release r ver => d.rels.any (fun e => e.1 == r && decide (ver ≤ e.2))
  | _ => false

/-- Requests of one rank of which each has a turn of its own: stores to a locked replica (R174). -/
def DReq.repeats (q : DReq) : Bool :=
  match q with
  | .store _ => true
  | _ => false

/-- A request joins its record's queue (R342); one that is there already, or in service, is not served twice. -/
def dirRequest (key : Nat) (q : DReq) (s : State) : State :=
  match s.dir.find key with
  | none => s
  | some d =>
    if d.knows q then s.send (.granted q.rank (keyGasid key) (keyVpn key) d.version 2 d.homeCode)
    else if !q.repeats ∧ (d.queue.contains q ∨ d.busy.any (fun b => b.1 == q)) then s
    else serveDir key (d.queue.length + 2) { s with dir := s.dir.put key { d with queue := d.queue ++ [q] } }

/-- A request from a tenant the space admits (R349); from another, or with no record, it is declined with reason 0x04. -/
def dirAccess (page : PageRef) (rank tenant : Nat) (f : State → State) (s : State) : State :=
  let admitted := match s.spaces.find page.gasid with
    | some sp => sp.tenants.contains tenant
    | none => false
  if !admitted ∨ (s.dir.find (keyOfRef page)).isNone then s.send (.declinedReply rank page.gasid page.vpn 4) else f s

/-- `DIRECTORY_READ_REQUEST` (R343); `sup`: of a page the kernel supplied (R355). -/
def execDirectoryReadRequest (page : PageRef) (rank tenant : Nat) (sup : Bool) (s : State) : Out :=
  .next (dirAccess page rank tenant (dirRequest (keyOfRef page) (if sup then .supplied rank false else .read rank)) s)
/-- `DIRECTORY_WRITE_REQUEST` (R174, R343, R355). -/
def execDirectoryWriteRequest (page : PageRef) (rank tenant mode : Nat) (s : State) : Out :=
  .next (dirAccess page rank tenant (dirRequest (keyOfRef page)
    (if mode = 0 then .write rank else if mode = 1 then .supplied rank true else .store rank)) s)
/-- `DIRECTORY_RELEASE` (R343); `removed`: of a replica that did not confirm a lock (R175). -/
def execDirectoryRelease (page : PageRef) (asker : Asker) (left : Leaving) (s : State) : Out :=
  .next (dirAccess page asker.rank asker.tenant
    (dirRequest (keyOfRef page) (match left.removed with
      | some r => .remove r asker.rank
      | none => .release asker.rank left.ver)) s)
/-- `REPLICATE_REQUEST` (R347). -/
def execReplicateRequest (page : PageRef) (rank tenant set : Nat) (s : State) : Out :=
  .next (dirAccess page rank tenant (dirRequest (keyOfRef page) (.replicate rank set)) s)
/-- `UNREPLICATE_REQUEST` (R347). -/
def execUnreplicateRequest (page : PageRef) (rank tenant : Nat) (s : State) : Out :=
  .next (dirAccess page rank tenant (dirRequest (keyOfRef page) (.unreplicate rank)) s)

/-- The copies that gave themselves up are in the record no more: a request that fails after some holders have done their part (R353). -/
def DirRec.drop (d : DirRec) (sp : Space) (gone : List Nat) : DirRec :=
  if d.state ≠ .shared then d
  else
    let m := gone.foldl (without sp) d.readers
    let hc := d.hc && !(d.peer && gone.contains d.home)
    if m = 0 ∧ hc then d.atHome
    else { d with readers := m, hc := hc
                  owner := if d.owner ≠ 0xFFFF ∧ !gone.contains d.owner then d.owner else if hc then 0xFFFF else (ranksIn sp m).headD 0xFFFF }

/-- A request for a mailbox command (R347). -/
def DReq.mailbox (q : DReq) : Bool :=
  match q with
  | .replicate _ _ => true
  | .unreplicate _ => true
  | _ => false

/-- A rank that may have a copy of a request that failed (R353): the reader of a read, the new home of a migration. -/
def DReq.mayHold (q : DReq) : List Nat :=
  match q with
  | .read r => [r]
  | .newHome _ home _ => [home]
  | _ => []

/-- A REQUEST FAILS (R353): the record keeps the state it had, but for copies that are gone; the VERSION its orders carried is used up, as is
the next, under which the holders' entries are brought to what R344 says of the record, so that nothing of the failed request is taken for
part of a later one (R342). (DESIGN CHOICE, log entry 151) -/
def failDir (key reason : Nat) (s : State) : State :=
  match s.dir.find key, s.spaces.find (keyGasid key) with
  | some d, some sp => match d.busy with
    | none => s
    | some (q, left) =>
      let p := plan sp (keyGasid key) (keyVpn key) { d with busy := none } q
      if p.anyway then serveDir key (d.queue.length + 1) (completeDir key q p d.queue s)
      else
        let asked := if d.stage = 2 then p.wait ++ p.wait2 else p.wait
        let d1 := { d with busy := none, stage := 1, version := (d.version + 2) % 2 ^ 64 }
        let d2 := if q.mailbox then d1 else d1.drop sp (asked.filter (fun r => !left.contains r))
        let ranks := (d2.holders sp 0xFFFF ++ (if q.mailbox then asked else []) ++ q.mayHold).eraseDups
        serveDir key (d.queue.length + 1) (settleOwed key ranks
          (({ s with dir := s.dir.put key d2 } : State).send (.declinedReply q.rank (keyGasid key) (keyVpn key) reason)))
  | _, _ => s

/-- The reason a reader answers with that is to supply copies and has none any more, its release being on its way. -/
def noCopy : Nat := 255

/-- `DIRECTORY_ACKNOWLEDGEMENT` (R342, R345): of the VERSION that the request in service makes; with the last one the request's second orders
go out, or it is complete. With a reason the holder cannot do its part, and the request fails; a reader that has no copy leaves READERS, and
the request is served anew. An acknowledgement of the record's own VERSION is of an order that only told the entry. -/
def execDirectoryAcknowledgement (page : PageRef) (rank : Nat) (answer : DirAnswer) (s : State) : Out :=
  let key := keyOfRef page
  .next (match s.dir.find key, s.spaces.find page.gasid with
    | some d, some sp =>
      if answer.ver = d.version ∧ d.owed.contains rank then { s with dir := s.dir.put key { d with owed := d.owed.filter (· != rank) } }
      else match d.busy with
      | none => s
      | some (q, left) =>
        let rest := left.filter (· != rank)
        let p := plan sp page.gasid (keyVpn key) { d with busy := none } q
        if answer.ver ≠ (d.version + 1) % 2 ^ 64 ∨ !left.contains rank then s
        else if answer.reason = noCopy then
          serveDir key (d.queue.length + 2) { s with dir := s.dir.put key { d with
            busy := none, stage := 1, readers := without sp d.readers rank, queue := q :: d.queue } }
        else if answer.reason ≠ 0 then failDir key answer.reason s
        else if !rest.isEmpty then { s with dir := s.dir.put key { d with busy := some (q, rest) } }
        else if d.stage = 1 ∧ !p.wait2.isEmpty then
          let port := attemptPort s key 0 1 false
          sendAttempt port p.msgs2 { s with dir := s.dir.put key { d with busy := some (q, p.wait2), stage := 2, tries := 1, since := s.now, port := port } }
        else serveDir key (d.queue.length + 1) (completeDir key q p d.queue s)
    | _, _ => s)

/-- `READER_ADDITION` (R348): accepted if the VERSION has not moved on since the supplier learnt it; one that is sent again is applied once
(R353). -/
def execReaderAddition (page : PageRef) (reader rank tenant ver : Nat) (s : State) : Out :=
  let key := keyOfRef page
  .next (dirAccess page rank tenant (fun s => match s.dir.find key, s.spaces.find page.gasid with
    | some d, some sp =>
      let fits := d.busy.isNone && d.queue.isEmpty && d.version == ver && d.state != .locked && d.source sp == some rank
      let known := d.version == ver + 1 && d.state == .shared && d.source sp == some rank && (ranksIn sp d.readers).contains reader
      if fits then
        let p := plan sp page.gasid (keyVpn key) d (.read reader)
        ({ s with dir := s.dir.put key (p.next.after (.read reader)) }).send (.added rank page.gasid page.vpn p.next.version true)
      else s.send (.added rank page.gasid page.vpn d.version known)
    | _, _ => s) s)

/-- The time an attempt of a request's orders has: 500 µs where a holder writes the page back to a storage server, or reads it from there,
else 100 µs (R353), in ninths of a nanosecond. -/
def DirRec.patience (d : DirRec) (q : DReq) : Nat :=
  let long : Bool := match q with
    | .release _ _ => true
    | q => q.mailbox
  if d.hkind = 2 ∧ long then 4500000 else 900000

/-- Attempts of a request's orders that stay unacknowledged (R353): sent again on another port; after the third a read fails with
reason 0x01, as its supplier did not answer, any other with 0x03. (DEDUCED, log entry 134) -/
def dirTimeout (key : Nat) (s : State) : State :=
  match s.dir.find key, s.spaces.find (keyGasid key) with
  | some d, some sp => match d.busy with
    | none => s
    | some (q, left) =>
      if s.now < d.since + d.patience q then s
      else if d.tries < 3 then
        let port := attemptPort s key d.port (d.tries + 1) false
        let p := plan sp (keyGasid key) (keyVpn key) { d with busy := none } q
        sendAttempt port (if d.stage = 2 then p.msgs2 else p.msgs)
          { s with dir := s.dir.put key { d with busy := some (q, left), tries := d.tries + 1, since := s.now, port := port } }
      else failDir key (match q with
        | .read _ => 1
        | _ => 3) s
  | _, _ => s

/-- Attempts of the orders that tell entries have timed out (R353): again, three times in all. -/
def owedTimeout (key : Nat) (s : State) : State :=
  match s.dir.find key with
  | some d =>
    if d.owed.isEmpty ∨ s.now < d.owedSince + 900000 then s
    else if d.owedTries < 3 then settleOwed key [] s
    else { s with dir := s.dir.put key { d with owed := [] } }
  | none => s

/-! ### Holding pages -/

/-- The frame of a page this device holds, in a frame of its own or as its home. -/
def pageOf (s : State) (key : Nat) : Option Nat :=
  match frameOf s key with
  | some f => some f.pa
  | none => match leavesOf s key with
    | (_, _, pte) :: _ => if pte % 16 = 1 ∨ pte % 16 = 3 ∨ pte % 16 = 4 ∨ pte % 16 = 6 then some (bits pte 47 16 * 2 ^ 16) else none
    | [] => none

/-- A page of memory written whole; Meridian has gathered the tokens of its lines (R168, R333). -/
def setPage (pa : Nat) (data : List Byte) (s0 : State) : State :=
  let s := gatherPage pa s0
  { s with mem := s.mem.filter (fun c => decide (c.1 < pa)) ++
      (List.range 65536).filterMap (fun i => let x := data.getD i 0; if x = 0 then none else some (pa + i, x)) ++
      s.mem.filter (fun c => decide (pa + 65536 ≤ c.1))
           poison := s.poison.filter (fun l => l / 512 != pa / 65536) }

/-- The newest VERSION acted on for a page (R342). -/
def setVer (key ver : Nat) (s : State) : State := { s with vers := s.vers.set 0 key ver }

/-- A frame's record changed. -/
def updFrame (key : Nat) (f : Frame → Frame) (s : State) : State :=
  { s with frames := s.frames.map (fun g => if g.gasid * 2 ^ 44 + g.vpn = key then f g else g) }

/-- An acknowledgement to the directory (R345), or that the request cannot be met. -/
def ackReason (key ver reason : Nat) (s : State) : State :=
  match s.spaces.find (keyGasid key) with
  | some sp => s.send (.ack (directoryRank sp (keyGasid key) (keyVpn key)) (keyGasid key) (keyVpn key) ver reason)
  | none => s
/-- An acknowledgement to the directory (R345). -/
def ackDirectory (key ver : Nat) (s : State) : State := ackReason key ver 0 s

/-- The member index of this device's partition in a space. -/
def ownMember (s : State) (sp : Space) : Option Nat := sp.members.findIdx? (fun r => (s.partOfRank r).isSome)

/-- The device owns or supplies a page (R348): an addition to its presence filter; a page homed here has no frame record to say so. -/
def publish (key : Nat) (s0 : State) : State :=
  let s := if (frameOf s0 key).isSome ∨ s0.ownHome.contains key then s0 else { s0 with ownHome := key :: s0.ownHome }
  match s.spaces.find (keyGasid key) with
  | some sp => match ownMember s sp with
    | some m => s.send (.filter (keyGasid key) m (filterBits sp (keyGasid key) (keyVpn key)) false)
    | none => s
  | none => s

/-- A page homed here is no longer owned or supplied by this device itself. -/
def disown (key : Nat) (s : State) : State := { s with ownHome := s.ownHome.filter (· != key) }

/-- `FILTER_ADDITION` (R348). -/
def execFilterAddition (gasid member : Nat) (keys : List Nat) (rebuilt : Bool) (s : State) : Out :=
  let k := 64 * gasid + member % 64
  let old := if rebuilt then [] else s.filters.get [] k
  .next { s with filters := s.filters.set [] k ((old ++ keys.map (· % 2 ^ 20)).eraseDups) }

/-- VPNs of the pages of a space that this device holds as owner or supplier (R348). -/
def ownedVpns (s : State) (gasid : Nat) : List Nat :=
  (s.frames.filter (fun f => f.gasid == gasid && (f.excl || f.owner))).map (·.vpn) ++ (s.ownHome.filter (fun k => keyGasid k == gasid)).map keyVpn

/-- `FILTER_REBUILD` (R348): every 10 ms. -/
def execFilterRebuild (gasid : Nat) (s : State) : Out :=
  .next (match s.spaces.find gasid with
    | some sp => match ownMember s sp with
      | some m =>
        if s.now < s.filterAt.get 0 gasid + 90000000 then s
        else ({ s with filterAt := s.filterAt.set 0 gasid s.now }).send
          (.filter gasid m (((ownedVpns s gasid).flatMap (filterBits sp gasid)).eraseDups) true)
      | none => s
    | none => s)

/-! ### Giving up and shipping a page (R345) -/

/-- The `PAGEREL`s that stand first in a chain. -/
def Chain.leading (c : Chain) : List FaultRec := c.recs.takeWhile (fun r => r.role == .pagerel)

/-- A page's copy is gone: the `PAGEREL`s whose turn it was end, records chained meanwhile fault anew, frames may be had (R352, R362). -/
def leaveDone (key : Nat) (s : State) : State :=
  match s.chains.find key with
  | none => retryFrames s
  | some c =>
    let s1 := c.leading.foldl (fun s r => finish r.gid r.op s) s
    retryFrames (restartChain key { s1 with chains := s1.chains.upd key (fun c => { c with
      recs := (c.recs.drop c.leading.length).filter (fun r => r.role != .writeBack) }) })

/-- The chain of a page is giving it up. -/
def isLeaving (s : State) (key : Nat) : Bool := (s.chains.find key).any (fun c => c.departs)

/-- The records of a page are being replayed. -/
def isReplaying (s : State) (key : Nat) : Bool :=
  match s.chains.find key with
  | some c => match c.phase with
    | .replay _ => true
    | _ => false
  | none => false

/-- A chain waits for its page. -/
def isAsked (s : State) (key : Nat) : Bool :=
  match s.chains.find key with
  | some c => match c.phase with
    | .asked _ => true
    | _ => false
  | none => false

/-- A move is over and the page stays, with a STATE (R344): a chain that waited for it begins its replay (R338, R347). -/
def standAs (key st pa ver : Nat) (s : State) : State :=
  match s.chains.find key with
  | some c => (match c.phase with
    | .leaving _ _ => s
    | .asked _ =>
      if stateOf s key = 6 then { s with chains := s.chains.put key { c with phase := .replay st, frame := if (frameOf s key).isSome then pa else 0, ver := ver } }
      else enterState key st pa s
    | _ => enterState key st pa s)
  | none => enterState key st pa s

/-- A holder's entry at the end of a move (R344): see `plan` for `final`. A hint names the new owner where there is one. -/
def holderFinal (key pa ver final home : Nat) (owner : Option Nat) (s : State) : State :=
  let x := final / 16
  match final % 16 with
  | 1 =>
    let s1 := standAs key 1 pa ver (updFrame key (fun f => { f with excl := true, owner := false, locked := false, ver := ver })
      { s with homes := s.homes.del key, lockSets := s.lockSets.del key })
    if (frameOf s key).isSome then publish key s1 else disown key s1
  | 2 =>
    let hint : Nat × Nat := match owner with
      | some r => (1, r)
      | none => (home / 65536, home % 65536)
    let gone := disown key (enterAbsent key hint.1 hint.2 { s with lockSets := s.lockSets.del key })
    (match frameOf s key with
      | some f =>
        let s1 := freeOf key f.pa gone
        if isLeaving s key then leaveDone key s1 else retryFrames s1
      | none => { gone with homes := gone.homes.put key pa })
  | 3 =>
    let s1 := updFrame key (fun f => { f with excl := false, owner := f.owner || f.excl || x == 1, hc := if x = 1 then false else f.hc, locked := false, ver := ver })
      { s with lockSets := s.lockSets.del key }
    let s2 := standAs key 3 pa ver s1
    if x = 1 then publish key s2 else s2
  | 4 =>
    let rs := match s.spaces.find (keyGasid key) with
      | some sp => ranksIn sp x
      | none => []
    let s1 := updFrame key (fun f => { f with locked := true, excl := false, owner := false, ver := ver })
      (disown key { s with lockSets := s.lockSets.put key rs })
    standAs key 4 pa ver s1
  | 15 => match frameOf s key with
    | some f => writeBack key f s
    | none => s
  | _ => s

/-- A page homed here holds a line with an uncorrectable error (R357). -/
def badHome (s : State) (key pa : Nat) : Bool := (frameOf s key).isNone && s.poison.any (fun l => l / 512 == pa / 65536)

/-- This device cannot take a move yet (R171, R174, R333, R345): the page is being replayed, a line of it is locked or a copy engine's, or
the page the move needs is still on its way here. -/
def moveWaits (s : State) (m : Move) : Bool :=
  let key := dirKey m.gasid m.vpn
  match pageOf s key with
  | none => isAsked s key && !(m.ship.isNone && m.final % 16 == 2)
  | some pa => isReplaying s key || pageBusy s key pa

/-- A migration of a page homed here is abandoned (R358): its new home is told to discard the copy. -/
def abandonMigration (key : Nat) (s : State) : State :=
  match s.migr.find key with
  | some m => ({ s with migr := s.migr.del key }).send (.cutover m.home (keyGasid key) (keyVpn key) (s.vers.get 0 key) 2)
  | none => s

/-- The page is being written back to its home. -/
def writesBack (s : State) (key : Nat) : Bool := (s.chains.find key).any (fun c => match c.phase with
  | .leaving sent _ => sent
  | _ => false)

/-- THIS DEVICE GIVES UP ITS COPY OF A PAGE, OR SHIPS IT (R345), at the directory's request, in its four steps. A page it reads out of a frame
has the tokens of all its lines gathered (R333). (DEDUCED, log entry 135) -/
def holderMove (m : Move) (s : State) : State :=
  let key := dirKey m.gasid m.vpn
  let seen := s.vers.get 0 key
  let kind := m.final % 16
  if m.ver < seen then s
  else if m.ver = seen ∧ seen ≠ 0 then ackDirectory key m.ver s
  else match pageOf s key with
    | none =>
      if kind = 6 ∨ m.ship.isSome then s
      else if kind = 7 then ackDirectory key m.ver s
      else if m.final = 3 + 16 then ackReason key m.ver noCopy s
      else ackDirectory key m.ver (setVer key m.ver s)
    | some pa =>
      if badHome s key pa ∧ m.ship.isSome then ackReason key m.ver 5 s
      else if kind = 15 ∧ writesBack s key then s
      else
        let s0 := updFrame key (fun f => { f with home := m.home }) (if kind = 3 then s else abandonMigration key s)
        let s1 := if kind = 3 ∧ stateOf s key = 3 then (if m.ship.isSome then gatherPage pa s0 else s0) else toTransit key pa s0
        let rx := if kind = 3 then 3 else if m.final / 16 ≠ 0 then 4 + 16 * (m.final / 16) else 1
        let s2 := match m.ship with
          | some r => s1.send (.shipment r m.gasid m.vpn m.ver rx ((frameOf s key).isNone && kind == 3) m.home (cellsGet s1.mem pa 65536))
          | none => s1
        if kind = 6 then s2
        else if kind = 7 then ackDirectory key m.ver s2
        else
          let s3 := holderFinal key pa m.ver m.final m.home m.owner s2
          if kind = 15 then { s3 with chains := s3.chains.upd key (fun c => { c with ver := m.ver }) } else ackDirectory key m.ver (setVer key m.ver s3)

/-- A move begun, or kept until it can begin. -/
def takeMove (m : Move) (s : State) : State :=
  let s1 := { s with moves := s.moves.filter (· != m) }
  if moveWaits s m then { s1 with moves := s1.moves ++ [m] } else settleAll (holderMove m s1)

/-- Moves that can begin now do. -/
def takeMoves (s : State) : State := s.moves.foldl (fun s m => if moveWaits s m then s else takeMove m s) s

/-- `INVALIDATION` (R345). -/
def execInvalidation (page : PageRef) (ver : Nat) (ship : Option Nat) (final home : Nat) (owner : Option Nat) (s : State) : Out :=
  .next (takeMove ⟨page.gasid, page.vpn, ver, ship, final, home, owner⟩ s)

/-! ### Probes (R348, R349) -/

/-- The partition that holds a page, or would: of its frame, or of the first ASID that maps it. -/
def holderPart (s : State) (key : Nat) : Nat :=
  match frameOf s key with
  | some f => f.part
  | none => (mappers s key).headD 0 / 65536

/-- The page is held as owner, supplier or home, and is not being moved. (DEDUCED, log entry 78) -/
def supplies (s : State) (key : Nat) : Bool :=
  (s.chains.find key).isNone && (match frameOf s key with
    | some f => f.excl || f.owner
    | none => (pageOf s key).isSome && (stateOf s key == 1 || stateOf s key == 3))

/-- `PROBE` (R348, R349): NOT-HERE after exactly 2.0 µs for a page not held or a partition of another tenant; else the reader addition. -/
def execProbe (gasid vpn rank tenant : Nat) (s : State) : Out :=
  let key := dirKey gasid vpn
  let part := holderPart s key
  let ok := supplies s key && s.tenantOf part == tenant
  let ver := match frameOf s key with
    | some f => f.ver
    | none => s.vers.get 1 key
  let port := attemptPort s key 0 1 false
  let p : ProbeOut := { id := s.nextId, wait := ok, rank := rank, gasid := gasid, vpn := vpn, due := s.now + 18000, ver := ver, since := s.now, port := port }
  let s1 := { s with probes := s.probes ++ [p], nextId := s.nextId + 1 }
  .next (if ok then askOn port key 5 part rank ver s1 else s1)

/-- `NOT_HERE_REPLY` (R349): it leaves at its time. -/
def execNotHereReply (id : Nat) (s : State) : Out :=
  .next (match s.probes.find? (fun p => p.id == id) with
    | some p =>
      if p.wait ∨ s.now < p.due then s
      else ({ s with probes := s.probes.filter (fun q => q.id != id) }).send (.notHere p.rank p.gasid p.vpn 0)
    | none => s)

/-- The directory answers a reader addition (R348): the page is shipped as at the directory's own request, or NOT-HERE. -/
def probeAnswered (key ver : Nat) (ok : Bool) (s : State) : State :=
  match s.probes.find? (fun p => p.wait && dirKey p.gasid p.vpn == key) with
  | none => s
  | some p =>
    let s1 := { s with probes := s.probes.filter (fun q => q.id != p.id) }
    if !ok ∨ (pageOf s key).isNone then s1.send (.notHere p.rank p.gasid p.vpn 0)
    else
      let f := frameOf s key
      let home := match f with
        | some f => f.home
        | none => 65536 + ((s.rankOf (holderPart s key)).getD 0)
      takeMove ⟨p.gasid, p.vpn, ver, some p.rank, if f.isSome ∨ s.ownHome.contains key then 3 + 16 else 3, home, none⟩ s1

/-- Attempts of a page's reader additions have timed out (R353): again on another port; after the third the probe is answered NOT-HERE. -/
def probeTimeout (key : Nat) (s : State) : State :=
  match s.probes.find? (fun p => p.wait && dirKey p.gasid p.vpn == key) with
  | none => s
  | some p =>
    if s.now < p.since + 900000 then s
    else if p.tries < 3 then
      let port := attemptPort s key p.port (p.tries + 1) false
      askOn port key 5 (holderPart s key) p.rank p.ver
        { s with probes := s.probes.map (fun q => if q = p then { p with tries := p.tries + 1, since := s.now, port := port } else q) }
    else probeAnswered key 0 false s

/-! ### Write-backs (R352) -/

/-- `WRITE_BACK_ARRIVAL` (R352) at a peer home: applied once, the entry LOCAL, then acknowledged. -/
def execWriteBackArrival (gasid vpn rank ver : Nat) (data : List Byte) (s : State) : Out :=
  let key := dirKey gasid vpn
  .next ((match s.homes.find key with
    | some pa =>
      if ver < s.vers.get 0 key then s
      else setVer key ver (enterState key 1 pa (setPage pa data { s with homes := s.homes.del key }))
    | none => s).send (.ack rank gasid vpn ver 0))

/-- `WRITE_BACK_ACK` (R352): the home has the page: frame freed, entry ABSENT-REMOTE, and the directory is told. -/
def execWriteBackAck (gasid vpn : Nat) (s : State) : Out :=
  let key := dirKey gasid vpn
  .next (match s.chains.find key, frameOf s key with
    | some c, some f => match c.phase with
      | .leaving true _ => leaveDone key (ackDirectory key c.ver (dropPage key f (setVer key c.ver s)))
      | _ => s
    | _, _ => s)

end Sys2Proof.Machine
end

