-- ==== Sys2Proof/Machine/MemInstr.lean ====
section
/-! DEFINITION. The memory instructions (majors 0x60 to 0x6E): R198 to R219, R359 to R362. -/

namespace Sys2Proof.Machine

/-! ### Elements and their faults -/

/-- The PM predicate (R69). -/
def pmPred (c : Ctx) (pm : Nat) : Nat → Bool :=
  let m := c.m 1
  match pm with
  | 1 => fun e => m.getLsbD e
  | 2 => fun e => !m.getLsbD e
  | _ => fun _ => true

/-- The active elements of an instruction, ascending (R201). -/
def activeEls (c : Ctx) (pred : Nat → Bool) : List Nat :=
  (List.range c.g.vlmax).filter (activeEl c c.g.sew pred)

/-- The element belongs to a helper lane (R88). -/
def helperEl (c : Ctx) (e : Nat) : Bool := c.g.isHelper (laneOf c.g.sew e)

/-- A scalar plus an offset, modulo 2^64. -/
def addr64 (x : Nat) (o : Int) : Nat := wrap 64 ((x : Int) + o)

/-- The trap that an instruction's faulting elements raise: WINDOW of any element, else what the lowest raises (R61, R106, R154).
(DEDUCED, log entry 10; DEDUCED, log entry 20) -/
def worst (c : Ctx) (w : Nat) (fs : List (Nat × Trap)) : Option Trap :=
  let lanes := fs.foldl (fun (m : Nat) (f : Nat × Trap) => m ||| 2 ^ laneOf w f.1) 0
  match fs.find? (fun f => f.2.code == 6), fs with
  | some f, _ => some { f.2 with lanes := some (lanes &&& (liveOf c.g c.run.aset).toNat) }
  | none, f :: _ => some { f.2 with lanes := some (lanes &&& (liveOf c.g c.run.aset).toNat) }
  | none, [] => none

/-- The faults of live lanes' elements, ascending: `f` gives an element's fault (R88, R199). -/
def faultsOf (c : Ctx) (els : List Nat) (f : Nat → Option Trap) : List (Nat × Trap) :=
  els.filterMap (fun e => if helperEl c e then none else (f e).map (fun t => (e, t)))

/-- WINDOW, then TOKEN, then the address faults (R61). -/
def memChecks (c : Ctx) (tok : Option Nat) (t : Option Trap) : Except Trap Unit :=
  match t with
  | some x =>
    if x.code = 6 then .error x
    else match tok with
      | some k => if c.g.tokPending k then .error .token else .error x
      | none => .error x
  | none => match tok with
    | some k => bindable c k
    | none => .ok ()

/-- The error of a place, if it is one. -/
def placeErr (r : Except Trap Place) : Option Trap :=
  match r with
  | .ok _ => none
  | .error t => some t

/-- Register groups below W, in syntax order (R65). -/
def groupsFit (c : Ctx) (os : List VOp) : Except Trap Unit :=
  match os.findSome? (beyond c.g.w) with
  | some i => .error (.window i)
  | none => .ok ()

/-- Line requests counted (R207, R216): the 128-byte lines an instruction's accesses name, whatever their policy. The model counts them for
every load, store and atomic, in every space, scalar ones and the bytes of `CBLOAD` and `LDCB` too. (DESIGN CHOICE, log entry 126) -/
def countLines (c : Ctx) (ptrs : List Nat) (s : State) : State :=
  let n := ((ptrs.map (fun p => p % 2 ^ 63 / 128)).eraseDups).length
  s.updCore c.co.core (fun q => { q with mcnt := q.mcnt.set 0 7 ((q.mcnt.get 0 7 + n) % 2 ^ 64) })

/-- A memory counter raised (R216). -/
def bumpMcnt (core k n : Nat) (s : State) : State :=
  s.updCore core (fun q => { q with mcnt := q.mcnt.set 0 k ((q.mcnt.get 0 k + n) % 2 ^ 64) })

/-! ### Loads -/

/-- The words an element of a vector destination covers. -/
def wordsOfEl (o : VOp) (w e : Nat) : List (Nat × Nat) :=
  let r := o.reg (e * w / 1024)
  let k := locV r (e * w % 1024 / 32)
  [(k, if w ≤ 32 then k else k + 1)]

/-- The writes of inactive elements of a vector load under the policies; `tail` starts at element `tl` (R201, R208). -/
def loadPolicy (c : Ctx) (o : VOp) (w tl : Nat) (pred : Nat → Bool) : List Wr :=
  (List.range (1024 / w * o.n)).flatMap (fun e =>
    if !c.act (laneOf w e) then []
    else if tl ≤ e then policyW o w e c.g.ta
    else if !pred e then policyW o w e c.g.ma
    else [])

/-- Tags of a load's destination group become spatial (R202). -/
def clearTags (o : VOp) : List Wr := (List.range o.n).flatMap (fun i => wrTag (o.reg i) 0)

/-- A load issued: pending operation, its elements tried at once, lines counted (R199, R200). -/
def issueLoad (c : Ctx) (p : Pend) (behind : List Nat) (s : State) : State :=
  let pid := s.nextId
  let p1 : Pend := { p with behind := c.g.acqIds (threads c) ++ behind.filter c.g.blocks
                            bank := p.els.any (fun (e : Nat × LdEl) => bits e.2.ptr 62 60 == 2 || bits e.2.ptr 62 60 == 3) }
  let s1 := addPend c p1 (countLines c (p.els.map (fun (e : Nat × LdEl) => e.2.ptr)) s)
  let s2 := serveLoad c.run.gid pid none s1
  match p.op with
  | .load _ => if p.els.isEmpty then finish c.run.gid pid s2 else s2
  | _ => s2

/-- One element of a vector load: where its bytes are and where they go. -/
def vecEl (o : VOp) (w e ptr : Nat) : LdEl :=
  { ptr := ptr, n := if w = 4 then 1 else w / 8, nib := if w = 4 then some (e % 2) else none
    dst := .v (o.reg (e * w / 1024)) (e * w % 1024) w }

/-- Bytes of an element. -/
def elBytes (w : Nat) : Nat := if w = 4 then 1 else w / 8

/-- Address of element `e` of a contiguous access (R205). -/
def contig (base w e : Nat) : Nat := addr64 base (if w = 4 then (e / 2 : Nat) else (e * (w / 8) : Nat))

/-- A helper lane's element reads zero at once: it would fault, or its page is not resident (R88). -/
def helperZero (s : State) (u : Who) (c : Ctx) (addr : Nat → Nat) (e : Nat) : Bool :=
  helperEl c e && (pageGone s u (addr e) || (placeErr (placeOf s u .rd (addr e) (elBytes c.g.sew))).isSome)

/-- Elements of a load, those of `LDR` with the mask register they mark: helper lanes' elements that read zero do so at once (R88). -/
def splitEls (s : State) (u : Who) (c : Ctx) (o : VOp) (els : List Nat) (addr : Nat → Nat) (probe : Option Nat) : Tab LdEl × List Wr :=
  let w := c.g.sew
  let zero := helperZero s u c addr
  ((els.filter (fun e => !zero e)).map (fun e =>
      (e, { vecEl o w e (addr e) with helper := helperEl c e, probe := probe.map (fun m => (locM m, e)) })),
    (els.filter zero).flatMap (fun e => wrElt o w e 0))

/-- A vector load of active elements from given addresses (R201), with what an `LDFF` adds to it (R208). -/
def vecLoadFf (ff : Option FfLoad) (c : Ctx) (o : VOp) (els : List Nat) (pred : Nat → Bool) (tl : Nat) (addr : Nat → Nat) (tok : Nat)
    (extra : List Wr) (probe : Option Nat) (s : State) : State :=
  let (tab, zs) := splitEls s (whoOf s c) c o els addr probe
  issueLoad c { tok := some tok, op := .load ff, els := tab
                wrs := loadPolicy c o c.g.sew tl pred ++ clearTags o ++ zs ++ extra
                dst := els.flatMap (wordsOfEl o c.g.sew) ++ (loadPolicy c o c.g.sew tl pred ++ clearTags o ++ extra).map (fun w => (w.loc, w.loc)) ++
                  (if ff.isSome then [(locVl, locVl)] else []) } [] s

/-- A vector load of active elements from given addresses (R201). -/
def vecLoad (c : Ctx) (o : VOp) (els : List Nat) (pred : Nat → Bool) (tl : Nat) (addr : Nat → Nat) (tok : Nat) (extra : List Wr)
    (probe : Option Nat) (s : State) : State := vecLoadFf none c o els pred tl addr tok extra probe s

/-- Group of `n` registers from a banked field. -/
def bankG (vb f n : Nat) : VOp := ⟨32 * vb + f, n, false⟩

/-- `LDV` (R205). -/
def execLdv (f : MV) (s : State) : Out :=
  issue 4 s (fun c => do
    let o := bankG f.vb f.vr c.g.grp
    groupsFit c [o]
    let base := addr64 (c.sn f.sb) (sext 5 f.vx * 128)
    let pred := pmPred c f.pm
    let els := activeEls c pred
    let u := whoOf s c
    memChecks c (some f.tk) (worst c c.g.sew (faultsOf c els (fun e => placeErr (placeOf s u .rd (contig base c.g.sew e) (elBytes c.g.sew)))))
    return vecLoad c o els pred c.g.vl (contig base c.g.sew) f.tk [] none s)

/-- Registers of an index group (R206). -/
def indexRegs (c : Ctx) : Nat :=
  match c.g.sew with
  | 8 => 4 * c.g.grp
  | 16 => 2 * c.g.grp
  | _ => c.g.grp

/-- The address of a gathered element (R206). -/
def gatherAddr (c : Ctx) (ix : VOp) (base e : Nat) : Nat :=
  addr64 base (if c.g.sew = 64 then sext 64 (elt c ix 64 e) else sext 32 (elt c ix 32 e))

/-- `LDG` (R206). -/
def execLdg (f : MV) (s : State) : Out :=
  issue 4 s (fun c => do
    need (c.g.sew != 4) .illegal
    let o := bankG f.vb f.vr c.g.grp
    let ix := bankG f.vb f.vx (indexRegs c)
    need (apart o ix) .overlap
    groupsFit c [o, ix]
    let pred := pmPred c f.pm
    let els := activeEls c pred
    let u := whoOf s c
    let addr := gatherAddr c ix (c.sn f.sb)
    memChecks c (some f.tk) (worst c c.g.sew (faultsOf c els (fun e => placeErr (placeOf s u .rd (addr e) (c.g.sew / 8)))))
    return vecLoad c o els pred c.g.vl addr f.tk [] none s)

/-- The element that truncates an `LDFF`: the lowest later one that would fault or whose page is ABSENT-REMOTE or TRANSIT (R208). A helper
lane's element, which neither faults nor parks (R88), does not truncate. (DESIGN CHOICE, log entry 127) -/
def truncAt (s : State) (u : Who) (c : Ctx) (addr : Nat → Nat) (els : List Nat) : Option Nat :=
  (els.drop 1).find? (fun e => !helperEl c e &&
    (pageGone s u (addr e) || (placeErr (placeOf s u .rd (addr e) (elBytes c.g.sew))).isSome))

/-- `LDFF` (R208). -/
def execLdff (f : MV) (s : State) : Out :=
  issue 4 s (fun c => do
    let o := bankG f.vb f.vr c.g.grp
    groupsFit c [o]
    let base := addr64 (c.sn f.sb) (sext 5 f.vx * 128)
    let addr := contig base c.g.sew
    let pred := pmPred c f.pm
    let els := activeEls c pred
    let u := whoOf s c
    memChecks c (some f.tk) (worst c c.g.sew (faultsOf c (els.take 1) (fun e => placeErr (placeOf s u .rd (addr e) (elBytes c.g.sew)))))
    let ff (vl : Nat) : Option FfLoad := some { w := c.g.sew, idx := o.idx, n := o.n, vl := vl, ta := c.g.ta, act := c.run.aset.toNat, first := els.headD 0 }
    match truncAt s u c addr els with
    | some k =>
      let s1 := updCtxG c (fun g => { g with fft := true }) s
      return vecLoadFf (ff k) c o (els.filter (· < k)) pred k addr f.tk [⟨locVl, 2 ^ 64 - 1, k⟩] none s1
    | none => return vecLoadFf (ff c.g.vl) c o els pred c.g.vl addr f.tk [] none s)

/-- `LDR` (R209): elements on pages not resident read zero and set their bit of mK, a helper lane's among them; at SEW 4 the elements from
1,024 on have no bit there, and only set RPZ. (DESIGN CHOICE, log entry 127) -/
def execLdr (r m b sb k p : Nat) (s : State) : Out :=
  issue 4 s (fun c => do
    let o := bankG b r c.g.grp
    groupsFit c [o]
    let base := c.sn sb
    let addr := contig base c.g.sew
    let pred := pmPred c p
    let els := activeEls c pred
    let u := whoOf s c
    memChecks c (some k) (worst c c.g.sew (faultsOf c els (fun e => placeErr (placeOf s u .rd (addr e) (elBytes c.g.sew)))))
    let gone (e : Nat) : Bool := pageGone s u (addr e)
    let away := els.filter gone
    let bitsOf (l : List Nat) : Nat := (l.filter (· < 1024)).foldl (fun x e => x ||| 2 ^ e) 0
    let extra := away.flatMap (fun e => wrElt o c.g.sew e 0) ++
      [⟨locM m, bitsOf (els.filter (fun e => gone e || helperZero s u c addr e)), bitsOf away⟩]
    let s1 := if away.isEmpty then s else updCtxG c (fun g => { g with rpz := true }) s
    return vecLoad c o (els.filter (fun e => !gone e)) pred c.g.vl addr k extra (some m) s1)

/-- The checks of a scalar load of 8 bytes (R199, R204). -/
def scalarCheck (c : Ctx) (ptr tok : Nat) (s : State) : Except Trap Unit := memChecks c (some tok) (placeErr (placeOf s (whoOf s c) .rd ptr 8))

/-- A scalar load of 8 bytes issued (R204, R212). -/
def scalarIssue (c : Ctx) (d ptr tok : Nat) (s : State) : State :=
  issueLoad c { tok := some tok, op := .load none, els := [(0, { ptr := ptr, n := 8, nib := none, dst := .s d })]
                dst := if d = 0 then [] else [(locS d, locS d)] } [] s

/-- `LD` (R204). -/
def execLd (d b k : Nat) (i : Int) (s : State) : Out :=
  issue 4 s (fun c => do
    let ptr := addr64 (c.sn b) (i * 8)
    scalarCheck c ptr k s
    return scalarIssue c d ptr k s)

/-! ### Stores -/

/-- A store issued: its space-1 elements as requests of their own when nothing holds them back, the rest through the store queue,
from which it passes at once when nothing holds it (R186, R199, R200). -/
def issueStore (c : Ctx) (els : Tab StEl) (s : State) : State :=
  if els.isEmpty then s
  else
    let u := whoOf s c
    let hid := s.nextId
    let s1 := countLines c (els.map (fun (e : Nat × StEl) => e.2.ptr)) s
    let net := els.filter (fun (e : Nat × StEl) => bits e.2.ptr 62 60 == 1)
    let free := net.all (fun e => !(c.g.noteLanes hid (threads c)).storeWaits s u hid e.2)
    let rest := if free then els.filter (fun (e : Nat × StEl) => bits e.2.ptr 62 60 != 1) else els
    let s2 := if rest.isEmpty then { s1 with nextId := hid + 1 } else hold c (fun id => .store id rest) s1
    if free && !net.isEmpty then newReqs ((storeReqs u.gid u.core u.part (net.map (·.2))).map (fun r => { r with po := hid })) s2 else s2

/-- Element `e` of a vector store. -/
def vecSt (c : Ctx) (o : VOp) (addr : Nat → Nat) (e : Nat) : Nat × StEl :=
  (e, { ptr := addr e, n := elBytes c.g.sew, nib := if c.g.sew = 4 then some (e % 2) else none, val := elt c o c.g.sew e })

/-- The elements of a store that write: those of live lanes (R88). -/
def liveEls (c : Ctx) (els : List Nat) : List Nat := els.filter (fun e => !helperEl c e)

/-- A vector store to given addresses (R201, R203). -/
def vecStore (c : Ctx) (o : VOp) (els : List Nat) (addr : Nat → Nat) (s : State) : Except Trap State := do
  let u := whoOf s c
  memChecks c none (worst c c.g.sew (faultsOf c els (fun e => placeErr (placeOf s u .wr (addr e) (elBytes c.g.sew)))))
  return issueStore c ((liveEls c els).map (vecSt c o addr)) s

/-- `STV` (R205). -/
def execStv (f : MV) (s : State) : Out :=
  issue 4 s (fun c => do
    let o := bankG f.vb f.vr c.g.grp
    groupsFit c [o]
    let base := addr64 (c.sn f.sb) (sext 5 f.vx * 128)
    vecStore c o (activeEls c (pmPred c f.pm)) (contig base c.g.sew) s)

/-- `STG` (R206). -/
def execStg (f : MV) (s : State) : Out :=
  issue 4 s (fun c => do
    need (c.g.sew != 4) .illegal
    let o := bankG f.vb f.vr c.g.grp
    let ix := bankG f.vb f.vx (indexRegs c)
    groupsFit c [ix, o]
    vecStore c o (activeEls c (pmPred c f.pm)) (gatherAddr c ix (c.sn f.sb)) s)

/-- `ST` (R204). -/
def execSt (d b : Nat) (i : Int) (s : State) : Out :=
  issue 4 s (fun c => do
    let ptr := addr64 (c.sn b) (i * 8)
    memChecks c none (placeErr (placeOf s (whoOf s c) .wr ptr 8))
    return issueStore c [(0, ⟨ptr, 8, none, c.sn d⟩)] s)

/-! ### Atomics -/

/-- The space-1 elements of an atomic go to the fabric engine at its issue when nothing holds the instruction back (R377). -/
def offerAtomic (gid pid : Nat) (s : State) : State :=
  match whoOfGid s gid, s.groups.find gid, pendAt s gid pid with
  | some u, some g, some p => match p.op with
    | .atomic w op vr els => if g.atomicFree s u pid w vr p els then atomicNet u pid w op vr els s else s
    | _ => s
  | _, _, _ => s

/-- A vector atomic (R210); `op` as in R367. -/
def atomic (op : Nat) (f : MA) (s : State) : Out :=
  issue 4 s (fun c => do
    let w := c.g.sew
    need (w == 32 || w == 64) .illegal
    let G := c.g.grp
    let o := bankG f.vb f.vr G
    let ix := bankG f.vb f.vx G
    let nv : VOp := ⟨o.idx + G, G, false⟩
    need (apart o ix) .overlap
    groupsFit c ([o, ix] ++ if op = 2 then [nv] else [])
    let u := whoOf s c
    let els := activeEls c (fun _ => true)
    let addr := gatherAddr c ix (c.sn f.sb)
    memChecks c (some f.tk) (worst c w (faultsOf c els (fun e => placeErr (placeOf s u .at (addr e) (w / 8)))))
    let at' := els.map (fun e => ({ e := e, ptr := addr e, v := elt c o w e, nv := if op = 2 then elt c nv w e else 0
                                    helper := helperEl c e } : AtEl))
    let live := at'.filter (fun x => !x.helper)
    let pid := s.nextId
    let p : Pend := {
      tok := some f.tk, op := .atomic w op o.idx at'
      wrs := loadPolicy c o w c.g.vl (fun _ => true) ++ clearTags o
      dst := els.flatMap (wordsOfEl o w) ++ (loadPolicy c o w c.g.vl (fun _ => true) ++ clearTags o).map (fun x => (x.loc, x.loc))
      behind := c.g.acqIds (threads c), bank := at'.any (fun x => bits x.ptr 62 60 == 2 || bits x.ptr 62 60 == 3) }
    let s1 := offerAtomic c.run.gid pid (addPend c p (countLines c (live.map (·.ptr)) s))
    let away := live.any (fun e => match placeOf s u .at e.ptr (w / 8) with
      | .ok (.away _) => true
      | _ => false)
    if at'.isEmpty then return finishIfDone c.run.gid pid s1
    else if away then return hold c (fun id => .atomic id pid) s1
    else return s1)

/-- `AT.ADD` (R210). -/
def execAtAdd (f : MA) (s : State) : Out := atomic 0 f s
/-- `AT.SWAP` (R210). -/
def execAtSwap (f : MA) (s : State) : Out := atomic 1 f s
/-- `AT.CAS` (R210). -/
def execAtCas (f : MA) (s : State) : Out := atomic 2 f s
/-- `AT.FADD` (R210). -/
def execAtFadd (f : MA) (s : State) : Out := atomic 3 f s
/-- `AT.AND` (R210). -/
def execAtAnd (f : MA) (s : State) : Out := atomic 4 f s
/-- `AT.OR` (R210). -/
def execAtOr (f : MA) (s : State) : Out := atomic 5 f s
/-- `AT.MAX` (R210). -/
def execAtMax (f : MA) (s : State) : Out := atomic 6 f s
/-- `AT.MAXU` (R210). -/
def execAtMaxu (f : MA) (s : State) : Out := atomic 7 f s

/-! ### Fences and ordered accesses -/

/-- Pending operations that have not returned their values. -/
def Group.unservedIds (g : Group) : List Nat := (g.pend.filter (fun (e : Nat × Pend) => e.2.unserved)).map (·.1)
/-- Pending operations whose stores are not performed. -/
def Group.storingIds (g : Group) : List Nat := (g.pend.filter (fun (e : Nat × Pend) => e.2.storing)).map (·.1)
/-- Entries of the store queue. -/
def Group.heldIds (g : Group) : List Nat := (g.stq ++ g.stqWait).map (·.id)

/-- Later accesses of some lanes stay behind those of these that the instruction's own lanes issued (R176, R180, R184, R212). -/
def stayBehind (c : Ctx) (lanes : Nat) (f : Group → List Nat) (s : State) : State :=
  updCtxG c (fun g =>
    let mine := (f g).filter (fun i => g.blocks i && (g.lanesOfId i &&& threads c) != 0)
    { g with acq := (g.acq.filter (fun a => g.blocks a.1) ++ mine.map (fun i => (i, lanes))).eraseDups }) s

/-- Every lane of a group: a fence holds the group's later accesses (R212). -/
def allLanes : Nat := 2 ^ 32 - 1

/-- A fence that is a release and an acquire: it waits in the store queue, and later accesses stay behind it and what it covers. -/
def fenceBoth (c : Ctx) (ord sc : Nat) (s : State) : State :=
  stayBehind c allLanes (fun g => g.unservedIds ++ g.heldIds ++ g.storingIds) (hold c (fun id => .rel id (.fence ord sc)) s)

/-- `FENCE` (R212): `ord` 0 acquire, 1 release, 2 both, 3 seqcst. -/
def fence (ord sc : Nat) (s : State) : Out :=
  issue 4 s (fun c => do
    need (decide (sc < 7)) .illegal
    return if ord = 0 then stayBehind c allLanes Group.unservedIds s
      else if ord = 1 then hold c (fun id => .rel id (.fence ord sc)) s
      else fenceBoth c ord sc s)

/-- `FENCE.ACQ` (R212). -/
def execFenceAcq (sc : Nat) (s : State) : Out := fence 0 sc s
/-- `FENCE.REL` (R212). -/
def execFenceRel (sc : Nat) (s : State) : Out := fence 1 sc s
/-- `FENCE.AR` (R212). -/
def execFenceAr (sc : Nat) (s : State) : Out := fence 2 sc s
/-- `FENCE.SC` (R212). -/
def execFenceSc (sc : Nat) (s : State) : Out := fence 3 sc s

/-- `FENCE.ACK` (R212): it waits for the space-1 stores and atomics issued before it, held ones included, and for nothing else. -/
def execFenceAck (k : Nat) (s : State) : Out :=
  issue 4 s (fun c => do
    bindable c k
    return ackGroup c.run.gid (addPend c { tok := some k, op := .fenceAck } s))

/-- The context with the group as a state holds it. -/
def Ctx.at' (c : Ctx) (s : State) : Ctx := { c with g := (s.groups.find c.run.gid).getD c.g }

/-- An acquire load issued: later accesses of its lanes stay behind it (R180, R212). -/
def acquireLoad (c : Ctx) (d ptr k : Nat) (s : State) : State :=
  stayBehind c (threads c) (fun g => g.unservedIds.filter (fun i => decide (s.nextId ≤ i))) (scalarIssue c d ptr k s)

/-- `LDA` (R212). -/
def execLda (d m b k : Nat) (s : State) : Out :=
  issue 4 s (fun c => do
    need (decide (m < 7)) .illegal
    scalarCheck c (c.sn b) k s
    return acquireLoad c d (c.sn b) k s)
/-- `LDA.SC` (R178, R212): an acquire load between two seqcst fences of its scope. -/
def execLdaSc (d m b k : Nat) (s : State) : Out :=
  issue 4 s (fun c => do
    need (decide (m < 7)) .illegal
    scalarCheck c (c.sn b) k s
    let s1 := fenceBoth c 3 m s
    return fenceBoth c 3 m (acquireLoad (c.at' s1) d (c.sn b) k s1))

/-- The checks of a release store, and its address (R199, R212). -/
def orderedCheck (c : Ctx) (m b : Nat) (s : State) : Except Trap Nat := do
  need (decide (m < 7)) .illegal
  memChecks c none (placeErr (placeOf s (whoOf s c) .wr (c.sn b) 8))
  return c.sn b

/-- A release store (R186, R212). -/
def orderedStore (c : Ctx) (d m ptr x : Nat) (s : State) : State :=
  hold c (fun id => .rel id (.store ⟨ptr, 8, none, c.sn d⟩ m x)) (countLines c [ptr] s)

/-- `STL` (R212). -/
def execStl (d m b : Nat) (s : State) : Out :=
  issue 4 s (fun c => do
    let ptr ← orderedCheck c m b s
    return orderedStore c d m ptr 0 s)
/-- `STL.SC` (R178, R212): a release store between two seqcst fences of its scope. -/
def execStlSc (d m b : Nat) (s : State) : Out :=
  issue 4 s (fun c => do
    let ptr ← orderedCheck c m b s
    return fenceBoth c 3 m (orderedStore c d m ptr 1 (fenceBoth c 3 m s)))

/-! ### Buffer records -/

/-- A buffer record (R213). -/
structure BufRec where
  base : Nat
  extent : Nat
  s1 : Int
  s0 : Int
  rowlen : Nat
  bmode : Nat
  width : Nat
  zero : Bool
  deriving DecidableEq, Repr

/-- The record in sR to sR + 3. -/
def bufRec (c : Ctx) (r : Nat) : BufRec :=
  let x1 := c.sn (r + 1)
  let x2 := c.sn (r + 2)
  let x3 := c.sn (r + 3)
  { base := c.sn r, extent := x1 % 2 ^ 48, s1 := sext 32 (x2 / 2 ^ 32), s0 := sext 32 x2, rowlen := bits x3 31 16
    bmode := bits x3 5 4, width := x3 % 4
    zero := x1 / 2 ^ 48 == 0 && x3 / 2 ^ 32 == 0 && bits x3 15 6 == 0 && bits x3 3 2 == 0 }

/-- Byte offset of element `e` from the record's base (R214). -/
def BufRec.off (b : BufRec) (i : Int) : Int :=
  if b.rowlen = 0 then i * b.s0
  else
    let row := i / (b.rowlen : Int)
    row * b.s1 + (i - row * b.rowlen) * b.s0
/-- The element lies within the extent. -/
def BufRec.inb (b : BufRec) (off : Int) (n : Nat) : Bool := decide (0 ≤ off) && decide (off + n ≤ b.extent)
/-- Its pointer. -/
def BufRec.addr (b : BufRec) (off : Int) : Nat := setBits b.base 0 60 (wrap 60 ((b.base % 2 ^ 60 : Nat) + off))

/-- The checks a record must pass (R214). -/
def BufRec.legal (b : BufRec) (w : Nat) : Bool := b.zero && b.bmode != 3 && 8 * 2 ^ b.width == w

/-- The fault of an element under a record: BOUNDS ranks between PERM and LTYPE (R154, R214). -/
def bufFault (s : State) (u : Who) (a : Acc) (b : BufRec) (off : Int) (n : Nat) : Option Trap :=
  let out := !b.inb off n
  if out ∧ b.bmode = 2 then none
  else match placeErr (placeOf s u a (b.addr off) n) with
    | some t => if out ∧ b.bmode = 1 ∧ t.code = 0x0E then some { code := 0x0A, addr := b.addr off } else some t
    | none => if out ∧ b.bmode = 1 then some { code := 0x0A, addr := b.addr off } else none

/-- The elements a record gives an access to. -/
def bufTouches (b : BufRec) (off : Int) (n : Nat) : Bool := b.inb off n || b.bmode == 0

/-- `LDB` (R214). -/
def execLdb (v m i k : Nat) (s : State) : Out :=
  issue 4 s (fun c => do
    let w := c.g.sew
    let b := bufRec c (4 * m)
    need (w != 4) .illegal
    need (b.legal w) (.illegal 1)
    let o : VOp := ⟨v, c.g.grp, false⟩
    groupsFit c [o]
    let off (e : Nat) : Int := b.off ((c.s i).toInt + e)
    let els := activeEls c (fun _ => true)
    memChecks c (some k) (worst c w (faultsOf c els (fun e => bufFault s (whoOf s c) .rd b (off e) (w / 8))))
    let extra := (els.filter (fun e => !bufTouches b (off e) (w / 8))).flatMap (fun e => wrElt o w e 0)
    return vecLoad c o (els.filter (fun e => bufTouches b (off e) (w / 8))) (fun _ => true) c.g.vl (fun e => b.addr (off e)) k extra none s)

/-- `STB` (R214). -/
def execStb (v m i : Nat) (s : State) : Out :=
  issue 4 s (fun c => do
    let w := c.g.sew
    let b := bufRec c (4 * m)
    need (w != 4) .illegal
    need (b.legal w) (.illegal 1)
    let o : VOp := ⟨v, c.g.grp, false⟩
    groupsFit c [o]
    let off (e : Nat) : Int := b.off ((c.s i).toInt + e)
    let els := activeEls c (fun _ => true)
    memChecks c none (worst c w (faultsOf c els (fun e => bufFault s (whoOf s c) .wr b (off e) (w / 8))))
    return issueStore c (((liveEls c els).filter (fun e => bufTouches b (off e) (w / 8))).map (vecSt c o (fun e => b.addr (off e)))) s)

/-! ### The weight path -/

/-- A pseudo-register whose words collect what a table load or an expansion reads. -/
def scratchReg : Nat := 3000

/-- A codebook slot of a core. -/
def Core.slot (q : Core) (k : Nat) : CbSlot := q.cb.get {} k
/-- A codebook slot changed. -/
def Core.setSlot (q : Core) (k : Nat) (x : CbSlot) : Core := { q with cb := q.cb.set {} k x }

/-- The expansions of a core that use slot `k` as it stands after at most `n` writes and are still pending (R218). -/
def ldcbPending (s : State) (core k n : Nat) : Bool :=
  s.groups.any (fun e => (match s.cohorts.find e.2.cid with
    | some co => co.core == core
    | none => false) && e.2.pend.any (fun p => match p.2.op with
      | .ldcb j m _ _ => j == k && decide (m ≤ n)
      | _ => false))

/-- A `CBLOAD` in its slot's order whose table has arrived has to wait for expansions: counted once (R216, R218). -/
def noteHeld (core k gid pid : Nat) (s : State) : State :=
  let x := (s.core core).slot k
  match (s.groups.find gid).bind (fun g => g.pend.find pid) with
  | some p =>
    if p.left = 0 ∧ p.els.isEmpty ∧ !p.noted ∧ x.loads.contains (gid, pid) ∧
        ldcbPending s core k (x.ver + x.loads.findIdx (fun l => l == (gid, pid))) then
      (bumpMcnt core 6 1 s).updG gid (fun g => { g with pend := g.pend.upd pid (fun p => { p with noted := true }) })
    else s
  | none => s

/-- `CBLOAD` (R217, R218): entries as elements of two bytes; a third one waits at the end of its run. -/
def execCbload (w k sb t : Nat) (s : State) : Out :=
  issue 4 s (fun c => do
    let b := w + 1
    let ptr := c.sn sb
    let u := whoOf s c
    let els := (List.range (2 ^ b)).map (fun j => (j, ({ ptr := addr64 ptr (2 * j : Nat), n := 2, nib := none,
                                                          dst := .v scratchReg (32 * j) 16 } : LdEl)))
    memChecks c (some t) (els.findSome? (fun e => placeErr (placeOf s u .rd e.2.ptr 2)))
    let pid := s.nextId
    let core := c.co.core
    let x := (s.core core).slot k
    let ok := decide (x.loads.length < 2)
    let s1 := issueLoad c { tok := some t, op := .cbload k b, els := els, accepted := ok } (c.g.unservedIds ++ c.g.heldIds ++ c.g.storingIds) s
    if ok then
      return noteHeld core k c.run.gid pid
        (s1.updCore core (fun q => q.setSlot k { x with loads := x.loads ++ [(c.run.gid, pid)] }))
    else return s1.updR c.slot (fun r => { r with waits := r.waits ++ [.accept pid] }))

/-- `LDCB` (R219): the bytes its active elements need as elements. -/
def execLdcb (d k sb t : Nat) (s : State) : Out :=
  issue 4 s (fun c => do
    need (c.g.sew == 16) .illegal
    let o : VOp := ⟨d, c.g.grp, false⟩
    groupsFit c [o]
    let u := whoOf s c
    let core := c.co.core
    let x := (s.core core).slot k
    let width : Nat := match x.loads.getLast? with
      | some (gid, pid) => match (s.groups.find gid).bind (fun g => g.pend.find pid) with
        | some p => match p.op with
          | .cbload _ b => b
          | _ => x.b
        | none => x.b
      | none => x.b
    let els := activeEls c (fun _ => true)
    let need' (e : Nat) : List Nat := (List.range (((width * e + width - 1) / 8) + 1 - width * e / 8)).map (fun i => width * e / 8 + i)
    let ptr := c.sn sb
    memChecks c (some t) (worst c 16 (faultsOf c els (fun e =>
      (need' e).findSome? (fun (k : Nat) => placeErr (placeOf s u .rd (addr64 ptr (k : Nat)) 1)))))
    let bad (k : Nat) : Bool := match placeOf s u .rd (addr64 ptr k) 1 with
      | .error _ => true
      | .ok _ => pageGone s u (addr64 ptr k) && !(liveEls c els).any (fun e => (need' e).contains k)
    let ks := (els.flatMap need').eraseDups.filter (fun k => !bad k)
    let wants := x.ver + x.loads.length
    let p : Pend := {
      tok := some t, op := .ldcb k wants o.idx els
      els := ks.map (fun j => (j, { ptr := addr64 ptr j, n := 1, nib := none, dst := .v scratchReg (32 * j) 8
                                    helper := !(liveEls c els).any (fun e => (need' e).contains j) }))
      wrs := loadPolicy c o 16 c.g.vl (fun _ => true) ++ clearTags o
      dst := els.flatMap (wordsOfEl o 16) ++ (loadPolicy c o 16 c.g.vl (fun _ => true) ++ clearTags o).map (fun x => (x.loc, x.loc)) }
    return (if x.ver < wants then bumpMcnt core 5 1 else id) (issueLoad c p [] s))

/-! ### Prefetch and counters -/

/-- A line is present at a level for a core's prefetch: in its slice, or in the LLC (R215). -/
def linePresent (s : State) (core slice lvl line : Nat) : Bool :=
  (if lvl = 0 then s.l1.any (fun x => x.slice == slice && x.line == line) else s.llc.contains line) ||
  s.cores.any (fun e => (lvl == 1 || clusterOf e.1 == clusterOf core) && e.2.pf.contains (line, lvl))

/-- One line of a prefetch (R215): dropped outside space 0, on pages of other states, without permission, or when present at its level. A
line of a lattice page, which no slice holds (R314), goes to the LLC. One whose tokens, or those of a table line of its walk, cannot be
had (R169, R171) stays outstanding without its line. (DESIGN CHOICE, log entry 49) -/
def prefetchLine (c : Ctx) (u : Who) (l : Nat) (s : State) (ptr : Nat) : State :=
  if bits ptr 62 60 ≠ 0 then s
  else match xlate s u .rd (ptr % 2 ^ 60) with
    | .error _ => s
    | .ok x =>
      let st := x.leaf.st
      let lvl := if st = 5 then 1 else l
      let line := x.leaf.pa (dieOf u.core) (ptr % 2 ^ 60) / 128
      let slice := sliceOf u.core ptr
      if !(st == 1 || st == 3 || st == 4 || st == 5) ∨ (permFault u .rd (ptr % 2 ^ 60) x.leaf).isSome ∨
          linePresent s c.co.core slice lvl line then s
      else
        let s1 := (bumpMcnt c.co.core 0 1 s).updCore c.co.core (fun q => { q with pf := (line, lvl) :: q.pf })
        if walkWaits s u s.nextId ptr || (contended s && st != 5 && lineBusy s u s.nextId slice line) then s1
        else
          let s2 := install u .rd (ptr % 2 ^ 60) s1
          if lvl = 0 then
            fillLine { slice := slice, tag := ptr % 2 ^ 60 / 128, part := u.part, asid := u.asid, gen := asidGen s u.part u.asid, mgen := x.leaf.mgen
                       rd := x.leaf.rd, wr := x.leaf.wr, x := x.leaf.x, line := line } (llcFill line (takeTokens slice line false s2))
          else llcFill line (if st = 5 then s2 else lendTokens slice line false s2)

/-- `PREF` (R215). -/
def execPref (cnt l sb : Nat) (s : State) : Out :=
  issue 4 s (fun c =>
    let base := c.sn sb / 128 * 128
    .ok ((List.range (cnt + 1)).foldl (fun s i => prefetchLine c (whoOf s c) l s (addr64 base (128 * i : Nat))) s))

/-- `MCNT` (R216). -/
def execMcnt (d k : Nat) (s : State) : Out :=
  issue 4 s (fun c => .ok (commitW c (wrS d (BitVec.ofNat 64 ((s.core c.co.core).mcnt.get 0 k))) s))

/-! ### Remote-page instructions -/

/-- The checks of a page request (R360): the leaf, or the fault. -/
def pageCheck (s : State) (u : Who) (wr : Bool) (ptr : Nat) : Except Trap Leaf :=
  if bits ptr 62 60 ≠ 0 then .error { code := 0x07, detail := 8, addr := ptr }
  else match xlate s u (if wr then .wr else .rd) (ptr % 2 ^ 60) with
    | .error d => .error { code := 0x07, detail := d, addr := ptr }
    | .ok x => match permFault u (if wr then .wr else .rd) (ptr % 2 ^ 60) x.leaf with
      | some d => .error { code := 0x09, detail := d, addr := ptr }
      | none => .ok x.leaf

/-- The state of a page asks for Meridian (R360). -/
def pageNeeds (st : Nat) (wr : Bool) : Bool := st == 2 || st == 6 || (st == 3 && wr)

/-- `PAGEREQ` and `PAGEREQ.W` (R360). (DEDUCED, log entry 17) -/
def pagereq (wr : Bool) (b k : Nat) (s : State) : Out :=
  issue 4 s (fun c =>
    let ptr := c.sn b
    let u := whoOf s c
    match pageCheck s u wr ptr with
    | .error t => if c.g.tokPending k then .error .token else .error t
    | .ok l => do
      bindable c k
      let pid := s.nextId
      let s1 := addPend c { tok := some k, op := .pagereq wr ptr } s
      return if pageNeeds l.st wr then
          record u (ptr % 2 ^ 60 / 2 ^ 16) { kind := if wr then 6 else 5, unit := c.g.idx, token := k, gid := c.run.gid, op := pid } false s1
        else finish c.run.gid pid s1)

/-- `PAGEREQ` (R360). -/
def execPagereq (b k : Nat) (s : State) : Out := pagereq false b k s
/-- `PAGEREQ.W` (R360). -/
def execPagereqW (b k : Nat) (s : State) : Out := pagereq true b k s

/-- `PAGEHINT` and `PAGEHINT.W` (R361): what would fault drops the hint. -/
def pagehint (wr : Bool) (b : Nat) (s : State) : Out :=
  issue 4 s (fun c =>
    let ptr := c.sn b
    let u := whoOf s c
    let vpn := ptr % 2 ^ 60 / 2 ^ 16
    match pageCheck s u wr ptr with
    | .error _ => .ok s
    | .ok l =>
      let a := 65536 * u.part + u.asid
      if pageNeeds l.st wr ∧ (s.chains.find (keyOf s u.part u.asid vpn)).isNone ∧ queueLen s (dieOf u.core) < 768 ∧
          framesUsed s a < quotaOf s a then
        .ok (record u vpn { kind := 7, unit := c.g.idx, gid := c.run.gid, op := s.nextId } wr s)
      else .ok s)

/-- `PAGEHINT` (R361). -/
def execPagehint (b : Nat) (s : State) : Out := pagehint false b s
/-- `PAGEHINT.W` (R361). -/
def execPagehintW (b : Nat) (s : State) : Out := pagehint true b s

/-- `PAGEREL` (R362). -/
def execPagerel (b k : Nat) (s : State) : Out :=
  issue 4 s (fun c =>
    let ptr := c.sn b
    let u := whoOf s c
    let chk : Except Trap Unit :=
      if bits ptr 62 60 ≠ 0 then .error { code := 0x07, detail := 8, addr := ptr }
      else match xlate s u .rd (ptr % 2 ^ 60) with
        | .error d => .error { code := 0x07, detail := d, addr := ptr }
        | .ok _ => .ok ()
    match chk with
    | .error t => if c.g.tokPending k then .error .token else .error t
    | .ok _ => do
      bindable c k
      let pid := s.nextId
      let s1 := addPend c { tok := some k, op := .pagerel ptr } s
      return if c.g.heldAt s u pid (ptr % 2 ^ 60 / 2 ^ 16 * 2 ^ 16) 65536 ∨ pagerelBusy s1 c.run.gid ptr then hold c (fun id => .rel id (.op pid)) s1
        else actPagerel c.run.gid pid ptr s1)

end Sys2Proof.Machine
end

