-- ==== Sys2Proof/Machine/Matrix.lean ====
section
/-! DEFINITION. The matrix engine: fragment loads, steps and loops, z-tile access, team transfers, the error log (R245 to R270). -/

namespace Sys2Proof.Machine

/-- A matrix instruction: `MATRIX` groups only (R246). -/
def mxIssue (s : State) (early : Ctx → Option Trap) (f : Ctx → Except Trap State) : Out := issueRole .matrix 4 s early f

/-! ### Fragment loads (R264) -/

/-- The fault of `n` bytes at a pointer of a fragment load: space 3 is not accepted. -/
def fragErr (s : State) (u : Who) (ptr n : Nat) : Option Trap :=
  if bits ptr 62 60 = 3 then some { code := 0x07, detail := 8, addr := ptr } else placeErr (placeOf s u .rd ptr n)

/-- The locations of registers from `r`, words or scale bytes, as one range. -/
def wordRange (r n : Nat) : Nat × Nat := (locV r 0, locV (r + n - 1) 31)
/-- Scale bytes of registers as a range. -/
def scaleRange (r n : Nat) : Nat × Nat := (locScale r 0, locScale (r + n - 1) 7)
/-- Tags of registers as a range. -/
def tagRange (r n : Nat) : Nat × Nat := (locTag r, locTag (r + n - 1))

/-- `MXLDA` and `MXLDB`: `rows` rows of 32 or 64 bytes, as elements of eight bytes. -/
def fragLoad (rows d cc sr k : Nat) (s : State) : Out :=
  mxIssue s (fun _ => if 2 ≤ cc then some .illegal else if 63 ≤ sr then some (.illegal 4) else none) (fun c => do
    let kb := 32 * 2 ^ cc
    let n := rows * kb / 128
    groupsFit c [⟨d, n, false⟩]
    let base := c.sn sr
    let stride := (c.s (sr + 1)).toInt
    let u := whoOf s c
    let row (r : Nat) : Nat := addr64 base ((r : Int) * stride)
    memChecks c (some k) ((List.range rows).findSome? (fun r =>
      (List.range (kb / 32)).findSome? (fun (i : Nat) => fragErr s u (addr64 (row r) (32 * i : Nat)) 32)))
    let els := (List.range (rows * kb / 8)).map (fun i =>
      let r := 8 * i / kb
      (i, ({ ptr := addr64 (row r) (8 * i % kb : Nat), n := 8, nib := none
             dst := .v (d + 8 * i / 128) (8 * (8 * i % 128)) 64 } : LdEl)))
    let tags := clearTags ⟨d, n, false⟩
    return issueLoad c { tok := some k, op := .load none, els := els, wrs := tags, dst := [wordRange d n, tagRange d n] } [] s)

/-- `MXLDA` (R264). -/
def execMxlda (d cc sr k : Nat) (s : State) : Out := fragLoad 64 d cc sr k s
/-- `MXLDB` (R264). -/
def execMxldb (d cc sr k : Nat) (s : State) : Out := fragLoad 96 d cc sr k s

/-- `MXLDS` (R264): scale sidecars only. -/
def execMxlds (d cc sr k : Nat) (s : State) : Out :=
  mxIssue s (fun _ => if 3 ≤ cc then some .illegal else none) (fun c => do
    let n := 16 + 8 * cc
    groupsFit c [⟨d, n, false⟩]
    let base := c.sn sr
    let u := whoOf s c
    memChecks c (some k) ((List.range n).findSome? (fun (i : Nat) => fragErr s u (addr64 base (8 * i : Nat)) 8))
    let els := (List.range n).map (fun i => (i, ({ ptr := addr64 base (8 * i : Nat), n := 8, nib := none, dst := .sc (d + i) } : LdEl)))
    return issueLoad c { tok := some k, op := .load none, els := els, dst := [scaleRange d n] } [] s)

/-! ### The descriptor (R256 to R258) -/

/-- Registers of an A fragment (R251). -/
def MxJob.aRegs (j : MxJob) : Nat := if j.sparse then 32 else 16
/-- Registers of a B fragment (R251, R254). -/
def MxJob.bRegs (j : MxJob) : Nat := if j.fmt = 10 then 3 * j.m + 2 else 24
/-- Registers of the metadata (R260). -/
def MxJob.qRegs (j : MxJob) : Nat := if j.sparse then 12 else 0
/-- Bytes of an A row (R252). -/
def MxJob.kb (j : MxJob) : Nat := if j.sparse then 64 else 32
/-- Width of an element (R252). -/
def MxJob.w (j : MxJob) : Nat := if j.fmt < 2 then 16 else if j.fmt = 8 then 4 else 8
/-- Values of a B column: K of a dense step (R251). -/
def MxJob.k (j : MxJob) : Nat := 256 / j.w

/-- The job of a descriptor, or none where it is malformed (R256, R257). (DEDUCED, log entry 54) -/
def mxJob (zt : Nat) (sparse loop : Bool) (d0 d1 : Nat) : Option MxJob :=
  let fmt := bits d0 25 22
  let bm := bits d0 21 19
  let bad := bits d0 12 0 ≠ 0 ∨ (!sparse ∧ bits d0 43 34 ≠ 0) ∨ (!loop ∧ bits d0 33 26 ≠ 0) ∨ 11 ≤ fmt ∨
    (fmt = 10 ∧ bm = 0) ∨ (fmt ≠ 10 ∧ bm ≠ 0) ∨ ((fmt = 0 ∨ fmt = 1 ∨ fmt = 10) ∧ d0.testBit 13) ∨
    (loop ∧ (bits d1 15 0 ≠ 0 ∨ (!sparse ∧ bits d1 31 16 ≠ 0)))
  let inc (hi lo : Nat) : Int := if loop then sext 16 (bits d1 hi lo) else 0
  if bad then none
  else some {
    zt := zt, a := bits d0 63 54, b := bits d0 53 44, q := bits d0 43 34, ai := inc 63 48, bi := inc 47 32, qi := inc 31 16
    steps := bits d0 33 26 + 1, fmt := fmt, m := bm + 1, zi := d0.testBit 14, scl := d0.testBit 13, sparse := sparse, tagA := 0
    rows := 2 ^ 64 - 1, next := 0, d0 := d0, loop := loop }

/-- First registers of a step's A, B and metadata sets (R258). -/
def MxJob.baseA (j : MxJob) (n : Nat) : Int := j.a + n * j.ai
/-- As `baseA`, for B. -/
def MxJob.baseB (j : MxJob) (n : Nat) : Int := j.b + n * j.bi
/-- As `baseA`, for the metadata. -/
def MxJob.baseQ (j : MxJob) (n : Nat) : Int := j.q + n * j.qi

/-- The first index of a set outside the window. -/
def firstOutside (w : Nat) (base : Int) (n : Nat) : Option Int :=
  ((List.range n).map (fun (i : Nat) => base + i)).find? (fun x => decide (x < 0) || decide ((w : Int) ≤ x))

/-- The first offending index in scan order (R258). -/
def MxJob.outside (w : Nat) (j : MxJob) : Option Int :=
  (List.range j.steps).findSome? (fun n =>
    (firstOutside w (j.baseA n) j.aRegs).or ((firstOutside w (j.baseB n) j.bRegs).or (firstOutside w (j.baseQ n) j.qRegs)))

/-- The registers of a set over all steps. -/
def allRegs (steps n : Nat) (base : Nat → Int) : List Nat :=
  ((List.range steps).flatMap (fun k => (List.range n).map (fun i => (base k).toNat + i))).eraseDups

/-! ### Pending z-tile instructions (R247, R250) -/

/-- The z-tile an operation acts on. -/
def POp.zt : POp → Option Nat
  | .mx j => some j.zt
  | .mxrdz _ z _ => some z
  | .mxwrz _ z _ _ => some z
  | .mxt z _ _ _ => some z
  | _ => none

/-- A pending operation of the machine. -/
def pendOf (s : State) (gid pid : Nat) : Option Pend := (s.groups.find gid).bind (fun g => g.pend.find pid)
/-- A pending operation changed. -/
def updPend (gid pid : Nat) (f : Pend → Pend) (s : State) : State := s.updG gid (fun g => { g with pend := g.pend.upd pid f })

/-- The z-tile instructions of a cohort that its engine has accepted and not completed. -/
def zPending (s : State) (co : Cohort) : Nat :=
  co.gids.foldl (fun n gid => n + (match s.groups.find gid with
    | some g => (g.pend.filter (fun (e : Nat × Pend) => e.2.accepted && e.2.op.zt.isSome)).length
    | none => 0)) 0

/-- The first of a tile's order: group, operation, its entry (R247). -/
def zHead (s : State) (co : Cohort) (zt : Nat) : Option (Nat × Nat × Pend) :=
  co.zq.findSome? (fun e => match pendOf s e.1 e.2 with
    | some p => if p.op.zt = some zt then some (e.1, e.2, p) else none
    | none => none)

/-- An instruction leaves its tile's order. -/
def zDrop (cid gid pid : Nat) (s : State) : State := s.updC cid (fun co => { co with zq := co.zq.filter (fun e => e != (gid, pid)) })

/-- A z-tile instruction of a group that has not yet its place. -/
def Group.zWaits (g : Group) : Option (Nat × Pend) := g.pend.find? (fun e => !e.2.accepted && e.2.op.zt.isSome)

/-- A z-tile instruction takes its place, or waits at the end of its run for room (R250). Behind an acquire that is still pending (R248), or
behind an earlier one of its group without a place (R247), it takes none yet; it waits for that as long as the cohort has room.
(DEDUCED, log entry 147) -/
def zEnter (c : Ctx) (p : Pend) (s : State) : State :=
  let pid := s.nextId
  let acq := c.g.acqIds (threads c)
  let room := decide (zPending s c.co < 8)
  if room && acq.isEmpty && c.g.zWaits.isNone then (addPend c p s).updC c.g.cid (fun co => { co with zq := co.zq ++ [(c.run.gid, pid)] })
  else
    let s1 := addPend c { p with accepted := false, behind := acq } s
    if room && !acq.isEmpty then s1 else s1.updR c.slot (fun r => { r with waits := r.waits ++ [.accept pid] })

/-- `ZTILE_QUEUE_ROOM` (R248, R250): a waiting instruction of a group is accepted once its acquires are done or, where it waited for room, its
run has ended and one of the eight is complete. -/
def execZtileQueueRoom (gid : Nat) (s : State) : Out :=
  .next (match s.groups.find gid with
    | none => s
    | some g => match s.cohorts.find g.cid with
      | none => s
      | some co =>
        match g.zWaits with
        | some (pid, p) =>
          if 8 ≤ zPending s co ∨ p.behind.any g.blocks ∨ (p.behind.isEmpty ∧ s.runs.any (fun r => r.2.gid == gid)) ∨ !co.resident then s
          else (updPend gid pid (fun p => { p with accepted := true }) s).updC g.cid (fun co => { co with zq := co.zq ++ [(gid, pid)] })
        | none => s)

/-! ### Issue of steps and loops (R258, R259, R261) -/

/-- The format a reconstruction of a B operand takes (R282). (DEDUCED, log entry 56) -/
def mxReconFmt (fmt : Nat) : Option Fmt :=
  match fmt with
  | 0 => some .bf16
  | 2 => some .e4m3
  | 4 => some .e4m3
  | _ => none

/-- A step or loop. The A tags are read before a Haar-tagged B register is reconstructed. (DESIGN CHOICE, log entry 130) -/
def mxMul (sparse loop : Bool) (z cc k : Nat) (s : State) : Out :=
  let job (c : Ctx) : Option MxJob := mxJob z sparse loop (c.sn cc) (if loop then c.sn (cc + 1) else 0)
  mxIssue s (fun c => if 63 ≤ cc then some .illegal else if (job c).isNone then some (.illegal 4) else none) (fun c =>
    match job c with
    | none => .error (.illegal 4)
    | some j => do
      need (decide (z < c.co.nz)) (.window z 2)
      match j.outside c.g.w with
      | some i => .error (.window (wrap 64 i))
      | none => .ok ()
      bindable c k
      let aTags := (allRegs j.steps j.aRegs j.baseA).map c.tag
      let t := aTags.headD 0
      need (aTags.all (· == t) && decide (t % 4 < 2)) (.domain 0)
      let planes := if j.fmt = 10 then 3 * j.m else 24
      let bs := allRegs j.steps planes j.baseB
      let hs := bs.filterMap (fun r =>
        let x := c.tag r
        if x % 4 = 1 then
          let b := haarBlock r (x / 4 % 8)
          some (r, x / 4 % 8, (List.range b.2).all (fun i => bs.contains (b.1 + i)))
        else none)
      let rc ← reconRegs c hs (mxReconFmt j.fmt)
      let haar := decide (t % 4 = 1)
      let j1 : MxJob := { j with tagA := if haar then t else 0
                                 rows := if haar then (c.m (bits (c.sn cc) 18 15)).toNat % 2 ^ 64 else 2 ^ 64 - 1 }
      let s1 := updCtxG c (fun g => g.orFlags rc.res.flags) (countRecon c.co.core rc (commitW c rc.res.wrs s))
      let regs := allRegs j.steps j.aRegs j.baseA ++ allRegs j.steps j.bRegs j.baseB ++ allRegs j.steps j.qRegs j.baseQ
      return zEnter c { tok := some k, op := .mx j1, src := regs.flatMap (fun r => [wordRange r 1, scaleRange r 1]) } s1)

/-- `MXSTEP` (R259). -/
def execMxstep (z cc k : Nat) (s : State) : Out := mxMul false false z cc k s
/-- `MXLOOP` (R259). -/
def execMxloop (z cc k : Nat) (s : State) : Out := mxMul false true z cc k s
/-- `MXSPSTEP` (R259, R260). -/
def execMxspstep (z cc k : Nat) (s : State) : Out := mxMul true false z cc k s
/-- `MXSPLOOP` (R259, R260). -/
def execMxsploop (z cc k : Nat) (s : State) : Out := mxMul true true z cc k s

/-! ### One step (R251 to R255, R259 to R263) -/

/-- What a step reads: a lane word and a scale byte of a register, the errors the engine has to replace (R267), by kind and place. An A or B
fragment fails in a word or a byte of a sidecar: 64 × the register's offset in the fragment + the lane, or + 32 + the byte. Kind 2 holds the
words of FMT 10's exponents, 64 × offset + lane, of the metadata, 4,096 more, and the bytes of B's sidecars, 8,192 + 64 × offset + byte. Kind 3
is a product, (96 × row + column) × 256 + its place, kind 4 an accumulator element, 96 × row + column. -/
structure MxRead where
  word : Nat → Nat → Nat
  scale : Nat → Nat → Nat
  bad : Nat → Nat → Bool

/-- A pending operation's late reads of its group (R249): a location overwritten since the issue holds either value. -/
def lateRead (tick : Nat) (g : Group) (p : Pend) (loc : Nat) : Nat :=
  choose tick loc (g.getLoc loc) ((p.olds.filter (fun o => o.1 == loc)).map (·.2))

/-- The format of an A element that is a floating-point one (R251). -/
def mxFmtA (fmt : Nat) : Fmt :=
  match fmt with
  | 0 => .bf16
  | 1 => .f16
  | 2 => .e4m3
  | 3 => .e4m3
  | 4 => .e5m2
  | 5 => .e5m2
  | 6 => .e3m2
  | 7 => .e2m3
  | _ => .e2m1
/-- The format of a B element that is a floating-point one (R251). -/
def mxFmtB (fmt : Nat) : Fmt :=
  match fmt with
  | 2 => .e4m3
  | 3 => .e5m2
  | 4 => .e4m3
  | n => mxFmtA n

/-- A two's-complement mantissa of `w` bits times a power of two (R33, R34). -/
def intElem (w x : Nat) (e : Int) : FVal :=
  let q := sext w x
  dyadic (decide (q < 0)) q.natAbs e

/-- An element with its MX scale: 0xFF makes it NaN and sets NV (R255, R263). -/
def mxScaled (scl : Bool) (x : FVal) (e : Nat) : FVal :=
  if !scl then x else if e = 255 then .nan true else mxScale x e

/-- An element of FMT 0 to 9, its scale aside. -/
def mxElem (fmt : Nat) (F : Fmt) (x : Nat) : FVal := if fmt = 9 then intElem 8 x (-6) else F.decode (x % 2 ^ F.bits)

/-- The elements of A row `r` of the step whose fragment starts at `base` (R252, R255). -/
def mxRowA (rd : MxRead) (j : MxJob) (base r : Nat) : List FVal :=
  let P := 128 / j.kb
  let reg := base + r / P
  let w := j.w
  (List.range (8 * j.kb / w)).map (fun i =>
    let off := r % P * j.kb * 8 + i * w
    let scl := j.scl && decide (2 ≤ j.fmt)
    let blk := if j.fmt = 10 then r % P * (j.kb / 16) + i / 16 else r % P * (if j.fmt = 8 then j.kb / 16 else j.kb / 32) + i / 32
    if rd.bad 0 (64 * (r / P) + off / 32) ∨ ((scl ∨ j.fmt = 10) ∧ rd.bad 0 (64 * (r / P) + 32 + blk)) then .fin false 0 1
    else
      let x := rd.word reg (off / 32) / 2 ^ (off % 32) % 2 ^ w
      if j.fmt = 10 then intElem 8 x ((rd.scale reg blk : Int) - 134)
      else mxScaled scl (mxElem j.fmt (mxFmtA j.fmt) x) (rd.scale reg blk))

/-- The values of B column `c` (R253 to R255). -/
def mxColB (rd : MxRead) (j : MxJob) (base c : Nat) : List FVal :=
  if j.fmt = 10 then
    (List.range 32).map (fun i =>
      let h := i / 16
      let eb := 96 * h + c
      if (List.range j.m).any (fun p => rd.bad 1 (64 * (3 * p + c / 32) + c % 32)) ∨ rd.bad 2 (64 * (eb / 128) + eb % 128 / 4) then .fin false 0 1
      else
        let q := (List.range j.m).foldl (fun acc p =>
          acc + rd.word (base + 3 * p + c / 32) (c % 32) / 2 ^ i % 2 * 2 ^ p) 0
        let E := rd.word (base + 3 * j.m + eb / 128) (eb % 128 / 4) / 2 ^ (8 * (eb % 4)) % 256
        intElem j.m q ((E : Int) - 126 - (j.m : Int)))
  else
    (List.range j.k).map (fun i =>
      let off := c % 4 * 256 + i * j.w
      let scl := j.scl && decide (2 ≤ j.fmt)
      let blk := if j.fmt = 8 then 2 * (c % 4) + i / 32 else c % 4
      if rd.bad 1 (64 * (c / 4) + off / 32) ∨ (scl ∧ rd.bad 2 (8192 + 64 * (c / 4) + blk)) then .fin false 0 1
      else
        let x := rd.word (base + c / 4) (off / 32) / 2 ^ (off % 32) % 2 ^ j.w
        mxScaled scl (mxElem j.fmt (mxFmtB j.fmt) x) (rd.scale (base + c / 4) blk))

/-- The indices of A that a column's metadata selects, each with the place of its compressed value (R260). -/
def mxSelect (rd : MxRead) (j : MxJob) (base c : Nat) : List (Nat × Nat) :=
  (List.range (2 * j.k / 8)).flatMap (fun g =>
    let wd := if rd.bad 2 (4096 + 64 * (c / 8) + 4 * (c % 8) + g / 4) then 0 else rd.word (base + c / 8) (4 * (c % 8) + g / 4)
    let bm := wd / 2 ^ (8 * (g % 4)) % 256
    ((List.range 8).foldl (fun (acc : List (Nat × Nat)) k =>
      if bm.testBit k ∧ acc.length < 4 then acc ++ [(8 * g + k, 4 * g + acc.length)] else acc) []))

/-- The pairs of an output (R259, R260), failing cells' products zero. -/
def mxPairs (rd : MxRead) (r c : Nat) (a b : List FVal) (sel : Option (List (Nat × Nat))) : List (FVal × FVal) :=
  let z : FVal := .fin false 0 1
  let ps := match sel with
    | none => List.zip a b
    | some l => l.map (fun x => (a.getD x.1 z, b.getD x.2 z))
  (List.zip (List.range ps.length) ps).map (fun x => if rd.bad 3 ((r * 96 + c) * 256 + x.1) then (z, z) else x.2)

/-- A z-tile given element by element. -/
def ZTile.ofList (l : List Word32) (tag : Nat) : ZTile :=
  { el := (List.zip (List.range l.length) l).filter (fun e => e.2 != 0), tag := tag }
/-- An element of a z-tile. -/
def ZTile.at (z : ZTile) (r c : Nat) : Word32 := z.el.get 0 (96 * r + c)

/-- The step's new tile and flags (R259). -/
def mxStep (rd : MxRead) (j : MxJob) (z : ZTile) : ZTile × Nat :=
  let bA := (j.baseA j.next).toNat
  let bB := (j.baseB j.next).toNat
  let bQ := (j.baseQ j.next).toNat
  let cols := (List.range 96).map (fun c => (c, mxColB rd j bB c, if j.sparse then some (mxSelect rd j bQ c) else none))
  let out := (List.range 64).flatMap (fun r =>
    if !j.rows.testBit r then (List.range 96).map (fun c => (z.at r c, 0))
    else
      let a := mxRowA rd j bA r
      cols.map (fun x =>
        let old := if rd.bad 4 (96 * r + x.1) then 0 else (z.at r x.1).toNat
        let y := fusedDot (Fmt.f32.decode old) (mxPairs rd r x.1 a x.2.1 x.2.2)
        (BitVec.ofNat 32 y.1, y.2)))
  (ZTile.ofList (out.map (·.1)) z.tag, out.foldl (fun f x => f ||| x.2) 0)

/-! ### The error log (R267, R268) -/

/-- An entry into a core's error log, or OVF where it is full. (DEDUCED, log entry 55) -/
def logError (core w : Nat) (s : State) : State :=
  s.updCore core (fun q =>
    if q.log.length < 16 then { q with ecc := true, log := q.log ++ [BitVec.ofNat 64 w] }
    else { q with ecc := true, ovf := min 65535 (q.ovf + 1) })

/-- A log entry. -/
def logWord (kind zt row col reg group step asid : Nat) : Nat :=
  2 ^ 63 + kind * 2 ^ 60 + zt % 16 * 2 ^ 56 + row * 2 ^ 49 + col * 2 ^ 42 + reg % 1024 * 2 ^ 32 + group * 2 ^ 27 + step * 2 ^ 16 + asid

/-- Row, column and register of an error met in a step: kinds of R268 with the places of `MxRead`. A word of exponents, which serves four columns,
stands under the lowest; an array cell, whose place is 96 × row + column + 6,144 × a mask of the products it formed, under its output.
(DEDUCED, log entry 55) -/
def errPlace (j : MxJob) (kind x : Nat) : Nat × Nat × Nat :=
  let a := (j.baseA j.next).toNat
  let b := (j.baseB j.next).toNat
  let o := x % 4096 / 64
  let w := x % 64
  match kind with
  | 0 =>
    let P := 128 / j.kb
    let perRow := if j.fmt = 10 ∨ j.fmt = 8 then j.kb / 16 else j.kb / 32
    (o * P + (if w < 32 then w * 4 / j.kb else (w - 32) / perRow), 127, a + o)
  | 1 => (127, if j.fmt = 10 then o % 3 * 32 + w else 4 * o + w / 8, b + o)
  | 2 =>
    if x < 4096 then (127, (128 * o + 4 * w) % 96, b + 3 * j.m + o)
    else if x < 8192 then (127, 8 * o + w / 4, (j.baseQ j.next).toNat + o)
    else (127, 4 * o + (if j.fmt = 8 then w / 2 else w), b + o)
  | 3 => (x % 6144 / 96, x % 96, 0)
  | _ => (x / 96, x % 96, 0)

/-- The errors a step meets, as its reads ask for them (R267). -/
def stepBad (errs : List (Nat × Nat)) (k x : Nat) : Bool :=
  if k = 3 then errs.any (fun e => e.1 == 3 && e.2 % 6144 == x / 256 && (e.2 / 6144).testBit (x % 256)) else errs.contains (k, x)

/-- Errors logged for an instruction of a group. -/
def logAll (s0 : State) (core gid zt step : Nat) (errs : List (Nat × Nat)) (f : Nat → Nat → Nat × Nat × Nat) (s : State) : State :=
  let group := ((s0.groups.find gid).map (·.idx)).getD 0
  let asid := ((s0.launches.find (launchOf s0 gid)).map (·.asid)).getD 0
  errs.foldl (fun s e =>
    let p := f e.1 e.2
    logError core (logWord e.1 zt p.1 p.2.1 p.2.2 group step asid) s) s

/-! ### Performing (R247) -/

/-- A z-tile of a cohort. -/
def Cohort.ztile (co : Cohort) (zt : Nat) : ZTile := co.z.get {} zt
/-- A z-tile written. -/
def setZ (cid zt : Nat) (z : ZTile) (s : State) : State := s.updC cid (fun co => { co with z := co.z.set {} zt z })

/-- A group takes a DOMAIN of its pending operation, whose token clears (R261, R266). -/
def domainEnds (gid pid : Nat) (s : State) : State := finish gid pid (addCond gid ⟨0x0C, 0, 0, none⟩ s)

/-- Rows and whole bands that a step passes over, counted (R262, R295). -/
def countSkips (core rows : Nat) (s : State) : State :=
  let skipped := (List.range 64).filter (fun r => !rows.testBit r)
  let bands := (List.range 8).filter (fun b => rows / 2 ^ (8 * b) % 256 == 0)
  addWcnt core 5 bands.length (addWcnt core 4 skipped.length s)

/-- The next step of the instruction at the head of a tile's order. -/
def performStep (cid zt : Nat) (errs : List (Nat × Nat)) (s : State) : State :=
  match s.cohorts.find cid with
  | none => s
  | some co => match zHead s co zt with
    | none => s
    | some (gid, pid, p) => match p.op, s.groups.find gid with
      | .mx j, some g =>
        if !co.resident then s
        else if j.next = 0 ∧ !j.zi ∧ (co.ztile zt).tag ≠ j.tagA then domainEnds gid pid (zDrop cid gid pid s)
        else
          let z0 : ZTile := if j.next = 0 ∧ j.zi then { el := [], tag := j.tagA } else co.ztile zt
          let rd : MxRead := {
            word := fun r L => lateRead s.tick g p (locV r L)
            scale := fun r k => lateRead s.tick g p (locScale r k)
            bad := stepBad errs }
          let r := mxStep rd j z0
          let s1 := setZ cid zt r.1 (logAll s co.core gid zt j.next errs (errPlace j) (countSkips co.core j.rows s))
          let s2 := updPend gid pid (fun p => { p with op := .mx { j with next := j.next + 1 }, flags := p.flags ||| r.2 }) s1
          if j.steps ≤ j.next + 1 then finish gid pid (zDrop cid gid pid s2) else s2
      | _, _ => s

/-- `MATRIX_STEP_PERFORM` (R247, R259). -/
def execMatrixStepPerform (cid zt : Nat) (errs : List (Nat × Nat)) (s : State) : Out := .next (performStep cid zt errs s)

/-- The place of an accumulator or source element for the log. -/
def elemPlace (rb v kind x : Nat) : Nat × Nat × Nat := (8 * rb + x / 96, x % 96, if kind = 0 then v + 3 * (x / 96) + x % 96 / 32 else 0)

/-- The writes of `MXRDZ` (R265): eight rows of a tile, and the tags. -/
def rdzWrites (v rb : Nat) (z : ZTile) (bad : Nat → Nat → Bool) : List Wr :=
  (List.range 8).flatMap (fun i => (List.range 96).map (fun c =>
    wrV (v + 3 * i + c / 32) (c % 32) (if bad 4 (96 * i + c) then 0 else (z.at (8 * rb + i) c).toNat))) ++
  (List.range 24).map (fun i => ⟨locTag (v + i), 255, z.tag⟩)

/-- The tile after `MXWRZ` (R265). -/
def wrzTile (v rb tag : Nat) (z : ZTile) (word : Nat → Nat → Nat) (bad : Nat → Nat → Bool) : ZTile :=
  ZTile.ofList ((List.range 6144).map (fun k =>
    let r := k / 96
    let c := k % 96
    if r / 8 = rb then (if bad 0 (96 * (r % 8) + c) then 0 else BitVec.ofNat 32 (word (v + 3 * (r % 8) + c / 32) (c % 32)))
    else z.at r c)) tag

/-- An `MXRDZ` that has read its tile and has still to write its registers. -/
def rdzDone (s : State) (co : Cohort) (zt : Nat) : Option (Nat × Nat) :=
  co.gids.findSome? (fun gid => match s.groups.find gid with
    | none => none
    | some g => (g.pend.find? (fun e => match e.2.op with
        | .mxrdz _ t _ => t == zt && e.2.accepted && !co.zq.contains (gid, e.1)
        | _ => false)).map (fun e => (gid, e.1)))

/-- The tile after a transfer and its flags (R266). -/
def transferTile (mov : Bool) (src dst : ZTile) (bad : Nat → Nat → Bool) : ZTile × Nat :=
  let out := (List.range 6144).map (fun k =>
    let x : Word32 := if bad 5 k then 0 else src.el.get 0 k
    if mov then (x, 0)
    else
      let y : Word32 := if bad 4 k then 0 else dst.el.get 0 k
      let r := FVal.add false (Fmt.f32.decode y.toNat) (Fmt.f32.decode x.toNat)
      let o := roundVal .f32 .rne false false 0 r.1
      (BitVec.ofNat 32 o.1, r.2 ||| o.2))
  (ZTile.ofList (out.map (·.1)) src.tag, out.foldl (fun f x => f ||| x.2) 0)

/-- The cohort of a team with a team index. -/
def teamCohort (s : State) (co : Cohort) (k : Nat) : Option (Nat × Cohort) :=
  s.cohorts.find? (fun e => e.2.launch == co.launch && e.2.team == co.team && e.2.tcoh == k)

/-- A transfer that arrives is performed at once: nothing earlier waits on the tile, but for a loop between two steps with no
transfer behind it (R247). -/
def transferFits (s : State) (co : Cohort) (zt : Nat) : Bool :=
  match zHead s co zt with
  | none => true
  | some (_, _, p) => match p.op with
    | .mx j => j.next != 0 && !co.zq.any (fun e => (pendOf s e.1 e.2).any (fun q => match q.op with
        | .mxt z _ _ (some _) => z == zt
        | _ => false))
    | _ => false

/-- A transfer performed on its target cohort's tile, which it leaves (R266). -/
def landTransfer (tid gid pid : Nat) (errs : List (Nat × Nat)) (s0 : State) : State :=
  let s := zDrop tid gid pid s0
  match s.cohorts.find tid, pendOf s gid pid with
  | some t, some p => match p.op with
    | .mxt zt _ mov (some src) =>
      let dst := t.ztile zt
      if !mov ∧ dst.tag ≠ src.tag then domainEnds gid pid s
      else
        let r := transferTile mov src dst (fun a x => errs.contains (a, x))
        finish gid pid (updPend gid pid (fun p => { p with flags := p.flags ||| r.2 })
          (setZ tid zt r.1 (logAll s t.core gid zt 0 errs (elemPlace 0 0) s)))
    | _ => s
  | _, _ => s

/-- A team transfer arrives (R247, R266): it takes its place in its target's order, at once where nothing earlier waits there or between two
steps of a loop, else behind what waits, and is performed at its place. One whose target cohort has been released ends without effect.
`first`: before what still waits on the target's tile (R270). (DESIGN CHOICE, log entry 131) -/
def performTransfer (first : Bool) (gid pid : Nat) (errs : List (Nat × Nat)) (s : State) : State :=
  match s.groups.find gid, pendOf s gid pid with
  | some g, some p => match p.op, s.cohorts.find g.cid with
    | .mxt zt k _ (some _), some co => match teamCohort s co k with
      | none => finish gid pid s
      | some (tid, t) =>
        if !t.resident then s
        else if first || transferFits s t zt || (zHead s t zt).any (fun h => h.1 == gid && h.2.1 == pid) then landTransfer tid gid pid errs s
        else if t.zq.contains (gid, pid) then s
        else s.updC tid (fun x => { x with zq := x.zq ++ [(gid, pid)] })
    | _, _ => s
  | _, _ => s

/-- A row-block access, or a transfer's reading of its source or its performing, at the head of a tile's order. Errors met in a transfer's source
are logged on the source's core, where the tile lies, those met at the target on the target's. (DEDUCED, log entry 55) -/
def performAccess (cid zt : Nat) (errs : List (Nat × Nat)) (s : State) : State :=
  match s.cohorts.find cid with
  | none => s
  | some co =>
    let z := co.ztile zt
    let bad (k x : Nat) : Bool := errs.contains (k, x)
    match zHead s co zt with
    | none => s
    | some (gid, pid, p) =>
      if !co.resident then s
      else match p.op, s.groups.find gid with
      | .mxrdz v _ rb, _ =>
        logAll s co.core gid zt 0 errs (elemPlace rb v)
          (zDrop cid gid pid (updPend gid pid (fun p => { p with wrs := rdzWrites v rb z bad }) s))
      | .mxwrz v _ rb tag, some g =>
        logAll s co.core gid zt 0 errs (elemPlace rb v)
          (finish gid pid (zDrop cid gid pid (setZ cid zt (wrzTile v rb tag z (fun r L => lateRead s.tick g p (locV r L)) bad) s)))
      | .mxt _ _ _ (some _), _ => landTransfer cid gid pid errs s
      | .mxt t k mov none, _ =>
        let src : ZTile := { z with el := z.el.filter (fun (e : Nat × Word32) => !bad 4 e.1 && !bad 5 e.1) }
        logAll s co.core gid zt 0 errs (elemPlace 0 0) (zDrop cid gid pid (updPend gid pid (fun p => { p with op := .mxt t k mov (some src) }) s))
      | _, _ => s

/-- `ZTILE_ACCESS_PERFORM` (R247, R265): an `MXRDZ` takes two of them, reading its tile and completing (R19). -/
def execZtileAccessPerform (cid zt : Nat) (errs : List (Nat × Nat)) (s : State) : Out :=
  .next (match s.cohorts.find cid with
    | none => s
    | some co =>
      if !co.resident then s
      else match rdzDone s co zt with
        | some (gid, pid) => finish gid pid s
        | none => performAccess cid zt errs s)

/-- `TEAM_TRANSFER_ARRIVAL` (R247, R266). -/
def execTeamTransferArrival (gid pid : Nat) (errs : List (Nat × Nat)) (s : State) : Out := .next (performTransfer false gid pid errs s)

/-! ### Issue of row-block accesses and transfers (R265, R266) -/

/-- Checks of a row-block access; its z-tile and row block. -/
def rowBlock (c : Ctx) (v sp : Nat) : Except Trap (Nat × Nat) := do
  let x := c.sn sp
  groupsFit c [⟨v, 24, false⟩]
  need (decide (x % 16 < c.co.nz)) (.window (x % 16) 2)
  return (x % 16, x / 16 % 8)

/-- The operand of a row-block access is malformed. -/
def rowBlockBad (sp : Nat) (c : Ctx) : Option Trap := if 10 ≤ c.sn sp % 16 ∨ c.sn sp / 128 ≠ 0 then some (.illegal 4) else none

/-- `MXRDZ` (R265). (DEDUCED, log entry 58) -/
def execMxrdz (v sp k : Nat) (s : State) : Out :=
  mxIssue s (rowBlockBad sp) (fun c => do
    let (zt, rb) ← rowBlock c v sp
    bindable c k
    return zEnter c { tok := some k, op := .mxrdz v zt rb, dst := [wordRange v 24, tagRange v 24] } s)

/-- `MXWRZ` (R265). (DEDUCED, log entry 57) -/
def execMxwrz (v sp k : Nat) (s : State) : Out :=
  mxIssue s (rowBlockBad sp) (fun c => do
    let (zt, rb) ← rowBlock c v sp
    bindable c k
    let t := c.tag v
    need ((List.range 24).all (fun i => c.tag (v + i) == t)) (.domain 0)
    return zEnter c { tok := some k, op := .mxwrz v zt rb t, src := [wordRange v 24] } s)

/-- A team transfer (R266). -/
def mxTransfer (mov : Bool) (z n k : Nat) (s : State) : Out :=
  mxIssue s (fun c => if n = c.co.tcoh ∨ c.la.cohorts ≤ n then some (.illegal 5) else none) (fun c => do
    need (decide (z < c.co.nz)) (.window z 2)
    bindable c k
    return zEnter c { tok := some k, op := .mxt z n mov none } s)

/-- `MXTRED` (R266). -/
def execMxtred (z n k : Nat) (s : State) : Out := mxTransfer false z n k s
/-- `MXTMOV` (R266). -/
def execMxtmov (z n k : Nat) (s : State) : Out := mxTransfer true z n k s

/-! ### The error log's instructions (R269) -/

/-- `MXELOG` (R269): another ASID's entry reads 0. -/
def execMxelog (d n : Nat) (s : State) : Out :=
  mxIssue s (fun _ => none) (fun c =>
    let x := ((s.core c.co.core).log.getD n 0).toNat
    .ok (commitW c (wrS d (if x % 65536 = c.la.asid then BitVec.ofNat 64 x else 0)) s))
/-- `MXESTAT` (R269). -/
def execMxestat (d : Nat) (s : State) : Out :=
  mxIssue s (fun _ => none) (fun c =>
    let q := s.core c.co.core
    .ok (commitW c (wrS d (BitVec.ofNat 64 (q.ovf * 2 ^ 48 + b2n q.ecc * 128 + q.log.length))) s))
/-- `MXECLR` (R269): privileged. -/
def execMxeclr (s : State) : Out :=
  mxIssue s (fun _ => none) (fun c =>
    if c.la.priv then .ok (s.updCore c.co.core (fun q => { q with log := [], ovf := 0, ecc := false })) else .error .privileged)

end Sys2Proof.Machine
end

