-- ==== Sys2Proof/Machine/Scalar.lean ====
section
/-! DEFINITION. The scalar instructions (majors 0x10 to 0x18): R130 to R137. -/

namespace Sys2Proof.Machine

/-- sD := f sA sB (R130). -/
def alu (d a b : Nat) (f : Word64 → Word64 → Word64) (s : State) : Out :=
  issue 4 s (fun c => .ok (commitW c (wrS d (f (c.s a) (c.s b))) s))

/-- sD := f sA (R130, R132). -/
def alu1 (d a : Nat) (f : Word64 → Word64) (s : State) : Out :=
  issue 4 s (fun c => .ok (commitW c (wrS d (f (c.s a))) s))

/-- 1 or 0 in a scalar. -/
def b64 (b : Bool) : Word64 := if b then 1 else 0

/-- Number of leading zero bits among the low `n` bits. -/
def clzN (x : Nat) : Nat → Nat
  | 0 => 0
  | n + 1 => if x.testBit n then 0 else clzN x n + 1

/-- Number of one bits among the low `n` bits. -/
def popN (x : Nat) : Nat → Nat
  | 0 => 0
  | n + 1 => b2n (x.testBit n) + popN x n

/-- Signed quotient rounded toward zero, with the cases of R131. -/
def divS (x y : Word64) : Word64 := if y = 0 then BitVec.allOnes 64 else BitVec.ofInt 64 (Int.tdiv x.toInt y.toInt)
/-- Unsigned quotient (R131). -/
def divU (x y : Word64) : Word64 := if y = 0 then BitVec.allOnes 64 else BitVec.ofNat 64 (x.toNat / y.toNat)
/-- Signed remainder with the sign of the dividend (R131). -/
def remS (x y : Word64) : Word64 := if y = 0 then x else BitVec.ofInt 64 (Int.tmod x.toInt y.toInt)
/-- Unsigned remainder (R131). -/
def remU (x y : Word64) : Word64 := if y = 0 then x else BitVec.ofNat 64 (x.toNat % y.toNat)
/-- Shift right, arithmetic. -/
def sar (x : Word64) (n : Nat) : Word64 := BitVec.ofInt 64 (x.toInt / (2 ^ n : Nat))
/-- Rotate right. -/
def ror (x : Word64) (n : Nat) : Word64 := BitVec.ofNat 64 (x.toNat / 2 ^ n + x.toNat % 2 ^ n * 2 ^ (64 - n))

/-- `ADD` (R130). -/
def execAdd (d a b : Nat) (s : State) : Out := alu d a b (fun x y => x + y) s
/-- `SUB` (R130). -/
def execSub (d a b : Nat) (s : State) : Out := alu d a b (fun x y => x - y) s
/-- `MUL` (R130). -/
def execMul (d a b : Nat) (s : State) : Out := alu d a b (fun x y => x * y) s
/-- `MULH` (R130). -/
def execMulh (d a b : Nat) (s : State) : Out :=
  alu d a b (fun x y => BitVec.ofInt 64 (x.toInt * y.toInt / (2 ^ 64 : Nat))) s
/-- `MULHU` (R130). -/
def execMulhu (d a b : Nat) (s : State) : Out :=
  alu d a b (fun x y => BitVec.ofNat 64 (x.toNat * y.toNat / 2 ^ 64)) s
/-- `DIV` (R130, R131). -/
def execDiv (d a b : Nat) (s : State) : Out := alu d a b divS s
/-- `DIVU` (R130, R131). -/
def execDivu (d a b : Nat) (s : State) : Out := alu d a b divU s
/-- `REM` (R130, R131). -/
def execRem (d a b : Nat) (s : State) : Out := alu d a b remS s
/-- `REMU` (R130, R131). -/
def execRemu (d a b : Nat) (s : State) : Out := alu d a b remU s
/-- `AND` (R130). -/
def execAnd (d a b : Nat) (s : State) : Out := alu d a b (fun x y => x &&& y) s
/-- `OR` (R130). -/
def execOr (d a b : Nat) (s : State) : Out := alu d a b (fun x y => x ||| y) s
/-- `XOR` (R130). -/
def execXor (d a b : Nat) (s : State) : Out := alu d a b (fun x y => x ^^^ y) s
/-- `ANDN` (R130). -/
def execAndn (d a b : Nat) (s : State) : Out := alu d a b (fun x y => x &&& ~~~y) s
/-- `SHL` (R130). -/
def execShl (d a b : Nat) (s : State) : Out :=
  alu d a b (fun x y => BitVec.ofNat 64 (x.toNat * 2 ^ (y.toNat % 64))) s
/-- `SHR` (R130). -/
def execShr (d a b : Nat) (s : State) : Out :=
  alu d a b (fun x y => BitVec.ofNat 64 (x.toNat / 2 ^ (y.toNat % 64))) s
/-- `SRA` (R130). -/
def execSra (d a b : Nat) (s : State) : Out := alu d a b (fun x y => sar x (y.toNat % 64)) s
/-- `ROR` (R130). -/
def execRor (d a b : Nat) (s : State) : Out := alu d a b (fun x y => ror x (y.toNat % 64)) s
/-- `SLT` (R130). -/
def execSlt (d a b : Nat) (s : State) : Out := alu d a b (fun x y => b64 (decide (x.toInt < y.toInt))) s
/-- `SLTU` (R130). -/
def execSltu (d a b : Nat) (s : State) : Out := alu d a b (fun x y => b64 (decide (x.toNat < y.toNat))) s
/-- `SEQ` (R130). -/
def execSeq (d a b : Nat) (s : State) : Out := alu d a b (fun x y => b64 (x == y)) s
/-- `MIN` (R130). -/
def execMin (d a b : Nat) (s : State) : Out := alu d a b (fun x y => if x.toInt ≤ y.toInt then x else y) s
/-- `MAX` (R130). -/
def execMax (d a b : Nat) (s : State) : Out := alu d a b (fun x y => if x.toInt ≤ y.toInt then y else x) s
/-- `MINU` (R130). -/
def execMinu (d a b : Nat) (s : State) : Out := alu d a b (fun x y => if x.toNat ≤ y.toNat then x else y) s
/-- `MAXU` (R130). -/
def execMaxu (d a b : Nat) (s : State) : Out := alu d a b (fun x y => if x.toNat ≤ y.toNat then y else x) s
/-- `CLZ` (R130). -/
def execClz (d a : Nat) (s : State) : Out := alu1 d a (fun x => BitVec.ofNat 64 (clzN x.toNat 64)) s
/-- `POPC` (R130). -/
def execPopc (d a : Nat) (s : State) : Out := alu1 d a (fun x => BitVec.ofNat 64 (popN x.toNat 64)) s

/-- `ADDI` (R132). -/
def execAddi (d a : Nat) (imm : Int) (s : State) : Out := alu1 d a (fun x => x + BitVec.ofInt 64 imm) s
/-- `ANDI` (R132). -/
def execAndi (d a : Nat) (imm : Int) (s : State) : Out := alu1 d a (fun x => x &&& BitVec.ofInt 64 imm) s
/-- `ORI` (R132). -/
def execOri (d a : Nat) (imm : Int) (s : State) : Out := alu1 d a (fun x => x ||| BitVec.ofInt 64 imm) s
/-- `XORI` (R132). -/
def execXori (d a : Nat) (imm : Int) (s : State) : Out := alu1 d a (fun x => x ^^^ BitVec.ofInt 64 imm) s
/-- `SHLI` (R133). -/
def execShli (d a n : Nat) (s : State) : Out := alu1 d a (fun x => BitVec.ofNat 64 (x.toNat * 2 ^ n)) s
/-- `SHRI` (R133). -/
def execShri (d a n : Nat) (s : State) : Out := alu1 d a (fun x => BitVec.ofNat 64 (x.toNat / 2 ^ n)) s
/-- `SRAI` (R133). -/
def execSrai (d a n : Nat) (s : State) : Out := alu1 d a (fun x => sar x n) s
/-- `RORI` (R133). -/
def execRori (d a n : Nat) (s : State) : Out := alu1 d a (fun x => ror x n) s
/-- `LUI` (R134). -/
def execLui (d : Nat) (imm : Int) (s : State) : Out :=
  issue 4 s (fun c => .ok (commitW c (wrS d (BitVec.ofInt 64 (imm * 4096))) s))
/-- `SEQI` (R135). -/
def execSeqi (d a : Nat) (imm : Int) (s : State) : Out := alu1 d a (fun x => b64 (x == BitVec.ofInt 64 imm)) s
/-- `SLTI` (R135). -/
def execSlti (d a : Nat) (imm : Int) (s : State) : Out := alu1 d a (fun x => b64 (decide (x.toInt < imm))) s
/-- `SLTIU` (R135). -/
def execSltiu (d a : Nat) (imm : Int) (s : State) : Out :=
  alu1 d a (fun x => b64 (decide (x.toNat < (BitVec.ofInt 64 imm).toNat))) s
/-- `SGTI` (R135). -/
def execSgti (d a : Nat) (imm : Int) (s : State) : Out := alu1 d a (fun x => b64 (decide (imm < x.toInt))) s

/-- `PSPACE` (R136). -/
def execPspace (d a k : Nat) (s : State) : Out :=
  alu1 d a (fun x => BitVec.ofNat 64 (setBits x.toNat 60 3 k)) s
/-- `PRANK` (R136): a rank of 4,096 or more raises ADDRESS with that value. -/
def execPrank (d a b : Nat) (s : State) : Out :=
  issue 4 s (fun c =>
    let r := c.sn b
    if 4096 ≤ r then .error { code := 0x07, addr := r }
    else .ok (commitW c (wrS d (BitVec.ofNat 64 (setBits (setBits (c.sn a) 60 3 1) 48 12 r))) s))
/-- `PPOL` (R136). -/
def execPpol (d a p : Nat) (s : State) : Out :=
  alu1 d a (fun x => BitVec.ofNat 64 (setBits x.toNat 63 1 p)) s
/-- `PGET` (R136). -/
def execPget (d a k : Nat) (s : State) : Out :=
  alu1 d a (fun x =>
    let n := x.toNat
    let sp := bits n 62 60
    BitVec.ofNat 64 (match k with
      | 0 => sp
      | 1 => if sp = 1 then bits n 59 48 else 0
      | 2 => if sp = 1 then bits n 47 0 else bits n 59 0
      | _ => bits n 63 63)) s

end Sys2Proof.Machine
end

