-- ==== Sys2Proof/Machine/Wavelet.lean ====
section
/-! DEFINITION. The wavelet engine: tiles, thresholds, packed tiles and the wavelet instructions (R271 to R295). -/

namespace Sys2Proof.Machine

/-! ### Tiles in registers (R271) -/

/-- The element format of a tile. -/
def TileDesc.fmtOf (d : TileDesc) : Fmt :=
  match d.fmt with
  | 0 => .f32
  | 1 => .bf16
  | _ => .e4m3

/-- The element of row `r` and channel `ch`, from the words of the registers. -/
def tileGet (rd : Nat → Nat) (d : TileDesc) (r ch : Nat) : Nat :=
  let byte := ch * d.w
  let off := 8 * (32 * (r % 4) + byte % 32)
  rd (locV (d.base + 16 * (byte / 32) + r / 4) (off / 32)) / 2 ^ (off % 32) % 2 ^ (8 * d.w)

/-- The columns of a tile: 64 rows each. -/
def tileCols (rd : Nat → Nat) (d : TileDesc) : List (List Nat) :=
  (List.range d.c).map (fun ch => (List.range 64).map (fun r => tileGet rd d r ch))

/-- Row `r` of channel `ch` of columns. -/
def colAt (cols : List (List Nat)) (r ch : Nat) : Nat := (cols.getD ch []).getD r 0

/-- Every register of a tile written, padding with zero. -/
def tileWords (d : TileDesc) (cols : List (List Nat)) : List Wr :=
  let w := d.w
  (List.range (d.nr / 16)).flatMap (fun p => (List.range 64).flatMap (fun r => (List.range 8).map (fun j =>
    wrV (d.base + 16 * p + r / 4) (8 * (r % 4) + j)
      ((List.range (4 / w)).foldl (fun acc i =>
        let ch := (32 * p + 4 * j) / w + i
        acc + (if ch < d.c then colAt cols r ch else 0) * 2 ^ (8 * w * i)) 0))))

/-- Every tag of a tile written. -/
def tileTags (d : TileDesc) (t : Nat) : List Wr := (List.range d.nr).map (fun i => ⟨locTag (d.base + i), 255, t⟩)

/-- The tag of a Haar tile (R278). -/
def haarTag (l th : Nat) : Nat := th * 32 + l * 4 + 1

/-- A row mask into a mask register (R277). -/
def maskWr (d : TileDesc) (m : Nat) : List Wr := [⟨locM d.mkr, 2 ^ 1024 - 1, m % 2 ^ 64⟩]

/-- Every column transformed (R274). -/
def transform (inv : Bool) (d : TileDesc) (cols : List (List Nat)) : List (List Nat) × Nat :=
  let z := cols.map (haarCol inv d.l d.fmtOf)
  (z.map (·.1), z.foldl (fun f x => f ||| x.2) 0)

/-! ### Thresholds (R275 to R277) -/

/-- Magnitude of a value. -/
def absVal : FVal → FVal
  | .fin _ n d => .fin false n d
  | .inf _ => .inf false
  | v => v

/-- The exact sum of magnitudes: a NaN if one is NaN, an infinity if one is infinite; all are multiples of 2^-149. -/
def sumAbs (xs : List FVal) : FVal :=
  if xs.any FVal.isNan then .nan false
  else if xs.any FVal.isInf then .inf false
  else .fin false (xs.foldl (fun acc x => acc + (x.term.m * 2 ^ ((x.term.e + 149).toNat))) 0) (2 ^ 149)

/-- The largest magnitude, a NaN if one is NaN. -/
def maxAbs (xs : List FVal) : FVal :=
  if xs.any FVal.isNan then .nan false
  else xs.foldl (fun m x => if FVal.lt m (absVal x) then absVal x else m) (.fin false 0 1)

/-- θ of a threshold register's value. -/
def thTheta (th : Nat) : FVal := Fmt.f32.decode (th % 2 ^ 32)
/-- MODE. -/
def thMode (th : Nat) : Nat := th / 2 ^ 38 % 4
/-- The bound of level `l` (R276). -/
def thBound (th l : Nat) : FVal := (thTheta th).scale2 (sext 4 (th / 2 ^ 32) * ((l : Int) - 1))

/-- A row is kept whole (R276); in ELEMENT mode every row is. -/
def keepRow (th L r : Nat) (xs : List FVal) : Bool :=
  let l := rowLevel L r
  if l = 0 then true
  else if 2 ≤ thMode th then true
  else if (thTheta th).isNan then false
  else
    let norm := if thMode th = 0 then maxAbs xs else sumAbs xs
    if norm.isNan then true
    else if norm.isInf then thTheta th != .inf false
    else !FVal.lt norm (thBound th l)

/-- An element that ELEMENT mode zeroes (R276). -/
def zeroElem (th L r : Nat) (x : FVal) : Bool :=
  rowLevel L r != 0 && thMode th == 2 && ((thTheta th).isNan || FVal.lt (absVal x) (thBound th (rowLevel L r)))

/-- The row mask of a thresholded tile (R277). -/
def rowMask (d : TileDesc) (th : Nat) (cols : List (List Nat)) : Nat :=
  (List.range 64).foldl (fun m r =>
    if keepRow th d.l r (cols.map (fun c => d.fmtOf.decode (c.getD r 0))) then m + 2 ^ r else m) 0

/-- An element is dropped by the threshold. -/
def dropped (d : TileDesc) (th mask r x : Nat) : Bool := !mask.testBit r || zeroElem th d.l r (d.fmtOf.decode x)

/-- The tile after a threshold. -/
def thresholded (d : TileDesc) (th mask : Nat) (cols : List (List Nat)) : List (List Nat) :=
  cols.map (fun c => (List.zip (List.range 64) c).map (fun e => if dropped d th mask e.1 e.2 then 0 else e.2))

/-- The writes of the dropped elements alone (R291). -/
def dropWrites (d : TileDesc) (th mask : Nat) (cols : List (List Nat)) : List Wr :=
  (List.zip (List.range d.c) cols).flatMap (fun col => (List.zip (List.range 64) col.2).flatMap (fun e =>
    if dropped d th mask e.1 e.2 then
      let byte := col.1 * d.w
      wrBits (d.base + 16 * (byte / 32) + e.1 / 4) (8 * (32 * (e.1 % 4) + byte % 32)) (8 * d.w) 0
    else []))

/-! ### Packed tiles (R286, R287) -/

/-- Rows in tree order (R273). -/
def treeRows (L : Nat) : List Nat :=
  (List.range 64).map (fun p => ((List.range 64).find? (fun r => treePos L r == p)).getD 0)

/-- The kept rows in the order of a packed tile. -/
def packedRows (L mask : Nat) : List Nat := (treeRows L).filter (fun r => mask.testBit r)

/-- The bytes of a packed tile. -/
def packTile (d : TileDesc) (mask : Nat) (cols : List (List Nat)) : List Byte :=
  let rows := packedRows d.l mask
  toBytes 1 (d.th * 32 + d.l * 4 + 2) ++ toBytes 1 d.l ++ toBytes 2 d.c ++ toBytes 1 d.fmt ++ toBytes 1 d.th ++
  toBytes 2 rows.length ++ toBytes 8 mask ++ toBytes 16 0 ++
  rows.flatMap (fun r => cols.flatMap (fun c => toBytes d.w (c.getD r 0)))

/-- A header is valid and fits the descriptor (R287, R293). -/
def headerOk (d : TileDesc) (h : Nat) : Bool :=
  let f (i n : Nat) : Nat := h / 256 ^ i % 256 ^ n
  let tag := f 0 1
  let L := f 1 1
  let mask := f 8 8
  tag % 4 == 2 && tag / 4 % 8 == L && tag / 32 == f 5 1 && decide (1 ≤ L) && decide (L ≤ 6) && decide (f 4 1 ≤ 2) &&
  f 2 2 % 16 == 0 && decide (16 ≤ f 2 2) && decide (f 2 2 ≤ 256) &&
  (List.range 64).all (fun r => rowLevel L r != 0 || mask.testBit r) && f 6 2 == popN mask 64 && f 16 16 == 0 &&
  f 2 2 == d.c && f 4 1 == d.fmt && L == d.l

/-! ### Descriptors and checks (R289) -/

/-- The descriptor of a 64-bit value, or none where it is malformed. -/
def tileDesc (x gid : Nat) : Option TileDesc :=
  if x / 2 ^ 40 ≠ 0 ∨ bits x 18 10 ≠ 0 ∨ bits x 3 0 ≠ 0 ∨ bits x 27 25 = 0 ∨ bits x 27 25 = 7 ∨ bits x 24 23 = 3 ∨
      (!x.testBit 31 ∧ bits x 35 32 ≠ 0) then none
  else some { mkr := bits x 39 36, gidx := bits x 35 32, x := x.testBit 31, th := bits x 30 28, l := bits x 27 25
              fmt := bits x 24 23, c := 16 * (bits x 22 19 + 1), base := bits x 9 0, by' := gid }

/-- What ranks as ILLEGAL (R289). -/
def tileBad (c : Ctx) (t : Nat) : Option Trap :=
  match tileDesc (c.sn t) c.run.gid with
  | none => some (.illegal 6)
  | some d => if d.x ∧ c.co.gids.length ≤ d.gidx then some (.illegal 7) else none

/-- A wavelet instruction: `VECTOR` groups only (R288). A target group that has ended and been released had the launch's window. -/
def wvIssue (t : Nat) (s : State) (early : Ctx → Option Trap) (f : Ctx → TileDesc → Nat → Except Trap State) : Out :=
  issueRole .vector 4 s (fun c => (tileBad c t).or (early c)) (fun c =>
    match tileDesc (c.sn t) c.run.gid with
    | none => .error (.illegal 6)
    | some d0 =>
      let tgt := if d0.x then c.co.gids.getD d0.gidx c.run.gid else c.run.gid
      let d : TileDesc := { d0 with x := tgt != c.run.gid }
      let w := ((s.groups.find tgt).map (·.w)).getD (16 * c.la.win)
      match beyond w ⟨d.base, d.nr, false⟩ with
      | some i => .error (.window i)
      | none => f c d tgt)

/-- The tag an operation leaves on its tile, as far as it is known before it is performed. -/
def WvOp.tagAfter (d : TileDesc) : WvOp → Option Nat
  | .fwd => some (haarTag d.l d.th)
  | .inv => some 0
  | .thr => some (haarTag d.l d.th)
  | .ld _ => some (haarTag d.l d.th)
  | .raw _ _ => some (haarTag d.l d.th)
  | .tag t => some t
  | .st _ _ => none

/-- The tag a wavelet instruction finds on a register: its group's earlier wavelet instructions come before it (R284). (DEDUCED, log entry 60) -/
def tagFor (c : Ctx) (g : Group) (r : Nat) : Nat :=
  let last := g.pend.foldl (fun (acc : Option Nat) (e : Nat × Pend) => match e.2.op with
    | .wavelet d op _ _ =>
      if d.by' = c.run.gid ∧ (!d.x || e.2.tok.isNone) ∧ d.base ≤ r ∧ r < d.base + d.nr then (op.tagAfter d).or acc else acc
    | _ => acc) none
  last.getD (choose c.tick (locTag r) (g.tagGet r).toNat
    (g.pend.flatMap (fun p => (p.2.wrs.filter (fun w => w.loc == locTag r)).map (fun w => w.val % 256))))

/-- Tags of a tile. -/
def tileTagsOf (s : State) (c : Ctx) (tgt : Nat) (d : TileDesc) : List Nat :=
  match s.groups.find tgt with
  | none => []
  | some g => (List.range d.nr).map (fun i => tagFor c g (d.base + i))

/-- All tags are spatial. -/
def allSpatial (ts : List Nat) : Bool := ts.all (· == 0)
/-- All tags are Haar tags of a level. -/
def allHaar (l : Nat) (ts : List Nat) : Bool := ts.all (fun t => t % 4 == 1 && t / 4 % 8 == l)

/-- A pending wavelet operation of the issuer, with its companion in another target group. -/
def addWavelet (c : Ctx) (k tgt : Nat) (d : TileDesc) (op : WvOp) (s : State) : State :=
  let th := ((s.groups.find c.run.gid).map (fun g => (g.th.get 0 d.th).toNat)).getD 0
  let pid := s.nextId
  let words := wordRange d.base d.nr
  let tags := tagRange d.base d.nr
  let mask := (locM d.mkr, locM d.mkr)
  let (src, dst) : List (Nat × Nat) × List (Nat × Nat) := match op with
    | .fwd => ([words], [words, tags])
    | .inv => ([words], [words, tags])
    | .thr => ([words], [words, tags, mask])
    | .st _ _ => ([words], [])
    | .ld _ => ([], [words, tags, mask])
    | .raw _ _ => ([], [words, tags, mask])
    | .tag _ => ([], [tags])
  let p : Pend := { tok := some k, op := .wavelet d op th false, src := src, dst := dst, behind := c.g.acqIds (threads c) }
  if d.x then
    (addPend c { p with src := [], dst := [] } s).updG tgt (fun g => { g with pend := g.pend.put pid { p with tok := none } })
  else addPend c p s

/-! ### Issue (R290 to R295) -/

/-- `WFWD` (R290). -/
def execWfwd (t k : Nat) (s : State) : Out :=
  wvIssue t s (fun _ => none) (fun c d tgt => do
    bindable c k
    need (allSpatial (tileTagsOf s c tgt d)) (.domain 4)
    return addWavelet c k tgt d .fwd s)

/-- An operation on a Haar tile of the descriptor's level. -/
def haarOp (t k : Nat) (op : WvOp) (s : State) : Out :=
  wvIssue t s (fun _ => none) (fun c d tgt => do
    bindable c k
    need (allHaar d.l (tileTagsOf s c tgt d)) (.domain 4)
    return addWavelet c k tgt d op s)

/-- `WINV` (R290). -/
def execWinv (t k : Nat) (s : State) : Out := haarOp t k .inv s
/-- `WTHR` (R291). -/
def execWthr (t k : Nat) (s : State) : Out := haarOp t k .thr s

/-- `WTHSET` (R295): reserved bits read zero (R7). -/
def execWthset (n a : Nat) (s : State) : Out :=
  issueRole .vector 4 s (fun c => if thMode (c.sn a) = 3 then some (.illegal 6) else none) (fun c =>
    let x := c.sn a
    .ok (updCtxG c (fun g => { g with th := g.th.set 0 n (BitVec.ofNat 64 (x % 2 ^ 36 + thMode x * 2 ^ 38)) }) s))

/-- The first fault in a span of memory, whose pages are at least 64 KiB; the start must be a multiple of 32 (R292). -/
def spanErr (s : State) (u : Who) (a : Acc) (ptr n : Nat) : Option Trap :=
  if bits ptr 62 60 = 3 then some { code := 0x07, detail := 8, addr := ptr }
  else (placeErr (placeOf s u a ptr 32)).or ((List.range ((ptr % 65536 + n - 1) / 65536)).findSome? (fun (i : Nat) =>
    placeErr (placeOf s u a (addr64 (ptr / 65536 * 65536) (65536 * (i + 1) : Nat)) 32)))

/-- `WST` (R292). -/
def execWst (t b k : Nat) (s : State) : Out :=
  wvIssue t s (fun _ => none) (fun c d tgt => do
    let ptr := c.sn b
    memChecks c (some k) (spanErr s (whoOf s c) .wr ptr d.maxBytes)
    let ts := tileTagsOf s c tgt d
    need (allSpatial ts || allHaar d.l ts) (.domain 4)
    return addWavelet c k tgt d (.st ptr (allSpatial ts)) s)

/-- `WLD` (R293). -/
def execWld (t b k : Nat) (s : State) : Out :=
  wvIssue t s (fun _ => none) (fun c d tgt => do
    let ptr := c.sn b
    memChecks c (some k) (spanErr s (whoOf s c) .rd ptr d.maxBytes)
    return addWavelet c k tgt d (.ld ptr) s)

/-- `WLD.RAW` (R294). -/
def execWldRaw (t b k : Nat) (s : State) : Out :=
  wvIssue t s (fun _ => if b = 63 then some .illegal else none) (fun c d tgt => do
    let ptr := c.sn b
    let pitch := c.sn (b + 1)
    let u := whoOf s c
    memChecks c (some k)
      ((if pitch % 32 = 0 then none else (match spanErr s u .rd ptr 32 with
        | some e => if e.code = 7 then some e else some { code := 0x08, addr := ptr }
        | none => some { code := 0x08, addr := ptr })).or
       ((List.range 64).findSome? (fun (r : Nat) => spanErr s u .rd (addr64 ptr (r * pitch : Nat)) (d.c * d.w))))
    return addWavelet c k tgt d (.raw ptr pitch) s)

/-- `WTAG` (R295). -/
def execWtag (t g k : Nat) (s : State) : Out :=
  wvIssue t s (fun _ => none) (fun c d tgt => do
    bindable c k
    return addWavelet c k tgt d (.tag g) s)

/-- `WCNT` (R295). -/
def execWcnt (d n : Nat) (s : State) : Out :=
  issueRole .vector 4 s (fun _ => none) (fun c =>
    .ok (commitW c (wrS d (if n < 8 then BitVec.ofNat 64 ((s.core c.co.core).wcnt.get 0 n) else c.g.th.get 0 (n - 8))) s))

/-! ### Performing (R284) -/

/-- What an operation does to its tile: writes, flags, rows kept and dropped. -/
structure WvRes where
  wrs : List Wr
  flags : Nat := 0
  kept : Nat := 0
  lost : Nat := 0
  deriving DecidableEq, Repr

/-- An operation in registers. -/
def inRegs (rd : Nat → Nat) (d : TileDesc) (op : WvOp) (th : Nat) : WvRes :=
  match op with
  | .fwd =>
    let z := transform false d (tileCols rd d)
    { wrs := tileWords d z.1 ++ tileTags d (haarTag d.l d.th), flags := z.2 }
  | .inv =>
    let z := transform true d (tileCols rd d)
    { wrs := tileWords d z.1 ++ tileTags d 0, flags := z.2 }
  | .thr =>
    let cols := tileCols rd d
    let m := rowMask d th cols
    { wrs := dropWrites d th m cols ++ tileTags d (haarTag d.l d.th) ++ maskWr d m, kept := popN m 64, lost := 64 - popN m 64 }
  | .tag t => { wrs := tileTags d t }
  | _ => { wrs := [] }

/-- The image `WST` stores: bytes, flags, row mask (R292). -/
def packed (rd : Nat → Nat) (d : TileDesc) (fwd : Bool) (th : Nat) : List Byte × Nat × Nat :=
  let cols := tileCols rd d
  let z := if fwd then transform false d cols else (cols, 0)
  let m := rowMask d th z.1
  (packTile d m (thresholded d th m z.1), z.2, m)

/-- What a load of a tile has collected: `i`-th group of eight bytes. -/
def Pend.word64 (p : Pend) (i : Nat) : Nat :=
  let f (l : Nat) : Nat := (p.wrs.filter (fun w => w.loc == l)).foldl (fun x w => x ||| w.val) 0
  f (locV scratchReg (2 * i)) + f (locV scratchReg (2 * i + 1)) * 2 ^ 32

/-- A load element of eight bytes into the collection. -/
def tileEl (ptr i : Nat) (a : Nat) : Nat × LdEl := (i, { ptr := addr64 ptr a, n := 8, nib := none, dst := .v scratchReg (64 * i) 64 })

/-- The columns a load of rows gives: row `r` is the `idx`-th row collected, from group `first` on. -/
def collected (p : Pend) (d : TileDesc) (first : Nat) (idx : Nat → Option Nat) : List (List Nat) :=
  let words := (List.range (64 * d.c * d.w / 8)).map (fun i => p.word64 (first + i))
  (List.range d.c).map (fun ch => (List.range 64).map (fun r => match idx r with
    | some k =>
      let byte := k * d.c * d.w + ch * d.w
      words.getD (byte / 8) 0 / 256 ^ (byte % 8) % 2 ^ (8 * d.w)
    | none => 0))

/-- The results of an operation become known: they stand with the group whose tile it is (R19, R285). -/
def setResults (gid pid tgt : Nat) (r : WvRes) (s : State) : State :=
  let mark (p : Pend) : Pend := match p.op with
    | .wavelet d op th _ => { p with op := .wavelet d op th true, wrs := [] }
    | _ => p
  let s1 := updPend gid pid (fun p => { mark p with flags := p.flags ||| r.flags }) s
  updPend tgt pid (fun p => { mark p with wrs := r.wrs }) s1

/-- The operation ends in its target group and in the issuer's. -/
def endWavelet (gid pid tgt : Nat) (s : State) : State :=
  if tgt = gid then finish gid pid s else finish gid pid (finish tgt pid s)

/-- Loads of a tile's bytes that come next, or none once all are there (R293, R294). -/
def tileLoads (d : TileDesc) (op : WvOp) (p : Pend) : List (Nat × LdEl) :=
  let row := d.c * d.w / 8
  match op with
  | .ld ptr =>
    if p.wrs.isEmpty then (List.range 4).map (fun (i : Nat) => tileEl ptr i (8 * i))
    else
      let n := (p.word64 0 / 2 ^ 48) % 65536
      if p.wrs.length < 9 then (List.range (n * row)).map (fun (i : Nat) => tileEl ptr (4 + i) (32 + 8 * i)) else []
  | .raw ptr pitch =>
    if p.wrs.isEmpty then (List.range (64 * row)).map (fun (i : Nat) => tileEl ptr (4 + i) (i / row * pitch + 8 * (i % row))) else []
  | _ => []

/-- The header collected so far is not acceptable (R293). -/
def headerBad (d : TileDesc) (op : WvOp) (p : Pend) : Bool :=
  match op with
  | .ld _ => !p.wrs.isEmpty && !headerOk d ((List.range 4).foldl (fun x i => x + p.word64 i * 2 ^ (64 * i)) 0)
  | _ => false

/-- The results of a load of a tile. -/
def loadedTile (d : TileDesc) (op : WvOp) (p : Pend) : WvRes :=
  match op with
  | .ld _ =>
    let h := p.word64 0
    let m := p.word64 1
    let rows := packedRows d.l m
    let cols := collected p d 4 (fun r => if rows.contains r then some (rows.findIdx (· == r)) else none)
    { wrs := tileWords d cols ++ tileTags d (h % 256 / 4 * 4 + 1) ++ maskWr d m }
  | _ =>
    { wrs := tileWords d (collected p d 4 some) ++ tileTags d (haarTag d.l d.th) ++ maskWr d (2 ^ 64 - 1) }

/-- A load of a tile goes on: header, rows, results. -/
def stepTileLoad (gid pid tgt : Nat) (d : TileDesc) (op : WvOp) : Nat → State → State
  | 0, s => s
  | n + 1, s0 =>
    let s := serveLoad gid pid none s0
    match pendOf s gid pid with
    | none => s
    | some p =>
      if p.left ≠ 0 ∨ !p.els.isEmpty then s
      else if headerBad d op p then
        endWavelet gid pid tgt (addCond gid ⟨0x0C, 5, 0, none⟩ (setResults gid pid tgt { wrs := [] } s))
      else
        let more := tileLoads d op p
        if more.isEmpty then setResults gid pid tgt (loadedTile d op p) s
        else stepTileLoad gid pid tgt d op n (updPend gid pid (fun p => { p with els := more }) s)

/-- The stores of a packed tile enter the group's store queue, or go out (R292). -/
def storeTile (gid pid ptr : Nat) (image : List Byte) (s : State) : State :=
  let els : List (Nat × StEl) := (List.range (image.length / 8)).map (fun (i : Nat) =>
    (i, ⟨addr64 ptr (8 * i : Nat), 8, none, fromBytes ((image.drop (8 * i)).take 8)⟩))
  let net := els.filter (fun e => bits e.2.ptr 62 60 == 1)
  let loc := els.filter (fun e => bits e.2.ptr 62 60 != 1)
  let s1 := if loc.isEmpty then s else s.updG gid (fun g => { g with stq := g.stq ++ [.store pid loc] })
  match whoOfGid s gid with
  | none => s1
  | some u =>
    let rs := (storeReqs u.gid u.core u.part (net.map (·.2))).map (fun r => { r with pid := some pid, po := pid })
    let s2 := updPend gid pid (fun p => { p with left := p.left + rs.length }) s1
    settle gid (newReqs rs s2)

/-- Nothing earlier touches the tile, its registers, or the bytes of an operation (R284). -/
def mayPerform (s : State) (gid pid tgt : Nat) (d : TileDesc) (op : WvOp) : Bool :=
  match s.groups.find gid, s.groups.find tgt, whoOfGid s gid, whoOfGid s tgt with
  | some g, some tg, some u, some tu =>
    let ptr := 3 * 2 ^ 60 + 128 * d.base
    let n := 128 * d.nr
    let words := wordRange d.base d.nr
    !tg.meetsAt s tu pid ptr n &&
    !tg.pend.any (fun e => decide (e.1 < pid) && e.2.bank && e.2.dst.any (fun r => decide (r.1 ≤ words.2) && decide (words.1 ≤ r.2))) &&
    (match op with
      | .st q _ => !g.loadsBefore pid && !g.fencesBefore pid && !g.heldAt s u pid q d.maxBytes
      | _ => true) &&
    (match g.pend.find pid with
      | some p => !p.behind.any g.blocks
      | none => false)
  | _, _, _, _ => false

/-- Every store of a packed tile has been performed. -/
def tileStored (s : State) (gid pid : Nat) : Bool :=
  match s.groups.find gid with
  | none => true
  | some g => !(g.stq ++ g.stqWait).any (fun h => h.id == pid) && (match g.pend.find pid with
    | some p => p.left == 0
    | none => true)

/-- The results of one request's performing, or the operation's end; one whose gang has ended leaves none (R108); of a pre-empted cohort they go into its save area (R115, R285). One whose
target group has been released has none, and its token clears. -/
def wvDone (gid pid : Nat) (s : State) : State :=
  match s.groups.find gid, pendOf s gid pid with
  | some g, some p => match p.op, s.cohorts.find g.cid with
    | .wavelet d op th done, some co =>
      let tgt := if d.x then co.gids.getD d.gidx gid else gid
      if p.tok.isNone then s
      else if (pendOf s tgt pid).isNone then finish gid pid s
      else if p.void && !done then endWavelet gid pid tgt s
      else if done then
        (match op with
          | .st _ _ => if tileStored s gid pid then endWavelet gid pid tgt s else settle gid s
          | _ => endWavelet gid pid tgt s)
      else if !mayPerform s gid pid tgt d op then s
      else match s.groups.find tgt, pendOf s tgt pid with
        | some tg, some tp =>
          let rd := lateRead s.tick tg tp
          let count (r : WvRes) (s : State) : State := addWcnt co.core 3 r.lost (addWcnt co.core 2 r.kept s)
          (match op with
            | .ld _ => stepTileLoad gid pid tgt d op 3 s
            | .raw _ _ => stepTileLoad gid pid tgt d op 3 s
            | .st ptr fwd =>
              let (image, fl, m) := packed rd d fwd th
              let r : WvRes := { wrs := [], flags := fl, kept := popN m 64, lost := 64 - popN m 64 }
              storeTile gid pid ptr image (addWcnt co.core 6 image.length (count r (setResults gid pid tgt r s)))
            | _ =>
              let r := inRegs rd d op th
              count r (setResults gid pid tgt r s))
        | _, _ => s
    | _, _ => s
  | _, _ => s

/-- `WAVELET_REQUEST_DONE` (R284): an operation is performed, and, by a later one, ends. -/
def execWaveletRequestDone (gid pid : Nat) (s : State) : Out := .next (wvDone gid pid s)

end Sys2Proof.Machine
end

