-- ==== Sys2Proof/Machine/Copy.lean ====
section
/-! DEFINITION. The copy engine: channels, copies in chunks, conversion, weight-page verification and root slots (R296 to R312). -/

namespace Sys2Proof.Machine

/-! ### SHA-256 (R310) -/

/-- The primes below a bound of at most 324. -/
def primesTo (n : Nat) : List Nat := (List.range n).filter (fun k => decide (2 ≤ k) && (List.range 18).all (fun d => d < 2 || decide (k ≤ d) || k % d != 0))

/-- The integer root of degree `e` of a number, its bits found from bit `n - 1` down, beginning with `r`. -/
def rootFrom (e x : Nat) : Nat → Nat → Nat
  | 0, r => r
  | n + 1, r => rootFrom e x n (if (r + 2 ^ n) ^ e ≤ x then r + 2 ^ n else r)

/-- The first 32 bits of the fraction of a root of degree `e`: FIPS 180-4 takes its constants so. -/
def rootFraction (e p : Nat) : Nat := rootFrom e (p * 2 ^ (32 * e)) 36 0 % 2 ^ 32

/-- The constants of the 64 turns: cube roots of the first 64 primes. -/
def turnKeys : List Nat := (primesTo 312).map (rootFraction 3)
/-- The eight words a hash begins with: square roots of the first eight primes. -/
def hashSeed : List Nat := (primesTo 20).map (rootFraction 2)

/-- The exclusive or of a word's rotations to the right. -/
def spin (ns : List Nat) (x : Nat) : Nat := ns.foldl (fun y n => y ^^^ (x / 2 ^ n + x % 2 ^ n * 2 ^ (32 - n))) 0

/-- What one turn works on: the 16 words of the schedule from this turn on, and the last four values of each of the two sequences that
the working variables are, newest first. -/
structure HashTurn where
  ahead : List Nat
  a : List Nat
  e : List Nat
  deriving DecidableEq, Repr

/-- One turn with its constant. -/
def HashTurn.next (t : HashTurn) (key : Nat) : HashTurn :=
  let w (i : Nat) : Nat := t.ahead.getD i 0
  let a (i : Nat) : Nat := t.a.getD i 0
  let e (i : Nat) : Nat := t.e.getD i 0
  let new := w 0 + w 9 + (spin [7, 18] (w 1) ^^^ w 1 / 2 ^ 3) + (spin [17, 19] (w 14) ^^^ w 14 / 2 ^ 10)
  let mix := e 3 + key + w 0 + spin [6, 11, 25] (e 0) + (e 2 ^^^ (e 0 &&& (e 1 ^^^ e 2)))
  let vote := (a 0 &&& (a 1 ||| a 2)) ||| (a 1 &&& a 2)
  { ahead := t.ahead.drop 1 ++ [new % 2 ^ 32]
    a := (mix + spin [2, 13, 22] (a 0) + vote) % 2 ^ 32 :: t.a.take 3
    e := (a 3 + mix) % 2 ^ 32 :: t.e.take 3 }

/-- The big-endian number of bytes. -/
def beBytes (bs : List Byte) : Nat := bs.foldl (fun x b => x * 256 + b.toNat) 0

/-- The eight words of a hash after `n` more blocks of a message. -/
def hashBlocks : Nat → List Byte → List Nat → List Nat
  | 0, _, h => h
  | n + 1, bs, h =>
    let t := turnKeys.foldl HashTurn.next ⟨(List.range 16).map (fun i => beBytes ((bs.drop (4 * i)).take 4)), h.take 4, h.drop 4⟩
    hashBlocks n (bs.drop 64) (List.zipWith (fun x y => (x + y) % 2 ^ 32) h (t.a ++ t.e))

/-- SHA-256 as its 32 bytes (R310). -/
def sha256 (m : List Byte) : List Byte :=
  let zeros := 63 - (m.length + 8) % 64
  let whole := m ++ 0x80 :: List.replicate zeros 0 ++ (toBytes 8 (8 * m.length)).reverse
  (hashBlocks (whole.length / 64) whole hashSeed).flatMap (fun x => (toBytes 4 x).reverse)

/-! ### Channels (R296, R297, R303) -/

/-- A channel of a cohort. -/
def Cohort.chan (co : Cohort) (ch : Nat) : Chan := co.chans.get {} ch
/-- A channel changed. -/
def updChan (cid ch : Nat) (f : Chan → Chan) (s : State) : State :=
  s.updC cid (fun co => { co with chans := co.chans.set {} ch (f (co.chan ch)) })

/-- Seeds at the head of a channel's order take effect (R306). -/
def seedHeads (gen : Nat) : List ChanOp → Nat × List ChanOp
  | .seed v :: t => seedHeads v t
  | q => (gen, q)

/-- An entry joins a channel's order. -/
def Chan.push (h : Chan) (o : ChanOp) : Chan :=
  let r := seedHeads h.gen (h.q ++ [o])
  { h with gen := r.1, q := r.2 }

/-- Copies of a cohort that hold slots. -/
def Cohort.copies (co : Cohort) : Nat :=
  co.chans.foldl (fun n (h : Nat × Chan) => n + (h.2.q.filter (fun o => match o with
    | .copy _ => true
    | .seed _ => false)).length) 0

/-- Copy slots in use on a core. -/
def slotsUsed (s : State) (core : Nat) : Nat :=
  s.cohorts.foldl (fun n (c : Nat × Cohort) => if c.2.core = core then n + c.2.copies else n) 0

/-! ### A copy's bytes (R302, R306) -/

/-- All destination bytes of a copy. -/
def CopyJob.total (j : CopyJob) : Nat := j.rows * j.dlen
/-- Address of a source byte. -/
def CopyJob.srcAt (j : CopyJob) (row k : Nat) : Nat := wrap 64 ((j.src : Int) + (row : Int) * j.sstr + (k : Int))

/-- Source bytes that precede the source of a row's destination byte `k` (R302). -/
def CopyJob.srcOff (j : CopyJob) (k : Nat) : Nat :=
  if j.conv = 1 ∨ j.conv = 2 then 2 * k else if j.conv = 3 ∨ j.conv = 4 then k / 2 else k

/-- The next chunk: destination address and size, source address and size (R302, R303). -/
def CopyJob.chunk (j : CopyJob) : (Nat × Nat) × (Nat × Nat) :=
  let row := j.done / j.dlen
  let k := j.done % j.dlen
  let a := j.dstAt row k
  let n := min (j.dlen - k) (128 - a % 128)
  ((a, n), (j.srcAt row (j.srcOff k), j.srcOff n))

/-- The source bytes not yet delivered: address and length of the rest of each row. -/
def CopyJob.srcRest (j : CopyJob) : List (Nat × Nat) :=
  (List.range (j.rows - j.done / j.dlen)).map (fun i =>
    let row := j.done / j.dlen + i
    let k := if i = 0 then j.srcOff (j.done % j.dlen) else 0
    (j.srcAt row k, j.len - k))

/-- The chunk's bytes from its source bytes, with its conditions (R306). -/
def CopyJob.convert (j : CopyJob) (gen a : Nat) (src : List Byte) : List Byte × Nat :=
  let mode : Rm := match j.rm with
    | 1 => .rtz
    | 2 => .rdn
    | 3 => .rup
    | 4 => .sr
    | _ => .rne
  let F : Fmt := if j.conv = 1 ∨ j.conv = 3 then .e4m3 else .e5m2
  if j.conv = 0 then (src, 0)
  else if j.conv ≤ 2 then
    let r := (List.range (src.length / 2)).map (fun i =>
      let at' := (a + i) % 128
      floatToFloat F mode j.sat false (srWord gen (at' / 4) (at' % 4)) (Fmt.bf16.decode (fromBytes ((src.drop (2 * i)).take 2))))
    (r.map (fun x => BitVec.ofNat 8 x.1), r.foldl (fun f x => f ||| x.2) 0)
  else
    let r := src.map (fun b => floatToFloat .bf16 mode j.sat false 0 (F.decode b.toNat))
    (r.flatMap (fun x => toBytes 2 x.1), r.foldl (fun f x => f ||| x.2) 0)

/-- The bytes of a fill (R302). -/
def CopyJob.fill (j : CopyJob) (a n : Nat) : List Byte := (List.range n).map (fun i => BitVec.ofNat 8 (j.pat / 256 ^ ((a + i) % 8)))

/-! ### The end of a copy (R304, R305) -/

/-- The head copy of a channel. -/
def headCopy (s : State) (cid ch : Nat) : Option CopyJob :=
  match s.cohorts.find cid with
  | none => none
  | some co => match (co.chan ch).q with
    | .copy j :: _ => some j
    | _ => none

/-- A copy ends: status, write pointer, token, then the channel's next entries. -/
def endCopy (cid ch code detail : Nat) (s : State) : State :=
  match headCopy s cid ch with
  | none => s
  | some j =>
    let status := j.done * 2 ^ 32 + j.flags * 2 ^ 16 + detail % 256 * 2 ^ 8 + code
    let s1 := updChan cid ch (fun h =>
      let r := seedHeads h.gen (h.q.drop 1)
      { h with pos := (h.pos + (j.total - j.done)) % 2 ^ 63, fail := h.fail || code != 0, gen := r.1, q := r.2 }) s
    let s2 := updPend j.gid j.pid (fun p => { p with wrs := match p.op with
      | .copy _ sd _ => wrS sd (BitVec.ofNat 64 status)
      | _ => [] }) s1
    finish j.gid j.pid s2

/-- The CODE of a trap that an access of a copy raises (R305). (DEDUCED, log entry 29) -/
def copyCode (t : Trap) : Nat :=
  match t.code with
  | 0x09 => 2
  | 0x0E => 3
  | _ => 1

/-! ### Reading the source -/

/-- The accessor of a copy. -/
def copyWho (s : State) (j : CopyJob) : Option Who := whoOfGid s j.gid

/-- Every event of the issuing group before the copy has been performed (R187, R307). (DEDUCED, log entry 67) -/
def copyFree (s : State) (j : CopyJob) : Bool :=
  match s.groups.find j.gid with
  | none => true
  | some g => !g.loadsBefore j.pid && !(g.stq ++ g.stqWait).any (fun h => decide (h.id < j.pid)) &&
      !g.pend.any (fun e => decide (e.1 < j.pid) && e.2.storing) && !unresolved s j.gid j.pid

/-- A copy engine reads a line: translation, a token for the read, and the line in the last-level cache unless it streams (R153, R156,
R171). -/
def touchSource (u : Who) (ptr : Nat) (p : Place) (s : State) : State :=
  match p with
  | .phys pa st =>
    let s1 := install u .rd (ptr % 2 ^ 60) s
    let s2 := if st = 5 then s1 else lendTokens (1000 + u.core) (pa / 128) false s1
    if ptr.testBit 63 then s2 else llcFill (pa / 128) s2
  | _ => s

/-- A copy engine writes a line whose tokens it holds, and gives them back to the home (R153, R156, R171). -/
def touchTarget (u : Who) (ptr : Nat) (stream : Bool) (p : Place) (s : State) : State :=
  match p with
  | .phys pa _ =>
    let s1 := homeTake (pa / 128) 1 (install u .wr (ptr % 2 ^ 60) s)
    if stream then s1 else llcFill (pa / 128) s1
  | _ => s

/-- THE TOKENS OF A COPY'S DESTINATION LINES (R171): from its issue the engine has them all, and no slice keeps one of those lines. -/
def claimLines (u : Who) (j : CopyJob) (s : State) : State :=
  let mine (line : Nat) : Bool := j.holds s u.part u.asid (dieOf u.core) (128 * line)
  let s1 := dropLines (fun x => mine x.line) s
  { s1 with coh := s1.coh.map (fun (e : Nat × LineTok) => if !e.2.held.isEmpty && mine e.1 then (e.1, { e.2 with held := [], owner := none }) else e) }

/-- How reading a span went. -/
inductive Got where
  | all
  | wait
  | fail (code detail : Nat)
  deriving DecidableEq, Repr

/-- A source byte a copy has read; its bytes stand under their address without POL. -/
def CopyJob.byteAt (j : CopyJob) (a : Nat) : Option Byte :=
  j.buf.findSome? (fun b => if b.1 ≤ a then b.2[a - b.1]? else none)

/-- The aligned 4-byte words of a span of bytes. -/
def wordsIn (a n : Nat) : List Nat := (List.range ((a % 4 + n + 3) / 4)).map (fun i => a % 2 ^ 63 / 4 * 4 + 4 * i)

/-- The words of a span not yet read, as pieces (R307: each is read once). (DESIGN CHOICE, log entry 62) -/
def missing (j : CopyJob) (a n : Nat) : List (Nat × Nat) :=
  (cover (((wordsIn a n).filter (fun w => (j.byteAt w).isNone)).flatMap (fun w => (List.range 4).map (fun i => w + i)))).map
    (fun p => (p.1 + a / 2 ^ 63 * 2 ^ 63, p.2))

/-- The bytes of a span that has been read. -/
def gathered (j : CopyJob) (a n : Nat) : List Byte := (List.range n).map (fun i => (j.byteAt ((a + i) % 2 ^ 63)).getD 0)

/-- Bytes read are kept while a later chunk needs a word of them. -/
def CopyJob.forget (j : CopyJob) : CopyJob :=
  let rest := j.srcRest
  { j with buf := j.buf.filter (fun b => rest.any (fun e =>
      decide (e.1 % 2 ^ 63 / 4 * 4 < b.1 + b.2.length) && decide (b.1 < (e.1 % 2 ^ 63 + e.2 + 3) / 4 * 4))) }

/-- What a copy's records name of it (R337). -/
def copyRec (s : State) (cid ch kind : Nat) (j : CopyJob) : RecOf :=
  { kind := kind, unit := 128 + ch, token := ((pendOf s j.gid j.pid).bind (·.tok)).getD 0xFF, gid := cid, op := ch }

/-- One piece of a source read, asked for, or waiting; the first error ends the span. -/
def readPiece (cid ch : Nat) (u : Who) (j : CopyJob) (acc : State × Option (Nat × Nat)) (p : Nat × Nat) : State × Option (Nat × Nat) :=
  let s := acc.1
  if acc.2.isSome then acc
  else match placeOf s u .rd p.1 1 with
    | .error t => (dropDenied u.core u.asid t s, some (copyCode t, t.detail))
    | .ok (.away v) => (record u v (copyRec s cid ch 3 j) false s, none)
    | .ok (.fabric rank off) =>
      let r : Req := { blankReq j.gid u.core u.part rank 1 off p.2 with pid := some j.pid, copy := some (cid, ch), po := j.pid }
      (newReqs [r] (updCopy cid ch (fun j => { j with net := j.net + 1 }) s), none)
    | .ok pl =>
      let blocked : Bool := match pl with
        | .phys pa _ => heldByCopy s u.gid j.pid u.core true pa || lockedLine s u p.1 pl false ||
            ((tokOf s (pa / 128)).claimed (1000 + u.core) && !heldByCopy s 0 0 0 false pa)
        | _ => false
      if blocked then (s, none)
      else if poisoned s pl then (s, some (5, 2))
      else
        let bs := placeBytes s u pl p.2
        (updCopy cid ch (fun j => { j with buf := j.buf ++ [(p.1 % 2 ^ 63, bs)] }) (touchSource u p.1 pl s), none)

/-- Spans of the source read, as far as they can be had; an uncorrectable error in what is read now ends the copy (R305). -/
def readSpan (cid ch : Nat) (ecc : Bool) (spans : List (Nat × Nat)) (s : State) : State × Got :=
  match headCopy s cid ch with
  | none => (s, .wait)
  | some j => match copyWho s j with
    | none => (s, .wait)
    | some u =>
      let need := spans.flatMap (fun e => missing j e.1 e.2)
      if need.isEmpty then (s, .all)
      else if j.net ≠ 0 then (s, .wait)
      else match j.err with
        | some e => (s, .fail 7 e.1)
        | none =>
          if ecc then (memoryError u.part s, .fail 5 1)
          else
            let r := need.foldl (readPiece cid ch u j) (s, none)
            match r.2, headCopy r.1 cid ch with
            | some e, _ => (r.1, .fail e.1 e.2)
            | none, some j1 => if spans.all (fun e => (missing j1 e.1 e.2).isEmpty) then (r.1, .all) else (r.1, .wait)
            | none, none => (r.1, .wait)

/-! ### Writing the destination -/

/-- A chunk is visible at its destination (R303): write pointer, barrier, generator; the copy ends with its last chunk. -/
def chunkDone (cid ch : Nat) (s : State) : State :=
  match headCopy s cid ch with
  | none => s
  | some j =>
    let n := j.chunk.1.2
    let s1 := updCopy cid ch (fun j => CopyJob.forget { j with done := j.done + n, sent := false }) s
    let s2 := updChan cid ch (fun h => { h with
      pos := (h.pos + n) % 2 ^ 63, gen := if j.conv ≠ 0 ∧ j.rm = 4 then sgenAdvance h.gen else h.gen }) s1
    let s3 := match j.bar with
      | some b => updBar cid b (fun x => x.change (-(n : Int)) false) s2
      | none => s2
    if j.total ≤ j.done + n then endCopy cid ch 0 0 s3 else s3

/-- A store of bytes to a locked replica asks for its turn (R174, R303); the copy waits for it. -/
def chunkLock (cid ch : Nat) (u : Who) (k a : Nat) (bs : List Byte) (s : State) : State :=
  startLock { id := 0, key := k, off := a % 2 ^ 16, own := true, writer := 0, step := 0, left := [], gid := cid, hid := ch, el := 0
              pkt := none, part := u.part, data := bs, since := 0, copy := true }
    (updCopy cid ch (fun j => { j with sent := true, net := 1 }) s)

/-- Bytes written on a page of this device by a copy: tokens, poison, migration marks (R171, R311, R358). -/
def copyWrite (u : Who) (j : CopyJob) (a : Nat) (p : Place) (bs : List Byte) (s : State) : State :=
  let s1 := clearPoison (Place.bytes bs.length p) (placeWrite u p bs (touchTarget u a j.stream p s))
  match pageKey s u.part u.asid (a % 2 ^ 60 / 2 ^ 16) with
  | some k => markMigrated k (a % 2 ^ 16) s1
  | none => s1

/-- The group whose window a copy writes has ended: its writes are discarded (R285, R300). -/
def CopyJob.noTarget (s : State) (j : CopyJob) : Bool := !(s.groups.find j.xgid).any (fun g => !g.ended)

/-- A chunk written at its destination, sent to another device, or brought to the turn of its store to a locked replica; or the copy stays
at it. -/
def writeChunk (cid ch : Nat) (u : Who) (j : CopyJob) (a : Nat) (bs : List Byte) (s : State) : State :=
  if bits a 62 60 = 3 ∧ j.noTarget s then chunkDone cid ch s else
  let uw : Who := if bits a 62 60 = 3 then { u with gid := j.xgid, w := ((s.groups.find j.xgid).map (·.w)).getD 0 } else u
  match placeOf s uw .wr a 1 with
  | .error t => endCopy cid ch (copyCode t) t.detail (dropDenied u.core u.asid t s)
  | .ok (.away v) => record u v (copyRec s cid ch 4 j) false s
  | .ok (.fabric rank off) =>
    let rs := (pieces bs.length off bs.length).map (fun q =>
      { blankReq j.gid u.core u.part rank 2 q.1 q.2 with
        data := slice bs off q.1 q.2, pid := some j.pid, copy := some (cid, ch), po := j.pid })
    newReqs rs (updCopy cid ch (fun j => { j with sent := true, net := rs.length }) s)
  | .ok (.phys pa st) =>
    if heldByCopy s u.gid j.pid u.core true pa ∨ lockedLine s u a (.phys pa st) true then s
    else match (if st = 4 then lockKey s u.part u.asid (a % 2 ^ 60 / 2 ^ 16) else none) with
      | some k => chunkLock cid ch u k a bs s
      | none => chunkDone cid ch (copyWrite u j a (.phys pa st) bs s)
  | .ok p => chunkDone cid ch (clearPoison (p.bytes bs.length) (placeWrite uw p bs s))

/-- One chunk of the copy at the head of a channel, as far as it goes (R303 to R306, R312). The FLAGS take in the conditions of a chunk whose
write then fails (DESIGN CHOICE, log entry 148); the DETAIL of an ABORT, where no access failed, is 0 (DESIGN CHOICE, log entry 149). -/
def copyStep (cid ch : Nat) (ecc : Bool) (s : State) : State :=
  match headCopy s cid ch with
  | none => s
  | some j => match copyWho s j with
    | none => s
    | some u =>
      if j.failing.isSome then s
      else if j.sent then
        (if j.net ≠ 0 then s
         else match j.err with
          | some e => endCopy cid ch 7 e.1 s
          | none => chunkDone cid ch s)
      else if j.abort then endCopy cid ch 8 0 s
      else if !copyFree s j ∨ (j.kind = 3 ∧ j.checked ≤ j.done / 65536) then s
      else
        let ((a, n), (sa, sn)) := j.chunk
        if j.kind = 2 then writeChunk cid ch u j a (j.fill a n) s
        else
          let r := readSpan cid ch ecc [(sa, sn)] s
          match r.2, headCopy r.1 cid ch with
          | .fail code detail, _ => endCopy cid ch code detail r.1
          | .all, some j1 =>
            let gen := ((r.1.cohorts.find cid).map (fun co => (co.chan ch).gen)).getD 1
            let (bs, fl) := j.convert gen a (gathered j1 sa sn)
            writeChunk cid ch u j1 a bs (updCopy cid ch (fun j => { j with flags := j.flags ||| fl }) r.1)
          | _, _ => r.1

/-- What waited for a copy's lines goes on (R171). -/
def afterCopy (s : State) : State := unstall (settleAll s)

/-- `COPY_CHUNK_DELIVERY` (R303). -/
def execCopyChunkDelivery (cid ch : Nat) (ecc : Bool) (s : State) : Out := .next (afterCopy (copyStep cid ch ecc s))

/-! ### Weight pages (R310, R311) -/

/-- The siblings the check of a leaf reads, from the leaf up. -/
def treeNodes : Nat → Nat → List Nat
  | 0, _ => []
  | n + 1, k => if k ≤ 1 then [] else (if k % 2 = 0 then k + 1 else k - 1) :: treeNodes n (k / 2)

/-- The root a leaf's hash leads to. -/
def climb : Nat → List (List Byte) → List Byte → List Byte
  | _, [], h => h
  | k, sib :: t, h => climb (k / 2) t (if k % 2 = 0 then sha256 (h ++ sib) else sha256 (sib ++ h))

/-- The address and length of a tree node. -/
def nodeSpan (tree k : Nat) : Nat × Nat := (wrap 64 ((tree : Int) + 32 * (k : Int)), 32)

/-- The big-endian digest as a number. -/
def digestOf (bs : List Byte) : Nat := beBytes bs

/-- A copy ends with a HASH (R310): also delivered to its group. -/
def hashFail (cid ch : Nat) (j : CopyJob) (detail addr : Nat) (s : State) : State :=
  addCond j.gid ⟨0x0F, detail, addr, none⟩ (endCopy cid ch 6 detail s)

/-- A line of this device marked poisoned (R311). -/
def markPoison (p : Place) (s : State) : State :=
  match p with
  | .phys pa _ => { s with poison := (pa / 128) :: s.poison.filter (· != pa / 128) }
  | .sram k => { s with poison := (2 ^ 50 + k / 128) :: s.poison.filter (· != 2 ^ 50 + k / 128) }
  | _ => s

/-- THE DESTINATION LINES OF A FAILED PAGE (R311): each in turn written with zeros, as a chunk is, and marked poisoned; on a locked replica
each store has its turn (R174, R303). Then the copy ends. (DEDUCED, log entry 68) -/
def poisonFrom (cid ch : Nat) (u : Who) : Nat → State → State
  | 0, s => s
  | n + 1, s => match headCopy s cid ch with
    | none => s
    | some j => match j.failing with
      | none => s
      | some (i, detail) =>
        let p := j.done / 65536
        let a := j.dstAt 0 (65536 * p + 128 * i)
        let next (s : State) : State := updCopy cid ch (fun j => { j with sent := false, failing := some (i + 1, detail) }) s
        let zeros : List Byte := List.replicate 128 0
        if j.abort ∧ !j.sent then endCopy cid ch 8 0 s
        else if 512 ≤ i then hashFail cid ch j detail (j.srcAt 0 (65536 * p)) s
        else match placeOf s u .wr a 128 with
          | .ok (.away v) => if j.sent then (if j.net ≠ 0 then s else poisonFrom cid ch u n (next s)) else record u v (copyRec s cid ch 4 j) false s
          | .ok (.phys pa st) =>
            if j.sent then (if j.net ≠ 0 then s else poisonFrom cid ch u n (next (markPoison (.phys pa st) s)))
            else if heldByCopy s u.gid j.pid u.core true pa ∨ lockedLine s u a (.phys pa st) true then s
            else match (if st = 4 then lockKey s u.part u.asid (a % 2 ^ 60 / 2 ^ 16) else none) with
              | some k => chunkLock cid ch u k a zeros s
              | none => poisonFrom cid ch u n (next (markPoison (.phys pa st) (copyWrite u j a (.phys pa st) zeros s)))
          | .ok (.sram k) => poisonFrom cid ch u n (next (markPoison (.sram k) (placeWrite u (.sram k) zeros s)))
          | _ => poisonFrom cid ch u n (next s)

/-- A page fails its check (R310, R311). -/
def poisonPage (cid ch : Nat) (u : Who) (detail : Nat) (s : State) : State :=
  poisonFrom cid ch u 514 (updCopy cid ch (fun j => { j with failing := some (0, detail) }) s)

/-- The check of the next page of a `CPVER` (R310): its bytes against its leaf, and only then the siblings up to the root.
(DEDUCED, log entry 64) -/
def pageCheckStep (cid ch : Nat) (ecc : Bool) (s : State) : State :=
  match headCopy s cid ch with
  | none => s
  | some j => match copyWho s j with
    | none => s
    | some u =>
      let p := j.done / 65536
      if j.failing.isSome then poisonFrom cid ch u 514 s
      else if j.kind ≠ 3 ∨ j.sent ∨ p < j.checked then s
      else if j.abort then endCopy cid ch 8 0 s
      else if !copyFree s j then s
      else match j.root with
        | none => hashFail cid ch j 3 0 s
        | some root =>
          let leaf := 2 ^ j.logp + j.first + p
          let page := j.srcAt 0 (65536 * p)
          let node (j : CopyJob) (k : Nat) : List Byte := gathered j (nodeSpan j.tree k).1 32
          let r := readSpan cid ch ecc [(page, 65536), nodeSpan j.tree leaf] s
          match r.2, headCopy r.1 cid ch with
          | .fail code detail, _ => endCopy cid ch code detail r.1
          | .all, some j1 =>
            let h := sha256 (gathered j1 page 65536)
            if h ≠ node j1 leaf then poisonPage cid ch u 1 r.1
            else
              let sibs := treeNodes (j.logp + 1) leaf
              let q := readSpan cid ch ecc (sibs.map (nodeSpan j.tree)) r.1
              (match q.2, headCopy q.1 cid ch with
                | .fail code detail, _ => endCopy cid ch code detail q.1
                | .all, some j2 =>
                  if digestOf (climb leaf (sibs.map (node j2)) h) ≠ root then poisonPage cid ch u 2 q.1
                  else updCopy cid ch (fun j => { j with checked := p + 1 }) q.1
                | _, _ => q.1)
          | _, _ => r.1

/-- `WEIGHT_PAGE_CHECK` (R310). -/
def execWeightPageCheck (at' : ChanRef) (ecc : Bool) (s : State) : Out := .next (afterCopy (pageCheckStep at'.cid at'.ch ecc s))

/-! ### Issue (R298 to R302) -/

/-- The descriptor of a copy. -/
structure CopyDesc where
  dst : Nat
  src : Nat
  lens : Nat
  cmd : Nat
  str : Nat
  tree : Nat
  pages : Nat
  deriving DecidableEq, Repr

/-- The registers from sQ on (R299). (DEDUCED, log entry 61) -/
def copyDesc (c : Ctx) (kind q : Nat) : CopyDesc :=
  { dst := c.sn q, src := c.sn (q + 1), lens := c.sn (q + 2), cmd := c.sn (q + 3), str := if kind = 1 then c.sn (q + 4) else 0
    tree := if kind = 3 then c.sn (q + 4) else 0, pages := if kind = 3 then c.sn (q + 5) else 0 }

/-- The job of a descriptor; what its fields say, checked by `copyBad`. -/
def copyJob (c : Ctx) (kind : Nat) (d : CopyDesc) (pid : Nat) (root : Option Nat) : CopyJob :=
  { gid := c.run.gid, pid := pid, kind := kind, dst := d.dst, src := if kind = 2 then 0 else d.src, pat := if kind = 2 then d.src else 0
    rows := bits d.lens 47 32 + 1, len := bits d.lens 30 0
    dstr := if kind = 1 then sext 32 (d.str / 2 ^ 32) else 0, sstr := if kind = 1 then sext 32 d.str else 0
    conv := bits d.cmd 10 8, rm := if bits d.cmd 13 11 = 7 then c.g.frm % 8 else bits d.cmd 13 11, sat := d.cmd.testBit 14
    bar := if d.cmd.testBit 3 then some (bits d.cmd 7 4) else none
    xgid := if d.cmd.testBit 17 then c.co.gids.getD (bits d.cmd 21 18) c.run.gid else c.run.gid
    tree := d.tree, logp := bits d.pages 39 32, first := bits d.pages 31 0, root := root, done := 0, flags := 0, checked := 0
    abort := false, net := 0, buf := [], err := none, sent := false
    stream := bits d.cmd 16 15 = 2 || (bits d.cmd 16 15 = 0 && d.dst.testBit 63) }

/-- First and last byte addresses of the rows of one side. -/
def rowEnds (at' : Nat → Nat → Nat) (rows n : Nat) : List Nat :=
  (List.range rows).flatMap (fun r => [at' r 0, at' r (n - 1)])

/-- A side leaves its pointer's space, or in space 1 its rank (R301). -/
def leaves (ptr : Nat) (ends : List Nat) : Bool :=
  ends.any (fun a => bits a 62 60 != bits ptr 62 60 || (bits ptr 62 60 == 1 && bits a 59 48 != bits ptr 59 48))

/-- The lowest and the highest byte of a side, without the space. -/
def spanOf (ends : List Nat) : Nat × Nat :=
  let xs := ends.map (· % 2 ^ 60)
  (xs.foldl min (2 ^ 60), xs.foldl max 0)

/-- What a copy's descriptor raises as ILLEGAL, by the rows of R301. -/
def copyBad (kind q top : Nat) (c : Ctx) : Option Trap :=
  if top < q then some (.illegal 8)
  else
    let d := copyDesc c kind q
    let j := copyJob c kind d 0 none
    let x := d.cmd.testBit 17
    let rmf := bits d.cmd 13 11
    let mbz := d.cmd / 2 ^ 26 ≠ 0 ∨ (kind ≠ 3 ∧ bits d.cmd 25 22 ≠ 0) ∨ (!x ∧ bits d.cmd 21 18 ≠ 0) ∨ (x ∧ bits d.dst 62 60 ≠ 3) ∨
      bits d.cmd 16 15 = 3 ∨ 5 ≤ j.conv ∨ rmf = 5 ∨ rmf = 6 ∨ (j.conv = 0 ∧ (rmf ≠ 0 ∨ j.sat)) ∨
      d.lens / 2 ^ 48 ≠ 0 ∨ d.lens.testBit 31 ∨ d.pages / 2 ^ 40 ≠ 0
    let shape := j.len = 0 ∨ ((j.conv = 1 ∨ j.conv = 2) ∧ j.len % 2 = 1) ∨ (2 ≤ kind ∧ j.conv ≠ 0) ∨
      (kind = 3 ∧ (j.len % 65536 ≠ 0 ∨ 24 < j.logp ∨ 2 ^ j.logp < j.first + j.len / 65536)) ∨ (kind ≠ 1 ∧ j.rows ≠ 1)
    let dEnds := rowEnds j.dstAt j.rows j.dlen
    let sEnds := if kind = 2 then [] else rowEnds j.srcAt j.rows j.len
    let same := kind ≠ 2 ∧ bits d.dst 62 60 = bits d.src 62 60 ∧ (bits d.dst 62 60 ≠ 3 ∨ j.xgid = c.run.gid) ∧
      (spanOf dEnds).1 ≤ (spanOf sEnds).2 ∧ (spanOf sEnds).1 ≤ (spanOf dEnds).2
    if mbz ∨ shape then some (.illegal 8)
    else if 2 ^ 31 - 1 < j.total ∨ leaves d.dst dEnds ∨ leaves d.src sEnds then some (.illegal 8)
    else if x ∧ c.co.gids.length ≤ bits d.cmd 21 18 then some (.illegal 7)
    else if same then some (.illegal 9)
    else none

/-- A pointer fault of R152 on the bytes from one address to another, `w` being the window's size: in space 2 every die the bytes lie on
counts, and the first byte that ADDRESS meets, else the first that PERM meets. (DEDUCED, log entry 65) -/
def pointerFault (s : State) (part w : Nat) (lo hi : Nat) : Option Trap :=
  match bits lo 62 60 with
  | 0 => none
  | 1 => none
  | 2 =>
    let segs := (List.range (hi / 2 ^ 26 - lo / 2 ^ 26 + 1)).map (fun i =>
      (max lo ((lo / 2 ^ 26 + i) * 2 ^ 26), min hi ((lo / 2 ^ 26 + i) * 2 ^ 26 + 2 ^ 26 - 1)))
    let absent (e : Nat × Nat) : Option Nat :=
      let die := bits e.1 28 26
      if bits e.1 59 29 ≠ 0 ∨ !s.dies.testBit die then some e.1
      else if s.sramSize die ≤ e.2 % 2 ^ 26 then some (max e.1 (e.1 / 2 ^ 26 * 2 ^ 26 + s.sramSize die)) else none
    match segs.findSome? absent with
    | some a => some { code := 0x07, detail := 5, addr := a }
    | none => (segs.find? (fun e => !(s.partDies part).contains (bits e.1 28 26))).map (fun e => { code := 0x09, detail := 5, addr := e.1 })
  | 3 =>
    if 128 * w ≤ lo % 2 ^ 60 then some (.window (lo % 2 ^ 60 / 128))
    else if 128 * w ≤ hi % 2 ^ 60 then some (.window w) else none
  | _ => some { code := 0x07, detail := 1, addr := lo }

/-- The pointer faults of the rows of a side. -/
def sideFaults (s : State) (part w : Nat) (at' : Nat → Nat → Nat) (rows n : Nat) : List Trap :=
  (List.range rows).filterMap (fun r => pointerFault s part w (at' r 0) (at' r (n - 1)))

/-- The address faults of a copy in the order of R301: WINDOW, then ADDRESS, ALIGN and PERM, each for DST, SRC and TREE in turn. -/
def copyFaults (s : State) (c : Ctx) (j : CopyJob) : List Trap :=
  let part := s.partOf c.co.core
  -- every group of a launch has the same window (R95), one already released too
  let wx := c.g.w
  let dst := sideFaults s part wx j.dstAt j.rows j.dlen
  let src := if j.kind = 2 then [] else sideFaults s part c.g.w j.srcAt j.rows j.len
  let treeEnd : Nat := wrap 64 ((j.tree : Int) + 32 * (2 ^ (j.logp + 1) : Nat) - 1)
  let tree := if j.kind = 3 then (pointerFault s part c.g.w j.tree treeEnd).toList else []
  let space := bits j.dst 62 60
  let addr : List Trap := if j.kind = 3 ∧ space ≠ 0 ∧ space ≠ 2 then [{ code := 0x07, detail := 8, addr := j.dst }] else []
  let odd (p : Nat) (st : Int) : Bool := p % 2 == 1 || st % 2 == 1
  let al : List Trap :=
    (if (3 ≤ j.conv ∧ odd j.dst j.dstr) ∨ (j.kind = 3 ∧ j.dst % 128 ≠ 0) then [{ code := 0x08, addr := j.dst }] else []) ++
    (if (j.conv = 1 ∨ j.conv = 2) ∧ odd j.src j.sstr then [{ code := 0x08, addr := j.src }] else [])
  let all := dst ++ addr ++ src ++ tree
  all.filter (fun t => t.code == 6) ++ all.filter (fun t => t.code == 7) ++ al ++ all.filter (fun t => t.code == 9)

/-- A copy takes its slot and its place, or waits for a slot at the end of its run (R297). -/
def enterCopy (c : Ctx) (ch sd k : Nat) (j : CopyJob) (s : State) : State :=
  let ok := decide (slotsUsed s c.co.core < 128)
  let p : Pend := { tok := some k, op := .copy ch sd (if ok then none else some j), dst := if sd = 0 then [] else [(locS sd, locS sd)]
                    accepted := ok }
  let s1 := addPend c p s
  if ok then claimLines (whoOf s c) j (updChan c.g.cid ch (fun h => h.push (.copy j)) s1)
  else s1.updR c.slot (fun r => { r with waits := r.waits ++ [.accept s.nextId] })

/-- A copy of a kind: 0 `CP`, 1 `CP.2D`, 2 `CPFILL`, 3 `CPVER`; `top` is the last register sQ may be. -/
def copyInstr (kind top sd q k : Nat) (s : State) : Out :=
  issueRole .copy 4 s (copyBad kind q top) (fun c => do
    let d := copyDesc c kind q
    let ch := d.cmd % 8
    need (decide (ch < ((s.launches.find c.co.launch).map (·.ch)).getD 0)) (.window ch 3)
    let root := s.roots.find (16 * s.partOf c.co.core + bits d.cmd 25 22)
    let j := copyJob c kind d s.nextId (if kind = 3 then root else none)
    memChecks c (some k) (copyFaults s c j).head?
    return enterCopy c ch sd k j s)

/-- `CP` (R298, R302). -/
def execCp (sd q k : Nat) (s : State) : Out := copyInstr 0 60 sd q k s
/-- `CP.2D` (R298, R302). -/
def execCp2d (sd q k : Nat) (s : State) : Out := copyInstr 1 59 sd q k s
/-- `CPFILL` (R298, R302). -/
def execCpfill (sd q k : Nat) (s : State) : Out := copyInstr 2 60 sd q k s
/-- `CPVER` (R298, R310). -/
def execCpver (sd q k : Nat) (s : State) : Out := copyInstr 3 58 sd q k s

/-- `COPY_SLOT_FREE` (R297): a waiting copy of a group takes a slot once its run has ended. -/
def execCopySlotFree (gid : Nat) (s : State) : Out :=
  .next (match s.groups.find gid with
    | none => s
    | some g => match s.cohorts.find g.cid with
      | none => s
      | some co =>
        if 128 ≤ slotsUsed s co.core ∨ s.runs.any (fun r => r.2.gid == gid) then s
        else match g.pend.find? (fun e => !e.2.accepted && (match e.2.op with
            | .copy _ _ (some _) => true
            | _ => false)) with
          | some (pid, p) => match p.op with
            | .copy ch sd (some j) =>
              let s1 := updChan g.cid ch (fun h => h.push (.copy j)) (updPend gid pid (fun p => { p with accepted := true, op := .copy ch sd none }) s)
              (match whoOfGid s gid with
                | some u => claimLines u j s1
                | none => s1)
            | _ => s
          | none => s)

/-- A channel named by an instruction (R296). -/
def chanOk (c : Ctx) (ch : Nat) : Except Trap Unit := need (decide (ch < c.la.ch)) (.window ch 3)

/-- `wp` as it reads (R308). -/
def Chan.word (h : Chan) : Nat := b2n h.fail * 2 ^ 63 + h.pos

/-- `CPWP` and `CPWP.CLR` (R308). -/
def cpwp (clr : Bool) (d ch : Nat) (s : State) : Out :=
  issueRole .copy 4 s (fun _ => none) (fun c => do
    chanOk c ch
    let x := (c.co.chan ch).word
    let s1 := if clr then updChan c.g.cid ch (fun h => { h with fail := false }) s else s
    return commitW c (wrS d (BitVec.ofNat 64 x)) s1)

/-- `CPWP` (R308). -/
def execCpwp (d ch : Nat) (s : State) : Out := cpwp false d ch s
/-- `CPWP.CLR` (R308). -/
def execCpwpClr (d ch : Nat) (s : State) : Out := cpwp true d ch s
/-- `CPNUM` (R308). -/
def execCpnum (d : Nat) (s : State) : Out :=
  issueRole .copy 4 s (fun _ => none) (fun c => .ok (commitW c (wrS d (BitVec.ofNat 64 c.co.copies)) s))
/-- `CPSEED` (R306): at its place in channel order. -/
def execCpseed (ch a : Nat) (s : State) : Out :=
  issueRole .copy 4 s (fun _ => none) (fun c => do
    chanOk c ch
    let v := c.sn a % 2 ^ 32
    return updChan c.g.cid ch (fun h => h.push (.seed (if v = 0 then 1 else v))) s)

/-! ### Root slots (R309) -/

/-- A root-slot write logged: slot number in byte 16 of the entry and the digest in bytes 63:32 (R408). -/
def logRoot (gid pid part k : Nat) (digest : Option Nat) (s : State) : State :=
  let bytes : List Byte := match digest with
    | some d => (toBytes 32 d).reverse
    | none => List.replicate 32 0
  logEvent (if digest.isSome then 1 else 2) part (toBytes 1 k ++ List.replicate 15 0 ++ bytes) (some ⟨part, k, digest, gid, pid⟩) s

/-- `CPROOT` (R309): the digest's bytes as elements of a load. (DEDUCED, log entry 63) -/
def execCproot (k b t : Nat) (s : State) : Out :=
  issueRole .copy 4 s (fun _ => none) (fun c => do
    bindable c t
    need c.la.priv .privileged
    let ptr := c.sn b
    let u := whoOf s c
    memChecks c none ((List.range 32).findSome? (fun (i : Nat) => placeErr (placeOf s u .rd (addr64 ptr i) 1)))
    let els := (List.range 32).map (fun i => (i, ({ ptr := addr64 ptr (i : Nat), n := 1, nib := none, dst := .v scratchReg (8 * i) 8 } : LdEl)))
    return issueLoad c { tok := some t, op := .cproot k ptr none, els := els } [] s)

/-- `CPROOT` with CLR (R309). -/
def execCprootClr (k t : Nat) (s : State) : Out :=
  issueRole .copy 4 s (fun _ => none) (fun c => do
    bindable c t
    need c.la.priv .privileged
    let pid := s.nextId
    return logRoot c.run.gid pid (s.partOf c.co.core) k none (addPend c { tok := some t, op := .cproot k 0 (some 0) } s))

/-- The digest of a `CPROOT` whose bytes have arrived is logged (R309), with the words an error spoils zero (R199); of a gang that has ended
nothing is, and the token clears (R108). -/
def rootArrived (gid pid : Nat) (s : State) : State :=
  match pendOf s gid pid, whoOfGid s gid with
  | some p, some u => match p.op with
    | .cproot k ptr none =>
      if p.left ≠ 0 ∨ !p.els.isEmpty then s
      else if p.void then finish gid pid s
      else
        let words := (List.range 4).map (Pend.word64 { p with wrs := p.good })
        let digest := digestOf (words.flatMap (toBytes 8))
        logRoot gid pid u.part k (some digest) (updPend gid pid (fun p => { p with op := .cproot k ptr (some digest), wrs := [] }) s)
    | _ => s
  | _, _ => s

end Sys2Proof.Machine
end

