-- ==== Sys2Proof/Machine/Control.lean ====
section
/-! DEFINITION. Branches, calls, the plain system instructions, `SETVL` and mask-register logic: R122 to R127, R138 to R141. -/

namespace Sys2Proof.Machine

/-- The word index of the instruction the run stands at (R122). -/
def Ctx.here (c : Ctx) : Int := c.run.word + 1 + c.run.off / 2

/-- Lanes' targets, taken when the run ends (R87, R122): live lanes of the active set for which `f` gives one. -/
def setXfer (c : Ctx) (f : Nat → Option Nat) (s : State) : State :=
  let put (acc : Tab Nat) (L : Nat) : Tab Nat :=
    match f L with
    | some x => acc.put L x
    | none => acc
  s.updR c.slot (fun r => { r with xfer := (lanesOf (liveOf c.g c.run.aset)).foldl put r.xfer })

/-- The link words of a call, for the live lanes of the active set (R123). -/
def linkW (c : Ctx) (v : Nat) : List Wr :=
  (lanesOf (liveOf c.g c.run.aset)).map (fun L => wrV v L (c.run.next % 2 ^ 32))

/-- WINDOW if a register index is at or beyond W (R65). -/
def inWindow (c : Ctx) (v : Nat) : Except Trap Unit := if v < c.g.w then .ok () else .error (.window v)

/-- `BRA` (R123). -/
def execBra (o : Int) (s : State) : Out :=
  issue 4 s (fun c => .ok (setXfer c (fun _ => some (pcOf (c.here + o))) s))

/-- `CALL` (R123). -/
def execCall (o : Int) (l : Nat) (s : State) : Out :=
  issue 4 s (fun c => do
    inWindow c l
    return setXfer c (fun _ => some (pcOf (c.here + o))) (commitW c (linkW c l) s))

/-- A branch on mask register `k`, by a decision per lane (R124). -/
def brMask (k : Nat) (o : Int) (take : (Nat → Bool) → List Nat → Nat → Bool) (s : State) : Out :=
  issue 4 s (fun c =>
    let m := c.m k
    let A := lanesOf (liveOf c.g c.run.aset)
    .ok (setXfer c (fun L => if take (fun K => m.getLsbD K) A L then some (pcOf (c.here + o)) else none) s))

/-- `BRM` (R124). -/
def execBrm (o : Int) (k : Nat) (s : State) : Out := brMask k o (fun b _ L => b L) s
/-- `BRMZ` (R124). -/
def execBrmz (o : Int) (k : Nat) (s : State) : Out := brMask k o (fun b _ L => !b L) s
/-- `BRANY` (R124). -/
def execBrany (o : Int) (k : Nat) (s : State) : Out := brMask k o (fun b A _ => A.any b) s
/-- `BRALL` (R124). -/
def execBrall (o : Int) (k : Nat) (s : State) : Out := brMask k o (fun b A _ => A.all b) s

/-- `BNZ` (R125). -/
def execBnz (o : Int) (k : Nat) (s : State) : Out :=
  issue 4 s (fun c => .ok (setXfer c (fun _ => if c.s k ≠ 0 then some (pcOf (c.here + o)) else none) s))
/-- `BZ` (R125). -/
def execBz (o : Int) (k : Nat) (s : State) : Out :=
  issue 4 s (fun c => .ok (setXfer c (fun _ => if c.s k = 0 then some (pcOf (c.here + o)) else none) s))

/-- `JMP` (R126). -/
def execJmp (a : Nat) (s : State) : Out :=
  issue 4 s (fun c => .ok (setXfer c (fun _ => some (pcOf (c.sn a))) s))
/-- `JMPV` (R126). -/
def execJmpv (a : Nat) (s : State) : Out :=
  issue 4 s (fun c => do
    inWindow c a
    return setXfer c (fun L => some (pcOf (c.vw a L))) s)
/-- `CALLI` (R126): target sA, link vB. -/
def execCalli (a b : Nat) (s : State) : Out :=
  issue 4 s (fun c => do
    inWindow c b
    return setXfer c (fun _ => some (pcOf (c.sn a))) (commitW c (linkW c b) s))
/-- `CALLV` (R126): the target is read before the link is written. -/
def execCallv (a b : Nat) (s : State) : Out :=
  issue 4 s (fun c => do
    inWindow c b
    inWindow c a
    return setXfer c (fun L => some (pcOf (c.vw a L))) (commitW c (linkW c b) s))

/-- `NOP` (R127). -/
def execNop (s : State) : Out := issue 4 s (fun _ => .ok s)
/-- `PAD` (R59): no operation, in a run of every role. -/
def execPad (s : State) : Out := issue 2 s (fun _ => .ok s)
/-- `EXIT` (R127): the lanes exit when the run ends (R85, R87). -/
def execExit (s : State) : Out := issue 4 s (fun c => .ok (s.updR c.slot (fun r => { r with exits := true })))
/-- `BREAK` (R127): the trap names the instruction behind it (R105). -/
def execBrk (i : Nat) (s : State) : Out :=
  match ctxOf s with
  | none => .fault .notIssuing
  | some c => .next (takeTrap { c with run := { c.run with off := c.run.off + 2 } } { code := 0x12, detail := i } s)
/-- `WAITDEP` (R101, R127): a wait that begins when the run ends (R129). -/
def execWaitdep (s : State) : Out :=
  issue 4 s (fun c => .ok (s.updR c.slot (fun r => { r with waits := r.waits ++ [.dep] })))
/-- `TKRD` (R127). -/
def execTkrd (a : Nat) (s : State) : Out :=
  issue 4 s (fun c => .ok (commitW c (wrS a (c.g.tk.setWidth 64)) s))

/-- VLMAX of a `vtype` value (R138). -/
def vlmaxOf (vt : Nat) : Nat := 1024 / (4 * 2 ^ (vt % 8)) * 2 ^ (vt / 8 % 4)

/-- `vtype` and `vl` set, sD := `vl` (R139). -/
def setVl (c : Ctx) (d n vt : Nat) (s : State) : State :=
  let vl := min n (vlmaxOf vt)
  commitW c (wrS d (BitVec.ofNat 64 vl)) (updCtxG c (fun g => { g with vtype := vt }.write ⟨locVl, 2 ^ 64 - 1, vl⟩) s)

/-- `SETVL` (R139). -/
def execSetvl (d n p g e : Nat) (s : State) : Out :=
  issue 4 s (fun c => .ok (setVl c d (c.sn n) (p * 192 + g * 8 + e) s))
/-- `SETVLR` (R139). -/
def execSetvlr (d n cc : Nat) (s : State) : Out :=
  issue 4 s (fun c =>
    let v := c.sn cc
    if 256 ≤ v ∨ v.testBit 5 ∨ 5 ≤ v % 8 then .error .illegal
    else .ok (setVl c d (c.sn n) v s))

/-- mD := f mA mB (R141). -/
def maskOp (d a b : Nat) (f : VReg → VReg → VReg) (s : State) : Out :=
  issue 4 s (fun c => .ok (commitW c (wrM d (f (c.m a) (c.m b))) s))

/-- `MAND` (R141). -/
def execMand (d a b : Nat) (s : State) : Out := maskOp d a b (fun x y => x &&& y) s
/-- `MOR` (R141). -/
def execMor (d a b : Nat) (s : State) : Out := maskOp d a b (fun x y => x ||| y) s
/-- `MXOR` (R141). -/
def execMxor (d a b : Nat) (s : State) : Out := maskOp d a b (fun x y => x ^^^ y) s
/-- `MANDN` (R141). -/
def execMandn (d a b : Nat) (s : State) : Out := maskOp d a b (fun x y => x &&& ~~~y) s
/-- `MORN` (R141). -/
def execMorn (d a b : Nat) (s : State) : Out := maskOp d a b (fun x y => x ||| ~~~y) s
/-- `MNOT` (R141). -/
def execMnot (d a : Nat) (s : State) : Out := maskOp d a a (fun x _ => ~~~x) s
/-- `MMOV` (R141). -/
def execMmov (d a : Nat) (s : State) : Out := maskOp d a a (fun x _ => x) s
/-- `MVL` (R141): ones below `vl`. A mask register has 1,024 bits. -/
def execMvl (d : Nat) (s : State) : Out :=
  issue 4 s (fun c => .ok (commitW c (wrM d (BitVec.ofNat 1024 (2 ^ min c.g.vl 1024 - 1))) s))
/-- `MACT` (R141). -/
def execMact (d : Nat) (s : State) : Out :=
  issue 4 s (fun c => .ok (commitW c (wrM d (c.run.aset.setWidth 1024)) s))
/-- `MPOP` (R141). -/
def execMpop (d a : Nat) (s : State) : Out :=
  issue 4 s (fun c => .ok (commitW c (wrS d (BitVec.ofNat 64 (popN (c.m a).toNat 1024))) s))

/-- Index of the lowest one bit from bit `i` on, among `n`. -/
def lowestBit (x i : Nat) : Nat → Option Nat
  | 0 => none
  | n + 1 => if x.testBit i then some i else lowestBit x (i + 1) n

/-- `MFIRST` (R141). -/
def execMfirst (d a : Nat) (s : State) : Out :=
  issue 4 s (fun c => .ok (commitW c (wrS d (match lowestBit (c.m a).toNat 0 1024 with
    | some i => BitVec.ofNat 64 i
    | none => BitVec.allOnes 64)) s))
/-- `MRDS` (R141). -/
def execMrds (d a k : Nat) (s : State) : Out :=
  issue 4 s (fun c => .ok (commitW c (wrS d (BitVec.ofNat 64 ((c.m a).toNat / 2 ^ (64 * k)))) s))
/-- `MWRS` (R141): the other bits keep what the register holds. -/
def execMwrs (d b k : Nat) (s : State) : Out :=
  issue 4 s (fun c =>
    .ok (commitW c [⟨locM d, (2 ^ 64 - 1) * 2 ^ (64 * k), c.sn b * 2 ^ (64 * k)⟩] s))

end Sys2Proof.Machine
end

