-- ==== Sys2Proof/Machine/Issue.lean ====
section
/-! DEFINITION. Fetching code, the shape of a run, delivery of asynchronous conditions, and the choice of a run by a slot (R55 to R62,
R86, R98, R99, R107, R110, R129). -/

namespace Sys2Proof.Machine

/-! ### Fetching code -/

/-- Where the bytes of a word of code are: in a line of the slice that the fetch hits, or where its page stands (R164). -/
def codeAt (s : State) (u : Who) (va : Nat) (l : Leaf) : Nat :=
  match l1Hit s u .fetch va l with
  | some h => 128 * h.line + va % 128
  | none => l.pa (dieOf u.core) va

/-- The lines that hold `n` words of code. -/
def codeLines (u : Who) (word n : Nat) : List Nat := ((List.range n).map (fun i => (u.code + 4 * (word + i)) / 128)).eraseDups

/-- The fetch of a line of code, or a walk it needs, has to wait for tokens (R169, R171). -/
def codeBusy (s : State) (u : Who) (line : Nat) : Bool :=
  contended s && (walkWaits s u s.nextId (128 * line % 2 ^ 60) || match xlate s u .fetch (128 * line % 2 ^ 60) with
    | .ok x => lineBusy s u s.nextId (sliceOf u.core (128 * line % 2 ^ 60)) (codeAt s u (128 * line % 2 ^ 60) x.leaf / 128)
    | .error _ => false)

/-- What the fetch of `n` words of code leaves in the caches; a line out of reach by now was fetched when the run was picked. -/
def touchCode (u : Who) (word n : Nat) (s : State) : State :=
  (codeLines u word n).foldl (fun s line =>
    match xlate s u .fetch (128 * line % 2 ^ 60) with
    | .ok x => if codeBusy s u line then s else touch u .fetch (128 * line % 2 ^ 60) (.phys (codeAt s u (128 * line % 2 ^ 60) x.leaf) 1) s
    | .error _ => s) s

/-- A word of the code segment, or the trap its fetch raises at the run head (R56, R62, R157, R158). -/
def fetchWord (s : State) (u : Who) (word : Nat) : Except Trap Nat :=
  if u.clen ≤ word then .error { code := 0x02 }
  else
    let ptr := u.code + 4 * word
    let va := ptr % 2 ^ 60
    match xlate s u .fetch va with
    | .error d => .error { code := 0x07, detail := d, addr := ptr }
    | .ok x =>
      if x.leaf.st ≠ 1 then .error { code := 0x07, detail := 7, addr := ptr }
      else match permFault u .fetch va x.leaf with
        | some d => .error { code := 0x09, detail := d, addr := ptr }
        | none => .ok (s.pmRd (codeAt s u va x.leaf) 4)

/-- The words of a body, first trap first. -/
def fetchWords (s : State) (u : Who) (word : Nat) : Nat → Except Trap (List Nat)
  | 0 => .ok []
  | n + 1 => do
    let w ← fetchWord s u word
    let t ← fetchWords s u (word + 1) n
    return w :: t

/-- A word has the shape of a run head (R57). -/
def isHead (w : Nat) : Bool := w % 256 == 0xFF
/-- LEN of a head (R57). -/
def headLen (w : Nat) : Nat := w / 256 % 64
/-- AWAIT of a head. -/
def headAwait (w : Nat) : Nat := w / 2 ^ 14 % 2 ^ 16
/-- PARK of a head. -/
def headPark (w : Nat) : Bool := w.testBit 30
/-- TMP of a head. -/
def headTmp (w : Nat) : Bool := w.testBit 31

/-- The first halfword of a control transfer: majors 0x01 to 0x04, EXIT and TRET of major 0x00 (R60, R122). A reserved encoding of these, or
one with must-be-zero bits set, counts as the transfer its major and FN name, so that before the last place it raises ILLEGAL at the head.
(DESIGN CHOICE, log entry 145) -/
def isTransfer (h : Nat) : Bool :=
  let m := h / 2 % 128
  let fn := h / 256 % 64
  (decide (1 ≤ m) && decide (m ≤ 4)) || (m == 0 && (fn == 1 || fn == 2))

/-- The offsets at which the instructions of a body begin, or none where its shape fails (R60). -/
def bodyShape (pos : Nat) : List Nat → Option (List Nat)
  | [] => some []
  | h :: t =>
    if h % 2 = 0 then (bodyShape (pos + 1) t).map (pos :: ·)
    else match t with
      | [] => none
      | _ :: t' =>
        if pos % 2 = 1 ∨ h / 2 % 128 = 0x7F ∨ (isTransfer h ∧ !t'.isEmpty) then none
        else (bodyShape (pos + 2) t').map (pos :: ·)

/-- A body as fetched: its halfwords. -/
def halfwords (ws : List Nat) : List Nat := ws.flatMap (fun w => [w % 65536, w / 65536])

/-- A run at a word: the head's fields and the body, or the trap at the head (R56, R60, R62). The checks that need no body come first, then
a fault in the fetch of the body, then the checks of the body. (DESIGN CHOICE, log entry 129) -/
def fetchRun (s : State) (u : Who) (word head : Nat) : Except Trap (List Nat × List Byte) :=
  let len := headLen head
  if u.clen < word + 1 + (len + 1) / 2 ∨ len = 0 ∨ 48 < len then .error .illegal
  else match fetchWords s u (word + 1) ((len + 1) / 2) with
    | .error t => .error t
    | .ok ws =>
      let hs := (halfwords ws).take len
      match bodyShape 0 hs with
      | none => .error .illegal
      | some offs => if 24 < offs.length then .error .illegal else .ok (offs, hs.flatMap (toBytes 2))

/-! ### Asynchronous conditions -/

/-- The issue slot a group is bound to (R96). -/
def slotOf (s : State) (g : Group) : Nat := 4 * ((s.cohorts.find g.cid).map (·.core)).getD 0 + g.idx % 4

/-- A run boundary of a group's slot: it is resident, and no run is in progress there (R90, R110). -/
def atBoundary (s : State) (g : Group) : Bool :=
  (match s.cohorts.find g.cid with
    | some co => co.resident && !co.leaving
    | none => false) && (s.runs.find (slotOf s g)).isNone && s.npartAsked.isNone

/-- A condition delivered at a run boundary (R110, R356): the trap stands at the head the group would issue; the waits that do not hold are
kept. (DEDUCED, log entry 11; DEDUCED, log entry 87) -/
def deliverCond (gid : Nat) (s00 : State) : State :=
  let s := match s00.groups.find gid with
    | some g => if g.conds.isEmpty || g.ended || !atBoundary s00 g then s00 else meetWaits gid s00
    | none => s00
  match s.groups.find gid with
  | none => s
  | some g => match g.conds, g.issueAddr with
    | k :: ks, some a =>
      if g.ended || !atBoundary s g then s
      else
        let aset := liveOf g (g.activeAt a)
        let blocked := !g.waits.isEmpty
        let q : TrapRegs := {
          tcause := 2 ^ 63 + k.detail % 65536 * 65536 + k.code
          tepc := a + 2 ^ 38 + (if blocked then 2 ^ 39 else 0)
          tlanes := aset.toNat * 2 ^ 32 + k.lanes.getD aset.toNat
          taddr := k.addr % 2 ^ 64 }
        let s0 := if k.code = 0x0C then addWcnt (((s.cohorts.find g.cid).map (·.core)).getD 0) 7 1 s else s
        let s1 := s0.updG gid (fun g => { g with conds := ks, resume := none })
        let s2 := enterTrap gid q aset (some (tempsOf s.tick { gid := gid, word := a, aset := aset })) [] s1
        s2.updG gid (fun g' => if g'.ended then g' else
          { g' with keptWaits := g.waits, waits := [], parked := false, killEnd := g'.killEnd || k.code == 0x10 })
    | _, _ => s

/-- `ASYNC_CONDITION_DELIVERY` (R110). -/
def execAsyncConditionDelivery (gid : Nat) (s : State) : Out := .next (deliverCond gid s)

/-! ### Readiness -/

/-- The tokens the head at a group's issue address awaits; a word that is no head awaits none, its trap comes at issue (R57, R62). -/
def awaitOf (s : State) (u : Who) (g : Group) : Nat :=
  match g.resume with
  | some r => r.await
  | none => match g.issueAddr with
    | none => 0
    | some a => match fetchWord s u a with
      | .ok w => if isHead w then headAwait w else 0
      | .error _ => 0

/-- A group is ready at a run boundary of its slot (R98). One with no issue address, whose handler's lanes have all exited while others stay
frozen (R103), is not. (DEDUCED, log entry 51; DESIGN CHOICE, log entry 128) -/
def isReady (s : State) (gid : Nat) (g : Group) : Bool :=
  match s.cohorts.find g.cid with
  | none => false
  | some co => match s.launches.find co.launch, whoOfGid s gid with
    | some la, some u =>
      co.resident && !g.ended && !g.parked && (g.resume.isSome || g.issueAddr.isSome) && g.waits.all (waitHolds s g co la) &&
      (g.tk.toNat &&& awaitOf s u g) == 0
    | _, _ => false

/-- The groups bound to a slot (R96). -/
def slotGroups (s : State) (sl : Nat) : List (Nat × Group) :=
  s.groups.filter (fun e => e.2.idx % 4 == sl % 4 && !e.2.ended && match s.cohorts.find e.2.cid with
    | some co => co.core == sl / 4 && co.resident && !co.leaving
    | none => false)

/-- The launch priority of a group. -/
def prioOf (s : State) (g : Group) : Nat :=
  match s.cohorts.find g.cid with
  | some co => ((s.launches.find co.launch).map (·.prio)).getD 0
  | none => 0

/-- The order of roles at a pick (R99). -/
def Role.rank : Role → Nat
  | .copy => 0
  | .matrix => 1
  | .vector => 2

/-- Lexicographic comparison of the keys of two candidates. -/
def lexLt : List Nat → List Nat → Bool
  | a :: t, b :: u => decide (a < b) || (a == b && lexLt t u)
  | _, _ => false

/-- The candidate with the least key. -/
def leastBy (f : Nat × Group → List Nat) : List (Nat × Group) → Option (Nat × Group)
  | [] => none
  | e :: t => match leastBy f t with
    | none => some e
    | some b => if lexLt (f b) (f e) then some b else some e

/-- THE CHOICE OF R99 among the ready groups of a slot. -/
def chooseGroup (s : State) (ready : List (Nat × Group)) : Option (Nat × Group) :=
  match leastBy (fun e => [e.2.overdueAt, e.2.idx]) (ready.filter (fun e => decide (16 ≤ e.2.lost))) with
  | some e => some e
  | none =>
    let fair := if 1 < ready.length then ready.filter (fun e => decide (e.2.streak < 16)) else ready
    leastBy (fun e => [7 - prioOf s e.2, e.2.role.rank, e.2.readySince, e.2.idx]) fair

/-- A group's counts before a pick: becoming ready is dated, ceasing to be ready resets the lost picks (R99). -/
def Group.mark (g : Group) (now : Bool) (tick : Nat) : Group :=
  if now then (if g.ready then g else { g with ready := true, readySince := tick })
  else { g with ready := false, lost := 0 }

/-- A group's counts after a pick (R99): `same` says whether another ready group of its priority was passed over. -/
def Group.afterPick (g : Group) (picked same : Bool) (tick : Nat) : Group :=
  if picked then { g with lost := 0, streak := if same then g.streak + 1 else 0 }
  else if g.ready then { g with lost := g.lost + 1, streak := 0, overdueAt := if g.lost + 1 = 16 then tick else g.overdueAt }
  else { g with streak := 0 }

/-- Lanes of a set with the helpers of their quads (R86). -/
def Group.withHelpers (g : Group) (base : Word32) : Word32 :=
  let live := base &&& g.liveSet
  laneSet (fun L => inSet live L || (g.isHelper L && (List.range 4).any (fun k => inSet live (4 * (L / 4) + k))))

/-- A trap at a run head (R60, R62, R102). -/
def headTrap (u : Who) (word : Nat) (aset : Word32) (t : Trap) (s : State) : State :=
  dateTrap u.gid (enterTrap u.gid (trapRegs t true 0 word aset) aset
    (some (tempsOf s.tick { gid := u.gid, word := word, aset := aset })) [] (dropDenied u.core u.asid t s))

/-- The picked group starts on the slot: its head is fetched, or the interrupted run goes on (R62, R86, R107). -/
def startRun (sl gid : Nat) (s : State) : State :=
  match s.groups.find gid, whoOfGid s gid with
  | some g, some u =>
    let s1 := s.updG gid (fun g => { g with waits := [], runWaits := if g.trap then g.runWaits else [], resume := none })
    match g.resume with
    | some r =>
      let run : Run := { gid := gid, word := r.word, len := r.len, tmp := r.tmp, park := r.park, aset := g.withHelpers r.aset, head := false
                         buf := r.buf, off := r.off, waits := g.runWaits
                         t := (List.range 8).flatMap (fun k => (List.range 32).map (fun L => (32 * k + L, laneWord (g.ts.get 0 k) L))) }
      let s2 := { s1 with runs := s1.runs.put sl run }
      if r.buf.isEmpty then endRun sl s2 else s2
    | none => match g.issueAddr with
      | none => s
      | some a =>
        let aset := g.activeAt a
        match fetchWord s u a with
        | .error t => headTrap u a (liveOf g aset) t s1
        | .ok w =>
          let s2 := touchCode u a 1 s1
          if !isHead w then headTrap u a (liveOf g aset) { code := 0x02 } s2
          else { s2 with runs := s2.runs.put sl { gid := gid, word := a, aset := aset, head := true, buf := toBytes 4 w } }
  | _, _ => s

/-- The slot waits for the code of the group it would pick: a line of that run cannot be read now (R169, R171). -/
def fetchHeld (s : State) (gid : Nat) (g : Group) : Bool :=
  contended s && g.resume.isNone && match whoOfGid s gid, g.issueAddr with
    | some u, some a => match fetchWord s u a with
      | .ok w => (codeLines u a (1 + (if isHead w then (headLen w + 1) / 2 else 0))).any (codeBusy s u)
      | .error _ => (codeLines u a 1).any (codeBusy s u)
    | _, _ => false

/-- `SLOT_PICK` (R98, R99, R110): at a run boundary of a slot, conditions that have arisen are delivered, then one ready group is picked
and its head fetched. (DESIGN CHOICE, log entry 3) -/
def pick (sl : Nat) (s0 : State) : State :=
  if (s0.runs.find sl).isSome ∨ s0.halted ∨ s0.npartAsked.isSome then s0
  else
    let s := (slotGroups s0 sl).foldl (fun s e => deliverCond e.1 (meetWaits e.1 s)) s0
    let s1 := (slotGroups s sl).foldl (fun s e => s.updG e.1 (fun g => g.mark (isReady s e.1 g) s.tick)) s
    let ready := (slotGroups s1 sl).filter (fun e => e.2.ready)
    match chooseGroup s1 ready with
    | none => s1
    | some (gid, g) =>
      if fetchHeld s1 gid g then s1 else
      let p := prioOf s1 g
      let same := ready.any (fun e => e.1 != gid && prioOf s1 e.2 == p)
      let s2 := (slotGroups s1 sl).foldl (fun s e => s.updG e.1 (fun h => h.afterPick (e.1 == gid) same s.tick)) s1
      startRun sl gid s2

/-- `SLOT_PICK` (R99). -/
def execSlotPick (sl : Nat) (s : State) : Out := .next (pick sl s)

/-- `RUN_HEAD` (R57, R60): the shape checks and the fetch of the body; in a body it is no instruction. -/
def execRunHead (t p a l : Nat) (s : State) : Out :=
  match ctxOf s with
  | none => .fault .notIssuing
  | some c =>
    if !c.run.head then .next (takeTrap c .illegal s)
    else match whoOfGid s c.run.gid with
      | none => .fault .notIssuing
      | some u => match fetchRun s u c.run.word (t * 2 ^ 31 + p * 2 ^ 30 + a * 2 ^ 14 + l * 2 ^ 8 + 0xFF) with
        | .error e => .next (takeTrap c e s)
        | .ok (_, body) =>
          let s1 := touchCode u (c.run.word + 1) ((l + 1) / 2) s
          .next (s1.updR c.slot (fun r => { r with len := l, tmp := t == 1, park := p == 1, head := false, off := 0, buf := body }))

end Sys2Proof.Machine
end

