-- ==== Sys2Proof/Machine/System.lean ====
section
/-! DEFINITION. Barriers and stage rings, control registers, the trap return, triggers and the privileged instructions: R101, R107,
R127, R142 to R150; and the fabric instructions (R385 to R388). -/

namespace Sys2Proof.Machine

/-! ### Barriers and stages -/

/-- `BAR.ARRIVE` (R142, R145): a release at cohort scope; the ticket is GEN before the change. -/
def execBarArrive (a b cc : Nat) (s : State) : Out :=
  issue 4 s (fun c =>
    let bytes := (c.s b).toInt
    let pid := s.nextId
    let s1 := addPend c { tok := none, op := .ticket, dst := if cc = 0 then [] else [(locS cc, locS cc)] } s
    .ok (hold c (fun id => .rel id (.bar a bytes pid)) s1))

/-- `BAR.CHARGE` (R142). -/
def execBarCharge (a b : Nat) (s : State) : Out :=
  issue 4 s (fun c => .ok (updBar c.g.cid a (fun x => x.change (c.s b).toInt false) s))

/-- `BAR.WAIT` (R142): the ticket is read now, or, behind releases of its group, when they have taken effect. -/
def execBarWait (a b : Nat) (s : State) : Out :=
  issue 4 s (fun c =>
    let id := s.nextId
    let held := c.g.releasesBefore id
    .ok ({ s with nextId := id + 1 }.updR c.slot (fun r => { r with
      waits := r.waits ++ [(if held then .barAfter a b id else .bar a (c.sn b % 65536) : Wait)] })))

/-- `STG.ARRIVE` (R146): a release at cohort scope. -/
def execStgArrive (n k : Nat) (s : State) : Out := issue 4 s (fun c => .ok (hold c (fun id => .rel id (.stg n k)) s))

/-- `STG.WAIT` (R146). -/
def execStgWait (n k p : Nat) (s : State) : Out :=
  issue 4 s (fun c => .ok (s.updR c.slot (fun r => { r with waits := r.waits ++ [.stg n k p] })))

/-- `TRIGGER` (R101): a release at gang scope. -/
def execTrigger (s : State) : Out := issue 4 s (fun c => .ok (hold c (fun id => .rel id .trigger) s))

/-! ### Control registers (R147 to R149) -/

/-- `fstat` as it reads (R378). -/
def FStat.word (f : FStat) : Nat :=
  f.trank % 4096 * 2 ^ 52 + f.tocnt * 2 ^ 32 + f.unkcnt * 2 ^ 16 + b2n f.nopath * 8 + b2n f.rej * 4 + b2n f.unk * 2 + b2n f.tmo

/-- The W1C fields of `fstat` cleared by a value's one bits (R378, R386). -/
def FStat.clear (f : FStat) (x : Nat) : FStat :=
  let f1 := if x.testBit 0 then { f with tmo := false, tocnt := 0 } else f
  let f2 := if x.testBit 1 then { f1 with unk := false, unkcnt := 0 } else f1
  { f2 with rej := f2.rej && !x.testBit 2, nopath := f2.nopath && !x.testBit 3 }

/-- `tvec` as it reads (R148). -/
def Cohort.tvec (co : Cohort) : Nat := b2n co.tvecEn * 2 ^ 63 + co.tvecWord

/-- A control register as it reads (R147). -/
def csrRead (g : Group) (co : Cohort) (la : Launch) (n : Nat) : Nat :=
  match n with
  | 0x00 => g.vl
  | 0x01 => g.vtype
  | 0x02 => g.frm
  | 0x03 => g.fflags
  | 0x04 => b2n g.sat
  | 0x05 => g.sgen
  | 0x06 => b2n g.dmode
  | 0x07 => gstatOf g co la
  | 0x08 => g.fstat.word
  | 0x09 => g.tcause.toNat
  | 0x0A => g.tepc.toNat
  | 0x0B => g.tlanes.toNat
  | 0x0C => g.taddr.toNat
  | 0x0D => co.tvec
  | n => if n < 0x20 then (co.bar (n - 0x10)).word else co.ring (n - 0x20)

/-- The RW bits of a control register (R23, R35, R39, R47, R104 to R106, R138, R148, R280). -/
def csrRW (n : Nat) : Nat :=
  match n with
  | 0x01 => 0xDF
  | 0x02 => 0xF
  | 0x03 => 0x1F
  | 0x04 => 1
  | 0x05 => 0xFFFFFFFF
  | 0x06 => 1
  | 0x09 => 2 ^ 63 + 0xFFFF00FF
  | 0x0A => 2 ^ 40 - 1
  | 0x0B => 2 ^ 64 - 1
  | 0x0C => 2 ^ 64 - 1
  | 0x0D => 2 ^ 63 + 0xFFFFFFFF
  | n => if 0x10 ≤ n ∧ n < 0x20 then 0x1F else 0

/-- The RW fields of a control register at a new value `v`; `w1c` are the one bits written to its W1C fields (R149). -/
def csrStore (c : Ctx) (n v w1c : Nat) (rw : Bool) (s : State) : State :=
  let cid := c.g.cid
  let up (f : Group → Group) : State := updCtxG c f s
  match n with
  | 0x01 => up (fun g => { g with vtype := v }.write ⟨locVl, 2 ^ 64 - 1, min g.vl (vlmaxOf v)⟩)
  | 0x02 => up (fun g => { g with frm := v / 8 * 8 + (if v % 8 < 5 then v % 8 else g.frm % 8) })
  | 0x03 => up (fun g => { g with fflags := v })
  | 0x04 => up (fun g => { g with sat := v == 1 })
  | 0x05 => up (fun g => { g with sgen := if v = 0 then 1 else v })
  | 0x06 => up (fun g => { g with dmode := v == 1 })
  | 0x07 => up (fun g => { g with rstr := g.rstr && !w1c.testBit 5, rpz := g.rpz && !w1c.testBit 6, fft := g.fft && !w1c.testBit 7 })
  | 0x08 => up (fun g => { g with fstat := g.fstat.clear w1c })
  | 0x09 => up (fun g => { g with tcause := BitVec.ofNat 64 v })
  | 0x0A => up (fun g => { g with tepc := BitVec.ofNat 64 v })
  | 0x0B => up (fun g => { g with tlanes := BitVec.ofNat 64 v })
  | 0x0C => up (fun g => { g with taddr := BitVec.ofNat 64 v })
  | 0x0D => s.updC cid (fun co => { co with tvecEn := v.testBit 63, tvecWord := v % 2 ^ 32 })
  | n =>
    if 0x10 ≤ n ∧ n < 0x20 then
      updBar cid (n - 0x10) (fun x =>
        let x1 := { x with err := x.err && !w1c.testBit 15 }
        if rw then x1.setTarget (v % 32) else x1) s
    else s

/-- `CSRW`, `CSRSET`, `CSRCLR` (R149): `f` gives the new RW bits from the old; an unlisted number, or a `vtype` with a reserved SEW,
raises ILLEGAL. -/
def csrWrite (a n : Nat) (f : Nat → Nat → Nat) (w1c : Bool) (s : State) : Out :=
  issue 4 s (fun c =>
    let x := c.sn a
    let old := csrRead c.g c.co c.la n &&& csrRW n
    let v := f old x &&& csrRW n
    if n = 0x0E ∨ n = 0x0F ∨ 0x28 ≤ n then .error .illegal
    else if n = 0x01 ∧ 5 ≤ v % 8 then .error .illegal
    else .ok (csrStore c n v (if w1c then x else 0) true s))

/-- `CSRR` (R149). -/
def execCsrr (a n : Nat) (s : State) : Out :=
  issue 4 s (fun c =>
    if n = 0x0E ∨ n = 0x0F ∨ 0x28 ≤ n then .error .illegal
    else .ok (commitW c (wrS a (BitVec.ofNat 64 (csrRead c.g c.co c.la n))) s))
/-- `CSRW` (R149). -/
def execCsrw (a n : Nat) (s : State) : Out := csrWrite a n (fun _ x => x) true s
/-- `CSRSET` (R149). -/
def execCsrset (a n : Nat) (s : State) : Out := csrWrite a n (fun old x => old ||| x) false s
/-- `CSRCLR` (R149). -/
def execCsrclr (a n : Nat) (s : State) : Out := csrWrite a n (fun old x => old &&& (old ^^^ x)) false s

/-- A write of a whole vector register, sidecars unchanged (R149). -/
def wrReg (r : Nat) (x : VReg) : List Wr := (List.range 32).map (fun L => wrV r L (laneWord x L).toNat)

/-- `RDTS` (R149): all 32 lanes. -/
def execRdts (a n : Nat) (s : State) : Out :=
  issue 4 s (fun c => do
    need (decide (n < 8)) .illegal
    inWindow c a
    return commitW c (wrReg a (c.g.ts.get 0 n)) s)
/-- `WRTS` (R149). -/
def execWrts (a n : Nat) (s : State) : Out :=
  issue 4 s (fun c => do
    need (decide (n < 8)) .illegal
    inWindow c a
    return updCtxG c (fun g => { g with ts := g.ts.set 0 n (c.vr a) }) s)

/-- A lane's PC as it reads (R85). -/
def LanePC.word : LanePC → Nat
  | .live pc => pc
  | .helper => 0xFFFFFFFE
  | .exited => 0xFFFFFFFF

/-- `RDVPC` (R149). -/
def execRdvpc (a : Nat) (s : State) : Out :=
  issue 4 s (fun c => do
    inWindow c a
    return commitW c ((List.range 32).map (fun L => wrV a L ((c.g.lane L).word % 2 ^ 32))) s)

/-! ### The trap return (R107) -/

/-- `TRET`: the checks of R107; the return itself takes place when the run ends. (DEDUCED, log entry 32) -/
def execTret (s : State) : Out :=
  issue 4 s (fun c =>
    let want := BitVec.ofNat 32 (c.g.tlanes.toNat / 2 ^ 32) &&& c.g.liveSet
    if liveOf c.g c.run.aset ≠ want then .error .illegal
    else if c.g.tepc.toNat.testBit 38 then .ok (s.updR c.slot (fun r => { r with tret := true }))
    else match whoOfGid s c.run.gid with
      | none => .error .illegal
      | some u =>
        let word := c.g.tepc.toNat % 2 ^ 32
        let off := c.g.tepc.toNat / 2 ^ 32 % 64
        match fetchWord s u word with
        | .error _ => .error (.illegal 0x000B)
        | .ok h =>
          if !isHead h then .error (.illegal 0x000B)
          else match fetchRun s u word h with
            | .error _ => .error (.illegal 0x000B)
            | .ok (offs, body) =>
              if off ≠ headLen h ∧ !offs.contains off then .error .illegal
              else .ok (s.updR c.slot (fun r => { r with
                tret := true
                res := some { word := word, off := off, aset := BitVec.ofNat 32 (c.g.tlanes.toNat / 2 ^ 32), len := headLen h
                              tmp := headTmp h, park := headPark h, await := headAwait h, buf := body.drop (2 * off) } })))

/-! ### Privileged instructions (R150) -/

/-- A privileged instruction: PERM in any other launch. -/
def privIssue (s : State) (f : Ctx → Except Trap State) : Out :=
  issue 4 s (fun c => if c.la.priv then f c else .error .privileged)

/-- Cached translations of a partition's ASID dropped: of one page, or all (R150). -/
def invalidate (part asid : Nat) (page : Option Nat) (s : State) : State :=
  { s with
    tlb := s.tlb.filter (fun e => !(e.part == part && e.asid == asid && (match page with
      | none => true
      | some va => e.page == va / 2 ^ pageBits e.lvl)))
    walks := s.walks.filter (fun e => !(e.part == part && e.asid == asid)) }

/-- A TLB invalidation: its translations go, and the group waits until it is complete (R129, R150). -/
def tlbi (asid : Ctx → Nat) (page : Ctx → Option Nat) (s : State) : Out :=
  privIssue s (fun c =>
    let s1 := invalidate (s.partOf c.co.core) (asid c) (page c) s
    let s2 : State := { s1 with nextId := s1.nextId + 1 }
    .ok (s2.updR c.slot (fun r => { r with waits := r.waits ++ [Wait.tlbi s1.nextId] })))

/-- `TLBI.VA` (R150). -/
def execTlbiVa (a b : Nat) (s : State) : Out := tlbi (fun c => c.sn a % 65536) (fun c => some (c.sn b % 2 ^ 60)) s
/-- `TLBI.ASID` (R150). -/
def execTlbiAsid (a : Nat) (s : State) : Out := tlbi (fun c => c.sn a % 65536) (fun _ => none) s
/-- `PTSYNC` (R150, R163): walks read memory as it stands, with the stores performed; those the group still holds are visible to the walks that
start after it too, from its place in the store queue. (DEDUCED, log entry 50) -/
def execPtsync (s : State) : Out :=
  privIssue s (fun c => .ok (if c.g.stq.isEmpty && c.g.stqWait.isEmpty then s else hold c (fun id => .rel id .ptsync) s))

/-- `TLB_INVALIDATION_COMPLETE` (R150): the wait of the oldest invalidation of a group ends. -/
def execTlbInvalidationComplete (gid : Nat) (s : State) : Out :=
  let dropOne (ws : List Wait) : List Wait :=
    match ws.find? (fun (w : Wait) => match w with
      | .tlbi _ => true
      | _ => false) with
    | some w => ws.erase w
    | none => ws
  Host.Outcome.next (s.updG gid (fun g => { g with waits := dropOne g.waits, keptWaits := dropOne g.keptWaits }))

/-! ### Fabric instructions (R385 to R388) -/

/-- A fabric instruction: `VECTOR` groups only (R14). -/
def fxIssue (s : State) (f : Ctx → Except Trap State) : Out := issueRole .vector 4 s (fun _ => none) f

/-- `FXSTAT` (R386). -/
def execFxstat (d : Nat) (s : State) : Out := fxIssue s (fun c => .ok (commitW c (wrS d (BitVec.ofNat 64 c.g.fstat.word)) s))
/-- `FXCLR` (R386). -/
def execFxclr (a : Nat) (s : State) : Out := fxIssue s (fun c => .ok (updCtxG c (fun g => { g with fstat := g.fstat.clear (c.sn a) }) s))
/-- `FXRANK` (R386). -/
def execFxrank (d : Nat) (s : State) : Out :=
  fxIssue s (fun c => .ok (commitW c (wrS d (match s.rankOf (s.partOf c.co.core) with
    | some r => BitVec.ofNat 64 (r + 4096)
    | none => 0)) s))
/-- `FXPATH` (R386). -/
def execFxpath (d a : Nat) (s : State) : Out :=
  fxIssue s (fun c =>
    let r := c.sn a
    let m := (livePaths s (s.partOf c.co.core) r).foldl (fun x p => x + 2 ^ p) 0
    .ok (commitW c (wrS d (BitVec.ofNat 64 (if r ≤ 4095 then m else 0))) s))

/-- The checks of a flag store (R387). -/
def flagCheck (ptr : Nat) : Except Trap Unit :=
  if bits ptr 62 60 ≠ 1 then .error { code := 0x07, detail := 8, addr := ptr }
  else if ptr % 8 ≠ 0 then .error { code := 0x08, addr := ptr }
  else .ok ()

/-- A flag store: through the store queue to the fabric engine, as a release when `rel` (R381, R387). -/
def flagStore (d b : Nat) (rel : Bool) (s : State) : Out :=
  fxIssue s (fun c => do
    flagCheck (c.sn b)
    return hold c (fun h => .rel h (.flag (c.sn b) (c.sn d) rel)) s)

/-- `FXSTO` (R381, R387). -/
def execFxsto (d b : Nat) (s : State) : Out := flagStore d b false s
/-- `FXSTO.REL` (R387): in addition a release at system scope. -/
def execFxstoRel (d b : Nat) (s : State) : Out := flagStore d b true s
/-- `FXCNT` (R388). -/
def execFxcnt (d k : Nat) (s : State) : Out := fxIssue s (fun c => .ok (commitW c (wrS d (BitVec.ofNat 64 (s.fxcnt.get 0 k))) s))

end Sys2Proof.Machine
end

