-- ==== Sys2Proof/Machine/Lattice.lean ====
section
/-! DEFINITION. The lattice engine: cells and their order, lattice instructions, exchange rounds and page clears (R54, R313 to
R332). -/

namespace Sys2Proof.Machine

/-! ### Cells (R54, R315) -/

/-- A NaN encoding of FP32. -/
def isNan32 (x : Nat) : Bool := (Fmt.f32.decode (x % 2 ^ 32)).isNan

/-- The slots of a `GCNT8` cell. -/
def slotsOf (x : Nat) : List Nat := (List.range 8).map (fun i => x / 2 ^ (32 * i) % 2 ^ 32)
/-- A `GCNT8` cell from its slots. -/
def ofSlots (l : List Nat) : Nat := (List.range 8).foldl (fun x i => x + l.getD i 0 % 2 ^ 32 * 2 ^ (32 * i)) 0

/-- `a` is at or above `b` in the order of a type (R315). -/
def latGe (ty a b : Nat) : Bool :=
  match ty with
  | 2 => decide (sext 32 b ≤ sext 32 a)
  | 3 => decide (a ≤ b)
  | 4 => (a &&& b) == b
  | 5 => isNan32 b || (!isNan32 a && !FVal.below (Fmt.f32.decode a) (Fmt.f32.decode b))
  | 7 => (List.range 8).all (fun i => decide (b / 2 ^ (32 * i) % 2 ^ 32 ≤ a / 2 ^ (32 * i) % 2 ^ 32))
  | _ => decide (b ≤ a)

/-- *Join* (R54). -/
def latJoin (ty a b : Nat) : Nat :=
  match ty with
  | 4 => a ||| b
  | 7 => ofSlots ((List.range 8).map (fun i => max (a / 2 ^ (32 * i) % 2 ^ 32) (b / 2 ^ (32 * i) % 2 ^ 32)))
  | _ => if latGe ty a b then a else b

/-- The bottom element of a type (R54). -/
def latBottom (ty : Nat) : Nat :=
  match ty with
  | 2 => 0x80000000
  | 3 => 0xFFFFFFFF
  | 5 => 0xFF800000
  | _ => 0

/-- The value a read of a cell gives (R325). -/
def latRead (ty x : Nat) : Nat := if ty = 7 then (slotsOf x).foldl (· + ·) 0 % 2 ^ 32 else x

/-- The test of a wait (R326). -/
def latMeetsT (ty x t : Nat) : Bool :=
  match ty with
  | 5 => !isNan32 t && latGe 5 x t
  | 7 => decide (t ≤ (slotsOf x).foldl (· + ·) 0)
  | _ => latGe ty x t

/-- The raw bits of a cell. -/
def cellAt (s : State) (pa ty : Nat) : Nat := fromBytes (cellsGet s.mem pa (latWidth ty))

/-- One update of a cell; a change sets the three change bits of its line (R314, R317). -/
def setCell (pa ty x : Nat) (s : State) : State :=
  if x = cellAt s pa ty then s
  else { s with mem := cellsSet s.mem pa (toBytes (latWidth ty) x), change := s.change.put (pa / 128) (7 + 8 * ty) }

/-- The part of a 64-bit operand that a type uses (R323, R326). -/
def latOperand (ty x : Nat) : Nat := if ty = 4 ∨ ty = 6 then x else x % 2 ^ 32

/-! ### Waits (R326) -/

/-- A pending operation of the lattice engine may act on bytes as far as the order of its group goes: no access earlier in program order
to one of them is still to be performed (R180, R188, R331). -/
def latFreeAt (s : State) (gid : Nat) (g : Group) (pid : Nat) (p : Pend) (ptr n : Nat) : Bool :=
  p.accepted && !p.behind.any g.blocks && (whoOfGid s gid).all (fun u => !g.meetsAt s u pid ptr n)
/-- The same for an element. -/
def latFree (s : State) (gid : Nat) (g : Group) (pid : Nat) (p : Pend) (e : LatEl) : Bool := latFreeAt s gid g pid p e.ptr (latWidth e.ty)
/-- A lattice write, or a page clear, comes after its group's earlier loads and fences (R180, R183, R212). -/
def latMayWrite (g : Group) (pid : Nat) : Bool := !g.loadsBefore pid && !g.fencesBefore pid

/-- When a wait whose clocks end at `due` ends as timed out: a satisfaction in the same clock comes first (R326). -/
def waitEnd (s : State) (g : Group) (due : Nat) : Nat := due + clkTime s (((s.cohorts.find g.cid).map (·.core)).getD 0) 1

/-- A wait completes: value and status written, the token clears (R326). -/
def endWait (gid pid sd : Nat) (e : LatEl) (ok : Bool) (s : State) : State :=
  finish gid pid (s.updG gid (fun g => { g with pend := g.pend.upd pid (fun p => { p with
    wrs := p.wrs ++ wrS sd (BitVec.ofNat 64 (latRead e.ty (cellAt s e.pa e.ty))) ++ wrS (sd + 1) (if ok then 1 else 2) }) }))

/-- A wait tested: in the clock of its timeout a test that holds still satisfies it, later it has timed out (R326). One that its group's order
holds back is first tested when that order allows. (DEDUCED, log entry 132) -/
def testWait (s : State) (gid pid : Nat) (p : Pend) : State :=
  match s.groups.find gid, p.op with
  | some g, .lwait e sd due =>
    if !latFree s gid g pid p e then s
    else if due.any (fun t => decide (waitEnd s g t ≤ s.now)) then endWait gid pid sd e false s
    else if latMeetsT e.ty (cellAt s e.pa e.ty) e.v then endWait gid pid sd e true s
    else s
  | _, _ => s

/-- The waits on a die tested after an update (R326). -/
def testWaits (die : Nat) (s : State) : State :=
  s.groups.foldl (fun s (e : Nat × Group) =>
    (e.2.pend.filter (fun (q : Nat × Pend) => match q.2.op with
      | .lwait x _ _ => x.pa / 2 ^ 36 == die
      | _ => false)).foldl (fun s q => testWait s e.1 q.1 q.2) s) s

/-! ### Checks at issue (R321) -/

/-- The leaf a lattice instruction reaches, or its fault: `vec` for a vector form. -/
def latCheck (s : State) (u : Who) (a : Acc) (vec : Bool) (ptr : Nat) : Except Trap LatEl :=
  let va := ptr % 2 ^ 60
  if bits ptr 62 60 ≠ 0 then .error { code := 0x07, detail := 8, addr := ptr }
  else match xlate s u a va with
    | .error d => .error { code := 0x07, detail := d, addr := ptr }
    | .ok x =>
      let l := x.leaf
      if l.st = 5 ∧ va % latWidth l.aux ≠ 0 then .error { code := 0x08, addr := ptr }
      else match permFault u a va l with
        | some d => .error { code := 0x09, detail := d, addr := ptr }
        | none =>
          if l.st ≠ 5 then .error { code := 0x0E, detail := 1, addr := ptr }
          else if vec ∧ 4 < latWidth l.aux then .error { code := 0x0E, detail := 2, addr := ptr }
          else .ok { mask := 0, ptr := ptr, pa := l.pa (dieOf u.core) va, ty := l.aux, v := 0 }

/-- The element a pointer leads to, if it passes the checks. -/
def latEl? (s : State) (u : Who) (a : Acc) (vec : Bool) (ptr : Nat) : Option LatEl :=
  match latCheck s u a vec ptr with
  | .ok e => some e
  | .error _ => none

/-- The fault of a pointer. -/
def latErr (s : State) (u : Who) (a : Acc) (vec : Bool) (ptr : Nat) : Option Trap :=
  match latCheck s u a vec ptr with
  | .ok _ => none
  | .error t => some t

/-- A lattice operation that waits for room in the port's queue. -/
def Pend.latWaits (p : Pend) : Bool :=
  !p.accepted && (match p.op with
    | .lwrite _ _ _ _ => true
    | .lget _ => true
    | .lwait _ _ _ => true
    | .lxnow => true
    | .lclr _ _ _ => true
    | _ => false)

/-- Operations of the core in the lattice port's queue (R322). -/
def latQueued (s : State) (core : Nat) : Nat :=
  s.groups.foldl (fun n (e : Nat × Group) =>
    match s.cohorts.find e.2.cid with
    | some co => if co.core = core then n + (e.2.pend.filter (fun (q : Nat × Pend) => q.2.accepted && (match q.2.op with
        | .lwrite _ _ els _ => !els.isEmpty
        | .lget els => !els.isEmpty
        | .lwait _ _ _ => true
        | .lxnow => true
        | .lclr _ _ _ => true
        | _ => false))).length else n
    | none => n) 0

/-- A lattice operation issued: in the queue, or waiting for room at the end of its run, as it does behind one of its group that waits
(R129, R322). (DEDUCED, log entry 72) -/
def latIssue (c : Ctx) (p : Pend) (s : State) : State :=
  let room := decide (latQueued s c.co.core < 64) && !c.g.pend.any (fun e => e.2.latWaits)
  let pid := s.nextId
  let s1 := addPend c { p with accepted := room, behind := c.g.acqIds (threads c) } s
  if room then s1 else s1.updR c.slot (fun r => { r with waits := r.waits ++ [.accept pid] })

/-- The translations of an instruction's elements installed. -/
def latTouch (u : Who) (a : Acc) (els : List LatEl) (s : State) : State := els.foldl (fun s e => install u a (e.ptr % 2 ^ 60) s) s

/-- A lattice instruction: `VECTOR` groups only (R14). -/
def latInstr (s : State) (f : Ctx → Except Trap State) : Out := issueRole .vector 4 s (fun _ => none) f

/-! ### Writes (R323, R324) -/

/-- A lattice write issued with its elements; a release goes through the store queue (R331). -/
def latWriteIssue (c : Ctx) (put rel : Bool) (tok : Option Nat) (els : List LatEl) (s : State) : State :=
  let pid := s.nextId
  let s1 := latIssue c { tok := tok, op := .lwrite put rel els [] } (latTouch (whoOf s c) .wr els s)
  if els.isEmpty then finish c.run.gid pid s1
  else if rel then hold c (fun id => .rel id (.op pid)) s1 else s1

/-- A scalar lattice write. -/
def latWriteS (put : Bool) (tok : Option Nat) (v r b : Nat) (s : State) : Out :=
  latInstr s (fun c => do
    let ptr := c.sn b
    let u := whoOf s c
    memChecks c tok (latErr s u .wr false ptr)
    let live := liveOf c.g c.run.aset
    let els := (latEl? s u .wr false ptr).toList.map (fun e => { e with mask := live.toNat, v := latOperand e.ty (c.sn v) })
    return latWriteIssue c put (r == 1) tok (if live = 0 then [] else els) s)

/-- The address of a vector form's element (R321). -/
def latAddr (c : Ctx) (v b L : Nat) : Nat := addr64 (c.sn b) (sext 32 (c.vw (v + 1) L))

/-- A vector lattice write: live lanes, ascending (R322). -/
def latWriteV (put : Bool) (tok : Option Nat) (v r b : Nat) (s : State) : Out :=
  latInstr s (fun c => do
    groupsFit c [⟨v + 1, 1, false⟩, ⟨v, 1, false⟩]
    let u := whoOf s c
    let lanes := lanesOf (liveOf c.g c.run.aset)
    memChecks c tok (worst c 32 (lanes.filterMap (fun L => (latErr s u .wr true (latAddr c v b L)).map (fun t => (L, t)))))
    let els := lanes.filterMap (fun L => (latEl? s u .wr true (latAddr c v b L)).map (fun e => { e with mask := 2 ^ L, v := c.vw v L }))
    return latWriteIssue c put (r == 1) tok els s)

/-- `LJOIN` (R323). -/
def execLjoin (v r b : Nat) (s : State) : Out := latWriteS false none v r b s
/-- `LJOIN.V` (R323). -/
def execLjoinV (v r b : Nat) (s : State) : Out := latWriteV false none v r b s
/-- `LPUT` (R323, R324). -/
def execLput (v r b k : Nat) (s : State) : Out := latWriteS true (some k) v r b s
/-- `LPUT.V` (R323, R324). -/
def execLputV (v r b k : Nat) (s : State) : Out := latWriteV true (some k) v r b s

/-- The new value of a write (R323): die `d` counts in its own slot. -/
def latNew (put : Bool) (ty old v d : Nat) : Nat :=
  if ty = 7 then
    ofSlots ((slotsOf old).set d (if put then v else min ((slotsOf old).getD d 0 + v) 0xFFFFFFFF))
  else v

/-- One element performed: the state, and the DETAIL of its refusal (R323, R324). -/
def latWrite (put : Bool) (e : LatEl) (s : State) : State × Option Nat :=
  let old := cellAt s e.pa e.ty
  let w := latNew put e.ty old e.v (e.pa / 2 ^ 36)
  let nan := e.ty == 5 && isNan32 e.v
  if put then
    if nan then (s, some 2) else if latGe e.ty w old then (setCell e.pa e.ty w s, none) else (s, some 1)
  else (if nan then s else setCell e.pa e.ty (latJoin e.ty old w) s, none)

/-- The elements of a write performed in order, waits tested after each. -/
def latWrites (put : Bool) (els : List LatEl) (s : State) : State × List (Nat × Nat × Nat) :=
  els.foldl (fun (acc : State × List (Nat × Nat × Nat)) e =>
    let r := latWrite put e acc.1
    (testWaits (e.pa / 2 ^ 36) r.1, match r.2 with
      | some d => acc.2 ++ [(e.mask, e.ptr, d)]
      | none => acc.2)) (s, [])

/-- NONMONO after the token has cleared (R324). (DEDUCED, log entry 71) -/
def refusalCond (refused : List (Nat × Nat × Nat)) : Option Cond :=
  match refused with
  | [] => none
  | (_, ptr, d) :: _ => some ⟨0x0D, d, ptr, some (refused.foldl (fun m r => m ||| r.1) 0)⟩

/-- A lattice read served (R325): every element, once its group's order allows. -/
def serveLget (gid pid : Nat) (s : State) : State :=
  match s.groups.find gid with
  | none => s
  | some g => match g.pend.find pid with
    | none => s
    | some p => match p.op with
      | .lget els =>
        if els.all (latFree s gid g pid p) then
          s.updG gid (fun g => { g with pend := g.pend.put pid { p with
            op := .lget []
            wrs := p.wrs ++ els.flatMap (fun e =>
              let x := latRead e.ty (cellAt s e.pa e.ty)
              if e.v < 64 then wrS e.v (BitVec.ofNat 64 x) else [⟨e.v, 2 ^ 32 - 1, x⟩]) } })
        else s
      | _ => s

/-! ### Reads (R325, R326) -/

/-- A lattice read issued, acquires keeping later accesses behind it (R331). -/
def latReadIssue (c : Ctx) (acq : Bool) (p : Pend) (s : State) : State :=
  let pid := s.nextId
  let s1 := latIssue c p s
  let s2 := match p.op with
    | .lwait _ _ _ => match (s1.groups.find c.run.gid).bind (fun g => g.pend.find pid) with
      | some q => testWait s1 c.run.gid pid q
      | none => s1
    | _ => serveLget c.run.gid pid s1
  if acq then stayBehind c (threads c) (fun _ => [pid]) s2 else s2

/-- `LGET` (R325). -/
def execLget (d q b k : Nat) (s : State) : Out :=
  latInstr s (fun c => do
    let ptr := c.sn b
    let u := whoOf s c
    memChecks c (some k) (latErr s u .rd false ptr)
    let els := (latEl? s u .rd false ptr).toList.map (fun e => { e with mask := (liveOf c.g c.run.aset).toNat, v := d })
    return latReadIssue c (q == 1) { tok := some k, op := .lget els, dst := if d = 0 then [] else [(locS d, locS d)] }
      (latTouch u .rd els s))

/-- `LGET.V` (R322, R325): a helper lane's element that would fault reads zero (R88). -/
def execLgetV (d q b k : Nat) (s : State) : Out :=
  latInstr s (fun c => do
    groupsFit c [⟨d, 1, false⟩, ⟨d + 1, 1, false⟩]
    let u := whoOf s c
    let live := lanesOf (liveOf c.g c.run.aset)
    let lanes := lanesOf c.run.aset
    memChecks c (some k) (worst c 32 (live.filterMap (fun L => (latErr s u .rd true (latAddr c d b L)).map (fun t => (L, t)))))
    let els := lanes.filterMap (fun L => (latEl? s u .rd true (latAddr c d b L)).map (fun e => { e with mask := 2 ^ L, v := locV d L }))
    let zeros := (lanes.filter (fun L => (latErr s u .rd true (latAddr c d b L)).isSome)).map (fun L => wrV d L 0)
    return latReadIssue c (q == 1)
      { tok := some k, op := .lget els, wrs := zeros ++ wrTag d 0, dst := (locTag d, locTag d) :: lanes.map (fun L => (locV d L, locV d L)) }
      (latTouch u .rd els s))

/-- `LWAIT` (R326). -/
def execLwait (d q b k : Nat) (s : State) : Out :=
  latInstr s (fun c => do
    let ptr := c.sn b
    let u := whoOf s c
    memChecks c (some k) (latErr s u .rd false ptr)
    let t := c.sn d
    let clk := c.sn (d + 1)
    match latEl? s u .rd false ptr with
    | none => return s
    | some e =>
      let e1 := { e with mask := (liveOf c.g c.run.aset).toNat, v := if e.ty = 7 then t else latOperand e.ty t }
      return latReadIssue c (q == 1)
        { tok := some k, op := .lwait e1 d (if clk = 0 then none else some (s.now + clkTime s c.co.core clk)), dst := [(locS d, locS (d + 1))] }
        (latTouch u .rd [e1] s))

/-- `LWAIT_TIMEOUT` (R326): the clocks have passed, and the clock in which they ended, without a test that held. -/
def execLwaitTimeout (gid pid : Nat) (s : State) : Out :=
  .next (match (s.groups.find gid).bind (fun g => (g.pend.find pid).map (fun p => (g, p))) with
    | none => s
    | some (g, p) => match p.op with
      | .lwait e sd (some due) =>
        if s.now < waitEnd s g due ∨ !latFree s gid g pid p e then s
        else settle gid (endWait gid pid sd e false s)
      | _ => s)

/-! ### Exchange rounds (R316, R317) -/

/-- The distances of a replica set (R316). -/
def distances (n : Nat) : List Nat :=
  if n ≤ 1 then [] else if n = 2 then [1] else if n ≤ 4 then [1, 2] else [1, 2, 4]

/-- The schedule of a partition. -/
def State.lattice (s : State) (part : Nat) : Lattice := s.lattices.get {} part
/-- A schedule changed. -/
def updLattice (part : Nat) (f : Lattice → Lattice) (s : State) : State :=
  { s with lattices := s.lattices.set {} part (f (s.lattice part)) }

/-- The distance of the next round; 0 when there are none. -/
def Lattice.distance (x : Lattice) (n : Nat) : Nat := (distances n).getD (x.next % max 1 (distances n).length) 0
/-- Which change bit a distance uses. -/
def changeBit (k : Nat) : Nat := if k = 4 then 2 else k - 1

/-- The snapshot of a die at a distance (R317). -/
def snapshot (s : State) (die k : Nat) : List (Nat × List Byte) :=
  (s.change.filter (fun (e : Nat × Nat) => e.1 / 2 ^ 29 == die && e.2.testBit (changeBit k))).map (fun e =>
    (8 * (e.1 % 2 ^ 29) + e.2 / 8, cellsGet s.mem (128 * e.1) 128))

/-- A line's change bit cleared; a line with none is not listed. -/
def clearBit (k : Nat) (dies : List Nat) (m : Tab Nat) : Tab Nat :=
  m.filterMap (fun (e : Nat × Nat) =>
    if dies.contains (e.1 / 2 ^ 29) then
      let v := if e.2.testBit (changeBit k) then e.2 - 2 ^ changeBit k else e.2
      if v % 8 = 0 then none else some (e.1, v)
    else some e)

/-- A round starts (R316, R317, R328). -/
def startRound (part : Nat) (s : State) : State :=
  let dies := s.partDies part
  let x := s.lattice part
  let n := dies.length
  let k := x.distance n
  if k = 0 then s
  else
    let pairs := ((List.range n).filter (fun i => decide (i < i ^^^ k) && decide (i ^^^ k < n))).map (fun i =>
      let lo := dies.getD i 0
      let hi := dies.getD (i ^^^ k) 0
      ({ lo := lo, hi := hi, snapLo := snapshot s lo k, snapHi := snapshot s hi k } : XPair))
    updLattice part (fun x => { x with
        next := (x.next + 1) % (distances n).length, round := some pairs, started := s.now, serving := x.forced, forced := [] })
      { s with change := clearBit k dies s.change }

/-- A forced round starts when nothing stands against it. -/
def startForced (part : Nat) (s : State) : State :=
  let x := s.lattice part
  if x.round.isNone ∧ x.clears.isEmpty ∧ !x.forced.isEmpty then startRound part s else s

/-- `EXCHANGE_ROUND_START` (R316): the period has passed, or a round is forced. -/
def execExchangeRoundStart (part : Nat) (s : State) : Out :=
  let x := s.lattice part
  .next (if x.round.isNone ∧ x.clears.isEmpty ∧ (!x.forced.isEmpty ∨ (x.period ≠ 0 ∧ x.started + x.period * 256 ≤ s.now)) then startRound part s
    else s)

/-- A received line joined into a die's replica, cell by cell (R317). (DEDUCED, log entry 70) -/
def joinLine (die key : Nat) (bs : List Byte) (s : State) : State :=
  let ty := key % 8
  let w := latWidth ty
  let pa := hbmBase die + 128 * (key / 8)
  (List.range (128 / w)).foldl (fun s i =>
    let x := fromBytes ((bs.drop (w * i)).take w)
    testWaits die (setCell (pa + w * i) ty (latJoin ty (cellAt s (pa + w * i) ty) x) s)) s

/-- A round ends when every pair has joined: requests it served are done, and one already requested starts (R317, R328). -/
def endRound (part : Nat) (s : State) : State :=
  let x := s.lattice part
  match x.round with
  | none => s
  | some ps =>
    if ps.all (fun p => p.snapLo.isEmpty && p.snapHi.isEmpty) then
      startForced part (x.serving.foldl (fun s e => finish e.1 e.2 s) (updLattice part (fun x => { x with round := none, serving := [] }) s))
    else s

/-- `EXCHANGE_TRANSFER_ARRIVAL` (R317): die `i % 2` of pair `i / 2` joins the next line it receives. -/
def execExchangeTransferArrival (part i : Nat) (s : State) : Out :=
  .next (match (s.lattice part).round with
    | none => s
    | some ps => match ps[i / 2]? with
      | none => endRound part s
      | some p =>
        let put (q : XPair) (s : State) : State := updLattice part (fun x => { x with round := some (ps.set (i / 2) q) }) s
        endRound part (if i % 2 = 0 then
            (match p.snapHi with
              | [] => s
              | l :: t => joinLine p.lo l.1 l.2 (put { p with snapHi := t } s))
          else
            (match p.snapLo with
              | [] => s
              | l :: t => joinLine p.hi l.1 l.2 (put { p with snapLo := t } s))))

/-! ### Schedule, types and clears (R327 to R330) -/

/-- The schedule word of a partition (R327). -/
def schedWord (s : State) (part : Nat) : Nat :=
  let n := (s.partDies part).length
  n * 2 ^ 32 + (s.lattice part).distance n * 2 ^ 24 + (s.lattice part).period * 2 ^ 8

/-- `LXSCHED` (R327). -/
def execLxsched (d a : Nat) (s : State) : Out :=
  issueRole .vector 4 s (fun c => if bits (c.sn a) 62 20 ≠ 0 ∨ c.sn a % 256 ≠ 0 then some (.illegal 1) else none) (fun c =>
    let x := c.sn a
    let part := s.partOf c.co.core
    if x.testBit 63 && !c.la.priv then .error .privileged
    else
      let s1 := commitW c (wrS d (BitVec.ofNat 64 (schedWord s part))) s
      .ok (if x.testBit 63 then
          updLattice part (fun l => { l with period := bits x 19 8, started := if l.period = 0 ∧ bits x 19 8 ≠ 0 then s.now else l.started }) s1
        else s1))

/-- A forced round, or a clear that its group's order lets act on its page (R331), joins the partition's schedule once the queue has
accepted it (R328, R330). -/
def latSchedule (gid pid part : Nat) (s : State) : State :=
  match (s.groups.find gid).bind (fun g => (g.pend.find pid).map (fun p => (g, p))) with
  | none => s
  | some (g, p) =>
    if !p.accepted then s
    else match p.op with
      | .lxnow =>
        if (s.partDies part).length ≤ 1 then finish gid pid s
        else startForced part (updLattice part (fun x => { x with forced := x.forced ++ [(gid, pid)] }) s)
      | .lclr ptr off ty =>
        if p.void ∧ !(s.lattice part).clears.any (fun x => x.gid == gid && x.pid == pid) then finish gid pid s
        else if (s.lattice part).clears.any (fun x => x.gid == gid && x.pid == pid) || !latMayWrite g pid ||
            !latFreeAt s gid g pid p (ptr / 2 ^ 16 * 2 ^ 16) 65536 then s
        else updLattice part (fun x => { x with clears := x.clears ++ [⟨gid, pid, off, ty, 0⟩] }) s
      | _ => s

/-- `LATTICE_WRITE_PERFORM` (R323, R331): the lattice unit takes an operation of the queue; a write whose gang has ended is not performed
(R108). -/
def execLatticeWritePerform (gid pid : Nat) (s : State) : Out :=
  .next (match s.groups.find gid with
    | none => s
    | some g => match g.pend.find pid with
      | none => s
      | some p => match p.op with
        | .lwrite put rel els _ =>
          if p.void then settle gid (finish gid pid s)
          else if rel ∨ !latMayWrite g pid ∨ !els.all (latFree s gid g pid p) then s
          else
            let r := latWrites put els s
            let s1 := finish gid pid r.1
            settle gid (match refusalCond r.2 with
              | some k => addCond gid k s1
              | none => s1)
        | .lwait _ _ _ => settle gid (testWait s gid pid p)
        | .lget _ => settle gid (serveLget gid pid s)
        | .lclr _ _ _ => latSchedule gid pid (((whoOfGid s gid).map (·.part)).getD 0) s
        | _ => s)

/-- `LXNOW` (R328). -/
def execLxnow (k : Nat) (s : State) : Out :=
  latInstr s (fun c => do
    bindable c k
    let part := s.partOf c.co.core
    let pid := s.nextId
    return latSchedule c.run.gid pid part (latIssue c { tok := some k, op := .lxnow } s))

/-- `LTYPE` (R329): its result is known at issue, its token clears as a load's. -/
def execLtype (d b k : Nat) (s : State) : Out :=
  latInstr s (fun c =>
    let ptr := c.sn b
    let r : Except Trap Nat :=
      if bits ptr 62 60 ≠ 0 then .error { code := 0x07, detail := 8, addr := ptr }
      else match xlate s (whoOf s c) .rd (ptr % 2 ^ 60) with
        | .error 2 => .ok 0
        | .error e => .error { code := 0x07, detail := e, addr := ptr }
        | .ok x =>
          if x.leaf.st = 5 ∧ ptr % 2 ^ 60 % latWidth x.leaf.aux ≠ 0 then .error { code := 0x08, addr := ptr }
          else if x.leaf.priv ∧ !c.la.priv then .error { code := 0x09, detail := 4, addr := ptr }
          else .ok (x.leaf.st * 256 + (if x.leaf.st = 5 then x.leaf.aux else 0))
    match r with
    | .error t => if c.g.tokPending k then .error .token else .error t
    | .ok v => do
      bindable c k
      return addPend c { tok := some k, op := .ltype, wrs := wrS d (BitVec.ofNat 64 v), dst := if d = 0 then [] else [(locS d, locS d)] } s)

/-- `LCLR` (R330). -/
def execLclr (b k : Nat) (s : State) : Out :=
  latInstr s (fun c => do
    bindable c k
    need c.la.priv .privileged
    let ptr := c.sn b
    let u := whoOf s c
    memChecks c none (latErr s u .wr false ptr)
    match latEl? s u .wr false ptr with
    | none => return s
    | some e =>
      let pid := s.nextId
      let s1 := latIssue c { tok := some k, op := .lclr ptr (e.pa % 2 ^ 36 / 65536 * 65536) e.ty } (latTouch u .wr [e] s)
      return latSchedule c.run.gid pid (s.partOf c.co.core) s1)

/-- A page of memory filled with the bottom of a type (R330). -/
def fillPage (m : List Host.Cell) (pa ty : Nat) : List Host.Cell :=
  let b := toBytes (latWidth ty) (latBottom ty)
  m.filter (fun c => decide (c.1 < pa)) ++
  (if latBottom ty = 0 then [] else
    (List.range 65536).filterMap (fun i => let x := b.getD (i % latWidth ty) 0; if x = 0 then none else some (pa + i, x))) ++
  m.filter (fun c => decide (pa + 65536 ≤ c.1))

/-- `LATTICE_PAGE_CLEAR` (R330): the next die of the first clear, once no round is in progress. -/
def execLatticePageClear (part : Nat) (s : State) : Out :=
  let x := s.lattice part
  let dies := s.partDies part
  .next (match x.round, x.clears with
    | none, q :: t =>
      let die := dies.getD q.done 0
      let pa := hbmBase die + q.off
      let s1 := testWaits die { s with
        mem := fillPage s.mem pa q.ty
        change := s.change.filter (fun (e : Nat × Nat) => e.1 / 512 != pa / 65536) }
      if dies.length ≤ q.done + 1 then startForced part (finish q.gid q.pid (updLattice part (fun x => { x with clears := t }) s1))
      else updLattice part (fun x => { x with clears := { q with done := q.done + 1 } :: t }) s1
    | _, _ => s)

/-- `LATTICE_QUEUE_ROOM` (R322): the oldest lattice operation of a group that waits for room enters the queue, once its run has ended. -/
def execLatticeQueueRoom (gid : Nat) (s : State) : Out :=
  .next (match s.groups.find gid with
    | none => s
    | some g =>
      match g.pend.find? (fun q => q.2.latWaits), s.cohorts.find g.cid with
      | some (pid, p), some co =>
        if 64 ≤ latQueued s co.core ∨ s.runs.any (fun r => r.2.gid == gid) then s
        else
          let s1 := s.updG gid (fun g => { g with pend := g.pend.put pid { p with accepted := true } })
          match p.op with
          | .lwait _ _ _ => testWait s1 gid pid { p with accepted := true }
          | .lget _ => serveLget gid pid s1
          | _ => latSchedule gid pid (s.partOf co.core) s1
      | _, _ => s)

end Sys2Proof.Machine
end

