-- ==== Sys2Proof/Machine/MemEvents.lean ====
section
/-! DEFINITION. Events of the memory engine: data arriving, atomics performed, codebook tables written, room in queues, coherence
requests, regions (R168 to R170, R186, R199, R210, R217 to R219). -/

namespace Sys2Proof.Machine

/-! ### Codebooks -/

/-- A bit of the packed bytes an expansion has collected; `none` where a byte was not read (R88). (DEDUCED, log entry 73) -/
def packedBit (bs : Tab Nat) (i : Nat) : Option Nat := (bs.find (i / 8)).map (fun b => b / 2 ^ (i % 8) % 2)

/-- The index of an element, if all its bytes were read. -/
def packedIndex (bs : Tab Nat) (b e : Nat) : Option Nat :=
  ((List.range b).mapM (fun i => packedBit bs (b * e + i))).map (fun l => (List.range b).foldl (fun x i => x + l.getD i 0 * 2 ^ i) 0)

/-- The bytes of an expansion: its scratch words hold one in each. -/
def Pend.scratchBytes (p : Pend) : Tab Nat :=
  (p.good.filter (fun w => decide (locV scratchReg 0 ≤ w.loc))).map (fun w => (w.loc - locV scratchReg 0, w.val % 256))

/-- A byte of an element's index came with an uncorrectable error. -/
def Pend.badIndex (p : Pend) (b e : Nat) : Bool := (List.range b).any (fun i => p.bad.contains (locV scratchReg 0 + (b * e + i) / 8))

/-- An expansion whose bytes and table are there ends (R219); a destination word with an index that an error spoils is zero (R199). -/
def expand (gid pid : Nat) (s : State) : State :=
  match s.groups.find gid, pendOf s gid pid with
  | some g, some p => match p.op, s.cohorts.find g.cid with
    | .ldcb k need vd els, some co =>
      let x := (s.core co.core).slot k
      if p.left ≠ 0 ∨ !p.els.isEmpty ∨ x.ver < need ∨ p.behind.any g.blocks then s
      else
        let bs := p.scratchBytes
        let spoilt := if p.bad.isEmpty then [] else (els.filter (p.badIndex x.b)).map (· / 2)
        let val (e : Nat) : Nat := if spoilt.contains (e / 2) then 0 else match packedIndex bs x.b e with
          | some q => x.e.getD q 0
          | none => 0
        let ws := els.flatMap (fun e => wrBits (vd + e * 16 / 1024) (e * 16 % 1024) 16 (val e))
        finish gid pid (updPend gid pid (fun p => { p with wrs := p.wrs.filter (fun w => decide (w.loc < locV scratchReg 0)) ++ ws }) s)
    | _, _ => s
  | _, _ => s

/-- The entries of a table load whose bytes have arrived; a 32-bit word of the table that an error spoils is zero (R199). -/
def Pend.tableEntries (p : Pend) (b : Nat) : List Nat :=
  let word (j : Nat) : Nat := ((p.wrs.filter (fun w => w.loc == locV scratchReg j)).getLast?.map (·.val)).getD 0
  (List.range (2 ^ b)).map (fun j => if p.bad.any (fun l => (l - locV scratchReg 0) / 2 == j / 2) then 0 else word j % 65536)

/-- `CBLOAD_TABLE_WRITE` (R218): the oldest table of a slot whose bytes have arrived is written, once no expansion uses the old one. A load
whose gang has ended takes its place in the slot's order and writes nothing (R108). -/
def execCbloadTableWrite (core k : Nat) (s : State) : Out :=
  let x := (s.core core).slot k
  .next (match x.loads with
    | [] => s
    | (gid, pid) :: rest => match pendOf s gid pid with
      | none => s.updCore core (fun q => q.setSlot k { x with loads := rest, ver := x.ver + 1 })
      | some p => match p.op with
        | .cbload _ b =>
          if p.left ≠ 0 ∨ !p.els.isEmpty then s
          else if ldcbPending s core k x.ver ∧ !p.void then noteHeld core k gid pid s
          else
            let y : CbSlot := { x with loads := rest, ver := x.ver + 1 }
            settle gid (finish gid pid (updPend gid pid (fun p => { p with wrs := [] })
              (s.updCore core (fun q => q.setSlot k (if p.void then y else { y with b := b, e := p.tableEntries b })))))
        | _ => s)

/-- `CBLOAD_QUEUE_ROOM` (R218): a `CBLOAD` that waited takes its place in slot order, once its run has ended. -/
def execCbloadQueueRoom (gid : Nat) (s : State) : Out :=
  .next (match s.groups.find gid with
    | none => s
    | some g =>
      let waits (q : Nat × Pend) : Bool := !q.2.accepted && (match q.2.op with
        | .cbload _ _ => true
        | _ => false)
      match g.pend.find? waits, s.cohorts.find g.cid with
      | some (pid, p), some co => match p.op with
        | .cbload k _ =>
          let x := (s.core co.core).slot k
          if 2 ≤ x.loads.length ∨ s.runs.any (fun r => r.2.gid == gid) then s
          else noteHeld co.core k gid pid
            ((updPend gid pid (fun p => { p with accepted := true }) s).updCore co.core (fun q =>
              q.setSlot k { x with loads := x.loads ++ [(gid, pid)] }))
        | _ => s
      | _, _ => s)

/-! ### Data, atomics, stores -/

/-- An uncorrectable error in returned data: the affected 32-bit words, each a location + 2^32 × its word, are zero, ECC follows (R199). -/
def Pend.corrupt (bad : List Nat) (addr : Nat) (p : Pend) : Pend :=
  if bad.isEmpty then p
  else { p with bad := p.bad ++ bad
                ecc := if p.ecc.isNone then some (addr % 2 ^ 64 / 128 * 128 + 1) else p.ecc }

/-- As `Pend.corrupt`, for a pending operation; the error is logged (R408). -/
def corruptPend (gid pid : Nat) (bad : List Nat) (addr : Nat) (s : State) : State :=
  if bad.isEmpty then s else memoryError (((whoOfGid s gid).map (·.part)).getD 255) (updPend gid pid (Pend.corrupt bad addr) s)

/-- A table load whose bytes have arrived: counted if expansions keep it waiting (R216). -/
def cbArrived (gid pid k : Nat) (s : State) : State :=
  match whoOfGid s gid with
  | some u => noteHeld u.core k gid pid s
  | none => s

/-- `LOAD_DATA_ARRIVAL` (R199 to R201): what can be read is read; a load that has everything ends. `bad` are the 32-bit words whose
data came with an uncorrectable error, in the line of `addr`. (DEDUCED, log entry 75) -/
def execLoadDataArrival (gid pid : Nat) (bad : List Nat) (addr : Nat) (s0 : State) : Out :=
  let s := serveLoad gid pid none s0
  .next (settle gid (match (s.groups.find gid).bind (fun g => (g.pend.find pid).map (fun p => (g, p))) with
    | none => s
    | some (g, p) =>
      let here := p.left == 0 && p.els.isEmpty && !p.behind.any g.blocks
      match p.op with
      | .load _ => if here then finish gid pid (corruptPend gid pid bad addr s) else s
      | .ldcb _ _ _ _ => if here then expand gid pid (corruptPend gid pid bad addr s) else s
      | .cbload k _ => if here then cbArrived gid pid k (corruptPend gid pid bad addr s) else s
      | .cproot _ _ none => if here then rootArrived gid pid (corruptPend gid pid bad addr s) else s
      | .ltype => finish gid pid s
      | .lget _ =>
        let s1 := serveLget gid pid s
        (match pendOf s1 gid pid with
          | some q => match q.op with
            | .lget [] => finish gid pid (corruptPend gid pid bad addr s1)
            | _ => s1
          | none => s1)
      | _ => s))

/-- `ATOMIC_PERFORM` (R210). -/
def execAtomicPerform (gid pid : Nat) (s : State) : Out := .next (settle gid (finishIfDone gid pid (serveAtomic gid pid none s)))

/-- `STORE_QUEUE_ROOM` (R186): waiting stores enter the queue. -/
def execStoreQueueRoom (gid : Nat) (s : State) : Out := .next (settle gid s)

/-! ### Coherence (R168 to R170) -/

/-- An agent's request for a line can be met now: no other's persistent request is active, and no copy engine holds the line (R169, R171). -/
def tokensFree (s : State) (agent line : Nat) : Bool :=
  !(tokOf s line).claimed agent && (decide (1000 ≤ agent) || !heldByCopy s 0 0 0 false (128 * line))

/-- A core of an agent's cluster. -/
def agentCore (agent : Nat) : Nat := if agent < 1000 then agent else if agent < 2000 then agent - 1000 else 8 * (agent - 2000)

/-- A transient request sent, to the home and where the region tracking says (R169, R170). -/
def sendTransient (s : State) (agent line tries : Nat) : Transient :=
  { agent := agent, tries := tries, due := s.now + clkTime s (agentCore agent) 512, sent := if agent < 320 then requestTargets s (clusterOf agent) line else [] }

/-- `COHERENCE_REQUEST` (R168 to R170): the tokens the request needs are gathered, or it stays outstanding. -/
def execCoherenceRequest (agent line : Nat) (excl : Bool) (s : State) : Out :=
  .next (if tokensFree s agent line then takeTokens agent line excl s
    else updTok line (fun t =>
      if t.tries.any (fun e => e.agent == agent) || t.persist.any (fun e => e.1 == agent) then t
      else { t with tries := sendTransient s agent line 0 :: t.tries }) s)

/-- A persistent request becomes active: every agent sends the requester its tokens (R169). -/
def activate (agent line : Nat) (s : State) : State :=
  updTok line (fun t => t.giveAll agent) (dropLines (fun x => x.line == line && x.slice != agent) s)

/-- `TRANSIENT_REQUEST_TIMEOUT` (R169): 512 clk after a transient request was sent it is retried, and after four failed retries the
requester sends a persistent one. -/
def execTransientRequestTimeout (agent line : Nat) (excl : Bool) (s : State) : Out :=
  .next (match (tokOf s line).tries.find? (fun e => e.agent == agent) with
    | none => s
    | some e =>
      if s.now < e.due then s
      else
        let rest := (tokOf s line).tries.filter (fun x => x.agent != agent)
        if e.tries < 4 then updTok line (fun t => { t with tries := sendTransient s agent line (e.tries + 1) :: rest }) s
        else
          let s1 := updTok line (fun t => { t with tries := rest, persist := t.persist ++ [(agent, excl)] }) s
          if (tokOf s line).persist.isEmpty then activate agent line s1 else s1)

/-- `REGION_MERGE` (R170): two siblings without a conflict for 100 µs. -/
def execRegionMerge (base size : Nat) (s : State) : Out :=
  let lo := s.regions.find? (fun r => r.base == base && 2 * r.size == size)
  let hi := s.regions.find? (fun r => 2 * r.base == 2 * base + size && 2 * r.size == size)
  .next (match lo, hi with
    | some a, some b =>
      if base % size ≠ 0 ∨ 65536 < size ∨ s.now < a.quiet + 900000 ∨ s.now < b.quiet + 900000 then s
      else
        let m : Region := ⟨base, size, if a.cluster = b.cluster then a.cluster else none, s.now⟩
        { s with regions := m :: s.regions.filter (fun r => r != a && r != b) }
    | _, _ => s)

end Sys2Proof.Machine
end

