-- ==== Sys2Proof/Machine/Replay.lean ====
section
/-! DEFINITION. Meridian's side of a resolution: pages arriving, replay of records, replies, timeouts, declines, the mailbox,
migration, room in a fault queue; and the locks of locked replicas (R174, R175, R337 to R340, R346 to R358). -/

namespace Sys2Proof.Machine

/-- A page's chain with its phase. -/
def chainOf (s : State) (key : Nat) : Option (Chain × Phase) := (s.chains.find key).map (fun c => (c, c.phase))

/-- After progress that may free a page: stalled requests are served, and moves that waited begin (R174, R345). -/
def progress (s : State) : State := takeMoves (unstall (settleAll s))

/-! ### Replay (R338 to R340) -/

/-- The final state of a chain's page is written and the chain goes (R338, step 4). -/
def closePage (key st : Nat) (s : State) : State :=
  let s1 := match pageOf s key with
    | some pa => enterState key st pa s
    | none => s
  retryFrames { s1 with chains := s1.chains.del key }

/-- An element lies on a page. -/
def onPage (vpn ptr : Nat) : Bool := bits ptr 62 60 == 0 && ptr % 2 ^ 60 / 2 ^ 16 == vpn

/-- The access of a record has been performed on its page. -/
def recordDone (before s : State) (r : FaultRec) : Bool :=
  match r.kind with
  | 0 => match pendOf s r.gid r.op with
    | some p => !p.els.any (fun e => onPage r.vpn e.2.ptr)
    | none => true
  | 1 => match s.groups.find r.gid with
    | some g => !(g.stq ++ g.stqWait).any (fun h => match h with
        | .store i els => i == r.op && els.any (fun e => onPage r.vpn e.2.ptr)
        | .rel i (.store e _ _) => i == r.op && onPage r.vpn e.ptr
        | _ => false)
    | none => true
  | 2 => match pendOf s r.gid r.op with
    | some p => match p.op with
      | .atomic _ _ _ els => !els.any (fun e => onPage r.vpn e.ptr)
      | _ => true
    | none => true
  | 3 => headCopy before r.gid r.op != headCopy s r.gid r.op
  | 4 => headCopy before r.gid r.op != headCopy s r.gid r.op
  | _ => true

/-- A `PAGEREQ`'s turn (R339, R360): its token clears, and an entry that forbids the access delivers its condition. -/
def replayRequest (r : FaultRec) (s : State) : State :=
  match whoOfGid s r.gid with
  | none => finish r.gid r.op s
  | some u => match pageCheck s u (r.kind == 6) (match pendOf s r.gid r.op with
      | some { op := .pagereq _ ptr, .. } => ptr
      | _ => r.vpn * 2 ^ 16) with
    | .error t => finish r.gid r.op (addCond r.gid ⟨t.code, t.detail, t.addr, none⟩ s)
    | .ok _ => finish r.gid r.op s

/-- A record's access performed, on its page alone (R339). -/
def performRecord (r : FaultRec) (s : State) : State :=
  match r.kind with
  | 0 => serveLoad r.gid r.op (some r.vpn) s
  | 1 => serveStore r.gid r.op (some r.vpn) s
  | 2 => serveAtomic r.gid r.op (some r.vpn) s
  | 3 => copyStep r.gid r.op false (pageCheckStep r.gid r.op false s)
  | 4 => copyStep r.gid r.op false (pageCheckStep r.gid r.op false s)
  | 5 => replayRequest r s
  | 6 => replayRequest r s
  | _ => s

/-- The pending operations an entry of the store queue stands for. -/
def Held.pids : Held → List Nat
  | .atomic _ pid => [pid]
  | .rel _ (.op pid) => [pid]
  | .rel _ (.bar _ _ pid) => [pid]
  | _ => []

/-- A record leaves its chain without its access: of a killed gang, its load destinations zero (R356), or of another generation (R340). -/
def dropAccess (r : FaultRec) (zero : Bool) (s : State) : State :=
  if r.role != .access then finish r.gid r.op s else
  match r.kind with
  | 0 => updPend r.gid r.op (fun p => { p with
      els := p.els.filter (fun (e : Nat × LdEl) => !onPage r.vpn e.2.ptr)
      wrs := p.wrs ++ (if zero then (p.els.filter (fun (e : Nat × LdEl) => onPage r.vpn e.2.ptr)).flatMap (fun e => e.2.zero) else []) }) s
  | 1 => s.updG r.gid (fun g =>
      let keep (h : Held) : Option Held := match h with
        | .store i els =>
          let t : Tab StEl := els.filter (fun (e : Nat × StEl) => !onPage r.vpn e.2.ptr)
          if i ≠ r.op then some h else if t.isEmpty then none else some (.store i t)
        | .rel i (.store e _ _) => if i = r.op ∧ onPage r.vpn e.ptr then none else some h
        | _ => some h
      { g with stq := g.stq.filterMap keep, stqWait := g.stqWait.filterMap keep })
  | 2 =>
    let s1 := updPend r.gid r.op (fun p => match p.op with
      | .atomic w o vr els =>
        { p with op := .atomic w o vr (els.filter (fun e => !onPage r.vpn e.ptr))
                 wrs := p.wrs ++ (if zero then (els.filter (fun e => onPage r.vpn e.ptr)).flatMap (fun e =>
                   wrBits (vr + e.e * w / 1024) (e.e * w % 1024) w 0) else []) }
      | _ => p) s
    let s2 := finishIfDone r.gid r.op s1
    if (pendOf s2 r.gid r.op).isSome then s2
    else s2.updG r.gid (fun g => { g with stq := g.stq.filter (fun h => !h.pids.contains r.op) })
  | 3 => updCopy r.gid r.op (fun j => { j with abort := true }) s
  | 4 => updCopy r.gid r.op (fun j => { j with abort := true }) s
  | 7 => s
  | _ => finish r.gid r.op s

/-- A chain's records set; with none left the page takes its final state. -/
def setRecs (key st : Nat) (rs : List FaultRec) (s : State) : State :=
  let s1 := { s with chains := s.chains.upd key (fun c => { c with recs := rs }) }
  if rs.isEmpty then closePage key st s1 else startHints s1

/-- A `PAGEREL` at its turn in a chain (R362): as an eviction, once no copy engine holds a line of the page. -/
def replayRelease (key st : Nat) (r : FaultRec) (rest : List FaultRec) (s : State) : State :=
  match frameOf s key with
  | none => setRecs key st rest (finish r.gid r.op s)
  | some f =>
    if pageBusy s key f.pa then s
    else if cleanCopy { f with excl := st == 1 } then
      leaveDone key ({ tellRelease key f.part 0 f.ver (dropPage key f s) with
        chains := s.chains.upd key (fun c => { c with recs := r :: rest, phase := .leaving false false }) })
    else leaveAttempt key f (leaveChain key f false (toTransit key f.pa s))

/-- `RECORD_REPLAY` (R338, R339): the first record of a chain whose page is here. While it is performed its page has the state it will
have; a store on a page that is only read asks for ownership first (R346). (DEDUCED, log entry 80; DESIGN CHOICE, log entry 83) -/
def replayFirst (key : Nat) (s : State) : State :=
  match s.chains.find key with
  | none => s
  | some c => match c.phase, c.recs with
    | .replay st, [] => closePage key st s
    | .replay st, r :: rest =>
      if asidGen s r.part r.asid ≠ r.gen then setRecs key st rest (dropAccess r false s)
      else if r.kind = 7 ∨ r.role = .writeBack then setRecs key st rest s
      else if r.role = .pagerel then replayRelease key st r rest s
      else if st = 3 ∧ r.flags % 2 = 1 then
        ask key 2 { s with chains := s.chains.put key { c with write := true, attempts := 1 } }
      else
        let open' := mapLeaves key (fun pte => setBits pte 0 4 st) { s with chains := s.chains.del key }
        let s1 := performRecord r open'
        let s2 := shootKey key (mapLeaves key (fun pte => setBits pte 0 4 6) s1)
        let s3 := { s2 with chains := s2.chains.put key c }
        if recordDone s s3 r then setRecs key st rest (if r.kind = 2 then finishIfDone r.gid r.op s3 else s3) else s3
    | _, _ => s

/-- `RECORD_REPLAY` (R338). -/
def execRecordReplay (gasid vpn : Nat) (s : State) : Out := .next (progress (replayFirst (dirKey gasid vpn) s))

/-! ### Pages arriving (R338, R342, R347) -/

/-- The member ranks of a locked page, as its STATE word carries them. -/
def setMembers (key st : Nat) (s : State) : State :=
  match st % 16, s.spaces.find (keyGasid key) with
  | 4, some sp => { s with lockSets := s.lockSets.put key (ranksIn sp (st / 16)) }
  | _, _ => { s with lockSets := s.lockSets.del key }

/-- The ASID that a page's frame is counted for: that of its chain, else the first that maps it. -/
def countedFor (s : State) (key : Nat) : Nat :=
  match s.chains.find key with
  | some c => 65536 * c.part + c.asid
  | none => (mappers s key).headD 0

/-- A frame for a page that arrives: the one it has, its home's, the one reserved, or a free one, evicting if the quota is full. -/
def landing (key : Nat) (s : State) : State × Option Nat :=
  match frameOf s key, s.homes.find key, (s.chains.find key).map (·.frame) with
  | some f, _, _ => (s, some f.pa)
  | none, some pa, _ => (s, some pa)
  | none, none, some (n + 1) => (s, some (n + 1))
  | none, none, _ =>
    let a := countedFor s key
    let s1 := if quotaOf s a ≤ framesUsed s a then evict a key s else s
    if framesUsed s1 a < quotaOf s1 a then (s1, freeFrame s1 (a / 65536)) else (s1, none)

/-- The page is this device's: its frame, its entry with the frame; a chain begins its replay (R338, steps 1 and 2). -/
def installPage (key pa st ver home : Nat) (hc : Bool) (dirty : Bool) (s : State) : State :=
  let lock := st % 16
  let a := countedFor s key
  let f : Frame := { part := a / 65536, asid := a % 65536, gasid := keyGasid key, vpn := keyVpn key, pa := pa, excl := lock == 1
                     owner := false, hc := hc, home := home, dirty := dirty, locked := lock == 4, ver := ver }
  let s1 := setMembers key st (if s.homes.find key = some pa then { s with homes := s.homes.del key } else addFrame f s)
  let s2 := setVer key ver (if lock = 1 then publish key s1 else s1)
  match s.chains.find key with
  | some c => { (enterState key 6 pa s2) with chains := s2.chains.put key { c with phase := .replay lock, frame := pa, ver := ver } }
  | none => enterState key lock pa s2

/-- A page that is here takes another STATE (R346, R347): its frame's record, its entry, and the replay of a chain that asked for it. -/
def holdAs (key ver st home pa : Nat) (s : State) : State :=
  let k := st % 16
  let s1 := updFrame key (fun f => { f with excl := k == 1, owner := f.owner && k == 3, locked := k == 4, home := home, ver := ver })
    (setVer key ver (setMembers key st s))
  let s2 := match k with
    | 1 => publish key s1
    | 4 => disown key s1
    | _ => s1
  match s2.chains.find key with
  | some c => (match c.phase with
    | .asked _ =>
      let s3 := toTransit key pa s2
      { s3 with chains := s3.chains.put key { c with phase := .replay k, frame := if (frameOf s key).isSome then pa else 0, ver := ver } }
    | .leaving _ _ => s2
    | _ => enterState key k pa s2)
  | none => enterState key k pa s2

/-- A member's copy of a locked replica is in place, and it says so to the directory (R347). -/
def memberHere (key ver st home pa : Nat) (s : State) : State := ackDirectory key ver (holdAs key ver st home pa s)

/-- A whole page put where a page that arrives goes, or left where there is no room. -/
def landPage (key ver st home : Nat) (hc : Bool) (data : List Byte) (s : State) : State :=
  let r := landing key s
  match r.2 with
  | none => r.1
  | some pa => installPage key pa st ver home hc false (setPage pa data r.1)

/-- A page that nobody here waits for any more (R342): a reader's copy is given back; one that this device now owns is kept, in any frame of
the pool, and stays with the transport while there is none. (DEDUCED, log entry 136) -/
def unaskedPage (key ver st home : Nat) (hc : Bool) (data : List Byte) (s : State) : State :=
  if st % 16 = 3 then tellRelease key (holderPart s key) 0 ver s
  else match (match s.homes.find key with
      | some pa => some pa
      | none => freeFrame s (holderPart s key)) with
    | some pa => installPage key pa st ver home hc false (setPage pa data s)
    | none => s

/-- `PAGE_SHIPMENT_ARRIVAL` (R338, R342, R347): for a chain that waits for it, or for a member of a locked replica. One with an older
VERSION, or of a page that is here, is discarded. `state` is 1, 3, or 4 + 16 × READERS; a storage server's page takes the STATE that the
directory named. -/
def execPageShipmentArrival (gasid vpn ver state : Nat) (hc : Bool) (home : Nat) (data : List Byte) (s : State) : Out :=
  let key := dirKey gasid vpn
  let here := pageOf s key
  .next (if ver < s.vers.get 0 key then s
    else match chainOf s key with
      | some (c, .asked 3) =>
        if c.ver ≠ ver then s
        else
          let s1 := landPage key ver c.st c.home true data s
          if c.st % 16 = 4 ∧ (pageOf s1 key).isSome then ackDirectory key ver s1 else s1
      | c =>
        if state % 16 = 4 then
          (match here with
            | some pa => memberHere key ver state home pa (if (s.lockSets.find key).isSome then s else setPage pa data s)
            | none =>
              let s1 := landPage key ver state home hc data s
              if (pageOf s1 key).isSome then ackDirectory key ver s1 else s1)
        else if isAsked s key then (if (frameOf s key).isSome ∧ stateOf s key ≠ 6 then s else landPage key ver state home hc data s)
        else if c.isNone ∧ here.isNone then unaskedPage key ver state home hc data s
        else s)

/-! ### Replies (R342, R348) -/

/-- A mailbox command of a page ends (R347): counted, with its reason. (DEDUCED, log entry 77) -/
def mailDone (key reason : Nat) (s : State) : State :=
  match s.mail.find? (fun m => m.key == key) with
  | none => s
  | some m => { s with mail := s.mail.erase m, mailCount := (s.mailCount + 1) % 2 ^ 32, mailReason := reason }

/-- A locked page's bytes are here: the device is a member of its set. -/
def lockedHere (s : State) (key : Nat) : Option Nat := if (s.lockSets.find key).isSome then pageOf s key else none

/-- This device's stores to a locked page that await their turn. -/
def askedLocks (s : State) (key : Nat) : List Lock := s.locks.filter (fun l => l.own && l.key == key && l.step == 0)

/-- A store's lock is no more. -/
def dropLock (l : Lock) (s : State) : State := { s with locks := s.locks.filter (fun x => x.id != l.id || x.own != l.own) }

/-- The bytes of a copy's chunk or of a host's write at their place on this device's copy of the page (R174, R303, R402). -/
def lockBytesAt (l : Lock) (pa : Nat) (s : State) : State :=
  clearPoison ((List.range l.data.length).map (fun i => Place.phys (pa + l.off + i) 1))
    { homeTake ((pa + l.off) / 128) 1 s with mem := cellsSet s.mem (pa + l.off) l.data }

/-- A store that had asked for a lock is tried anew: a copy's chunk, a remote request; a group's store is in its queue (R174). A host's write
asks again, is performed on a page this device alone holds now, or finds none (R402). -/
def lockAgain (l : Lock) (s : State) : State :=
  let s1 := dropLock l s
  match l.pkt with
  | some (opc, p) => serveReq l.part opc p s1
  | none =>
    if l.copy then updCopy l.gid l.hid (fun j => { j with net := 0, sent := false }) s1
    else if l.host then match pageOf s1 l.key with
      | some pa => if stateOf s1 l.key = 4 then startLock l s1 else if stateOf s1 l.key = 1 then lockBytesAt l pa s1 else s1
      | none => s1
    else s1

/-- A store that could not have its turn is declined, as a record of its page's chain (R353, R354); a host's write is none, and is tried
again. -/
def lockFails (l : Lock) (reason : Nat) (s : State) : State :=
  let s1 := lockAgain l s
  if l.pkt.isSome ∨ l.host then s1
  else
    let vpn := keyVpn l.key
    let s2 := if l.copy then
        (match headCopy s1 l.gid l.hid with
          | some j => match copyWho s1 j with
            | some u => record u vpn (copyRec s1 l.gid l.hid 4 j) false s1
            | none => s1
          | none => s1)
      else match s1.groups.find l.gid, whoOfGid s1 l.gid with
        | some g, some u =>
          record u vpn { kind := if (g.pend.find l.hid).any (fun p => match p.op with
              | .atomic _ _ _ _ => true
              | _ => false) then 2 else 1, held := true, unit := g.idx, gid := l.gid, op := l.hid } false s1
        | _, _ => s1
    decline l.key reason s2

/-! ### Locked replicas (R174, R175) -/

/-- A byte of a pointer lies in the line of a lock. -/
def Lock.onLine (l : Lock) (ptr : Nat) : Bool := bits ptr 62 60 == 0 && ptr % 2 ^ 60 / 128 == (keyVpn l.key * 2 ^ 16 + l.off) / 128

/-- The elements of a group's store queue that a lock stands for: those of its store on the line that nothing holds back. -/
def lockedStores (s : State) (g : Group) (l : Lock) : Tab StEl :=
  ((g.stq.findSome? (fun h => match h with
    | .store i els => if i = l.hid then some els else none
    | .rel i (.store e _ _) => if i = l.hid then some [(0, e)] else none
    | _ => none)).getD []).filter (fun e => l.onLine e.2.ptr && (whoOfGid s l.gid).all (fun u => !g.storeWaits s u l.hid e.2))

/-- The elements of a pending atomic that a lock stands for: those on its line, which are performed one after the other (R203). -/
def lockedAtomics (g : Group) (l : Lock) : Option (Nat × Nat × Nat × List AtEl) :=
  match g.pend.find l.hid with
  | some p => match p.op with
    | .atomic w op vr els => some (w, op, vr, els.filter (fun e => l.onLine e.ptr))
    | _ => none
  | none => none

/-- A locked store performed on this device's copy, its page at `pa`. -/
def lockPerform (l : Lock) (pa : Nat) (s : State) : State :=
  let place (ptr : Nat) : Place := .phys (pa + ptr % 2 ^ 16) 4
  match l.pkt with
  | some (opc, p) => markMigrated l.key l.off (performRemote l.part opc (pa + l.off) p s)
  | none =>
    if l.copy then updCopy l.gid l.hid (fun j => { j with net := 0 }) (lockBytesAt l pa s)
    else if l.host then lockBytesAt l pa s
    else match s.groups.find l.gid, whoOfGid s l.gid with
      | some g, some u => (match lockedAtomics g l with
        | some (w, op, vr, els) => finishIfDone l.gid l.hid (els.foldl (fun s e => atomicAt u l.hid w op vr e (place e.ptr) s) s)
        | none =>
          let els := lockedStores s g l
          clearPoison ((els.filter (fun e => e.2.nib.isNone)).flatMap (fun e => (place e.2.ptr).bytes e.2.n))
            (els.foldl (fun s e => performWrite u .wr e.2.ptr e.2.n e.2.nib e.2.val (place e.2.ptr) (dropHeld l.gid l.hid e.1 s)) s))
      | _, _ => s

/-- The bytes that a locked line holds once its store is performed. -/
def lockBytes (l : Lock) (pa : Nat) (s : State) : List Byte := cellsGet (lockPerform l pa s).mem ((pa + l.off) / 128 * 128) 128

/-- The end of step 2 (R174): the store is performed here and the directory goes on; where the page has gone meanwhile it is tried anew. -/
def lockDone (l : Lock) (s : State) : State :=
  let s1 := match lockedHere s l.key with
    | some pa => lockPerform l pa (dropLock l s)
    | none => lockAgain l s
  progress (ackDirectory l.key l.ver s1)

/-- A lock whose replicas have all confirmed a step goes on: the value goes out, or the store is done. (DEDUCED, log entry 84) -/
def lockAdvance (l : Lock) (s : State) : State :=
  if !l.left.isEmpty then s
  else
    let os := lockOthers s l.key
    match lockedHere s l.key with
    | some pa =>
      if l.step = 1 ∧ !os.isEmpty then
        let bs := lockBytes l pa s
        os.foldl (fun s r => s.send (.lockStep r (keyGasid l.key) (keyVpn l.key) (l.off / 128 * 128) l.id (some bs)))
          { s with locks := s.locks.map (fun x => if x.id = l.id ∧ x.own then { x with step := 2, left := os } else x) }
      else lockDone l s
    | none => lockDone l s

/-- The directory gives this device a store's turn (R174): the oldest store that waits for one begins its step 1. A turn nobody waits for
any more is given back. (DEDUCED, log entry 133) -/
def takeTurn (key ver st : Nat) (s0 : State) : State :=
  let s := setVer key ver (setMembers key st s0)
  if s.locks.any (fun l => l.own && l.key == key && l.step != 0 && l.ver == ver) then s
  else match askedLocks s key with
    | [] => ackDirectory key ver s
    | l :: _ =>
      let os := lockOthers s key
      let l1 : Lock := { l with step := 1, left := os, since := s.now, ver := ver }
      lockAdvance l1 (os.foldl (fun s r => s.send (.lockStep r (keyGasid key) (keyVpn key) (l.off / 128 * 128) l.id none))
        { s with locks := s.locks.map (fun x => if x = l then l1 else x) })

/-- This device's lock with an id. -/
def ownLock (s : State) (id : Nat) : Option Lock := s.locks.find? (fun l => l.own && l.id == id && l.step != 0)

/-- `REPLICA_CONFIRMATION` (R174): a replica confirms the step in progress. -/
def execReplicaConfirmation (id rank : Nat) (s : State) : Out :=
  .next (match ownLock s id with
    | none => s
    | some l =>
      let l1 := { l with left := l.left.filter (· != rank) }
      lockAdvance l1 { s with locks := s.locks.map (fun x => if x = l then l1 else x) })

/-- `WRITER_LOCK_TIMEOUT` (R175): 2 µs after step 1 began the store completes, replicas that did not confirm are removed. (DEDUCED, log entry 85) -/
def execWriterLockTimeout (id : Nat) (s : State) : Out :=
  .next (match ownLock s id with
    | none => s
    | some l =>
      if s.now < l.since + 18000 then s
      else
        let out := if l.step = 1 then lockOthers s l.key else l.left
        let s1 := out.foldl (fun s r => tellRelease l.key l.part (r + 1) 0 s)
          { s with lockSets := s.lockSets.upd l.key (fun rs => rs.filter (fun r => !out.contains r)) }
        lockDone l s1)

/-- `LOCK_UPDATE_ARRIVAL` (R174) at a replica: a line locked, or its 128 new bytes, which unlock it; each is confirmed. A lock waits for an
older one of its line; a device that no longer holds the page confirms nothing, and is removed (R175). -/
def execLockUpdateArrival (gasid vpn off writer id : Nat) (data : Option (List Byte)) (s : State) : Out :=
  let key := dirKey gasid vpn
  let mine (l : Lock) : Bool := !l.own && l.id == id && l.writer == writer && l.key == key
  let confirm (s : State) : State := s.send (.lockConfirm writer id)
  .next (match data, lockedHere s key with
    | _, none => s
    | none, some _ =>
      if s.locks.any mine then confirm s
      else if isLocked s key off false then s
      else confirm { s with locks := s.locks ++ [{
        id := id, key := key, off := off, own := false, writer := writer, step := 1, left := [], gid := 0, hid := 0, el := 0, pkt := none
        part := holderPart s key, data := [], since := s.now }] }
    | some bs, some pa => match s.locks.find? mine with
      | some l =>
        let s1 := homeTake ((pa + off) / 128) 1 { s with locks := s.locks.erase l }
        progress (confirm (clearPoison ((Place.phys (pa + off) 4).bytes bs.length) { s1 with mem := cellsSet s1.mem (pa + off) bs }))
      | none => confirm s)

/-- `REPLICA_LOCK_TIMEOUT` (R175): the update has not come in 2 µs: the local entry goes to ABSENT-REMOTE, its hint the page's home (R344),
then stalled loads go on. -/
def execReplicaLockTimeout (gasid vpn off : Nat) (s : State) : Out :=
  let key := dirKey gasid vpn
  .next (match s.locks.find? (fun l => !l.own && l.key == key && l.off / 128 == off / 128), pageOf s key with
    | some l, some pa =>
      if s.now < l.since + 18000 then s
      else
        let s1 := { s with locks := s.locks.filter (fun x => x.own || x.key != key) }
        let s2 := match frameOf s key with
          | some f => dropPage key f s1
          | none => let s3 := gatherPage pa (enterAbsent key 1 ((s.rankOf (holderPart s key)).getD 0) s1)
                    { s3 with homes := s3.homes.put key pa, lockSets := s3.lockSets.del key }
        progress s2
    | _, _ => s)

/-! ### What a directory or a candidate answers (R342, R343, R348) -/

/-- The old home's page has a new one (R358): its entry goes ABSENT-REMOTE with the new home as its hint, its frame is free. -/
def leaveHome (key home : Nat) (s : State) : State :=
  let pa := pageOf s key
  let s1 := enterAbsent key (home / 65536) (home % 65536) { s with migr := s.migr.del key }
  disown key (match pa with
    | some pa => retryFrames (freeOf key pa (gatherPage pa s1))
    | none => s1)

/-- The directory has served a request no shipment follows: `st` is the STATE this device's entry takes, 2 that it is to hold the page no
longer, 0 that a mailbox command is complete, 5 that another device's replica is removed. -/
def granted (key ver st home : Nat) (s0 : State) : State :=
  let s := if st = 2 then dropTells key true s0 else if st = 5 then dropTells key false s0 else s0
  let cutting := (s.migr.find key).any (·.cut)
  if st % 16 = 4 ∧ !(askedLocks s key).isEmpty ∧ (lockedHere s key).isSome then takeTurn key ver st s
  else match st, chainOf s key, pageOf s key with
    | 0, _, _ => mailDone key 0 s
    | 5, _, _ => s
    | 2, some (c, .leaving false _), _ => match frameOf s key with
      | some f =>
        let s1 := { s with chains := s.chains.put key { c with ver := ver } }
        if f.dirty then writeBack key f s1 else leaveDone key (dropPage key f s1)
      | none => leaveDone key s
    | 2, _, _ =>
      let s1 := (askedLocks s key).foldl (fun s l => lockAgain l s) s
      if cutting then leaveHome key home s1 else s1
    | _, some (c, .supplied frame flags true), _ =>
      let pa := (s.homes.find key).getD frame
      installPage key pa st ver home false (flags.testBit 1)
        (setPage pa (cellsGet s.mem frame 65536) { s with chains := s.chains.put key { c with frame := pa } })
    | _, some (_, .asked 2), some pa => if cutting then s else holdAs key ver st home pa s
    | _, some _, _ => if st % 16 = 4 then ackDirectory key ver s else s
    | _, none, _ => if st % 16 = 4 then takeTurn key ver st s else s

/-- The page is to be read from its home, a storage server (R343, R347); a member that holds a copy has its data already. -/
def readFromServer (key ver st home : Nat) (s : State) : State :=
  let fetch (c : Chain) : State :=
    ask key 3 { s with chains := s.chains.put key { c with home := home, st := st, ver := ver, attempts := 1 } }
  match s.chains.find key, pageOf s key with
  | c, some pa => if st % 16 = 4 then memberHere key ver st home pa s else if (c.map (·.phase)) = some (.asked 2) then holdAs key ver st home pa s else s
  | some c, none => (match c.phase with
    | .asked _ => fetch c
    | _ => s)
  | none, none =>
    let a := (mappers s key).headD 0
    if st % 16 = 4 then fetch { phase := .asked 3, part := a / 65536, asid := a % 65536 }
    else tellRelease key (holderPart s key) 0 ver s

/-- A NOT-HERE: the next candidate is asked (R348); with the VERSION of a release, the directory's order to write the page back (R343). -/
def notHere (key ver : Nat) (s : State) : State :=
  match s.chains.find key with
  | none => s
  | some c => match c.phase with
    | .asked 0 => ask key 1 { s with chains := s.chains.put key { c with attempts := 1 } }
    | .asked 1 => ask key 2 { s with chains := s.chains.put key { c with attempts := 1 } }
    | .leaving false _ => (match frameOf s key with
      | some f => if ver = 0 then s else writeBack key f { s with chains := s.chains.put key { c with ver := ver } }
      | none => s)
    | _ => s

/-- The entry that a page in migration has while its home stays (R358), which abandons the migration. -/
def keepHome (key : Nat) (s : State) : State :=
  match s.migr.find key, pageOf s key with
  | some m, some pa => standAs key m.st pa (s.vers.get 0 key) (abandonMigration key s)
  | _, _ => s

/-- A record that stands for a write-back nobody chained to. (DESIGN CHOICE, log entry 79) -/
def blankRec (s : State) (key : Nat) (c : Chain) : FaultRec :=
  { handle := s.nextId, time := s.now / 9, die := 0, vpn := keyVpn key, part := c.part, asid := c.asid, gen := asidGen s c.part c.asid
    kind := 0, flags := 0, core := 0, unit := 0, token := 0xFF, gasid := keyGasid key, tenant := s.tenantOf c.part, reason := 0
    attempts := 0, gid := 0, op := 0, role := .writeBack }

/-- The giving up of a page is declined (R354, R355): it stays TRANSIT and its frame held. -/
def leavingFails (key reason : Nat) (c : Chain) (sent : Bool) (s : State) : State :=
  pushDecline key { s with
    nextId := s.nextId + 1
    chains := s.chains.put key { c with
      phase := .leaving sent true, reason := reason, inQueue := false
      recs := if c.recs.any (fun r => r.role != .pagerel) then c.recs else c.recs ++ [blankRec s key c] } }

/-- The directory declines a request, or reports the home's uncorrectable error (R349, R357). -/
def declinedBy (key reason : Nat) (s : State) : State :=
  match chainOf s key with
  | some (_, .asked _) => decline key reason s
  | some (_, .supplied _ _ true) => decline key reason s
  | some (c, .leaving sent false) => leavingFails key reason c sent s
  | _ =>
    if (s.migr.find key).any (·.cut) then keepHome key s
    else if s.probes.any (fun p => p.wait && dirKey p.gasid p.vpn == key) then probeAnswered key 0 false s
    else match askedLocks s key with
      | l :: _ => lockFails l reason s
      | [] => mailDone key reason (dropTells key true s)

/-- `MERIDIAN_REPLY`: what a directory or a candidate answers. -/
def merReply (key ver : Nat) (reply : MerReply) (s : State) : State :=
  match reply with
  | .added ok => probeAnswered key ver ok s
  | .granted st home => granted key ver st home s
  | .readFrom st home => readFromServer key ver st home s
  | .notHere => notHere key ver s
  | .declined reason => declinedBy key reason s

/-- `MERIDIAN_REPLY` (R342, R348); one with an older VERSION is discarded. -/
def execMeridianReply (gasid vpn ver : Nat) (reply : MerReply) (s : State) : Out :=
  let key := dirKey gasid vpn
  .next (if ver ≠ 0 ∧ ver < s.vers.get 0 key then s else progress (merReply key ver reply s))

/-! ### Timeouts and declines (R351, R353, R354) -/

/-- An attempt of a resolution, of a page's leaving or of a supply has timed out (R353): a storage server's after 500 µs, any other's after 100
µs; the next goes out on another port; after the third it fails with the reason of who did not answer (R357). -/
def chainTimeout (key : Nat) (s : State) : State :=
  match s.chains.find key with
  | none => s
  | some c =>
    let late (server : Bool) : Bool := decide (c.since + (if server then 4500000 else 900000) ≤ s.now)
    let again (s : State) : State := { s with chains := s.chains.put key { c with attempts := c.attempts + 1 } }
    match c.phase with
    | .asked stage =>
      if !late (stage == 3) then s
      else if c.attempts < 3 then ask key stage (again s)
      else decline key (match stage with
        | 2 => 3
        | 3 => 2
        | _ => 1) (if stage = 3 ∧ c.st % 16 = 4 then ackReason key c.ver 2 s else s)
    | .supplied _ flags true =>
      if !late false then s
      else if c.attempts < 3 then
        let p := attemptPort s key c.port (c.attempts + 1) false
        askOn p key (if flags.testBit 0 then 6 else 7) c.part 0 0
          { s with chains := s.chains.put key { c with attempts := c.attempts + 1, since := s.now, port := p } }
      else decline key 3 s
    | .leaving sent false => (match frameOf s key with
      | none => s
      | some f =>
        if !late (sent && f.home / 65536 == 2) then s
        else if c.attempts < 3 then leaveAttempt key f (again s)
        else leavingFails key (if sent then 7 else 3) c sent s)
    | _ => s

/-- An attempt of a mailbox command has timed out (R347, R353). -/
def mailTimeout (key : Nat) (s : State) : State :=
  match s.mail.find? (fun m => m.key == key) with
  | none => s
  | some m =>
    if s.now < m.since + 900000 then s
    else if m.attempts < 3 then
      let p := attemptPort s key m.port (m.attempts + 1) false
      askOn p key (if m.set.isSome then 3 else 4) (holderPart s key) (m.set.getD 0) 0
        { s with mail := s.mail.map (fun x => if x = m then { m with attempts := m.attempts + 1, since := s.now, port := p } else x) }
    else mailDone key 3 s

/-- Attempts of the stores of a locked page to have their turn have timed out (R353); a store of another device's is asked for until it
has it. -/
def lockTimeout (key : Nat) (s : State) : State :=
  ((askedLocks s key).filter (fun l => decide (l.since + 900000 ≤ s.now))).foldl (fun s l =>
    if l.tries < 3 ∨ l.pkt.isSome then
      let p := attemptPort s key l.port (l.tries + 1) false
      askOn p key 8 l.part 0 0 { s with locks := s.locks.map (fun x => if x = l then { l with tries := l.tries + 1, since := s.now, port := p } else x) }
    else lockFails l 3 s) s

/-- An attempt to tell the directory a page's new home (R353, R358). -/
def cutAttempt (key : Nat) (s : State) : State :=
  match s.migr.find key, s.spaces.find (keyGasid key) with
  | some m, some sp =>
    let part := holderPart s key
    let p := attemptPort s key m.port (m.tries + 1) false
    ({ s with migr := s.migr.put key { m with cut := true, tries := m.tries + 1, since := s.now, port := p } }).send
      (.onPort p (.newHome (directoryRank sp (keyGasid key) (keyVpn key)) (keyGasid key) (keyVpn key) m.home (s.tenantOf part) (s.vers.get 0 key)))
  | _, _ => s

/-- An attempt of a cutover's message has timed out (R353); after the third the page stays TRANSIT until the directory answers. -/
def cutTimeout (key : Nat) (s : State) : State :=
  match s.migr.find key with
  | some m => if m.cut ∧ m.tries < 3 ∧ m.since + 900000 ≤ s.now then cutAttempt key s else s
  | none => s

/-- `MERIDIAN_ATTEMPT_TIMEOUT` (R353): of whatever stands for a page. -/
def execMeridianAttemptTimeout (gasid vpn : Nat) (s : State) : Out :=
  let key := dirKey gasid vpn
  .next (progress (tellTimeout key (probeTimeout key (owedTimeout key (cutTimeout key (lockTimeout key (mailTimeout key (dirTimeout key
    (chainTimeout key s)))))))))

/-- A chain's record stands in the decline queue, or waits for room there. -/
def Chain.isDeclined (c : Chain) : Bool :=
  match c.phase with
  | .declined => true
  | .leaving _ true => true
  | _ => false

/-- `DECLINE_QUEUE_ROOM` (R354): records that wait in Meridian enter the queue. -/
def execDeclineQueueRoom (s : State) : Out :=
  .next ((s.chains.filter (fun (c : Nat × Chain) => !c.2.inQueue && c.2.isDeclined)).foldl (fun s c => pushDecline c.1 s) s)

/-- `FRAME_WAIT_TIMEOUT` (R351): for 1 ms no frame could be chosen. -/
def execFrameWaitTimeout (gasid vpn : Nat) (s0 : State) : Out :=
  let key := dirKey gasid vpn
  let s := retryFrames s0
  .next (match s.chains.find key with
    | some c =>
      if c.lacksFrame ∧ c.since + 9000000 ≤ s.now ∧ !evicting (65536 * c.part + c.asid) key s then decline key 6 s else s
    | none => s)

/-! ### The mailbox (R355, R356) -/

/-- The declined chain whose record in the queue has a handle: its key. -/
def declinedKey (s : State) (handle : Nat) : Option (Nat × Chain) :=
  s.chains.find? (fun c => c.2.isDeclined && (c.2.recs.find? (fun r => r.role != .pagerel)).any (fun r => r.handle == handle))

/-- The launch a record belongs to; for a copy, `gid` is its cohort. -/
def recLaunch (s : State) (r : FaultRec) : Nat :=
  if r.kind = 3 ∨ r.kind = 4 then ((s.cohorts.find r.gid).map (·.launch)).getD 0 else launchOf s r.gid

/-- A group of a killed gang: held stores and what waits among them are discarded, DECLINED waits for delivery (R356). -/
def Group.killed (g : Group) (k : Cond) : Group :=
  let ids := (g.stq ++ g.stqWait).flatMap Held.pids
  let tk := (g.pend.filter (fun (e : Nat × Pend) => ids.contains e.1)).foldl (fun (t : BitVec 16) (e : Nat × Pend) => match e.2.tok with
    | some n => t &&& ~~~(BitVec.ofNat 16 (2 ^ n))
    | none => t) g.tk
  { g with stq := [], stqWait := [], tk := tk, conds := if g.ended then g.conds else k :: g.conds
           pend := g.pend.filter (fun (e : Nat × Pend) => !ids.contains e.1) }

/-- A declined write-back keeps the record it was declined with, though the access is none any more (R355). -/
def Chain.without (c : Chain) (gone : FaultRec → Bool) : Chain :=
  { c with recs := c.recs.filterMap (fun r =>
      if !gone r then some r
      else match c.phase with
        | .leaving _ true => if (c.recs.find? (fun x => x.role != .pagerel)) = some r then some ({ r with role := .writeBack, gid := 0, op := 0 } : FaultRec) else none
        | _ => none) }

/-- Records leave their chains (R356, R403): those that then stand for nothing go, and a declined one whose first record went starts afresh
(R355). -/
def withdraw (gone : FaultRec → Bool) (s : State) : State :=
  let head (c : Chain) : Option Nat := (c.recs.find? (fun r => r.role != .pagerel)).map (·.handle)
  let left := s.chains.map (fun (c : Nat × Chain) => (c.1, c.2.without gone))
  let s1 := { s with chains := left.filter (fun (c : Nat × Chain) => !(c.2.recs.isEmpty && (c.2.phase == .hinted || c.2.phase == .noFrame))) }
  startHints ((s.chains.filter (fun (c : Nat × Chain) => c.2.phase == .declined)).foldl (fun s (c : Nat × Chain) =>
    match s.chains.find c.1 with
    | some d => if head d = head c.2 then s else restartChain c.1 s
    | none => s) s1)

/-- Parts of a gang here are killed (R356): its records leave their chains, its groups take DECLINED, its copies stop. -/
def killParts (lids : List Nat) (reason page : Nat) (s : State) : State :=
  let gids := lids.flatMap s.launchGids
  let mine (r : FaultRec) : Bool := r.gid != 0 && lids.contains (recLaunch s r)
  let gone := s.chains.flatMap (fun (c : Nat × Chain) => c.2.recs.filter mine)
  let s1 := gone.foldl (fun s r => dropAccess r true s) s
  let s2 := gids.foldl (fun s gid => s.updG gid (fun g => (g.killed ⟨0x10, reason, page, none⟩).abortCopies)) s1
  let s3 := { s2 with
    cohorts := s2.cohorts.map (fun (c : Nat × Cohort) => if lids.contains c.2.launch then
      (c.1, { c.2 with chans := c.2.chans.map (fun (h : Nat × Chan) => (h.1, h.2.abort)) }) else c) }
  withdraw mine (lids.foldl (fun s l => s.updL l (fun x => if x.failed = 0 then { x with failed := 3 } else x)) s3)

/-- A GANG IS KILLED (R356): its parts here, and those on other chips, which are told. -/
def killGang (lid reason page : Nat) (s : State) : State :=
  let s1 := killParts (s.gangLids lid) reason page s
  match s.launches.find lid with
  | some l => (match l.gang with
    | some g => ((((s.gangs.find (16 * g + l.part)).map (·.ranks)).getD []).filter (fun r => (s.partOfRank r).isNone)).foldl (fun s r =>
        s.send (.gangKilled r g reason page)) s1
    | none => s1)
  | none => s1

/-- The page address that DECLINED reports. -/
def pageAddr (key : Nat) : Nat := keyVpn key * 2 ^ 16

/-- Meridian starts afresh for the records that remain (R355). -/
def afterKill (key : Nat) (s : State) : State :=
  match s.chains.find key with
  | some c => if c.phase = .declined then restartChain key s else s
  | none => s

/-- `KILL` (R355): not for a declined write-back. -/
def execKill (handle : Nat) (s : State) : Out :=
  .next (match declinedKey s handle with
    | some (key, c) => match c.phase, c.recs.find? (fun r => r.role != .pagerel) with
      | .declined, some r =>
        progress (afterKill key (killGang (recLaunch s r) c.reason (pageAddr key)
          { s with chains := s.chains.put key { c with inQueue := false } }))
      | _, _ => s
    | none => s)

/-- `REFUSE` (R355): copies of the chain end with CODE 0x04, the gangs of its other records are killed. (DEDUCED, log entry 82) -/
def execRefuse (handle : Nat) (s : State) : Out :=
  .next (match declinedKey s handle with
    | some (key, c) => match c.phase with
      | .declined =>
        let isCopy (r : FaultRec) : Bool := r.kind == 3 || r.kind == 4
        let copies := c.recs.filter isCopy
        let rest := c.recs.filter (fun r => !isCopy r)
        let s1 := { s with chains := s.chains.put key { c with recs := rest, inQueue := false } }
        let s2 := copies.foldl (fun s r => endCopy r.gid r.op 4 c.reason s) s1
        let s3 := rest.foldl (fun s r => match s.chains.find key with
          | some d => if r.role = .access ∧ d.recs.contains r then killGang (recLaunch s r) c.reason (pageAddr key) s else s
          | none => s) s2
        progress (afterKill key s3)
      | _ => s
    | none => s)

/-- `RETRY` (R355): the failed operation again, with fresh attempts: the request of the stage that failed, the page's read from its server
among them; the telling of a supplied page; the search for a frame. -/
def execRetry (handle : Nat) (s : State) : Out :=
  .next (match declinedKey s handle with
    | some (key, c) =>
      let d : Chain := { c with attempts := 1, since := s.now, reason := 0, inQueue := false, failed := none }
      match c.phase, frameOf s key with
      | .leaving sent true, some f =>
        leaveAttempt key f { s with chains := s.chains.put key { d with
          phase := .leaving sent false, recs := d.recs.filter (fun r => r.role != .writeBack) } }
      | _, _ => match c.failed with
        | some (.asked stage) => ask key stage { s with chains := s.chains.put key { d with phase := .asked stage } }
        | some (.supplied frame flags _) =>
          trySupply key { s with chains := s.chains.put key { d with phase := .supplied frame flags false, frame := 0 } }
        | _ => beginResolution key { s with chains := s.chains.put key { d with phase := .asked 2 } }
    | none => s)

/-- `SUPPLY` (R355): the page stands in a frame of the pool, which joins the ASID's quota; once the directory knows the device as owner or
reader the resolution goes on from step 2. -/
def execSupply (handle frame flags : Nat) (s : State) : Out :=
  .next (match declinedKey s handle with
    | some (key, c) =>
      if c.phase = .declined then
        trySupply key { s with chains := s.chains.put key { c with phase := .supplied frame flags false, frame := 0, since := s.now, reason := 0, inQueue := false } }
      else s
    | none => s)

/-- A mailbox command of a page begins: its first attempt (R347, R353). -/
def mailCommand (key op : Nat) (set : Option Nat) (s : State) : State :=
  let p := attemptPort s key 0 1 false
  let s1 := { s with mail := s.mail ++ [{ key := key, set := set, attempts := 1, since := s.now, port := p }] }
  if (s.spaces.find (keyGasid key)).isNone then mailDone key 4 s1 else askOn p key op (holderPart s key) (set.getD 0) 0 s1

/-- `REPLICATE` (R347): OP 5. -/
def execReplicate (gasid vpn set : Nat) (s : State) : Out := .next (mailCommand (dirKey gasid vpn) 3 (some set) s)

/-- `UNREPLICATE` (R347): OP 6. -/
def execUnreplicate (gasid vpn : Nat) (s : State) : Out := .next (mailCommand (dirKey gasid vpn) 4 none s)

/-- The status word at offset 0x20 of the mailbox area (R347). -/
def State.mailStatus (s : State) : Nat := s.mailCount + 2 ^ 32 * s.mailReason

/-! ### Migration (R358) -/

/-- Lines of a page from one on that no copy engine holds and no lock, as far as the first that one does (R171, R174). -/
def freeLines (s : State) (key pa : Nat) : Nat → Nat → Nat
  | 0, _ => 0
  | n + 1, i => if isLocked s key (128 * i) true ∨ heldByCopy s 0 0 0 false (pa + 128 * i) then 0 else freeLines s key pa n (i + 1) + 1

/-- A line of a page read out of its frame, with all its tokens (R168, R333), and sent to the page's new home. -/
def sendLine (key home pa i : Nat) (s : State) : State :=
  (homeTake (pa / 128 + i) 1 s).send (.migrate home (keyGasid key) (keyVpn key) i (cellsGet s.mem (pa + 128 * i) 128))

/-- The next lines of a page homed here go to its new home, in ascending order (R358). -/
def copyLines (key home lines : Nat) (s : State) : State :=
  match pageOf s key, frameOf s key with
  | some pa, none =>
    let m := s.migr.get { home := home, copied := 0, marked := [] } key
    let n := freeLines s key pa (min lines (512 - m.copied)) m.copied
    if m.cut ∨ (stateOf s key ≠ 1 ∧ stateOf s key ≠ 3) then s
    else (List.range n).foldl (fun s i => sendLine key m.home pa (m.copied + i) s)
      { s with migr := s.migr.put key { m with copied := m.copied + n } }
  | _, _ => s

/-- A line of a page whose home moves here arrives (R358): into a frame of the pool that waits for the cutover. -/
def takeLine (key line : Nat) (data : List Byte) (s : State) : State :=
  if (pageOf s key).isSome ∧ (frameOf s key).isNone then s
  else match (match s.incoming.find key with
      | some pa => some pa
      | none => freeFrame s (holderPart s key)) with
    | none => s
    | some pa =>
      let at' := pa + 128 * (line % 512)
      clearPoison ((Place.phys at' 1).bytes data.length) { s with incoming := s.incoming.put key pa, mem := cellsSet s.mem at' (data.take 128) }

/-- `PAGE_MIGRATION` (R358): at the old home the next `lines` lines of the page go out, at the new home a line arrives.
(DESIGN CHOICE, log entry 86) -/
def execPageMigration (page : PageRef) (home lines : Nat) (arrived : Option (Nat × List Byte)) (s : State) : Out :=
  .next (match arrived with
    | some (line, data) => takeLine (keyOfRef page) line data s
    | none => copyLines (keyOfRef page) home lines s)

/-- The old home's part of the cutover (R358): its entry TRANSIT, the marked lines again, the directory told. -/
def cutover (key : Nat) (s : State) : State :=
  match s.migr.find key, pageOf s key with
  | some m, some pa =>
    if m.cut ∨ m.copied < 512 ∨ pageBusy s key pa ∨ (s.chains.find key).isSome then s
    else
      let s1 := toTransit key pa { s with migr := s.migr.put key { m with st := stateOf s key, marked := [] } }
      cutAttempt key (m.marked.reverse.foldl (fun s i => sendLine key m.home pa i s) s1)
  | _, _ => s

/-- The page's home is here (R358): the lines received are its page, its entry that of R344; a replica of it held here goes, and the directory
is told. With STATE 2 the migration is abandoned, and the copy is discarded. -/
def becomeHome (key ver st : Nat) (s : State) : State :=
  match s.incoming.find key with
  | none => if st ≠ 2 ∧ ver = s.vers.get 0 key then ackDirectory key ver s else s
  | some pa =>
    if st = 2 then retryFrames { s with incoming := s.incoming.del key, mem := s.mem.filter (fun c => decide (c.1 < pa) || decide (pa + 65536 ≤ c.1)) }
    else if ver < s.vers.get 0 key then s
    else
      let s1 := match frameOf s key with
        | some f => freeOf key f.pa (gatherPage f.pa s)
        | none => s
      ackDirectory key ver
        (retryFrames (setVer key ver (enterState key st pa { s1 with incoming := s1.incoming.del key, homes := s1.homes.del key })))

/-- `MIGRATION_CUTOVER` (R358) at the old home, at the page's directory, which serves it among the record's requests (R342), and at the new
home. -/
def execMigrationCutover (page : PageRef) (role : Cutover) (s : State) : Out :=
  let key := keyOfRef page
  .next (match role with
    | .oldHome => cutover key s
    | .directory home rank tenant ver => dirAccess page rank tenant (dirRequest key (.newHome rank home ver)) s
    | .newHome ver st => progress (becomeHome key ver st s))

/-! ### Room in a fault queue (R337) -/

/-- The accesses of a group that wait for a page without a record try again. -/
def retryGroup (gid : Nat) (s : State) : State :=
  match s.groups.find gid, whoOfGid s gid with
  | some g, some u =>
    let s1 := g.pend.foldl (fun s (e : Nat × Pend) => match e.2.op with
      | .pagereq wr ptr =>
        if hasRec s (keyOf s u.part u.asid (ptr % 2 ^ 60 / 2 ^ 16)) gid e.1 (if wr then 6 else 5) then s
        else match pageCheck s u wr ptr with
          | .ok l => if pageNeeds l.st wr then
              record u (ptr % 2 ^ 60 / 2 ^ 16) { kind := if wr then 6 else 5, unit := g.idx, token := e.2.tok.getD 0xFF, gid := gid, op := e.1 } false s
            else finish gid e.1 s
          | .error _ => finish gid e.1 s
      | .atomic _ _ _ _ => finishIfDone gid e.1 (serveAtomic gid e.1 none s)
      | _ => if e.2.els.isEmpty then s else serveLoad gid e.1 none s) s
    settle gid s1
  | _, _ => s

/-- `FAULT_QUEUE_ROOM` (R337). -/
def execFaultQueueRoom (die : Nat) (s : State) : Out :=
  .next ((s.groups.filter (fun (e : Nat × Group) => match s.cohorts.find e.2.cid with
    | some co => dieOf co.core == die
    | none => false)).foldl (fun s e => retryGroup e.1 s) s)

end Sys2Proof.Machine
end

