-- ==== Sys2Proof/Machine/FabricEvents.lean ====
section
/-! DEFINITION. Events of the fabric engine: flits and packets arriving, held flag stores, refusals, timeouts, reachability (R365 to
R382). -/

namespace Sys2Proof.Machine

/-- What a packet that has arrived does (R367, R371 to R376). -/
def packetArrives (opc : Nat) (p : Pkt) (s : State) : State :=
  if opc = 5 then arriveNotice p s
  else if 1 ≤ opc ∧ opc ≤ 4 then arrive opc p s
  else if 0x81 ≤ opc ∧ opc ≤ 0x84 then settleAll (arriveReply opc p s)
  else s

/-- Whole packets a port has received are handed on. -/
def takePackets (port : Nat) (s : State) : State :=
  (s.link port).got.foldl (fun s b =>
    let r := parsePacket b
    packetArrives r.1 r.2 s) (s.updLink port (fun l => { l with got := [] }))

/-- `HEAD` (R365, R366). -/
def execHead (port seq : Nat) (c good : Bool) (payload : List Byte) (s : State) : Out :=
  .next (takePackets port (recvFlit port seq true c good payload s))
/-- `BODY` (R365, R366). -/
def execBody (port seq : Nat) (c good : Bool) (payload : List Byte) (s : State) : Out :=
  .next (takePackets port (recvFlit port seq false c good payload s))

/-- `LINK_TRAINED` (R369): a link returns, with empty tables and sequence number 0; attempts that waited for a path go out. -/
def execLinkTrained (port : Nat) (s : State) : Out :=
  .next (if (s.link port).up then s else sendWaiting (s.updLink port (fun l => { ({} : Link) with got := l.got })))

/-- `LOAD_REQUEST` (R371). -/
def execLoadRequest (p : Pkt) (s : State) : Out := .next (packetArrives 1 p s)
/-- `STORE_REQUEST` (R371). -/
def execStoreRequest (p : Pkt) (s : State) : Out := .next (packetArrives 2 p s)
/-- `ATOMIC_REQUEST` (R371). -/
def execAtomicRequest (p : Pkt) (s : State) : Out := .next (packetArrives 3 p s)
/-- `FLAG_STORE` (R381). -/
def execFlagStore (p : Pkt) (s : State) : Out := .next (packetArrives 4 p s)
/-- `FLOOR_NOTICE` (R376, R377). -/
def execFloorNotice (p : Pkt) (s : State) : Out := .next (packetArrives 5 p s)
/-- `LOAD_REPLY` (R373). -/
def execLoadReply (p : Pkt) (s : State) : Out := .next (packetArrives 0x81 p s)
/-- `ACKNOWLEDGEMENT` (R374). -/
def execAcknowledgement (p : Pkt) (s : State) : Out := .next (packetArrives 0x82 p s)
/-- `ATOMIC_REPLY` (R373). -/
def execAtomicReply (p : Pkt) (s : State) : Out := .next (packetArrives 0x83 p s)
/-- `REFUSAL` (R371). -/
def execRefusal (p : Pkt) (s : State) : Out := .next (packetArrives 0x84 p s)

/-- `FLAG_STORE_RELEASE` (R381): a held flag store whose counts are met is performed. -/
def execFlagStoreRelease (src num : Nat) (s : State) : Out :=
  let ready (p : Pkt) : Bool := p.src == src && p.num == num && (match s.partOfRank p.dst with
    | some part => flagReady s part p
    | none => false)
  .next (match s.heldFlags.find? ready with
    | none => s
    | some p => match s.partOfRank p.dst with
      | some part => serveReq part 4 p { s with heldFlags := s.heldFlags.erase p }
      | none => s)

/-- `REFUSAL_SEND` (R371): a packet of another tenant is refused 2.0 µs after it arrived. -/
def execRefusalSend (id : Nat) (s : State) : Out :=
  .next (match s.refusals.find id with
    | none => s
    | some (p, oc, due) =>
      if s.now < due then s
      else
        let s1 := { s with refusals := s.refusals.del id }
        match s.partOfRank p.dst with
        | some part => refuse part (oc / 16) (oc % 16) p s1
        | none => s1)

/-- `E2E_ATTEMPT_TIMEOUT` (R374, R376): 8 µs after an attempt fell due; `rank` is 4096 × partition + target rank. (DEDUCED, log entry 53) -/
def execE2eAttemptTimeout (rank num : Nat) (s : State) : Out :=
  .next (match reqOf s (rank / 4096) (rank % 4096) num with
    | some (id, r) => if s.now < r.since + 72000 then s else settleAll (attemptTimeout id r s)
    | none => s)

/-- `E2E_WINDOW_ROOM` (R373): requests that waited for the window go out. -/
def execE2eWindowRoom (_rank : Nat) (s : State) : Out := .next (settleAll (transmitLoop (s.reqs.length + 1) s))

/-- `REACHABILITY_REPORT` (R370): a switch reports a rank on its plane. -/
def execReachabilityReport (plane rank : Nat) (up : Bool) (s : State) : Out :=
  let rest := s.reach.filter (fun e => e != (plane, rank))
  .next (if up then sendWaiting { s with reach := (plane, rank) :: rest } else { s with reach := rest })

end Sys2Proof.Machine
end

