-- ==== Sys2Proof/Machine/FrontEnd.lean ====
section
/-! DEFINITION. The front end: queues, packets and their admission, placement, the release of groups and the completion of launches,
gangs over several chips, energy accounts (R95 to R97, R128, R389 to R399, R410, R411). -/

namespace Sys2Proof.Machine

/-! ### The front end's own accesses -/

/-- The physical address of a device-virtual byte on a page of one of some states, with RD or W; cluster 40 is none. (DEDUCED, log entry 90) -/
def feFind (s : State) (part asid va : Nat) (wr : Bool) (sts : List Nat) : Option Nat :=
  if va % 2 ^ 63 / 2 ^ 60 ≠ 0 then none
  else match walk s part asid 40 (va % 2 ^ 60) with
    | .ok (l, _) => if sts.contains l.st ∧ (if wr then l.wr else l.rd) then some (l.pa 0 (va % 2 ^ 60)) else none
    | .error _ => none

/-- `n` bytes read, or none where some byte's page does not allow it or its line is poisoned. -/
def feRead (s : State) (part asid va n : Nat) (sts : List Nat) : Option (List Byte) :=
  (List.range n).foldr (fun i acc =>
    match acc, feFind s part asid (va + i) false sts with
    | some t, some pa => if s.poison.contains (pa / 128) then none else some (cellGet s.mem pa :: t)
    | _, _ => none) (some [])

/-- Bytes of a contiguous physical range written whole. -/
def setBlock (pa : Nat) (data : List Byte) (s : State) : State :=
  { s with mem := s.mem.filter (fun c => decide (c.1 < pa)) ++
      (List.range data.length).filterMap (fun i => let x := data.getD i 0; if x = 0 then none else some (pa + i, x)) ++
      s.mem.filter (fun c => decide (pa + data.length ≤ c.1)) }

/-- A write by an agent that caches nothing (R168): the lines' tokens return home; whole lines lose their poison. -/
def homeWrite (pa : Nat) (data : List Byte) (s : State) : State :=
  clearPoison ((List.range data.length).map (fun i => Place.phys (pa + i) 1)) {
    homeTake (pa / 128) ((pa + data.length + 127) / 128 - pa / 128) s with mem := cellsSet s.mem pa data }

/-! ### Queues (R389 to R391) -/

/-- A queue descriptor. -/
structure QDesc where
  ring : Nat
  notify : Nat
  asid : Nat
  logn : Nat
  kq : Bool
  deriving DecidableEq, Repr

/-- The descriptor of a queue, if it is valid (R389). (DEDUCED, log entry 91) -/
def queueDesc (s : State) (part q : Nat) : Option QDesc :=
  let a := s.cfgGet (State.pblock part) + 32 * q
  let flags := s.pmRd (a + 19) 1
  let d : QDesc := { ring := s.pmRd a 8, notify := s.pmRd (a + 8) 8, asid := s.pmRd (a + 16) 2, logn := s.pmRd (a + 18) 1, kq := flags.testBit 1 }
  if part < s.npart ∧ q < 4096 ∧ flags % 2 = 1 ∧ flags < 4 ∧ s.pmRd (a + 20) 12 = 0 ∧ 4 ≤ d.logn ∧ d.logn ≤ 12 ∧ d.ring % 128 = 0 ∧ d.notify % 4096 = 0
  then some d else none

/-- Key of a queue. -/
def qkey (part q : Nat) : Nat := 4096 * part + q
/-- What the front end knows of a queue. -/
def State.queue (s : State) (part q : Nat) : Queue := s.queues.get {} (qkey part q)
/-- Changes a queue. -/
def updQueue (part q : Nat) (f : Queue → Queue) (s : State) : State :=
  { s with queues := s.queues.set {} (qkey part q) (f (s.queue part q)) }

/-- The front end works: booted, powered, and no fatal error (R414, R417). -/
def State.serving (s : State) : Bool := s.booted && s.powered && !s.halted

/-- Packets of a queue that are submitted and not yet read, modulo 2^64; none where WPTR cannot be read (R390). -/
def queueAhead (s : State) (part q : Nat) (d : QDesc) : Option Nat :=
  (feRead s part d.asid d.notify 8 [1]).map (fun w => (fromBytes w + 2 ^ 64 - (s.queue part q).rptr) % 2 ^ 64)

/-- A queue has a packet pending: its head waits, or WPTR has passed RPTR. -/
def queuePending (s : State) (part q : Nat) : Bool :=
  (s.queue part q).head.isSome || (match queueDesc s part q with
    | some d => (queueAhead s part q d).any (fun n => n != 0 && decide (n < 2 ^ 63))
    | none => false)

/-- Since when a queue has had no packet pending: now, where it has one. -/
def idleSince (s : State) (e : Nat × Queue) : Nat := if queuePending s (e.1 / 4096) (e.1 % 4096) then s.now else e.2.lastPending

/-- `QUEUE_DOORBELL` (R391): a queue without a slot is mapped, if need be in place of the one that has had no packet pending for longest, the
first of equals. (DESIGN CHOICE, log entry 152) -/
def execQueueDoorbell (part q : Nat) (s : State) : Out :=
  .next (if !s.serving then s
    else match queueDesc s part q with
    | none => s
    | some _ =>
      let up (s : State) : State := updQueue part q (fun x => { x with mapped := true, lastPending := s.now }) s
      if (s.queue part q).mapped then up s
      else
        let mapped := s.queues.filter (fun (e : Nat × Queue) => e.2.mapped)
        if mapped.length < 64 then up s
        else
          let oldest := mapped.foldl (fun (b : Option (Nat × Queue)) e => match b with
            | none => some e
            | some m => if idleSince s e < idleSince s m then some e else some m) none
          match oldest with
          | none => up s
          | some m => up { s with queues := s.queues.set {} m.1 { m.2 with mapped := false } })

/-- The error words of a queue's notify page: index, then the count (R396). -/
def errorWords (part q index : Nat) (s : State) : State :=
  match queueDesc s part q with
  | none => s
  | some d =>
    match feFind s part d.asid (d.notify + 0x18) true [1], feFind s part d.asid (d.notify + 0x10) true [1] with
    | some i, some c =>
      let s1 := homeWrite i (toBytes 8 index) s
      homeWrite c (toBytes 8 (s1.pmRd c 8 + 1)) s1
    | _, _ => s

/-- A packet read: the count of packets read is written to RPTR (R390). -/
def advanceRptr (part q : Nat) (d : QDesc) (s : State) : State :=
  let n := ((s.queue part q).rptr + 1) % 2 ^ 64
  let s1 := updQueue part q (fun x => { x with rptr := n, lastPending := s.now }) s
  match feFind s1 part d.asid (d.notify + 8) true [1] with
  | some pa => homeWrite pa (toBytes 8 n) s1
  | none => s1

/-- The front end reads a queue's next packet (R390, R396); `bad` says the read meets an uncorrectable error.
(DEDUCED, log entry 92; DEDUCED, log entry 95) -/
def readHead (part q : Nat) (bad : Bool) (d : QDesc) (s : State) : State :=
  let Q := s.queue part q
  match queueAhead s part q d with
  | none => s
  | some ahead =>
    if !Q.mapped ∨ Q.head.isSome ∨ ahead = 0 ∨ 2 ^ 63 ≤ ahead then s
    else
      let addr := d.ring + 128 * (Q.rptr % 2 ^ d.logn)
      match (if bad then none else feRead s part d.asid addr 128 [1]) with
      | none => errorWords part q Q.rptr (advanceRptr part q d (if bad then memoryError part s else s))
      | some b =>
        let h : Head := { id := s.nextId, addr := addr, index := Q.rptr, bytes := b }
        updQueue part q (fun x => { x with head := some h, waiting := none, holding := false })
          (advanceRptr part q d { s with nextId := s.nextId + 1 })

/-! ### Packets (R393, R394, R396) -/

/-- The four DEPS entries. -/
def pktDeps (b : List Byte) : List Nat := (List.range 4).map (fun i => pfield b (48 + 8 * i) 8)

/-- The limits and must-be-zero rules of R393 and the roles of R394. -/
def pktLegal (b : List Byte) (l : Launch) : Bool :=
  decide (1 ≤ l.clen ∧ l.clen ≤ 0xFFFFFFFD) && decide (1 ≤ l.teams ∧ l.teams ≤ 40) && decide (1 ≤ l.cohorts ∧ l.cohorts ≤ 8) &&
  decide (1 ≤ l.groups ∧ l.groups ≤ 16) && decide (1 ≤ l.win ∧ l.win ≤ 64) && decide (pfield b 29 1 < 8) && decide (pfield b 30 1 < 2) &&
  pfield b 31 1 == 0 && decide (l.zt ≤ 10) && decide (l.ch ≤ 8) && pfield b 38 2 == 0 && pfield b 88 40 == 0 &&
  (List.range l.groups).all (fun g => l.roles / 4 ^ g % 4 != 3) && l.roles / 4 ^ l.groups == 0

/-- Where the completion record goes, if it can be written: 64-byte aligned, LOCAL with W (R396). -/
def donePlace (s : State) (l : Launch) : Option Nat :=
  if l.done % 64 = 0 then feFind s l.part l.asid l.done true [1] else none

/-- The ranks of a process-group table, if it is valid (R398). (DEDUCED, log entry 94) -/
def groupTable (s : State) (l : Launch) : Option (List Nat) :=
  let sts := [1, 3, 4]
  match feRead s l.part l.asid l.ptable 8 sts with
  | none => none
  | some h =>
    let n := fromBytes (h.take 2)
    if fromBytes (h.drop 2) ≠ 0 ∨ n = 0 ∨ 4096 < n then none
    else match feRead s l.part l.asid (l.ptable + 8) (2 * n) sts with
      | none => none
      | some t =>
        let rs := (List.range n).map (fun i => pfield t (2 * i) 2)
        if rs.any (fun r => decide (4096 ≤ r)) ∨ rs.eraseDups.length ≠ n then none
        else match s.rankOf l.part with
          | some own => if rs.contains own then some rs else none
          | none => if rs = [0] then some rs else none

/-! ### Placement (R96, R97, R245, R296, R412) -/

/-- Cohorts of one core that launches of a shape can hold, with so much of it in use. -/
structure Use where
  cidx : List Nat := []
  idx : List Nat := []
  w : Nat := 0
  z : Nat := 0
  ch : Nat := 0
  deriving DecidableEq, Repr

/-- A cohort of a shape placed. -/
def Use.add (u : Use) (l : Launch) (p : CohortPlace) : Use :=
  { cidx := p.cidx :: u.cidx, idx := p.groups ++ u.idx, w := u.w + l.groups * l.win * 16, z := u.z + l.zt, ch := u.ch + l.ch }

/-- Placements held for gangs (R399). -/
def heldPlaces (s : State) : List (Launch × CohortPlace) :=
  s.gangs.flatMap (fun (e : Nat × Gang) => if e.2.held ∧ e.2.lid.isNone then
    e.2.place.flatten.map (fun p => (pktLaunch e.2.pkt e.2.addr e.2.part e.2.asid, p)) else [])

/-- What a core's resident cohorts and held placements use. -/
def coreUse (s : State) (held : List (Launch × CohortPlace)) (core : Nat) : Use :=
  let cs := s.cohorts.filter (fun (e : Nat × Cohort) => e.2.core == core && e.2.resident)
  let gs := s.groups.filter (fun (e : Nat × Group) => cs.any (fun c => c.1 == e.2.cid))
  let chOf (c : Cohort) : Nat := ((s.launches.find c.launch).map (·.ch)).getD 0
  let u : Use := {
    cidx := cs.map (fun (c : Nat × Cohort) => c.2.cidx)
    idx := gs.map (fun (g : Nat × Group) => g.2.idx)
    w := (gs.map (fun (g : Nat × Group) => g.2.w)).foldl (· + ·) 0
    z := (cs.map (fun (c : Nat × Cohort) => c.2.nz)).foldl (· + ·) 0
    ch := (cs.map (fun (c : Nat × Cohort) => chOf c.2)).foldl (· + ·) 0 }
  (held.filter (fun h => h.2.core == core)).foldl (fun u h => u.add h.1 h.2) u

/-- How many more cohorts of a shape a core takes: 4 cohorts, 32 groups, 4,608 window registers, 10 z-tiles, 8 channels. -/
def Use.room (u : Use) (l : Launch) : Nat :=
  let per (total used each : Nat) : Nat := if each = 0 then 4 else (total - used) / each
  min (min (4 - u.cidx.length) (per 32 u.idx.length l.groups))
    (min (per 4608 u.w (l.groups * l.win * 16)) (min (per 10 u.z l.zt) (per 8 u.ch l.ch)))

/-- The most teams of `c` cohorts, each on distinct cores, that a cluster takes. -/
def maxTeams (caps : List Nat) (c : Nat) : Nat :=
  (List.range 41).foldl (fun b t => if t * c ≤ (caps.map (fun k => min k t)).foldl (· + ·) 0 then max b t else b) 0

/-- The clusters of a partition. -/
def partClusters (s : State) (part : Nat) : List Nat := (s.partDies part).flatMap (fun d => (List.range 5).map (fun i => 5 * d + i))
/-- The room on each core of a cluster. -/
def clusterCaps (s : State) (held : List (Launch × CohortPlace)) (l : Launch) (c : Nat) : List Nat :=
  (List.range 8).map (fun i => (coreUse s held (8 * c + i)).room l)

/-- All teams of a launch can be placed at once. -/
def feasible (s : State) (l : Launch) : Bool :=
  let held := heldPlaces s
  decide (l.teams ≤ ((partClusters s l.part).map (fun c => maxTeams (clusterCaps s held l c) l.cohorts)).foldl (· + ·) 0)
/-- All teams of a launch could be placed on its empty partition (R394). -/
def everFits (s : State) (l : Launch) : Bool :=
  decide (l.teams ≤ (partClusters s l.part).length * maxTeams (List.replicate 8 (({} : Use).room l)) l.cohorts)

/-- A cluster is Warm or above (R412). -/
def isWarm (s : State) (c : Nat) : Bool := (s.therm.get {} c).level != .normal

/-- A cohort of a shape can stand at a place. -/
def cohortFits (s : State) (held : List (Launch × CohortPlace)) (l : Launch) (p : CohortPlace) : Bool :=
  let u := coreUse s held p.core
  decide (1 ≤ u.room l) && decide (p.cidx < 4) && !u.cidx.contains p.cidx && p.groups.length == l.groups && p.groups.eraseDups == p.groups &&
  p.groups.all (fun g => decide (g < 32) && !u.idx.contains g)

/-- Cores strictly rise. -/
def risingCores : List CohortPlace → Bool
  | p :: q :: t => decide (p.core < q.core) && risingCores (q :: t)
  | _ => true

/-- A team's places are right (R96, R97); a Warm cluster is chosen only where no other fits (R412). -/
def teamFits (s : State) (held : List (Launch × CohortPlace)) (l : Launch) (t : List CohortPlace) : Bool :=
  match t with
  | [] => false
  | p :: _ =>
    let c := clusterOf p.core
    t.length == l.cohorts && risingCores t && t.all (fun q => clusterOf q.core == c) && (partClusters s l.part).contains c &&
    t.all (cohortFits s held l) &&
    (!isWarm s c || !(partClusters s l.part).any (fun k => !isWarm s k && decide (1 ≤ maxTeams (clusterCaps s held l k) l.cohorts)))

/-- Every team's places are right, one after the other. (DESIGN CHOICE, log entry 119) -/
def placeFits (s : State) (l : Launch) (place : List (List CohortPlace)) : Bool :=
  place.length == l.teams &&
  (place.foldl (fun (a : Bool × List (Launch × CohortPlace)) t =>
    (a.1 && teamFits s a.2 l t, t.map (fun p => (l, p)) ++ a.2)) (true, heldPlaces s)).1

/-! ### Starting a launch (R95, R97, R116) -/

/-- The role of group `g` of a launch (R393). -/
def Launch.role (l : Launch) (g : Nat) : Role :=
  match l.roles / 4 ^ g % 4 with
  | 1 => .matrix
  | 2 => .copy
  | _ => .vector

/-- A group as it starts (R95). (DEDUCED, log entry 114) -/
def startGroup (l : Launch) (cid g idx : Nat) : Group :=
  { cid := cid, gidx := g, idx := idx, role := l.role g, w := 16 * l.win, vpc := List.replicate 32 (.live (pcOf l.entry))
    s := if l.pkt % 2 ^ 64 = 0 then [] else [(1, BitVec.ofNat 64 l.pkt)] }

/-- A cohort placed, with its save area. -/
def startCohort (lid : Nat) (l : Launch) (team i : Nat) (p : CohortPlace) (s : State) : Option State :=
  match freeRun s l.part (cdiv (saveBytes l.groups (16 * l.win) l.zt) 65536) with
  | none => none
  | some base =>
    let cid := s.nextId
    let gids := (List.range l.groups).map (fun g => cid + 1 + g)
    let co : Cohort := { launch := lid, team := team, tcoh := i, core := p.core, cidx := p.cidx, gids := gids, nz := l.zt, placedAt := s.now
                         save := base }
    let groups := (List.range l.groups).foldl (fun (m : Tab Group) g => m.put (cid + 1 + g) (startGroup l cid g (p.groups.getD g 0))) s.groups
    some { s with nextId := cid + 1 + l.groups, cohorts := s.cohorts.put cid co, groups := groups }

/-- All teams of a launch placed at once, or nothing (R392). -/
def startLaunch (lid : Nat) (l : Launch) (place : List (List CohortPlace)) (s : State) : Option State :=
  let ps : List (Nat × Nat × CohortPlace) :=
    (place.zipIdx.map (fun t => t.1.zipIdx.map (fun p => (t.2, p.2, p.1)))).flatten
  ps.foldl (fun (a : Option State) (p : Nat × Nat × CohortPlace) => a.bind (startCohort lid l p.1 p.2.1 p.2.2))
    (some { s with launches := s.launches.put lid l })

/-! ### Energy (R410, R411) -/

/-- Offset of a partition's energy block. -/
def eblock (k : Nat) : Nat := 0x2800 + 0x40 * k
/-- CAPW; its reset value is 2,600 / NPART. -/
def capw (s : State) (k : Nat) : Nat := (s.cfg.find (eblock k)).getD (2600 / s.npart)
/-- CEIL; its reset value is 1,000 × CAPW's. -/
def energyCeil (s : State) (k : Nat) : Nat := (s.cfg.find (eblock k + 0x10)).getD (1000 * (2600 / s.npart))
/-- A partition's account. -/
def State.account (s : State) (k : Nat) : Energy := s.energy.get {} k
/-- BAL. -/
def balance (s : State) (k : Nat) : Int := (s.account k).bal
/-- Changes an account. -/
def updEnergy (k : Nat) (f : Energy → Energy) (s : State) : State := { s with energy := s.energy.set {} k (f (s.account k)) }
/-- The admission test of R411. -/
def energyFits (s : State) (l : Launch) : Bool := decide ((l.energy : Int) ≤ balance s l.part - ((s.account l.part).rsvd : Int))

/-- The energy a partition's rails have been metered for, in mJ, shared among its launches in proportion to their occupied core-clocks
(R411); with no launch resident it is debited to none. (DESIGN CHOICE, log entry 153) -/
def meter (part mj : Nat) (s : State) : State :=
  let total := (s.launches.filter (fun (e : Nat × Launch) => e.2.part == part)).foldl (fun n e => n + e.2.occ) 0
  if total = 0 then s
  else { s with launches := s.launches.map (fun (e : Nat × Launch) =>
    if e.2.part = part then (e.1, { e.2 with occ := 0, met := e.2.met + mj * 2 ^ 32 * e.2.occ / total }) else e) }

/-- `ENERGY_TICK` (R411), every 1 ms: the energy metered, debits in completion order, then the refill. -/
def execEnergyTick (tick : EnergyMeter) (s0 : State) : Out :=
  let part := tick.part
  .next (if s0.npart ≤ part ∨ s0.now < (s0.account part).tickAt + 9000000 then s0
    else
      let s := meter part tick.mj s0
      let a := s.account part
      let bal := a.debits.foldl (fun (b : Int) d => b - (d.1 : Int)) (balance s part)
      let rsvd := a.debits.foldl (fun n (d : Nat × Nat) => n - d.2) a.rsvd
      updEnergy part (fun _ => { bal := min (bal + (capw s part : Int)) (energyCeil s part : Int), rsvd := rsvd, debits := [], tickAt := s.now }) s)

/-! ### Completion (R395 to R397) -/

/-- The bytes of a completion record. -/
def recordBytes (status mj : Nat) (trap : List Word64) : List Byte :=
  toBytes 8 status ++ (List.range 5).flatMap (fun i => toBytes 8 (if status = 2 then (trap.getD i 0).toNat else 0)) ++ toBytes 8 mj ++
    List.replicate 8 0

/-- The completion record written: bytes from 8 on, then STATUS; where it cannot be, the submitting queue's error words (R395, R396).
(DEDUCED, log entry 93) -/
def writeRecord (l : Launch) (status mj : Nat) (s : State) : State :=
  match donePlace s l with
  | some pa => homeWrite pa (toBytes 8 status) (homeWrite (pa + 8) ((recordBytes status mj l.trapRec).drop 8) s)
  | none => match l.queue with
    | some q => errorWords l.part q l.index s
    | none => s

/-- A packet is done with: among the last 4,096 completions of its partition (R397). -/
def remember (p : Past) (s : State) : State :=
  let mine := p :: s.history.filter (fun e => e.part == p.part)
  { s with history := mine.take 4096 ++ s.history.filter (fun e => e.part != p.part) }

/-- Launches that depend on a failed producer are cancelled (R101, R397). -/
def cancelDependents (id : Nat) (s : State) : State :=
  (s.launches.filter (fun (e : Nat × Launch) => e.2.deps.contains id)).foldl (fun s e => endGangParts e.1 4 [] s) s

/-- The ranks of a gang's part that are on other chips. -/
def farRanks (s : State) (g part : Nat) : List Nat := (((s.gangs.find (16 * g + part)).map (·.ranks)).getD []).filter (fun r => (s.partOfRank r).isNone)

/-- A failure of a part fails every part of its gang (R395): the other parts in this package, and those on other chips, which are told; the
record of each carries the trap. A kill has told them already (R356). -/
def failGang (lid : Nat) (l : Launch) (status : Nat) (rec : List Word64) (s : State) : State :=
  match l.gang with
  | none => s
  | some g =>
    if status = 3 then s
    else
      let s1 := (farRanks s g l.part).foldl (fun s r => s.send (.gangFailed r g status rec)) s
      (s1.launches.filter (fun (e : Nat × Launch) => e.1 != lid && e.2.gang == some g)).foldl (fun s e => endLaunch e.1 status rec s) s1

/-- A launch is complete: record, history, energy, dependents, its gang's other parts (R395, R397, R411). -/
def completeLaunch (lid mj : Nat) (s : State) : State :=
  match s.launches.find lid with
  | none => s
  | some l =>
    let status := if l.failed = 0 then 1 else l.failed
    let s1 := updEnergy l.part (fun a => { a with debits := a.debits ++ [(mj, l.energy)] }) s
    let s2 := remember ⟨l.part, l.pkt, lid, status⟩ (writeRecord l status mj s1)
    let s3 := if status = 1 then s2 else cancelDependents lid (failGang lid l status l.trapRec s2)
    { s3 with launches := s3.launches.del lid
              gangs := match l.gang with
                | some g => s3.gangs.upd (16 * g + l.part) (fun q => { q with gone := true })
                | none => s3.gangs }

/-- A head packet leaves its queue without having run (R394 to R397). -/
def refuseHead (part q : Nat) (h : Head) (l : Launch) (status : Nat) (s : State) : State :=
  let s1 := updQueue part q (fun x => { x with head := none, waiting := none, holding := false, lastPending := s.now }) s
  cancelDependents h.id (remember ⟨part, h.addr, h.id, status⟩ (writeRecord { l with queue := some q, index := h.index } status 0 s1))

/-! ### Release of groups (R128) -/

/-- A frame range left zero. -/
def zeroRange (pa n : Nat) (s : State) : State := { s with mem := s.mem.filter (fun c => decide (c.1 < pa) || decide (pa + n ≤ c.1)) }

/-- A cohort all of whose groups are released gives back its save area, tiles and channels. (DEDUCED, log entry 103) -/
def releaseCohort (cid : Nat) (s : State) : State :=
  match s.cohorts.find cid with
  | none => s
  | some co =>
    if co.gids.any (fun g => (s.groups.find g).isSome) then s
    else
      let n := (saveFrames s co).length
      retryFrames (zeroRange (co.save / 65536 * 65536) (65536 * n) { s with cohorts := s.cohorts.del cid })

/-- A group can be released: it has ended, its tokens are clear, nothing of it is pending (R128). (DEDUCED, log entry 88) -/
def Group.releasable (g : Group) : Bool := g.ended && g.tk == 0 && g.pend.isEmpty && g.stq.isEmpty && g.stqWait.isEmpty

/-- `GROUP_RELEASE` (R128, R395, R411): the last group's release completes the launch, whose energy is metered first: `mj` is what its
partition's rails have been metered for since the last metering. -/
def execGroupRelease (gid mj : Nat) (s : State) : Out :=
  .next (match s.groups.find gid with
    | none => s
    | some g =>
      if !g.releasable then s
      else
        let lid := launchOf s gid
        let s1 := releaseCohort g.cid { s with groups := s.groups.del gid }
        if s1.cohorts.any (fun (c : Nat × Cohort) => c.2.launch == lid) then s1 else
          let part := ((s1.launches.find lid).map (·.part)).getD 0
          let s2 := meter part mj s1
          completeLaunch lid (((s2.launches.find lid).map (·.met)).getD 0 / 2 ^ 32) s2)

/-! ### Admission (R392, R397) -/

/-- What a DEPS entry stands for: the latest packet read from that address, waiting, in flight or done with its status (R397). -/
def depOf (s : State) (part addr : Nat) : Option (Nat × Option Nat) :=
  let heads : List (Nat × Option Nat) := s.queues.filterMap (fun (e : Nat × Queue) => match e.2.head with
    | some h => if e.1 / 4096 = part ∧ h.addr = addr then some (h.id, none) else none
    | none => none)
  let flying : List (Nat × Option Nat) :=
    (s.launches.filter (fun (e : Nat × Launch) => e.2.part == part && e.2.pkt == addr)).map (fun e => (e.1, none))
  let past : List (Nat × Option Nat) := (s.history.filter (fun e => e.part == part && e.pkt == addr)).map (fun e => (e.id, some e.status))
  if addr = 0 then none
  else (heads ++ flying ++ past).foldl (fun (b : Option (Nat × Option Nat)) e => match b with
    | none => some e
    | some m => if m.1 < e.1 then some e else some m) none

/-- The producers of a packet other than itself: ids of those in flight, and whether one has failed. (DEDUCED, log entry 97) -/
def producers (s : State) (part id : Nat) (b : List Byte) : List Nat × Bool :=
  let ds := (pktDeps b).filterMap (depOf { s with queues := s.queues.filter (fun (e : Nat × Queue) => match e.2.head with
    | some h => h.id != id
    | none => true) } part)
  (ds.filterMap (fun d => if d.2.isNone then some d.1 else none), ds.any (fun d => match d.2 with
    | some st => decide (2 ≤ st)
    | none => false))

/-- A gang of the queue's head packet is being reserved or has been committed (R399). -/
def gangOfQueue (s : State) (part q : Nat) : Option (Nat × Gang) :=
  s.gangs.find? (fun (e : Nat × Gang) => e.2.coord && e.2.part == part && e.2.queue == q && e.2.lid.isNone)

/-- A head packet has waited 10 ms for space: it holds back those below it (R392). -/
def Queue.holds (x : Queue) (now : Nat) : Bool := x.holding || x.waiting.any (fun t => decide (t + 90000000 ≤ now))

/-- The head packet of a partition that has waited 10 ms for space, and is no gang's, holds resources that free for itself (R392). -/
def headHolds (s : State) (part : Nat) : Bool :=
  s.queues.any (fun (e : Nat × Queue) => e.1 / 4096 == part && e.2.head.isSome && e.2.holds s.now && (gangOfQueue s part (e.1 % 4096)).isNone)

/-- A head packet that holds resources for itself stands before a reservation from another chip of a priority (R392, R399). -/
def heldBack (s : State) (part prio : Nat) : Bool :=
  s.queues.any (fun (e : Nat × Queue) => e.1 / 4096 == part && e.2.holds s.now && (gangOfQueue s part (e.1 % 4096)).isNone && (match e.2.head with
    | some h => decide (prio ≤ (pktLaunch h.bytes h.addr part 0).prio)
    | none => false))

/-- A head packet that is to go first stands before one of a priority and queue (R392). (DEDUCED, log entry 96) -/
def outranked (s : State) (part prio q : Nat) : Bool :=
  s.queues.any (fun (e : Nat × Queue) => e.1 / 4096 == part && e.1 % 4096 != q && (match e.2.head, queueDesc s part (e.1 % 4096) with
    | some h, some d =>
      let l := pktLaunch h.bytes h.addr part d.asid
      (decide (prio < l.prio) || (l.prio == prio && decide (e.1 % 4096 < q))) && (gangOfQueue s part (e.1 % 4096)).isNone &&
      (e.2.holds s.now || (feasible s l && energyFits s l))
    | _, _ => false))

/-- A head packet waits for space from now on, if it does not already. -/
def waitSpace (part q : Nat) (s : State) : State := updQueue part q (fun x => { x with waiting := some (x.waiting.getD s.now) }) s

/-- The head packet has been placed. -/
def takeHead (part q : Nat) (s : State) : State :=
  updQueue part q (fun x => { x with head := none, waiting := none, holding := false, lastPending := s.now }) s

/-- `ADMISSION_WAIT_TIMEOUT` (R392): after 10 ms of waiting for space a head packet holds back those below it. -/
def execAdmissionWaitTimeout (part q : Nat) (s : State) : Out :=
  .next (match (s.queue part q).head, (s.queue part q).waiting with
    | some _, some t => if t + 90000000 ≤ s.now then updQueue part q (fun x => { x with holding := true }) s else s
    | _, _ => s)

/-! ### Gangs (R399) -/

/-- Changes a gang. -/
def updGang (key : Nat) (f : Gang → Gang) (s : State) : State := { s with gangs := s.gangs.upd key f }
/-- The launch of a gang's part. -/
def Gang.launch (g : Gang) : Launch := { pktLaunch g.pkt g.addr g.part g.asid with gang := some g.gang }

/-- The frames that the save areas of a launch's cohorts take, or none where the pool has no room (R116). -/
def saveRoom (s : State) (l : Launch) : Option (List Nat) :=
  freeRuns s l.part (cdiv (saveBytes l.groups (16 * l.win) l.zt) 65536) (l.teams * l.cohorts) []

/-- A reservation held: its places, its save areas and its energy. -/
def holdGang (key : Nat) (place : List (List CohortPlace)) (s : State) : State :=
  match s.gangs.find key with
  | none => s
  | some g => updEnergy g.part (fun a => { a with rsvd := a.rsvd + g.launch.energy }) (updGang key (fun g => { g with
      held := true, place := place, saves := (saveRoom s g.launch).getD [] }) s)

/-- A held reservation released. -/
def releaseGang (key : Nat) (s : State) : State :=
  match s.gangs.find key with
  | none => s
  | some g => if g.held then
      updEnergy g.part (fun a => { a with rsvd := a.rsvd - g.launch.energy }) (updGang key (fun g => { g with held := false, place := [], saves := [] }) s)
    else s

/-- What a rank answers a reservation: grant, refuse, or nothing where it could grant but for the places offered (R396, R399). The
coordinator's own part is a head packet of its queue, and has its place among the others (R392). -/
def gangAnswer (s : State) (l : Launch) (queue : Option Nat) (place : List (List CohortPlace)) : Option Bool :=
  let behind := match queue with
    | some q => outranked s l.part l.prio q
    | none => heldBack s l.part l.prio
  if asidValid s l.part l.asid ∧ (donePlace s l).isSome ∧ feasible s l ∧ (saveRoom s l).isSome ∧ energyFits s l ∧ s.serving ∧ !behind then
    (if placeFits s l place then some true else none)
  else some false

/-- The coordinator rolls back: the other ranks are told, its own hold goes, the retry delay starts (R399). -/
def rollBack (key : Nat) (s : State) : State :=
  match s.gangs.find key with
  | none => s
  | some g =>
    let own := s.rankOf g.part
    let s1 := (g.ranks.filter (fun r => some r != own)).foldl (fun s r => s.send (.rollback r g.gang)) s
    updGang key (fun g => { g with refused := true, granted := [], sentAt := s.now }) (releaseGang key s1)

/-- The coordinator tries to reserve: its own part, then every other rank's (R399); a producer that has failed by then cancels the packet
(R397). (DEDUCED, log entry 98) -/
def tryGang (key : Nat) (place : List (List CohortPlace)) (s : State) : State :=
  match s.gangs.find key with
  | none => s
  | some g =>
    let own := s.rankOf g.part
    let head := (s.queue g.part g.queue).head
    if head.any (fun h => (producers s g.part h.id g.pkt).2) then
      match head with
      | some h => refuseHead g.part g.queue h g.launch 4 { s with gangs := s.gangs.del key }
      | none => s
    else match gangAnswer s g.launch (some g.queue) place with
    | none => s
    | some false => updGang key (fun g => { g with refused := true, granted := [], sentAt := s.now }) s
    | some true =>
      let s1 := holdGang key place (updGang key (fun g => { g with refused := false, granted := own.toList, sentAt := s.now }) s)
      (g.ranks.filter (fun r => some r != own)).foldl (fun s r => s.send (.reserve r g.gang g.asid g.addr g.pkt)) s1

/-- `PACKET_ADMISSION` (R390 to R399): the head packet is read if it has not been, then refused, cancelled, admitted, or left waiting;
nothing is admitted where `place` does not fit. -/
def admitHead (part q : Nat) (bad : Bool) (place : List (List CohortPlace)) (s0 : State) : State :=
  match queueDesc s0 part q with
  | none => s0
  | some d =>
    let s := readHead part q bad d s0
    match (s.queue part q).head with
    | none => s
    | some h =>
      let l : Launch := { pktLaunch h.bytes h.addr part d.asid with queue := some q, index := h.index }
      if (gangOfQueue s part q).isSome then s
      else match groupTable s l with
      | none => refuseHead part q h l 5 s
      | some ranks =>
        let (deps, failed) := producers s part h.id h.bytes
        if !pktLegal h.bytes l ∨ (l.priv ∧ !d.kq) ∨ !everFits s l ∨ (donePlace s l).isNone then refuseHead part q h l 5 s
        else if failed then refuseHead part q h l 4 s
        else if outranked s part l.prio q then (if feasible s l then s else waitSpace part q s)
        else if 1 < ranks.length then
          let id := ((s.rankOf part).getD 0) * 2 ^ 48 + s.gangSeq % 2 ^ 48
          let g : Gang := { gang := id, part := part, coord := true, ranks := ranks, addr := h.addr, pkt := h.bytes, asid := d.asid, queue := q
                            firstAt := s.now, refused := true, sentAt := s.now }
          let s1 := { s with gangs := s.gangs.put (16 * id + part) g, gangSeq := s.gangSeq + 1 }
          match gangAnswer s1 l (some q) place with
          | none => s
          | some _ => tryGang (16 * id + part) place s1
        else if !feasible s l then waitSpace part q s
        else if !energyFits s l ∨ !placeFits s l place then s
        else match startLaunch h.id { l with deps := deps } place s with
          | none => waitSpace part q s
          | some s1 => updEnergy part (fun a => { a with rsvd := a.rsvd + l.energy }) (takeHead part q s1)

/-- `PACKET_ADMISSION` (R392). -/
def execPacketAdmission (part q : Nat) (bad : Bool) (place : List (List CohortPlace)) (s : State) : Out :=
  .next (if s.serving ∧ s.npartAsked.isNone then admitHead part q bad place s else s)

/-- `RESERVE` (R399): a rank grants and holds, or refuses, at once. -/
def execReserve (gang part asid addr : Nat) (pkt : List Byte) (place : List (List CohortPlace)) (s : State) : Out :=
  let key := 16 * gang + part
  let l : Launch := { pktLaunch pkt addr part asid with gang := some gang }
  let own := (s.rankOf part).getD 0
  .next (if s.npart ≤ part ∨ (s.rankOf part).isNone ∨ (s.gangs.find key).isSome then s
    else match gangAnswer s l none place with
      | none => s
      | some false => s.send (.grant (gang / 2 ^ 48) gang false)
      | some true =>
        let g : Gang := { gang := gang, part := part, coord := false, ranks := (groupTable s l).getD [gang / 2 ^ 48, own], addr := addr, pkt := pkt
                          asid := asid, queue := 0 }
        (holdGang key place { s with gangs := s.gangs.put key g }).send (.grant (gang / 2 ^ 48) gang true))

/-- The keys of a gang's parts in this package. -/
def gangKeys (s : State) (gang : Nat) : List Nat :=
  (s.gangs.filter (fun (e : Nat × Gang) => e.2.gang == gang)).map (·.1)

/-- `GRANT` (R399): the coordinator commits once every rank has granted in time, and rolls back after a refusal. -/
def execGrant (gang rank : Nat) (ok : Bool) (s : State) : Out :=
  .next ((gangKeys s gang).foldl (fun s key =>
    match s.gangs.find key with
    | some g =>
      if !g.coord ∨ !g.held ∨ g.start.isSome ∨ !g.ranks.contains rank then s
      else if !ok then rollBack key s
      else
        let granted := if g.granted.contains rank then g.granted else rank :: g.granted
        let s1 := updGang key (fun g => { g with granted := granted }) s
        if granted.length = g.ranks.length ∧ s.now ≤ g.sentAt + 1800000 then
          let own := s.rankOf g.part
          (g.ranks.filter (fun r => some r != own)).foldl (fun s r => s.send (.commit r gang (s.now + 450000)))
            (updGang key (fun g => { g with start := some (s.now + 450000) }) s1)
        else s1
    | none => s) s)

/-- `COMMIT` (R399). -/
def execCommit (gang start : Nat) (s : State) : Out :=
  .next ((gangKeys s gang).foldl (fun s key => updGang key (fun g =>
    if !g.coord && g.held && g.start.isNone then { g with start := some start } else g) s) s)

/-- `ROLLBACK` (R399): an uncommitted reservation is released. -/
def execRollback (gang : Nat) (s : State) : Out :=
  .next ((gangKeys s gang).foldl (fun s key =>
    match s.gangs.find key with
    | some g => if g.coord ∨ g.start.isSome then s else
        let s1 := releaseGang key s
        { s1 with gangs := s1.gangs.del key }
    | none => s) s)

/-- `GANG_RESERVE_TIMEOUT` (R399): not every rank has granted within 200 µs. -/
def execGangReserveTimeout (gang : Nat) (s : State) : Out :=
  .next ((gangKeys s gang).foldl (fun s key =>
    match s.gangs.find key with
    | some g => if g.coord ∧ g.held ∧ g.start.isNone ∧ g.sentAt + 1800000 ≤ s.now then rollBack key s else s
    | none => s) s)

/-- `GANG_RETRY_TIMER` (R399): after 20 + (gang id mod 64) µs the gang is reserved again; after 10 ms the packet is refused with status 6. -/
def execGangRetryTimer (gang : Nat) (place : List (List CohortPlace)) (s : State) : Out :=
  .next ((gangKeys s gang).foldl (fun s key =>
    match s.gangs.find key with
    | some g =>
      if !g.coord ∨ !g.refused ∨ g.start.isSome ∨ s.now < g.sentAt + 9000 * (20 + gang % 64) then s
      else if g.firstAt + 90000000 ≤ s.now then
        match (s.queue g.part g.queue).head with
        | some h => refuseHead g.part g.queue h g.launch 6 { s with gangs := s.gangs.del key }
        | none => { s with gangs := s.gangs.del key }
      else tryGang key place s
    | none => s) s)

/-- A committed part that has not started ends (R395, R397): its hold goes, and its record is written. -/
def endUnstarted (key : Nat) (g : Gang) (status : Nat) (rec : List Word64) (s : State) : State :=
  let s1 := releaseGang key s
  let s2 := { s1 with gangs := s1.gangs.del key }
  let l : Launch := { g.launch with trapRec := rec }
  match (if g.coord then (s2.queue g.part g.queue).head else none) with
  | some h => refuseHead g.part g.queue h l status s2
  | none => remember ⟨g.part, g.addr, s2.nextId, status⟩ (writeRecord l status 0 { s2 with nextId := s2.nextId + 1 })

/-- A gang's parts here that are committed end with a status (R395, R399). -/
def endGangHere (gang status : Nat) (rec : List Word64) (s : State) : State :=
  (gangKeys s gang).foldl (fun s key => match s.gangs.find key with
    | some g => match g.start, g.lid with
      | some _, some lid => endLaunch lid status rec s
      | some _, none => endUnstarted key g status rec s
      | none, _ => s
    | none => s) s

/-- The chips of a gang whose parts here end before they have started are told (R395). -/
def tellGang (gang status : Nat) (s : State) : State :=
  ((gangKeys s gang).take 1).foldl (fun s key => (farRanks s gang (key % 16)).foldl (fun s r => s.send (.gangFailed r gang status [])) s) s

/-- A producer of a committed part that has not started has failed (R397). -/
def gangCancelled (s : State) (gang : Nat) : Bool :=
  (gangKeys s gang).any (fun key => match s.gangs.find key with
    | some g => g.start.isSome && g.lid.isNone &&
        (producers s g.part ((if g.coord then (s.queue g.part g.queue).head.map (·.id) else none).getD s.nextId) g.pkt).2
    | none => false)

/-- `GANG_START` (R399): a committed part starts at its time, at the places held; a part whose producer has failed is cancelled, and with it the
gang (R395, R397). -/
def execGangStart (gang : Nat) (s : State) : Out :=
  let due := (gangKeys s gang).any (fun key => (s.gangs.find key).any (fun g => g.start.any (fun t => decide (t ≤ s.now)) && g.lid.isNone))
  .next (if !s.serving ∨ s.npartAsked.isSome ∨ !due then s
    else if gangCancelled s gang then endGangHere gang 4 [] (tellGang gang 4 s)
    else (gangKeys s gang).foldl (fun s key =>
    match s.gangs.find key with
    | some g => match g.start, g.lid with
      | some t, none =>
        if s.now < t then s
        else
          let head := if g.coord then (s.queue g.part g.queue).head else none
          let id := (head.map (·.id)).getD s.nextId
          let l : Launch := { g.launch with
            queue := if g.coord then some g.queue else none, index := (head.map (·.index)).getD 0, deps := (producers s g.part id g.pkt).1 }
          let s1 := { s with nextId := s.nextId + 1 }
          match startLaunch id l g.place (updGang key (fun g => { g with lid := some id, held := false, saves := [] }) s1) with
          | some s2 => if g.coord then takeHead g.part g.queue s2 else s2
          | none => s
      | _, _ => s
    | none => s) s)

/-- `GANG_CONTACT_LOST` (R108, R356, R395, R399): a rank learns that its gang has ended. Where it has lost contact its part fails, for which the
spec names no status code; a part failed elsewhere fails every part; a gang killed elsewhere is killed here, its groups taking DECLINED. -/
def execGangContactLost (x : GangEnd) (s : State) : Out :=
  .next (match x.why with
    | .lost =>
      let status := 2 + Config.freeNat s.tick x.gang % 6
      let idle := !(gangKeys s x.gang).any (fun key => (s.gangs.find key).any (·.lid.isSome))
      endGangHere x.gang status [] (if idle then tellGang x.gang status s else s)
    | .failed status rec => endGangHere x.gang status rec s
    | .killed reason page =>
      let lids := (gangKeys s x.gang).filterMap (fun key => (s.gangs.find key).bind (·.lid))
      let s1 := progress (killParts lids reason page s)
      (gangKeys s x.gang).foldl (fun s key => match s.gangs.find key with
        | some g => if g.start.isSome ∧ g.lid.isNone then endUnstarted key g 3 [] s else s
        | none => s) s1)

end Sys2Proof.Machine
end

