-- ==== Sys2Proof/Machine/Preempt.lean ====
section
/-! DEFINITION. Pre-emption, save areas and restore (R113 to R119, R270, R312). -/

namespace Sys2Proof.Machine

/-! ### The image of a cohort (R116, R117) -/

/-- Bytes filled up with zeros to a length. -/
def padTo (n : Nat) (b : List Byte) : List Byte := b ++ List.replicate (n - b.length) 0

/-- The fault-record handle of a pending operation, or 0 (R116). -/
def handleOf (s : State) (gid pid : Nat) : Nat :=
  (((s.chains.flatMap (fun (c : Nat × Chain) => c.2.recs)).find? (fun r => r.gid == gid && r.op == pid)).map (·.handle)).getD 0

/-- A token record (R116); the engine's number is internal. (DESIGN CHOICE, log entry 100) -/
def tokenRecord (s : State) (gid k : Nat) (g : Group) : Nat :=
  match g.pend.find? (fun e => e.2.tok == some k) with
  | some e => if g.tokPending k then 2 ^ 63 + Config.freeNat k e.1 % 128 * 2 ^ 56 + handleOf s gid e.1 % 2 ^ 32 else 0
  | none => if g.tokPending k then 2 ^ 63 else 0

/-- The lines of 128 bytes a held store takes. -/
def heldLines (els : List StEl) : List Nat := (els.map (fun e => e.ptr / 128)).eraseDups

/-- The entries of a group's store queue: a descriptor whose form is internal, and the line's bytes (R116). -/
def heldImage (h : Held) : List Byte :=
  let line (els : List StEl) (k : Nat) : List Byte :=
    let d := (els.filter (fun e => e.ptr / 128 == k)).foldl (fun (d : List Byte) e =>
      (List.range e.n).foldl (fun d i => d.set (e.ptr % 128 + i) (BitVec.ofNat 8 (e.val / 256 ^ i))) d) (List.replicate 128 0)
    (List.range 16).map (fun i => Config.internalByte k i) ++ d
  match h with
  | .store _ els => (heldLines (els.map (·.2))).flatMap (line (els.map (·.2)))
  | .rel _ (.store e _ _) => line [e] (e.ptr / 128)
  | .atomic _ p => (List.range 16).map (fun i => Config.internalByte p i) ++ List.replicate 128 0
  | .rel _ _ => []

/-- The bytes of a register. -/
def regBytes (r : VReg) : List Byte := toBytes 128 r.toNat

/-- A group's record (R116). (DESIGN CHOICE, log entry 23) -/
def groupImage (s : State) (gid : Nat) (g : Group) (co : Cohort) (la : Launch) : List Byte :=
  let csr : List Nat := [0x00, 0x01, 0x02, 0x03, 0x04, 0x07, 0x08, 0x06, 0x09, 0x0A, 0x0B, 0x0C, 0x05].map (csrRead g co la)
  let waits := g.waits ++ g.keptWaits
  (List.range 32).flatMap (fun L => toBytes 4 (g.lane L).word) ++
  padTo 128 (csr.flatMap (toBytes 8)) ++
  (List.range 8).flatMap (fun k => toBytes 8 (g.th.get 0 k).toNat) ++
  (List.range 16).flatMap (fun k => toBytes 8 (tokenRecord s gid k g)) ++
  (if waits.isEmpty then List.replicate 64 0 else (List.range 64).map (fun i => Config.internalByte gid i)) ++
  (List.range 64).flatMap (fun k => toBytes 8 (g.sGet k).toNat) ++
  (List.range 16).flatMap (fun k => regBytes (g.mGet k)) ++
  (List.range 8).flatMap (fun k => regBytes (g.ts.get 0 k)) ++
  (padTo 9216 ((g.stq ++ g.stqWait).flatMap heldImage)).take 9216 ++
  (List.range g.w).flatMap (fun k => regBytes (g.vGet k)) ++
  padTo (128 * cdiv (9 * g.w) 128)
    ((List.range g.w).flatMap (fun k => toBytes 8 (g.scaleGet k).toNat) ++ (List.range g.w).map g.tagGet)

/-- The record of a suspended z-tile instruction (R270). (DEDUCED, log entry 101) -/
def matrixRecord (gidx : Nat) (p : Pend) : List Byte :=
  let low (kind zt : Nat) : Nat := 2 ^ 15 + kind * 2 ^ 12 + (p.tok.getD 0) % 16 * 256 + gidx % 16 * 16 + zt % 16
  match p.op with
  | .mx j =>
    let n := j.next
    let d0 := setBits (setBits (setBits j.d0 54 10 (wrap 10 (j.baseA n))) 44 10 (wrap 10 (j.baseB n))) 26 8 (j.steps - n - 1)
    let d0q := if j.sparse then setBits d0 34 10 (wrap 10 (j.baseQ n)) else d0
    let d0z := if n = 0 then d0q else setBits d0q 14 1 0
    let kind := b2n j.loop + 2 * b2n j.sparse
    toBytes 8 d0z ++ toBytes 8 (wrap 16 j.ai * 2 ^ 48 + wrap 16 j.bi * 2 ^ 32 + wrap 16 j.qi * 2 ^ 16 + low kind j.zt)
  | .mxrdz _ zt rb => toBytes 8 (zt + 16 * rb) ++ toBytes 8 (low 4 zt)
  | .mxwrz _ zt rb _ => toBytes 8 (zt + 16 * rb) ++ toBytes 8 (low 5 zt)
  | .mxt zt k mov _ => toBytes 8 k ++ toBytes 8 (low (if mov then 7 else 6) zt)
  | _ => List.replicate 16 0

/-- A cohort's header (R117). -/
def headerImage (s : State) (cid : Nat) (co : Cohort) (la : Launch) : List Byte :=
  let recs := co.zq.filterMap (fun e => match s.groups.find e.1, pendOf s e.1 e.2 with
    | some g, some p => some (matrixRecord g.gidx p)
    | _, _ => none)
  (List.range 96).map (fun i => Config.internalByte cid i) ++
  padTo 32 ((List.range co.nz).map (fun k => BitVec.ofNat 8 (co.z.get {} k).tag)) ++
  (List.range 16).flatMap (fun b => toBytes 8 (co.bar b).word) ++
  (List.range 8).flatMap (fun n => toBytes 2 (co.ring n)) ++
  padTo 16 (toBytes 8 co.tvec) ++
  (List.range 8).flatMap (fun k => toBytes 4 (if k < la.ch then (co.chan k).gen else 0)) ++
  (List.range 8).flatMap (fun k => toBytes 8 (if k < la.ch then (co.chan k).word else 0)) ++
  (padTo 128 (recs.flatMap id)).take 128

/-- A z-tile's element data, row by row. -/
def tileImage (z : ZTile) : List Byte := (List.range 6144).flatMap (fun k => toBytes 4 (z.el.get 0 k).toNat)

/-- A cohort's save area written (R115 to R117). A group already released leaves zeros. -/
def saveImage (cid : Nat) (s : State) : State :=
  match s.cohorts.find cid with
  | none => s
  | some co => match s.launches.find co.launch with
    | none => s
    | some la =>
      let n := groupBytes (16 * la.win)
      let groups := co.gids.flatMap (fun gid => match s.groups.find gid with
        | some g => groupImage s gid g co la
        | none => List.replicate n 0)
      let image := headerImage s cid co la ++ groups ++ (List.range co.nz).flatMap (fun k => tileImage (co.z.get {} k))
      setBlock co.save image s

/-- Results that arrive while a cohort is pre-empted go into its image (R115, R312). -/
def syncImages (s : State) : State :=
  s.cohorts.foldl (fun s (c : Nat × Cohort) => if c.2.resident then s else saveImage c.1 s) s

/-! ### Pre-emption (R113, R114) -/

/-- The cohorts of a launch, or of one of its teams. -/
def cohortsOf (s : State) (lid : Nat) (team : Option Nat) : List (Nat × Cohort) :=
  s.cohorts.filter (fun (c : Nat × Cohort) => c.2.launch == lid && (match team with
    | some t => c.2.team == t
    | none => true))

/-- The cohorts in this package of a launch's gang. -/
def gangCohorts (s : State) (lid : Nat) : List (Nat × Cohort) := (s.gangLids lid).flatMap (fun l => cohortsOf s l none)

/-- A run of some group of the cohorts is in progress. -/
def inRun (s : State) (cs : List (Nat × Cohort)) : Bool :=
  s.runs.any (fun r => cs.any (fun (c : Nat × Cohort) => c.2.gids.contains r.2.gid))

/-- The matrix engine completes what it has in progress for cohorts that leave (R270): an `MXRDZ` that has read its tile, and every transfer
of the team whose source has been read. -/
def settleTiles (cs : List (Nat × Cohort)) (s : State) : State :=
  cs.foldl (fun s c => c.2.gids.foldl (fun s gid => (((s.groups.find gid).map (·.pend)).getD []).foldl (fun s (e : Nat × Pend) => match e.2.op with
    | .mxrdz _ _ _ => if e.2.accepted && !c.2.zq.contains (gid, e.1) then finish gid e.1 s else s
    | .mxt _ _ _ (some _) => performTransfer true gid e.1 [] s
    | _ => s) s) s) s

/-- A suspended operation: a restored step reads its registers from the restored window, not what they held before (R270). -/
def Group.forgetOlds (g : Group) : Group := { g with pend := g.pend.map (fun (e : Nat × Pend) => (e.1, { e.2 with olds := [] })) }

/-- Cohorts leave their cores; their save areas are written (R113). Counts of lost picks and streaks start anew.
(DESIGN CHOICE, log entry 99; DESIGN CHOICE, log entry 137) -/
def suspend (cs : List (Nat × Cohort)) (s : State) : State :=
  cs.foldl (fun s c =>
    let s1 := c.2.gids.foldl (fun s gid => s.updG gid (fun g => { g.forgetOlds with ready := false, lost := 0, streak := 0 })) s
    saveImage c.1 (s1.updC c.1 (fun co => { co with resident := false, leaving := false }))) (settleTiles cs s)

/-- The pre-emption of cohorts is requested (R113): no slot issues a further run of theirs. -/
def askLeave (dest : Option Nat) (cs : List (Nat × Cohort)) (s : State) : State :=
  cs.foldl (fun s c => s.updC c.1 (fun co => if co.resident then { co with leaving := true, dest := dest, heat := (s.therm.get {} (clusterOf co.core)).temp } else co)) s

/-- Teams whose pre-emption is requested leave as soon as no run of theirs is in progress (R97, R113). -/
def takeLeaving (s : State) : State :=
  let out := s.cohorts.filter (fun (c : Nat × Cohort) => c.2.leaving)
  if out.isEmpty then s
  else suspend (out.filter (fun c => !inRun s (out.filter (fun d => d.2.launch == c.2.launch && d.2.team == c.2.team)))) s

/-- Every cohort has been resident for 4 ms. -/
def residentFor (s : State) (cs : List (Nat × Cohort)) : Bool :=
  !cs.isEmpty && cs.all (fun c => c.2.resident && decide (c.2.placedAt + 36000000 ≤ s.now))

/-- A launch of higher priority waits for space in the partition (R114). -/
def higherWaits (s : State) (part prio : Nat) : Bool :=
  s.queues.any (fun (e : Nat × Queue) => e.1 / 4096 == part && e.2.waiting.isSome && (match e.2.head with
    | some h => decide (prio < (pktLaunch h.bytes h.addr part 0).prio) && (gangOfQueue s part (e.1 % 4096)).isNone
    | none => false))

/-- A gang lies on one chip: every rank of it is a partition of this package (R114). -/
def onOneChip (s : State) (la : Launch) : Bool :=
  match la.gang with
  | none => true
  | some g => (((s.gangs.find (16 * g + la.part)).map (·.ranks)).getD []).all (fun r => (s.partOfRank r).isSome)

/-! ### Migration for heat (R412, R413) -/

/-- The bytes of a log entry's DATA that the spec does not state. (DESIGN CHOICE, log entry 105) -/
def logData (s : State) : List Byte := (List.range 48).map (Config.internalByte s.mgmt.seq)

/-- A cluster's thermal state. -/
def State.therms (s : State) (c : Nat) : Therm := s.therm.get {} c
/-- Changes it. -/
def updTherm (c : Nat) (f : Therm → Therm) (s : State) : State := { s with therm := s.therm.set {} c (f (s.therms c)) }

/-- A cohort is the first of those its team still has. -/
def leadsTeam (s : State) (co : Cohort) : Bool :=
  !s.cohorts.any (fun (e : Nat × Cohort) => e.2.launch == co.launch && e.2.team == co.team && decide (e.2.tcoh < co.tcoh))

/-- The teams on a cluster all of whose cohorts have been resident for 4 ms, each with its time of placement. (DESIGN CHOICE, log entry 107) -/
def migrants (s : State) (c : Nat) : List (Nat × Nat × Nat) :=
  ((s.cohorts.filter (fun (e : Nat × Cohort) => e.2.resident && !e.2.leaving && clusterOf e.2.core == c && leadsTeam s e.2)).map (fun e =>
    (e.2.placedAt, e.2.launch, e.2.team))).filter (fun t => residentFor s (cohortsOf s t.2.1 (some t.2.2)))

/-- The team resident longest (R413). -/
def migrant (s : State) (c : Nat) : Option (Nat × Nat × Nat) :=
  (migrants s c).foldl (fun (b : Option (Nat × Nat × Nat)) t => match b with
    | none => some t
    | some m => if t.1 < m.1 then some t else some m) none

/-- A cluster fits a team as it was first placed. -/
def clusterFits (s : State) (la : Launch) (k : Nat) : Bool := decide (1 ≤ maxTeams (clusterCaps s (heldPlaces s) la k) la.cohorts)

/-- The other clusters of the partition that fit a team and are at least 10 °C cooler than a temperature (R413). -/
def coolers (s : State) (l : Launch) (c : Nat) (heat : Int) : List Nat :=
  (partClusters s l.part).filter (fun k => k != c && clusterFits s l k && decide ((s.therms k).temp + 80 ≤ heat))

/-- A cluster is a coolest of those a team can move to (R413). -/
def isCoolest (s : State) (l : Launch) (c : Nat) (heat : Int) (k : Nat) : Bool :=
  let ks := coolers s l c heat
  ks.contains k && ks.all (fun x => decide ((s.therms k).temp ≤ (s.therms x).temp))

/-- A migration away from a cluster is in progress (R413). -/
def migrating (s : State) (c : Nat) : Bool := s.cohorts.any (fun (e : Nat × Cohort) => e.2.dest.isSome && clusterOf e.2.core == c)

/-- THE MIGRATION of a cluster's team that has been resident longest begins (R114, R413), towards a coolest cluster: its pre-emption is
requested, and logged as KIND 6. With no team, no destination or a migration in progress the request stands. -/
def startMigration (c dest : Nat) (s : State) : State :=
  if !(s.therms c).hotAsked ∨ migrating s c then s
  else match migrant s c with
    | none => s
    | some (_, lid, team) => match s.launches.find lid with
      | none => s
      | some la =>
        if !isCoolest s la c (s.therms c).temp dest then s
        else takeLeaving (askLeave (some dest) (cohortsOf s lid (some team))
          (logEvent 6 la.part (logData s) none (updTherm c (fun x => { x with hotAsked := false }) s)))

/-- The cluster a team's cohorts stand on. -/
def teamCluster (cs : List (Nat × Cohort)) : Nat :=
  match cs with
  | c :: _ => clusterOf c.2.core
  | [] => 40

/-- `PREEMPTION` (R113, R114): requested for a whole gang on one chip where a launch of higher priority waits, or for the team of a hot
cluster that is to move; it takes effect once their runs in progress have ended. -/
def execPreemption (lid : Nat) (team : Option Nat) (s : State) : Out :=
  .next (match s.launches.find lid with
    | none => s
    | some la => match team with
      | none =>
        let cs := gangCohorts s lid
        if onOneChip s la ∧ higherWaits s la.part la.prio ∧ residentFor s cs then takeLeaving (askLeave none cs s) else s
      | some t =>
        let c := teamCluster (cohortsOf s lid (some t))
        if (migrant s c).map (·.2) = some (lid, t) then
          let heat := (s.therms c).temp
          (match (coolers s la c heat).find? (isCoolest s la c heat) with
            | some k => startMigration c k s
            | none => s)
        else s)

/-- `GANG_SUSPEND` (R114): requested for the whole gang; no minimum residency. -/
def execGangSuspend (lid : Nat) (s : State) : Out := .next (takeLeaving (askLeave none (gangCohorts s lid) s))

/-! ### Restore (R118, R119, R312) -/

/-- A cohort has nothing that ties it to its former core: no copy holds a slot, no codebook operation is pending. -/
def restorable (s : State) (co : Cohort) : Bool :=
  co.chans.all (fun (h : Nat × Chan) => h.2.q.isEmpty) &&
  co.gids.all (fun gid => match s.groups.find gid with
    | some g => !g.pend.any (fun e => match e.2.op with
        | .cbload _ _ => true
        | .ldcb _ _ _ _ => true
        | _ => false)
    | none => true)

/-- The groups of a cohort that are not released. -/
def liveGids (s : State) (co : Cohort) : List Nat := co.gids.filter (fun g => (s.groups.find g).isSome)

/-- A cohort can return to a place (R96, R245, R296): its groups, windows, z-tiles and channels fit what the core's others leave. -/
def cohortReturns (s : State) (held : List (Launch × CohortPlace)) (la : Launch) (co : Cohort) (p : CohortPlace) : Bool :=
  let u := coreUse s held p.core
  let n := (liveGids s co).length
  decide (u.cidx.length < 4) && decide (p.cidx < 4) && !u.cidx.contains p.cidx && p.groups.length == n && p.groups.eraseDups == p.groups &&
  p.groups.all (fun g => decide (g < 32) && !u.idx.contains g) && decide (u.w + 16 * la.win * n ≤ 4608) && decide (u.z + co.nz ≤ 10) &&
  decide (u.ch + la.ch ≤ 8)

/-- The cohorts of a team can return to places (R96, R97, R118): distinct cores of one cluster of the partition; a migration's destination
while that fits them, else a coolest of the clusters that fit and are 10 °C cooler than the one left was (R114, R413); a Warm cluster only
where no other fits (R412). -/
def restoreFits (s : State) (la : Launch) (cs : List (Nat × Cohort)) (place : List CohortPlace) : Bool :=
  match cs, place with
  | c :: _, p :: _ =>
    let k := clusterOf p.core
    let cores := place.map (·.core)
    place.length == cs.length && cores.eraseDups == cores && place.all (fun q => clusterOf q.core == k) && (partClusters s la.part).contains k &&
    (cs.zip place).all (fun e => cohortReturns s (heldPlaces s) la e.1.2 e.2) &&
    (match c.2.dest with
      | some d => k == d || (!clusterFits s la d && isCoolest s la (clusterOf c.2.core) c.2.heat k)
      | none => true) &&
    (!isWarm s k || !(partClusters s la.part).any (fun x => !isWarm s x && clusterFits s la x))
  | _, _ => false

/-- The header's word of a channel (R117, R312): its `wp`, with the FAIL bit, and its generator's STATE. -/
def Chan.ofHeader (s : State) (save k : Nat) (h : Chan) : Chan :=
  let w := s.pmRd (save + 0x140 + 8 * k) 8
  { h with pos := w % 2 ^ 63, fail := w.testBit 63, gen := s.pmRd (save + 0x120 + 4 * k) 4 }

/-- A z-tile's data and tag as the save area holds them (R118). -/
def ZTile.ofSave (s : State) (la : Launch) (co : Cohort) (k : Nat) : ZTile :=
  let at' := co.save + 512 + co.gids.length * groupBytes (16 * la.win) + 24576 * k
  ZTile.ofList ((List.range 6144).map (fun i => BitVec.ofNat 32 (s.pmRd (at' + 4 * i) 4))) (s.pmRd (co.save + 0x60 + k) 1)

/-- A cohort placed again: its z-tiles and channels take what the save area holds (R118, R312). -/
def Cohort.return (s : State) (la : Launch) (p : CohortPlace) (co : Cohort) : Cohort :=
  { co with
    resident := true, leaving := false, dest := none, core := p.core, cidx := p.cidx, placedAt := s.now
    chans := (List.range la.ch).foldl (fun m k => m.set {} k ((co.chan k).ofHeader s co.save k)) co.chans
    z := (List.range co.nz).foldl (fun m k => m.set {} k (ZTile.ofSave s la co k)) co.z }

/-- A team placed again; its cohorts keep their team index (R97, R118). -/
def restoreTeam (la : Launch) (cs : List (Nat × Cohort)) (place : List CohortPlace) (s : State) : State :=
  (cs.zip place).foldl (fun s e =>
    let s1 := s.updC e.1.1 (fun co => co.return s la e.2)
    (liveGids s e.1.2).zipIdx.foldl (fun s g =>
      s.updG g.1 (fun x => { x with idx := e.2.groups.getD g.2 0, rstr := true, ready := false })) s1) s

/-- A pre-empted team comes back at a place that fits it; where a head packet holds what frees for itself (R392), only one that has moved for
heat. -/
def tryRestore (lid team : Nat) (place : List CohortPlace) (s : State) : State :=
  let cs := cohortsOf s lid (some team)
  match s.launches.find lid with
  | none => s
  | some la =>
    if cs.all (fun c => !c.2.resident && restorable s c.2) ∧ (headHolds s la.part → cs.any (fun c => c.2.dest.isSome)) ∧ restoreFits s la cs place then restoreTeam la cs place s else s

/-- `RESTORE` (R118). -/
def execRestore (lid team : Nat) (place : List CohortPlace) (s : State) : Out :=
  .next (if s.serving ∧ s.npartAsked.isNone then tryRestore lid team place s else s)

end Sys2Proof.Machine
end

