-- ==== Sys2Proof/Machine/Manage.lean ====
section
/-! DEFINITION. Management: configuration registers, partitions, the host cores and the host's window, temperature, firmware, fatal
errors and the dump, the event log, power (R150, R167, R401 to R417). -/

namespace Sys2Proof.Machine

/-! ### Configuration registers (R7, R403, R404, R410, R416) -/

/-- The bits of a plain register that a write changes; 0 for any other offset. -/
def registerMask (off : Nat) : Nat :=
  if 0x2000 ≤ off ∧ off < 0x2200 then
    match (off - 0x2000) % 0x40 with
    | 0x00 => 2 ^ 64 - 1
    | 0x08 => 2 ^ 64 - 1
    | 0x10 => 2 ^ 64 - 1
    | 0x18 => 2 ^ 64 - 1
    | 0x20 => 0xFFFFFFFF8FFF
    | _ => 0
  else if 0x2800 ≤ off ∧ off < 0x2A00 then
    match (off - 0x2800) % 0x40 with
    | 0x00 => 2 ^ 32 - 1
    | 0x10 => 2 ^ 64 - 1
    | _ => 0
  else if off = 0x3200 then 63
  else 0

/-- The PCIe endpoint accepts configuration: from step 5 of power-up on, also after a fatal error (R416, R417). -/
def State.open' (s : State) : Bool := s.booted && s.powered

/-- `REGISTER_WRITE` (R7): reserved fields ignore what is written. -/
def execRegisterWrite (off v : Nat) (s : State) : Out :=
  .next (if !s.open' ∨ registerMask off = 0 then s else { s with cfg := s.cfg.put off (v &&& registerMask off) })

/-- The LLC of a die keeps no more lines than it has ways for (R167): which lines lie in the ways that move the spec does not say; those filled
last stay. (DESIGN CHOICE, log entry 154) -/
def trimLlc (die : Nat) (s : State) : State :=
  let keep := (s.llc.filter (fun l => l / 2 ^ 29 == die)).take (llcCap s die)
  let llc := s.llc.filter (fun l => l / 2 ^ 29 != die || keep.contains l)
  endPf (fun _ p => p.2 == 1 && s.llc.contains p.1 && !llc.contains p.1) { s with llc := llc }

/-- `SPLIT_REGISTER_WRITE` (R167): ignored while the die's partition holds a resident cohort; ways that move read as zero. -/
def execSplitRegisterWrite (die v : Nat) (s : State) : Out :=
  let pv := v % 16
  let part := s.partOfDie die
  .next (if !s.open' ∨ 8 < pv ∨ !s.dies.testBit die ∨ 8 ≤ die ∨
      s.cohorts.any (fun (c : Nat × Cohort) => c.2.resident && s.partOf c.2.core == part) then s
    else
      let keep := min (s.sramSize die) (pv * 2 ^ 23)
      let gone (off : Nat) : Bool := off / 2 ^ 26 == die && decide (keep ≤ off % 2 ^ 26)
      trimLlc die { s with
        cfg := s.cfg.set 0 (0x1000 + 0x100 * die) pv
        sram := s.sram.filter (fun c => !gone c.1)
        poison := s.poison.filter (fun l => !(decide (2 ^ 50 ≤ l) && gone ((l - 2 ^ 50) * 128))) })

/-! ### Partitions (R403) -/

/-- A suspended gang whose dies no longer form a partition ends: no operation of it remains, its records leave their chains, its record is
written with status 7 (R403). -/
def endGang (lid : Nat) (s : State) : State :=
  let gids := s.launchGids lid
  let cids := (cohortsOf s lid none).map (·.1)
  let mine (r : FaultRec) : Bool := r.gid != 0 && recLaunch s r == lid
  let s1 := endLaunch lid 7 [] (withdraw mine s)
  let s2 := { s1 with
    groups := s1.groups.filter (fun (g : Nat × Group) => !gids.contains g.1)
    locks := s1.locks.filter (fun l => !(l.own && (if l.copy then cids.contains l.gid else gids.contains l.gid)))
    cores := s1.cores.map (fun (c : Nat × Core) => (c.1, { c.2 with cb := c.2.cb.map (fun (k : Nat × CbSlot) =>
      (k.1, { k.2 with loads := k.2.loads.filter (fun e => !gids.contains e.1) })) })) }
  completeLaunch lid (((s.launches.find lid).map (·.met)).getD 0 / 2 ^ 32) (cids.foldl (fun s c => releaseCohort c s) s2)

/-- A reservation not yet started is given up: a member's goes, a coordinator rolls back. -/
def dropReservation (key : Nat) (s : State) : State :=
  match s.gangs.find key with
  | none => s
  | some g =>
    if g.lid.isSome then s
    else if g.coord then rollBack key (updGang key (fun g => { g with start := none }) s)
    else
      let s1 := releaseGang key s
      { s1 with gangs := s1.gangs.del key }

/-- The partitions rebuilt (R403), once every gang is pre-empted: no translation and no line of an L1 slice is left. (DEDUCED, log entry 104) -/
def rebuild (n : Nat) (s0 : State) : State :=
  let s1 := { s0 with npartAsked := none }
  let s2 := if n = s1.npart then s1
    else
      let a := s1.gangs.keys.foldl (fun s k => dropReservation k s) s1
      let b := a.launches.keys.foldl (fun s l => endGang l s) a
      { b with
        npart := n
        lattices := (List.range n).map (fun k => (k, { started := s1.now }))
        queues := b.queues.filter (fun (q : Nat × Queue) => decide (q.1 / 4096 < n))
        cfg := b.cfg.filter (fun (c : Nat × Nat) => !(decide (0x2800 ≤ c.1) && decide (c.1 < 0x2A00)))
        energy := (List.range n).map (fun k => (k, { bal := 1000 * (2600 / n), tickAt := s1.now })) }
  logEvent 8 0xFF (logData s2) none (dropLines (fun _ => true) { s2 with tlb := [], walks := [] })

/-- Requests that wait for run boundaries take effect (R113, R403): teams leave their cores, and then the partitions are rebuilt. -/
def takeRequests (s0 : State) : State :=
  let s := takeLeaving s0
  match s.npartAsked with
  | none => s
  | some n => if s.runs.isEmpty ∧ !s.cohorts.any (fun (c : Nat × Cohort) => c.2.resident) then rebuild n s else s

/-- `NPART_WRITE` (R403): the pre-emption of every gang is requested; until the partitions are rebuilt no slot picks a group and nothing is
admitted or restored. Bits above NPART's are reserved, and ignored (R7). -/
def execNpartWrite (word : Nat) (s : State) : Out :=
  let n := word % 16
  let ok := if s.enabledDies.length = 6 then [1, 2, 3, 6].contains n else [1, 2, 4, 8].contains n
  .next (if !ok ∨ !s.open' then s
    else takeRequests (askLeave none s.cohorts { s with npartAsked := some n }))

/-! ### Host cores and the host's window (R401, R402) -/

/-- An ASID invalidated in every TLB, walk cache and L1 slice of its partition (R161). -/
def dropAsid (part asid : Nat) (s : State) : State :=
  dropLines (fun x => x.part == part && x.asid == asid) { s with
    tlb := s.tlb.filter (fun e => e.part != part || e.asid != asid)
    walks := s.walks.filter (fun e => e.part != part || e.asid != asid) }

/-- An ASID given to a new address space (R160, R161): its GEN incremented modulo 4,096, V set; before GEN wraps the ASID is invalidated. -/
def giveAsid (part asid root : Nat) (s : State) : State :=
  let gen := (asidGen s part asid + 1) % 4096
  let pa := s.cfgGet (State.pblock part + 8) + 8 * asid
  homeWrite pa (toBytes 8 (root / 2 ^ 18 * 2 ^ 18 % 2 ^ 48 + 2 ^ 15 + gen)) (if gen = 0 then dropAsid part asid s else s)

/-- The state that an event leaves. -/
def Out.state (o : Out) (s : State) : State :=
  match o with
  | .next t => t
  | _ => s

/-- The command in the mailbox's slot performed (R355): other OPs are ignored. -/
def mailPerform (s : State) : State :=
  let f (i n : Nat) : Nat := fromBytes ((s.mailSlot.drop i).take n)
  (match f 4 1 with
    | 1 => execSupply (f 0 4) (f 8 8) (f 5 1) s
    | 2 => execRetry (f 0 4) s
    | 3 => execRefuse (f 0 4) s
    | 4 => execKill (f 0 4) s
    | 5 => execReplicate (f 0 4) (f 8 8 % 2 ^ 44) (f 16 8) s
    | 6 => execUnreplicate (f 0 4) (f 8 8 % 2 ^ 44) s
    | _ => .next s : Out).state s

/-- Bytes written into the mailbox's slot; writing bytes 31:24 submits the command (R355). -/
def mailWrite (off : Nat) (data : List Byte) (s : State) : State :=
  let slot := (List.range 32).map (fun i => if off ≤ i ∧ i < off + data.length then data.getD (i - off) 0 else s.mailSlot.getD i 0)
  let s1 := { s with mailSlot := slot }
  if off ≤ 24 ∧ 32 ≤ off + data.length then mailPerform s1 else s1

/-- What the device-side kernel writes. (DESIGN CHOICE, log entry 112) -/
def hostStore (h : HostStore) (s : State) : State :=
  match h with
  | .bytes pa data => homeWrite pa data s
  | .bind part asid (some g) => { s with binds := s.binds.put (65536 * part + asid) g }
  | .bind part asid none => { s with binds := s.binds.del (65536 * part + asid) }
  | .quota part asid n => { s with quotas := s.quotas.set 2 (65536 * part + asid) n }
  | .space gasid members key buckets tenants =>
    { s with spaces := s.spaces.put gasid { members := members, key := key, buckets := buckets, tenants := tenants }
             filterAt := s.filterAt.set 0 gasid s.now }
  | .record gasid vpn kind home => { s with dir := s.dir.put (dirKey gasid vpn) { hkind := kind, home := home } }
  | .takeDecline => { s with declineQ := s.declineQ.drop 1 }
  | .giveAsid part asid root => giveAsid part asid root s
  | .mailbox off data => mailWrite off data s

/-- `HOST_CORE_STORE` (R401): the host cores stop with a fatal error (R416). -/
def execHostCoreStore (h : HostStore) (s : State) : Out := .next (if s.serving then hostStore h s else s)

/-- A line of a page cannot be accessed yet: it is locked, or a store to it waits (R174), or a copy engine holds it (R171). -/
def lineHeld (s : State) (part va : Nat) (wr : Bool) (sts : List Nat) : Bool :=
  isLocked s (keyOf s part 0 (va / 65536)) (va % 65536) wr ||
  (match feFind s part 0 va wr sts with
    | some pa => heldByCopy s 0 0 0 false pa
    | none => false)

/-- A host's write of a byte, or of bytes on one line of a locked replica, which take their turn at the page's record as a store does
(R174, R402). -/
def hostWrite (part va : Nat) (bs : List Byte) (s : State) : State :=
  (List.range bs.length).foldl (fun s i =>
    let a := va + i
    let key := keyOf s part 0 (a / 65536)
    match feFind s part 0 a true [1], feFind s part 0 a true [4] with
    | some pa, _ => markMigrated key (a % 65536) (homeWrite pa [bs.getD i 0] s)
    | none, some _ =>
      if 0 < i ∧ a % 128 ≠ 0 then s
      else startLock { id := 0, key := key, off := a % 65536, own := true, writer := 0, step := 0, left := [], gid := 0, hid := 0, el := 0
                       pkt := none, part := part, data := (bs.drop i).take (128 - a % 128), since := 0, host := true } s
    | none, none => s) s

/-- `BAR2_WINDOW_ACCESS` (R402): a memory event at system scope under ASID 0. One to a line that is locked or that a copy engine holds is not
performed yet. The spec does not state what an access to a page that is not resident, or without the permission, does: a read's data is free
then, and a write changes nothing. (DEDUCED, log entry 110) -/
def execBar2WindowAccess (part va : Nat) (w : Option (List Byte)) (s : State) : Out :=
  .next (if !s.open' ∨ s.npart ≤ part ∨ 2 ^ 34 ≤ va then s
    else match w with
      | none =>
        if lineHeld s part va false [1, 3, 4] ∨ lineHeld s part (va + 7) false [1, 3, 4] then s
        else
          let bytes := (feRead s part 0 va 8 [1, 3, 4]).getD ((List.range 8).map (Config.internalByte s.tick))
          s.send (.hostData part va bytes)
      | some bs =>
        if (List.range bs.length).any (fun i => lineHeld s part (va + i) true [1, 4]) then s else hostWrite part va bs s)

/-! ### Fatal errors and the dump (R414 to R416) -/

/-- The dump region's header holds MAGIC and FMT = 1: it is kept. -/
def dumpKept (s : State) : Bool := s.pmRd (dumpBase s) 4 == 0x444B4C4D && s.pmRd (dumpBase s + 4) 4 == 1

/-- A log entry's bytes (R408). -/
def LogE.bytes (e : LogE) : List Byte :=
  toBytes 8 e.time ++ toBytes 4 e.seq ++ toBytes 1 e.kind ++ toBytes 1 e.part ++ toBytes 2 0 ++ padTo 48 (e.data.take 48)

/-- A fault record's bytes (R337). -/
def FaultRec.bytes (r : FaultRec) (next : Nat) : List Byte :=
  toBytes 8 r.time ++ toBytes 6 r.vpn ++ toBytes 2 r.asid ++ toBytes 2 r.gen ++ toBytes 1 r.kind ++ toBytes 1 r.flags ++ toBytes 2 r.core ++
  toBytes 1 r.unit ++ toBytes 1 r.token ++ toBytes 4 r.handle ++ toBytes 4 next ++ toBytes 4 r.gasid ++ toBytes 2 r.tenant ++
  toBytes 2 r.reason ++ toBytes 1 r.attempts ++ List.replicate 23 0

/-- Fault records of a chain with their NEXT. -/
def chainBytes : List FaultRec → List Byte
  | [] => []
  | r :: t => r.bytes ((t.head?.map (·.handle)).getD 0) ++ chainBytes t

/-- The dump's sections (R415). (DESIGN CHOICE, log entry 111) -/
def dumpSections (s : State) : List (Nat × List Byte) :=
  let groups := s.groups.flatMap (fun (g : Nat × Group) => match s.cohorts.find g.2.cid with
    | some co => match s.launches.find co.launch with
      | some la => if co.resident then groupImage s g.1 g.2 co la else []
      | none => []
    | none => [])
  [(1, (s.mgmt.log ++ s.mgmt.writing.map (·.1)).flatMap LogE.bytes),
   (2, s.samples.reverse.flatMap (fun t => (t.temps ++ t.amps).flatMap (fun x => toBytes 2 (wrap 16 x)))),
   (3, groups),
   (4, s.chains.flatMap (fun (c : Nat × Chain) => chainBytes c.2.faults) ++ s.declineQ.flatMap (fun r => r.bytes r.next)),
   (5, (List.range 4096).map (Config.internalByte s.tick))]

/-- Sections laid out from an offset in 4 KiB units: directory entries and bytes. -/
def layOut : Nat → List (Nat × List Byte) → List Byte × List Byte
  | _, [] => ([], [])
  | off, (k, b) :: t =>
    let n := cdiv b.length 4096
    let r := layOut (off + n) t
    (toBytes 4 k ++ toBytes 4 0 ++ toBytes 4 off ++ toBytes 4 b.length ++ r.1, padTo (4096 * n) b ++ r.2)

/-- The dump written (R415) of an error at a time, the magic word last. -/
def writeDump (cause time : Nat) (s : State) : State :=
  let secs := dumpSections s
  let (dir, body) := layOut 1 secs
  let head := toBytes 4 0 ++ toBytes 4 1 ++ toBytes 8 (time / 9) ++ toBytes 1 cause ++ toBytes 1 secs.length ++ List.replicate 14 0 ++ dir
  let s1 := setBlock (dumpBase s) (padTo 4096 head ++ body) s
  s1.pmWr (dumpBase s) 4 0x444B4C4D

/-- What a loss of power and a reset leave: identity, flash, root slots, and the model's own time, schedule and outbox. -/
def State.blank (s : State) : State :=
  { agenda := s.agenda, outbox := s.outbox, now := s.now, tick := s.tick, nextId := s.nextId, code := s.code, dies := s.dies
    stepping := s.stepping, serial := s.serial, mgmt := s.mgmt, roots := s.roots }

/-- The rails removed: HBM and every volatile state lose their contents (R414, R416). -/
def railsOff (s : State) : State := { s.blank with powered := false, booted := false }

/-- Once every core has come to a run boundary the dump is written, unless one is kept or the cause (0) is a Shutdown temperature, and
the error is logged; after a Shutdown temperature the rails are removed (R414, R416). (DEDUCED, log entry 106) -/
def tryDump (s : State) : State :=
  match s.dying with
  | none => s
  | some (cause, time) =>
    if !s.runs.isEmpty then s
    else
      let t := { s with dying := none }
      let logged (s : State) : State := logEvent 7 0xFF (logData s) none s
      if cause = 0 then railsOff (logged t) else logged (if dumpKept s then t else writeDump cause time t)

/-- A FATAL ERROR (R414): admission and the cores stop. One while the device is halted with a dump kept is only logged (R416). -/
def fatal (cause : Nat) (s : State) : State :=
  if !s.powered then s
  else if s.halted then (if dumpKept s then logEvent 7 0xFF (logData s) none s else s)
  else tryDump { s with halted := true, dying := some (cause, s.now) }

/-- `WATCHDOG_EXPIRY` (R414). -/
def execWatchdogExpiry (s : State) : Out := .next (fatal 3 s)

/-- `DUMPCLR` (R416). -/
def execDumpclr (s : State) : Out := .next (if s.open' then zeroRange (dumpBase s) (2 ^ 30) s else s)

/-- The configuration block as the host reads it, a 64-bit word at a multiple of 8 (R402 to R404, R406, R407, R410, R416); none where the
spec gives no word. The partition number of a disabled die is free. (DEDUCED, log entry 141) -/
def State.bar0 (s : State) (off : Nat) : Option Word64 :=
  let word (n : Nat) : Option Word64 := some (BitVec.ofNat 64 n)
  if off % 8 ≠ 0 then none
  else if off = 0 then word s.npart
  else if 0x1000 ≤ off ∧ off < 0x1800 then
    let die := (off - 0x1000) / 0x100
    match off % 0x100 with
    | 0x00 => word (s.cfgGet off % 16)
    | 0x08 => word (if s.dies.testBit die then die + 0x100 + 0x10000 * s.partOfDie die else die + 0x10000 * (Config.freeNat s.tick die % 16))
    | _ => none
  else if 0x2000 ≤ off ∧ off < 0x2200 then word (s.cfgGet off)
  else if 0x2800 ≤ off ∧ off < 0x2A00 then
    let k := (off - 0x2800) / 0x40
    if s.npart ≤ k then none
    else match off % 0x40 with
      | 0x00 => word (capw s k)
      | 0x08 => some (BitVec.ofInt 64 (balance s k))
      | 0x10 => word (energyCeil s k)
      | 0x18 => word (s.account k).rsvd
      | _ => none
  else if off = 0x3000 then word (4 * 2 ^ 48 + s.code * 2 ^ 40 + s.dies * 2 ^ 32 + s.stepping * 2 ^ 16)
  else if off = 0x3008 then some s.serial
  else if off = 0x3010 then word (s.mgmt.slot * 2 ^ 32 + s.mgmt.version)
  else if 0x3100 ≤ off ∧ off < 0x3150 then
    word (fromBytes ((List.range 4).flatMap (fun i => toBytes 2 (wrap 16 (s.therms ((off - 0x3100) / 2 + i)).temp))))
  else if off = 0x3200 then word (s.cfgGet off)
  else if off = 0x3208 then word 0
  else if 0x3000000 ≤ off ∧ off < 0x4000000 then word (s.pmRd (dumpBase s + s.cfgGet 0x3200 * 2 ^ 24 + (off - 0x3000000)) 8)
  else none

/-! ### Temperature (R407, R412, R413) -/

/-- The level of a temperature in eighths of a degree. -/
def levelOf (t : Int) : Level :=
  if t < 720 then .normal else if t < 760 then .warm else if t < 840 then .hot else if t < 920 then .critical else .shutdown

/-- A cluster's next sample: a change of level is logged (R412). (DEDUCED, log entry 106) -/
def sampleCluster (c : Nat) (t : Int) (s : State) : State :=
  let x := s.therms c
  let l := levelOf t
  let y : Therm := { x with
    temp := t, level := l, since := if l = x.level then x.since else s.now
    coolSince := if t < 760 ∧ 760 ≤ x.temp then s.now else x.coolSince
    floorSince := if l = .critical ∧ x.clock = 50 then some (x.floorSince.getD s.now) else none
    hotAsked := x.hotAsked && (l == .hot || l == .critical) }
  let s1 := updTherm c (fun _ => y) s
  if l = x.level then s1 else logEvent 5 (s.partOfDie (c / 5)) (logData s1) none s1

/-- `SENSOR_SAMPLE` (R407), every 1 ms: temperatures, and the currents of the rails; a Shutdown temperature is a fatal error. -/
def execSensorSample (x : Sample) (s : State) : Out :=
  let temps := x.temps
  .next (if !s.powered ∨ (!s.samples.isEmpty ∧ s.now < s.sampledAt + 9000000) then s
    else
      let cs := (List.range 40).filter (fun c => s.dies.testBit (c / 5) && decide (c < temps.length))
      let s1 := cs.foldl (fun s c => sampleCluster c (temps.getD c 0) s) { s with samples := (x :: s.samples).take 64, sampledAt := s.now }
      if cs.any (fun c => (s1.therms c).level == .shutdown) then fatal 0 s1 else s1)

/-- `HOT_HOLD_TIMEOUT` (R412). -/
def execHotHoldTimeout (c : Nat) (s : State) : Out :=
  let x := s.therms c
  .next (if x.level = .hot ∧ x.since + 90000000 ≤ s.now then updTherm c (fun x => { x with hotAsked := true }) s else s)

/-- `THERMAL_MIGRATION` (R413): the team resident longest on a hot cluster moves to a coolest one, named by the places offered. It comes back
there at once if no run of it was in progress and nothing ties it to its cores; else with a later `RESTORE`. -/
def execThermalMigration (c : Nat) (place : List CohortPlace) (s : State) : Out :=
  .next (if !s.serving then s
    else match migrant s c with
      | none => s
      | some (_, lid, team) => match place.head? with
        | none => s
        | some p =>
          let s1 := startMigration c (clusterOf p.core) s
          if migrating s1 c then tryRestore lid team place s1 else s1)

/-- A time that is due in so many clocks of a cluster, when its clock goes from `q` to `p` percent (R412). -/
def stretch (now q p due : Nat) : Nat := if due ≤ now then due else now + cdiv ((due - now) * q) p

/-- A cluster's clock set (R412): what the waits of its groups and the transient requests of its agents have left, in clocks, takes another
time. (DEDUCED, log entry 140) -/
def setClock (c p : Nat) (s : State) : State :=
  let q := (s.therms c).clock
  let scale (e : Pend) : Pend := match e.op with
    | .lwait x d (some due) => { e with op := .lwait x d (some (stretch s.now q p due)) }
    | _ => e
  let again (t : Transient) : Transient := if clusterOf (agentCore t.agent) = c then { t with due := stretch s.now q p t.due } else t
  updTherm c (fun x => { x with clock := p, lastStep := s.now }) { s with
    coh := s.coh.map (fun (e : Nat × LineTok) => (e.1, { e.2 with tries := e.2.tries.map again }))
    groups := s.groups.map (fun (g : Nat × Group) =>
      if (s.cohorts.find g.2.cid).any (fun co => clusterOf co.core == c) then
        (g.1, { g.2 with pend := g.2.pend.map (fun (e : Nat × Pend) => (e.1, scale e.2)) })
      else g) }

/-- `CLOCK_STEP_DOWN` (R412). -/
def execClockStepDown (c : Nat) (s : State) : Out :=
  let x := s.therms c
  .next (if x.level = .critical ∧ 50 < x.clock ∧ x.lastStep + 9000000 ≤ s.now then
      updTherm c (fun y => { y with floorSince := if x.clock = 60 then some s.now else none }) (setClock c (x.clock - 10) s)
    else s)

/-- `CLOCK_STEP_UP` (R412). -/
def execClockStepUp (c : Nat) (s : State) : Out :=
  let x := s.therms c
  .next (if x.temp < 760 ∧ x.clock < 100 ∧ x.coolSince + 90000000 ≤ s.now ∧ x.lastStep + 9000000 ≤ s.now then
      updTherm c (fun y => { y with floorSince := none }) (setClock c (x.clock + 10) s)
    else s)

/-- `CRITICAL_TIMEOUT` (R412, R414): a cluster held Critical; or an uncorrectable error in firmware or Meridian state. -/
def execCriticalTimeout (e : FatalErr) (s : State) : Out :=
  .next (match e with
    | .badState => if s.booted then fatal 2 s else s
    | .critical c => let x := s.therms c
      match x.floorSince with
      | some t => if x.level = .critical ∧ x.clock = 50 ∧ t + 900000000 ≤ s.now then fatal 1 s else s
      | none => s)

/-! ### Log and root slots (R309, R408) -/

/-- `LOG_ENTRY_FLASH_WRITE` (R408): the oldest entry is in the flash; the root-slot write that waits for it is performed and its `CPROOT`
ends. -/
def execLogEntryFlashWrite (s : State) : Out :=
  .next (match s.mgmt.writing with
    | [] => s
    | (e, root) :: t =>
      let log := s.mgmt.log ++ [e]
      let s1 := { s with mgmt := { s.mgmt with writing := t, log := log.drop (log.length - 4096) } }
      match root with
      | none => s1
      | some r =>
        let key := 16 * r.part + r.slot
        -- the gang has ended meanwhile: its result is discarded (R108)
        if !(pendOf s1 r.gid r.pid).any (fun p => !p.void) then finish r.gid r.pid s1
        else finish r.gid r.pid { s1 with roots := match r.digest with
          | some d => s1.roots.put key d
          | none => s1.roots.del key })

/-! ### Firmware (R409) and power (R414 to R417) -/

/-- `FIRMWARE_IMAGE_WRITE` (R409): into the inactive slot; an image that is not valid is logged. -/
def execFirmwareImageWrite (ver : Nat) (sigOk : Bool) (s : State) : Out :=
  .next (if !s.open' then s
    else
      let ok := sigOk && decide (s.mgmt.antiRollback ≤ ver)
      let s1 := { s with mgmt := { s.mgmt with slots := s.mgmt.slots.set (1 - s.mgmt.slot) (some (ver, ok)), fails := 0 } }
      if ok then s1 else logEvent 4 0xFF (logData s1) none s1)

/-- `ANTI_ROLLBACK_RAISE` (R409): after the new slot has booted. -/
def execAntiRollbackRaise (s : State) : Out :=
  .next (if s.booted ∧ s.powered then { s with mgmt := { s.mgmt with antiRollback := max s.mgmt.antiRollback s.mgmt.version } } else s)

/-- The version of a slot's image, if it is valid. -/
def slotVersion (m : Mgmt) (k : Nat) : Option Nat :=
  match m.slots.getD k none with
  | some (v, true) => if m.antiRollback ≤ v then some v else none
  | _ => none

/-- The slot to boot: the valid one with the higher version; a newly selected slot that has failed three times gives way (R409). -/
def bootSlot (m : Mgmt) : Option Nat :=
  let a := slotVersion m m.slot
  let b := slotVersion m (1 - m.slot)
  match a, b with
  | some x, some y => if x < y ∧ m.fails < 3 then some (1 - m.slot) else some m.slot
  | some _, none => some m.slot
  | none, some _ => if m.fails < 3 then some (1 - m.slot) else none
  | none, none => none

/-- `POWER_UP` (R409, R417): Nadir boots a slot; if step 5 is reached, memory other than a kept dump has been scrubbed and the device
serves. (DEDUCED, log entry 108) -/
def execPowerUp (reached : Bool) (s : State) : Out :=
  .next (if (s.booted ∧ s.powered) ∨ s.halted then s
    else match bootSlot s.mgmt with
      | none => s
      | some k =>
        let new := k != s.mgmt.slot
        let s1 := { s with powered := true }
        let s2 := if new then logEvent 3 0xFF (logData s1) none s1 else s1
        if !reached then { s2 with mgmt := { s2.mgmt with fails := if new then s2.mgmt.fails + 1 else s2.mgmt.fails } }
        else
          let m := { s2.mgmt with slot := k, version := (slotVersion s2.mgmt k).getD 0, fails := if new then 0 else s2.mgmt.fails }
          let keep := dumpKept s2
          let b := dumpBase s2
          { s2.blank with
            mgmt := m
            lattices := [(0, { started := s2.now })]
            mem := if keep then s2.mem.filter (fun c => decide (b ≤ c.1) && decide (c.1 < b + 2 ^ 30)) else [] })

/-- `POWER_LOSS` (R416): HBM and every volatile state lose their contents; an entry or an image not yet written to the flash is lost.
(DEDUCED, log entry 109) -/
def execPowerLoss (s : State) : Out :=
  let t := railsOff s
  .next { t with mgmt := { t.mgmt with writing := [] } }

/-- `DEVICE_RESET` (R414, R416): a halt ends, the counters are zero, power-up runs again; memory stands until it is scrubbed. -/
def execDeviceReset (s : State) : Out :=
  .next { s.blank with mem := s.mem, powered := s.powered, booted := false }

end Sys2Proof.Machine
end

