-- ==== Sys2Proof/WellFormed.lean ====
section
/-! DEFINITION. Which instructions are well formed: the operand values an encoding can hold and the spec does not reserve. -/

namespace Sys2Proof

/-- The control-register numbers of R148; 0x0E, 0x0F and 0x28 upwards are no registers. -/
def csrNumber (n : Nat) : Bool := decide (n ≤ 0x0D) || (decide (0x10 ≤ n) && decide (n ≤ 0x27))

/-- The tags `WTAG` accepts: 0, or DOM = 01 with a level from 1 to 6 (R295). -/
def wtagOk (g : Nat) : Bool :=
  decide (g = 0) || (decide (g % 4 = 1) && decide (1 ≤ g / 4 % 8) && decide (g / 4 % 8 ≤ 6))

/-- The well-formed instructions: every field of an encoded one holds a value its bits can hold and the spec does not
reserve. An event carries no encoding, so any parameters are well formed. -/
def Instr.WellFormed : Instr → Prop
  | .matrixStepPerform _ _ _ => True
  | .ztileAccessPerform _ _ _ => True
  | .teamTransferArrival _ _ _ => True
  | .ztileQueueRoom _ => True
  | .waveletRequestDone _ _ => True
  | .latticeWritePerform _ _ => True
  | .lwaitTimeout _ _ => True
  | .latticeQueueRoom _ => True
  | .exchangeRoundStart _ => True
  | .exchangeTransferArrival _ _ => True
  | .latticePageClear _ => True
  | .loadDataArrival _ _ _ _ => True
  | .atomicPerform _ _ => True
  | .cbloadTableWrite _ _ => True
  | .cbloadQueueRoom _ => True
  | .storeQueueRoom _ => True
  | .coherenceRequest _ _ _ => True
  | .transientRequestTimeout _ _ _ => True
  | .regionMerge _ _ => True
  | .lockUpdateArrival _ _ _ _ _ _ => True
  | .writerLockTimeout _ => True
  | .replicaLockTimeout _ _ _ => True
  | .copyChunkDelivery _ _ _ => True
  | .weightPageCheck _ _ => True
  | .copySlotFree _ => True
  | .slotPick _ => True
  | .asyncConditionDelivery _ => True
  | .groupRelease _ _ => True
  | .preemption _ _ => True
  | .restore _ _ _ => True
  | .gangSuspend _ => True
  | .faultQueueRoom _ => True
  | .directoryReadRequest _ _ _ _ => True
  | .directoryWriteRequest _ _ _ _ => True
  | .directoryRelease _ _ _ => True
  | .replicateRequest _ _ _ _ => True
  | .unreplicateRequest _ _ _ => True
  | .readerAddition _ _ _ _ _ => True
  | .probe _ _ _ _ => True
  | .notHereReply _ => True
  | .invalidation _ _ _ _ _ _ => True
  | .pageShipmentArrival _ _ _ _ _ _ _ => True
  | .recordReplay _ _ => True
  | .writeBackArrival _ _ _ _ _ => True
  | .writeBackAck _ _ => True
  | .filterAddition _ _ _ _ => True
  | .filterRebuild _ => True
  | .meridianAttemptTimeout _ _ => True
  | .declineQueueRoom => True
  | .frameWaitTimeout _ _ => True
  | .supply _ _ _ => True
  | .retry _ => True
  | .refuse _ => True
  | .kill _ => True
  | .replicate _ _ _ => True
  | .unreplicate _ _ => True
  | .pageMigration _ _ _ _ => True
  | .migrationCutover _ _ => True
  | .head _ _ _ _ _ => True
  | .body _ _ _ _ _ => True
  | .ack _ _ => True
  | .retryFlit _ _ => True
  | .credit _ _ _ => True
  | .train _ => True
  | .idle _ => True
  | .laneLockLoss _ => True
  | .linkTrained _ => True
  | .ackTimer _ => True
  | .creditTimer _ => True
  | .loadRequest _ => True
  | .storeRequest _ => True
  | .atomicRequest _ => True
  | .flagStore _ => True
  | .flagStoreRelease _ _ => True
  | .floorNotice _ => True
  | .loadReply _ => True
  | .acknowledgement _ => True
  | .atomicReply _ => True
  | .refusal _ => True
  | .refusalSend _ => True
  | .e2eAttemptTimeout _ _ => True
  | .e2eWindowRoom _ => True
  | .queueDoorbell _ _ => True
  | .packetAdmission _ _ _ _ => True
  | .admissionWaitTimeout _ _ => True
  | .reserve _ _ _ _ _ _ => True
  | .grant _ _ _ => True
  | .commit _ _ => True
  | .rollback _ => True
  | .gangReserveTimeout _ => True
  | .gangRetryTimer _ _ => True
  | .gangStart _ => True
  | .energyTick _ => True
  | .npartWrite _ => True
  | .splitRegisterWrite _ _ => True
  | .registerWrite _ _ => True
  | .sensorSample _ => True
  | .hotHoldTimeout _ => True
  | .thermalMigration _ _ => True
  | .clockStepDown _ => True
  | .clockStepUp _ => True
  | .criticalTimeout _ => True
  | .watchdogExpiry => True
  | .firmwareImageWrite _ _ => True
  | .antiRollbackRaise => True
  | .dumpclr => True
  | .powerUp _ => True
  | .tlbInvalidationComplete _ => True
  | .replicaConfirmation _ _ => True
  | .meridianReply _ _ _ _ => True
  | .directoryAcknowledgement _ _ _ => True
  | .unknownKindFlit _ => True
  | .reachabilityReport _ _ _ => True
  | .gangContactLost _ => True
  | .bar2WindowAccess _ _ _ => True
  | .hostCoreStore _ => True
  | .logEntryFlashWrite => True
  | .powerLoss => True
  | .deviceReset => True
  | .runHead t p a l => t < 2 ∧ p < 2 ∧ a < 65536 ∧ l < 64
  | .pad => True
  | .vmov f => f.m < 2 ∧ f.vs < 32 ∧ f.vd < 32 ∧ (f.m ≠ 0 ∨ f.vs ≠ 0 ∨ f.vd ≠ 0)
  | .vaddI32H f => f.m < 2 ∧ f.vs < 32 ∧ f.vd < 32
  | .vsubI32H f => f.m < 2 ∧ f.vs < 32 ∧ f.vd < 32
  | .vmulI32H f => f.m < 2 ∧ f.vs < 32 ∧ f.vd < 32
  | .vandH f => f.m < 2 ∧ f.vs < 32 ∧ f.vd < 32
  | .vorH f => f.m < 2 ∧ f.vs < 32 ∧ f.vd < 32
  | .vxorH f => f.m < 2 ∧ f.vs < 32 ∧ f.vd < 32
  | .vshlI32H f => f.m < 2 ∧ f.vs < 32 ∧ f.vd < 32
  | .vsraI32H f => f.m < 2 ∧ f.vs < 32 ∧ f.vd < 32
  | .vaddF32H f => f.m < 2 ∧ f.vs < 32 ∧ f.vd < 32
  | .vsubF32H f => f.m < 2 ∧ f.vs < 32 ∧ f.vd < 32
  | .vmulF32H f => f.m < 2 ∧ f.vs < 32 ∧ f.vd < 32
  | .vmaxF32H f => f.m < 2 ∧ f.vs < 32 ∧ f.vd < 32
  | .vminF32H f => f.m < 2 ∧ f.vs < 32 ∧ f.vd < 32
  | .vaddBf16x2H f => f.m < 2 ∧ f.vs < 32 ∧ f.vd < 32
  | .vmulBf16x2H f => f.m < 2 ∧ f.vs < 32 ∧ f.vd < 32
  | .nop => True
  | .exit => True
  | .tret => True
  | .brk i => i < 64
  | .waitdep => True
  | .trigger => True
  | .tkrd a => a < 64
  | .bra o => -131072 ≤ o ∧ o < 131072
  | .call o l => -131072 ≤ o ∧ o < 131072 ∧ l < 32
  | .brm o k => -131072 ≤ o ∧ o < 131072 ∧ k < 16
  | .brmz o k => -131072 ≤ o ∧ o < 131072 ∧ k < 16
  | .brany o k => -131072 ≤ o ∧ o < 131072 ∧ k < 16
  | .brall o k => -131072 ≤ o ∧ o < 131072 ∧ k < 16
  | .bnz o c => -131072 ≤ o ∧ o < 131072 ∧ c < 32
  | .bz o c => -131072 ≤ o ∧ o < 131072 ∧ c < 32
  | .jmp a => a < 64
  | .jmpv a => a < 64
  | .calli a b => a < 64 ∧ b < 64
  | .callv a b => a < 64 ∧ b < 64
  | .setvl d n p g e => d < 64 ∧ n < 64 ∧ p < 2 ∧ g < 4 ∧ e < 8 ∧ e < 5
  | .setvlr d n c => d < 64 ∧ n < 64 ∧ c < 64
  | .mand d a b => d < 16 ∧ a < 16 ∧ b < 16
  | .mor d a b => d < 16 ∧ a < 16 ∧ b < 16
  | .mxor d a b => d < 16 ∧ a < 16 ∧ b < 16
  | .mandn d a b => d < 16 ∧ a < 16 ∧ b < 16
  | .morn d a b => d < 16 ∧ a < 16 ∧ b < 16
  | .mnot d a => d < 16 ∧ a < 16
  | .mmov d a => d < 16 ∧ a < 16
  | .mvl d => d < 16
  | .mact d => d < 16
  | .mpop d a => d < 64 ∧ a < 16
  | .mfirst d a => d < 64 ∧ a < 16
  | .mrds d a k => d < 64 ∧ a < 16 ∧ k < 64 ∧ k < 16
  | .mwrs d b k => d < 16 ∧ b < 64 ∧ k < 64 ∧ k < 16
  | .barArrive a b c => a < 16 ∧ b < 64 ∧ c < 64
  | .barCharge a b => a < 16 ∧ b < 64
  | .barWait a b => a < 16 ∧ b < 64
  | .stgArrive n k => n < 8 ∧ k < 16
  | .stgWait n k p => n < 8 ∧ k < 16 ∧ p < 2
  | .csrr a n => a < 64 ∧ n < 64 ∧ csrNumber n
  | .csrw a n => a < 64 ∧ n < 64 ∧ csrNumber n
  | .csrset a n => a < 64 ∧ n < 64 ∧ csrNumber n
  | .csrclr a n => a < 64 ∧ n < 64 ∧ csrNumber n
  | .rdts a n => a < 64 ∧ n < 64 ∧ n < 8
  | .wrts a n => a < 64 ∧ n < 64 ∧ n < 8
  | .rdvpc a => a < 64
  | .tlbiVa a b => a < 64 ∧ b < 64
  | .tlbiAsid a => a < 64
  | .ptsync => True
  | .add d a b => d < 64 ∧ a < 64 ∧ b < 64
  | .sub d a b => d < 64 ∧ a < 64 ∧ b < 64
  | .mul d a b => d < 64 ∧ a < 64 ∧ b < 64
  | .mulh d a b => d < 64 ∧ a < 64 ∧ b < 64
  | .mulhu d a b => d < 64 ∧ a < 64 ∧ b < 64
  | .div d a b => d < 64 ∧ a < 64 ∧ b < 64
  | .divu d a b => d < 64 ∧ a < 64 ∧ b < 64
  | .rem d a b => d < 64 ∧ a < 64 ∧ b < 64
  | .remu d a b => d < 64 ∧ a < 64 ∧ b < 64
  | .and d a b => d < 64 ∧ a < 64 ∧ b < 64
  | .or d a b => d < 64 ∧ a < 64 ∧ b < 64
  | .xor d a b => d < 64 ∧ a < 64 ∧ b < 64
  | .andn d a b => d < 64 ∧ a < 64 ∧ b < 64
  | .shl d a b => d < 64 ∧ a < 64 ∧ b < 64
  | .shr d a b => d < 64 ∧ a < 64 ∧ b < 64
  | .sra d a b => d < 64 ∧ a < 64 ∧ b < 64
  | .ror d a b => d < 64 ∧ a < 64 ∧ b < 64
  | .slt d a b => d < 64 ∧ a < 64 ∧ b < 64
  | .sltu d a b => d < 64 ∧ a < 64 ∧ b < 64
  | .seq d a b => d < 64 ∧ a < 64 ∧ b < 64
  | .min d a b => d < 64 ∧ a < 64 ∧ b < 64
  | .max d a b => d < 64 ∧ a < 64 ∧ b < 64
  | .minu d a b => d < 64 ∧ a < 64 ∧ b < 64
  | .maxu d a b => d < 64 ∧ a < 64 ∧ b < 64
  | .clz d a => d < 64 ∧ a < 64
  | .popc d a => d < 64 ∧ a < 64
  | .addi d a i => d < 64 ∧ a < 64 ∧ -2048 ≤ i ∧ i < 2048
  | .andi d a i => d < 64 ∧ a < 64 ∧ -2048 ≤ i ∧ i < 2048
  | .ori d a i => d < 64 ∧ a < 64 ∧ -2048 ≤ i ∧ i < 2048
  | .xori d a i => d < 64 ∧ a < 64 ∧ -2048 ≤ i ∧ i < 2048
  | .shli d a n => d < 64 ∧ a < 64 ∧ n < 64
  | .shri d a n => d < 64 ∧ a < 64 ∧ n < 64
  | .srai d a n => d < 64 ∧ a < 64 ∧ n < 64
  | .rori d a n => d < 64 ∧ a < 64 ∧ n < 64
  | .lui d i => d < 64 ∧ -131072 ≤ i ∧ i < 131072
  | .seqi d a i => d < 64 ∧ a < 64 ∧ -512 ≤ i ∧ i < 512
  | .slti d a i => d < 64 ∧ a < 64 ∧ -512 ≤ i ∧ i < 512
  | .sltiu d a i => d < 64 ∧ a < 64 ∧ -512 ≤ i ∧ i < 512
  | .sgti d a i => d < 64 ∧ a < 64 ∧ -512 ≤ i ∧ i < 512
  | .pspace d a k => d < 64 ∧ a < 64 ∧ k < 8
  | .prank d a b => d < 64 ∧ a < 64 ∧ b < 64
  | .ppol d a p => d < 64 ∧ a < 64 ∧ p < 2
  | .pget d a k => d < 64 ∧ a < 64 ∧ k < 4
  | .vadd f t => f.vs2 < 32 ∧ f.vs1 < 32 ∧ f.vd < 32 ∧ f.vb < 8 ∧ f.pr < 16 ∧ t < 4 ∧ f.pr ≠ 8
  | .vsub f t => f.vs2 < 32 ∧ f.vs1 < 32 ∧ f.vd < 32 ∧ f.vb < 8 ∧ f.pr < 16 ∧ t < 4 ∧ f.pr ≠ 8
  | .vmul f t => f.vs2 < 32 ∧ f.vs1 < 32 ∧ f.vd < 32 ∧ f.vb < 8 ∧ f.pr < 16 ∧ t < 4 ∧ f.pr ≠ 8
  | .vmulhI f => f.vs2 < 32 ∧ f.vs1 < 32 ∧ f.vd < 32 ∧ f.vb < 8 ∧ f.pr < 16 ∧ f.pr ≠ 8
  | .vmulhN f => f.vs2 < 32 ∧ f.vs1 < 32 ∧ f.vd < 32 ∧ f.vb < 8 ∧ f.pr < 16 ∧ f.pr ≠ 8
  | .vmulhIn f => f.vs2 < 32 ∧ f.vs1 < 32 ∧ f.vd < 32 ∧ f.vb < 8 ∧ f.pr < 16 ∧ f.pr ≠ 8
  | .vminI f => f.vs2 < 32 ∧ f.vs1 < 32 ∧ f.vd < 32 ∧ f.vb < 8 ∧ f.pr < 16 ∧ f.pr ≠ 8
  | .vminN f => f.vs2 < 32 ∧ f.vs1 < 32 ∧ f.vd < 32 ∧ f.vb < 8 ∧ f.pr < 16 ∧ f.pr ≠ 8
  | .vmaxI f => f.vs2 < 32 ∧ f.vs1 < 32 ∧ f.vd < 32 ∧ f.vb < 8 ∧ f.pr < 16 ∧ f.pr ≠ 8
  | .vmaxN f => f.vs2 < 32 ∧ f.vs1 < 32 ∧ f.vd < 32 ∧ f.vb < 8 ∧ f.pr < 16 ∧ f.pr ≠ 8
  | .vaddsI f => f.vs2 < 32 ∧ f.vs1 < 32 ∧ f.vd < 32 ∧ f.vb < 8 ∧ f.pr < 16 ∧ f.pr ≠ 8
  | .vaddsN f => f.vs2 < 32 ∧ f.vs1 < 32 ∧ f.vd < 32 ∧ f.vb < 8 ∧ f.pr < 16 ∧ f.pr ≠ 8
  | .vavgI f => f.vs2 < 32 ∧ f.vs1 < 32 ∧ f.vd < 32 ∧ f.vb < 8 ∧ f.pr < 16 ∧ f.pr ≠ 8
  | .vavgN f => f.vs2 < 32 ∧ f.vs1 < 32 ∧ f.vd < 32 ∧ f.vb < 8 ∧ f.pr < 16 ∧ f.pr ≠ 8
  | .vsubsI f => f.vs2 < 32 ∧ f.vs1 < 32 ∧ f.vd < 32 ∧ f.vb < 8 ∧ f.pr < 16 ∧ f.pr ≠ 8
  | .vsubsN f => f.vs2 < 32 ∧ f.vs1 < 32 ∧ f.vd < 32 ∧ f.vb < 8 ∧ f.pr < 16 ∧ f.pr ≠ 8
  | .vabsdI f => f.vs2 < 32 ∧ f.vs1 < 32 ∧ f.vd < 32 ∧ f.vb < 8 ∧ f.pr < 16 ∧ f.pr ≠ 8
  | .vabsdN f => f.vs2 < 32 ∧ f.vs1 < 32 ∧ f.vd < 32 ∧ f.vb < 8 ∧ f.pr < 16 ∧ f.pr ≠ 8
  | .vand f => f.vs2 < 32 ∧ f.vs1 < 32 ∧ f.vd < 32 ∧ f.vb < 8 ∧ f.pr < 16 ∧ f.pr ≠ 8
  | .vor f => f.vs2 < 32 ∧ f.vs1 < 32 ∧ f.vd < 32 ∧ f.vb < 8 ∧ f.pr < 16 ∧ f.pr ≠ 8
  | .vxor f => f.vs2 < 32 ∧ f.vs1 < 32 ∧ f.vd < 32 ∧ f.vb < 8 ∧ f.pr < 16 ∧ f.pr ≠ 8
  | .vandn f => f.vs2 < 32 ∧ f.vs1 < 32 ∧ f.vd < 32 ∧ f.vb < 8 ∧ f.pr < 16 ∧ f.pr ≠ 8
  | .vshlVector f => f.vs2 < 32 ∧ f.vs1 < 32 ∧ f.vd < 32 ∧ f.vb < 8 ∧ f.pr < 16 ∧ f.pr ≠ 8
  | .vsrlVector f => f.vs2 < 32 ∧ f.vs1 < 32 ∧ f.vd < 32 ∧ f.vb < 8 ∧ f.pr < 16 ∧ f.pr ≠ 8
  | .vsraVector f => f.vs2 < 32 ∧ f.vs1 < 32 ∧ f.vd < 32 ∧ f.vb < 8 ∧ f.pr < 16 ∧ f.pr ≠ 8
  | .vrsraVector f => f.vs2 < 32 ∧ f.vs1 < 32 ∧ f.vd < 32 ∧ f.vb < 8 ∧ f.pr < 16 ∧ f.pr ≠ 8
  | .vshlScalar f => f.vs2 < 32 ∧ f.vs1 < 32 ∧ f.vd < 32 ∧ f.vb < 8 ∧ f.pr < 16 ∧ f.pr ≠ 8
  | .vsrlScalar f => f.vs2 < 32 ∧ f.vs1 < 32 ∧ f.vd < 32 ∧ f.vb < 8 ∧ f.pr < 16 ∧ f.pr ≠ 8
  | .vsraScalar f => f.vs2 < 32 ∧ f.vs1 < 32 ∧ f.vd < 32 ∧ f.vb < 8 ∧ f.pr < 16 ∧ f.pr ≠ 8
  | .vrsraScalar f => f.vs2 < 32 ∧ f.vs1 < 32 ∧ f.vd < 32 ∧ f.vb < 8 ∧ f.pr < 16 ∧ f.pr ≠ 8
  | .vshlImm f => f.vs2 < 32 ∧ f.vs1 < 32 ∧ f.vd < 32 ∧ f.vb < 8 ∧ f.pr < 16 ∧ f.pr ≠ 8
  | .vsrlImm f => f.vs2 < 32 ∧ f.vs1 < 32 ∧ f.vd < 32 ∧ f.vb < 8 ∧ f.pr < 16 ∧ f.pr ≠ 8
  | .vsraImm f => f.vs2 < 32 ∧ f.vs1 < 32 ∧ f.vd < 32 ∧ f.vb < 8 ∧ f.pr < 16 ∧ f.pr ≠ 8
  | .vrsraImm f => f.vs2 < 32 ∧ f.vs1 < 32 ∧ f.vd < 32 ∧ f.vb < 8 ∧ f.pr < 16 ∧ f.pr ≠ 8
  | .vcmpeq f => f.vs2 < 32 ∧ f.vs1 < 32 ∧ f.vd < 16 ∧ f.vb < 8 ∧ f.pr < 16 ∧ f.pr ≠ 8
  | .vcmpne f => f.vs2 < 32 ∧ f.vs1 < 32 ∧ f.vd < 16 ∧ f.vb < 8 ∧ f.pr < 16 ∧ f.pr ≠ 8
  | .vcmpltI f => f.vs2 < 32 ∧ f.vs1 < 32 ∧ f.vd < 16 ∧ f.vb < 8 ∧ f.pr < 16 ∧ f.pr ≠ 8
  | .vcmpltN f => f.vs2 < 32 ∧ f.vs1 < 32 ∧ f.vd < 16 ∧ f.vb < 8 ∧ f.pr < 16 ∧ f.pr ≠ 8
  | .vpmac2I16x2 f => f.vs2 < 32 ∧ f.vs1 < 32 ∧ f.vd < 32 ∧ f.vb < 8 ∧ f.pr < 16 ∧ f.pr ≠ 8
  | .vpmac2I16x2Scalar f => f.vs2 < 32 ∧ f.vs1 < 32 ∧ f.vd < 32 ∧ f.vb < 8 ∧ f.pr < 16 ∧ f.pr ≠ 8
  | .vpaddsI16x2 f => f.vs2 < 32 ∧ f.vs1 < 32 ∧ f.vd < 32 ∧ f.vb < 8 ∧ f.pr < 16 ∧ f.pr ≠ 8
  | .vmac f => f.vs2 < 32 ∧ f.vs1 < 32 ∧ f.vd < 32 ∧ f.vb < 8 ∧ f.pr < 16 ∧ f.pr ≠ 8
  | .vaddScalar f => f.vs2 < 32 ∧ f.vs1 < 32 ∧ f.vd < 32 ∧ f.vb < 8 ∧ f.pr < 16 ∧ f.pr ≠ 8
  | .vsubScalar f => f.vs2 < 32 ∧ f.vs1 < 32 ∧ f.vd < 32 ∧ f.vb < 8 ∧ f.pr < 16 ∧ f.pr ≠ 8
  | .vrsub f => f.vs2 < 32 ∧ f.vs1 < 32 ∧ f.vd < 32 ∧ f.vb < 8 ∧ f.pr < 16 ∧ f.pr ≠ 8
  | .vmulScalar f => f.vs2 < 32 ∧ f.vs1 < 32 ∧ f.vd < 32 ∧ f.vb < 8 ∧ f.pr < 16 ∧ f.pr ≠ 8
  | .vsel f => f.vs2 < 32 ∧ f.vs1 < 32 ∧ f.vd < 32 ∧ f.vb < 8 ∧ f.pr < 16 ∧ f.pr ≠ 8 ∧ f.pr ≠ 0
  | .vsplat s d b p => s < 32 ∧ d < 32 ∧ b < 8 ∧ p < 16 ∧ p ≠ 8
  | .vid d b p => d < 32 ∧ b < 8 ∧ p < 16 ∧ p ≠ 8
  | .vaddF f t => f.vs2 < 32 ∧ f.vs1 < 32 ∧ f.vd < 32 ∧ f.vb < 8 ∧ f.pr < 16 ∧ t < 4 ∧ f.pr ≠ 8
  | .vsubF f t => f.vs2 < 32 ∧ f.vs1 < 32 ∧ f.vd < 32 ∧ f.vb < 8 ∧ f.pr < 16 ∧ t < 4 ∧ f.pr ≠ 8
  | .vmulF f t => f.vs2 < 32 ∧ f.vs1 < 32 ∧ f.vd < 32 ∧ f.vb < 8 ∧ f.pr < 16 ∧ t < 4 ∧ f.pr ≠ 8
  | .vdivF f t => f.vs2 < 32 ∧ f.vs1 < 32 ∧ f.vd < 32 ∧ f.vb < 8 ∧ f.pr < 16 ∧ t < 4 ∧ f.pr ≠ 8
  | .vfmaF f t => f.vs2 < 32 ∧ f.vs1 < 32 ∧ f.vd < 32 ∧ f.vb < 8 ∧ f.pr < 16 ∧ t < 4 ∧ f.pr ≠ 8
  | .vfmsF f t => f.vs2 < 32 ∧ f.vs1 < 32 ∧ f.vd < 32 ∧ f.vb < 8 ∧ f.pr < 16 ∧ t < 4 ∧ f.pr ≠ 8
  | .vfnmaF f t => f.vs2 < 32 ∧ f.vs1 < 32 ∧ f.vd < 32 ∧ f.vb < 8 ∧ f.pr < 16 ∧ t < 4 ∧ f.pr ≠ 8
  | .vminF f t => f.vs2 < 32 ∧ f.vs1 < 32 ∧ f.vd < 32 ∧ f.vb < 8 ∧ f.pr < 16 ∧ t < 4 ∧ f.pr ≠ 8
  | .vmaxF f t => f.vs2 < 32 ∧ f.vs1 < 32 ∧ f.vd < 32 ∧ f.vb < 8 ∧ f.pr < 16 ∧ t < 4 ∧ f.pr ≠ 8
  | .vfcmpeq f => f.vs2 < 32 ∧ f.vs1 < 32 ∧ f.vd < 16 ∧ f.vb < 8 ∧ f.pr < 16 ∧ f.pr ≠ 8
  | .vfcmplt f => f.vs2 < 32 ∧ f.vs1 < 32 ∧ f.vd < 16 ∧ f.vb < 8 ∧ f.pr < 16 ∧ f.pr ≠ 8
  | .vfcmple f => f.vs2 < 32 ∧ f.vs1 < 32 ∧ f.vd < 16 ∧ f.vb < 8 ∧ f.pr < 16 ∧ f.pr ≠ 8
  | .vfcmpun f => f.vs2 < 32 ∧ f.vs1 < 32 ∧ f.vd < 16 ∧ f.vb < 8 ∧ f.pr < 16 ∧ f.pr ≠ 8
  | .vsqrt f => f.a < 256 ∧ f.b < 256 ∧ f.ia < 2 ∧ f.ib < 2 ∧ f.pr < 16 ∧ f.pr ≠ 8 ∧ (f.ia = 1 → f.a < 64) ∧ (f.ib = 1 → f.b < 64)
  | .vabs f => f.a < 256 ∧ f.b < 256 ∧ f.ia < 2 ∧ f.ib < 2 ∧ f.pr < 16 ∧ f.pr ≠ 8 ∧ (f.ia = 1 → f.a < 64) ∧ (f.ib = 1 → f.b < 64)
  | .vneg f => f.a < 256 ∧ f.b < 256 ∧ f.ia < 2 ∧ f.ib < 2 ∧ f.pr < 16 ∧ f.pr ≠ 8 ∧ (f.ia = 1 → f.a < 64) ∧ (f.ib = 1 → f.b < 64)
  | .vclass f => f.a < 256 ∧ f.b < 256 ∧ f.ia < 2 ∧ f.ib < 2 ∧ f.pr < 16 ∧ f.pr ≠ 8 ∧ (f.ia = 1 → f.a < 64) ∧ (f.ib = 1 → f.b < 64)
  | .vaddFScalar f => f.vs2 < 32 ∧ f.vs1 < 32 ∧ f.vd < 32 ∧ f.vb < 8 ∧ f.pr < 16 ∧ f.pr ≠ 8
  | .vmulFScalar f => f.vs2 < 32 ∧ f.vs1 < 32 ∧ f.vd < 32 ∧ f.vb < 8 ∧ f.pr < 16 ∧ f.pr ≠ 8
  | .vfmaFScalar f => f.vs2 < 32 ∧ f.vs1 < 32 ∧ f.vd < 32 ∧ f.vb < 8 ∧ f.pr < 16 ∧ f.pr ≠ 8
  | .vsubFScalar f => f.vs2 < 32 ∧ f.vs1 < 32 ∧ f.vd < 32 ∧ f.vb < 8 ∧ f.pr < 16 ∧ f.pr ≠ 8
  | .vaddBf16x2 f => f.vs2 < 32 ∧ f.vs1 < 32 ∧ f.vd < 32 ∧ f.vb < 8 ∧ f.pr < 16 ∧ f.pr ≠ 8
  | .vsubBf16x2 f => f.vs2 < 32 ∧ f.vs1 < 32 ∧ f.vd < 32 ∧ f.vb < 8 ∧ f.pr < 16 ∧ f.pr ≠ 8
  | .vmulBf16x2 f => f.vs2 < 32 ∧ f.vs1 < 32 ∧ f.vd < 32 ∧ f.vb < 8 ∧ f.pr < 16 ∧ f.pr ≠ 8
  | .vfmaBf16x2 f => f.vs2 < 32 ∧ f.vs1 < 32 ∧ f.vd < 32 ∧ f.vb < 8 ∧ f.pr < 16 ∧ f.pr ≠ 8
  | .vfcvt f t => f.a < 256 ∧ f.b < 256 ∧ f.ia < 2 ∧ f.ib < 2 ∧ f.pr < 16 ∧ t < 4 ∧ f.pr ≠ 8 ∧ (f.ia = 1 → f.a < 64) ∧ (f.ib = 1 → f.b < 64)
  | .vfcvtI f => f.a < 256 ∧ f.b < 256 ∧ f.ia < 2 ∧ f.ib < 2 ∧ f.pr < 16 ∧ f.pr ≠ 8 ∧ (f.ia = 1 → f.a < 64) ∧ (f.ib = 1 → f.b < 64)
  | .vfcvtN f => f.a < 256 ∧ f.b < 256 ∧ f.ia < 2 ∧ f.ib < 2 ∧ f.pr < 16 ∧ f.pr ≠ 8 ∧ (f.ia = 1 → f.a < 64) ∧ (f.ib = 1 → f.b < 64)
  | .vfcvtzI f => f.a < 256 ∧ f.b < 256 ∧ f.ia < 2 ∧ f.ib < 2 ∧ f.pr < 16 ∧ f.pr ≠ 8 ∧ (f.ia = 1 → f.a < 64) ∧ (f.ib = 1 → f.b < 64)
  | .vfcvtzN f => f.a < 256 ∧ f.b < 256 ∧ f.ia < 2 ∧ f.ib < 2 ∧ f.pr < 16 ∧ f.pr ≠ 8 ∧ (f.ia = 1 → f.a < 64) ∧ (f.ib = 1 → f.b < 64)
  | .vicvtI f => f.a < 256 ∧ f.b < 256 ∧ f.ia < 2 ∧ f.ib < 2 ∧ f.pr < 16 ∧ f.pr ≠ 8 ∧ (f.ia = 1 → f.a < 64) ∧ (f.ib = 1 → f.b < 64)
  | .vicvtN f => f.a < 256 ∧ f.b < 256 ∧ f.ia < 2 ∧ f.ib < 2 ∧ f.pr < 16 ∧ f.pr ≠ 8 ∧ (f.ia = 1 → f.a < 64) ∧ (f.ib = 1 → f.b < 64)
  | .vsext f => f.a < 256 ∧ f.b < 256 ∧ f.ia < 2 ∧ f.ib < 2 ∧ f.pr < 16 ∧ f.pr ≠ 8 ∧ (f.ia = 1 → f.a < 64) ∧ (f.ib = 1 → f.b < 64)
  | .vzext f => f.a < 256 ∧ f.b < 256 ∧ f.ia < 2 ∧ f.ib < 2 ∧ f.pr < 16 ∧ f.pr ≠ 8 ∧ (f.ia = 1 → f.a < 64) ∧ (f.ib = 1 → f.b < 64)
  | .vnarrow f => f.a < 256 ∧ f.b < 256 ∧ f.ia < 2 ∧ f.ib < 2 ∧ f.pr < 16 ∧ f.pr ≠ 8 ∧ (f.ia = 1 → f.a < 64) ∧ (f.ib = 1 → f.b < 64)
  | .vnarrows f => f.a < 256 ∧ f.b < 256 ∧ f.ia < 2 ∧ f.ib < 2 ∧ f.pr < 16 ∧ f.pr ≠ 8 ∧ (f.ia = 1 → f.a < 64) ∧ (f.ib = 1 → f.b < 64)
  | .vmxcvtToMx f t => f.a < 256 ∧ f.b < 256 ∧ f.ia < 2 ∧ f.ib < 2 ∧ f.pr = 0 ∧ t < 4 ∧ (f.ia = 1 → f.a < 64) ∧ (f.ib = 1 → f.b < 64)
  | .vmxcvtFromMx f t => f.a < 256 ∧ f.b < 256 ∧ f.ia < 2 ∧ f.ib < 2 ∧ f.pr = 0 ∧ t < 4 ∧ (f.ia = 1 → f.a < 64) ∧ (f.ib = 1 → f.b < 64)
  | .vmxcvtMxint8F32 f => f.a < 256 ∧ f.b < 256 ∧ f.ia < 2 ∧ f.ib < 2 ∧ f.pr = 0 ∧ (f.ia = 1 → f.a < 64) ∧ (f.ib = 1 → f.b < 64)
  | .vmxcvtF32Mxint8 f => f.a < 256 ∧ f.b < 256 ∧ f.ia < 2 ∧ f.ib < 2 ∧ f.pr = 0 ∧ (f.ia = 1 → f.a < 64) ∧ (f.ib = 1 → f.b < 64)
  | .vbfpcvtBfp8F32 f => f.a < 256 ∧ f.b < 256 ∧ f.ia < 2 ∧ f.ib < 2 ∧ f.pr = 0 ∧ (f.ia = 1 → f.a < 64) ∧ (f.ib = 1 → f.b < 64)
  | .vbfpcvtF32Bfp8 f => f.a < 256 ∧ f.b < 256 ∧ f.ia < 2 ∧ f.ib < 2 ∧ f.pr = 0 ∧ (f.ia = 1 → f.a < 64) ∧ (f.ib = 1 → f.b < 64)
  | .vexp2 f => f.a < 256 ∧ f.b < 256 ∧ f.ia < 2 ∧ f.ib < 2 ∧ f.pr < 16 ∧ f.pr ≠ 8 ∧ (f.ia = 1 → f.a < 64) ∧ (f.ib = 1 → f.b < 64)
  | .vlog2 f => f.a < 256 ∧ f.b < 256 ∧ f.ia < 2 ∧ f.ib < 2 ∧ f.pr < 16 ∧ f.pr ≠ 8 ∧ (f.ia = 1 → f.a < 64) ∧ (f.ib = 1 → f.b < 64)
  | .vexp f => f.a < 256 ∧ f.b < 256 ∧ f.ia < 2 ∧ f.ib < 2 ∧ f.pr < 16 ∧ f.pr ≠ 8 ∧ (f.ia = 1 → f.a < 64) ∧ (f.ib = 1 → f.b < 64)
  | .vlog f => f.a < 256 ∧ f.b < 256 ∧ f.ia < 2 ∧ f.ib < 2 ∧ f.pr < 16 ∧ f.pr ≠ 8 ∧ (f.ia = 1 → f.a < 64) ∧ (f.ib = 1 → f.b < 64)
  | .vrcp f => f.a < 256 ∧ f.b < 256 ∧ f.ia < 2 ∧ f.ib < 2 ∧ f.pr < 16 ∧ f.pr ≠ 8 ∧ (f.ia = 1 → f.a < 64) ∧ (f.ib = 1 → f.b < 64)
  | .vrsq f => f.a < 256 ∧ f.b < 256 ∧ f.ia < 2 ∧ f.ib < 2 ∧ f.pr < 16 ∧ f.pr ≠ 8 ∧ (f.ia = 1 → f.a < 64) ∧ (f.ib = 1 → f.b < 64)
  | .vtanh f => f.a < 256 ∧ f.b < 256 ∧ f.ia < 2 ∧ f.ib < 2 ∧ f.pr < 16 ∧ f.pr ≠ 8 ∧ (f.ia = 1 → f.a < 64) ∧ (f.ib = 1 → f.b < 64)
  | .vsin f => f.a < 256 ∧ f.b < 256 ∧ f.ia < 2 ∧ f.ib < 2 ∧ f.pr < 16 ∧ f.pr ≠ 8 ∧ (f.ia = 1 → f.a < 64) ∧ (f.ib = 1 → f.b < 64)
  | .vcos f => f.a < 256 ∧ f.b < 256 ∧ f.ia < 2 ∧ f.ib < 2 ∧ f.pr < 16 ∧ f.pr ≠ 8 ∧ (f.ia = 1 → f.a < 64) ∧ (f.ib = 1 → f.b < 64)
  | .vmovW f => f.a < 256 ∧ f.b < 256 ∧ f.ia < 2 ∧ f.ib < 2 ∧ f.pr < 16 ∧ f.pr ≠ 8 ∧ (f.ia = 1 → f.a < 64) ∧ (f.ib = 1 → f.b < 64)
  | .vscget f => f.a < 256 ∧ f.b < 256 ∧ f.ia < 2 ∧ f.ib < 2 ∧ f.pr = 0 ∧ (f.ia = 1 → f.a < 64) ∧ (f.ib = 1 → f.b < 64)
  | .vscput f => f.a < 256 ∧ f.b < 256 ∧ f.ia < 2 ∧ f.ib < 2 ∧ f.pr = 0 ∧ (f.ia = 1 → f.a < 64) ∧ (f.ib = 1 → f.b < 64)
  | .vslidedn d m s k => d < 64 ∧ m < 16 ∧ s < 64 ∧ k < 4
  | .vslideup d m s k => d < 64 ∧ m < 16 ∧ s < 64 ∧ k < 4
  | .vperm d m s => d < 64 ∧ m < 16 ∧ s < 64
  | .vrev d m s => d < 64 ∧ m < 16 ∧ s < 64
  | .vredsum d m s => d < 64 ∧ m < 16 ∧ s < 64
  | .vredmaxI d m s => d < 64 ∧ m < 16 ∧ s < 64
  | .vredmaxN d m s => d < 64 ∧ m < 16 ∧ s < 64
  | .vredminI d m s => d < 64 ∧ m < 16 ∧ s < 64
  | .vredminN d m s => d < 64 ∧ m < 16 ∧ s < 64
  | .vredand d m s => d < 64 ∧ m < 16 ∧ s < 64
  | .vredor d m s => d < 64 ∧ m < 16 ∧ s < 64
  | .vredsumF d m s => d < 64 ∧ m < 16 ∧ s < 64
  | .vredmaxF d m s => d < 64 ∧ m < 16 ∧ s < 64
  | .vredminF d m s => d < 64 ∧ m < 16 ∧ s < 64
  | .vscansum d m => d < 64 ∧ m < 16
  | .vscansumF d m => d < 64 ∧ m < 16
  | .vscanmaxI d m => d < 64 ∧ m < 16
  | .vexscansum d m => d < 64 ∧ m < 16
  | .vqxX1 d m => d < 64 ∧ m < 16
  | .vqxX2 d m => d < 64 ∧ m < 16
  | .vqxX3 d m => d < 64 ∧ m < 16
  | .vqxB0 d m => d < 64 ∧ m < 16
  | .vqxB1 d m => d < 64 ∧ m < 16
  | .vqxB2 d m => d < 64 ∧ m < 16
  | .vqxB3 d m => d < 64 ∧ m < 16
  | .mxlda d c s k => d < 256 ∧ c < 4 ∧ s < 64 ∧ k < 16 ∧ c < 2
  | .mxldb d c s k => d < 256 ∧ c < 4 ∧ s < 64 ∧ k < 16 ∧ c < 2
  | .mxlds d c s k => d < 256 ∧ c < 4 ∧ s < 64 ∧ k < 16 ∧ c < 3
  | .mxstep z c k => z < 256 ∧ c < 64 ∧ k < 16 ∧ z < 10 ∧ c < 63
  | .mxloop z c k => z < 256 ∧ c < 64 ∧ k < 16 ∧ z < 10 ∧ c < 63
  | .mxspstep z c k => z < 256 ∧ c < 64 ∧ k < 16 ∧ z < 10 ∧ c < 63
  | .mxsploop z c k => z < 256 ∧ c < 64 ∧ k < 16 ∧ z < 10 ∧ c < 63
  | .mxrdz v p k => v < 256 ∧ p < 64 ∧ k < 16
  | .mxwrz v p k => v < 256 ∧ p < 64 ∧ k < 16
  | .mxtred z n k => z < 256 ∧ n < 8 ∧ k < 16 ∧ z < 10
  | .mxtmov z n k => z < 256 ∧ n < 8 ∧ k < 16 ∧ z < 10
  | .mxelog d n => d < 64 ∧ n < 16
  | .mxestat d => d < 64
  | .mxeclr => True
  | .wfwd t k => t < 64 ∧ k < 16
  | .winv t k => t < 64 ∧ k < 16
  | .wthr t k => t < 64 ∧ k < 16
  | .wthset n a => n < 8 ∧ a < 64
  | .wst t b k => t < 64 ∧ b < 64 ∧ k < 16
  | .wld t b k => t < 64 ∧ b < 64 ∧ k < 16
  | .wldRaw t b k => t < 64 ∧ b < 64 ∧ k < 16 ∧ b ≠ 63
  | .wtag t g k => t < 64 ∧ g < 256 ∧ k < 16 ∧ wtagOk g
  | .wcnt d n => d < 64 ∧ n < 16
  | .ljoin v r b => v < 64 ∧ r < 2 ∧ b < 64
  | .ljoinV v r b => v < 256 ∧ r < 2 ∧ b < 64 ∧ v < 255
  | .lput v r b k => v < 64 ∧ r < 2 ∧ b < 64 ∧ k < 16
  | .lputV v r b k => v < 256 ∧ r < 2 ∧ b < 64 ∧ k < 16 ∧ v < 255
  | .lget d q b k => d < 64 ∧ q < 2 ∧ b < 64 ∧ k < 16
  | .lgetV d q b k => d < 256 ∧ q < 2 ∧ b < 64 ∧ k < 16 ∧ d < 255
  | .lwait d q b k => d < 64 ∧ q < 2 ∧ b < 64 ∧ k < 16 ∧ d ≠ 0 ∧ d ≠ 63
  | .lxsched d a => d < 64 ∧ a < 64
  | .lxnow k => k < 16
  | .ltype d b k => d < 64 ∧ b < 64 ∧ k < 16
  | .lclr b k => b < 64 ∧ k < 16
  | .ldv f => f.vr < 32 ∧ f.vx < 32 ∧ f.vb < 8 ∧ f.sb < 32 ∧ f.tk < 16 ∧ f.pm < 4 ∧ f.pm ≠ 3
  | .stv f => f.vr < 32 ∧ f.vx < 32 ∧ f.vb < 8 ∧ f.sb < 32 ∧ f.tk = 0 ∧ f.pm < 4 ∧ f.pm ≠ 3
  | .ldg f => f.vr < 32 ∧ f.vx < 32 ∧ f.vb < 8 ∧ f.sb < 32 ∧ f.tk < 16 ∧ f.pm < 4 ∧ f.pm ≠ 3
  | .stg f => f.vr < 32 ∧ f.vx < 32 ∧ f.vb < 8 ∧ f.sb < 32 ∧ f.tk = 0 ∧ f.pm < 4 ∧ f.pm ≠ 3
  | .ldff f => f.vr < 32 ∧ f.vx < 32 ∧ f.vb < 8 ∧ f.sb < 32 ∧ f.tk < 16 ∧ f.pm < 4 ∧ f.pm ≠ 3
  | .ldr r m b s k p => r < 32 ∧ m < 16 ∧ b < 8 ∧ s < 32 ∧ k < 16 ∧ p < 4 ∧ p ≠ 3
  | .ld d b k i => d < 64 ∧ b < 64 ∧ k < 16 ∧ -128 ≤ i ∧ i < 128
  | .st d b i => d < 64 ∧ b < 64 ∧ -128 ≤ i ∧ i < 128
  | .atAdd f => f.vr < 32 ∧ f.vx < 32 ∧ f.vb < 8 ∧ f.sb < 32 ∧ f.tk < 16
  | .atSwap f => f.vr < 32 ∧ f.vx < 32 ∧ f.vb < 8 ∧ f.sb < 32 ∧ f.tk < 16
  | .atCas f => f.vr < 32 ∧ f.vx < 32 ∧ f.vb < 8 ∧ f.sb < 32 ∧ f.tk < 16
  | .atFadd f => f.vr < 32 ∧ f.vx < 32 ∧ f.vb < 8 ∧ f.sb < 32 ∧ f.tk < 16
  | .atAnd f => f.vr < 32 ∧ f.vx < 32 ∧ f.vb < 8 ∧ f.sb < 32 ∧ f.tk < 16
  | .atOr f => f.vr < 32 ∧ f.vx < 32 ∧ f.vb < 8 ∧ f.sb < 32 ∧ f.tk < 16
  | .atMax f => f.vr < 32 ∧ f.vx < 32 ∧ f.vb < 8 ∧ f.sb < 32 ∧ f.tk < 16
  | .atMaxu f => f.vr < 32 ∧ f.vx < 32 ∧ f.vb < 8 ∧ f.sb < 32 ∧ f.tk < 16
  | .fenceAcq c => c < 8 ∧ c < 7
  | .fenceRel c => c < 8 ∧ c < 7
  | .fenceAr c => c < 8 ∧ c < 7
  | .fenceSc c => c < 8 ∧ c < 7
  | .fenceAck k => k < 16
  | .lda d m b k => d < 64 ∧ m < 8 ∧ b < 64 ∧ k < 16 ∧ m < 7
  | .ldaSc d m b k => d < 64 ∧ m < 8 ∧ b < 64 ∧ k < 16 ∧ m < 7
  | .stl d m b => d < 64 ∧ m < 8 ∧ b < 64 ∧ m < 7
  | .stlSc d m b => d < 64 ∧ m < 8 ∧ b < 64 ∧ m < 7
  | .ldb v m i k => v < 64 ∧ m < 16 ∧ i < 64 ∧ k < 16
  | .stb v m i => v < 64 ∧ m < 16 ∧ i < 64
  | .cbload w k s t => w < 8 ∧ k < 4 ∧ s < 64 ∧ t < 16
  | .ldcb d k s t => d < 256 ∧ k < 4 ∧ s < 64 ∧ t < 16
  | .pref c l s => c < 256 ∧ l < 2 ∧ s < 64
  | .mcnt d k => d < 64 ∧ k < 8
  | .pagereq b k => b < 64 ∧ k < 16
  | .pagereqW b k => b < 64 ∧ k < 16
  | .pagehint b => b < 64
  | .pagehintW b => b < 64
  | .pagerel b k => b < 64 ∧ k < 16
  | .cp s q k => s < 64 ∧ q < 64 ∧ k < 16
  | .cp2d s q k => s < 64 ∧ q < 64 ∧ k < 16
  | .cpfill s q k => s < 64 ∧ q < 64 ∧ k < 16
  | .cpver s q k => s < 64 ∧ q < 64 ∧ k < 16
  | .cpwp d h => d < 64 ∧ h < 8
  | .cpwpClr d h => d < 64 ∧ h < 8
  | .cpnum d => d < 64
  | .cpseed h a => h < 8 ∧ a < 64
  | .cproot k b t => k < 16 ∧ b < 64 ∧ t < 16
  | .cprootClr k t => k < 16 ∧ t < 16
  | .fxstat d => d < 64
  | .fxclr a => a < 64
  | .fxrank d => d < 64
  | .fxpath d a => d < 64 ∧ a < 64
  | .fxsto d b => d < 64 ∧ b < 64
  | .fxstoRel d b => d < 64 ∧ b < 64
  | .fxcnt d k => d < 64 ∧ k < 8

/-- `WellFormed` as a check that runs. -/
def Instr.wellFormed (i : Instr) : Bool :=
  match i with
  | .matrixStepPerform _ _ _ => true
  | .ztileAccessPerform _ _ _ => true
  | .teamTransferArrival _ _ _ => true
  | .ztileQueueRoom _ => true
  | .waveletRequestDone _ _ => true
  | .latticeWritePerform _ _ => true
  | .lwaitTimeout _ _ => true
  | .latticeQueueRoom _ => true
  | .exchangeRoundStart _ => true
  | .exchangeTransferArrival _ _ => true
  | .latticePageClear _ => true
  | .loadDataArrival _ _ _ _ => true
  | .atomicPerform _ _ => true
  | .cbloadTableWrite _ _ => true
  | .cbloadQueueRoom _ => true
  | .storeQueueRoom _ => true
  | .coherenceRequest _ _ _ => true
  | .transientRequestTimeout _ _ _ => true
  | .regionMerge _ _ => true
  | .lockUpdateArrival _ _ _ _ _ _ => true
  | .writerLockTimeout _ => true
  | .replicaLockTimeout _ _ _ => true
  | .copyChunkDelivery _ _ _ => true
  | .weightPageCheck _ _ => true
  | .copySlotFree _ => true
  | .slotPick _ => true
  | .asyncConditionDelivery _ => true
  | .groupRelease _ _ => true
  | .preemption _ _ => true
  | .restore _ _ _ => true
  | .gangSuspend _ => true
  | .faultQueueRoom _ => true
  | .directoryReadRequest _ _ _ _ => true
  | .directoryWriteRequest _ _ _ _ => true
  | .directoryRelease _ _ _ => true
  | .replicateRequest _ _ _ _ => true
  | .unreplicateRequest _ _ _ => true
  | .readerAddition _ _ _ _ _ => true
  | .probe _ _ _ _ => true
  | .notHereReply _ => true
  | .invalidation _ _ _ _ _ _ => true
  | .pageShipmentArrival _ _ _ _ _ _ _ => true
  | .recordReplay _ _ => true
  | .writeBackArrival _ _ _ _ _ => true
  | .writeBackAck _ _ => true
  | .filterAddition _ _ _ _ => true
  | .filterRebuild _ => true
  | .meridianAttemptTimeout _ _ => true
  | .declineQueueRoom => true
  | .frameWaitTimeout _ _ => true
  | .supply _ _ _ => true
  | .retry _ => true
  | .refuse _ => true
  | .kill _ => true
  | .replicate _ _ _ => true
  | .unreplicate _ _ => true
  | .pageMigration _ _ _ _ => true
  | .migrationCutover _ _ => true
  | .head _ _ _ _ _ => true
  | .body _ _ _ _ _ => true
  | .ack _ _ => true
  | .retryFlit _ _ => true
  | .credit _ _ _ => true
  | .train _ => true
  | .idle _ => true
  | .laneLockLoss _ => true
  | .linkTrained _ => true
  | .ackTimer _ => true
  | .creditTimer _ => true
  | .loadRequest _ => true
  | .storeRequest _ => true
  | .atomicRequest _ => true
  | .flagStore _ => true
  | .flagStoreRelease _ _ => true
  | .floorNotice _ => true
  | .loadReply _ => true
  | .acknowledgement _ => true
  | .atomicReply _ => true
  | .refusal _ => true
  | .refusalSend _ => true
  | .e2eAttemptTimeout _ _ => true
  | .e2eWindowRoom _ => true
  | .queueDoorbell _ _ => true
  | .packetAdmission _ _ _ _ => true
  | .admissionWaitTimeout _ _ => true
  | .reserve _ _ _ _ _ _ => true
  | .grant _ _ _ => true
  | .commit _ _ => true
  | .rollback _ => true
  | .gangReserveTimeout _ => true
  | .gangRetryTimer _ _ => true
  | .gangStart _ => true
  | .energyTick _ => true
  | .npartWrite _ => true
  | .splitRegisterWrite _ _ => true
  | .registerWrite _ _ => true
  | .sensorSample _ => true
  | .hotHoldTimeout _ => true
  | .thermalMigration _ _ => true
  | .clockStepDown _ => true
  | .clockStepUp _ => true
  | .criticalTimeout _ => true
  | .watchdogExpiry => true
  | .firmwareImageWrite _ _ => true
  | .antiRollbackRaise => true
  | .dumpclr => true
  | .powerUp _ => true
  | .tlbInvalidationComplete _ => true
  | .replicaConfirmation _ _ => true
  | .meridianReply _ _ _ _ => true
  | .directoryAcknowledgement _ _ _ => true
  | .unknownKindFlit _ => true
  | .reachabilityReport _ _ _ => true
  | .gangContactLost _ => true
  | .bar2WindowAccess _ _ _ => true
  | .hostCoreStore _ => true
  | .logEntryFlashWrite => true
  | .powerLoss => true
  | .deviceReset => true
  | .runHead t p a l => decide (t < 2 ∧ p < 2 ∧ a < 65536 ∧ l < 64)
  | .pad => true
  | .vmov f => decide (f.m < 2 ∧ f.vs < 32 ∧ f.vd < 32 ∧ (f.m ≠ 0 ∨ f.vs ≠ 0 ∨ f.vd ≠ 0))
  | .vaddI32H f => decide (f.m < 2 ∧ f.vs < 32 ∧ f.vd < 32)
  | .vsubI32H f => decide (f.m < 2 ∧ f.vs < 32 ∧ f.vd < 32)
  | .vmulI32H f => decide (f.m < 2 ∧ f.vs < 32 ∧ f.vd < 32)
  | .vandH f => decide (f.m < 2 ∧ f.vs < 32 ∧ f.vd < 32)
  | .vorH f => decide (f.m < 2 ∧ f.vs < 32 ∧ f.vd < 32)
  | .vxorH f => decide (f.m < 2 ∧ f.vs < 32 ∧ f.vd < 32)
  | .vshlI32H f => decide (f.m < 2 ∧ f.vs < 32 ∧ f.vd < 32)
  | .vsraI32H f => decide (f.m < 2 ∧ f.vs < 32 ∧ f.vd < 32)
  | .vaddF32H f => decide (f.m < 2 ∧ f.vs < 32 ∧ f.vd < 32)
  | .vsubF32H f => decide (f.m < 2 ∧ f.vs < 32 ∧ f.vd < 32)
  | .vmulF32H f => decide (f.m < 2 ∧ f.vs < 32 ∧ f.vd < 32)
  | .vmaxF32H f => decide (f.m < 2 ∧ f.vs < 32 ∧ f.vd < 32)
  | .vminF32H f => decide (f.m < 2 ∧ f.vs < 32 ∧ f.vd < 32)
  | .vaddBf16x2H f => decide (f.m < 2 ∧ f.vs < 32 ∧ f.vd < 32)
  | .vmulBf16x2H f => decide (f.m < 2 ∧ f.vs < 32 ∧ f.vd < 32)
  | .nop => true
  | .exit => true
  | .tret => true
  | .brk i => decide (i < 64)
  | .waitdep => true
  | .trigger => true
  | .tkrd a => decide (a < 64)
  | .bra o => decide (-131072 ≤ o ∧ o < 131072)
  | .call o l => decide (-131072 ≤ o ∧ o < 131072 ∧ l < 32)
  | .brm o k => decide (-131072 ≤ o ∧ o < 131072 ∧ k < 16)
  | .brmz o k => decide (-131072 ≤ o ∧ o < 131072 ∧ k < 16)
  | .brany o k => decide (-131072 ≤ o ∧ o < 131072 ∧ k < 16)
  | .brall o k => decide (-131072 ≤ o ∧ o < 131072 ∧ k < 16)
  | .bnz o c => decide (-131072 ≤ o ∧ o < 131072 ∧ c < 32)
  | .bz o c => decide (-131072 ≤ o ∧ o < 131072 ∧ c < 32)
  | .jmp a => decide (a < 64)
  | .jmpv a => decide (a < 64)
  | .calli a b => decide (a < 64 ∧ b < 64)
  | .callv a b => decide (a < 64 ∧ b < 64)
  | .setvl d n p g e => decide (d < 64 ∧ n < 64 ∧ p < 2 ∧ g < 4 ∧ e < 8 ∧ e < 5)
  | .setvlr d n c => decide (d < 64 ∧ n < 64 ∧ c < 64)
  | .mand d a b => decide (d < 16 ∧ a < 16 ∧ b < 16)
  | .mor d a b => decide (d < 16 ∧ a < 16 ∧ b < 16)
  | .mxor d a b => decide (d < 16 ∧ a < 16 ∧ b < 16)
  | .mandn d a b => decide (d < 16 ∧ a < 16 ∧ b < 16)
  | .morn d a b => decide (d < 16 ∧ a < 16 ∧ b < 16)
  | .mnot d a => decide (d < 16 ∧ a < 16)
  | .mmov d a => decide (d < 16 ∧ a < 16)
  | .mvl d => decide (d < 16)
  | .mact d => decide (d < 16)
  | .mpop d a => decide (d < 64 ∧ a < 16)
  | .mfirst d a => decide (d < 64 ∧ a < 16)
  | .mrds d a k => decide (d < 64 ∧ a < 16 ∧ k < 64 ∧ k < 16)
  | .mwrs d b k => decide (d < 16 ∧ b < 64 ∧ k < 64 ∧ k < 16)
  | .barArrive a b c => decide (a < 16 ∧ b < 64 ∧ c < 64)
  | .barCharge a b => decide (a < 16 ∧ b < 64)
  | .barWait a b => decide (a < 16 ∧ b < 64)
  | .stgArrive n k => decide (n < 8 ∧ k < 16)
  | .stgWait n k p => decide (n < 8 ∧ k < 16 ∧ p < 2)
  | .csrr a n => decide (a < 64 ∧ n < 64 ∧ csrNumber n)
  | .csrw a n => decide (a < 64 ∧ n < 64 ∧ csrNumber n)
  | .csrset a n => decide (a < 64 ∧ n < 64 ∧ csrNumber n)
  | .csrclr a n => decide (a < 64 ∧ n < 64 ∧ csrNumber n)
  | .rdts a n => decide (a < 64 ∧ n < 64 ∧ n < 8)
  | .wrts a n => decide (a < 64 ∧ n < 64 ∧ n < 8)
  | .rdvpc a => decide (a < 64)
  | .tlbiVa a b => decide (a < 64 ∧ b < 64)
  | .tlbiAsid a => decide (a < 64)
  | .ptsync => true
  | .add d a b => decide (d < 64 ∧ a < 64 ∧ b < 64)
  | .sub d a b => decide (d < 64 ∧ a < 64 ∧ b < 64)
  | .mul d a b => decide (d < 64 ∧ a < 64 ∧ b < 64)
  | .mulh d a b => decide (d < 64 ∧ a < 64 ∧ b < 64)
  | .mulhu d a b => decide (d < 64 ∧ a < 64 ∧ b < 64)
  | .div d a b => decide (d < 64 ∧ a < 64 ∧ b < 64)
  | .divu d a b => decide (d < 64 ∧ a < 64 ∧ b < 64)
  | .rem d a b => decide (d < 64 ∧ a < 64 ∧ b < 64)
  | .remu d a b => decide (d < 64 ∧ a < 64 ∧ b < 64)
  | .and d a b => decide (d < 64 ∧ a < 64 ∧ b < 64)
  | .or d a b => decide (d < 64 ∧ a < 64 ∧ b < 64)
  | .xor d a b => decide (d < 64 ∧ a < 64 ∧ b < 64)
  | .andn d a b => decide (d < 64 ∧ a < 64 ∧ b < 64)
  | .shl d a b => decide (d < 64 ∧ a < 64 ∧ b < 64)
  | .shr d a b => decide (d < 64 ∧ a < 64 ∧ b < 64)
  | .sra d a b => decide (d < 64 ∧ a < 64 ∧ b < 64)
  | .ror d a b => decide (d < 64 ∧ a < 64 ∧ b < 64)
  | .slt d a b => decide (d < 64 ∧ a < 64 ∧ b < 64)
  | .sltu d a b => decide (d < 64 ∧ a < 64 ∧ b < 64)
  | .seq d a b => decide (d < 64 ∧ a < 64 ∧ b < 64)
  | .min d a b => decide (d < 64 ∧ a < 64 ∧ b < 64)
  | .max d a b => decide (d < 64 ∧ a < 64 ∧ b < 64)
  | .minu d a b => decide (d < 64 ∧ a < 64 ∧ b < 64)
  | .maxu d a b => decide (d < 64 ∧ a < 64 ∧ b < 64)
  | .clz d a => decide (d < 64 ∧ a < 64)
  | .popc d a => decide (d < 64 ∧ a < 64)
  | .addi d a i => decide (d < 64 ∧ a < 64 ∧ -2048 ≤ i ∧ i < 2048)
  | .andi d a i => decide (d < 64 ∧ a < 64 ∧ -2048 ≤ i ∧ i < 2048)
  | .ori d a i => decide (d < 64 ∧ a < 64 ∧ -2048 ≤ i ∧ i < 2048)
  | .xori d a i => decide (d < 64 ∧ a < 64 ∧ -2048 ≤ i ∧ i < 2048)
  | .shli d a n => decide (d < 64 ∧ a < 64 ∧ n < 64)
  | .shri d a n => decide (d < 64 ∧ a < 64 ∧ n < 64)
  | .srai d a n => decide (d < 64 ∧ a < 64 ∧ n < 64)
  | .rori d a n => decide (d < 64 ∧ a < 64 ∧ n < 64)
  | .lui d i => decide (d < 64 ∧ -131072 ≤ i ∧ i < 131072)
  | .seqi d a i => decide (d < 64 ∧ a < 64 ∧ -512 ≤ i ∧ i < 512)
  | .slti d a i => decide (d < 64 ∧ a < 64 ∧ -512 ≤ i ∧ i < 512)
  | .sltiu d a i => decide (d < 64 ∧ a < 64 ∧ -512 ≤ i ∧ i < 512)
  | .sgti d a i => decide (d < 64 ∧ a < 64 ∧ -512 ≤ i ∧ i < 512)
  | .pspace d a k => decide (d < 64 ∧ a < 64 ∧ k < 8)
  | .prank d a b => decide (d < 64 ∧ a < 64 ∧ b < 64)
  | .ppol d a p => decide (d < 64 ∧ a < 64 ∧ p < 2)
  | .pget d a k => decide (d < 64 ∧ a < 64 ∧ k < 4)
  | .vadd f t => decide (f.vs2 < 32 ∧ f.vs1 < 32 ∧ f.vd < 32 ∧ f.vb < 8 ∧ f.pr < 16 ∧ t < 4 ∧ f.pr ≠ 8)
  | .vsub f t => decide (f.vs2 < 32 ∧ f.vs1 < 32 ∧ f.vd < 32 ∧ f.vb < 8 ∧ f.pr < 16 ∧ t < 4 ∧ f.pr ≠ 8)
  | .vmul f t => decide (f.vs2 < 32 ∧ f.vs1 < 32 ∧ f.vd < 32 ∧ f.vb < 8 ∧ f.pr < 16 ∧ t < 4 ∧ f.pr ≠ 8)
  | .vmulhI f => decide (f.vs2 < 32 ∧ f.vs1 < 32 ∧ f.vd < 32 ∧ f.vb < 8 ∧ f.pr < 16 ∧ f.pr ≠ 8)
  | .vmulhN f => decide (f.vs2 < 32 ∧ f.vs1 < 32 ∧ f.vd < 32 ∧ f.vb < 8 ∧ f.pr < 16 ∧ f.pr ≠ 8)
  | .vmulhIn f => decide (f.vs2 < 32 ∧ f.vs1 < 32 ∧ f.vd < 32 ∧ f.vb < 8 ∧ f.pr < 16 ∧ f.pr ≠ 8)
  | .vminI f => decide (f.vs2 < 32 ∧ f.vs1 < 32 ∧ f.vd < 32 ∧ f.vb < 8 ∧ f.pr < 16 ∧ f.pr ≠ 8)
  | .vminN f => decide (f.vs2 < 32 ∧ f.vs1 < 32 ∧ f.vd < 32 ∧ f.vb < 8 ∧ f.pr < 16 ∧ f.pr ≠ 8)
  | .vmaxI f => decide (f.vs2 < 32 ∧ f.vs1 < 32 ∧ f.vd < 32 ∧ f.vb < 8 ∧ f.pr < 16 ∧ f.pr ≠ 8)
  | .vmaxN f => decide (f.vs2 < 32 ∧ f.vs1 < 32 ∧ f.vd < 32 ∧ f.vb < 8 ∧ f.pr < 16 ∧ f.pr ≠ 8)
  | .vaddsI f => decide (f.vs2 < 32 ∧ f.vs1 < 32 ∧ f.vd < 32 ∧ f.vb < 8 ∧ f.pr < 16 ∧ f.pr ≠ 8)
  | .vaddsN f => decide (f.vs2 < 32 ∧ f.vs1 < 32 ∧ f.vd < 32 ∧ f.vb < 8 ∧ f.pr < 16 ∧ f.pr ≠ 8)
  | .vavgI f => decide (f.vs2 < 32 ∧ f.vs1 < 32 ∧ f.vd < 32 ∧ f.vb < 8 ∧ f.pr < 16 ∧ f.pr ≠ 8)
  | .vavgN f => decide (f.vs2 < 32 ∧ f.vs1 < 32 ∧ f.vd < 32 ∧ f.vb < 8 ∧ f.pr < 16 ∧ f.pr ≠ 8)
  | .vsubsI f => decide (f.vs2 < 32 ∧ f.vs1 < 32 ∧ f.vd < 32 ∧ f.vb < 8 ∧ f.pr < 16 ∧ f.pr ≠ 8)
  | .vsubsN f => decide (f.vs2 < 32 ∧ f.vs1 < 32 ∧ f.vd < 32 ∧ f.vb < 8 ∧ f.pr < 16 ∧ f.pr ≠ 8)
  | .vabsdI f => decide (f.vs2 < 32 ∧ f.vs1 < 32 ∧ f.vd < 32 ∧ f.vb < 8 ∧ f.pr < 16 ∧ f.pr ≠ 8)
  | .vabsdN f => decide (f.vs2 < 32 ∧ f.vs1 < 32 ∧ f.vd < 32 ∧ f.vb < 8 ∧ f.pr < 16 ∧ f.pr ≠ 8)
  | .vand f => decide (f.vs2 < 32 ∧ f.vs1 < 32 ∧ f.vd < 32 ∧ f.vb < 8 ∧ f.pr < 16 ∧ f.pr ≠ 8)
  | .vor f => decide (f.vs2 < 32 ∧ f.vs1 < 32 ∧ f.vd < 32 ∧ f.vb < 8 ∧ f.pr < 16 ∧ f.pr ≠ 8)
  | .vxor f => decide (f.vs2 < 32 ∧ f.vs1 < 32 ∧ f.vd < 32 ∧ f.vb < 8 ∧ f.pr < 16 ∧ f.pr ≠ 8)
  | .vandn f => decide (f.vs2 < 32 ∧ f.vs1 < 32 ∧ f.vd < 32 ∧ f.vb < 8 ∧ f.pr < 16 ∧ f.pr ≠ 8)
  | .vshlVector f => decide (f.vs2 < 32 ∧ f.vs1 < 32 ∧ f.vd < 32 ∧ f.vb < 8 ∧ f.pr < 16 ∧ f.pr ≠ 8)
  | .vsrlVector f => decide (f.vs2 < 32 ∧ f.vs1 < 32 ∧ f.vd < 32 ∧ f.vb < 8 ∧ f.pr < 16 ∧ f.pr ≠ 8)
  | .vsraVector f => decide (f.vs2 < 32 ∧ f.vs1 < 32 ∧ f.vd < 32 ∧ f.vb < 8 ∧ f.pr < 16 ∧ f.pr ≠ 8)
  | .vrsraVector f => decide (f.vs2 < 32 ∧ f.vs1 < 32 ∧ f.vd < 32 ∧ f.vb < 8 ∧ f.pr < 16 ∧ f.pr ≠ 8)
  | .vshlScalar f => decide (f.vs2 < 32 ∧ f.vs1 < 32 ∧ f.vd < 32 ∧ f.vb < 8 ∧ f.pr < 16 ∧ f.pr ≠ 8)
  | .vsrlScalar f => decide (f.vs2 < 32 ∧ f.vs1 < 32 ∧ f.vd < 32 ∧ f.vb < 8 ∧ f.pr < 16 ∧ f.pr ≠ 8)
  | .vsraScalar f => decide (f.vs2 < 32 ∧ f.vs1 < 32 ∧ f.vd < 32 ∧ f.vb < 8 ∧ f.pr < 16 ∧ f.pr ≠ 8)
  | .vrsraScalar f => decide (f.vs2 < 32 ∧ f.vs1 < 32 ∧ f.vd < 32 ∧ f.vb < 8 ∧ f.pr < 16 ∧ f.pr ≠ 8)
  | .vshlImm f => decide (f.vs2 < 32 ∧ f.vs1 < 32 ∧ f.vd < 32 ∧ f.vb < 8 ∧ f.pr < 16 ∧ f.pr ≠ 8)
  | .vsrlImm f => decide (f.vs2 < 32 ∧ f.vs1 < 32 ∧ f.vd < 32 ∧ f.vb < 8 ∧ f.pr < 16 ∧ f.pr ≠ 8)
  | .vsraImm f => decide (f.vs2 < 32 ∧ f.vs1 < 32 ∧ f.vd < 32 ∧ f.vb < 8 ∧ f.pr < 16 ∧ f.pr ≠ 8)
  | .vrsraImm f => decide (f.vs2 < 32 ∧ f.vs1 < 32 ∧ f.vd < 32 ∧ f.vb < 8 ∧ f.pr < 16 ∧ f.pr ≠ 8)
  | .vcmpeq f => decide (f.vs2 < 32 ∧ f.vs1 < 32 ∧ f.vd < 16 ∧ f.vb < 8 ∧ f.pr < 16 ∧ f.pr ≠ 8)
  | .vcmpne f => decide (f.vs2 < 32 ∧ f.vs1 < 32 ∧ f.vd < 16 ∧ f.vb < 8 ∧ f.pr < 16 ∧ f.pr ≠ 8)
  | .vcmpltI f => decide (f.vs2 < 32 ∧ f.vs1 < 32 ∧ f.vd < 16 ∧ f.vb < 8 ∧ f.pr < 16 ∧ f.pr ≠ 8)
  | .vcmpltN f => decide (f.vs2 < 32 ∧ f.vs1 < 32 ∧ f.vd < 16 ∧ f.vb < 8 ∧ f.pr < 16 ∧ f.pr ≠ 8)
  | .vpmac2I16x2 f => decide (f.vs2 < 32 ∧ f.vs1 < 32 ∧ f.vd < 32 ∧ f.vb < 8 ∧ f.pr < 16 ∧ f.pr ≠ 8)
  | .vpmac2I16x2Scalar f => decide (f.vs2 < 32 ∧ f.vs1 < 32 ∧ f.vd < 32 ∧ f.vb < 8 ∧ f.pr < 16 ∧ f.pr ≠ 8)
  | .vpaddsI16x2 f => decide (f.vs2 < 32 ∧ f.vs1 < 32 ∧ f.vd < 32 ∧ f.vb < 8 ∧ f.pr < 16 ∧ f.pr ≠ 8)
  | .vmac f => decide (f.vs2 < 32 ∧ f.vs1 < 32 ∧ f.vd < 32 ∧ f.vb < 8 ∧ f.pr < 16 ∧ f.pr ≠ 8)
  | .vaddScalar f => decide (f.vs2 < 32 ∧ f.vs1 < 32 ∧ f.vd < 32 ∧ f.vb < 8 ∧ f.pr < 16 ∧ f.pr ≠ 8)
  | .vsubScalar f => decide (f.vs2 < 32 ∧ f.vs1 < 32 ∧ f.vd < 32 ∧ f.vb < 8 ∧ f.pr < 16 ∧ f.pr ≠ 8)
  | .vrsub f => decide (f.vs2 < 32 ∧ f.vs1 < 32 ∧ f.vd < 32 ∧ f.vb < 8 ∧ f.pr < 16 ∧ f.pr ≠ 8)
  | .vmulScalar f => decide (f.vs2 < 32 ∧ f.vs1 < 32 ∧ f.vd < 32 ∧ f.vb < 8 ∧ f.pr < 16 ∧ f.pr ≠ 8)
  | .vsel f => decide (f.vs2 < 32 ∧ f.vs1 < 32 ∧ f.vd < 32 ∧ f.vb < 8 ∧ f.pr < 16 ∧ f.pr ≠ 8 ∧ f.pr ≠ 0)
  | .vsplat s d b p => decide (s < 32 ∧ d < 32 ∧ b < 8 ∧ p < 16 ∧ p ≠ 8)
  | .vid d b p => decide (d < 32 ∧ b < 8 ∧ p < 16 ∧ p ≠ 8)
  | .vaddF f t => decide (f.vs2 < 32 ∧ f.vs1 < 32 ∧ f.vd < 32 ∧ f.vb < 8 ∧ f.pr < 16 ∧ t < 4 ∧ f.pr ≠ 8)
  | .vsubF f t => decide (f.vs2 < 32 ∧ f.vs1 < 32 ∧ f.vd < 32 ∧ f.vb < 8 ∧ f.pr < 16 ∧ t < 4 ∧ f.pr ≠ 8)
  | .vmulF f t => decide (f.vs2 < 32 ∧ f.vs1 < 32 ∧ f.vd < 32 ∧ f.vb < 8 ∧ f.pr < 16 ∧ t < 4 ∧ f.pr ≠ 8)
  | .vdivF f t => decide (f.vs2 < 32 ∧ f.vs1 < 32 ∧ f.vd < 32 ∧ f.vb < 8 ∧ f.pr < 16 ∧ t < 4 ∧ f.pr ≠ 8)
  | .vfmaF f t => decide (f.vs2 < 32 ∧ f.vs1 < 32 ∧ f.vd < 32 ∧ f.vb < 8 ∧ f.pr < 16 ∧ t < 4 ∧ f.pr ≠ 8)
  | .vfmsF f t => decide (f.vs2 < 32 ∧ f.vs1 < 32 ∧ f.vd < 32 ∧ f.vb < 8 ∧ f.pr < 16 ∧ t < 4 ∧ f.pr ≠ 8)
  | .vfnmaF f t => decide (f.vs2 < 32 ∧ f.vs1 < 32 ∧ f.vd < 32 ∧ f.vb < 8 ∧ f.pr < 16 ∧ t < 4 ∧ f.pr ≠ 8)
  | .vminF f t => decide (f.vs2 < 32 ∧ f.vs1 < 32 ∧ f.vd < 32 ∧ f.vb < 8 ∧ f.pr < 16 ∧ t < 4 ∧ f.pr ≠ 8)
  | .vmaxF f t => decide (f.vs2 < 32 ∧ f.vs1 < 32 ∧ f.vd < 32 ∧ f.vb < 8 ∧ f.pr < 16 ∧ t < 4 ∧ f.pr ≠ 8)
  | .vfcmpeq f => decide (f.vs2 < 32 ∧ f.vs1 < 32 ∧ f.vd < 16 ∧ f.vb < 8 ∧ f.pr < 16 ∧ f.pr ≠ 8)
  | .vfcmplt f => decide (f.vs2 < 32 ∧ f.vs1 < 32 ∧ f.vd < 16 ∧ f.vb < 8 ∧ f.pr < 16 ∧ f.pr ≠ 8)
  | .vfcmple f => decide (f.vs2 < 32 ∧ f.vs1 < 32 ∧ f.vd < 16 ∧ f.vb < 8 ∧ f.pr < 16 ∧ f.pr ≠ 8)
  | .vfcmpun f => decide (f.vs2 < 32 ∧ f.vs1 < 32 ∧ f.vd < 16 ∧ f.vb < 8 ∧ f.pr < 16 ∧ f.pr ≠ 8)
  | .vsqrt f => decide (f.a < 256 ∧ f.b < 256 ∧ f.ia < 2 ∧ f.ib < 2 ∧ f.pr < 16 ∧ f.pr ≠ 8 ∧ (f.ia = 1 → f.a < 64) ∧ (f.ib = 1 → f.b < 64))
  | .vabs f => decide (f.a < 256 ∧ f.b < 256 ∧ f.ia < 2 ∧ f.ib < 2 ∧ f.pr < 16 ∧ f.pr ≠ 8 ∧ (f.ia = 1 → f.a < 64) ∧ (f.ib = 1 → f.b < 64))
  | .vneg f => decide (f.a < 256 ∧ f.b < 256 ∧ f.ia < 2 ∧ f.ib < 2 ∧ f.pr < 16 ∧ f.pr ≠ 8 ∧ (f.ia = 1 → f.a < 64) ∧ (f.ib = 1 → f.b < 64))
  | .vclass f => decide (f.a < 256 ∧ f.b < 256 ∧ f.ia < 2 ∧ f.ib < 2 ∧ f.pr < 16 ∧ f.pr ≠ 8 ∧ (f.ia = 1 → f.a < 64) ∧ (f.ib = 1 → f.b < 64))
  | .vaddFScalar f => decide (f.vs2 < 32 ∧ f.vs1 < 32 ∧ f.vd < 32 ∧ f.vb < 8 ∧ f.pr < 16 ∧ f.pr ≠ 8)
  | .vmulFScalar f => decide (f.vs2 < 32 ∧ f.vs1 < 32 ∧ f.vd < 32 ∧ f.vb < 8 ∧ f.pr < 16 ∧ f.pr ≠ 8)
  | .vfmaFScalar f => decide (f.vs2 < 32 ∧ f.vs1 < 32 ∧ f.vd < 32 ∧ f.vb < 8 ∧ f.pr < 16 ∧ f.pr ≠ 8)
  | .vsubFScalar f => decide (f.vs2 < 32 ∧ f.vs1 < 32 ∧ f.vd < 32 ∧ f.vb < 8 ∧ f.pr < 16 ∧ f.pr ≠ 8)
  | .vaddBf16x2 f => decide (f.vs2 < 32 ∧ f.vs1 < 32 ∧ f.vd < 32 ∧ f.vb < 8 ∧ f.pr < 16 ∧ f.pr ≠ 8)
  | .vsubBf16x2 f => decide (f.vs2 < 32 ∧ f.vs1 < 32 ∧ f.vd < 32 ∧ f.vb < 8 ∧ f.pr < 16 ∧ f.pr ≠ 8)
  | .vmulBf16x2 f => decide (f.vs2 < 32 ∧ f.vs1 < 32 ∧ f.vd < 32 ∧ f.vb < 8 ∧ f.pr < 16 ∧ f.pr ≠ 8)
  | .vfmaBf16x2 f => decide (f.vs2 < 32 ∧ f.vs1 < 32 ∧ f.vd < 32 ∧ f.vb < 8 ∧ f.pr < 16 ∧ f.pr ≠ 8)
  | .vfcvt f t => decide (f.a < 256 ∧ f.b < 256 ∧ f.ia < 2 ∧ f.ib < 2 ∧ f.pr < 16 ∧ t < 4 ∧ f.pr ≠ 8 ∧ (f.ia = 1 → f.a < 64) ∧ (f.ib = 1 → f.b < 64))
  | .vfcvtI f => decide (f.a < 256 ∧ f.b < 256 ∧ f.ia < 2 ∧ f.ib < 2 ∧ f.pr < 16 ∧ f.pr ≠ 8 ∧ (f.ia = 1 → f.a < 64) ∧ (f.ib = 1 → f.b < 64))
  | .vfcvtN f => decide (f.a < 256 ∧ f.b < 256 ∧ f.ia < 2 ∧ f.ib < 2 ∧ f.pr < 16 ∧ f.pr ≠ 8 ∧ (f.ia = 1 → f.a < 64) ∧ (f.ib = 1 → f.b < 64))
  | .vfcvtzI f => decide (f.a < 256 ∧ f.b < 256 ∧ f.ia < 2 ∧ f.ib < 2 ∧ f.pr < 16 ∧ f.pr ≠ 8 ∧ (f.ia = 1 → f.a < 64) ∧ (f.ib = 1 → f.b < 64))
  | .vfcvtzN f => decide (f.a < 256 ∧ f.b < 256 ∧ f.ia < 2 ∧ f.ib < 2 ∧ f.pr < 16 ∧ f.pr ≠ 8 ∧ (f.ia = 1 → f.a < 64) ∧ (f.ib = 1 → f.b < 64))
  | .vicvtI f => decide (f.a < 256 ∧ f.b < 256 ∧ f.ia < 2 ∧ f.ib < 2 ∧ f.pr < 16 ∧ f.pr ≠ 8 ∧ (f.ia = 1 → f.a < 64) ∧ (f.ib = 1 → f.b < 64))
  | .vicvtN f => decide (f.a < 256 ∧ f.b < 256 ∧ f.ia < 2 ∧ f.ib < 2 ∧ f.pr < 16 ∧ f.pr ≠ 8 ∧ (f.ia = 1 → f.a < 64) ∧ (f.ib = 1 → f.b < 64))
  | .vsext f => decide (f.a < 256 ∧ f.b < 256 ∧ f.ia < 2 ∧ f.ib < 2 ∧ f.pr < 16 ∧ f.pr ≠ 8 ∧ (f.ia = 1 → f.a < 64) ∧ (f.ib = 1 → f.b < 64))
  | .vzext f => decide (f.a < 256 ∧ f.b < 256 ∧ f.ia < 2 ∧ f.ib < 2 ∧ f.pr < 16 ∧ f.pr ≠ 8 ∧ (f.ia = 1 → f.a < 64) ∧ (f.ib = 1 → f.b < 64))
  | .vnarrow f => decide (f.a < 256 ∧ f.b < 256 ∧ f.ia < 2 ∧ f.ib < 2 ∧ f.pr < 16 ∧ f.pr ≠ 8 ∧ (f.ia = 1 → f.a < 64) ∧ (f.ib = 1 → f.b < 64))
  | .vnarrows f => decide (f.a < 256 ∧ f.b < 256 ∧ f.ia < 2 ∧ f.ib < 2 ∧ f.pr < 16 ∧ f.pr ≠ 8 ∧ (f.ia = 1 → f.a < 64) ∧ (f.ib = 1 → f.b < 64))
  | .vmxcvtToMx f t => decide (f.a < 256 ∧ f.b < 256 ∧ f.ia < 2 ∧ f.ib < 2 ∧ f.pr = 0 ∧ t < 4 ∧ (f.ia = 1 → f.a < 64) ∧ (f.ib = 1 → f.b < 64))
  | .vmxcvtFromMx f t => decide (f.a < 256 ∧ f.b < 256 ∧ f.ia < 2 ∧ f.ib < 2 ∧ f.pr = 0 ∧ t < 4 ∧ (f.ia = 1 → f.a < 64) ∧ (f.ib = 1 → f.b < 64))
  | .vmxcvtMxint8F32 f => decide (f.a < 256 ∧ f.b < 256 ∧ f.ia < 2 ∧ f.ib < 2 ∧ f.pr = 0 ∧ (f.ia = 1 → f.a < 64) ∧ (f.ib = 1 → f.b < 64))
  | .vmxcvtF32Mxint8 f => decide (f.a < 256 ∧ f.b < 256 ∧ f.ia < 2 ∧ f.ib < 2 ∧ f.pr = 0 ∧ (f.ia = 1 → f.a < 64) ∧ (f.ib = 1 → f.b < 64))
  | .vbfpcvtBfp8F32 f => decide (f.a < 256 ∧ f.b < 256 ∧ f.ia < 2 ∧ f.ib < 2 ∧ f.pr = 0 ∧ (f.ia = 1 → f.a < 64) ∧ (f.ib = 1 → f.b < 64))
  | .vbfpcvtF32Bfp8 f => decide (f.a < 256 ∧ f.b < 256 ∧ f.ia < 2 ∧ f.ib < 2 ∧ f.pr = 0 ∧ (f.ia = 1 → f.a < 64) ∧ (f.ib = 1 → f.b < 64))
  | .vexp2 f => decide (f.a < 256 ∧ f.b < 256 ∧ f.ia < 2 ∧ f.ib < 2 ∧ f.pr < 16 ∧ f.pr ≠ 8 ∧ (f.ia = 1 → f.a < 64) ∧ (f.ib = 1 → f.b < 64))
  | .vlog2 f => decide (f.a < 256 ∧ f.b < 256 ∧ f.ia < 2 ∧ f.ib < 2 ∧ f.pr < 16 ∧ f.pr ≠ 8 ∧ (f.ia = 1 → f.a < 64) ∧ (f.ib = 1 → f.b < 64))
  | .vexp f => decide (f.a < 256 ∧ f.b < 256 ∧ f.ia < 2 ∧ f.ib < 2 ∧ f.pr < 16 ∧ f.pr ≠ 8 ∧ (f.ia = 1 → f.a < 64) ∧ (f.ib = 1 → f.b < 64))
  | .vlog f => decide (f.a < 256 ∧ f.b < 256 ∧ f.ia < 2 ∧ f.ib < 2 ∧ f.pr < 16 ∧ f.pr ≠ 8 ∧ (f.ia = 1 → f.a < 64) ∧ (f.ib = 1 → f.b < 64))
  | .vrcp f => decide (f.a < 256 ∧ f.b < 256 ∧ f.ia < 2 ∧ f.ib < 2 ∧ f.pr < 16 ∧ f.pr ≠ 8 ∧ (f.ia = 1 → f.a < 64) ∧ (f.ib = 1 → f.b < 64))
  | .vrsq f => decide (f.a < 256 ∧ f.b < 256 ∧ f.ia < 2 ∧ f.ib < 2 ∧ f.pr < 16 ∧ f.pr ≠ 8 ∧ (f.ia = 1 → f.a < 64) ∧ (f.ib = 1 → f.b < 64))
  | .vtanh f => decide (f.a < 256 ∧ f.b < 256 ∧ f.ia < 2 ∧ f.ib < 2 ∧ f.pr < 16 ∧ f.pr ≠ 8 ∧ (f.ia = 1 → f.a < 64) ∧ (f.ib = 1 → f.b < 64))
  | .vsin f => decide (f.a < 256 ∧ f.b < 256 ∧ f.ia < 2 ∧ f.ib < 2 ∧ f.pr < 16 ∧ f.pr ≠ 8 ∧ (f.ia = 1 → f.a < 64) ∧ (f.ib = 1 → f.b < 64))
  | .vcos f => decide (f.a < 256 ∧ f.b < 256 ∧ f.ia < 2 ∧ f.ib < 2 ∧ f.pr < 16 ∧ f.pr ≠ 8 ∧ (f.ia = 1 → f.a < 64) ∧ (f.ib = 1 → f.b < 64))
  | .vmovW f => decide (f.a < 256 ∧ f.b < 256 ∧ f.ia < 2 ∧ f.ib < 2 ∧ f.pr < 16 ∧ f.pr ≠ 8 ∧ (f.ia = 1 → f.a < 64) ∧ (f.ib = 1 → f.b < 64))
  | .vscget f => decide (f.a < 256 ∧ f.b < 256 ∧ f.ia < 2 ∧ f.ib < 2 ∧ f.pr = 0 ∧ (f.ia = 1 → f.a < 64) ∧ (f.ib = 1 → f.b < 64))
  | .vscput f => decide (f.a < 256 ∧ f.b < 256 ∧ f.ia < 2 ∧ f.ib < 2 ∧ f.pr = 0 ∧ (f.ia = 1 → f.a < 64) ∧ (f.ib = 1 → f.b < 64))
  | .vslidedn d m s k => decide (d < 64 ∧ m < 16 ∧ s < 64 ∧ k < 4)
  | .vslideup d m s k => decide (d < 64 ∧ m < 16 ∧ s < 64 ∧ k < 4)
  | .vperm d m s => decide (d < 64 ∧ m < 16 ∧ s < 64)
  | .vrev d m s => decide (d < 64 ∧ m < 16 ∧ s < 64)
  | .vredsum d m s => decide (d < 64 ∧ m < 16 ∧ s < 64)
  | .vredmaxI d m s => decide (d < 64 ∧ m < 16 ∧ s < 64)
  | .vredmaxN d m s => decide (d < 64 ∧ m < 16 ∧ s < 64)
  | .vredminI d m s => decide (d < 64 ∧ m < 16 ∧ s < 64)
  | .vredminN d m s => decide (d < 64 ∧ m < 16 ∧ s < 64)
  | .vredand d m s => decide (d < 64 ∧ m < 16 ∧ s < 64)
  | .vredor d m s => decide (d < 64 ∧ m < 16 ∧ s < 64)
  | .vredsumF d m s => decide (d < 64 ∧ m < 16 ∧ s < 64)
  | .vredmaxF d m s => decide (d < 64 ∧ m < 16 ∧ s < 64)
  | .vredminF d m s => decide (d < 64 ∧ m < 16 ∧ s < 64)
  | .vscansum d m => decide (d < 64 ∧ m < 16)
  | .vscansumF d m => decide (d < 64 ∧ m < 16)
  | .vscanmaxI d m => decide (d < 64 ∧ m < 16)
  | .vexscansum d m => decide (d < 64 ∧ m < 16)
  | .vqxX1 d m => decide (d < 64 ∧ m < 16)
  | .vqxX2 d m => decide (d < 64 ∧ m < 16)
  | .vqxX3 d m => decide (d < 64 ∧ m < 16)
  | .vqxB0 d m => decide (d < 64 ∧ m < 16)
  | .vqxB1 d m => decide (d < 64 ∧ m < 16)
  | .vqxB2 d m => decide (d < 64 ∧ m < 16)
  | .vqxB3 d m => decide (d < 64 ∧ m < 16)
  | .mxlda d c s k => decide (d < 256 ∧ c < 4 ∧ s < 64 ∧ k < 16 ∧ c < 2)
  | .mxldb d c s k => decide (d < 256 ∧ c < 4 ∧ s < 64 ∧ k < 16 ∧ c < 2)
  | .mxlds d c s k => decide (d < 256 ∧ c < 4 ∧ s < 64 ∧ k < 16 ∧ c < 3)
  | .mxstep z c k => decide (z < 256 ∧ c < 64 ∧ k < 16 ∧ z < 10 ∧ c < 63)
  | .mxloop z c k => decide (z < 256 ∧ c < 64 ∧ k < 16 ∧ z < 10 ∧ c < 63)
  | .mxspstep z c k => decide (z < 256 ∧ c < 64 ∧ k < 16 ∧ z < 10 ∧ c < 63)
  | .mxsploop z c k => decide (z < 256 ∧ c < 64 ∧ k < 16 ∧ z < 10 ∧ c < 63)
  | .mxrdz v p k => decide (v < 256 ∧ p < 64 ∧ k < 16)
  | .mxwrz v p k => decide (v < 256 ∧ p < 64 ∧ k < 16)
  | .mxtred z n k => decide (z < 256 ∧ n < 8 ∧ k < 16 ∧ z < 10)
  | .mxtmov z n k => decide (z < 256 ∧ n < 8 ∧ k < 16 ∧ z < 10)
  | .mxelog d n => decide (d < 64 ∧ n < 16)
  | .mxestat d => decide (d < 64)
  | .mxeclr => true
  | .wfwd t k => decide (t < 64 ∧ k < 16)
  | .winv t k => decide (t < 64 ∧ k < 16)
  | .wthr t k => decide (t < 64 ∧ k < 16)
  | .wthset n a => decide (n < 8 ∧ a < 64)
  | .wst t b k => decide (t < 64 ∧ b < 64 ∧ k < 16)
  | .wld t b k => decide (t < 64 ∧ b < 64 ∧ k < 16)
  | .wldRaw t b k => decide (t < 64 ∧ b < 64 ∧ k < 16 ∧ b ≠ 63)
  | .wtag t g k => decide (t < 64 ∧ g < 256 ∧ k < 16 ∧ wtagOk g)
  | .wcnt d n => decide (d < 64 ∧ n < 16)
  | .ljoin v r b => decide (v < 64 ∧ r < 2 ∧ b < 64)
  | .ljoinV v r b => decide (v < 256 ∧ r < 2 ∧ b < 64 ∧ v < 255)
  | .lput v r b k => decide (v < 64 ∧ r < 2 ∧ b < 64 ∧ k < 16)
  | .lputV v r b k => decide (v < 256 ∧ r < 2 ∧ b < 64 ∧ k < 16 ∧ v < 255)
  | .lget d q b k => decide (d < 64 ∧ q < 2 ∧ b < 64 ∧ k < 16)
  | .lgetV d q b k => decide (d < 256 ∧ q < 2 ∧ b < 64 ∧ k < 16 ∧ d < 255)
  | .lwait d q b k => decide (d < 64 ∧ q < 2 ∧ b < 64 ∧ k < 16 ∧ d ≠ 0 ∧ d ≠ 63)
  | .lxsched d a => decide (d < 64 ∧ a < 64)
  | .lxnow k => decide (k < 16)
  | .ltype d b k => decide (d < 64 ∧ b < 64 ∧ k < 16)
  | .lclr b k => decide (b < 64 ∧ k < 16)
  | .ldv f => decide (f.vr < 32 ∧ f.vx < 32 ∧ f.vb < 8 ∧ f.sb < 32 ∧ f.tk < 16 ∧ f.pm < 4 ∧ f.pm ≠ 3)
  | .stv f => decide (f.vr < 32 ∧ f.vx < 32 ∧ f.vb < 8 ∧ f.sb < 32 ∧ f.tk = 0 ∧ f.pm < 4 ∧ f.pm ≠ 3)
  | .ldg f => decide (f.vr < 32 ∧ f.vx < 32 ∧ f.vb < 8 ∧ f.sb < 32 ∧ f.tk < 16 ∧ f.pm < 4 ∧ f.pm ≠ 3)
  | .stg f => decide (f.vr < 32 ∧ f.vx < 32 ∧ f.vb < 8 ∧ f.sb < 32 ∧ f.tk = 0 ∧ f.pm < 4 ∧ f.pm ≠ 3)
  | .ldff f => decide (f.vr < 32 ∧ f.vx < 32 ∧ f.vb < 8 ∧ f.sb < 32 ∧ f.tk < 16 ∧ f.pm < 4 ∧ f.pm ≠ 3)
  | .ldr r m b s k p => decide (r < 32 ∧ m < 16 ∧ b < 8 ∧ s < 32 ∧ k < 16 ∧ p < 4 ∧ p ≠ 3)
  | .ld d b k i => decide (d < 64 ∧ b < 64 ∧ k < 16 ∧ -128 ≤ i ∧ i < 128)
  | .st d b i => decide (d < 64 ∧ b < 64 ∧ -128 ≤ i ∧ i < 128)
  | .atAdd f => decide (f.vr < 32 ∧ f.vx < 32 ∧ f.vb < 8 ∧ f.sb < 32 ∧ f.tk < 16)
  | .atSwap f => decide (f.vr < 32 ∧ f.vx < 32 ∧ f.vb < 8 ∧ f.sb < 32 ∧ f.tk < 16)
  | .atCas f => decide (f.vr < 32 ∧ f.vx < 32 ∧ f.vb < 8 ∧ f.sb < 32 ∧ f.tk < 16)
  | .atFadd f => decide (f.vr < 32 ∧ f.vx < 32 ∧ f.vb < 8 ∧ f.sb < 32 ∧ f.tk < 16)
  | .atAnd f => decide (f.vr < 32 ∧ f.vx < 32 ∧ f.vb < 8 ∧ f.sb < 32 ∧ f.tk < 16)
  | .atOr f => decide (f.vr < 32 ∧ f.vx < 32 ∧ f.vb < 8 ∧ f.sb < 32 ∧ f.tk < 16)
  | .atMax f => decide (f.vr < 32 ∧ f.vx < 32 ∧ f.vb < 8 ∧ f.sb < 32 ∧ f.tk < 16)
  | .atMaxu f => decide (f.vr < 32 ∧ f.vx < 32 ∧ f.vb < 8 ∧ f.sb < 32 ∧ f.tk < 16)
  | .fenceAcq c => decide (c < 8 ∧ c < 7)
  | .fenceRel c => decide (c < 8 ∧ c < 7)
  | .fenceAr c => decide (c < 8 ∧ c < 7)
  | .fenceSc c => decide (c < 8 ∧ c < 7)
  | .fenceAck k => decide (k < 16)
  | .lda d m b k => decide (d < 64 ∧ m < 8 ∧ b < 64 ∧ k < 16 ∧ m < 7)
  | .ldaSc d m b k => decide (d < 64 ∧ m < 8 ∧ b < 64 ∧ k < 16 ∧ m < 7)
  | .stl d m b => decide (d < 64 ∧ m < 8 ∧ b < 64 ∧ m < 7)
  | .stlSc d m b => decide (d < 64 ∧ m < 8 ∧ b < 64 ∧ m < 7)
  | .ldb v m i k => decide (v < 64 ∧ m < 16 ∧ i < 64 ∧ k < 16)
  | .stb v m i => decide (v < 64 ∧ m < 16 ∧ i < 64)
  | .cbload w k s t => decide (w < 8 ∧ k < 4 ∧ s < 64 ∧ t < 16)
  | .ldcb d k s t => decide (d < 256 ∧ k < 4 ∧ s < 64 ∧ t < 16)
  | .pref c l s => decide (c < 256 ∧ l < 2 ∧ s < 64)
  | .mcnt d k => decide (d < 64 ∧ k < 8)
  | .pagereq b k => decide (b < 64 ∧ k < 16)
  | .pagereqW b k => decide (b < 64 ∧ k < 16)
  | .pagehint b => decide (b < 64)
  | .pagehintW b => decide (b < 64)
  | .pagerel b k => decide (b < 64 ∧ k < 16)
  | .cp s q k => decide (s < 64 ∧ q < 64 ∧ k < 16)
  | .cp2d s q k => decide (s < 64 ∧ q < 64 ∧ k < 16)
  | .cpfill s q k => decide (s < 64 ∧ q < 64 ∧ k < 16)
  | .cpver s q k => decide (s < 64 ∧ q < 64 ∧ k < 16)
  | .cpwp d h => decide (d < 64 ∧ h < 8)
  | .cpwpClr d h => decide (d < 64 ∧ h < 8)
  | .cpnum d => decide (d < 64)
  | .cpseed h a => decide (h < 8 ∧ a < 64)
  | .cproot k b t => decide (k < 16 ∧ b < 64 ∧ t < 16)
  | .cprootClr k t => decide (k < 16 ∧ t < 16)
  | .fxstat d => decide (d < 64)
  | .fxclr a => decide (a < 64)
  | .fxrank d => decide (d < 64)
  | .fxpath d a => decide (d < 64 ∧ a < 64)
  | .fxsto d b => decide (d < 64 ∧ b < 64)
  | .fxstoRel d b => decide (d < 64 ∧ b < 64)
  | .fxcnt d k => decide (d < 64 ∧ k < 8)

end Sys2Proof
end

