-- ==== Sys2Proof/Decode.lean ====
section
/-! DEFINITION. From bytes to instructions, and back: `decode` is total and rejects by name, `encode` is written from the
same formats. `noncomputable` marks what builds a constructor numbered above 244: Lean's compiler has no code for those
(its runtime's tag limit); the kernel evaluates every definition here. -/

namespace Sys2Proof

/-- Why bytes are no instruction (R72). -/
inductive DecodeError where
  /-- Fewer bytes than the instruction's length. -/
  | truncated
  /-- A reserved major opcode. -/
  | reservedMajor
  /-- A minor value the major does not list. -/
  | reservedMinor
  /-- A must-be-zero bit that is set. -/
  | mustBeZero
  /-- PR = 8, PM = 3, or a missing predicate that is required. -/
  | reservedPredicate
  /-- An indirect operand whose bits 7:6 are not zero. -/
  | indirect
  /-- A field value the entry reserves. -/
  | reservedValue
  deriving DecidableEq, Repr

/-- Major 0x00 (R71). -/
def decodeM00 (w : Nat) : Except DecodeError Instr :=
  match w / 256 % 64 with
  | 0 =>
    if (w / 16384 % 262144) ≠ 0 then .error .mustBeZero else
    .ok (.nop)
  | 1 =>
    if (w / 16384 % 262144) ≠ 0 then .error .mustBeZero else
    .ok (.exit)
  | 2 =>
    if (w / 16384 % 262144) ≠ 0 then .error .mustBeZero else
    .ok (.tret)
  | 3 =>
    if (w / 16384 % 4096) ≠ 0 then .error .mustBeZero else
    .ok (.brk (w / 67108864 % 64))
  | 4 =>
    if (w / 16384 % 262144) ≠ 0 then .error .mustBeZero else
    .ok (.waitdep)
  | 5 =>
    if (w / 16384 % 262144) ≠ 0 then .error .mustBeZero else
    .ok (.trigger)
  | 6 =>
    if (w / 16384 % 4096) ≠ 0 then .error .mustBeZero else
    .ok (.tkrd (w / 67108864 % 64))
  | _ => .error .reservedMinor

/-- Major 0x01 (R71). -/
def decodeM01 (w : Nat) : Except DecodeError Instr :=
  match w / 8192 % 2 with
  | 0 =>
    if (w / 256 % 32) ≠ 0 then .error .mustBeZero else
    .ok (.bra (sext 18 (w / 16384 % 262144)))
  | 1 =>
    .ok (.call (sext 18 (w / 16384 % 262144)) (w / 256 % 32))
  | _ => .error .reservedMinor

/-- Major 0x02 (R71). -/
def decodeM02 (w : Nat) : Except DecodeError Instr :=
  match w / 4096 % 4 with
  | 0 =>
    .ok (.brm (sext 18 (w / 16384 % 262144)) (w / 256 % 16))
  | 1 =>
    .ok (.brmz (sext 18 (w / 16384 % 262144)) (w / 256 % 16))
  | 2 =>
    .ok (.brany (sext 18 (w / 16384 % 262144)) (w / 256 % 16))
  | 3 =>
    .ok (.brall (sext 18 (w / 16384 % 262144)) (w / 256 % 16))
  | _ => .error .reservedMinor

/-- Major 0x03 (R71). -/
def decodeM03 (w : Nat) : Except DecodeError Instr :=
  match w / 8192 % 2 with
  | 0 =>
    .ok (.bnz (sext 18 (w / 16384 % 262144)) (w / 256 % 32))
  | 1 =>
    .ok (.bz (sext 18 (w / 16384 % 262144)) (w / 256 % 32))
  | _ => .error .reservedMinor

/-- Major 0x04 (R71). -/
def decodeM04 (w : Nat) : Except DecodeError Instr :=
  match w / 256 % 64 with
  | 0 =>
    if (w / 16384 % 4096) ≠ 0 then .error .mustBeZero else
    .ok (.jmp (w / 67108864 % 64))
  | 1 =>
    if (w / 16384 % 4096) ≠ 0 then .error .mustBeZero else
    .ok (.jmpv (w / 67108864 % 64))
  | 2 =>
    if (w / 16384 % 64) ≠ 0 then .error .mustBeZero else
    .ok (.calli (w / 67108864 % 64) (w / 1048576 % 64))
  | 3 =>
    if (w / 16384 % 64) ≠ 0 then .error .mustBeZero else
    .ok (.callv (w / 67108864 % 64) (w / 1048576 % 64))
  | _ => .error .reservedMinor

/-- Major 0x05 (R71). -/
def decodeM05 (w : Nat) : Except DecodeError Instr :=
  match w / 256 % 64 with
  | 0 =>
    if 5 ≤ (w / 16384 % 8) then .error .reservedValue else
    .ok (.setvl (w / 67108864 % 64) (w / 1048576 % 64) (w / 524288 % 2) (w / 131072 % 4) (w / 16384 % 8))
  | 1 =>
    .ok (.setvlr (w / 67108864 % 64) (w / 1048576 % 64) (w / 16384 % 64))
  | _ => .error .reservedMinor

/-- Major 0x06 (R71). -/
def decodeM06 (w : Nat) : Except DecodeError Instr :=
  match w / 256 % 64 with
  | 0 =>
    if (w / 262144 % 4) ≠ 0 then .error .mustBeZero else
    if (w / 16777216 % 4) ≠ 0 then .error .mustBeZero else
    if (w / 1073741824 % 4) ≠ 0 then .error .mustBeZero else
    .ok (.mand (w / 67108864 % 16) (w / 1048576 % 16) (w / 16384 % 16))
  | 1 =>
    if (w / 262144 % 4) ≠ 0 then .error .mustBeZero else
    if (w / 16777216 % 4) ≠ 0 then .error .mustBeZero else
    if (w / 1073741824 % 4) ≠ 0 then .error .mustBeZero else
    .ok (.mor (w / 67108864 % 16) (w / 1048576 % 16) (w / 16384 % 16))
  | 2 =>
    if (w / 262144 % 4) ≠ 0 then .error .mustBeZero else
    if (w / 16777216 % 4) ≠ 0 then .error .mustBeZero else
    if (w / 1073741824 % 4) ≠ 0 then .error .mustBeZero else
    .ok (.mxor (w / 67108864 % 16) (w / 1048576 % 16) (w / 16384 % 16))
  | 3 =>
    if (w / 262144 % 4) ≠ 0 then .error .mustBeZero else
    if (w / 16777216 % 4) ≠ 0 then .error .mustBeZero else
    if (w / 1073741824 % 4) ≠ 0 then .error .mustBeZero else
    .ok (.mandn (w / 67108864 % 16) (w / 1048576 % 16) (w / 16384 % 16))
  | 4 =>
    if (w / 262144 % 4) ≠ 0 then .error .mustBeZero else
    if (w / 16777216 % 4) ≠ 0 then .error .mustBeZero else
    if (w / 1073741824 % 4) ≠ 0 then .error .mustBeZero else
    .ok (.morn (w / 67108864 % 16) (w / 1048576 % 16) (w / 16384 % 16))
  | 5 =>
    if (w / 16384 % 64) ≠ 0 then .error .mustBeZero else
    if (w / 16777216 % 4) ≠ 0 then .error .mustBeZero else
    if (w / 1073741824 % 4) ≠ 0 then .error .mustBeZero else
    .ok (.mnot (w / 67108864 % 16) (w / 1048576 % 16))
  | 6 =>
    if (w / 16384 % 64) ≠ 0 then .error .mustBeZero else
    if (w / 16777216 % 4) ≠ 0 then .error .mustBeZero else
    if (w / 1073741824 % 4) ≠ 0 then .error .mustBeZero else
    .ok (.mmov (w / 67108864 % 16) (w / 1048576 % 16))
  | 7 =>
    if (w / 16384 % 4096) ≠ 0 then .error .mustBeZero else
    if (w / 1073741824 % 4) ≠ 0 then .error .mustBeZero else
    .ok (.mvl (w / 67108864 % 16))
  | 8 =>
    if (w / 16384 % 4096) ≠ 0 then .error .mustBeZero else
    if (w / 1073741824 % 4) ≠ 0 then .error .mustBeZero else
    .ok (.mact (w / 67108864 % 16))
  | 9 =>
    if (w / 16384 % 64) ≠ 0 then .error .mustBeZero else
    if (w / 16777216 % 4) ≠ 0 then .error .mustBeZero else
    .ok (.mpop (w / 67108864 % 64) (w / 1048576 % 16))
  | 10 =>
    if (w / 16384 % 64) ≠ 0 then .error .mustBeZero else
    if (w / 16777216 % 4) ≠ 0 then .error .mustBeZero else
    .ok (.mfirst (w / 67108864 % 64) (w / 1048576 % 16))
  | 11 =>
    if (w / 16777216 % 4) ≠ 0 then .error .mustBeZero else
    if 16 ≤ (w / 16384 % 64) then .error .reservedValue else
    .ok (.mrds (w / 67108864 % 64) (w / 1048576 % 16) (w / 16384 % 64))
  | 12 =>
    if (w / 1073741824 % 4) ≠ 0 then .error .mustBeZero else
    if 16 ≤ (w / 16384 % 64) then .error .reservedValue else
    .ok (.mwrs (w / 67108864 % 16) (w / 1048576 % 64) (w / 16384 % 64))
  | _ => .error .reservedMinor

/-- Major 0x07 (R71). -/
def decodeM07 (w : Nat) : Except DecodeError Instr :=
  match w / 256 % 64 with
  | 0 =>
    if (w / 1073741824 % 4) ≠ 0 then .error .mustBeZero else
    .ok (.barArrive (w / 67108864 % 16) (w / 1048576 % 64) (w / 16384 % 64))
  | 1 =>
    if (w / 16384 % 64) ≠ 0 then .error .mustBeZero else
    if (w / 1073741824 % 4) ≠ 0 then .error .mustBeZero else
    .ok (.barCharge (w / 67108864 % 16) (w / 1048576 % 64))
  | 2 =>
    if (w / 16384 % 64) ≠ 0 then .error .mustBeZero else
    if (w / 1073741824 % 4) ≠ 0 then .error .mustBeZero else
    .ok (.barWait (w / 67108864 % 16) (w / 1048576 % 64))
  | _ => .error .reservedMinor

/-- Major 0x08 (R71). -/
def decodeM08 (w : Nat) : Except DecodeError Instr :=
  match w / 256 % 64 with
  | 0 =>
    if (w / 16384 % 64) ≠ 0 then .error .mustBeZero else
    if (w / 16777216 % 4) ≠ 0 then .error .mustBeZero else
    if (w / 536870912 % 8) ≠ 0 then .error .mustBeZero else
    .ok (.stgArrive (w / 67108864 % 8) (w / 1048576 % 16))
  | 1 =>
    if (w / 32768 % 32) ≠ 0 then .error .mustBeZero else
    if (w / 16777216 % 4) ≠ 0 then .error .mustBeZero else
    if (w / 536870912 % 8) ≠ 0 then .error .mustBeZero else
    .ok (.stgWait (w / 67108864 % 8) (w / 1048576 % 16) (w / 16384 % 2))
  | _ => .error .reservedMinor

/-- Major 0x09 (R71). -/
def decodeM09 (w : Nat) : Except DecodeError Instr :=
  match w / 256 % 64 with
  | 0 =>
    if (w / 16384 % 64) ≠ 0 then .error .mustBeZero else
    if ¬ (csrNumber (w / 1048576 % 64)) then .error .reservedValue else
    .ok (.csrr (w / 67108864 % 64) (w / 1048576 % 64))
  | 1 =>
    if (w / 16384 % 64) ≠ 0 then .error .mustBeZero else
    if ¬ (csrNumber (w / 1048576 % 64)) then .error .reservedValue else
    .ok (.csrw (w / 67108864 % 64) (w / 1048576 % 64))
  | 2 =>
    if (w / 16384 % 64) ≠ 0 then .error .mustBeZero else
    if ¬ (csrNumber (w / 1048576 % 64)) then .error .reservedValue else
    .ok (.csrset (w / 67108864 % 64) (w / 1048576 % 64))
  | 3 =>
    if (w / 16384 % 64) ≠ 0 then .error .mustBeZero else
    if ¬ (csrNumber (w / 1048576 % 64)) then .error .reservedValue else
    .ok (.csrclr (w / 67108864 % 64) (w / 1048576 % 64))
  | 4 =>
    if (w / 1048576 % 64) ≠ 0 then .error .mustBeZero else
    if 8 ≤ (w / 16384 % 64) then .error .reservedValue else
    .ok (.rdts (w / 67108864 % 64) (w / 16384 % 64))
  | 5 =>
    if (w / 1048576 % 64) ≠ 0 then .error .mustBeZero else
    if 8 ≤ (w / 16384 % 64) then .error .reservedValue else
    .ok (.wrts (w / 67108864 % 64) (w / 16384 % 64))
  | 6 =>
    if (w / 16384 % 4096) ≠ 0 then .error .mustBeZero else
    .ok (.rdvpc (w / 67108864 % 64))
  | _ => .error .reservedMinor

/-- Major 0x0A (R71). -/
def decodeM0A (w : Nat) : Except DecodeError Instr :=
  match w / 256 % 64 with
  | 0 =>
    if (w / 16384 % 64) ≠ 0 then .error .mustBeZero else
    .ok (.tlbiVa (w / 67108864 % 64) (w / 1048576 % 64))
  | 1 =>
    if (w / 16384 % 4096) ≠ 0 then .error .mustBeZero else
    .ok (.tlbiAsid (w / 67108864 % 64))
  | 2 =>
    if (w / 16384 % 262144) ≠ 0 then .error .mustBeZero else
    .ok (.ptsync)
  | _ => .error .reservedMinor

/-- Major 0x10 (R71). -/
def decodeM10 (w : Nat) : Except DecodeError Instr :=
  match w / 256 % 64 with
  | 0 =>
    .ok (.add (w / 67108864 % 64) (w / 1048576 % 64) (w / 16384 % 64))
  | 1 =>
    .ok (.sub (w / 67108864 % 64) (w / 1048576 % 64) (w / 16384 % 64))
  | 2 =>
    .ok (.mul (w / 67108864 % 64) (w / 1048576 % 64) (w / 16384 % 64))
  | 3 =>
    .ok (.mulh (w / 67108864 % 64) (w / 1048576 % 64) (w / 16384 % 64))
  | 4 =>
    .ok (.mulhu (w / 67108864 % 64) (w / 1048576 % 64) (w / 16384 % 64))
  | 5 =>
    .ok (.div (w / 67108864 % 64) (w / 1048576 % 64) (w / 16384 % 64))
  | 6 =>
    .ok (.divu (w / 67108864 % 64) (w / 1048576 % 64) (w / 16384 % 64))
  | 7 =>
    .ok (.rem (w / 67108864 % 64) (w / 1048576 % 64) (w / 16384 % 64))
  | 8 =>
    .ok (.remu (w / 67108864 % 64) (w / 1048576 % 64) (w / 16384 % 64))
  | 9 =>
    .ok (.and (w / 67108864 % 64) (w / 1048576 % 64) (w / 16384 % 64))
  | 10 =>
    .ok (.or (w / 67108864 % 64) (w / 1048576 % 64) (w / 16384 % 64))
  | 11 =>
    .ok (.xor (w / 67108864 % 64) (w / 1048576 % 64) (w / 16384 % 64))
  | 12 =>
    .ok (.andn (w / 67108864 % 64) (w / 1048576 % 64) (w / 16384 % 64))
  | 13 =>
    .ok (.shl (w / 67108864 % 64) (w / 1048576 % 64) (w / 16384 % 64))
  | 14 =>
    .ok (.shr (w / 67108864 % 64) (w / 1048576 % 64) (w / 16384 % 64))
  | 15 =>
    .ok (.sra (w / 67108864 % 64) (w / 1048576 % 64) (w / 16384 % 64))
  | 16 =>
    .ok (.ror (w / 67108864 % 64) (w / 1048576 % 64) (w / 16384 % 64))
  | 17 =>
    .ok (.slt (w / 67108864 % 64) (w / 1048576 % 64) (w / 16384 % 64))
  | 18 =>
    .ok (.sltu (w / 67108864 % 64) (w / 1048576 % 64) (w / 16384 % 64))
  | 19 =>
    .ok (.seq (w / 67108864 % 64) (w / 1048576 % 64) (w / 16384 % 64))
  | 20 =>
    .ok (.min (w / 67108864 % 64) (w / 1048576 % 64) (w / 16384 % 64))
  | 21 =>
    .ok (.max (w / 67108864 % 64) (w / 1048576 % 64) (w / 16384 % 64))
  | 22 =>
    .ok (.minu (w / 67108864 % 64) (w / 1048576 % 64) (w / 16384 % 64))
  | 23 =>
    .ok (.maxu (w / 67108864 % 64) (w / 1048576 % 64) (w / 16384 % 64))
  | 24 =>
    if (w / 16384 % 64) ≠ 0 then .error .mustBeZero else
    .ok (.clz (w / 67108864 % 64) (w / 1048576 % 64))
  | 25 =>
    if (w / 16384 % 64) ≠ 0 then .error .mustBeZero else
    .ok (.popc (w / 67108864 % 64) (w / 1048576 % 64))
  | _ => .error .reservedMinor

/-- Major 0x11 (R71). -/
def decodeM11 (w : Nat) : Except DecodeError Instr :=
  .ok (.addi (w / 67108864 % 64) (w / 1048576 % 64) (sext 12 (w / 256 % 4096)))

/-- Major 0x12 (R71). -/
def decodeM12 (w : Nat) : Except DecodeError Instr :=
  .ok (.andi (w / 67108864 % 64) (w / 1048576 % 64) (sext 12 (w / 256 % 4096)))

/-- Major 0x13 (R71). -/
def decodeM13 (w : Nat) : Except DecodeError Instr :=
  .ok (.ori (w / 67108864 % 64) (w / 1048576 % 64) (sext 12 (w / 256 % 4096)))

/-- Major 0x14 (R71). -/
def decodeM14 (w : Nat) : Except DecodeError Instr :=
  .ok (.xori (w / 67108864 % 64) (w / 1048576 % 64) (sext 12 (w / 256 % 4096)))

/-- Major 0x15 (R71). -/
def decodeM15 (w : Nat) : Except DecodeError Instr :=
  match w / 16384 % 4 with
  | 0 =>
    if (w / 65536 % 16) ≠ 0 then .error .mustBeZero else
    .ok (.shli (w / 67108864 % 64) (w / 1048576 % 64) (w / 256 % 64))
  | 1 =>
    if (w / 65536 % 16) ≠ 0 then .error .mustBeZero else
    .ok (.shri (w / 67108864 % 64) (w / 1048576 % 64) (w / 256 % 64))
  | 2 =>
    if (w / 65536 % 16) ≠ 0 then .error .mustBeZero else
    .ok (.srai (w / 67108864 % 64) (w / 1048576 % 64) (w / 256 % 64))
  | 3 =>
    if (w / 65536 % 16) ≠ 0 then .error .mustBeZero else
    .ok (.rori (w / 67108864 % 64) (w / 1048576 % 64) (w / 256 % 64))
  | _ => .error .reservedMinor

/-- Major 0x16 (R71). -/
def decodeM16 (w : Nat) : Except DecodeError Instr :=
  .ok (.lui (w / 67108864 % 64) (sext 18 (w / 256 % 262144)))

/-- Major 0x17 (R71). -/
def decodeM17 (w : Nat) : Except DecodeError Instr :=
  match w / 262144 % 4 with
  | 0 =>
    .ok (.seqi (w / 67108864 % 64) (w / 1048576 % 64) (sext 10 (w / 256 % 1024)))
  | 1 =>
    .ok (.slti (w / 67108864 % 64) (w / 1048576 % 64) (sext 10 (w / 256 % 1024)))
  | 2 =>
    .ok (.sltiu (w / 67108864 % 64) (w / 1048576 % 64) (sext 10 (w / 256 % 1024)))
  | 3 =>
    .ok (.sgti (w / 67108864 % 64) (w / 1048576 % 64) (sext 10 (w / 256 % 1024)))
  | _ => .error .reservedMinor

/-- Major 0x18 (R71). -/
def decodeM18 (w : Nat) : Except DecodeError Instr :=
  match w / 256 % 64 with
  | 0 =>
    if (w / 131072 % 8) ≠ 0 then .error .mustBeZero else
    .ok (.pspace (w / 67108864 % 64) (w / 1048576 % 64) (w / 16384 % 8))
  | 1 =>
    .ok (.prank (w / 67108864 % 64) (w / 1048576 % 64) (w / 16384 % 64))
  | 2 =>
    if (w / 32768 % 32) ≠ 0 then .error .mustBeZero else
    .ok (.ppol (w / 67108864 % 64) (w / 1048576 % 64) (w / 16384 % 2))
  | 3 =>
    if (w / 65536 % 16) ≠ 0 then .error .mustBeZero else
    .ok (.pget (w / 67108864 % 64) (w / 1048576 % 64) (w / 16384 % 4))
  | _ => .error .reservedMinor

/-- Major 0x20 (R71). -/
def decodeM20 (w : Nat) : Except DecodeError Instr :=
  if (w / 1024 % 16) = 8 then .error .reservedPredicate else
  .ok (.vadd ⟨(w / 134217728 % 32), (w / 4194304 % 32), (w / 131072 % 32), (w / 16384 % 8), (w / 1024 % 16)⟩ (w / 256 % 4))

/-- Major 0x21 (R71). -/
def decodeM21 (w : Nat) : Except DecodeError Instr :=
  if (w / 1024 % 16) = 8 then .error .reservedPredicate else
  .ok (.vsub ⟨(w / 134217728 % 32), (w / 4194304 % 32), (w / 131072 % 32), (w / 16384 % 8), (w / 1024 % 16)⟩ (w / 256 % 4))

/-- Major 0x22 (R71). -/
def decodeM22 (w : Nat) : Except DecodeError Instr :=
  if (w / 1024 % 16) = 8 then .error .reservedPredicate else
  .ok (.vmul ⟨(w / 134217728 % 32), (w / 4194304 % 32), (w / 131072 % 32), (w / 16384 % 8), (w / 1024 % 16)⟩ (w / 256 % 4))

/-- Major 0x23 (R71). -/
def decodeM23 (w : Nat) : Except DecodeError Instr :=
  match w / 256 % 4 with
  | 0 =>
    if (w / 1024 % 16) = 8 then .error .reservedPredicate else
    .ok (.vmulhI ⟨(w / 134217728 % 32), (w / 4194304 % 32), (w / 131072 % 32), (w / 16384 % 8), (w / 1024 % 16)⟩)
  | 1 =>
    if (w / 1024 % 16) = 8 then .error .reservedPredicate else
    .ok (.vmulhN ⟨(w / 134217728 % 32), (w / 4194304 % 32), (w / 131072 % 32), (w / 16384 % 8), (w / 1024 % 16)⟩)
  | 2 =>
    if (w / 1024 % 16) = 8 then .error .reservedPredicate else
    .ok (.vmulhIn ⟨(w / 134217728 % 32), (w / 4194304 % 32), (w / 131072 % 32), (w / 16384 % 8), (w / 1024 % 16)⟩)
  | _ => .error .reservedMinor

/-- Major 0x24 (R71). -/
def decodeM24 (w : Nat) : Except DecodeError Instr :=
  match w / 256 % 4 with
  | 0 =>
    if (w / 1024 % 16) = 8 then .error .reservedPredicate else
    .ok (.vminI ⟨(w / 134217728 % 32), (w / 4194304 % 32), (w / 131072 % 32), (w / 16384 % 8), (w / 1024 % 16)⟩)
  | 1 =>
    if (w / 1024 % 16) = 8 then .error .reservedPredicate else
    .ok (.vminN ⟨(w / 134217728 % 32), (w / 4194304 % 32), (w / 131072 % 32), (w / 16384 % 8), (w / 1024 % 16)⟩)
  | _ => .error .reservedMinor

/-- Major 0x25 (R71). -/
def decodeM25 (w : Nat) : Except DecodeError Instr :=
  match w / 256 % 4 with
  | 0 =>
    if (w / 1024 % 16) = 8 then .error .reservedPredicate else
    .ok (.vmaxI ⟨(w / 134217728 % 32), (w / 4194304 % 32), (w / 131072 % 32), (w / 16384 % 8), (w / 1024 % 16)⟩)
  | 1 =>
    if (w / 1024 % 16) = 8 then .error .reservedPredicate else
    .ok (.vmaxN ⟨(w / 134217728 % 32), (w / 4194304 % 32), (w / 131072 % 32), (w / 16384 % 8), (w / 1024 % 16)⟩)
  | _ => .error .reservedMinor

/-- Major 0x26 (R71). -/
def decodeM26 (w : Nat) : Except DecodeError Instr :=
  match w / 256 % 4 with
  | 0 =>
    if (w / 1024 % 16) = 8 then .error .reservedPredicate else
    .ok (.vaddsI ⟨(w / 134217728 % 32), (w / 4194304 % 32), (w / 131072 % 32), (w / 16384 % 8), (w / 1024 % 16)⟩)
  | 1 =>
    if (w / 1024 % 16) = 8 then .error .reservedPredicate else
    .ok (.vaddsN ⟨(w / 134217728 % 32), (w / 4194304 % 32), (w / 131072 % 32), (w / 16384 % 8), (w / 1024 % 16)⟩)
  | 2 =>
    if (w / 1024 % 16) = 8 then .error .reservedPredicate else
    .ok (.vavgI ⟨(w / 134217728 % 32), (w / 4194304 % 32), (w / 131072 % 32), (w / 16384 % 8), (w / 1024 % 16)⟩)
  | 3 =>
    if (w / 1024 % 16) = 8 then .error .reservedPredicate else
    .ok (.vavgN ⟨(w / 134217728 % 32), (w / 4194304 % 32), (w / 131072 % 32), (w / 16384 % 8), (w / 1024 % 16)⟩)
  | _ => .error .reservedMinor

/-- Major 0x27 (R71). -/
noncomputable def decodeM27 (w : Nat) : Except DecodeError Instr :=
  match w / 256 % 4 with
  | 0 =>
    if (w / 1024 % 16) = 8 then .error .reservedPredicate else
    .ok (.vsubsI ⟨(w / 134217728 % 32), (w / 4194304 % 32), (w / 131072 % 32), (w / 16384 % 8), (w / 1024 % 16)⟩)
  | 1 =>
    if (w / 1024 % 16) = 8 then .error .reservedPredicate else
    .ok (.vsubsN ⟨(w / 134217728 % 32), (w / 4194304 % 32), (w / 131072 % 32), (w / 16384 % 8), (w / 1024 % 16)⟩)
  | 2 =>
    if (w / 1024 % 16) = 8 then .error .reservedPredicate else
    .ok (.vabsdI ⟨(w / 134217728 % 32), (w / 4194304 % 32), (w / 131072 % 32), (w / 16384 % 8), (w / 1024 % 16)⟩)
  | 3 =>
    if (w / 1024 % 16) = 8 then .error .reservedPredicate else
    .ok (.vabsdN ⟨(w / 134217728 % 32), (w / 4194304 % 32), (w / 131072 % 32), (w / 16384 % 8), (w / 1024 % 16)⟩)
  | _ => .error .reservedMinor

/-- Major 0x28 (R71). -/
noncomputable def decodeM28 (w : Nat) : Except DecodeError Instr :=
  match w / 256 % 4 with
  | 0 =>
    if (w / 1024 % 16) = 8 then .error .reservedPredicate else
    .ok (.vand ⟨(w / 134217728 % 32), (w / 4194304 % 32), (w / 131072 % 32), (w / 16384 % 8), (w / 1024 % 16)⟩)
  | 1 =>
    if (w / 1024 % 16) = 8 then .error .reservedPredicate else
    .ok (.vor ⟨(w / 134217728 % 32), (w / 4194304 % 32), (w / 131072 % 32), (w / 16384 % 8), (w / 1024 % 16)⟩)
  | 2 =>
    if (w / 1024 % 16) = 8 then .error .reservedPredicate else
    .ok (.vxor ⟨(w / 134217728 % 32), (w / 4194304 % 32), (w / 131072 % 32), (w / 16384 % 8), (w / 1024 % 16)⟩)
  | 3 =>
    if (w / 1024 % 16) = 8 then .error .reservedPredicate else
    .ok (.vandn ⟨(w / 134217728 % 32), (w / 4194304 % 32), (w / 131072 % 32), (w / 16384 % 8), (w / 1024 % 16)⟩)
  | _ => .error .reservedMinor

/-- Major 0x29 (R71). -/
noncomputable def decodeM29 (w : Nat) : Except DecodeError Instr :=
  match w / 256 % 4 with
  | 0 =>
    if (w / 1024 % 16) = 8 then .error .reservedPredicate else
    .ok (.vshlVector ⟨(w / 134217728 % 32), (w / 4194304 % 32), (w / 131072 % 32), (w / 16384 % 8), (w / 1024 % 16)⟩)
  | 1 =>
    if (w / 1024 % 16) = 8 then .error .reservedPredicate else
    .ok (.vsrlVector ⟨(w / 134217728 % 32), (w / 4194304 % 32), (w / 131072 % 32), (w / 16384 % 8), (w / 1024 % 16)⟩)
  | 2 =>
    if (w / 1024 % 16) = 8 then .error .reservedPredicate else
    .ok (.vsraVector ⟨(w / 134217728 % 32), (w / 4194304 % 32), (w / 131072 % 32), (w / 16384 % 8), (w / 1024 % 16)⟩)
  | 3 =>
    if (w / 1024 % 16) = 8 then .error .reservedPredicate else
    .ok (.vrsraVector ⟨(w / 134217728 % 32), (w / 4194304 % 32), (w / 131072 % 32), (w / 16384 % 8), (w / 1024 % 16)⟩)
  | _ => .error .reservedMinor

/-- Major 0x2A (R71). -/
noncomputable def decodeM2A (w : Nat) : Except DecodeError Instr :=
  match w / 256 % 4 with
  | 0 =>
    if (w / 1024 % 16) = 8 then .error .reservedPredicate else
    .ok (.vshlScalar ⟨(w / 134217728 % 32), (w / 4194304 % 32), (w / 131072 % 32), (w / 16384 % 8), (w / 1024 % 16)⟩)
  | 1 =>
    if (w / 1024 % 16) = 8 then .error .reservedPredicate else
    .ok (.vsrlScalar ⟨(w / 134217728 % 32), (w / 4194304 % 32), (w / 131072 % 32), (w / 16384 % 8), (w / 1024 % 16)⟩)
  | 2 =>
    if (w / 1024 % 16) = 8 then .error .reservedPredicate else
    .ok (.vsraScalar ⟨(w / 134217728 % 32), (w / 4194304 % 32), (w / 131072 % 32), (w / 16384 % 8), (w / 1024 % 16)⟩)
  | 3 =>
    if (w / 1024 % 16) = 8 then .error .reservedPredicate else
    .ok (.vrsraScalar ⟨(w / 134217728 % 32), (w / 4194304 % 32), (w / 131072 % 32), (w / 16384 % 8), (w / 1024 % 16)⟩)
  | _ => .error .reservedMinor

/-- Major 0x2B (R71). -/
noncomputable def decodeM2B (w : Nat) : Except DecodeError Instr :=
  match w / 256 % 4 with
  | 0 =>
    if (w / 1024 % 16) = 8 then .error .reservedPredicate else
    .ok (.vshlImm ⟨(w / 134217728 % 32), (w / 4194304 % 32), (w / 131072 % 32), (w / 16384 % 8), (w / 1024 % 16)⟩)
  | 1 =>
    if (w / 1024 % 16) = 8 then .error .reservedPredicate else
    .ok (.vsrlImm ⟨(w / 134217728 % 32), (w / 4194304 % 32), (w / 131072 % 32), (w / 16384 % 8), (w / 1024 % 16)⟩)
  | 2 =>
    if (w / 1024 % 16) = 8 then .error .reservedPredicate else
    .ok (.vsraImm ⟨(w / 134217728 % 32), (w / 4194304 % 32), (w / 131072 % 32), (w / 16384 % 8), (w / 1024 % 16)⟩)
  | 3 =>
    if (w / 1024 % 16) = 8 then .error .reservedPredicate else
    .ok (.vrsraImm ⟨(w / 134217728 % 32), (w / 4194304 % 32), (w / 131072 % 32), (w / 16384 % 8), (w / 1024 % 16)⟩)
  | _ => .error .reservedMinor

/-- Major 0x2C (R71). -/
noncomputable def decodeM2C (w : Nat) : Except DecodeError Instr :=
  match w / 256 % 4 with
  | 0 =>
    if (w / 2097152 % 2) ≠ 0 then .error .mustBeZero else
    if (w / 1024 % 16) = 8 then .error .reservedPredicate else
    .ok (.vcmpeq ⟨(w / 134217728 % 32), (w / 4194304 % 32), (w / 131072 % 16), (w / 16384 % 8), (w / 1024 % 16)⟩)
  | 1 =>
    if (w / 2097152 % 2) ≠ 0 then .error .mustBeZero else
    if (w / 1024 % 16) = 8 then .error .reservedPredicate else
    .ok (.vcmpne ⟨(w / 134217728 % 32), (w / 4194304 % 32), (w / 131072 % 16), (w / 16384 % 8), (w / 1024 % 16)⟩)
  | 2 =>
    if (w / 2097152 % 2) ≠ 0 then .error .mustBeZero else
    if (w / 1024 % 16) = 8 then .error .reservedPredicate else
    .ok (.vcmpltI ⟨(w / 134217728 % 32), (w / 4194304 % 32), (w / 131072 % 16), (w / 16384 % 8), (w / 1024 % 16)⟩)
  | 3 =>
    if (w / 2097152 % 2) ≠ 0 then .error .mustBeZero else
    if (w / 1024 % 16) = 8 then .error .reservedPredicate else
    .ok (.vcmpltN ⟨(w / 134217728 % 32), (w / 4194304 % 32), (w / 131072 % 16), (w / 16384 % 8), (w / 1024 % 16)⟩)
  | _ => .error .reservedMinor

/-- Major 0x2D (R71). -/
noncomputable def decodeM2D (w : Nat) : Except DecodeError Instr :=
  match w / 256 % 4 with
  | 0 =>
    if (w / 1024 % 16) = 8 then .error .reservedPredicate else
    .ok (.vpmac2I16x2 ⟨(w / 134217728 % 32), (w / 4194304 % 32), (w / 131072 % 32), (w / 16384 % 8), (w / 1024 % 16)⟩)
  | 1 =>
    if (w / 1024 % 16) = 8 then .error .reservedPredicate else
    .ok (.vpmac2I16x2Scalar ⟨(w / 134217728 % 32), (w / 4194304 % 32), (w / 131072 % 32), (w / 16384 % 8), (w / 1024 % 16)⟩)
  | 2 =>
    if (w / 1024 % 16) = 8 then .error .reservedPredicate else
    .ok (.vpaddsI16x2 ⟨(w / 134217728 % 32), (w / 4194304 % 32), (w / 131072 % 32), (w / 16384 % 8), (w / 1024 % 16)⟩)
  | 3 =>
    if (w / 1024 % 16) = 8 then .error .reservedPredicate else
    .ok (.vmac ⟨(w / 134217728 % 32), (w / 4194304 % 32), (w / 131072 % 32), (w / 16384 % 8), (w / 1024 % 16)⟩)
  | _ => .error .reservedMinor

/-- Major 0x2E (R71). -/
noncomputable def decodeM2E (w : Nat) : Except DecodeError Instr :=
  match w / 256 % 4 with
  | 0 =>
    if (w / 1024 % 16) = 8 then .error .reservedPredicate else
    .ok (.vaddScalar ⟨(w / 134217728 % 32), (w / 4194304 % 32), (w / 131072 % 32), (w / 16384 % 8), (w / 1024 % 16)⟩)
  | 1 =>
    if (w / 1024 % 16) = 8 then .error .reservedPredicate else
    .ok (.vsubScalar ⟨(w / 134217728 % 32), (w / 4194304 % 32), (w / 131072 % 32), (w / 16384 % 8), (w / 1024 % 16)⟩)
  | 2 =>
    if (w / 1024 % 16) = 8 then .error .reservedPredicate else
    .ok (.vrsub ⟨(w / 134217728 % 32), (w / 4194304 % 32), (w / 131072 % 32), (w / 16384 % 8), (w / 1024 % 16)⟩)
  | 3 =>
    if (w / 1024 % 16) = 8 then .error .reservedPredicate else
    .ok (.vmulScalar ⟨(w / 134217728 % 32), (w / 4194304 % 32), (w / 131072 % 32), (w / 16384 % 8), (w / 1024 % 16)⟩)
  | _ => .error .reservedMinor

/-- Major 0x2F (R71). -/
noncomputable def decodeM2F (w : Nat) : Except DecodeError Instr :=
  match w / 256 % 4 with
  | 0 =>
    if (w / 1024 % 16) = 8 then .error .reservedPredicate else
    if (w / 1024 % 16) = 0 then .error .reservedPredicate else
    .ok (.vsel ⟨(w / 134217728 % 32), (w / 4194304 % 32), (w / 131072 % 32), (w / 16384 % 8), (w / 1024 % 16)⟩)
  | 1 =>
    if (w / 1024 % 16) = 8 then .error .reservedPredicate else
    if (w / 4194304 % 32) ≠ 0 then .error .mustBeZero else
    .ok (.vsplat (w / 134217728 % 32) (w / 131072 % 32) (w / 16384 % 8) (w / 1024 % 16))
  | 2 =>
    if (w / 1024 % 16) = 8 then .error .reservedPredicate else
    if (w / 4194304 % 1024) ≠ 0 then .error .mustBeZero else
    .ok (.vid (w / 131072 % 32) (w / 16384 % 8) (w / 1024 % 16))
  | _ => .error .reservedMinor

/-- Major 0x30 (R71). -/
noncomputable def decodeM30 (w : Nat) : Except DecodeError Instr :=
  if (w / 1024 % 16) = 8 then .error .reservedPredicate else
  .ok (.vaddF ⟨(w / 134217728 % 32), (w / 4194304 % 32), (w / 131072 % 32), (w / 16384 % 8), (w / 1024 % 16)⟩ (w / 256 % 4))

/-- Major 0x31 (R71). -/
noncomputable def decodeM31 (w : Nat) : Except DecodeError Instr :=
  if (w / 1024 % 16) = 8 then .error .reservedPredicate else
  .ok (.vsubF ⟨(w / 134217728 % 32), (w / 4194304 % 32), (w / 131072 % 32), (w / 16384 % 8), (w / 1024 % 16)⟩ (w / 256 % 4))

/-- Major 0x32 (R71). -/
noncomputable def decodeM32 (w : Nat) : Except DecodeError Instr :=
  if (w / 1024 % 16) = 8 then .error .reservedPredicate else
  .ok (.vmulF ⟨(w / 134217728 % 32), (w / 4194304 % 32), (w / 131072 % 32), (w / 16384 % 8), (w / 1024 % 16)⟩ (w / 256 % 4))

/-- Major 0x33 (R71). -/
noncomputable def decodeM33 (w : Nat) : Except DecodeError Instr :=
  if (w / 1024 % 16) = 8 then .error .reservedPredicate else
  .ok (.vdivF ⟨(w / 134217728 % 32), (w / 4194304 % 32), (w / 131072 % 32), (w / 16384 % 8), (w / 1024 % 16)⟩ (w / 256 % 4))

/-- Major 0x34 (R71). -/
noncomputable def decodeM34 (w : Nat) : Except DecodeError Instr :=
  if (w / 1024 % 16) = 8 then .error .reservedPredicate else
  .ok (.vfmaF ⟨(w / 134217728 % 32), (w / 4194304 % 32), (w / 131072 % 32), (w / 16384 % 8), (w / 1024 % 16)⟩ (w / 256 % 4))

/-- Major 0x35 (R71). -/
noncomputable def decodeM35 (w : Nat) : Except DecodeError Instr :=
  if (w / 1024 % 16) = 8 then .error .reservedPredicate else
  .ok (.vfmsF ⟨(w / 134217728 % 32), (w / 4194304 % 32), (w / 131072 % 32), (w / 16384 % 8), (w / 1024 % 16)⟩ (w / 256 % 4))

/-- Major 0x36 (R71). -/
noncomputable def decodeM36 (w : Nat) : Except DecodeError Instr :=
  if (w / 1024 % 16) = 8 then .error .reservedPredicate else
  .ok (.vfnmaF ⟨(w / 134217728 % 32), (w / 4194304 % 32), (w / 131072 % 32), (w / 16384 % 8), (w / 1024 % 16)⟩ (w / 256 % 4))

/-- Major 0x37 (R71). -/
noncomputable def decodeM37 (w : Nat) : Except DecodeError Instr :=
  if (w / 1024 % 16) = 8 then .error .reservedPredicate else
  .ok (.vminF ⟨(w / 134217728 % 32), (w / 4194304 % 32), (w / 131072 % 32), (w / 16384 % 8), (w / 1024 % 16)⟩ (w / 256 % 4))

/-- Major 0x38 (R71). -/
noncomputable def decodeM38 (w : Nat) : Except DecodeError Instr :=
  if (w / 1024 % 16) = 8 then .error .reservedPredicate else
  .ok (.vmaxF ⟨(w / 134217728 % 32), (w / 4194304 % 32), (w / 131072 % 32), (w / 16384 % 8), (w / 1024 % 16)⟩ (w / 256 % 4))

/-- Major 0x39 (R71). -/
noncomputable def decodeM39 (w : Nat) : Except DecodeError Instr :=
  match w / 256 % 4 with
  | 0 =>
    if (w / 2097152 % 2) ≠ 0 then .error .mustBeZero else
    if (w / 1024 % 16) = 8 then .error .reservedPredicate else
    .ok (.vfcmpeq ⟨(w / 134217728 % 32), (w / 4194304 % 32), (w / 131072 % 16), (w / 16384 % 8), (w / 1024 % 16)⟩)
  | 1 =>
    if (w / 2097152 % 2) ≠ 0 then .error .mustBeZero else
    if (w / 1024 % 16) = 8 then .error .reservedPredicate else
    .ok (.vfcmplt ⟨(w / 134217728 % 32), (w / 4194304 % 32), (w / 131072 % 16), (w / 16384 % 8), (w / 1024 % 16)⟩)
  | 2 =>
    if (w / 2097152 % 2) ≠ 0 then .error .mustBeZero else
    if (w / 1024 % 16) = 8 then .error .reservedPredicate else
    .ok (.vfcmple ⟨(w / 134217728 % 32), (w / 4194304 % 32), (w / 131072 % 16), (w / 16384 % 8), (w / 1024 % 16)⟩)
  | 3 =>
    if (w / 2097152 % 2) ≠ 0 then .error .mustBeZero else
    if (w / 1024 % 16) = 8 then .error .reservedPredicate else
    .ok (.vfcmpun ⟨(w / 134217728 % 32), (w / 4194304 % 32), (w / 131072 % 16), (w / 16384 % 8), (w / 1024 % 16)⟩)
  | _ => .error .reservedMinor

/-- Major 0x3A (R71). -/
noncomputable def decodeM3A (w : Nat) : Except DecodeError Instr :=
  match w / 256 % 4 with
  | 0 =>
    if (w / 1024 % 16) = 8 then .error .reservedPredicate else
    if (w / 32768 % 2) = 1 ∧ 64 ≤ (w / 16777216 % 256) then .error .indirect else
    if (w / 16384 % 2) = 1 ∧ 64 ≤ (w / 65536 % 256) then .error .indirect else
    .ok (.vsqrt ⟨(w / 16777216 % 256), (w / 65536 % 256), (w / 32768 % 2), (w / 16384 % 2), (w / 1024 % 16)⟩)
  | 1 =>
    if (w / 1024 % 16) = 8 then .error .reservedPredicate else
    if (w / 32768 % 2) = 1 ∧ 64 ≤ (w / 16777216 % 256) then .error .indirect else
    if (w / 16384 % 2) = 1 ∧ 64 ≤ (w / 65536 % 256) then .error .indirect else
    .ok (.vabs ⟨(w / 16777216 % 256), (w / 65536 % 256), (w / 32768 % 2), (w / 16384 % 2), (w / 1024 % 16)⟩)
  | 2 =>
    if (w / 1024 % 16) = 8 then .error .reservedPredicate else
    if (w / 32768 % 2) = 1 ∧ 64 ≤ (w / 16777216 % 256) then .error .indirect else
    if (w / 16384 % 2) = 1 ∧ 64 ≤ (w / 65536 % 256) then .error .indirect else
    .ok (.vneg ⟨(w / 16777216 % 256), (w / 65536 % 256), (w / 32768 % 2), (w / 16384 % 2), (w / 1024 % 16)⟩)
  | 3 =>
    if (w / 1024 % 16) = 8 then .error .reservedPredicate else
    if (w / 32768 % 2) = 1 ∧ 64 ≤ (w / 16777216 % 256) then .error .indirect else
    if (w / 16384 % 2) = 1 ∧ 64 ≤ (w / 65536 % 256) then .error .indirect else
    .ok (.vclass ⟨(w / 16777216 % 256), (w / 65536 % 256), (w / 32768 % 2), (w / 16384 % 2), (w / 1024 % 16)⟩)
  | _ => .error .reservedMinor

/-- Major 0x3B (R71). -/
noncomputable def decodeM3B (w : Nat) : Except DecodeError Instr :=
  match w / 256 % 4 with
  | 0 =>
    if (w / 1024 % 16) = 8 then .error .reservedPredicate else
    .ok (.vaddFScalar ⟨(w / 134217728 % 32), (w / 4194304 % 32), (w / 131072 % 32), (w / 16384 % 8), (w / 1024 % 16)⟩)
  | 1 =>
    if (w / 1024 % 16) = 8 then .error .reservedPredicate else
    .ok (.vmulFScalar ⟨(w / 134217728 % 32), (w / 4194304 % 32), (w / 131072 % 32), (w / 16384 % 8), (w / 1024 % 16)⟩)
  | 2 =>
    if (w / 1024 % 16) = 8 then .error .reservedPredicate else
    .ok (.vfmaFScalar ⟨(w / 134217728 % 32), (w / 4194304 % 32), (w / 131072 % 32), (w / 16384 % 8), (w / 1024 % 16)⟩)
  | 3 =>
    if (w / 1024 % 16) = 8 then .error .reservedPredicate else
    .ok (.vsubFScalar ⟨(w / 134217728 % 32), (w / 4194304 % 32), (w / 131072 % 32), (w / 16384 % 8), (w / 1024 % 16)⟩)
  | _ => .error .reservedMinor

/-- Major 0x3C (R71). -/
noncomputable def decodeM3C (w : Nat) : Except DecodeError Instr :=
  match w / 256 % 4 with
  | 0 =>
    if (w / 1024 % 16) = 8 then .error .reservedPredicate else
    .ok (.vaddBf16x2 ⟨(w / 134217728 % 32), (w / 4194304 % 32), (w / 131072 % 32), (w / 16384 % 8), (w / 1024 % 16)⟩)
  | 1 =>
    if (w / 1024 % 16) = 8 then .error .reservedPredicate else
    .ok (.vsubBf16x2 ⟨(w / 134217728 % 32), (w / 4194304 % 32), (w / 131072 % 32), (w / 16384 % 8), (w / 1024 % 16)⟩)
  | 2 =>
    if (w / 1024 % 16) = 8 then .error .reservedPredicate else
    .ok (.vmulBf16x2 ⟨(w / 134217728 % 32), (w / 4194304 % 32), (w / 131072 % 32), (w / 16384 % 8), (w / 1024 % 16)⟩)
  | 3 =>
    if (w / 1024 % 16) = 8 then .error .reservedPredicate else
    .ok (.vfmaBf16x2 ⟨(w / 134217728 % 32), (w / 4194304 % 32), (w / 131072 % 32), (w / 16384 % 8), (w / 1024 % 16)⟩)
  | _ => .error .reservedMinor

/-- Major 0x40 (R71). -/
noncomputable def decodeM40 (w : Nat) : Except DecodeError Instr :=
  if (w / 1024 % 16) = 8 then .error .reservedPredicate else
  if (w / 32768 % 2) = 1 ∧ 64 ≤ (w / 16777216 % 256) then .error .indirect else
  if (w / 16384 % 2) = 1 ∧ 64 ≤ (w / 65536 % 256) then .error .indirect else
  .ok (.vfcvt ⟨(w / 16777216 % 256), (w / 65536 % 256), (w / 32768 % 2), (w / 16384 % 2), (w / 1024 % 16)⟩ (w / 256 % 4))

/-- Major 0x41 (R71). -/
noncomputable def decodeM41 (w : Nat) : Except DecodeError Instr :=
  match w / 256 % 4 with
  | 0 =>
    if (w / 1024 % 16) = 8 then .error .reservedPredicate else
    if (w / 32768 % 2) = 1 ∧ 64 ≤ (w / 16777216 % 256) then .error .indirect else
    if (w / 16384 % 2) = 1 ∧ 64 ≤ (w / 65536 % 256) then .error .indirect else
    .ok (.vfcvtI ⟨(w / 16777216 % 256), (w / 65536 % 256), (w / 32768 % 2), (w / 16384 % 2), (w / 1024 % 16)⟩)
  | 1 =>
    if (w / 1024 % 16) = 8 then .error .reservedPredicate else
    if (w / 32768 % 2) = 1 ∧ 64 ≤ (w / 16777216 % 256) then .error .indirect else
    if (w / 16384 % 2) = 1 ∧ 64 ≤ (w / 65536 % 256) then .error .indirect else
    .ok (.vfcvtN ⟨(w / 16777216 % 256), (w / 65536 % 256), (w / 32768 % 2), (w / 16384 % 2), (w / 1024 % 16)⟩)
  | 2 =>
    if (w / 1024 % 16) = 8 then .error .reservedPredicate else
    if (w / 32768 % 2) = 1 ∧ 64 ≤ (w / 16777216 % 256) then .error .indirect else
    if (w / 16384 % 2) = 1 ∧ 64 ≤ (w / 65536 % 256) then .error .indirect else
    .ok (.vfcvtzI ⟨(w / 16777216 % 256), (w / 65536 % 256), (w / 32768 % 2), (w / 16384 % 2), (w / 1024 % 16)⟩)
  | 3 =>
    if (w / 1024 % 16) = 8 then .error .reservedPredicate else
    if (w / 32768 % 2) = 1 ∧ 64 ≤ (w / 16777216 % 256) then .error .indirect else
    if (w / 16384 % 2) = 1 ∧ 64 ≤ (w / 65536 % 256) then .error .indirect else
    .ok (.vfcvtzN ⟨(w / 16777216 % 256), (w / 65536 % 256), (w / 32768 % 2), (w / 16384 % 2), (w / 1024 % 16)⟩)
  | _ => .error .reservedMinor

/-- Major 0x42 (R71). -/
noncomputable def decodeM42 (w : Nat) : Except DecodeError Instr :=
  match w / 256 % 4 with
  | 0 =>
    if (w / 1024 % 16) = 8 then .error .reservedPredicate else
    if (w / 32768 % 2) = 1 ∧ 64 ≤ (w / 16777216 % 256) then .error .indirect else
    if (w / 16384 % 2) = 1 ∧ 64 ≤ (w / 65536 % 256) then .error .indirect else
    .ok (.vicvtI ⟨(w / 16777216 % 256), (w / 65536 % 256), (w / 32768 % 2), (w / 16384 % 2), (w / 1024 % 16)⟩)
  | 1 =>
    if (w / 1024 % 16) = 8 then .error .reservedPredicate else
    if (w / 32768 % 2) = 1 ∧ 64 ≤ (w / 16777216 % 256) then .error .indirect else
    if (w / 16384 % 2) = 1 ∧ 64 ≤ (w / 65536 % 256) then .error .indirect else
    .ok (.vicvtN ⟨(w / 16777216 % 256), (w / 65536 % 256), (w / 32768 % 2), (w / 16384 % 2), (w / 1024 % 16)⟩)
  | _ => .error .reservedMinor

/-- Major 0x43 (R71). -/
noncomputable def decodeM43 (w : Nat) : Except DecodeError Instr :=
  match w / 256 % 4 with
  | 0 =>
    if (w / 1024 % 16) = 8 then .error .reservedPredicate else
    if (w / 32768 % 2) = 1 ∧ 64 ≤ (w / 16777216 % 256) then .error .indirect else
    if (w / 16384 % 2) = 1 ∧ 64 ≤ (w / 65536 % 256) then .error .indirect else
    .ok (.vsext ⟨(w / 16777216 % 256), (w / 65536 % 256), (w / 32768 % 2), (w / 16384 % 2), (w / 1024 % 16)⟩)
  | 1 =>
    if (w / 1024 % 16) = 8 then .error .reservedPredicate else
    if (w / 32768 % 2) = 1 ∧ 64 ≤ (w / 16777216 % 256) then .error .indirect else
    if (w / 16384 % 2) = 1 ∧ 64 ≤ (w / 65536 % 256) then .error .indirect else
    .ok (.vzext ⟨(w / 16777216 % 256), (w / 65536 % 256), (w / 32768 % 2), (w / 16384 % 2), (w / 1024 % 16)⟩)
  | 2 =>
    if (w / 1024 % 16) = 8 then .error .reservedPredicate else
    if (w / 32768 % 2) = 1 ∧ 64 ≤ (w / 16777216 % 256) then .error .indirect else
    if (w / 16384 % 2) = 1 ∧ 64 ≤ (w / 65536 % 256) then .error .indirect else
    .ok (.vnarrow ⟨(w / 16777216 % 256), (w / 65536 % 256), (w / 32768 % 2), (w / 16384 % 2), (w / 1024 % 16)⟩)
  | 3 =>
    if (w / 1024 % 16) = 8 then .error .reservedPredicate else
    if (w / 32768 % 2) = 1 ∧ 64 ≤ (w / 16777216 % 256) then .error .indirect else
    if (w / 16384 % 2) = 1 ∧ 64 ≤ (w / 65536 % 256) then .error .indirect else
    .ok (.vnarrows ⟨(w / 16777216 % 256), (w / 65536 % 256), (w / 32768 % 2), (w / 16384 % 2), (w / 1024 % 16)⟩)
  | _ => .error .reservedMinor

/-- Major 0x44 (R71). -/
noncomputable def decodeM44 (w : Nat) : Except DecodeError Instr :=
  if (w / 1024 % 16) ≠ 0 then .error .mustBeZero else
  if (w / 32768 % 2) = 1 ∧ 64 ≤ (w / 16777216 % 256) then .error .indirect else
  if (w / 16384 % 2) = 1 ∧ 64 ≤ (w / 65536 % 256) then .error .indirect else
  .ok (.vmxcvtToMx ⟨(w / 16777216 % 256), (w / 65536 % 256), (w / 32768 % 2), (w / 16384 % 2), 0⟩ (w / 256 % 4))

/-- Major 0x45 (R71). -/
noncomputable def decodeM45 (w : Nat) : Except DecodeError Instr :=
  if (w / 1024 % 16) ≠ 0 then .error .mustBeZero else
  if (w / 32768 % 2) = 1 ∧ 64 ≤ (w / 16777216 % 256) then .error .indirect else
  if (w / 16384 % 2) = 1 ∧ 64 ≤ (w / 65536 % 256) then .error .indirect else
  .ok (.vmxcvtFromMx ⟨(w / 16777216 % 256), (w / 65536 % 256), (w / 32768 % 2), (w / 16384 % 2), 0⟩ (w / 256 % 4))

/-- Major 0x46 (R71). -/
noncomputable def decodeM46 (w : Nat) : Except DecodeError Instr :=
  match w / 256 % 4 with
  | 0 =>
    if (w / 1024 % 16) ≠ 0 then .error .mustBeZero else
    if (w / 32768 % 2) = 1 ∧ 64 ≤ (w / 16777216 % 256) then .error .indirect else
    if (w / 16384 % 2) = 1 ∧ 64 ≤ (w / 65536 % 256) then .error .indirect else
    .ok (.vmxcvtMxint8F32 ⟨(w / 16777216 % 256), (w / 65536 % 256), (w / 32768 % 2), (w / 16384 % 2), 0⟩)
  | 1 =>
    if (w / 1024 % 16) ≠ 0 then .error .mustBeZero else
    if (w / 32768 % 2) = 1 ∧ 64 ≤ (w / 16777216 % 256) then .error .indirect else
    if (w / 16384 % 2) = 1 ∧ 64 ≤ (w / 65536 % 256) then .error .indirect else
    .ok (.vmxcvtF32Mxint8 ⟨(w / 16777216 % 256), (w / 65536 % 256), (w / 32768 % 2), (w / 16384 % 2), 0⟩)
  | 2 =>
    if (w / 1024 % 16) ≠ 0 then .error .mustBeZero else
    if (w / 32768 % 2) = 1 ∧ 64 ≤ (w / 16777216 % 256) then .error .indirect else
    if (w / 16384 % 2) = 1 ∧ 64 ≤ (w / 65536 % 256) then .error .indirect else
    .ok (.vbfpcvtBfp8F32 ⟨(w / 16777216 % 256), (w / 65536 % 256), (w / 32768 % 2), (w / 16384 % 2), 0⟩)
  | 3 =>
    if (w / 1024 % 16) ≠ 0 then .error .mustBeZero else
    if (w / 32768 % 2) = 1 ∧ 64 ≤ (w / 16777216 % 256) then .error .indirect else
    if (w / 16384 % 2) = 1 ∧ 64 ≤ (w / 65536 % 256) then .error .indirect else
    .ok (.vbfpcvtF32Bfp8 ⟨(w / 16777216 % 256), (w / 65536 % 256), (w / 32768 % 2), (w / 16384 % 2), 0⟩)
  | _ => .error .reservedMinor

/-- Major 0x48 (R71). -/
noncomputable def decodeM48 (w : Nat) : Except DecodeError Instr :=
  match w / 256 % 4 with
  | 0 =>
    if (w / 1024 % 16) = 8 then .error .reservedPredicate else
    if (w / 32768 % 2) = 1 ∧ 64 ≤ (w / 16777216 % 256) then .error .indirect else
    if (w / 16384 % 2) = 1 ∧ 64 ≤ (w / 65536 % 256) then .error .indirect else
    .ok (.vexp2 ⟨(w / 16777216 % 256), (w / 65536 % 256), (w / 32768 % 2), (w / 16384 % 2), (w / 1024 % 16)⟩)
  | 1 =>
    if (w / 1024 % 16) = 8 then .error .reservedPredicate else
    if (w / 32768 % 2) = 1 ∧ 64 ≤ (w / 16777216 % 256) then .error .indirect else
    if (w / 16384 % 2) = 1 ∧ 64 ≤ (w / 65536 % 256) then .error .indirect else
    .ok (.vlog2 ⟨(w / 16777216 % 256), (w / 65536 % 256), (w / 32768 % 2), (w / 16384 % 2), (w / 1024 % 16)⟩)
  | 2 =>
    if (w / 1024 % 16) = 8 then .error .reservedPredicate else
    if (w / 32768 % 2) = 1 ∧ 64 ≤ (w / 16777216 % 256) then .error .indirect else
    if (w / 16384 % 2) = 1 ∧ 64 ≤ (w / 65536 % 256) then .error .indirect else
    .ok (.vexp ⟨(w / 16777216 % 256), (w / 65536 % 256), (w / 32768 % 2), (w / 16384 % 2), (w / 1024 % 16)⟩)
  | 3 =>
    if (w / 1024 % 16) = 8 then .error .reservedPredicate else
    if (w / 32768 % 2) = 1 ∧ 64 ≤ (w / 16777216 % 256) then .error .indirect else
    if (w / 16384 % 2) = 1 ∧ 64 ≤ (w / 65536 % 256) then .error .indirect else
    .ok (.vlog ⟨(w / 16777216 % 256), (w / 65536 % 256), (w / 32768 % 2), (w / 16384 % 2), (w / 1024 % 16)⟩)
  | _ => .error .reservedMinor

/-- Major 0x49 (R71). -/
noncomputable def decodeM49 (w : Nat) : Except DecodeError Instr :=
  match w / 256 % 4 with
  | 0 =>
    if (w / 1024 % 16) = 8 then .error .reservedPredicate else
    if (w / 32768 % 2) = 1 ∧ 64 ≤ (w / 16777216 % 256) then .error .indirect else
    if (w / 16384 % 2) = 1 ∧ 64 ≤ (w / 65536 % 256) then .error .indirect else
    .ok (.vrcp ⟨(w / 16777216 % 256), (w / 65536 % 256), (w / 32768 % 2), (w / 16384 % 2), (w / 1024 % 16)⟩)
  | 1 =>
    if (w / 1024 % 16) = 8 then .error .reservedPredicate else
    if (w / 32768 % 2) = 1 ∧ 64 ≤ (w / 16777216 % 256) then .error .indirect else
    if (w / 16384 % 2) = 1 ∧ 64 ≤ (w / 65536 % 256) then .error .indirect else
    .ok (.vrsq ⟨(w / 16777216 % 256), (w / 65536 % 256), (w / 32768 % 2), (w / 16384 % 2), (w / 1024 % 16)⟩)
  | 2 =>
    if (w / 1024 % 16) = 8 then .error .reservedPredicate else
    if (w / 32768 % 2) = 1 ∧ 64 ≤ (w / 16777216 % 256) then .error .indirect else
    if (w / 16384 % 2) = 1 ∧ 64 ≤ (w / 65536 % 256) then .error .indirect else
    .ok (.vtanh ⟨(w / 16777216 % 256), (w / 65536 % 256), (w / 32768 % 2), (w / 16384 % 2), (w / 1024 % 16)⟩)
  | 3 =>
    if (w / 1024 % 16) = 8 then .error .reservedPredicate else
    if (w / 32768 % 2) = 1 ∧ 64 ≤ (w / 16777216 % 256) then .error .indirect else
    if (w / 16384 % 2) = 1 ∧ 64 ≤ (w / 65536 % 256) then .error .indirect else
    .ok (.vsin ⟨(w / 16777216 % 256), (w / 65536 % 256), (w / 32768 % 2), (w / 16384 % 2), (w / 1024 % 16)⟩)
  | _ => .error .reservedMinor

/-- Major 0x4A (R71). -/
noncomputable def decodeM4A (w : Nat) : Except DecodeError Instr :=
  match w / 256 % 4 with
  | 0 =>
    if (w / 1024 % 16) = 8 then .error .reservedPredicate else
    if (w / 32768 % 2) = 1 ∧ 64 ≤ (w / 16777216 % 256) then .error .indirect else
    if (w / 16384 % 2) = 1 ∧ 64 ≤ (w / 65536 % 256) then .error .indirect else
    .ok (.vcos ⟨(w / 16777216 % 256), (w / 65536 % 256), (w / 32768 % 2), (w / 16384 % 2), (w / 1024 % 16)⟩)
  | _ => .error .reservedMinor

/-- Major 0x4B (R71). -/
noncomputable def decodeM4B (w : Nat) : Except DecodeError Instr :=
  match w / 256 % 4 with
  | 0 =>
    if (w / 1024 % 16) = 8 then .error .reservedPredicate else
    if (w / 32768 % 2) = 1 ∧ 64 ≤ (w / 16777216 % 256) then .error .indirect else
    if (w / 16384 % 2) = 1 ∧ 64 ≤ (w / 65536 % 256) then .error .indirect else
    .ok (.vmovW ⟨(w / 16777216 % 256), (w / 65536 % 256), (w / 32768 % 2), (w / 16384 % 2), (w / 1024 % 16)⟩)
  | 1 =>
    if (w / 1024 % 16) ≠ 0 then .error .mustBeZero else
    if (w / 32768 % 2) = 1 ∧ 64 ≤ (w / 16777216 % 256) then .error .indirect else
    if (w / 16384 % 2) = 1 ∧ 64 ≤ (w / 65536 % 256) then .error .indirect else
    .ok (.vscget ⟨(w / 16777216 % 256), (w / 65536 % 256), (w / 32768 % 2), (w / 16384 % 2), 0⟩)
  | 2 =>
    if (w / 1024 % 16) ≠ 0 then .error .mustBeZero else
    if (w / 32768 % 2) = 1 ∧ 64 ≤ (w / 16777216 % 256) then .error .indirect else
    if (w / 16384 % 2) = 1 ∧ 64 ≤ (w / 65536 % 256) then .error .indirect else
    .ok (.vscput ⟨(w / 16777216 % 256), (w / 65536 % 256), (w / 32768 % 2), (w / 16384 % 2), 0⟩)
  | _ => .error .reservedMinor

/-- Major 0x4C (R71). -/
noncomputable def decodeM4C (w : Nat) : Except DecodeError Instr :=
  if (w / 1024 % 2) = 0 then
    if (w / 2048 % 32) ≠ 0 then .error .mustBeZero else
    .ok (.vslidedn (w / 16777216 % 64) ((w / 1073741824 % 4) * 4 + (w / 4194304 % 4)) (w / 65536 % 64) (w / 256 % 4))
  else
  if (w / 1024 % 2) = 1 then
    if (w / 2048 % 32) ≠ 0 then .error .mustBeZero else
    .ok (.vslideup (w / 16777216 % 64) ((w / 1073741824 % 4) * 4 + (w / 4194304 % 4)) (w / 65536 % 64) (w / 256 % 4))
  else
  .error .reservedMinor

/-- Major 0x4D (R71). -/
noncomputable def decodeM4D (w : Nat) : Except DecodeError Instr :=
  match w / 256 % 16 with
  | 0 =>
    if (w / 4096 % 16) ≠ 0 then .error .mustBeZero else
    .ok (.vperm (w / 16777216 % 64) ((w / 1073741824 % 4) * 4 + (w / 4194304 % 4)) (w / 65536 % 64))
  | 1 =>
    if (w / 4096 % 16) ≠ 0 then .error .mustBeZero else
    .ok (.vrev (w / 16777216 % 64) ((w / 1073741824 % 4) * 4 + (w / 4194304 % 4)) (w / 65536 % 64))
  | _ => .error .reservedMinor

/-- Major 0x4E (R71). -/
noncomputable def decodeM4E (w : Nat) : Except DecodeError Instr :=
  match w / 256 % 16 with
  | 0 =>
    if (w / 4096 % 16) ≠ 0 then .error .mustBeZero else
    .ok (.vredsum (w / 16777216 % 64) ((w / 1073741824 % 4) * 4 + (w / 4194304 % 4)) (w / 65536 % 64))
  | 1 =>
    if (w / 4096 % 16) ≠ 0 then .error .mustBeZero else
    .ok (.vredmaxI (w / 16777216 % 64) ((w / 1073741824 % 4) * 4 + (w / 4194304 % 4)) (w / 65536 % 64))
  | 2 =>
    if (w / 4096 % 16) ≠ 0 then .error .mustBeZero else
    .ok (.vredmaxN (w / 16777216 % 64) ((w / 1073741824 % 4) * 4 + (w / 4194304 % 4)) (w / 65536 % 64))
  | 3 =>
    if (w / 4096 % 16) ≠ 0 then .error .mustBeZero else
    .ok (.vredminI (w / 16777216 % 64) ((w / 1073741824 % 4) * 4 + (w / 4194304 % 4)) (w / 65536 % 64))
  | 4 =>
    if (w / 4096 % 16) ≠ 0 then .error .mustBeZero else
    .ok (.vredminN (w / 16777216 % 64) ((w / 1073741824 % 4) * 4 + (w / 4194304 % 4)) (w / 65536 % 64))
  | 5 =>
    if (w / 4096 % 16) ≠ 0 then .error .mustBeZero else
    .ok (.vredand (w / 16777216 % 64) ((w / 1073741824 % 4) * 4 + (w / 4194304 % 4)) (w / 65536 % 64))
  | 6 =>
    if (w / 4096 % 16) ≠ 0 then .error .mustBeZero else
    .ok (.vredor (w / 16777216 % 64) ((w / 1073741824 % 4) * 4 + (w / 4194304 % 4)) (w / 65536 % 64))
  | 7 =>
    if (w / 4096 % 16) ≠ 0 then .error .mustBeZero else
    .ok (.vredsumF (w / 16777216 % 64) ((w / 1073741824 % 4) * 4 + (w / 4194304 % 4)) (w / 65536 % 64))
  | 8 =>
    if (w / 4096 % 16) ≠ 0 then .error .mustBeZero else
    .ok (.vredmaxF (w / 16777216 % 64) ((w / 1073741824 % 4) * 4 + (w / 4194304 % 4)) (w / 65536 % 64))
  | 9 =>
    if (w / 4096 % 16) ≠ 0 then .error .mustBeZero else
    .ok (.vredminF (w / 16777216 % 64) ((w / 1073741824 % 4) * 4 + (w / 4194304 % 4)) (w / 65536 % 64))
  | 10 =>
    if (w / 4096 % 1024) ≠ 0 then .error .mustBeZero else
    .ok (.vscansum (w / 16777216 % 64) ((w / 1073741824 % 4) * 4 + (w / 4194304 % 4)))
  | 11 =>
    if (w / 4096 % 1024) ≠ 0 then .error .mustBeZero else
    .ok (.vscansumF (w / 16777216 % 64) ((w / 1073741824 % 4) * 4 + (w / 4194304 % 4)))
  | 12 =>
    if (w / 4096 % 1024) ≠ 0 then .error .mustBeZero else
    .ok (.vscanmaxI (w / 16777216 % 64) ((w / 1073741824 % 4) * 4 + (w / 4194304 % 4)))
  | 13 =>
    if (w / 4096 % 1024) ≠ 0 then .error .mustBeZero else
    .ok (.vexscansum (w / 16777216 % 64) ((w / 1073741824 % 4) * 4 + (w / 4194304 % 4)))
  | _ => .error .reservedMinor

/-- Major 0x4F (R71). -/
noncomputable def decodeM4F (w : Nat) : Except DecodeError Instr :=
  match w / 256 % 16 with
  | 0 =>
    if (w / 4096 % 1024) ≠ 0 then .error .mustBeZero else
    .ok (.vqxX1 (w / 16777216 % 64) ((w / 1073741824 % 4) * 4 + (w / 4194304 % 4)))
  | 1 =>
    if (w / 4096 % 1024) ≠ 0 then .error .mustBeZero else
    .ok (.vqxX2 (w / 16777216 % 64) ((w / 1073741824 % 4) * 4 + (w / 4194304 % 4)))
  | 2 =>
    if (w / 4096 % 1024) ≠ 0 then .error .mustBeZero else
    .ok (.vqxX3 (w / 16777216 % 64) ((w / 1073741824 % 4) * 4 + (w / 4194304 % 4)))
  | 3 =>
    if (w / 4096 % 1024) ≠ 0 then .error .mustBeZero else
    .ok (.vqxB0 (w / 16777216 % 64) ((w / 1073741824 % 4) * 4 + (w / 4194304 % 4)))
  | 4 =>
    if (w / 4096 % 1024) ≠ 0 then .error .mustBeZero else
    .ok (.vqxB1 (w / 16777216 % 64) ((w / 1073741824 % 4) * 4 + (w / 4194304 % 4)))
  | 5 =>
    if (w / 4096 % 1024) ≠ 0 then .error .mustBeZero else
    .ok (.vqxB2 (w / 16777216 % 64) ((w / 1073741824 % 4) * 4 + (w / 4194304 % 4)))
  | 6 =>
    if (w / 4096 % 1024) ≠ 0 then .error .mustBeZero else
    .ok (.vqxB3 (w / 16777216 % 64) ((w / 1073741824 % 4) * 4 + (w / 4194304 % 4)))
  | _ => .error .reservedMinor

/-- Major 0x50 (R71). -/
noncomputable def decodeM50 (w : Nat) : Except DecodeError Instr :=
  match w / 256 % 16 with
  | 0 =>
    if 2 ≤ (w / 4194304 % 4) then .error .reservedValue else
    .ok (.mxlda (w / 16777216 % 256) (w / 4194304 % 4) (w / 65536 % 64) (w / 4096 % 16))
  | 1 =>
    if 2 ≤ (w / 4194304 % 4) then .error .reservedValue else
    .ok (.mxldb (w / 16777216 % 256) (w / 4194304 % 4) (w / 65536 % 64) (w / 4096 % 16))
  | 2 =>
    if 3 ≤ (w / 4194304 % 4) then .error .reservedValue else
    .ok (.mxlds (w / 16777216 % 256) (w / 4194304 % 4) (w / 65536 % 64) (w / 4096 % 16))
  | _ => .error .reservedMinor

/-- Major 0x51 (R71). -/
noncomputable def decodeM51 (w : Nat) : Except DecodeError Instr :=
  match w / 256 % 16 with
  | 0 =>
    if (w / 4194304 % 4) ≠ 0 then .error .mustBeZero else
    if 10 ≤ (w / 16777216 % 256) then .error .reservedValue else
    if 63 ≤ (w / 65536 % 64) then .error .reservedValue else
    .ok (.mxstep (w / 16777216 % 256) (w / 65536 % 64) (w / 4096 % 16))
  | _ => .error .reservedMinor

/-- Major 0x52 (R71). -/
noncomputable def decodeM52 (w : Nat) : Except DecodeError Instr :=
  match w / 256 % 16 with
  | 0 =>
    if (w / 4194304 % 4) ≠ 0 then .error .mustBeZero else
    if 10 ≤ (w / 16777216 % 256) then .error .reservedValue else
    if 63 ≤ (w / 65536 % 64) then .error .reservedValue else
    .ok (.mxloop (w / 16777216 % 256) (w / 65536 % 64) (w / 4096 % 16))
  | _ => .error .reservedMinor

/-- Major 0x53 (R71). -/
noncomputable def decodeM53 (w : Nat) : Except DecodeError Instr :=
  match w / 256 % 16 with
  | 0 =>
    if (w / 4194304 % 4) ≠ 0 then .error .mustBeZero else
    if 10 ≤ (w / 16777216 % 256) then .error .reservedValue else
    if 63 ≤ (w / 65536 % 64) then .error .reservedValue else
    .ok (.mxspstep (w / 16777216 % 256) (w / 65536 % 64) (w / 4096 % 16))
  | 1 =>
    if (w / 4194304 % 4) ≠ 0 then .error .mustBeZero else
    if 10 ≤ (w / 16777216 % 256) then .error .reservedValue else
    if 63 ≤ (w / 65536 % 64) then .error .reservedValue else
    .ok (.mxsploop (w / 16777216 % 256) (w / 65536 % 64) (w / 4096 % 16))
  | _ => .error .reservedMinor

/-- Major 0x54 (R71). -/
noncomputable def decodeM54 (w : Nat) : Except DecodeError Instr :=
  match w / 256 % 16 with
  | 0 =>
    if (w / 4194304 % 4) ≠ 0 then .error .mustBeZero else
    .ok (.mxrdz (w / 16777216 % 256) (w / 65536 % 64) (w / 4096 % 16))
  | 1 =>
    if (w / 4194304 % 4) ≠ 0 then .error .mustBeZero else
    .ok (.mxwrz (w / 16777216 % 256) (w / 65536 % 64) (w / 4096 % 16))
  | _ => .error .reservedMinor

/-- Major 0x55 (R71). -/
noncomputable def decodeM55 (w : Nat) : Except DecodeError Instr :=
  match w / 256 % 16 with
  | 0 =>
    if (w / 524288 % 32) ≠ 0 then .error .mustBeZero else
    if 10 ≤ (w / 16777216 % 256) then .error .reservedValue else
    .ok (.mxtred (w / 16777216 % 256) (w / 65536 % 8) (w / 4096 % 16))
  | 1 =>
    if (w / 524288 % 32) ≠ 0 then .error .mustBeZero else
    if 10 ≤ (w / 16777216 % 256) then .error .reservedValue else
    .ok (.mxtmov (w / 16777216 % 256) (w / 65536 % 8) (w / 4096 % 16))
  | _ => .error .reservedMinor

/-- Major 0x56 (R71). -/
noncomputable def decodeM56 (w : Nat) : Except DecodeError Instr :=
  match w / 256 % 16 with
  | 0 =>
    if (w / 4096 % 16) ≠ 0 then .error .mustBeZero else
    if (w / 1048576 % 16) ≠ 0 then .error .mustBeZero else
    if (w / 1073741824 % 4) ≠ 0 then .error .mustBeZero else
    .ok (.mxelog (w / 16777216 % 64) (w / 65536 % 16))
  | 1 =>
    if (w / 4096 % 4096) ≠ 0 then .error .mustBeZero else
    if (w / 1073741824 % 4) ≠ 0 then .error .mustBeZero else
    .ok (.mxestat (w / 16777216 % 64))
  | 2 =>
    if (w / 4096 % 1048576) ≠ 0 then .error .mustBeZero else
    .ok (.mxeclr)
  | _ => .error .reservedMinor

/-- Major 0x58 (R71). -/
noncomputable def decodeM58 (w : Nat) : Except DecodeError Instr :=
  match w / 256 % 16 with
  | 0 =>
    if (w / 65536 % 256) ≠ 0 then .error .mustBeZero else
    if (w / 1073741824 % 4) ≠ 0 then .error .mustBeZero else
    .ok (.wfwd (w / 16777216 % 64) (w / 4096 % 16))
  | 1 =>
    if (w / 65536 % 256) ≠ 0 then .error .mustBeZero else
    if (w / 1073741824 % 4) ≠ 0 then .error .mustBeZero else
    .ok (.winv (w / 16777216 % 64) (w / 4096 % 16))
  | _ => .error .reservedMinor

/-- Major 0x59 (R71). -/
noncomputable def decodeM59 (w : Nat) : Except DecodeError Instr :=
  match w / 256 % 16 with
  | 0 =>
    if (w / 65536 % 256) ≠ 0 then .error .mustBeZero else
    if (w / 1073741824 % 4) ≠ 0 then .error .mustBeZero else
    .ok (.wthr (w / 16777216 % 64) (w / 4096 % 16))
  | 1 =>
    if (w / 4096 % 16) ≠ 0 then .error .mustBeZero else
    if (w / 4194304 % 4) ≠ 0 then .error .mustBeZero else
    if (w / 134217728 % 32) ≠ 0 then .error .mustBeZero else
    .ok (.wthset (w / 16777216 % 8) (w / 65536 % 64))
  | _ => .error .reservedMinor

/-- Major 0x5A (R71). -/
noncomputable def decodeM5A (w : Nat) : Except DecodeError Instr :=
  match w / 256 % 16 with
  | 0 =>
    if (w / 4194304 % 4) ≠ 0 then .error .mustBeZero else
    if (w / 1073741824 % 4) ≠ 0 then .error .mustBeZero else
    .ok (.wst (w / 16777216 % 64) (w / 65536 % 64) (w / 4096 % 16))
  | 1 =>
    if (w / 4194304 % 2) = 0 then
      if (w / 8388608 % 2) ≠ 0 then .error .mustBeZero else
      if (w / 1073741824 % 4) ≠ 0 then .error .mustBeZero else
      .ok (.wld (w / 16777216 % 64) (w / 65536 % 64) (w / 4096 % 16))
    else
    if (w / 4194304 % 2) = 1 then
      if (w / 8388608 % 2) ≠ 0 then .error .mustBeZero else
      if (w / 1073741824 % 4) ≠ 0 then .error .mustBeZero else
      if (w / 65536 % 64) = 63 then .error .reservedValue else
      .ok (.wldRaw (w / 16777216 % 64) (w / 65536 % 64) (w / 4096 % 16))
    else
    .error .reservedMinor
  | _ => .error .reservedMinor

/-- Major 0x5B (R71). -/
noncomputable def decodeM5B (w : Nat) : Except DecodeError Instr :=
  match w / 256 % 16 with
  | 0 =>
    if (w / 1073741824 % 4) ≠ 0 then .error .mustBeZero else
    if ¬ (wtagOk (w / 65536 % 256)) then .error .reservedValue else
    .ok (.wtag (w / 16777216 % 64) (w / 65536 % 256) (w / 4096 % 16))
  | 1 =>
    if (w / 4096 % 16) ≠ 0 then .error .mustBeZero else
    if (w / 1048576 % 16) ≠ 0 then .error .mustBeZero else
    if (w / 1073741824 % 4) ≠ 0 then .error .mustBeZero else
    .ok (.wcnt (w / 16777216 % 64) (w / 65536 % 16))
  | _ => .error .reservedMinor

/-- Major 0x5C (R71). -/
noncomputable def decodeM5C (w : Nat) : Except DecodeError Instr :=
  match w / 256 % 16 with
  | 0 =>
    if (w / 8388608 % 2) = 0 then
      if (w / 4096 % 16) ≠ 0 then .error .mustBeZero else
      if (w / 1073741824 % 4) ≠ 0 then .error .mustBeZero else
      .ok (.ljoin (w / 16777216 % 64) (w / 4194304 % 2) (w / 65536 % 64))
    else
    if (w / 8388608 % 2) = 1 then
      if (w / 4096 % 16) ≠ 0 then .error .mustBeZero else
      if 255 ≤ (w / 16777216 % 256) then .error .reservedValue else
      .ok (.ljoinV (w / 16777216 % 256) (w / 4194304 % 2) (w / 65536 % 64))
    else
    .error .reservedMinor
  | 1 =>
    if (w / 8388608 % 2) = 0 then
      if (w / 1073741824 % 4) ≠ 0 then .error .mustBeZero else
      .ok (.lput (w / 16777216 % 64) (w / 4194304 % 2) (w / 65536 % 64) (w / 4096 % 16))
    else
    if (w / 8388608 % 2) = 1 then
      if 255 ≤ (w / 16777216 % 256) then .error .reservedValue else
      .ok (.lputV (w / 16777216 % 256) (w / 4194304 % 2) (w / 65536 % 64) (w / 4096 % 16))
    else
    .error .reservedMinor
  | _ => .error .reservedMinor

/-- Major 0x5D (R71). -/
noncomputable def decodeM5D (w : Nat) : Except DecodeError Instr :=
  match w / 256 % 16 with
  | 0 =>
    if (w / 8388608 % 2) = 0 then
      if (w / 1073741824 % 4) ≠ 0 then .error .mustBeZero else
      .ok (.lget (w / 16777216 % 64) (w / 4194304 % 2) (w / 65536 % 64) (w / 4096 % 16))
    else
    if (w / 8388608 % 2) = 1 then
      if 255 ≤ (w / 16777216 % 256) then .error .reservedValue else
      .ok (.lgetV (w / 16777216 % 256) (w / 4194304 % 2) (w / 65536 % 64) (w / 4096 % 16))
    else
    .error .reservedMinor
  | 1 =>
    if (w / 8388608 % 2) ≠ 0 then .error .mustBeZero else
    if (w / 1073741824 % 4) ≠ 0 then .error .mustBeZero else
    if (w / 16777216 % 64) = 0 then .error .reservedValue else
    if (w / 16777216 % 64) = 63 then .error .reservedValue else
    .ok (.lwait (w / 16777216 % 64) (w / 4194304 % 2) (w / 65536 % 64) (w / 4096 % 16))
  | _ => .error .reservedMinor

/-- Major 0x5E (R71). -/
noncomputable def decodeM5E (w : Nat) : Except DecodeError Instr :=
  match w / 256 % 16 with
  | 0 =>
    if (w / 4096 % 16) ≠ 0 then .error .mustBeZero else
    if (w / 4194304 % 4) ≠ 0 then .error .mustBeZero else
    if (w / 1073741824 % 4) ≠ 0 then .error .mustBeZero else
    .ok (.lxsched (w / 16777216 % 64) (w / 65536 % 64))
  | 1 =>
    if (w / 65536 % 65536) ≠ 0 then .error .mustBeZero else
    .ok (.lxnow (w / 4096 % 16))
  | _ => .error .reservedMinor

/-- Major 0x5F (R71). -/
noncomputable def decodeM5F (w : Nat) : Except DecodeError Instr :=
  match w / 256 % 16 with
  | 0 =>
    if (w / 4194304 % 4) ≠ 0 then .error .mustBeZero else
    if (w / 1073741824 % 4) ≠ 0 then .error .mustBeZero else
    .ok (.ltype (w / 16777216 % 64) (w / 65536 % 64) (w / 4096 % 16))
  | 1 =>
    if (w / 4194304 % 1024) ≠ 0 then .error .mustBeZero else
    .ok (.lclr (w / 65536 % 64) (w / 4096 % 16))
  | _ => .error .reservedMinor

/-- Major 0x60 (R71). -/
noncomputable def decodeM60 (w : Nat) : Except DecodeError Instr :=
  if (w / 256 % 4) = 3 then .error .reservedPredicate else
  .ok (.ldv ⟨(w / 134217728 % 32), (w / 4194304 % 32), (w / 524288 % 8), (w / 16384 % 32), (w / 1024 % 16), (w / 256 % 4)⟩)

/-- Major 0x61 (R71). -/
noncomputable def decodeM61 (w : Nat) : Except DecodeError Instr :=
  if (w / 1024 % 16) ≠ 0 then .error .mustBeZero else
  if (w / 256 % 4) = 3 then .error .reservedPredicate else
  .ok (.stv ⟨(w / 134217728 % 32), (w / 4194304 % 32), (w / 524288 % 8), (w / 16384 % 32), 0, (w / 256 % 4)⟩)

/-- Major 0x62 (R71). -/
noncomputable def decodeM62 (w : Nat) : Except DecodeError Instr :=
  if (w / 256 % 4) = 3 then .error .reservedPredicate else
  .ok (.ldg ⟨(w / 134217728 % 32), (w / 4194304 % 32), (w / 524288 % 8), (w / 16384 % 32), (w / 1024 % 16), (w / 256 % 4)⟩)

/-- Major 0x63 (R71). -/
noncomputable def decodeM63 (w : Nat) : Except DecodeError Instr :=
  if (w / 1024 % 16) ≠ 0 then .error .mustBeZero else
  if (w / 256 % 4) = 3 then .error .reservedPredicate else
  .ok (.stg ⟨(w / 134217728 % 32), (w / 4194304 % 32), (w / 524288 % 8), (w / 16384 % 32), 0, (w / 256 % 4)⟩)

/-- Major 0x64 (R71). -/
noncomputable def decodeM64 (w : Nat) : Except DecodeError Instr :=
  if (w / 256 % 4) = 3 then .error .reservedPredicate else
  .ok (.ldff ⟨(w / 134217728 % 32), (w / 4194304 % 32), (w / 524288 % 8), (w / 16384 % 32), (w / 1024 % 16), (w / 256 % 4)⟩)

/-- Major 0x65 (R71). -/
noncomputable def decodeM65 (w : Nat) : Except DecodeError Instr :=
  if (w / 67108864 % 2) ≠ 0 then .error .mustBeZero else
  if (w / 256 % 4) = 3 then .error .reservedPredicate else
  .ok (.ldr (w / 134217728 % 32) (w / 4194304 % 16) (w / 524288 % 8) (w / 16384 % 32) (w / 1024 % 16) (w / 256 % 4))

/-- Major 0x66 (R71). -/
noncomputable def decodeM66 (w : Nat) : Except DecodeError Instr :=
  .ok (.ld (w / 67108864 % 64) (w / 1048576 % 64) (w / 65536 % 16) (sext 8 (w / 256 % 256)))

/-- Major 0x67 (R71). -/
noncomputable def decodeM67 (w : Nat) : Except DecodeError Instr :=
  if (w / 65536 % 16) ≠ 0 then .error .mustBeZero else
  .ok (.st (w / 67108864 % 64) (w / 1048576 % 64) (sext 8 (w / 256 % 256)))

/-- Major 0x68 (R71). -/
noncomputable def decodeM68 (w : Nat) : Except DecodeError Instr :=
  match w / 256 % 4 with
  | 0 =>
    .ok (.atAdd ⟨(w / 134217728 % 32), (w / 4194304 % 32), (w / 524288 % 8), (w / 16384 % 32), (w / 1024 % 16)⟩)
  | 1 =>
    .ok (.atSwap ⟨(w / 134217728 % 32), (w / 4194304 % 32), (w / 524288 % 8), (w / 16384 % 32), (w / 1024 % 16)⟩)
  | 2 =>
    .ok (.atCas ⟨(w / 134217728 % 32), (w / 4194304 % 32), (w / 524288 % 8), (w / 16384 % 32), (w / 1024 % 16)⟩)
  | 3 =>
    .ok (.atFadd ⟨(w / 134217728 % 32), (w / 4194304 % 32), (w / 524288 % 8), (w / 16384 % 32), (w / 1024 % 16)⟩)
  | _ => .error .reservedMinor

/-- Major 0x69 (R71). -/
noncomputable def decodeM69 (w : Nat) : Except DecodeError Instr :=
  match w / 256 % 4 with
  | 0 =>
    .ok (.atAnd ⟨(w / 134217728 % 32), (w / 4194304 % 32), (w / 524288 % 8), (w / 16384 % 32), (w / 1024 % 16)⟩)
  | 1 =>
    .ok (.atOr ⟨(w / 134217728 % 32), (w / 4194304 % 32), (w / 524288 % 8), (w / 16384 % 32), (w / 1024 % 16)⟩)
  | 2 =>
    .ok (.atMax ⟨(w / 134217728 % 32), (w / 4194304 % 32), (w / 524288 % 8), (w / 16384 % 32), (w / 1024 % 16)⟩)
  | 3 =>
    .ok (.atMaxu ⟨(w / 134217728 % 32), (w / 4194304 % 32), (w / 524288 % 8), (w / 16384 % 32), (w / 1024 % 16)⟩)
  | _ => .error .reservedMinor

/-- Major 0x6A (R71). -/
noncomputable def decodeM6A (w : Nat) : Except DecodeError Instr :=
  match w / 256 % 16 with
  | 0 =>
    if (w / 134217728 % 4) = 0 then
      if (w / 4096 % 4096) ≠ 0 then .error .mustBeZero else
      if (w / 536870912 % 8) ≠ 0 then .error .mustBeZero else
      if 7 ≤ (w / 16777216 % 8) then .error .reservedValue else
      .ok (.fenceAcq (w / 16777216 % 8))
    else
    if (w / 134217728 % 4) = 1 then
      if (w / 4096 % 4096) ≠ 0 then .error .mustBeZero else
      if (w / 536870912 % 8) ≠ 0 then .error .mustBeZero else
      if 7 ≤ (w / 16777216 % 8) then .error .reservedValue else
      .ok (.fenceRel (w / 16777216 % 8))
    else
    if (w / 134217728 % 4) = 2 then
      if (w / 4096 % 4096) ≠ 0 then .error .mustBeZero else
      if (w / 536870912 % 8) ≠ 0 then .error .mustBeZero else
      if 7 ≤ (w / 16777216 % 8) then .error .reservedValue else
      .ok (.fenceAr (w / 16777216 % 8))
    else
    if (w / 134217728 % 4) = 3 then
      if (w / 4096 % 4096) ≠ 0 then .error .mustBeZero else
      if (w / 536870912 % 8) ≠ 0 then .error .mustBeZero else
      if 7 ≤ (w / 16777216 % 8) then .error .reservedValue else
      .ok (.fenceSc (w / 16777216 % 8))
    else
    .error .reservedMinor
  | 1 =>
    if (w / 65536 % 65536) ≠ 0 then .error .mustBeZero else
    .ok (.fenceAck (w / 4096 % 16))
  | 2 =>
    if (w / 4194304 % 2) = 0 then
      if 7 ≤ ((w / 1073741824 % 4) * 2 + (w / 8388608 % 2)) then .error .reservedValue else
      .ok (.lda (w / 16777216 % 64) ((w / 1073741824 % 4) * 2 + (w / 8388608 % 2)) (w / 65536 % 64) (w / 4096 % 16))
    else
    if (w / 4194304 % 2) = 1 then
      if 7 ≤ ((w / 1073741824 % 4) * 2 + (w / 8388608 % 2)) then .error .reservedValue else
      .ok (.ldaSc (w / 16777216 % 64) ((w / 1073741824 % 4) * 2 + (w / 8388608 % 2)) (w / 65536 % 64) (w / 4096 % 16))
    else
    .error .reservedMinor
  | 3 =>
    if (w / 4194304 % 2) = 0 then
      if (w / 4096 % 16) ≠ 0 then .error .mustBeZero else
      if 7 ≤ ((w / 1073741824 % 4) * 2 + (w / 8388608 % 2)) then .error .reservedValue else
      .ok (.stl (w / 16777216 % 64) ((w / 1073741824 % 4) * 2 + (w / 8388608 % 2)) (w / 65536 % 64))
    else
    if (w / 4194304 % 2) = 1 then
      if (w / 4096 % 16) ≠ 0 then .error .mustBeZero else
      if 7 ≤ ((w / 1073741824 % 4) * 2 + (w / 8388608 % 2)) then .error .reservedValue else
      .ok (.stlSc (w / 16777216 % 64) ((w / 1073741824 % 4) * 2 + (w / 8388608 % 2)) (w / 65536 % 64))
    else
    .error .reservedMinor
  | _ => .error .reservedMinor

/-- Major 0x6B (R71). -/
noncomputable def decodeM6B (w : Nat) : Except DecodeError Instr :=
  match w / 256 % 16 with
  | 0 =>
    .ok (.ldb (w / 16777216 % 64) ((w / 1073741824 % 4) * 4 + (w / 4194304 % 4)) (w / 65536 % 64) (w / 4096 % 16))
  | 1 =>
    if (w / 4096 % 16) ≠ 0 then .error .mustBeZero else
    .ok (.stb (w / 16777216 % 64) ((w / 1073741824 % 4) * 4 + (w / 4194304 % 4)) (w / 65536 % 64))
  | _ => .error .reservedMinor

/-- Major 0x6C (R71). -/
noncomputable def decodeM6C (w : Nat) : Except DecodeError Instr :=
  match w / 256 % 16 with
  | 0 =>
    if (w / 4194304 % 4) ≠ 0 then .error .mustBeZero else
    if (w / 536870912 % 8) ≠ 0 then .error .mustBeZero else
    .ok (.cbload (w / 67108864 % 8) (w / 16777216 % 4) (w / 65536 % 64) (w / 4096 % 16))
  | 1 =>
    .ok (.ldcb (w / 16777216 % 256) (w / 4194304 % 4) (w / 65536 % 64) (w / 4096 % 16))
  | _ => .error .reservedMinor

/-- Major 0x6D (R71). -/
noncomputable def decodeM6D (w : Nat) : Except DecodeError Instr :=
  match w / 256 % 16 with
  | 0 =>
    if (w / 4096 % 16) ≠ 0 then .error .mustBeZero else
    if (w / 8388608 % 2) ≠ 0 then .error .mustBeZero else
    .ok (.pref (w / 16777216 % 256) (w / 4194304 % 2) (w / 65536 % 64))
  | 1 =>
    if (w / 4096 % 16) ≠ 0 then .error .mustBeZero else
    if (w / 524288 % 32) ≠ 0 then .error .mustBeZero else
    if (w / 1073741824 % 4) ≠ 0 then .error .mustBeZero else
    .ok (.mcnt (w / 16777216 % 64) (w / 65536 % 8))
  | _ => .error .reservedMinor

/-- Major 0x6E (R71). -/
noncomputable def decodeM6E (w : Nat) : Except DecodeError Instr :=
  match w / 256 % 16 with
  | 0 =>
    if (w / 16777216 % 2) = 0 then
      if (w / 4194304 % 4) ≠ 0 then .error .mustBeZero else
      if (w / 33554432 % 128) ≠ 0 then .error .mustBeZero else
      .ok (.pagereq (w / 65536 % 64) (w / 4096 % 16))
    else
    if (w / 16777216 % 2) = 1 then
      if (w / 4194304 % 4) ≠ 0 then .error .mustBeZero else
      if (w / 33554432 % 128) ≠ 0 then .error .mustBeZero else
      .ok (.pagereqW (w / 65536 % 64) (w / 4096 % 16))
    else
    .error .reservedMinor
  | 1 =>
    if (w / 16777216 % 2) = 0 then
      if (w / 4096 % 16) ≠ 0 then .error .mustBeZero else
      if (w / 4194304 % 4) ≠ 0 then .error .mustBeZero else
      if (w / 33554432 % 128) ≠ 0 then .error .mustBeZero else
      .ok (.pagehint (w / 65536 % 64))
    else
    if (w / 16777216 % 2) = 1 then
      if (w / 4096 % 16) ≠ 0 then .error .mustBeZero else
      if (w / 4194304 % 4) ≠ 0 then .error .mustBeZero else
      if (w / 33554432 % 128) ≠ 0 then .error .mustBeZero else
      .ok (.pagehintW (w / 65536 % 64))
    else
    .error .reservedMinor
  | 2 =>
    if (w / 4194304 % 1024) ≠ 0 then .error .mustBeZero else
    .ok (.pagerel (w / 65536 % 64) (w / 4096 % 16))
  | _ => .error .reservedMinor

/-- Major 0x70 (R71). -/
noncomputable def decodeM70 (w : Nat) : Except DecodeError Instr :=
  match w / 256 % 16 with
  | 0 =>
    if (w / 4194304 % 4) ≠ 0 then .error .mustBeZero else
    if (w / 1073741824 % 4) ≠ 0 then .error .mustBeZero else
    .ok (.cp (w / 16777216 % 64) (w / 65536 % 64) (w / 4096 % 16))
  | 1 =>
    if (w / 4194304 % 4) ≠ 0 then .error .mustBeZero else
    if (w / 1073741824 % 4) ≠ 0 then .error .mustBeZero else
    .ok (.cp2d (w / 16777216 % 64) (w / 65536 % 64) (w / 4096 % 16))
  | _ => .error .reservedMinor

/-- Major 0x71 (R71). -/
noncomputable def decodeM71 (w : Nat) : Except DecodeError Instr :=
  match w / 256 % 16 with
  | 0 =>
    if (w / 4194304 % 4) ≠ 0 then .error .mustBeZero else
    if (w / 1073741824 % 4) ≠ 0 then .error .mustBeZero else
    .ok (.cpfill (w / 16777216 % 64) (w / 65536 % 64) (w / 4096 % 16))
  | _ => .error .reservedMinor

/-- Major 0x72 (R71). -/
noncomputable def decodeM72 (w : Nat) : Except DecodeError Instr :=
  match w / 256 % 16 with
  | 0 =>
    if (w / 4194304 % 4) ≠ 0 then .error .mustBeZero else
    if (w / 1073741824 % 4) ≠ 0 then .error .mustBeZero else
    .ok (.cpver (w / 16777216 % 64) (w / 65536 % 64) (w / 4096 % 16))
  | _ => .error .reservedMinor

/-- Major 0x73 (R71). -/
noncomputable def decodeM73 (w : Nat) : Except DecodeError Instr :=
  match w / 256 % 16 with
  | 0 =>
    if (w / 8388608 % 2) = 0 then
      if (w / 4096 % 16) ≠ 0 then .error .mustBeZero else
      if (w / 524288 % 16) ≠ 0 then .error .mustBeZero else
      if (w / 1073741824 % 4) ≠ 0 then .error .mustBeZero else
      .ok (.cpwp (w / 16777216 % 64) (w / 65536 % 8))
    else
    if (w / 8388608 % 2) = 1 then
      if (w / 4096 % 16) ≠ 0 then .error .mustBeZero else
      if (w / 524288 % 16) ≠ 0 then .error .mustBeZero else
      if (w / 1073741824 % 4) ≠ 0 then .error .mustBeZero else
      .ok (.cpwpClr (w / 16777216 % 64) (w / 65536 % 8))
    else
    .error .reservedMinor
  | 1 =>
    if (w / 4096 % 4096) ≠ 0 then .error .mustBeZero else
    if (w / 1073741824 % 4) ≠ 0 then .error .mustBeZero else
    .ok (.cpnum (w / 16777216 % 64))
  | _ => .error .reservedMinor

/-- Major 0x74 (R71). -/
noncomputable def decodeM74 (w : Nat) : Except DecodeError Instr :=
  match w / 256 % 16 with
  | 0 =>
    if (w / 4096 % 16) ≠ 0 then .error .mustBeZero else
    if (w / 4194304 % 4) ≠ 0 then .error .mustBeZero else
    if (w / 134217728 % 32) ≠ 0 then .error .mustBeZero else
    .ok (.cpseed (w / 16777216 % 8) (w / 65536 % 64))
  | _ => .error .reservedMinor

/-- Major 0x75 (R71). -/
noncomputable def decodeM75 (w : Nat) : Except DecodeError Instr :=
  match w / 256 % 16 with
  | 0 =>
    if (w / 2147483648 % 2) = 0 then
      if (w / 4194304 % 4) ≠ 0 then .error .mustBeZero else
      if (w / 268435456 % 8) ≠ 0 then .error .mustBeZero else
      .ok (.cproot (w / 16777216 % 16) (w / 65536 % 64) (w / 4096 % 16))
    else
    if (w / 2147483648 % 2) = 1 then
      if (w / 65536 % 256) ≠ 0 then .error .mustBeZero else
      if (w / 268435456 % 8) ≠ 0 then .error .mustBeZero else
      .ok (.cprootClr (w / 16777216 % 16) (w / 4096 % 16))
    else
    .error .reservedMinor
  | _ => .error .reservedMinor

/-- Major 0x76 (R71). -/
noncomputable def decodeM76 (w : Nat) : Except DecodeError Instr :=
  match w / 256 % 16 with
  | 0 =>
    if (w / 4096 % 4096) ≠ 0 then .error .mustBeZero else
    if (w / 1073741824 % 4) ≠ 0 then .error .mustBeZero else
    .ok (.fxstat (w / 16777216 % 64))
  | 1 =>
    if (w / 4096 % 16) ≠ 0 then .error .mustBeZero else
    if (w / 4194304 % 1024) ≠ 0 then .error .mustBeZero else
    .ok (.fxclr (w / 65536 % 64))
  | 2 =>
    if (w / 4096 % 4096) ≠ 0 then .error .mustBeZero else
    if (w / 1073741824 % 4) ≠ 0 then .error .mustBeZero else
    .ok (.fxrank (w / 16777216 % 64))
  | 3 =>
    if (w / 4096 % 16) ≠ 0 then .error .mustBeZero else
    if (w / 4194304 % 4) ≠ 0 then .error .mustBeZero else
    if (w / 1073741824 % 4) ≠ 0 then .error .mustBeZero else
    .ok (.fxpath (w / 16777216 % 64) (w / 65536 % 64))
  | _ => .error .reservedMinor

/-- Major 0x77 (R71). -/
noncomputable def decodeM77 (w : Nat) : Except DecodeError Instr :=
  match w / 256 % 16 with
  | 0 =>
    if (w / 4096 % 16) ≠ 0 then .error .mustBeZero else
    if (w / 4194304 % 4) ≠ 0 then .error .mustBeZero else
    if (w / 1073741824 % 4) ≠ 0 then .error .mustBeZero else
    .ok (.fxsto (w / 16777216 % 64) (w / 65536 % 64))
  | 1 =>
    if (w / 4096 % 16) ≠ 0 then .error .mustBeZero else
    if (w / 4194304 % 4) ≠ 0 then .error .mustBeZero else
    if (w / 1073741824 % 4) ≠ 0 then .error .mustBeZero else
    .ok (.fxstoRel (w / 16777216 % 64) (w / 65536 % 64))
  | _ => .error .reservedMinor

/-- Major 0x78 (R71). -/
noncomputable def decodeM78 (w : Nat) : Except DecodeError Instr :=
  match w / 256 % 16 with
  | 0 =>
    if (w / 4096 % 16) ≠ 0 then .error .mustBeZero else
    if (w / 524288 % 32) ≠ 0 then .error .mustBeZero else
    if (w / 1073741824 % 4) ≠ 0 then .error .mustBeZero else
    .ok (.fxcnt (w / 16777216 % 64) (w / 65536 % 8))
  | _ => .error .reservedMinor

/-- Major 0x7F (R71). -/
def decodeM7F (w : Nat) : Except DecodeError Instr :=
  .ok (.runHead (w / 2147483648 % 2) (w / 1073741824 % 2) (w / 16384 % 65536) (w / 256 % 64))

/-- A 32-bit instruction by its major opcode, bits 7:1 (R69, R71). -/
noncomputable def decode32 (w : Nat) : Except DecodeError Instr :=
  match w / 2 % 128 with
  | 0 => decodeM00 w
  | 1 => decodeM01 w
  | 2 => decodeM02 w
  | 3 => decodeM03 w
  | 4 => decodeM04 w
  | 5 => decodeM05 w
  | 6 => decodeM06 w
  | 7 => decodeM07 w
  | 8 => decodeM08 w
  | 9 => decodeM09 w
  | 10 => decodeM0A w
  | 16 => decodeM10 w
  | 17 => decodeM11 w
  | 18 => decodeM12 w
  | 19 => decodeM13 w
  | 20 => decodeM14 w
  | 21 => decodeM15 w
  | 22 => decodeM16 w
  | 23 => decodeM17 w
  | 24 => decodeM18 w
  | 32 => decodeM20 w
  | 33 => decodeM21 w
  | 34 => decodeM22 w
  | 35 => decodeM23 w
  | 36 => decodeM24 w
  | 37 => decodeM25 w
  | 38 => decodeM26 w
  | 39 => decodeM27 w
  | 40 => decodeM28 w
  | 41 => decodeM29 w
  | 42 => decodeM2A w
  | 43 => decodeM2B w
  | 44 => decodeM2C w
  | 45 => decodeM2D w
  | 46 => decodeM2E w
  | 47 => decodeM2F w
  | 48 => decodeM30 w
  | 49 => decodeM31 w
  | 50 => decodeM32 w
  | 51 => decodeM33 w
  | 52 => decodeM34 w
  | 53 => decodeM35 w
  | 54 => decodeM36 w
  | 55 => decodeM37 w
  | 56 => decodeM38 w
  | 57 => decodeM39 w
  | 58 => decodeM3A w
  | 59 => decodeM3B w
  | 60 => decodeM3C w
  | 64 => decodeM40 w
  | 65 => decodeM41 w
  | 66 => decodeM42 w
  | 67 => decodeM43 w
  | 68 => decodeM44 w
  | 69 => decodeM45 w
  | 70 => decodeM46 w
  | 72 => decodeM48 w
  | 73 => decodeM49 w
  | 74 => decodeM4A w
  | 75 => decodeM4B w
  | 76 => decodeM4C w
  | 77 => decodeM4D w
  | 78 => decodeM4E w
  | 79 => decodeM4F w
  | 80 => decodeM50 w
  | 81 => decodeM51 w
  | 82 => decodeM52 w
  | 83 => decodeM53 w
  | 84 => decodeM54 w
  | 85 => decodeM55 w
  | 86 => decodeM56 w
  | 88 => decodeM58 w
  | 89 => decodeM59 w
  | 90 => decodeM5A w
  | 91 => decodeM5B w
  | 92 => decodeM5C w
  | 93 => decodeM5D w
  | 94 => decodeM5E w
  | 95 => decodeM5F w
  | 96 => decodeM60 w
  | 97 => decodeM61 w
  | 98 => decodeM62 w
  | 99 => decodeM63 w
  | 100 => decodeM64 w
  | 101 => decodeM65 w
  | 102 => decodeM66 w
  | 103 => decodeM67 w
  | 104 => decodeM68 w
  | 105 => decodeM69 w
  | 106 => decodeM6A w
  | 107 => decodeM6B w
  | 108 => decodeM6C w
  | 109 => decodeM6D w
  | 110 => decodeM6E w
  | 112 => decodeM70 w
  | 113 => decodeM71 w
  | 114 => decodeM72 w
  | 115 => decodeM73 w
  | 116 => decodeM74 w
  | 117 => decodeM75 w
  | 118 => decodeM76 w
  | 119 => decodeM77 w
  | 120 => decodeM78 w
  | 127 => decodeM7F w
  | _ => .error .reservedMajor

/-- A 16-bit instruction by its operation, bits 4:1 (R63); the halfword 0 is the pad (R59). -/
def decode16 (w : Nat) : Except DecodeError Instr :=
  if w = 0 then .ok .pad else
  match w / 2 % 16 with
  | 0 => .ok (.vmov ⟨(w / 32768 % 2), (w / 1024 % 32), (w / 32 % 32)⟩)
  | 1 => .ok (.vaddI32H ⟨(w / 32768 % 2), (w / 1024 % 32), (w / 32 % 32)⟩)
  | 2 => .ok (.vsubI32H ⟨(w / 32768 % 2), (w / 1024 % 32), (w / 32 % 32)⟩)
  | 3 => .ok (.vmulI32H ⟨(w / 32768 % 2), (w / 1024 % 32), (w / 32 % 32)⟩)
  | 4 => .ok (.vandH ⟨(w / 32768 % 2), (w / 1024 % 32), (w / 32 % 32)⟩)
  | 5 => .ok (.vorH ⟨(w / 32768 % 2), (w / 1024 % 32), (w / 32 % 32)⟩)
  | 6 => .ok (.vxorH ⟨(w / 32768 % 2), (w / 1024 % 32), (w / 32 % 32)⟩)
  | 7 => .ok (.vshlI32H ⟨(w / 32768 % 2), (w / 1024 % 32), (w / 32 % 32)⟩)
  | 8 => .ok (.vsraI32H ⟨(w / 32768 % 2), (w / 1024 % 32), (w / 32 % 32)⟩)
  | 9 => .ok (.vaddF32H ⟨(w / 32768 % 2), (w / 1024 % 32), (w / 32 % 32)⟩)
  | 10 => .ok (.vsubF32H ⟨(w / 32768 % 2), (w / 1024 % 32), (w / 32 % 32)⟩)
  | 11 => .ok (.vmulF32H ⟨(w / 32768 % 2), (w / 1024 % 32), (w / 32 % 32)⟩)
  | 12 => .ok (.vmaxF32H ⟨(w / 32768 % 2), (w / 1024 % 32), (w / 32 % 32)⟩)
  | 13 => .ok (.vminF32H ⟨(w / 32768 % 2), (w / 1024 % 32), (w / 32 % 32)⟩)
  | 14 => .ok (.vaddBf16x2H ⟨(w / 32768 % 2), (w / 1024 % 32), (w / 32 % 32)⟩)
  | 15 => .ok (.vmulBf16x2H ⟨(w / 32768 % 2), (w / 1024 % 32), (w / 32 % 32)⟩)
  | _ => .error .reservedMinor

/-- One instruction off the front of the bytes, and its length in bytes (R55). -/
noncomputable def decode (bs : List Byte) : Except DecodeError (Instr × Nat) :=
  match bs with
  | b0 :: b1 :: t =>
    if b0.toNat % 2 = 0 then
      match decode16 (b0.toNat + 256 * b1.toNat) with
      | .ok i => .ok (i, 2)
      | .error e => .error e
    else
      match t with
      | b2 :: b3 :: _ =>
        match decode32 (b0.toNat + 256 * b1.toNat + 65536 * b2.toNat + 16777216 * b3.toNat) with
        | .ok i => .ok (i, 4)
        | .error e => .error e
      | _ => .error .truncated
  | _ => .error .truncated

/-- The instruction the decoder reads from an opcode-table row's bits (host interface). -/
noncomputable def decodeTableWord (nbits w : Nat) : Option Instr :=
  match decode (toBytes 4 (w % 2 ^ nbits)) with
  | .ok (i, _) => some i
  | .error _ => none

/-- The length in bytes and the bits of an instruction's encoding; an event has none. -/
def encodeWord : Instr → Option (Nat × Nat)
  | .matrixStepPerform _ _ _ => none
  | .ztileAccessPerform _ _ _ => none
  | .teamTransferArrival _ _ _ => none
  | .ztileQueueRoom _ => none
  | .waveletRequestDone _ _ => none
  | .latticeWritePerform _ _ => none
  | .lwaitTimeout _ _ => none
  | .latticeQueueRoom _ => none
  | .exchangeRoundStart _ => none
  | .exchangeTransferArrival _ _ => none
  | .latticePageClear _ => none
  | .loadDataArrival _ _ _ _ => none
  | .atomicPerform _ _ => none
  | .cbloadTableWrite _ _ => none
  | .cbloadQueueRoom _ => none
  | .storeQueueRoom _ => none
  | .coherenceRequest _ _ _ => none
  | .transientRequestTimeout _ _ _ => none
  | .regionMerge _ _ => none
  | .lockUpdateArrival _ _ _ _ _ _ => none
  | .writerLockTimeout _ => none
  | .replicaLockTimeout _ _ _ => none
  | .copyChunkDelivery _ _ _ => none
  | .weightPageCheck _ _ => none
  | .copySlotFree _ => none
  | .slotPick _ => none
  | .asyncConditionDelivery _ => none
  | .groupRelease _ _ => none
  | .preemption _ _ => none
  | .restore _ _ _ => none
  | .gangSuspend _ => none
  | .faultQueueRoom _ => none
  | .directoryReadRequest _ _ _ _ => none
  | .directoryWriteRequest _ _ _ _ => none
  | .directoryRelease _ _ _ => none
  | .replicateRequest _ _ _ _ => none
  | .unreplicateRequest _ _ _ => none
  | .readerAddition _ _ _ _ _ => none
  | .probe _ _ _ _ => none
  | .notHereReply _ => none
  | .invalidation _ _ _ _ _ _ => none
  | .pageShipmentArrival _ _ _ _ _ _ _ => none
  | .recordReplay _ _ => none
  | .writeBackArrival _ _ _ _ _ => none
  | .writeBackAck _ _ => none
  | .filterAddition _ _ _ _ => none
  | .filterRebuild _ => none
  | .meridianAttemptTimeout _ _ => none
  | .declineQueueRoom => none
  | .frameWaitTimeout _ _ => none
  | .supply _ _ _ => none
  | .retry _ => none
  | .refuse _ => none
  | .kill _ => none
  | .replicate _ _ _ => none
  | .unreplicate _ _ => none
  | .pageMigration _ _ _ _ => none
  | .migrationCutover _ _ => none
  | .head _ _ _ _ _ => none
  | .body _ _ _ _ _ => none
  | .ack _ _ => none
  | .retryFlit _ _ => none
  | .credit _ _ _ => none
  | .train _ => none
  | .idle _ => none
  | .laneLockLoss _ => none
  | .linkTrained _ => none
  | .ackTimer _ => none
  | .creditTimer _ => none
  | .loadRequest _ => none
  | .storeRequest _ => none
  | .atomicRequest _ => none
  | .flagStore _ => none
  | .flagStoreRelease _ _ => none
  | .floorNotice _ => none
  | .loadReply _ => none
  | .acknowledgement _ => none
  | .atomicReply _ => none
  | .refusal _ => none
  | .refusalSend _ => none
  | .e2eAttemptTimeout _ _ => none
  | .e2eWindowRoom _ => none
  | .queueDoorbell _ _ => none
  | .packetAdmission _ _ _ _ => none
  | .admissionWaitTimeout _ _ => none
  | .reserve _ _ _ _ _ _ => none
  | .grant _ _ _ => none
  | .commit _ _ => none
  | .rollback _ => none
  | .gangReserveTimeout _ => none
  | .gangRetryTimer _ _ => none
  | .gangStart _ => none
  | .energyTick _ => none
  | .npartWrite _ => none
  | .splitRegisterWrite _ _ => none
  | .registerWrite _ _ => none
  | .sensorSample _ => none
  | .hotHoldTimeout _ => none
  | .thermalMigration _ _ => none
  | .clockStepDown _ => none
  | .clockStepUp _ => none
  | .criticalTimeout _ => none
  | .watchdogExpiry => none
  | .firmwareImageWrite _ _ => none
  | .antiRollbackRaise => none
  | .dumpclr => none
  | .powerUp _ => none
  | .tlbInvalidationComplete _ => none
  | .replicaConfirmation _ _ => none
  | .meridianReply _ _ _ _ => none
  | .directoryAcknowledgement _ _ _ => none
  | .unknownKindFlit _ => none
  | .reachabilityReport _ _ _ => none
  | .gangContactLost _ => none
  | .bar2WindowAccess _ _ _ => none
  | .hostCoreStore _ => none
  | .logEntryFlashWrite => none
  | .powerLoss => none
  | .deviceReset => none
  | .runHead t p a l => some (4, t * 2147483648 + p * 1073741824 + a * 16384 + l * 256 + 255)
  | .pad => some (2, 0)
  | .vmov f => some (2, f.m * 32768 + f.vs * 1024 + f.vd * 32 + 0)
  | .vaddI32H f => some (2, f.m * 32768 + f.vs * 1024 + f.vd * 32 + 2)
  | .vsubI32H f => some (2, f.m * 32768 + f.vs * 1024 + f.vd * 32 + 4)
  | .vmulI32H f => some (2, f.m * 32768 + f.vs * 1024 + f.vd * 32 + 6)
  | .vandH f => some (2, f.m * 32768 + f.vs * 1024 + f.vd * 32 + 8)
  | .vorH f => some (2, f.m * 32768 + f.vs * 1024 + f.vd * 32 + 10)
  | .vxorH f => some (2, f.m * 32768 + f.vs * 1024 + f.vd * 32 + 12)
  | .vshlI32H f => some (2, f.m * 32768 + f.vs * 1024 + f.vd * 32 + 14)
  | .vsraI32H f => some (2, f.m * 32768 + f.vs * 1024 + f.vd * 32 + 16)
  | .vaddF32H f => some (2, f.m * 32768 + f.vs * 1024 + f.vd * 32 + 18)
  | .vsubF32H f => some (2, f.m * 32768 + f.vs * 1024 + f.vd * 32 + 20)
  | .vmulF32H f => some (2, f.m * 32768 + f.vs * 1024 + f.vd * 32 + 22)
  | .vmaxF32H f => some (2, f.m * 32768 + f.vs * 1024 + f.vd * 32 + 24)
  | .vminF32H f => some (2, f.m * 32768 + f.vs * 1024 + f.vd * 32 + 26)
  | .vaddBf16x2H f => some (2, f.m * 32768 + f.vs * 1024 + f.vd * 32 + 28)
  | .vmulBf16x2H f => some (2, f.m * 32768 + f.vs * 1024 + f.vd * 32 + 30)
  | .nop => some (4, 1)
  | .exit => some (4, 257)
  | .tret => some (4, 513)
  | .brk i => some (4, i * 67108864 + 769)
  | .waitdep => some (4, 1025)
  | .trigger => some (4, 1281)
  | .tkrd a => some (4, a * 67108864 + 1537)
  | .bra o => some (4, (o % 262144).toNat * 16384 + 3)
  | .call o l => some (4, (o % 262144).toNat * 16384 + l * 256 + 8195)
  | .brm o k => some (4, (o % 262144).toNat * 16384 + k * 256 + 5)
  | .brmz o k => some (4, (o % 262144).toNat * 16384 + k * 256 + 4101)
  | .brany o k => some (4, (o % 262144).toNat * 16384 + k * 256 + 8197)
  | .brall o k => some (4, (o % 262144).toNat * 16384 + k * 256 + 12293)
  | .bnz o c => some (4, (o % 262144).toNat * 16384 + c * 256 + 7)
  | .bz o c => some (4, (o % 262144).toNat * 16384 + c * 256 + 8199)
  | .jmp a => some (4, a * 67108864 + 9)
  | .jmpv a => some (4, a * 67108864 + 265)
  | .calli a b => some (4, a * 67108864 + b * 1048576 + 521)
  | .callv a b => some (4, a * 67108864 + b * 1048576 + 777)
  | .setvl d n p g e => some (4, d * 67108864 + n * 1048576 + p * 524288 + g * 131072 + e * 16384 + 11)
  | .setvlr d n c => some (4, d * 67108864 + n * 1048576 + c * 16384 + 267)
  | .mand d a b => some (4, d * 67108864 + a * 1048576 + b * 16384 + 13)
  | .mor d a b => some (4, d * 67108864 + a * 1048576 + b * 16384 + 269)
  | .mxor d a b => some (4, d * 67108864 + a * 1048576 + b * 16384 + 525)
  | .mandn d a b => some (4, d * 67108864 + a * 1048576 + b * 16384 + 781)
  | .morn d a b => some (4, d * 67108864 + a * 1048576 + b * 16384 + 1037)
  | .mnot d a => some (4, d * 67108864 + a * 1048576 + 1293)
  | .mmov d a => some (4, d * 67108864 + a * 1048576 + 1549)
  | .mvl d => some (4, d * 67108864 + 1805)
  | .mact d => some (4, d * 67108864 + 2061)
  | .mpop d a => some (4, d * 67108864 + a * 1048576 + 2317)
  | .mfirst d a => some (4, d * 67108864 + a * 1048576 + 2573)
  | .mrds d a k => some (4, d * 67108864 + a * 1048576 + k * 16384 + 2829)
  | .mwrs d b k => some (4, d * 67108864 + b * 1048576 + k * 16384 + 3085)
  | .barArrive a b c => some (4, a * 67108864 + b * 1048576 + c * 16384 + 15)
  | .barCharge a b => some (4, a * 67108864 + b * 1048576 + 271)
  | .barWait a b => some (4, a * 67108864 + b * 1048576 + 527)
  | .stgArrive n k => some (4, n * 67108864 + k * 1048576 + 17)
  | .stgWait n k p => some (4, n * 67108864 + k * 1048576 + p * 16384 + 273)
  | .csrr a n => some (4, a * 67108864 + n * 1048576 + 19)
  | .csrw a n => some (4, a * 67108864 + n * 1048576 + 275)
  | .csrset a n => some (4, a * 67108864 + n * 1048576 + 531)
  | .csrclr a n => some (4, a * 67108864 + n * 1048576 + 787)
  | .rdts a n => some (4, a * 67108864 + n * 16384 + 1043)
  | .wrts a n => some (4, a * 67108864 + n * 16384 + 1299)
  | .rdvpc a => some (4, a * 67108864 + 1555)
  | .tlbiVa a b => some (4, a * 67108864 + b * 1048576 + 21)
  | .tlbiAsid a => some (4, a * 67108864 + 277)
  | .ptsync => some (4, 533)
  | .add d a b => some (4, d * 67108864 + a * 1048576 + b * 16384 + 33)
  | .sub d a b => some (4, d * 67108864 + a * 1048576 + b * 16384 + 289)
  | .mul d a b => some (4, d * 67108864 + a * 1048576 + b * 16384 + 545)
  | .mulh d a b => some (4, d * 67108864 + a * 1048576 + b * 16384 + 801)
  | .mulhu d a b => some (4, d * 67108864 + a * 1048576 + b * 16384 + 1057)
  | .div d a b => some (4, d * 67108864 + a * 1048576 + b * 16384 + 1313)
  | .divu d a b => some (4, d * 67108864 + a * 1048576 + b * 16384 + 1569)
  | .rem d a b => some (4, d * 67108864 + a * 1048576 + b * 16384 + 1825)
  | .remu d a b => some (4, d * 67108864 + a * 1048576 + b * 16384 + 2081)
  | .and d a b => some (4, d * 67108864 + a * 1048576 + b * 16384 + 2337)
  | .or d a b => some (4, d * 67108864 + a * 1048576 + b * 16384 + 2593)
  | .xor d a b => some (4, d * 67108864 + a * 1048576 + b * 16384 + 2849)
  | .andn d a b => some (4, d * 67108864 + a * 1048576 + b * 16384 + 3105)
  | .shl d a b => some (4, d * 67108864 + a * 1048576 + b * 16384 + 3361)
  | .shr d a b => some (4, d * 67108864 + a * 1048576 + b * 16384 + 3617)
  | .sra d a b => some (4, d * 67108864 + a * 1048576 + b * 16384 + 3873)
  | .ror d a b => some (4, d * 67108864 + a * 1048576 + b * 16384 + 4129)
  | .slt d a b => some (4, d * 67108864 + a * 1048576 + b * 16384 + 4385)
  | .sltu d a b => some (4, d * 67108864 + a * 1048576 + b * 16384 + 4641)
  | .seq d a b => some (4, d * 67108864 + a * 1048576 + b * 16384 + 4897)
  | .min d a b => some (4, d * 67108864 + a * 1048576 + b * 16384 + 5153)
  | .max d a b => some (4, d * 67108864 + a * 1048576 + b * 16384 + 5409)
  | .minu d a b => some (4, d * 67108864 + a * 1048576 + b * 16384 + 5665)
  | .maxu d a b => some (4, d * 67108864 + a * 1048576 + b * 16384 + 5921)
  | .clz d a => some (4, d * 67108864 + a * 1048576 + 6177)
  | .popc d a => some (4, d * 67108864 + a * 1048576 + 6433)
  | .addi d a i => some (4, d * 67108864 + a * 1048576 + (i % 4096).toNat * 256 + 35)
  | .andi d a i => some (4, d * 67108864 + a * 1048576 + (i % 4096).toNat * 256 + 37)
  | .ori d a i => some (4, d * 67108864 + a * 1048576 + (i % 4096).toNat * 256 + 39)
  | .xori d a i => some (4, d * 67108864 + a * 1048576 + (i % 4096).toNat * 256 + 41)
  | .shli d a n => some (4, d * 67108864 + a * 1048576 + n * 256 + 43)
  | .shri d a n => some (4, d * 67108864 + a * 1048576 + n * 256 + 16427)
  | .srai d a n => some (4, d * 67108864 + a * 1048576 + n * 256 + 32811)
  | .rori d a n => some (4, d * 67108864 + a * 1048576 + n * 256 + 49195)
  | .lui d i => some (4, d * 67108864 + (i % 262144).toNat * 256 + 45)
  | .seqi d a i => some (4, d * 67108864 + a * 1048576 + (i % 1024).toNat * 256 + 47)
  | .slti d a i => some (4, d * 67108864 + a * 1048576 + (i % 1024).toNat * 256 + 262191)
  | .sltiu d a i => some (4, d * 67108864 + a * 1048576 + (i % 1024).toNat * 256 + 524335)
  | .sgti d a i => some (4, d * 67108864 + a * 1048576 + (i % 1024).toNat * 256 + 786479)
  | .pspace d a k => some (4, d * 67108864 + a * 1048576 + k * 16384 + 49)
  | .prank d a b => some (4, d * 67108864 + a * 1048576 + b * 16384 + 305)
  | .ppol d a p => some (4, d * 67108864 + a * 1048576 + p * 16384 + 561)
  | .pget d a k => some (4, d * 67108864 + a * 1048576 + k * 16384 + 817)
  | .vadd f t => some (4, f.vs2 * 134217728 + f.vs1 * 4194304 + f.vd * 131072 + f.vb * 16384 + f.pr * 1024 + t * 256 + 65)
  | .vsub f t => some (4, f.vs2 * 134217728 + f.vs1 * 4194304 + f.vd * 131072 + f.vb * 16384 + f.pr * 1024 + t * 256 + 67)
  | .vmul f t => some (4, f.vs2 * 134217728 + f.vs1 * 4194304 + f.vd * 131072 + f.vb * 16384 + f.pr * 1024 + t * 256 + 69)
  | .vmulhI f => some (4, f.vs2 * 134217728 + f.vs1 * 4194304 + f.vd * 131072 + f.vb * 16384 + f.pr * 1024 + 71)
  | .vmulhN f => some (4, f.vs2 * 134217728 + f.vs1 * 4194304 + f.vd * 131072 + f.vb * 16384 + f.pr * 1024 + 327)
  | .vmulhIn f => some (4, f.vs2 * 134217728 + f.vs1 * 4194304 + f.vd * 131072 + f.vb * 16384 + f.pr * 1024 + 583)
  | .vminI f => some (4, f.vs2 * 134217728 + f.vs1 * 4194304 + f.vd * 131072 + f.vb * 16384 + f.pr * 1024 + 73)
  | .vminN f => some (4, f.vs2 * 134217728 + f.vs1 * 4194304 + f.vd * 131072 + f.vb * 16384 + f.pr * 1024 + 329)
  | .vmaxI f => some (4, f.vs2 * 134217728 + f.vs1 * 4194304 + f.vd * 131072 + f.vb * 16384 + f.pr * 1024 + 75)
  | .vmaxN f => some (4, f.vs2 * 134217728 + f.vs1 * 4194304 + f.vd * 131072 + f.vb * 16384 + f.pr * 1024 + 331)
  | .vaddsI f => some (4, f.vs2 * 134217728 + f.vs1 * 4194304 + f.vd * 131072 + f.vb * 16384 + f.pr * 1024 + 77)
  | .vaddsN f => some (4, f.vs2 * 134217728 + f.vs1 * 4194304 + f.vd * 131072 + f.vb * 16384 + f.pr * 1024 + 333)
  | .vavgI f => some (4, f.vs2 * 134217728 + f.vs1 * 4194304 + f.vd * 131072 + f.vb * 16384 + f.pr * 1024 + 589)
  | .vavgN f => some (4, f.vs2 * 134217728 + f.vs1 * 4194304 + f.vd * 131072 + f.vb * 16384 + f.pr * 1024 + 845)
  | .vsubsI f => some (4, f.vs2 * 134217728 + f.vs1 * 4194304 + f.vd * 131072 + f.vb * 16384 + f.pr * 1024 + 79)
  | .vsubsN f => some (4, f.vs2 * 134217728 + f.vs1 * 4194304 + f.vd * 131072 + f.vb * 16384 + f.pr * 1024 + 335)
  | .vabsdI f => some (4, f.vs2 * 134217728 + f.vs1 * 4194304 + f.vd * 131072 + f.vb * 16384 + f.pr * 1024 + 591)
  | .vabsdN f => some (4, f.vs2 * 134217728 + f.vs1 * 4194304 + f.vd * 131072 + f.vb * 16384 + f.pr * 1024 + 847)
  | .vand f => some (4, f.vs2 * 134217728 + f.vs1 * 4194304 + f.vd * 131072 + f.vb * 16384 + f.pr * 1024 + 81)
  | .vor f => some (4, f.vs2 * 134217728 + f.vs1 * 4194304 + f.vd * 131072 + f.vb * 16384 + f.pr * 1024 + 337)
  | .vxor f => some (4, f.vs2 * 134217728 + f.vs1 * 4194304 + f.vd * 131072 + f.vb * 16384 + f.pr * 1024 + 593)
  | .vandn f => some (4, f.vs2 * 134217728 + f.vs1 * 4194304 + f.vd * 131072 + f.vb * 16384 + f.pr * 1024 + 849)
  | .vshlVector f => some (4, f.vs2 * 134217728 + f.vs1 * 4194304 + f.vd * 131072 + f.vb * 16384 + f.pr * 1024 + 83)
  | .vsrlVector f => some (4, f.vs2 * 134217728 + f.vs1 * 4194304 + f.vd * 131072 + f.vb * 16384 + f.pr * 1024 + 339)
  | .vsraVector f => some (4, f.vs2 * 134217728 + f.vs1 * 4194304 + f.vd * 131072 + f.vb * 16384 + f.pr * 1024 + 595)
  | .vrsraVector f => some (4, f.vs2 * 134217728 + f.vs1 * 4194304 + f.vd * 131072 + f.vb * 16384 + f.pr * 1024 + 851)
  | .vshlScalar f => some (4, f.vs2 * 134217728 + f.vs1 * 4194304 + f.vd * 131072 + f.vb * 16384 + f.pr * 1024 + 85)
  | .vsrlScalar f => some (4, f.vs2 * 134217728 + f.vs1 * 4194304 + f.vd * 131072 + f.vb * 16384 + f.pr * 1024 + 341)
  | .vsraScalar f => some (4, f.vs2 * 134217728 + f.vs1 * 4194304 + f.vd * 131072 + f.vb * 16384 + f.pr * 1024 + 597)
  | .vrsraScalar f => some (4, f.vs2 * 134217728 + f.vs1 * 4194304 + f.vd * 131072 + f.vb * 16384 + f.pr * 1024 + 853)
  | .vshlImm f => some (4, f.vs2 * 134217728 + f.vs1 * 4194304 + f.vd * 131072 + f.vb * 16384 + f.pr * 1024 + 87)
  | .vsrlImm f => some (4, f.vs2 * 134217728 + f.vs1 * 4194304 + f.vd * 131072 + f.vb * 16384 + f.pr * 1024 + 343)
  | .vsraImm f => some (4, f.vs2 * 134217728 + f.vs1 * 4194304 + f.vd * 131072 + f.vb * 16384 + f.pr * 1024 + 599)
  | .vrsraImm f => some (4, f.vs2 * 134217728 + f.vs1 * 4194304 + f.vd * 131072 + f.vb * 16384 + f.pr * 1024 + 855)
  | .vcmpeq f => some (4, f.vs2 * 134217728 + f.vs1 * 4194304 + f.vd * 131072 + f.vb * 16384 + f.pr * 1024 + 89)
  | .vcmpne f => some (4, f.vs2 * 134217728 + f.vs1 * 4194304 + f.vd * 131072 + f.vb * 16384 + f.pr * 1024 + 345)
  | .vcmpltI f => some (4, f.vs2 * 134217728 + f.vs1 * 4194304 + f.vd * 131072 + f.vb * 16384 + f.pr * 1024 + 601)
  | .vcmpltN f => some (4, f.vs2 * 134217728 + f.vs1 * 4194304 + f.vd * 131072 + f.vb * 16384 + f.pr * 1024 + 857)
  | .vpmac2I16x2 f => some (4, f.vs2 * 134217728 + f.vs1 * 4194304 + f.vd * 131072 + f.vb * 16384 + f.pr * 1024 + 91)
  | .vpmac2I16x2Scalar f => some (4, f.vs2 * 134217728 + f.vs1 * 4194304 + f.vd * 131072 + f.vb * 16384 + f.pr * 1024 + 347)
  | .vpaddsI16x2 f => some (4, f.vs2 * 134217728 + f.vs1 * 4194304 + f.vd * 131072 + f.vb * 16384 + f.pr * 1024 + 603)
  | .vmac f => some (4, f.vs2 * 134217728 + f.vs1 * 4194304 + f.vd * 131072 + f.vb * 16384 + f.pr * 1024 + 859)
  | .vaddScalar f => some (4, f.vs2 * 134217728 + f.vs1 * 4194304 + f.vd * 131072 + f.vb * 16384 + f.pr * 1024 + 93)
  | .vsubScalar f => some (4, f.vs2 * 134217728 + f.vs1 * 4194304 + f.vd * 131072 + f.vb * 16384 + f.pr * 1024 + 349)
  | .vrsub f => some (4, f.vs2 * 134217728 + f.vs1 * 4194304 + f.vd * 131072 + f.vb * 16384 + f.pr * 1024 + 605)
  | .vmulScalar f => some (4, f.vs2 * 134217728 + f.vs1 * 4194304 + f.vd * 131072 + f.vb * 16384 + f.pr * 1024 + 861)
  | .vsel f => some (4, f.vs2 * 134217728 + f.vs1 * 4194304 + f.vd * 131072 + f.vb * 16384 + f.pr * 1024 + 95)
  | .vsplat s d b p => some (4, s * 134217728 + d * 131072 + b * 16384 + p * 1024 + 351)
  | .vid d b p => some (4, d * 131072 + b * 16384 + p * 1024 + 607)
  | .vaddF f t => some (4, f.vs2 * 134217728 + f.vs1 * 4194304 + f.vd * 131072 + f.vb * 16384 + f.pr * 1024 + t * 256 + 97)
  | .vsubF f t => some (4, f.vs2 * 134217728 + f.vs1 * 4194304 + f.vd * 131072 + f.vb * 16384 + f.pr * 1024 + t * 256 + 99)
  | .vmulF f t => some (4, f.vs2 * 134217728 + f.vs1 * 4194304 + f.vd * 131072 + f.vb * 16384 + f.pr * 1024 + t * 256 + 101)
  | .vdivF f t => some (4, f.vs2 * 134217728 + f.vs1 * 4194304 + f.vd * 131072 + f.vb * 16384 + f.pr * 1024 + t * 256 + 103)
  | .vfmaF f t => some (4, f.vs2 * 134217728 + f.vs1 * 4194304 + f.vd * 131072 + f.vb * 16384 + f.pr * 1024 + t * 256 + 105)
  | .vfmsF f t => some (4, f.vs2 * 134217728 + f.vs1 * 4194304 + f.vd * 131072 + f.vb * 16384 + f.pr * 1024 + t * 256 + 107)
  | .vfnmaF f t => some (4, f.vs2 * 134217728 + f.vs1 * 4194304 + f.vd * 131072 + f.vb * 16384 + f.pr * 1024 + t * 256 + 109)
  | .vminF f t => some (4, f.vs2 * 134217728 + f.vs1 * 4194304 + f.vd * 131072 + f.vb * 16384 + f.pr * 1024 + t * 256 + 111)
  | .vmaxF f t => some (4, f.vs2 * 134217728 + f.vs1 * 4194304 + f.vd * 131072 + f.vb * 16384 + f.pr * 1024 + t * 256 + 113)
  | .vfcmpeq f => some (4, f.vs2 * 134217728 + f.vs1 * 4194304 + f.vd * 131072 + f.vb * 16384 + f.pr * 1024 + 115)
  | .vfcmplt f => some (4, f.vs2 * 134217728 + f.vs1 * 4194304 + f.vd * 131072 + f.vb * 16384 + f.pr * 1024 + 371)
  | .vfcmple f => some (4, f.vs2 * 134217728 + f.vs1 * 4194304 + f.vd * 131072 + f.vb * 16384 + f.pr * 1024 + 627)
  | .vfcmpun f => some (4, f.vs2 * 134217728 + f.vs1 * 4194304 + f.vd * 131072 + f.vb * 16384 + f.pr * 1024 + 883)
  | .vsqrt f => some (4, f.a * 16777216 + f.b * 65536 + f.ia * 32768 + f.ib * 16384 + f.pr * 1024 + 117)
  | .vabs f => some (4, f.a * 16777216 + f.b * 65536 + f.ia * 32768 + f.ib * 16384 + f.pr * 1024 + 373)
  | .vneg f => some (4, f.a * 16777216 + f.b * 65536 + f.ia * 32768 + f.ib * 16384 + f.pr * 1024 + 629)
  | .vclass f => some (4, f.a * 16777216 + f.b * 65536 + f.ia * 32768 + f.ib * 16384 + f.pr * 1024 + 885)
  | .vaddFScalar f => some (4, f.vs2 * 134217728 + f.vs1 * 4194304 + f.vd * 131072 + f.vb * 16384 + f.pr * 1024 + 119)
  | .vmulFScalar f => some (4, f.vs2 * 134217728 + f.vs1 * 4194304 + f.vd * 131072 + f.vb * 16384 + f.pr * 1024 + 375)
  | .vfmaFScalar f => some (4, f.vs2 * 134217728 + f.vs1 * 4194304 + f.vd * 131072 + f.vb * 16384 + f.pr * 1024 + 631)
  | .vsubFScalar f => some (4, f.vs2 * 134217728 + f.vs1 * 4194304 + f.vd * 131072 + f.vb * 16384 + f.pr * 1024 + 887)
  | .vaddBf16x2 f => some (4, f.vs2 * 134217728 + f.vs1 * 4194304 + f.vd * 131072 + f.vb * 16384 + f.pr * 1024 + 121)
  | .vsubBf16x2 f => some (4, f.vs2 * 134217728 + f.vs1 * 4194304 + f.vd * 131072 + f.vb * 16384 + f.pr * 1024 + 377)
  | .vmulBf16x2 f => some (4, f.vs2 * 134217728 + f.vs1 * 4194304 + f.vd * 131072 + f.vb * 16384 + f.pr * 1024 + 633)
  | .vfmaBf16x2 f => some (4, f.vs2 * 134217728 + f.vs1 * 4194304 + f.vd * 131072 + f.vb * 16384 + f.pr * 1024 + 889)
  | .vfcvt f t => some (4, f.a * 16777216 + f.b * 65536 + f.ia * 32768 + f.ib * 16384 + f.pr * 1024 + t * 256 + 129)
  | .vfcvtI f => some (4, f.a * 16777216 + f.b * 65536 + f.ia * 32768 + f.ib * 16384 + f.pr * 1024 + 131)
  | .vfcvtN f => some (4, f.a * 16777216 + f.b * 65536 + f.ia * 32768 + f.ib * 16384 + f.pr * 1024 + 387)
  | .vfcvtzI f => some (4, f.a * 16777216 + f.b * 65536 + f.ia * 32768 + f.ib * 16384 + f.pr * 1024 + 643)
  | .vfcvtzN f => some (4, f.a * 16777216 + f.b * 65536 + f.ia * 32768 + f.ib * 16384 + f.pr * 1024 + 899)
  | .vicvtI f => some (4, f.a * 16777216 + f.b * 65536 + f.ia * 32768 + f.ib * 16384 + f.pr * 1024 + 133)
  | .vicvtN f => some (4, f.a * 16777216 + f.b * 65536 + f.ia * 32768 + f.ib * 16384 + f.pr * 1024 + 389)
  | .vsext f => some (4, f.a * 16777216 + f.b * 65536 + f.ia * 32768 + f.ib * 16384 + f.pr * 1024 + 135)
  | .vzext f => some (4, f.a * 16777216 + f.b * 65536 + f.ia * 32768 + f.ib * 16384 + f.pr * 1024 + 391)
  | .vnarrow f => some (4, f.a * 16777216 + f.b * 65536 + f.ia * 32768 + f.ib * 16384 + f.pr * 1024 + 647)
  | .vnarrows f => some (4, f.a * 16777216 + f.b * 65536 + f.ia * 32768 + f.ib * 16384 + f.pr * 1024 + 903)
  | .vmxcvtToMx f t => some (4, f.a * 16777216 + f.b * 65536 + f.ia * 32768 + f.ib * 16384 + t * 256 + 137)
  | .vmxcvtFromMx f t => some (4, f.a * 16777216 + f.b * 65536 + f.ia * 32768 + f.ib * 16384 + t * 256 + 139)
  | .vmxcvtMxint8F32 f => some (4, f.a * 16777216 + f.b * 65536 + f.ia * 32768 + f.ib * 16384 + 141)
  | .vmxcvtF32Mxint8 f => some (4, f.a * 16777216 + f.b * 65536 + f.ia * 32768 + f.ib * 16384 + 397)
  | .vbfpcvtBfp8F32 f => some (4, f.a * 16777216 + f.b * 65536 + f.ia * 32768 + f.ib * 16384 + 653)
  | .vbfpcvtF32Bfp8 f => some (4, f.a * 16777216 + f.b * 65536 + f.ia * 32768 + f.ib * 16384 + 909)
  | .vexp2 f => some (4, f.a * 16777216 + f.b * 65536 + f.ia * 32768 + f.ib * 16384 + f.pr * 1024 + 145)
  | .vlog2 f => some (4, f.a * 16777216 + f.b * 65536 + f.ia * 32768 + f.ib * 16384 + f.pr * 1024 + 401)
  | .vexp f => some (4, f.a * 16777216 + f.b * 65536 + f.ia * 32768 + f.ib * 16384 + f.pr * 1024 + 657)
  | .vlog f => some (4, f.a * 16777216 + f.b * 65536 + f.ia * 32768 + f.ib * 16384 + f.pr * 1024 + 913)
  | .vrcp f => some (4, f.a * 16777216 + f.b * 65536 + f.ia * 32768 + f.ib * 16384 + f.pr * 1024 + 147)
  | .vrsq f => some (4, f.a * 16777216 + f.b * 65536 + f.ia * 32768 + f.ib * 16384 + f.pr * 1024 + 403)
  | .vtanh f => some (4, f.a * 16777216 + f.b * 65536 + f.ia * 32768 + f.ib * 16384 + f.pr * 1024 + 659)
  | .vsin f => some (4, f.a * 16777216 + f.b * 65536 + f.ia * 32768 + f.ib * 16384 + f.pr * 1024 + 915)
  | .vcos f => some (4, f.a * 16777216 + f.b * 65536 + f.ia * 32768 + f.ib * 16384 + f.pr * 1024 + 149)
  | .vmovW f => some (4, f.a * 16777216 + f.b * 65536 + f.ia * 32768 + f.ib * 16384 + f.pr * 1024 + 151)
  | .vscget f => some (4, f.a * 16777216 + f.b * 65536 + f.ia * 32768 + f.ib * 16384 + 407)
  | .vscput f => some (4, f.a * 16777216 + f.b * 65536 + f.ia * 32768 + f.ib * 16384 + 663)
  | .vslidedn d m s k => some (4, d * 16777216 + m / 4 * 1073741824 + m % 4 * 4194304 + s * 65536 + k * 256 + 153)
  | .vslideup d m s k => some (4, d * 16777216 + m / 4 * 1073741824 + m % 4 * 4194304 + s * 65536 + k * 256 + 1177)
  | .vperm d m s => some (4, d * 16777216 + m / 4 * 1073741824 + m % 4 * 4194304 + s * 65536 + 155)
  | .vrev d m s => some (4, d * 16777216 + m / 4 * 1073741824 + m % 4 * 4194304 + s * 65536 + 411)
  | .vredsum d m s => some (4, d * 16777216 + m / 4 * 1073741824 + m % 4 * 4194304 + s * 65536 + 157)
  | .vredmaxI d m s => some (4, d * 16777216 + m / 4 * 1073741824 + m % 4 * 4194304 + s * 65536 + 413)
  | .vredmaxN d m s => some (4, d * 16777216 + m / 4 * 1073741824 + m % 4 * 4194304 + s * 65536 + 669)
  | .vredminI d m s => some (4, d * 16777216 + m / 4 * 1073741824 + m % 4 * 4194304 + s * 65536 + 925)
  | .vredminN d m s => some (4, d * 16777216 + m / 4 * 1073741824 + m % 4 * 4194304 + s * 65536 + 1181)
  | .vredand d m s => some (4, d * 16777216 + m / 4 * 1073741824 + m % 4 * 4194304 + s * 65536 + 1437)
  | .vredor d m s => some (4, d * 16777216 + m / 4 * 1073741824 + m % 4 * 4194304 + s * 65536 + 1693)
  | .vredsumF d m s => some (4, d * 16777216 + m / 4 * 1073741824 + m % 4 * 4194304 + s * 65536 + 1949)
  | .vredmaxF d m s => some (4, d * 16777216 + m / 4 * 1073741824 + m % 4 * 4194304 + s * 65536 + 2205)
  | .vredminF d m s => some (4, d * 16777216 + m / 4 * 1073741824 + m % 4 * 4194304 + s * 65536 + 2461)
  | .vscansum d m => some (4, d * 16777216 + m / 4 * 1073741824 + m % 4 * 4194304 + 2717)
  | .vscansumF d m => some (4, d * 16777216 + m / 4 * 1073741824 + m % 4 * 4194304 + 2973)
  | .vscanmaxI d m => some (4, d * 16777216 + m / 4 * 1073741824 + m % 4 * 4194304 + 3229)
  | .vexscansum d m => some (4, d * 16777216 + m / 4 * 1073741824 + m % 4 * 4194304 + 3485)
  | .vqxX1 d m => some (4, d * 16777216 + m / 4 * 1073741824 + m % 4 * 4194304 + 159)
  | .vqxX2 d m => some (4, d * 16777216 + m / 4 * 1073741824 + m % 4 * 4194304 + 415)
  | .vqxX3 d m => some (4, d * 16777216 + m / 4 * 1073741824 + m % 4 * 4194304 + 671)
  | .vqxB0 d m => some (4, d * 16777216 + m / 4 * 1073741824 + m % 4 * 4194304 + 927)
  | .vqxB1 d m => some (4, d * 16777216 + m / 4 * 1073741824 + m % 4 * 4194304 + 1183)
  | .vqxB2 d m => some (4, d * 16777216 + m / 4 * 1073741824 + m % 4 * 4194304 + 1439)
  | .vqxB3 d m => some (4, d * 16777216 + m / 4 * 1073741824 + m % 4 * 4194304 + 1695)
  | .mxlda d c s k => some (4, d * 16777216 + c * 4194304 + s * 65536 + k * 4096 + 161)
  | .mxldb d c s k => some (4, d * 16777216 + c * 4194304 + s * 65536 + k * 4096 + 417)
  | .mxlds d c s k => some (4, d * 16777216 + c * 4194304 + s * 65536 + k * 4096 + 673)
  | .mxstep z c k => some (4, z * 16777216 + c * 65536 + k * 4096 + 163)
  | .mxloop z c k => some (4, z * 16777216 + c * 65536 + k * 4096 + 165)
  | .mxspstep z c k => some (4, z * 16777216 + c * 65536 + k * 4096 + 167)
  | .mxsploop z c k => some (4, z * 16777216 + c * 65536 + k * 4096 + 423)
  | .mxrdz v p k => some (4, v * 16777216 + p * 65536 + k * 4096 + 169)
  | .mxwrz v p k => some (4, v * 16777216 + p * 65536 + k * 4096 + 425)
  | .mxtred z n k => some (4, z * 16777216 + n * 65536 + k * 4096 + 171)
  | .mxtmov z n k => some (4, z * 16777216 + n * 65536 + k * 4096 + 427)
  | .mxelog d n => some (4, d * 16777216 + n * 65536 + 173)
  | .mxestat d => some (4, d * 16777216 + 429)
  | .mxeclr => some (4, 685)
  | .wfwd t k => some (4, t * 16777216 + k * 4096 + 177)
  | .winv t k => some (4, t * 16777216 + k * 4096 + 433)
  | .wthr t k => some (4, t * 16777216 + k * 4096 + 179)
  | .wthset n a => some (4, n * 16777216 + a * 65536 + 435)
  | .wst t b k => some (4, t * 16777216 + b * 65536 + k * 4096 + 181)
  | .wld t b k => some (4, t * 16777216 + b * 65536 + k * 4096 + 437)
  | .wldRaw t b k => some (4, t * 16777216 + b * 65536 + k * 4096 + 4194741)
  | .wtag t g k => some (4, t * 16777216 + g * 65536 + k * 4096 + 183)
  | .wcnt d n => some (4, d * 16777216 + n * 65536 + 439)
  | .ljoin v r b => some (4, v * 16777216 + r * 4194304 + b * 65536 + 185)
  | .ljoinV v r b => some (4, v * 16777216 + r * 4194304 + b * 65536 + 8388793)
  | .lput v r b k => some (4, v * 16777216 + r * 4194304 + b * 65536 + k * 4096 + 441)
  | .lputV v r b k => some (4, v * 16777216 + r * 4194304 + b * 65536 + k * 4096 + 8389049)
  | .lget d q b k => some (4, d * 16777216 + q * 4194304 + b * 65536 + k * 4096 + 187)
  | .lgetV d q b k => some (4, d * 16777216 + q * 4194304 + b * 65536 + k * 4096 + 8388795)
  | .lwait d q b k => some (4, d * 16777216 + q * 4194304 + b * 65536 + k * 4096 + 443)
  | .lxsched d a => some (4, d * 16777216 + a * 65536 + 189)
  | .lxnow k => some (4, k * 4096 + 445)
  | .ltype d b k => some (4, d * 16777216 + b * 65536 + k * 4096 + 191)
  | .lclr b k => some (4, b * 65536 + k * 4096 + 447)
  | .ldv f => some (4, f.vr * 134217728 + f.vx * 4194304 + f.vb * 524288 + f.sb * 16384 + f.tk * 1024 + f.pm * 256 + 193)
  | .stv f => some (4, f.vr * 134217728 + f.vx * 4194304 + f.vb * 524288 + f.sb * 16384 + f.pm * 256 + 195)
  | .ldg f => some (4, f.vr * 134217728 + f.vx * 4194304 + f.vb * 524288 + f.sb * 16384 + f.tk * 1024 + f.pm * 256 + 197)
  | .stg f => some (4, f.vr * 134217728 + f.vx * 4194304 + f.vb * 524288 + f.sb * 16384 + f.pm * 256 + 199)
  | .ldff f => some (4, f.vr * 134217728 + f.vx * 4194304 + f.vb * 524288 + f.sb * 16384 + f.tk * 1024 + f.pm * 256 + 201)
  | .ldr r m b s k p => some (4, r * 134217728 + m * 4194304 + b * 524288 + s * 16384 + k * 1024 + p * 256 + 203)
  | .ld d b k i => some (4, d * 67108864 + b * 1048576 + k * 65536 + (i % 256).toNat * 256 + 205)
  | .st d b i => some (4, d * 67108864 + b * 1048576 + (i % 256).toNat * 256 + 207)
  | .atAdd f => some (4, f.vr * 134217728 + f.vx * 4194304 + f.vb * 524288 + f.sb * 16384 + f.tk * 1024 + 209)
  | .atSwap f => some (4, f.vr * 134217728 + f.vx * 4194304 + f.vb * 524288 + f.sb * 16384 + f.tk * 1024 + 465)
  | .atCas f => some (4, f.vr * 134217728 + f.vx * 4194304 + f.vb * 524288 + f.sb * 16384 + f.tk * 1024 + 721)
  | .atFadd f => some (4, f.vr * 134217728 + f.vx * 4194304 + f.vb * 524288 + f.sb * 16384 + f.tk * 1024 + 977)
  | .atAnd f => some (4, f.vr * 134217728 + f.vx * 4194304 + f.vb * 524288 + f.sb * 16384 + f.tk * 1024 + 211)
  | .atOr f => some (4, f.vr * 134217728 + f.vx * 4194304 + f.vb * 524288 + f.sb * 16384 + f.tk * 1024 + 467)
  | .atMax f => some (4, f.vr * 134217728 + f.vx * 4194304 + f.vb * 524288 + f.sb * 16384 + f.tk * 1024 + 723)
  | .atMaxu f => some (4, f.vr * 134217728 + f.vx * 4194304 + f.vb * 524288 + f.sb * 16384 + f.tk * 1024 + 979)
  | .fenceAcq c => some (4, c * 16777216 + 213)
  | .fenceRel c => some (4, c * 16777216 + 134217941)
  | .fenceAr c => some (4, c * 16777216 + 268435669)
  | .fenceSc c => some (4, c * 16777216 + 402653397)
  | .fenceAck k => some (4, k * 4096 + 469)
  | .lda d m b k => some (4, d * 16777216 + m / 2 * 1073741824 + m % 2 * 8388608 + b * 65536 + k * 4096 + 725)
  | .ldaSc d m b k => some (4, d * 16777216 + m / 2 * 1073741824 + m % 2 * 8388608 + b * 65536 + k * 4096 + 4195029)
  | .stl d m b => some (4, d * 16777216 + m / 2 * 1073741824 + m % 2 * 8388608 + b * 65536 + 981)
  | .stlSc d m b => some (4, d * 16777216 + m / 2 * 1073741824 + m % 2 * 8388608 + b * 65536 + 4195285)
  | .ldb v m i k => some (4, v * 16777216 + m / 4 * 1073741824 + m % 4 * 4194304 + i * 65536 + k * 4096 + 215)
  | .stb v m i => some (4, v * 16777216 + m / 4 * 1073741824 + m % 4 * 4194304 + i * 65536 + 471)
  | .cbload w k s t => some (4, w * 67108864 + k * 16777216 + s * 65536 + t * 4096 + 217)
  | .ldcb d k s t => some (4, d * 16777216 + k * 4194304 + s * 65536 + t * 4096 + 473)
  | .pref c l s => some (4, c * 16777216 + l * 4194304 + s * 65536 + 219)
  | .mcnt d k => some (4, d * 16777216 + k * 65536 + 475)
  | .pagereq b k => some (4, b * 65536 + k * 4096 + 221)
  | .pagereqW b k => some (4, b * 65536 + k * 4096 + 16777437)
  | .pagehint b => some (4, b * 65536 + 477)
  | .pagehintW b => some (4, b * 65536 + 16777693)
  | .pagerel b k => some (4, b * 65536 + k * 4096 + 733)
  | .cp s q k => some (4, s * 16777216 + q * 65536 + k * 4096 + 225)
  | .cp2d s q k => some (4, s * 16777216 + q * 65536 + k * 4096 + 481)
  | .cpfill s q k => some (4, s * 16777216 + q * 65536 + k * 4096 + 227)
  | .cpver s q k => some (4, s * 16777216 + q * 65536 + k * 4096 + 229)
  | .cpwp d h => some (4, d * 16777216 + h * 65536 + 231)
  | .cpwpClr d h => some (4, d * 16777216 + h * 65536 + 8388839)
  | .cpnum d => some (4, d * 16777216 + 487)
  | .cpseed h a => some (4, h * 16777216 + a * 65536 + 233)
  | .cproot k b t => some (4, k * 16777216 + b * 65536 + t * 4096 + 235)
  | .cprootClr k t => some (4, k * 16777216 + t * 4096 + 2147483883)
  | .fxstat d => some (4, d * 16777216 + 237)
  | .fxclr a => some (4, a * 65536 + 493)
  | .fxrank d => some (4, d * 16777216 + 749)
  | .fxpath d a => some (4, d * 16777216 + a * 65536 + 1005)
  | .fxsto d b => some (4, d * 16777216 + b * 65536 + 239)
  | .fxstoRel d b => some (4, d * 16777216 + b * 65536 + 495)
  | .fxcnt d k => some (4, d * 16777216 + k * 65536 + 241)

/-- The bytes of an instruction as code holds them, lowest address first (R55). -/
def encode (i : Instr) : Option (List Byte) :=
  match encodeWord i with
  | some (n, w) => some (toBytes n w)
  | none => none

end Sys2Proof
end

