-- ==== Sys2Proof/Machine/Lanes.lean ====
section
/-! DEFINITION. The lane instructions of formats LV and LW on integers and bit strings, and the 16-bit forms: R63, R227, R230 to
R232. -/

namespace Sys2Proof.Machine

/-! ### The 16-bit forms -/

/-- The predicate of a 16-bit form: bit L of `m0` when M is 1 (R63). -/
def hPred (c : Ctx) (f : HF) : Nat → Bool := if f.m = 0 then fun _ => true else fun L => (c.m 0).getLsbD L

/-- The words of vd that a 16-bit form writes (R227). -/
def hWords (c : Ctx) (f : HF) (op : Nat → Nat → ElRes) : LaneRes :=
  let p := hPred c f
  (List.range 32).foldl (fun acc L =>
    if c.act L && p L then
      let r := op (c.vw f.vd L) (c.vw f.vs L)
      acc.and { wrs := [wrV f.vd L r.val], flags := if c.g.isLive L then r.flags else 0 }
    else acc) {}

/-- A 16-BIT FORM (R63, R227): vd := vd op vs on whole words. -/
def half (f : HF) (k : TagClass) (rf : Fmt) (op : Ctx → Nat → Nat → ElRes) (s : State) : Out :=
  let d : VOp := ⟨f.vd, 1, false⟩
  let v : VOp := ⟨f.vs, 1, false⟩
  issue 2 s (fun c => do
    laneChecks c true 0 [d] [d, v]
    let (tag, rc) ← tagRule c k [d, v] (some rf)
    let c' := c.after rc.res.wrs
    return commitLane c d tag rc (hWords c' f (op c')) s)

/-- The sidecars of one register copied to another (R224, R225). -/
def copySide (c : Ctx) (d v : Nat) : List Wr :=
  wrTag d (c.tag v) ++ (List.range 8).flatMap (fun k => wrScale d k (c.scale v k))

/-- 16-bit `VMOV` (R227): words, and the sidecars if any word is written. -/
def execVmov (f : HF) (s : State) : Out :=
  issue 2 s (fun c => do
    laneChecks c true 0 [⟨f.vd, 1, false⟩] [⟨f.vd, 1, false⟩, ⟨f.vs, 1, false⟩]
    let r := hWords c f (fun _ y => { val := y })
    return commitW c (r.wrs ++ (if r.wrs.isEmpty then [] else copySide c f.vd f.vs)) s)

/-- 16-bit `VADD.I32` (R227). -/
def execVaddI32H (f : HF) (s : State) : Out := half f .nonlinear .f32 (fun _ x y => wrapR 32 (x + y)) s
/-- 16-bit `VSUB.I32` (R227). -/
def execVsubI32H (f : HF) (s : State) : Out := half f .nonlinear .f32 (fun _ x y => wrapR 32 ((x : Int) - y)) s
/-- 16-bit `VMUL.I32` (R227). -/
def execVmulI32H (f : HF) (s : State) : Out := half f .nonlinear .f32 (fun _ x y => wrapR 32 (x * y)) s
/-- 16-bit `VAND` (R227). -/
def execVandH (f : HF) (s : State) : Out := half f .nonlinear .f32 (fun _ x y => { val := x &&& y }) s
/-- 16-bit `VOR` (R227). -/
def execVorH (f : HF) (s : State) : Out := half f .nonlinear .f32 (fun _ x y => { val := x ||| y }) s
/-- 16-bit `VXOR` (R227). -/
def execVxorH (f : HF) (s : State) : Out := half f .nonlinear .f32 (fun _ x y => { val := x ^^^ y }) s
/-- 16-bit `VSHL.I32` (R227). -/
def execVshlI32H (f : HF) (s : State) : Out := half f .nonlinear .f32 (fun _ x y => shlR 32 x y) s
/-- 16-bit `VSRA.I32` (R227). -/
def execVsraI32H (f : HF) (s : State) : Out := half f .nonlinear .f32 (fun _ x y => sraR 32 x y) s
/-- 16-bit `VADD.F32` (R227). -/
def execVaddF32H (f : HF) (s : State) : Out := half f .linear .f32 (fun c x y => (fenv c .f32).add x y) s
/-- 16-bit `VSUB.F32` (R227). -/
def execVsubF32H (f : HF) (s : State) : Out := half f .linear .f32 (fun c x y => (fenv c .f32).sub x y) s
/-- 16-bit `VMUL.F32` (R227). -/
def execVmulF32H (f : HF) (s : State) : Out := half f .nonlinear .f32 (fun c x y => (fenv c .f32).mul x y) s
/-- 16-bit `VMAX.F32` (R227). -/
def execVmaxF32H (f : HF) (s : State) : Out := half f .nonlinear .f32 (fun c x y => (fenv c .f32).minmax true x y) s
/-- 16-bit `VMIN.F32` (R227). -/
def execVminF32H (f : HF) (s : State) : Out := half f .nonlinear .f32 (fun c x y => (fenv c .f32).minmax false x y) s
/-- 16-bit `VADD.BF16X2` (R227). -/
def execVaddBf16x2H (f : HF) (s : State) : Out := half f .linear .bf16 (fun c => halves (fenv c .bf16).add) s
/-- 16-bit `VMUL.BF16X2` (R227). -/
def execVmulBf16x2H (f : HF) (s : State) : Out := half f .nonlinear .bf16 (fun c => halves (fenv c .bf16).mul) s

/-! ### Format LV -/

/-- SEW is 8, 16, 32 or 64. -/
def sew8up (c : Ctx) : Bool := decide (8 ≤ c.g.sew) && decide (c.g.sew ≤ 64)

/-- vD, vS1, vS2 of format LV. -/
def lv3 (f : LV) (c : Ctx) : VOp × List VOp :=
  (bankOp c f.vb f.vd c.g.grp, [bankOp c f.vb f.vs1 c.g.grp, bankOp c f.vb f.vs2 c.g.grp])
/-- vD, vS1 of format LV. -/
def lv2 (f : LV) (c : Ctx) : VOp × List VOp := (bankOp c f.vb f.vd c.g.grp, [bankOp c f.vb f.vs1 c.g.grp])

/-- The `i`th source operand. -/
def srcN (ss : List VOp) (i : Nat) : VOp := ss.getD i ⟨0, 0, false⟩

/-- vD := op vS1 vS2, element by element. -/
def lvv (f : LV) (legal : Ctx → Bool) (k : TagClass) (op : Ctx → Nat → Nat → Nat → ElRes) (s : State) : Out :=
  laneElem 4 s legal (lv3 f) false k (fun c => reconFmt c.g.sew) (fun c d ss =>
    let w := c.g.sew
    elemwise c d w (predOf c f.pr) (fun e => op c w (elt c (srcN ss 0) w e) (elt c (srcN ss 1) w e)))

/-- vD := op vS1 vS2 vD, element by element. -/
def lvvd (f : LV) (legal : Ctx → Bool) (op : Ctx → Nat → Nat → Nat → Nat → ElRes) (s : State) : Out :=
  laneElem 4 s legal (lv3 f) true .nonlinear (fun c => reconFmt c.g.sew) (fun c d ss =>
    let w := c.g.sew
    elemwise c d w (predOf c f.pr)
      (fun e => op c w (elt c (srcN ss 0) w e) (elt c (srcN ss 1) w e) (elt c d w e)))

/-- vD := op vS1 x with one scalar or immediate `x` for every element. -/
def lvx (f : LV) (legal : Ctx → Bool) (k : TagClass) (x : Ctx → Nat) (op : Ctx → Nat → Nat → Nat → ElRes) (s : State) : Out :=
  laneElem 4 s legal (lv2 f) false k (fun c => reconFmt c.g.sew) (fun c d ss =>
    let w := c.g.sew
    let y := x c
    elemwise c d w (predOf c f.pr) (fun e => op c w (elt c (srcN ss 0) w e) y))

/-- vD := op vS1 x vD with one scalar `x`. -/
def lvxd (f : LV) (legal : Ctx → Bool) (x : Ctx → Nat) (op : Ctx → Nat → Nat → Nat → Nat → ElRes) (s : State) : Out :=
  laneElem 4 s legal (lv2 f) true .nonlinear (fun c => reconFmt c.g.sew) (fun c d ss =>
    let w := c.g.sew
    let y := x c
    elemwise c d w (predOf c f.pr) (fun e => op c w (elt c (srcN ss 0) w e) y (elt c d w e)))

/-- The low SEW bits of scalar VS2 (R230). -/
def scal (f : LV) (c : Ctx) : Nat := c.sn f.vs2 % 2 ^ c.g.sew

/-- A COMPARE to the mask register VD (R223, R229, R230). -/
def lvCmp (f : LV) (legal : Ctx → Bool) (op : Ctx → Nat → Nat → Nat → ElRes) (s : State) : Out :=
  issue 4 s (fun c => do
    let a := bankOp c f.vb f.vs1 c.g.grp
    let b := bankOp c f.vb f.vs2 c.g.grp
    laneChecks c (legal c) 2 [] [a, b]
    let (_, rc) ← tagRule c .nonlinear [a, b] (reconFmt c.g.sew)
    let c' := c.after rc.res.wrs
    let w := c.g.sew
    let r := maskBits c' w c.g.vlmax (predOf c f.pr) (fun e => op c' w (elt c' a w e) (elt c' b w e))
    let s1 := commitW c (rc.res.wrs ++ [⟨locM f.vd, r.1.1, r.1.2⟩]) s
    return updCtxG c (fun g => g.orFlags (rc.res.flags ||| r.2)) (countRecon c.co.core rc s1))

/-- SEW is the width T names (R221). -/
def sewIs (t : Nat) (c : Ctx) : Bool := c.g.sew == 8 * 2 ^ t

/-- `VADD` (R230). -/
def execVadd (f : LV) (t : Nat) (s : State) : Out := lvv f (sewIs t) .nonlinear (fun _ w x y => wrapR w (x + y)) s
/-- `VSUB` (R230). -/
def execVsub (f : LV) (t : Nat) (s : State) : Out := lvv f (sewIs t) .nonlinear (fun _ w x y => wrapR w ((x : Int) - y)) s
/-- `VMUL` (R230). -/
def execVmul (f : LV) (t : Nat) (s : State) : Out := lvv f (sewIs t) .nonlinear (fun _ w x y => wrapR w (x * y)) s
/-- `VMULH.I` (R230). -/
def execVmulhI (f : LV) (s : State) : Out := lvv f sew8up .nonlinear (fun _ w x y => mulhR true true w x y) s
/-- `VMULH.N` (R230). -/
def execVmulhN (f : LV) (s : State) : Out := lvv f sew8up .nonlinear (fun _ w x y => mulhR false false w x y) s
/-- `VMULH.IN` (R230). -/
def execVmulhIn (f : LV) (s : State) : Out := lvv f sew8up .nonlinear (fun _ w x y => mulhR true false w x y) s
/-- `VMIN.I` (R230). -/
def execVminI (f : LV) (s : State) : Out := lvv f sew8up .nonlinear (fun _ w x y => minR true w x y) s
/-- `VMIN.N` (R230). -/
def execVminN (f : LV) (s : State) : Out := lvv f sew8up .nonlinear (fun _ w x y => minR false w x y) s
/-- `VMAX.I` (R230). -/
def execVmaxI (f : LV) (s : State) : Out := lvv f sew8up .nonlinear (fun _ w x y => maxR true w x y) s
/-- `VMAX.N` (R230). -/
def execVmaxN (f : LV) (s : State) : Out := lvv f sew8up .nonlinear (fun _ w x y => maxR false w x y) s
/-- `VADDS.I` (R230). -/
def execVaddsI (f : LV) (s : State) : Out :=
  lvv f sew8up .nonlinear (fun _ w x y => satR true w (intVal true w x + intVal true w y)) s
/-- `VADDS.N` (R230). -/
def execVaddsN (f : LV) (s : State) : Out :=
  lvv f sew8up .nonlinear (fun _ w x y => satR false w (intVal false w x + intVal false w y)) s
/-- `VAVG.I` (R230). -/
def execVavgI (f : LV) (s : State) : Out := lvv f sew8up .nonlinear (fun _ w x y => avgR true w x y) s
/-- `VAVG.N` (R230). -/
def execVavgN (f : LV) (s : State) : Out := lvv f sew8up .nonlinear (fun _ w x y => avgR false w x y) s
/-- `VSUBS.I` (R230). -/
def execVsubsI (f : LV) (s : State) : Out :=
  lvv f sew8up .nonlinear (fun _ w x y => satR true w (intVal true w x - intVal true w y)) s
/-- `VSUBS.N` (R230). -/
def execVsubsN (f : LV) (s : State) : Out :=
  lvv f sew8up .nonlinear (fun _ w x y => satR false w (intVal false w x - intVal false w y)) s
/-- `VABSD.I` (R230). -/
def execVabsdI (f : LV) (s : State) : Out := lvv f sew8up .nonlinear (fun _ w x y => absdR true w x y) s
/-- `VABSD.N` (R230). -/
def execVabsdN (f : LV) (s : State) : Out := lvv f sew8up .nonlinear (fun _ w x y => absdR false w x y) s
/-- `VAND` (R230), at any SEW. -/
def execVand (f : LV) (s : State) : Out := lvv f (fun _ => true) .nonlinear (fun _ _ x y => { val := x &&& y }) s
/-- `VOR` (R230), at any SEW. -/
def execVor (f : LV) (s : State) : Out := lvv f (fun _ => true) .nonlinear (fun _ _ x y => { val := x ||| y }) s
/-- `VXOR` (R230), at any SEW. -/
def execVxor (f : LV) (s : State) : Out := lvv f (fun _ => true) .nonlinear (fun _ _ x y => { val := x ^^^ y }) s
/-- `VANDN` (R230), at any SEW: s1 AND NOT s2. -/
def execVandn (f : LV) (s : State) : Out :=
  lvv f (fun _ => true) .nonlinear (fun _ _ x y => { val := x &&& (x ^^^ y) }) s
/-- `VSHL`, vector amount (R230). -/
def execVshlVector (f : LV) (s : State) : Out := lvv f sew8up .nonlinear (fun _ w x y => shlR w x y) s
/-- `VSRL`, vector amount (R230). -/
def execVsrlVector (f : LV) (s : State) : Out := lvv f sew8up .nonlinear (fun _ w x y => srlR w x y) s
/-- `VSRA`, vector amount (R230). -/
def execVsraVector (f : LV) (s : State) : Out := lvv f sew8up .nonlinear (fun _ w x y => sraR w x y) s
/-- `VRSRA`, vector amount (R230). -/
def execVrsraVector (f : LV) (s : State) : Out := lvv f sew8up .nonlinear (fun _ w x y => rsraR w x y) s
/-- `VSHL`, scalar amount (R230). -/
def execVshlScalar (f : LV) (s : State) : Out := lvx f sew8up .nonlinear (scal f) (fun _ w x y => shlR w x y) s
/-- `VSRL`, scalar amount (R230). -/
def execVsrlScalar (f : LV) (s : State) : Out := lvx f sew8up .nonlinear (scal f) (fun _ w x y => srlR w x y) s
/-- `VSRA`, scalar amount (R230). -/
def execVsraScalar (f : LV) (s : State) : Out := lvx f sew8up .nonlinear (scal f) (fun _ w x y => sraR w x y) s
/-- `VRSRA`, scalar amount (R230). -/
def execVrsraScalar (f : LV) (s : State) : Out := lvx f sew8up .nonlinear (scal f) (fun _ w x y => rsraR w x y) s
/-- `VSHL`, immediate amount (R230). -/
def execVshlImm (f : LV) (s : State) : Out := lvx f sew8up .nonlinear (fun _ => f.vs2) (fun _ w x y => shlR w x y) s
/-- `VSRL`, immediate amount (R230). -/
def execVsrlImm (f : LV) (s : State) : Out := lvx f sew8up .nonlinear (fun _ => f.vs2) (fun _ w x y => srlR w x y) s
/-- `VSRA`, immediate amount (R230). -/
def execVsraImm (f : LV) (s : State) : Out := lvx f sew8up .nonlinear (fun _ => f.vs2) (fun _ w x y => sraR w x y) s
/-- `VRSRA`, immediate amount (R230). -/
def execVrsraImm (f : LV) (s : State) : Out := lvx f sew8up .nonlinear (fun _ => f.vs2) (fun _ w x y => rsraR w x y) s
/-- `VCMPEQ` (R230). -/
def execVcmpeq (f : LV) (s : State) : Out := lvCmp f sew8up (fun _ _ x y => { val := b2n (x == y) }) s
/-- `VCMPNE` (R230). -/
def execVcmpne (f : LV) (s : State) : Out := lvCmp f sew8up (fun _ _ x y => { val := b2n (x != y) }) s
/-- `VCMPLT.I` (R230). -/
def execVcmpltI (f : LV) (s : State) : Out :=
  lvCmp f sew8up (fun _ w x y => { val := b2n (decide (intVal true w x < intVal true w y)) }) s
/-- `VCMPLT.N` (R230). -/
def execVcmpltN (f : LV) (s : State) : Out := lvCmp f sew8up (fun _ _ x y => { val := b2n (decide (x < y)) }) s

/-- SEW is 32. -/
def sew32 (c : Ctx) : Bool := c.g.sew == 32

/-- `VPMAC2.I16X2`, vector form (R231). -/
def execVpmac2I16x2 (f : LV) (s : State) : Out := lvvd f sew32 (fun _ _ x y d => pmac2R d x y) s
/-- `VPMAC2.I16X2`, scalar form (R231). -/
def execVpmac2I16x2Scalar (f : LV) (s : State) : Out := lvxd f sew32 (scal f) (fun _ _ x y d => pmac2R d x y) s
/-- `VPADDS.I16X2` (R231). -/
def execVpaddsI16x2 (f : LV) (s : State) : Out := lvv f sew32 .nonlinear (fun _ _ x y => paddsR x y) s
/-- `VMAC` (R230). -/
def execVmac (f : LV) (s : State) : Out := lvvd f sew8up (fun _ w x y d => wrapR w (d + x * y)) s
/-- `VADD`, scalar operand (R230). -/
def execVaddScalar (f : LV) (s : State) : Out := lvx f sew8up .nonlinear (scal f) (fun _ w x y => wrapR w (x + y)) s
/-- `VSUB`, scalar operand (R230). -/
def execVsubScalar (f : LV) (s : State) : Out := lvx f sew8up .nonlinear (scal f) (fun _ w x y => wrapR w ((x : Int) - y)) s
/-- `VRSUB` (R230): s − s1. -/
def execVrsub (f : LV) (s : State) : Out := lvx f sew8up .nonlinear (scal f) (fun _ w x y => wrapR w ((y : Int) - x)) s
/-- `VMUL`, scalar operand (R230). -/
def execVmulScalar (f : LV) (s : State) : Out := lvx f sew8up .nonlinear (scal f) (fun _ w x y => wrapR w (x * y)) s

/-- `VSEL` (R232): it needs a predicate; the mask policy does not apply. -/
def execVsel (f : LV) (s : State) : Out :=
  laneElem 4 s (fun c => sew8up c && decide (f.pr ≠ 0)) (lv3 f) false .nonlinear (fun c => reconFmt c.g.sew) (fun c d ss =>
    let w := c.g.sew
    let p := predOf c f.pr
    elemwise c d w (fun _ => true) (fun e => { val := elt c (srcN ss (if p e then 0 else 1)) w e }))
/-- `VSPLAT` (R232). -/
def execVsplat (sc vd vb pr : Nat) (s : State) : Out :=
  laneElem 4 s sew8up (fun c => (bankOp c vb vd c.g.grp, [])) false .nonlinear (fun c => reconFmt c.g.sew) (fun c d _ =>
    let x := c.sn sc % 2 ^ c.g.sew
    elemwise c d c.g.sew (predOf c pr) (fun _ => { val := x }))
/-- `VID` (R232). -/
def execVid (vd vb pr : Nat) (s : State) : Out :=
  laneElem 4 s sew8up (fun c => (bankOp c vb vd c.g.grp, [])) false .nonlinear (fun c => reconFmt c.g.sew) (fun c d _ =>
    elemwise c d c.g.sew (predOf c pr) (fun e => { val := e % 2 ^ c.g.sew }))

end Sys2Proof.Machine
end

