-- ==== Sys2Proof/Machine/Float.lean ====
section
/-! DEFINITION. Floating-point lane instructions: R228 and R229, and their forms on MX blocks (R235, R237). -/

namespace Sys2Proof.Machine

/-! ### Blocks -/

/-- The largest exponent of an element format used by R44. -/
def emaxElem (F : Fmt) : Int :=
  match F with
  | .e4m3 => 8
  | .e5m2 => 15
  | .e3m2 => 4
  | .e2m3 => 2
  | _ => 2

/-- `2^e` as a comparison with a fraction's largest magnitude: *Exponent* of the largest of finite values, none if all are zero. -/
def amaxExp (xs : List FVal) : Option Int :=
  xs.foldl (fun acc x =>
    match x with
    | .fin _ n d => if n = 0 then acc else
      (match acc with
       | none => some (fracLog2 n d)
       | some e => some (max e (fracLog2 n d)))
    | _ => acc) none

/-- A block encoded: scale, elements with the flags of each. -/
structure BlockRes where
  scale : Nat
  els : List (Nat × Nat)
  deriving DecidableEq, Repr

/-- An integer mantissa: rounded, clamped, and its flags (R44, R45). -/
def mantissa (mode : Rm) (lo hi : Int) (x : FVal) : Int × Nat :=
  match x with
  | .nan _ => (0, Fl.nv)
  | .inf neg => (if neg then lo else hi, Fl.of + Fl.nx)
  | .fin neg n d =>
    let (q, ix) := roundInt mode 0 neg n d
    if q < lo then (lo, Fl.of + Fl.nx) else if hi < q then (hi, Fl.of + Fl.nx) else (q, Fl.when ix Fl.nx)

/-- A conversion of 32 values into an MX block of format F, or MXINT8 (none): R44. (DEDUCED, log entry 26; DEDUCED, log entry 28) -/
def mxEncode (F : Option Fmt) (mode : Rm) (fz : Bool) (xs : List FVal) : BlockRes :=
  if xs.any (fun x => x.isNan || x.isInf) then
    ⟨255, xs.map (fun x => (0, Fl.when x.isNan Fl.nv))⟩
  else
    let em : Int := match F with
      | some f => emaxElem f
      | none => 0
    let X : Int := match amaxExp xs with
      | none => -127
      | some e => max (-127) (min 127 (e - em))
    ⟨(X + 127).toNat, xs.map (fun x =>
      let y := x.scale2 (-X)
      match F with
      | some f => roundVal f mode true fz 0 y
      | none =>
        let r := mantissa mode (-127) 127 (y.scale2 6)
        (wrap 8 r.1, r.2))⟩

/-- A conversion of 16 values into a BFPm block: R45. -/
def bfpEncode (m : Nat) (xs : List FVal) : BlockRes :=
  let E : Int := match amaxExp xs with
    | none => 0
    | some e => max 0 (min 255 (e + 128))
  ⟨E.toNat, xs.map (fun x =>
    let r := mantissa .rne (-(2 ^ (m - 1) : Nat)) ((2 ^ (m - 1) : Nat) - 1) (x.scale2 ((m : Int) - 1 + 127 - E))
    (wrap m r.1, r.2))⟩

/-- The value of an MXINT8 or BFPm element: a signed integer times `2^e` (R33, R34). -/
def intScaled (w x : Nat) (e : Int) : FVal :=
  let q := sext w x
  dyadic (decide (q < 0)) q.natAbs e

/-- A block side: elements of width `w`, `n` in a block; element `i` of block `k` of the group is element `k n + i`. The lanes
of its elements (R235). -/
def blockLanes (w n k : Nat) : List Nat := ((List.range n).map (fun i => laneOf w (k * n + i))).eraseDups

/-- Whether a block is processed (R235). -/
def blockRuns (c : Ctx) (n k : Nat) (ws : List Nat) : Bool :=
  decide (k * n < c.g.vl) && ws.all (fun w => (blockLanes w n k).all c.act)

/-- Scale register and byte of block `k` where a register holds `per` blocks. -/
def wrBlockScale (o : VOp) (per k x : Nat) : List Wr := wrScale (o.reg (k / per)) (k % per) x
/-- A block's scale. -/
def rdBlockScale (c : Ctx) (o : VOp) (per k : Nat) : Nat := c.scale (o.reg (k / per)) (k % per)

/-- The writes of a processed block's elements: values below `vl`, the tail policy above (R235). -/
def blockWrites (c : Ctx) (o : VOp) (w n k : Nat) (els : List (Nat × Nat)) : LaneRes :=
  (List.range n).foldl (fun acc i =>
    let e := k * n + i
    if e < c.g.vl then
      let x := els.getD i (0, 0)
      acc.and { wrs := wrElt o w e x.1, flags := if c.g.isLive (laneOf w e) then x.2 else 0 }
    else acc.and { wrs := policyW o w e c.g.ta }) {}

/-- All blocks of a register group. (DEDUCED, log entry 39) -/
def blockwise (count : Nat) (f : Nat → LaneRes) : LaneRes :=
  (List.range count).foldl (fun acc k => acc.and (f k)) {}

/-! ### Arithmetic on MX blocks -/

/-- Add, subtract or multiply exactly, with the NV of an invalid operation folded into the NaN it gives. -/
inductive MxOp where
  | add | sub | mul
  deriving DecidableEq, Repr

/-- One element of the exact result (R237). -/
def MxOp.eval (o : MxOp) (down : Bool) (x y : FVal) : FVal :=
  match o with
  | .add => (FVal.add down x y).1
  | .sub => (FVal.add down x y.neg).1
  | .mul => (FVal.mul x y).1

/-- One block of R237. -/
def mxBlock (c : Ctx) (F : Fmt) (o : MxOp) (d a b : VOp) (k : Nat) : LaneRes :=
  let w := F.bits
  let per := 32 / w
  if !blockRuns c 32 k [w] then {}
  else
    let ea := rdBlockScale c a per k
    let eb := rdBlockScale c b per k
    let r : BlockRes :=
      if ea = 255 ∨ eb = 255 then ⟨255, List.replicate 32 (0, 0)⟩
      else
        let el (v : VOp) (s i : Nat) : FVal :=
          let e := 32 * k + i
          if e < c.g.vl then mxScale (decodeFz F c.g.fz (elt c v w e)) s else .fin false 0 1
        mxEncode (some F) c.g.rmArith c.g.fz ((List.range 32).map (fun i => o.eval (c.g.rmArith == .rdn) (el a ea i) (el b eb i)))
    (blockWrites c d w 32 k r.els).and { wrs := wrBlockScale d per k r.scale }

/-- The MX format that T names at SEW 8 and SEW 4 (R221). -/
def mxFmtT (w t : Nat) : Option Fmt :=
  match w, t with
  | 8, 0 => some .e4m3
  | 8, 1 => some .e5m2
  | 4, 0 => some .e2m1
  | _, _ => none

/-- The combination of T and SEW names a format of majors 0x30 to 0x38 (R221). -/
def fmtLegal (t : Nat) (c : Ctx) : Bool := c.g.sew == (fmtT t).bits

/-- `VADD`, `VSUB`, `VMUL` of majors 0x30 to 0x32: on elements, or on MX blocks at SEW 8 and 4, which carry no predicate (R221, R228,
R235, R237). -/
def lvf (f : LV) (t : Nat) (k : TagClass) (mo : MxOp) (op : FEnv → Nat → Nat → ElRes) (s : State) : Out :=
  issue 4 s (fun c => do
    need ((mxFmtT c.g.sew t).isNone || decide (f.pr = 0)) (.illegal 0)
    laneBody s (fun c => fmtLegal t c || (mxFmtT c.g.sew t).isSome)
      (lv3 f) false k (fun c => reconFmt c.g.sew) (fun c d ss =>
        match mxFmtT c.g.sew t with
        | some F => blockwise (c.g.vlmax / 32) (mxBlock c F mo d (srcN ss 0) (srcN ss 1))
        | none =>
          let w := c.g.sew
          elemwise c d w (predOf c f.pr)
            (fun e => op (fenv c (fmtT t)) (elt c (srcN ss 0) w e) (elt c (srcN ss 1) w e))) c)

/-- `VADD.F` (R228). -/
def execVaddF (f : LV) (t : Nat) (s : State) : Out := lvf f t .linear .add FEnv.add s
/-- `VSUB.F` (R228). -/
def execVsubF (f : LV) (t : Nat) (s : State) : Out := lvf f t .linear .sub FEnv.sub s
/-- `VMUL.F` (R228). -/
def execVmulF (f : LV) (t : Nat) (s : State) : Out := lvf f t .nonlinear .mul FEnv.mul s
/-- `VDIV.F` (R228). -/
def execVdivF (f : LV) (t : Nat) (s : State) : Out :=
  lvv f (fmtLegal t) .nonlinear (fun c _ x y => (fenv c (fmtT t)).div x y) s
/-- `VFMA.F` (R228): s1 × s2 + d. -/
def execVfmaF (f : LV) (t : Nat) (s : State) : Out :=
  lvvd f (fmtLegal t) (fun c _ x y d => (fenv c (fmtT t)).fma false false x y d) s
/-- `VFMS.F` (R228): s1 × s2 − d. -/
def execVfmsF (f : LV) (t : Nat) (s : State) : Out :=
  lvvd f (fmtLegal t) (fun c _ x y d => (fenv c (fmtT t)).fma false true x y d) s
/-- `VFNMA.F` (R228): d − s1 × s2. -/
def execVfnmaF (f : LV) (t : Nat) (s : State) : Out :=
  lvvd f (fmtLegal t) (fun c _ x y d => (fenv c (fmtT t)).fma true false x y d) s
/-- `VMIN.F` (R228). -/
def execVminF (f : LV) (t : Nat) (s : State) : Out :=
  lvv f (fmtLegal t) .nonlinear (fun c _ x y => (fenv c (fmtT t)).minmax false x y) s
/-- `VMAX.F` (R228). -/
def execVmaxF (f : LV) (t : Nat) (s : State) : Out :=
  lvv f (fmtLegal t) .nonlinear (fun c _ x y => (fenv c (fmtT t)).minmax true x y) s

/-- SEW selects one of the formats of majors 0x39 to 0x3B (R221). -/
def sewFloat (c : Ctx) : Bool := (fmtSew c.g.sew).isSome
/-- The environment of the format SEW selects. -/
def fenvSew (c : Ctx) : FEnv := fenv c ((fmtSew c.g.sew).getD .f32)

/-- `VFCMPEQ` (R229). -/
def execVfcmpeq (f : LV) (s : State) : Out := lvCmp f sewFloat (fun c _ x y => (fenvSew c).cmp 0 x y) s
/-- `VFCMPLT` (R229). -/
def execVfcmplt (f : LV) (s : State) : Out := lvCmp f sewFloat (fun c _ x y => (fenvSew c).cmp 1 x y) s
/-- `VFCMPLE` (R229). -/
def execVfcmple (f : LV) (s : State) : Out := lvCmp f sewFloat (fun c _ x y => (fenvSew c).cmp 2 x y) s
/-- `VFCMPUN` (R229). -/
def execVfcmpun (f : LV) (s : State) : Out := lvCmp f sewFloat (fun c _ x y => (fenvSew c).cmp 3 x y) s

/-- Operands A, B of format LW with `n` registers each (R64). -/
def lwOps (f : LW) (c : Ctx) (na nb : Nat) : VOp × List VOp := (wideOp c f.a f.ia na, [wideOp c f.b f.ib nb])

/-- A := op B, element by element (format LW). -/
def lw1 (f : LW) (legal : Ctx → Bool) (k : TagClass) (op : Ctx → Nat → ElRes) (s : State) : Out :=
  laneElem 4 s legal (fun c => lwOps f c c.g.grp c.g.grp) false k (fun c => reconFmt c.g.sew) (fun c d ss =>
    elemwise c d c.g.sew (predOf c f.pr) (fun e => op c (elt c (srcN ss 0) c.g.sew e)))

/-- `VSQRT` (R229). -/
def execVsqrt (f : LW) (s : State) : Out := lw1 f sewFloat .nonlinear (fun c x => (fenvSew c).sqrt x) s
/-- `VABS` (R229). -/
def execVabs (f : LW) (s : State) : Out := lw1 f sewFloat .nonlinear (fun c x => signOp (fenvSew c).F false x) s
/-- `VNEG` (R229). -/
def execVneg (f : LW) (s : State) : Out := lw1 f sewFloat .linear (fun c x => signOp (fenvSew c).F true x) s
/-- `VCLASS` (R229). -/
def execVclass (f : LW) (s : State) : Out := lw1 f sewFloat .nonlinear (fun c x => classOp (fenvSew c).F x) s

/-- `VADD.F` by a scalar (R229). -/
def execVaddFScalar (f : LV) (s : State) : Out := lvx f sewFloat .nonlinear (scal f) (fun c _ x y => (fenvSew c).add x y) s
/-- `VMUL.F` by a scalar (R229). -/
def execVmulFScalar (f : LV) (s : State) : Out := lvx f sewFloat .linear (scal f) (fun c _ x y => (fenvSew c).mul x y) s
/-- `VFMA.F` by a scalar (R229): s1 × s + d. -/
def execVfmaFScalar (f : LV) (s : State) : Out :=
  lvxd f sewFloat (scal f) (fun c _ x y d => (fenvSew c).fma false false x y d) s
/-- `VSUB.F` by a scalar (R229): s1 − s. -/
def execVsubFScalar (f : LV) (s : State) : Out := lvx f sewFloat .nonlinear (scal f) (fun c _ x y => (fenvSew c).sub x y) s

/-- `VADD.BF16X2` (R229). -/
def execVaddBf16x2 (f : LV) (s : State) : Out := lvv f sew32 .linear (fun c _ x y => halves (fenv c .bf16).add x y) s
/-- `VSUB.BF16X2` (R229). -/
def execVsubBf16x2 (f : LV) (s : State) : Out := lvv f sew32 .linear (fun c _ x y => halves (fenv c .bf16).sub x y) s
/-- `VMUL.BF16X2` (R229). -/
def execVmulBf16x2 (f : LV) (s : State) : Out := lvv f sew32 .nonlinear (fun c _ x y => halves (fenv c .bf16).mul x y) s
/-- `VFMA.BF16X2` (R229). -/
def execVfmaBf16x2 (f : LV) (s : State) : Out :=
  lvvd f sew32 (fun c _ x y d => halves3 ((fenv c .bf16).fma false false) x y d) s

end Sys2Proof.Machine
end

