-- ==== Sys2Proof/Machine/Convert.lean ====
section
/-! DEFINITION. Conversions (R233, R42, R43), block conversions (R234 to R236) and moves (R239). -/

namespace Sys2Proof.Machine

/-- A side of a conversion: an element format. -/
inductive Side where
  | f (F : Fmt)
  | i (sgn : Bool) (w : Nat)
  deriving DecidableEq, Repr

/-- Width of a side. -/
def Side.bits : Side → Nat
  | .f F => F.bits
  | .i _ w => w

/-- A conversion: destination and source side, whether RTZ is fixed, whether a narrowing integer saturates. -/
structure Conv where
  dst : Side
  src : Side
  rtz : Bool := false
  sat : Bool := false
  deriving DecidableEq, Repr

/-- One element converted (R43, R53): `word` is its random word. An infinity converted to an integer sets NV and not `sat`. (DEDUCED, log
entry 138) -/
def Conv.eval (v : Conv) (mode : Rm) (fz : Bool) (word x : Nat) : ElRes :=
  match v.src, v.dst with
  | .f A, .f B =>
    let r := floatToFloat B mode false fz word (decodeFz A fz x)
    { val := r.1, flags := r.2 }
  | .f A, .i sgn w =>
    let r := floatToInt sgn w mode word (decodeFz A fz x)
    { val := r.1, flags := r.2.1, sat := r.2.2 }
  | .i sgn w, .f B =>
    let r := intToFloat B mode false fz word (intVal sgn w x)
    { val := r.1, flags := r.2 }
  | .i sgn w, .i sg' w' =>
    if v.sat then satR sg' w' (intVal sgn w x) else wrapR w' (intVal sgn w x)

/-- The place of element `e` among its lane's elements, counted over the register group (R40). (DEDUCED, log entry 18) -/
def srPlace (w e : Nat) : Nat := if w ≤ 32 then e * w / 1024 * (32 / w) + e * w % 32 / w else e * w / 1024

/-- A CONVERSION of majors 0x40 to 0x43 (R233): `pair` is what T and SEW name. (DEDUCED, log entry 13) An element is written, or takes
the mask or tail policy, only where the lanes of both its sides are active. (DEDUCED, log entry 139) -/
def convert (f : LW) (pair : Nat → Option Conv) (s : State) : Out :=
  issue 4 s (fun c => do
    match pair c.g.sew with
    | none => .error (.illegal 2)
    | some v =>
      let w := c.g.sew
      let gd := c.g.grp * (v.dst.bits / w)
      let gs := c.g.grp * (v.src.bits / w)
      need (decide (max gd gs ≤ 8)) (.illegal 0)
      let d := wideOp c f.a f.ia gd
      let b := wideOp c f.b f.ib gs
      laneChecks c true 0 [d] [d, b]
      let (tag, rc) ← tagRule c .copy [b] (reconFmt w)
      let c' := c.after rc.res.wrs
      let dyn := c.g.rm
      let mode : Rm := if v.rtz then .rtz else dyn
      let p := predOf c f.pr
      let st := c.g.sgen
      let both (e : Nat) : Bool := c.act (laneOf v.dst.bits e) && c.act (laneOf v.src.bits e)
      let r := (List.range (1024 / w * c.g.grp)).foldl (fun acc e =>
        if both e then
          acc.and (elemClass c d v.dst.bits p (fun e =>
            v.eval mode c.g.fz (srWord st (laneOf v.dst.bits e) (srPlace v.dst.bits e)) (elt c' b v.src.bits e)) e)
        else acc) ({} : LaneRes)
      let any := (List.range (min c.g.vl (1024 / w * c.g.grp))).any (fun e => both e && p e)
      let s1 := commitLane c d tag rc r s
      return (if mode = .sr ∧ any then updCtxG c (fun g => { g with sgen := sgenAdvance g.sgen }) s1 else s1))

/-- Major 0x40 (R233). -/
def fcvtPair (t w : Nat) : Option Conv :=
  match w, t with
  | 8, 0 => some { dst := .f .e4m3, src := .f .f32 }
  | 8, 1 => some { dst := .f .f32, src := .f .e4m3 }
  | 8, 2 => some { dst := .f .e5m2, src := .f .f32 }
  | 8, 3 => some { dst := .f .f32, src := .f .e5m2 }
  | 16, 0 => some { dst := .f .bf16, src := .f .f32 }
  | 16, 1 => some { dst := .f .f32, src := .f .bf16 }
  | 16, 2 => some { dst := .f .f16, src := .f .f32 }
  | 16, 3 => some { dst := .f .f32, src := .f .f16 }
  | 32, 0 => some { dst := .f .f32, src := .f .f64 }
  | 32, 1 => some { dst := .f .f64, src := .f .f32 }
  | _, _ => none

/-- The float format that goes with an integer of the width in majors 0x41 and 0x42 (R233). -/
def fltFor (w : Nat) : Option Fmt :=
  match w with
  | 8 => some .f32
  | 16 => some .f32
  | 32 => some .f32
  | 64 => some .f64
  | _ => none

/-- Major 0x41 (R233). -/
def f2iPair (sgn rtz : Bool) (w : Nat) : Option Conv := (fltFor w).map (fun F => { dst := .i sgn w, src := .f F, rtz := rtz })
/-- Major 0x42 (R233). -/
def i2fPair (sgn : Bool) (w : Nat) : Option Conv := (fltFor w).map (fun F => { dst := .f F, src := .i sgn w })
/-- Major 0x43 (R233): a widening, or a narrowing that wraps or saturates. -/
def i2iPair (wide sgn sat : Bool) (w : Nat) : Option Conv :=
  if w = 8 ∨ w = 16 ∨ w = 32 then
    some (if wide then { dst := .i sgn (2 * w), src := .i sgn w } else { dst := .i sgn w, src := .i sgn (2 * w), sat := sat })
  else none

/-- `VFCVT` between floats (R233). -/
def execVfcvt (f : LW) (t : Nat) (s : State) : Out := convert f (fcvtPair t) s
/-- `VFCVT` to a signed integer (R233). -/
def execVfcvtI (f : LW) (s : State) : Out := convert f (f2iPair true false) s
/-- `VFCVT` to an unsigned integer (R233). -/
def execVfcvtN (f : LW) (s : State) : Out := convert f (f2iPair false false) s
/-- `VFCVTZ` to a signed integer (R233). -/
def execVfcvtzI (f : LW) (s : State) : Out := convert f (f2iPair true true) s
/-- `VFCVTZ` to an unsigned integer (R233). -/
def execVfcvtzN (f : LW) (s : State) : Out := convert f (f2iPair false true) s
/-- `VICVT` from a signed integer (R233). -/
def execVicvtI (f : LW) (s : State) : Out := convert f (i2fPair true) s
/-- `VICVT` from an unsigned integer (R233). -/
def execVicvtN (f : LW) (s : State) : Out := convert f (i2fPair false) s
/-- `VSEXT` (R233). -/
def execVsext (f : LW) (s : State) : Out := convert f (i2iPair true true false) s
/-- `VZEXT` (R233). -/
def execVzext (f : LW) (s : State) : Out := convert f (i2iPair true false false) s
/-- `VNARROW` (R233). -/
def execVnarrow (f : LW) (s : State) : Out := convert f (i2iPair false true false) s
/-- `VNARROWS` (R233). -/
def execVnarrows (f : LW) (s : State) : Out := convert f (i2iPair false true true) s

/-! ### Block conversions -/

/-- The block formats of majors 0x44 to 0x46. -/
inductive BlockFmt where
  | mx (F : Fmt) | mxint8 | bfp8
  deriving DecidableEq, Repr

/-- Elements of a block (R33, R34). -/
def BlockFmt.count : BlockFmt → Nat
  | .bfp8 => 16
  | .mx _ => 32
  | .mxint8 => 32
/-- Width of an element's place in a register (R31). -/
def BlockFmt.width : BlockFmt → Nat
  | .mx F => if F.bits = 4 then 4 else 8
  | .mxint8 => 8
  | .bfp8 => 8
/-- Blocks of one register (R234). -/
def BlockFmt.per (b : BlockFmt) : Nat := 1024 / b.width / b.count

/-- Values into a block (R44, R45). -/
def BlockFmt.encode (b : BlockFmt) (mode : Rm) (fz : Bool) (xs : List FVal) : BlockRes :=
  match b with
  | .mx F => mxEncode (some F) mode fz xs
  | .mxint8 => mxEncode none mode fz xs
  | .bfp8 => bfpEncode 8 xs
/-- The value of an element under its block's scale (R31, R33, R34); an MX scale of 0xFF makes it a quiet NaN (R236). -/
def BlockFmt.value (b : BlockFmt) (fz : Bool) (scale x : Nat) : FVal :=
  match b with
  | .mx F => mxScale (decodeFz F fz (x % 2 ^ F.bits)) scale
  | .mxint8 => if scale = 255 then .nan false else intScaled 8 x ((scale : Int) - 127 - 6)
  | .bfp8 => intScaled 8 x ((scale : Int) - 127 - 7)

/-- One block into (`into`) or out of its format (R235, R236). -/
def convBlock (c : Ctx) (b : BlockFmt) (into : Bool) (d v : VOp) (k : Nat) : LaneRes :=
  let n := b.count
  let w := b.width
  if !blockRuns c n k [w, 32] then {}
  else if into then
    let r := b.encode c.g.rmArith c.g.fz ((List.range n).map (fun i =>
      let e := k * n + i
      if e < c.g.vl then decodeFz .f32 c.g.fz (elt c v 32 e) else .fin false 0 1))
    (blockWrites c d w n k r.els).and { wrs := wrBlockScale d b.per k r.scale }
  else
    let sc := rdBlockScale c v b.per k
    blockWrites c d 32 n k ((List.range n).map (fun i =>
      roundVal .f32 c.g.rmArith false c.g.fz 0 (b.value c.g.fz sc (elt c v w (k * n + i)))))

/-- A BLOCK CONVERSION of majors 0x44 to 0x46 (R235, R236): no predicate, an F32 side of at most 8 registers. -/
def blockConvert (f : LW) (into : Bool) (sel : Nat → Option BlockFmt) (s : State) : Out :=
  issue 4 s (fun c => do
    match sel c.g.sew with
    | none => .error (.illegal 2)
    | some b =>
      let w := c.g.sew
      let wide := c.g.grp * (32 / w)
      need (decide (f.pr = 0) && decide (wide ≤ 8)) (.illegal 0)
      let d := wideOp c f.a f.ia (if into then c.g.grp else wide)
      let v := wideOp c f.b f.ib (if into then wide else c.g.grp)
      laneChecks c true 0 [d] [d, v]
      let (tag, rc) ← tagRule c .copy [v] (reconFmt w)
      let c' := c.after rc.res.wrs
      return commitLane c d tag rc (blockwise (1024 / w * c.g.grp / b.count) (convBlock c' b into d v)) s)

/-- The element format of majors 0x44 and 0x45 (R236). -/
def mxSel (t w : Nat) : Option BlockFmt :=
  match w, t with
  | 8, 0 => some (.mx .e4m3)
  | 8, 1 => some (.mx .e5m2)
  | 8, 2 => some (.mx .e3m2)
  | 8, 3 => some (.mx .e2m3)
  | 4, 0 => some (.mx .e2m1)
  | _, _ => none
/-- A format of major 0x46, at SEW 8 (R236). -/
def at8 (b : BlockFmt) (w : Nat) : Option BlockFmt := if w = 8 then some b else none

/-- `VMXCVT` into MX (R236). -/
def execVmxcvtToMx (f : LW) (t : Nat) (s : State) : Out := blockConvert f true (mxSel t) s
/-- `VMXCVT` out of MX (R236). -/
def execVmxcvtFromMx (f : LW) (t : Nat) (s : State) : Out := blockConvert f false (mxSel t) s
/-- `VMXCVT.MXINT8.F32` (R236). -/
def execVmxcvtMxint8F32 (f : LW) (s : State) : Out := blockConvert f true (at8 .mxint8) s
/-- `VMXCVT.F32.MXINT8` (R236). -/
def execVmxcvtF32Mxint8 (f : LW) (s : State) : Out := blockConvert f false (at8 .mxint8) s
/-- `VBFPCVT.BFP8.F32` (R236). -/
def execVbfpcvtBfp8F32 (f : LW) (s : State) : Out := blockConvert f true (at8 .bfp8) s
/-- `VBFPCVT.F32.BFP8` (R236). -/
def execVbfpcvtF32Bfp8 (f : LW) (s : State) : Out := blockConvert f false (at8 .bfp8) s

/-! ### Moves -/

/-- `VMOV.W` (R239): sidecars follow the registers written, no reconstruction is made. -/
def execVmovW (f : LW) (s : State) : Out :=
  issue 4 s (fun c => do
    let d := wideOp c f.a f.ia c.g.grp
    let b := wideOp c f.b f.ib c.g.grp
    laneChecks c true 0 [d] [d, b]
    let w := c.g.sew
    let r := elemwise c d w (predOf c f.pr) (fun e => { val := elt c b w e })
    let side := (List.range d.n).flatMap (fun i =>
      if (writtenRegs d r.wrs).contains (d.reg i) then copySide c (d.reg i) (b.reg i) else [])
    return commitW c (r.wrs ++ side) s)

/-- The 64-bit scale sidecar of a register as an instruction reads it. -/
def Ctx.scales (c : Ctx) (r : Nat) : Nat := (List.range 8).foldl (fun acc k => acc + c.scale r k * 2 ^ (8 * k)) 0

/-- The checks of `VSCGET` and `VSCPUT` (R239). -/
def sidecarOps (c : Ctx) (f : LW) (na nb : Nat) : Except Trap (VOp × VOp) := do
  let a := wideOp c f.a f.ia na
  let b := wideOp c f.b f.ib nb
  laneChecks c (decide (f.pr = 0)) 0 [a] [a, b]
  return (a, b)

/-- `VSCGET` (R239). -/
def execVscget (f : LW) (s : State) : Out :=
  issue 4 s (fun c => do
    let (a, b) ← sidecarOps c f 1 c.g.grp
    let ws := (List.range (2 * c.g.grp)).flatMap (fun i =>
      if c.act i then [wrV (a.reg 0) i (c.scales (b.reg (i / 2)) / 2 ^ (32 * (i % 2)) % 2 ^ 32)] else [])
    return commitW c ws s)

/-- `VSCPUT` (R239). -/
def execVscput (f : LW) (s : State) : Out :=
  issue 4 s (fun c => do
    let (a, b) ← sidecarOps c f c.g.grp 1
    let ws := (List.range c.g.grp).flatMap (fun k =>
      if c.act (2 * k) && c.act (2 * k + 1) then
        (List.range 8).flatMap (fun j =>
          wrScale (a.reg k) j (c.vw (b.reg 0) (2 * k + j / 4) / 2 ^ (8 * (j % 4)) % 256))
      else [])
    return commitW c ws s)

end Sys2Proof.Machine
end

