-- ==== Sys2Proof/Machine/CrossLane.lean ====
section
/-! DEFINITION. Cross-lane instructions: R240 to R244. -/

namespace Sys2Proof.Machine

/-- The members named by mask register `m`; a member outside the active set raises MEMBER (R240). -/
def members (c : Ctx) (m : Nat) : Except Trap Word32 :=
  let mem := (c.m m).setWidth 32
  let bad := mem &&& ~~~c.run.aset
  if bad = 0 then .ok mem else .error (.member bad.toNat)

/-- The lane engine's widths of majors 0x4C to 0x4F (R221). -/
def egLegal (c : Ctx) : Bool := sew8up c

/-- The member elements of a register group of elements of width `w`, ascending (R240). -/
def memberEls (c : Ctx) (mem : Word32) (w n : Nat) : List Nat :=
  (List.range (1024 / w * n)).filter (fun e => decide (e < c.g.vl) && inSet mem (laneOf w e))

/-- Results for member elements, the tail policy behind `vl`, nothing in other lanes (R240). -/
def memberWrites (c : Ctx) (o : VOp) (w : Nat) (mem : Word32) (f : Nat → Nat) : List Wr :=
  (List.range (1024 / w * o.n)).flatMap (fun e =>
    if !inSet mem (laneOf w e) then []
    else if e < c.g.vl then wrElt o w e (f e)
    else policyW o w e c.g.ta)

/-- AN IN-PLACE OR TWO-OPERAND CROSS-LANE INSTRUCTION: `f` gives the value of a member element from the sources. -/
def crossElem (d : Nat) (src : Option Nat) (readsD : Bool) (m : Nat) (legal : Ctx → Bool)
    (f : Ctx → Nat → Word32 → VOp → VOp → (Nat → Nat) × Nat) (s : State) : Out :=
  issue 4 s (fun c => do
    let vd : VOp := ⟨d, c.g.grp, false⟩
    let vs : VOp := match src with
      | some x => ⟨x, c.g.grp, false⟩
      | none => vd
    laneChecks c (legal c) 2 [vd] (if src.isSome then [vd, vs] else [vd])
    let mem ← members c m
    let (tag, rc) ← tagRule c .nonlinear (if readsD && src.isSome then [vd, vs] else [vs]) (reconFmt c.g.sew)
    let c' := c.after rc.res.wrs
    let w := c.g.sew
    let (g, fl) := f c' w mem vd vs
    return commitLane c vd tag rc { wrs := memberWrites c' vd w mem g, flags := fl } s)

/-- Element `j` of an operand if it is a member element, else a fill value (R241, R242). -/
def pickMember (c : Ctx) (o : VOp) (w : Nat) (mem : Word32) (j : Int) (fill : Nat) : Nat :=
  if 0 ≤ j ∧ j < (c.g.vl : Int) then
    (if inSet mem (laneOf w j.toNat) then elt c o w j.toNat else fill)
  else fill

/-- A slide by a signed distance (R241). -/
def slide (d m sf : Nat) (dist : Int) (s : State) : Out :=
  crossElem d none true m egLegal (fun c w mem vd _ =>
    (fun (e : Nat) => pickMember c vd w mem ((e : Int) + dist) (c.sn sf % 2 ^ w), 0)) s

/-- `VSLIDEDN` (R241). -/
def execVslidedn (d m sf k : Nat) (s : State) : Out := slide d m sf (2 ^ k : Nat) s
/-- `VSLIDEUP` (R241). -/
def execVslideup (d m sf k : Nat) (s : State) : Out := slide d m sf (-(2 ^ k : Nat)) s
/-- `VPERM` (R242): the old element of vD is the index. -/
def execVperm (d m v : Nat) (s : State) : Out :=
  crossElem d (some v) true m egLegal (fun c w mem vd vs =>
    (fun (e : Nat) => pickMember c vs w mem (elt c vd w e : Nat) 0, 0)) s
/-- `VREV` (R242). -/
def execVrev (d m v : Nat) (s : State) : Out :=
  crossElem d (some v) false m egLegal (fun c w mem _ vs =>
    (fun (e : Nat) => pickMember c vs w mem ((c.g.vl : Int) - 1 - e) 0, 0)) s

/-! ### Reductions and scans -/

/-- A fold over elements: how the first enters and how each later one is added; results carry flags. -/
structure Fold where
  first : Nat → ElRes
  step : Nat → Nat → ElRes

/-- Folds an element into an accumulator (none before the first), with the flags of non-helper lanes (R48). -/
def Fold.add (f : Fold) (c : Ctx) (o : VOp) (w : Nat) (acc : Option Nat × Nat) (e : Nat) : Option Nat × Nat :=
  let x := elt c o w e
  let r := match acc.1 with
    | none => f.first x
    | some a => f.step a x
  (some r.val, if c.g.isLive (laneOf w e) then acc.2 ||| r.flags else acc.2)

/-- An integer fold of width `w`. -/
def intFold (w : Nat) (op : Nat → Nat → Nat) : Fold := ⟨fun x => { val := x }, fun a x => { val := op a x % 2 ^ w }⟩
/-- The ordered sum of R243: the first element passes through *Round* as well. -/
def sumFold (E : FEnv) : Fold := ⟨fun x => E.out ((E.dec x), Fl.when (E.dec x).isSig Fl.nv), fun a x => E.add a x⟩
/-- Maximum or minimum as R228, entered as the ordered sum is. (DEDUCED, log entry 19) -/
def maxFold (E : FEnv) (mx : Bool) : Fold :=
  ⟨fun x => E.out ((E.dec x), Fl.when (E.dec x).isSig Fl.nv), fun a x => E.minmax mx a x⟩

/-- How a reduction's result fills 64 bits (R243). -/
def widen (sgn : Bool) (w x : Nat) : Word64 := if sgn then BitVec.ofInt 64 (sext w x) else BitVec.ofNat 64 x

/-- A REDUCTION (R243): `empty` is the result over no element. -/
def reduce (d m v : Nat) (legal : Ctx → Bool) (sgn : Bool) (fold : Ctx → Nat → Fold) (empty : Nat → Nat) (s : State) : Out :=
  issue 4 s (fun c => do
    let vs : VOp := ⟨v, c.g.grp, false⟩
    laneChecks c (legal c) 2 [] [vs]
    let mem ← members c m
    let (_, rc) ← tagRule c .nonlinear [vs] (reconFmt c.g.sew)
    let c' := c.after rc.res.wrs
    let w := c.g.sew
    let r := (memberEls c' mem w c.g.grp).foldl ((fold c' w).add c' vs w) (none, 0)
    let x := r.1.getD (empty w)
    let s1 := countRecon c.co.core rc (commitW c (rc.res.wrs ++ wrS d (widen sgn w x)) s)
    return updCtxG c (fun g => g.orFlags (rc.res.flags ||| r.2)) s1)

/-- `VREDSUM` (R243). -/
def execVredsum (d m v : Nat) (s : State) : Out :=
  reduce d m v egLegal true (fun _ w => intFold w (· + ·)) (fun _ => 0) s
/-- `VREDMAX.I` (R243). -/
def execVredmaxI (d m v : Nat) (s : State) : Out :=
  reduce d m v egLegal true (fun _ w => intFold w (fun a x => (maxR true w a x).val)) (fun w => 2 ^ (w - 1)) s
/-- `VREDMAX.N` (R243). -/
def execVredmaxN (d m v : Nat) (s : State) : Out :=
  reduce d m v egLegal false (fun _ w => intFold w (fun a x => max a x)) (fun _ => 0) s
/-- `VREDMIN.I` (R243). -/
def execVredminI (d m v : Nat) (s : State) : Out :=
  reduce d m v egLegal true (fun _ w => intFold w (fun a x => (minR true w a x).val)) (fun w => 2 ^ (w - 1) - 1) s
/-- `VREDMIN.N` (R243). -/
def execVredminN (d m v : Nat) (s : State) : Out :=
  reduce d m v egLegal false (fun _ w => intFold w (fun a x => min a x)) (fun w => 2 ^ w - 1) s
/-- `VREDAND` (R243). -/
def execVredand (d m v : Nat) (s : State) : Out :=
  reduce d m v egLegal false (fun _ w => intFold w (fun a x => a &&& x)) (fun w => 2 ^ w - 1) s
/-- `VREDOR` (R243). -/
def execVredor (d m v : Nat) (s : State) : Out :=
  reduce d m v egLegal false (fun _ w => intFold w (fun a x => a ||| x)) (fun _ => 0) s

/-- The infinity of the format SEW selects. -/
def infSew (neg : Bool) (w : Nat) : Nat := ((fmtSew w).getD .f32).infBits neg

/-- `VREDSUM.F` (R243). -/
def execVredsumF (d m v : Nat) (s : State) : Out :=
  reduce d m v sewFloat false (fun c _ => sumFold (fenvSew c)) (fun _ => 0) s
/-- `VREDMAX.F` (R243). -/
def execVredmaxF (d m v : Nat) (s : State) : Out :=
  reduce d m v sewFloat false (fun c _ => maxFold (fenvSew c) true) (infSew true) s
/-- `VREDMIN.F` (R243). -/
def execVredminF (d m v : Nat) (s : State) : Out :=
  reduce d m v sewFloat false (fun c _ => maxFold (fenvSew c) false) (infSew false) s

/-- A SCAN in place (R243): the accumulator after each member element, or before it where `excl`. -/
def scan (d m : Nat) (legal : Ctx → Bool) (excl : Bool) (fold : Ctx → Nat → Fold) (s : State) : Out :=
  crossElem d none true m legal (fun c w mem vd _ =>
    let F := fold c w
    let r := (memberEls c mem w c.g.grp).foldl
      (fun (acc : (Option Nat × Nat) × Tab Nat) (e : Nat) =>
        let n := F.add c vd w acc.1 e
        (n, (e, (if excl then acc.1.1 else n.1).getD 0) :: acc.2)) ((none, 0), [])
    (fun e => (Tab.find r.2 e).getD 0, r.1.2)) s

/-- `VSCANSUM` (R243). -/
def execVscansum (d m : Nat) (s : State) : Out := scan d m egLegal false (fun _ w => intFold w (· + ·)) s
/-- `VSCANSUM.F` (R243). -/
def execVscansumF (d m : Nat) (s : State) : Out := scan d m sewFloat false (fun c _ => sumFold (fenvSew c)) s
/-- `VSCANMAX.I` (R243). -/
def execVscanmaxI (d m : Nat) (s : State) : Out :=
  scan d m egLegal false (fun _ w => intFold w (fun a x => (maxR true w a x).val)) s
/-- `VEXSCANSUM` (R243). -/
def execVexscansum (d m : Nat) (s : State) : Out := scan d m egLegal true (fun _ w => intFold w (· + ·)) s

/-! ### Quad exchange -/

/-- A QUAD EXCHANGE (R244) with partner function `p`: one register, whole words, whatever `vl` and `vtype` say, a SEW
of 4 among them, which R221's table of major 0x4F does not list. (DEDUCED, log entry 155) -/
def quad (d m : Nat) (p : Nat → Nat) (s : State) : Out :=
  issue 4 s (fun c => do
    let vd : VOp := ⟨d, 1, false⟩
    laneChecks c true 0 [vd] [vd]
    let mem ← members c m
    let (tag, rc) ← tagRule c .nonlinear [vd] (reconFmt c.g.sew)
    let c' := c.after rc.res.wrs
    let ws := (List.range 32).flatMap (fun L =>
      if inSet mem L && inSet mem (p L) then [wrV d L (c'.vw d (p L))] else [])
    return commitLane c vd tag rc { wrs := ws } s)

/-- `VQX.X1` (R244). -/
def execVqxX1 (d m : Nat) (s : State) : Out := quad d m (fun L => L ^^^ 1) s
/-- `VQX.X2` (R244). -/
def execVqxX2 (d m : Nat) (s : State) : Out := quad d m (fun L => L ^^^ 2) s
/-- `VQX.X3` (R244). -/
def execVqxX3 (d m : Nat) (s : State) : Out := quad d m (fun L => L ^^^ 3) s
/-- `VQX.B0` (R244). -/
def execVqxB0 (d m : Nat) (s : State) : Out := quad d m (fun L => 4 * (L / 4)) s
/-- `VQX.B1` (R244). -/
def execVqxB1 (d m : Nat) (s : State) : Out := quad d m (fun L => 4 * (L / 4) + 1) s
/-- `VQX.B2` (R244). -/
def execVqxB2 (d m : Nat) (s : State) : Out := quad d m (fun L => 4 * (L / 4) + 2) s
/-- `VQX.B3` (R244). -/
def execVqxB3 (d m : Nat) (s : State) : Out := quad d m (fun L => 4 * (L / 4) + 3) s

end Sys2Proof.Machine
end

