-- ==== Sys2Proof/Machine/Special.lean ====
section
/-! DEFINITION. Special functions (R238). The true value is computed as a fraction far below the error bound; which result within
the bound and the promise of monotonicity the device returns is a free choice. -/

namespace Sys2Proof.Machine

/-- The special functions. -/
inductive SpFn where
  | exp2 | log2 | exp | log | rcp | rsq | tanh | sin | cos
  deriving DecidableEq, Repr

/-- Fraction bits of the fixed-point evaluation. -/
def fixBits : Nat := 320
/-- floor (ln 2 × 2^320). -/
def ln2Fix : Int := 1480553391661173448385607439722553250922680800745876974795605978609098082859138712941075737848984
/-- floor (π × 2^640). -/
def piFix : Int := 14333329926761567455775730701799299831126131522901418329710873694248203755857903894978459978948837038337184470360789102305252273090192709030764248428292776480232102476327552185579501988876367276

/-- Product of two fixed-point numbers. -/
def fxMul (a b : Int) : Int := a * b / (2 ^ fixBits : Nat)

/-- Σ x^k / k! from term `t` = x^k / k! on, `n` terms. -/
def expSeries (x : Int) : Nat → Nat → Int → Int
  | 0, _, _ => 0
  | n + 1, k, t => t + expSeries x n (k + 1) (fxMul t x / (k + 1 : Nat))

/-- 2^k e^r as a fraction, with 0 ≤ r < 1 in fixed point. -/
def expFrac (k : Int) (r : Int) : Nat × Nat :=
  let m := (expSeries r 80 0 (2 ^ fixBits : Nat)).natAbs
  if 0 ≤ k then (m * 2 ^ k.toNat, 2 ^ fixBits) else (m, 2 ^ fixBits * 2 ^ (-k).toNat)

/-- A finite value in fixed point, truncated toward minus infinity; `b` fraction bits. -/
def toFix (b : Nat) (neg : Bool) (n d : Nat) : Int := FVal.num neg (n * 2 ^ b) / (d : Int)

/-- e^x for |x| below 2^11. -/
def expOf (x : Int) : Nat × Nat :=
  let k := x / ln2Fix
  expFrac k (x - k * ln2Fix)
/-- 2^x for |x| below 2^11. -/
def exp2Of (x : Int) : Nat × Nat :=
  let k := x / (2 ^ fixBits : Nat)
  expFrac k (fxMul (x - k * (2 ^ fixBits : Nat)) ln2Fix)

/-- Σ z^k / k over odd k, from power `p` = z^k on. -/
def atanhSeries (z2 : Int) : Nat → Nat → Int → Int
  | 0, _, _ => 0
  | n + 1, k, p => p / (k : Nat) + atanhSeries z2 n (k + 2) (fxMul p z2)

/-- ln (n / d) in fixed point, for a non-zero fraction. -/
def lnOf (n d : Nat) : Int :=
  let e := fracLog2 n d
  let (m, q) : Nat × Nat := if 0 ≤ e then (n, d * 2 ^ e.toNat) else (n * 2 ^ (-e).toNat, d)
  let z : Int := ((m : Int) - q) * (2 ^ fixBits : Nat) / (m + q : Nat)
  e * ln2Fix + 2 * atanhSeries (fxMul z z) 110 1 z

/-- Σ ± x^k / k! over every second k, from term `t` on: sine from k = 1, cosine from k = 0. -/
def trigSeries (x2 : Int) : Nat → Nat → Int → Int
  | 0, _, _ => 0
  | n + 1, k, t => t + trigSeries x2 n (k + 2) (-(fxMul t x2) / ((k + 1) * (k + 2) : Nat))

/-- Sine of x, or of x + π/2, in fixed point: `x` has 640 fraction bits and any size. -/
def sinOf (x : Int) (quarter : Int) : Int :=
  let h := piFix / 2
  let q := (2 * x + h) / (2 * h)
  let r := (x - q * h) / (2 ^ (640 - fixBits) : Nat)
  let r2 := fxMul r r
  let sn := trigSeries r2 60 1 r
  let cs := trigSeries r2 60 0 (2 ^ fixBits : Nat)
  match (q + quarter) % 4 with
  | 0 => sn
  | 1 => cs
  | 2 => -sn
  | _ => -cs

/-- A fixed-point number as a value. -/
def fixVal (x : Int) : FVal := .fin (decide (x < 0)) x.natAbs (2 ^ fixBits)

/-- The true value of a function at a finite operand that is no exact case. Arguments of the exponentials and of `VTANH` beyond
±512 are cut to it, where their results have long left the format. -/
def SpFn.truth (f : SpFn) (neg : Bool) (n d : Nat) : FVal :=
  let x := if 512 * d < n then toFix fixBits neg 512 1 else toFix fixBits neg n d
  let frac (r : Nat × Nat) : FVal := .fin false r.1 r.2
  match f with
  | .exp2 => frac (exp2Of x)
  | .exp => frac (expOf x)
  | .log => fixVal (lnOf n d)
  | .log2 => .fin (decide (lnOf n d < 0)) (lnOf n d).natAbs ln2Fix.natAbs
  | .rcp => .fin neg d n
  | .rsq => frac (sqrtFrac d n)
  | .tanh =>
    if n * 2 ^ 24 < d then
      -- x − x³/3 + 2x⁵/15 − 17x⁷/315, over the denominator 315 d⁷
      let m : Int := 315 * n * d ^ 6 - 105 * n ^ 3 * d ^ 4 + 42 * n ^ 5 * d ^ 2 - 17 * n ^ 7
      .fin neg m.natAbs (315 * d ^ 7)
    else
      let e := expOf (2 * x.natAbs)
      .fin neg (e.1 - e.2) (e.1 + e.2)
  | .sin => fixVal (sinOf (toFix 640 neg n d) 0)
  | .cos => fixVal (sinOf (toFix 640 neg n d) 1)

/-- The power of two a finite non-zero value is, if it is one. -/
def pow2Of (n d : Nat) : Option Int :=
  let e := fracLog2 n d
  if 0 ≤ e then (if n = d * 2 ^ e.toNat then some e else none) else (if n * 2 ^ (-e).toNat = d then some e else none)

/-- The exact cases and special inputs of the table of R238: value and flags. -/
def SpFn.exact (f : SpFn) (x : FVal) : Option (FVal × Nat) :=
  let one : FVal := .fin false 1 1
  let zero : FVal := .fin false 0 1
  match x with
  | .nan sg => some (.nan false, Fl.when sg Fl.nv)
  | .inf neg =>
    match f with
    | .exp2 => some (if neg then zero else .inf false, 0)
    | .exp => some (if neg then zero else .inf false, 0)
    | .log2 => some (if neg then (.nan false, Fl.nv) else (.inf false, 0))
    | .log => some (if neg then (.nan false, Fl.nv) else (.inf false, 0))
    | .rcp => some (.fin neg 0 1, 0)
    | .rsq => some (if neg then (.nan false, Fl.nv) else (zero, 0))
    | .tanh => some (.fin neg 1 1, 0)
    | .sin => some (.nan false, Fl.nv)
    | .cos => some (.nan false, Fl.nv)
  | .fin neg n d =>
    if n = 0 then
      match f with
      | .exp2 => some (one, 0)
      | .exp => some (one, 0)
      | .cos => some (one, 0)
      | .tanh => some (x, 0)
      | .sin => some (x, 0)
      | .log2 => some (.inf true, Fl.dz)
      | .log => some (.inf true, Fl.dz)
      | .rcp => some (.inf neg, Fl.dz)
      | .rsq => some (.inf neg, Fl.dz)
    else
      match f with
      | .exp2 =>
        if n % d = 0 ∧ n / d ≤ 149 then
          (if neg then some (.fin false 1 (2 ^ (n / d)), 0)
           else if n / d ≤ 127 then some (.fin false (2 ^ (n / d)) 1, 0) else none)
        else none
      | .log2 =>
        if neg then some (.nan false, Fl.nv)
        else (pow2Of n d).map (fun e => (.fin (decide (e < 0)) e.natAbs 1, 0))
      | .log =>
        if neg then some (.nan false, Fl.nv) else if n = d then some (zero, 0) else none
      | .rcp =>
        match pow2Of n d with
        | some e => if -127 ≤ e then some (.fin neg d n, 0) else none
        | none => none
      | .rsq =>
        if neg then some (.nan false, Fl.nv)
        else match pow2Of n d with
          | some e => if e % 2 = 0 then some (one.scale2 (-(e / 2)), 0) else none
          | none => none
      | _ => none

/-- The error bound of R238 in units of 2^−150, for a true value n / d. -/
def SpFn.bound (f : SpFn) (n d : Nat) : Nat :=
  let ulp : Nat := 2 ^ (max (fracLog2 n d) (-126) - 23 + 150).toNat
  match f with
  | .exp2 => ulp
  | .log2 => ulp
  | .rcp => ulp
  | .rsq => ulp
  | .exp => 2 * ulp
  | .log => 2 * ulp
  | .tanh => 2 * ulp
  | .sin => max (2 * ulp) (2 ^ 126)
  | .cos => max (2 * ulp) (2 ^ 126)

/-- |a − b| is within the bound `e` × 2^−150. -/
def within (e : Nat) (a b : FVal) : Bool :=
  match FVal.add false a b.neg with
  | (.fin _ n d, _) => decide (n * 2 ^ 150 ≤ e * d)
  | _ => true

/-- The order of F32 values as numbers: the two zeros are one. -/
def f32Key (b : Nat) : Int := if b < 2 ^ 31 then b else 2 ^ 31 - (b : Int)

/-- The intervals on which a function is monotone, numbered along its domain: the one that begins at `x` or holds it, and the one that
holds it or ends there; none outside the domain (R238). -/
def SpFn.pieces (f : SpFn) (x : Nat) : Option (Int × Int) :=
  let cut (y p : Int) : Int × Int := (y / p, -((-y) / p) - 1)
  match Fmt.f32.decode x with
  | .fin neg n d =>
    let y := toFix 640 neg n d
    let positive := if neg ∨ n = 0 then none else some (0, 0)
    match f with
    | .sin => some (cut (2 * y + piFix) (2 * piFix))
    | .cos => some (cut y piFix)
    | .rcp => if n = 0 then none else some (if neg then (-1, -1) else (0, 0))
    | .rsq => positive
    | .log => positive
    | .log2 => positive
    | .exp => some (0, 0)
    | .exp2 => some (0, 0)
    | .tanh => some (0, 0)
  | _ => none

/-- The function rises on its interval `k`. -/
def SpFn.rises (f : SpFn) (k : Int) : Bool :=
  match f with
  | .sin => k % 2 == 0
  | .cos => k % 2 == 1
  | .rcp => false
  | .rsq => false
  | _ => true

/-- The rounded true value. -/
def SpFn.rounded (f : SpFn) (neg : Bool) (n d : Nat) : Nat := (roundVal .f32 .rne false false 0 (f.truth neg n d)).1

/-- An F32 result `b` is one the bound allows at a finite operand: infinite where the truth overflows and only there, else within the
bound (R238). -/
def SpFn.allows (f : SpFn) (neg : Bool) (n d b : Nat) : Bool :=
  let v := f.truth neg n d
  let r := f.rounded neg n d
  let e := match v with
    | .fin _ a q => f.bound (if a = 0 then 1 else a) (if a = 0 then 2 ^ 200 else q)
    | _ => 0
  if r % 2 ^ 31 = 0x7F800000 then b == r
  else decide (b < 2 ^ 32) && decide (b % 2 ^ 31 < 0x7F800000) && within e (Fmt.f32.decode b) v

/-- What a device whose inexact results are `g` computes before FZ: the exact cases of the table, else `g`. -/
def SpFn.computed (g : SpFn → Nat → Nat) (f : SpFn) (x : Nat) : Nat :=
  match f.exact (Fmt.f32.decode x) with
  | some (v, _) => (roundVal .f32 .rne false false 0 v).1
  | none => g f x

/-- THE PROMISE OF R238 for inexact results `g`: each within its bound, and the computed function monotone, in the direction of the true
one, on every interval where that is monotone. -/
structure SpFn.Meets (g : SpFn → Nat → Nat) : Prop where
  near : ∀ (f : SpFn) (x : Nat) (neg : Bool) (n d : Nat), Fmt.f32.decode x = .fin neg n d → f.exact (.fin neg n d) = none → f.allows neg n d (g f x) = true
  mono : ∀ (f : SpFn) (x y : Nat) (a b k : Int), x < 2 ^ 32 → y < 2 ^ 32 → f32Key x < f32Key y →
    f.pieces x = some (k, a) → f.pieces y = some (b, k) →
    if f.rises k = true then f32Key (f.computed g x) ≤ f32Key (f.computed g y) else f32Key (f.computed g y) ≤ f32Key (f.computed g x)

end Sys2Proof.Machine

namespace Sys2Proof.Config

/-- The inexact results of the special functions: any that meet R238; where the device's are not given, the rounded true values.
(DEDUCED, log entry 27) -/
opaque special : Option { g : Sys2Proof.Machine.SpFn → Nat → Nat // Sys2Proof.Machine.SpFn.Meets g }

end Sys2Proof.Config

namespace Sys2Proof.Machine

/-- An inexact result with its flags: a free choice within the promise of R238; UF for a subnormal or zero result, OF for an infinite
one (R238). (DEDUCED, log entry 27) -/
def SpFn.approx (f : SpFn) (x : Nat) (neg : Bool) (n d : Nat) : Nat × Nat :=
  let b := match Config.special with
    | some g => g.1 f x
    | none => f.rounded neg n d
  let mag := b % 2 ^ 31
  (b, Fl.nx ||| Fl.when (decide (mag = 0x7F800000)) Fl.of ||| Fl.when (decide (mag < 0x00800000)) Fl.uf)

/-- A special function on F32 (R238). -/
def SpFn.f32 (f : SpFn) (fz : Bool) (x : Nat) : Nat × Nat :=
  let xin := flushIn .f32 fz x
  match f.exact (Fmt.f32.decode xin) with
  | some (v, fl) =>
    let r := roundVal .f32 .rne false fz 0 v
    (r.1, r.2 ||| fl)
  | none =>
    match Fmt.f32.decode xin with
    | .fin neg n d =>
      let r := f.approx xin neg n d
      let q := flushOut .f32 fz r
      (q.1, q.2 ||| r.2)
    | _ => (Fmt.f32.canonNaN, 0)

/-- A special function on the format SEW selects: BF16 rounds the F32 result once (R238). -/
def SpFn.elem (f : SpFn) (c : Ctx) (x : Nat) : ElRes :=
  if c.g.sew = 16 then
    let r := f.f32 c.g.fz (flushIn .bf16 c.g.fz x * 65536)
    let q := roundVal .bf16 .rne false c.g.fz 0 (Fmt.f32.decode r.1)
    { val := q.1, flags := r.2 ||| q.2 }
  else
    let r := f.f32 c.g.fz x
    { val := r.1, flags := r.2 }

/-- A SPECIAL FUNCTION, A := f B (R238). (DEDUCED, log entry 27) -/
def spFn (f : LW) (fn : SpFn) (s : State) : Out :=
  lw1 f (fun c => c.g.sew == 16 || c.g.sew == 32) .nonlinear fn.elem s

/-- `VEXP2` (R238). -/
def execVexp2 (f : LW) (s : State) : Out := spFn f .exp2 s
/-- `VLOG2` (R238). -/
def execVlog2 (f : LW) (s : State) : Out := spFn f .log2 s
/-- `VEXP` (R238). -/
def execVexp (f : LW) (s : State) : Out := spFn f .exp s
/-- `VLOG` (R238). -/
def execVlog (f : LW) (s : State) : Out := spFn f .log s
/-- `VRCP` (R238). -/
def execVrcp (f : LW) (s : State) : Out := spFn f .rcp s
/-- `VRSQ` (R238). -/
def execVrsq (f : LW) (s : State) : Out := spFn f .rsq s
/-- `VTANH` (R238). -/
def execVtanh (f : LW) (s : State) : Out := spFn f .tanh s
/-- `VSIN` (R238). -/
def execVsin (f : LW) (s : State) : Out := spFn f .sin s
/-- `VCOS` (R238). -/
def execVcos (f : LW) (s : State) : Out := spFn f .cos s

end Sys2Proof.Machine
end

