-- ==== Sys2Proof/Machine/Dispatch.lean ====
section
/-! DEFINITION. The one place that says which meaning each instruction has: one arm per constructor. -/

namespace Sys2Proof.Machine

def exec (i : Instr) (s : State) : Host.Outcome State Fault Refusal :=
  match i with
  | .matrixStepPerform x0 x1 x2 => Sys2Proof.Machine.execMatrixStepPerform x0 x1 x2 s
  | .ztileAccessPerform x0 x1 x2 => Sys2Proof.Machine.execZtileAccessPerform x0 x1 x2 s
  | .teamTransferArrival x0 x1 x2 => Sys2Proof.Machine.execTeamTransferArrival x0 x1 x2 s
  | .ztileQueueRoom x0 => Sys2Proof.Machine.execZtileQueueRoom x0 s
  | .waveletRequestDone x0 x1 => Sys2Proof.Machine.execWaveletRequestDone x0 x1 s
  | .latticeWritePerform x0 x1 => Sys2Proof.Machine.execLatticeWritePerform x0 x1 s
  | .lwaitTimeout x0 x1 => Sys2Proof.Machine.execLwaitTimeout x0 x1 s
  | .latticeQueueRoom x0 => Sys2Proof.Machine.execLatticeQueueRoom x0 s
  | .exchangeRoundStart x0 => Sys2Proof.Machine.execExchangeRoundStart x0 s
  | .exchangeTransferArrival x0 x1 => Sys2Proof.Machine.execExchangeTransferArrival x0 x1 s
  | .latticePageClear x0 => Sys2Proof.Machine.execLatticePageClear x0 s
  | .loadDataArrival x0 x1 x2 x3 => Sys2Proof.Machine.execLoadDataArrival x0 x1 x2 x3 s
  | .atomicPerform x0 x1 => Sys2Proof.Machine.execAtomicPerform x0 x1 s
  | .cbloadTableWrite x0 x1 => Sys2Proof.Machine.execCbloadTableWrite x0 x1 s
  | .cbloadQueueRoom x0 => Sys2Proof.Machine.execCbloadQueueRoom x0 s
  | .storeQueueRoom x0 => Sys2Proof.Machine.execStoreQueueRoom x0 s
  | .coherenceRequest x0 x1 x2 => Sys2Proof.Machine.execCoherenceRequest x0 x1 x2 s
  | .transientRequestTimeout x0 x1 x2 => Sys2Proof.Machine.execTransientRequestTimeout x0 x1 x2 s
  | .regionMerge x0 x1 => Sys2Proof.Machine.execRegionMerge x0 x1 s
  | .lockUpdateArrival x0 x1 x2 x3 x4 x5 => Sys2Proof.Machine.execLockUpdateArrival x0 x1 x2 x3 x4 x5 s
  | .writerLockTimeout x0 => Sys2Proof.Machine.execWriterLockTimeout x0 s
  | .replicaLockTimeout x0 x1 x2 => Sys2Proof.Machine.execReplicaLockTimeout x0 x1 x2 s
  | .copyChunkDelivery x0 x1 x2 => Sys2Proof.Machine.execCopyChunkDelivery x0 x1 x2 s
  | .weightPageCheck x0 x1 => Sys2Proof.Machine.execWeightPageCheck x0 x1 s
  | .copySlotFree x0 => Sys2Proof.Machine.execCopySlotFree x0 s
  | .slotPick x0 => Sys2Proof.Machine.execSlotPick x0 s
  | .asyncConditionDelivery x0 => Sys2Proof.Machine.execAsyncConditionDelivery x0 s
  | .groupRelease x0 x1 => Sys2Proof.Machine.execGroupRelease x0 x1 s
  | .preemption x0 x1 => Sys2Proof.Machine.execPreemption x0 x1 s
  | .restore x0 x1 x2 => Sys2Proof.Machine.execRestore x0 x1 x2 s
  | .gangSuspend x0 => Sys2Proof.Machine.execGangSuspend x0 s
  | .faultQueueRoom x0 => Sys2Proof.Machine.execFaultQueueRoom x0 s
  | .directoryReadRequest x0 x1 x2 x3 => Sys2Proof.Machine.execDirectoryReadRequest x0 x1 x2 x3 s
  | .directoryWriteRequest x0 x1 x2 x3 => Sys2Proof.Machine.execDirectoryWriteRequest x0 x1 x2 x3 s
  | .directoryRelease x0 x1 x2 => Sys2Proof.Machine.execDirectoryRelease x0 x1 x2 s
  | .replicateRequest x0 x1 x2 x3 => Sys2Proof.Machine.execReplicateRequest x0 x1 x2 x3 s
  | .unreplicateRequest x0 x1 x2 => Sys2Proof.Machine.execUnreplicateRequest x0 x1 x2 s
  | .readerAddition x0 x1 x2 x3 x4 => Sys2Proof.Machine.execReaderAddition x0 x1 x2 x3 x4 s
  | .probe x0 x1 x2 x3 => Sys2Proof.Machine.execProbe x0 x1 x2 x3 s
  | .notHereReply x0 => Sys2Proof.Machine.execNotHereReply x0 s
  | .invalidation x0 x1 x2 x3 x4 x5 => Sys2Proof.Machine.execInvalidation x0 x1 x2 x3 x4 x5 s
  | .pageShipmentArrival x0 x1 x2 x3 x4 x5 x6 => Sys2Proof.Machine.execPageShipmentArrival x0 x1 x2 x3 x4 x5 x6 s
  | .recordReplay x0 x1 => Sys2Proof.Machine.execRecordReplay x0 x1 s
  | .writeBackArrival x0 x1 x2 x3 x4 => Sys2Proof.Machine.execWriteBackArrival x0 x1 x2 x3 x4 s
  | .writeBackAck x0 x1 => Sys2Proof.Machine.execWriteBackAck x0 x1 s
  | .filterAddition x0 x1 x2 x3 => Sys2Proof.Machine.execFilterAddition x0 x1 x2 x3 s
  | .filterRebuild x0 => Sys2Proof.Machine.execFilterRebuild x0 s
  | .meridianAttemptTimeout x0 x1 => Sys2Proof.Machine.execMeridianAttemptTimeout x0 x1 s
  | .declineQueueRoom => Sys2Proof.Machine.execDeclineQueueRoom s
  | .frameWaitTimeout x0 x1 => Sys2Proof.Machine.execFrameWaitTimeout x0 x1 s
  | .supply x0 x1 x2 => Sys2Proof.Machine.execSupply x0 x1 x2 s
  | .retry x0 => Sys2Proof.Machine.execRetry x0 s
  | .refuse x0 => Sys2Proof.Machine.execRefuse x0 s
  | .kill x0 => Sys2Proof.Machine.execKill x0 s
  | .replicate x0 x1 x2 => Sys2Proof.Machine.execReplicate x0 x1 x2 s
  | .unreplicate x0 x1 => Sys2Proof.Machine.execUnreplicate x0 x1 s
  | .pageMigration x0 x1 x2 x3 => Sys2Proof.Machine.execPageMigration x0 x1 x2 x3 s
  | .migrationCutover x0 x1 => Sys2Proof.Machine.execMigrationCutover x0 x1 s
  | .head x0 x1 x2 x3 x4 => Sys2Proof.Machine.execHead x0 x1 x2 x3 x4 s
  | .body x0 x1 x2 x3 x4 => Sys2Proof.Machine.execBody x0 x1 x2 x3 x4 s
  | .ack x0 x1 => Sys2Proof.Machine.execAck x0 x1 s
  | .retryFlit x0 x1 => Sys2Proof.Machine.execRetryFlit x0 x1 s
  | .credit x0 x1 x2 => Sys2Proof.Machine.execCredit x0 x1 x2 s
  | .train x0 => Sys2Proof.Machine.execTrain x0 s
  | .idle x0 => Sys2Proof.Machine.execIdle x0 s
  | .laneLockLoss x0 => Sys2Proof.Machine.execLaneLockLoss x0 s
  | .linkTrained x0 => Sys2Proof.Machine.execLinkTrained x0 s
  | .ackTimer x0 => Sys2Proof.Machine.execAckTimer x0 s
  | .creditTimer x0 => Sys2Proof.Machine.execCreditTimer x0 s
  | .loadRequest x0 => Sys2Proof.Machine.execLoadRequest x0 s
  | .storeRequest x0 => Sys2Proof.Machine.execStoreRequest x0 s
  | .atomicRequest x0 => Sys2Proof.Machine.execAtomicRequest x0 s
  | .flagStore x0 => Sys2Proof.Machine.execFlagStore x0 s
  | .flagStoreRelease x0 x1 => Sys2Proof.Machine.execFlagStoreRelease x0 x1 s
  | .floorNotice x0 => Sys2Proof.Machine.execFloorNotice x0 s
  | .loadReply x0 => Sys2Proof.Machine.execLoadReply x0 s
  | .acknowledgement x0 => Sys2Proof.Machine.execAcknowledgement x0 s
  | .atomicReply x0 => Sys2Proof.Machine.execAtomicReply x0 s
  | .refusal x0 => Sys2Proof.Machine.execRefusal x0 s
  | .refusalSend x0 => Sys2Proof.Machine.execRefusalSend x0 s
  | .e2eAttemptTimeout x0 x1 => Sys2Proof.Machine.execE2eAttemptTimeout x0 x1 s
  | .e2eWindowRoom x0 => Sys2Proof.Machine.execE2eWindowRoom x0 s
  | .queueDoorbell x0 x1 => Sys2Proof.Machine.execQueueDoorbell x0 x1 s
  | .packetAdmission x0 x1 x2 x3 => Sys2Proof.Machine.execPacketAdmission x0 x1 x2 x3 s
  | .admissionWaitTimeout x0 x1 => Sys2Proof.Machine.execAdmissionWaitTimeout x0 x1 s
  | .reserve x0 x1 x2 x3 x4 x5 => Sys2Proof.Machine.execReserve x0 x1 x2 x3 x4 x5 s
  | .grant x0 x1 x2 => Sys2Proof.Machine.execGrant x0 x1 x2 s
  | .commit x0 x1 => Sys2Proof.Machine.execCommit x0 x1 s
  | .rollback x0 => Sys2Proof.Machine.execRollback x0 s
  | .gangReserveTimeout x0 => Sys2Proof.Machine.execGangReserveTimeout x0 s
  | .gangRetryTimer x0 x1 => Sys2Proof.Machine.execGangRetryTimer x0 x1 s
  | .gangStart x0 => Sys2Proof.Machine.execGangStart x0 s
  | .energyTick x0 => Sys2Proof.Machine.execEnergyTick x0 s
  | .npartWrite x0 => Sys2Proof.Machine.execNpartWrite x0 s
  | .splitRegisterWrite x0 x1 => Sys2Proof.Machine.execSplitRegisterWrite x0 x1 s
  | .registerWrite x0 x1 => Sys2Proof.Machine.execRegisterWrite x0 x1 s
  | .sensorSample x0 => Sys2Proof.Machine.execSensorSample x0 s
  | .hotHoldTimeout x0 => Sys2Proof.Machine.execHotHoldTimeout x0 s
  | .thermalMigration x0 x1 => Sys2Proof.Machine.execThermalMigration x0 x1 s
  | .clockStepDown x0 => Sys2Proof.Machine.execClockStepDown x0 s
  | .clockStepUp x0 => Sys2Proof.Machine.execClockStepUp x0 s
  | .criticalTimeout x0 => Sys2Proof.Machine.execCriticalTimeout x0 s
  | .watchdogExpiry => Sys2Proof.Machine.execWatchdogExpiry s
  | .firmwareImageWrite x0 x1 => Sys2Proof.Machine.execFirmwareImageWrite x0 x1 s
  | .antiRollbackRaise => Sys2Proof.Machine.execAntiRollbackRaise s
  | .dumpclr => Sys2Proof.Machine.execDumpclr s
  | .powerUp x0 => Sys2Proof.Machine.execPowerUp x0 s
  | .tlbInvalidationComplete x0 => Sys2Proof.Machine.execTlbInvalidationComplete x0 s
  | .replicaConfirmation x0 x1 => Sys2Proof.Machine.execReplicaConfirmation x0 x1 s
  | .meridianReply x0 x1 x2 x3 => Sys2Proof.Machine.execMeridianReply x0 x1 x2 x3 s
  | .directoryAcknowledgement x0 x1 x2 => Sys2Proof.Machine.execDirectoryAcknowledgement x0 x1 x2 s
  | .unknownKindFlit x0 => Sys2Proof.Machine.execUnknownKindFlit x0 s
  | .reachabilityReport x0 x1 x2 => Sys2Proof.Machine.execReachabilityReport x0 x1 x2 s
  | .gangContactLost x0 => Sys2Proof.Machine.execGangContactLost x0 s
  | .bar2WindowAccess x0 x1 x2 => Sys2Proof.Machine.execBar2WindowAccess x0 x1 x2 s
  | .hostCoreStore x0 => Sys2Proof.Machine.execHostCoreStore x0 s
  | .logEntryFlashWrite => Sys2Proof.Machine.execLogEntryFlashWrite s
  | .powerLoss => Sys2Proof.Machine.execPowerLoss s
  | .deviceReset => Sys2Proof.Machine.execDeviceReset s
  | .runHead x0 x1 x2 x3 => Sys2Proof.Machine.execRunHead x0 x1 x2 x3 s
  | .pad => Sys2Proof.Machine.execPad s
  | .vmov x0 => Sys2Proof.Machine.execVmov x0 s
  | .vaddI32H x0 => Sys2Proof.Machine.execVaddI32H x0 s
  | .vsubI32H x0 => Sys2Proof.Machine.execVsubI32H x0 s
  | .vmulI32H x0 => Sys2Proof.Machine.execVmulI32H x0 s
  | .vandH x0 => Sys2Proof.Machine.execVandH x0 s
  | .vorH x0 => Sys2Proof.Machine.execVorH x0 s
  | .vxorH x0 => Sys2Proof.Machine.execVxorH x0 s
  | .vshlI32H x0 => Sys2Proof.Machine.execVshlI32H x0 s
  | .vsraI32H x0 => Sys2Proof.Machine.execVsraI32H x0 s
  | .vaddF32H x0 => Sys2Proof.Machine.execVaddF32H x0 s
  | .vsubF32H x0 => Sys2Proof.Machine.execVsubF32H x0 s
  | .vmulF32H x0 => Sys2Proof.Machine.execVmulF32H x0 s
  | .vmaxF32H x0 => Sys2Proof.Machine.execVmaxF32H x0 s
  | .vminF32H x0 => Sys2Proof.Machine.execVminF32H x0 s
  | .vaddBf16x2H x0 => Sys2Proof.Machine.execVaddBf16x2H x0 s
  | .vmulBf16x2H x0 => Sys2Proof.Machine.execVmulBf16x2H x0 s
  | .nop => Sys2Proof.Machine.execNop s
  | .exit => Sys2Proof.Machine.execExit s
  | .tret => Sys2Proof.Machine.execTret s
  | .brk x0 => Sys2Proof.Machine.execBrk x0 s
  | .waitdep => Sys2Proof.Machine.execWaitdep s
  | .trigger => Sys2Proof.Machine.execTrigger s
  | .tkrd x0 => Sys2Proof.Machine.execTkrd x0 s
  | .bra x0 => Sys2Proof.Machine.execBra x0 s
  | .call x0 x1 => Sys2Proof.Machine.execCall x0 x1 s
  | .brm x0 x1 => Sys2Proof.Machine.execBrm x0 x1 s
  | .brmz x0 x1 => Sys2Proof.Machine.execBrmz x0 x1 s
  | .brany x0 x1 => Sys2Proof.Machine.execBrany x0 x1 s
  | .brall x0 x1 => Sys2Proof.Machine.execBrall x0 x1 s
  | .bnz x0 x1 => Sys2Proof.Machine.execBnz x0 x1 s
  | .bz x0 x1 => Sys2Proof.Machine.execBz x0 x1 s
  | .jmp x0 => Sys2Proof.Machine.execJmp x0 s
  | .jmpv x0 => Sys2Proof.Machine.execJmpv x0 s
  | .calli x0 x1 => Sys2Proof.Machine.execCalli x0 x1 s
  | .callv x0 x1 => Sys2Proof.Machine.execCallv x0 x1 s
  | .setvl x0 x1 x2 x3 x4 => Sys2Proof.Machine.execSetvl x0 x1 x2 x3 x4 s
  | .setvlr x0 x1 x2 => Sys2Proof.Machine.execSetvlr x0 x1 x2 s
  | .mand x0 x1 x2 => Sys2Proof.Machine.execMand x0 x1 x2 s
  | .mor x0 x1 x2 => Sys2Proof.Machine.execMor x0 x1 x2 s
  | .mxor x0 x1 x2 => Sys2Proof.Machine.execMxor x0 x1 x2 s
  | .mandn x0 x1 x2 => Sys2Proof.Machine.execMandn x0 x1 x2 s
  | .morn x0 x1 x2 => Sys2Proof.Machine.execMorn x0 x1 x2 s
  | .mnot x0 x1 => Sys2Proof.Machine.execMnot x0 x1 s
  | .mmov x0 x1 => Sys2Proof.Machine.execMmov x0 x1 s
  | .mvl x0 => Sys2Proof.Machine.execMvl x0 s
  | .mact x0 => Sys2Proof.Machine.execMact x0 s
  | .mpop x0 x1 => Sys2Proof.Machine.execMpop x0 x1 s
  | .mfirst x0 x1 => Sys2Proof.Machine.execMfirst x0 x1 s
  | .mrds x0 x1 x2 => Sys2Proof.Machine.execMrds x0 x1 x2 s
  | .mwrs x0 x1 x2 => Sys2Proof.Machine.execMwrs x0 x1 x2 s
  | .barArrive x0 x1 x2 => Sys2Proof.Machine.execBarArrive x0 x1 x2 s
  | .barCharge x0 x1 => Sys2Proof.Machine.execBarCharge x0 x1 s
  | .barWait x0 x1 => Sys2Proof.Machine.execBarWait x0 x1 s
  | .stgArrive x0 x1 => Sys2Proof.Machine.execStgArrive x0 x1 s
  | .stgWait x0 x1 x2 => Sys2Proof.Machine.execStgWait x0 x1 x2 s
  | .csrr x0 x1 => Sys2Proof.Machine.execCsrr x0 x1 s
  | .csrw x0 x1 => Sys2Proof.Machine.execCsrw x0 x1 s
  | .csrset x0 x1 => Sys2Proof.Machine.execCsrset x0 x1 s
  | .csrclr x0 x1 => Sys2Proof.Machine.execCsrclr x0 x1 s
  | .rdts x0 x1 => Sys2Proof.Machine.execRdts x0 x1 s
  | .wrts x0 x1 => Sys2Proof.Machine.execWrts x0 x1 s
  | .rdvpc x0 => Sys2Proof.Machine.execRdvpc x0 s
  | .tlbiVa x0 x1 => Sys2Proof.Machine.execTlbiVa x0 x1 s
  | .tlbiAsid x0 => Sys2Proof.Machine.execTlbiAsid x0 s
  | .ptsync => Sys2Proof.Machine.execPtsync s
  | .add x0 x1 x2 => Sys2Proof.Machine.execAdd x0 x1 x2 s
  | .sub x0 x1 x2 => Sys2Proof.Machine.execSub x0 x1 x2 s
  | .mul x0 x1 x2 => Sys2Proof.Machine.execMul x0 x1 x2 s
  | .mulh x0 x1 x2 => Sys2Proof.Machine.execMulh x0 x1 x2 s
  | .mulhu x0 x1 x2 => Sys2Proof.Machine.execMulhu x0 x1 x2 s
  | .div x0 x1 x2 => Sys2Proof.Machine.execDiv x0 x1 x2 s
  | .divu x0 x1 x2 => Sys2Proof.Machine.execDivu x0 x1 x2 s
  | .rem x0 x1 x2 => Sys2Proof.Machine.execRem x0 x1 x2 s
  | .remu x0 x1 x2 => Sys2Proof.Machine.execRemu x0 x1 x2 s
  | .and x0 x1 x2 => Sys2Proof.Machine.execAnd x0 x1 x2 s
  | .or x0 x1 x2 => Sys2Proof.Machine.execOr x0 x1 x2 s
  | .xor x0 x1 x2 => Sys2Proof.Machine.execXor x0 x1 x2 s
  | .andn x0 x1 x2 => Sys2Proof.Machine.execAndn x0 x1 x2 s
  | .shl x0 x1 x2 => Sys2Proof.Machine.execShl x0 x1 x2 s
  | .shr x0 x1 x2 => Sys2Proof.Machine.execShr x0 x1 x2 s
  | .sra x0 x1 x2 => Sys2Proof.Machine.execSra x0 x1 x2 s
  | .ror x0 x1 x2 => Sys2Proof.Machine.execRor x0 x1 x2 s
  | .slt x0 x1 x2 => Sys2Proof.Machine.execSlt x0 x1 x2 s
  | .sltu x0 x1 x2 => Sys2Proof.Machine.execSltu x0 x1 x2 s
  | .seq x0 x1 x2 => Sys2Proof.Machine.execSeq x0 x1 x2 s
  | .min x0 x1 x2 => Sys2Proof.Machine.execMin x0 x1 x2 s
  | .max x0 x1 x2 => Sys2Proof.Machine.execMax x0 x1 x2 s
  | .minu x0 x1 x2 => Sys2Proof.Machine.execMinu x0 x1 x2 s
  | .maxu x0 x1 x2 => Sys2Proof.Machine.execMaxu x0 x1 x2 s
  | .clz x0 x1 => Sys2Proof.Machine.execClz x0 x1 s
  | .popc x0 x1 => Sys2Proof.Machine.execPopc x0 x1 s
  | .addi x0 x1 x2 => Sys2Proof.Machine.execAddi x0 x1 x2 s
  | .andi x0 x1 x2 => Sys2Proof.Machine.execAndi x0 x1 x2 s
  | .ori x0 x1 x2 => Sys2Proof.Machine.execOri x0 x1 x2 s
  | .xori x0 x1 x2 => Sys2Proof.Machine.execXori x0 x1 x2 s
  | .shli x0 x1 x2 => Sys2Proof.Machine.execShli x0 x1 x2 s
  | .shri x0 x1 x2 => Sys2Proof.Machine.execShri x0 x1 x2 s
  | .srai x0 x1 x2 => Sys2Proof.Machine.execSrai x0 x1 x2 s
  | .rori x0 x1 x2 => Sys2Proof.Machine.execRori x0 x1 x2 s
  | .lui x0 x1 => Sys2Proof.Machine.execLui x0 x1 s
  | .seqi x0 x1 x2 => Sys2Proof.Machine.execSeqi x0 x1 x2 s
  | .slti x0 x1 x2 => Sys2Proof.Machine.execSlti x0 x1 x2 s
  | .sltiu x0 x1 x2 => Sys2Proof.Machine.execSltiu x0 x1 x2 s
  | .sgti x0 x1 x2 => Sys2Proof.Machine.execSgti x0 x1 x2 s
  | .pspace x0 x1 x2 => Sys2Proof.Machine.execPspace x0 x1 x2 s
  | .prank x0 x1 x2 => Sys2Proof.Machine.execPrank x0 x1 x2 s
  | .ppol x0 x1 x2 => Sys2Proof.Machine.execPpol x0 x1 x2 s
  | .pget x0 x1 x2 => Sys2Proof.Machine.execPget x0 x1 x2 s
  | .vadd x0 x1 => Sys2Proof.Machine.execVadd x0 x1 s
  | .vsub x0 x1 => Sys2Proof.Machine.execVsub x0 x1 s
  | .vmul x0 x1 => Sys2Proof.Machine.execVmul x0 x1 s
  | .vmulhI x0 => Sys2Proof.Machine.execVmulhI x0 s
  | .vmulhN x0 => Sys2Proof.Machine.execVmulhN x0 s
  | .vmulhIn x0 => Sys2Proof.Machine.execVmulhIn x0 s
  | .vminI x0 => Sys2Proof.Machine.execVminI x0 s
  | .vminN x0 => Sys2Proof.Machine.execVminN x0 s
  | .vmaxI x0 => Sys2Proof.Machine.execVmaxI x0 s
  | .vmaxN x0 => Sys2Proof.Machine.execVmaxN x0 s
  | .vaddsI x0 => Sys2Proof.Machine.execVaddsI x0 s
  | .vaddsN x0 => Sys2Proof.Machine.execVaddsN x0 s
  | .vavgI x0 => Sys2Proof.Machine.execVavgI x0 s
  | .vavgN x0 => Sys2Proof.Machine.execVavgN x0 s
  | .vsubsI x0 => Sys2Proof.Machine.execVsubsI x0 s
  | .vsubsN x0 => Sys2Proof.Machine.execVsubsN x0 s
  | .vabsdI x0 => Sys2Proof.Machine.execVabsdI x0 s
  | .vabsdN x0 => Sys2Proof.Machine.execVabsdN x0 s
  | .vand x0 => Sys2Proof.Machine.execVand x0 s
  | .vor x0 => Sys2Proof.Machine.execVor x0 s
  | .vxor x0 => Sys2Proof.Machine.execVxor x0 s
  | .vandn x0 => Sys2Proof.Machine.execVandn x0 s
  | .vshlVector x0 => Sys2Proof.Machine.execVshlVector x0 s
  | .vsrlVector x0 => Sys2Proof.Machine.execVsrlVector x0 s
  | .vsraVector x0 => Sys2Proof.Machine.execVsraVector x0 s
  | .vrsraVector x0 => Sys2Proof.Machine.execVrsraVector x0 s
  | .vshlScalar x0 => Sys2Proof.Machine.execVshlScalar x0 s
  | .vsrlScalar x0 => Sys2Proof.Machine.execVsrlScalar x0 s
  | .vsraScalar x0 => Sys2Proof.Machine.execVsraScalar x0 s
  | .vrsraScalar x0 => Sys2Proof.Machine.execVrsraScalar x0 s
  | .vshlImm x0 => Sys2Proof.Machine.execVshlImm x0 s
  | .vsrlImm x0 => Sys2Proof.Machine.execVsrlImm x0 s
  | .vsraImm x0 => Sys2Proof.Machine.execVsraImm x0 s
  | .vrsraImm x0 => Sys2Proof.Machine.execVrsraImm x0 s
  | .vcmpeq x0 => Sys2Proof.Machine.execVcmpeq x0 s
  | .vcmpne x0 => Sys2Proof.Machine.execVcmpne x0 s
  | .vcmpltI x0 => Sys2Proof.Machine.execVcmpltI x0 s
  | .vcmpltN x0 => Sys2Proof.Machine.execVcmpltN x0 s
  | .vpmac2I16x2 x0 => Sys2Proof.Machine.execVpmac2I16x2 x0 s
  | .vpmac2I16x2Scalar x0 => Sys2Proof.Machine.execVpmac2I16x2Scalar x0 s
  | .vpaddsI16x2 x0 => Sys2Proof.Machine.execVpaddsI16x2 x0 s
  | .vmac x0 => Sys2Proof.Machine.execVmac x0 s
  | .vaddScalar x0 => Sys2Proof.Machine.execVaddScalar x0 s
  | .vsubScalar x0 => Sys2Proof.Machine.execVsubScalar x0 s
  | .vrsub x0 => Sys2Proof.Machine.execVrsub x0 s
  | .vmulScalar x0 => Sys2Proof.Machine.execVmulScalar x0 s
  | .vsel x0 => Sys2Proof.Machine.execVsel x0 s
  | .vsplat x0 x1 x2 x3 => Sys2Proof.Machine.execVsplat x0 x1 x2 x3 s
  | .vid x0 x1 x2 => Sys2Proof.Machine.execVid x0 x1 x2 s
  | .vaddF x0 x1 => Sys2Proof.Machine.execVaddF x0 x1 s
  | .vsubF x0 x1 => Sys2Proof.Machine.execVsubF x0 x1 s
  | .vmulF x0 x1 => Sys2Proof.Machine.execVmulF x0 x1 s
  | .vdivF x0 x1 => Sys2Proof.Machine.execVdivF x0 x1 s
  | .vfmaF x0 x1 => Sys2Proof.Machine.execVfmaF x0 x1 s
  | .vfmsF x0 x1 => Sys2Proof.Machine.execVfmsF x0 x1 s
  | .vfnmaF x0 x1 => Sys2Proof.Machine.execVfnmaF x0 x1 s
  | .vminF x0 x1 => Sys2Proof.Machine.execVminF x0 x1 s
  | .vmaxF x0 x1 => Sys2Proof.Machine.execVmaxF x0 x1 s
  | .vfcmpeq x0 => Sys2Proof.Machine.execVfcmpeq x0 s
  | .vfcmplt x0 => Sys2Proof.Machine.execVfcmplt x0 s
  | .vfcmple x0 => Sys2Proof.Machine.execVfcmple x0 s
  | .vfcmpun x0 => Sys2Proof.Machine.execVfcmpun x0 s
  | .vsqrt x0 => Sys2Proof.Machine.execVsqrt x0 s
  | .vabs x0 => Sys2Proof.Machine.execVabs x0 s
  | .vneg x0 => Sys2Proof.Machine.execVneg x0 s
  | .vclass x0 => Sys2Proof.Machine.execVclass x0 s
  | .vaddFScalar x0 => Sys2Proof.Machine.execVaddFScalar x0 s
  | .vmulFScalar x0 => Sys2Proof.Machine.execVmulFScalar x0 s
  | .vfmaFScalar x0 => Sys2Proof.Machine.execVfmaFScalar x0 s
  | .vsubFScalar x0 => Sys2Proof.Machine.execVsubFScalar x0 s
  | .vaddBf16x2 x0 => Sys2Proof.Machine.execVaddBf16x2 x0 s
  | .vsubBf16x2 x0 => Sys2Proof.Machine.execVsubBf16x2 x0 s
  | .vmulBf16x2 x0 => Sys2Proof.Machine.execVmulBf16x2 x0 s
  | .vfmaBf16x2 x0 => Sys2Proof.Machine.execVfmaBf16x2 x0 s
  | .vfcvt x0 x1 => Sys2Proof.Machine.execVfcvt x0 x1 s
  | .vfcvtI x0 => Sys2Proof.Machine.execVfcvtI x0 s
  | .vfcvtN x0 => Sys2Proof.Machine.execVfcvtN x0 s
  | .vfcvtzI x0 => Sys2Proof.Machine.execVfcvtzI x0 s
  | .vfcvtzN x0 => Sys2Proof.Machine.execVfcvtzN x0 s
  | .vicvtI x0 => Sys2Proof.Machine.execVicvtI x0 s
  | .vicvtN x0 => Sys2Proof.Machine.execVicvtN x0 s
  | .vsext x0 => Sys2Proof.Machine.execVsext x0 s
  | .vzext x0 => Sys2Proof.Machine.execVzext x0 s
  | .vnarrow x0 => Sys2Proof.Machine.execVnarrow x0 s
  | .vnarrows x0 => Sys2Proof.Machine.execVnarrows x0 s
  | .vmxcvtToMx x0 x1 => Sys2Proof.Machine.execVmxcvtToMx x0 x1 s
  | .vmxcvtFromMx x0 x1 => Sys2Proof.Machine.execVmxcvtFromMx x0 x1 s
  | .vmxcvtMxint8F32 x0 => Sys2Proof.Machine.execVmxcvtMxint8F32 x0 s
  | .vmxcvtF32Mxint8 x0 => Sys2Proof.Machine.execVmxcvtF32Mxint8 x0 s
  | .vbfpcvtBfp8F32 x0 => Sys2Proof.Machine.execVbfpcvtBfp8F32 x0 s
  | .vbfpcvtF32Bfp8 x0 => Sys2Proof.Machine.execVbfpcvtF32Bfp8 x0 s
  | .vexp2 x0 => Sys2Proof.Machine.execVexp2 x0 s
  | .vlog2 x0 => Sys2Proof.Machine.execVlog2 x0 s
  | .vexp x0 => Sys2Proof.Machine.execVexp x0 s
  | .vlog x0 => Sys2Proof.Machine.execVlog x0 s
  | .vrcp x0 => Sys2Proof.Machine.execVrcp x0 s
  | .vrsq x0 => Sys2Proof.Machine.execVrsq x0 s
  | .vtanh x0 => Sys2Proof.Machine.execVtanh x0 s
  | .vsin x0 => Sys2Proof.Machine.execVsin x0 s
  | .vcos x0 => Sys2Proof.Machine.execVcos x0 s
  | .vmovW x0 => Sys2Proof.Machine.execVmovW x0 s
  | .vscget x0 => Sys2Proof.Machine.execVscget x0 s
  | .vscput x0 => Sys2Proof.Machine.execVscput x0 s
  | .vslidedn x0 x1 x2 x3 => Sys2Proof.Machine.execVslidedn x0 x1 x2 x3 s
  | .vslideup x0 x1 x2 x3 => Sys2Proof.Machine.execVslideup x0 x1 x2 x3 s
  | .vperm x0 x1 x2 => Sys2Proof.Machine.execVperm x0 x1 x2 s
  | .vrev x0 x1 x2 => Sys2Proof.Machine.execVrev x0 x1 x2 s
  | .vredsum x0 x1 x2 => Sys2Proof.Machine.execVredsum x0 x1 x2 s
  | .vredmaxI x0 x1 x2 => Sys2Proof.Machine.execVredmaxI x0 x1 x2 s
  | .vredmaxN x0 x1 x2 => Sys2Proof.Machine.execVredmaxN x0 x1 x2 s
  | .vredminI x0 x1 x2 => Sys2Proof.Machine.execVredminI x0 x1 x2 s
  | .vredminN x0 x1 x2 => Sys2Proof.Machine.execVredminN x0 x1 x2 s
  | .vredand x0 x1 x2 => Sys2Proof.Machine.execVredand x0 x1 x2 s
  | .vredor x0 x1 x2 => Sys2Proof.Machine.execVredor x0 x1 x2 s
  | .vredsumF x0 x1 x2 => Sys2Proof.Machine.execVredsumF x0 x1 x2 s
  | .vredmaxF x0 x1 x2 => Sys2Proof.Machine.execVredmaxF x0 x1 x2 s
  | .vredminF x0 x1 x2 => Sys2Proof.Machine.execVredminF x0 x1 x2 s
  | .vscansum x0 x1 => Sys2Proof.Machine.execVscansum x0 x1 s
  | .vscansumF x0 x1 => Sys2Proof.Machine.execVscansumF x0 x1 s
  | .vscanmaxI x0 x1 => Sys2Proof.Machine.execVscanmaxI x0 x1 s
  | .vexscansum x0 x1 => Sys2Proof.Machine.execVexscansum x0 x1 s
  | .vqxX1 x0 x1 => Sys2Proof.Machine.execVqxX1 x0 x1 s
  | .vqxX2 x0 x1 => Sys2Proof.Machine.execVqxX2 x0 x1 s
  | .vqxX3 x0 x1 => Sys2Proof.Machine.execVqxX3 x0 x1 s
  | .vqxB0 x0 x1 => Sys2Proof.Machine.execVqxB0 x0 x1 s
  | .vqxB1 x0 x1 => Sys2Proof.Machine.execVqxB1 x0 x1 s
  | .vqxB2 x0 x1 => Sys2Proof.Machine.execVqxB2 x0 x1 s
  | .vqxB3 x0 x1 => Sys2Proof.Machine.execVqxB3 x0 x1 s
  | .mxlda x0 x1 x2 x3 => Sys2Proof.Machine.execMxlda x0 x1 x2 x3 s
  | .mxldb x0 x1 x2 x3 => Sys2Proof.Machine.execMxldb x0 x1 x2 x3 s
  | .mxlds x0 x1 x2 x3 => Sys2Proof.Machine.execMxlds x0 x1 x2 x3 s
  | .mxstep x0 x1 x2 => Sys2Proof.Machine.execMxstep x0 x1 x2 s
  | .mxloop x0 x1 x2 => Sys2Proof.Machine.execMxloop x0 x1 x2 s
  | .mxspstep x0 x1 x2 => Sys2Proof.Machine.execMxspstep x0 x1 x2 s
  | .mxsploop x0 x1 x2 => Sys2Proof.Machine.execMxsploop x0 x1 x2 s
  | .mxrdz x0 x1 x2 => Sys2Proof.Machine.execMxrdz x0 x1 x2 s
  | .mxwrz x0 x1 x2 => Sys2Proof.Machine.execMxwrz x0 x1 x2 s
  | .mxtred x0 x1 x2 => Sys2Proof.Machine.execMxtred x0 x1 x2 s
  | .mxtmov x0 x1 x2 => Sys2Proof.Machine.execMxtmov x0 x1 x2 s
  | .mxelog x0 x1 => Sys2Proof.Machine.execMxelog x0 x1 s
  | .mxestat x0 => Sys2Proof.Machine.execMxestat x0 s
  | .mxeclr => Sys2Proof.Machine.execMxeclr s
  | .wfwd x0 x1 => Sys2Proof.Machine.execWfwd x0 x1 s
  | .winv x0 x1 => Sys2Proof.Machine.execWinv x0 x1 s
  | .wthr x0 x1 => Sys2Proof.Machine.execWthr x0 x1 s
  | .wthset x0 x1 => Sys2Proof.Machine.execWthset x0 x1 s
  | .wst x0 x1 x2 => Sys2Proof.Machine.execWst x0 x1 x2 s
  | .wld x0 x1 x2 => Sys2Proof.Machine.execWld x0 x1 x2 s
  | .wldRaw x0 x1 x2 => Sys2Proof.Machine.execWldRaw x0 x1 x2 s
  | .wtag x0 x1 x2 => Sys2Proof.Machine.execWtag x0 x1 x2 s
  | .wcnt x0 x1 => Sys2Proof.Machine.execWcnt x0 x1 s
  | .ljoin x0 x1 x2 => Sys2Proof.Machine.execLjoin x0 x1 x2 s
  | .ljoinV x0 x1 x2 => Sys2Proof.Machine.execLjoinV x0 x1 x2 s
  | .lput x0 x1 x2 x3 => Sys2Proof.Machine.execLput x0 x1 x2 x3 s
  | .lputV x0 x1 x2 x3 => Sys2Proof.Machine.execLputV x0 x1 x2 x3 s
  | .lget x0 x1 x2 x3 => Sys2Proof.Machine.execLget x0 x1 x2 x3 s
  | .lgetV x0 x1 x2 x3 => Sys2Proof.Machine.execLgetV x0 x1 x2 x3 s
  | .lwait x0 x1 x2 x3 => Sys2Proof.Machine.execLwait x0 x1 x2 x3 s
  | .lxsched x0 x1 => Sys2Proof.Machine.execLxsched x0 x1 s
  | .lxnow x0 => Sys2Proof.Machine.execLxnow x0 s
  | .ltype x0 x1 x2 => Sys2Proof.Machine.execLtype x0 x1 x2 s
  | .lclr x0 x1 => Sys2Proof.Machine.execLclr x0 x1 s
  | .ldv x0 => Sys2Proof.Machine.execLdv x0 s
  | .stv x0 => Sys2Proof.Machine.execStv x0 s
  | .ldg x0 => Sys2Proof.Machine.execLdg x0 s
  | .stg x0 => Sys2Proof.Machine.execStg x0 s
  | .ldff x0 => Sys2Proof.Machine.execLdff x0 s
  | .ldr x0 x1 x2 x3 x4 x5 => Sys2Proof.Machine.execLdr x0 x1 x2 x3 x4 x5 s
  | .ld x0 x1 x2 x3 => Sys2Proof.Machine.execLd x0 x1 x2 x3 s
  | .st x0 x1 x2 => Sys2Proof.Machine.execSt x0 x1 x2 s
  | .atAdd x0 => Sys2Proof.Machine.execAtAdd x0 s
  | .atSwap x0 => Sys2Proof.Machine.execAtSwap x0 s
  | .atCas x0 => Sys2Proof.Machine.execAtCas x0 s
  | .atFadd x0 => Sys2Proof.Machine.execAtFadd x0 s
  | .atAnd x0 => Sys2Proof.Machine.execAtAnd x0 s
  | .atOr x0 => Sys2Proof.Machine.execAtOr x0 s
  | .atMax x0 => Sys2Proof.Machine.execAtMax x0 s
  | .atMaxu x0 => Sys2Proof.Machine.execAtMaxu x0 s
  | .fenceAcq x0 => Sys2Proof.Machine.execFenceAcq x0 s
  | .fenceRel x0 => Sys2Proof.Machine.execFenceRel x0 s
  | .fenceAr x0 => Sys2Proof.Machine.execFenceAr x0 s
  | .fenceSc x0 => Sys2Proof.Machine.execFenceSc x0 s
  | .fenceAck x0 => Sys2Proof.Machine.execFenceAck x0 s
  | .lda x0 x1 x2 x3 => Sys2Proof.Machine.execLda x0 x1 x2 x3 s
  | .ldaSc x0 x1 x2 x3 => Sys2Proof.Machine.execLdaSc x0 x1 x2 x3 s
  | .stl x0 x1 x2 => Sys2Proof.Machine.execStl x0 x1 x2 s
  | .stlSc x0 x1 x2 => Sys2Proof.Machine.execStlSc x0 x1 x2 s
  | .ldb x0 x1 x2 x3 => Sys2Proof.Machine.execLdb x0 x1 x2 x3 s
  | .stb x0 x1 x2 => Sys2Proof.Machine.execStb x0 x1 x2 s
  | .cbload x0 x1 x2 x3 => Sys2Proof.Machine.execCbload x0 x1 x2 x3 s
  | .ldcb x0 x1 x2 x3 => Sys2Proof.Machine.execLdcb x0 x1 x2 x3 s
  | .pref x0 x1 x2 => Sys2Proof.Machine.execPref x0 x1 x2 s
  | .mcnt x0 x1 => Sys2Proof.Machine.execMcnt x0 x1 s
  | .pagereq x0 x1 => Sys2Proof.Machine.execPagereq x0 x1 s
  | .pagereqW x0 x1 => Sys2Proof.Machine.execPagereqW x0 x1 s
  | .pagehint x0 => Sys2Proof.Machine.execPagehint x0 s
  | .pagehintW x0 => Sys2Proof.Machine.execPagehintW x0 s
  | .pagerel x0 x1 => Sys2Proof.Machine.execPagerel x0 x1 s
  | .cp x0 x1 x2 => Sys2Proof.Machine.execCp x0 x1 x2 s
  | .cp2d x0 x1 x2 => Sys2Proof.Machine.execCp2d x0 x1 x2 s
  | .cpfill x0 x1 x2 => Sys2Proof.Machine.execCpfill x0 x1 x2 s
  | .cpver x0 x1 x2 => Sys2Proof.Machine.execCpver x0 x1 x2 s
  | .cpwp x0 x1 => Sys2Proof.Machine.execCpwp x0 x1 s
  | .cpwpClr x0 x1 => Sys2Proof.Machine.execCpwpClr x0 x1 s
  | .cpnum x0 => Sys2Proof.Machine.execCpnum x0 s
  | .cpseed x0 x1 => Sys2Proof.Machine.execCpseed x0 x1 s
  | .cproot x0 x1 x2 => Sys2Proof.Machine.execCproot x0 x1 x2 s
  | .cprootClr x0 x1 => Sys2Proof.Machine.execCprootClr x0 x1 s
  | .fxstat x0 => Sys2Proof.Machine.execFxstat x0 s
  | .fxclr x0 => Sys2Proof.Machine.execFxclr x0 s
  | .fxrank x0 => Sys2Proof.Machine.execFxrank x0 s
  | .fxpath x0 x1 => Sys2Proof.Machine.execFxpath x0 x1 s
  | .fxsto x0 x1 => Sys2Proof.Machine.execFxsto x0 x1 s
  | .fxstoRel x0 x1 => Sys2Proof.Machine.execFxstoRel x0 x1 s
  | .fxcnt x0 x1 => Sys2Proof.Machine.execFxcnt x0 x1 s

end Sys2Proof.Machine
end

