-- ==== Sys2Proof/Machine/Run.lean ====
section
/-! DEFINITION. The decoder and `exec` as one function, for Lean's compiler, which cannot build the constructors of `Instr` numbered above
244: it answers the meaning instead of the instruction. `issueBytes` is what the model says; `issueBytes_eq` is why running the other
is the same. -/

set_option linter.unusedSimpArgs false

namespace Sys2Proof.Machine

/-- As `decodeM00`. -/
def runM00 (w : Nat) : Except DecodeError (State → Out) :=
  match w / 256 % 64 with
  | 0 =>
    if (w / 16384 % 262144) ≠ 0 then .error .mustBeZero else
    .ok (execNop)
  | 1 =>
    if (w / 16384 % 262144) ≠ 0 then .error .mustBeZero else
    .ok (execExit)
  | 2 =>
    if (w / 16384 % 262144) ≠ 0 then .error .mustBeZero else
    .ok (execTret)
  | 3 =>
    if (w / 16384 % 4096) ≠ 0 then .error .mustBeZero else
    .ok (execBrk (w / 67108864 % 64))
  | 4 =>
    if (w / 16384 % 262144) ≠ 0 then .error .mustBeZero else
    .ok (execWaitdep)
  | 5 =>
    if (w / 16384 % 262144) ≠ 0 then .error .mustBeZero else
    .ok (execTrigger)
  | 6 =>
    if (w / 16384 % 4096) ≠ 0 then .error .mustBeZero else
    .ok (execTkrd (w / 67108864 % 64))
  | _ => .error .reservedMinor

/-- As `decodeM01`. -/
def runM01 (w : Nat) : Except DecodeError (State → Out) :=
  match w / 8192 % 2 with
  | 0 =>
    if (w / 256 % 32) ≠ 0 then .error .mustBeZero else
    .ok (execBra (sext 18 (w / 16384 % 262144)))
  | 1 =>
    .ok (execCall (sext 18 (w / 16384 % 262144)) (w / 256 % 32))
  | _ => .error .reservedMinor

/-- As `decodeM02`. -/
def runM02 (w : Nat) : Except DecodeError (State → Out) :=
  match w / 4096 % 4 with
  | 0 =>
    .ok (execBrm (sext 18 (w / 16384 % 262144)) (w / 256 % 16))
  | 1 =>
    .ok (execBrmz (sext 18 (w / 16384 % 262144)) (w / 256 % 16))
  | 2 =>
    .ok (execBrany (sext 18 (w / 16384 % 262144)) (w / 256 % 16))
  | 3 =>
    .ok (execBrall (sext 18 (w / 16384 % 262144)) (w / 256 % 16))
  | _ => .error .reservedMinor

/-- As `decodeM03`. -/
def runM03 (w : Nat) : Except DecodeError (State → Out) :=
  match w / 8192 % 2 with
  | 0 =>
    .ok (execBnz (sext 18 (w / 16384 % 262144)) (w / 256 % 32))
  | 1 =>
    .ok (execBz (sext 18 (w / 16384 % 262144)) (w / 256 % 32))
  | _ => .error .reservedMinor

/-- As `decodeM04`. -/
def runM04 (w : Nat) : Except DecodeError (State → Out) :=
  match w / 256 % 64 with
  | 0 =>
    if (w / 16384 % 4096) ≠ 0 then .error .mustBeZero else
    .ok (execJmp (w / 67108864 % 64))
  | 1 =>
    if (w / 16384 % 4096) ≠ 0 then .error .mustBeZero else
    .ok (execJmpv (w / 67108864 % 64))
  | 2 =>
    if (w / 16384 % 64) ≠ 0 then .error .mustBeZero else
    .ok (execCalli (w / 67108864 % 64) (w / 1048576 % 64))
  | 3 =>
    if (w / 16384 % 64) ≠ 0 then .error .mustBeZero else
    .ok (execCallv (w / 67108864 % 64) (w / 1048576 % 64))
  | _ => .error .reservedMinor

/-- As `decodeM05`. -/
def runM05 (w : Nat) : Except DecodeError (State → Out) :=
  match w / 256 % 64 with
  | 0 =>
    if 5 ≤ (w / 16384 % 8) then .error .reservedValue else
    .ok (execSetvl (w / 67108864 % 64) (w / 1048576 % 64) (w / 524288 % 2) (w / 131072 % 4) (w / 16384 % 8))
  | 1 =>
    .ok (execSetvlr (w / 67108864 % 64) (w / 1048576 % 64) (w / 16384 % 64))
  | _ => .error .reservedMinor

/-- As `decodeM06`. -/
def runM06 (w : Nat) : Except DecodeError (State → Out) :=
  match w / 256 % 64 with
  | 0 =>
    if (w / 262144 % 4) ≠ 0 then .error .mustBeZero else
    if (w / 16777216 % 4) ≠ 0 then .error .mustBeZero else
    if (w / 1073741824 % 4) ≠ 0 then .error .mustBeZero else
    .ok (execMand (w / 67108864 % 16) (w / 1048576 % 16) (w / 16384 % 16))
  | 1 =>
    if (w / 262144 % 4) ≠ 0 then .error .mustBeZero else
    if (w / 16777216 % 4) ≠ 0 then .error .mustBeZero else
    if (w / 1073741824 % 4) ≠ 0 then .error .mustBeZero else
    .ok (execMor (w / 67108864 % 16) (w / 1048576 % 16) (w / 16384 % 16))
  | 2 =>
    if (w / 262144 % 4) ≠ 0 then .error .mustBeZero else
    if (w / 16777216 % 4) ≠ 0 then .error .mustBeZero else
    if (w / 1073741824 % 4) ≠ 0 then .error .mustBeZero else
    .ok (execMxor (w / 67108864 % 16) (w / 1048576 % 16) (w / 16384 % 16))
  | 3 =>
    if (w / 262144 % 4) ≠ 0 then .error .mustBeZero else
    if (w / 16777216 % 4) ≠ 0 then .error .mustBeZero else
    if (w / 1073741824 % 4) ≠ 0 then .error .mustBeZero else
    .ok (execMandn (w / 67108864 % 16) (w / 1048576 % 16) (w / 16384 % 16))
  | 4 =>
    if (w / 262144 % 4) ≠ 0 then .error .mustBeZero else
    if (w / 16777216 % 4) ≠ 0 then .error .mustBeZero else
    if (w / 1073741824 % 4) ≠ 0 then .error .mustBeZero else
    .ok (execMorn (w / 67108864 % 16) (w / 1048576 % 16) (w / 16384 % 16))
  | 5 =>
    if (w / 16384 % 64) ≠ 0 then .error .mustBeZero else
    if (w / 16777216 % 4) ≠ 0 then .error .mustBeZero else
    if (w / 1073741824 % 4) ≠ 0 then .error .mustBeZero else
    .ok (execMnot (w / 67108864 % 16) (w / 1048576 % 16))
  | 6 =>
    if (w / 16384 % 64) ≠ 0 then .error .mustBeZero else
    if (w / 16777216 % 4) ≠ 0 then .error .mustBeZero else
    if (w / 1073741824 % 4) ≠ 0 then .error .mustBeZero else
    .ok (execMmov (w / 67108864 % 16) (w / 1048576 % 16))
  | 7 =>
    if (w / 16384 % 4096) ≠ 0 then .error .mustBeZero else
    if (w / 1073741824 % 4) ≠ 0 then .error .mustBeZero else
    .ok (execMvl (w / 67108864 % 16))
  | 8 =>
    if (w / 16384 % 4096) ≠ 0 then .error .mustBeZero else
    if (w / 1073741824 % 4) ≠ 0 then .error .mustBeZero else
    .ok (execMact (w / 67108864 % 16))
  | 9 =>
    if (w / 16384 % 64) ≠ 0 then .error .mustBeZero else
    if (w / 16777216 % 4) ≠ 0 then .error .mustBeZero else
    .ok (execMpop (w / 67108864 % 64) (w / 1048576 % 16))
  | 10 =>
    if (w / 16384 % 64) ≠ 0 then .error .mustBeZero else
    if (w / 16777216 % 4) ≠ 0 then .error .mustBeZero else
    .ok (execMfirst (w / 67108864 % 64) (w / 1048576 % 16))
  | 11 =>
    if (w / 16777216 % 4) ≠ 0 then .error .mustBeZero else
    if 16 ≤ (w / 16384 % 64) then .error .reservedValue else
    .ok (execMrds (w / 67108864 % 64) (w / 1048576 % 16) (w / 16384 % 64))
  | 12 =>
    if (w / 1073741824 % 4) ≠ 0 then .error .mustBeZero else
    if 16 ≤ (w / 16384 % 64) then .error .reservedValue else
    .ok (execMwrs (w / 67108864 % 16) (w / 1048576 % 64) (w / 16384 % 64))
  | _ => .error .reservedMinor

/-- As `decodeM07`. -/
def runM07 (w : Nat) : Except DecodeError (State → Out) :=
  match w / 256 % 64 with
  | 0 =>
    if (w / 1073741824 % 4) ≠ 0 then .error .mustBeZero else
    .ok (execBarArrive (w / 67108864 % 16) (w / 1048576 % 64) (w / 16384 % 64))
  | 1 =>
    if (w / 16384 % 64) ≠ 0 then .error .mustBeZero else
    if (w / 1073741824 % 4) ≠ 0 then .error .mustBeZero else
    .ok (execBarCharge (w / 67108864 % 16) (w / 1048576 % 64))
  | 2 =>
    if (w / 16384 % 64) ≠ 0 then .error .mustBeZero else
    if (w / 1073741824 % 4) ≠ 0 then .error .mustBeZero else
    .ok (execBarWait (w / 67108864 % 16) (w / 1048576 % 64))
  | _ => .error .reservedMinor

/-- As `decodeM08`. -/
def runM08 (w : Nat) : Except DecodeError (State → Out) :=
  match w / 256 % 64 with
  | 0 =>
    if (w / 16384 % 64) ≠ 0 then .error .mustBeZero else
    if (w / 16777216 % 4) ≠ 0 then .error .mustBeZero else
    if (w / 536870912 % 8) ≠ 0 then .error .mustBeZero else
    .ok (execStgArrive (w / 67108864 % 8) (w / 1048576 % 16))
  | 1 =>
    if (w / 32768 % 32) ≠ 0 then .error .mustBeZero else
    if (w / 16777216 % 4) ≠ 0 then .error .mustBeZero else
    if (w / 536870912 % 8) ≠ 0 then .error .mustBeZero else
    .ok (execStgWait (w / 67108864 % 8) (w / 1048576 % 16) (w / 16384 % 2))
  | _ => .error .reservedMinor

/-- As `decodeM09`. -/
def runM09 (w : Nat) : Except DecodeError (State → Out) :=
  match w / 256 % 64 with
  | 0 =>
    if (w / 16384 % 64) ≠ 0 then .error .mustBeZero else
    if ¬ (csrNumber (w / 1048576 % 64)) then .error .reservedValue else
    .ok (execCsrr (w / 67108864 % 64) (w / 1048576 % 64))
  | 1 =>
    if (w / 16384 % 64) ≠ 0 then .error .mustBeZero else
    if ¬ (csrNumber (w / 1048576 % 64)) then .error .reservedValue else
    .ok (execCsrw (w / 67108864 % 64) (w / 1048576 % 64))
  | 2 =>
    if (w / 16384 % 64) ≠ 0 then .error .mustBeZero else
    if ¬ (csrNumber (w / 1048576 % 64)) then .error .reservedValue else
    .ok (execCsrset (w / 67108864 % 64) (w / 1048576 % 64))
  | 3 =>
    if (w / 16384 % 64) ≠ 0 then .error .mustBeZero else
    if ¬ (csrNumber (w / 1048576 % 64)) then .error .reservedValue else
    .ok (execCsrclr (w / 67108864 % 64) (w / 1048576 % 64))
  | 4 =>
    if (w / 1048576 % 64) ≠ 0 then .error .mustBeZero else
    if 8 ≤ (w / 16384 % 64) then .error .reservedValue else
    .ok (execRdts (w / 67108864 % 64) (w / 16384 % 64))
  | 5 =>
    if (w / 1048576 % 64) ≠ 0 then .error .mustBeZero else
    if 8 ≤ (w / 16384 % 64) then .error .reservedValue else
    .ok (execWrts (w / 67108864 % 64) (w / 16384 % 64))
  | 6 =>
    if (w / 16384 % 4096) ≠ 0 then .error .mustBeZero else
    .ok (execRdvpc (w / 67108864 % 64))
  | _ => .error .reservedMinor

/-- As `decodeM0A`. -/
def runM0A (w : Nat) : Except DecodeError (State → Out) :=
  match w / 256 % 64 with
  | 0 =>
    if (w / 16384 % 64) ≠ 0 then .error .mustBeZero else
    .ok (execTlbiVa (w / 67108864 % 64) (w / 1048576 % 64))
  | 1 =>
    if (w / 16384 % 4096) ≠ 0 then .error .mustBeZero else
    .ok (execTlbiAsid (w / 67108864 % 64))
  | 2 =>
    if (w / 16384 % 262144) ≠ 0 then .error .mustBeZero else
    .ok (execPtsync)
  | _ => .error .reservedMinor

/-- As `decodeM10`. -/
def runM10 (w : Nat) : Except DecodeError (State → Out) :=
  match w / 256 % 64 with
  | 0 =>
    .ok (execAdd (w / 67108864 % 64) (w / 1048576 % 64) (w / 16384 % 64))
  | 1 =>
    .ok (execSub (w / 67108864 % 64) (w / 1048576 % 64) (w / 16384 % 64))
  | 2 =>
    .ok (execMul (w / 67108864 % 64) (w / 1048576 % 64) (w / 16384 % 64))
  | 3 =>
    .ok (execMulh (w / 67108864 % 64) (w / 1048576 % 64) (w / 16384 % 64))
  | 4 =>
    .ok (execMulhu (w / 67108864 % 64) (w / 1048576 % 64) (w / 16384 % 64))
  | 5 =>
    .ok (execDiv (w / 67108864 % 64) (w / 1048576 % 64) (w / 16384 % 64))
  | 6 =>
    .ok (execDivu (w / 67108864 % 64) (w / 1048576 % 64) (w / 16384 % 64))
  | 7 =>
    .ok (execRem (w / 67108864 % 64) (w / 1048576 % 64) (w / 16384 % 64))
  | 8 =>
    .ok (execRemu (w / 67108864 % 64) (w / 1048576 % 64) (w / 16384 % 64))
  | 9 =>
    .ok (execAnd (w / 67108864 % 64) (w / 1048576 % 64) (w / 16384 % 64))
  | 10 =>
    .ok (execOr (w / 67108864 % 64) (w / 1048576 % 64) (w / 16384 % 64))
  | 11 =>
    .ok (execXor (w / 67108864 % 64) (w / 1048576 % 64) (w / 16384 % 64))
  | 12 =>
    .ok (execAndn (w / 67108864 % 64) (w / 1048576 % 64) (w / 16384 % 64))
  | 13 =>
    .ok (execShl (w / 67108864 % 64) (w / 1048576 % 64) (w / 16384 % 64))
  | 14 =>
    .ok (execShr (w / 67108864 % 64) (w / 1048576 % 64) (w / 16384 % 64))
  | 15 =>
    .ok (execSra (w / 67108864 % 64) (w / 1048576 % 64) (w / 16384 % 64))
  | 16 =>
    .ok (execRor (w / 67108864 % 64) (w / 1048576 % 64) (w / 16384 % 64))
  | 17 =>
    .ok (execSlt (w / 67108864 % 64) (w / 1048576 % 64) (w / 16384 % 64))
  | 18 =>
    .ok (execSltu (w / 67108864 % 64) (w / 1048576 % 64) (w / 16384 % 64))
  | 19 =>
    .ok (execSeq (w / 67108864 % 64) (w / 1048576 % 64) (w / 16384 % 64))
  | 20 =>
    .ok (execMin (w / 67108864 % 64) (w / 1048576 % 64) (w / 16384 % 64))
  | 21 =>
    .ok (execMax (w / 67108864 % 64) (w / 1048576 % 64) (w / 16384 % 64))
  | 22 =>
    .ok (execMinu (w / 67108864 % 64) (w / 1048576 % 64) (w / 16384 % 64))
  | 23 =>
    .ok (execMaxu (w / 67108864 % 64) (w / 1048576 % 64) (w / 16384 % 64))
  | 24 =>
    if (w / 16384 % 64) ≠ 0 then .error .mustBeZero else
    .ok (execClz (w / 67108864 % 64) (w / 1048576 % 64))
  | 25 =>
    if (w / 16384 % 64) ≠ 0 then .error .mustBeZero else
    .ok (execPopc (w / 67108864 % 64) (w / 1048576 % 64))
  | _ => .error .reservedMinor

/-- As `decodeM11`. -/
def runM11 (w : Nat) : Except DecodeError (State → Out) :=
  .ok (execAddi (w / 67108864 % 64) (w / 1048576 % 64) (sext 12 (w / 256 % 4096)))

/-- As `decodeM12`. -/
def runM12 (w : Nat) : Except DecodeError (State → Out) :=
  .ok (execAndi (w / 67108864 % 64) (w / 1048576 % 64) (sext 12 (w / 256 % 4096)))

/-- As `decodeM13`. -/
def runM13 (w : Nat) : Except DecodeError (State → Out) :=
  .ok (execOri (w / 67108864 % 64) (w / 1048576 % 64) (sext 12 (w / 256 % 4096)))

/-- As `decodeM14`. -/
def runM14 (w : Nat) : Except DecodeError (State → Out) :=
  .ok (execXori (w / 67108864 % 64) (w / 1048576 % 64) (sext 12 (w / 256 % 4096)))

/-- As `decodeM15`. -/
def runM15 (w : Nat) : Except DecodeError (State → Out) :=
  match w / 16384 % 4 with
  | 0 =>
    if (w / 65536 % 16) ≠ 0 then .error .mustBeZero else
    .ok (execShli (w / 67108864 % 64) (w / 1048576 % 64) (w / 256 % 64))
  | 1 =>
    if (w / 65536 % 16) ≠ 0 then .error .mustBeZero else
    .ok (execShri (w / 67108864 % 64) (w / 1048576 % 64) (w / 256 % 64))
  | 2 =>
    if (w / 65536 % 16) ≠ 0 then .error .mustBeZero else
    .ok (execSrai (w / 67108864 % 64) (w / 1048576 % 64) (w / 256 % 64))
  | 3 =>
    if (w / 65536 % 16) ≠ 0 then .error .mustBeZero else
    .ok (execRori (w / 67108864 % 64) (w / 1048576 % 64) (w / 256 % 64))
  | _ => .error .reservedMinor

/-- As `decodeM16`. -/
def runM16 (w : Nat) : Except DecodeError (State → Out) :=
  .ok (execLui (w / 67108864 % 64) (sext 18 (w / 256 % 262144)))

/-- As `decodeM17`. -/
def runM17 (w : Nat) : Except DecodeError (State → Out) :=
  match w / 262144 % 4 with
  | 0 =>
    .ok (execSeqi (w / 67108864 % 64) (w / 1048576 % 64) (sext 10 (w / 256 % 1024)))
  | 1 =>
    .ok (execSlti (w / 67108864 % 64) (w / 1048576 % 64) (sext 10 (w / 256 % 1024)))
  | 2 =>
    .ok (execSltiu (w / 67108864 % 64) (w / 1048576 % 64) (sext 10 (w / 256 % 1024)))
  | 3 =>
    .ok (execSgti (w / 67108864 % 64) (w / 1048576 % 64) (sext 10 (w / 256 % 1024)))
  | _ => .error .reservedMinor

/-- As `decodeM18`. -/
def runM18 (w : Nat) : Except DecodeError (State → Out) :=
  match w / 256 % 64 with
  | 0 =>
    if (w / 131072 % 8) ≠ 0 then .error .mustBeZero else
    .ok (execPspace (w / 67108864 % 64) (w / 1048576 % 64) (w / 16384 % 8))
  | 1 =>
    .ok (execPrank (w / 67108864 % 64) (w / 1048576 % 64) (w / 16384 % 64))
  | 2 =>
    if (w / 32768 % 32) ≠ 0 then .error .mustBeZero else
    .ok (execPpol (w / 67108864 % 64) (w / 1048576 % 64) (w / 16384 % 2))
  | 3 =>
    if (w / 65536 % 16) ≠ 0 then .error .mustBeZero else
    .ok (execPget (w / 67108864 % 64) (w / 1048576 % 64) (w / 16384 % 4))
  | _ => .error .reservedMinor

/-- As `decodeM20`. -/
def runM20 (w : Nat) : Except DecodeError (State → Out) :=
  if (w / 1024 % 16) = 8 then .error .reservedPredicate else
  .ok (execVadd ⟨(w / 134217728 % 32), (w / 4194304 % 32), (w / 131072 % 32), (w / 16384 % 8), (w / 1024 % 16)⟩ (w / 256 % 4))

/-- As `decodeM21`. -/
def runM21 (w : Nat) : Except DecodeError (State → Out) :=
  if (w / 1024 % 16) = 8 then .error .reservedPredicate else
  .ok (execVsub ⟨(w / 134217728 % 32), (w / 4194304 % 32), (w / 131072 % 32), (w / 16384 % 8), (w / 1024 % 16)⟩ (w / 256 % 4))

/-- As `decodeM22`. -/
def runM22 (w : Nat) : Except DecodeError (State → Out) :=
  if (w / 1024 % 16) = 8 then .error .reservedPredicate else
  .ok (execVmul ⟨(w / 134217728 % 32), (w / 4194304 % 32), (w / 131072 % 32), (w / 16384 % 8), (w / 1024 % 16)⟩ (w / 256 % 4))

/-- As `decodeM23`. -/
def runM23 (w : Nat) : Except DecodeError (State → Out) :=
  match w / 256 % 4 with
  | 0 =>
    if (w / 1024 % 16) = 8 then .error .reservedPredicate else
    .ok (execVmulhI ⟨(w / 134217728 % 32), (w / 4194304 % 32), (w / 131072 % 32), (w / 16384 % 8), (w / 1024 % 16)⟩)
  | 1 =>
    if (w / 1024 % 16) = 8 then .error .reservedPredicate else
    .ok (execVmulhN ⟨(w / 134217728 % 32), (w / 4194304 % 32), (w / 131072 % 32), (w / 16384 % 8), (w / 1024 % 16)⟩)
  | 2 =>
    if (w / 1024 % 16) = 8 then .error .reservedPredicate else
    .ok (execVmulhIn ⟨(w / 134217728 % 32), (w / 4194304 % 32), (w / 131072 % 32), (w / 16384 % 8), (w / 1024 % 16)⟩)
  | _ => .error .reservedMinor

/-- As `decodeM24`. -/
def runM24 (w : Nat) : Except DecodeError (State → Out) :=
  match w / 256 % 4 with
  | 0 =>
    if (w / 1024 % 16) = 8 then .error .reservedPredicate else
    .ok (execVminI ⟨(w / 134217728 % 32), (w / 4194304 % 32), (w / 131072 % 32), (w / 16384 % 8), (w / 1024 % 16)⟩)
  | 1 =>
    if (w / 1024 % 16) = 8 then .error .reservedPredicate else
    .ok (execVminN ⟨(w / 134217728 % 32), (w / 4194304 % 32), (w / 131072 % 32), (w / 16384 % 8), (w / 1024 % 16)⟩)
  | _ => .error .reservedMinor

/-- As `decodeM25`. -/
def runM25 (w : Nat) : Except DecodeError (State → Out) :=
  match w / 256 % 4 with
  | 0 =>
    if (w / 1024 % 16) = 8 then .error .reservedPredicate else
    .ok (execVmaxI ⟨(w / 134217728 % 32), (w / 4194304 % 32), (w / 131072 % 32), (w / 16384 % 8), (w / 1024 % 16)⟩)
  | 1 =>
    if (w / 1024 % 16) = 8 then .error .reservedPredicate else
    .ok (execVmaxN ⟨(w / 134217728 % 32), (w / 4194304 % 32), (w / 131072 % 32), (w / 16384 % 8), (w / 1024 % 16)⟩)
  | _ => .error .reservedMinor

/-- As `decodeM26`. -/
def runM26 (w : Nat) : Except DecodeError (State → Out) :=
  match w / 256 % 4 with
  | 0 =>
    if (w / 1024 % 16) = 8 then .error .reservedPredicate else
    .ok (execVaddsI ⟨(w / 134217728 % 32), (w / 4194304 % 32), (w / 131072 % 32), (w / 16384 % 8), (w / 1024 % 16)⟩)
  | 1 =>
    if (w / 1024 % 16) = 8 then .error .reservedPredicate else
    .ok (execVaddsN ⟨(w / 134217728 % 32), (w / 4194304 % 32), (w / 131072 % 32), (w / 16384 % 8), (w / 1024 % 16)⟩)
  | 2 =>
    if (w / 1024 % 16) = 8 then .error .reservedPredicate else
    .ok (execVavgI ⟨(w / 134217728 % 32), (w / 4194304 % 32), (w / 131072 % 32), (w / 16384 % 8), (w / 1024 % 16)⟩)
  | 3 =>
    if (w / 1024 % 16) = 8 then .error .reservedPredicate else
    .ok (execVavgN ⟨(w / 134217728 % 32), (w / 4194304 % 32), (w / 131072 % 32), (w / 16384 % 8), (w / 1024 % 16)⟩)
  | _ => .error .reservedMinor

/-- As `decodeM27`. -/
def runM27 (w : Nat) : Except DecodeError (State → Out) :=
  match w / 256 % 4 with
  | 0 =>
    if (w / 1024 % 16) = 8 then .error .reservedPredicate else
    .ok (execVsubsI ⟨(w / 134217728 % 32), (w / 4194304 % 32), (w / 131072 % 32), (w / 16384 % 8), (w / 1024 % 16)⟩)
  | 1 =>
    if (w / 1024 % 16) = 8 then .error .reservedPredicate else
    .ok (execVsubsN ⟨(w / 134217728 % 32), (w / 4194304 % 32), (w / 131072 % 32), (w / 16384 % 8), (w / 1024 % 16)⟩)
  | 2 =>
    if (w / 1024 % 16) = 8 then .error .reservedPredicate else
    .ok (execVabsdI ⟨(w / 134217728 % 32), (w / 4194304 % 32), (w / 131072 % 32), (w / 16384 % 8), (w / 1024 % 16)⟩)
  | 3 =>
    if (w / 1024 % 16) = 8 then .error .reservedPredicate else
    .ok (execVabsdN ⟨(w / 134217728 % 32), (w / 4194304 % 32), (w / 131072 % 32), (w / 16384 % 8), (w / 1024 % 16)⟩)
  | _ => .error .reservedMinor

/-- As `decodeM28`. -/
def runM28 (w : Nat) : Except DecodeError (State → Out) :=
  match w / 256 % 4 with
  | 0 =>
    if (w / 1024 % 16) = 8 then .error .reservedPredicate else
    .ok (execVand ⟨(w / 134217728 % 32), (w / 4194304 % 32), (w / 131072 % 32), (w / 16384 % 8), (w / 1024 % 16)⟩)
  | 1 =>
    if (w / 1024 % 16) = 8 then .error .reservedPredicate else
    .ok (execVor ⟨(w / 134217728 % 32), (w / 4194304 % 32), (w / 131072 % 32), (w / 16384 % 8), (w / 1024 % 16)⟩)
  | 2 =>
    if (w / 1024 % 16) = 8 then .error .reservedPredicate else
    .ok (execVxor ⟨(w / 134217728 % 32), (w / 4194304 % 32), (w / 131072 % 32), (w / 16384 % 8), (w / 1024 % 16)⟩)
  | 3 =>
    if (w / 1024 % 16) = 8 then .error .reservedPredicate else
    .ok (execVandn ⟨(w / 134217728 % 32), (w / 4194304 % 32), (w / 131072 % 32), (w / 16384 % 8), (w / 1024 % 16)⟩)
  | _ => .error .reservedMinor

/-- As `decodeM29`. -/
def runM29 (w : Nat) : Except DecodeError (State → Out) :=
  match w / 256 % 4 with
  | 0 =>
    if (w / 1024 % 16) = 8 then .error .reservedPredicate else
    .ok (execVshlVector ⟨(w / 134217728 % 32), (w / 4194304 % 32), (w / 131072 % 32), (w / 16384 % 8), (w / 1024 % 16)⟩)
  | 1 =>
    if (w / 1024 % 16) = 8 then .error .reservedPredicate else
    .ok (execVsrlVector ⟨(w / 134217728 % 32), (w / 4194304 % 32), (w / 131072 % 32), (w / 16384 % 8), (w / 1024 % 16)⟩)
  | 2 =>
    if (w / 1024 % 16) = 8 then .error .reservedPredicate else
    .ok (execVsraVector ⟨(w / 134217728 % 32), (w / 4194304 % 32), (w / 131072 % 32), (w / 16384 % 8), (w / 1024 % 16)⟩)
  | 3 =>
    if (w / 1024 % 16) = 8 then .error .reservedPredicate else
    .ok (execVrsraVector ⟨(w / 134217728 % 32), (w / 4194304 % 32), (w / 131072 % 32), (w / 16384 % 8), (w / 1024 % 16)⟩)
  | _ => .error .reservedMinor

/-- As `decodeM2A`. -/
def runM2A (w : Nat) : Except DecodeError (State → Out) :=
  match w / 256 % 4 with
  | 0 =>
    if (w / 1024 % 16) = 8 then .error .reservedPredicate else
    .ok (execVshlScalar ⟨(w / 134217728 % 32), (w / 4194304 % 32), (w / 131072 % 32), (w / 16384 % 8), (w / 1024 % 16)⟩)
  | 1 =>
    if (w / 1024 % 16) = 8 then .error .reservedPredicate else
    .ok (execVsrlScalar ⟨(w / 134217728 % 32), (w / 4194304 % 32), (w / 131072 % 32), (w / 16384 % 8), (w / 1024 % 16)⟩)
  | 2 =>
    if (w / 1024 % 16) = 8 then .error .reservedPredicate else
    .ok (execVsraScalar ⟨(w / 134217728 % 32), (w / 4194304 % 32), (w / 131072 % 32), (w / 16384 % 8), (w / 1024 % 16)⟩)
  | 3 =>
    if (w / 1024 % 16) = 8 then .error .reservedPredicate else
    .ok (execVrsraScalar ⟨(w / 134217728 % 32), (w / 4194304 % 32), (w / 131072 % 32), (w / 16384 % 8), (w / 1024 % 16)⟩)
  | _ => .error .reservedMinor

/-- As `decodeM2B`. -/
def runM2B (w : Nat) : Except DecodeError (State → Out) :=
  match w / 256 % 4 with
  | 0 =>
    if (w / 1024 % 16) = 8 then .error .reservedPredicate else
    .ok (execVshlImm ⟨(w / 134217728 % 32), (w / 4194304 % 32), (w / 131072 % 32), (w / 16384 % 8), (w / 1024 % 16)⟩)
  | 1 =>
    if (w / 1024 % 16) = 8 then .error .reservedPredicate else
    .ok (execVsrlImm ⟨(w / 134217728 % 32), (w / 4194304 % 32), (w / 131072 % 32), (w / 16384 % 8), (w / 1024 % 16)⟩)
  | 2 =>
    if (w / 1024 % 16) = 8 then .error .reservedPredicate else
    .ok (execVsraImm ⟨(w / 134217728 % 32), (w / 4194304 % 32), (w / 131072 % 32), (w / 16384 % 8), (w / 1024 % 16)⟩)
  | 3 =>
    if (w / 1024 % 16) = 8 then .error .reservedPredicate else
    .ok (execVrsraImm ⟨(w / 134217728 % 32), (w / 4194304 % 32), (w / 131072 % 32), (w / 16384 % 8), (w / 1024 % 16)⟩)
  | _ => .error .reservedMinor

/-- As `decodeM2C`. -/
def runM2C (w : Nat) : Except DecodeError (State → Out) :=
  match w / 256 % 4 with
  | 0 =>
    if (w / 2097152 % 2) ≠ 0 then .error .mustBeZero else
    if (w / 1024 % 16) = 8 then .error .reservedPredicate else
    .ok (execVcmpeq ⟨(w / 134217728 % 32), (w / 4194304 % 32), (w / 131072 % 16), (w / 16384 % 8), (w / 1024 % 16)⟩)
  | 1 =>
    if (w / 2097152 % 2) ≠ 0 then .error .mustBeZero else
    if (w / 1024 % 16) = 8 then .error .reservedPredicate else
    .ok (execVcmpne ⟨(w / 134217728 % 32), (w / 4194304 % 32), (w / 131072 % 16), (w / 16384 % 8), (w / 1024 % 16)⟩)
  | 2 =>
    if (w / 2097152 % 2) ≠ 0 then .error .mustBeZero else
    if (w / 1024 % 16) = 8 then .error .reservedPredicate else
    .ok (execVcmpltI ⟨(w / 134217728 % 32), (w / 4194304 % 32), (w / 131072 % 16), (w / 16384 % 8), (w / 1024 % 16)⟩)
  | 3 =>
    if (w / 2097152 % 2) ≠ 0 then .error .mustBeZero else
    if (w / 1024 % 16) = 8 then .error .reservedPredicate else
    .ok (execVcmpltN ⟨(w / 134217728 % 32), (w / 4194304 % 32), (w / 131072 % 16), (w / 16384 % 8), (w / 1024 % 16)⟩)
  | _ => .error .reservedMinor

/-- As `decodeM2D`. -/
def runM2D (w : Nat) : Except DecodeError (State → Out) :=
  match w / 256 % 4 with
  | 0 =>
    if (w / 1024 % 16) = 8 then .error .reservedPredicate else
    .ok (execVpmac2I16x2 ⟨(w / 134217728 % 32), (w / 4194304 % 32), (w / 131072 % 32), (w / 16384 % 8), (w / 1024 % 16)⟩)
  | 1 =>
    if (w / 1024 % 16) = 8 then .error .reservedPredicate else
    .ok (execVpmac2I16x2Scalar ⟨(w / 134217728 % 32), (w / 4194304 % 32), (w / 131072 % 32), (w / 16384 % 8), (w / 1024 % 16)⟩)
  | 2 =>
    if (w / 1024 % 16) = 8 then .error .reservedPredicate else
    .ok (execVpaddsI16x2 ⟨(w / 134217728 % 32), (w / 4194304 % 32), (w / 131072 % 32), (w / 16384 % 8), (w / 1024 % 16)⟩)
  | 3 =>
    if (w / 1024 % 16) = 8 then .error .reservedPredicate else
    .ok (execVmac ⟨(w / 134217728 % 32), (w / 4194304 % 32), (w / 131072 % 32), (w / 16384 % 8), (w / 1024 % 16)⟩)
  | _ => .error .reservedMinor

/-- As `decodeM2E`. -/
def runM2E (w : Nat) : Except DecodeError (State → Out) :=
  match w / 256 % 4 with
  | 0 =>
    if (w / 1024 % 16) = 8 then .error .reservedPredicate else
    .ok (execVaddScalar ⟨(w / 134217728 % 32), (w / 4194304 % 32), (w / 131072 % 32), (w / 16384 % 8), (w / 1024 % 16)⟩)
  | 1 =>
    if (w / 1024 % 16) = 8 then .error .reservedPredicate else
    .ok (execVsubScalar ⟨(w / 134217728 % 32), (w / 4194304 % 32), (w / 131072 % 32), (w / 16384 % 8), (w / 1024 % 16)⟩)
  | 2 =>
    if (w / 1024 % 16) = 8 then .error .reservedPredicate else
    .ok (execVrsub ⟨(w / 134217728 % 32), (w / 4194304 % 32), (w / 131072 % 32), (w / 16384 % 8), (w / 1024 % 16)⟩)
  | 3 =>
    if (w / 1024 % 16) = 8 then .error .reservedPredicate else
    .ok (execVmulScalar ⟨(w / 134217728 % 32), (w / 4194304 % 32), (w / 131072 % 32), (w / 16384 % 8), (w / 1024 % 16)⟩)
  | _ => .error .reservedMinor

/-- As `decodeM2F`. -/
def runM2F (w : Nat) : Except DecodeError (State → Out) :=
  match w / 256 % 4 with
  | 0 =>
    if (w / 1024 % 16) = 8 then .error .reservedPredicate else
    if (w / 1024 % 16) = 0 then .error .reservedPredicate else
    .ok (execVsel ⟨(w / 134217728 % 32), (w / 4194304 % 32), (w / 131072 % 32), (w / 16384 % 8), (w / 1024 % 16)⟩)
  | 1 =>
    if (w / 1024 % 16) = 8 then .error .reservedPredicate else
    if (w / 4194304 % 32) ≠ 0 then .error .mustBeZero else
    .ok (execVsplat (w / 134217728 % 32) (w / 131072 % 32) (w / 16384 % 8) (w / 1024 % 16))
  | 2 =>
    if (w / 1024 % 16) = 8 then .error .reservedPredicate else
    if (w / 4194304 % 1024) ≠ 0 then .error .mustBeZero else
    .ok (execVid (w / 131072 % 32) (w / 16384 % 8) (w / 1024 % 16))
  | _ => .error .reservedMinor

/-- As `decodeM30`. -/
def runM30 (w : Nat) : Except DecodeError (State → Out) :=
  if (w / 1024 % 16) = 8 then .error .reservedPredicate else
  .ok (execVaddF ⟨(w / 134217728 % 32), (w / 4194304 % 32), (w / 131072 % 32), (w / 16384 % 8), (w / 1024 % 16)⟩ (w / 256 % 4))

/-- As `decodeM31`. -/
def runM31 (w : Nat) : Except DecodeError (State → Out) :=
  if (w / 1024 % 16) = 8 then .error .reservedPredicate else
  .ok (execVsubF ⟨(w / 134217728 % 32), (w / 4194304 % 32), (w / 131072 % 32), (w / 16384 % 8), (w / 1024 % 16)⟩ (w / 256 % 4))

/-- As `decodeM32`. -/
def runM32 (w : Nat) : Except DecodeError (State → Out) :=
  if (w / 1024 % 16) = 8 then .error .reservedPredicate else
  .ok (execVmulF ⟨(w / 134217728 % 32), (w / 4194304 % 32), (w / 131072 % 32), (w / 16384 % 8), (w / 1024 % 16)⟩ (w / 256 % 4))

/-- As `decodeM33`. -/
def runM33 (w : Nat) : Except DecodeError (State → Out) :=
  if (w / 1024 % 16) = 8 then .error .reservedPredicate else
  .ok (execVdivF ⟨(w / 134217728 % 32), (w / 4194304 % 32), (w / 131072 % 32), (w / 16384 % 8), (w / 1024 % 16)⟩ (w / 256 % 4))

/-- As `decodeM34`. -/
def runM34 (w : Nat) : Except DecodeError (State → Out) :=
  if (w / 1024 % 16) = 8 then .error .reservedPredicate else
  .ok (execVfmaF ⟨(w / 134217728 % 32), (w / 4194304 % 32), (w / 131072 % 32), (w / 16384 % 8), (w / 1024 % 16)⟩ (w / 256 % 4))

/-- As `decodeM35`. -/
def runM35 (w : Nat) : Except DecodeError (State → Out) :=
  if (w / 1024 % 16) = 8 then .error .reservedPredicate else
  .ok (execVfmsF ⟨(w / 134217728 % 32), (w / 4194304 % 32), (w / 131072 % 32), (w / 16384 % 8), (w / 1024 % 16)⟩ (w / 256 % 4))

/-- As `decodeM36`. -/
def runM36 (w : Nat) : Except DecodeError (State → Out) :=
  if (w / 1024 % 16) = 8 then .error .reservedPredicate else
  .ok (execVfnmaF ⟨(w / 134217728 % 32), (w / 4194304 % 32), (w / 131072 % 32), (w / 16384 % 8), (w / 1024 % 16)⟩ (w / 256 % 4))

/-- As `decodeM37`. -/
def runM37 (w : Nat) : Except DecodeError (State → Out) :=
  if (w / 1024 % 16) = 8 then .error .reservedPredicate else
  .ok (execVminF ⟨(w / 134217728 % 32), (w / 4194304 % 32), (w / 131072 % 32), (w / 16384 % 8), (w / 1024 % 16)⟩ (w / 256 % 4))

/-- As `decodeM38`. -/
def runM38 (w : Nat) : Except DecodeError (State → Out) :=
  if (w / 1024 % 16) = 8 then .error .reservedPredicate else
  .ok (execVmaxF ⟨(w / 134217728 % 32), (w / 4194304 % 32), (w / 131072 % 32), (w / 16384 % 8), (w / 1024 % 16)⟩ (w / 256 % 4))

/-- As `decodeM39`. -/
def runM39 (w : Nat) : Except DecodeError (State → Out) :=
  match w / 256 % 4 with
  | 0 =>
    if (w / 2097152 % 2) ≠ 0 then .error .mustBeZero else
    if (w / 1024 % 16) = 8 then .error .reservedPredicate else
    .ok (execVfcmpeq ⟨(w / 134217728 % 32), (w / 4194304 % 32), (w / 131072 % 16), (w / 16384 % 8), (w / 1024 % 16)⟩)
  | 1 =>
    if (w / 2097152 % 2) ≠ 0 then .error .mustBeZero else
    if (w / 1024 % 16) = 8 then .error .reservedPredicate else
    .ok (execVfcmplt ⟨(w / 134217728 % 32), (w / 4194304 % 32), (w / 131072 % 16), (w / 16384 % 8), (w / 1024 % 16)⟩)
  | 2 =>
    if (w / 2097152 % 2) ≠ 0 then .error .mustBeZero else
    if (w / 1024 % 16) = 8 then .error .reservedPredicate else
    .ok (execVfcmple ⟨(w / 134217728 % 32), (w / 4194304 % 32), (w / 131072 % 16), (w / 16384 % 8), (w / 1024 % 16)⟩)
  | 3 =>
    if (w / 2097152 % 2) ≠ 0 then .error .mustBeZero else
    if (w / 1024 % 16) = 8 then .error .reservedPredicate else
    .ok (execVfcmpun ⟨(w / 134217728 % 32), (w / 4194304 % 32), (w / 131072 % 16), (w / 16384 % 8), (w / 1024 % 16)⟩)
  | _ => .error .reservedMinor

/-- As `decodeM3A`. -/
def runM3A (w : Nat) : Except DecodeError (State → Out) :=
  match w / 256 % 4 with
  | 0 =>
    if (w / 1024 % 16) = 8 then .error .reservedPredicate else
    if (w / 32768 % 2) = 1 ∧ 64 ≤ (w / 16777216 % 256) then .error .indirect else
    if (w / 16384 % 2) = 1 ∧ 64 ≤ (w / 65536 % 256) then .error .indirect else
    .ok (execVsqrt ⟨(w / 16777216 % 256), (w / 65536 % 256), (w / 32768 % 2), (w / 16384 % 2), (w / 1024 % 16)⟩)
  | 1 =>
    if (w / 1024 % 16) = 8 then .error .reservedPredicate else
    if (w / 32768 % 2) = 1 ∧ 64 ≤ (w / 16777216 % 256) then .error .indirect else
    if (w / 16384 % 2) = 1 ∧ 64 ≤ (w / 65536 % 256) then .error .indirect else
    .ok (execVabs ⟨(w / 16777216 % 256), (w / 65536 % 256), (w / 32768 % 2), (w / 16384 % 2), (w / 1024 % 16)⟩)
  | 2 =>
    if (w / 1024 % 16) = 8 then .error .reservedPredicate else
    if (w / 32768 % 2) = 1 ∧ 64 ≤ (w / 16777216 % 256) then .error .indirect else
    if (w / 16384 % 2) = 1 ∧ 64 ≤ (w / 65536 % 256) then .error .indirect else
    .ok (execVneg ⟨(w / 16777216 % 256), (w / 65536 % 256), (w / 32768 % 2), (w / 16384 % 2), (w / 1024 % 16)⟩)
  | 3 =>
    if (w / 1024 % 16) = 8 then .error .reservedPredicate else
    if (w / 32768 % 2) = 1 ∧ 64 ≤ (w / 16777216 % 256) then .error .indirect else
    if (w / 16384 % 2) = 1 ∧ 64 ≤ (w / 65536 % 256) then .error .indirect else
    .ok (execVclass ⟨(w / 16777216 % 256), (w / 65536 % 256), (w / 32768 % 2), (w / 16384 % 2), (w / 1024 % 16)⟩)
  | _ => .error .reservedMinor

/-- As `decodeM3B`. -/
def runM3B (w : Nat) : Except DecodeError (State → Out) :=
  match w / 256 % 4 with
  | 0 =>
    if (w / 1024 % 16) = 8 then .error .reservedPredicate else
    .ok (execVaddFScalar ⟨(w / 134217728 % 32), (w / 4194304 % 32), (w / 131072 % 32), (w / 16384 % 8), (w / 1024 % 16)⟩)
  | 1 =>
    if (w / 1024 % 16) = 8 then .error .reservedPredicate else
    .ok (execVmulFScalar ⟨(w / 134217728 % 32), (w / 4194304 % 32), (w / 131072 % 32), (w / 16384 % 8), (w / 1024 % 16)⟩)
  | 2 =>
    if (w / 1024 % 16) = 8 then .error .reservedPredicate else
    .ok (execVfmaFScalar ⟨(w / 134217728 % 32), (w / 4194304 % 32), (w / 131072 % 32), (w / 16384 % 8), (w / 1024 % 16)⟩)
  | 3 =>
    if (w / 1024 % 16) = 8 then .error .reservedPredicate else
    .ok (execVsubFScalar ⟨(w / 134217728 % 32), (w / 4194304 % 32), (w / 131072 % 32), (w / 16384 % 8), (w / 1024 % 16)⟩)
  | _ => .error .reservedMinor

/-- As `decodeM3C`. -/
def runM3C (w : Nat) : Except DecodeError (State → Out) :=
  match w / 256 % 4 with
  | 0 =>
    if (w / 1024 % 16) = 8 then .error .reservedPredicate else
    .ok (execVaddBf16x2 ⟨(w / 134217728 % 32), (w / 4194304 % 32), (w / 131072 % 32), (w / 16384 % 8), (w / 1024 % 16)⟩)
  | 1 =>
    if (w / 1024 % 16) = 8 then .error .reservedPredicate else
    .ok (execVsubBf16x2 ⟨(w / 134217728 % 32), (w / 4194304 % 32), (w / 131072 % 32), (w / 16384 % 8), (w / 1024 % 16)⟩)
  | 2 =>
    if (w / 1024 % 16) = 8 then .error .reservedPredicate else
    .ok (execVmulBf16x2 ⟨(w / 134217728 % 32), (w / 4194304 % 32), (w / 131072 % 32), (w / 16384 % 8), (w / 1024 % 16)⟩)
  | 3 =>
    if (w / 1024 % 16) = 8 then .error .reservedPredicate else
    .ok (execVfmaBf16x2 ⟨(w / 134217728 % 32), (w / 4194304 % 32), (w / 131072 % 32), (w / 16384 % 8), (w / 1024 % 16)⟩)
  | _ => .error .reservedMinor

/-- As `decodeM40`. -/
def runM40 (w : Nat) : Except DecodeError (State → Out) :=
  if (w / 1024 % 16) = 8 then .error .reservedPredicate else
  if (w / 32768 % 2) = 1 ∧ 64 ≤ (w / 16777216 % 256) then .error .indirect else
  if (w / 16384 % 2) = 1 ∧ 64 ≤ (w / 65536 % 256) then .error .indirect else
  .ok (execVfcvt ⟨(w / 16777216 % 256), (w / 65536 % 256), (w / 32768 % 2), (w / 16384 % 2), (w / 1024 % 16)⟩ (w / 256 % 4))

/-- As `decodeM41`. -/
def runM41 (w : Nat) : Except DecodeError (State → Out) :=
  match w / 256 % 4 with
  | 0 =>
    if (w / 1024 % 16) = 8 then .error .reservedPredicate else
    if (w / 32768 % 2) = 1 ∧ 64 ≤ (w / 16777216 % 256) then .error .indirect else
    if (w / 16384 % 2) = 1 ∧ 64 ≤ (w / 65536 % 256) then .error .indirect else
    .ok (execVfcvtI ⟨(w / 16777216 % 256), (w / 65536 % 256), (w / 32768 % 2), (w / 16384 % 2), (w / 1024 % 16)⟩)
  | 1 =>
    if (w / 1024 % 16) = 8 then .error .reservedPredicate else
    if (w / 32768 % 2) = 1 ∧ 64 ≤ (w / 16777216 % 256) then .error .indirect else
    if (w / 16384 % 2) = 1 ∧ 64 ≤ (w / 65536 % 256) then .error .indirect else
    .ok (execVfcvtN ⟨(w / 16777216 % 256), (w / 65536 % 256), (w / 32768 % 2), (w / 16384 % 2), (w / 1024 % 16)⟩)
  | 2 =>
    if (w / 1024 % 16) = 8 then .error .reservedPredicate else
    if (w / 32768 % 2) = 1 ∧ 64 ≤ (w / 16777216 % 256) then .error .indirect else
    if (w / 16384 % 2) = 1 ∧ 64 ≤ (w / 65536 % 256) then .error .indirect else
    .ok (execVfcvtzI ⟨(w / 16777216 % 256), (w / 65536 % 256), (w / 32768 % 2), (w / 16384 % 2), (w / 1024 % 16)⟩)
  | 3 =>
    if (w / 1024 % 16) = 8 then .error .reservedPredicate else
    if (w / 32768 % 2) = 1 ∧ 64 ≤ (w / 16777216 % 256) then .error .indirect else
    if (w / 16384 % 2) = 1 ∧ 64 ≤ (w / 65536 % 256) then .error .indirect else
    .ok (execVfcvtzN ⟨(w / 16777216 % 256), (w / 65536 % 256), (w / 32768 % 2), (w / 16384 % 2), (w / 1024 % 16)⟩)
  | _ => .error .reservedMinor

/-- As `decodeM42`. -/
def runM42 (w : Nat) : Except DecodeError (State → Out) :=
  match w / 256 % 4 with
  | 0 =>
    if (w / 1024 % 16) = 8 then .error .reservedPredicate else
    if (w / 32768 % 2) = 1 ∧ 64 ≤ (w / 16777216 % 256) then .error .indirect else
    if (w / 16384 % 2) = 1 ∧ 64 ≤ (w / 65536 % 256) then .error .indirect else
    .ok (execVicvtI ⟨(w / 16777216 % 256), (w / 65536 % 256), (w / 32768 % 2), (w / 16384 % 2), (w / 1024 % 16)⟩)
  | 1 =>
    if (w / 1024 % 16) = 8 then .error .reservedPredicate else
    if (w / 32768 % 2) = 1 ∧ 64 ≤ (w / 16777216 % 256) then .error .indirect else
    if (w / 16384 % 2) = 1 ∧ 64 ≤ (w / 65536 % 256) then .error .indirect else
    .ok (execVicvtN ⟨(w / 16777216 % 256), (w / 65536 % 256), (w / 32768 % 2), (w / 16384 % 2), (w / 1024 % 16)⟩)
  | _ => .error .reservedMinor

/-- As `decodeM43`. -/
def runM43 (w : Nat) : Except DecodeError (State → Out) :=
  match w / 256 % 4 with
  | 0 =>
    if (w / 1024 % 16) = 8 then .error .reservedPredicate else
    if (w / 32768 % 2) = 1 ∧ 64 ≤ (w / 16777216 % 256) then .error .indirect else
    if (w / 16384 % 2) = 1 ∧ 64 ≤ (w / 65536 % 256) then .error .indirect else
    .ok (execVsext ⟨(w / 16777216 % 256), (w / 65536 % 256), (w / 32768 % 2), (w / 16384 % 2), (w / 1024 % 16)⟩)
  | 1 =>
    if (w / 1024 % 16) = 8 then .error .reservedPredicate else
    if (w / 32768 % 2) = 1 ∧ 64 ≤ (w / 16777216 % 256) then .error .indirect else
    if (w / 16384 % 2) = 1 ∧ 64 ≤ (w / 65536 % 256) then .error .indirect else
    .ok (execVzext ⟨(w / 16777216 % 256), (w / 65536 % 256), (w / 32768 % 2), (w / 16384 % 2), (w / 1024 % 16)⟩)
  | 2 =>
    if (w / 1024 % 16) = 8 then .error .reservedPredicate else
    if (w / 32768 % 2) = 1 ∧ 64 ≤ (w / 16777216 % 256) then .error .indirect else
    if (w / 16384 % 2) = 1 ∧ 64 ≤ (w / 65536 % 256) then .error .indirect else
    .ok (execVnarrow ⟨(w / 16777216 % 256), (w / 65536 % 256), (w / 32768 % 2), (w / 16384 % 2), (w / 1024 % 16)⟩)
  | 3 =>
    if (w / 1024 % 16) = 8 then .error .reservedPredicate else
    if (w / 32768 % 2) = 1 ∧ 64 ≤ (w / 16777216 % 256) then .error .indirect else
    if (w / 16384 % 2) = 1 ∧ 64 ≤ (w / 65536 % 256) then .error .indirect else
    .ok (execVnarrows ⟨(w / 16777216 % 256), (w / 65536 % 256), (w / 32768 % 2), (w / 16384 % 2), (w / 1024 % 16)⟩)
  | _ => .error .reservedMinor

/-- As `decodeM44`. -/
def runM44 (w : Nat) : Except DecodeError (State → Out) :=
  if (w / 1024 % 16) ≠ 0 then .error .mustBeZero else
  if (w / 32768 % 2) = 1 ∧ 64 ≤ (w / 16777216 % 256) then .error .indirect else
  if (w / 16384 % 2) = 1 ∧ 64 ≤ (w / 65536 % 256) then .error .indirect else
  .ok (execVmxcvtToMx ⟨(w / 16777216 % 256), (w / 65536 % 256), (w / 32768 % 2), (w / 16384 % 2), 0⟩ (w / 256 % 4))

/-- As `decodeM45`. -/
def runM45 (w : Nat) : Except DecodeError (State → Out) :=
  if (w / 1024 % 16) ≠ 0 then .error .mustBeZero else
  if (w / 32768 % 2) = 1 ∧ 64 ≤ (w / 16777216 % 256) then .error .indirect else
  if (w / 16384 % 2) = 1 ∧ 64 ≤ (w / 65536 % 256) then .error .indirect else
  .ok (execVmxcvtFromMx ⟨(w / 16777216 % 256), (w / 65536 % 256), (w / 32768 % 2), (w / 16384 % 2), 0⟩ (w / 256 % 4))

/-- As `decodeM46`. -/
def runM46 (w : Nat) : Except DecodeError (State → Out) :=
  match w / 256 % 4 with
  | 0 =>
    if (w / 1024 % 16) ≠ 0 then .error .mustBeZero else
    if (w / 32768 % 2) = 1 ∧ 64 ≤ (w / 16777216 % 256) then .error .indirect else
    if (w / 16384 % 2) = 1 ∧ 64 ≤ (w / 65536 % 256) then .error .indirect else
    .ok (execVmxcvtMxint8F32 ⟨(w / 16777216 % 256), (w / 65536 % 256), (w / 32768 % 2), (w / 16384 % 2), 0⟩)
  | 1 =>
    if (w / 1024 % 16) ≠ 0 then .error .mustBeZero else
    if (w / 32768 % 2) = 1 ∧ 64 ≤ (w / 16777216 % 256) then .error .indirect else
    if (w / 16384 % 2) = 1 ∧ 64 ≤ (w / 65536 % 256) then .error .indirect else
    .ok (execVmxcvtF32Mxint8 ⟨(w / 16777216 % 256), (w / 65536 % 256), (w / 32768 % 2), (w / 16384 % 2), 0⟩)
  | 2 =>
    if (w / 1024 % 16) ≠ 0 then .error .mustBeZero else
    if (w / 32768 % 2) = 1 ∧ 64 ≤ (w / 16777216 % 256) then .error .indirect else
    if (w / 16384 % 2) = 1 ∧ 64 ≤ (w / 65536 % 256) then .error .indirect else
    .ok (execVbfpcvtBfp8F32 ⟨(w / 16777216 % 256), (w / 65536 % 256), (w / 32768 % 2), (w / 16384 % 2), 0⟩)
  | 3 =>
    if (w / 1024 % 16) ≠ 0 then .error .mustBeZero else
    if (w / 32768 % 2) = 1 ∧ 64 ≤ (w / 16777216 % 256) then .error .indirect else
    if (w / 16384 % 2) = 1 ∧ 64 ≤ (w / 65536 % 256) then .error .indirect else
    .ok (execVbfpcvtF32Bfp8 ⟨(w / 16777216 % 256), (w / 65536 % 256), (w / 32768 % 2), (w / 16384 % 2), 0⟩)
  | _ => .error .reservedMinor

/-- As `decodeM48`. -/
def runM48 (w : Nat) : Except DecodeError (State → Out) :=
  match w / 256 % 4 with
  | 0 =>
    if (w / 1024 % 16) = 8 then .error .reservedPredicate else
    if (w / 32768 % 2) = 1 ∧ 64 ≤ (w / 16777216 % 256) then .error .indirect else
    if (w / 16384 % 2) = 1 ∧ 64 ≤ (w / 65536 % 256) then .error .indirect else
    .ok (execVexp2 ⟨(w / 16777216 % 256), (w / 65536 % 256), (w / 32768 % 2), (w / 16384 % 2), (w / 1024 % 16)⟩)
  | 1 =>
    if (w / 1024 % 16) = 8 then .error .reservedPredicate else
    if (w / 32768 % 2) = 1 ∧ 64 ≤ (w / 16777216 % 256) then .error .indirect else
    if (w / 16384 % 2) = 1 ∧ 64 ≤ (w / 65536 % 256) then .error .indirect else
    .ok (execVlog2 ⟨(w / 16777216 % 256), (w / 65536 % 256), (w / 32768 % 2), (w / 16384 % 2), (w / 1024 % 16)⟩)
  | 2 =>
    if (w / 1024 % 16) = 8 then .error .reservedPredicate else
    if (w / 32768 % 2) = 1 ∧ 64 ≤ (w / 16777216 % 256) then .error .indirect else
    if (w / 16384 % 2) = 1 ∧ 64 ≤ (w / 65536 % 256) then .error .indirect else
    .ok (execVexp ⟨(w / 16777216 % 256), (w / 65536 % 256), (w / 32768 % 2), (w / 16384 % 2), (w / 1024 % 16)⟩)
  | 3 =>
    if (w / 1024 % 16) = 8 then .error .reservedPredicate else
    if (w / 32768 % 2) = 1 ∧ 64 ≤ (w / 16777216 % 256) then .error .indirect else
    if (w / 16384 % 2) = 1 ∧ 64 ≤ (w / 65536 % 256) then .error .indirect else
    .ok (execVlog ⟨(w / 16777216 % 256), (w / 65536 % 256), (w / 32768 % 2), (w / 16384 % 2), (w / 1024 % 16)⟩)
  | _ => .error .reservedMinor

/-- As `decodeM49`. -/
def runM49 (w : Nat) : Except DecodeError (State → Out) :=
  match w / 256 % 4 with
  | 0 =>
    if (w / 1024 % 16) = 8 then .error .reservedPredicate else
    if (w / 32768 % 2) = 1 ∧ 64 ≤ (w / 16777216 % 256) then .error .indirect else
    if (w / 16384 % 2) = 1 ∧ 64 ≤ (w / 65536 % 256) then .error .indirect else
    .ok (execVrcp ⟨(w / 16777216 % 256), (w / 65536 % 256), (w / 32768 % 2), (w / 16384 % 2), (w / 1024 % 16)⟩)
  | 1 =>
    if (w / 1024 % 16) = 8 then .error .reservedPredicate else
    if (w / 32768 % 2) = 1 ∧ 64 ≤ (w / 16777216 % 256) then .error .indirect else
    if (w / 16384 % 2) = 1 ∧ 64 ≤ (w / 65536 % 256) then .error .indirect else
    .ok (execVrsq ⟨(w / 16777216 % 256), (w / 65536 % 256), (w / 32768 % 2), (w / 16384 % 2), (w / 1024 % 16)⟩)
  | 2 =>
    if (w / 1024 % 16) = 8 then .error .reservedPredicate else
    if (w / 32768 % 2) = 1 ∧ 64 ≤ (w / 16777216 % 256) then .error .indirect else
    if (w / 16384 % 2) = 1 ∧ 64 ≤ (w / 65536 % 256) then .error .indirect else
    .ok (execVtanh ⟨(w / 16777216 % 256), (w / 65536 % 256), (w / 32768 % 2), (w / 16384 % 2), (w / 1024 % 16)⟩)
  | 3 =>
    if (w / 1024 % 16) = 8 then .error .reservedPredicate else
    if (w / 32768 % 2) = 1 ∧ 64 ≤ (w / 16777216 % 256) then .error .indirect else
    if (w / 16384 % 2) = 1 ∧ 64 ≤ (w / 65536 % 256) then .error .indirect else
    .ok (execVsin ⟨(w / 16777216 % 256), (w / 65536 % 256), (w / 32768 % 2), (w / 16384 % 2), (w / 1024 % 16)⟩)
  | _ => .error .reservedMinor

/-- As `decodeM4A`. -/
def runM4A (w : Nat) : Except DecodeError (State → Out) :=
  match w / 256 % 4 with
  | 0 =>
    if (w / 1024 % 16) = 8 then .error .reservedPredicate else
    if (w / 32768 % 2) = 1 ∧ 64 ≤ (w / 16777216 % 256) then .error .indirect else
    if (w / 16384 % 2) = 1 ∧ 64 ≤ (w / 65536 % 256) then .error .indirect else
    .ok (execVcos ⟨(w / 16777216 % 256), (w / 65536 % 256), (w / 32768 % 2), (w / 16384 % 2), (w / 1024 % 16)⟩)
  | _ => .error .reservedMinor

/-- As `decodeM4B`. -/
def runM4B (w : Nat) : Except DecodeError (State → Out) :=
  match w / 256 % 4 with
  | 0 =>
    if (w / 1024 % 16) = 8 then .error .reservedPredicate else
    if (w / 32768 % 2) = 1 ∧ 64 ≤ (w / 16777216 % 256) then .error .indirect else
    if (w / 16384 % 2) = 1 ∧ 64 ≤ (w / 65536 % 256) then .error .indirect else
    .ok (execVmovW ⟨(w / 16777216 % 256), (w / 65536 % 256), (w / 32768 % 2), (w / 16384 % 2), (w / 1024 % 16)⟩)
  | 1 =>
    if (w / 1024 % 16) ≠ 0 then .error .mustBeZero else
    if (w / 32768 % 2) = 1 ∧ 64 ≤ (w / 16777216 % 256) then .error .indirect else
    if (w / 16384 % 2) = 1 ∧ 64 ≤ (w / 65536 % 256) then .error .indirect else
    .ok (execVscget ⟨(w / 16777216 % 256), (w / 65536 % 256), (w / 32768 % 2), (w / 16384 % 2), 0⟩)
  | 2 =>
    if (w / 1024 % 16) ≠ 0 then .error .mustBeZero else
    if (w / 32768 % 2) = 1 ∧ 64 ≤ (w / 16777216 % 256) then .error .indirect else
    if (w / 16384 % 2) = 1 ∧ 64 ≤ (w / 65536 % 256) then .error .indirect else
    .ok (execVscput ⟨(w / 16777216 % 256), (w / 65536 % 256), (w / 32768 % 2), (w / 16384 % 2), 0⟩)
  | _ => .error .reservedMinor

/-- As `decodeM4C`. -/
def runM4C (w : Nat) : Except DecodeError (State → Out) :=
  if (w / 1024 % 2) = 0 then
    if (w / 2048 % 32) ≠ 0 then .error .mustBeZero else
    .ok (execVslidedn (w / 16777216 % 64) ((w / 1073741824 % 4) * 4 + (w / 4194304 % 4)) (w / 65536 % 64) (w / 256 % 4))
  else
  if (w / 1024 % 2) = 1 then
    if (w / 2048 % 32) ≠ 0 then .error .mustBeZero else
    .ok (execVslideup (w / 16777216 % 64) ((w / 1073741824 % 4) * 4 + (w / 4194304 % 4)) (w / 65536 % 64) (w / 256 % 4))
  else
  .error .reservedMinor

/-- As `decodeM4D`. -/
def runM4D (w : Nat) : Except DecodeError (State → Out) :=
  match w / 256 % 16 with
  | 0 =>
    if (w / 4096 % 16) ≠ 0 then .error .mustBeZero else
    .ok (execVperm (w / 16777216 % 64) ((w / 1073741824 % 4) * 4 + (w / 4194304 % 4)) (w / 65536 % 64))
  | 1 =>
    if (w / 4096 % 16) ≠ 0 then .error .mustBeZero else
    .ok (execVrev (w / 16777216 % 64) ((w / 1073741824 % 4) * 4 + (w / 4194304 % 4)) (w / 65536 % 64))
  | _ => .error .reservedMinor

/-- As `decodeM4E`. -/
def runM4E (w : Nat) : Except DecodeError (State → Out) :=
  match w / 256 % 16 with
  | 0 =>
    if (w / 4096 % 16) ≠ 0 then .error .mustBeZero else
    .ok (execVredsum (w / 16777216 % 64) ((w / 1073741824 % 4) * 4 + (w / 4194304 % 4)) (w / 65536 % 64))
  | 1 =>
    if (w / 4096 % 16) ≠ 0 then .error .mustBeZero else
    .ok (execVredmaxI (w / 16777216 % 64) ((w / 1073741824 % 4) * 4 + (w / 4194304 % 4)) (w / 65536 % 64))
  | 2 =>
    if (w / 4096 % 16) ≠ 0 then .error .mustBeZero else
    .ok (execVredmaxN (w / 16777216 % 64) ((w / 1073741824 % 4) * 4 + (w / 4194304 % 4)) (w / 65536 % 64))
  | 3 =>
    if (w / 4096 % 16) ≠ 0 then .error .mustBeZero else
    .ok (execVredminI (w / 16777216 % 64) ((w / 1073741824 % 4) * 4 + (w / 4194304 % 4)) (w / 65536 % 64))
  | 4 =>
    if (w / 4096 % 16) ≠ 0 then .error .mustBeZero else
    .ok (execVredminN (w / 16777216 % 64) ((w / 1073741824 % 4) * 4 + (w / 4194304 % 4)) (w / 65536 % 64))
  | 5 =>
    if (w / 4096 % 16) ≠ 0 then .error .mustBeZero else
    .ok (execVredand (w / 16777216 % 64) ((w / 1073741824 % 4) * 4 + (w / 4194304 % 4)) (w / 65536 % 64))
  | 6 =>
    if (w / 4096 % 16) ≠ 0 then .error .mustBeZero else
    .ok (execVredor (w / 16777216 % 64) ((w / 1073741824 % 4) * 4 + (w / 4194304 % 4)) (w / 65536 % 64))
  | 7 =>
    if (w / 4096 % 16) ≠ 0 then .error .mustBeZero else
    .ok (execVredsumF (w / 16777216 % 64) ((w / 1073741824 % 4) * 4 + (w / 4194304 % 4)) (w / 65536 % 64))
  | 8 =>
    if (w / 4096 % 16) ≠ 0 then .error .mustBeZero else
    .ok (execVredmaxF (w / 16777216 % 64) ((w / 1073741824 % 4) * 4 + (w / 4194304 % 4)) (w / 65536 % 64))
  | 9 =>
    if (w / 4096 % 16) ≠ 0 then .error .mustBeZero else
    .ok (execVredminF (w / 16777216 % 64) ((w / 1073741824 % 4) * 4 + (w / 4194304 % 4)) (w / 65536 % 64))
  | 10 =>
    if (w / 4096 % 1024) ≠ 0 then .error .mustBeZero else
    .ok (execVscansum (w / 16777216 % 64) ((w / 1073741824 % 4) * 4 + (w / 4194304 % 4)))
  | 11 =>
    if (w / 4096 % 1024) ≠ 0 then .error .mustBeZero else
    .ok (execVscansumF (w / 16777216 % 64) ((w / 1073741824 % 4) * 4 + (w / 4194304 % 4)))
  | 12 =>
    if (w / 4096 % 1024) ≠ 0 then .error .mustBeZero else
    .ok (execVscanmaxI (w / 16777216 % 64) ((w / 1073741824 % 4) * 4 + (w / 4194304 % 4)))
  | 13 =>
    if (w / 4096 % 1024) ≠ 0 then .error .mustBeZero else
    .ok (execVexscansum (w / 16777216 % 64) ((w / 1073741824 % 4) * 4 + (w / 4194304 % 4)))
  | _ => .error .reservedMinor

/-- As `decodeM4F`. -/
def runM4F (w : Nat) : Except DecodeError (State → Out) :=
  match w / 256 % 16 with
  | 0 =>
    if (w / 4096 % 1024) ≠ 0 then .error .mustBeZero else
    .ok (execVqxX1 (w / 16777216 % 64) ((w / 1073741824 % 4) * 4 + (w / 4194304 % 4)))
  | 1 =>
    if (w / 4096 % 1024) ≠ 0 then .error .mustBeZero else
    .ok (execVqxX2 (w / 16777216 % 64) ((w / 1073741824 % 4) * 4 + (w / 4194304 % 4)))
  | 2 =>
    if (w / 4096 % 1024) ≠ 0 then .error .mustBeZero else
    .ok (execVqxX3 (w / 16777216 % 64) ((w / 1073741824 % 4) * 4 + (w / 4194304 % 4)))
  | 3 =>
    if (w / 4096 % 1024) ≠ 0 then .error .mustBeZero else
    .ok (execVqxB0 (w / 16777216 % 64) ((w / 1073741824 % 4) * 4 + (w / 4194304 % 4)))
  | 4 =>
    if (w / 4096 % 1024) ≠ 0 then .error .mustBeZero else
    .ok (execVqxB1 (w / 16777216 % 64) ((w / 1073741824 % 4) * 4 + (w / 4194304 % 4)))
  | 5 =>
    if (w / 4096 % 1024) ≠ 0 then .error .mustBeZero else
    .ok (execVqxB2 (w / 16777216 % 64) ((w / 1073741824 % 4) * 4 + (w / 4194304 % 4)))
  | 6 =>
    if (w / 4096 % 1024) ≠ 0 then .error .mustBeZero else
    .ok (execVqxB3 (w / 16777216 % 64) ((w / 1073741824 % 4) * 4 + (w / 4194304 % 4)))
  | _ => .error .reservedMinor

/-- As `decodeM50`. -/
def runM50 (w : Nat) : Except DecodeError (State → Out) :=
  match w / 256 % 16 with
  | 0 =>
    if 2 ≤ (w / 4194304 % 4) then .error .reservedValue else
    .ok (execMxlda (w / 16777216 % 256) (w / 4194304 % 4) (w / 65536 % 64) (w / 4096 % 16))
  | 1 =>
    if 2 ≤ (w / 4194304 % 4) then .error .reservedValue else
    .ok (execMxldb (w / 16777216 % 256) (w / 4194304 % 4) (w / 65536 % 64) (w / 4096 % 16))
  | 2 =>
    if 3 ≤ (w / 4194304 % 4) then .error .reservedValue else
    .ok (execMxlds (w / 16777216 % 256) (w / 4194304 % 4) (w / 65536 % 64) (w / 4096 % 16))
  | _ => .error .reservedMinor

/-- As `decodeM51`. -/
def runM51 (w : Nat) : Except DecodeError (State → Out) :=
  match w / 256 % 16 with
  | 0 =>
    if (w / 4194304 % 4) ≠ 0 then .error .mustBeZero else
    if 10 ≤ (w / 16777216 % 256) then .error .reservedValue else
    if 63 ≤ (w / 65536 % 64) then .error .reservedValue else
    .ok (execMxstep (w / 16777216 % 256) (w / 65536 % 64) (w / 4096 % 16))
  | _ => .error .reservedMinor

/-- As `decodeM52`. -/
def runM52 (w : Nat) : Except DecodeError (State → Out) :=
  match w / 256 % 16 with
  | 0 =>
    if (w / 4194304 % 4) ≠ 0 then .error .mustBeZero else
    if 10 ≤ (w / 16777216 % 256) then .error .reservedValue else
    if 63 ≤ (w / 65536 % 64) then .error .reservedValue else
    .ok (execMxloop (w / 16777216 % 256) (w / 65536 % 64) (w / 4096 % 16))
  | _ => .error .reservedMinor

/-- As `decodeM53`. -/
def runM53 (w : Nat) : Except DecodeError (State → Out) :=
  match w / 256 % 16 with
  | 0 =>
    if (w / 4194304 % 4) ≠ 0 then .error .mustBeZero else
    if 10 ≤ (w / 16777216 % 256) then .error .reservedValue else
    if 63 ≤ (w / 65536 % 64) then .error .reservedValue else
    .ok (execMxspstep (w / 16777216 % 256) (w / 65536 % 64) (w / 4096 % 16))
  | 1 =>
    if (w / 4194304 % 4) ≠ 0 then .error .mustBeZero else
    if 10 ≤ (w / 16777216 % 256) then .error .reservedValue else
    if 63 ≤ (w / 65536 % 64) then .error .reservedValue else
    .ok (execMxsploop (w / 16777216 % 256) (w / 65536 % 64) (w / 4096 % 16))
  | _ => .error .reservedMinor

/-- As `decodeM54`. -/
def runM54 (w : Nat) : Except DecodeError (State → Out) :=
  match w / 256 % 16 with
  | 0 =>
    if (w / 4194304 % 4) ≠ 0 then .error .mustBeZero else
    .ok (execMxrdz (w / 16777216 % 256) (w / 65536 % 64) (w / 4096 % 16))
  | 1 =>
    if (w / 4194304 % 4) ≠ 0 then .error .mustBeZero else
    .ok (execMxwrz (w / 16777216 % 256) (w / 65536 % 64) (w / 4096 % 16))
  | _ => .error .reservedMinor

/-- As `decodeM55`. -/
def runM55 (w : Nat) : Except DecodeError (State → Out) :=
  match w / 256 % 16 with
  | 0 =>
    if (w / 524288 % 32) ≠ 0 then .error .mustBeZero else
    if 10 ≤ (w / 16777216 % 256) then .error .reservedValue else
    .ok (execMxtred (w / 16777216 % 256) (w / 65536 % 8) (w / 4096 % 16))
  | 1 =>
    if (w / 524288 % 32) ≠ 0 then .error .mustBeZero else
    if 10 ≤ (w / 16777216 % 256) then .error .reservedValue else
    .ok (execMxtmov (w / 16777216 % 256) (w / 65536 % 8) (w / 4096 % 16))
  | _ => .error .reservedMinor

/-- As `decodeM56`. -/
def runM56 (w : Nat) : Except DecodeError (State → Out) :=
  match w / 256 % 16 with
  | 0 =>
    if (w / 4096 % 16) ≠ 0 then .error .mustBeZero else
    if (w / 1048576 % 16) ≠ 0 then .error .mustBeZero else
    if (w / 1073741824 % 4) ≠ 0 then .error .mustBeZero else
    .ok (execMxelog (w / 16777216 % 64) (w / 65536 % 16))
  | 1 =>
    if (w / 4096 % 4096) ≠ 0 then .error .mustBeZero else
    if (w / 1073741824 % 4) ≠ 0 then .error .mustBeZero else
    .ok (execMxestat (w / 16777216 % 64))
  | 2 =>
    if (w / 4096 % 1048576) ≠ 0 then .error .mustBeZero else
    .ok (execMxeclr)
  | _ => .error .reservedMinor

/-- As `decodeM58`. -/
def runM58 (w : Nat) : Except DecodeError (State → Out) :=
  match w / 256 % 16 with
  | 0 =>
    if (w / 65536 % 256) ≠ 0 then .error .mustBeZero else
    if (w / 1073741824 % 4) ≠ 0 then .error .mustBeZero else
    .ok (execWfwd (w / 16777216 % 64) (w / 4096 % 16))
  | 1 =>
    if (w / 65536 % 256) ≠ 0 then .error .mustBeZero else
    if (w / 1073741824 % 4) ≠ 0 then .error .mustBeZero else
    .ok (execWinv (w / 16777216 % 64) (w / 4096 % 16))
  | _ => .error .reservedMinor

/-- As `decodeM59`. -/
def runM59 (w : Nat) : Except DecodeError (State → Out) :=
  match w / 256 % 16 with
  | 0 =>
    if (w / 65536 % 256) ≠ 0 then .error .mustBeZero else
    if (w / 1073741824 % 4) ≠ 0 then .error .mustBeZero else
    .ok (execWthr (w / 16777216 % 64) (w / 4096 % 16))
  | 1 =>
    if (w / 4096 % 16) ≠ 0 then .error .mustBeZero else
    if (w / 4194304 % 4) ≠ 0 then .error .mustBeZero else
    if (w / 134217728 % 32) ≠ 0 then .error .mustBeZero else
    .ok (execWthset (w / 16777216 % 8) (w / 65536 % 64))
  | _ => .error .reservedMinor

/-- As `decodeM5A`. -/
def runM5A (w : Nat) : Except DecodeError (State → Out) :=
  match w / 256 % 16 with
  | 0 =>
    if (w / 4194304 % 4) ≠ 0 then .error .mustBeZero else
    if (w / 1073741824 % 4) ≠ 0 then .error .mustBeZero else
    .ok (execWst (w / 16777216 % 64) (w / 65536 % 64) (w / 4096 % 16))
  | 1 =>
    if (w / 4194304 % 2) = 0 then
      if (w / 8388608 % 2) ≠ 0 then .error .mustBeZero else
      if (w / 1073741824 % 4) ≠ 0 then .error .mustBeZero else
      .ok (execWld (w / 16777216 % 64) (w / 65536 % 64) (w / 4096 % 16))
    else
    if (w / 4194304 % 2) = 1 then
      if (w / 8388608 % 2) ≠ 0 then .error .mustBeZero else
      if (w / 1073741824 % 4) ≠ 0 then .error .mustBeZero else
      if (w / 65536 % 64) = 63 then .error .reservedValue else
      .ok (execWldRaw (w / 16777216 % 64) (w / 65536 % 64) (w / 4096 % 16))
    else
    .error .reservedMinor
  | _ => .error .reservedMinor

/-- As `decodeM5B`. -/
def runM5B (w : Nat) : Except DecodeError (State → Out) :=
  match w / 256 % 16 with
  | 0 =>
    if (w / 1073741824 % 4) ≠ 0 then .error .mustBeZero else
    if ¬ (wtagOk (w / 65536 % 256)) then .error .reservedValue else
    .ok (execWtag (w / 16777216 % 64) (w / 65536 % 256) (w / 4096 % 16))
  | 1 =>
    if (w / 4096 % 16) ≠ 0 then .error .mustBeZero else
    if (w / 1048576 % 16) ≠ 0 then .error .mustBeZero else
    if (w / 1073741824 % 4) ≠ 0 then .error .mustBeZero else
    .ok (execWcnt (w / 16777216 % 64) (w / 65536 % 16))
  | _ => .error .reservedMinor

/-- As `decodeM5C`. -/
def runM5C (w : Nat) : Except DecodeError (State → Out) :=
  match w / 256 % 16 with
  | 0 =>
    if (w / 8388608 % 2) = 0 then
      if (w / 4096 % 16) ≠ 0 then .error .mustBeZero else
      if (w / 1073741824 % 4) ≠ 0 then .error .mustBeZero else
      .ok (execLjoin (w / 16777216 % 64) (w / 4194304 % 2) (w / 65536 % 64))
    else
    if (w / 8388608 % 2) = 1 then
      if (w / 4096 % 16) ≠ 0 then .error .mustBeZero else
      if 255 ≤ (w / 16777216 % 256) then .error .reservedValue else
      .ok (execLjoinV (w / 16777216 % 256) (w / 4194304 % 2) (w / 65536 % 64))
    else
    .error .reservedMinor
  | 1 =>
    if (w / 8388608 % 2) = 0 then
      if (w / 1073741824 % 4) ≠ 0 then .error .mustBeZero else
      .ok (execLput (w / 16777216 % 64) (w / 4194304 % 2) (w / 65536 % 64) (w / 4096 % 16))
    else
    if (w / 8388608 % 2) = 1 then
      if 255 ≤ (w / 16777216 % 256) then .error .reservedValue else
      .ok (execLputV (w / 16777216 % 256) (w / 4194304 % 2) (w / 65536 % 64) (w / 4096 % 16))
    else
    .error .reservedMinor
  | _ => .error .reservedMinor

/-- As `decodeM5D`. -/
def runM5D (w : Nat) : Except DecodeError (State → Out) :=
  match w / 256 % 16 with
  | 0 =>
    if (w / 8388608 % 2) = 0 then
      if (w / 1073741824 % 4) ≠ 0 then .error .mustBeZero else
      .ok (execLget (w / 16777216 % 64) (w / 4194304 % 2) (w / 65536 % 64) (w / 4096 % 16))
    else
    if (w / 8388608 % 2) = 1 then
      if 255 ≤ (w / 16777216 % 256) then .error .reservedValue else
      .ok (execLgetV (w / 16777216 % 256) (w / 4194304 % 2) (w / 65536 % 64) (w / 4096 % 16))
    else
    .error .reservedMinor
  | 1 =>
    if (w / 8388608 % 2) ≠ 0 then .error .mustBeZero else
    if (w / 1073741824 % 4) ≠ 0 then .error .mustBeZero else
    if (w / 16777216 % 64) = 0 then .error .reservedValue else
    if (w / 16777216 % 64) = 63 then .error .reservedValue else
    .ok (execLwait (w / 16777216 % 64) (w / 4194304 % 2) (w / 65536 % 64) (w / 4096 % 16))
  | _ => .error .reservedMinor

/-- As `decodeM5E`. -/
def runM5E (w : Nat) : Except DecodeError (State → Out) :=
  match w / 256 % 16 with
  | 0 =>
    if (w / 4096 % 16) ≠ 0 then .error .mustBeZero else
    if (w / 4194304 % 4) ≠ 0 then .error .mustBeZero else
    if (w / 1073741824 % 4) ≠ 0 then .error .mustBeZero else
    .ok (execLxsched (w / 16777216 % 64) (w / 65536 % 64))
  | 1 =>
    if (w / 65536 % 65536) ≠ 0 then .error .mustBeZero else
    .ok (execLxnow (w / 4096 % 16))
  | _ => .error .reservedMinor

/-- As `decodeM5F`. -/
def runM5F (w : Nat) : Except DecodeError (State → Out) :=
  match w / 256 % 16 with
  | 0 =>
    if (w / 4194304 % 4) ≠ 0 then .error .mustBeZero else
    if (w / 1073741824 % 4) ≠ 0 then .error .mustBeZero else
    .ok (execLtype (w / 16777216 % 64) (w / 65536 % 64) (w / 4096 % 16))
  | 1 =>
    if (w / 4194304 % 1024) ≠ 0 then .error .mustBeZero else
    .ok (execLclr (w / 65536 % 64) (w / 4096 % 16))
  | _ => .error .reservedMinor

/-- As `decodeM60`. -/
def runM60 (w : Nat) : Except DecodeError (State → Out) :=
  if (w / 256 % 4) = 3 then .error .reservedPredicate else
  .ok (execLdv ⟨(w / 134217728 % 32), (w / 4194304 % 32), (w / 524288 % 8), (w / 16384 % 32), (w / 1024 % 16), (w / 256 % 4)⟩)

/-- As `decodeM61`. -/
def runM61 (w : Nat) : Except DecodeError (State → Out) :=
  if (w / 1024 % 16) ≠ 0 then .error .mustBeZero else
  if (w / 256 % 4) = 3 then .error .reservedPredicate else
  .ok (execStv ⟨(w / 134217728 % 32), (w / 4194304 % 32), (w / 524288 % 8), (w / 16384 % 32), 0, (w / 256 % 4)⟩)

/-- As `decodeM62`. -/
def runM62 (w : Nat) : Except DecodeError (State → Out) :=
  if (w / 256 % 4) = 3 then .error .reservedPredicate else
  .ok (execLdg ⟨(w / 134217728 % 32), (w / 4194304 % 32), (w / 524288 % 8), (w / 16384 % 32), (w / 1024 % 16), (w / 256 % 4)⟩)

/-- As `decodeM63`. -/
def runM63 (w : Nat) : Except DecodeError (State → Out) :=
  if (w / 1024 % 16) ≠ 0 then .error .mustBeZero else
  if (w / 256 % 4) = 3 then .error .reservedPredicate else
  .ok (execStg ⟨(w / 134217728 % 32), (w / 4194304 % 32), (w / 524288 % 8), (w / 16384 % 32), 0, (w / 256 % 4)⟩)

/-- As `decodeM64`. -/
def runM64 (w : Nat) : Except DecodeError (State → Out) :=
  if (w / 256 % 4) = 3 then .error .reservedPredicate else
  .ok (execLdff ⟨(w / 134217728 % 32), (w / 4194304 % 32), (w / 524288 % 8), (w / 16384 % 32), (w / 1024 % 16), (w / 256 % 4)⟩)

/-- As `decodeM65`. -/
def runM65 (w : Nat) : Except DecodeError (State → Out) :=
  if (w / 67108864 % 2) ≠ 0 then .error .mustBeZero else
  if (w / 256 % 4) = 3 then .error .reservedPredicate else
  .ok (execLdr (w / 134217728 % 32) (w / 4194304 % 16) (w / 524288 % 8) (w / 16384 % 32) (w / 1024 % 16) (w / 256 % 4))

/-- As `decodeM66`. -/
def runM66 (w : Nat) : Except DecodeError (State → Out) :=
  .ok (execLd (w / 67108864 % 64) (w / 1048576 % 64) (w / 65536 % 16) (sext 8 (w / 256 % 256)))

/-- As `decodeM67`. -/
def runM67 (w : Nat) : Except DecodeError (State → Out) :=
  if (w / 65536 % 16) ≠ 0 then .error .mustBeZero else
  .ok (execSt (w / 67108864 % 64) (w / 1048576 % 64) (sext 8 (w / 256 % 256)))

/-- As `decodeM68`. -/
def runM68 (w : Nat) : Except DecodeError (State → Out) :=
  match w / 256 % 4 with
  | 0 =>
    .ok (execAtAdd ⟨(w / 134217728 % 32), (w / 4194304 % 32), (w / 524288 % 8), (w / 16384 % 32), (w / 1024 % 16)⟩)
  | 1 =>
    .ok (execAtSwap ⟨(w / 134217728 % 32), (w / 4194304 % 32), (w / 524288 % 8), (w / 16384 % 32), (w / 1024 % 16)⟩)
  | 2 =>
    .ok (execAtCas ⟨(w / 134217728 % 32), (w / 4194304 % 32), (w / 524288 % 8), (w / 16384 % 32), (w / 1024 % 16)⟩)
  | 3 =>
    .ok (execAtFadd ⟨(w / 134217728 % 32), (w / 4194304 % 32), (w / 524288 % 8), (w / 16384 % 32), (w / 1024 % 16)⟩)
  | _ => .error .reservedMinor

/-- As `decodeM69`. -/
def runM69 (w : Nat) : Except DecodeError (State → Out) :=
  match w / 256 % 4 with
  | 0 =>
    .ok (execAtAnd ⟨(w / 134217728 % 32), (w / 4194304 % 32), (w / 524288 % 8), (w / 16384 % 32), (w / 1024 % 16)⟩)
  | 1 =>
    .ok (execAtOr ⟨(w / 134217728 % 32), (w / 4194304 % 32), (w / 524288 % 8), (w / 16384 % 32), (w / 1024 % 16)⟩)
  | 2 =>
    .ok (execAtMax ⟨(w / 134217728 % 32), (w / 4194304 % 32), (w / 524288 % 8), (w / 16384 % 32), (w / 1024 % 16)⟩)
  | 3 =>
    .ok (execAtMaxu ⟨(w / 134217728 % 32), (w / 4194304 % 32), (w / 524288 % 8), (w / 16384 % 32), (w / 1024 % 16)⟩)
  | _ => .error .reservedMinor

/-- As `decodeM6A`. -/
def runM6A (w : Nat) : Except DecodeError (State → Out) :=
  match w / 256 % 16 with
  | 0 =>
    if (w / 134217728 % 4) = 0 then
      if (w / 4096 % 4096) ≠ 0 then .error .mustBeZero else
      if (w / 536870912 % 8) ≠ 0 then .error .mustBeZero else
      if 7 ≤ (w / 16777216 % 8) then .error .reservedValue else
      .ok (execFenceAcq (w / 16777216 % 8))
    else
    if (w / 134217728 % 4) = 1 then
      if (w / 4096 % 4096) ≠ 0 then .error .mustBeZero else
      if (w / 536870912 % 8) ≠ 0 then .error .mustBeZero else
      if 7 ≤ (w / 16777216 % 8) then .error .reservedValue else
      .ok (execFenceRel (w / 16777216 % 8))
    else
    if (w / 134217728 % 4) = 2 then
      if (w / 4096 % 4096) ≠ 0 then .error .mustBeZero else
      if (w / 536870912 % 8) ≠ 0 then .error .mustBeZero else
      if 7 ≤ (w / 16777216 % 8) then .error .reservedValue else
      .ok (execFenceAr (w / 16777216 % 8))
    else
    if (w / 134217728 % 4) = 3 then
      if (w / 4096 % 4096) ≠ 0 then .error .mustBeZero else
      if (w / 536870912 % 8) ≠ 0 then .error .mustBeZero else
      if 7 ≤ (w / 16777216 % 8) then .error .reservedValue else
      .ok (execFenceSc (w / 16777216 % 8))
    else
    .error .reservedMinor
  | 1 =>
    if (w / 65536 % 65536) ≠ 0 then .error .mustBeZero else
    .ok (execFenceAck (w / 4096 % 16))
  | 2 =>
    if (w / 4194304 % 2) = 0 then
      if 7 ≤ ((w / 1073741824 % 4) * 2 + (w / 8388608 % 2)) then .error .reservedValue else
      .ok (execLda (w / 16777216 % 64) ((w / 1073741824 % 4) * 2 + (w / 8388608 % 2)) (w / 65536 % 64) (w / 4096 % 16))
    else
    if (w / 4194304 % 2) = 1 then
      if 7 ≤ ((w / 1073741824 % 4) * 2 + (w / 8388608 % 2)) then .error .reservedValue else
      .ok (execLdaSc (w / 16777216 % 64) ((w / 1073741824 % 4) * 2 + (w / 8388608 % 2)) (w / 65536 % 64) (w / 4096 % 16))
    else
    .error .reservedMinor
  | 3 =>
    if (w / 4194304 % 2) = 0 then
      if (w / 4096 % 16) ≠ 0 then .error .mustBeZero else
      if 7 ≤ ((w / 1073741824 % 4) * 2 + (w / 8388608 % 2)) then .error .reservedValue else
      .ok (execStl (w / 16777216 % 64) ((w / 1073741824 % 4) * 2 + (w / 8388608 % 2)) (w / 65536 % 64))
    else
    if (w / 4194304 % 2) = 1 then
      if (w / 4096 % 16) ≠ 0 then .error .mustBeZero else
      if 7 ≤ ((w / 1073741824 % 4) * 2 + (w / 8388608 % 2)) then .error .reservedValue else
      .ok (execStlSc (w / 16777216 % 64) ((w / 1073741824 % 4) * 2 + (w / 8388608 % 2)) (w / 65536 % 64))
    else
    .error .reservedMinor
  | _ => .error .reservedMinor

/-- As `decodeM6B`. -/
def runM6B (w : Nat) : Except DecodeError (State → Out) :=
  match w / 256 % 16 with
  | 0 =>
    .ok (execLdb (w / 16777216 % 64) ((w / 1073741824 % 4) * 4 + (w / 4194304 % 4)) (w / 65536 % 64) (w / 4096 % 16))
  | 1 =>
    if (w / 4096 % 16) ≠ 0 then .error .mustBeZero else
    .ok (execStb (w / 16777216 % 64) ((w / 1073741824 % 4) * 4 + (w / 4194304 % 4)) (w / 65536 % 64))
  | _ => .error .reservedMinor

/-- As `decodeM6C`. -/
def runM6C (w : Nat) : Except DecodeError (State → Out) :=
  match w / 256 % 16 with
  | 0 =>
    if (w / 4194304 % 4) ≠ 0 then .error .mustBeZero else
    if (w / 536870912 % 8) ≠ 0 then .error .mustBeZero else
    .ok (execCbload (w / 67108864 % 8) (w / 16777216 % 4) (w / 65536 % 64) (w / 4096 % 16))
  | 1 =>
    .ok (execLdcb (w / 16777216 % 256) (w / 4194304 % 4) (w / 65536 % 64) (w / 4096 % 16))
  | _ => .error .reservedMinor

/-- As `decodeM6D`. -/
def runM6D (w : Nat) : Except DecodeError (State → Out) :=
  match w / 256 % 16 with
  | 0 =>
    if (w / 4096 % 16) ≠ 0 then .error .mustBeZero else
    if (w / 8388608 % 2) ≠ 0 then .error .mustBeZero else
    .ok (execPref (w / 16777216 % 256) (w / 4194304 % 2) (w / 65536 % 64))
  | 1 =>
    if (w / 4096 % 16) ≠ 0 then .error .mustBeZero else
    if (w / 524288 % 32) ≠ 0 then .error .mustBeZero else
    if (w / 1073741824 % 4) ≠ 0 then .error .mustBeZero else
    .ok (execMcnt (w / 16777216 % 64) (w / 65536 % 8))
  | _ => .error .reservedMinor

/-- As `decodeM6E`. -/
def runM6E (w : Nat) : Except DecodeError (State → Out) :=
  match w / 256 % 16 with
  | 0 =>
    if (w / 16777216 % 2) = 0 then
      if (w / 4194304 % 4) ≠ 0 then .error .mustBeZero else
      if (w / 33554432 % 128) ≠ 0 then .error .mustBeZero else
      .ok (execPagereq (w / 65536 % 64) (w / 4096 % 16))
    else
    if (w / 16777216 % 2) = 1 then
      if (w / 4194304 % 4) ≠ 0 then .error .mustBeZero else
      if (w / 33554432 % 128) ≠ 0 then .error .mustBeZero else
      .ok (execPagereqW (w / 65536 % 64) (w / 4096 % 16))
    else
    .error .reservedMinor
  | 1 =>
    if (w / 16777216 % 2) = 0 then
      if (w / 4096 % 16) ≠ 0 then .error .mustBeZero else
      if (w / 4194304 % 4) ≠ 0 then .error .mustBeZero else
      if (w / 33554432 % 128) ≠ 0 then .error .mustBeZero else
      .ok (execPagehint (w / 65536 % 64))
    else
    if (w / 16777216 % 2) = 1 then
      if (w / 4096 % 16) ≠ 0 then .error .mustBeZero else
      if (w / 4194304 % 4) ≠ 0 then .error .mustBeZero else
      if (w / 33554432 % 128) ≠ 0 then .error .mustBeZero else
      .ok (execPagehintW (w / 65536 % 64))
    else
    .error .reservedMinor
  | 2 =>
    if (w / 4194304 % 1024) ≠ 0 then .error .mustBeZero else
    .ok (execPagerel (w / 65536 % 64) (w / 4096 % 16))
  | _ => .error .reservedMinor

/-- As `decodeM70`. -/
def runM70 (w : Nat) : Except DecodeError (State → Out) :=
  match w / 256 % 16 with
  | 0 =>
    if (w / 4194304 % 4) ≠ 0 then .error .mustBeZero else
    if (w / 1073741824 % 4) ≠ 0 then .error .mustBeZero else
    .ok (execCp (w / 16777216 % 64) (w / 65536 % 64) (w / 4096 % 16))
  | 1 =>
    if (w / 4194304 % 4) ≠ 0 then .error .mustBeZero else
    if (w / 1073741824 % 4) ≠ 0 then .error .mustBeZero else
    .ok (execCp2d (w / 16777216 % 64) (w / 65536 % 64) (w / 4096 % 16))
  | _ => .error .reservedMinor

/-- As `decodeM71`. -/
def runM71 (w : Nat) : Except DecodeError (State → Out) :=
  match w / 256 % 16 with
  | 0 =>
    if (w / 4194304 % 4) ≠ 0 then .error .mustBeZero else
    if (w / 1073741824 % 4) ≠ 0 then .error .mustBeZero else
    .ok (execCpfill (w / 16777216 % 64) (w / 65536 % 64) (w / 4096 % 16))
  | _ => .error .reservedMinor

/-- As `decodeM72`. -/
def runM72 (w : Nat) : Except DecodeError (State → Out) :=
  match w / 256 % 16 with
  | 0 =>
    if (w / 4194304 % 4) ≠ 0 then .error .mustBeZero else
    if (w / 1073741824 % 4) ≠ 0 then .error .mustBeZero else
    .ok (execCpver (w / 16777216 % 64) (w / 65536 % 64) (w / 4096 % 16))
  | _ => .error .reservedMinor

/-- As `decodeM73`. -/
def runM73 (w : Nat) : Except DecodeError (State → Out) :=
  match w / 256 % 16 with
  | 0 =>
    if (w / 8388608 % 2) = 0 then
      if (w / 4096 % 16) ≠ 0 then .error .mustBeZero else
      if (w / 524288 % 16) ≠ 0 then .error .mustBeZero else
      if (w / 1073741824 % 4) ≠ 0 then .error .mustBeZero else
      .ok (execCpwp (w / 16777216 % 64) (w / 65536 % 8))
    else
    if (w / 8388608 % 2) = 1 then
      if (w / 4096 % 16) ≠ 0 then .error .mustBeZero else
      if (w / 524288 % 16) ≠ 0 then .error .mustBeZero else
      if (w / 1073741824 % 4) ≠ 0 then .error .mustBeZero else
      .ok (execCpwpClr (w / 16777216 % 64) (w / 65536 % 8))
    else
    .error .reservedMinor
  | 1 =>
    if (w / 4096 % 4096) ≠ 0 then .error .mustBeZero else
    if (w / 1073741824 % 4) ≠ 0 then .error .mustBeZero else
    .ok (execCpnum (w / 16777216 % 64))
  | _ => .error .reservedMinor

/-- As `decodeM74`. -/
def runM74 (w : Nat) : Except DecodeError (State → Out) :=
  match w / 256 % 16 with
  | 0 =>
    if (w / 4096 % 16) ≠ 0 then .error .mustBeZero else
    if (w / 4194304 % 4) ≠ 0 then .error .mustBeZero else
    if (w / 134217728 % 32) ≠ 0 then .error .mustBeZero else
    .ok (execCpseed (w / 16777216 % 8) (w / 65536 % 64))
  | _ => .error .reservedMinor

/-- As `decodeM75`. -/
def runM75 (w : Nat) : Except DecodeError (State → Out) :=
  match w / 256 % 16 with
  | 0 =>
    if (w / 2147483648 % 2) = 0 then
      if (w / 4194304 % 4) ≠ 0 then .error .mustBeZero else
      if (w / 268435456 % 8) ≠ 0 then .error .mustBeZero else
      .ok (execCproot (w / 16777216 % 16) (w / 65536 % 64) (w / 4096 % 16))
    else
    if (w / 2147483648 % 2) = 1 then
      if (w / 65536 % 256) ≠ 0 then .error .mustBeZero else
      if (w / 268435456 % 8) ≠ 0 then .error .mustBeZero else
      .ok (execCprootClr (w / 16777216 % 16) (w / 4096 % 16))
    else
    .error .reservedMinor
  | _ => .error .reservedMinor

/-- As `decodeM76`. -/
def runM76 (w : Nat) : Except DecodeError (State → Out) :=
  match w / 256 % 16 with
  | 0 =>
    if (w / 4096 % 4096) ≠ 0 then .error .mustBeZero else
    if (w / 1073741824 % 4) ≠ 0 then .error .mustBeZero else
    .ok (execFxstat (w / 16777216 % 64))
  | 1 =>
    if (w / 4096 % 16) ≠ 0 then .error .mustBeZero else
    if (w / 4194304 % 1024) ≠ 0 then .error .mustBeZero else
    .ok (execFxclr (w / 65536 % 64))
  | 2 =>
    if (w / 4096 % 4096) ≠ 0 then .error .mustBeZero else
    if (w / 1073741824 % 4) ≠ 0 then .error .mustBeZero else
    .ok (execFxrank (w / 16777216 % 64))
  | 3 =>
    if (w / 4096 % 16) ≠ 0 then .error .mustBeZero else
    if (w / 4194304 % 4) ≠ 0 then .error .mustBeZero else
    if (w / 1073741824 % 4) ≠ 0 then .error .mustBeZero else
    .ok (execFxpath (w / 16777216 % 64) (w / 65536 % 64))
  | _ => .error .reservedMinor

/-- As `decodeM77`. -/
def runM77 (w : Nat) : Except DecodeError (State → Out) :=
  match w / 256 % 16 with
  | 0 =>
    if (w / 4096 % 16) ≠ 0 then .error .mustBeZero else
    if (w / 4194304 % 4) ≠ 0 then .error .mustBeZero else
    if (w / 1073741824 % 4) ≠ 0 then .error .mustBeZero else
    .ok (execFxsto (w / 16777216 % 64) (w / 65536 % 64))
  | 1 =>
    if (w / 4096 % 16) ≠ 0 then .error .mustBeZero else
    if (w / 4194304 % 4) ≠ 0 then .error .mustBeZero else
    if (w / 1073741824 % 4) ≠ 0 then .error .mustBeZero else
    .ok (execFxstoRel (w / 16777216 % 64) (w / 65536 % 64))
  | _ => .error .reservedMinor

/-- As `decodeM78`. -/
def runM78 (w : Nat) : Except DecodeError (State → Out) :=
  match w / 256 % 16 with
  | 0 =>
    if (w / 4096 % 16) ≠ 0 then .error .mustBeZero else
    if (w / 524288 % 32) ≠ 0 then .error .mustBeZero else
    if (w / 1073741824 % 4) ≠ 0 then .error .mustBeZero else
    .ok (execFxcnt (w / 16777216 % 64) (w / 65536 % 8))
  | _ => .error .reservedMinor

/-- As `decodeM7F`. -/
def runM7F (w : Nat) : Except DecodeError (State → Out) :=
  .ok (execRunHead (w / 2147483648 % 2) (w / 1073741824 % 2) (w / 16384 % 65536) (w / 256 % 64))

/-- A 32-bit instruction by its major opcode, bits 7:1 (R69, R71). -/
def run32 (w : Nat) : Except DecodeError (State → Out) :=
  match w / 2 % 128 with
  | 0 => runM00 w
  | 1 => runM01 w
  | 2 => runM02 w
  | 3 => runM03 w
  | 4 => runM04 w
  | 5 => runM05 w
  | 6 => runM06 w
  | 7 => runM07 w
  | 8 => runM08 w
  | 9 => runM09 w
  | 10 => runM0A w
  | 16 => runM10 w
  | 17 => runM11 w
  | 18 => runM12 w
  | 19 => runM13 w
  | 20 => runM14 w
  | 21 => runM15 w
  | 22 => runM16 w
  | 23 => runM17 w
  | 24 => runM18 w
  | 32 => runM20 w
  | 33 => runM21 w
  | 34 => runM22 w
  | 35 => runM23 w
  | 36 => runM24 w
  | 37 => runM25 w
  | 38 => runM26 w
  | 39 => runM27 w
  | 40 => runM28 w
  | 41 => runM29 w
  | 42 => runM2A w
  | 43 => runM2B w
  | 44 => runM2C w
  | 45 => runM2D w
  | 46 => runM2E w
  | 47 => runM2F w
  | 48 => runM30 w
  | 49 => runM31 w
  | 50 => runM32 w
  | 51 => runM33 w
  | 52 => runM34 w
  | 53 => runM35 w
  | 54 => runM36 w
  | 55 => runM37 w
  | 56 => runM38 w
  | 57 => runM39 w
  | 58 => runM3A w
  | 59 => runM3B w
  | 60 => runM3C w
  | 64 => runM40 w
  | 65 => runM41 w
  | 66 => runM42 w
  | 67 => runM43 w
  | 68 => runM44 w
  | 69 => runM45 w
  | 70 => runM46 w
  | 72 => runM48 w
  | 73 => runM49 w
  | 74 => runM4A w
  | 75 => runM4B w
  | 76 => runM4C w
  | 77 => runM4D w
  | 78 => runM4E w
  | 79 => runM4F w
  | 80 => runM50 w
  | 81 => runM51 w
  | 82 => runM52 w
  | 83 => runM53 w
  | 84 => runM54 w
  | 85 => runM55 w
  | 86 => runM56 w
  | 88 => runM58 w
  | 89 => runM59 w
  | 90 => runM5A w
  | 91 => runM5B w
  | 92 => runM5C w
  | 93 => runM5D w
  | 94 => runM5E w
  | 95 => runM5F w
  | 96 => runM60 w
  | 97 => runM61 w
  | 98 => runM62 w
  | 99 => runM63 w
  | 100 => runM64 w
  | 101 => runM65 w
  | 102 => runM66 w
  | 103 => runM67 w
  | 104 => runM68 w
  | 105 => runM69 w
  | 106 => runM6A w
  | 107 => runM6B w
  | 108 => runM6C w
  | 109 => runM6D w
  | 110 => runM6E w
  | 112 => runM70 w
  | 113 => runM71 w
  | 114 => runM72 w
  | 115 => runM73 w
  | 116 => runM74 w
  | 117 => runM75 w
  | 118 => runM76 w
  | 119 => runM77 w
  | 120 => runM78 w
  | 127 => runM7F w
  | _ => .error .reservedMajor

/-- A 16-bit instruction by its operation, bits 4:1 (R63); the halfword 0 is the pad (R59). -/
def run16 (w : Nat) : Except DecodeError (State → Out) :=
  if w = 0 then .ok execPad else
  match w / 2 % 16 with
  | 0 => .ok (execVmov ⟨(w / 32768 % 2), (w / 1024 % 32), (w / 32 % 32)⟩)
  | 1 => .ok (execVaddI32H ⟨(w / 32768 % 2), (w / 1024 % 32), (w / 32 % 32)⟩)
  | 2 => .ok (execVsubI32H ⟨(w / 32768 % 2), (w / 1024 % 32), (w / 32 % 32)⟩)
  | 3 => .ok (execVmulI32H ⟨(w / 32768 % 2), (w / 1024 % 32), (w / 32 % 32)⟩)
  | 4 => .ok (execVandH ⟨(w / 32768 % 2), (w / 1024 % 32), (w / 32 % 32)⟩)
  | 5 => .ok (execVorH ⟨(w / 32768 % 2), (w / 1024 % 32), (w / 32 % 32)⟩)
  | 6 => .ok (execVxorH ⟨(w / 32768 % 2), (w / 1024 % 32), (w / 32 % 32)⟩)
  | 7 => .ok (execVshlI32H ⟨(w / 32768 % 2), (w / 1024 % 32), (w / 32 % 32)⟩)
  | 8 => .ok (execVsraI32H ⟨(w / 32768 % 2), (w / 1024 % 32), (w / 32 % 32)⟩)
  | 9 => .ok (execVaddF32H ⟨(w / 32768 % 2), (w / 1024 % 32), (w / 32 % 32)⟩)
  | 10 => .ok (execVsubF32H ⟨(w / 32768 % 2), (w / 1024 % 32), (w / 32 % 32)⟩)
  | 11 => .ok (execVmulF32H ⟨(w / 32768 % 2), (w / 1024 % 32), (w / 32 % 32)⟩)
  | 12 => .ok (execVmaxF32H ⟨(w / 32768 % 2), (w / 1024 % 32), (w / 32 % 32)⟩)
  | 13 => .ok (execVminF32H ⟨(w / 32768 % 2), (w / 1024 % 32), (w / 32 % 32)⟩)
  | 14 => .ok (execVaddBf16x2H ⟨(w / 32768 % 2), (w / 1024 % 32), (w / 32 % 32)⟩)
  | 15 => .ok (execVmulBf16x2H ⟨(w / 32768 % 2), (w / 1024 % 32), (w / 32 % 32)⟩)
  | _ => .error .reservedMinor

/-- `runM00` is `decodeM00` followed by `exec`. -/
theorem runM00_eq (w : Nat) : runM00 w = (decodeM00 w).map exec := by
  unfold runM00 decodeM00
  repeat' (split; all_goals try (rename_i h; simp only [h, ↓reduceIte]))
  all_goals first | (exfalso; omega) | rfl

/-- `runM01` is `decodeM01` followed by `exec`. -/
theorem runM01_eq (w : Nat) : runM01 w = (decodeM01 w).map exec := by
  unfold runM01 decodeM01
  repeat' (split; all_goals try (rename_i h; simp only [h, ↓reduceIte]))
  all_goals first | (exfalso; omega) | rfl

/-- `runM02` is `decodeM02` followed by `exec`. -/
theorem runM02_eq (w : Nat) : runM02 w = (decodeM02 w).map exec := by
  unfold runM02 decodeM02
  repeat' (split; all_goals try (rename_i h; simp only [h, ↓reduceIte]))
  all_goals first | (exfalso; omega) | rfl

/-- `runM03` is `decodeM03` followed by `exec`. -/
theorem runM03_eq (w : Nat) : runM03 w = (decodeM03 w).map exec := by
  unfold runM03 decodeM03
  repeat' (split; all_goals try (rename_i h; simp only [h, ↓reduceIte]))
  all_goals first | (exfalso; omega) | rfl

/-- `runM04` is `decodeM04` followed by `exec`. -/
theorem runM04_eq (w : Nat) : runM04 w = (decodeM04 w).map exec := by
  unfold runM04 decodeM04
  repeat' (split; all_goals try (rename_i h; simp only [h, ↓reduceIte]))
  all_goals first | (exfalso; omega) | rfl

/-- `runM05` is `decodeM05` followed by `exec`. -/
theorem runM05_eq (w : Nat) : runM05 w = (decodeM05 w).map exec := by
  unfold runM05 decodeM05
  repeat' (split; all_goals try (rename_i h; simp only [h, ↓reduceIte]))
  all_goals first | (exfalso; omega) | rfl

/-- `runM06` is `decodeM06` followed by `exec`. -/
theorem runM06_eq (w : Nat) : runM06 w = (decodeM06 w).map exec := by
  unfold runM06 decodeM06
  repeat' (split; all_goals try (rename_i h; simp only [h, ↓reduceIte]))
  all_goals first | (exfalso; omega) | rfl

/-- `runM07` is `decodeM07` followed by `exec`. -/
theorem runM07_eq (w : Nat) : runM07 w = (decodeM07 w).map exec := by
  unfold runM07 decodeM07
  repeat' (split; all_goals try (rename_i h; simp only [h, ↓reduceIte]))
  all_goals first | (exfalso; omega) | rfl

/-- `runM08` is `decodeM08` followed by `exec`. -/
theorem runM08_eq (w : Nat) : runM08 w = (decodeM08 w).map exec := by
  unfold runM08 decodeM08
  repeat' (split; all_goals try (rename_i h; simp only [h, ↓reduceIte]))
  all_goals first | (exfalso; omega) | rfl

/-- `runM09` is `decodeM09` followed by `exec`. -/
theorem runM09_eq (w : Nat) : runM09 w = (decodeM09 w).map exec := by
  unfold runM09 decodeM09
  repeat' (split; all_goals try (rename_i h; simp only [h, ↓reduceIte]))
  all_goals first | (exfalso; omega) | rfl

/-- `runM0A` is `decodeM0A` followed by `exec`. -/
theorem runM0A_eq (w : Nat) : runM0A w = (decodeM0A w).map exec := by
  unfold runM0A decodeM0A
  repeat' (split; all_goals try (rename_i h; simp only [h, ↓reduceIte]))
  all_goals first | (exfalso; omega) | rfl

/-- `runM10` is `decodeM10` followed by `exec`. -/
theorem runM10_eq (w : Nat) : runM10 w = (decodeM10 w).map exec := by
  unfold runM10 decodeM10
  repeat' (split; all_goals try (rename_i h; simp only [h, ↓reduceIte]))
  all_goals first | (exfalso; omega) | rfl

/-- `runM11` is `decodeM11` followed by `exec`. -/
theorem runM11_eq (w : Nat) : runM11 w = (decodeM11 w).map exec := by
  unfold runM11 decodeM11
  repeat' (split; all_goals try (rename_i h; simp only [h, ↓reduceIte]))
  all_goals first | (exfalso; omega) | rfl

/-- `runM12` is `decodeM12` followed by `exec`. -/
theorem runM12_eq (w : Nat) : runM12 w = (decodeM12 w).map exec := by
  unfold runM12 decodeM12
  repeat' (split; all_goals try (rename_i h; simp only [h, ↓reduceIte]))
  all_goals first | (exfalso; omega) | rfl

/-- `runM13` is `decodeM13` followed by `exec`. -/
theorem runM13_eq (w : Nat) : runM13 w = (decodeM13 w).map exec := by
  unfold runM13 decodeM13
  repeat' (split; all_goals try (rename_i h; simp only [h, ↓reduceIte]))
  all_goals first | (exfalso; omega) | rfl

/-- `runM14` is `decodeM14` followed by `exec`. -/
theorem runM14_eq (w : Nat) : runM14 w = (decodeM14 w).map exec := by
  unfold runM14 decodeM14
  repeat' (split; all_goals try (rename_i h; simp only [h, ↓reduceIte]))
  all_goals first | (exfalso; omega) | rfl

/-- `runM15` is `decodeM15` followed by `exec`. -/
theorem runM15_eq (w : Nat) : runM15 w = (decodeM15 w).map exec := by
  unfold runM15 decodeM15
  repeat' (split; all_goals try (rename_i h; simp only [h, ↓reduceIte]))
  all_goals first | (exfalso; omega) | rfl

/-- `runM16` is `decodeM16` followed by `exec`. -/
theorem runM16_eq (w : Nat) : runM16 w = (decodeM16 w).map exec := by
  unfold runM16 decodeM16
  repeat' (split; all_goals try (rename_i h; simp only [h, ↓reduceIte]))
  all_goals first | (exfalso; omega) | rfl

/-- `runM17` is `decodeM17` followed by `exec`. -/
theorem runM17_eq (w : Nat) : runM17 w = (decodeM17 w).map exec := by
  unfold runM17 decodeM17
  repeat' (split; all_goals try (rename_i h; simp only [h, ↓reduceIte]))
  all_goals first | (exfalso; omega) | rfl

/-- `runM18` is `decodeM18` followed by `exec`. -/
theorem runM18_eq (w : Nat) : runM18 w = (decodeM18 w).map exec := by
  unfold runM18 decodeM18
  repeat' (split; all_goals try (rename_i h; simp only [h, ↓reduceIte]))
  all_goals first | (exfalso; omega) | rfl

/-- `runM20` is `decodeM20` followed by `exec`. -/
theorem runM20_eq (w : Nat) : runM20 w = (decodeM20 w).map exec := by
  unfold runM20 decodeM20
  repeat' (split; all_goals try (rename_i h; simp only [h, ↓reduceIte]))
  all_goals first | (exfalso; omega) | rfl

/-- `runM21` is `decodeM21` followed by `exec`. -/
theorem runM21_eq (w : Nat) : runM21 w = (decodeM21 w).map exec := by
  unfold runM21 decodeM21
  repeat' (split; all_goals try (rename_i h; simp only [h, ↓reduceIte]))
  all_goals first | (exfalso; omega) | rfl

/-- `runM22` is `decodeM22` followed by `exec`. -/
theorem runM22_eq (w : Nat) : runM22 w = (decodeM22 w).map exec := by
  unfold runM22 decodeM22
  repeat' (split; all_goals try (rename_i h; simp only [h, ↓reduceIte]))
  all_goals first | (exfalso; omega) | rfl

/-- `runM23` is `decodeM23` followed by `exec`. -/
theorem runM23_eq (w : Nat) : runM23 w = (decodeM23 w).map exec := by
  unfold runM23 decodeM23
  repeat' (split; all_goals try (rename_i h; simp only [h, ↓reduceIte]))
  all_goals first | (exfalso; omega) | rfl

/-- `runM24` is `decodeM24` followed by `exec`. -/
theorem runM24_eq (w : Nat) : runM24 w = (decodeM24 w).map exec := by
  unfold runM24 decodeM24
  repeat' (split; all_goals try (rename_i h; simp only [h, ↓reduceIte]))
  all_goals first | (exfalso; omega) | rfl

/-- `runM25` is `decodeM25` followed by `exec`. -/
theorem runM25_eq (w : Nat) : runM25 w = (decodeM25 w).map exec := by
  unfold runM25 decodeM25
  repeat' (split; all_goals try (rename_i h; simp only [h, ↓reduceIte]))
  all_goals first | (exfalso; omega) | rfl

/-- `runM26` is `decodeM26` followed by `exec`. -/
theorem runM26_eq (w : Nat) : runM26 w = (decodeM26 w).map exec := by
  unfold runM26 decodeM26
  repeat' (split; all_goals try (rename_i h; simp only [h, ↓reduceIte]))
  all_goals first | (exfalso; omega) | rfl

/-- `runM27` is `decodeM27` followed by `exec`. -/
theorem runM27_eq (w : Nat) : runM27 w = (decodeM27 w).map exec := by
  unfold runM27 decodeM27
  repeat' (split; all_goals try (rename_i h; simp only [h, ↓reduceIte]))
  all_goals first | (exfalso; omega) | rfl

/-- `runM28` is `decodeM28` followed by `exec`. -/
theorem runM28_eq (w : Nat) : runM28 w = (decodeM28 w).map exec := by
  unfold runM28 decodeM28
  repeat' (split; all_goals try (rename_i h; simp only [h, ↓reduceIte]))
  all_goals first | (exfalso; omega) | rfl

/-- `runM29` is `decodeM29` followed by `exec`. -/
theorem runM29_eq (w : Nat) : runM29 w = (decodeM29 w).map exec := by
  unfold runM29 decodeM29
  repeat' (split; all_goals try (rename_i h; simp only [h, ↓reduceIte]))
  all_goals first | (exfalso; omega) | rfl

/-- `runM2A` is `decodeM2A` followed by `exec`. -/
theorem runM2A_eq (w : Nat) : runM2A w = (decodeM2A w).map exec := by
  unfold runM2A decodeM2A
  repeat' (split; all_goals try (rename_i h; simp only [h, ↓reduceIte]))
  all_goals first | (exfalso; omega) | rfl

/-- `runM2B` is `decodeM2B` followed by `exec`. -/
theorem runM2B_eq (w : Nat) : runM2B w = (decodeM2B w).map exec := by
  unfold runM2B decodeM2B
  repeat' (split; all_goals try (rename_i h; simp only [h, ↓reduceIte]))
  all_goals first | (exfalso; omega) | rfl

/-- `runM2C` is `decodeM2C` followed by `exec`. -/
theorem runM2C_eq (w : Nat) : runM2C w = (decodeM2C w).map exec := by
  unfold runM2C decodeM2C
  repeat' (split; all_goals try (rename_i h; simp only [h, ↓reduceIte]))
  all_goals first | (exfalso; omega) | rfl

/-- `runM2D` is `decodeM2D` followed by `exec`. -/
theorem runM2D_eq (w : Nat) : runM2D w = (decodeM2D w).map exec := by
  unfold runM2D decodeM2D
  repeat' (split; all_goals try (rename_i h; simp only [h, ↓reduceIte]))
  all_goals first | (exfalso; omega) | rfl

/-- `runM2E` is `decodeM2E` followed by `exec`. -/
theorem runM2E_eq (w : Nat) : runM2E w = (decodeM2E w).map exec := by
  unfold runM2E decodeM2E
  repeat' (split; all_goals try (rename_i h; simp only [h, ↓reduceIte]))
  all_goals first | (exfalso; omega) | rfl

/-- `runM2F` is `decodeM2F` followed by `exec`. -/
theorem runM2F_eq (w : Nat) : runM2F w = (decodeM2F w).map exec := by
  unfold runM2F decodeM2F
  repeat' (split; all_goals try (rename_i h; simp only [h, ↓reduceIte]))
  all_goals first | (exfalso; omega) | rfl

/-- `runM30` is `decodeM30` followed by `exec`. -/
theorem runM30_eq (w : Nat) : runM30 w = (decodeM30 w).map exec := by
  unfold runM30 decodeM30
  repeat' (split; all_goals try (rename_i h; simp only [h, ↓reduceIte]))
  all_goals first | (exfalso; omega) | rfl

/-- `runM31` is `decodeM31` followed by `exec`. -/
theorem runM31_eq (w : Nat) : runM31 w = (decodeM31 w).map exec := by
  unfold runM31 decodeM31
  repeat' (split; all_goals try (rename_i h; simp only [h, ↓reduceIte]))
  all_goals first | (exfalso; omega) | rfl

/-- `runM32` is `decodeM32` followed by `exec`. -/
theorem runM32_eq (w : Nat) : runM32 w = (decodeM32 w).map exec := by
  unfold runM32 decodeM32
  repeat' (split; all_goals try (rename_i h; simp only [h, ↓reduceIte]))
  all_goals first | (exfalso; omega) | rfl

/-- `runM33` is `decodeM33` followed by `exec`. -/
theorem runM33_eq (w : Nat) : runM33 w = (decodeM33 w).map exec := by
  unfold runM33 decodeM33
  repeat' (split; all_goals try (rename_i h; simp only [h, ↓reduceIte]))
  all_goals first | (exfalso; omega) | rfl

/-- `runM34` is `decodeM34` followed by `exec`. -/
theorem runM34_eq (w : Nat) : runM34 w = (decodeM34 w).map exec := by
  unfold runM34 decodeM34
  repeat' (split; all_goals try (rename_i h; simp only [h, ↓reduceIte]))
  all_goals first | (exfalso; omega) | rfl

/-- `runM35` is `decodeM35` followed by `exec`. -/
theorem runM35_eq (w : Nat) : runM35 w = (decodeM35 w).map exec := by
  unfold runM35 decodeM35
  repeat' (split; all_goals try (rename_i h; simp only [h, ↓reduceIte]))
  all_goals first | (exfalso; omega) | rfl

/-- `runM36` is `decodeM36` followed by `exec`. -/
theorem runM36_eq (w : Nat) : runM36 w = (decodeM36 w).map exec := by
  unfold runM36 decodeM36
  repeat' (split; all_goals try (rename_i h; simp only [h, ↓reduceIte]))
  all_goals first | (exfalso; omega) | rfl

/-- `runM37` is `decodeM37` followed by `exec`. -/
theorem runM37_eq (w : Nat) : runM37 w = (decodeM37 w).map exec := by
  unfold runM37 decodeM37
  repeat' (split; all_goals try (rename_i h; simp only [h, ↓reduceIte]))
  all_goals first | (exfalso; omega) | rfl

/-- `runM38` is `decodeM38` followed by `exec`. -/
theorem runM38_eq (w : Nat) : runM38 w = (decodeM38 w).map exec := by
  unfold runM38 decodeM38
  repeat' (split; all_goals try (rename_i h; simp only [h, ↓reduceIte]))
  all_goals first | (exfalso; omega) | rfl

/-- `runM39` is `decodeM39` followed by `exec`. -/
theorem runM39_eq (w : Nat) : runM39 w = (decodeM39 w).map exec := by
  unfold runM39 decodeM39
  repeat' (split; all_goals try (rename_i h; simp only [h, ↓reduceIte]))
  all_goals first | (exfalso; omega) | rfl

/-- `runM3A` is `decodeM3A` followed by `exec`. -/
theorem runM3A_eq (w : Nat) : runM3A w = (decodeM3A w).map exec := by
  unfold runM3A decodeM3A
  repeat' (split; all_goals try (rename_i h; simp only [h, ↓reduceIte]))
  all_goals first | (exfalso; omega) | rfl

/-- `runM3B` is `decodeM3B` followed by `exec`. -/
theorem runM3B_eq (w : Nat) : runM3B w = (decodeM3B w).map exec := by
  unfold runM3B decodeM3B
  repeat' (split; all_goals try (rename_i h; simp only [h, ↓reduceIte]))
  all_goals first | (exfalso; omega) | rfl

/-- `runM3C` is `decodeM3C` followed by `exec`. -/
theorem runM3C_eq (w : Nat) : runM3C w = (decodeM3C w).map exec := by
  unfold runM3C decodeM3C
  repeat' (split; all_goals try (rename_i h; simp only [h, ↓reduceIte]))
  all_goals first | (exfalso; omega) | rfl

/-- `runM40` is `decodeM40` followed by `exec`. -/
theorem runM40_eq (w : Nat) : runM40 w = (decodeM40 w).map exec := by
  unfold runM40 decodeM40
  repeat' (split; all_goals try (rename_i h; simp only [h, ↓reduceIte]))
  all_goals first | (exfalso; omega) | rfl

/-- `runM41` is `decodeM41` followed by `exec`. -/
theorem runM41_eq (w : Nat) : runM41 w = (decodeM41 w).map exec := by
  unfold runM41 decodeM41
  repeat' (split; all_goals try (rename_i h; simp only [h, ↓reduceIte]))
  all_goals first | (exfalso; omega) | rfl

/-- `runM42` is `decodeM42` followed by `exec`. -/
theorem runM42_eq (w : Nat) : runM42 w = (decodeM42 w).map exec := by
  unfold runM42 decodeM42
  repeat' (split; all_goals try (rename_i h; simp only [h, ↓reduceIte]))
  all_goals first | (exfalso; omega) | rfl

/-- `runM43` is `decodeM43` followed by `exec`. -/
theorem runM43_eq (w : Nat) : runM43 w = (decodeM43 w).map exec := by
  unfold runM43 decodeM43
  repeat' (split; all_goals try (rename_i h; simp only [h, ↓reduceIte]))
  all_goals first | (exfalso; omega) | rfl

/-- `runM44` is `decodeM44` followed by `exec`. -/
theorem runM44_eq (w : Nat) : runM44 w = (decodeM44 w).map exec := by
  unfold runM44 decodeM44
  repeat' (split; all_goals try (rename_i h; simp only [h, ↓reduceIte]))
  all_goals first | (exfalso; omega) | rfl

/-- `runM45` is `decodeM45` followed by `exec`. -/
theorem runM45_eq (w : Nat) : runM45 w = (decodeM45 w).map exec := by
  unfold runM45 decodeM45
  repeat' (split; all_goals try (rename_i h; simp only [h, ↓reduceIte]))
  all_goals first | (exfalso; omega) | rfl

/-- `runM46` is `decodeM46` followed by `exec`. -/
theorem runM46_eq (w : Nat) : runM46 w = (decodeM46 w).map exec := by
  unfold runM46 decodeM46
  repeat' (split; all_goals try (rename_i h; simp only [h, ↓reduceIte]))
  all_goals first | (exfalso; omega) | rfl

/-- `runM48` is `decodeM48` followed by `exec`. -/
theorem runM48_eq (w : Nat) : runM48 w = (decodeM48 w).map exec := by
  unfold runM48 decodeM48
  repeat' (split; all_goals try (rename_i h; simp only [h, ↓reduceIte]))
  all_goals first | (exfalso; omega) | rfl

/-- `runM49` is `decodeM49` followed by `exec`. -/
theorem runM49_eq (w : Nat) : runM49 w = (decodeM49 w).map exec := by
  unfold runM49 decodeM49
  repeat' (split; all_goals try (rename_i h; simp only [h, ↓reduceIte]))
  all_goals first | (exfalso; omega) | rfl

/-- `runM4A` is `decodeM4A` followed by `exec`. -/
theorem runM4A_eq (w : Nat) : runM4A w = (decodeM4A w).map exec := by
  unfold runM4A decodeM4A
  repeat' (split; all_goals try (rename_i h; simp only [h, ↓reduceIte]))
  all_goals first | (exfalso; omega) | rfl

/-- `runM4B` is `decodeM4B` followed by `exec`. -/
theorem runM4B_eq (w : Nat) : runM4B w = (decodeM4B w).map exec := by
  unfold runM4B decodeM4B
  repeat' (split; all_goals try (rename_i h; simp only [h, ↓reduceIte]))
  all_goals first | (exfalso; omega) | rfl

/-- `runM4C` is `decodeM4C` followed by `exec`. -/
theorem runM4C_eq (w : Nat) : runM4C w = (decodeM4C w).map exec := by
  unfold runM4C decodeM4C
  repeat' (split; all_goals try (rename_i h; simp only [h, ↓reduceIte]))
  all_goals first | (exfalso; omega) | rfl

/-- `runM4D` is `decodeM4D` followed by `exec`. -/
theorem runM4D_eq (w : Nat) : runM4D w = (decodeM4D w).map exec := by
  unfold runM4D decodeM4D
  repeat' (split; all_goals try (rename_i h; simp only [h, ↓reduceIte]))
  all_goals first | (exfalso; omega) | rfl

/-- `runM4E` is `decodeM4E` followed by `exec`. -/
theorem runM4E_eq (w : Nat) : runM4E w = (decodeM4E w).map exec := by
  unfold runM4E decodeM4E
  repeat' (split; all_goals try (rename_i h; simp only [h, ↓reduceIte]))
  all_goals first | (exfalso; omega) | rfl

/-- `runM4F` is `decodeM4F` followed by `exec`. -/
theorem runM4F_eq (w : Nat) : runM4F w = (decodeM4F w).map exec := by
  unfold runM4F decodeM4F
  repeat' (split; all_goals try (rename_i h; simp only [h, ↓reduceIte]))
  all_goals first | (exfalso; omega) | rfl

/-- `runM50` is `decodeM50` followed by `exec`. -/
theorem runM50_eq (w : Nat) : runM50 w = (decodeM50 w).map exec := by
  unfold runM50 decodeM50
  repeat' (split; all_goals try (rename_i h; simp only [h, ↓reduceIte]))
  all_goals first | (exfalso; omega) | rfl

/-- `runM51` is `decodeM51` followed by `exec`. -/
theorem runM51_eq (w : Nat) : runM51 w = (decodeM51 w).map exec := by
  unfold runM51 decodeM51
  repeat' (split; all_goals try (rename_i h; simp only [h, ↓reduceIte]))
  all_goals first | (exfalso; omega) | rfl

/-- `runM52` is `decodeM52` followed by `exec`. -/
theorem runM52_eq (w : Nat) : runM52 w = (decodeM52 w).map exec := by
  unfold runM52 decodeM52
  repeat' (split; all_goals try (rename_i h; simp only [h, ↓reduceIte]))
  all_goals first | (exfalso; omega) | rfl

/-- `runM53` is `decodeM53` followed by `exec`. -/
theorem runM53_eq (w : Nat) : runM53 w = (decodeM53 w).map exec := by
  unfold runM53 decodeM53
  repeat' (split; all_goals try (rename_i h; simp only [h, ↓reduceIte]))
  all_goals first | (exfalso; omega) | rfl

/-- `runM54` is `decodeM54` followed by `exec`. -/
theorem runM54_eq (w : Nat) : runM54 w = (decodeM54 w).map exec := by
  unfold runM54 decodeM54
  repeat' (split; all_goals try (rename_i h; simp only [h, ↓reduceIte]))
  all_goals first | (exfalso; omega) | rfl

/-- `runM55` is `decodeM55` followed by `exec`. -/
theorem runM55_eq (w : Nat) : runM55 w = (decodeM55 w).map exec := by
  unfold runM55 decodeM55
  repeat' (split; all_goals try (rename_i h; simp only [h, ↓reduceIte]))
  all_goals first | (exfalso; omega) | rfl

/-- `runM56` is `decodeM56` followed by `exec`. -/
theorem runM56_eq (w : Nat) : runM56 w = (decodeM56 w).map exec := by
  unfold runM56 decodeM56
  repeat' (split; all_goals try (rename_i h; simp only [h, ↓reduceIte]))
  all_goals first | (exfalso; omega) | rfl

/-- `runM58` is `decodeM58` followed by `exec`. -/
theorem runM58_eq (w : Nat) : runM58 w = (decodeM58 w).map exec := by
  unfold runM58 decodeM58
  repeat' (split; all_goals try (rename_i h; simp only [h, ↓reduceIte]))
  all_goals first | (exfalso; omega) | rfl

/-- `runM59` is `decodeM59` followed by `exec`. -/
theorem runM59_eq (w : Nat) : runM59 w = (decodeM59 w).map exec := by
  unfold runM59 decodeM59
  repeat' (split; all_goals try (rename_i h; simp only [h, ↓reduceIte]))
  all_goals first | (exfalso; omega) | rfl

/-- `runM5A` is `decodeM5A` followed by `exec`. -/
theorem runM5A_eq (w : Nat) : runM5A w = (decodeM5A w).map exec := by
  unfold runM5A decodeM5A
  repeat' (split; all_goals try (rename_i h; simp only [h, ↓reduceIte]))
  all_goals first | (exfalso; omega) | rfl

/-- `runM5B` is `decodeM5B` followed by `exec`. -/
theorem runM5B_eq (w : Nat) : runM5B w = (decodeM5B w).map exec := by
  unfold runM5B decodeM5B
  repeat' (split; all_goals try (rename_i h; simp only [h, ↓reduceIte]))
  all_goals first | (exfalso; omega) | rfl

/-- `runM5C` is `decodeM5C` followed by `exec`. -/
theorem runM5C_eq (w : Nat) : runM5C w = (decodeM5C w).map exec := by
  unfold runM5C decodeM5C
  repeat' (split; all_goals try (rename_i h; simp only [h, ↓reduceIte]))
  all_goals first | (exfalso; omega) | rfl

/-- `runM5D` is `decodeM5D` followed by `exec`. -/
theorem runM5D_eq (w : Nat) : runM5D w = (decodeM5D w).map exec := by
  unfold runM5D decodeM5D
  repeat' (split; all_goals try (rename_i h; simp only [h, ↓reduceIte]))
  all_goals first | (exfalso; omega) | rfl

/-- `runM5E` is `decodeM5E` followed by `exec`. -/
theorem runM5E_eq (w : Nat) : runM5E w = (decodeM5E w).map exec := by
  unfold runM5E decodeM5E
  repeat' (split; all_goals try (rename_i h; simp only [h, ↓reduceIte]))
  all_goals first | (exfalso; omega) | rfl

/-- `runM5F` is `decodeM5F` followed by `exec`. -/
theorem runM5F_eq (w : Nat) : runM5F w = (decodeM5F w).map exec := by
  unfold runM5F decodeM5F
  repeat' (split; all_goals try (rename_i h; simp only [h, ↓reduceIte]))
  all_goals first | (exfalso; omega) | rfl

/-- `runM60` is `decodeM60` followed by `exec`. -/
theorem runM60_eq (w : Nat) : runM60 w = (decodeM60 w).map exec := by
  unfold runM60 decodeM60
  repeat' (split; all_goals try (rename_i h; simp only [h, ↓reduceIte]))
  all_goals first | (exfalso; omega) | rfl

/-- `runM61` is `decodeM61` followed by `exec`. -/
theorem runM61_eq (w : Nat) : runM61 w = (decodeM61 w).map exec := by
  unfold runM61 decodeM61
  repeat' (split; all_goals try (rename_i h; simp only [h, ↓reduceIte]))
  all_goals first | (exfalso; omega) | rfl

/-- `runM62` is `decodeM62` followed by `exec`. -/
theorem runM62_eq (w : Nat) : runM62 w = (decodeM62 w).map exec := by
  unfold runM62 decodeM62
  repeat' (split; all_goals try (rename_i h; simp only [h, ↓reduceIte]))
  all_goals first | (exfalso; omega) | rfl

/-- `runM63` is `decodeM63` followed by `exec`. -/
theorem runM63_eq (w : Nat) : runM63 w = (decodeM63 w).map exec := by
  unfold runM63 decodeM63
  repeat' (split; all_goals try (rename_i h; simp only [h, ↓reduceIte]))
  all_goals first | (exfalso; omega) | rfl

/-- `runM64` is `decodeM64` followed by `exec`. -/
theorem runM64_eq (w : Nat) : runM64 w = (decodeM64 w).map exec := by
  unfold runM64 decodeM64
  repeat' (split; all_goals try (rename_i h; simp only [h, ↓reduceIte]))
  all_goals first | (exfalso; omega) | rfl

/-- `runM65` is `decodeM65` followed by `exec`. -/
theorem runM65_eq (w : Nat) : runM65 w = (decodeM65 w).map exec := by
  unfold runM65 decodeM65
  repeat' (split; all_goals try (rename_i h; simp only [h, ↓reduceIte]))
  all_goals first | (exfalso; omega) | rfl

/-- `runM66` is `decodeM66` followed by `exec`. -/
theorem runM66_eq (w : Nat) : runM66 w = (decodeM66 w).map exec := by
  unfold runM66 decodeM66
  repeat' (split; all_goals try (rename_i h; simp only [h, ↓reduceIte]))
  all_goals first | (exfalso; omega) | rfl

/-- `runM67` is `decodeM67` followed by `exec`. -/
theorem runM67_eq (w : Nat) : runM67 w = (decodeM67 w).map exec := by
  unfold runM67 decodeM67
  repeat' (split; all_goals try (rename_i h; simp only [h, ↓reduceIte]))
  all_goals first | (exfalso; omega) | rfl

/-- `runM68` is `decodeM68` followed by `exec`. -/
theorem runM68_eq (w : Nat) : runM68 w = (decodeM68 w).map exec := by
  unfold runM68 decodeM68
  repeat' (split; all_goals try (rename_i h; simp only [h, ↓reduceIte]))
  all_goals first | (exfalso; omega) | rfl

/-- `runM69` is `decodeM69` followed by `exec`. -/
theorem runM69_eq (w : Nat) : runM69 w = (decodeM69 w).map exec := by
  unfold runM69 decodeM69
  repeat' (split; all_goals try (rename_i h; simp only [h, ↓reduceIte]))
  all_goals first | (exfalso; omega) | rfl

/-- `runM6A` is `decodeM6A` followed by `exec`. -/
theorem runM6A_eq (w : Nat) : runM6A w = (decodeM6A w).map exec := by
  unfold runM6A decodeM6A
  repeat' (split; all_goals try (rename_i h; simp only [h, ↓reduceIte]))
  all_goals first | (exfalso; omega) | rfl

/-- `runM6B` is `decodeM6B` followed by `exec`. -/
theorem runM6B_eq (w : Nat) : runM6B w = (decodeM6B w).map exec := by
  unfold runM6B decodeM6B
  repeat' (split; all_goals try (rename_i h; simp only [h, ↓reduceIte]))
  all_goals first | (exfalso; omega) | rfl

/-- `runM6C` is `decodeM6C` followed by `exec`. -/
theorem runM6C_eq (w : Nat) : runM6C w = (decodeM6C w).map exec := by
  unfold runM6C decodeM6C
  repeat' (split; all_goals try (rename_i h; simp only [h, ↓reduceIte]))
  all_goals first | (exfalso; omega) | rfl

/-- `runM6D` is `decodeM6D` followed by `exec`. -/
theorem runM6D_eq (w : Nat) : runM6D w = (decodeM6D w).map exec := by
  unfold runM6D decodeM6D
  repeat' (split; all_goals try (rename_i h; simp only [h, ↓reduceIte]))
  all_goals first | (exfalso; omega) | rfl

/-- `runM6E` is `decodeM6E` followed by `exec`. -/
theorem runM6E_eq (w : Nat) : runM6E w = (decodeM6E w).map exec := by
  unfold runM6E decodeM6E
  repeat' (split; all_goals try (rename_i h; simp only [h, ↓reduceIte]))
  all_goals first | (exfalso; omega) | rfl

/-- `runM70` is `decodeM70` followed by `exec`. -/
theorem runM70_eq (w : Nat) : runM70 w = (decodeM70 w).map exec := by
  unfold runM70 decodeM70
  repeat' (split; all_goals try (rename_i h; simp only [h, ↓reduceIte]))
  all_goals first | (exfalso; omega) | rfl

/-- `runM71` is `decodeM71` followed by `exec`. -/
theorem runM71_eq (w : Nat) : runM71 w = (decodeM71 w).map exec := by
  unfold runM71 decodeM71
  repeat' (split; all_goals try (rename_i h; simp only [h, ↓reduceIte]))
  all_goals first | (exfalso; omega) | rfl

/-- `runM72` is `decodeM72` followed by `exec`. -/
theorem runM72_eq (w : Nat) : runM72 w = (decodeM72 w).map exec := by
  unfold runM72 decodeM72
  repeat' (split; all_goals try (rename_i h; simp only [h, ↓reduceIte]))
  all_goals first | (exfalso; omega) | rfl

/-- `runM73` is `decodeM73` followed by `exec`. -/
theorem runM73_eq (w : Nat) : runM73 w = (decodeM73 w).map exec := by
  unfold runM73 decodeM73
  repeat' (split; all_goals try (rename_i h; simp only [h, ↓reduceIte]))
  all_goals first | (exfalso; omega) | rfl

/-- `runM74` is `decodeM74` followed by `exec`. -/
theorem runM74_eq (w : Nat) : runM74 w = (decodeM74 w).map exec := by
  unfold runM74 decodeM74
  repeat' (split; all_goals try (rename_i h; simp only [h, ↓reduceIte]))
  all_goals first | (exfalso; omega) | rfl

/-- `runM75` is `decodeM75` followed by `exec`. -/
theorem runM75_eq (w : Nat) : runM75 w = (decodeM75 w).map exec := by
  unfold runM75 decodeM75
  repeat' (split; all_goals try (rename_i h; simp only [h, ↓reduceIte]))
  all_goals first | (exfalso; omega) | rfl

/-- `runM76` is `decodeM76` followed by `exec`. -/
theorem runM76_eq (w : Nat) : runM76 w = (decodeM76 w).map exec := by
  unfold runM76 decodeM76
  repeat' (split; all_goals try (rename_i h; simp only [h, ↓reduceIte]))
  all_goals first | (exfalso; omega) | rfl

/-- `runM77` is `decodeM77` followed by `exec`. -/
theorem runM77_eq (w : Nat) : runM77 w = (decodeM77 w).map exec := by
  unfold runM77 decodeM77
  repeat' (split; all_goals try (rename_i h; simp only [h, ↓reduceIte]))
  all_goals first | (exfalso; omega) | rfl

/-- `runM78` is `decodeM78` followed by `exec`. -/
theorem runM78_eq (w : Nat) : runM78 w = (decodeM78 w).map exec := by
  unfold runM78 decodeM78
  repeat' (split; all_goals try (rename_i h; simp only [h, ↓reduceIte]))
  all_goals first | (exfalso; omega) | rfl

/-- `runM7F` is `decodeM7F` followed by `exec`. -/
theorem runM7F_eq (w : Nat) : runM7F w = (decodeM7F w).map exec := by
  unfold runM7F decodeM7F
  repeat' (split; all_goals try (rename_i h; simp only [h, ↓reduceIte]))
  all_goals first | (exfalso; omega) | rfl

/-- `run32` is `decode32` followed by `exec`. -/
theorem run32_eq (w : Nat) : run32 w = (decode32 w).map exec := by
  unfold run32 decode32
  generalize w / 2 % 128 = x
  split
  · exact runM00_eq w
  · exact runM01_eq w
  · exact runM02_eq w
  · exact runM03_eq w
  · exact runM04_eq w
  · exact runM05_eq w
  · exact runM06_eq w
  · exact runM07_eq w
  · exact runM08_eq w
  · exact runM09_eq w
  · exact runM0A_eq w
  · exact runM10_eq w
  · exact runM11_eq w
  · exact runM12_eq w
  · exact runM13_eq w
  · exact runM14_eq w
  · exact runM15_eq w
  · exact runM16_eq w
  · exact runM17_eq w
  · exact runM18_eq w
  · exact runM20_eq w
  · exact runM21_eq w
  · exact runM22_eq w
  · exact runM23_eq w
  · exact runM24_eq w
  · exact runM25_eq w
  · exact runM26_eq w
  · exact runM27_eq w
  · exact runM28_eq w
  · exact runM29_eq w
  · exact runM2A_eq w
  · exact runM2B_eq w
  · exact runM2C_eq w
  · exact runM2D_eq w
  · exact runM2E_eq w
  · exact runM2F_eq w
  · exact runM30_eq w
  · exact runM31_eq w
  · exact runM32_eq w
  · exact runM33_eq w
  · exact runM34_eq w
  · exact runM35_eq w
  · exact runM36_eq w
  · exact runM37_eq w
  · exact runM38_eq w
  · exact runM39_eq w
  · exact runM3A_eq w
  · exact runM3B_eq w
  · exact runM3C_eq w
  · exact runM40_eq w
  · exact runM41_eq w
  · exact runM42_eq w
  · exact runM43_eq w
  · exact runM44_eq w
  · exact runM45_eq w
  · exact runM46_eq w
  · exact runM48_eq w
  · exact runM49_eq w
  · exact runM4A_eq w
  · exact runM4B_eq w
  · exact runM4C_eq w
  · exact runM4D_eq w
  · exact runM4E_eq w
  · exact runM4F_eq w
  · exact runM50_eq w
  · exact runM51_eq w
  · exact runM52_eq w
  · exact runM53_eq w
  · exact runM54_eq w
  · exact runM55_eq w
  · exact runM56_eq w
  · exact runM58_eq w
  · exact runM59_eq w
  · exact runM5A_eq w
  · exact runM5B_eq w
  · exact runM5C_eq w
  · exact runM5D_eq w
  · exact runM5E_eq w
  · exact runM5F_eq w
  · exact runM60_eq w
  · exact runM61_eq w
  · exact runM62_eq w
  · exact runM63_eq w
  · exact runM64_eq w
  · exact runM65_eq w
  · exact runM66_eq w
  · exact runM67_eq w
  · exact runM68_eq w
  · exact runM69_eq w
  · exact runM6A_eq w
  · exact runM6B_eq w
  · exact runM6C_eq w
  · exact runM6D_eq w
  · exact runM6E_eq w
  · exact runM70_eq w
  · exact runM71_eq w
  · exact runM72_eq w
  · exact runM73_eq w
  · exact runM74_eq w
  · exact runM75_eq w
  · exact runM76_eq w
  · exact runM77_eq w
  · exact runM78_eq w
  · exact runM7F_eq w
  · first | rfl | (split <;> first | exact absurd (Eq.refl (α := Nat) _) (by assumption) | rfl)

/-- `run16` is `decode16` followed by `exec`. -/
theorem run16_eq (w : Nat) : run16 w = (decode16 w).map exec := by
  unfold run16 decode16
  repeat' (split; all_goals try (rename_i h; simp only [h, ↓reduceIte]))
  all_goals first | (exfalso; omega) | rfl

/-- One instruction off the front of the bytes, executed; none where the bytes are no instruction. -/
noncomputable def issueBytes (bs : List Byte) (s : State) : Option Out :=
  match decode bs with
  | .ok (i, _) => some (exec i s)
  | .error _ => none

/-- As `issueBytes`, without building the instruction. -/
def runBytes (bs : List Byte) (s : State) : Option Out :=
  match bs with
  | b0 :: b1 :: t =>
    if b0.toNat % 2 = 0 then
      match run16 (b0.toNat + 256 * b1.toNat) with
      | .ok f => some (f s)
      | .error _ => none
    else
      match t with
      | b2 :: b3 :: _ =>
        match run32 (b0.toNat + 256 * b1.toNat + 65536 * b2.toNat + 16777216 * b3.toNat) with
        | .ok f => some (f s)
        | .error _ => none
      | _ => none
  | _ => none

/-- The compiler may run `runBytes` for `issueBytes`. -/
@[csimp] theorem issueBytes_eq : @issueBytes = @runBytes := by
  funext bs s
  unfold issueBytes runBytes decode
  rcases bs with _ | ⟨b0, _ | ⟨b1, t⟩⟩
  · rfl
  · rfl
  · dsimp only
    by_cases hb : b0.toNat % 2 = 0
    · simp only [hb, if_true]
      rw [run16_eq]
      cases decode16 (b0.toNat + 256 * b1.toNat) <;> rfl
    · simp only [hb, if_false]
      rcases t with _ | ⟨b2, _ | ⟨b3, u⟩⟩
      · rfl
      · rfl
      · dsimp only
        rw [run32_eq]
        cases decode32 (b0.toNat + 256 * b1.toNat + 65536 * b2.toNat + 16777216 * b3.toNat) <;> rfl

end Sys2Proof.Machine
end

