-- ==== Sys2Proof/Machine/Policy.lean ====
section
/-! DEFINITION. What surrounds `exec` in a step: the passing of time and what happens at exact times, the completion of work when the
agenda is empty, requests that wait for run boundaries, the images of pre-empted cohorts and the dump; and placing one instruction so that
the next step runs it. -/

namespace Sys2Proof.Machine

/-! ### Time -/

/-- Expansions of a core's cohorts that wait for their tables (R218). -/
def stalledExpansions (s : State) (core : Nat) : Nat :=
  (s.groups.filter (fun (g : Nat × Group) => match s.cohorts.find g.2.cid with
    | some co => co.core == core
    | none => false)).foldl (fun n g => n + (g.2.pend.filter (fun (e : Nat × Pend) => match e.2.op with
      | .ldcb k need _ _ => decide (((s.core core).slot k).ver < need)
      | _ => false)).length) 0

/-- The core-clocks a launch occupies in a time: those of every core that holds a resident cohort of it (R411). -/
def occupied (d : Nat) (s : State) (lid : Nat) : Nat :=
  let cores := ((s.cohorts.filter (fun (e : Nat × Cohort) => e.2.resident && e.2.launch == lid)).map (fun e => e.2.core)).eraseDups
  cores.foldl (fun n k => n + d * (s.therms (clusterOf k)).clock) 0

/-- Time passes by `d` ninths of a nanosecond: FLAG.HOLDCLK and CB.STALLCLK count its clocks, those of a cluster at its own rate, and launches
the core-clocks they occupy (R216, R388, R411, R412). (DESIGN CHOICE, log entry 4) -/
def passTime (d : Nat) (s : State) : State :=
  let n := (s.now + d) / 4 - s.now / 4
  let clocks (k : Nat) : Nat := let p := (s.therms (clusterOf k)).clock; (s.now + d) * p / 400 - s.now * p / 400
  let s1 := s.cores.keys.foldl (fun s k =>
    let w := stalledExpansions s k
    if w = 0 then s else s.updCore k (fun q => { q with mcnt := q.mcnt.set 0 4 ((q.mcnt.get 0 4 + w * clocks k) % 2 ^ 64) })) s
  { s1 with
    now := s1.now + d
    launches := s1.launches.map (fun (e : Nat × Launch) => (e.1, { e.2 with occ := e.2.occ + occupied d s e.1 }))
    fxcnt := s1.fxcnt.set 0 5 ((s1.fxcnt.get 0 5 + s1.heldFlags.length * n) % 2 ^ 64) }

/-- The first of some events that changes the machine. -/
def firstChange (s : State) : List (State → Out) → Option State
  | [] => none
  | f :: t => match f s with
    | .next s' => if s' = s then firstChange s t else some s'
    | _ => firstChange s t

/-- What happens at an exact time, with that time: the timeouts of waits (R326), probe answers and refusals (R349, R371), exchange rounds
(R316) and the rebuilt presence filters (R348). -/
def deadlines (s : State) : List (Nat × (State → Out)) :=
  s.groups.flatMap (fun (g : Nat × Group) => g.2.pend.filterMap (fun (e : Nat × Pend) => match e.2.op with
    | .lwait _ _ (some due) => some (waitEnd s g.2 due, execLwaitTimeout g.1 e.1)
    | _ => none)) ++
  s.probes.filterMap (fun p => if p.wait then none else some (p.due, execNotHereReply p.id)) ++
  s.refusals.map (fun (r : Nat × Pkt × Nat × Nat) => (r.2.2.2, execRefusalSend r.1)) ++
  (List.range s.npart).filterMap (fun k => let x := s.lattice k
    if x.period = 0 then none else some (x.started + x.period * 256, execExchangeRoundStart k)) ++
  s.spaces.map (fun (x : Nat × Space) => (s.filterAt.get 0 x.1 + 90000000, execFilterRebuild x.1))

/-- What is due has its effect before the present instant ends; what its own conditions hold back waits. -/
def atInstant (s : State) : Option State :=
  if s.powered then firstChange s (((deadlines s).filter (fun e => decide (e.1 ≤ s.now))).map (·.2)) else none

/-- The part of a time that passes before the next deadline. -/
def untilNext (s : State) (d : Nat) : Nat :=
  (((deadlines s).filter (fun e => decide (s.now < e.1))).map (fun e => e.1 - s.now)).foldl min d

/-- A TIME PASSES: what is due now comes first, and no deadline is passed over; the rest of the time stays first on the agenda.
(DESIGN CHOICE, log entry 4) -/
def timeStep (d : Nat) (s : State) : State :=
  match atInstant s with
  | some t => { t with agenda := .time d :: t.agenda }
  | none =>
    let n := untilNext s d
    passTime n (if n < d then { s with agenda := .time (d - n) :: s.agenda } else s)

/-! ### One turn of a slot -/

/-- An instruction whose bytes are no instruction: ILLEGAL (R72). (DEDUCED, log entry 116) -/
def undecoded (s : State) : Out :=
  match ctxOf s with
  | none => .fault .notIssuing
  | some c => .next (takeTrap c .illegal s)

/-- ONE TURN OF THE SLOT whose turn it is: the next instruction of its run, or at a run boundary the pick of a group (R61, R99). -/
def turnStep (s : State) : Out :=
  match s.runs.find s.turn with
  | none => execSlotPick s.turn s
  | some r => match issueBytes r.buf s with
    | some o => o
    | none => undecoded s

/-! ### When nothing is scheduled -/

/-- The events that can complete a pending operation (DESIGN CHOICE of an order; each does nothing where it does not apply). -/
def completions (s : State) : List (State → Out) :=
  s.groups.flatMap (fun (g : Nat × Group) =>
    let cid := g.2.cid
    g.2.pend.flatMap (fun (e : Nat × Pend) => match e.2.op with
      | .load _ => [execLoadDataArrival g.1 e.1 [] 0]
      | .atomic _ _ _ _ => [execAtomicPerform g.1 e.1]
      | .cbload k _ => execLoadDataArrival g.1 e.1 [] 0 :: (match s.cohorts.find cid with
        | some co => [execCbloadTableWrite co.core k, execCbloadQueueRoom g.1]
        | none => [])
      | .ldcb _ _ _ _ => [execLoadDataArrival g.1 e.1 [] 0]
      | .mx j => [execMatrixStepPerform cid j.zt [], execZtileQueueRoom g.1]
      | .mxrdz _ z _ => [execZtileAccessPerform cid z [], execZtileQueueRoom g.1]
      | .mxwrz _ z _ _ => [execZtileAccessPerform cid z [], execZtileQueueRoom g.1]
      | .mxt z _ _ _ => [execZtileAccessPerform cid z [], execTeamTransferArrival g.1 e.1 [], execZtileQueueRoom g.1]
      | .wavelet _ _ _ _ => [execWaveletRequestDone g.1 e.1]
      | .copy ch _ _ => [execWeightPageCheck ⟨cid, ch⟩ false, execCopyChunkDelivery cid ch false, execCopySlotFree g.1]
      | .cproot _ _ _ => [execLoadDataArrival g.1 e.1 [] 0, execLogEntryFlashWrite]
      | .lwrite _ _ _ _ => [execLatticeWritePerform g.1 e.1, execLatticeQueueRoom g.1]
      | .lget _ => [execLoadDataArrival g.1 e.1 [] 0, execLatticeQueueRoom g.1]
      | .lclr _ _ _ => [execLatticeWritePerform g.1 e.1, execLatticeQueueRoom g.1] ++ (List.range s.npart).map (fun k => execLatticePageClear k)
      | .lwait _ _ _ => [execLatticeWritePerform g.1 e.1, execLatticeQueueRoom g.1]
      | .lxnow => [execLatticeQueueRoom g.1]
      | .ltype => [execLoadDataArrival g.1 e.1 [] 0]
      | _ => []) ++
    [execStoreQueueRoom g.1, execTlbInvalidationComplete g.1] ++
    (if g.2.releasable then [execGroupRelease g.1 (Config.freeNat s.tick g.1)] else [])) ++
  (List.range s.npart).flatMap (fun k => match (s.lattice k).round with
    | some ps => (List.range (2 * ps.length)).map (fun i => execExchangeTransferArrival k i)
    | none => [execExchangeRoundStart k]) ++
  s.coh.flatMap (fun (t : Nat × LineTok) => (t.2.persist.take 1).map (fun e => execCoherenceRequest e.1 t.1 e.2)) ++
  s.heldFlags.map (fun p => execFlagStoreRelease p.src p.num) ++ [fun s => .next (progress s)] ++
  s.chains.map (fun (c : Nat × Chain) => execRecordReplay (keyGasid c.1) (keyVpn c.1))

/-- The slots of the cores that hold groups, rising. -/
def liveSlots (s : State) : List Nat :=
  let ls := s.groups.filterMap (fun (g : Nat × Group) => match s.cohorts.find g.2.cid with
    | some co => if co.resident then some (4 * co.core + g.2.idx % 4) else none
    | none => none)
  (List.range 1280).filter ls.contains

/-- A slot has a group to pick, whose code it can fetch, or a condition to deliver. -/
def slotWaits (s : State) (sl : Nat) : Bool :=
  let gs := slotGroups s sl
  !s.halted && (gs.any (fun e => !e.2.conds.isEmpty) || match chooseGroup s (gs.filter (fun e => isReady s e.1 e.2)) with
    | some (gid, g) => !fetchHeld s gid g
    | none => gs.any (fun e => isReady s e.1 e.2))

/-- WITH AN EMPTY AGENDA (DESIGN CHOICE): the run of the slot whose turn it is goes on; else the lowest slot in a run; else the lowest slot
that can pick; else what is pending completes; else a clock passes. -/
def idleStep (s : State) : Out :=
  if (s.runs.find s.turn).isSome then turnStep s
  else match s.runs with
    | (sl, _) :: _ => turnStep { s with turn := sl }
    | [] => match (liveSlots s).find? (slotWaits s) with
      | some sl => turnStep { s with turn := sl }
      | none => match firstChange s (completions s) with
        | some s' => .next s'
        | none => .next (timeStep 4 s)

/-! ### What follows every step -/

/-- What follows a step: teams whose pre-emption is requested leave, and partitions are rebuilt, once their runs have ended (R113, R403);
images of pre-empted cohorts take what has arrived (R115); after a fatal error the dump is written once no run is in progress (R414). -/
def settleStep (o : Out) : Out :=
  match o with
  | .next s => .next (tryDump (syncImages (takeRequests s)))
  | o => o

/-! ### Placing one instruction -/

/-- The role whose engine a major opcode belongs to: MATRIX for 0x50 to 0x56, COPY for 0x70 to 0x75, else VECTOR (R14, R71). -/
def roleOfMajor (m : Nat) : Role := if 0x50 ≤ m ∧ m ≤ 0x56 then .matrix else if 0x70 ≤ m ∧ m ≤ 0x75 then .copy else .vector

/-- The bytes of an instruction from its bits: one halfword if bit 0 is clear, else two (R55). -/
def wordBytes (nbits w : Nat) : List Byte := let x := w % 2 ^ nbits; if x % 2 = 0 then toBytes 2 x else toBytes 4 x

/-- A launch of one group on core 0, as loaded for `withFetchWord`. -/
def loadedLaunch : Launch := { pkt := 0, win := 64, zt := 10, ch := 8, priv := true }
/-- Its cohort. -/
def loadedCohort (lid gid core : Nat) : Cohort := { launch := lid, team := 0, tcoh := 0, core := core, cidx := 0, gids := [gid], nz := 10 }
/-- Its group. -/
def loadedGroup (cid idx : Nat) (role : Role) : Group :=
  { cid := cid, gidx := 0, idx := idx, role := role, w := 1024, vpc := List.replicate 32 (.live 0) }

/-- An instruction as what the run of the slot whose turn it is executes next; where the slot has no run, a launch of one group is
loaded that is in one. -/
def placeWord (nbits w : Nat) (s : State) : State :=
  let bs := wordBytes nbits w
  let head := w % 256 == 0xFF
  match s.runs.find s.turn with
  | some _ => s.updR s.turn (fun r => { r with buf := bs, head := head })
  | none =>
    let i := s.nextId
    { s with
      nextId := i + 3
      launches := s.launches.put i loadedLaunch
      cohorts := s.cohorts.put (i + 1) (loadedCohort i (i + 2) (s.turn / 4))
      groups := s.groups.put (i + 2) (loadedGroup (i + 1) (s.turn % 4) (roleOfMajor (w / 2 % 128)))
      runs := s.runs.put s.turn { gid := i + 2, word := 0, aset := BitVec.allOnes 32, head := head, buf := bs } }

end Sys2Proof.Machine
end

