-- ==== Sys2Proof/Machine/Step.lean ====
section
/-! DEFINITION. One step of the machine: what the agenda names next happens. -/

namespace Sys2Proof.Machine

/-- ONE STEP. The step counter advances; then a slot has its turn, an event happens, or time passes, as the head of the agenda says.
(DESIGN CHOICE, log entry 1; DEDUCED, log entry 115) -/
def step (s : State) : Host.Outcome State Fault Refusal :=
  let s1 := { s with tick := s.tick + 1 }
  match s.agenda with
  | [] => settleStep (idleStep s1)
  | .issue sl :: t => settleStep (turnStep { s1 with agenda := t, turn := sl })
  | .event i :: t => settleStep (exec i { s1 with agenda := t })
  | .time d :: t => settleStep (.next (timeStep d { s1 with agenda := t }))

/-- `s` with an instruction placed so that the next step fetches and runs it: it stands in the run of the slot whose turn it is, and that
slot's turn is next. (DESIGN CHOICE, log entry 5) -/
def State.withFetchWord (s : State) (nbits w : Nat) : State :=
  let s1 := placeWord nbits w s
  { s1 with agenda := .issue s1.turn :: s1.agenda }

end Sys2Proof.Machine
end

