-- ==== Sys2Proof/Safety.lean ====
section
/-! DEFINITION. The vocabulary of statements about the machine: what an instruction may change, what a register holds, and the shape
of an instruction's completion. Nothing here is used by the machine. -/

namespace Sys2Proof.Machine

/-! ### What an instruction leaves alone -/

/-- The group without the model's own notes: what its pending operations keep about registers overwritten meanwhile (R20, R249), and which
lanes what is pending belongs to (R176). What remains is every register, sidecar, control register, token, wait and pending operation of
the group. -/
def Group.unnoted (g : Group) : Group :=
  { g with lanesAt := [], pend := g.pend.map (fun e => (e.1, { e.2 with clob := [], olds := [] })) }

/-- The run without the values overwritten earlier in it (R120). -/
def Run.unnoted (r : Run) : Run := { r with olds := [] }

/-- `s1` differs from `s` in the issuing group, which is now `g1`, and in the run on the issuing slot, which is now `r1`, and in
nothing else: no other group or run, no cohort, launch or unit, no byte of memory. -/
structure OnlyIssuer (c : Ctx) (s s1 : State) (g1 : Group) (r1 : Run) : Prop where
  rest : s1 = { s with groups := s1.groups, runs := s1.runs }
  group : s1.groups.find c.run.gid = some g1
  groups : ∀ j, j ≠ c.run.gid → s1.groups.find j = s.groups.find j
  run : s1.runs.find c.slot = some r1
  runs : ∀ k, k ≠ c.slot → s1.runs.find k = s.runs.find k
  bytes : ∀ a, cellGet s1.mem a = cellGet s.mem a

/-- THE COMPLETION OF AN INSTRUCTION of `sz` bytes: it answers a next state, in which its own effect has made the issuing group `g1`
and its run `r1`, has changed the state elsewhere only as `base` says, and the run has stepped past it (`retire`). -/
def DoesOn (i : Instr) (sz : Nat) (c : Ctx) (s base : State) (g1 : Group) (r1 : Run) : Prop :=
  ∃ s1 g r, exec i s = .next (retire sz c.slot s1) ∧ OnlyIssuer c base s1 g r ∧
    g.unnoted = g1.unnoted ∧ r.unnoted = r1.unnoted

/-- `DoesOn` for an instruction whose effect is confined to its group and run. -/
def Does (i : Instr) (sz : Nat) (c : Ctx) (s : State) (g1 : Group) (r1 : Run) : Prop := DoesOn i sz c s s g1 r1

/-- A group with the register writes of one operation in it, in order, those of one location at once (R120). -/
def Group.putAll (g : Group) (ws : List Wr) : Group :=
  (joinWrs ws).foldl (fun g w => g.setLoc w.loc (merge (g.getLoc w.loc) w)) g

/-- A list of targets for the live lanes of the active set, entered over those a run already has. -/
def Run.target (r : Run) (lanes : List Nat) (f : Nat → Option Nat) : Run :=
  { r with xfer := lanes.foldl (fun acc L => match f L with
      | some x => Tab.put acc L x
      | none => acc) r.xfer }

/-! ### What vector registers hold -/

/-- The 32-bit word `L` of register `reg` as it is held: a window register of the group, or a temporary of the run (R66, R91). -/
def heldWord (g : Group) (r : Run) (tick reg L : Nat) : Nat :=
  if 2000 ≤ reg then ((r.t.find (32 * (reg - 2000) + L)).getD (Config.freeWord tick (32 * (reg - 2000) + L))).toNat
  else (laneWord (g.vGet reg) L).toNat

/-- Element `e` of width `w` of an operand as it is held (R220). -/
def heldEl (g : Group) (r : Run) (tick : Nat) (o : VOp) (w e : Nat) : Nat :=
  let reg := o.reg (e * w / 1024)
  let off := e * w % 1024
  if w ≤ 32 then heldWord g r tick reg (off / 32) / 2 ^ (off % 32) % 2 ^ w
  else heldWord g r tick reg (off / 32) + heldWord g r tick reg (off / 32 + 1) * 2 ^ 32

/-- What a lane instruction writes to element `e` of width `w` by its class (R222): nothing outside the active set; behind `vl` ones
where TA is 1; where the predicate fails ones where MA is 1; else the result. -/
def laneNew (c : Ctx) (w : Nat) (pred : Nat → Bool) (f : Nat → ElRes) (e : Nat) : Option Nat :=
  if !c.act (laneOf w e) then none
  else if c.g.vl ≤ e then (if c.g.ta then some (2 ^ w - 1) else none)
  else if !pred e then (if c.g.ma then some (2 ^ w - 1) else none)
  else some ((f e).val % 2 ^ w)

/-- The active elements of live lanes, those that set flags (R48, R53, R88). -/
def flagEls (c : Ctx) (w n : Nat) (pred : Nat → Bool) : List Nat :=
  (List.range (1024 / w * n)).filter (fun e => activeEl c w pred e && c.g.isLive (laneOf w e))

/-- The group with the flags and `sat` of a lane instruction's active elements added (R48). -/
def Group.flagged (g : Group) (els : List Nat) (f : Nat → ElRes) (more : Nat) : Group :=
  { g with fflags := els.foldl (fun a e => a ||| (f e).flags) (g.fflags ||| more), sat := g.sat || els.any (fun e => (f e).sat) }

/-- THE COMPLETION OF A LANE INSTRUCTION with destination `o` of elements of width `w`. The blocks `rc` reconstructed are in the
registers first (R226); then element `e` holds `new e`, or what it held where that is none; no other vector word changes; a register
of the destination with an element written has tag `tag`, every other keeps its own; the rest of the group is `gx`, the run changes
at most in its temporaries, and the state elsewhere at most in the counters of the reconstruction (R295). -/
structure LaneDone (i : Instr) (sz : Nat) (c : Ctx) (s : State) (rc : Recon) (o : VOp) (w tag : Nat) (new : Nat → Option Nat)
    (gx : Group) (s1 : State) (g : Group) (r : Run) : Prop where
  next : exec i s = .next (retire sz c.slot s1)
  only : OnlyIssuer c (countRecon c.co.core rc s) s1 g r
  els : ∀ e, e < 1024 / w * o.n →
    heldEl g r c.tick o w e = (new e).getD (heldEl (c.g.putAll rc.res.wrs) c.run c.tick o w e)
  words : ∀ reg L, L < 32 → (∀ k, k < o.n → reg ≠ o.reg k) →
    heldWord g r c.tick reg L = heldWord (c.g.putAll rc.res.wrs) c.run c.tick reg L
  tags : ∀ reg, reg < 256 →
    g.tagGet reg = if o.temp = false ∧ o.idx ≤ reg ∧ reg < o.idx + o.n ∧
        (List.range (1024 / w)).any (fun k => (new (1024 / w * (reg - o.idx) + k)).isSome) then BitVec.ofNat 8 tag
      else (c.g.putAll rc.res.wrs).tagGet reg
  group : g.unnoted = { gx.unnoted with v := g.v, tag := g.tag }
  run : r.unnoted = { c.run.unnoted with t := r.t }

/-- The destination lies among the registers there are: v0 to v255, t0 to t7 (R65, R66). -/
def VOp.exists' (o : VOp) : Prop := 1 ≤ o.n ∧ o.n ≤ 8 ∧ if o.temp then o.idx + o.n ≤ 8 else o.idx + o.n ≤ 256

/-! ### The lane instructions, form by form -/

/-- A LANE INSTRUCTION with a destination group written element by element. `ops` gives its operands, the destination first, and `tagged`
those whose domain tags count; `res` is the result of an element, read after reconstruction. In order: an operand check traps (R61); the tags
call for a trap (R224 to R226); else the instruction completes as `LaneDone` says, each element by its class (R222). -/
def ElementForm (i : Instr) (sz : Nat) (c : Ctx) (s : State) (legal : Bool) (detail : Nat) (d : VOp) (srcs tagged : List VOp) (w : Nat)
    (k : TagClass) (F : Option Fmt) (pred : Ctx → Nat → Bool) (res : Ctx → Nat → ElRes) : Prop :=
  (∀ t, laneChecks c legal detail [d] (d :: srcs) = .error t → exec i s = .next (takeTrap c t s)) ∧
  (laneChecks c legal detail [d] (d :: srcs) = .ok () →
    (∀ t, tagRule c k tagged F = .error t → exec i s = .next (takeTrap c t s)) ∧
    (∀ tag rc, tagRule c k tagged F = .ok (tag, rc) → d.exists' → (∀ o ∈ srcs, o.exists') →
      let c' := c.after rc.res.wrs
      ∃ s1 g r, LaneDone i sz c s rc d w tag (laneNew c' w (pred c') (res c'))
        (c.g.flagged (flagEls c' w d.n (pred c')) (res c') rc.res.flags) s1 g r))

/-- Format LV with two vector sources; the old destination is a third where `readsD` (R230, R231). -/
def FormVV (mk : LV → Instr) (legal : Ctx → Bool) (k : TagClass) (readsD : Bool) (op : Ctx → Nat → Nat → Nat → ElRes) : Prop :=
  ∀ (s : State) (c : Ctx) (f : LV), ctxOf s = some c → c.g.sew ≤ 64 →
    let d := bankOp c f.vb f.vd c.g.grp
    let a := bankOp c f.vb f.vs1 c.g.grp
    let b := bankOp c f.vb f.vs2 c.g.grp
    ElementForm (mk f) 4 c s (legal c) 2 d [a, b] (if readsD then [d, a, b] else [a, b]) c.g.sew k (reconFmt c.g.sew)
      (fun c' => predOf c' f.pr) (fun c' e => op c' (elt c' a c.g.sew e) (elt c' b c.g.sew e) (elt c' d c.g.sew e))

/-- Format LV with a vector and one value for every element: the low SEW bits of a scalar, or an immediate (R230). -/
def FormVX (mk : LV → Instr) (legal : Ctx → Bool) (k : TagClass) (readsD scalar : Bool) (op : Ctx → Nat → Nat → Nat → ElRes) : Prop :=
  ∀ (s : State) (c : Ctx) (f : LV), ctxOf s = some c → c.g.sew ≤ 64 →
    let d := bankOp c f.vb f.vd c.g.grp
    let a := bankOp c f.vb f.vs1 c.g.grp
    ElementForm (mk f) 4 c s (legal c) 2 d [a] (if readsD then [d, a] else [a]) c.g.sew k (reconFmt c.g.sew)
      (fun c' => predOf c' f.pr)
      (fun c' e => op c' (elt c' a c.g.sew e) (if scalar then c'.sn f.vs2 % 2 ^ c.g.sew else f.vs2) (elt c' d c.g.sew e))

/-- Format LW with one vector source (R64, R229). -/
def FormLW (mk : LW → Instr) (legal : Ctx → Bool) (k : TagClass) (op : Ctx → Nat → ElRes) : Prop :=
  ∀ (s : State) (c : Ctx) (f : LW), ctxOf s = some c → c.g.sew ≤ 64 →
    let d := wideOp c f.a f.ia c.g.grp
    let b := wideOp c f.b f.ib c.g.grp
    ElementForm (mk f) 4 c s (legal c) 2 d [b] [b] c.g.sew k (reconFmt c.g.sew) (fun c' => predOf c' f.pr)
      (fun c' e => op c' (elt c' b c.g.sew e))

/-- A 16-bit form: whole words, whatever `vl` and `vtype` say (R63, R227). -/
def FormHalf (mk : HF → Instr) (k : TagClass) (F : Fmt) (op : Ctx → Nat → Nat → ElRes) : Prop :=
  ∀ (s : State) (c : Ctx) (f : HF), ctxOf s = some c → f.vd < 256 →
    let d : VOp := ⟨f.vd, 1, false⟩
    let v : VOp := ⟨f.vs, 1, false⟩
    (∀ t, laneChecks c true 0 [d] [d, v] = .error t → exec (mk f) s = .next (takeTrap c t s)) ∧
    (laneChecks c true 0 [d] [d, v] = .ok () →
      (∀ t, tagRule c k [d, v] (some F) = .error t → exec (mk f) s = .next (takeTrap c t s)) ∧
      (∀ tag rc, tagRule c k [d, v] (some F) = .ok (tag, rc) →
        let c' := c.after rc.res.wrs
        let p := fun L => c'.act L && (f.m == 0 || (c'.m 0).getLsbD L)
        let res := fun L => op c' (c'.vw f.vd L) (c'.vw f.vs L)
        let fl := ((List.range 32).filter (fun L => p L && c.g.isLive L)).foldl (fun a L => a ||| (res L).flags)
          (c.g.fflags ||| rc.res.flags)
        ∃ s1 g r, LaneDone (mk f) 2 c s rc d 32 tag (fun L => if p L then some ((res L).val % 2 ^ 32) else none)
          { c.g with fflags := fl } s1 g r))

/-- A compare, its destination a mask register: bit e of an element below VLMAX follows the classes of R222 bit by bit; every other bit
stays (R223). -/
def FormCompare (mk : LV → Instr) (legal : Ctx → Bool) (op : Ctx → Nat → Nat → ElRes) : Prop :=
  ∀ (s : State) (c : Ctx) (f : LV), ctxOf s = some c → c.g.sew ≤ 64 → f.vd < 16 →
    let a := bankOp c f.vb f.vs1 c.g.grp
    let b := bankOp c f.vb f.vs2 c.g.grp
    (∀ t, laneChecks c (legal c) 2 [] [a, b] = .error t → exec (mk f) s = .next (takeTrap c t s)) ∧
    (laneChecks c (legal c) 2 [] [a, b] = .ok () →
      (∀ t, tagRule c .nonlinear [a, b] (reconFmt c.g.sew) = .error t → exec (mk f) s = .next (takeTrap c t s)) ∧
      (∀ tag rc, tagRule c .nonlinear [a, b] (reconFmt c.g.sew) = .ok (tag, rc) → a.exists' → b.exists' →
        let c' := c.after rc.res.wrs
        let w := c.g.sew
        let res := fun e => op c' (elt c' a w e) (elt c' b w e)
        let els := (List.range (min 1024 c.g.vlmax)).filter (fun e => activeEl c' w (predOf c' f.pr) e && c'.g.isLive (laneOf w e))
        let fl := els.foldl (fun y e => y ||| (res e).flags) (c.g.fflags ||| rc.res.flags)
        ∃ x : VReg, DoesOn (mk f) 4 c s (countRecon c.co.core rc s)
            { ((c.g.putAll rc.res.wrs).mSet f.vd x) with fflags := fl } c.run ∧
          ∀ e, e < 1024 → x.getLsbD e =
            if c.g.vlmax ≤ e ∨ c'.act (laneOf w e) = false then (c.g.mGet f.vd).getLsbD e
            else if c.g.vl ≤ e then (c.g.ta || (c.g.mGet f.vd).getLsbD e)
            else if predOf c' f.pr e = false then (c.g.ma || (c.g.mGet f.vd).getLsbD e)
            else decide ((res e).val % 2 = 1)))

/-- THE COMPLETION OF A BLOCK INSTRUCTION (R235) with destination `o` of elements of width `w`, `n` of them in a block, the blocks `rc`
reconstructed first. `res k` gives the elements of block `k`, each with its flags, and the scale where one is written; none for a block that
is not processed. Element `e` below `vl` of a processed block holds its result, one behind `vl` takes the tail policy; every other element,
scale byte and word holds what it held; a register with an element written has tag `tag`; flags come from elements below `vl` in live lanes. -/
structure BlocksDone (i : Instr) (c : Ctx) (s : State) (rc : Recon) (o : VOp) (w n tag : Nat)
    (res : Nat → Option (List (Nat × Nat) × Option Nat)) (s1 : State) (g : Group) (r : Run) : Prop where
  next : exec i s = .next (retire 4 c.slot s1)
  only : OnlyIssuer c (countRecon c.co.core rc s) s1 g r
  els : ∀ e, e < 1024 / w * o.n →
    let old := heldEl (c.g.putAll rc.res.wrs) c.run c.tick o w e
    heldEl g r c.tick o w e = match res (e / n) with
      | none => old
      | some b => if e < c.g.vl then (b.1.getD (e % n) (0, 0)).1 % 2 ^ w else if c.g.ta then 2 ^ w - 1 else old
  words : ∀ reg L, L < 32 → (∀ k, k < o.n → reg ≠ o.reg k) →
    heldWord g r c.tick reg L = heldWord (c.g.putAll rc.res.wrs) c.run c.tick reg L
  scales : ∀ reg j, reg < 256 → j < 8 → (g.scaleGet reg).toNat / 256 ^ j % 256 =
    let per := 1024 / w / n
    match (if o.temp = false ∧ o.idx ≤ reg ∧ reg < o.idx + o.n ∧ j < per then res (per * (reg - o.idx) + j) else none) with
    | some (_, some x) => x % 256
    | _ => (c.g.scaleGet reg).toNat / 256 ^ j % 256
  tags : ∀ reg, reg < 256 →
    g.tagGet reg = if o.temp = false ∧ o.idx ≤ reg ∧ reg < o.idx + o.n ∧
        (List.range (1024 / w)).any (fun k => let e := 1024 / w * (reg - o.idx) + k
          (res (e / n)).isSome && (decide (e < c.g.vl) || c.g.ta)) then BitVec.ofNat 8 tag
      else (c.g.putAll rc.res.wrs).tagGet reg
  flags : ∀ x, g.fflags.testBit x = ((c.g.fflags ||| rc.res.flags).testBit x ||
    (List.range (1024 / w * o.n)).any (fun e => match res (e / n) with
      | none => false
      | some b => decide (e < c.g.vl) && c.g.isLive (laneOf w e) && ((b.1.getD (e % n) (0, 0)).2).testBit x))
  group : g.unnoted = { c.g.unnoted with v := g.v, tag := g.tag, scale := g.scale, fflags := g.fflags }
  run : r.unnoted = { c.run.unnoted with t := r.t }

/-- A conversion of majors 0x40 to 0x43: no pair for T and SEW, or more than eight registers on a side, is ILLEGAL; else each element whose
lanes on both sides are active is converted by its class, with the random word of its place (R40, R43, R233); under SR a conversion of
some active element advances `sgen` once (R39). -/
def FormConvert (mk : LW → Instr) (pair : Nat → Option Conv) : Prop :=
  ∀ (s : State) (c : Ctx) (f : LW), ctxOf s = some c → c.g.sew ≤ 64 →
    let w := c.g.sew
    (pair w = none → exec (mk f) s = .next (takeTrap c { code := 0x01, detail := 2 } s)) ∧
    (∀ v, pair w = some v →
      let gd := c.g.grp * (v.dst.bits / w)
      let gs := c.g.grp * (v.src.bits / w)
      let d := wideOp c f.a f.ia gd
      let b := wideOp c f.b f.ib gs
      (8 < max gd gs → exec (mk f) s = .next (takeTrap c { code := 0x01 } s)) ∧
      (max gd gs ≤ 8 →
        (∀ t, laneChecks c true 0 [d] [d, b] = .error t → exec (mk f) s = .next (takeTrap c t s)) ∧
        (laneChecks c true 0 [d] [d, b] = .ok () →
          (∀ t, tagRule c .copy [b] (reconFmt w) = .error t → exec (mk f) s = .next (takeTrap c t s)) ∧
          (∀ tag rc, tagRule c .copy [b] (reconFmt w) = .ok (tag, rc) → d.exists' → b.exists' →
            let c' := c.after rc.res.wrs
            let wd := v.dst.bits
            let mode : Rm := if v.rtz then .rtz else c.g.rm
            let both := fun e => c.act (laneOf wd e) && c.act (laneOf v.src.bits e)
            let res := fun e => v.eval mode c.g.fz (srWord c.g.sgen (laneOf wd e) (srPlace wd e)) (elt c' b v.src.bits e)
            let els := (flagEls c wd d.n (predOf c f.pr)).filter both
            let gx := c.g.flagged els res rc.res.flags
            let any := (List.range (1024 / w * c.g.grp)).any (fun e => decide (e < c.g.vl) && both e && predOf c f.pr e)
            ∃ s1 g r, LaneDone (mk f) 4 c s rc d wd tag
              (fun e => if both e then laneNew c wd (predOf c f.pr) res e else none)
              (if mode = .sr ∧ any = true then { gx with sgen := sgenAdvance c.g.sgen } else gx) s1 g r))))

/-- A cross-lane instruction that writes the member elements of vD (R240): MEMBER where a member lane is not active, the tail policy behind
`vl` in member lanes, nothing in other lanes; `val` is the result of a member element and `fl` the flags, read after reconstruction. -/
def FormCross (i : Instr) (s : State) (c : Ctx) (legal : Bool) (d m : Nat) (srcs tagged : List VOp) (val : Ctx → Word32 → Nat → Nat)
    (fl : Ctx → Word32 → Nat) : Prop :=
  let vd : VOp := ⟨d, c.g.grp, false⟩
  let w := c.g.sew
  let mem := (c.m m).setWidth 32
  let bad := mem &&& ~~~c.run.aset
  (∀ t, laneChecks c legal 2 [vd] (vd :: srcs) = .error t → exec i s = .next (takeTrap c t s)) ∧
  (laneChecks c legal 2 [vd] (vd :: srcs) = .ok () →
    (bad ≠ 0 → exec i s = .next (takeTrap c { code := 0x04, lanes := some bad.toNat } s)) ∧
    (bad = 0 →
      (∀ t, tagRule c .nonlinear tagged (reconFmt w) = .error t → exec i s = .next (takeTrap c t s)) ∧
      (∀ tag rc, tagRule c .nonlinear tagged (reconFmt w) = .ok (tag, rc) → vd.exists' → (∀ o ∈ srcs, o.exists') →
        let c' := c.after rc.res.wrs
        let flags := c.g.fflags ||| (rc.res.flags ||| fl c' mem)
        ∃ s1 g r, LaneDone i 4 c s rc vd w tag
          (fun e => if inSet mem (laneOf w e) then
              (if e < c.g.vl then some (val c' mem e % 2 ^ w) else if c.g.ta then some (2 ^ w - 1) else none) else none)
          { c.g with fflags := flags } s1 g r)))

/-- A reduction (R243): sD receives `val` of the member elements, a list in ascending element order; `fl` are its flags. -/
def FormReduce (mk : Nat → Nat → Nat → Instr) (legal : Ctx → Bool) (val : Ctx → VOp → List Nat → Word64) (fl : Ctx → VOp → List Nat → Nat) : Prop :=
  ∀ (s : State) (c : Ctx) (d m v : Nat), ctxOf s = some c → c.g.sew ≤ 64 → d < 64 →
    let vs : VOp := ⟨v, c.g.grp, false⟩
    let mem := (c.m m).setWidth 32
    let bad := mem &&& ~~~c.run.aset
    (∀ t, laneChecks c (legal c) 2 [] [vs] = .error t → exec (mk d m v) s = .next (takeTrap c t s)) ∧
    (laneChecks c (legal c) 2 [] [vs] = .ok () →
      (bad ≠ 0 → exec (mk d m v) s = .next (takeTrap c { code := 0x04, lanes := some bad.toNat } s)) ∧
      (bad = 0 →
        (∀ t, tagRule c .nonlinear [vs] (reconFmt c.g.sew) = .error t → exec (mk d m v) s = .next (takeTrap c t s)) ∧
        (∀ tag rc, tagRule c .nonlinear [vs] (reconFmt c.g.sew) = .ok (tag, rc) → vs.exists' →
          let c' := c.after rc.res.wrs
          let els := (List.range (1024 / c.g.sew * c.g.grp)).filter (fun e => decide (e < c.g.vl) && inSet mem (laneOf c.g.sew e))
          let flags := c.g.fflags ||| (rc.res.flags ||| fl c' vs els)
          DoesOn (mk d m v) 4 c s (countRecon c.co.core rc s)
            { ((c.g.putAll rc.res.wrs).sSet d (val c' vs els)) with fflags := flags } c.run)))

/-- One element folded into the ordered sum or extremum of R243: the first passes through *Round*, each later one through `step`; flags come
from live lanes. -/
def orderedStep (c : Ctx) (o : VOp) (step : Nat → Nat → ElRes) (acc : Option Nat × Nat) (e : Nat) : Option Nat × Nat :=
  let E := fenvSew c
  let x := elt c o c.g.sew e
  let r := match acc.1 with
    | none => E.out (E.dec x, if (E.dec x).isSig then Fl.nv else 0)
    | some a => step a x
  (some r.val, if c.g.isLive (laneOf c.g.sew e) then acc.2 ||| r.flags else acc.2)

/-- Nothing of a group waits for its store queue: the queue is empty, no access stays behind an acquire, no `FENCE.ACK` is pending, and no
wait of the group or of its runs stands behind a release (R142, R186, R212). Settling its queue then changes nothing. -/
def Settled (s : State) (gid : Nat) (g : Group) : Prop :=
  g.stq = [] ∧ g.stqWait = [] ∧ g.acq = [] ∧ (∀ e ∈ g.pend, e.2.op ≠ .fenceAck) ∧
    (∀ w ∈ g.waits ++ g.keptWaits ++ g.runWaits, ∀ b sb id, w ≠ .barAfter b sb id) ∧
    ∀ e ∈ s.runs, e.2.gid = gid → ∀ w ∈ e.2.waits, ∀ b sb id, w ≠ .barAfter b sb id

/-- Nothing of the issuing group is outstanding: it holds no store, waits for none, has no pending operation and no fabric request, and its
gang has not ended. -/
def Quiet (s : State) (c : Ctx) : Prop :=
  Settled s c.run.gid c.g ∧ c.g.pend = [] ∧ c.g.parked = false ∧ c.g.ended = false ∧ c.g.ending = false ∧
    ∀ e ∈ s.reqs, e.2.gid ≠ c.run.gid

/-- The waits a group is left with at a run boundary in `s`: none once all of them hold (R129). -/
def waitsLeft (s : State) (g : Group) (ws : List Wait) : List Wait :=
  match s.cohorts.find g.cid with
  | none => ws
  | some co => match s.launches.find co.launch with
    | none => ws
    | some la => if ws.all (waitHolds s g co la) then [] else ws

/-- Nothing of this device waits: every group is settled, no request stalls at a locked line, no move is kept. -/
def Calm (s : State) : Prop := (∀ gid g, s.groups.find gid = some g → Settled s gid g) ∧ s.stalled = [] ∧ s.moves = []

/-! ### Memory -/

/-- The usual case of an access of `n` bytes: its bytes are at physical address `pa` on an ordinary resident page, no copy engine and no
other agent claims their line, and it is not poisoned (R158, R169, R171, R311). -/
def Here (s : State) (c : Ctx) (a : Acc) (ptr n pa : Nat) : Prop :=
  placeOf s (whoOf s c) a ptr n = .ok (.phys pa 1) ∧ (∀ id write, mustWait s (whoOf s c) id ptr (.phys pa 1) write = false) ∧
    pa / 128 ∉ s.poison

/-- Memory after an access is as before it but for `n` bytes from `pa`, and for the 8 bytes of the leaf entry that translated `ptr`, in which
the walker sets A and D (R165). -/
def OnlyBytes (s : State) (c : Ctx) (a : Acc) (ptr pa n : Nat) (s1 : State) : Prop :=
  ∀ x, xlate s (whoOf s c) a (ptr % 2 ^ 60) = .ok x → ∀ y, y < pa ∨ pa + n ≤ y → y < x.leaf.addr ∨ x.leaf.addr + 8 ≤ y →
    cellGet s1.mem y = cellGet s.mem y

/-- The faults of an instruction's elements: those of live lanes, ascending (R88, R199). -/
def liveFaults (c : Ctx) (els : List Nat) (f : Nat → Option Trap) : List (Nat × Trap) :=
  (els.filter (fun e => c.g.isHelper (laneOf c.g.sew e) = false)).filterMap (fun e => (f e).map (fun t => (e, t)))

/-- The fault of one access of `n` bytes, if it has one. -/
def faultAt (s : State) (c : Ctx) (a : Acc) (ptr n : Nat) : Option Trap :=
  match placeOf s (whoOf s c) a ptr n with
  | .ok _ => none
  | .error t => some t

/-- A MEMORY INSTRUCTION: a register group that leaves the window traps (R65), then the checks of its token and elements (R61, R199); else it
completes as `s1` and the run steps past it. -/
def MemForm (i : Instr) (c : Ctx) (s : State) (os : List VOp) (tok : Option Nat) (faults : List (Nat × Trap)) (s1 : State) : Prop :=
  (∀ t, groupsFit c os = .error t → exec i s = .next (takeTrap c t s)) ∧
  (groupsFit c os = .ok () →
    (∀ t, memChecks c tok (worst c c.g.sew faults) = .error t → exec i s = .next (takeTrap c t s)) ∧
    (memChecks c tok (worst c c.g.sew faults) = .ok () → exec i s = .next (retire 4 c.slot s1)))

/-- THE COMPLETION OF AN ASYNCHRONOUS INSTRUCTION: the run steps past it; the group has the pending operation `op` under the next id and its token
`k` pending, and every register as before (`lanesAt` notes which lanes it belongs to, R176); no other group and no byte of memory changes
(R16, R199). -/
def Binds (i : Instr) (c : Ctx) (s : State) (k : Nat) (op : POp) : Prop :=
  ∃ s1 p, exec i s = .next (retire 4 c.slot s1) ∧ p.op = op ∧ p.tok = some k ∧
    s1.groups.find c.run.gid = some { c.g with tk := c.g.tk ||| BitVec.ofNat 16 (2 ^ k), pend := c.g.pend.put s.nextId p,
                                                       lanesAt := c.g.lanesAt.set (2 ^ 32 - 1) s.nextId (threads c) } ∧
    (∀ j, j ≠ c.run.gid → s1.groups.find j = s.groups.find j) ∧ (∀ a, cellGet s1.mem a = cellGet s.mem a) ∧ s1.sram = s.sram

end Sys2Proof.Machine
end

