-- ==== Sys2Proof/Certificates/Slice0/Obligations.lean ====
section
/-! DEFINITION. The statements about the machine that are to be proved. Each formalises rules of the spec, named in its docstring. `c`
is always the context of the instruction a slot executes: its run, group, cohort and launch. -/

open Sys2Proof Sys2Proof.Machine

/-! ### Scalar instructions -/

/-- R130, R131, R70: the two-operand scalar instructions of major 0x10. sD receives the value the table gives, s0 as destination discards
it, and nothing else changes. The values are written with the bit-vector operations of Lean, not with the model's. -/
def Obligations.ScalarBinaryResults : Prop :=
  ∀ row ∈ ([(.add, fun x y => x + y), (.sub, fun x y => x - y), (.mul, fun x y => x * y),
      (.mulh, fun x y => BitVec.extractLsb' 64 64 (x.signExtend 128 * y.signExtend 128)),
      (.mulhu, fun x y => BitVec.extractLsb' 64 64 (x.setWidth 128 * y.setWidth 128)),
      (.div, fun x y => if y = 0 then BitVec.allOnes 64 else x.sdiv y),
      (.divu, fun x y => if y = 0 then BitVec.allOnes 64 else x / y),
      (.rem, fun x y => if y = 0 then x else x.srem y), (.remu, fun x y => if y = 0 then x else x % y),
      (.and, fun x y => x &&& y), (.or, fun x y => x ||| y), (.xor, fun x y => x ^^^ y), (.andn, fun x y => x &&& ~~~y),
      (.shl, fun x y => x <<< (y.toNat % 64)), (.shr, fun x y => x >>> (y.toNat % 64)),
      (.sra, fun x y => x.sshiftRight (y.toNat % 64)), (.ror, fun x y => x.rotateRight (y.toNat % 64)),
      (.slt, fun x y => if x.slt y then 1 else 0), (.sltu, fun x y => if x.ult y then 1 else 0),
      (.seq, fun x y => if x = y then 1 else 0), (.min, fun x y => if x.slt y then x else y),
      (.max, fun x y => if x.slt y then y else x), (.minu, fun x y => if x.ult y then x else y),
      (.maxu, fun x y => if x.ult y then y else x)] : List ((Nat → Nat → Nat → Instr) × (Word64 → Word64 → Word64))),
    ∀ (s : State) (c : Ctx) (d a b : Nat), ctxOf s = some c → d < 64 →
      Does (row.1 d a b) 4 c s (c.g.sSet d (row.2 (c.s a) (c.s b))) c.run

/-- R130: `CLZ` counts the zero bits above the highest one bit, `POPC` the one bits. R132 to R135: the scalar instructions with an
immediate, for every value the encoding holds. -/
def Obligations.ScalarCountsAndImmediates : Prop :=
  (∀ (s : State) (c : Ctx) (d a : Nat), ctxOf s = some c → d < 64 →
     Does (.clz d a) 4 c s (c.g.sSet d (BitVec.ofNat 64 ((List.range 64).reverse.takeWhile (fun i => !(c.s a).getLsbD i)).length)) c.run ∧
     Does (.popc d a) 4 c s (c.g.sSet d (BitVec.ofNat 64 ((List.range 64).countP (fun i => (c.s a).getLsbD i)))) c.run) ∧
  (∀ (s : State) (c : Ctx) (d a : Nat), ctxOf s = some c → d < 64 →
     (∀ imm : Int, -2048 ≤ imm → imm ≤ 2047 →
       Does (.addi d a imm) 4 c s (c.g.sSet d (c.s a + BitVec.ofInt 64 imm)) c.run ∧
       Does (.andi d a imm) 4 c s (c.g.sSet d (c.s a &&& BitVec.ofInt 64 imm)) c.run ∧
       Does (.ori d a imm) 4 c s (c.g.sSet d (c.s a ||| BitVec.ofInt 64 imm)) c.run ∧
       Does (.xori d a imm) 4 c s (c.g.sSet d (c.s a ^^^ BitVec.ofInt 64 imm)) c.run) ∧
     (∀ n : Nat, n < 64 →
       Does (.shli d a n) 4 c s (c.g.sSet d (c.s a <<< n)) c.run ∧
       Does (.shri d a n) 4 c s (c.g.sSet d (c.s a >>> n)) c.run ∧
       Does (.srai d a n) 4 c s (c.g.sSet d ((c.s a).sshiftRight n)) c.run ∧
       Does (.rori d a n) 4 c s (c.g.sSet d ((c.s a).rotateRight n)) c.run) ∧
     (∀ imm : Int, -131072 ≤ imm → imm ≤ 131071 →
       Does (.lui d imm) 4 c s (c.g.sSet d (BitVec.ofInt 64 imm <<< 12)) c.run) ∧
     (∀ imm : Int, -512 ≤ imm → imm ≤ 511 →
       Does (.seqi d a imm) 4 c s (c.g.sSet d (if c.s a = BitVec.ofInt 64 imm then 1 else 0)) c.run ∧
       Does (.slti d a imm) 4 c s (c.g.sSet d (if (c.s a).slt (BitVec.ofInt 64 imm) then 1 else 0)) c.run ∧
       Does (.sltiu d a imm) 4 c s (c.g.sSet d (if (c.s a).ult (BitVec.ofInt 64 imm) then 1 else 0)) c.run ∧
       Does (.sgti d a imm) 4 c s (c.g.sSet d (if (BitVec.ofInt 64 imm).slt (c.s a) then 1 else 0)) c.run))

/-- R136: pointer construction, by the fields of the 64-bit result, and the trap of `PRANK` on a rank of 4,096 or more. -/
def Obligations.PointerConstruction : Prop :=
  ∀ (s : State) (c : Ctx) (d a b : Nat), ctxOf s = some c → d < 64 →
    (∀ k, k < 8 → Does (.pspace d a k) 4 c s
      (c.g.sSet d ((c.s a).extractLsb' 63 1 ++ BitVec.ofNat 3 k ++ (c.s a).extractLsb' 0 60 : BitVec (1 + 3 + 60))) c.run) ∧
    (c.sn b < 4096 → Does (.prank d a b) 4 c s
      (c.g.sSet d ((c.s a).extractLsb' 63 1 ++ BitVec.ofNat 3 1 ++ BitVec.ofNat 12 (c.sn b) ++ (c.s a).extractLsb' 0 48 :
        BitVec (1 + 3 + 12 + 48))) c.run) ∧
    (4096 ≤ c.sn b → exec (.prank d a b) s = .next (takeTrap c { code := 0x07, addr := c.sn b } s)) ∧
    (∀ p, p < 2 → Does (.ppol d a p) 4 c s
      (c.g.sSet d (BitVec.ofNat 1 p ++ (c.s a).extractLsb' 0 63 : BitVec (1 + 63))) c.run) ∧
    Does (.pget d a 0) 4 c s (c.g.sSet d (((c.s a).extractLsb' 60 3).setWidth 64)) c.run ∧
    Does (.pget d a 1) 4 c s
      (c.g.sSet d (if (c.s a).extractLsb' 60 3 = 1 then ((c.s a).extractLsb' 48 12).setWidth 64 else 0)) c.run ∧
    Does (.pget d a 2) 4 c s
      (c.g.sSet d (if (c.s a).extractLsb' 60 3 = 1 then ((c.s a).extractLsb' 0 48).setWidth 64
        else ((c.s a).extractLsb' 0 60).setWidth 64)) c.run ∧
    Does (.pget d a 3) 4 c s (c.g.sSet d (((c.s a).extractLsb' 63 1).setWidth 64)) c.run

/-! ### Control flow -/

/-- R122 to R126, R85, R87: every branch enters for the live lanes of the active set that take it the target, a word index saturated to
the range of a PC; lanes that do not take it keep the next run. Nothing else changes before the run ends. R123, R126, R65: a call writes
the word index of the next run to the link register for the live lanes of the active set, and a target register is read before the link is
written; a link register at or beyond W, or with the link inside it a target register at or beyond W, raises WINDOW and writes nothing. -/
def Obligations.ControlTransfers : Prop :=
  (∀ (s : State) (c : Ctx) (o : Int) (k : Nat), ctxOf s = some c →
     let A := lanesOf (liveOf c.g c.run.aset)
     let tgt := pcOf ((c.run.word + 1 + c.run.off / 2 : Nat) + o)
     Does (.bra o) 4 c s c.g (c.run.target A (fun _ => some tgt)) ∧
     Does (.brm o k) 4 c s c.g (c.run.target A (fun L => if (c.m k).getLsbD L then some tgt else none)) ∧
     Does (.brmz o k) 4 c s c.g (c.run.target A (fun L => if (c.m k).getLsbD L then none else some tgt)) ∧
     Does (.brany o k) 4 c s c.g (c.run.target A (fun _ => if ∃ L ∈ A, (c.m k).getLsbD L then some tgt else none)) ∧
     Does (.brall o k) 4 c s c.g (c.run.target A (fun _ => if ∀ L ∈ A, (c.m k).getLsbD L then some tgt else none)) ∧
     Does (.bnz o k) 4 c s c.g (c.run.target A (fun _ => if c.s k ≠ 0 then some tgt else none)) ∧
     Does (.bz o k) 4 c s c.g (c.run.target A (fun _ => if c.s k = 0 then some tgt else none)) ∧
     Does (.jmp k) 4 c s c.g (c.run.target A (fun _ => some (pcOf (c.sn k)))) ∧
     (k < c.g.w → Does (.jmpv k) 4 c s c.g (c.run.target A (fun L => some (pcOf (c.vw k L)))))) ∧
  (∀ (s : State) (c : Ctx) (o : Int) (a b : Nat), ctxOf s = some c → b < 256 →
     let A := lanesOf (liveOf c.g c.run.aset)
     let linked := c.g.putAll (A.map (fun L => wrV b L ((c.run.word + 1 + (c.run.len + 1) / 2) % 2 ^ 32)))
     (b < c.g.w →
       Does (.call o b) 4 c s linked (c.run.target A (fun _ => some (pcOf ((c.run.word + 1 + c.run.off / 2 : Nat) + o)))) ∧
       Does (.calli a b) 4 c s linked (c.run.target A (fun _ => some (pcOf (c.sn a)))) ∧
       (a < c.g.w → Does (.callv a b) 4 c s linked (c.run.target A (fun L => some (pcOf (c.vw a L)))))) ∧
     (c.g.w ≤ b →
       exec (.call o b) s = .next (takeTrap c { code := 0x06, addr := b } s) ∧
       exec (.calli a b) s = .next (takeTrap c { code := 0x06, addr := b } s) ∧
       exec (.callv a b) s = .next (takeTrap c { code := 0x06, addr := b } s)) ∧
     (b < c.g.w → c.g.w ≤ a → exec (.callv a b) s = .next (takeTrap c { code := 0x06, addr := a } s)) ∧
     (c.g.w ≤ a → exec (.jmpv a) s = .next (takeTrap c { code := 0x06, addr := a } s)))

/-- R59, R87, R127, R101, R16: the plain system instructions. `EXIT` marks the run, whose end makes the lanes exit; `WAITDEP` gives it a
wait; `TKRD` reads the token state; `BREAK` traps with its operand as DETAIL and names the instruction behind it. -/
def Obligations.PlainSystemInstructions : Prop :=
  ∀ (s : State) (c : Ctx) (d i : Nat), ctxOf s = some c → d < 64 →
    Does .nop 4 c s c.g c.run ∧ Does .pad 2 c s c.g c.run ∧
    Does .exit 4 c s c.g { c.run with exits := true } ∧
    Does .waitdep 4 c s c.g { c.run with waits := c.run.waits ++ [.dep] } ∧
    Does (.tkrd d) 4 c s (c.g.sSet d (c.g.tk.setWidth 64)) c.run ∧
    exec (.brk i) s = .next (takeTrap { c with run := { c.run with off := c.run.off + 2 } } { code := 0x12, detail := i } s)

/-! ### The end of a run -/

/-- R58, R85, R87: when a run without `EXIT` or `TRET` ends, each live lane of its active set continues at the target a transfer gave it,
else at the run that follows; every other lane stays where it is. R85, R87: when a run with `EXIT` ends, the live lanes of its active set
run no further: one is a helper while a lane of its quad stays live, else it has exited; a helper of a quad without live lanes has exited
too; other lanes stay; the group has ended when no lane is live. R129: the run's waits join the group's, and are gone where all hold. R90:
a group whose gang ended during the run ends with the run; that it is then is the model's reading (DEDUCED, log entry 122). -/
def Obligations.RunEndMovesLanes : Prop :=
  (∀ (s : State) (slot : Nat) (r : Run) (g : Group), s.runs.find slot = some r → s.groups.find r.gid = some g →
     r.tret = false → r.exits = false → g.ending = false →
     ∃ g1, (endRun slot s).groups.find r.gid = some g1 ∧ (endRun slot s).runs.find slot = none ∧ g1.ended = g.ended ∧
       g1.waits = waitsLeft (endRun slot s) g1 (g.waits ++ r.waits) ∧
       ∀ L, L < 32 → g1.lane L = match g.lane L with
         | .live pc => if inSet r.aset L then .live ((r.xfer.find L).getD (pcOf (r.word + 1 + (r.len + 1) / 2))) else .live pc
         | p => p) ∧
  (∀ (s : State) (slot : Nat) (r : Run) (g : Group), s.runs.find slot = some r → s.groups.find r.gid = some g →
     r.tret = false → r.exits = true → g.ending = false →
     let stays := fun L => g.isLive L && !inSet r.aset L
     let quad := fun L => stays (4 * (L / 4)) || stays (4 * (L / 4) + 1) || stays (4 * (L / 4) + 2) || stays (4 * (L / 4) + 3)
     ∃ g1, (endRun slot s).groups.find r.gid = some g1 ∧ (g1.ended = true ↔ ∀ L, L < 32 → stays L = false) ∧
       ∀ L, L < 32 → g1.lane L = match g.lane L with
         | .live pc => if stays L then .live pc else if quad L then .helper else .exited
         | .helper => if quad L then .helper else .exited
         | .exited => .exited) ∧
  (∀ (s : State) (slot : Nat) (r : Run) (g : Group), s.runs.find slot = some r → s.groups.find r.gid = some g → g.ending = true →
     ∃ g1, (endRun slot s).groups.find r.gid = some g1 ∧ (endRun slot s).runs.find slot = none ∧ g1.ended = true ∧ g1.ending = false ∧
       g1.waits = [] ∧ ∀ L, L < 32 → g1.lane L = .exited)

/-- R58, R61, R87: the step past an instruction changes nothing but the slot's run and the group of that run, and no register, flag,
sidecar or control register of that group except those a trap return restores (`tepc`, TRAP); while the run goes on it only moves the
offset and the group keeps everything. Where the group's gang ended during the run (R90; DEDUCED, log entry 122) its end may also stop
copies: then of the rest of the state cohorts alone change. -/
def Obligations.StepPastChangesOnlyItsGroup : Prop :=
  ∀ (s : State) (sz slot : Nat) (r : Run) (g : Group), s.runs.find slot = some r → s.groups.find r.gid = some g →
    let t := retire sz slot s
    t = { s with groups := t.groups, runs := t.runs, cohorts := t.cohorts } ∧ (g.ending = false → t.cohorts = s.cohorts) ∧
    (∀ a, cellGet t.mem a = cellGet s.mem a) ∧
    (∀ j, j ≠ r.gid → t.groups.find j = s.groups.find j) ∧ (∀ k, k ≠ slot → t.runs.find k = s.runs.find k) ∧
    (sz < r.buf.length → t.groups.find r.gid = some g ∧
      t.runs.find slot = some { r with buf := r.buf.drop sz, off := r.off + sz / 2 }) ∧
    (∃ g1, t.groups.find r.gid = some g1 ∧ g1.s = g.s ∧ g1.m = g.m ∧ g1.v = g.v ∧ g1.scale = g.scale ∧ g1.tag = g.tag ∧ g1.ts = g.ts ∧
      g1.th = g.th ∧ g1.vl = g.vl ∧ g1.vtype = g.vtype ∧ g1.frm = g.frm ∧ g1.fflags = g.fflags ∧ g1.sat = g.sat ∧ g1.sgen = g.sgen ∧
      g1.dmode = g.dmode ∧ g1.fstat = g.fstat ∧ g1.fft = g.fft ∧ g1.rpz = g.rpz ∧ g1.rstr = g.rstr ∧ g1.tcause = g.tcause ∧
      g1.tlanes = g.tlanes ∧ g1.taddr = g.taddr ∧ (r.tret = false → g.ending = false → g1.tepc = g.tepc ∧ g1.trap = g.trap ∧ g1.tk = g.tk ∧
      g1.pend = g.pend ∧ g1.stq = g.stq ∧ g1.conds = g.conds))

/-! ### Vector length and mask registers -/

/-- R138, R139: `SETVL` and `SETVLR` set `vtype`, then `vl` to the smaller of sN and VLMAX, and sD to that `vl`; a `SETVLR` operand
outside the RW bits or with a reserved SEW raises ILLEGAL. -/
def Obligations.SetVectorLength : Prop :=
  ∀ (s : State) (c : Ctx) (d n : Nat), ctxOf s = some c → d < 64 → c.g.vl < 2 ^ 64 →
    (∀ p g e, p < 2 → g < 4 → e < 5 →
      let vl := min (c.sn n) (1024 / (4 * 2 ^ e) * 2 ^ g)
      Does (.setvl d n p g e) 4 c s
        (({ c.g with vtype := p * 128 + p * 64 + g * 8 + e, vl := vl } : Group).sSet d (BitVec.ofNat 64 vl)) c.run) ∧
    (∀ k, let v := c.sn k
      let vl := min (c.sn n) (1024 / (4 * 2 ^ (v % 8)) * 2 ^ (v / 8 % 4))
      (v < 256 → v.testBit 5 = false → v % 8 < 5 → Does (.setvlr d n k) 4 c s
        (({ c.g with vtype := v, vl := vl } : Group).sSet d (BitVec.ofNat 64 vl)) c.run) ∧
      (256 ≤ v ∨ v.testBit 5 = true ∨ 5 ≤ v % 8 → exec (.setvlr d n k) s = .next (takeTrap c { code := 0x01 } s)))

/-- R141: mask-register logic on all 1,024 bits. R141: mask registers and scalars: the count of one bits, the lowest one bit or all ones,
and 64-bit pieces read and written. -/
def Obligations.MaskRegisterResults : Prop :=
  (∀ (s : State) (c : Ctx) (d a b : Nat), ctxOf s = some c → d < 16 →
     Does (.mand d a b) 4 c s (c.g.mSet d (c.m a &&& c.m b)) c.run ∧ Does (.mor d a b) 4 c s (c.g.mSet d (c.m a ||| c.m b)) c.run ∧
     Does (.mxor d a b) 4 c s (c.g.mSet d (c.m a ^^^ c.m b)) c.run ∧ Does (.mandn d a b) 4 c s (c.g.mSet d (c.m a &&& ~~~c.m b)) c.run ∧
     Does (.morn d a b) 4 c s (c.g.mSet d (c.m a ||| ~~~c.m b)) c.run ∧ Does (.mnot d a) 4 c s (c.g.mSet d (~~~c.m a)) c.run ∧
     Does (.mmov d a) 4 c s (c.g.mSet d (c.m a)) c.run ∧ Does (.mact d) 4 c s (c.g.mSet d (c.run.aset.setWidth 1024)) c.run ∧
     (∃ x : VReg, Does (.mvl d) 4 c s (c.g.mSet d x) c.run ∧ ∀ e, e < 1024 → x.getLsbD e = decide (e < c.g.vl))) ∧
  (∀ (s : State) (c : Ctx) (d m k b : Nat), ctxOf s = some c → d < 64 → m < 16 → k < 16 →
     Does (.mpop d m) 4 c s (c.g.sSet d (BitVec.ofNat 64 ((List.range 1024).countP (fun i => (c.m m).getLsbD i)))) c.run ∧
     (∀ i, i < 1024 → (c.m m).getLsbD i = true → (∀ j, j < i → (c.m m).getLsbD j = false) →
       Does (.mfirst d m) 4 c s (c.g.sSet d (BitVec.ofNat 64 i)) c.run) ∧
     (c.m m = 0 → Does (.mfirst d m) 4 c s (c.g.sSet d (BitVec.allOnes 64)) c.run) ∧
     Does (.mrds d m k) 4 c s (c.g.sSet d ((c.m m).extractLsb' (64 * k) 64)) c.run ∧
     (∃ x : VReg, Does (.mwrs m b k) 4 c s (c.g.mSet m x) c.run ∧ x.extractLsb' (64 * k) 64 = c.s b ∧
       ∀ e, e < 1024 → e / 64 ≠ k → x.getLsbD e = (c.g.mGet m).getLsbD e))

/-! ### Barriers, stages and triggers -/

/-- R24, R25: a change of a barrier: refused with ERR where the exact sum leaves the range, or an arrival finds 16; else PEND and ARRIVED
change together and the completion test follows; a ticket is passed 1 to 32,767 generations on. R142, R146, R129: the barrier and stage
instructions that hold nothing: `BAR.CHARGE` changes its barrier at once; the waits begin when the run ends, `BAR.WAIT` with the ticket in
sB bits 15:0 where no release of the group is held, else behind those releases. -/
def Obligations.BarrierRulesAndWaits : Prop :=
  (∀ (x : Barrier) (n : Int) (arr : Bool) (t : Nat),
     ((arr = true ∧ x.arrived = 16) ∨ x.pend + n < -2147483648 ∨ 2147483647 < x.pend + n → x.change n arr = { x with err := true }) ∧
     (¬(arr = true ∧ x.arrived = 16) → -2147483648 ≤ x.pend + n → x.pend + n ≤ 2147483647 →
       let k := x.arrived + if arr then 1 else 0
       (x.target ≤ k ∧ x.pend + n = 0 → x.change n arr = { x with pend := 0, arrived := 0, gen := (x.gen + 1) % 65536 }) ∧
       (k < x.target ∨ x.pend + n ≠ 0 → x.change n arr = { x with pend := x.pend + n, arrived := k })) ∧
     (x.gen < 65536 → t < 65536 → (x.passed t = true ↔ ∃ k, 1 ≤ k ∧ k ≤ 32767 ∧ x.gen = (t + k) % 65536)) ∧
     (x.setTarget t = if 16 < t then { x with err := true } else Barrier.test { x with target := max 1 t })) ∧
  (∀ (s : State) (c : Ctx) (a b k p : Nat), ctxOf s = some c →
     DoesOn (.barCharge a b) 4 c s (updBar c.g.cid a (fun x => x.change (c.s b).toInt false) s) c.g c.run ∧
     (c.g.releasesBefore s.nextId = false → DoesOn (.barWait a b) 4 c s { s with nextId := s.nextId + 1 } c.g
       { c.run with waits := c.run.waits ++ [.bar a (c.sn b % 65536)] }) ∧
     (c.g.releasesBefore s.nextId = true → DoesOn (.barWait a b) 4 c s { s with nextId := s.nextId + 1 } c.g
       { c.run with waits := c.run.waits ++ [.barAfter a b s.nextId] }) ∧
     Does (.stgWait a k p) 4 c s c.g { c.run with waits := c.run.waits ++ [.stg a k p] })

/-- R142, R146, R101, R186: releases. `BAR.ARRIVE`, `STG.ARRIVE` and `TRIGGER` complete by entering the group's store queue; with nothing
outstanding they take effect at once: the arrival is counted with its bytes and sC is the generation before, the phase is inverted, the
group is triggered. -/
def Obligations.ReleasesTakeEffect : Prop :=
  ∀ (s : State) (c : Ctx) (a b k : Nat), ctxOf s = some c → a < 16 → k < 64 →
    (∃ s1, exec (.barArrive a b k) s = .next (retire 4 c.slot s1)) ∧ (∃ s1, exec (.stgArrive a b) s = .next (retire 4 c.slot s1)) ∧
    (∃ s1, exec .trigger s = .next (retire 4 c.slot s1)) ∧
    (Quiet s c →
      DoesOn (.barArrive a b k) 4 c s
        (updBar c.g.cid a (fun x => x.change (c.s b).toInt true) { s with nextId := s.nextId + 2 })
        (c.g.sSet k (BitVec.ofNat 64 (c.co.bar a).gen)) c.run ∧
      DoesOn (.stgArrive a b) 4 c s (flipStage c.g.cid a b { s with nextId := s.nextId + 1 }) c.g c.run ∧
      DoesOn .trigger 4 c s { s with nextId := s.nextId + 1 } { c.g with triggered := true } c.run)

/-! ### Control registers -/

/-- R147, R148, R149, R23: `CSRR` reads every register of the table; R112, R378: the fields of `gstat` and `fstat` in their places, reserved
bits zero; the numbers that are no registers raise ILLEGAL. -/
def Obligations.ControlRegisterReads : Prop :=
  ∀ (s : State) (c : Ctx) (d : Nat), ctxOf s = some c → d < 64 →
    (∀ row ∈ ([(0x00, c.g.vl), (0x01, c.g.vtype), (0x02, c.g.frm), (0x03, c.g.fflags), (0x04, if c.g.sat then 1 else 0),
        (0x05, c.g.sgen), (0x06, if c.g.dmode then 1 else 0),
        (0x09, c.g.tcause.toNat), (0x0A, c.g.tepc.toNat), (0x0B, c.g.tlanes.toNat), (0x0C, c.g.taddr.toNat),
        (0x0D, (if c.co.tvecEn then 2 ^ 63 else 0) + c.co.tvecWord)] : List (Nat × Nat)),
      Does (.csrr d row.1) 4 c s (c.g.sSet d (BitVec.ofNat 64 row.2)) c.run) ∧
    (c.co.core < 320 → c.co.cidx < 4 → c.g.idx < 32 → c.co.tcoh < 8 → c.g.gidx < 16 → c.la.prio < 8 → c.g.w ≤ 256 →
      Does (.csrr d 0x07) 4 c s (c.g.sSet d (BitVec.ofNat 16 0 ++ BitVec.ofNat 9 c.co.core ++ BitVec.ofNat 2 c.co.cidx ++
        BitVec.ofNat 5 c.g.idx ++ BitVec.ofNat 3 c.co.tcoh ++ BitVec.ofNat 4 c.g.gidx ++ BitVec.ofNat 3 c.la.prio ++
        BitVec.ofNat 2 (match c.g.role with | .vector => 0 | .matrix => 1 | .copy => 2) ++ BitVec.ofNat 7 (c.g.w / 16) ++ BitVec.ofNat 5 0 ++
        BitVec.ofBool c.g.fft ++ BitVec.ofBool c.g.rpz ++ BitVec.ofBool c.g.rstr ++ BitVec.ofBool c.g.trap ++ BitVec.ofNat 4 0 :
        BitVec (16 + 9 + 2 + 5 + 3 + 4 + 3 + 2 + 7 + 5 + 1 + 1 + 1 + 1 + 4))) c.run) ∧
    (let f := c.g.fstat
     f.trank < 4096 → f.tocnt < 65536 → f.unkcnt < 65536 →
      Does (.csrr d 0x08) 4 c s (c.g.sSet d (BitVec.ofNat 12 f.trank ++ BitVec.ofNat 4 0 ++ BitVec.ofNat 16 f.tocnt ++
        BitVec.ofNat 16 f.unkcnt ++ BitVec.ofNat 12 0 ++ BitVec.ofBool f.nopath ++ BitVec.ofBool f.rej ++ BitVec.ofBool f.unk ++
        BitVec.ofBool f.tmo : BitVec (12 + 4 + 16 + 16 + 12 + 1 + 1 + 1 + 1))) c.run) ∧
    (∀ b, b < 16 → let x := c.co.bar b
      Does (.csrr d (0x10 + b)) 4 c s (c.g.sSet d (BitVec.ofInt 64 (x.pend * 2 ^ 32) + BitVec.ofNat 64
        (x.gen * 2 ^ 16 + (if x.err then 2 ^ 15 else 0) + x.arrived * 2 ^ 8 + x.target))) c.run) ∧
    (∀ n, n < 8 → Does (.csrr d (0x20 + n)) 4 c s (c.g.sSet d (BitVec.ofNat 64 (c.co.ring n))) c.run) ∧
    (∀ n, n = 0x0E ∨ n = 0x0F ∨ 0x28 ≤ n → exec (.csrr d n) s = .next (takeTrap c { code := 0x01 } s))

/-- R149 with R35, R39, R47, R104 to R106, R138, R148, R280, R378: what `CSRW` of `x` leaves in the group's registers: RW fields take the
bits of x, W1C fields are cleared where x holds 1, read-only and reserved fields stay; `frm` keeps its mode on a reserved one, a zero
`sgen` becomes 1, a `vtype` with a reserved SEW raises ILLEGAL, an accepted one bounds `vl`. R149: `CSRSET` and `CSRCLR` of every register
write the RW bits ORed with, or cleared by, the scalar, under the same restrictions, and touch no W1C field; a number that is no register
raises ILLEGAL in every write form. -/
def Obligations.ControlRegisterWriteForms : Prop :=
  (∀ (s : State) (c : Ctx) (a : Nat), ctxOf s = some c → c.g.vl < 2 ^ 64 →
     let x := c.sn a
     Does (.csrw a 0x00) 4 c s c.g c.run ∧
     (x % 8 < 5 → let v := x % 256 &&& 0xDF
       Does (.csrw a 0x01) 4 c s { c.g with vtype := v, vl := min c.g.vl (1024 / (4 * 2 ^ (v % 8)) * 2 ^ (v / 8 % 4)) } c.run) ∧
     (5 ≤ x % 8 → exec (.csrw a 0x01) s = .next (takeTrap c { code := 0x01 } s)) ∧
     (x % 8 < 5 → Does (.csrw a 0x02) 4 c s { c.g with frm := x % 16 } c.run) ∧
     (5 ≤ x % 8 → Does (.csrw a 0x02) 4 c s { c.g with frm := x / 8 % 2 * 8 + c.g.frm % 8 } c.run) ∧
     Does (.csrw a 0x03) 4 c s { c.g with fflags := x % 32 } c.run ∧
     Does (.csrw a 0x04) 4 c s { c.g with sat := x.testBit 0 } c.run ∧
     Does (.csrw a 0x05) 4 c s { c.g with sgen := if x % 2 ^ 32 = 0 then 1 else x % 2 ^ 32 } c.run ∧
     Does (.csrw a 0x06) 4 c s { c.g with dmode := x.testBit 0 } c.run ∧
     Does (.csrw a 0x07) 4 c s { c.g with rstr := c.g.rstr && !x.testBit 5, rpz := c.g.rpz && !x.testBit 6
                                          fft := c.g.fft && !x.testBit 7 } c.run ∧
     Does (.csrw a 0x08) 4 c s { c.g with fstat :=
       { c.g.fstat with tmo := c.g.fstat.tmo && !x.testBit 0, tocnt := if x.testBit 0 then 0 else c.g.fstat.tocnt
                        unk := c.g.fstat.unk && !x.testBit 1, unkcnt := if x.testBit 1 then 0 else c.g.fstat.unkcnt
                        rej := c.g.fstat.rej && !x.testBit 2, nopath := c.g.fstat.nopath && !x.testBit 3 } } c.run ∧
     Does (.csrw a 0x09) 4 c s { c.g with tcause := c.s a &&& 0x80000000FFFF00FF } c.run ∧
     Does (.csrw a 0x0A) 4 c s { c.g with tepc := c.s a &&& 0xFFFFFFFFFF } c.run ∧
     Does (.csrw a 0x0B) 4 c s { c.g with tlanes := c.s a } c.run ∧ Does (.csrw a 0x0C) 4 c s { c.g with taddr := c.s a } c.run ∧
     DoesOn (.csrw a 0x0D) 4 c s
       (s.updC c.g.cid (fun co => { co with tvecEn := x.testBit 63, tvecWord := x % 2 ^ 32 })) c.g c.run ∧
     (∀ b, b < 16 → DoesOn (.csrw a (0x10 + b)) 4 c s (updBar c.g.cid b (fun y =>
       let y1 := { y with err := y.err && !x.testBit 15 }
       if 16 < x % 32 then { y1 with err := true } else Barrier.test { y1 with target := max 1 (x % 32) }) s) c.g c.run) ∧
     (∀ n, n < 8 → Does (.csrw a (0x20 + n)) 4 c s c.g c.run)) ∧
  (∀ (s : State) (c : Ctx) (a : Nat), ctxOf s = some c → c.g.vl < 2 ^ 64 →
     let x := c.sn a
     (∀ n, n = 0x00 ∨ 0x20 ≤ n ∧ n < 0x28 → Does (.csrset a n) 4 c s c.g c.run ∧ Does (.csrclr a n) 4 c s c.g c.run) ∧
     (∀ row ∈ [(Instr.csrset a 0x01, (c.g.vtype ||| x) &&& 0xDF), (.csrclr a 0x01, c.g.vtype &&& (0xDF ^^^ (x &&& 0xDF)))],
       let v := row.2
       (v % 8 < 5 → Does row.1 4 c s { c.g with vtype := v, vl := min c.g.vl (1024 / (4 * 2 ^ (v % 8)) * 2 ^ (v / 8 % 4)) } c.run) ∧
       (5 ≤ v % 8 → exec row.1 s = .next (takeTrap c { code := 0x01 } s))) ∧
     (∀ row ∈ [(Instr.csrset a 0x02, (c.g.frm ||| x) % 16), (.csrclr a 0x02, c.g.frm % 16 &&& (15 - x % 16))],
       Does row.1 4 c s { c.g with frm := if row.2 % 8 < 5 then row.2 else row.2 / 8 * 8 + c.g.frm % 8 } c.run) ∧
     (∀ row ∈ [(Instr.csrset a 0x05, (c.g.sgen ||| x) % 2 ^ 32), (.csrclr a 0x05, c.g.sgen % 2 ^ 32 &&& (2 ^ 32 - 1 - x % 2 ^ 32))],
       Does row.1 4 c s { c.g with sgen := if row.2 = 0 then 1 else row.2 } c.run) ∧
     Does (.csrset a 0x06) 4 c s { c.g with dmode := c.g.dmode || x.testBit 0 } c.run ∧
     Does (.csrclr a 0x06) 4 c s { c.g with dmode := c.g.dmode && !x.testBit 0 } c.run ∧
     Does (.csrset a 0x09) 4 c s { c.g with tcause := (c.g.tcause ||| c.s a) &&& 0x80000000FFFF00FF } c.run ∧
     Does (.csrclr a 0x09) 4 c s { c.g with tcause := (c.g.tcause &&& ~~~c.s a) &&& 0x80000000FFFF00FF } c.run ∧
     Does (.csrset a 0x0A) 4 c s { c.g with tepc := (c.g.tepc ||| c.s a) &&& 0xFFFFFFFFFF } c.run ∧
     Does (.csrclr a 0x0A) 4 c s { c.g with tepc := (c.g.tepc &&& ~~~c.s a) &&& 0xFFFFFFFFFF } c.run ∧
     Does (.csrset a 0x0C) 4 c s { c.g with taddr := c.g.taddr ||| c.s a } c.run ∧
     Does (.csrclr a 0x0C) 4 c s { c.g with taddr := c.g.taddr &&& ~~~c.s a } c.run ∧
     (c.co.tvecWord < 2 ^ 32 →
       DoesOn (.csrset a 0x0D) 4 c s (s.updC c.g.cid (fun co =>
         { co with tvecEn := c.co.tvecEn || x.testBit 63, tvecWord := (c.co.tvecWord ||| x) % 2 ^ 32 })) c.g c.run ∧
       DoesOn (.csrclr a 0x0D) 4 c s (s.updC c.g.cid (fun co =>
         { co with tvecEn := c.co.tvecEn && !x.testBit 63, tvecWord := c.co.tvecWord &&& (2 ^ 32 - 1 - x % 2 ^ 32) })) c.g c.run) ∧
     (∀ b, b < 16 → (c.co.bar b).target < 32 →
       ∀ row ∈ [(Instr.csrset a (0x10 + b), ((c.co.bar b).target ||| x) % 32), (.csrclr a (0x10 + b), (c.co.bar b).target &&& (31 - x % 32))],
         DoesOn row.1 4 c s (updBar c.g.cid b (fun y =>
           if 16 < row.2 then { y with err := true } else Barrier.test { y with target := max 1 row.2 }) s) c.g c.run) ∧
     (c.g.fflags < 32 → Does (.csrset a 0x03) 4 c s { c.g with fflags := c.g.fflags ||| x % 32 } c.run ∧
       Does (.csrclr a 0x03) 4 c s { c.g with fflags := c.g.fflags &&& (31 - x % 32) } c.run) ∧
     Does (.csrset a 0x04) 4 c s { c.g with sat := c.g.sat || x.testBit 0 } c.run ∧
     Does (.csrclr a 0x04) 4 c s { c.g with sat := c.g.sat && !x.testBit 0 } c.run ∧
     Does (.csrset a 0x07) 4 c s c.g c.run ∧ Does (.csrclr a 0x07) 4 c s c.g c.run ∧
     Does (.csrset a 0x08) 4 c s c.g c.run ∧ Does (.csrclr a 0x08) 4 c s c.g c.run ∧
     Does (.csrset a 0x0B) 4 c s { c.g with tlanes := c.g.tlanes ||| c.s a } c.run ∧
     Does (.csrclr a 0x0B) 4 c s { c.g with tlanes := c.g.tlanes &&& ~~~c.s a } c.run ∧
     (∀ n, n = 0x0E ∨ n = 0x0F ∨ 0x28 ≤ n → exec (.csrw a n) s = .next (takeTrap c { code := 0x01 } s) ∧
       exec (.csrset a n) s = .next (takeTrap c { code := 0x01 } s) ∧ exec (.csrclr a n) s = .next (takeTrap c { code := 0x01 } s)))

/-- R149, R85, R65: the vector moves of the temporaries' copies and of the PCs, in all 32 lanes, sidecars unchanged; an index at or beyond
W raises WINDOW. -/
def Obligations.ControlVectorMoves : Prop :=
  ∀ (s : State) (c : Ctx) (v n : Nat), ctxOf s = some c → v < 64 → n < 8 →
    (v < c.g.w →
      Does (.rdts v n) 4 c s (c.g.vSet v (c.g.ts.get 0 n)) c.run ∧
      (∃ x : VReg, Does (.wrts v n) 4 c s { c.g with ts := c.g.ts.set 0 n x } c.run ∧
        ∀ L, L < 32 → (laneWord x L).toNat = c.vw v L % 2 ^ 32) ∧
      (∃ x : VReg, Does (.rdvpc v) 4 c s (c.g.vSet v x) c.run ∧ ∀ L, L < 32 → (laneWord x L).toNat = match c.g.lane L with
        | .live pc => pc % 2 ^ 32
        | .helper => 0xFFFFFFFE
        | .exited => 0xFFFFFFFF)) ∧
    (c.g.w ≤ v → ∀ i ∈ [Instr.rdts v n, .wrts v n, .rdvpc v], exec i s = .next (takeTrap c { code := 0x06, addr := v } s))

/-! ### Privileged and fabric instructions -/

/-- R150, R129: the TLB invalidations drop every cached translation of the page or of the ASID in their partition and wait for their
completion; `PTSYNC` only advances, behind the stores its group holds where there are any; in a launch that is not privileged each raises PERM with DETAIL 1. R378, R386, R388, R14: the fabric
instructions on `fstat`, the rank, the live paths and the counters; a group of another role raises ROLE. -/
def Obligations.PrivilegedAndFabricRegisters : Prop :=
  (∀ (s : State) (c : Ctx) (a b : Nat), ctxOf s = some c →
     (c.la.priv = true →
       (∃ base, DoesOn (.tlbiVa a b) 4 c s base c.g { c.run with waits := c.run.waits ++ [.tlbi s.nextId] } ∧
         base = { s with nextId := s.nextId + 1, tlb := base.tlb, walks := base.walks } ∧
         (∀ e, e ∈ base.tlb ↔ e ∈ s.tlb ∧ ¬(e.part = s.partOf c.co.core ∧ e.asid = c.sn a % 65536 ∧
           e.page = c.sn b % 2 ^ 60 / 2 ^ pageBits e.lvl)) ∧
         (∀ e, e ∈ base.walks ↔ e ∈ s.walks ∧ ¬(e.part = s.partOf c.co.core ∧ e.asid = c.sn a % 65536))) ∧
       (∃ base, DoesOn (.tlbiAsid a) 4 c s base c.g { c.run with waits := c.run.waits ++ [.tlbi s.nextId] } ∧
         base = { s with nextId := s.nextId + 1, tlb := base.tlb, walks := base.walks } ∧
         (∀ e, e ∈ base.tlb ↔ e ∈ s.tlb ∧ ¬(e.part = s.partOf c.co.core ∧ e.asid = c.sn a % 65536)) ∧
         (∀ e, e ∈ base.walks ↔ e ∈ s.walks ∧ ¬(e.part = s.partOf c.co.core ∧ e.asid = c.sn a % 65536))) ∧
       (c.g.stq = [] → c.g.stqWait = [] → Does .ptsync 4 c s c.g c.run) ∧
       (∃ s1, exec .ptsync s = .next (retire 4 c.slot s1))) ∧
     (c.la.priv = false → ∀ i ∈ [Instr.tlbiVa a b, .tlbiAsid a, .ptsync],
       exec i s = .next (takeTrap c { code := 0x09, detail := 1 } s))) ∧
  (∀ (s : State) (c : Ctx) (d a k : Nat), ctxOf s = some c → d < 64 →
     (c.g.role = .vector →
       Does (.fxstat d) 4 c s (c.g.sSet d (BitVec.ofNat 64 c.g.fstat.word)) c.run ∧
       Does (.fxclr a) 4 c s { c.g with fstat :=
         { c.g.fstat with tmo := c.g.fstat.tmo && !(c.sn a).testBit 0, tocnt := if (c.sn a).testBit 0 then 0 else c.g.fstat.tocnt
                          unk := c.g.fstat.unk && !(c.sn a).testBit 1, unkcnt := if (c.sn a).testBit 1 then 0 else c.g.fstat.unkcnt
                          rej := c.g.fstat.rej && !(c.sn a).testBit 2, nopath := c.g.fstat.nopath && !(c.sn a).testBit 3 } } c.run ∧
       (∀ r, s.rankOf (s.partOf c.co.core) = some r → Does (.fxrank d) 4 c s (c.g.sSet d (BitVec.ofNat 64 (4096 + r))) c.run) ∧
       (s.rankOf (s.partOf c.co.core) = none → Does (.fxrank d) 4 c s (c.g.sSet d 0) c.run) ∧
       (4096 ≤ c.sn a → Does (.fxpath d a) 4 c s (c.g.sSet d 0) c.run) ∧
       (c.sn a < 4096 → ∃ m : Word64, Does (.fxpath d a) 4 c s (c.g.sSet d m) c.run ∧
         ∀ p, p < 64 → m.getLsbD p = decide (p ∈ livePaths s (s.partOf c.co.core) (c.sn a))) ∧
       Does (.fxcnt d k) 4 c s (c.g.sSet d (BitVec.ofNat 64 (s.fxcnt.get 0 k))) c.run) ∧
     (c.g.role ≠ .vector → ∀ i ∈ [Instr.fxstat d, .fxclr a, .fxrank d, .fxpath d a, .fxcnt d k, .fxsto d a, .fxstoRel d a],
       exec i s = .next (takeTrap c { code := 0x05 } s)))

/-! ### Traps -/

/-- R61, R91, R102, R104 to R106: TAKING A TRAP with a handler enabled and TRAP clear. The run leaves its slot; `tcause` holds DETAIL and
CODE, `tepc` the run and the offset of the instruction (or HEAD), `tlanes` the active set without helpers and the lanes that caused it,
`taddr` the address; `t0` to `t7` are copied to `ts0` to `ts7`; TRAP is set; the live lanes of the active set go to the handler, its word
in the range of a PC (DEDUCED, log entry 143); other lanes and every other register of the group stay, and so do every other group and
all of memory. That the run's own waits are kept with the group (`runWaits`), for a return into the run, is the model's reading (DEDUCED,
log entry 24). A group whose gang ended during the run ends instead (R90; DEDUCED, log entry 122). -/
def Obligations.TrapEntry : Prop :=
  (∀ (s : State) (c : Ctx) (t : Trap), ctxOf s = some c → c.g.trap = false → c.co.tvecEn = true → c.g.ending = false →
    let A := liveOf c.g c.run.aset
    let u := takeTrap c t s
    ∃ g1, u.groups.find c.run.gid = some g1 ∧ (∀ e ∈ u.runs, e.2.gid ≠ c.run.gid) ∧
      (∀ j, j ≠ c.run.gid → u.groups.find j = s.groups.find j) ∧ u.mem = s.mem ∧ u.sram = s.sram ∧ u.cohorts = s.cohorts ∧
      g1 = { c.g with
        tcause := BitVec.ofNat 64 (t.detail % 2 ^ 16 * 2 ^ 16 + t.code)
        tepc := BitVec.ofNat 64 (if c.run.head then 2 ^ 38 + c.run.word else c.run.off * 2 ^ 32 + c.run.word)
        tlanes := BitVec.ofNat 64 (A.toNat * 2 ^ 32 + if c.run.head then A.toNat else t.lanes.getD A.toNat)
        taddr := BitVec.ofNat 64 t.addr, trap := true, parked := false, runWaits := c.run.waits, readySince := s.tick, ts := g1.ts
        vpc := g1.vpc } ∧
      (∀ k L, k < 8 → L < 32 → laneWord (g1.ts.get 0 k) L =
        (c.run.t.find (32 * k + L)).getD (Config.freeWord c.tick (32 * k + L))) ∧
      (∀ L, L < 32 → g1.lane L = match c.g.lane L with
        | .live pc => if inSet A L then .live (min c.co.tvecWord 0xFFFFFFFD) else .live pc
        | p => p)) ∧
  (∀ (s : State) (c : Ctx) (t : Trap), ctxOf s = some c → c.g.ending = true →
    let u := takeTrap c t s
    ∃ g1, u.groups.find c.run.gid = some g1 ∧ (∀ e ∈ u.runs, e.2.gid ≠ c.run.gid) ∧ g1.ended = true ∧ g1.ending = false ∧
      (∀ L, L < 32 → g1.lane L = .exited) ∧ g1.tcause = c.g.tcause ∧ (∀ j, j ≠ c.run.gid → u.groups.find j = s.groups.find j) ∧
      u.mem = s.mem)

/-- R108: a trap while TRAP is set, or without an enabled handler, is fatal: every part of the gang here has failed with an error record of
the five trap registers (`gstat` as it stood before the trap: DESIGN CHOICE, log entry 144), and its groups end with all lanes exited: at once
the group that trapped and those with no run in progress, and at the end of their runs the others, which R90 lets execute (DEDUCED, log entry
122). No byte of memory changes. -/
def Obligations.FatalTrap : Prop :=
  ∀ (s : State) (c : Ctx) (t : Trap), ctxOf s = some c → c.g.trap = true ∨ c.co.tvecEn = false → c.g.ending = false →
    let u := takeTrap c t s
    let q := trapRegs t c.run.head c.run.off c.run.word (liveOf c.g c.run.aset)
    (∀ lid ∈ s.gangLids c.co.launch, ∀ gid ∈ s.launchGids lid, ∀ g0 g, s.groups.find gid = some g0 → u.groups.find gid = some g →
      (gid = c.run.gid ∨ (∀ e ∈ s.runs, e.2.gid ≠ gid) → g.ended = true ∧ ∀ L, L < 32 → g.lane L = .exited) ∧
      (gid ≠ c.run.gid → (∃ e ∈ s.runs, e.2.gid = gid) → g0.ended = false → g.ending = true ∧ g.vpc = g0.vpc)) ∧
    (∀ e ∈ u.runs, e.2.gid ≠ c.run.gid) ∧
    (∀ k r, s.runs.find k = some r → r.gid ≠ c.run.gid → u.runs.find k = some r) ∧
    (∀ lid ∈ s.gangLids c.co.launch, ∀ l0, s.launches.find lid = some l0 → l0.failed = 0 →
      ∃ l, u.launches.find lid = some l ∧ l.failed = 2 ∧
        l.trapRec = [BitVec.ofNat 64 q.tcause, BitVec.ofNat 64 q.tepc, BitVec.ofNat 64 q.tlanes, BitVec.ofNat 64 q.taddr,
          BitVec.ofNat 64 (gstatOf c.g c.co c.la)]) ∧ u.mem = s.mem

/-- R107: `TRET` completes where the live lanes of its active set are those of `tlanes`.ASET that are live, and marks the run; any other
active set raises ILLEGAL. With HEAD = 0 it reads the run at `tepc`.WORD itself: what cannot be fetched or fails its checks raises ILLEGAL
with DETAIL 0x000B, an OFF that begins no instruction ILLEGAL. R107, R110: what the end of a run with `TRET` restores: TRAP and
`tepc`.WAIT are cleared, the live lanes of ASET stand at WORD, the kept waits return where WAIT was set, and with HEAD = 0 the group
resumes inside the interrupted run, else at a head. -/
def Obligations.TrapReturn : Prop :=
  (∀ (s : State) (c : Ctx), ctxOf s = some c →
     let want := BitVec.ofNat 32 (c.g.tlanes.toNat / 2 ^ 32) &&& c.g.liveSet
     let word := c.g.tepc.toNat % 2 ^ 32
     let off := c.g.tepc.toNat / 2 ^ 32 % 64
     (liveOf c.g c.run.aset ≠ want → exec .tret s = .next (takeTrap c { code := 0x01 } s)) ∧
     (liveOf c.g c.run.aset = want → c.g.tepc.getLsbD 38 = true → Does .tret 4 c s c.g { c.run with tret := true }) ∧
     (liveOf c.g c.run.aset = want → c.g.tepc.getLsbD 38 = false →
       (∀ e, fetchWord s (whoOf s c) word = .error e → exec .tret s = .next (takeTrap c { code := 0x01, detail := 0x0B } s)) ∧
       (∀ h, fetchWord s (whoOf s c) word = .ok h →
         (isHead h = false → exec .tret s = .next (takeTrap c { code := 0x01, detail := 0x0B } s)) ∧
         (isHead h = true →
           (∀ e, fetchRun s (whoOf s c) word h = .error e → exec .tret s = .next (takeTrap c { code := 0x01, detail := 0x0B } s)) ∧
           (∀ offs body, fetchRun s (whoOf s c) word h = .ok (offs, body) →
             (off ≠ headLen h → off ∉ offs → exec .tret s = .next (takeTrap c { code := 0x01 } s)) ∧
             (off = headLen h ∨ off ∈ offs → ∃ res, Does .tret 4 c s c.g { c.run with tret := true, res := some res } ∧
               res.word = word ∧ res.off = off ∧ res.aset = BitVec.ofNat 32 (c.g.tlanes.toNat / 2 ^ 32) ∧ res.len = headLen h ∧
               res.await = headAwait h ∧ res.tmp = headTmp h ∧ res.park = headPark h ∧ res.buf = body.drop (2 * off))))))) ∧
  (∀ (s : State) (slot : Nat) (r : Run) (g : Group), s.runs.find slot = some r → s.groups.find r.gid = some g →
     r.tret = true → g.killEnd = false → g.ending = false →
     ∃ g1, (endRun slot s).groups.find r.gid = some g1 ∧ (endRun slot s).runs.find slot = none ∧ g1.trap = false ∧
       (∀ b, b < 64 → g1.tepc.getLsbD b = if b = 39 then false else g.tepc.getLsbD b) ∧
       g1.waits = waitsLeft (endRun slot s) g1 (r.waits ++ (if g.tepc.getLsbD 39 then g.keptWaits else [])) ∧ g1.keptWaits = [] ∧
       (g.tepc.getLsbD 38 = true → g1.resume = none) ∧ (g.tepc.getLsbD 38 = false → g1.resume = r.res) ∧
       g1.s = g.s ∧ g1.m = g.m ∧ g1.v = g.v ∧ g1.ts = g.ts ∧ g1.tcause = g.tcause ∧ g1.tlanes = g.tlanes ∧ g1.taddr = g.taddr ∧
       ∀ L, L < 32 → g1.lane L = match g.lane L with
         | .live pc => if g.tlanes.getLsbD (32 + L) then .live (pcOf (g.tepc.toNat % 2 ^ 32)) else .live pc
         | p => p)

/-! ### Fetching and stepping -/

/-- R57, R60, R62: at the head of a run, `RUN_HEAD` with its body fetched gives the run its fields and the bytes of its body; a head whose
run fails a check raises that check's trap, and as an instruction of a body it raises ILLEGAL. Shown for every head a slot stands at. R57,
R60, R62: which bodies `fetchRun` accepts: LEN 1 to 48 within the code segment, every word of the body fetched, and the shape of R60 with
at most 24 instructions. R56, R157, R158: fetching a word of code: beyond the segment ENTRY; an untranslated address or a page that is not
resident ADDRESS; a page without execute permission, or a privileged one, PERM; else the word there, in the line of the L1 slice that the
fetch hits or where the page stands. The order of a missing permission and PRIV is the model's (DEDUCED, log entry 36), and so is that of the
checks of a run (DESIGN CHOICE, log entry 129). -/
def Obligations.FetchingAndRunHeads : Prop :=
  (∀ (s : State) (c : Ctx) (t p a l : Nat), ctxOf s = some c → t < 2 → p < 2 → a < 2 ^ 16 → l < 64 →
     let w := t * 2 ^ 31 + p * 2 ^ 30 + a * 2 ^ 14 + l * 2 ^ 8 + 0xFF
     (c.run.head = false → exec (.runHead t p a l) s = .next (takeTrap c { code := 0x01 } s)) ∧
     (c.run.head = true →
       (∀ e, fetchRun s (whoOf s c) c.run.word w = .error e → exec (.runHead t p a l) s = .next (takeTrap c e s)) ∧
       (∀ offs body, fetchRun s (whoOf s c) c.run.word w = .ok (offs, body) → ∃ s1,
         exec (.runHead t p a l) s = .next s1 ∧ s1.groups = s.groups ∧
         s1.runs.find c.slot = some { c.run with len := l, tmp := t == 1, park := p == 1, head := false, off := 0, buf := body } ∧
         ∀ k, k ≠ c.slot → s1.runs.find k = s.runs.find k))) ∧
  ((∀ (s : State) (u : Who) (word head : Nat),
      let len := headLen head
      (len = 0 ∨ 48 < len ∨ u.clen < word + 1 + (len + 1) / 2 → fetchRun s u word head = .error { code := 0x01 }) ∧
      (1 ≤ len → len ≤ 48 → word + 1 + (len + 1) / 2 ≤ u.clen →
        (∀ t, fetchWords s u (word + 1) ((len + 1) / 2) = .error t → fetchRun s u word head = .error t) ∧
        (∀ ws, fetchWords s u (word + 1) ((len + 1) / 2) = .ok ws →
          let hs := (halfwords ws).take len
          (bodyShape 0 hs = none → fetchRun s u word head = .error { code := 0x01 }) ∧
          (∀ offs, bodyShape 0 hs = some offs →
            (24 < offs.length → fetchRun s u word head = .error { code := 0x01 }) ∧
            (offs.length ≤ 24 → fetchRun s u word head = .ok (offs, hs.flatMap (toBytes 2))))))) ∧
   (∀ (s : State) (u : Who) (word : Nat),
      let ptr := u.code + 4 * word
      (u.clen ≤ word → fetchWord s u word = .error { code := 0x02 }) ∧
      (word < u.clen →
        (∀ d, xlate s u .fetch (ptr % 2 ^ 60) = .error d → fetchWord s u word = .error { code := 0x07, detail := d, addr := ptr }) ∧
        (∀ x, xlate s u .fetch (ptr % 2 ^ 60) = .ok x →
          (x.leaf.st ≠ 1 → fetchWord s u word = .error { code := 0x07, detail := 7, addr := ptr }) ∧
          (x.leaf.st = 1 → x.leaf.x = false → fetchWord s u word = .error { code := 0x09, detail := 7, addr := ptr }) ∧
          (x.leaf.st = 1 → x.leaf.x = true → x.leaf.priv = true → u.priv = false →
            fetchWord s u word = .error { code := 0x09, detail := 4, addr := ptr }) ∧
          (x.leaf.st = 1 → x.leaf.x = true → (x.leaf.priv = true → u.priv = true) →
            fetchWord s u word = .ok (s.pmRd (match l1Hit s u .fetch (ptr % 2 ^ 60) x.leaf with
              | some h => 128 * h.line + ptr % 2 ^ 60 % 128
              | none => x.leaf.pa (dieOf u.core) (ptr % 2 ^ 60)) 4))))))

/-- R55, R61: A STEP RUNS THE DECODED INSTRUCTION. When the agenda gives a slot its turn and the bytes its run stands at decode to an
instruction, the step is `exec` of it, at the state with the step counted, that turn taken off the agenda, and the slot's turn; what
follows every step (`settleStep`) is what waits for run boundaries, the image of pre-empted cohorts and the dump. Bytes that decode to
nothing trap ILLEGAL. -/
def Obligations.StepRunsTheDecodedInstruction : Prop :=
  ∀ (s : State) (sl : Nat) (rest : List Act) (r : Run), s.agenda = .issue sl :: rest → s.runs.find sl = some r →
    let s1 : State := { s with tick := s.tick + 1, agenda := rest, turn := sl }
    (∀ i tail, decode r.buf = .ok (i, tail) → step s = settleStep (exec i s1)) ∧
    (∀ e c, decode r.buf = .error e → ctxOf s1 = some c → step s = settleStep (.next (takeTrap c { code := 0x01 } s1)))

/-- R99: where a slot whose turn it is stands at a run boundary, the step is the pick of a group for it; and the other things an agenda
names: an event happens as `exec` gives it, or time passes where nothing is due before it ends. The agenda is the model's own
(DESIGN CHOICE, log entry 1), and so is how time passes (DESIGN CHOICE, log entry 4). -/
def Obligations.StepFollowsTheAgenda : Prop :=
  ∀ (s : State) (rest : List Act),
    (∀ sl, s.agenda = .issue sl :: rest → s.runs.find sl = none →
      step s = settleStep (exec (.slotPick sl) { s with tick := s.tick + 1, agenda := rest, turn := sl })) ∧
    (∀ i, s.agenda = .event i :: rest → step s = settleStep (exec i { s with tick := s.tick + 1, agenda := rest })) ∧
    (∀ d, s.agenda = .time d :: rest → (∀ e ∈ deadlines s, s.now < e.1 ∧ s.now + d ≤ e.1) →
      ∃ t, step s = settleStep (.next t) ∧ t.now = s.now + d ∧ t.mem = s.mem ∧ t.groups = s.groups ∧ t.agenda = rest)

/-! ### Lane instructions -/

/-- R61, R65, R66, R75: the operand checks of a lane instruction in their order: ILLEGAL for what the entry forbids and for a group of
temporaries beyond t7, ROLE, OVERLAP of the destination with another operand it neither equals nor is disjoint from, WINDOW with the index
of the first operand in syntax order at or beyond W. They pass exactly when none of these holds. -/
def Obligations.LaneCheckOrder : Prop :=
  ∀ (c : Ctx) (legal : Bool) (n : Nat) (d : VOp) (srcs : List VOp),
    let os := d :: srcs
    let fits := fun o : VOp => o.temp = false ∨ o.idx + o.n ≤ 8
    let apart' := fun b : VOp => d.temp ≠ b.temp ∨ (d.idx = b.idx ∧ d.n = b.n) ∨ d.idx + d.n ≤ b.idx ∨ b.idx + b.n ≤ d.idx
    let inside := fun o : VOp => o.temp = true ∨ o.idx + o.n ≤ c.g.w
    (legal = false → laneChecks c legal n [d] os = .error { code := 0x01, detail := n }) ∧
    (legal = true →
      ((∃ o ∈ os, ¬fits o) → laneChecks c legal n [d] os = .error { code := 0x01, detail := 0x0A }) ∧
      ((∀ o ∈ os, fits o) →
        (c.g.role ≠ .vector → laneChecks c legal n [d] os = .error { code := 0x05 }) ∧
        (c.g.role = .vector →
          ((∃ o ∈ os, ¬apart' o) → laneChecks c legal n [d] os = .error { code := 0x03 }) ∧
          ((∀ o ∈ os, apart' o) →
            (∀ pre o post, os = pre ++ o :: post → (∀ x ∈ pre, inside x) → ¬inside o →
              laneChecks c legal n [d] os = .error { code := 0x06, addr := max o.idx c.g.w }) ∧
            ((∀ o ∈ os, inside o) → laneChecks c legal n [d] os = .ok ())))))

/-- R224, R226, R281 to R283: what the tags of the sources call for. Where all source registers carry one tag, a copy or linear
instruction keeps it and nothing is reconstructed; else, and always for a non-linear one, the result's tag is 0, and each Haar-tagged source
register stands for its block, U registers from a multiple of U. A block that its operand does not name whole raises DOMAIN 2; one whose
registers do not all carry DOM = 01 with one LEV raises DOMAIN 6 (the order of the details: DEDUCED, log entry 14); whole and uniform blocks raise DOMAIN 1 under `dmode`; otherwise they are
reconstructed, or raise DOMAIN 3 where the instruction has no format. Reconstruction leaves in every row and channel of every block the inverse
transform of that channel's rows (`haarCol`, whose levels `WaveletResults` states), tag 0 in its registers and every other word and tag as it
was; it counts its blocks and their largest level, and its flags are those of the transforms. -/
def Obligations.DomainTagRules : Prop :=
  ∀ (c : Ctx) (k : TagClass) (srcs : List VOp) (F : Option Fmt),
    let regs := srcs.flatMap (fun o => (List.range o.n).map o.reg)
    let haar := (srcs.filter (fun o => !o.temp)).flatMap (fun o => ((List.range o.n).map (o.idx + ·)).filter (fun j => c.tag j % 4 == 1))
    let L := fun j => c.tag j / 4 % 8
    let U := fun j => if L j ≤ 2 then 1 else 2 ^ (L j - 2)
    let base := fun j => U j * (j / U j)
    let mixed := k = .nonlinear ∨ ∃ r ∈ regs, ∃ r' ∈ regs, c.tag r ≠ c.tag r'
    let whole := ∀ o ∈ srcs, o.temp = false → ∀ j, o.idx ≤ j → j < o.idx + o.n → c.tag j % 4 = 1 →
      o.idx ≤ base j ∧ base j + U j ≤ o.idx + o.n
    let uniform := ∀ j ∈ haar, ∀ i, i < U j → c.tag (base j + i) % 4 = 1 ∧ L (base j + i) = L j
    (∀ t, k ≠ .nonlinear → regs ≠ [] → (∀ r ∈ regs, c.tag r = t) → tagRule c k srcs F = .ok (t, {})) ∧
    (mixed → haar = [] → tagRule c k srcs F = .ok (0, {})) ∧
    (mixed → ¬whole → tagRule c k srcs F = .error { code := 0x0C, detail := 2 }) ∧
    (mixed → haar ≠ [] → whole →
      (¬uniform → tagRule c k srcs F = .error { code := 0x0C, detail := 6 }) ∧
      (uniform → c.g.dmode = true → tagRule c k srcs F = .error { code := 0x0C, detail := 1 }) ∧
      (uniform → c.g.dmode = false → F = none → tagRule c k srcs F = .error { code := 0x0C, detail := 3 }) ∧
      (uniform → c.g.dmode = false → (∀ o ∈ srcs, o.temp = false → o.idx + o.n ≤ 256) → ∀ f ∈ [Fmt.f32, .bf16, .e4m3], F = some f →
        let w := f.bits
        let place := fun j r q => ((⟨base j + r / 4, 1, false⟩, (r % 4 * 256 + q * w) / w) : VOp × Nat)
        let out := fun j q => haarCol true (L j) f ((List.range (4 * U j)).map (fun r => elt c (place j r q).1 w (place j r q).2))
        ∃ rc, tagRule c k srcs F = .ok (0, rc) ∧
          let g1 := c.g.putAll rc.res.wrs
          (∀ j ∈ haar, (∀ i, i < U j → g1.tagGet (base j + i) = 0) ∧
            ∀ r q, r < 4 * U j → q < 256 / w → heldEl g1 c.run c.tick (place j r q).1 w (place j r q).2 = (out j q).1.getD r 0) ∧
          (∀ reg, reg < 256 → (∀ j ∈ haar, reg < base j ∨ base j + U j ≤ reg) → g1.tagGet reg = c.g.tagGet reg ∧
            ∀ W, W < 32 → heldWord g1 c.run c.tick reg W = heldWord c.g c.run c.tick reg W) ∧
          g1 = { c.g with v := g1.v, tag := g1.tag } ∧
          rc.blocks = ((haar.map base).eraseDups).length ∧ rc.level = (haar.map L).foldl max 0 ∧
          ∀ n, rc.res.flags.testBit n = true ↔ ∃ j ∈ haar, ∃ q, q < 256 / w ∧ (out j q).2.testBit n = true))

/-- R230, R222, R48, R120: the integer instructions with two vector sources, computed exactly on integers and narrowed as stated; each
element by its class, no flag, and `sat` for the saturating ones. -/
def Obligations.IntegerVectorResults : Prop :=
  let up := fun c : Ctx => decide (8 ≤ c.g.sew ∧ c.g.sew ≤ 64)
  let I := fun (c : Ctx) (x : Nat) => (BitVec.ofNat c.g.sew x).toInt
  let N := fun (c : Ctx) (x : Nat) => ((BitVec.ofNat c.g.sew x).toNat : Int)
  let Z := fun (c : Ctx) (i : Int) => ({ val := (BitVec.ofInt c.g.sew i).toNat } : ElRes)
  let clamp := fun (c : Ctx) (lo hi i : Int) =>
    ({ val := (BitVec.ofInt c.g.sew (max lo (min hi i))).toNat, sat := decide (i < lo ∨ hi < i) } : ElRes)
  let SI := fun (c : Ctx) (i : Int) => clamp c (-(2 ^ (c.g.sew - 1) : Nat)) ((2 ^ (c.g.sew - 1) : Nat) - 1) i
  let SN := fun (c : Ctx) (i : Int) => clamp c 0 ((2 ^ c.g.sew : Nat) - 1) i
  (∀ t, t < 4 →
    FormVV (fun f => .vadd f t) (fun c => c.g.sew == 8 * 2 ^ t) .nonlinear false (fun c x y _ => Z c (N c x + N c y)) ∧
    FormVV (fun f => .vsub f t) (fun c => c.g.sew == 8 * 2 ^ t) .nonlinear false (fun c x y _ => Z c (N c x - N c y)) ∧
    FormVV (fun f => .vmul f t) (fun c => c.g.sew == 8 * 2 ^ t) .nonlinear false (fun c x y _ => Z c (N c x * N c y))) ∧
  (∀ row ∈ ([(.vmulhI, fun c x y => Z c (I c x * I c y / (2 ^ c.g.sew : Nat))),
      (.vmulhN, fun c x y => Z c (N c x * N c y / (2 ^ c.g.sew : Nat))),
      (.vmulhIn, fun c x y => Z c (I c x * N c y / (2 ^ c.g.sew : Nat))),
      (.vminI, fun c x y => Z c (min (I c x) (I c y))), (.vminN, fun c x y => Z c (min (N c x) (N c y))),
      (.vmaxI, fun c x y => Z c (max (I c x) (I c y))), (.vmaxN, fun c x y => Z c (max (N c x) (N c y))),
      (.vaddsI, fun c x y => SI c (I c x + I c y)), (.vaddsN, fun c x y => SN c (N c x + N c y)),
      (.vsubsI, fun c x y => SI c (I c x - I c y)), (.vsubsN, fun c x y => SN c (N c x - N c y)),
      (.vavgI, fun c x y => Z c ((I c x + I c y + 1) / 2)), (.vavgN, fun c x y => Z c ((N c x + N c y + 1) / 2)),
      (.vabsdI, fun c x y => Z c (I c x - I c y).natAbs), (.vabsdN, fun c x y => Z c (N c x - N c y).natAbs),
      (.vshlVector, fun c x y => Z c (N c x * (2 ^ (y % c.g.sew) : Nat))), (.vsrlVector, fun c x y => Z c (N c x / (2 ^ (y % c.g.sew) : Nat))),
      (.vsraVector, fun c x y => Z c (I c x / (2 ^ (y % c.g.sew) : Nat))),
      (.vrsraVector, fun c x y => Z c ((I c x + (2 ^ (y % c.g.sew) : Nat) / 2) / (2 ^ (y % c.g.sew) : Nat)))] :
      List ((LV → Instr) × (Ctx → Nat → Nat → ElRes))),
    FormVV row.1 up .nonlinear false (fun c x y _ => row.2 c x y)) ∧
  FormVV .vmac up .nonlinear true (fun c x y d => Z c (N c d + N c x * N c y)) ∧
  (∀ row ∈ ([(.vand, fun c x y => { val := (BitVec.ofNat c.g.sew x &&& BitVec.ofNat c.g.sew y).toNat }),
      (.vor, fun c x y => { val := (BitVec.ofNat c.g.sew x ||| BitVec.ofNat c.g.sew y).toNat }),
      (.vxor, fun c x y => { val := (BitVec.ofNat c.g.sew x ^^^ BitVec.ofNat c.g.sew y).toNat }),
      (.vandn, fun c x y => { val := (BitVec.ofNat c.g.sew x &&& ~~~BitVec.ofNat c.g.sew y).toNat })] :
      List ((LV → Instr) × (Ctx → Nat → Nat → ElRes))),
    FormVV row.1 (fun _ => true) .nonlinear false (fun c x y _ => row.2 c x y))

/-- R230, R231: the integer instructions with a scalar or an immediate operand, and the packed 16-bit ones with their one saturation. -/
def Obligations.IntegerScalarAndPackedResults : Prop :=
  let up := fun c : Ctx => decide (8 ≤ c.g.sew ∧ c.g.sew ≤ 64)
  let is32 := fun c : Ctx => c.g.sew == 32
  let I := fun (c : Ctx) (x : Nat) => (BitVec.ofNat c.g.sew x).toInt
  let N := fun (c : Ctx) (x : Nat) => ((BitVec.ofNat c.g.sew x).toNat : Int)
  let Z := fun (c : Ctx) (i : Int) => ({ val := (BitVec.ofInt c.g.sew i).toNat } : ElRes)
  let lo16 := fun x : Nat => (BitVec.ofNat 16 x).toInt
  let hi16 := fun x : Nat => (BitVec.ofNat 16 (x / 2 ^ 16)).toInt
  let S := fun (w : Nat) (i : Int) => max (-((2 ^ (w - 1) : Nat) : Int)) (min (((2 ^ (w - 1) : Nat) : Int) - 1) i)
  let pmac := fun x y d : Nat =>
    let t := (BitVec.ofNat 32 d).toInt + (lo16 x * lo16 y + hi16 x * hi16 y)
    ({ val := (BitVec.ofInt 32 (S 32 t)).toNat, sat := decide (S 32 t ≠ t) } : ElRes)
  (∀ row ∈ ([(.vshlScalar, .vshlImm, fun c x n => Z c (N c x * (2 ^ (n % c.g.sew) : Nat))),
      (.vsrlScalar, .vsrlImm, fun c x n => Z c (N c x / (2 ^ (n % c.g.sew) : Nat))),
      (.vsraScalar, .vsraImm, fun c x n => Z c (I c x / (2 ^ (n % c.g.sew) : Nat))),
      (.vrsraScalar, .vrsraImm, fun c x n => Z c ((I c x + (2 ^ (n % c.g.sew) : Nat) / 2) / (2 ^ (n % c.g.sew) : Nat)))] :
      List ((LV → Instr) × (LV → Instr) × (Ctx → Nat → Nat → ElRes))),
    FormVX row.1 up .nonlinear false true (fun c x y _ => row.2.2 c x y) ∧
    FormVX row.2.1 up .nonlinear false false (fun c x y _ => row.2.2 c x y)) ∧
  FormVX .vaddScalar up .nonlinear false true (fun c x y _ => Z c (N c x + N c y)) ∧
  FormVX .vsubScalar up .nonlinear false true (fun c x y _ => Z c (N c x - N c y)) ∧
  FormVX .vrsub up .nonlinear false true (fun c x y _ => Z c (N c y - N c x)) ∧
  FormVX .vmulScalar up .nonlinear false true (fun c x y _ => Z c (N c x * N c y)) ∧
  FormVV .vpmac2I16x2 is32 .nonlinear true (fun _ x y d => pmac x y d) ∧
  FormVX .vpmac2I16x2Scalar is32 .nonlinear true true (fun _ x y d => pmac x y d) ∧
  FormVV .vpaddsI16x2 is32 .nonlinear false (fun _ x y _ =>
    let l := lo16 x + lo16 y
    let h := hi16 x + hi16 y
    { val := (BitVec.ofInt 16 (S 16 l)).toNat + 2 ^ 16 * (BitVec.ofInt 16 (S 16 h)).toNat, sat := decide (S 16 l ≠ l ∨ S 16 h ≠ h) })

/-- R230, R229, R223, R228: the compares, integer and floating point; a floating-point compare with a NaN is false but for UN, LT and LE
raise NV on any NaN and EQ and UN on a signalling one. -/
def Obligations.CompareResults : Prop :=
  let up := fun c : Ctx => decide (8 ≤ c.g.sew ∧ c.g.sew ≤ 64)
  let fl := fun c : Ctx => c.g.sew == 16 || c.g.sew == 32 || c.g.sew == 64
  let B := fun b : Bool => ({ val := if b then 1 else 0 } : ElRes)
  let nan := fun (c : Ctx) (x : Nat) => ((fenvSew c).dec x).isNan
  let sig := fun (c : Ctx) (x : Nat) => ((fenvSew c).dec x).isSig
  let F := fun (b nv : Bool) => ({ val := if b then 1 else 0, flags := if nv then Fl.nv else 0 } : ElRes)
  FormCompare .vcmpeq up (fun _ x y => B (x == y)) ∧ FormCompare .vcmpne up (fun _ x y => B (x != y)) ∧
  FormCompare .vcmpltI up (fun c x y => B (decide ((BitVec.ofNat c.g.sew x).toInt < (BitVec.ofNat c.g.sew y).toInt))) ∧
  FormCompare .vcmpltN up (fun _ x y => B (decide (x < y))) ∧
  FormCompare .vfcmpeq fl (fun c x y => F (FVal.eq ((fenvSew c).dec x) ((fenvSew c).dec y)) (sig c x || sig c y)) ∧
  FormCompare .vfcmplt fl (fun c x y => F (FVal.lt ((fenvSew c).dec x) ((fenvSew c).dec y)) (nan c x || nan c y)) ∧
  FormCompare .vfcmple fl (fun c x y => F (FVal.lt ((fenvSew c).dec x) ((fenvSew c).dec y) || FVal.eq ((fenvSew c).dec x) ((fenvSew c).dec y))
    (nan c x || nan c y)) ∧
  FormCompare .vfcmpun fl (fun c x y => F (nan c x || nan c y) (sig c x || sig c y))

/-- R63, R227: the 16-bit forms on whole words, their tag classes with them. -/
def Obligations.HalfwordFormResults : Prop :=
  let W := fun x : BitVec 32 => ({ val := x.toNat } : ElRes)
  let b := fun x : Nat => BitVec.ofNat 32 x
  (∀ row ∈ ([(.vaddI32H, fun x y => W (b x + b y)), (.vsubI32H, fun x y => W (b x - b y)), (.vmulI32H, fun x y => W (b x * b y)),
      (.vandH, fun x y => W (b x &&& b y)), (.vorH, fun x y => W (b x ||| b y)), (.vxorH, fun x y => W (b x ^^^ b y)),
      (.vshlI32H, fun x y => W (b x <<< (y % 32))), (.vsraI32H, fun x y => W ((b x).sshiftRight (y % 32)))] :
      List ((HF → Instr) × (Nat → Nat → ElRes))), FormHalf row.1 .nonlinear .f32 (fun _ x y => row.2 x y)) ∧
  FormHalf .vaddF32H .linear .f32 (fun c x y => (fenv c .f32).add x y) ∧ FormHalf .vsubF32H .linear .f32 (fun c x y => (fenv c .f32).sub x y) ∧
  FormHalf .vmulF32H .nonlinear .f32 (fun c x y => (fenv c .f32).mul x y) ∧
  FormHalf .vmaxF32H .nonlinear .f32 (fun c x y => (fenv c .f32).minmax true x y) ∧
  FormHalf .vminF32H .nonlinear .f32 (fun c x y => (fenv c .f32).minmax false x y) ∧
  FormHalf .vaddBf16x2H .linear .bf16 (fun c x y => halves (fenv c .bf16).add x y) ∧
  FormHalf .vmulBf16x2H .nonlinear .bf16 (fun c x y => halves (fenv c .bf16).mul x y)

/-- R221, R228, R229, R36: the floating-point instructions on elements: each format by T or SEW, one rounding in the mode of `frm` with SR
as RNE, flags from active elements of live lanes, tag classes as their entries say. -/
def Obligations.FloatElementResults : Prop :=
  let fl := fun c : Ctx => c.g.sew == 16 || c.g.sew == 32 || c.g.sew == 64
  let is32 := fun c : Ctx => c.g.sew == 32
  (∀ t, t < 4 → ∀ (s : State) (c : Ctx) (f : LV), ctxOf s = some c → c.g.sew = (fmtT t).bits →
    let d := bankOp c f.vb f.vd c.g.grp
    let a := bankOp c f.vb f.vs1 c.g.grp
    let b := bankOp c f.vb f.vs2 c.g.grp
    let form := fun (i : Instr) k (op : FEnv → Nat → Nat → ElRes) => ElementForm i 4 c s true 2 d [a, b] [a, b] c.g.sew k (reconFmt c.g.sew)
      (fun c' => predOf c' f.pr) (fun c' e => op (fenv c' (fmtT t)) (elt c' a c.g.sew e) (elt c' b c.g.sew e))
    form (.vaddF f t) .linear FEnv.add ∧ form (.vsubF f t) .linear FEnv.sub ∧ form (.vmulF f t) .nonlinear FEnv.mul) ∧
  (∀ t, t < 4 → let ok := fun c : Ctx => c.g.sew == (fmtT t).bits
    FormVV (fun f => .vdivF f t) ok .nonlinear false (fun c x y _ => (fenv c (fmtT t)).div x y) ∧
    FormVV (fun f => .vfmaF f t) ok .nonlinear true (fun c x y d => (fenv c (fmtT t)).fma false false x y d) ∧
    FormVV (fun f => .vfmsF f t) ok .nonlinear true (fun c x y d => (fenv c (fmtT t)).fma false true x y d) ∧
    FormVV (fun f => .vfnmaF f t) ok .nonlinear true (fun c x y d => (fenv c (fmtT t)).fma true false x y d) ∧
    FormVV (fun f => .vminF f t) ok .nonlinear false (fun c x y _ => (fenv c (fmtT t)).minmax false x y) ∧
    FormVV (fun f => .vmaxF f t) ok .nonlinear false (fun c x y _ => (fenv c (fmtT t)).minmax true x y)) ∧
  FormLW .vsqrt fl .nonlinear (fun c x => (fenvSew c).sqrt x) ∧ FormLW .vabs fl .nonlinear (fun c x => signOp (fenvSew c).F false x) ∧
  FormLW .vneg fl .linear (fun c x => signOp (fenvSew c).F true x) ∧ FormLW .vclass fl .nonlinear (fun c x => classOp (fenvSew c).F x) ∧
  FormVX .vaddFScalar fl .nonlinear false true (fun c x y _ => (fenvSew c).add x y) ∧
  FormVX .vmulFScalar fl .linear false true (fun c x y _ => (fenvSew c).mul x y) ∧
  FormVX .vsubFScalar fl .nonlinear false true (fun c x y _ => (fenvSew c).sub x y) ∧
  FormVX .vfmaFScalar fl .nonlinear true true (fun c x y d => (fenvSew c).fma false false x y d) ∧
  FormVV .vaddBf16x2 is32 .linear false (fun c x y _ => halves (fenv c .bf16).add x y) ∧
  FormVV .vsubBf16x2 is32 .linear false (fun c x y _ => halves (fenv c .bf16).sub x y) ∧
  FormVV .vmulBf16x2 is32 .nonlinear false (fun c x y _ => halves (fenv c .bf16).mul x y) ∧
  FormVV .vfmaBf16x2 is32 .nonlinear true (fun c x y d => halves3 ((fenv c .bf16).fma false false) x y d)

/-- R232, R222: `VSEL` takes each element from one source or the other by its predicate, needs a predicate, and the mask policy does not
apply; `VSPLAT` writes the low bits of a scalar and `VID` the element number to every active element. R238, R221: the special functions
are element-wise, non-linear, on F32 and BF16; on BF16 the operand is widened and the F32 result rounded once. Which of the values within
the error bound is returned is a free choice of the model (log entry 3). -/
def Obligations.SelectAndSpecialFunctions : Prop :=
  (let up := fun c : Ctx => decide (8 ≤ c.g.sew ∧ c.g.sew ≤ 64)
   ∀ (s : State) (c : Ctx) (f : LV) (n : Nat), ctxOf s = some c → c.g.sew ≤ 64 →
     let w := c.g.sew
     let d := bankOp c f.vb f.vd c.g.grp
     let a := bankOp c f.vb f.vs1 c.g.grp
     let b := bankOp c f.vb f.vs2 c.g.grp
     ElementForm (.vsel f) 4 c s (up c && decide (f.pr ≠ 0)) 2 d [a, b] [a, b] w .nonlinear (reconFmt w) (fun _ _ => true)
       (fun c' e => { val := if predOf c' f.pr e then elt c' a w e else elt c' b w e }) ∧
     ElementForm (.vsplat n f.vd f.vb f.pr) 4 c s (up c) 2 d [] [] w .nonlinear (reconFmt w) (fun c' => predOf c' f.pr)
       (fun c' _ => { val := c'.sn n % 2 ^ w }) ∧
     ElementForm (.vid f.vd f.vb f.pr) 4 c s (up c) 2 d [] [] w .nonlinear (reconFmt w) (fun c' => predOf c' f.pr) (fun _ e => { val := e % 2 ^ w })) ∧
  (let ok := fun c : Ctx => c.g.sew == 16 || c.g.sew == 32
   let res := fun (fn : SpFn) (c : Ctx) (x : Nat) =>
     if c.g.sew = 32 then ({ val := (fn.f32 c.g.fz x).1, flags := (fn.f32 c.g.fz x).2 } : ElRes)
     else
       let r := fn.f32 c.g.fz (flushIn .bf16 c.g.fz x * 2 ^ 16)
       let q := roundVal .bf16 .rne false c.g.fz 0 (Fmt.f32.decode r.1)
       { val := q.1, flags := r.2 ||| q.2 }
   ∀ row ∈ ([(.vexp2, .exp2), (.vlog2, .log2), (.vexp, .exp), (.vlog, .log), (.vrcp, .rcp), (.vrsq, .rsq), (.vtanh, .tanh), (.vsin, .sin),
       (.vcos, .cos)] : List ((LW → Instr) × SpFn)), FormLW row.1 ok .nonlinear (fun c x => res row.2 c x))

/-- R233, R40, R42, R43: the conversions between floating point and integers, widening and narrowing, by the pairs T and SEW name. Of the
model's reading are: integer to integer under SR advances `sgen` as every conversion does (DEDUCED, log entry 13), an element's k in *SRWord*
counts all elements of its lane (DEDUCED, log entry 18), an infinity to an integer sets NV and not `sat` (DEDUCED, log entry 138), and an
element is written, or takes a policy, only where the lanes of both its sides are active (DEDUCED, log entry 139). -/
def Obligations.ConversionResults : Prop :=
  (∀ t, t < 4 → FormConvert (fun f => .vfcvt f t) (fcvtPair t)) ∧ FormConvert .vfcvtI (f2iPair true false) ∧
  FormConvert .vfcvtN (f2iPair false false) ∧ FormConvert .vfcvtzI (f2iPair true true) ∧ FormConvert .vfcvtzN (f2iPair false true) ∧
  FormConvert .vicvtI (i2fPair true) ∧ FormConvert .vicvtN (i2fPair false) ∧ FormConvert .vsext (i2iPair true true false) ∧
  FormConvert .vzext (i2iPair true false false) ∧ FormConvert .vnarrow (i2iPair false true false) ∧
  FormConvert .vnarrows (i2iPair false true true)

/-- R235, R236, R237, R228: the instructions on MX and BFP8 blocks: conversions, which take no predicate and at most eight registers on the
F32 side, and `VADD`, `VSUB`, `VMUL` of majors 0x30 to 0x32 at SEW 8 and 4, without a predicate. A block is processed if its first element is
below `vl` and every lane of its elements on both sides is active; elements behind `vl` count as zero. Out of a block each exact value is
rounded to F32; arithmetic decodes both blocks under their scales, computes exactly and encodes as a conversion does. R44: a block that holds
a NaN or an infinity gets scale 255 and zero elements; else the scale is the exponent of the largest magnitude less the element format's,
within −127 to 127 (−127 for zeros), and each element the value over it, rounded once with saturation (MXINT8: to an integer within ±127).
R45: BFP8 mantissas likewise, under their shared exponent. Of the model's reading are UF of a tiny inexact element (DEDUCED, log entry 26),
the sign of an exact zero, as R37 gives it (DEDUCED, log entry 28), and that flags come from elements of live lanes (DEDUCED, log entry 39). -/
def Obligations.BlockInstructions : Prop :=
  (∀ (s : State) (c : Ctx), ctxOf s = some c →
     let w := c.g.sew
     let wide := c.g.grp * (32 / w)
     let runs := fun (n k : Nat) (sides : List Nat) => decide (k * n < c.g.vl) &&
       (List.range n).all (fun i => sides.all (fun v => c.act (laneOf v (k * n + i))))
     (∀ (f : LW) (t : Nat), ∀ row ∈ ([(.vmxcvtToMx f t, true, mxSel t w), (.vmxcvtFromMx f t, false, mxSel t w),
         (.vmxcvtMxint8F32 f, true, if w = 8 then some .mxint8 else none), (.vmxcvtF32Mxint8 f, false, if w = 8 then some .mxint8 else none),
         (.vbfpcvtBfp8F32 f, true, if w = 8 then some .bfp8 else none), (.vbfpcvtF32Bfp8 f, false, if w = 8 then some .bfp8 else none)] :
         List (Instr × Bool × Option BlockFmt)),
       let d := wideOp c f.a f.ia (if row.2.1 then c.g.grp else wide)
       let v := wideOp c f.b f.ib (if row.2.1 then wide else c.g.grp)
       (row.2.2 = none → exec row.1 s = .next (takeTrap c { code := 0x01, detail := 2 } s)) ∧
       (∀ b, row.2.2 = some b →
         (f.pr ≠ 0 ∨ 8 < wide → exec row.1 s = .next (takeTrap c { code := 0x01 } s)) ∧
         (f.pr = 0 → wide ≤ 8 →
           (∀ t, laneChecks c true 0 [d] [d, v] = .error t → exec row.1 s = .next (takeTrap c t s)) ∧
           (laneChecks c true 0 [d] [d, v] = .ok () →
             (∀ t, tagRule c .copy [v] (reconFmt w) = .error t → exec row.1 s = .next (takeTrap c t s)) ∧
             (∀ tag rc, tagRule c .copy [v] (reconFmt w) = .ok (tag, rc) → d.exists' → v.exists' →
               let c' := c.after rc.res.wrs
               let n := if b = .bfp8 then 16 else 32
               let xs := fun k => (List.range n).map (fun i =>
                 if k * n + i < c.g.vl then decodeFz .f32 c.g.fz (elt c' v 32 (k * n + i)) else .fin false 0 1)
               let enc := fun k => match b with
                 | .mx F => mxEncode (some F) c.g.rmArith c.g.fz (xs k)
                 | .mxint8 => mxEncode none c.g.rmArith c.g.fz (xs k)
                 | .bfp8 => bfpEncode 8 (xs k)
               let per := 1024 / w / n
               let dec := fun k i =>
                 let x := elt c' v w (k * n + i)
                 let sc := c'.scale (v.reg (k / per)) (k % per)
                 let q := (BitVec.ofNat 8 x).toInt
                 match b with
                 | .mx F => if sc = 255 then FVal.nan false else (decodeFz F c.g.fz (x % 2 ^ F.bits)).scale2 ((sc : Int) - 127)
                 | .mxint8 => if sc = 255 then FVal.nan false else dyadic (decide (q < 0)) q.natAbs ((sc : Int) - 127 - 6)
                 | .bfp8 => dyadic (decide (q < 0)) q.natAbs ((sc : Int) - 127 - 7)
               ∃ s1 g r, BlocksDone row.1 c s rc d (if row.2.1 then w else 32) n tag (fun k =>
                 if runs n k [w, 32] then
                   (if row.2.1 then some ((enc k).els, some (enc k).scale)
                    else some ((List.range n).map (fun i => roundVal .f32 c.g.rmArith false c.g.fz 0 (dec k i)), none))
                 else none) s1 g r))))) ∧
     (∀ (f : LV) (t : Nat) (F : Fmt), mxFmtT w t = some F → f.pr ≠ 0 → ∀ i ∈ [Instr.vaddF f t, .vsubF f t, .vmulF f t],
       exec i s = .next (takeTrap c { code := 0x01 } s)) ∧
     (∀ (f : LV) (t : Nat) (F : Fmt), mxFmtT w t = some F → f.pr = 0 →
       let d := bankOp c f.vb f.vd c.g.grp
       let a := bankOp c f.vb f.vs1 c.g.grp
       let b := bankOp c f.vb f.vs2 c.g.grp
       ∀ row ∈ ([(.vaddF f t, .linear, fun x y => (FVal.add (c.g.rmArith == .rdn) x y).1),
           (.vsubF f t, .linear, fun x y => (FVal.add (c.g.rmArith == .rdn) x y.neg).1), (.vmulF f t, .nonlinear, fun x y => (FVal.mul x y).1)] :
           List (Instr × TagClass × (FVal → FVal → FVal))),
         (∀ t, laneChecks c true 2 [d] [d, a, b] = .error t → exec row.1 s = .next (takeTrap c t s)) ∧
         (laneChecks c true 2 [d] [d, a, b] = .ok () →
           (∀ t, tagRule c row.2.1 [a, b] (reconFmt w) = .error t → exec row.1 s = .next (takeTrap c t s)) ∧
           (∀ tag rc, tagRule c row.2.1 [a, b] (reconFmt w) = .ok (tag, rc) → d.exists' → a.exists' → b.exists' →
             let c' := c.after rc.res.wrs
             let per := 32 / w
             let sc := fun (v : VOp) (k : Nat) => c'.scale (v.reg (k / per)) (k % per)
             let val := fun (v : VOp) (k i : Nat) => if 32 * k + i < c.g.vl then
               (if sc v k = 255 then FVal.nan false else (decodeFz F c.g.fz (elt c' v w (32 * k + i))).scale2 ((sc v k : Int) - 127)) else FVal.fin false 0 1
             let enc := fun k => mxEncode (some F) c.g.rmArith c.g.fz ((List.range 32).map (fun i => row.2.2 (val a k i) (val b k i)))
             ∃ s1 g r, BlocksDone row.1 c s rc d w 32 tag (fun k =>
               if runs 32 k [w] then
                 (if sc a k = 255 ∨ sc b k = 255 then some (List.replicate 32 (0, 0), some 255) else some ((enc k).els, some (enc k).scale))
               else none) s1 g r)))) ∧
  (∀ (F : Option Fmt) (mode : Rm) (fz : Bool) (xs : List FVal),
     let em := (F.map emaxElem).getD 0
     let X : Int := match amaxExp xs with
       | none => -127
       | some e => max (-127) (min 127 (e - em))
     let r := mxEncode F mode fz xs
     ((∃ x ∈ xs, x.isNan = true ∨ x.isInf = true) → r.scale = 255 ∧ r.els = xs.map (fun x => (0, if x.isNan then Fl.nv else 0))) ∧
     ((∀ x ∈ xs, x.isNan = false ∧ x.isInf = false) → r.scale = (X + 127).toNat ∧ r.els.length = xs.length ∧
       (∀ f, F = some f → r.els = xs.map (fun x => roundVal f mode true fz 0 (x.scale2 (-X)))) ∧
       (F = none → ∀ (i : Nat) neg n d, (xs.map (fun x => (x.scale2 (-X)).scale2 6))[i]? = some (FVal.fin neg n d) →
         let q := roundInt mode 0 neg n d
         r.els[i]? = some ((BitVec.ofInt 8 (max (-127) (min 127 q.1))).toNat,
           if q.1 < -127 ∨ 127 < q.1 then Fl.of + Fl.nx else if q.2 then Fl.nx else 0)))) ∧
  (∀ xs : List FVal,
     let E : Int := match amaxExp xs with
       | none => 0
       | some e => max 0 (min 255 (e + 128))
     let r := bfpEncode 8 xs
     r.scale = E.toNat ∧ r.els.length = xs.length ∧ ∀ (i : Nat) x, (xs.map (fun x => x.scale2 (134 - E)))[i]? = some x → r.els[i]? = some (match (x : FVal) with
       | .nan _ => (0, Fl.nv)
       | .inf neg => (if neg then 0x80 else 0x7F, Fl.of + Fl.nx)
       | .fin neg n d =>
         let q := roundInt .rne 0 neg n d
         ((BitVec.ofInt 8 (max (-128) (min 127 q.1))).toNat,
           if q.1 < -128 ∨ 127 < q.1 then Fl.of + Fl.nx else if q.2 then Fl.nx else 0)))

/-- R227, R239, R225: the moves that carry sidecars. A 16-bit `VMOV` copies words, and the scale and tag of its source if it writes any;
`VMOV.W` does so register by register for element-wise moves under the policies; nothing is reconstructed. R239: `VSCGET` writes the scale
sidecars of a register group to the words of one register, `VSCPUT` words to sidecars, in active lanes; a predicate is ILLEGAL. -/
def Obligations.SidecarMoves : Prop :=
  ((∀ (s : State) (c : Ctx) (f : HF), ctxOf s = some c → f.vd < 256 → f.vs < 256 →
     let p := fun L => c.act L && (f.m == 0 || (c.m 0).getLsbD L)
     laneChecks c true 0 [⟨f.vd, 1, false⟩] [⟨f.vd, 1, false⟩, ⟨f.vs, 1, false⟩] = .ok () →
     ∃ s1 g r, exec (.vmov f) s = .next (retire 2 c.slot s1) ∧ OnlyIssuer c s s1 g r ∧
       g.unnoted = { c.g.unnoted with v := g.v, tag := g.tag, scale := g.scale } ∧ r.unnoted = c.run.unnoted ∧
       (∀ reg L, L < 32 → (laneWord (g.vGet reg) L).toNat = if reg = f.vd ∧ p L = true then c.vw f.vs L % 2 ^ 32 else (laneWord (c.g.vGet reg) L).toNat) ∧
       (∀ reg k, reg < 256 → k < 8 → let any := (List.range 32).any p
         (g.tagGet reg).toNat = (if reg = f.vd ∧ any = true then c.tag f.vs % 256 else (c.g.tagGet reg).toNat) ∧
         (g.scaleGet reg).toNat / 256 ^ k % 256 =
           if reg = f.vd ∧ any = true then c.scale f.vs k % 256 else (c.g.scaleGet reg).toNat / 256 ^ k % 256)) ∧
   (∀ (s : State) (c : Ctx) (f : LW), ctxOf s = some c → c.g.sew ≤ 64 →
     let w := c.g.sew
     let d := wideOp c f.a f.ia c.g.grp
     let b := wideOp c f.b f.ib c.g.grp
     let new := laneNew c w (predOf c f.pr) (fun e => { val := elt c b w e })
     laneChecks c true 0 [d] [d, b] = .ok () → d.exists' → b.exists' → d.temp = false →
     ∃ s1 g r, exec (.vmovW f) s = .next (retire 4 c.slot s1) ∧ OnlyIssuer c s s1 g r ∧
       g.unnoted = { c.g.unnoted with v := g.v, tag := g.tag, scale := g.scale } ∧ r.unnoted = c.run.unnoted ∧
       (∀ e, e < 1024 / w * d.n → heldEl g r c.tick d w e = (new e).getD (heldEl c.g c.run c.tick d w e)) ∧
       (∀ i k, i < d.n → k < 8 → let any := (List.range (1024 / w)).any (fun j => (new (1024 / w * i + j)).isSome)
         (g.tagGet (d.idx + i)).toNat = (if any then c.tag (b.reg i) % 256 else (c.g.tagGet (d.idx + i)).toNat) ∧
         (g.scaleGet (d.idx + i)).toNat / 256 ^ k % 256 =
           if any then c.scale (b.reg i) k % 256 else (c.g.scaleGet (d.idx + i)).toNat / 256 ^ k % 256) ∧
       (∀ reg, reg < 256 → (∀ i, i < d.n → reg ≠ d.idx + i) → g.vGet reg = c.g.vGet reg ∧ g.tagGet reg = c.g.tagGet reg ∧
         g.scaleGet reg = c.g.scaleGet reg)) ∧
   (∀ (s : State) (c : Ctx) (f : LW), ctxOf s = some c →
     let d := wideOp c f.a f.ia c.g.grp
     let b := wideOp c f.b f.ib c.g.grp
     laneChecks c true 0 [d] [d, b] = .ok () → ∃ s1, exec (.vmovW f) s = .next (retire 4 c.slot s1))) ∧
  (∀ (s : State) (c : Ctx) (f : LW), ctxOf s = some c →
     (f.pr ≠ 0 → exec (.vscget f) s = .next (takeTrap c { code := 0x01 } s) ∧ exec (.vscput f) s = .next (takeTrap c { code := 0x01 } s)) ∧
     (f.pr = 0 →
       (let a := wideOp c f.a f.ia 1
        let b := wideOp c f.b f.ib c.g.grp
        laneChecks c true 0 [a] [a, b] = .ok () → a.exists' → b.exists' → a.temp = false →
         ∃ s1 g r, exec (.vscget f) s = .next (retire 4 c.slot s1) ∧ OnlyIssuer c s s1 g r ∧
           g.unnoted = { c.g.unnoted with v := g.v } ∧ r.unnoted = c.run.unnoted ∧
           ∀ reg L, L < 32 → (laneWord (g.vGet reg) L).toNat = if reg = a.idx ∧ L < 2 * c.g.grp ∧ c.act L = true then
             c.scales (b.reg (L / 2)) / 2 ^ (32 * (L % 2)) % 2 ^ 32 else (laneWord (c.g.vGet reg) L).toNat) ∧
       (let a := wideOp c f.a f.ia c.g.grp
        let b := wideOp c f.b f.ib 1
        laneChecks c true 0 [a] [a, b] = .ok () → a.exists' → b.exists' → a.temp = false →
         ∃ s1 g r, exec (.vscput f) s = .next (retire 4 c.slot s1) ∧ OnlyIssuer c s s1 g r ∧
           g.unnoted = { c.g.unnoted with scale := g.scale } ∧ r.unnoted = c.run.unnoted ∧
           ∀ k j, k < c.g.grp → j < 8 → (g.scaleGet (a.idx + k)).toNat / 256 ^ j % 256 =
             if c.act (2 * k) = true ∧ c.act (2 * k + 1) = true then c.vw (b.reg 0) (2 * k + j / 4) / 256 ^ (j % 4) % 256
             else (c.g.scaleGet (a.idx + k)).toNat / 256 ^ j % 256)))

/-- R240 to R242, R244: slides, permutations and quad exchanges. -/
def Obligations.CrossLaneMoves : Prop :=
  let up := fun c : Ctx => decide (8 ≤ c.g.sew ∧ c.g.sew ≤ 64)
  let pick := fun (c : Ctx) (o : VOp) (mem : Word32) (j : Int) (fill : Nat) =>
    if 0 ≤ j ∧ j < (c.g.vl : Int) ∧ inSet mem (laneOf c.g.sew j.toNat) = true then elt c o c.g.sew j.toNat else fill
  ∀ (s : State) (c : Ctx) (d m v k : Nat), ctxOf s = some c → c.g.sew ≤ 64 →
    let vd : VOp := ⟨d, c.g.grp, false⟩
    let vs : VOp := ⟨v, c.g.grp, false⟩
    FormCross (.vslidedn d m v k) s c (up c) d m [] [vd]
      (fun c' mem e => pick c' vd mem ((e : Int) + (2 ^ k : Nat)) (c'.sn v % 2 ^ c.g.sew)) (fun _ _ => 0) ∧
    FormCross (.vslideup d m v k) s c (up c) d m [] [vd]
      (fun c' mem e => pick c' vd mem ((e : Int) - (2 ^ k : Nat)) (c'.sn v % 2 ^ c.g.sew)) (fun _ _ => 0) ∧
    FormCross (.vperm d m v) s c (up c) d m [vs] [vd, vs] (fun c' mem e => pick c' vs mem (elt c' vd c.g.sew e) 0) (fun _ _ => 0) ∧
    FormCross (.vrev d m v) s c (up c) d m [vs] [vs] (fun c' mem e => pick c' vs mem ((c.g.vl : Int) - 1 - e) 0) (fun _ _ => 0) ∧
    (∀ row ∈ ([(.vqxX1 d m, fun L => L ^^^ 1), (.vqxX2 d m, fun L => L ^^^ 2), (.vqxX3 d m, fun L => L ^^^ 3), (.vqxB0 d m, fun L => 4 * (L / 4)),
        (.vqxB1 d m, fun L => 4 * (L / 4) + 1), (.vqxB2 d m, fun L => 4 * (L / 4) + 2), (.vqxB3 d m, fun L => 4 * (L / 4) + 3)] :
        List (Instr × (Nat → Nat))),
      let o : VOp := ⟨d, 1, false⟩
      let mem := (c.m m).setWidth 32
      laneChecks c true 0 [o] [o] = .ok () → d < 256 →
        (mem &&& ~~~c.run.aset ≠ 0 → exec row.1 s = .next (takeTrap c { code := 0x04, lanes := some (mem &&& ~~~c.run.aset).toNat } s)) ∧
        (mem &&& ~~~c.run.aset = 0 → ∀ tag rc, tagRule c .nonlinear [o] (reconFmt c.g.sew) = .ok (tag, rc) →
          ∃ s1 g r, LaneDone row.1 4 c s rc o 32 tag
            (fun L => if inSet mem L = true ∧ inSet mem (row.2 L) = true then some ((c.after rc.res.wrs).vw d (row.2 L) % 2 ^ 32) else none)
            { c.g with fflags := c.g.fflags ||| rc.res.flags } s1 g r))

/-- R243: the reductions over the member elements in ascending order, their widening to 64 bits and their results over no element; that
`VREDMAX.F` and `VREDMIN.F` start from the first member passed through *Round*, as R243 says of FN 7, is DEDUCED (log entry 19). R243:
the scans, in place: a member element receives the sum or maximum over the member elements up to it, or before it. -/
def Obligations.ReductionAndScanResults : Prop :=
  (let up := fun c : Ctx => decide (8 ≤ c.g.sew ∧ c.g.sew ≤ 64)
   let fl := fun c : Ctx => c.g.sew == 16 || c.g.sew == 32 || c.g.sew == 64
   let I := fun (c : Ctx) (x : Nat) => (BitVec.ofNat c.g.sew x).toInt
   let vals := fun (c : Ctx) (o : VOp) (els : List Nat) => els.map (elt c o c.g.sew)
   let top := fun c : Ctx => 2 ^ c.g.sew - 1
   (∀ row ∈ ([(.vredsum, fun c xs => (BitVec.ofNat c.g.sew xs.sum).signExtend 64),
       (.vredmaxI, fun c xs => BitVec.ofInt 64 (xs.foldl (fun a x => max a (I c x)) (-((2 ^ (c.g.sew - 1) : Nat) : Int)))),
       (.vredmaxN, fun _ xs => BitVec.ofNat 64 (xs.foldl max 0)),
       (.vredminI, fun c xs => BitVec.ofInt 64 (xs.foldl (fun a x => min a (I c x)) (((2 ^ (c.g.sew - 1) : Nat) : Int) - 1))),
       (.vredminN, fun c xs => BitVec.ofNat 64 (xs.foldl min (top c))), (.vredand, fun c xs => BitVec.ofNat 64 (xs.foldl (· &&& ·) (top c))),
       (.vredor, fun _ xs => BitVec.ofNat 64 (xs.foldl (· ||| ·) 0))] : List ((Nat → Nat → Nat → Instr) × (Ctx → List Nat → Word64))),
     FormReduce row.1 up (fun c o els => row.2 c (vals c o els)) (fun _ _ _ => 0)) ∧
   (∀ row ∈ ([(.vredsumF, fun c a x => (fenvSew c).add a x, fun _ => 0),
       (.vredmaxF, fun c a x => (fenvSew c).minmax true a x, fun c => (fenvSew c).F.infBits true),
       (.vredminF, fun c a x => (fenvSew c).minmax false a x, fun c => (fenvSew c).F.infBits false)] :
       List ((Nat → Nat → Nat → Instr) × (Ctx → Nat → Nat → ElRes) × (Ctx → Nat))),
     FormReduce row.1 fl
       (fun c o els => BitVec.ofNat 64 ((els.foldl (orderedStep c o (row.2.1 c)) (none, 0)).1.getD (row.2.2 c)))
       (fun c o els => (els.foldl (orderedStep c o (row.2.1 c)) (none, 0)).2))) ∧
  (let up := fun c : Ctx => decide (8 ≤ c.g.sew ∧ c.g.sew ≤ 64)
   let fl := fun c : Ctx => c.g.sew == 16 || c.g.sew == 32 || c.g.sew == 64
   let I := fun (c : Ctx) (x : Nat) => (BitVec.ofNat c.g.sew x).toInt
   ∀ (s : State) (c : Ctx) (d m : Nat), ctxOf s = some c → c.g.sew ≤ 64 →
     let vd : VOp := ⟨d, c.g.grp, false⟩
     let upTo := fun (mem : Word32) (n : Nat) =>
       (List.range (1024 / c.g.sew * c.g.grp)).filter (fun e => decide (e < n ∧ e < c.g.vl) && inSet mem (laneOf c.g.sew e))
     let all := fun mem => upTo mem (1024 / c.g.sew * c.g.grp)
     FormCross (.vscansum d m) s c (up c) d m [] [vd] (fun c' mem e => ((upTo mem (e + 1)).map (elt c' vd c.g.sew)).sum) (fun _ _ => 0) ∧
     FormCross (.vexscansum d m) s c (up c) d m [] [vd] (fun c' mem e => ((upTo mem e).map (elt c' vd c.g.sew)).sum) (fun _ _ => 0) ∧
     FormCross (.vscanmaxI d m) s c (up c) d m [] [vd]
       (fun c' mem e => (BitVec.ofInt c.g.sew (((upTo mem (e + 1)).map (fun j => I c' (elt c' vd c.g.sew j))).foldl max
         (-((2 ^ (c.g.sew - 1) : Nat) : Int)))).toNat) (fun _ _ => 0) ∧
     FormCross (.vscansumF d m) s c (fl c) d m [] [vd]
       (fun c' mem e => (((upTo mem (e + 1)).foldl (orderedStep c' vd (fun a x => (fenvSew c').add a x)) (none, 0)).1).getD 0)
       (fun c' mem => ((all mem).foldl (orderedStep c' vd (fun a x => (fenvSew c').add a x)) (none, 0)).2))
/-! ### Memory instructions -/

/-- R151 to R154, R65: where a pointer leads, and the faults in their order ADDRESS, ALIGN, PERM: space 1 is the fabric; space 2 the SRAM
of a die that is enabled, large enough and of the partition; space 3 the group's window; 4 to 7 are no spaces. Among the faulting elements
of an instruction WINDOW comes first, then TOKEN, then what the lowest element raises (DEDUCED, log entry 20), with the lanes of all of them
(DEDUCED, log entry 10). -/
def Obligations.PointersAndFaultOrder : Prop :=
  (∀ (s : State) (u : Who) (a : Acc) (ptr n : Nat),
    let sp := ptr / 2 ^ 60 % 8
    let off := ptr % 2 ^ 60
    (4 ≤ sp → placeOf s u a ptr n = .error { code := 0x07, detail := 1, addr := ptr }) ∧
    (sp = 1 → (ptr % n ≠ 0 → placeOf s u a ptr n = .error { code := 0x08, addr := ptr }) ∧
      (ptr % n = 0 → placeOf s u a ptr n = .ok (.fabric (ptr / 2 ^ 48 % 4096) (ptr % 2 ^ 48)))) ∧
    (sp = 2 → let die := ptr / 2 ^ 26 % 8
      let bad := off / 2 ^ 29 ≠ 0 ∨ s.dies.testBit die = false ∨ s.sramSize die ≤ ptr % 2 ^ 26
      (bad → placeOf s u a ptr n = .error { code := 0x07, detail := 5, addr := ptr }) ∧
      (¬bad → ptr % n ≠ 0 → placeOf s u a ptr n = .error { code := 0x08, addr := ptr }) ∧
      (¬bad → ptr % n = 0 → die ∉ s.partDies u.part → placeOf s u a ptr n = .error { code := 0x09, detail := 5, addr := ptr }) ∧
      (¬bad → ptr % n = 0 → die ∈ s.partDies u.part → placeOf s u a ptr n = .ok (.sram (die * 2 ^ 26 + ptr % 2 ^ 26)))) ∧
    (sp = 3 → (128 * u.w ≤ off → placeOf s u a ptr n = .error { code := 0x06, addr := off / 128 }) ∧
      (off < 128 * u.w → ptr % n ≠ 0 → placeOf s u a ptr n = .error { code := 0x08, addr := ptr }) ∧
      (off < 128 * u.w → ptr % n = 0 → placeOf s u a ptr n = .ok (.win off))) ∧
    (sp = 0 → (∀ d, xlate s u a off = .error d → placeOf s u a ptr n = .error { code := 0x07, detail := d, addr := ptr }) ∧
      (∀ x, xlate s u a off = .ok x →
        (off % n ≠ 0 → placeOf s u a ptr n = .error { code := 0x08, addr := ptr }) ∧
        (off % n = 0 → ∀ d, permFault u a off x.leaf = some d → placeOf s u a ptr n = .error { code := 0x09, detail := d, addr := ptr })))) ∧
  (∀ (c : Ctx) (fs : List (Nat × Trap)) (k : Nat),
    let lanes := fun t : Trap => ∀ L, L < 32 → (t.lanes.getD 0).testBit L =
      (inSet c.run.aset L && c.g.isLive L && fs.any (fun f => laneOf c.g.sew f.1 == L))
    (fs = [] → memChecks c none (worst c c.g.sew fs) = .ok () ∧
      (c.g.tk.getLsbD k = true → memChecks c (some k) (worst c c.g.sew fs) = .error { code := 0x0B }) ∧
      (c.g.tk.getLsbD k = false → memChecks c (some k) (worst c c.g.sew fs) = .ok ())) ∧
    (∀ pre e t post, fs = pre ++ (e, t) :: post → t.code = 6 → (∀ f ∈ pre, f.2.code ≠ 6) →
      ∀ tok, ∃ m, memChecks c tok (worst c c.g.sew fs) = .error { t with lanes := some m } ∧ lanes { t with lanes := some m }) ∧
    (∀ e t post, fs = (e, t) :: post → (∀ f ∈ fs, f.2.code ≠ 6) →
      (c.g.tk.getLsbD k = true → memChecks c (some k) (worst c c.g.sew fs) = .error { code := 0x0B }) ∧
      (∀ tok, tok = none ∨ tok = some k ∧ c.g.tk.getLsbD k = false →
        ∃ m, memChecks c tok (worst c c.g.sew fs) = .error { t with lanes := some m } ∧ lanes { t with lanes := some m })))

/-- R204, R212, R199, R200, R16, R18: `LD`, `LDA` and `LDA.SC`. A fault or a pending token traps; else the load completes, with its token
pending and its destination to be written. In the usual case it holds the 8 bytes of memory, little-endian, from then on; when its data
has arrived, its writes land, nothing else of the group changes, and the token clears. -/
def Obligations.ScalarLoads : Prop :=
  (∀ (s : State) (c : Ctx) (d b k m : Nat) (o : Int), ctxOf s = some c → d < 64 → k < 16 →
    let load := fun (i : Instr) (x : Word64) =>
      let ptr := x.toNat
      (∀ t, placeOf s (whoOf s c) .rd ptr 8 = .error t → t.code = 6 ∨ c.g.tk.getLsbD k = false → exec i s = .next (takeTrap c t s)) ∧
      (c.g.tk.getLsbD k = true → (∀ t, placeOf s (whoOf s c) .rd ptr 8 = .error t → t.code ≠ 6) →
        exec i s = .next (takeTrap c { code := 0x0B } s)) ∧
      (∀ p, placeOf s (whoOf s c) .rd ptr 8 = .ok p → c.g.tk.getLsbD k = false → ∃ s1, exec i s = .next (retire 4 c.slot s1)) ∧
      (∀ pa, Quiet s c → c.g.tk.getLsbD k = false → Here s c .rd ptr 8 pa →
        ∃ s1 p ls pid, exec i s = .next (retire 4 c.slot s1) ∧
          s1.groups.find c.run.gid = some { c.g with tk := c.g.tk ||| BitVec.ofNat 16 (2 ^ k), pend := [(pid, p)], lanesAt := ls } ∧
          p.op = .load none ∧ p.tok = some k ∧ p.left = 0 ∧ p.els = [] ∧ p.behind = [] ∧ p.clob = [] ∧ p.ecc = none ∧ p.flags = 0 ∧ p.fev = [] ∧
          p.wrs = (if d = 0 then [] else [⟨d, 2 ^ 64 - 1, s.pmRd pa 8 % 2 ^ 64⟩]) ∧
          (∀ j, j ≠ c.run.gid → s1.groups.find j = s.groups.find j) ∧ s1.runs = s.runs ∧ s1.sram = s.sram ∧
          OnlyBytes s c .rd ptr 0 0 s1)
    load (.ld d b k o) (c.s b + BitVec.ofInt 64 (8 * o)) ∧
    (m < 7 → load (.lda d m b k) (c.s b) ∧ load (.ldaSc d m b k) (c.s b)) ∧
    (7 ≤ m → exec (.lda d m b k) s = .next (takeTrap c { code := 0x01 } s) ∧
      exec (.ldaSc d m b k) s = .next (takeTrap c { code := 0x01 } s))) ∧
  (∀ (s : State) (gid pid k : Nat) (g : Group) (p : Pend) (v : Option FfLoad), s.groups.find gid = some g → g.pend.find pid = some p →
    p.op = .load v → p.tok = some k → p.left = 0 → p.els = [] → p.behind = [] → p.clob = [] → p.ecc = none → p.flags = 0 → p.fev = [] →
    p.bad = [] → g.ended = false → Settled s gid g →
    let tk := g.tk &&& ~~~(BitVec.ofNat 16 (2 ^ k))
    ∃ s1 g1, exec (.loadDataArrival gid pid [] 0) s = .next s1 ∧ s1 = { s with groups := s1.groups, runs := s1.runs } ∧
      (∀ j, (s1.runs.find j).map Run.unnoted = (s.runs.find j).map Run.unnoted) ∧
      (∀ j, j ≠ gid → s1.groups.find j = s.groups.find j) ∧ s1.groups.find gid = some g1 ∧
      g1.unnoted = ({ (g.putAll p.wrs) with tk := tk, pend := g.pend.del pid, parked := g.parked && tk != 0 } : Group).unnoted)

/-- R204, R212, R186, R154: `ST`, `STL` and `STL.SC`. A fault traps; else the store completes. With nothing outstanding in the group it is
performed at once: at the address computed, in memory, in the SRAM or in the window, exactly the 8 bytes of the scalar change, but for A
and D of the leaf entry; no register changes otherwise. -/
def Obligations.ScalarStores : Prop :=
  ∀ (s : State) (c : Ctx) (d b m : Nat) (o : Int), ctxOf s = some c →
    let store := fun (i : Instr) (x : Word64) =>
      let ptr := x.toNat
      (∀ t, placeOf s (whoOf s c) .wr ptr 8 = .error t → exec i s = .next (takeTrap c t s)) ∧
      (∀ p, placeOf s (whoOf s c) .wr ptr 8 = .ok p → ∃ s1, exec i s = .next (retire 4 c.slot s1)) ∧
      (∀ pa, Quiet s c → Memory.wf s.mem = true → Here s c .wr ptr 8 pa →
        ∃ s1 ls, exec i s = .next (retire 4 c.slot s1) ∧ s1.groups.find c.run.gid = some { c.g with lanesAt := ls } ∧
          (∀ j, j ≠ c.run.gid → s1.groups.find j = s.groups.find j) ∧ s1.runs = s.runs ∧ s1.sram = s.sram ∧
          (∀ j, j < 8 → cellGet s1.mem (pa + j) = (c.s d).extractLsb' (8 * j) 8) ∧ OnlyBytes s c .wr ptr pa 8 s1) ∧
      (∀ q, Quiet s c → Memory.wf s.sram = true → placeOf s (whoOf s c) .wr ptr 8 = .ok (.sram q) →
        ∃ s1 ls, exec i s = .next (retire 4 c.slot s1) ∧ s1.groups.find c.run.gid = some { c.g with lanesAt := ls } ∧ s1.mem = s.mem ∧
          (∀ j, j < 8 → cellGet s1.sram (q + j) = (c.s d).extractLsb' (8 * j) 8) ∧
          (∀ y, y < q ∨ q + 8 ≤ y → cellGet s1.sram y = cellGet s.sram y)) ∧
      (∀ q, Quiet s c → placeOf s (whoOf s c) .wr ptr 8 = .ok (.win q) →
        ∃ s1 g, exec i s = .next (retire 4 c.slot s1) ∧ s1.groups.find c.run.gid = some g ∧
          g = { c.g with v := g.v, lanesAt := g.lanesAt } ∧ s1.mem = s.mem ∧ s1.sram = s.sram ∧
          ∀ r L, L < 32 → laneWord (g.vGet r) L = if 32 * r + L = q / 4 then (c.s d).extractLsb' 0 32
            else if 32 * r + L = q / 4 + 1 then (c.s d).extractLsb' 32 32 else laneWord (c.g.vGet r) L)
    store (.st d b o) (c.s b + BitVec.ofInt 64 (8 * o)) ∧
    (m < 7 → store (.stl d m b) (c.s b) ∧ store (.stlSc d m b) (c.s b)) ∧
    (7 ≤ m → exec (.stl d m b) s = .next (takeTrap c { code := 0x01 } s) ∧
      exec (.stlSc d m b) s = .next (takeTrap c { code := 0x01 } s))

/-- R201, R205, R206, R208, R209, R213, R214: the vector loads: their active elements, predicates and addresses, their checks, and what
they issue: a load of exactly those elements (`vecLoad`), with the tail policy from `vl`, or from the element that truncates an `LDFF`;
`LDR` and a zero-filling record write zero where they do not read, and `LDR` the bits of mK. What such a load is: a pending operation with
those elements to be read, tried at once; and what it leaves in the registers once the elements have given their values: each value in its
element, zero in those of helper lanes that read nothing (R88), the mask and tail policies elsewhere, tag 0 in its registers, the bits of
mK or `vl` as its form says, and no other register changed. That an element of a helper lane neither truncates nor sets a bit for what
would fault is the model's choice (DESIGN CHOICE, log entry 127). -/
def Obligations.VectorLoads : Prop :=
  ∀ (s : State) (c : Ctx), ctxOf s = some c →
    let w := c.g.sew
    let n := if w = 4 then 1 else w / 8
    let at' := fun base e => wrap 64 ((base : Int) + if w = 4 then (e / 2 : Nat) else (e * (w / 8) : Nat))
    let els := fun P : Nat → Bool => (List.range c.g.vlmax).filter (fun e => decide (e < c.g.vl) && c.act (laneOf w e) && P e)
    let pm := fun (k e : Nat) => if k = 1 then (c.m 1).getLsbD e else if k = 2 then !(c.m 1).getLsbD e else true
    let gone := fun p => p / 2 ^ 60 % 8 == 0 && match xlate s (whoOf s c) .rd (p % 2 ^ 60) with
      | .ok x => x.leaf.st == 2 || x.leaf.st == 6
      | .error _ => false
    let ff := fun (b r vl : Nat) (E : List Nat) =>
      some ({ w := w, idx := 32 * b + r, n := c.g.grp, vl := vl, ta := c.g.ta, act := c.run.aset.toNat, first := E.headD 0 } : FfLoad)
    (∀ f : MV,
      let o : VOp := ⟨32 * f.vb + f.vr, c.g.grp, false⟩
      let base := wrap 64 ((c.sn f.sb : Int) + sext 5 f.vx * 128)
      let fault := fun e => faultAt s c .rd (at' base e) n
      let E := els (pm f.pm)
      MemForm (.ldv f) c s [o] (some f.tk) (liveFaults c E fault) (vecLoad c o E (pm f.pm) c.g.vl (at' base) f.tk [] none s) ∧
      (∀ q, (E.drop 1).find? (fun e => !c.g.isHelper (laneOf w e) && ((fault e).isSome || gone (at' base e))) = some q →
        MemForm (.ldff f) c s [o] (some f.tk) (liveFaults c (E.take 1) fault)
          (vecLoadFf (ff f.vb f.vr q E) c o (E.filter (· < q)) (pm f.pm) q (at' base) f.tk [⟨locVl, 2 ^ 64 - 1, q⟩] none
            (updCtxG c (fun g => { g with fft := true }) s))) ∧
      ((E.drop 1).find? (fun e => !c.g.isHelper (laneOf w e) && ((fault e).isSome || gone (at' base e))) = none →
        MemForm (.ldff f) c s [o] (some f.tk) (liveFaults c (E.take 1) fault)
          (vecLoadFf (ff f.vb f.vr c.g.vl E) c o E (pm f.pm) c.g.vl (at' base) f.tk [] none s)) ∧
      (let x : VOp := ⟨32 * f.vb + f.vx, if w = 8 then 4 * c.g.grp else if w = 16 then 2 * c.g.grp else c.g.grp, false⟩
       let addr := fun e => wrap 64 ((c.sn f.sb : Int) + if w = 64 then sext 64 (elt c x 64 e) else sext 32 (elt c x 32 e))
       (w = 4 → exec (.ldg f) s = .next (takeTrap c { code := 0x01 } s)) ∧
       (w ≠ 4 → apart o x = false → exec (.ldg f) s = .next (takeTrap c { code := 0x03 } s)) ∧
       (w ≠ 4 → apart o x = true → MemForm (.ldg f) c s [o, x] (some f.tk) (liveFaults c E (fun e => faultAt s c .rd (addr e) (w / 8)))
         (vecLoad c o E (pm f.pm) c.g.vl addr f.tk [] none s)))) ∧
    (∀ r m b sb k p,
      let o : VOp := ⟨32 * b + r, c.g.grp, false⟩
      let E := els (pm p)
      let G := E.filter (fun e => gone (at' (c.sn sb) e))
      let mask := fun l : List Nat => (l.filter (· < 1024)).foldl (fun x e => x ||| 2 ^ e) 0
      MemForm (.ldr r m b sb k p) c s [o] (some k) (liveFaults c E (fun e => faultAt s c .rd (at' (c.sn sb) e) n))
        (vecLoad c o (E.filter (fun e => !gone (at' (c.sn sb) e))) (pm p) c.g.vl (at' (c.sn sb)) k
          (G.flatMap (fun e => wrElt o w e 0) ++ [⟨locM m, mask (E.filter (fun e => gone (at' (c.sn sb) e) ||
            (c.g.isHelper (laneOf w e) && (faultAt s c .rd (at' (c.sn sb) e) n).isSome))), mask G⟩]) (some m)
          (if G = [] then s else updCtxG c (fun g => { g with rpz := true }) s))) ∧
    (∀ v m i k,
      let b := bufRec c (4 * m)
      let o : VOp := ⟨v, c.g.grp, false⟩
      let off := fun e : Nat => b.off ((c.s i).toInt + e)
      let E := els (fun _ => true)
      (w = 4 → exec (.ldb v m i k) s = .next (takeTrap c { code := 0x01 } s)) ∧
      (w ≠ 4 → b.zero = false ∨ b.bmode = 3 ∨ 8 * 2 ^ b.width ≠ w →
        exec (.ldb v m i k) s = .next (takeTrap c { code := 0x01, detail := 1 } s)) ∧
      (w ≠ 4 → b.zero = true → b.bmode ≠ 3 → 8 * 2 ^ b.width = w →
        MemForm (.ldb v m i k) c s [o] (some k) (liveFaults c E (fun e => bufFault s (whoOf s c) .rd b (off e) (w / 8)))
          (vecLoad c o (E.filter (fun e => b.inb (off e) (w / 8) || b.bmode == 0)) (fun _ => true) c.g.vl (fun e => b.addr (off e)) k
            ((E.filter (fun e => !(b.inb (off e) (w / 8) || b.bmode == 0))).flatMap (fun e => wrElt o w e 0)) none s))) ∧
    (∀ (v : Option FfLoad) (o : VOp) (E G : List Nat) (P : Nat → Bool) (tl : Nat) (addr : Nat → Nat) (tok : Nat) (rest : List Wr) (probe : Option Nat),
      (∀ e ∈ E ++ G, e < 1024 / w * o.n) → o.temp = false → o.idx + o.n ≤ 256 → c.g.vl < 2 ^ 64 → w ∈ [4, 8, 16, 32, 64] →
      let zero := fun e => c.g.isHelper (laneOf w e) && (gone (addr e) || (faultAt s c .rd (addr e) n).isSome)
      let R := E.filter (fun e => !zero e)
      let el := fun e => ({ ptr := addr e, n := n, nib := if w = 4 then some (e % 2) else none, dst := .v (o.idx + e * w / 1024) (e * w % 1024) w
                            helper := c.g.isHelper (laneOf w e), probe := probe.map (fun m => (locM m, e)) } : LdEl)
      ∃ p, p.tok = some tok ∧ p.op = .load v ∧ p.els = R.map (fun e => (e, el e)) ∧ p.left = 0 ∧
        (let s2 := serveLoad c.run.gid s.nextId none (addPend c p (countLines c (R.map addr) s))
         vecLoadFf v c o E P tl addr tok (G.flatMap (fun e => wrElt o w e 0) ++ rest) probe s = if R = [] then finish c.run.gid s.nextId s2 else s2) ∧
        ∀ vals : Nat → Nat,
          let g1 := c.g.putAll (p.wrs ++ R.flatMap (fun e => (el e).dst.writes (vals e) ++ (el e).mark false))
          ((∀ x ∈ rest, x.loc < 16384 ∨ x.loc = locVl) →
            (∀ e, e < 1024 / w * o.n →
              let old := heldEl c.g c.run c.tick o w e
              heldEl g1 c.run c.tick o w e = if e ∈ R then vals e % 2 ^ w else if e ∈ E ++ G then 0 else if !c.act (laneOf w e) then old
                else if tl ≤ e then (if c.g.ta then 2 ^ w - 1 else old) else if !P e then (if c.g.ma then 2 ^ w - 1 else old) else old) ∧
            (∀ reg, reg < 256 → g1.tagGet reg = if o.idx ≤ reg ∧ reg < o.idx + o.n then 0 else c.g.tagGet reg) ∧
            ∀ reg L, reg < 256 → L < 32 → reg < o.idx ∨ o.idx + o.n ≤ reg → heldWord g1 c.run c.tick reg L = heldWord c.g c.run c.tick reg L) ∧
          (probe = none → rest = [] → g1 = { c.g with v := g1.v, tag := g1.tag }) ∧
          (∀ q, probe = none → rest = [⟨locVl, 2 ^ 64 - 1, q⟩] → q < 2 ^ 64 → g1 = { c.g with v := g1.v, tag := g1.tag, vl := q }) ∧
          (∀ m M X, probe = some m → m < 16 → rest = [⟨locM m, M, X⟩] → g1 = { c.g with v := g1.v, tag := g1.tag, m := g1.m } ∧
            ∀ j b, j < 16 → b < 1024 → (g1.mGet j).getLsbD b = if j = m then (if b ∈ R then false else if M.testBit b then X.testBit b
              else (c.g.mGet j).getLsbD b) else (c.g.mGet j).getLsbD b))

/-- R201 to R203, R205, R206, R213, R214: the vector stores: their elements with addresses and values as they are issued, those of live
lanes only (`issueStore`); and what one element does when nothing holds it: a load element reads its bytes, a store element writes its
bytes, or one nibble of a byte, and no other. -/
def Obligations.VectorStoresAndElements : Prop :=
  (∀ (s : State) (c : Ctx), ctxOf s = some c →
    let w := c.g.sew
    let n := if w = 4 then 1 else w / 8
    let els := fun P : Nat → Bool => (List.range c.g.vlmax).filter (fun e => decide (e < c.g.vl) && c.act (laneOf w e) && P e)
    let pm := fun (k e : Nat) => if k = 1 then (c.m 1).getLsbD e else if k = 2 then !(c.m 1).getLsbD e else true
    let st := fun (o : VOp) (addr : Nat → Nat) (E : List Nat) => issueStore c ((E.filter (fun e => c.g.isHelper (laneOf w e) = false)).map
      (fun e => (e, { ptr := addr e, n := n, nib := if w = 4 then some (e % 2) else none, val := elt c o w e }))) s
    (∀ f : MV,
      let o : VOp := ⟨32 * f.vb + f.vr, c.g.grp, false⟩
      let base := wrap 64 ((c.sn f.sb : Int) + sext 5 f.vx * 128)
      let at' := fun e : Nat => wrap 64 ((base : Int) + if w = 4 then (e / 2 : Nat) else (e * (w / 8) : Nat))
      let E := els (pm f.pm)
      MemForm (.stv f) c s [o] none (liveFaults c E (fun e => faultAt s c .wr (at' e) n)) (st o at' E) ∧
      (let x : VOp := ⟨32 * f.vb + f.vx, if w = 8 then 4 * c.g.grp else if w = 16 then 2 * c.g.grp else c.g.grp, false⟩
       let addr := fun e => wrap 64 ((c.sn f.sb : Int) + if w = 64 then sext 64 (elt c x 64 e) else sext 32 (elt c x 32 e))
       (w = 4 → exec (.stg f) s = .next (takeTrap c { code := 0x01 } s)) ∧
       (w ≠ 4 → MemForm (.stg f) c s [x, o] none (liveFaults c E (fun e => faultAt s c .wr (addr e) n)) (st o addr E)))) ∧
    (∀ v m i,
      let b := bufRec c (4 * m)
      let o : VOp := ⟨v, c.g.grp, false⟩
      let off := fun e : Nat => b.off ((c.s i).toInt + e)
      let E := els (fun _ => true)
      (w = 4 → exec (.stb v m i) s = .next (takeTrap c { code := 0x01 } s)) ∧
      (w ≠ 4 → b.zero = false ∨ b.bmode = 3 ∨ 8 * 2 ^ b.width ≠ w → exec (.stb v m i) s = .next (takeTrap c { code := 0x01, detail := 1 } s)) ∧
      (w ≠ 4 → b.zero = true → b.bmode ≠ 3 → 8 * 2 ^ b.width = w →
        MemForm (.stb v m i) c s [o] none (liveFaults c E (fun e => bufFault s (whoOf s c) .wr b (off e) n))
          (st o (fun e => b.addr (off e)) (E.filter (fun e => b.inb (off e) n || b.bmode == 0)))))) ∧
  (∀ (s : State) (u : Who) (g : Group) (pid k : Nat) (p : Pend) (e : LdEl) (pa : Nat), s.groups.find u.gid = some g →
    g.pend.find pid = some p → placeOf s u .rd e.ptr e.n = .ok (.phys pa 1) →
    g.meetsAt s u pid e.ptr e.n = false → g.loadsTile pid e = false → pa / 128 ∉ s.poison →
    (serveEl u pid none s (k, e)).groups.find u.gid = some { g with pend := g.pend.upd pid (fun p => { p with
      els := p.els.del k, wrs := p.wrs ++ (e.dst.writes (match e.nib with
        | none => s.pmRd pa e.n
        | some j => s.pmRd pa e.n / 16 ^ j % 16) ++ e.mark false) }) }) ∧
  (∀ (s : State) (u : Who) (g : Group) (hid k : Nat) (e : StEl) (pa : Nat) (x : Xlat), s.groups.find u.gid = some g → Memory.wf s.mem = true →
    placeOf s u .wr e.ptr e.n = .ok (.phys pa 1) → mustWait s u hid e.ptr (.phys pa 1) true = false → g.storeWaits s u hid e = false →
    xlate (dropHeld u.gid hid k s) u .wr (e.ptr % 2 ^ 60) = .ok x →
    let t := storeEl u hid none s (k, e)
    (∀ y, y < pa ∨ pa + e.n ≤ y → y < x.leaf.addr ∨ x.leaf.addr + 8 ≤ y → cellGet t.mem y = cellGet s.mem y) ∧
    (e.nib = none → ∀ j, j < e.n → cellGet t.mem (pa + j) = BitVec.ofNat 8 (e.val / 256 ^ j)) ∧
    (∀ j, e.nib = some j → j < 2 → e.n = 1 → ∀ b, b < 8 → (cellGet t.mem pa).getLsbD b =
      if b / 4 = j then e.val.testBit (b % 4) else (cellGet s.mem pa).getLsbD b))

/-- R210, R172, R203: atomics. SEW other than 32 and 64, an index group that overlaps the data group in part, a register at or beyond W, a
fault or a pending token trap; else the atomic completes with its token pending and its elements, ascending, to be performed, those of helper
lanes to be read only (R88). One element performed replaces the word by what its operation gives and notes the old value for its register. -/
def Obligations.AtomicInstructions : Prop :=
  (∀ (s : State) (c : Ctx) (f : MA), ctxOf s = some c → f.tk < 16 →
    let w := c.g.sew
    let o : VOp := ⟨32 * f.vb + f.vr, c.g.grp, false⟩
    let x : VOp := ⟨32 * f.vb + f.vx, c.g.grp, false⟩
    let nv : VOp := ⟨32 * f.vb + f.vr + c.g.grp, c.g.grp, false⟩
    let addr := fun e => wrap 64 ((c.sn f.sb : Int) + if w = 64 then sext 64 (elt c x 64 e) else sext 32 (elt c x 32 e))
    let els := (List.range c.g.vlmax).filter (fun e => decide (e < c.g.vl) && c.act (laneOf w e) && true)
    let faults := liveFaults c els (fun e => faultAt s c .at (addr e) (w / 8))
    ∀ row ∈ ([(.atAdd f, 0), (.atSwap f, 1), (.atCas f, 2), (.atFadd f, 3), (.atAnd f, 4), (.atOr f, 5), (.atMax f, 6), (.atMaxu f, 7)] :
        List (Instr × Nat)),
      let groups := [o, x] ++ if row.2 = 2 then [nv] else []
      (w ≠ 32 → w ≠ 64 → exec row.1 s = .next (takeTrap c { code := 0x01 } s)) ∧
      (w = 32 ∨ w = 64 →
        (apart o x = false → exec row.1 s = .next (takeTrap c { code := 0x03 } s)) ∧
        (apart o x = true →
          (∀ t, groupsFit c groups = .error t → exec row.1 s = .next (takeTrap c t s)) ∧
          (groupsFit c groups = .ok () →
            (∀ t, memChecks c (some f.tk) (worst c w faults) = .error t → exec row.1 s = .next (takeTrap c t s)) ∧
            (memChecks c (some f.tk) (worst c w faults) = .ok () →
              (∃ s1, exec row.1 s = .next (retire 4 c.slot s1)) ∧
              (els ≠ [] → (∀ e ∈ els, addr e / 2 ^ 60 % 8 ≠ 1) →
                (∀ e ∈ els, c.g.isHelper (laneOf w e) = false → ∀ v, placeOf s (whoOf s c) .at (addr e) (w / 8) ≠ .ok (.away v)) →
                ∃ s1 g p ls, exec row.1 s = .next (retire 4 c.slot s1) ∧ s1.groups.find c.run.gid = some g ∧ s1.mem = s.mem ∧ s1.sram = s.sram ∧
                  g = { c.g with tk := c.g.tk ||| BitVec.ofNat 16 (2 ^ f.tk), pend := c.g.pend.put s.nextId p, lanesAt := ls } ∧ p.tok = some f.tk ∧
                  p.op = .atomic w row.2 (32 * f.vb + f.vr) (els.map (fun e =>
                    { e := e, ptr := addr e, v := elt c o w e, nv := if row.2 = 2 then elt c nv w e else 0, helper := c.g.isHelper (laneOf w e) })))))))) ∧
  (∀ (s : State) (u : Who) (pid w op vr : Nat) (e : AtEl) (pa : Nat) (x : Xlat) (g : Group) (p : Pend), s.groups.find u.gid = some g →
    g.pend.find pid = some p → Memory.wf s.mem = true → w = 32 ∨ w = 64 → op < 8 → pa / 128 ∉ s.poison →
    xlate s u .at (e.ptr % 2 ^ 60) = .ok x → ∀ els, p.op = .atomic w op vr els → e.v < 2 ^ w → e.nv < 2 ^ w →
    let M := s.pmRd pa (w / 8)
    let F : Fmt := if w = 32 then .f32 else .f64
    let new := [(M + e.v) % 2 ^ w, e.v, if M = e.v then e.nv else M, (roundVal F .rne false false 0 (FVal.add false (F.decode M) (F.decode e.v)).1).1,
      M &&& e.v, M ||| e.v, if (BitVec.ofNat w M).slt (BitVec.ofNat w e.v) then e.v else M, max M e.v].getD op 0
    let t := atomicAt u pid w op vr e (.phys pa 1) s
    (∀ j, j < w / 8 → cellGet t.mem (pa + j) = BitVec.ofNat 8 (new / 256 ^ j)) ∧
    (∀ y, y < pa ∨ pa + w / 8 ≤ y → y < x.leaf.addr ∨ x.leaf.addr + 8 ≤ y → cellGet t.mem y = cellGet s.mem y) ∧
    ∃ h q, t.groups.find u.gid = some h ∧ h = { g with pend := h.pend } ∧ h.pend.find pid = some q ∧
      q.op = .atomic w op vr (els.filter (fun x => x.e != e.e)) ∧
      q.wrs = p.wrs ++ wrBits (vr + e.e * w / 1024) (e.e * w % 1024) w M)

/-- R212, R186, R211: the fences. A reserved scope raises ILLEGAL; else every fence completes at once. An acquire keeps the group's later
accesses behind each of its own lanes' loads and atomics that has not returned; with nothing outstanding a fence changes nothing, and `FENCE.ACK`
clears its token at once; a pending token raises TOKEN. R360 to R362, R381, R387: the remote-page instructions and the flag stores. A
pointer outside space 0, no translation, or no permission traps (a hint is dropped instead); a page that needs nothing completes at once,
one that needs Meridian with a record of it; `PAGEREL` of a page that is not held through Meridian changes nothing (that it checks its
pointer as `PAGEREQ` does, with DETAIL 8, is DEDUCED, log entry 17). A flag store needs an aligned pointer of space 1 and is offered to the
fabric engine. -/
def Obligations.FencesPagesAndFlags : Prop :=
  (∀ (s : State) (c : Ctx) (m k : Nat), ctxOf s = some c → k < 16 →
     (7 ≤ m → ∀ i ∈ [Instr.fenceAcq m, .fenceRel m, .fenceAr m, .fenceSc m], exec i s = .next (takeTrap c { code := 0x01 } s)) ∧
     (m < 7 →
       (∀ i ∈ [Instr.fenceAcq m, .fenceRel m, .fenceAr m, .fenceSc m], ∃ s1, exec i s = .next (retire 4 c.slot s1)) ∧
       (∃ acq, Does (.fenceAcq m) 4 c s { c.g with acq := acq } c.run ∧
         ∀ a, a ∈ acq ↔ c.g.blocks a.1 = true ∧ (a ∈ c.g.acq ∨ a.2 = 2 ^ 32 - 1 ∧ c.g.lanesOfId a.1 &&& threads c ≠ 0 ∧
           ∃ p, (a.1, p) ∈ c.g.pend ∧ p.unserved = true)) ∧
       (Quiet s c → Does (.fenceAcq m) 4 c s c.g c.run ∧
         ∀ i ∈ [Instr.fenceRel m, .fenceAr m, .fenceSc m], DoesOn i 4 c s { s with nextId := s.nextId + 1 } c.g c.run)) ∧
     (c.g.tk.getLsbD k = true → exec (.fenceAck k) s = .next (takeTrap c { code := 0x0B } s)) ∧
     (c.g.tk.getLsbD k = false → (∃ s1, exec (.fenceAck k) s = .next (retire 4 c.slot s1)) ∧
       (Quiet s c → DoesOn (.fenceAck k) 4 c s { s with nextId := s.nextId + 1 } c.g c.run))) ∧
  (∀ (s : State) (c : Ctx) (b d k : Nat), ctxOf s = some c → k < 16 →
     let ptr := c.sn b
     let u := whoOf s c
     let vpn := ptr % 2 ^ 60 / 2 ^ 16
     (∀ row ∈ ([(.pagereq b k, .pagehint b, false), (.pagereqW b k, .pagehintW b, true)] : List (Instr × Instr × Bool)),
       let a : Acc := if row.2.2 then .wr else .rd
       let no := fun t => (c.g.tk.getLsbD k = false → exec row.1 s = .next (takeTrap c t s)) ∧ Does row.2.1 4 c s c.g c.run
       (ptr / 2 ^ 60 % 8 ≠ 0 → no { code := 0x07, detail := 8, addr := ptr }) ∧
       (ptr / 2 ^ 60 % 8 = 0 →
         (∀ e, xlate s u a (ptr % 2 ^ 60) = .error e → no { code := 0x07, detail := e, addr := ptr }) ∧
         (∀ x, xlate s u a (ptr % 2 ^ 60) = .ok x →
           (∀ e, permFault u a (ptr % 2 ^ 60) x.leaf = some e → no { code := 0x09, detail := e, addr := ptr }) ∧
           (permFault u a (ptr % 2 ^ 60) x.leaf = none →
             let asks := x.leaf.st = 2 ∨ x.leaf.st = 6 ∨ (x.leaf.st = 3 ∧ row.2.2 = true)
             (c.g.tk.getLsbD k = true → exec row.1 s = .next (takeTrap c { code := 0x0B } s)) ∧
             (c.g.tk.getLsbD k = false → ¬asks → Quiet s c → DoesOn row.1 4 c s { s with nextId := s.nextId + 1 } c.g c.run) ∧
             (c.g.tk.getLsbD k = false → asks → exec row.1 s = .next (retire 4 c.slot (record u vpn
               { kind := if row.2.2 then 6 else 5, unit := c.g.idx, token := k, gid := c.run.gid, op := s.nextId } false
               (addPend c { tok := some k, op := .pagereq row.2.2 ptr } s)))) ∧
             (¬asks → Does row.2.1 4 c s c.g c.run) ∧ (∃ s1, exec row.2.1 s = .next (retire 4 c.slot s1)))))) ∧
     (ptr / 2 ^ 60 % 8 ≠ 0 → c.g.tk.getLsbD k = false → exec (.pagerel b k) s = .next (takeTrap c { code := 0x07, detail := 8, addr := ptr } s)) ∧
     (∀ x, ptr / 2 ^ 60 % 8 = 0 → c.g.tk.getLsbD k = false → xlate s u .rd (ptr % 2 ^ 60) = .ok x →
       (∃ s1, exec (.pagerel b k) s = .next (retire 4 c.slot s1)) ∧
       (Quiet s c → s.chains.find (keyOf s u.part u.asid vpn) = none → frameOf s (keyOf s u.part u.asid vpn) = none →
         DoesOn (.pagerel b k) 4 c s { s with nextId := s.nextId + 1 } c.g c.run)) ∧
     (c.g.role = .vector → ∀ i ∈ [Instr.fxsto d b, .fxstoRel d b],
       (ptr / 2 ^ 60 % 8 ≠ 1 → exec i s = .next (takeTrap c { code := 0x07, detail := 8, addr := ptr } s)) ∧
       (ptr / 2 ^ 60 % 8 = 1 → ptr % 8 ≠ 0 → exec i s = .next (takeTrap c { code := 0x08, addr := ptr } s)) ∧
       (ptr / 2 ^ 60 % 8 = 1 → ptr % 8 = 0 → ∃ s1, exec i s = .next (retire 4 c.slot s1))))

/-- R215 to R219: prefetches never fault and change no register, and of memory at most A in the leaf entry of a line; `MCNT` reads a counter; `CBLOAD` and `LDCB` trap on
a faulting byte they read and complete otherwise. A codebook table that has arrived is written whole when no expansion of the old one is
left; that of a gang that has ended is not written (R108). -/
def Obligations.CodebooksAndPrefetch : Prop :=
  (∀ (s : State) (c : Ctx) (n l b d k t wd : Nat), ctxOf s = some c → d < 64 → t < 16 →
    (∃ s1, exec (.pref n l b) s = .next (retire 4 c.slot s1) ∧ s1.groups = s.groups ∧ s1.runs = s.runs ∧ s1.sram = s.sram ∧
      (n = 0 → let ptr := c.sn b / 128 * 128
        (ptr / 2 ^ 60 % 8 ≠ 0 → s1 = s) ∧ (∀ e, xlate s (whoOf s c) .rd (ptr % 2 ^ 60) = .error e → s1 = s) ∧
        OnlyBytes s c .rd ptr 0 0 s1)) ∧
    Does (.mcnt d k) 4 c s (c.g.sSet d (BitVec.ofNat 64 ((s.core c.co.core).mcnt.get 0 k))) c.run ∧
    (let faults := (List.range (2 ^ (wd + 1))).findSome? (fun j => faultAt s c .rd (wrap 64 ((c.sn b : Int) + (2 * j : Nat))) 2)
     (∀ e, memChecks c (some t) faults = .error e → exec (.cbload wd k b t) s = .next (takeTrap c e s)) ∧
     (memChecks c (some t) faults = .ok () → ∃ s1, exec (.cbload wd k b t) s = .next (retire 4 c.slot s1))) ∧
    (c.g.sew ≠ 16 → exec (.ldcb d k b t) s = .next (takeTrap c { code := 0x01 } s)) ∧
    (c.g.sew = 16 → groupsFit c [⟨d, c.g.grp, false⟩] = .ok () → c.g.tk.getLsbD t = false → ((s.core c.co.core).slot k).loads = [] →
      (∀ j, j ≤ ((s.core c.co.core).slot k).b * c.g.vlmax / 8 → faultAt s c .rd (wrap 64 ((c.sn b : Int) + (j : Nat))) 1 = none) →
      ∃ s1, exec (.ldcb d k b t) s = .next (retire 4 c.slot s1))) ∧
  (∀ (s : State) (core k gid pid b : Nat) (rest : List (Nat × Nat)) (p : Pend) (g : Group),
    let x := (s.core core).slot k
    x.loads = (gid, pid) :: rest → s.groups.find gid = some g → Settled s gid g → g.pend.find pid = some p →
    p.op = .cbload k b → p.left = 0 → p.els = [] → p.bad = [] →
    (p.void = false → ldcbPending s core k x.ver = false →
      ∃ s1, exec (.cbloadTableWrite core k) s = .next s1 ∧ s1.mem = s.mem ∧
        (s1.core core).slot k = { b := b, loads := rest, ver := x.ver + 1, e := (List.range (2 ^ b)).map (fun j =>
          ((p.wrs.filter (fun w => w.loc == locV scratchReg j)).getLast?.map (·.val)).getD 0 % 65536) }) ∧
    (p.void = true → ∃ s1, exec (.cbloadTableWrite core k) s = .next s1 ∧ s1.mem = s.mem ∧
      (s1.core core).slot k = { x with loads := rest, ver := x.ver + 1 })) ∧
  (∀ (s : State) (gid : Nat), ∃ s1, exec (.cbloadQueueRoom gid) s = .next s1 ∧ s1.mem = s.mem ∧ s1.sram = s.sram)

/-! ### The matrix engine -/

/-- R246, R250, R256 to R259, R261, R264 to R266, R269: issuing the matrix instructions. What a descriptor or index forbids is ILLEGAL, a
group that is not `MATRIX` ROLE; a z-tile or fragment outside WINDOW; a pending token TOKEN; A fragments of several tags, or of one that is
neither 0 nor Haar, DOMAIN; Haar-tagged B registers DOMAIN 2, 6, 1 or 3, or reconstructed first. Otherwise each completes: with its token
bound and its operation with its place or waiting for one, or at once for the error log's instructions; a step on Haar-tagged A takes their tag
and the descriptor's row mask. The model's own readings: the descriptor's checks (log 54), the format of a reconstruction (56), the tag
`MXWRZ` takes at issue (57), that the A tags are read first (130), where a z-tile instruction waits (147). -/
def Obligations.MatrixInstructions : Prop :=
  ∀ (s : State) (c : Ctx) (d z n v k : Nat), ctxOf s = some c → d < 64 → k < 16 →
    (∀ cc, 2 ≤ cc → ∀ i ∈ [Instr.mxlda v cc n k, .mxldb v cc n k], exec i s = .next (takeTrap c { code := 0x01 } s)) ∧
    (∀ cc, cc < 2 → 63 ≤ n → ∀ i ∈ [Instr.mxlda v cc n k, .mxldb v cc n k], exec i s = .next (takeTrap c { code := 0x01, detail := 4 } s)) ∧
    (∀ cc, 3 ≤ cc → exec (.mxlds v cc n k) s = .next (takeTrap c { code := 0x01 } s)) ∧
    (c.g.role ≠ .matrix → (∀ i ∈ [Instr.mxelog d n, .mxestat d, .mxeclr], exec i s = .next (takeTrap c { code := 0x05 } s)) ∧
      (∀ cc, cc < 2 → n < 63 → ∀ i ∈ [Instr.mxlda v cc n k, .mxldb v cc n k], exec i s = .next (takeTrap c { code := 0x05 } s)) ∧
      (∀ cc, cc < 3 → exec (.mxlds v cc n k) s = .next (takeTrap c { code := 0x05 } s)) ∧
      (∀ row ∈ ([(.mxstep z n k, false, false), (.mxloop z n k, false, true), (.mxspstep z n k, true, false), (.mxsploop z n k, true, true)] :
          List (Instr × Bool × Bool)), n < 63 → mxJob z row.2.1 row.2.2 (c.sn n) (if row.2.2 then c.sn (n + 1) else 0) ≠ none →
        exec row.1 s = .next (takeTrap c { code := 0x05 } s)) ∧
      (n ≠ c.co.tcoh → n < c.la.cohorts → ∀ i ∈ [Instr.mxtred z n k, .mxtmov z n k], exec i s = .next (takeTrap c { code := 0x05 } s)) ∧
      (c.sn n % 16 < 10 → c.sn n < 128 → ∀ i ∈ [Instr.mxrdz v n k, .mxwrz v n k], exec i s = .next (takeTrap c { code := 0x05 } s))) ∧
    (c.g.role = .matrix →
      (∀ rows mk, (rows, mk) ∈ ([(64, Instr.mxlda), (96, .mxldb)] : List (Nat × (Nat → Nat → Nat → Nat → Instr))) → ∀ cc, n < 63 → cc < 2 →
        let kb := 32 * 2 ^ cc
        let o : VOp := ⟨v, rows * kb / 128, false⟩
        let row := fun r : Nat => wrap 64 ((c.sn n : Int) + (r : Int) * (c.s (n + 1)).toInt)
        let fault := (List.range rows).findSome? (fun r => (List.range (kb / 32)).findSome? (fun (i : Nat) =>
          fragErr s (whoOf s c) (wrap 64 ((row r : Int) + (32 * i : Nat))) 32))
        (∀ t, groupsFit c [o] = .error t → exec (mk v cc n k) s = .next (takeTrap c t s)) ∧
        (groupsFit c [o] = .ok () → (∀ t, memChecks c (some k) fault = .error t → exec (mk v cc n k) s = .next (takeTrap c t s)) ∧
          (memChecks c (some k) fault = .ok () → ∃ s1, exec (mk v cc n k) s = .next (retire 4 c.slot s1)))) ∧
      (∀ cc, cc < 3 →
        let fault := (List.range (16 + 8 * cc)).findSome? (fun (i : Nat) =>
          fragErr s (whoOf s c) (wrap 64 ((c.sn n : Int) + (8 * i : Nat))) 8)
        (∀ t, groupsFit c [⟨v, 16 + 8 * cc, false⟩] = .error t → exec (.mxlds v cc n k) s = .next (takeTrap c t s)) ∧
        (groupsFit c [⟨v, 16 + 8 * cc, false⟩] = .ok () →
          (∀ t, memChecks c (some k) fault = .error t → exec (.mxlds v cc n k) s = .next (takeTrap c t s)) ∧
          (memChecks c (some k) fault = .ok () → ∃ s1, exec (.mxlds v cc n k) s = .next (retire 4 c.slot s1)))) ∧
      (∀ row ∈ ([(.mxstep z n k, false, false), (.mxloop z n k, false, true), (.mxspstep z n k, true, false), (.mxsploop z n k, true, true)] :
          List (Instr × Bool × Bool)),
        let job := mxJob z row.2.1 row.2.2 (c.sn n) (if row.2.2 then c.sn (n + 1) else 0)
        (63 ≤ n → exec row.1 s = .next (takeTrap c { code := 0x01 } s)) ∧
        (n < 63 → job = none → exec row.1 s = .next (takeTrap c { code := 0x01, detail := 4 } s)) ∧
        (∀ j, n < 63 → job = some j →
          (c.co.nz ≤ z → exec row.1 s = .next (takeTrap c { code := 0x06, detail := 2, addr := z } s)) ∧
          (z < c.co.nz → (∀ x, j.outside c.g.w = some x → exec row.1 s = .next (takeTrap c { code := 0x06, addr := wrap 64 x } s)) ∧
            (j.outside c.g.w = none → (c.g.tk.getLsbD k = true → exec row.1 s = .next (takeTrap c { code := 0x0B } s)) ∧
              (c.g.tk.getLsbD k = false →
                let a := c.tag (j.baseA 0).toNat
                let oneA := (∀ r ∈ allRegs j.steps j.aRegs j.baseA, c.tag r = a) ∧ a % 4 < 2
                let j1 : MxJob := { j with tagA := if a % 4 = 1 then a else 0
                                           rows := if a % 4 = 1 then (c.m (c.sn n / 2 ^ 15 % 16)).toNat % 2 ^ 64 else 2 ^ 64 - 1 }
                let bs := allRegs j.steps (if j.fmt = 10 then 3 * j.m else 24) j.baseB
                let L := fun r => c.tag r / 4 % 8
                let U := fun r => if L r ≤ 2 then 1 else 2 ^ (L r - 2)
                let first := fun r => U r * (r / U r)
                let haar := bs.filter (fun r => c.tag r % 4 == 1)
                let whole := ∀ r ∈ haar, ∀ i, i < U r → first r + i ∈ bs
                let uniform := ∀ r ∈ haar, ∀ i, i < U r → c.tag (first r + i) % 4 = 1 ∧ L (first r + i) = L r
                (¬oneA → exec row.1 s = .next (takeTrap c { code := 0x0C } s)) ∧
                (oneA → haar = [] → Binds row.1 c s k (.mx j1)) ∧
                (oneA → ¬whole → exec row.1 s = .next (takeTrap c { code := 0x0C, detail := 2 } s)) ∧
                (oneA → whole → ¬uniform → exec row.1 s = .next (takeTrap c { code := 0x0C, detail := 6 } s)) ∧
                (oneA → haar ≠ [] → whole → uniform →
                  (c.g.dmode = true → exec row.1 s = .next (takeTrap c { code := 0x0C, detail := 1 } s)) ∧
                  (c.g.dmode = false → j.fmt ∉ [0, 2, 4] → exec row.1 s = .next (takeTrap c { code := 0x0C, detail := 3 } s)) ∧
                  (c.g.dmode = false → j.fmt ∈ [0, 2, 4] → ∃ s1 g p, exec row.1 s = .next (retire 4 c.slot s1) ∧
                    s1.groups.find c.run.gid = some g ∧ g.pend.find s.nextId = some p ∧ p.op = .mx j1 ∧ p.tok = some k ∧
                    g.tk = c.g.tk ||| BitVec.ofNat 16 (2 ^ k) ∧ (∀ r ∈ haar, ∀ i, i < U r → g.tagGet (first r + i) = 0) ∧
                    s1.mem = s.mem ∧ s1.sram = s.sram))))))) ∧
      (let x := c.sn n
       ∀ i, i = Instr.mxrdz v n k ∨ i = .mxwrz v n k →
        (10 ≤ x % 16 ∨ 128 ≤ x → exec i s = .next (takeTrap c { code := 0x01, detail := 4 } s)) ∧
        (x % 16 < 10 → x < 128 → c.g.w < v + 24 → exec i s = .next (takeTrap c { code := 0x06, addr := max v c.g.w } s)) ∧
        (x % 16 < 10 → x < 128 → v + 24 ≤ c.g.w →
          (c.co.nz ≤ x % 16 → exec i s = .next (takeTrap c { code := 0x06, detail := 2, addr := x % 16 } s)) ∧
          (x % 16 < c.co.nz → (c.g.tk.getLsbD k = true → exec i s = .next (takeTrap c { code := 0x0B } s)) ∧
            (c.g.tk.getLsbD k = false → Binds (.mxrdz v n k) c s k (.mxrdz v (x % 16) (x / 16 % 8)) ∧
              ((∃ j, j < 24 ∧ c.tag (v + j) ≠ c.tag v) → exec (.mxwrz v n k) s = .next (takeTrap c { code := 0x0C } s)) ∧
              ((∀ j, j < 24 → c.tag (v + j) = c.tag v) → Binds (.mxwrz v n k) c s k (.mxwrz v (x % 16) (x / 16 % 8) (c.tag v))))))) ∧
      (∀ row ∈ ([(.mxtred z n k, false), (.mxtmov z n k, true)] : List (Instr × Bool)),
        (n = c.co.tcoh ∨ c.la.cohorts ≤ n → exec row.1 s = .next (takeTrap c { code := 0x01, detail := 5 } s)) ∧
        (n ≠ c.co.tcoh → n < c.la.cohorts →
          (c.co.nz ≤ z → exec row.1 s = .next (takeTrap c { code := 0x06, detail := 2, addr := z } s)) ∧
          (z < c.co.nz → (c.g.tk.getLsbD k = true → exec row.1 s = .next (takeTrap c { code := 0x0B } s)) ∧
            (c.g.tk.getLsbD k = false → Binds row.1 c s k (.mxt z n row.2 none))))) ∧
      (let q := s.core c.co.core
       let e := (q.log.getD n 0).toNat
       Does (.mxelog d n) 4 c s (c.g.sSet d (if e % 65536 = c.la.asid then q.log.getD n 0 else 0)) c.run ∧
       Does (.mxestat d) 4 c s (c.g.sSet d (BitVec.ofNat 64 (q.ovf * 2 ^ 48 + (if q.ecc then 128 else 0) + q.log.length))) c.run ∧
       (c.la.priv = false → exec .mxeclr s = .next (takeTrap c { code := 0x09, detail := 1 } s)) ∧
       (c.la.priv = true → DoesOn .mxeclr 4 c s (s.updCore c.co.core (fun q => { q with log := [], ovf := 0, ecc := false })) c.g c.run)))

/-- R247, R251, R252, R255, R259, R262, R265, R266: what the matrix engine performs at the head of a tile's order, without an error: a
step adds to each element of a row it does not skip the exact sum of its products, rounded once; a row-block write replaces eight rows and
the tag; a row-block read gives the group eight rows and the tag, in one event, and ends in a later one (log 58, the model's reading); the tag
of `MXWRZ` is the one taken at issue (log 57, the model's reading); `MXTMOV` copies the source tile and `MXTRED` adds it, on arrival or, behind
what waits on the target's tile, at its place there; one whose target cohort has been released ends without effect (log 131, the model's
choice). A step that finds another tag on its tile ends with DOMAIN. -/
def Obligations.MatrixResults : Prop :=
  ∀ (s : State) (cid zt gid pid : Nat) (co : Cohort) (g : Group) (p : Pend), s.cohorts.find cid = some co → co.resident = true →
    s.groups.find gid = some g → g.pend.find pid = some p →
    let z := co.ztile zt
    let tileOf := fun (t : State) => (t.cohorts.find cid).map (fun c1 => c1.ztile zt)
    let Landed := fun (src : ZTile) (mov : Bool) (s1 : State) => ∃ z1, tileOf s1 = some z1 ∧ z1.tag = src.tag ∧ s1.mem = s.mem ∧
      ∀ r c, r < 64 → c < 96 → z1.at r c = if mov then src.at r c else BitVec.ofNat 32 (roundVal .f32 .rne false false 0
        (FVal.add false (Fmt.f32.decode (z.at r c).toNat) (Fmt.f32.decode (src.at r c).toNat)).1).1
    (zHead s co zt = some (gid, pid, p) →
      (∀ j, p.op = .mx j → j.next = 0 → j.zi = false → z.tag ≠ j.tagA → g.ended = false →
        ∃ s1 g1, exec (.matrixStepPerform cid zt []) s = .next s1 ∧ tileOf s1 = some z ∧ s1.mem = s.mem ∧ s1.groups.find gid = some g1 ∧
          g1.pend.find pid = none ∧ (∀ t, p.tok = some t → g1.tk.getLsbD t = false) ∧ ⟨0x0C, 0, 0, none⟩ ∈ g1.conds) ∧
      (∀ j, p.op = .mx j → j.next ≠ 0 ∨ j.zi = true ∨ z.tag = j.tagA →
        let z0 : ZTile := if j.next = 0 ∧ j.zi = true then { el := [], tag := j.tagA } else z
        let rd : MxRead := { word := fun r L => lateRead s.tick g p (locV r L), scale := fun r k => lateRead s.tick g p (locScale r k)
                             bad := fun _ _ => false }
        ∃ s1 z1, exec (.matrixStepPerform cid zt []) s = .next s1 ∧ tileOf s1 = some z1 ∧ z1.tag = z0.tag ∧ s1.mem = s.mem ∧
          ∀ r c, r < 64 → c < 96 → z1.at r c = if j.rows.testBit r then
            BitVec.ofNat 32 (fusedDot (Fmt.f32.decode (z0.at r c).toNat) (mxPairs rd r c (mxRowA rd j (j.baseA j.next).toNat r)
              (mxColB rd j (j.baseB j.next).toNat c) (if j.sparse then some (mxSelect rd j (j.baseQ j.next).toNat c) else none))).1
            else z0.at r c) ∧
      (rdzDone s co zt = none →
        (∀ v t rb tag, p.op = .mxwrz v t rb tag → ∃ s1 z1, exec (.ztileAccessPerform cid zt []) s = .next s1 ∧ tileOf s1 = some z1 ∧
          z1.tag = tag ∧ s1.mem = s.mem ∧ ∀ r c, r < 64 → c < 96 → z1.at r c =
            if r / 8 = rb then BitVec.ofNat 32 (lateRead s.tick g p (locV (v + 3 * (r % 8) + c / 32) (c % 32))) else z.at r c) ∧
        (∀ v t rb, p.op = .mxrdz v t rb → ∃ s1 g1 p1, exec (.ztileAccessPerform cid zt []) s = .next s1 ∧ tileOf s1 = some z ∧
          s1.groups.find gid = some g1 ∧ g1.pend.find pid = some p1 ∧ g1 = { g with pend := g1.pend } ∧ p1 = { p with wrs := p1.wrs } ∧
          p1.wrs = (List.range 8).flatMap (fun i => (List.range 96).map (fun c =>
            (⟨locV (v + 3 * i + c / 32) (c % 32), 2 ^ 32 - 1, (z.at (8 * rb + i) c).toNat⟩ : Wr))) ++
            (List.range 24).map (fun i => ⟨locTag (v + i), 255, z.tag⟩)) ∧
        (∀ t k mov, p.op = .mxt t k mov none → ∃ s1 p1, exec (.ztileAccessPerform cid zt []) s = .next s1 ∧ tileOf s1 = some z ∧
          (s1.groups.find gid).bind (fun g1 => g1.pend.find pid) = some p1 ∧ p1.op = .mxt t k mov (some z)) ∧
        (∀ t k mov src, p.op = .mxt t k mov (some src) → mov = true ∨ z.tag = src.tag →
          ∃ s1, exec (.ztileAccessPerform cid zt []) s = .next s1 ∧ Landed src mov s1))) ∧
    (∀ gid' pid', rdzDone s co zt = some (gid', pid') → exec (.ztileAccessPerform cid zt []) s = .next (finish gid' pid' s)) ∧
    (∀ k mov src co2, p.op = .mxt zt k mov (some src) → s.cohorts.find g.cid = some co2 → teamCohort s co2 k = some (cid, co) →
      (transferFits s co zt = true → mov = true ∨ z.tag = src.tag →
        ∃ s1, exec (.teamTransferArrival gid pid []) s = .next s1 ∧ Landed src mov s1) ∧
      (transferFits s co zt = false → (gid, pid) ∉ co.zq →
        exec (.teamTransferArrival gid pid []) s = .next (s.updC cid (fun x => { x with zq := x.zq ++ [(gid, pid)] })))) ∧
    (∀ k mov src co2, p.op = .mxt zt k mov (some src) → s.cohorts.find g.cid = some co2 → teamCohort s co2 k = none →
      exec (.teamTransferArrival gid pid []) s = .next (finish gid pid s)) ∧
    (∃ s1, exec (.ztileQueueRoom gid) s = .next s1 ∧ s1.mem = s.mem ∧ s1.sram = s.sram)

/-! ### The wavelet engine -/

/-- R284, R288 to R295: issuing the wavelet instructions. A malformed descriptor is ILLEGAL 6, a group index beyond the cohort ILLEGAL 7,
another role ROLE, a tile outside its group's window WINDOW, a pending token TOKEN, tags that do not fit DOMAIN 4; otherwise each completes
with its token bound: on a tile of the issuer's own window nothing else changes, on another group's (X = 1) that group holds the operation
beside the issuer. The tag a check finds is the one that pending wavelet operations will leave (`tagFor`: log 60, the model's reading), and
`WLD.RAW` reports ALIGN for its pitch before its rows are checked (log 25, the model's reading). `WTHSET` writes a threshold register, `WCNT`
reads one or a counter. -/
def Obligations.WaveletInstructions : Prop :=
  ∀ (s : State) (c : Ctx) (t b k n d : Nat), ctxOf s = some c → d < 64 → k < 16 → n < 16 →
    let ops := [Instr.wfwd t k, .winv t k, .wthr t k, .wst t b k, .wld t b k, .wtag t n k]
    let raw := Instr.wldRaw t b k
    (tileDesc (c.sn t) c.run.gid = none → ∀ i ∈ raw :: ops, exec i s = .next (takeTrap c { code := 0x01, detail := 6 } s)) ∧
    (∀ x, tileDesc (c.sn t) c.run.gid = some x →
      (x.x = true → c.co.gids.length ≤ x.gidx → ∀ i ∈ raw :: ops, exec i s = .next (takeTrap c { code := 0x01, detail := 7 } s)) ∧
      (x.x = false ∨ x.gidx < c.co.gids.length → c.g.role ≠ .vector → ∀ i ∈ ops, exec i s = .next (takeTrap c { code := 0x05 } s)) ∧
      (x.x = false ∨ x.gidx < c.co.gids.length →
        (b = 63 → exec raw s = .next (takeTrap c { code := 0x01 } s)) ∧
        (b ≠ 63 → c.g.role ≠ .vector → exec raw s = .next (takeTrap c { code := 0x05 } s))) ∧
      (x.x = false ∨ x.gidx < c.co.gids.length → c.g.role = .vector →
        let tgt := if x.x then c.co.gids.getD x.gidx c.run.gid else c.run.gid
        let th := (c.g.th.get 0 x.th).toNat
        let place := fun (r : Nat) => wrap 64 ((c.sn b : Int) + (r * c.sn (b + 1) : Nat))
        let span := fun a => spanErr s (whoOf s c) a (c.sn b) x.maxBytes
        let pitch : Option Trap := if c.sn (b + 1) % 32 = 0 then none else some (match spanErr s (whoOf s c) .rd (c.sn b) 32 with
          | some e => if e.code = 7 then e else { code := 0x08, addr := c.sn b }
          | none => { code := 0x08, addr := c.sn b })
        let rows := pitch.or ((List.range 64).findSome? (fun (r : Nat) => spanErr s (whoOf s c) .rd (place r) (x.c * x.w)))
        ∀ g2, s.groups.find tgt = some g2 →
          let tags := (List.range x.nr).map (fun i => tagFor c g2 (x.base + i))
          let haar := ∀ y ∈ tags, y % 4 = 1 ∧ y / 4 % 8 = x.l
          let dsc : TileDesc := { x with x := decide (tgt ≠ c.run.gid) }
          let posts := fun (i : Instr) (op : WvOp) =>
            (tgt = c.run.gid → Binds i c s k (.wavelet dsc op th false)) ∧
            (tgt ≠ c.run.gid → ∃ s1 p p2, exec i s = .next (retire 4 c.slot s1) ∧ p.op = .wavelet dsc op th false ∧ p.tok = some k ∧
              p2.op = p.op ∧ p2.tok = none ∧ s1.groups.find c.run.gid = some
                { c.g with tk := c.g.tk ||| BitVec.ofNat 16 (2 ^ k), pend := c.g.pend.put s.nextId p, lanesAt := c.g.lanesAt.set (2 ^ 32 - 1) s.nextId (threads c) } ∧
              s1.groups.find tgt = some { g2 with pend := g2.pend.put s.nextId p2 } ∧
              (∀ j, j ≠ c.run.gid → j ≠ tgt → s1.groups.find j = s.groups.find j) ∧ (∀ a, cellGet s1.mem a = cellGet s.mem a) ∧ s1.sram = s.sram)
          (g2.w < x.base + x.nr → (∀ i ∈ ops, exec i s = .next (takeTrap c { code := 0x06, addr := max x.base g2.w } s)) ∧
            (b ≠ 63 → exec raw s = .next (takeTrap c { code := 0x06, addr := max x.base g2.w } s))) ∧
          (x.base + x.nr ≤ g2.w →
            (c.g.tk.getLsbD k = true → ∀ i ∈ [Instr.wfwd t k, .winv t k, .wthr t k, .wtag t n k], exec i s = .next (takeTrap c { code := 0x0B } s)) ∧
            (c.g.tk.getLsbD k = false →
              ((∃ y ∈ tags, y ≠ 0) → exec (.wfwd t k) s = .next (takeTrap c { code := 0x0C, detail := 4 } s)) ∧
              ((∀ y ∈ tags, y = 0) → posts (.wfwd t k) .fwd) ∧
              (¬haar → ∀ i ∈ [Instr.winv t k, .wthr t k], exec i s = .next (takeTrap c { code := 0x0C, detail := 4 } s)) ∧
              (haar → posts (.winv t k) .inv ∧ posts (.wthr t k) .thr) ∧
              posts (.wtag t n k) (.tag n)) ∧
            (∀ e, memChecks c (some k) (span .wr) = .error e → exec (.wst t b k) s = .next (takeTrap c e s)) ∧
            (memChecks c (some k) (span .wr) = .ok () →
              ((∀ y ∈ tags, y = 0) → posts (.wst t b k) (.st (c.sn b) true)) ∧
              (haar → (∃ y ∈ tags, y ≠ 0) → posts (.wst t b k) (.st (c.sn b) false)) ∧
              (¬haar → (∃ y ∈ tags, y ≠ 0) → exec (.wst t b k) s = .next (takeTrap c { code := 0x0C, detail := 4 } s))) ∧
            (∀ e, memChecks c (some k) (span .rd) = .error e → exec (.wld t b k) s = .next (takeTrap c e s)) ∧
            (memChecks c (some k) (span .rd) = .ok () → posts (.wld t b k) (.ld (c.sn b))) ∧
            (b ≠ 63 → (∀ e, memChecks c (some k) rows = .error e → exec raw s = .next (takeTrap c e s)) ∧
              (memChecks c (some k) rows = .ok () → posts raw (.raw (c.sn b) (c.sn (b + 1)))))))) ∧
    (c.g.role = .vector →
      (c.sn b / 2 ^ 38 % 4 = 3 → exec (.wthset n b) s = .next (takeTrap c { code := 0x01, detail := 6 } s)) ∧
      (c.sn b / 2 ^ 38 % 4 ≠ 3 → Does (.wthset n b) 4 c s { c.g with th := c.g.th.set 0 n (c.s b &&& 0xCFFFFFFFFF) } c.run) ∧
      (n < 8 → Does (.wcnt d n) 4 c s (c.g.sSet d (BitVec.ofNat 64 ((s.core c.co.core).wcnt.get 0 n))) c.run) ∧
      (8 ≤ n → Does (.wcnt d n) 4 c s (c.g.sSet d (c.g.th.get 0 (n - 8))) c.run))

/-- R272 to R278, R284, R286, R287, R290 to R294: what the wavelet engine performs on a tile: a level of the transform replaces each pair of
rows by half their sum and half their difference, backwards by sum and difference, each rounded once, over the levels in order; a detail row
is kept where its largest magnitude, or their sum, reaches the bound of its level, approximation rows always; a row mask has a bit for each
row kept. A packed tile is its header and the kept rows in tree order. The event of a request on a tile of the issuer's own window gives its
results, marked done, from the registers as they stand: `WST` enters its packed tile in the store queue, `WLD` and `WLD.RAW` ask for their
bytes and, once these are there, give the tile, or, of a bad header, deliver DOMAIN 5. -/
def Obligations.WaveletResults : Prop :=
  (∀ (inv : Bool) (l : Nat) (y : List FVal) (r : Nat), 1 ≤ l → r < y.length →
    let h := 2 ^ (l - 1)
    let at' := fun i => y.getD i (.fin false 0 1)
    let scaled := fun z : FVal => if inv then z else z.scale2 (-1)
    let out := fun z : FVal => Fmt.f32.decode (roundVal .f32 .rne inv false 0 (scaled z)).1
    ((haarLevel inv l y).map (·.1)).getD r (.fin false 0 1) =
      if r % (2 * h) = 0 then out (FVal.add false (at' r) (at' (r + h))).1
      else if r % (2 * h) = h then out (FVal.add false (at' (r - h)) (at' r).neg).1 else at' r) ∧
  (∀ (inv : Bool) (L : Nat) (F : Fmt) (col : List Nat),
    let up := (List.range L).map (· + 1)
    let y := (col.map F.decode).map (fun v => if v.isNan then .nan false else v)
    (haarCol inv L F col).1 = ((if inv then up.reverse else up).foldl (fun y l => (haarLevel inv l y).map (·.1)) y).map
      (fun v => (roundVal F .rne inv false 0 v).1)) ∧
  (∀ (L r : Nat), 1 ≤ L → L ≤ 6 → r < 64 → (r % 2 ^ L = 0 → rowLevel L r = 0 ∧ treePos L r = r / 2 ^ L) ∧
    ∀ l, 1 ≤ l → l ≤ L → r % 2 ^ l = 2 ^ (l - 1) → rowLevel L r = l ∧ treePos L r = 64 / 2 ^ l + (r - 2 ^ (l - 1)) / 2 ^ l) ∧
  (∀ (th L r : Nat) (F : Fmt) (bs : List Nat), F ∈ [Fmt.f32, .bf16, .e4m3] →
    let xs := bs.map F.decode
    let theta := Fmt.f32.decode (th % 2 ^ 32)
    let mode := th / 2 ^ 38 % 4
    let bound := theta.scale2 ((BitVec.ofNat 4 (th / 2 ^ 32)).toInt * ((rowLevel L r : Int) - 1))
    let zero : FVal := .fin false 0 1
    let total := xs.foldl (fun acc x => (FVal.add false acc (absVal x)).1) zero
    (rowLevel L r = 0 ∨ 2 ≤ mode → keepRow th L r xs = true) ∧
    (rowLevel L r ≠ 0 → mode < 2 →
      (theta.isNan = true → keepRow th L r xs = false) ∧
      (theta.isNan = false → (∃ x ∈ xs, x.isNan = true) → keepRow th L r xs = true) ∧
      (theta.isNan = false → (∀ x ∈ xs, x.isNan = false) →
        (theta = .inf false → keepRow th L r xs = false) ∧
        (theta ≠ .inf false → (mode = 0 → (keepRow th L r xs = true ↔ FVal.lt zero bound = false ∨ ∃ x ∈ xs, FVal.lt (absVal x) bound = false)) ∧
          (mode = 1 → (keepRow th L r xs = true ↔ (∃ x ∈ xs, x.isInf = true) ∨ FVal.lt total bound = false)))))) ∧
  (∀ (d : TileDesc) (th mask : Nat) (cols : List (List Nat)) (r ch : Nat), r < 64 → cols.length = d.c → (∀ c ∈ cols, c.length = 64) → ch < d.c →
    let theta := Fmt.f32.decode (th % 2 ^ 32)
    let v := d.fmtOf.decode (colAt cols r ch)
    ((rowMask d th cols).testBit r = keepRow th d.l r (cols.map (fun c => d.fmtOf.decode (c.getD r 0)))) ∧
    (mask.testBit r = false → colAt (thresholded d th mask cols) r ch = 0) ∧
    (mask.testBit r = true → th / 2 ^ 38 % 4 ≠ 2 ∨ rowLevel d.l r = 0 → colAt (thresholded d th mask cols) r ch = colAt cols r ch) ∧
    (mask.testBit r = true → th / 2 ^ 38 % 4 = 2 → rowLevel d.l r ≠ 0 → colAt (thresholded d th mask cols) r ch =
      if theta.isNan ∨ FVal.lt (absVal v) (theta.scale2 ((BitVec.ofNat 4 (th / 2 ^ 32)).toInt * ((rowLevel d.l r : Int) - 1))) then 0
      else colAt cols r ch)) ∧
  (∀ (g : Group) (d : TileDesc) (th mask : Nat) (cols : List (List Nat)), d.base + d.nr ≤ 256 → d.fmt < 3 → 16 ∣ d.c →
    cols.length = d.c → (∀ c ∈ cols, c.length = 64 ∧ ∀ y ∈ c, y < 2 ^ (8 * d.w)) →
    let g1 := g.putAll (tileWords d cols)
    tileCols g1.getLoc d = cols ∧
    (∀ p r j, p < d.nr / 16 → r < 64 → j < 8 → d.c * d.w ≤ 32 * p + 4 * j → g1.getLoc (locV (d.base + 16 * p + r / 4) (8 * (r % 4) + j)) = 0) ∧
    (tileCols g.getLoc d = cols → tileCols (g.putAll (dropWrites d th mask cols)).getLoc d = thresholded d th mask cols)) ∧
  (∀ (d : TileDesc) (mask : Nat) (cols : List (List Nat)), 1 ≤ d.l → d.l ≤ 6 → d.th < 8 → d.fmt < 3 → d.c ≤ 256 → cols.length = d.c →
    let b := packTile d mask cols
    let rows := packedRows d.l mask
    let F := fun i n => fromBytes ((b.drop i).take n)
    b.length = 32 + rows.length * d.c * d.w ∧ F 0 1 = d.th * 32 + d.l * 4 + 2 ∧ F 1 1 = d.l ∧ F 2 2 = d.c ∧ F 4 1 = d.fmt ∧ F 5 1 = d.th ∧
    F 6 2 = rows.length ∧ F 8 8 = mask % 2 ^ 64 ∧ F 16 16 = 0 ∧
    (∀ r, r ∈ rows ↔ r < 64 ∧ mask.testBit r = true) ∧ rows.Pairwise (fun x y => treePos d.l x < treePos d.l y) ∧
    ∀ p r ch, rows[p]? = some r → ch < d.c → F (32 + (p * d.c + ch) * d.w) d.w = colAt cols r ch % 2 ^ (8 * d.w)) ∧
  (∀ (s : State) (gid pid k th : Nat) (g : Group) (p : Pend) (co : Cohort) (x : TileDesc) (op : WvOp), s.groups.find gid = some g →
    g.pend.find pid = some p → p.op = .wavelet x op th false → p.tok = some k → x.x = false → s.cohorts.find g.cid = some co → co.resident = true →
    mayPerform s gid pid gid x op = true →
    let rd := lateRead s.tick g p
    let cols := tileCols rd x
    (p.void = true → exec (.waveletRequestDone gid pid) s = .next (finish gid pid s)) ∧
    (p.void = false →
    (∀ inv, op = (if inv then WvOp.inv else .fwd) → ∃ s1 g1 p1, exec (.waveletRequestDone gid pid) s = .next s1 ∧ s1.mem = s.mem ∧
      s1.groups.find gid = some g1 ∧ g1 = { g with pend := g1.pend } ∧ g1.pend.find pid = some p1 ∧ p1.op = .wavelet x op th true ∧
      p1.wrs = tileWords x (cols.map (fun c => (haarCol inv x.l x.fmtOf c).1)) ++
        tileTags x (if inv then 0 else x.th * 32 + x.l * 4 + 1)) ∧
    (op = .thr → ∃ s1 p1, exec (.waveletRequestDone gid pid) s = .next s1 ∧ s1.mem = s.mem ∧
      (s1.groups.find gid).bind (fun g1 => g1.pend.find pid) = some p1 ∧
      p1.wrs = dropWrites x th (rowMask x th cols) cols ++ tileTags x (x.th * 32 + x.l * 4 + 1) ++
        [⟨locM x.mkr, 2 ^ 1024 - 1, rowMask x th cols % 2 ^ 64⟩]) ∧
    (∀ t, op = .tag t → ∃ s1 p1, exec (.waveletRequestDone gid pid) s = .next s1 ∧
      (s1.groups.find gid).bind (fun g1 => g1.pend.find pid) = some p1 ∧ p1.wrs = tileTags x t) ∧
    (∀ ptr fwd, op = .st ptr fwd →
      let y := if fwd then cols.map (fun c => (haarCol false x.l x.fmtOf c).1) else cols
      let image := packTile x (rowMask x th y) (thresholded x th (rowMask x th y) y)
      let els : List (Nat × StEl) := (List.range (image.length / 8)).map (fun (i : Nat) =>
        (i, ⟨wrap 64 ((ptr : Int) + (8 * i : Nat)), 8, none, fromBytes ((image.drop (8 * i)).take 8)⟩))
      (els ≠ [] → (∀ e ∈ els, e.2.ptr / 2 ^ 60 % 8 ≠ 1) → ∃ s2 g2 p2, exec (.waveletRequestDone gid pid) s = .next (settle gid s2) ∧
        s2.mem = s.mem ∧ s2.groups.find gid = some g2 ∧ g2 = { g with pend := g2.pend, stq := g.stq ++ [.store pid els] } ∧
        g2.pend.find pid = some p2 ∧ p2.op = .wavelet x op th true) ∧
      (∀ u, whoOfGid s gid = some u → (∀ e ∈ els, e.2.ptr / 2 ^ 60 % 8 = 1) → ∃ s2, exec (.waveletRequestDone gid pid) s =
        .next (settle gid (newReqs ((storeReqs u.gid u.core u.part (els.map (·.2))).map (fun r => { r with pid := some pid, po := pid })) s2)) ∧
        s2.mem = s.mem ∧ (s2.groups.find gid).map (·.stq) = some g.stq ∧ s2.reqs = s.reqs)) ∧
    (p.els = [] → p.left = 0 → (∀ ptr pitch, op = .ld ptr ∨ op = .raw ptr pitch →
      let row := x.c * x.w / 8
      let h := p.word64 0 + p.word64 1 * 2 ^ 64 + p.word64 2 * 2 ^ 128 + p.word64 3 * 2 ^ 192
      let F := fun i n => h / 256 ^ i % 256 ^ n
      let kept := fun (m r : Nat) => ((List.range 64).filter (fun q => m.testBit q && decide (treePos x.l q < treePos x.l r))).length
      let el := fun (place a : Nat) => (place, ({ ptr := wrap 64 ((ptr : Int) + (a : Nat)), n := 8, nib := none, dst := .v scratchReg (64 * place) 64 } : LdEl))
      let asks := fun (n : Nat) (els : List (Nat × LdEl)) =>
        exec (.waveletRequestDone gid pid) s = .next (stepTileLoad gid pid gid x op n (updPend gid pid (fun p => { p with els := els }) s))
      let gives := fun (tag m : Nat) (bits : Nat → Nat → Nat) => ∃ s1 p1, exec (.waveletRequestDone gid pid) s = .next s1 ∧ s1.mem = s.mem ∧
        (s1.groups.find gid).bind (fun g1 => g1.pend.find pid) = some p1 ∧ p1.op = .wavelet x op th true ∧
        p1.wrs = tileWords x ((List.range x.c).map (fun ch => (List.range 64).map (fun r => bits r ch))) ++ tileTags x tag ++
          [⟨locM x.mkr, 2 ^ 1024 - 1, m⟩]
      let stored := fun (k ch : Nat) => let b := (k * x.c + ch) * x.w; p.word64 (4 + b / 8) / 256 ^ (b % 8) % 2 ^ (8 * x.w)
      let valid := F 0 1 % 4 = 2 ∧ F 0 1 / 4 % 8 = F 1 1 ∧ F 0 1 / 32 = F 5 1 ∧ 1 ≤ F 1 1 ∧ F 1 1 ≤ 6 ∧ F 4 1 ≤ 2 ∧ F 2 2 % 16 = 0 ∧ 16 ≤ F 2 2 ∧
        F 2 2 ≤ 256 ∧ (∀ r, r < 64 → r % 2 ^ F 1 1 = 0 → (F 8 8).testBit r = true) ∧
        F 6 2 = ((List.range 64).filter (fun r => (F 8 8).testBit r)).length ∧ F 16 16 = 0 ∧ F 2 2 = x.c ∧ F 4 1 = x.fmt ∧ F 1 1 = x.l
      (op = .ld ptr →
        (p.wrs = [] → asks 2 ((List.range 4).map (fun i => el i (8 * i)))) ∧
        (p.wrs ≠ [] → ¬valid → g.ended = false → ∃ s1 g1, exec (.waveletRequestDone gid pid) s = .next s1 ∧ s1.mem = s.mem ∧
          s1.groups.find gid = some g1 ∧ g1.v = g.v ∧ g1.tag = g.tag ∧ g1.m = g.m ∧ g1.tk.getLsbD k = false ∧ g1.pend.find pid = none ∧
          ⟨0x0C, 5, 0, none⟩ ∈ g1.conds) ∧
        (p.wrs ≠ [] → valid → p.wrs.length < 9 → 0 < p.word64 0 / 2 ^ 48 % 65536 →
          asks 2 ((List.range (p.word64 0 / 2 ^ 48 % 65536 * row)).map (fun i => el (4 + i) (32 + 8 * i)))) ∧
        (valid → 9 ≤ p.wrs.length → gives (p.word64 0 % 256 / 4 * 4 + 1) (p.word64 1 % 2 ^ 64)
          (fun r ch => if (p.word64 1).testBit r then stored (kept (p.word64 1) r) ch else 0))) ∧
      (op = .raw ptr pitch → 16 ∣ x.c → 0 < x.c → x.c ≤ 256 → x.fmt < 3 →
        (p.wrs = [] → asks 2 ((List.range (64 * row)).map (fun i => el (4 + i) (i / row * pitch + 8 * (i % row))))) ∧
        (p.wrs ≠ [] → gives (x.th * 32 + x.l * 4 + 1) (2 ^ 64 - 1) stored))))))

/-! ### The copy engine -/

/-- R152, R296 to R302, R306, R308, R309: issuing the copy instructions. A descriptor is checked in the order of R301: ILLEGAL 8, 7, 9, then ROLE, a
channel the launch does not have (WINDOW 3), the address faults in the order WINDOW, ADDRESS, ALIGN, PERM, each for DST, SRC and TREE, and a
pending token; otherwise a copy completes with its token bound, in its channel's order if its core has a slot free. The others read or
change a channel's write pointer, count or generator; `CPROOT` is privileged and reads its 32 bytes one by one, with no alignment check (log
63, the model's reading). The model's readings too: LOGP above 24 is ILLEGAL 8 (log 61), which byte a fault in die SRAM reports (log 65). -/
def Obligations.CopyInstructions : Prop :=
  (∀ (s : State) (part w lo hi : Nat), lo ≤ hi → lo / 2 ^ 60 = hi / 2 ^ 60 →
    let absent := fun a : Nat => a / 2 ^ 29 % 2 ^ 31 ≠ 0 ∨ s.dies.testBit (a / 2 ^ 26 % 8) = false ∨ s.sramSize (a / 2 ^ 26 % 8) ≤ a % 2 ^ 26
    let foreign := fun a : Nat => (s.partDies part).contains (a / 2 ^ 26 % 8) = false
    (lo / 2 ^ 60 % 8 < 2 → pointerFault s part w lo hi = none) ∧
    (4 ≤ lo / 2 ^ 60 % 8 → pointerFault s part w lo hi = some { code := 0x07, detail := 1, addr := lo }) ∧
    (lo / 2 ^ 60 % 8 = 3 → pointerFault s part w lo hi = if hi % 2 ^ 60 < 128 * w then none
      else some { code := 0x06, addr := max w (lo % 2 ^ 60 / 128) }) ∧
    (lo / 2 ^ 60 % 8 = 2 →
      (∀ a, lo ≤ a → a ≤ hi → absent a → (∀ b, lo ≤ b → b < a → ¬absent b) →
        pointerFault s part w lo hi = some { code := 0x07, detail := 5, addr := a }) ∧
      ((∀ a, lo ≤ a → a ≤ hi → ¬absent a) →
        (∀ a, lo ≤ a → a ≤ hi → foreign a → (∀ b, lo ≤ b → b < a → ¬foreign b) →
          pointerFault s part w lo hi = some { code := 0x09, detail := 5, addr := a }) ∧
        ((∀ a, lo ≤ a → a ≤ hi → ¬foreign a) → pointerFault s part w lo hi = none)))) ∧
  ∀ (s : State) (c : Ctx) (d q k ch : Nat), ctxOf s = some c → d < 64 → k < 16 → s.launches.find c.co.launch = some c.la →
    (∀ row ∈ ([(.cp d q k, 0, 60), (.cp2d d q k, 1, 59), (.cpfill d q k, 2, 60), (.cpver d q k, 3, 58)] : List (Instr × Nat × Nat)),
      let kind := row.2.1
      let dst := c.sn q
      let src := c.sn (q + 1)
      let lens := c.sn (q + 2)
      let cmd := c.sn (q + 3)
      let str := if kind = 1 then c.sn (q + 4) else 0
      let pages := if kind = 3 then c.sn (q + 5) else 0
      let tree := c.sn (q + 4)
      let rows := lens / 2 ^ 32 % 2 ^ 16 + 1
      let len := lens % 2 ^ 31
      let conv := cmd / 2 ^ 8 % 8
      let rm := cmd / 2 ^ 11 % 8
      let x := cmd.testBit 17
      let gidx := cmd / 2 ^ 18 % 16
      let h := cmd % 8
      let dlen := if conv = 1 ∨ conv = 2 then len / 2 else if conv = 3 ∨ conv = 4 then 2 * len else len
      let dstr := (BitVec.ofNat 32 (str / 2 ^ 32)).toInt
      let sstr := (BitVec.ofNat 32 str).toInt
      let dAt := fun (r k : Nat) => wrap 64 ((dst : Int) + (r : Int) * dstr + (k : Int))
      let sAt := fun (r k : Nat) => wrap 64 ((src : Int) + (r : Int) * sstr + (k : Int))
      let out := fun (p a : Nat) => a / 2 ^ 60 % 8 ≠ p / 2 ^ 60 % 8 ∨ (p / 2 ^ 60 % 8 = 1 ∧ a / 2 ^ 48 % 2 ^ 12 ≠ p / 2 ^ 48 % 2 ^ 12)
      let bad8 := cmd / 2 ^ 26 ≠ 0 ∨ (kind ≠ 3 ∧ cmd / 2 ^ 22 % 16 ≠ 0) ∨ (x = false ∧ gidx ≠ 0) ∨ (x = true ∧ dst / 2 ^ 60 % 8 ≠ 3) ∨
        cmd / 2 ^ 15 % 4 = 3 ∨ 5 ≤ conv ∨ rm = 5 ∨ rm = 6 ∨ (conv = 0 ∧ (rm ≠ 0 ∨ cmd.testBit 14 = true)) ∨ lens / 2 ^ 48 ≠ 0 ∨
        lens.testBit 31 = true ∨ pages / 2 ^ 40 ≠ 0 ∨ len = 0 ∨ ((conv = 1 ∨ conv = 2) ∧ len % 2 = 1) ∨ (2 ≤ kind ∧ conv ≠ 0) ∨
        (kind = 3 ∧ (len % 65536 ≠ 0 ∨ 24 < pages / 2 ^ 32 % 256 ∨ 2 ^ (pages / 2 ^ 32 % 256) < pages % 2 ^ 32 + len / 65536)) ∨
        (kind ≠ 1 ∧ rows ≠ 1) ∨ 2 ^ 31 - 1 < rows * dlen ∨ (∃ r, r < rows ∧ (out dst (dAt r 0) ∨ out dst (dAt r (dlen - 1)))) ∨
        (kind ≠ 2 ∧ ∃ r, r < rows ∧ (out src (sAt r 0) ∨ out src (sAt r (len - 1))))
      let bad7 := x = true ∧ c.co.gids.length ≤ gidx
      let target := if x then c.co.gids.getD gidx c.run.gid else c.run.gid
      let bad9 := kind ≠ 2 ∧ dst / 2 ^ 60 % 8 = src / 2 ^ 60 % 8 ∧ (dst / 2 ^ 60 % 8 ≠ 3 ∨ target = c.run.gid) ∧
        (∃ r r', r < rows ∧ r' < rows ∧ dAt r 0 % 2 ^ 60 ≤ sAt r' (len - 1) % 2 ^ 60) ∧
        (∃ r r', r < rows ∧ r' < rows ∧ sAt r 0 % 2 ^ 60 ≤ dAt r' (dlen - 1) % 2 ^ 60)
      let part := s.partOf c.co.core
      let D := (List.range rows).filterMap (fun r => pointerFault s part c.g.w (dAt r 0) (dAt r (dlen - 1)))
      let S := if kind = 2 then [] else (List.range rows).filterMap (fun r => pointerFault s part c.g.w (sAt r 0) (sAt r (len - 1)))
      let T := if kind = 3 then (pointerFault s part c.g.w tree (wrap 64 ((tree : Int) + 32 * (2 ^ (pages / 2 ^ 32 % 256 + 1) : Nat) - 1))).toList else []
      let A : List Trap := if kind = 3 ∧ dst / 2 ^ 60 % 8 ≠ 0 ∧ dst / 2 ^ 60 % 8 ≠ 2 then [{ code := 0x07, detail := 8, addr := dst }] else []
      let L : List Trap :=
        (if (3 ≤ conv ∧ (dst % 2 = 1 ∨ dstr % 2 = 1)) ∨ (kind = 3 ∧ dst % 128 ≠ 0) then [{ code := 0x08, addr := dst }] else []) ++
        (if (conv = 1 ∨ conv = 2) ∧ (src % 2 = 1 ∨ sstr % 2 = 1) then [{ code := 0x08, addr := src }] else [])
      let only := fun (n : Nat) (l : List Trap) => l.filter (fun t => t.code == n)
      let faults := only 6 (D ++ S ++ T) ++ only 7 (D ++ A ++ S ++ T) ++ L ++ only 9 (D ++ S ++ T)
      (row.2.2 < q → exec row.1 s = .next (takeTrap c { code := 0x01, detail := 8 } s)) ∧
      (q ≤ row.2.2 →
        (bad8 → exec row.1 s = .next (takeTrap c { code := 0x01, detail := 8 } s)) ∧
        (¬bad8 → bad7 → exec row.1 s = .next (takeTrap c { code := 0x01, detail := 7 } s)) ∧
        (¬bad8 → ¬bad7 → bad9 → exec row.1 s = .next (takeTrap c { code := 0x01, detail := 9 } s)) ∧
        (¬bad8 → ¬bad7 → ¬bad9 → c.g.role ≠ .copy → exec row.1 s = .next (takeTrap c { code := 0x05 } s)) ∧
        (¬bad8 → ¬bad7 → ¬bad9 → c.g.role = .copy →
          (c.la.ch ≤ h → exec row.1 s = .next (takeTrap c { code := 0x06, detail := 3, addr := h } s)) ∧
          (h < c.la.ch → (∀ t, memChecks c (some k) faults.head? = .error t → exec row.1 s = .next (takeTrap c t s)) ∧
            (memChecks c (some k) faults.head? = .ok () →
              (slotsUsed s c.co.core < 128 → Binds row.1 c s k (.copy h d none)) ∧
              (128 ≤ slotsUsed s c.co.core → ∃ j : CopyJob, Binds row.1 c s k (.copy h d (some j)) ∧ j.gid = c.run.gid ∧ j.kind = kind ∧
                j.dst = dst ∧ (kind ≠ 2 → j.src = src) ∧ (kind = 2 → j.pat = src) ∧ j.rows = rows ∧ j.len = len ∧ j.dstr = dstr ∧ j.sstr = sstr ∧
                j.conv = conv ∧ j.rm = (if rm = 7 then c.g.frm % 8 else rm) ∧ j.xgid = target ∧ j.done = 0 ∧
                j.bar = if cmd.testBit 3 then some (cmd / 2 ^ 4 % 16) else none)))))) ∧
    (c.g.role = .copy →
      (c.la.ch ≤ ch → ∀ i ∈ [Instr.cpwp d ch, .cpwpClr d ch, .cpseed ch q], exec i s = .next (takeTrap c { code := 0x06, detail := 3, addr := ch } s)) ∧
      (ch < c.la.ch →
        let x := BitVec.ofNat 64 ((if (c.co.chan ch).fail then 2 ^ 63 else 0) + (c.co.chan ch).pos)
        let v := c.sn q % 2 ^ 32
        Does (.cpwp d ch) 4 c s (c.g.sSet d x) c.run ∧
        DoesOn (.cpwpClr d ch) 4 c s (updChan c.g.cid ch (fun h => { h with fail := false }) s) (c.g.sSet d x) c.run ∧
        DoesOn (.cpseed ch q) 4 c s (updChan c.g.cid ch (fun h => h.push (.seed (if v = 0 then 1 else v))) s) c.g c.run) ∧
      Does (.cpnum d) 4 c s (c.g.sSet d (BitVec.ofNat 64 c.co.copies)) c.run ∧
      (c.g.tk.getLsbD k = true → ∀ i ∈ [Instr.cproot ch q k, .cprootClr ch k], exec i s = .next (takeTrap c { code := 0x0B } s)) ∧
      (c.g.tk.getLsbD k = false →
        (c.la.priv = false → ∀ i ∈ [Instr.cproot ch q k, .cprootClr ch k], exec i s = .next (takeTrap c { code := 0x09, detail := 1 } s)) ∧
        (c.la.priv = true → Binds (.cprootClr ch k) c s k (.cproot ch 0 none) ∧
          (let fault := (List.range 32).findSome? (fun (i : Nat) => faultAt s c .rd (wrap 64 ((c.sn q : Int) + (i : Nat))) 1)
           (∀ t, fault = some t → exec (.cproot ch q k) s = .next (takeTrap c t s)) ∧
           (fault = none → ∃ s1, exec (.cproot ch q k) s = .next (retire 4 c.slot s1))))))

/-! ### The lattice engine -/

/-- R321 to R331: issuing the lattice instructions. The checks of a pointer, first clause, in the order ADDRESS, ALIGN, PERM, LTYPE, with LTYPE
1 for a page that is no lattice page and 2 for a wide type in a vector form, and DETAIL 0 where R104 names none (log 25, the model's
reading); `LJOIN`, `LPUT` and `LCLR` check a write, `LGET` and `LWAIT` a read; a group that is not `VECTOR` traps ROLE. A scalar or vector form
whose elements pass completes. `LXSCHED` reads the schedule, and sets it when privileged; `LTYPE` and `LXNOW` bind their token. -/
def Obligations.LatticeInstructions : Prop :=
  (∀ (s : State) (u : Who) (vec : Bool) (ptr : Nat), ∀ a ∈ [Acc.rd, .wr],
    let va := ptr % 2 ^ 60
    let gives := fun (code detail : Nat) => latErr s u a vec ptr = some { code := code, detail := detail, addr := ptr }
    (ptr / 2 ^ 60 % 8 ≠ 0 → gives 0x07 8) ∧
    (ptr / 2 ^ 60 % 8 = 0 → (∀ d, xlate s u a va = .error d → gives 0x07 d) ∧
      (∀ x, xlate s u a va = .ok x →
        let l := x.leaf
        let width := if l.aux = 7 then 32 else if l.aux = 4 ∨ l.aux = 6 then 8 else 4
        let denied := (a = .rd ∧ l.rd = false) ∨ (a = .wr ∧ (inCode u va l.lvl = true ∨ l.wr = false))
        let foreign := l.priv = true ∧ u.priv = false
        (l.st = 5 ∧ va % width ≠ 0 → gives 0x08 0) ∧
        (¬(l.st = 5 ∧ va % width ≠ 0) →
          (a = .rd → l.rd = false → gives 0x09 2) ∧
          (a = .wr → inCode u va l.lvl = true → gives 0x09 6) ∧
          (a = .wr → inCode u va l.lvl = false → l.wr = false → gives 0x09 3) ∧
          (¬denied → foreign → gives 0x09 4) ∧
          (¬denied → ¬foreign → (l.st ≠ 5 → gives 0x0E 1) ∧ (l.st = 5 → vec = true → l.aux ∈ [4, 6, 7] → gives 0x0E 2) ∧
            (l.st = 5 → vec = false ∨ l.aux ∉ [4, 6, 7] → latErr s u a vec ptr = none)))))) ∧
  ∀ (s : State) (c : Ctx) (v r b k : Nat), ctxOf s = some c → v < 64 → k < 16 →
    let u := whoOf s c
    let ptr := c.sn b
    let lanes := lanesOf (liveOf c.g c.run.aset)
    let at' := fun L => wrap 64 ((c.sn b : Int) + sext 32 (c.vw (v + 1) L))
    (c.g.role ≠ .vector → ∀ i ∈ [Instr.ljoin v r b, .ljoinV v r b, .lput v r b k, .lputV v r b k, .lget v r b k, .lgetV v r b k, .lwait v r b k,
      .lxnow k, .ltype v b k, .lclr b k], exec i s = .next (takeTrap c { code := 0x05 } s)) ∧
    (c.g.role = .vector →
      (∀ row ∈ ([(.ljoin v r b, .wr, none), (.lput v r b k, .wr, some k), (.lget v r b k, .rd, some k), (.lwait v r b k, .rd, some k)] :
          List (Instr × Acc × Option Nat)),
        (∀ t, memChecks c row.2.2 (latErr s u row.2.1 false ptr) = .error t → exec row.1 s = .next (takeTrap c t s)) ∧
        (memChecks c row.2.2 (latErr s u row.2.1 false ptr) = .ok () → ∃ s1, exec row.1 s = .next (retire 4 c.slot s1))) ∧
      (∀ row ∈ ([(.ljoinV v r b, .wr, none, v + 1), (.lputV v r b k, .wr, some k, v + 1), (.lgetV v r b k, .rd, some k, max v c.g.w)] :
          List (Instr × Acc × Option Nat × Nat)),
        let faults := lanes.filterMap (fun L => (latErr s u row.2.1 true (at' L)).map (fun t => (L, t)))
        (c.g.w < v + 2 → exec row.1 s = .next (takeTrap c { code := 0x06, addr := row.2.2.2 } s)) ∧
        (v + 2 ≤ c.g.w → (∀ t, memChecks c row.2.2.1 (worst c 32 faults) = .error t → exec row.1 s = .next (takeTrap c t s)) ∧
          (memChecks c row.2.2.1 (worst c 32 faults) = .ok () → ∃ s1, exec row.1 s = .next (retire 4 c.slot s1)))) ∧
      (let x := c.sn b
       let part := s.partOf c.co.core
       (x / 2 ^ 20 % 2 ^ 43 = 0 → x % 256 = 0 →
        (x.testBit 63 = false → Does (.lxsched v b) 4 c s (c.g.sSet v (BitVec.ofNat 64 (schedWord s part))) c.run) ∧
        (x.testBit 63 = true → c.la.priv = false → exec (.lxsched v b) s = .next (takeTrap c { code := 0x09, detail := 1 } s)) ∧
        (x.testBit 63 = true → c.la.priv = true → ∃ l : Lattice, l.period = x / 256 % 4096 ∧
          DoesOn (.lxsched v b) 4 c s (updLattice part (fun _ => l) s) (c.g.sSet v (BitVec.ofNat 64 (schedWord s part))) c.run)) ∧
       (x / 2 ^ 20 % 2 ^ 43 ≠ 0 ∨ x % 256 ≠ 0 → exec (.lxsched v b) s = .next (takeTrap c { code := 0x01, detail := 1 } s))) ∧
      (c.g.tk.getLsbD k = true → exec (.lxnow k) s = .next (takeTrap c { code := 0x0B } s) ∧ exec (.lclr b k) s = .next (takeTrap c { code := 0x0B } s)) ∧
      (c.g.tk.getLsbD k = false →
        (∃ s1, exec (.lxnow k) s = .next (retire 4 c.slot s1)) ∧
        (2 ≤ (s.partDies (s.partOf c.co.core)).length → Binds (.lxnow k) c s k .lxnow) ∧
        (c.la.priv = false → exec (.lclr b k) s = .next (takeTrap c { code := 0x09, detail := 1 } s)) ∧
        (∀ t, c.la.priv = true → latErr s u .wr false ptr = some t → exec (.lclr b k) s = .next (takeTrap c t s)) ∧
        (c.la.priv = true → latErr s u .wr false ptr = none → ∃ s1, exec (.lclr b k) s = .next (retire 4 c.slot s1)) ∧
        (ptr / 2 ^ 60 % 8 ≠ 0 → exec (.ltype v b k) s = .next (takeTrap c { code := 0x07, detail := 8, addr := ptr } s)) ∧
        (ptr / 2 ^ 60 % 8 = 0 → xlate s u .rd (ptr % 2 ^ 60) = .error 2 → Binds (.ltype v b k) c s k .ltype) ∧
        (∀ x, ptr / 2 ^ 60 % 8 = 0 → xlate s u .rd (ptr % 2 ^ 60) = .ok x →
          let odd := x.leaf.st = 5 ∧ ptr % 2 ^ 60 % latWidth x.leaf.aux ≠ 0
          (odd → exec (.ltype v b k) s = .next (takeTrap c { code := 0x08, addr := ptr } s)) ∧
          (¬odd → x.leaf.priv = true → c.la.priv = false →
            exec (.ltype v b k) s = .next (takeTrap c { code := 0x09, detail := 4, addr := ptr } s)) ∧
          (¬odd → x.leaf.priv = false ∨ c.la.priv = true → Binds (.ltype v b k) c s k .ltype))))

/-- R54, R315, R317, R323 to R326: cells. *Join* is at or above both its arguments, and joining again changes nothing; a performed join
leaves the join of the old cell and the operand and no other byte changed but that cell, in a `GCNT8` cell the die's slot plus the operand,
saturated; an `LPUT` below the cell, in a `GCNT8` cell below the die's slot, is refused with DETAIL 1 and changes nothing, another is stored. A
NaN joined or put to a MAX.F32 cell changes nothing, and the put is refused with DETAIL 2. -/
def Obligations.LatticeCells : Prop :=
  (∀ ty a b, 1 ≤ ty → ty ≤ 7 → a < 2 ^ (8 * latWidth ty) → b < 2 ^ (8 * latWidth ty) → (ty = 5 → isNan32 a = false ∧ isNan32 b = false) →
    latGe ty (latJoin ty a b) a = true ∧ latGe ty (latJoin ty a b) b = true ∧ latJoin ty (latJoin ty a b) b = latJoin ty a b ∧
      latGe ty a (latBottom ty) = true) ∧
  (∀ (s : State) (e : LatEl), Memory.wf s.mem = true → 1 ≤ e.ty → e.ty ≤ 6 → (e.ty = 5 → isNan32 e.v = false) → e.v < 2 ^ (8 * latWidth e.ty) →
    let w := latWidth e.ty
    let old := cellAt s e.pa e.ty
    let out := fun y => y < e.pa ∨ e.pa + w ≤ y
    let j := latWrite false e s
    let p := latWrite true e s
    (j.2 = none ∧ cellAt j.1 e.pa e.ty = latJoin e.ty old e.v ∧ ∀ y, out y → cellGet j.1.mem y = cellGet s.mem y) ∧
    (latGe e.ty e.v old = false → p = (s, some 1)) ∧
    (latGe e.ty e.v old = true → p.2 = none ∧ cellAt p.1 e.pa e.ty = e.v ∧ ∀ y, out y → cellGet p.1.mem y = cellGet s.mem y)) ∧
  (∀ (s : State) (e : LatEl), e.ty = 5 → isNan32 e.v = true → latWrite false e s = (s, none) ∧ latWrite true e s = (s, some 2)) ∧
  (∀ (s : State) (e : LatEl), Memory.wf s.mem = true → e.ty = 7 → e.v < 2 ^ 32 → e.pa / 2 ^ 36 < 8 →
    let die := e.pa / 2 ^ 36
    let slot := fun (t : State) (i : Nat) => cellAt t e.pa 7 / 2 ^ (32 * i) % 2 ^ 32
    let out := fun y => y < e.pa ∨ e.pa + 32 ≤ y
    let holds := fun (t : State) (v : Nat) => (∀ i, i < 8 → slot t i = if i = die then v else slot s i) ∧
      ∀ y, out y → cellGet t.mem y = cellGet s.mem y
    let j := latWrite false e s
    let p := latWrite true e s
    (j.2 = none ∧ holds j.1 (min (slot s die + e.v) 0xFFFFFFFF)) ∧
    (e.v < slot s die → p = (s, some 1)) ∧
    (slot s die ≤ e.v → p.2 = none ∧ holds p.1 e.v))

/-! ### Events -/

/-- R168 to R170, R186, R199, R210, R317, R323, R326, R330: events of the memory and lattice engines. A coherence request leaves its agent
with a token of the line, and with all 64 for an exclusive one, unless another's persistent request is active, when it stays outstanding; a
request unanswered for 512 clk is sent again, and after four failed retries becomes a persistent one; siblings quiet for 100 µs merge; a
lattice write whose order allows it performs its elements, one whose gang has ended none; a received line is joined cell by cell; a cleared
page holds the bottom element; a wait whose time and the clock in which it ended have passed ends with status 2. That a request gathers its
tokens in one step, and who is served, is the model's choice (log 74); when a wait behind its group's order times out, its reading (log
132); that a round joins line by line, its reading (log 70). -/
def Obligations.MemoryEngineEvents : Prop :=
  (∀ (s : State) (a line : Nat), ∃ s1 s2, exec (.coherenceRequest a line true) s = .next s1 ∧ exec (.coherenceRequest a line false) s = .next s2 ∧
    s1.mem = s.mem ∧ s2.mem = s.mem ∧ s1.groups = s.groups ∧ s2.groups = s.groups ∧
    (∀ k, k ≠ line → tokOf s1 k = tokOf s k ∧ tokOf s2 k = tokOf s k) ∧
    (((tokOf s line).persist = [] ∨ ∃ x, (tokOf s line).persist = [(a, x)]) →
      1000 ≤ a ∨ heldByCopy s 0 0 0 false (128 * line) = false →
      (tokOf s1 line).held = [(a, 64)] ∧ (tokOf s1 line).owner = some a ∧ (tokOf s2 line).of a ≠ 0) ∧
    (∀ b x t, (tokOf s line).persist = (b, x) :: t → b ≠ a → s1 = s2 ∧ (tokOf s1 line).held = (tokOf s line).held ∧
      ((∀ p ∈ (tokOf s line).tries, p.agent ≠ a) → (∀ p ∈ (tokOf s line).persist, p.1 ≠ a) →
        (tokOf s1 line).tries = sendTransient s a line 0 :: (tokOf s line).tries))) ∧
  (∀ (s : State) (a line : Nat) (e : Bool) (x : Transient), let t := tokOf s line
    t.tries.find? (fun p => p.agent == a) = some x → x.due ≤ s.now →
    ∃ s1, exec (.transientRequestTimeout a line e) s = .next s1 ∧ s1.mem = s.mem ∧ s1.groups = s.groups ∧
      (x.tries < 4 → (tokOf s1 line).tries = sendTransient s a line (x.tries + 1) :: t.tries.filter (fun p => p.agent != a) ∧
        (tokOf s1 line).persist = t.persist ∧ (tokOf s1 line).held = t.held) ∧
      (4 ≤ x.tries → (tokOf s1 line).tries = t.tries.filter (fun p => p.agent != a) ∧ (tokOf s1 line).persist = t.persist ++ [(a, e)] ∧
        (t.persist = [] → (tokOf s1 line).held = [(a, 64)]))) ∧
  (∀ (s : State) (base size : Nat) (x y : Region), s.regions.find? (fun r => r.base == base && 2 * r.size == size) = some x →
    s.regions.find? (fun r => 2 * r.base == 2 * base + size && 2 * r.size == size) = some y → base % size = 0 → size ≤ 65536 →
    x.quiet + 900000 ≤ s.now → y.quiet + 900000 ≤ s.now →
    let one : Region := ⟨base, size, if x.cluster = y.cluster then x.cluster else none, s.now⟩
    exec (.regionMerge base size) s = .next { s with regions := one :: s.regions.filter (fun r => r != x && r != y) }) ∧
  (∀ (s : State) (gid pid : Nat), exec (.atomicPerform gid pid) s = .next (settle gid (finishIfDone gid pid (serveAtomic gid pid none s))) ∧
    exec (.storeQueueRoom gid) s = .next (settle gid s) ∧
    (∀ g h t, g.stqWait = h :: t → stqUsed g + h.size ≤ 64 ∨ g.stq = [] → g.admitHeld 1 = { g with stq := g.stq ++ [h], stqWait := t }) ∧
    (∀ g h t, g.stqWait = h :: t → 64 < stqUsed g + h.size → g.stq ≠ [] → g.admitHeld 1 = g)) ∧
  (∀ (s : State) (gid pid : Nat) (g : Group) (p : Pend), s.groups.find gid = some g → g.pend.find pid = some p →
    (∀ put rel els r, p.op = .lwrite put rel els r → p.void = true → exec (.latticeWritePerform gid pid) s = .next (settle gid (finish gid pid s))) ∧
    (∀ put els r, p.op = .lwrite put false els r → p.void = false → latMayWrite g pid = true → (∀ e ∈ els, latFree s gid g pid p e = true) →
      exec (.latticeWritePerform gid pid) s = .next (settle gid (match refusalCond (latWrites put els s).2 with
        | some k => addCond gid k (finish gid pid (latWrites put els s).1)
        | none => finish gid pid (latWrites put els s).1))) ∧
    (∀ e d due k, p.op = .lwait e d (some due) → p.tok = some k → waitEnd s g due ≤ s.now → latFree s gid g pid p e = true →
      p.wrs = [] → p.clob = [] → p.bad = [] → p.ecc = none → p.flags = 0 → p.fev = [] →
      g.ended = false → Settled s gid g → ∃ s1 g1, exec (.lwaitTimeout gid pid) s = .next s1 ∧ s1.groups.find gid = some g1 ∧
        s1.mem = s.mem ∧ g1.pend.find pid = none ∧ g1.tk = g.tk &&& ~~~(BitVec.ofNat 16 (2 ^ k)) ∧
        (d + 1 < 64 → g1.s = ((g.sSet d (BitVec.ofNat 64 (latRead e.ty (cellAt s e.pa e.ty)))).sSet (d + 1) 2).s)) ∧
    (∃ s1, exec (.latticeQueueRoom gid) s = .next s1 ∧ s1.mem = s.mem)) ∧
  (∀ (s : State) (part : Nat), let x := s.lattice part
    (x.round = none → x.clears = [] → x.forced ≠ [] ∨ (x.period ≠ 0 ∧ x.started + x.period * 256 ≤ s.now) →
      x.distance (s.partDies part).length ≠ 0 → ∃ s1, exec (.exchangeRoundStart part) s = .next s1 ∧ s1.mem = s.mem ∧
        (s1.lattice part).round.isSome = true ∧ (s1.lattice part).serving = x.forced ∧ (s1.lattice part).forced = [] ∧
        (s1.lattice part).started = s.now) ∧
    (∀ p l t, x.round = some [p] → p.snapHi = l :: t → ∃ s1, exec (.exchangeTransferArrival part 0) s = .next s1 ∧ s1.mem = (joinLine p.lo l.1 l.2 s).mem) ∧
    (∀ q t, x.round = none → x.clears = q :: t → ∃ s1, exec (.latticePageClear part) s = .next s1 ∧
      let pa := hbmBase ((s.partDies part).getD q.done 0) + q.off
      (∀ k, k < 65536 → cellGet s1.mem (pa + k) = BitVec.ofNat 8 (latBottom q.ty / 256 ^ (k % latWidth q.ty))) ∧
      ∀ y, y < pa ∨ pa + 65536 ≤ y → cellGet s1.mem y = cellGet s.mem y)) ∧
  (∀ (s : State) (die key : Nat) (bs : List Byte), Memory.wf s.mem = true →
    let ty := key % 8
    let w := latWidth ty
    let pa := hbmBase die + 128 * (key / 8)
    (∀ i, i < 128 / w → cellAt (joinLine die key bs s) (pa + w * i) ty =
      latJoin ty (cellAt s (pa + w * i) ty) (fromBytes ((bs.drop (w * i)).take w)) % 2 ^ (8 * w)) ∧
    ∀ y, y < pa ∨ pa + 128 ≤ y → cellGet (joinLine die key bs s).mem y = cellGet s.mem y)

/-- R98, R99, R110, R128, R150, R297, R303, R310, R312: events of the cores and the copy engines. At a free slot the pick fetches the head of
the ready group and starts its run; a condition is delivered at a run boundary as a trap at the head; a releasable group is gone; an
invalidation's wait ends; a copy's next chunk is written where its pointer says, nowhere else, and advances `wp`; a weight page is checked
against its tree, and the lines of one that fails are zeroed and poisoned in turn before the copy ends; a copy that waited takes its slot. The
model's readings: no slot begins a run while a change of NPART is asked for (log 104), a group is released only with nothing of it
pending (log 88), the leaf of a page is compared before its siblings are read (log 64), which waits stand again after a delivered condition
(log 11), and the lines of a failed page (log 68). -/
def Obligations.CoreAndCopyEvents : Prop :=
  (∀ (s : State) (sl : Nat), ((s.runs.find sl).isSome = true ∨ s.halted = true ∨ s.npartAsked.isSome = true → exec (.slotPick sl) s = .next s) ∧
    ∀ (gid a w : Nat) (g : Group) (co : Cohort) (la : Launch) (u : Who), s.runs.find sl = none → s.halted = false → s.npartAsked = none →
      slotGroups s sl = [(gid, g)] → s.groups.find gid = some g → s.cohorts.find g.cid = some co → s.launches.find co.launch = some la →
      whoOfGid s gid = some u → g.conds = [] → g.waits = [] → g.parked = false → g.resume = none → g.issueAddr = some a →
      fetchWord s u a = .ok w → isHead w = true → g.tk.toNat &&& headAwait w = 0 → contended s = false →
      ∃ s1, exec (.slotPick sl) s = .next s1 ∧
        s1.runs.find sl = some { gid := gid, word := a, aset := g.activeAt a, head := true, buf := toBytes 4 w }) ∧
  (∀ (s : State) (gid a : Nat) (g : Group) (co : Cohort) (la : Launch) (k : Cond) (ks : List Cond), s.groups.find gid = some g →
    s.cohorts.find g.cid = some co → s.launches.find co.launch = some la → g.conds = k :: ks → g.issueAddr = some a → g.ended = false → g.ending = false →
    (atBoundary s g = false → exec (.asyncConditionDelivery gid) s = .next s) ∧
    (atBoundary s g = true → g.trap = false → co.tvecEn = true →
      let A := liveOf g (g.activeAt a)
      let ws := waitsLeft s g g.waits
      ∃ s1 g1, exec (.asyncConditionDelivery gid) s = .next s1 ∧ s1.groups.find gid = some g1 ∧ s1.mem = s.mem ∧ g1.trap = true ∧ g1.conds = ks ∧
        g1.tcause = BitVec.ofNat 64 (2 ^ 63 + k.detail % 65536 * 65536 + k.code) ∧
        g1.tepc = BitVec.ofNat 64 (a + 2 ^ 38 + if ws = [] then 0 else 2 ^ 39) ∧
        g1.tlanes = BitVec.ofNat 64 (A.toNat * 2 ^ 32 + k.lanes.getD A.toNat) ∧ g1.taddr = BitVec.ofNat 64 k.addr ∧
        g1.keptWaits = ws ∧ g1.waits = [] ∧ g1.s = g.s ∧ g1.m = g.m ∧ g1.v = g.v ∧
        ∀ L, L < 32 → g1.lane L = match g.lane L with
          | .live pc => if inSet A L then .live (min co.tvecWord 0xFFFFFFFD) else .live pc
          | p => p)) ∧
  (∀ (s : State) (gid mj : Nat) (g : Group), s.groups.find gid = some g →
    (g.releasable = true ↔ g.ended = true ∧ g.tk = 0 ∧ g.pend = [] ∧ g.stq = [] ∧ g.stqWait = []) ∧
    (g.releasable = false → exec (.groupRelease gid mj) s = .next s) ∧
    (∀ co other, g.releasable = true → s.cohorts.find g.cid = some co → other ∈ co.gids → other ≠ gid → (s.groups.find other).isSome = true →
      exec (.groupRelease gid mj) s = .next { s with groups := s.groups.del gid }) ∧
    (∀ co, g.releasable = true → s.cohorts.find g.cid = some co →
      let s1 := releaseCohort g.cid { s with groups := s.groups.del gid }
      let s2 := meter (((s1.launches.find co.launch).map (·.part)).getD 0) mj s1
      (∀ e ∈ s1.cohorts, e.2.launch ≠ co.launch) → exec (.groupRelease gid mj) s =
        .next (completeLaunch co.launch (((s2.launches.find co.launch).map (·.met)).getD 0 / 2 ^ 32) s2)) ∧
    (∀ id ws, g.waits = .tlbi id :: ws → ∃ s1 g1, exec (.tlbInvalidationComplete gid) s = .next s1 ∧ s1.groups.find gid = some g1 ∧
      g1 = { g with waits := ws, keptWaits := g1.keptWaits })) ∧
  (∀ (s : State) (cid ch : Nat) (ecc : Bool) (j : CopyJob) (u : Who) (co : Cohort), headCopy s cid ch = some j → copyWho s j = some u →
    s.cohorts.find cid = some co → j.sent = false →
    (∀ i d, j.failing = some (i, d) → j.abort = false →
      let a := j.dstAt 0 (65536 * (j.done / 65536) + 128 * i)
      (512 ≤ i → exec (.weightPageCheck ⟨cid, ch⟩ ecc) s = .next (afterCopy (hashFail cid ch j d (j.srcAt 0 (65536 * (j.done / 65536))) s))) ∧
      (i < 512 → exec (.weightPageCheck ⟨cid, ch⟩ ecc) s = .next (afterCopy (poisonFrom cid ch u 514 s)) ∧
        ∀ pa, placeOf s u .wr a 128 = .ok (.phys pa 1) → heldByCopy s u.gid j.pid u.core true pa = false → Memory.wf s.mem = true →
          ∃ t j1, (∀ n, poisonFrom cid ch u (n + 1) s = poisonFrom cid ch u n t) ∧ (∀ k, k < 128 → cellGet t.mem (pa + k) = 0) ∧
            pa / 128 ∈ t.poison ∧ headCopy t cid ch = some j1 ∧ j1.failing = some (i + 1, d) ∧ j1.done = j.done)) ∧
    (j.failing = none →
    (j.abort = true → exec (.copyChunkDelivery cid ch ecc) s = .next (afterCopy (endCopy cid ch 8 0 s))) ∧
    (j.abort = false → copyFree s j = true → 0 < j.dlen → (j.kind = 3 → j.done / 65536 < j.checked) →
      let a := j.chunk.1.1
      let src := j.chunk.2
      let bs := if j.kind = 2 then j.fill a j.chunk.1.2 else (j.convert (co.chan ch).gen a (gathered j src.1 src.2)).1
      ∀ pa, j.kind = 2 ∨ missing j src.1 src.2 = [] → bits a 62 60 = 0 → placeOf s u .wr a 1 = .ok (.phys pa 1) →
        heldByCopy s u.gid j.pid u.core true pa = false → Memory.wf s.mem = true →
        ∃ t, exec (.copyChunkDelivery cid ch ecc) s = .next (afterCopy t) ∧
          (∀ i, i < bs.length → cellGet t.mem (pa + i) = bs.getD i 0) ∧
          (∀ x, xlate s u .wr (a % 2 ^ 60) = .ok x → ∀ y, y < pa ∨ pa + bs.length ≤ y → y < x.leaf.addr ∨ x.leaf.addr + 8 ≤ y →
            cellGet t.mem y = cellGet s.mem y) ∧
          (j.done + j.chunk.1.2 < j.total → ((t.cohorts.find cid).map (fun c1 => (c1.chan ch).pos)) =
            some (((co.chan ch).pos + j.chunk.1.2) % 2 ^ 63))) ∧
    (j.kind = 3 → j.checked ≤ j.done / 65536 →
      (j.abort = true → exec (.weightPageCheck ⟨cid, ch⟩ ecc) s = .next (afterCopy (endCopy cid ch 8 0 s))) ∧
      (j.abort = false → copyFree s j = true → j.root = none → exec (.weightPageCheck ⟨cid, ch⟩ ecc) s = .next (afterCopy (hashFail cid ch j 3 0 s))) ∧
      (∀ root, j.abort = false → copyFree s j = true → j.root = some root →
        let p := j.done / 65536
        let page := j.srcAt 0 (65536 * p)
        let leaf := 2 ^ j.logp + j.first + p
        let node := fun k => gathered j (nodeSpan j.tree k).1 32
        let sibs := treeNodes (j.logp + 1) leaf
        let h := sha256 (gathered j page 65536)
        missing j page 65536 = [] → missing j (nodeSpan j.tree leaf).1 32 = [] → (∀ k ∈ sibs, missing j (nodeSpan j.tree k).1 32 = []) →
        (h ≠ node leaf → exec (.weightPageCheck ⟨cid, ch⟩ ecc) s = .next (afterCopy (poisonPage cid ch u 1 s))) ∧
        (h = node leaf → digestOf (climb leaf (sibs.map node) h) ≠ root →
          exec (.weightPageCheck ⟨cid, ch⟩ ecc) s = .next (afterCopy (poisonPage cid ch u 2 s))) ∧
        (h = node leaf → digestOf (climb leaf (sibs.map node) h) = root →
          exec (.weightPageCheck ⟨cid, ch⟩ ecc) s = .next (afterCopy (updCopy cid ch (fun j => { j with checked := p + 1 }) s))))))) ∧
  (∀ (s : State) (gid pid ch d : Nat) (g : Group) (co : Cohort) (p : Pend) (j : CopyJob) (u : Who), s.groups.find gid = some g →
    s.cohorts.find g.cid = some co → whoOfGid s gid = some u → g.pend.find? (fun e => !e.2.accepted && (match e.2.op with
      | .copy _ _ (some _) => true
      | _ => false)) = some (pid, p) → p.op = .copy ch d (some j) →
    (128 ≤ slotsUsed s co.core ∨ (∃ e ∈ s.runs, e.2.gid = gid) → exec (.copySlotFree gid) s = .next s) ∧
    (slotsUsed s co.core < 128 → (∀ e ∈ s.runs, e.2.gid ≠ gid) → exec (.copySlotFree gid) s =
      .next (claimLines u j (updChan g.cid ch (fun h => h.push (.copy j))
        (updPend gid pid (fun p => { p with accepted := true, op := .copy ch d none }) s)))))

/-- R174, R175, R333 to R358: events of Meridian and Almanac. A request of a tenant its space does not admit, or for a page without a record,
is declined with reason 4; any other is served in its record's order by the table of R343, and acknowledgements of the VERSION being made
complete it; a request that fails leaves the record as it was. Holders ship, invalidate and write back; probes are answered; filters, declines,
the mailbox, migrations and the steps of a locked line are as their rules say. `progress` serves what waited: where nothing waits it changes
nothing. Timers stop before their time. The model's choices, not the spec's: log entries 30, 48, 76, 133 and 150 (the orders of a request, `plan`,
and its messages), 151 (a failed request, its VERSION and what holders are told), 46 (the candidates asked), 77 and 78 (mailbox counts, supplied
pages), 84, 85 and 124 (locks of locked replicas), 86 (the parties of a migration), 134 (the reason of a timeout), 135 (a move of a page that is
not here or must wait). -/
def Obligations.MeridianEvents : Prop :=
  ∀ (s : State) (gasid vpn rank tenant ver : Nat),
    let key := dirKey gasid vpn
    let v := vpn % 2 ^ 44
    let admits := ∃ sp, s.spaces.find gasid = some sp ∧ tenant ∈ sp.tenants
    (∀ t : State, Calm t → progress t = t ∧ afterCopy t = t) ∧
    (∀ set sup mode removed home, ∀ row ∈ ([
        (.directoryReadRequest ⟨gasid, vpn⟩ rank tenant sup, if sup then .supplied rank false else .read rank),
        (.directoryWriteRequest ⟨gasid, vpn⟩ rank tenant mode, if mode = 0 then .write rank else if mode = 1 then .supplied rank true else .store rank),
        (.directoryRelease ⟨gasid, vpn⟩ ⟨rank, tenant⟩ ⟨ver, removed⟩, (match removed with
          | some r => .remove r rank
          | none => .release rank ver)),
        (.replicateRequest ⟨gasid, vpn⟩ rank tenant set, .replicate rank set), (.unreplicateRequest ⟨gasid, vpn⟩ rank tenant, .unreplicate rank),
        (.migrationCutover ⟨gasid, vpn⟩ (.directory home rank tenant ver), .newHome rank home ver)] : List (Instr × DReq)),
      (¬admits ∨ s.dir.find key = none → exec row.1 s = .next (s.send (.declinedReply rank gasid vpn 4))) ∧
      (∀ d sp, admits → s.dir.find key = some d → s.spaces.find gasid = some sp →
        (d.knows row.2 = true → exec row.1 s = .next (s.send (.granted row.2.rank gasid v d.version 2 d.homeCode))) ∧
        (∀ x, d.busy = some x → d.knows row.2 = false → row.2 ∉ d.queue → x.1 ≠ row.2 → exec row.1 s =
          .next { s with dir := s.dir.put key { d with queue := d.queue ++ [row.2] } }) ∧
        (∀ x, d.busy = some x → d.knows row.2 = false → row.2.repeats = false → row.2 ∈ d.queue ∨ x.1 = row.2 → exec row.1 s = .next s) ∧
        (d.busy = none → d.queue = [] → d.knows row.2 = false →
          let p := plan sp gasid v { d with queue := [row.2] } row.2
          (p.wait = [] → p.owed = [] → ∃ t, exec row.1 s = .next t ∧ t.mem = s.mem ∧ t.outbox = s.outbox ++ p.msgs ++ p.done ∧
            t.dir.find key = some { p.next.after row.2 with busy := none, stage := 1, queue := [] }) ∧
          (p.wait ≠ [] → ∃ t, exec row.1 s = .next t ∧ t.mem = s.mem ∧
            t.outbox = s.outbox ++ p.msgs.map (Msg.onPort (attemptPort s key 0 1 false)) ∧ t.dir.find key =
              some { d with busy := some (row.2, p.wait), queue := [], tries := 1, since := s.now, port := attemptPort s key 0 1 false })))) ∧
    (∀ d sp reason, s.dir.find key = some d → s.spaces.find gasid = some sp →
      let told : DirRec → Nat → Msg := fun x h => .invalidate h gasid v x.version none (x.finalOf sp h) x.homeCode (if x.state = .excl then some x.owner else none)
      let i : Instr := .directoryAcknowledgement ⟨gasid, vpn⟩ rank ⟨ver, reason⟩
      (ver = d.version → rank ∈ d.owed → exec i s = .next { s with dir := s.dir.put key { d with owed := d.owed.filter (· != rank) } }) ∧
      ∀ q left, d.busy = some (q, left) → ¬(ver = d.version ∧ rank ∈ d.owed) →
        let p := plan sp gasid v { d with busy := none } q
        let rest := left.filter (· != rank)
        let d1 : DirRec := { p.next.after q with busy := none, stage := 1, queue := d.queue }
        (ver ≠ (d.version + 1) % 2 ^ 64 ∨ rank ∉ left → exec i s = .next s) ∧
        (ver = (d.version + 1) % 2 ^ 64 → rank ∈ left →
          (reason = 255 → exec i s = .next (serveDir key (d.queue.length + 2) { s with dir := s.dir.put key { d with
            busy := none, stage := 1, readers := without sp d.readers rank, queue := q :: d.queue } })) ∧
          (reason = 0 → rest ≠ [] → exec i s = .next { s with dir := s.dir.put key { d with busy := some (q, rest) } }) ∧
          (reason = 0 → rest = [] → d.stage = 1 → p.wait2 ≠ [] →
            let port := attemptPort s key 0 1 false
            exec i s = .next { s with
              dir := s.dir.put key { d with busy := some (q, p.wait2), stage := 2, tries := 1, since := s.now, port := port }
              outbox := s.outbox ++ p.msgs2.map (Msg.onPort port) }) ∧
          ((reason = 0 ∧ rest = [] ∧ (d.stage ≠ 1 ∨ p.wait2 = [])) ∨ (reason ≠ 0 ∧ reason ≠ 255 ∧ p.anyway = true) → d.queue = [] →
            (p.owed = [] → ∃ t, exec i s = .next t ∧ t.mem = s.mem ∧ t.outbox = s.outbox ++ p.done ∧ t.dir.find key = some d1) ∧
            (p.owed ≠ [] → ∃ t, exec i s = .next t ∧ t.mem = s.mem ∧
              let all := (d1.owed ++ p.owed).eraseDups
              let port := attemptPort s key d1.owedPort 1 false
              t.outbox = s.outbox ++ p.done ++ (all.map (told d1)).map (Msg.onPort port) ∧
              t.dir.find key = some { d1 with owed := all, owedTries := 1, owedSince := s.now, owedPort := port })) ∧
          (reason ≠ 0 → reason ≠ 255 → p.anyway = false → d.queue = [] → ∃ t d2 ms, exec i s = .next t ∧ t.mem = s.mem ∧
            t.dir.find key = some d2 ∧ d2.version = (d.version + 2) % 2 ^ 64 ∧ d2.busy = none ∧ d2.queue = [] ∧
            (q.mailbox = true ∨ d.state ≠ .shared → d2.state = d.state ∧ d2.owner = d.owner ∧ d2.readers = d.readers ∧ d2.hc = d.hc) ∧
            t.outbox = s.outbox ++ .declinedReply q.rank gasid v reason :: ms ∧ (∀ m ∈ ms, ∃ port, ∃ h ∈ d2.owed, m = .onPort port (told d2 h)) ∧
            (∀ h ∈ d2.owed, ∃ port, Msg.onPort port (told d2 h) ∈ ms) ∧ ∀ h ∈ d2.holders sp 0xFFFF, h ∈ d2.owed))) ∧
    (∀ reader, (¬admits ∨ s.dir.find key = none → exec (.readerAddition ⟨gasid, vpn⟩ reader rank tenant ver) s =
        .next (s.send (.declinedReply rank gasid vpn 4))) ∧
      ∀ d sp, admits → s.dir.find key = some d → s.spaces.find gasid = some sp →
        let p := plan sp gasid v d (.read reader)
        let fits := d.busy = none ∧ d.queue = [] ∧ d.version = ver ∧ d.state ≠ .locked ∧ d.source sp = some rank
        (fits → exec (.readerAddition ⟨gasid, vpn⟩ reader rank tenant ver) s =
          .next (({ s with dir := s.dir.put key (p.next.after (.read reader)) } : State).send (.added rank gasid vpn p.next.version true))) ∧
        (¬fits →
          let known := d.version = ver + 1 ∧ d.state = .shared ∧ d.source sp = some rank ∧ reader ∈ ranksIn sp d.readers
          (known → exec (.readerAddition ⟨gasid, vpn⟩ reader rank tenant ver) s = .next (s.send (.added rank gasid vpn d.version true))) ∧
          (¬known → exec (.readerAddition ⟨gasid, vpn⟩ reader rank tenant ver) s = .next (s.send (.added rank gasid vpn d.version false))))) ∧
    (∀ m keys, ∃ t, exec (.filterAddition gasid m keys true) s = .next t ∧ t.mem = s.mem ∧
      (∀ b, b ∈ t.filters.get [] (64 * gasid + m % 64) ↔ ∃ x ∈ keys, b = x % 2 ^ 20) ∧
      ∃ t1, exec (.filterAddition gasid m keys false) s = .next t1 ∧
        ∀ b, b ∈ t1.filters.get [] (64 * gasid + m % 64) ↔ b ∈ s.filters.get [] (64 * gasid + m % 64) ∨ ∃ x ∈ keys, b = x % 2 ^ 20) ∧
    (∀ sp m, s.spaces.find gasid = some sp → ownMember s sp = some m →
      (s.now < s.filterAt.get 0 gasid + 90000000 → exec (.filterRebuild gasid) s = .next s) ∧
      (s.filterAt.get 0 gasid + 90000000 ≤ s.now → ∃ bs, exec (.filterRebuild gasid) s =
          .next (({ s with filterAt := s.filterAt.set 0 gasid s.now } : State).send (.filter gasid m bs true)) ∧
        ∀ b, b ∈ bs ↔ (∃ f ∈ s.frames, f.gasid = gasid ∧ (f.excl = true ∨ f.owner = true) ∧ b ∈ filterBits sp gasid f.vpn) ∨
          ∃ k ∈ s.ownHome, keyGasid k = gasid ∧ b ∈ filterBits sp gasid (keyVpn k))) ∧
    (let V := ((frameOf s key).map (·.ver)).getD (s.vers.get 1 key)
      let port := attemptPort s key 0 1 false
      let kept : Bool → State := fun b => { s with nextId := s.nextId + 1, probes := s.probes ++ [⟨s.nextId, b, rank, gasid, vpn, s.now + 18000, V, 1, s.now, port⟩] }
      (supplies s key = false ∨ s.tenantOf (holderPart s key) ≠ tenant → exec (.probe gasid vpn rank tenant) s = .next (kept false)) ∧
      (supplies s key = true → s.tenantOf (holderPart s key) = tenant → exec (.probe gasid vpn rank tenant) s =
        .next (askOn port key 5 (holderPart s key) rank V (kept true)))) ∧
    (∀ (p : ProbeOut), s.probes.find? (fun x => x.id == p.id) = some p → p.wait = false →
      (s.now < p.due → exec (.notHereReply p.id) s = .next s) ∧
      (p.due ≤ s.now → exec (.notHereReply p.id) s =
        .next (({ s with probes := s.probes.filter (fun q => q.id != p.id) } : State).send (.notHere p.rank p.gasid p.vpn 0)))) ∧
    (∀ data, (s.homes.find key = none → exec (.writeBackArrival gasid vpn rank ver data) s = .next (s.send (.ack rank gasid vpn ver 0))) ∧
      ∀ pa, s.homes.find key = some pa →
        (ver < s.vers.get 0 key → exec (.writeBackArrival gasid vpn rank ver data) s = .next (s.send (.ack rank gasid vpn ver 0))) ∧
        (s.vers.get 0 key ≤ ver → exec (.writeBackArrival gasid vpn rank ver data) s =
          .next ((setVer key ver (enterState key 1 pa (setPage pa data { s with homes := s.homes.del key }))).send (.ack rank gasid vpn ver 0)))) ∧
    (∀ c f, s.chains.find key = some c → frameOf s key = some f → (∃ b, c.phase = .leaving true b) →
      exec (.writeBackAck gasid vpn) s = .next (leaveDone key (ackDirectory key c.ver (dropPage key f (setVer key c.ver s))))) ∧
    (∀ pa data, Memory.wf s.mem = true → let t := setPage pa data s
      (∀ i, i < 65536 → cellGet t.mem (pa + i) = data.getD i 0) ∧ ∀ y, y < pa ∨ pa + 65536 ≤ y → cellGet t.mem y = cellGet s.mem y) ∧
    (∀ ship final home owner, let m : Move := ⟨gasid, vpn, ver, ship, final, home, owner⟩
      let i : Instr := .invalidation ⟨gasid, vpn⟩ ver ship final home owner
      m ∉ s.moves →
      (moveWaits s m = true → exec i s = .next { s with moves := s.moves ++ [m] }) ∧
      (moveWaits s m = false → ver < s.vers.get 0 key → exec i s = .next (settleAll s)) ∧
      (moveWaits s m = false → ver = s.vers.get 0 key → ver ≠ 0 → exec i s = .next (settleAll (ackDirectory key ver s))) ∧
      (moveWaits s m = false → s.vers.get 0 key < ver →
        (pageOf s key = none →
          (ship ≠ none ∨ final % 16 = 6 → exec i s = .next (settleAll s)) ∧
          (ship = none → final % 16 = 7 → exec i s = .next (settleAll (ackDirectory key ver s))) ∧
          (ship = none → final = 19 → exec i s = .next (settleAll (ackReason key ver 255 s))) ∧
          (ship = none → final % 16 ≠ 6 → final % 16 ≠ 7 → final ≠ 19 →
            exec i s = .next (settleAll (ackDirectory key ver (setVer key ver s))))) ∧
        ∀ pa, pageOf s key = some pa →
          (badHome s key pa = true → ship ≠ none → exec i s = .next (settleAll (ackReason key ver 5 s))) ∧
          (∀ r, badHome s key pa = false → ship = some r → final % 16 = 6 →
            let s1 := toTransit key pa (updFrame key (fun f => { f with home := home }) (abandonMigration key s))
            exec i s = .next (settleAll (s1.send (.shipment r gasid vpn ver (if final / 16 ≠ 0 then 4 + 16 * (final / 16) else 1) false home
              (cellsGet s1.mem pa 65536))))) ∧
          (badHome s key pa = false → ship = none → final % 16 = 7 → exec i s = .next (settleAll (ackDirectory key ver
            (toTransit key pa (updFrame key (fun f => { f with home := home }) (abandonMigration key s)))))) ∧
          (badHome s key pa = false → ship = none → final % 16 = 2 →
            let s1 := toTransit key pa (updFrame key (fun f => { f with home := home }) (abandonMigration key s))
            exec i s = .next (settleAll (ackDirectory key ver (setVer key ver (holderFinal key pa ver final home owner s1))))))) ∧
    (∀ reply, (ver ≠ 0 → ver < s.vers.get 0 key → exec (.meridianReply gasid vpn ver reply) s = .next s) ∧
      (ver = 0 ∨ s.vers.get 0 key ≤ ver → exec (.meridianReply gasid vpn ver reply) s = .next (progress (merReply key ver reply s)))) ∧
    (∀ c, s.chains.find key = some c →
      (c.phase = .asked 0 → exec (.meridianReply gasid vpn 0 .notHere) s =
        .next (progress (ask key 1 { s with chains := s.chains.put key { c with attempts := 1 } }))) ∧
      (∀ n reason, c.phase = .asked n → exec (.meridianReply gasid vpn 0 (.declined reason)) s = .next (progress (decline key reason s))) ∧
      (∀ st, c.phase = .replay st → c.recs = [] → exec (.recordReplay gasid vpn) s = .next (progress (closePage key st s))) ∧
      (∀ st r rest, c.phase = .replay st → c.recs = r :: rest →
        (asidGen s r.part r.asid ≠ r.gen → exec (.recordReplay gasid vpn) s = .next (progress (setRecs key st rest (dropAccess r false s)))) ∧
        (asidGen s r.part r.asid = r.gen → r.role = .access → r.kind ≠ 7 →
          (st = 3 → r.flags % 2 = 1 → exec (.recordReplay gasid vpn) s =
            .next (progress (ask key 2 { s with chains := s.chains.put key { c with write := true, attempts := 1 } }))) ∧
          (st ≠ 3 ∨ r.flags % 2 = 0 →
            let s1 := performRecord r (mapLeaves key (fun pte => setBits pte 0 4 st) { s with chains := s.chains.del key })
            let s2 := shootKey key (mapLeaves key (fun pte => setBits pte 0 4 6) s1)
            let s3 : State := { s2 with chains := s2.chains.put key c }
            (recordDone s s3 r = false → exec (.recordReplay gasid vpn) s = .next (progress s3)) ∧
            (recordDone s s3 r = true → exec (.recordReplay gasid vpn) s =
              .next (progress (setRecs key st rest (if r.kind = 2 then finishIfDone r.gid r.op s3 else s3))))))) ∧
      (∀ st hc home data n, c.phase = .asked n → n ≠ 3 → s.vers.get 0 key ≤ ver → frameOf s key = none → st % 16 ≠ 4 →
        (∀ pa, s.homes.find key = some pa → exec (.pageShipmentArrival gasid vpn ver st hc home data) s =
          .next (installPage key pa st ver home hc false (setPage pa data s))) ∧
        (s.homes.find key = none → c.frame ≠ 0 → exec (.pageShipmentArrival gasid vpn ver st hc home data) s =
          .next (installPage key c.frame st ver home hc false (setPage c.frame data s)))) ∧
      (∀ n, c.phase = .asked n → n < 3 → c.since + 900000 ≤ s.now → c.attempts < 3 → s.dir.find key = none → s.mail = [] → s.locks = [] →
        s.migr.find key = none → s.probes = [] → s.tells = [] → exec (.meridianAttemptTimeout gasid vpn) s =
          .next (progress (ask key n { s with chains := s.chains.put key { c with attempts := c.attempts + 1 } })))) ∧
    (∀ st hc home data, ver < s.vers.get 0 key → exec (.pageShipmentArrival gasid vpn ver st hc home data) s = .next s) ∧
    (exec (.meridianAttemptTimeout gasid vpn) s =
      .next (progress (tellTimeout key (probeTimeout key (owedTimeout key (cutTimeout key (lockTimeout key (mailTimeout key (dirTimeout key
        (chainTimeout key s)))))))))) ∧
    (∀ c, (retryFrames s).chains.find key = some c → c.lacksFrame = true → evicting (65536 * c.part + c.asid) key (retryFrames s) = false →
      ((retryFrames s).now < c.since + 9000000 → exec (.frameWaitTimeout gasid vpn) s = .next (retryFrames s)) ∧
      (c.since + 9000000 ≤ (retryFrames s).now → exec (.frameWaitTimeout gasid vpn) s = .next (decline key 6 (retryFrames s)))) ∧
    (∀ k c r, s.chains = [(k, c)] → c.phase = .declined → c.inQueue = false → c.recs.find? (fun r => r.role != .pagerel) = some r →
      (s.declineQ.length < 256 → exec .declineQueueRoom s = .next (({ s with
        declineQ := s.declineQ ++ [r.declined c.reason c.attempts c.nextHandle], chains := [(k, { c with inQueue := true })] } : State).send .declineSignal)) ∧
      (256 ≤ s.declineQ.length → exec .declineQueueRoom s = .next s)) ∧
    (∀ h, declinedKey s h = none → ∀ fr fl, ∀ i ∈ [Instr.kill h, .refuse h, .retry h, .supply h fr fl], exec i s = .next s) ∧
    (∀ h k c, declinedKey s h = some (k, c) → c.phase = .declined →
      (∀ r, c.recs.find? (fun r => r.role != .pagerel) = some r →
        exec (.kill h) s = .next (progress (afterKill k (killGang (recLaunch s r) c.reason (pageAddr k)
          { s with chains := s.chains.put k { c with inQueue := false } })))) ∧
      (∀ r, c.recs = [r] → r.kind = 3 → exec (.refuse h) s =
        .next (progress (afterKill k (endCopy r.gid r.op 4 c.reason { s with chains := s.chains.put k { c with recs := [], inQueue := false } })))) ∧
      (let d : Chain := { c with attempts := 1, since := s.now, reason := 0, inQueue := false, failed := none };
        (∀ n, c.failed = some (.asked n) → exec (.retry h) s = .next (ask k n { s with chains := s.chains.put k { d with phase := .asked n } })) ∧
        (∀ fr fl b, c.failed = some (.supplied fr fl b) → exec (.retry h) s =
          .next (trySupply k { s with chains := s.chains.put k { d with phase := .supplied fr fl false, frame := 0 } })) ∧
        (c.failed = none ∨ c.failed = some .noFrame → exec (.retry h) s =
          .next (beginResolution k { s with chains := s.chains.put k { d with phase := .asked 2 } }))) ∧
      (∀ fr fl,
        let c1 : Chain := { c with phase := .supplied fr fl false, frame := 0, since := s.now, reason := 0, inQueue := false }
        let s1 : State := { s with chains := s.chains.put k c1 }
        let a := 65536 * c.part + c.asid
        let p := attemptPort s k 0 1 false
        framesUsed s1 a < quotaOf s1 a → exec (.supply h fr fl) s = .next (askOn p k (if fl.testBit 0 then 6 else 7) c.part 0 0
          { s1 with chains := s1.chains.put k { c1 with phase := .supplied fr fl true, frame := fr, attempts := 1, port := p } }))) ∧
    (∀ h k c f sent, declinedKey s h = some (k, c) → c.phase = .leaving sent true → frameOf s k = some f → 
      let d : Chain := { c with attempts := 1, since := s.now, reason := 0, inQueue := false, failed := none, phase := .leaving sent false }
      exec (.retry h) s = .next (leaveAttempt k f { s with chains := s.chains.put k { d with recs := c.recs.filter (fun r => r.role != .writeBack) } })) ∧
    (∀ set, let p := attemptPort s key 0 1 false
      let t := fun x => ({ s with mail := s.mail ++ [{ key := key, set := x, attempts := 1, since := s.now, port := p }] } : State)
      (s.spaces.find gasid = none → exec (.replicate gasid vpn set) s = .next (mailDone key 4 (t (some set))) ∧
        exec (.unreplicate gasid vpn) s = .next (mailDone key 4 (t none))) ∧
      (s.spaces.find gasid ≠ none → exec (.replicate gasid vpn set) s = .next (askOn p key 3 (holderPart s key) set 0 (t (some set))) ∧
        exec (.unreplicate gasid vpn) s = .next (askOn p key 4 (holderPart s key) 0 0 (t none)))) ∧
    (∀ pa home n, pageOf s key = some pa → frameOf s key = none → s.migr.find key = none → stateOf s key = 1 ∨ stateOf s key = 3 → n ≤ 512 →
      (∀ i, i < n → isLocked s key (128 * i) true = false ∧ heldByCopy s 0 0 0 false (pa + 128 * i) = false) →
      ∃ t, exec (.pageMigration ⟨gasid, vpn⟩ home n none) s = .next t ∧ t.mem = s.mem ∧
        t.migr = s.migr.put key { home := home, copied := n, marked := [] } ∧
        t.outbox = s.outbox ++ (List.range n).map (fun i => .migrate home gasid v i (cellsGet s.mem (pa + 128 * i) 128))) ∧
    (∀ home n line data pa, pageOf s key = none → s.incoming.find key = some pa → s.poison = [] →
      exec (.pageMigration ⟨gasid, vpn⟩ home n (some (line, data))) s =
        .next { s with incoming := s.incoming.put key pa, mem := cellsSet s.mem (pa + 128 * (line % 512)) (data.take 128) }) ∧
    (∀ m pa, s.migr.find key = some m → pageOf s key = some pa →
      (m.copied < 512 → exec (.migrationCutover ⟨gasid, vpn⟩ .oldHome) s = .next s) ∧
      (m.cut = false → 512 ≤ m.copied → pageBusy s key pa = false → s.chains.find key = none → m.marked = [] →
        exec (.migrationCutover ⟨gasid, vpn⟩ .oldHome) s =
          .next (cutAttempt key (toTransit key pa { s with migr := s.migr.put key { m with st := stateOf s key, marked := [] } })))) ∧
    (∀ pa st, s.incoming.find key = some pa →
      (st = 2 → exec (.migrationCutover ⟨gasid, vpn⟩ (.newHome ver st)) s = .next (progress (retryFrames { s with
        incoming := s.incoming.del key, mem := s.mem.filter (fun c => decide (c.1 < pa) || decide (pa + 65536 ≤ c.1)) }))) ∧
      (st ≠ 2 → ver < s.vers.get 0 key → exec (.migrationCutover ⟨gasid, vpn⟩ (.newHome ver st)) s = .next (progress s)) ∧
      (st ≠ 2 → frameOf s key = none → s.vers.get 0 key ≤ ver → exec (.migrationCutover ⟨gasid, vpn⟩ (.newHome ver st)) s =
        .next (progress (ackDirectory key ver (retryFrames (setVer key ver (enterState key st pa
          { s with incoming := s.incoming.del key, homes := s.homes.del key }))))))) ∧
    (∀ gid g co die, s.groups = [(gid, g)] → s.cohorts.find g.cid = some co → dieOf co.core = die →
      exec (.faultQueueRoom die) s = .next (retryGroup gid s)) ∧
    (∀ id l, ownLock s id = some l →
      let left := l.left.filter (· != rank)
      let s1 : State := { s with locks := s.locks.map (fun x => if x = l then { l with left := left } else x) }
      (left ≠ [] → exec (.replicaConfirmation id rank) s = .next s1) ∧
      (left = [] → l.step = 2 → exec (.replicaConfirmation id rank) s = .next (lockDone { l with left := left } s1)) ∧
      (s.now < l.since + 18000 → exec (.writerLockTimeout id) s = .next s) ∧
      (l.since + 18000 ≤ s.now →
        let out := if l.step = 1 then lockOthers s l.key else l.left
        exec (.writerLockTimeout id) s = .next (lockDone l (out.foldl (fun t r => tellRelease l.key l.part (r + 1) 0 t)
          { s with lockSets := s.lockSets.upd l.key (fun rs => rs.filter (fun r => !out.contains r)) })))) ∧
    (∀ off writer id, let line := fun data => Instr.lockUpdateArrival gasid vpn off writer id data
      let mine := fun (l : Lock) => !l.own && l.id == id && l.writer == writer && l.key == key
      (∀ data, lockedHere s key = none → exec (line data) s = .next s) ∧
      (∀ pa, lockedHere s key = some pa →
        (s.locks.any mine = true → exec (line none) s = .next (s.send (.lockConfirm writer id))) ∧
        (s.locks.any mine = false → isLocked s key off false = true → exec (line none) s = .next s) ∧
        (s.locks.any mine = false → isLocked s key off false = false → ∃ t, exec (line none) s = .next t ∧ t.mem = s.mem ∧
          t.outbox = s.outbox ++ [.lockConfirm writer id] ∧ isLocked t key off false = true) ∧
        (∀ bs, s.locks.find? mine = none → exec (line (some bs)) s = .next (s.send (.lockConfirm writer id))) ∧
        (∀ bs l, s.locks.find? mine = some l →
          let t := homeTake ((pa + off) / 128) 1 { s with locks := s.locks.erase l }
          exec (line (some bs)) s = .next (progress ((clearPoison ((Place.phys (pa + off) 4).bytes bs.length)
            { t with mem := cellsSet t.mem (pa + off) bs }).send (.lockConfirm writer id)))))) ∧
    (∀ off l pa, s.locks.find? (fun l => !l.own && l.key == key && l.off / 128 == off / 128) = some l → pageOf s key = some pa →
      (s.now < l.since + 18000 → exec (.replicaLockTimeout gasid vpn off) s = .next s) ∧
      (∀ f, l.since + 18000 ≤ s.now → frameOf s key = some f → exec (.replicaLockTimeout gasid vpn off) s =
        .next (progress (dropPage key f { s with locks := s.locks.filter (fun x => x.own || x.key != key) }))))

/-- R363 to R381: events of the links and the fabric engine. A corrupted flit, or the first out of sequence, is rejected with a retry request;
an acknowledgement empties the retry buffer to its number, a credit records what is freed, and either lets waiting flits go, which keep to 256
not freed, to 512 in the retry buffer and to the packet begun; timers send what is owed; a lost lane takes the link down; packets are given to
the requester or target they name; a timeout before its time, a refusal before its 2 µs and a room that frees nothing change nothing. What a
flit behind a rejected one does, and which port and packet a link takes next, are the model's choices (log entries 120 and 40). -/
def Obligations.LinkAndFabricEvents : Prop :=
  ∀ (s : State) (port n : Nat),
    let l := s.link port
    let on := fun f : Link → Link => s.updLink port f
    (∀ seq c good p, ∀ i ∈ [Instr.head port seq c good p, .body port seq c good p],
      (l.up = false → exec i s = .next (takePackets port s)) ∧
      (l.up = true → good = false ∨ (seq ≠ l.rxSeq ∧ l.rejecting = false) →
        exec i s = .next (takePackets port ((on (fun l => { l with rejecting := true })).send (.flit port 4 l.rxSeq 0 0)))) ∧
      (l.up = true → good = true → seq ≠ l.rxSeq → l.rejecting = true → exec i s = .next (takePackets port s)) ∧
      (l.up = true → good = true → seq = l.rxSeq →
        exec i s = .next (takePackets port (acceptFlit port (match i with
          | .head _ _ _ _ _ => true
          | _ => false) c p s)))) ∧
    (let acked := on (fun l => { l with
        retryBuf := ackTo n l.retryBuf, retries := if (ackTo n l.retryBuf).any (fun e => e.1 == l.retryNum) then l.retries else 0 });
      l.up = true → exec (.ack port n) s = .next (pump port 512 acked) ∧ (l.waiting = [] → exec (.ack port n) s = .next acked)) ∧
    (∀ m, l.up = true → exec (.credit port n m) s = .next (pump port 512 (on (fun l => { l with txFreed := [n % 2 ^ 32, m % 2 ^ 32] })))) ∧
    (∀ m, l.up = true → l.waiting = [] → exec (.credit port n m) s = .next (on (fun l => { l with txFreed := [n % 2 ^ 32, m % 2 ^ 32] }))) ∧
    (∀ t, l.nextTx = some t →
      (l.txSent.getD t.vc 0 + 2 ^ 32 - l.txFreed.getD t.vc 0) % 2 ^ 32 < 256 ∧ l.retryBuf.length < 512 ∧
      ((∃ x ∈ l.waiting, x.fresh = false) → t.fresh = false) ∧
      ((s.updLink port (fun _ => (l.sendFlit t).1)).link port).retryBuf.length = l.retryBuf.length + 1) ∧
    (∀ i ∈ [Instr.train port, .idle port], exec i s = .next s) ∧
    (l.up = true → l.retryBuf.dropWhile (fun e => e.1 != n) ≠ [] → l.retryNum ≠ n → ∃ s1, exec (.retryFlit port n) s = .next s1 ∧
      s1.outbox = s.outbox ++ [.resend port (l.retryBuf.dropWhile (fun e => e.1 != n))] ∧ (s1.link port).retries = 1 ∧
      (s1.link port).retryBuf = l.retryBuf) ∧
    (l.up = true → l.retryBuf.dropWhile (fun e => e.1 != n) ≠ [] → l.retryNum = n → l.retries = 7 → ∃ s1, exec (.retryFlit port n) s = .next s1 ∧
      (s1.link port).up = false) ∧
    (l.up = true → ∃ s1, exec (.laneLockLoss port) s = .next s1 ∧ (s1.link port).up = false ∧ (s1.link port).packet = none) ∧
    (l.up = false → exec (.laneLockLoss port) s = .next s ∧
      exec (.linkTrained port) s = .next (sendWaiting (on (fun l => { up := true, rxSeq := 0, txSeq := 0, retryBuf := [], got := l.got })))) ∧
    (l.up = true → l.unacked ≠ 0 → exec (.ackTimer port) s =
      .next ((on (fun l => { l with unacked := 0 })).send (.flit port 3 ((l.rxSeq + 1023) % 1024) 0 0))) ∧
    (l.up = true → l.owed ≠ 0 → exec (.creditTimer port) s =
      .next ((on (fun l => { l with owed := 0 })).send (.flit port 5 0 (l.rxFreed.getD 0 0) (l.rxFreed.getD 1 0)))) ∧
    (l.up = true → exec (.unknownKindFlit port) s =
      .next ((on (fun l => { l with rejecting := true })).send (.flit port 4 l.rxSeq 0 0))) ∧
    (∀ p : Pkt, (∀ row ∈ ([(.loadRequest p, 1), (.storeRequest p, 2), (.atomicRequest p, 3), (.flagStore p, 4)] : List (Instr × Nat)),
        exec row.1 s = .next (arrive row.2 p s)) ∧
      exec (.floorNotice p) s = .next (arriveNotice p s) ∧
      ∀ row ∈ ([(.loadReply p, 0x81), (.acknowledgement p, 0x82), (.atomicReply p, 0x83), (.refusal p, 0x84)] : List (Instr × Nat)),
        exec row.1 s = .next (settleAll (arriveReply row.2 p s))) ∧
    (∀ src num, s.heldFlags = [] → exec (.flagStoreRelease src num) s = .next s) ∧
    (∀ (p : Pkt) part, s.partOfRank p.dst = some part → s.heldFlags = [p] → flagReady s part p = true →
      exec (.flagStoreRelease p.src p.num) s = .next (serveReq part 4 p { s with heldFlags := [] })) ∧
    (∀ id (p : Pkt) oc due, s.refusals.find id = some (p, oc, due) →
      (s.now < due → exec (.refusalSend id) s = .next s) ∧
      (∀ part, due ≤ s.now → s.partOfRank p.dst = some part →
        exec (.refusalSend id) s = .next (refuse part (oc / 16) (oc % 16) p { s with refusals := s.refusals.del id }))) ∧
    (∀ rank num id r, reqOf s (rank / 4096) (rank % 4096) num = some (id, r) →
      (s.now < r.since + 72000 → exec (.e2eAttemptTimeout rank num) s = .next s) ∧
      (r.since + 72000 ≤ s.now → exec (.e2eAttemptTimeout rank num) s = .next (settleAll (attemptTimeout id r s)))) ∧
    (∀ rank, exec (.e2eWindowRoom rank) s = .next (settleAll (transmitLoop (s.reqs.length + 1) s))) ∧
    (∀ plane rank, ∃ s1 s2, exec (.reachabilityReport plane rank true) s = .next s1 ∧ (plane, rank) ∈ s1.reach ∧
      exec (.reachabilityReport plane rank false) s = .next s2 ∧ (plane, rank) ∉ s2.reach ∧ s2.mem = s.mem)

/-- R97, R113, R114, R118, R389 to R400, R402 to R417: events of the front end and of the management. A doorbell maps its queue; the head packet
is refused, left waiting or admitted at places that fit; an energy tick meters, settles debits in order and refills to the ceiling; gangs are
reserved, granted, committed, rolled back and started by their timers; teams leave at run boundaries and return where they fit; a register
ignores what is written to its reserved bits; power loss, reset and power-up leave what their rules say. The model's choices, not the spec's:
log entries 96 (`outranked`, `headHolds`), 98 (gangs, the free status of a lost contact), 102 (leaving and RESTORE), 104 (NPART in use), 106
(Shutdown), 107 (which team moves and where), 109 (the flash at power loss), 110 (BAR2 on a page that is away), 111 (the dump), 115 (an event
whose condition does not hold changes nothing), 119 (placements as parameters), 152 (which queue is unmapped), 153 (the shares of the metered
energy). -/
def Obligations.FrontEndAndManagementEvents : Prop :=
  ∀ (s : State) (part q gang : Nat),
    (s.serving = false → exec (.queueDoorbell part q) s = .next s ∧ ∀ b p, exec (.packetAdmission part q b p) s = .next s) ∧
    (∀ x, s.serving = true → queueDesc s part q = some x → ∃ s1, exec (.queueDoorbell part q) s = .next s1 ∧ s1.mem = s.mem ∧
      (s1.queue part q).mapped = true ∧ (s1.queue part q).lastPending = s.now) ∧
    (∀ b pl, s.serving = true → s.npartAsked = none → exec (.packetAdmission part q b pl) s = .next (admitHead part q b pl s)) ∧
    (∀ b pl d h, s.serving = true → s.npartAsked = none → queueDesc s part q = some d → (s.queue part q).head = some h → gangOfQueue s part q = none →
      let l : Launch := { pktLaunch h.bytes h.addr part d.asid with queue := some q, index := h.index }
      let bad := pktLegal h.bytes l = false ∨ (l.priv = true ∧ d.kq = false) ∨ everFits s l = false ∨ donePlace s l = none
      let deps := producers s part h.id h.bytes
      (groupTable s l = none → exec (.packetAdmission part q b pl) s = .next (refuseHead part q h l 5 s)) ∧
      (∀ ranks, groupTable s l = some ranks →
        (bad → exec (.packetAdmission part q b pl) s = .next (refuseHead part q h l 5 s)) ∧
        (¬bad → deps.2 = true → exec (.packetAdmission part q b pl) s = .next (refuseHead part q h l 4 s)) ∧
        (∀ s1, ¬bad → deps.2 = false → outranked s part l.prio q = false → ranks.length ≤ 1 → feasible s l = true → energyFits s l = true →
          placeFits s l pl = true → startLaunch h.id { l with deps := deps.1 } pl s = some s1 →
          exec (.packetAdmission part q b pl) s = .next (updEnergy part (fun a => { a with rsvd := a.rsvd + l.energy }) (takeHead part q s1))))) ∧
    (∀ h t, (s.queue part q).head = some h → (s.queue part q).waiting = some t →
      (t + 90000000 ≤ s.now → ∃ s1, exec (.admissionWaitTimeout part q) s = .next s1 ∧ (s1.queue part q).holding = true ∧ s1.mem = s.mem) ∧
      (s.now < t + 90000000 → exec (.admissionWaitTimeout part q) s = .next s)) ∧
    (∀ mj, let a := s.account part
      let total := (s.launches.filter (fun x => x.2.part == part)).foldl (fun n x => n + x.2.occ) 0
      (s.npart ≤ part ∨ s.now < a.tickAt + 9000000 → exec (.energyTick ⟨part, mj⟩) s = .next s) ∧
      (part < s.npart → a.tickAt + 9000000 ≤ s.now → ∃ s1, exec (.energyTick ⟨part, mj⟩) s = .next s1 ∧ s1.mem = s.mem ∧
        s1.account part = { bal := min (a.debits.foldl (fun (b : Int) d => b - (d.1 : Int)) a.bal + (capw s part : Int)) (energyCeil s part : Int),
                            rsvd := a.debits.foldl (fun n d => n - d.2) a.rsvd, debits := [], tickAt := s.now } ∧
        ∀ lid l, s.launches.find lid = some l → s1.launches.find lid =
          some (if l.part = part ∧ total ≠ 0 then { l with occ := 0, met := l.met + mj * 2 ^ 32 * l.occ / total } else l))) ∧
    (∀ asid addr pkt pl, s.rankOf part = none → exec (.reserve gang part asid addr pkt pl) s = .next s) ∧
    (∀ asid addr pkt pl, part < s.npart → (s.rankOf part).isSome = true → s.gangs.find (16 * gang + part) = none →
      let l : Launch := { pktLaunch pkt addr part asid with gang := some gang }
      (gangAnswer s l none pl = some false → exec (.reserve gang part asid addr pkt pl) s = .next (s.send (.grant (gang / 2 ^ 48) gang false))) ∧
      (gangAnswer s l none pl = some true → ∃ s1, exec (.reserve gang part asid addr pkt pl) s = .next s1 ∧
        (s1.gangs.find (16 * gang + part)).any (fun g => g.held) = true ∧ .grant (gang / 2 ^ 48) gang true ∈ s1.outbox)) ∧
    (gangKeys s gang = [] → (∀ r ok, exec (.grant gang r ok) s = .next s) ∧
      ∀ i ∈ [Instr.commit gang q, .rollback gang, .gangReserveTimeout gang, .gangRetryTimer gang [], .gangStart gang, .gangContactLost ⟨gang, .lost⟩,
        .gangContactLost ⟨gang, .failed part []⟩], exec i s = .next s) ∧
    (∀ key g, gangKeys s gang = [key] → s.gangs.find key = some g →
      (g.coord = true → g.held = true → g.start = none →
        (∀ r, r ∈ g.ranks → exec (.grant gang r false) s = .next (rollBack key s) ∧
          (r ∉ g.granted → g.granted.length + 1 < g.ranks.length → exec (.grant gang r true) s =
            .next (updGang key (fun g => { g with granted := r :: g.granted }) s)) ∧
          (r ∉ g.granted → g.granted.length + 1 = g.ranks.length → s.now ≤ g.sentAt + 1800000 → ∃ s1, exec (.grant gang r true) s = .next s1 ∧
            s1.gangs.find key = some { g with granted := r :: g.granted, start := some (s.now + 450000) })) ∧
        (g.sentAt + 1800000 ≤ s.now → exec (.gangReserveTimeout gang) s = .next (rollBack key s)) ∧
        (s.now < g.sentAt + 1800000 → exec (.gangReserveTimeout gang) s = .next s)) ∧
      (g.coord = false → g.held = true → g.start = none → ∃ s1, exec (.commit gang q) s = .next s1 ∧
        s1.gangs.find key = some { g with start := some q }) ∧
      (g.coord = false → g.start = none → ∃ s1, exec (.rollback gang) s = .next s1 ∧ s1.gangs.find key = none) ∧
      (∀ pl, g.coord = true → g.refused = true → g.start = none → g.sentAt + 9000 * (20 + gang % 64) ≤ s.now → s.now < g.firstAt + 90000000 →
        exec (.gangRetryTimer gang pl) s = .next (tryGang key pl s)) ∧
      (∀ pl h, g.coord = true → g.refused = true → g.start = none → g.sentAt + 9000 * (20 + gang % 64) ≤ s.now → g.firstAt + 90000000 ≤ s.now →
        (s.queue g.part g.queue).head = some h →
        exec (.gangRetryTimer gang pl) s = .next (refuseHead g.part g.queue h g.launch 6 { s with gangs := s.gangs.del key })) ∧
      (∀ t, g.start = some t → g.lid = none → s.now < t → exec (.gangStart gang) s = .next s) ∧
      (∀ t s2, g.coord = false → g.start = some t → g.lid = none → t ≤ s.now → s.npartAsked = none → s.serving = true → gangCancelled s gang = false →
        let la : Launch := { g.launch with queue := none, index := 0, deps := (producers s g.part s.nextId g.pkt).1 }
        startLaunch s.nextId la g.place (updGang key (fun g => { g with lid := some s.nextId, held := false, saves := [] }) { s with nextId := s.nextId + 1 }) =
          some s2 → exec (.gangStart gang) s = .next s2) ∧
      (∀ t, g.start = some t → g.lid = none → t ≤ s.now → s.npartAsked = none → s.serving = true → gangCancelled s gang = true →
        exec (.gangStart gang) s = .next (endGangHere gang 4 [] (tellGang gang 4 s))) ∧
      (∀ t lid, g.start = some t → g.lid = some lid →
        exec (.gangContactLost ⟨gang, .lost⟩) s = .next (endLaunch lid (2 + Config.freeNat s.tick gang % 6) [] s) ∧
        ∀ st rec, exec (.gangContactLost ⟨gang, .failed st rec⟩) s = .next (endLaunch lid st rec s))) ∧
    (∀ lid la, s.launches.find lid = some la → onOneChip s la = true → higherWaits s la.part la.prio = true → residentFor s (gangCohorts s lid) = true →
      ∃ t, exec (.preemption lid none) s = .next t ∧ ∀ e ∈ gangCohorts s lid, ∃ co, t.cohorts.find e.1 = some co ∧
        (co.resident = true → co.leaving = true) ∧ (s.runs = [] → co.resident = false)) ∧
    (∀ lid team k la, s.launches.find lid = some la →
      let c := teamCluster (cohortsOf s lid (some team))
      let heat := (s.therms c).temp
      (migrant s c).map (·.2) = some (lid, team) → (coolers s la c heat).find? (isCoolest s la c heat) = some k →
        exec (.preemption lid (some team)) s = .next (startMigration c k s)) ∧
    (∀ lid, ∃ t, exec (.gangSuspend lid) s = .next t ∧ ∀ e ∈ gangCohorts s lid, ∃ co, t.cohorts.find e.1 = some co ∧
      (co.resident = true → co.leaving = true) ∧ (s.runs = [] → co.resident = false)) ∧
    (∀ lid team pl la, s.serving = true → s.npartAsked = none → s.launches.find lid = some la →
      let cs := cohortsOf s lid (some team)
      (restoreFits s la cs pl = false → exec (.restore lid team pl) s = .next s) ∧
      ((∀ c ∈ cs, c.2.resident = false ∧ restorable s c.2 = true) → headHolds s la.part = false → restoreFits s la cs pl = true → ∃ t, exec (.restore lid team pl) s = .next t ∧
        t = restoreTeam la cs pl s ∧ ∀ e ∈ cs.zip pl, ∃ co, t.cohorts.find e.1.1 = some co ∧ co.resident = true ∧ co.leaving = false)) ∧
    (s.booted = false ∨ s.powered = false → ∀ x y ok, ∀ i ∈ [Instr.registerWrite x y, .npartWrite x, .splitRegisterWrite x y, .dumpclr,
        .firmwareImageWrite x ok], exec i s = .next s) ∧
    (∀ off v, s.booted = true → s.powered = true → registerMask off ≠ 0 → ∃ s1, exec (.registerWrite off v) s = .next s1 ∧
      s1.cfgGet off = v &&& registerMask off ∧ ∀ k, k ≠ off → s1.cfgGet k = s.cfgGet k) ∧
    (∀ die v, s.booted = true → s.powered = true → die < 8 → s.dies.testBit die = true → v % 16 ≤ 8 → (∀ e ∈ s.cohorts, e.2.resident = false) →
      ∃ s1, exec (.splitRegisterWrite die v) s = .next s1 ∧ s1.sramSize die = v % 16 * 2 ^ 23 ∧ s1.mem = s.mem ∧
        ∀ off, off < min (s.sramSize die) (v % 16 * 2 ^ 23) → off < 2 ^ 26 →
          cellGet s1.sram (die * 2 ^ 26 + off) = cellGet s.sram (die * 2 ^ 26 + off)) ∧
    (∀ n, s.booted = true → s.powered = true → s.enabledDies.length = 8 → n ∈ [1, 2, 4, 8] →
      (s.runs = [] → (∀ e ∈ s.cohorts, e.2.resident = false ∧ e.2.leaving = false) → ∃ s1, exec (.npartWrite n) s = .next s1 ∧ s1.npart = n ∧
        s1.npartAsked = none ∧ s1.tlb = [] ∧ s1.walks = []) ∧
      (s.runs ≠ [] → ∃ s1, exec (.npartWrite n) s = .next s1 ∧ s1.npart = s.npart ∧ s1.npartAsked = some n)) ∧
    (∀ h, s.serving = true → exec (.hostCoreStore h) s = .next (hostStore h s)) ∧
    (∀ pa data, s.serving = true → Memory.wf s.mem = true → ∃ s1, exec (.hostCoreStore (.bytes pa data)) s = .next s1 ∧
      (∀ i, i < data.length → cellGet s1.mem (pa + i) = data.getD i 0) ∧ ∀ y, y < pa ∨ pa + data.length ≤ y → cellGet s1.mem y = cellGet s.mem y) ∧
    (∀ va, s.booted = true → s.powered = true → part < s.npart → va < 2 ^ 34 →
      let busy := lineHeld s part va false [1, 3, 4] || lineHeld s part (va + 7) false [1, 3, 4]
      let key := keyOf s part 0 (va / 65536)
      (busy = true → exec (.bar2WindowAccess part va none) s = .next s) ∧
      (busy = false → ∃ bs, exec (.bar2WindowAccess part va none) s = .next (s.send (.hostData part va bs))) ∧
      (∀ bs, busy = false → feRead s part 0 va 8 [1, 3, 4] = some bs → exec (.bar2WindowAccess part va none) s = .next (s.send (.hostData part va bs))) ∧
      (∀ bs, ∃ s1, exec (.bar2WindowAccess part va (some bs)) s = .next s1 ∧ s1.groups = s.groups) ∧
      (∀ bs i, i < bs.length → lineHeld s part (va + i) true [1, 4] = true → exec (.bar2WindowAccess part va (some bs)) s = .next s) ∧
      (∀ b, lineHeld s part va true [1, 4] = false →
        (∀ pa, Memory.wf s.mem = true → feFind s part 0 va true [1] = some pa → ∃ s1, exec (.bar2WindowAccess part va (some [b])) s = .next s1 ∧
          cellGet s1.mem pa = b) ∧
        (∀ pa, feFind s part 0 va true [1] = none → feFind s part 0 va true [4] = some pa → ∃ s1 l, exec (.bar2WindowAccess part va (some [b])) s =
          .next s1 ∧ s1.mem = s.mem ∧ s1.locks = s.locks ++ [l] ∧ l.own = true ∧ l.host = true ∧ l.key = key ∧ l.off = va % 65536 ∧ l.data = [b] ∧
          l.step = 0) ∧
        (feFind s part 0 va true [1] = none → feFind s part 0 va true [4] = none → exec (.bar2WindowAccess part va (some [b])) s = .next s))) ∧
    (s.halted = false → s.powered = true → ∃ s1, exec .watchdogExpiry s = .next s1 ∧ s1.halted = true) ∧
    (s.halted = true → s.powered = true → dumpKept s = true → exec .watchdogExpiry s = .next (logEvent 7 0xFF (logData s) none s)) ∧
    (s.booted = true → s.powered = true → exec .dumpclr s = .next (zeroRange (dumpBase s) (2 ^ 30) s) ∧
      ∀ a, dumpBase s ≤ a → a < dumpBase s + 2 ^ 30 → cellGet (zeroRange (dumpBase s) (2 ^ 30) s).mem a = 0) ∧
    (∀ x : Sample, s.powered = true →
      (s.samples ≠ [] → s.now < s.sampledAt + 9000000 → exec (.sensorSample x) s = .next s) ∧
      (s.samples = [] ∨ s.sampledAt + 9000000 ≤ s.now → (∀ c, c < 40 → levelOf (x.temps.getD c 0) ≠ .shutdown) → ∃ s1,
        exec (.sensorSample x) s = .next s1 ∧ s1.samples = (x :: s.samples).take 64 ∧ s1.sampledAt = s.now ∧ s1.halted = s.halted ∧
        ∀ c, c < 40 → c < x.temps.length → s.dies.testBit (c / 5) = true →
          (s1.therms c).temp = x.temps.getD c 0 ∧ (s1.therms c).level = levelOf (x.temps.getD c 0))) ∧
    (∀ c, let x := s.therms c
      (x.level = .hot → x.since + 90000000 ≤ s.now → ∃ s1, exec (.hotHoldTimeout c) s = .next s1 ∧ (s1.therms c) = { x with hotAsked := true }) ∧
      (∀ pl, s.serving = false ∨ migrant s c = none → exec (.thermalMigration c pl) s = .next s) ∧
      (∀ pl, x.hotAsked = false → migrating s c = false → exec (.thermalMigration c pl) s = .next s) ∧
      (∀ p pl t lid team la, s.serving = true → x.hotAsked = true → migrating s c = false → migrant s c = some (t, lid, team) →
        s.launches.find lid = some la → isCoolest s la c x.temp (clusterOf p.core) = true →
        let s1 := takeLeaving (askLeave (some (clusterOf p.core)) (cohortsOf s lid (some team))
          (logEvent 6 la.part (logData s) none (updTherm c (fun x => { x with hotAsked := false }) s)))
        exec (.thermalMigration c (p :: pl)) s = .next (if migrating s1 c then tryRestore lid team (p :: pl) s1 else s1)) ∧
      (x.level = .critical → 50 < x.clock → x.lastStep + 9000000 ≤ s.now → ∃ s1, exec (.clockStepDown c) s = .next s1 ∧
        (s1.therms c).clock = x.clock - 10 ∧ (s1.therms c).lastStep = s.now) ∧
      (x.temp < 760 → x.clock < 100 → x.coolSince + 90000000 ≤ s.now → x.lastStep + 9000000 ≤ s.now → ∃ s1,
        exec (.clockStepUp c) s = .next s1 ∧ (s1.therms c).clock = x.clock + 10) ∧
      (∀ t, x.floorSince = some t → x.level = .critical → x.clock = 50 → t + 900000000 ≤ s.now →
        s.halted = false → s.powered = true → ∃ s1, exec (.criticalTimeout (.critical c)) s = .next s1 ∧ s1.halted = true)) ∧
    (s.booted = true → s.halted = false → s.powered = true → ∃ s1, exec (.criticalTimeout .badState) s = .next s1 ∧ s1.halted = true) ∧
    (∀ e r t, s.mgmt.writing = (e, r) :: t → ∃ s1, exec .logEntryFlashWrite s = .next s1 ∧ s1.mgmt.writing = t ∧
      s1.mgmt.log = (s.mgmt.log ++ [e]).drop (s.mgmt.log.length + 1 - 4096) ∧
      (r = none → s1.roots = s.roots) ∧
      ∀ w, r = some w → s1.roots = if (pendOf s w.gid w.pid).any (fun p => !p.void) then (match w.digest with
        | some d => s.roots.put (16 * w.part + w.slot) d
        | none => s.roots.del (16 * w.part + w.slot)) else s.roots) ∧
    (∀ v ok, s.booted = true → s.powered = true → ∃ s1, exec (.firmwareImageWrite v ok) s = .next s1 ∧
      s1.mgmt.slots = s.mgmt.slots.set (1 - s.mgmt.slot) (some (v, ok && decide (s.mgmt.antiRollback ≤ v)))) ∧
    (s.booted = true → s.powered = true → ∃ s1, exec .antiRollbackRaise s = .next s1 ∧
      s1.mgmt = { s.mgmt with antiRollback := max s.mgmt.antiRollback s.mgmt.version }) ∧
    (s.booted = true → s.powered = true → ∀ r, exec (.powerUp r) s = .next s) ∧
    (s.halted = true → ∀ r, exec (.powerUp r) s = .next s) ∧
    (∀ k, s.booted = false → s.halted = false → bootSlot s.mgmt = some k → ∃ s1, exec (.powerUp true) s = .next s1 ∧ s1.booted = true ∧ s1.powered = true ∧
      s1.groups = [] ∧ s1.sram = [] ∧ s1.mgmt.slot = k ∧ s1.lattices = [(0, { started := s.now })] ∧
      ∀ a, dumpKept s = false → k = s.mgmt.slot → cellGet s1.mem a = 0) ∧
    (∃ s1, exec .powerLoss s = .next s1 ∧ s1.mem = [] ∧ s1.sram = [] ∧ s1.groups = [] ∧ s1.powered = false ∧ s1.booted = false ∧
      s1.roots = s.roots ∧ s1.mgmt.log = s.mgmt.log) ∧
    (∃ s1, exec .deviceReset s = .next s1 ∧ s1.mem = s.mem ∧ s1.groups = [] ∧ s1.halted = false ∧ s1.booted = false ∧ s1.powered = s.powered)

/-! ### Reset, encoding, invariants -/

/-- R95, R138, R148, R167, R403, R404, R410, R417: what reset and the start of a group leave. After power-up there is one partition, no
program-visible die SRAM, no fabric rank, a full energy account and scrubbed memory, and the configuration block reads so; a group starts at its entry word with `s1` its
packet, `m0` all ones, sidecars 0x7F and 0, and every other register zero. That the reset state holds no group and an empty agenda is the
model's choice (log entries 1 and 5). -/
def Obligations.ResetValues : Prop :=
  (let s := State.reset
   s.npart = 1 ∧ s.booted = true ∧ s.powered = true ∧ s.halted = false ∧ s.groups = [] ∧ s.runs = [] ∧ s.agenda = [] ∧
   Memory.wf s.mem = true ∧ (∀ a, cellGet s.mem a = 0 ∧ cellGet s.sram a = 0) ∧ (∀ d, s.sramSize d = 0) ∧
   (∀ k off, k < 8 → off < 64 → s.cfgGet (State.pblock k + off) = 0) ∧ (∀ k, s.rankOf k = none) ∧
   capw s 0 = 2600 ∧ energyCeil s 0 = 2600000 ∧ balance s 0 = 2600000 ∧ (s.account 0).rsvd = 0 ∧
   s.bar0 0 = some 1 ∧ (∀ k i, k < 8 → i < 8 → s.bar0 (0x2000 + 0x40 * k + 8 * i) = some 0) ∧ s.bar0 0x2800 = some 2600 ∧
   s.bar0 0x2808 = some 2600000 ∧ s.bar0 0x2810 = some 2600000 ∧ s.bar0 0x2818 = some 0 ∧ s.bar0 0x3200 = some 0) ∧
  (∀ (l : Launch) (cid i idx : Nat) (co : Cohort), let g := startGroup l cid i idx
    (∀ L, L < 32 → g.lane L = .live (min l.entry 0xFFFFFFFD)) ∧ g.sGet 1 = BitVec.ofNat 64 l.pkt ∧ (∀ r, r ≠ 1 → g.sGet r = 0) ∧
    g.mGet 0 = BitVec.allOnes 1024 ∧ (∀ r, r ≠ 0 → g.mGet r = 0) ∧ (∀ r, g.vGet r = 0) ∧
    (∀ r, g.scaleGet r = 0x7F7F7F7F7F7F7F7F) ∧ (∀ r, g.tagGet r = 0) ∧ g.tk = 0 ∧
    csrRead g co l 0x00 = 32 ∧ csrRead g co l 0x01 = 3 ∧ csrRead g co l 0x05 = 1 ∧
    ∀ n ∈ [0x02, 0x03, 0x04, 0x06, 0x08, 0x09, 0x0A, 0x0B, 0x0C], csrRead g co l n = 0)

/-- R55, R69, R71, R72, and the image under “A strip-mined loop”: words as the spec writes them out decode to the instructions they stand
for, and words with a reserved major, a set must-be-zero bit or too few bytes are refused. -/
def Obligations.DecodeSamples : Prop :=
  (∀ row ∈ ([(0x0C006423, .addi 3 0 100), (0x1032C00B, .setvl 4 3 0 1 3), (0x62100261, .vaddF ⟨12, 8, 8, 0, 0⟩ 2), (0x00016307, .bz 5 3),
      (0x0C310121, .sub 3 3 4), (0x14510021, .add 5 5 4), (0xFFFE4003, .bra (-7)), (0x00000101, .exit)] : List (Nat × Instr)),
    decode (toBytes 4 row.1) = .ok (row.2, 4)) ∧
  decode (toBytes 4 0x00004101) = .error .mustBeZero ∧ decode (toBytes 4 0x000000FB) = .error .reservedMajor ∧
  decode (toBytes 2 0x0001) = .error .truncated

/-- Decoding what `encode` writes gives the instruction back, at its own length, whatever bytes follow: for every well-formed instruction
that has an encoding, with every operand at every value. -/
def Obligations.DecodeInvertsEncode : Prop :=
  ∀ (i : Instr) (b rest : List Byte), i.WellFormed → encode i = some b → decode (b ++ rest) = .ok (i, b.length)

/-- No two words mean the same, and no bit of an accepted word is dropped: what decodes is well formed, and encoding it gives its bytes.
-/
def Obligations.EncodeInvertsDecode : Prop :=
  ∀ (i : Instr) (n : Nat) (b : List Byte), decode b = .ok (i, n) → i.WellFormed ∧ encode i = some (b.take n)

/-- THE INVARIANT OF EVERY STEP: both memories stay in the one canonical form, addresses rising and no zero byte listed, whatever
instruction, event or passing of time the step is; so equal memories are equal lists. -/
def Obligations.StepKeepsMemoryCanonical : Prop :=
  ∀ (s s1 : State), Memory.wf s.mem = true → Memory.wf s.sram = true → step s = .next s1 → Memory.wf s1.mem = true ∧ Memory.wf s1.sram = true

/-- R132, R133, R134: majors 0x11 to 0x14 are the immediate forms, IMM12 in bits 19:8; major 0x15 holds the shifts by immediate, KIND in
bits 15:14, AMT in bits 13:8, bits 19:16 zero or refused; major 0x16 is `LUI`, an 18-bit immediate times 2^12. Their words decode to them,
they do what they say, and with `ADDI` every value from −2^29 to 2^29 − 2,049 is built. -/
def Obligations.ImmediateMajors : Prop :=
  (∀ (d a : Nat) (imm : Int), d < 64 → a < 64 → -2048 ≤ imm → imm ≤ 2047 → ∀ row ∈ ([(0x11, .addi, fun x => x + BitVec.ofInt 64 imm),
      (0x12, .andi, fun x => x &&& BitVec.ofInt 64 imm), (0x13, .ori, fun x => x ||| BitVec.ofInt 64 imm),
      (0x14, .xori, fun x => x ^^^ BitVec.ofInt 64 imm)] : List (Nat × (Nat → Nat → Int → Instr) × (Word64 → Word64))),
    decode (toBytes 4 (d * 2 ^ 26 + a * 2 ^ 20 + (imm % 2 ^ 12).toNat * 2 ^ 8 + (2 * row.1 + 1))) = .ok (row.2.1 d a imm, 4) ∧
    ∀ (s : State) (c : Ctx), ctxOf s = some c → Does (row.2.1 d a imm) 4 c s (c.g.sSet d (row.2.2 (c.s a))) c.run) ∧
  (∀ d a n, d < 64 → a < 64 → n < 64 → ∀ row ∈ ([(0, .shli, fun x => x <<< n), (1, .shri, fun x => x >>> n),
      (2, .srai, fun x => x.sshiftRight n), (3, .rori, fun x => x.rotateRight n)] :
        List (Nat × (Nat → Nat → Nat → Instr) × (Word64 → Word64))),
    let w := d * 2 ^ 26 + a * 2 ^ 20 + row.1 * 2 ^ 14 + n * 2 ^ 8 + (2 * 0x15 + 1)
    decode (toBytes 4 w) = .ok (row.2.1 d a n, 4) ∧
    (∀ z, 0 < z → z < 16 → decode (toBytes 4 (w + z * 2 ^ 16)) = .error .mustBeZero) ∧
    ∀ (s : State) (c : Ctx), ctxOf s = some c → Does (row.2.1 d a n) 4 c s (c.g.sSet d (row.2.2 (c.s a))) c.run) ∧
  (∀ (d : Nat) (imm : Int), d < 64 → -131072 ≤ imm → imm ≤ 131071 →
    decode (toBytes 4 (d * 2 ^ 26 + (imm % 2 ^ 18).toNat * 2 ^ 8 + (2 * 0x16 + 1))) = .ok (.lui d imm, 4) ∧
    ∀ (s : State) (c : Ctx), ctxOf s = some c → Does (.lui d imm) 4 c s (c.g.sSet d (BitVec.ofInt 64 (imm * 2 ^ 12))) c.run) ∧
  (∀ v : Int, -(2 ^ 29) ≤ v → v ≤ 2 ^ 29 - 2049 → ∃ hi lo : Int, -131072 ≤ hi ∧ hi ≤ 131071 ∧ -2048 ≤ lo ∧ lo ≤ 2047 ∧
    ∀ (s s1 : State) (c c1 : Ctx) (d : Nat), ctxOf s = some c → ctxOf s1 = some c1 → 0 < d → d < 64 →
      Does (.lui d hi) 4 c s (c.g.sSet d (BitVec.ofInt 64 (hi * 2 ^ 12))) c.run ∧
      (c1.s d = BitVec.ofInt 64 (hi * 2 ^ 12) → Does (.addi d d lo) 4 c1 s1 (c1.g.sSet d (BitVec.ofInt 64 v)) c1.run))
end

