-- ==== Sys2Proof/Laws/State.lean ====
section
/-! SUPPORT. What each named update of State and of Group leaves in each field: a later proof unfolds no record update. -/

namespace Sys2Proof.Machine

/-! ### `State.updG` -/

@[simp] theorem State.updG_now (s : State) (gid : Nat) (f : Group → Group) : (s.updG gid f).now = s.now := rfl
@[simp] theorem State.updG_tick (s : State) (gid : Nat) (f : Group → Group) : (s.updG gid f).tick = s.tick := rfl
@[simp] theorem State.updG_nextId (s : State) (gid : Nat) (f : Group → Group) : (s.updG gid f).nextId = s.nextId := rfl
@[simp] theorem State.updG_turn (s : State) (gid : Nat) (f : Group → Group) : (s.updG gid f).turn = s.turn := rfl
@[simp] theorem State.updG_agenda (s : State) (gid : Nat) (f : Group → Group) : (s.updG gid f).agenda = s.agenda := rfl
@[simp] theorem State.updG_outbox (s : State) (gid : Nat) (f : Group → Group) : (s.updG gid f).outbox = s.outbox := rfl
@[simp] theorem State.updG_code (s : State) (gid : Nat) (f : Group → Group) : (s.updG gid f).code = s.code := rfl
@[simp] theorem State.updG_dies (s : State) (gid : Nat) (f : Group → Group) : (s.updG gid f).dies = s.dies := rfl
@[simp] theorem State.updG_stepping (s : State) (gid : Nat) (f : Group → Group) : (s.updG gid f).stepping = s.stepping := rfl
@[simp] theorem State.updG_serial (s : State) (gid : Nat) (f : Group → Group) : (s.updG gid f).serial = s.serial := rfl
@[simp] theorem State.updG_npart (s : State) (gid : Nat) (f : Group → Group) : (s.updG gid f).npart = s.npart := rfl
@[simp] theorem State.updG_npartAsked (s : State) (gid : Nat) (f : Group → Group) : (s.updG gid f).npartAsked = s.npartAsked := rfl
@[simp] theorem State.updG_cfg (s : State) (gid : Nat) (f : Group → Group) : (s.updG gid f).cfg = s.cfg := rfl
@[simp] theorem State.updG_mem (s : State) (gid : Nat) (f : Group → Group) : (s.updG gid f).mem = s.mem := rfl
@[simp] theorem State.updG_sram (s : State) (gid : Nat) (f : Group → Group) : (s.updG gid f).sram = s.sram := rfl
@[simp] theorem State.updG_poison (s : State) (gid : Nat) (f : Group → Group) : (s.updG gid f).poison = s.poison := rfl
@[simp] theorem State.updG_tlb (s : State) (gid : Nat) (f : Group → Group) : (s.updG gid f).tlb = s.tlb := rfl
@[simp] theorem State.updG_walks (s : State) (gid : Nat) (f : Group → Group) : (s.updG gid f).walks = s.walks := rfl
@[simp] theorem State.updG_l1 (s : State) (gid : Nat) (f : Group → Group) : (s.updG gid f).l1 = s.l1 := rfl
@[simp] theorem State.updG_llc (s : State) (gid : Nat) (f : Group → Group) : (s.updG gid f).llc = s.llc := rfl
@[simp] theorem State.updG_coh (s : State) (gid : Nat) (f : Group → Group) : (s.updG gid f).coh = s.coh := rfl
@[simp] theorem State.updG_regions (s : State) (gid : Nat) (f : Group → Group) : (s.updG gid f).regions = s.regions := rfl
@[simp] theorem State.updG_locks (s : State) (gid : Nat) (f : Group → Group) : (s.updG gid f).locks = s.locks := rfl
@[simp] theorem State.updG_groups (s : State) (gid : Nat) (f : Group → Group) : (s.updG gid f).groups = s.groups.upd gid f := rfl
@[simp] theorem State.updG_cohorts (s : State) (gid : Nat) (f : Group → Group) : (s.updG gid f).cohorts = s.cohorts := rfl
@[simp] theorem State.updG_launches (s : State) (gid : Nat) (f : Group → Group) : (s.updG gid f).launches = s.launches := rfl
@[simp] theorem State.updG_runs (s : State) (gid : Nat) (f : Group → Group) : (s.updG gid f).runs = s.runs := rfl
@[simp] theorem State.updG_cores (s : State) (gid : Nat) (f : Group → Group) : (s.updG gid f).cores = s.cores := rfl
@[simp] theorem State.updG_chains (s : State) (gid : Nat) (f : Group → Group) : (s.updG gid f).chains = s.chains := rfl
@[simp] theorem State.updG_frames (s : State) (gid : Nat) (f : Group → Group) : (s.updG gid f).frames = s.frames := rfl
@[simp] theorem State.updG_hands (s : State) (gid : Nat) (f : Group → Group) : (s.updG gid f).hands = s.hands := rfl
@[simp] theorem State.updG_binds (s : State) (gid : Nat) (f : Group → Group) : (s.updG gid f).binds = s.binds := rfl
@[simp] theorem State.updG_quotas (s : State) (gid : Nat) (f : Group → Group) : (s.updG gid f).quotas = s.quotas := rfl
@[simp] theorem State.updG_spaces (s : State) (gid : Nat) (f : Group → Group) : (s.updG gid f).spaces = s.spaces := rfl
@[simp] theorem State.updG_dir (s : State) (gid : Nat) (f : Group → Group) : (s.updG gid f).dir = s.dir := rfl
@[simp] theorem State.updG_filters (s : State) (gid : Nat) (f : Group → Group) : (s.updG gid f).filters = s.filters := rfl
@[simp] theorem State.updG_probes (s : State) (gid : Nat) (f : Group → Group) : (s.updG gid f).probes = s.probes := rfl
@[simp] theorem State.updG_moves (s : State) (gid : Nat) (f : Group → Group) : (s.updG gid f).moves = s.moves := rfl
@[simp] theorem State.updG_migr (s : State) (gid : Nat) (f : Group → Group) : (s.updG gid f).migr = s.migr := rfl
@[simp] theorem State.updG_vers (s : State) (gid : Nat) (f : Group → Group) : (s.updG gid f).vers = s.vers := rfl
@[simp] theorem State.updG_homes (s : State) (gid : Nat) (f : Group → Group) : (s.updG gid f).homes = s.homes := rfl
@[simp] theorem State.updG_lockSets (s : State) (gid : Nat) (f : Group → Group) : (s.updG gid f).lockSets = s.lockSets := rfl
@[simp] theorem State.updG_mail (s : State) (gid : Nat) (f : Group → Group) : (s.updG gid f).mail = s.mail := rfl
@[simp] theorem State.updG_declineQ (s : State) (gid : Nat) (f : Group → Group) : (s.updG gid f).declineQ = s.declineQ := rfl
@[simp] theorem State.updG_mailCount (s : State) (gid : Nat) (f : Group → Group) : (s.updG gid f).mailCount = s.mailCount := rfl
@[simp] theorem State.updG_mailReason (s : State) (gid : Nat) (f : Group → Group) : (s.updG gid f).mailReason = s.mailReason := rfl
@[simp] theorem State.updG_mailSlot (s : State) (gid : Nat) (f : Group → Group) : (s.updG gid f).mailSlot = s.mailSlot := rfl
@[simp] theorem State.updG_ownHome (s : State) (gid : Nat) (f : Group → Group) : (s.updG gid f).ownHome = s.ownHome := rfl
@[simp] theorem State.updG_filterAt (s : State) (gid : Nat) (f : Group → Group) : (s.updG gid f).filterAt = s.filterAt := rfl
@[simp] theorem State.updG_incoming (s : State) (gid : Nat) (f : Group → Group) : (s.updG gid f).incoming = s.incoming := rfl
@[simp] theorem State.updG_tells (s : State) (gid : Nat) (f : Group → Group) : (s.updG gid f).tells = s.tells := rfl
@[simp] theorem State.updG_reqs (s : State) (gid : Nat) (f : Group → Group) : (s.updG gid f).reqs = s.reqs := rfl
@[simp] theorem State.updG_flows (s : State) (gid : Nat) (f : Group → Group) : (s.updG gid f).flows = s.flows := rfl
@[simp] theorem State.updG_filts (s : State) (gid : Nat) (f : Group → Group) : (s.updG gid f).filts = s.filts := rfl
@[simp] theorem State.updG_heldFlags (s : State) (gid : Nat) (f : Group → Group) : (s.updG gid f).heldFlags = s.heldFlags := rfl
@[simp] theorem State.updG_stalled (s : State) (gid : Nat) (f : Group → Group) : (s.updG gid f).stalled = s.stalled := rfl
@[simp] theorem State.updG_refusals (s : State) (gid : Nat) (f : Group → Group) : (s.updG gid f).refusals = s.refusals := rfl
@[simp] theorem State.updG_reach (s : State) (gid : Nat) (f : Group → Group) : (s.updG gid f).reach = s.reach := rfl
@[simp] theorem State.updG_links (s : State) (gid : Nat) (f : Group → Group) : (s.updG gid f).links = s.links := rfl
@[simp] theorem State.updG_fxcnt (s : State) (gid : Nat) (f : Group → Group) : (s.updG gid f).fxcnt = s.fxcnt := rfl
@[simp] theorem State.updG_lattices (s : State) (gid : Nat) (f : Group → Group) : (s.updG gid f).lattices = s.lattices := rfl
@[simp] theorem State.updG_change (s : State) (gid : Nat) (f : Group → Group) : (s.updG gid f).change = s.change := rfl
@[simp] theorem State.updG_queues (s : State) (gid : Nat) (f : Group → Group) : (s.updG gid f).queues = s.queues := rfl
@[simp] theorem State.updG_history (s : State) (gid : Nat) (f : Group → Group) : (s.updG gid f).history = s.history := rfl
@[simp] theorem State.updG_gangs (s : State) (gid : Nat) (f : Group → Group) : (s.updG gid f).gangs = s.gangs := rfl
@[simp] theorem State.updG_gangSeq (s : State) (gid : Nat) (f : Group → Group) : (s.updG gid f).gangSeq = s.gangSeq := rfl
@[simp] theorem State.updG_energy (s : State) (gid : Nat) (f : Group → Group) : (s.updG gid f).energy = s.energy := rfl
@[simp] theorem State.updG_therm (s : State) (gid : Nat) (f : Group → Group) : (s.updG gid f).therm = s.therm := rfl
@[simp] theorem State.updG_mgmt (s : State) (gid : Nat) (f : Group → Group) : (s.updG gid f).mgmt = s.mgmt := rfl
@[simp] theorem State.updG_roots (s : State) (gid : Nat) (f : Group → Group) : (s.updG gid f).roots = s.roots := rfl
@[simp] theorem State.updG_powered (s : State) (gid : Nat) (f : Group → Group) : (s.updG gid f).powered = s.powered := rfl
@[simp] theorem State.updG_halted (s : State) (gid : Nat) (f : Group → Group) : (s.updG gid f).halted = s.halted := rfl
@[simp] theorem State.updG_dying (s : State) (gid : Nat) (f : Group → Group) : (s.updG gid f).dying = s.dying := rfl
@[simp] theorem State.updG_samples (s : State) (gid : Nat) (f : Group → Group) : (s.updG gid f).samples = s.samples := rfl
@[simp] theorem State.updG_sampledAt (s : State) (gid : Nat) (f : Group → Group) : (s.updG gid f).sampledAt = s.sampledAt := rfl
@[simp] theorem State.updG_booted (s : State) (gid : Nat) (f : Group → Group) : (s.updG gid f).booted = s.booted := rfl

/-! ### `State.updC` -/

@[simp] theorem State.updC_now (s : State) (cid : Nat) (f : Cohort → Cohort) : (s.updC cid f).now = s.now := rfl
@[simp] theorem State.updC_tick (s : State) (cid : Nat) (f : Cohort → Cohort) : (s.updC cid f).tick = s.tick := rfl
@[simp] theorem State.updC_nextId (s : State) (cid : Nat) (f : Cohort → Cohort) : (s.updC cid f).nextId = s.nextId := rfl
@[simp] theorem State.updC_turn (s : State) (cid : Nat) (f : Cohort → Cohort) : (s.updC cid f).turn = s.turn := rfl
@[simp] theorem State.updC_agenda (s : State) (cid : Nat) (f : Cohort → Cohort) : (s.updC cid f).agenda = s.agenda := rfl
@[simp] theorem State.updC_outbox (s : State) (cid : Nat) (f : Cohort → Cohort) : (s.updC cid f).outbox = s.outbox := rfl
@[simp] theorem State.updC_code (s : State) (cid : Nat) (f : Cohort → Cohort) : (s.updC cid f).code = s.code := rfl
@[simp] theorem State.updC_dies (s : State) (cid : Nat) (f : Cohort → Cohort) : (s.updC cid f).dies = s.dies := rfl
@[simp] theorem State.updC_stepping (s : State) (cid : Nat) (f : Cohort → Cohort) : (s.updC cid f).stepping = s.stepping := rfl
@[simp] theorem State.updC_serial (s : State) (cid : Nat) (f : Cohort → Cohort) : (s.updC cid f).serial = s.serial := rfl
@[simp] theorem State.updC_npart (s : State) (cid : Nat) (f : Cohort → Cohort) : (s.updC cid f).npart = s.npart := rfl
@[simp] theorem State.updC_npartAsked (s : State) (cid : Nat) (f : Cohort → Cohort) : (s.updC cid f).npartAsked = s.npartAsked := rfl
@[simp] theorem State.updC_cfg (s : State) (cid : Nat) (f : Cohort → Cohort) : (s.updC cid f).cfg = s.cfg := rfl
@[simp] theorem State.updC_mem (s : State) (cid : Nat) (f : Cohort → Cohort) : (s.updC cid f).mem = s.mem := rfl
@[simp] theorem State.updC_sram (s : State) (cid : Nat) (f : Cohort → Cohort) : (s.updC cid f).sram = s.sram := rfl
@[simp] theorem State.updC_poison (s : State) (cid : Nat) (f : Cohort → Cohort) : (s.updC cid f).poison = s.poison := rfl
@[simp] theorem State.updC_tlb (s : State) (cid : Nat) (f : Cohort → Cohort) : (s.updC cid f).tlb = s.tlb := rfl
@[simp] theorem State.updC_walks (s : State) (cid : Nat) (f : Cohort → Cohort) : (s.updC cid f).walks = s.walks := rfl
@[simp] theorem State.updC_l1 (s : State) (cid : Nat) (f : Cohort → Cohort) : (s.updC cid f).l1 = s.l1 := rfl
@[simp] theorem State.updC_llc (s : State) (cid : Nat) (f : Cohort → Cohort) : (s.updC cid f).llc = s.llc := rfl
@[simp] theorem State.updC_coh (s : State) (cid : Nat) (f : Cohort → Cohort) : (s.updC cid f).coh = s.coh := rfl
@[simp] theorem State.updC_regions (s : State) (cid : Nat) (f : Cohort → Cohort) : (s.updC cid f).regions = s.regions := rfl
@[simp] theorem State.updC_locks (s : State) (cid : Nat) (f : Cohort → Cohort) : (s.updC cid f).locks = s.locks := rfl
@[simp] theorem State.updC_groups (s : State) (cid : Nat) (f : Cohort → Cohort) : (s.updC cid f).groups = s.groups := rfl
@[simp] theorem State.updC_cohorts (s : State) (cid : Nat) (f : Cohort → Cohort) : (s.updC cid f).cohorts = s.cohorts.upd cid f := rfl
@[simp] theorem State.updC_launches (s : State) (cid : Nat) (f : Cohort → Cohort) : (s.updC cid f).launches = s.launches := rfl
@[simp] theorem State.updC_runs (s : State) (cid : Nat) (f : Cohort → Cohort) : (s.updC cid f).runs = s.runs := rfl
@[simp] theorem State.updC_cores (s : State) (cid : Nat) (f : Cohort → Cohort) : (s.updC cid f).cores = s.cores := rfl
@[simp] theorem State.updC_chains (s : State) (cid : Nat) (f : Cohort → Cohort) : (s.updC cid f).chains = s.chains := rfl
@[simp] theorem State.updC_frames (s : State) (cid : Nat) (f : Cohort → Cohort) : (s.updC cid f).frames = s.frames := rfl
@[simp] theorem State.updC_hands (s : State) (cid : Nat) (f : Cohort → Cohort) : (s.updC cid f).hands = s.hands := rfl
@[simp] theorem State.updC_binds (s : State) (cid : Nat) (f : Cohort → Cohort) : (s.updC cid f).binds = s.binds := rfl
@[simp] theorem State.updC_quotas (s : State) (cid : Nat) (f : Cohort → Cohort) : (s.updC cid f).quotas = s.quotas := rfl
@[simp] theorem State.updC_spaces (s : State) (cid : Nat) (f : Cohort → Cohort) : (s.updC cid f).spaces = s.spaces := rfl
@[simp] theorem State.updC_dir (s : State) (cid : Nat) (f : Cohort → Cohort) : (s.updC cid f).dir = s.dir := rfl
@[simp] theorem State.updC_filters (s : State) (cid : Nat) (f : Cohort → Cohort) : (s.updC cid f).filters = s.filters := rfl
@[simp] theorem State.updC_probes (s : State) (cid : Nat) (f : Cohort → Cohort) : (s.updC cid f).probes = s.probes := rfl
@[simp] theorem State.updC_moves (s : State) (cid : Nat) (f : Cohort → Cohort) : (s.updC cid f).moves = s.moves := rfl
@[simp] theorem State.updC_migr (s : State) (cid : Nat) (f : Cohort → Cohort) : (s.updC cid f).migr = s.migr := rfl
@[simp] theorem State.updC_vers (s : State) (cid : Nat) (f : Cohort → Cohort) : (s.updC cid f).vers = s.vers := rfl
@[simp] theorem State.updC_homes (s : State) (cid : Nat) (f : Cohort → Cohort) : (s.updC cid f).homes = s.homes := rfl
@[simp] theorem State.updC_lockSets (s : State) (cid : Nat) (f : Cohort → Cohort) : (s.updC cid f).lockSets = s.lockSets := rfl
@[simp] theorem State.updC_mail (s : State) (cid : Nat) (f : Cohort → Cohort) : (s.updC cid f).mail = s.mail := rfl
@[simp] theorem State.updC_declineQ (s : State) (cid : Nat) (f : Cohort → Cohort) : (s.updC cid f).declineQ = s.declineQ := rfl
@[simp] theorem State.updC_mailCount (s : State) (cid : Nat) (f : Cohort → Cohort) : (s.updC cid f).mailCount = s.mailCount := rfl
@[simp] theorem State.updC_mailReason (s : State) (cid : Nat) (f : Cohort → Cohort) : (s.updC cid f).mailReason = s.mailReason := rfl
@[simp] theorem State.updC_mailSlot (s : State) (cid : Nat) (f : Cohort → Cohort) : (s.updC cid f).mailSlot = s.mailSlot := rfl
@[simp] theorem State.updC_ownHome (s : State) (cid : Nat) (f : Cohort → Cohort) : (s.updC cid f).ownHome = s.ownHome := rfl
@[simp] theorem State.updC_filterAt (s : State) (cid : Nat) (f : Cohort → Cohort) : (s.updC cid f).filterAt = s.filterAt := rfl
@[simp] theorem State.updC_incoming (s : State) (cid : Nat) (f : Cohort → Cohort) : (s.updC cid f).incoming = s.incoming := rfl
@[simp] theorem State.updC_tells (s : State) (cid : Nat) (f : Cohort → Cohort) : (s.updC cid f).tells = s.tells := rfl
@[simp] theorem State.updC_reqs (s : State) (cid : Nat) (f : Cohort → Cohort) : (s.updC cid f).reqs = s.reqs := rfl
@[simp] theorem State.updC_flows (s : State) (cid : Nat) (f : Cohort → Cohort) : (s.updC cid f).flows = s.flows := rfl
@[simp] theorem State.updC_filts (s : State) (cid : Nat) (f : Cohort → Cohort) : (s.updC cid f).filts = s.filts := rfl
@[simp] theorem State.updC_heldFlags (s : State) (cid : Nat) (f : Cohort → Cohort) : (s.updC cid f).heldFlags = s.heldFlags := rfl
@[simp] theorem State.updC_stalled (s : State) (cid : Nat) (f : Cohort → Cohort) : (s.updC cid f).stalled = s.stalled := rfl
@[simp] theorem State.updC_refusals (s : State) (cid : Nat) (f : Cohort → Cohort) : (s.updC cid f).refusals = s.refusals := rfl
@[simp] theorem State.updC_reach (s : State) (cid : Nat) (f : Cohort → Cohort) : (s.updC cid f).reach = s.reach := rfl
@[simp] theorem State.updC_links (s : State) (cid : Nat) (f : Cohort → Cohort) : (s.updC cid f).links = s.links := rfl
@[simp] theorem State.updC_fxcnt (s : State) (cid : Nat) (f : Cohort → Cohort) : (s.updC cid f).fxcnt = s.fxcnt := rfl
@[simp] theorem State.updC_lattices (s : State) (cid : Nat) (f : Cohort → Cohort) : (s.updC cid f).lattices = s.lattices := rfl
@[simp] theorem State.updC_change (s : State) (cid : Nat) (f : Cohort → Cohort) : (s.updC cid f).change = s.change := rfl
@[simp] theorem State.updC_queues (s : State) (cid : Nat) (f : Cohort → Cohort) : (s.updC cid f).queues = s.queues := rfl
@[simp] theorem State.updC_history (s : State) (cid : Nat) (f : Cohort → Cohort) : (s.updC cid f).history = s.history := rfl
@[simp] theorem State.updC_gangs (s : State) (cid : Nat) (f : Cohort → Cohort) : (s.updC cid f).gangs = s.gangs := rfl
@[simp] theorem State.updC_gangSeq (s : State) (cid : Nat) (f : Cohort → Cohort) : (s.updC cid f).gangSeq = s.gangSeq := rfl
@[simp] theorem State.updC_energy (s : State) (cid : Nat) (f : Cohort → Cohort) : (s.updC cid f).energy = s.energy := rfl
@[simp] theorem State.updC_therm (s : State) (cid : Nat) (f : Cohort → Cohort) : (s.updC cid f).therm = s.therm := rfl
@[simp] theorem State.updC_mgmt (s : State) (cid : Nat) (f : Cohort → Cohort) : (s.updC cid f).mgmt = s.mgmt := rfl
@[simp] theorem State.updC_roots (s : State) (cid : Nat) (f : Cohort → Cohort) : (s.updC cid f).roots = s.roots := rfl
@[simp] theorem State.updC_powered (s : State) (cid : Nat) (f : Cohort → Cohort) : (s.updC cid f).powered = s.powered := rfl
@[simp] theorem State.updC_halted (s : State) (cid : Nat) (f : Cohort → Cohort) : (s.updC cid f).halted = s.halted := rfl
@[simp] theorem State.updC_dying (s : State) (cid : Nat) (f : Cohort → Cohort) : (s.updC cid f).dying = s.dying := rfl
@[simp] theorem State.updC_samples (s : State) (cid : Nat) (f : Cohort → Cohort) : (s.updC cid f).samples = s.samples := rfl
@[simp] theorem State.updC_sampledAt (s : State) (cid : Nat) (f : Cohort → Cohort) : (s.updC cid f).sampledAt = s.sampledAt := rfl
@[simp] theorem State.updC_booted (s : State) (cid : Nat) (f : Cohort → Cohort) : (s.updC cid f).booted = s.booted := rfl

/-! ### `State.updR` -/

@[simp] theorem State.updR_now (s : State) (slot : Nat) (f : Run → Run) : (s.updR slot f).now = s.now := rfl
@[simp] theorem State.updR_tick (s : State) (slot : Nat) (f : Run → Run) : (s.updR slot f).tick = s.tick := rfl
@[simp] theorem State.updR_nextId (s : State) (slot : Nat) (f : Run → Run) : (s.updR slot f).nextId = s.nextId := rfl
@[simp] theorem State.updR_turn (s : State) (slot : Nat) (f : Run → Run) : (s.updR slot f).turn = s.turn := rfl
@[simp] theorem State.updR_agenda (s : State) (slot : Nat) (f : Run → Run) : (s.updR slot f).agenda = s.agenda := rfl
@[simp] theorem State.updR_outbox (s : State) (slot : Nat) (f : Run → Run) : (s.updR slot f).outbox = s.outbox := rfl
@[simp] theorem State.updR_code (s : State) (slot : Nat) (f : Run → Run) : (s.updR slot f).code = s.code := rfl
@[simp] theorem State.updR_dies (s : State) (slot : Nat) (f : Run → Run) : (s.updR slot f).dies = s.dies := rfl
@[simp] theorem State.updR_stepping (s : State) (slot : Nat) (f : Run → Run) : (s.updR slot f).stepping = s.stepping := rfl
@[simp] theorem State.updR_serial (s : State) (slot : Nat) (f : Run → Run) : (s.updR slot f).serial = s.serial := rfl
@[simp] theorem State.updR_npart (s : State) (slot : Nat) (f : Run → Run) : (s.updR slot f).npart = s.npart := rfl
@[simp] theorem State.updR_npartAsked (s : State) (slot : Nat) (f : Run → Run) : (s.updR slot f).npartAsked = s.npartAsked := rfl
@[simp] theorem State.updR_cfg (s : State) (slot : Nat) (f : Run → Run) : (s.updR slot f).cfg = s.cfg := rfl
@[simp] theorem State.updR_mem (s : State) (slot : Nat) (f : Run → Run) : (s.updR slot f).mem = s.mem := rfl
@[simp] theorem State.updR_sram (s : State) (slot : Nat) (f : Run → Run) : (s.updR slot f).sram = s.sram := rfl
@[simp] theorem State.updR_poison (s : State) (slot : Nat) (f : Run → Run) : (s.updR slot f).poison = s.poison := rfl
@[simp] theorem State.updR_tlb (s : State) (slot : Nat) (f : Run → Run) : (s.updR slot f).tlb = s.tlb := rfl
@[simp] theorem State.updR_walks (s : State) (slot : Nat) (f : Run → Run) : (s.updR slot f).walks = s.walks := rfl
@[simp] theorem State.updR_l1 (s : State) (slot : Nat) (f : Run → Run) : (s.updR slot f).l1 = s.l1 := rfl
@[simp] theorem State.updR_llc (s : State) (slot : Nat) (f : Run → Run) : (s.updR slot f).llc = s.llc := rfl
@[simp] theorem State.updR_coh (s : State) (slot : Nat) (f : Run → Run) : (s.updR slot f).coh = s.coh := rfl
@[simp] theorem State.updR_regions (s : State) (slot : Nat) (f : Run → Run) : (s.updR slot f).regions = s.regions := rfl
@[simp] theorem State.updR_locks (s : State) (slot : Nat) (f : Run → Run) : (s.updR slot f).locks = s.locks := rfl
@[simp] theorem State.updR_groups (s : State) (slot : Nat) (f : Run → Run) : (s.updR slot f).groups = s.groups := rfl
@[simp] theorem State.updR_cohorts (s : State) (slot : Nat) (f : Run → Run) : (s.updR slot f).cohorts = s.cohorts := rfl
@[simp] theorem State.updR_launches (s : State) (slot : Nat) (f : Run → Run) : (s.updR slot f).launches = s.launches := rfl
@[simp] theorem State.updR_runs (s : State) (slot : Nat) (f : Run → Run) : (s.updR slot f).runs = s.runs.upd slot f := rfl
@[simp] theorem State.updR_cores (s : State) (slot : Nat) (f : Run → Run) : (s.updR slot f).cores = s.cores := rfl
@[simp] theorem State.updR_chains (s : State) (slot : Nat) (f : Run → Run) : (s.updR slot f).chains = s.chains := rfl
@[simp] theorem State.updR_frames (s : State) (slot : Nat) (f : Run → Run) : (s.updR slot f).frames = s.frames := rfl
@[simp] theorem State.updR_hands (s : State) (slot : Nat) (f : Run → Run) : (s.updR slot f).hands = s.hands := rfl
@[simp] theorem State.updR_binds (s : State) (slot : Nat) (f : Run → Run) : (s.updR slot f).binds = s.binds := rfl
@[simp] theorem State.updR_quotas (s : State) (slot : Nat) (f : Run → Run) : (s.updR slot f).quotas = s.quotas := rfl
@[simp] theorem State.updR_spaces (s : State) (slot : Nat) (f : Run → Run) : (s.updR slot f).spaces = s.spaces := rfl
@[simp] theorem State.updR_dir (s : State) (slot : Nat) (f : Run → Run) : (s.updR slot f).dir = s.dir := rfl
@[simp] theorem State.updR_filters (s : State) (slot : Nat) (f : Run → Run) : (s.updR slot f).filters = s.filters := rfl
@[simp] theorem State.updR_probes (s : State) (slot : Nat) (f : Run → Run) : (s.updR slot f).probes = s.probes := rfl
@[simp] theorem State.updR_moves (s : State) (slot : Nat) (f : Run → Run) : (s.updR slot f).moves = s.moves := rfl
@[simp] theorem State.updR_migr (s : State) (slot : Nat) (f : Run → Run) : (s.updR slot f).migr = s.migr := rfl
@[simp] theorem State.updR_vers (s : State) (slot : Nat) (f : Run → Run) : (s.updR slot f).vers = s.vers := rfl
@[simp] theorem State.updR_homes (s : State) (slot : Nat) (f : Run → Run) : (s.updR slot f).homes = s.homes := rfl
@[simp] theorem State.updR_lockSets (s : State) (slot : Nat) (f : Run → Run) : (s.updR slot f).lockSets = s.lockSets := rfl
@[simp] theorem State.updR_mail (s : State) (slot : Nat) (f : Run → Run) : (s.updR slot f).mail = s.mail := rfl
@[simp] theorem State.updR_declineQ (s : State) (slot : Nat) (f : Run → Run) : (s.updR slot f).declineQ = s.declineQ := rfl
@[simp] theorem State.updR_mailCount (s : State) (slot : Nat) (f : Run → Run) : (s.updR slot f).mailCount = s.mailCount := rfl
@[simp] theorem State.updR_mailReason (s : State) (slot : Nat) (f : Run → Run) : (s.updR slot f).mailReason = s.mailReason := rfl
@[simp] theorem State.updR_mailSlot (s : State) (slot : Nat) (f : Run → Run) : (s.updR slot f).mailSlot = s.mailSlot := rfl
@[simp] theorem State.updR_ownHome (s : State) (slot : Nat) (f : Run → Run) : (s.updR slot f).ownHome = s.ownHome := rfl
@[simp] theorem State.updR_filterAt (s : State) (slot : Nat) (f : Run → Run) : (s.updR slot f).filterAt = s.filterAt := rfl
@[simp] theorem State.updR_incoming (s : State) (slot : Nat) (f : Run → Run) : (s.updR slot f).incoming = s.incoming := rfl
@[simp] theorem State.updR_tells (s : State) (slot : Nat) (f : Run → Run) : (s.updR slot f).tells = s.tells := rfl
@[simp] theorem State.updR_reqs (s : State) (slot : Nat) (f : Run → Run) : (s.updR slot f).reqs = s.reqs := rfl
@[simp] theorem State.updR_flows (s : State) (slot : Nat) (f : Run → Run) : (s.updR slot f).flows = s.flows := rfl
@[simp] theorem State.updR_filts (s : State) (slot : Nat) (f : Run → Run) : (s.updR slot f).filts = s.filts := rfl
@[simp] theorem State.updR_heldFlags (s : State) (slot : Nat) (f : Run → Run) : (s.updR slot f).heldFlags = s.heldFlags := rfl
@[simp] theorem State.updR_stalled (s : State) (slot : Nat) (f : Run → Run) : (s.updR slot f).stalled = s.stalled := rfl
@[simp] theorem State.updR_refusals (s : State) (slot : Nat) (f : Run → Run) : (s.updR slot f).refusals = s.refusals := rfl
@[simp] theorem State.updR_reach (s : State) (slot : Nat) (f : Run → Run) : (s.updR slot f).reach = s.reach := rfl
@[simp] theorem State.updR_links (s : State) (slot : Nat) (f : Run → Run) : (s.updR slot f).links = s.links := rfl
@[simp] theorem State.updR_fxcnt (s : State) (slot : Nat) (f : Run → Run) : (s.updR slot f).fxcnt = s.fxcnt := rfl
@[simp] theorem State.updR_lattices (s : State) (slot : Nat) (f : Run → Run) : (s.updR slot f).lattices = s.lattices := rfl
@[simp] theorem State.updR_change (s : State) (slot : Nat) (f : Run → Run) : (s.updR slot f).change = s.change := rfl
@[simp] theorem State.updR_queues (s : State) (slot : Nat) (f : Run → Run) : (s.updR slot f).queues = s.queues := rfl
@[simp] theorem State.updR_history (s : State) (slot : Nat) (f : Run → Run) : (s.updR slot f).history = s.history := rfl
@[simp] theorem State.updR_gangs (s : State) (slot : Nat) (f : Run → Run) : (s.updR slot f).gangs = s.gangs := rfl
@[simp] theorem State.updR_gangSeq (s : State) (slot : Nat) (f : Run → Run) : (s.updR slot f).gangSeq = s.gangSeq := rfl
@[simp] theorem State.updR_energy (s : State) (slot : Nat) (f : Run → Run) : (s.updR slot f).energy = s.energy := rfl
@[simp] theorem State.updR_therm (s : State) (slot : Nat) (f : Run → Run) : (s.updR slot f).therm = s.therm := rfl
@[simp] theorem State.updR_mgmt (s : State) (slot : Nat) (f : Run → Run) : (s.updR slot f).mgmt = s.mgmt := rfl
@[simp] theorem State.updR_roots (s : State) (slot : Nat) (f : Run → Run) : (s.updR slot f).roots = s.roots := rfl
@[simp] theorem State.updR_powered (s : State) (slot : Nat) (f : Run → Run) : (s.updR slot f).powered = s.powered := rfl
@[simp] theorem State.updR_halted (s : State) (slot : Nat) (f : Run → Run) : (s.updR slot f).halted = s.halted := rfl
@[simp] theorem State.updR_dying (s : State) (slot : Nat) (f : Run → Run) : (s.updR slot f).dying = s.dying := rfl
@[simp] theorem State.updR_samples (s : State) (slot : Nat) (f : Run → Run) : (s.updR slot f).samples = s.samples := rfl
@[simp] theorem State.updR_sampledAt (s : State) (slot : Nat) (f : Run → Run) : (s.updR slot f).sampledAt = s.sampledAt := rfl
@[simp] theorem State.updR_booted (s : State) (slot : Nat) (f : Run → Run) : (s.updR slot f).booted = s.booted := rfl

/-! ### `State.updL` -/

@[simp] theorem State.updL_now (s : State) (lid : Nat) (f : Launch → Launch) : (s.updL lid f).now = s.now := rfl
@[simp] theorem State.updL_tick (s : State) (lid : Nat) (f : Launch → Launch) : (s.updL lid f).tick = s.tick := rfl
@[simp] theorem State.updL_nextId (s : State) (lid : Nat) (f : Launch → Launch) : (s.updL lid f).nextId = s.nextId := rfl
@[simp] theorem State.updL_turn (s : State) (lid : Nat) (f : Launch → Launch) : (s.updL lid f).turn = s.turn := rfl
@[simp] theorem State.updL_agenda (s : State) (lid : Nat) (f : Launch → Launch) : (s.updL lid f).agenda = s.agenda := rfl
@[simp] theorem State.updL_outbox (s : State) (lid : Nat) (f : Launch → Launch) : (s.updL lid f).outbox = s.outbox := rfl
@[simp] theorem State.updL_code (s : State) (lid : Nat) (f : Launch → Launch) : (s.updL lid f).code = s.code := rfl
@[simp] theorem State.updL_dies (s : State) (lid : Nat) (f : Launch → Launch) : (s.updL lid f).dies = s.dies := rfl
@[simp] theorem State.updL_stepping (s : State) (lid : Nat) (f : Launch → Launch) : (s.updL lid f).stepping = s.stepping := rfl
@[simp] theorem State.updL_serial (s : State) (lid : Nat) (f : Launch → Launch) : (s.updL lid f).serial = s.serial := rfl
@[simp] theorem State.updL_npart (s : State) (lid : Nat) (f : Launch → Launch) : (s.updL lid f).npart = s.npart := rfl
@[simp] theorem State.updL_npartAsked (s : State) (lid : Nat) (f : Launch → Launch) : (s.updL lid f).npartAsked = s.npartAsked := rfl
@[simp] theorem State.updL_cfg (s : State) (lid : Nat) (f : Launch → Launch) : (s.updL lid f).cfg = s.cfg := rfl
@[simp] theorem State.updL_mem (s : State) (lid : Nat) (f : Launch → Launch) : (s.updL lid f).mem = s.mem := rfl
@[simp] theorem State.updL_sram (s : State) (lid : Nat) (f : Launch → Launch) : (s.updL lid f).sram = s.sram := rfl
@[simp] theorem State.updL_poison (s : State) (lid : Nat) (f : Launch → Launch) : (s.updL lid f).poison = s.poison := rfl
@[simp] theorem State.updL_tlb (s : State) (lid : Nat) (f : Launch → Launch) : (s.updL lid f).tlb = s.tlb := rfl
@[simp] theorem State.updL_walks (s : State) (lid : Nat) (f : Launch → Launch) : (s.updL lid f).walks = s.walks := rfl
@[simp] theorem State.updL_l1 (s : State) (lid : Nat) (f : Launch → Launch) : (s.updL lid f).l1 = s.l1 := rfl
@[simp] theorem State.updL_llc (s : State) (lid : Nat) (f : Launch → Launch) : (s.updL lid f).llc = s.llc := rfl
@[simp] theorem State.updL_coh (s : State) (lid : Nat) (f : Launch → Launch) : (s.updL lid f).coh = s.coh := rfl
@[simp] theorem State.updL_regions (s : State) (lid : Nat) (f : Launch → Launch) : (s.updL lid f).regions = s.regions := rfl
@[simp] theorem State.updL_locks (s : State) (lid : Nat) (f : Launch → Launch) : (s.updL lid f).locks = s.locks := rfl
@[simp] theorem State.updL_groups (s : State) (lid : Nat) (f : Launch → Launch) : (s.updL lid f).groups = s.groups := rfl
@[simp] theorem State.updL_cohorts (s : State) (lid : Nat) (f : Launch → Launch) : (s.updL lid f).cohorts = s.cohorts := rfl
@[simp] theorem State.updL_launches (s : State) (lid : Nat) (f : Launch → Launch) : (s.updL lid f).launches = s.launches.upd lid f := rfl
@[simp] theorem State.updL_runs (s : State) (lid : Nat) (f : Launch → Launch) : (s.updL lid f).runs = s.runs := rfl
@[simp] theorem State.updL_cores (s : State) (lid : Nat) (f : Launch → Launch) : (s.updL lid f).cores = s.cores := rfl
@[simp] theorem State.updL_chains (s : State) (lid : Nat) (f : Launch → Launch) : (s.updL lid f).chains = s.chains := rfl
@[simp] theorem State.updL_frames (s : State) (lid : Nat) (f : Launch → Launch) : (s.updL lid f).frames = s.frames := rfl
@[simp] theorem State.updL_hands (s : State) (lid : Nat) (f : Launch → Launch) : (s.updL lid f).hands = s.hands := rfl
@[simp] theorem State.updL_binds (s : State) (lid : Nat) (f : Launch → Launch) : (s.updL lid f).binds = s.binds := rfl
@[simp] theorem State.updL_quotas (s : State) (lid : Nat) (f : Launch → Launch) : (s.updL lid f).quotas = s.quotas := rfl
@[simp] theorem State.updL_spaces (s : State) (lid : Nat) (f : Launch → Launch) : (s.updL lid f).spaces = s.spaces := rfl
@[simp] theorem State.updL_dir (s : State) (lid : Nat) (f : Launch → Launch) : (s.updL lid f).dir = s.dir := rfl
@[simp] theorem State.updL_filters (s : State) (lid : Nat) (f : Launch → Launch) : (s.updL lid f).filters = s.filters := rfl
@[simp] theorem State.updL_probes (s : State) (lid : Nat) (f : Launch → Launch) : (s.updL lid f).probes = s.probes := rfl
@[simp] theorem State.updL_moves (s : State) (lid : Nat) (f : Launch → Launch) : (s.updL lid f).moves = s.moves := rfl
@[simp] theorem State.updL_migr (s : State) (lid : Nat) (f : Launch → Launch) : (s.updL lid f).migr = s.migr := rfl
@[simp] theorem State.updL_vers (s : State) (lid : Nat) (f : Launch → Launch) : (s.updL lid f).vers = s.vers := rfl
@[simp] theorem State.updL_homes (s : State) (lid : Nat) (f : Launch → Launch) : (s.updL lid f).homes = s.homes := rfl
@[simp] theorem State.updL_lockSets (s : State) (lid : Nat) (f : Launch → Launch) : (s.updL lid f).lockSets = s.lockSets := rfl
@[simp] theorem State.updL_mail (s : State) (lid : Nat) (f : Launch → Launch) : (s.updL lid f).mail = s.mail := rfl
@[simp] theorem State.updL_declineQ (s : State) (lid : Nat) (f : Launch → Launch) : (s.updL lid f).declineQ = s.declineQ := rfl
@[simp] theorem State.updL_mailCount (s : State) (lid : Nat) (f : Launch → Launch) : (s.updL lid f).mailCount = s.mailCount := rfl
@[simp] theorem State.updL_mailReason (s : State) (lid : Nat) (f : Launch → Launch) : (s.updL lid f).mailReason = s.mailReason := rfl
@[simp] theorem State.updL_mailSlot (s : State) (lid : Nat) (f : Launch → Launch) : (s.updL lid f).mailSlot = s.mailSlot := rfl
@[simp] theorem State.updL_ownHome (s : State) (lid : Nat) (f : Launch → Launch) : (s.updL lid f).ownHome = s.ownHome := rfl
@[simp] theorem State.updL_filterAt (s : State) (lid : Nat) (f : Launch → Launch) : (s.updL lid f).filterAt = s.filterAt := rfl
@[simp] theorem State.updL_incoming (s : State) (lid : Nat) (f : Launch → Launch) : (s.updL lid f).incoming = s.incoming := rfl
@[simp] theorem State.updL_tells (s : State) (lid : Nat) (f : Launch → Launch) : (s.updL lid f).tells = s.tells := rfl
@[simp] theorem State.updL_reqs (s : State) (lid : Nat) (f : Launch → Launch) : (s.updL lid f).reqs = s.reqs := rfl
@[simp] theorem State.updL_flows (s : State) (lid : Nat) (f : Launch → Launch) : (s.updL lid f).flows = s.flows := rfl
@[simp] theorem State.updL_filts (s : State) (lid : Nat) (f : Launch → Launch) : (s.updL lid f).filts = s.filts := rfl
@[simp] theorem State.updL_heldFlags (s : State) (lid : Nat) (f : Launch → Launch) : (s.updL lid f).heldFlags = s.heldFlags := rfl
@[simp] theorem State.updL_stalled (s : State) (lid : Nat) (f : Launch → Launch) : (s.updL lid f).stalled = s.stalled := rfl
@[simp] theorem State.updL_refusals (s : State) (lid : Nat) (f : Launch → Launch) : (s.updL lid f).refusals = s.refusals := rfl
@[simp] theorem State.updL_reach (s : State) (lid : Nat) (f : Launch → Launch) : (s.updL lid f).reach = s.reach := rfl
@[simp] theorem State.updL_links (s : State) (lid : Nat) (f : Launch → Launch) : (s.updL lid f).links = s.links := rfl
@[simp] theorem State.updL_fxcnt (s : State) (lid : Nat) (f : Launch → Launch) : (s.updL lid f).fxcnt = s.fxcnt := rfl
@[simp] theorem State.updL_lattices (s : State) (lid : Nat) (f : Launch → Launch) : (s.updL lid f).lattices = s.lattices := rfl
@[simp] theorem State.updL_change (s : State) (lid : Nat) (f : Launch → Launch) : (s.updL lid f).change = s.change := rfl
@[simp] theorem State.updL_queues (s : State) (lid : Nat) (f : Launch → Launch) : (s.updL lid f).queues = s.queues := rfl
@[simp] theorem State.updL_history (s : State) (lid : Nat) (f : Launch → Launch) : (s.updL lid f).history = s.history := rfl
@[simp] theorem State.updL_gangs (s : State) (lid : Nat) (f : Launch → Launch) : (s.updL lid f).gangs = s.gangs := rfl
@[simp] theorem State.updL_gangSeq (s : State) (lid : Nat) (f : Launch → Launch) : (s.updL lid f).gangSeq = s.gangSeq := rfl
@[simp] theorem State.updL_energy (s : State) (lid : Nat) (f : Launch → Launch) : (s.updL lid f).energy = s.energy := rfl
@[simp] theorem State.updL_therm (s : State) (lid : Nat) (f : Launch → Launch) : (s.updL lid f).therm = s.therm := rfl
@[simp] theorem State.updL_mgmt (s : State) (lid : Nat) (f : Launch → Launch) : (s.updL lid f).mgmt = s.mgmt := rfl
@[simp] theorem State.updL_roots (s : State) (lid : Nat) (f : Launch → Launch) : (s.updL lid f).roots = s.roots := rfl
@[simp] theorem State.updL_powered (s : State) (lid : Nat) (f : Launch → Launch) : (s.updL lid f).powered = s.powered := rfl
@[simp] theorem State.updL_halted (s : State) (lid : Nat) (f : Launch → Launch) : (s.updL lid f).halted = s.halted := rfl
@[simp] theorem State.updL_dying (s : State) (lid : Nat) (f : Launch → Launch) : (s.updL lid f).dying = s.dying := rfl
@[simp] theorem State.updL_samples (s : State) (lid : Nat) (f : Launch → Launch) : (s.updL lid f).samples = s.samples := rfl
@[simp] theorem State.updL_sampledAt (s : State) (lid : Nat) (f : Launch → Launch) : (s.updL lid f).sampledAt = s.sampledAt := rfl
@[simp] theorem State.updL_booted (s : State) (lid : Nat) (f : Launch → Launch) : (s.updL lid f).booted = s.booted := rfl

/-! ### `State.updCore` -/

@[simp] theorem State.updCore_now (s : State) (k : Nat) (f : Core → Core) : (s.updCore k f).now = s.now := rfl
@[simp] theorem State.updCore_tick (s : State) (k : Nat) (f : Core → Core) : (s.updCore k f).tick = s.tick := rfl
@[simp] theorem State.updCore_nextId (s : State) (k : Nat) (f : Core → Core) : (s.updCore k f).nextId = s.nextId := rfl
@[simp] theorem State.updCore_turn (s : State) (k : Nat) (f : Core → Core) : (s.updCore k f).turn = s.turn := rfl
@[simp] theorem State.updCore_agenda (s : State) (k : Nat) (f : Core → Core) : (s.updCore k f).agenda = s.agenda := rfl
@[simp] theorem State.updCore_outbox (s : State) (k : Nat) (f : Core → Core) : (s.updCore k f).outbox = s.outbox := rfl
@[simp] theorem State.updCore_code (s : State) (k : Nat) (f : Core → Core) : (s.updCore k f).code = s.code := rfl
@[simp] theorem State.updCore_dies (s : State) (k : Nat) (f : Core → Core) : (s.updCore k f).dies = s.dies := rfl
@[simp] theorem State.updCore_stepping (s : State) (k : Nat) (f : Core → Core) : (s.updCore k f).stepping = s.stepping := rfl
@[simp] theorem State.updCore_serial (s : State) (k : Nat) (f : Core → Core) : (s.updCore k f).serial = s.serial := rfl
@[simp] theorem State.updCore_npart (s : State) (k : Nat) (f : Core → Core) : (s.updCore k f).npart = s.npart := rfl
@[simp] theorem State.updCore_npartAsked (s : State) (k : Nat) (f : Core → Core) : (s.updCore k f).npartAsked = s.npartAsked := rfl
@[simp] theorem State.updCore_cfg (s : State) (k : Nat) (f : Core → Core) : (s.updCore k f).cfg = s.cfg := rfl
@[simp] theorem State.updCore_mem (s : State) (k : Nat) (f : Core → Core) : (s.updCore k f).mem = s.mem := rfl
@[simp] theorem State.updCore_sram (s : State) (k : Nat) (f : Core → Core) : (s.updCore k f).sram = s.sram := rfl
@[simp] theorem State.updCore_poison (s : State) (k : Nat) (f : Core → Core) : (s.updCore k f).poison = s.poison := rfl
@[simp] theorem State.updCore_tlb (s : State) (k : Nat) (f : Core → Core) : (s.updCore k f).tlb = s.tlb := rfl
@[simp] theorem State.updCore_walks (s : State) (k : Nat) (f : Core → Core) : (s.updCore k f).walks = s.walks := rfl
@[simp] theorem State.updCore_l1 (s : State) (k : Nat) (f : Core → Core) : (s.updCore k f).l1 = s.l1 := rfl
@[simp] theorem State.updCore_llc (s : State) (k : Nat) (f : Core → Core) : (s.updCore k f).llc = s.llc := rfl
@[simp] theorem State.updCore_coh (s : State) (k : Nat) (f : Core → Core) : (s.updCore k f).coh = s.coh := rfl
@[simp] theorem State.updCore_regions (s : State) (k : Nat) (f : Core → Core) : (s.updCore k f).regions = s.regions := rfl
@[simp] theorem State.updCore_locks (s : State) (k : Nat) (f : Core → Core) : (s.updCore k f).locks = s.locks := rfl
@[simp] theorem State.updCore_groups (s : State) (k : Nat) (f : Core → Core) : (s.updCore k f).groups = s.groups := rfl
@[simp] theorem State.updCore_cohorts (s : State) (k : Nat) (f : Core → Core) : (s.updCore k f).cohorts = s.cohorts := rfl
@[simp] theorem State.updCore_launches (s : State) (k : Nat) (f : Core → Core) : (s.updCore k f).launches = s.launches := rfl
@[simp] theorem State.updCore_runs (s : State) (k : Nat) (f : Core → Core) : (s.updCore k f).runs = s.runs := rfl
@[simp] theorem State.updCore_cores (s : State) (k : Nat) (f : Core → Core) : (s.updCore k f).cores = s.cores.set {} k (f (s.core k)) := rfl
@[simp] theorem State.updCore_chains (s : State) (k : Nat) (f : Core → Core) : (s.updCore k f).chains = s.chains := rfl
@[simp] theorem State.updCore_frames (s : State) (k : Nat) (f : Core → Core) : (s.updCore k f).frames = s.frames := rfl
@[simp] theorem State.updCore_hands (s : State) (k : Nat) (f : Core → Core) : (s.updCore k f).hands = s.hands := rfl
@[simp] theorem State.updCore_binds (s : State) (k : Nat) (f : Core → Core) : (s.updCore k f).binds = s.binds := rfl
@[simp] theorem State.updCore_quotas (s : State) (k : Nat) (f : Core → Core) : (s.updCore k f).quotas = s.quotas := rfl
@[simp] theorem State.updCore_spaces (s : State) (k : Nat) (f : Core → Core) : (s.updCore k f).spaces = s.spaces := rfl
@[simp] theorem State.updCore_dir (s : State) (k : Nat) (f : Core → Core) : (s.updCore k f).dir = s.dir := rfl
@[simp] theorem State.updCore_filters (s : State) (k : Nat) (f : Core → Core) : (s.updCore k f).filters = s.filters := rfl
@[simp] theorem State.updCore_probes (s : State) (k : Nat) (f : Core → Core) : (s.updCore k f).probes = s.probes := rfl
@[simp] theorem State.updCore_moves (s : State) (k : Nat) (f : Core → Core) : (s.updCore k f).moves = s.moves := rfl
@[simp] theorem State.updCore_migr (s : State) (k : Nat) (f : Core → Core) : (s.updCore k f).migr = s.migr := rfl
@[simp] theorem State.updCore_vers (s : State) (k : Nat) (f : Core → Core) : (s.updCore k f).vers = s.vers := rfl
@[simp] theorem State.updCore_homes (s : State) (k : Nat) (f : Core → Core) : (s.updCore k f).homes = s.homes := rfl
@[simp] theorem State.updCore_lockSets (s : State) (k : Nat) (f : Core → Core) : (s.updCore k f).lockSets = s.lockSets := rfl
@[simp] theorem State.updCore_mail (s : State) (k : Nat) (f : Core → Core) : (s.updCore k f).mail = s.mail := rfl
@[simp] theorem State.updCore_declineQ (s : State) (k : Nat) (f : Core → Core) : (s.updCore k f).declineQ = s.declineQ := rfl
@[simp] theorem State.updCore_mailCount (s : State) (k : Nat) (f : Core → Core) : (s.updCore k f).mailCount = s.mailCount := rfl
@[simp] theorem State.updCore_mailReason (s : State) (k : Nat) (f : Core → Core) : (s.updCore k f).mailReason = s.mailReason := rfl
@[simp] theorem State.updCore_mailSlot (s : State) (k : Nat) (f : Core → Core) : (s.updCore k f).mailSlot = s.mailSlot := rfl
@[simp] theorem State.updCore_ownHome (s : State) (k : Nat) (f : Core → Core) : (s.updCore k f).ownHome = s.ownHome := rfl
@[simp] theorem State.updCore_filterAt (s : State) (k : Nat) (f : Core → Core) : (s.updCore k f).filterAt = s.filterAt := rfl
@[simp] theorem State.updCore_incoming (s : State) (k : Nat) (f : Core → Core) : (s.updCore k f).incoming = s.incoming := rfl
@[simp] theorem State.updCore_tells (s : State) (k : Nat) (f : Core → Core) : (s.updCore k f).tells = s.tells := rfl
@[simp] theorem State.updCore_reqs (s : State) (k : Nat) (f : Core → Core) : (s.updCore k f).reqs = s.reqs := rfl
@[simp] theorem State.updCore_flows (s : State) (k : Nat) (f : Core → Core) : (s.updCore k f).flows = s.flows := rfl
@[simp] theorem State.updCore_filts (s : State) (k : Nat) (f : Core → Core) : (s.updCore k f).filts = s.filts := rfl
@[simp] theorem State.updCore_heldFlags (s : State) (k : Nat) (f : Core → Core) : (s.updCore k f).heldFlags = s.heldFlags := rfl
@[simp] theorem State.updCore_stalled (s : State) (k : Nat) (f : Core → Core) : (s.updCore k f).stalled = s.stalled := rfl
@[simp] theorem State.updCore_refusals (s : State) (k : Nat) (f : Core → Core) : (s.updCore k f).refusals = s.refusals := rfl
@[simp] theorem State.updCore_reach (s : State) (k : Nat) (f : Core → Core) : (s.updCore k f).reach = s.reach := rfl
@[simp] theorem State.updCore_links (s : State) (k : Nat) (f : Core → Core) : (s.updCore k f).links = s.links := rfl
@[simp] theorem State.updCore_fxcnt (s : State) (k : Nat) (f : Core → Core) : (s.updCore k f).fxcnt = s.fxcnt := rfl
@[simp] theorem State.updCore_lattices (s : State) (k : Nat) (f : Core → Core) : (s.updCore k f).lattices = s.lattices := rfl
@[simp] theorem State.updCore_change (s : State) (k : Nat) (f : Core → Core) : (s.updCore k f).change = s.change := rfl
@[simp] theorem State.updCore_queues (s : State) (k : Nat) (f : Core → Core) : (s.updCore k f).queues = s.queues := rfl
@[simp] theorem State.updCore_history (s : State) (k : Nat) (f : Core → Core) : (s.updCore k f).history = s.history := rfl
@[simp] theorem State.updCore_gangs (s : State) (k : Nat) (f : Core → Core) : (s.updCore k f).gangs = s.gangs := rfl
@[simp] theorem State.updCore_gangSeq (s : State) (k : Nat) (f : Core → Core) : (s.updCore k f).gangSeq = s.gangSeq := rfl
@[simp] theorem State.updCore_energy (s : State) (k : Nat) (f : Core → Core) : (s.updCore k f).energy = s.energy := rfl
@[simp] theorem State.updCore_therm (s : State) (k : Nat) (f : Core → Core) : (s.updCore k f).therm = s.therm := rfl
@[simp] theorem State.updCore_mgmt (s : State) (k : Nat) (f : Core → Core) : (s.updCore k f).mgmt = s.mgmt := rfl
@[simp] theorem State.updCore_roots (s : State) (k : Nat) (f : Core → Core) : (s.updCore k f).roots = s.roots := rfl
@[simp] theorem State.updCore_powered (s : State) (k : Nat) (f : Core → Core) : (s.updCore k f).powered = s.powered := rfl
@[simp] theorem State.updCore_halted (s : State) (k : Nat) (f : Core → Core) : (s.updCore k f).halted = s.halted := rfl
@[simp] theorem State.updCore_dying (s : State) (k : Nat) (f : Core → Core) : (s.updCore k f).dying = s.dying := rfl
@[simp] theorem State.updCore_samples (s : State) (k : Nat) (f : Core → Core) : (s.updCore k f).samples = s.samples := rfl
@[simp] theorem State.updCore_sampledAt (s : State) (k : Nat) (f : Core → Core) : (s.updCore k f).sampledAt = s.sampledAt := rfl
@[simp] theorem State.updCore_booted (s : State) (k : Nat) (f : Core → Core) : (s.updCore k f).booted = s.booted := rfl

/-! ### `State.send` -/

@[simp] theorem State.send_now (s : State) (m : Msg) : (s.send m).now = s.now := rfl
@[simp] theorem State.send_tick (s : State) (m : Msg) : (s.send m).tick = s.tick := rfl
@[simp] theorem State.send_nextId (s : State) (m : Msg) : (s.send m).nextId = s.nextId := rfl
@[simp] theorem State.send_turn (s : State) (m : Msg) : (s.send m).turn = s.turn := rfl
@[simp] theorem State.send_agenda (s : State) (m : Msg) : (s.send m).agenda = s.agenda := rfl
@[simp] theorem State.send_outbox (s : State) (m : Msg) : (s.send m).outbox = s.outbox ++ [m] := rfl
@[simp] theorem State.send_code (s : State) (m : Msg) : (s.send m).code = s.code := rfl
@[simp] theorem State.send_dies (s : State) (m : Msg) : (s.send m).dies = s.dies := rfl
@[simp] theorem State.send_stepping (s : State) (m : Msg) : (s.send m).stepping = s.stepping := rfl
@[simp] theorem State.send_serial (s : State) (m : Msg) : (s.send m).serial = s.serial := rfl
@[simp] theorem State.send_npart (s : State) (m : Msg) : (s.send m).npart = s.npart := rfl
@[simp] theorem State.send_npartAsked (s : State) (m : Msg) : (s.send m).npartAsked = s.npartAsked := rfl
@[simp] theorem State.send_cfg (s : State) (m : Msg) : (s.send m).cfg = s.cfg := rfl
@[simp] theorem State.send_mem (s : State) (m : Msg) : (s.send m).mem = s.mem := rfl
@[simp] theorem State.send_sram (s : State) (m : Msg) : (s.send m).sram = s.sram := rfl
@[simp] theorem State.send_poison (s : State) (m : Msg) : (s.send m).poison = s.poison := rfl
@[simp] theorem State.send_tlb (s : State) (m : Msg) : (s.send m).tlb = s.tlb := rfl
@[simp] theorem State.send_walks (s : State) (m : Msg) : (s.send m).walks = s.walks := rfl
@[simp] theorem State.send_l1 (s : State) (m : Msg) : (s.send m).l1 = s.l1 := rfl
@[simp] theorem State.send_llc (s : State) (m : Msg) : (s.send m).llc = s.llc := rfl
@[simp] theorem State.send_coh (s : State) (m : Msg) : (s.send m).coh = s.coh := rfl
@[simp] theorem State.send_regions (s : State) (m : Msg) : (s.send m).regions = s.regions := rfl
@[simp] theorem State.send_locks (s : State) (m : Msg) : (s.send m).locks = s.locks := rfl
@[simp] theorem State.send_groups (s : State) (m : Msg) : (s.send m).groups = s.groups := rfl
@[simp] theorem State.send_cohorts (s : State) (m : Msg) : (s.send m).cohorts = s.cohorts := rfl
@[simp] theorem State.send_launches (s : State) (m : Msg) : (s.send m).launches = s.launches := rfl
@[simp] theorem State.send_runs (s : State) (m : Msg) : (s.send m).runs = s.runs := rfl
@[simp] theorem State.send_cores (s : State) (m : Msg) : (s.send m).cores = s.cores := rfl
@[simp] theorem State.send_chains (s : State) (m : Msg) : (s.send m).chains = s.chains := rfl
@[simp] theorem State.send_frames (s : State) (m : Msg) : (s.send m).frames = s.frames := rfl
@[simp] theorem State.send_hands (s : State) (m : Msg) : (s.send m).hands = s.hands := rfl
@[simp] theorem State.send_binds (s : State) (m : Msg) : (s.send m).binds = s.binds := rfl
@[simp] theorem State.send_quotas (s : State) (m : Msg) : (s.send m).quotas = s.quotas := rfl
@[simp] theorem State.send_spaces (s : State) (m : Msg) : (s.send m).spaces = s.spaces := rfl
@[simp] theorem State.send_dir (s : State) (m : Msg) : (s.send m).dir = s.dir := rfl
@[simp] theorem State.send_filters (s : State) (m : Msg) : (s.send m).filters = s.filters := rfl
@[simp] theorem State.send_probes (s : State) (m : Msg) : (s.send m).probes = s.probes := rfl
@[simp] theorem State.send_moves (s : State) (m : Msg) : (s.send m).moves = s.moves := rfl
@[simp] theorem State.send_migr (s : State) (m : Msg) : (s.send m).migr = s.migr := rfl
@[simp] theorem State.send_vers (s : State) (m : Msg) : (s.send m).vers = s.vers := rfl
@[simp] theorem State.send_homes (s : State) (m : Msg) : (s.send m).homes = s.homes := rfl
@[simp] theorem State.send_lockSets (s : State) (m : Msg) : (s.send m).lockSets = s.lockSets := rfl
@[simp] theorem State.send_mail (s : State) (m : Msg) : (s.send m).mail = s.mail := rfl
@[simp] theorem State.send_declineQ (s : State) (m : Msg) : (s.send m).declineQ = s.declineQ := rfl
@[simp] theorem State.send_mailCount (s : State) (m : Msg) : (s.send m).mailCount = s.mailCount := rfl
@[simp] theorem State.send_mailReason (s : State) (m : Msg) : (s.send m).mailReason = s.mailReason := rfl
@[simp] theorem State.send_mailSlot (s : State) (m : Msg) : (s.send m).mailSlot = s.mailSlot := rfl
@[simp] theorem State.send_ownHome (s : State) (m : Msg) : (s.send m).ownHome = s.ownHome := rfl
@[simp] theorem State.send_filterAt (s : State) (m : Msg) : (s.send m).filterAt = s.filterAt := rfl
@[simp] theorem State.send_incoming (s : State) (m : Msg) : (s.send m).incoming = s.incoming := rfl
@[simp] theorem State.send_tells (s : State) (m : Msg) : (s.send m).tells = s.tells := rfl
@[simp] theorem State.send_reqs (s : State) (m : Msg) : (s.send m).reqs = s.reqs := rfl
@[simp] theorem State.send_flows (s : State) (m : Msg) : (s.send m).flows = s.flows := rfl
@[simp] theorem State.send_filts (s : State) (m : Msg) : (s.send m).filts = s.filts := rfl
@[simp] theorem State.send_heldFlags (s : State) (m : Msg) : (s.send m).heldFlags = s.heldFlags := rfl
@[simp] theorem State.send_stalled (s : State) (m : Msg) : (s.send m).stalled = s.stalled := rfl
@[simp] theorem State.send_refusals (s : State) (m : Msg) : (s.send m).refusals = s.refusals := rfl
@[simp] theorem State.send_reach (s : State) (m : Msg) : (s.send m).reach = s.reach := rfl
@[simp] theorem State.send_links (s : State) (m : Msg) : (s.send m).links = s.links := rfl
@[simp] theorem State.send_fxcnt (s : State) (m : Msg) : (s.send m).fxcnt = s.fxcnt := rfl
@[simp] theorem State.send_lattices (s : State) (m : Msg) : (s.send m).lattices = s.lattices := rfl
@[simp] theorem State.send_change (s : State) (m : Msg) : (s.send m).change = s.change := rfl
@[simp] theorem State.send_queues (s : State) (m : Msg) : (s.send m).queues = s.queues := rfl
@[simp] theorem State.send_history (s : State) (m : Msg) : (s.send m).history = s.history := rfl
@[simp] theorem State.send_gangs (s : State) (m : Msg) : (s.send m).gangs = s.gangs := rfl
@[simp] theorem State.send_gangSeq (s : State) (m : Msg) : (s.send m).gangSeq = s.gangSeq := rfl
@[simp] theorem State.send_energy (s : State) (m : Msg) : (s.send m).energy = s.energy := rfl
@[simp] theorem State.send_therm (s : State) (m : Msg) : (s.send m).therm = s.therm := rfl
@[simp] theorem State.send_mgmt (s : State) (m : Msg) : (s.send m).mgmt = s.mgmt := rfl
@[simp] theorem State.send_roots (s : State) (m : Msg) : (s.send m).roots = s.roots := rfl
@[simp] theorem State.send_powered (s : State) (m : Msg) : (s.send m).powered = s.powered := rfl
@[simp] theorem State.send_halted (s : State) (m : Msg) : (s.send m).halted = s.halted := rfl
@[simp] theorem State.send_dying (s : State) (m : Msg) : (s.send m).dying = s.dying := rfl
@[simp] theorem State.send_samples (s : State) (m : Msg) : (s.send m).samples = s.samples := rfl
@[simp] theorem State.send_sampledAt (s : State) (m : Msg) : (s.send m).sampledAt = s.sampledAt := rfl
@[simp] theorem State.send_booted (s : State) (m : Msg) : (s.send m).booted = s.booted := rfl

/-! ### `State.updLink` -/

@[simp] theorem State.updLink_now (s : State) (k : Nat) (f : Link → Link) : (s.updLink k f).now = s.now := rfl
@[simp] theorem State.updLink_tick (s : State) (k : Nat) (f : Link → Link) : (s.updLink k f).tick = s.tick := rfl
@[simp] theorem State.updLink_nextId (s : State) (k : Nat) (f : Link → Link) : (s.updLink k f).nextId = s.nextId := rfl
@[simp] theorem State.updLink_turn (s : State) (k : Nat) (f : Link → Link) : (s.updLink k f).turn = s.turn := rfl
@[simp] theorem State.updLink_agenda (s : State) (k : Nat) (f : Link → Link) : (s.updLink k f).agenda = s.agenda := rfl
@[simp] theorem State.updLink_outbox (s : State) (k : Nat) (f : Link → Link) : (s.updLink k f).outbox = s.outbox := rfl
@[simp] theorem State.updLink_code (s : State) (k : Nat) (f : Link → Link) : (s.updLink k f).code = s.code := rfl
@[simp] theorem State.updLink_dies (s : State) (k : Nat) (f : Link → Link) : (s.updLink k f).dies = s.dies := rfl
@[simp] theorem State.updLink_stepping (s : State) (k : Nat) (f : Link → Link) : (s.updLink k f).stepping = s.stepping := rfl
@[simp] theorem State.updLink_serial (s : State) (k : Nat) (f : Link → Link) : (s.updLink k f).serial = s.serial := rfl
@[simp] theorem State.updLink_npart (s : State) (k : Nat) (f : Link → Link) : (s.updLink k f).npart = s.npart := rfl
@[simp] theorem State.updLink_npartAsked (s : State) (k : Nat) (f : Link → Link) : (s.updLink k f).npartAsked = s.npartAsked := rfl
@[simp] theorem State.updLink_cfg (s : State) (k : Nat) (f : Link → Link) : (s.updLink k f).cfg = s.cfg := rfl
@[simp] theorem State.updLink_mem (s : State) (k : Nat) (f : Link → Link) : (s.updLink k f).mem = s.mem := rfl
@[simp] theorem State.updLink_sram (s : State) (k : Nat) (f : Link → Link) : (s.updLink k f).sram = s.sram := rfl
@[simp] theorem State.updLink_poison (s : State) (k : Nat) (f : Link → Link) : (s.updLink k f).poison = s.poison := rfl
@[simp] theorem State.updLink_tlb (s : State) (k : Nat) (f : Link → Link) : (s.updLink k f).tlb = s.tlb := rfl
@[simp] theorem State.updLink_walks (s : State) (k : Nat) (f : Link → Link) : (s.updLink k f).walks = s.walks := rfl
@[simp] theorem State.updLink_l1 (s : State) (k : Nat) (f : Link → Link) : (s.updLink k f).l1 = s.l1 := rfl
@[simp] theorem State.updLink_llc (s : State) (k : Nat) (f : Link → Link) : (s.updLink k f).llc = s.llc := rfl
@[simp] theorem State.updLink_coh (s : State) (k : Nat) (f : Link → Link) : (s.updLink k f).coh = s.coh := rfl
@[simp] theorem State.updLink_regions (s : State) (k : Nat) (f : Link → Link) : (s.updLink k f).regions = s.regions := rfl
@[simp] theorem State.updLink_locks (s : State) (k : Nat) (f : Link → Link) : (s.updLink k f).locks = s.locks := rfl
@[simp] theorem State.updLink_groups (s : State) (k : Nat) (f : Link → Link) : (s.updLink k f).groups = s.groups := rfl
@[simp] theorem State.updLink_cohorts (s : State) (k : Nat) (f : Link → Link) : (s.updLink k f).cohorts = s.cohorts := rfl
@[simp] theorem State.updLink_launches (s : State) (k : Nat) (f : Link → Link) : (s.updLink k f).launches = s.launches := rfl
@[simp] theorem State.updLink_runs (s : State) (k : Nat) (f : Link → Link) : (s.updLink k f).runs = s.runs := rfl
@[simp] theorem State.updLink_cores (s : State) (k : Nat) (f : Link → Link) : (s.updLink k f).cores = s.cores := rfl
@[simp] theorem State.updLink_chains (s : State) (k : Nat) (f : Link → Link) : (s.updLink k f).chains = s.chains := rfl
@[simp] theorem State.updLink_frames (s : State) (k : Nat) (f : Link → Link) : (s.updLink k f).frames = s.frames := rfl
@[simp] theorem State.updLink_hands (s : State) (k : Nat) (f : Link → Link) : (s.updLink k f).hands = s.hands := rfl
@[simp] theorem State.updLink_binds (s : State) (k : Nat) (f : Link → Link) : (s.updLink k f).binds = s.binds := rfl
@[simp] theorem State.updLink_quotas (s : State) (k : Nat) (f : Link → Link) : (s.updLink k f).quotas = s.quotas := rfl
@[simp] theorem State.updLink_spaces (s : State) (k : Nat) (f : Link → Link) : (s.updLink k f).spaces = s.spaces := rfl
@[simp] theorem State.updLink_dir (s : State) (k : Nat) (f : Link → Link) : (s.updLink k f).dir = s.dir := rfl
@[simp] theorem State.updLink_filters (s : State) (k : Nat) (f : Link → Link) : (s.updLink k f).filters = s.filters := rfl
@[simp] theorem State.updLink_probes (s : State) (k : Nat) (f : Link → Link) : (s.updLink k f).probes = s.probes := rfl
@[simp] theorem State.updLink_moves (s : State) (k : Nat) (f : Link → Link) : (s.updLink k f).moves = s.moves := rfl
@[simp] theorem State.updLink_migr (s : State) (k : Nat) (f : Link → Link) : (s.updLink k f).migr = s.migr := rfl
@[simp] theorem State.updLink_vers (s : State) (k : Nat) (f : Link → Link) : (s.updLink k f).vers = s.vers := rfl
@[simp] theorem State.updLink_homes (s : State) (k : Nat) (f : Link → Link) : (s.updLink k f).homes = s.homes := rfl
@[simp] theorem State.updLink_lockSets (s : State) (k : Nat) (f : Link → Link) : (s.updLink k f).lockSets = s.lockSets := rfl
@[simp] theorem State.updLink_mail (s : State) (k : Nat) (f : Link → Link) : (s.updLink k f).mail = s.mail := rfl
@[simp] theorem State.updLink_declineQ (s : State) (k : Nat) (f : Link → Link) : (s.updLink k f).declineQ = s.declineQ := rfl
@[simp] theorem State.updLink_mailCount (s : State) (k : Nat) (f : Link → Link) : (s.updLink k f).mailCount = s.mailCount := rfl
@[simp] theorem State.updLink_mailReason (s : State) (k : Nat) (f : Link → Link) : (s.updLink k f).mailReason = s.mailReason := rfl
@[simp] theorem State.updLink_mailSlot (s : State) (k : Nat) (f : Link → Link) : (s.updLink k f).mailSlot = s.mailSlot := rfl
@[simp] theorem State.updLink_ownHome (s : State) (k : Nat) (f : Link → Link) : (s.updLink k f).ownHome = s.ownHome := rfl
@[simp] theorem State.updLink_filterAt (s : State) (k : Nat) (f : Link → Link) : (s.updLink k f).filterAt = s.filterAt := rfl
@[simp] theorem State.updLink_incoming (s : State) (k : Nat) (f : Link → Link) : (s.updLink k f).incoming = s.incoming := rfl
@[simp] theorem State.updLink_tells (s : State) (k : Nat) (f : Link → Link) : (s.updLink k f).tells = s.tells := rfl
@[simp] theorem State.updLink_reqs (s : State) (k : Nat) (f : Link → Link) : (s.updLink k f).reqs = s.reqs := rfl
@[simp] theorem State.updLink_flows (s : State) (k : Nat) (f : Link → Link) : (s.updLink k f).flows = s.flows := rfl
@[simp] theorem State.updLink_filts (s : State) (k : Nat) (f : Link → Link) : (s.updLink k f).filts = s.filts := rfl
@[simp] theorem State.updLink_heldFlags (s : State) (k : Nat) (f : Link → Link) : (s.updLink k f).heldFlags = s.heldFlags := rfl
@[simp] theorem State.updLink_stalled (s : State) (k : Nat) (f : Link → Link) : (s.updLink k f).stalled = s.stalled := rfl
@[simp] theorem State.updLink_refusals (s : State) (k : Nat) (f : Link → Link) : (s.updLink k f).refusals = s.refusals := rfl
@[simp] theorem State.updLink_reach (s : State) (k : Nat) (f : Link → Link) : (s.updLink k f).reach = s.reach := rfl
@[simp] theorem State.updLink_fxcnt (s : State) (k : Nat) (f : Link → Link) : (s.updLink k f).fxcnt = s.fxcnt := rfl
@[simp] theorem State.updLink_lattices (s : State) (k : Nat) (f : Link → Link) : (s.updLink k f).lattices = s.lattices := rfl
@[simp] theorem State.updLink_change (s : State) (k : Nat) (f : Link → Link) : (s.updLink k f).change = s.change := rfl
@[simp] theorem State.updLink_queues (s : State) (k : Nat) (f : Link → Link) : (s.updLink k f).queues = s.queues := rfl
@[simp] theorem State.updLink_history (s : State) (k : Nat) (f : Link → Link) : (s.updLink k f).history = s.history := rfl
@[simp] theorem State.updLink_gangs (s : State) (k : Nat) (f : Link → Link) : (s.updLink k f).gangs = s.gangs := rfl
@[simp] theorem State.updLink_gangSeq (s : State) (k : Nat) (f : Link → Link) : (s.updLink k f).gangSeq = s.gangSeq := rfl
@[simp] theorem State.updLink_energy (s : State) (k : Nat) (f : Link → Link) : (s.updLink k f).energy = s.energy := rfl
@[simp] theorem State.updLink_therm (s : State) (k : Nat) (f : Link → Link) : (s.updLink k f).therm = s.therm := rfl
@[simp] theorem State.updLink_mgmt (s : State) (k : Nat) (f : Link → Link) : (s.updLink k f).mgmt = s.mgmt := rfl
@[simp] theorem State.updLink_roots (s : State) (k : Nat) (f : Link → Link) : (s.updLink k f).roots = s.roots := rfl
@[simp] theorem State.updLink_powered (s : State) (k : Nat) (f : Link → Link) : (s.updLink k f).powered = s.powered := rfl
@[simp] theorem State.updLink_halted (s : State) (k : Nat) (f : Link → Link) : (s.updLink k f).halted = s.halted := rfl
@[simp] theorem State.updLink_dying (s : State) (k : Nat) (f : Link → Link) : (s.updLink k f).dying = s.dying := rfl
@[simp] theorem State.updLink_samples (s : State) (k : Nat) (f : Link → Link) : (s.updLink k f).samples = s.samples := rfl
@[simp] theorem State.updLink_sampledAt (s : State) (k : Nat) (f : Link → Link) : (s.updLink k f).sampledAt = s.sampledAt := rfl
@[simp] theorem State.updLink_booted (s : State) (k : Nat) (f : Link → Link) : (s.updLink k f).booted = s.booted := rfl

/-! ### `State.updFlow` -/

@[simp] theorem State.updFlow_now (s : State) (k : Nat) (f : Flow → Flow) : (s.updFlow k f).now = s.now := rfl
@[simp] theorem State.updFlow_tick (s : State) (k : Nat) (f : Flow → Flow) : (s.updFlow k f).tick = s.tick := rfl
@[simp] theorem State.updFlow_nextId (s : State) (k : Nat) (f : Flow → Flow) : (s.updFlow k f).nextId = s.nextId := rfl
@[simp] theorem State.updFlow_turn (s : State) (k : Nat) (f : Flow → Flow) : (s.updFlow k f).turn = s.turn := rfl
@[simp] theorem State.updFlow_agenda (s : State) (k : Nat) (f : Flow → Flow) : (s.updFlow k f).agenda = s.agenda := rfl
@[simp] theorem State.updFlow_outbox (s : State) (k : Nat) (f : Flow → Flow) : (s.updFlow k f).outbox = s.outbox := rfl
@[simp] theorem State.updFlow_code (s : State) (k : Nat) (f : Flow → Flow) : (s.updFlow k f).code = s.code := rfl
@[simp] theorem State.updFlow_dies (s : State) (k : Nat) (f : Flow → Flow) : (s.updFlow k f).dies = s.dies := rfl
@[simp] theorem State.updFlow_stepping (s : State) (k : Nat) (f : Flow → Flow) : (s.updFlow k f).stepping = s.stepping := rfl
@[simp] theorem State.updFlow_serial (s : State) (k : Nat) (f : Flow → Flow) : (s.updFlow k f).serial = s.serial := rfl
@[simp] theorem State.updFlow_npart (s : State) (k : Nat) (f : Flow → Flow) : (s.updFlow k f).npart = s.npart := rfl
@[simp] theorem State.updFlow_npartAsked (s : State) (k : Nat) (f : Flow → Flow) : (s.updFlow k f).npartAsked = s.npartAsked := rfl
@[simp] theorem State.updFlow_cfg (s : State) (k : Nat) (f : Flow → Flow) : (s.updFlow k f).cfg = s.cfg := rfl
@[simp] theorem State.updFlow_mem (s : State) (k : Nat) (f : Flow → Flow) : (s.updFlow k f).mem = s.mem := rfl
@[simp] theorem State.updFlow_sram (s : State) (k : Nat) (f : Flow → Flow) : (s.updFlow k f).sram = s.sram := rfl
@[simp] theorem State.updFlow_poison (s : State) (k : Nat) (f : Flow → Flow) : (s.updFlow k f).poison = s.poison := rfl
@[simp] theorem State.updFlow_tlb (s : State) (k : Nat) (f : Flow → Flow) : (s.updFlow k f).tlb = s.tlb := rfl
@[simp] theorem State.updFlow_walks (s : State) (k : Nat) (f : Flow → Flow) : (s.updFlow k f).walks = s.walks := rfl
@[simp] theorem State.updFlow_l1 (s : State) (k : Nat) (f : Flow → Flow) : (s.updFlow k f).l1 = s.l1 := rfl
@[simp] theorem State.updFlow_llc (s : State) (k : Nat) (f : Flow → Flow) : (s.updFlow k f).llc = s.llc := rfl
@[simp] theorem State.updFlow_coh (s : State) (k : Nat) (f : Flow → Flow) : (s.updFlow k f).coh = s.coh := rfl
@[simp] theorem State.updFlow_regions (s : State) (k : Nat) (f : Flow → Flow) : (s.updFlow k f).regions = s.regions := rfl
@[simp] theorem State.updFlow_locks (s : State) (k : Nat) (f : Flow → Flow) : (s.updFlow k f).locks = s.locks := rfl
@[simp] theorem State.updFlow_groups (s : State) (k : Nat) (f : Flow → Flow) : (s.updFlow k f).groups = s.groups := rfl
@[simp] theorem State.updFlow_cohorts (s : State) (k : Nat) (f : Flow → Flow) : (s.updFlow k f).cohorts = s.cohorts := rfl
@[simp] theorem State.updFlow_launches (s : State) (k : Nat) (f : Flow → Flow) : (s.updFlow k f).launches = s.launches := rfl
@[simp] theorem State.updFlow_runs (s : State) (k : Nat) (f : Flow → Flow) : (s.updFlow k f).runs = s.runs := rfl
@[simp] theorem State.updFlow_cores (s : State) (k : Nat) (f : Flow → Flow) : (s.updFlow k f).cores = s.cores := rfl
@[simp] theorem State.updFlow_chains (s : State) (k : Nat) (f : Flow → Flow) : (s.updFlow k f).chains = s.chains := rfl
@[simp] theorem State.updFlow_frames (s : State) (k : Nat) (f : Flow → Flow) : (s.updFlow k f).frames = s.frames := rfl
@[simp] theorem State.updFlow_hands (s : State) (k : Nat) (f : Flow → Flow) : (s.updFlow k f).hands = s.hands := rfl
@[simp] theorem State.updFlow_binds (s : State) (k : Nat) (f : Flow → Flow) : (s.updFlow k f).binds = s.binds := rfl
@[simp] theorem State.updFlow_quotas (s : State) (k : Nat) (f : Flow → Flow) : (s.updFlow k f).quotas = s.quotas := rfl
@[simp] theorem State.updFlow_spaces (s : State) (k : Nat) (f : Flow → Flow) : (s.updFlow k f).spaces = s.spaces := rfl
@[simp] theorem State.updFlow_dir (s : State) (k : Nat) (f : Flow → Flow) : (s.updFlow k f).dir = s.dir := rfl
@[simp] theorem State.updFlow_filters (s : State) (k : Nat) (f : Flow → Flow) : (s.updFlow k f).filters = s.filters := rfl
@[simp] theorem State.updFlow_probes (s : State) (k : Nat) (f : Flow → Flow) : (s.updFlow k f).probes = s.probes := rfl
@[simp] theorem State.updFlow_moves (s : State) (k : Nat) (f : Flow → Flow) : (s.updFlow k f).moves = s.moves := rfl
@[simp] theorem State.updFlow_migr (s : State) (k : Nat) (f : Flow → Flow) : (s.updFlow k f).migr = s.migr := rfl
@[simp] theorem State.updFlow_vers (s : State) (k : Nat) (f : Flow → Flow) : (s.updFlow k f).vers = s.vers := rfl
@[simp] theorem State.updFlow_homes (s : State) (k : Nat) (f : Flow → Flow) : (s.updFlow k f).homes = s.homes := rfl
@[simp] theorem State.updFlow_lockSets (s : State) (k : Nat) (f : Flow → Flow) : (s.updFlow k f).lockSets = s.lockSets := rfl
@[simp] theorem State.updFlow_mail (s : State) (k : Nat) (f : Flow → Flow) : (s.updFlow k f).mail = s.mail := rfl
@[simp] theorem State.updFlow_declineQ (s : State) (k : Nat) (f : Flow → Flow) : (s.updFlow k f).declineQ = s.declineQ := rfl
@[simp] theorem State.updFlow_mailCount (s : State) (k : Nat) (f : Flow → Flow) : (s.updFlow k f).mailCount = s.mailCount := rfl
@[simp] theorem State.updFlow_mailReason (s : State) (k : Nat) (f : Flow → Flow) : (s.updFlow k f).mailReason = s.mailReason := rfl
@[simp] theorem State.updFlow_mailSlot (s : State) (k : Nat) (f : Flow → Flow) : (s.updFlow k f).mailSlot = s.mailSlot := rfl
@[simp] theorem State.updFlow_ownHome (s : State) (k : Nat) (f : Flow → Flow) : (s.updFlow k f).ownHome = s.ownHome := rfl
@[simp] theorem State.updFlow_filterAt (s : State) (k : Nat) (f : Flow → Flow) : (s.updFlow k f).filterAt = s.filterAt := rfl
@[simp] theorem State.updFlow_incoming (s : State) (k : Nat) (f : Flow → Flow) : (s.updFlow k f).incoming = s.incoming := rfl
@[simp] theorem State.updFlow_tells (s : State) (k : Nat) (f : Flow → Flow) : (s.updFlow k f).tells = s.tells := rfl
@[simp] theorem State.updFlow_reqs (s : State) (k : Nat) (f : Flow → Flow) : (s.updFlow k f).reqs = s.reqs := rfl
@[simp] theorem State.updFlow_filts (s : State) (k : Nat) (f : Flow → Flow) : (s.updFlow k f).filts = s.filts := rfl
@[simp] theorem State.updFlow_heldFlags (s : State) (k : Nat) (f : Flow → Flow) : (s.updFlow k f).heldFlags = s.heldFlags := rfl
@[simp] theorem State.updFlow_stalled (s : State) (k : Nat) (f : Flow → Flow) : (s.updFlow k f).stalled = s.stalled := rfl
@[simp] theorem State.updFlow_refusals (s : State) (k : Nat) (f : Flow → Flow) : (s.updFlow k f).refusals = s.refusals := rfl
@[simp] theorem State.updFlow_reach (s : State) (k : Nat) (f : Flow → Flow) : (s.updFlow k f).reach = s.reach := rfl
@[simp] theorem State.updFlow_links (s : State) (k : Nat) (f : Flow → Flow) : (s.updFlow k f).links = s.links := rfl
@[simp] theorem State.updFlow_fxcnt (s : State) (k : Nat) (f : Flow → Flow) : (s.updFlow k f).fxcnt = s.fxcnt := rfl
@[simp] theorem State.updFlow_lattices (s : State) (k : Nat) (f : Flow → Flow) : (s.updFlow k f).lattices = s.lattices := rfl
@[simp] theorem State.updFlow_change (s : State) (k : Nat) (f : Flow → Flow) : (s.updFlow k f).change = s.change := rfl
@[simp] theorem State.updFlow_queues (s : State) (k : Nat) (f : Flow → Flow) : (s.updFlow k f).queues = s.queues := rfl
@[simp] theorem State.updFlow_history (s : State) (k : Nat) (f : Flow → Flow) : (s.updFlow k f).history = s.history := rfl
@[simp] theorem State.updFlow_gangs (s : State) (k : Nat) (f : Flow → Flow) : (s.updFlow k f).gangs = s.gangs := rfl
@[simp] theorem State.updFlow_gangSeq (s : State) (k : Nat) (f : Flow → Flow) : (s.updFlow k f).gangSeq = s.gangSeq := rfl
@[simp] theorem State.updFlow_energy (s : State) (k : Nat) (f : Flow → Flow) : (s.updFlow k f).energy = s.energy := rfl
@[simp] theorem State.updFlow_therm (s : State) (k : Nat) (f : Flow → Flow) : (s.updFlow k f).therm = s.therm := rfl
@[simp] theorem State.updFlow_mgmt (s : State) (k : Nat) (f : Flow → Flow) : (s.updFlow k f).mgmt = s.mgmt := rfl
@[simp] theorem State.updFlow_roots (s : State) (k : Nat) (f : Flow → Flow) : (s.updFlow k f).roots = s.roots := rfl
@[simp] theorem State.updFlow_powered (s : State) (k : Nat) (f : Flow → Flow) : (s.updFlow k f).powered = s.powered := rfl
@[simp] theorem State.updFlow_halted (s : State) (k : Nat) (f : Flow → Flow) : (s.updFlow k f).halted = s.halted := rfl
@[simp] theorem State.updFlow_dying (s : State) (k : Nat) (f : Flow → Flow) : (s.updFlow k f).dying = s.dying := rfl
@[simp] theorem State.updFlow_samples (s : State) (k : Nat) (f : Flow → Flow) : (s.updFlow k f).samples = s.samples := rfl
@[simp] theorem State.updFlow_sampledAt (s : State) (k : Nat) (f : Flow → Flow) : (s.updFlow k f).sampledAt = s.sampledAt := rfl
@[simp] theorem State.updFlow_booted (s : State) (k : Nat) (f : Flow → Flow) : (s.updFlow k f).booted = s.booted := rfl

/-! ### `State.updFilt` -/

@[simp] theorem State.updFilt_now (s : State) (k : Nat) (f : Filt → Filt) : (s.updFilt k f).now = s.now := rfl
@[simp] theorem State.updFilt_tick (s : State) (k : Nat) (f : Filt → Filt) : (s.updFilt k f).tick = s.tick := rfl
@[simp] theorem State.updFilt_nextId (s : State) (k : Nat) (f : Filt → Filt) : (s.updFilt k f).nextId = s.nextId := rfl
@[simp] theorem State.updFilt_turn (s : State) (k : Nat) (f : Filt → Filt) : (s.updFilt k f).turn = s.turn := rfl
@[simp] theorem State.updFilt_agenda (s : State) (k : Nat) (f : Filt → Filt) : (s.updFilt k f).agenda = s.agenda := rfl
@[simp] theorem State.updFilt_outbox (s : State) (k : Nat) (f : Filt → Filt) : (s.updFilt k f).outbox = s.outbox := rfl
@[simp] theorem State.updFilt_code (s : State) (k : Nat) (f : Filt → Filt) : (s.updFilt k f).code = s.code := rfl
@[simp] theorem State.updFilt_dies (s : State) (k : Nat) (f : Filt → Filt) : (s.updFilt k f).dies = s.dies := rfl
@[simp] theorem State.updFilt_stepping (s : State) (k : Nat) (f : Filt → Filt) : (s.updFilt k f).stepping = s.stepping := rfl
@[simp] theorem State.updFilt_serial (s : State) (k : Nat) (f : Filt → Filt) : (s.updFilt k f).serial = s.serial := rfl
@[simp] theorem State.updFilt_npart (s : State) (k : Nat) (f : Filt → Filt) : (s.updFilt k f).npart = s.npart := rfl
@[simp] theorem State.updFilt_npartAsked (s : State) (k : Nat) (f : Filt → Filt) : (s.updFilt k f).npartAsked = s.npartAsked := rfl
@[simp] theorem State.updFilt_cfg (s : State) (k : Nat) (f : Filt → Filt) : (s.updFilt k f).cfg = s.cfg := rfl
@[simp] theorem State.updFilt_mem (s : State) (k : Nat) (f : Filt → Filt) : (s.updFilt k f).mem = s.mem := rfl
@[simp] theorem State.updFilt_sram (s : State) (k : Nat) (f : Filt → Filt) : (s.updFilt k f).sram = s.sram := rfl
@[simp] theorem State.updFilt_poison (s : State) (k : Nat) (f : Filt → Filt) : (s.updFilt k f).poison = s.poison := rfl
@[simp] theorem State.updFilt_tlb (s : State) (k : Nat) (f : Filt → Filt) : (s.updFilt k f).tlb = s.tlb := rfl
@[simp] theorem State.updFilt_walks (s : State) (k : Nat) (f : Filt → Filt) : (s.updFilt k f).walks = s.walks := rfl
@[simp] theorem State.updFilt_l1 (s : State) (k : Nat) (f : Filt → Filt) : (s.updFilt k f).l1 = s.l1 := rfl
@[simp] theorem State.updFilt_llc (s : State) (k : Nat) (f : Filt → Filt) : (s.updFilt k f).llc = s.llc := rfl
@[simp] theorem State.updFilt_coh (s : State) (k : Nat) (f : Filt → Filt) : (s.updFilt k f).coh = s.coh := rfl
@[simp] theorem State.updFilt_regions (s : State) (k : Nat) (f : Filt → Filt) : (s.updFilt k f).regions = s.regions := rfl
@[simp] theorem State.updFilt_locks (s : State) (k : Nat) (f : Filt → Filt) : (s.updFilt k f).locks = s.locks := rfl
@[simp] theorem State.updFilt_groups (s : State) (k : Nat) (f : Filt → Filt) : (s.updFilt k f).groups = s.groups := rfl
@[simp] theorem State.updFilt_cohorts (s : State) (k : Nat) (f : Filt → Filt) : (s.updFilt k f).cohorts = s.cohorts := rfl
@[simp] theorem State.updFilt_launches (s : State) (k : Nat) (f : Filt → Filt) : (s.updFilt k f).launches = s.launches := rfl
@[simp] theorem State.updFilt_runs (s : State) (k : Nat) (f : Filt → Filt) : (s.updFilt k f).runs = s.runs := rfl
@[simp] theorem State.updFilt_cores (s : State) (k : Nat) (f : Filt → Filt) : (s.updFilt k f).cores = s.cores := rfl
@[simp] theorem State.updFilt_chains (s : State) (k : Nat) (f : Filt → Filt) : (s.updFilt k f).chains = s.chains := rfl
@[simp] theorem State.updFilt_frames (s : State) (k : Nat) (f : Filt → Filt) : (s.updFilt k f).frames = s.frames := rfl
@[simp] theorem State.updFilt_hands (s : State) (k : Nat) (f : Filt → Filt) : (s.updFilt k f).hands = s.hands := rfl
@[simp] theorem State.updFilt_binds (s : State) (k : Nat) (f : Filt → Filt) : (s.updFilt k f).binds = s.binds := rfl
@[simp] theorem State.updFilt_quotas (s : State) (k : Nat) (f : Filt → Filt) : (s.updFilt k f).quotas = s.quotas := rfl
@[simp] theorem State.updFilt_spaces (s : State) (k : Nat) (f : Filt → Filt) : (s.updFilt k f).spaces = s.spaces := rfl
@[simp] theorem State.updFilt_dir (s : State) (k : Nat) (f : Filt → Filt) : (s.updFilt k f).dir = s.dir := rfl
@[simp] theorem State.updFilt_filters (s : State) (k : Nat) (f : Filt → Filt) : (s.updFilt k f).filters = s.filters := rfl
@[simp] theorem State.updFilt_probes (s : State) (k : Nat) (f : Filt → Filt) : (s.updFilt k f).probes = s.probes := rfl
@[simp] theorem State.updFilt_moves (s : State) (k : Nat) (f : Filt → Filt) : (s.updFilt k f).moves = s.moves := rfl
@[simp] theorem State.updFilt_migr (s : State) (k : Nat) (f : Filt → Filt) : (s.updFilt k f).migr = s.migr := rfl
@[simp] theorem State.updFilt_vers (s : State) (k : Nat) (f : Filt → Filt) : (s.updFilt k f).vers = s.vers := rfl
@[simp] theorem State.updFilt_homes (s : State) (k : Nat) (f : Filt → Filt) : (s.updFilt k f).homes = s.homes := rfl
@[simp] theorem State.updFilt_lockSets (s : State) (k : Nat) (f : Filt → Filt) : (s.updFilt k f).lockSets = s.lockSets := rfl
@[simp] theorem State.updFilt_mail (s : State) (k : Nat) (f : Filt → Filt) : (s.updFilt k f).mail = s.mail := rfl
@[simp] theorem State.updFilt_declineQ (s : State) (k : Nat) (f : Filt → Filt) : (s.updFilt k f).declineQ = s.declineQ := rfl
@[simp] theorem State.updFilt_mailCount (s : State) (k : Nat) (f : Filt → Filt) : (s.updFilt k f).mailCount = s.mailCount := rfl
@[simp] theorem State.updFilt_mailReason (s : State) (k : Nat) (f : Filt → Filt) : (s.updFilt k f).mailReason = s.mailReason := rfl
@[simp] theorem State.updFilt_mailSlot (s : State) (k : Nat) (f : Filt → Filt) : (s.updFilt k f).mailSlot = s.mailSlot := rfl
@[simp] theorem State.updFilt_ownHome (s : State) (k : Nat) (f : Filt → Filt) : (s.updFilt k f).ownHome = s.ownHome := rfl
@[simp] theorem State.updFilt_filterAt (s : State) (k : Nat) (f : Filt → Filt) : (s.updFilt k f).filterAt = s.filterAt := rfl
@[simp] theorem State.updFilt_incoming (s : State) (k : Nat) (f : Filt → Filt) : (s.updFilt k f).incoming = s.incoming := rfl
@[simp] theorem State.updFilt_tells (s : State) (k : Nat) (f : Filt → Filt) : (s.updFilt k f).tells = s.tells := rfl
@[simp] theorem State.updFilt_reqs (s : State) (k : Nat) (f : Filt → Filt) : (s.updFilt k f).reqs = s.reqs := rfl
@[simp] theorem State.updFilt_flows (s : State) (k : Nat) (f : Filt → Filt) : (s.updFilt k f).flows = s.flows := rfl
@[simp] theorem State.updFilt_heldFlags (s : State) (k : Nat) (f : Filt → Filt) : (s.updFilt k f).heldFlags = s.heldFlags := rfl
@[simp] theorem State.updFilt_stalled (s : State) (k : Nat) (f : Filt → Filt) : (s.updFilt k f).stalled = s.stalled := rfl
@[simp] theorem State.updFilt_refusals (s : State) (k : Nat) (f : Filt → Filt) : (s.updFilt k f).refusals = s.refusals := rfl
@[simp] theorem State.updFilt_reach (s : State) (k : Nat) (f : Filt → Filt) : (s.updFilt k f).reach = s.reach := rfl
@[simp] theorem State.updFilt_links (s : State) (k : Nat) (f : Filt → Filt) : (s.updFilt k f).links = s.links := rfl
@[simp] theorem State.updFilt_fxcnt (s : State) (k : Nat) (f : Filt → Filt) : (s.updFilt k f).fxcnt = s.fxcnt := rfl
@[simp] theorem State.updFilt_lattices (s : State) (k : Nat) (f : Filt → Filt) : (s.updFilt k f).lattices = s.lattices := rfl
@[simp] theorem State.updFilt_change (s : State) (k : Nat) (f : Filt → Filt) : (s.updFilt k f).change = s.change := rfl
@[simp] theorem State.updFilt_queues (s : State) (k : Nat) (f : Filt → Filt) : (s.updFilt k f).queues = s.queues := rfl
@[simp] theorem State.updFilt_history (s : State) (k : Nat) (f : Filt → Filt) : (s.updFilt k f).history = s.history := rfl
@[simp] theorem State.updFilt_gangs (s : State) (k : Nat) (f : Filt → Filt) : (s.updFilt k f).gangs = s.gangs := rfl
@[simp] theorem State.updFilt_gangSeq (s : State) (k : Nat) (f : Filt → Filt) : (s.updFilt k f).gangSeq = s.gangSeq := rfl
@[simp] theorem State.updFilt_energy (s : State) (k : Nat) (f : Filt → Filt) : (s.updFilt k f).energy = s.energy := rfl
@[simp] theorem State.updFilt_therm (s : State) (k : Nat) (f : Filt → Filt) : (s.updFilt k f).therm = s.therm := rfl
@[simp] theorem State.updFilt_mgmt (s : State) (k : Nat) (f : Filt → Filt) : (s.updFilt k f).mgmt = s.mgmt := rfl
@[simp] theorem State.updFilt_roots (s : State) (k : Nat) (f : Filt → Filt) : (s.updFilt k f).roots = s.roots := rfl
@[simp] theorem State.updFilt_powered (s : State) (k : Nat) (f : Filt → Filt) : (s.updFilt k f).powered = s.powered := rfl
@[simp] theorem State.updFilt_halted (s : State) (k : Nat) (f : Filt → Filt) : (s.updFilt k f).halted = s.halted := rfl
@[simp] theorem State.updFilt_dying (s : State) (k : Nat) (f : Filt → Filt) : (s.updFilt k f).dying = s.dying := rfl
@[simp] theorem State.updFilt_samples (s : State) (k : Nat) (f : Filt → Filt) : (s.updFilt k f).samples = s.samples := rfl
@[simp] theorem State.updFilt_sampledAt (s : State) (k : Nat) (f : Filt → Filt) : (s.updFilt k f).sampledAt = s.sampledAt := rfl
@[simp] theorem State.updFilt_booted (s : State) (k : Nat) (f : Filt → Filt) : (s.updFilt k f).booted = s.booted := rfl

/-! ### `Group.mSet` -/

@[simp] theorem Group.mSet_cid (g : Group) (r : Nat) (x : VReg) : (g.mSet r x).cid = g.cid := rfl
@[simp] theorem Group.mSet_gidx (g : Group) (r : Nat) (x : VReg) : (g.mSet r x).gidx = g.gidx := rfl
@[simp] theorem Group.mSet_idx (g : Group) (r : Nat) (x : VReg) : (g.mSet r x).idx = g.idx := rfl
@[simp] theorem Group.mSet_role (g : Group) (r : Nat) (x : VReg) : (g.mSet r x).role = g.role := rfl
@[simp] theorem Group.mSet_w (g : Group) (r : Nat) (x : VReg) : (g.mSet r x).w = g.w := rfl
@[simp] theorem Group.mSet_vpc (g : Group) (r : Nat) (x : VReg) : (g.mSet r x).vpc = g.vpc := rfl
@[simp] theorem Group.mSet_s (g : Group) (r : Nat) (x : VReg) : (g.mSet r x).s = g.s := rfl
@[simp] theorem Group.mSet_v (g : Group) (r : Nat) (x : VReg) : (g.mSet r x).v = g.v := rfl
@[simp] theorem Group.mSet_scale (g : Group) (r : Nat) (x : VReg) : (g.mSet r x).scale = g.scale := rfl
@[simp] theorem Group.mSet_tag (g : Group) (r : Nat) (x : VReg) : (g.mSet r x).tag = g.tag := rfl
@[simp] theorem Group.mSet_tk (g : Group) (r : Nat) (x : VReg) : (g.mSet r x).tk = g.tk := rfl
@[simp] theorem Group.mSet_ts (g : Group) (r : Nat) (x : VReg) : (g.mSet r x).ts = g.ts := rfl
@[simp] theorem Group.mSet_th (g : Group) (r : Nat) (x : VReg) : (g.mSet r x).th = g.th := rfl
@[simp] theorem Group.mSet_vl (g : Group) (r : Nat) (x : VReg) : (g.mSet r x).vl = g.vl := rfl
@[simp] theorem Group.mSet_vtype (g : Group) (r : Nat) (x : VReg) : (g.mSet r x).vtype = g.vtype := rfl
@[simp] theorem Group.mSet_frm (g : Group) (r : Nat) (x : VReg) : (g.mSet r x).frm = g.frm := rfl
@[simp] theorem Group.mSet_fflags (g : Group) (r : Nat) (x : VReg) : (g.mSet r x).fflags = g.fflags := rfl
@[simp] theorem Group.mSet_sat (g : Group) (r : Nat) (x : VReg) : (g.mSet r x).sat = g.sat := rfl
@[simp] theorem Group.mSet_sgen (g : Group) (r : Nat) (x : VReg) : (g.mSet r x).sgen = g.sgen := rfl
@[simp] theorem Group.mSet_dmode (g : Group) (r : Nat) (x : VReg) : (g.mSet r x).dmode = g.dmode := rfl
@[simp] theorem Group.mSet_fstat (g : Group) (r : Nat) (x : VReg) : (g.mSet r x).fstat = g.fstat := rfl
@[simp] theorem Group.mSet_fft (g : Group) (r : Nat) (x : VReg) : (g.mSet r x).fft = g.fft := rfl
@[simp] theorem Group.mSet_rpz (g : Group) (r : Nat) (x : VReg) : (g.mSet r x).rpz = g.rpz := rfl
@[simp] theorem Group.mSet_rstr (g : Group) (r : Nat) (x : VReg) : (g.mSet r x).rstr = g.rstr := rfl
@[simp] theorem Group.mSet_trap (g : Group) (r : Nat) (x : VReg) : (g.mSet r x).trap = g.trap := rfl
@[simp] theorem Group.mSet_tcause (g : Group) (r : Nat) (x : VReg) : (g.mSet r x).tcause = g.tcause := rfl
@[simp] theorem Group.mSet_tepc (g : Group) (r : Nat) (x : VReg) : (g.mSet r x).tepc = g.tepc := rfl
@[simp] theorem Group.mSet_tlanes (g : Group) (r : Nat) (x : VReg) : (g.mSet r x).tlanes = g.tlanes := rfl
@[simp] theorem Group.mSet_taddr (g : Group) (r : Nat) (x : VReg) : (g.mSet r x).taddr = g.taddr := rfl
@[simp] theorem Group.mSet_parked (g : Group) (r : Nat) (x : VReg) : (g.mSet r x).parked = g.parked := rfl
@[simp] theorem Group.mSet_waits (g : Group) (r : Nat) (x : VReg) : (g.mSet r x).waits = g.waits := rfl
@[simp] theorem Group.mSet_keptWaits (g : Group) (r : Nat) (x : VReg) : (g.mSet r x).keptWaits = g.keptWaits := rfl
@[simp] theorem Group.mSet_conds (g : Group) (r : Nat) (x : VReg) : (g.mSet r x).conds = g.conds := rfl
@[simp] theorem Group.mSet_resume (g : Group) (r : Nat) (x : VReg) : (g.mSet r x).resume = g.resume := rfl
@[simp] theorem Group.mSet_triggered (g : Group) (r : Nat) (x : VReg) : (g.mSet r x).triggered = g.triggered := rfl
@[simp] theorem Group.mSet_ended (g : Group) (r : Nat) (x : VReg) : (g.mSet r x).ended = g.ended := rfl
@[simp] theorem Group.mSet_ending (g : Group) (r : Nat) (x : VReg) : (g.mSet r x).ending = g.ending := rfl
@[simp] theorem Group.mSet_stq (g : Group) (r : Nat) (x : VReg) : (g.mSet r x).stq = g.stq := rfl
@[simp] theorem Group.mSet_stqWait (g : Group) (r : Nat) (x : VReg) : (g.mSet r x).stqWait = g.stqWait := rfl
@[simp] theorem Group.mSet_acq (g : Group) (r : Nat) (x : VReg) : (g.mSet r x).acq = g.acq := rfl
@[simp] theorem Group.mSet_lanesAt (g : Group) (r : Nat) (x : VReg) : (g.mSet r x).lanesAt = g.lanesAt := rfl
@[simp] theorem Group.mSet_pend (g : Group) (r : Nat) (x : VReg) : (g.mSet r x).pend = g.pend := rfl
@[simp] theorem Group.mSet_ready (g : Group) (r : Nat) (x : VReg) : (g.mSet r x).ready = g.ready := rfl
@[simp] theorem Group.mSet_readySince (g : Group) (r : Nat) (x : VReg) : (g.mSet r x).readySince = g.readySince := rfl
@[simp] theorem Group.mSet_lost (g : Group) (r : Nat) (x : VReg) : (g.mSet r x).lost = g.lost := rfl
@[simp] theorem Group.mSet_overdueAt (g : Group) (r : Nat) (x : VReg) : (g.mSet r x).overdueAt = g.overdueAt := rfl
@[simp] theorem Group.mSet_streak (g : Group) (r : Nat) (x : VReg) : (g.mSet r x).streak = g.streak := rfl
@[simp] theorem Group.mSet_killEnd (g : Group) (r : Nat) (x : VReg) : (g.mSet r x).killEnd = g.killEnd := rfl
@[simp] theorem Group.mSet_runWaits (g : Group) (r : Nat) (x : VReg) : (g.mSet r x).runWaits = g.runWaits := rfl

/-! ### `Group.vSet` -/

@[simp] theorem Group.vSet_cid (g : Group) (r : Nat) (x : VReg) : (g.vSet r x).cid = g.cid := rfl
@[simp] theorem Group.vSet_gidx (g : Group) (r : Nat) (x : VReg) : (g.vSet r x).gidx = g.gidx := rfl
@[simp] theorem Group.vSet_idx (g : Group) (r : Nat) (x : VReg) : (g.vSet r x).idx = g.idx := rfl
@[simp] theorem Group.vSet_role (g : Group) (r : Nat) (x : VReg) : (g.vSet r x).role = g.role := rfl
@[simp] theorem Group.vSet_w (g : Group) (r : Nat) (x : VReg) : (g.vSet r x).w = g.w := rfl
@[simp] theorem Group.vSet_vpc (g : Group) (r : Nat) (x : VReg) : (g.vSet r x).vpc = g.vpc := rfl
@[simp] theorem Group.vSet_s (g : Group) (r : Nat) (x : VReg) : (g.vSet r x).s = g.s := rfl
@[simp] theorem Group.vSet_m (g : Group) (r : Nat) (x : VReg) : (g.vSet r x).m = g.m := rfl
@[simp] theorem Group.vSet_scale (g : Group) (r : Nat) (x : VReg) : (g.vSet r x).scale = g.scale := rfl
@[simp] theorem Group.vSet_tag (g : Group) (r : Nat) (x : VReg) : (g.vSet r x).tag = g.tag := rfl
@[simp] theorem Group.vSet_tk (g : Group) (r : Nat) (x : VReg) : (g.vSet r x).tk = g.tk := rfl
@[simp] theorem Group.vSet_ts (g : Group) (r : Nat) (x : VReg) : (g.vSet r x).ts = g.ts := rfl
@[simp] theorem Group.vSet_th (g : Group) (r : Nat) (x : VReg) : (g.vSet r x).th = g.th := rfl
@[simp] theorem Group.vSet_vl (g : Group) (r : Nat) (x : VReg) : (g.vSet r x).vl = g.vl := rfl
@[simp] theorem Group.vSet_vtype (g : Group) (r : Nat) (x : VReg) : (g.vSet r x).vtype = g.vtype := rfl
@[simp] theorem Group.vSet_frm (g : Group) (r : Nat) (x : VReg) : (g.vSet r x).frm = g.frm := rfl
@[simp] theorem Group.vSet_fflags (g : Group) (r : Nat) (x : VReg) : (g.vSet r x).fflags = g.fflags := rfl
@[simp] theorem Group.vSet_sat (g : Group) (r : Nat) (x : VReg) : (g.vSet r x).sat = g.sat := rfl
@[simp] theorem Group.vSet_sgen (g : Group) (r : Nat) (x : VReg) : (g.vSet r x).sgen = g.sgen := rfl
@[simp] theorem Group.vSet_dmode (g : Group) (r : Nat) (x : VReg) : (g.vSet r x).dmode = g.dmode := rfl
@[simp] theorem Group.vSet_fstat (g : Group) (r : Nat) (x : VReg) : (g.vSet r x).fstat = g.fstat := rfl
@[simp] theorem Group.vSet_fft (g : Group) (r : Nat) (x : VReg) : (g.vSet r x).fft = g.fft := rfl
@[simp] theorem Group.vSet_rpz (g : Group) (r : Nat) (x : VReg) : (g.vSet r x).rpz = g.rpz := rfl
@[simp] theorem Group.vSet_rstr (g : Group) (r : Nat) (x : VReg) : (g.vSet r x).rstr = g.rstr := rfl
@[simp] theorem Group.vSet_trap (g : Group) (r : Nat) (x : VReg) : (g.vSet r x).trap = g.trap := rfl
@[simp] theorem Group.vSet_tcause (g : Group) (r : Nat) (x : VReg) : (g.vSet r x).tcause = g.tcause := rfl
@[simp] theorem Group.vSet_tepc (g : Group) (r : Nat) (x : VReg) : (g.vSet r x).tepc = g.tepc := rfl
@[simp] theorem Group.vSet_tlanes (g : Group) (r : Nat) (x : VReg) : (g.vSet r x).tlanes = g.tlanes := rfl
@[simp] theorem Group.vSet_taddr (g : Group) (r : Nat) (x : VReg) : (g.vSet r x).taddr = g.taddr := rfl
@[simp] theorem Group.vSet_parked (g : Group) (r : Nat) (x : VReg) : (g.vSet r x).parked = g.parked := rfl
@[simp] theorem Group.vSet_waits (g : Group) (r : Nat) (x : VReg) : (g.vSet r x).waits = g.waits := rfl
@[simp] theorem Group.vSet_keptWaits (g : Group) (r : Nat) (x : VReg) : (g.vSet r x).keptWaits = g.keptWaits := rfl
@[simp] theorem Group.vSet_conds (g : Group) (r : Nat) (x : VReg) : (g.vSet r x).conds = g.conds := rfl
@[simp] theorem Group.vSet_resume (g : Group) (r : Nat) (x : VReg) : (g.vSet r x).resume = g.resume := rfl
@[simp] theorem Group.vSet_triggered (g : Group) (r : Nat) (x : VReg) : (g.vSet r x).triggered = g.triggered := rfl
@[simp] theorem Group.vSet_ended (g : Group) (r : Nat) (x : VReg) : (g.vSet r x).ended = g.ended := rfl
@[simp] theorem Group.vSet_ending (g : Group) (r : Nat) (x : VReg) : (g.vSet r x).ending = g.ending := rfl
@[simp] theorem Group.vSet_stq (g : Group) (r : Nat) (x : VReg) : (g.vSet r x).stq = g.stq := rfl
@[simp] theorem Group.vSet_stqWait (g : Group) (r : Nat) (x : VReg) : (g.vSet r x).stqWait = g.stqWait := rfl
@[simp] theorem Group.vSet_acq (g : Group) (r : Nat) (x : VReg) : (g.vSet r x).acq = g.acq := rfl
@[simp] theorem Group.vSet_lanesAt (g : Group) (r : Nat) (x : VReg) : (g.vSet r x).lanesAt = g.lanesAt := rfl
@[simp] theorem Group.vSet_pend (g : Group) (r : Nat) (x : VReg) : (g.vSet r x).pend = g.pend := rfl
@[simp] theorem Group.vSet_ready (g : Group) (r : Nat) (x : VReg) : (g.vSet r x).ready = g.ready := rfl
@[simp] theorem Group.vSet_readySince (g : Group) (r : Nat) (x : VReg) : (g.vSet r x).readySince = g.readySince := rfl
@[simp] theorem Group.vSet_lost (g : Group) (r : Nat) (x : VReg) : (g.vSet r x).lost = g.lost := rfl
@[simp] theorem Group.vSet_overdueAt (g : Group) (r : Nat) (x : VReg) : (g.vSet r x).overdueAt = g.overdueAt := rfl
@[simp] theorem Group.vSet_streak (g : Group) (r : Nat) (x : VReg) : (g.vSet r x).streak = g.streak := rfl
@[simp] theorem Group.vSet_killEnd (g : Group) (r : Nat) (x : VReg) : (g.vSet r x).killEnd = g.killEnd := rfl
@[simp] theorem Group.vSet_runWaits (g : Group) (r : Nat) (x : VReg) : (g.vSet r x).runWaits = g.runWaits := rfl

/-! ### `Group.scaleSet` -/

@[simp] theorem Group.scaleSet_cid (g : Group) (r : Nat) (x : Word64) : (g.scaleSet r x).cid = g.cid := rfl
@[simp] theorem Group.scaleSet_gidx (g : Group) (r : Nat) (x : Word64) : (g.scaleSet r x).gidx = g.gidx := rfl
@[simp] theorem Group.scaleSet_idx (g : Group) (r : Nat) (x : Word64) : (g.scaleSet r x).idx = g.idx := rfl
@[simp] theorem Group.scaleSet_role (g : Group) (r : Nat) (x : Word64) : (g.scaleSet r x).role = g.role := rfl
@[simp] theorem Group.scaleSet_w (g : Group) (r : Nat) (x : Word64) : (g.scaleSet r x).w = g.w := rfl
@[simp] theorem Group.scaleSet_vpc (g : Group) (r : Nat) (x : Word64) : (g.scaleSet r x).vpc = g.vpc := rfl
@[simp] theorem Group.scaleSet_s (g : Group) (r : Nat) (x : Word64) : (g.scaleSet r x).s = g.s := rfl
@[simp] theorem Group.scaleSet_m (g : Group) (r : Nat) (x : Word64) : (g.scaleSet r x).m = g.m := rfl
@[simp] theorem Group.scaleSet_v (g : Group) (r : Nat) (x : Word64) : (g.scaleSet r x).v = g.v := rfl
@[simp] theorem Group.scaleSet_tag (g : Group) (r : Nat) (x : Word64) : (g.scaleSet r x).tag = g.tag := rfl
@[simp] theorem Group.scaleSet_tk (g : Group) (r : Nat) (x : Word64) : (g.scaleSet r x).tk = g.tk := rfl
@[simp] theorem Group.scaleSet_ts (g : Group) (r : Nat) (x : Word64) : (g.scaleSet r x).ts = g.ts := rfl
@[simp] theorem Group.scaleSet_th (g : Group) (r : Nat) (x : Word64) : (g.scaleSet r x).th = g.th := rfl
@[simp] theorem Group.scaleSet_vl (g : Group) (r : Nat) (x : Word64) : (g.scaleSet r x).vl = g.vl := rfl
@[simp] theorem Group.scaleSet_vtype (g : Group) (r : Nat) (x : Word64) : (g.scaleSet r x).vtype = g.vtype := rfl
@[simp] theorem Group.scaleSet_frm (g : Group) (r : Nat) (x : Word64) : (g.scaleSet r x).frm = g.frm := rfl
@[simp] theorem Group.scaleSet_fflags (g : Group) (r : Nat) (x : Word64) : (g.scaleSet r x).fflags = g.fflags := rfl
@[simp] theorem Group.scaleSet_sat (g : Group) (r : Nat) (x : Word64) : (g.scaleSet r x).sat = g.sat := rfl
@[simp] theorem Group.scaleSet_sgen (g : Group) (r : Nat) (x : Word64) : (g.scaleSet r x).sgen = g.sgen := rfl
@[simp] theorem Group.scaleSet_dmode (g : Group) (r : Nat) (x : Word64) : (g.scaleSet r x).dmode = g.dmode := rfl
@[simp] theorem Group.scaleSet_fstat (g : Group) (r : Nat) (x : Word64) : (g.scaleSet r x).fstat = g.fstat := rfl
@[simp] theorem Group.scaleSet_fft (g : Group) (r : Nat) (x : Word64) : (g.scaleSet r x).fft = g.fft := rfl
@[simp] theorem Group.scaleSet_rpz (g : Group) (r : Nat) (x : Word64) : (g.scaleSet r x).rpz = g.rpz := rfl
@[simp] theorem Group.scaleSet_rstr (g : Group) (r : Nat) (x : Word64) : (g.scaleSet r x).rstr = g.rstr := rfl
@[simp] theorem Group.scaleSet_trap (g : Group) (r : Nat) (x : Word64) : (g.scaleSet r x).trap = g.trap := rfl
@[simp] theorem Group.scaleSet_tcause (g : Group) (r : Nat) (x : Word64) : (g.scaleSet r x).tcause = g.tcause := rfl
@[simp] theorem Group.scaleSet_tepc (g : Group) (r : Nat) (x : Word64) : (g.scaleSet r x).tepc = g.tepc := rfl
@[simp] theorem Group.scaleSet_tlanes (g : Group) (r : Nat) (x : Word64) : (g.scaleSet r x).tlanes = g.tlanes := rfl
@[simp] theorem Group.scaleSet_taddr (g : Group) (r : Nat) (x : Word64) : (g.scaleSet r x).taddr = g.taddr := rfl
@[simp] theorem Group.scaleSet_parked (g : Group) (r : Nat) (x : Word64) : (g.scaleSet r x).parked = g.parked := rfl
@[simp] theorem Group.scaleSet_waits (g : Group) (r : Nat) (x : Word64) : (g.scaleSet r x).waits = g.waits := rfl
@[simp] theorem Group.scaleSet_keptWaits (g : Group) (r : Nat) (x : Word64) : (g.scaleSet r x).keptWaits = g.keptWaits := rfl
@[simp] theorem Group.scaleSet_conds (g : Group) (r : Nat) (x : Word64) : (g.scaleSet r x).conds = g.conds := rfl
@[simp] theorem Group.scaleSet_resume (g : Group) (r : Nat) (x : Word64) : (g.scaleSet r x).resume = g.resume := rfl
@[simp] theorem Group.scaleSet_triggered (g : Group) (r : Nat) (x : Word64) : (g.scaleSet r x).triggered = g.triggered := rfl
@[simp] theorem Group.scaleSet_ended (g : Group) (r : Nat) (x : Word64) : (g.scaleSet r x).ended = g.ended := rfl
@[simp] theorem Group.scaleSet_ending (g : Group) (r : Nat) (x : Word64) : (g.scaleSet r x).ending = g.ending := rfl
@[simp] theorem Group.scaleSet_stq (g : Group) (r : Nat) (x : Word64) : (g.scaleSet r x).stq = g.stq := rfl
@[simp] theorem Group.scaleSet_stqWait (g : Group) (r : Nat) (x : Word64) : (g.scaleSet r x).stqWait = g.stqWait := rfl
@[simp] theorem Group.scaleSet_acq (g : Group) (r : Nat) (x : Word64) : (g.scaleSet r x).acq = g.acq := rfl
@[simp] theorem Group.scaleSet_lanesAt (g : Group) (r : Nat) (x : Word64) : (g.scaleSet r x).lanesAt = g.lanesAt := rfl
@[simp] theorem Group.scaleSet_pend (g : Group) (r : Nat) (x : Word64) : (g.scaleSet r x).pend = g.pend := rfl
@[simp] theorem Group.scaleSet_ready (g : Group) (r : Nat) (x : Word64) : (g.scaleSet r x).ready = g.ready := rfl
@[simp] theorem Group.scaleSet_readySince (g : Group) (r : Nat) (x : Word64) : (g.scaleSet r x).readySince = g.readySince := rfl
@[simp] theorem Group.scaleSet_lost (g : Group) (r : Nat) (x : Word64) : (g.scaleSet r x).lost = g.lost := rfl
@[simp] theorem Group.scaleSet_overdueAt (g : Group) (r : Nat) (x : Word64) : (g.scaleSet r x).overdueAt = g.overdueAt := rfl
@[simp] theorem Group.scaleSet_streak (g : Group) (r : Nat) (x : Word64) : (g.scaleSet r x).streak = g.streak := rfl
@[simp] theorem Group.scaleSet_killEnd (g : Group) (r : Nat) (x : Word64) : (g.scaleSet r x).killEnd = g.killEnd := rfl
@[simp] theorem Group.scaleSet_runWaits (g : Group) (r : Nat) (x : Word64) : (g.scaleSet r x).runWaits = g.runWaits := rfl

/-! ### `Group.tagSet` -/

@[simp] theorem Group.tagSet_cid (g : Group) (r : Nat) (x : Byte) : (g.tagSet r x).cid = g.cid := rfl
@[simp] theorem Group.tagSet_gidx (g : Group) (r : Nat) (x : Byte) : (g.tagSet r x).gidx = g.gidx := rfl
@[simp] theorem Group.tagSet_idx (g : Group) (r : Nat) (x : Byte) : (g.tagSet r x).idx = g.idx := rfl
@[simp] theorem Group.tagSet_role (g : Group) (r : Nat) (x : Byte) : (g.tagSet r x).role = g.role := rfl
@[simp] theorem Group.tagSet_w (g : Group) (r : Nat) (x : Byte) : (g.tagSet r x).w = g.w := rfl
@[simp] theorem Group.tagSet_vpc (g : Group) (r : Nat) (x : Byte) : (g.tagSet r x).vpc = g.vpc := rfl
@[simp] theorem Group.tagSet_s (g : Group) (r : Nat) (x : Byte) : (g.tagSet r x).s = g.s := rfl
@[simp] theorem Group.tagSet_m (g : Group) (r : Nat) (x : Byte) : (g.tagSet r x).m = g.m := rfl
@[simp] theorem Group.tagSet_v (g : Group) (r : Nat) (x : Byte) : (g.tagSet r x).v = g.v := rfl
@[simp] theorem Group.tagSet_scale (g : Group) (r : Nat) (x : Byte) : (g.tagSet r x).scale = g.scale := rfl
@[simp] theorem Group.tagSet_tk (g : Group) (r : Nat) (x : Byte) : (g.tagSet r x).tk = g.tk := rfl
@[simp] theorem Group.tagSet_ts (g : Group) (r : Nat) (x : Byte) : (g.tagSet r x).ts = g.ts := rfl
@[simp] theorem Group.tagSet_th (g : Group) (r : Nat) (x : Byte) : (g.tagSet r x).th = g.th := rfl
@[simp] theorem Group.tagSet_vl (g : Group) (r : Nat) (x : Byte) : (g.tagSet r x).vl = g.vl := rfl
@[simp] theorem Group.tagSet_vtype (g : Group) (r : Nat) (x : Byte) : (g.tagSet r x).vtype = g.vtype := rfl
@[simp] theorem Group.tagSet_frm (g : Group) (r : Nat) (x : Byte) : (g.tagSet r x).frm = g.frm := rfl
@[simp] theorem Group.tagSet_fflags (g : Group) (r : Nat) (x : Byte) : (g.tagSet r x).fflags = g.fflags := rfl
@[simp] theorem Group.tagSet_sat (g : Group) (r : Nat) (x : Byte) : (g.tagSet r x).sat = g.sat := rfl
@[simp] theorem Group.tagSet_sgen (g : Group) (r : Nat) (x : Byte) : (g.tagSet r x).sgen = g.sgen := rfl
@[simp] theorem Group.tagSet_dmode (g : Group) (r : Nat) (x : Byte) : (g.tagSet r x).dmode = g.dmode := rfl
@[simp] theorem Group.tagSet_fstat (g : Group) (r : Nat) (x : Byte) : (g.tagSet r x).fstat = g.fstat := rfl
@[simp] theorem Group.tagSet_fft (g : Group) (r : Nat) (x : Byte) : (g.tagSet r x).fft = g.fft := rfl
@[simp] theorem Group.tagSet_rpz (g : Group) (r : Nat) (x : Byte) : (g.tagSet r x).rpz = g.rpz := rfl
@[simp] theorem Group.tagSet_rstr (g : Group) (r : Nat) (x : Byte) : (g.tagSet r x).rstr = g.rstr := rfl
@[simp] theorem Group.tagSet_trap (g : Group) (r : Nat) (x : Byte) : (g.tagSet r x).trap = g.trap := rfl
@[simp] theorem Group.tagSet_tcause (g : Group) (r : Nat) (x : Byte) : (g.tagSet r x).tcause = g.tcause := rfl
@[simp] theorem Group.tagSet_tepc (g : Group) (r : Nat) (x : Byte) : (g.tagSet r x).tepc = g.tepc := rfl
@[simp] theorem Group.tagSet_tlanes (g : Group) (r : Nat) (x : Byte) : (g.tagSet r x).tlanes = g.tlanes := rfl
@[simp] theorem Group.tagSet_taddr (g : Group) (r : Nat) (x : Byte) : (g.tagSet r x).taddr = g.taddr := rfl
@[simp] theorem Group.tagSet_parked (g : Group) (r : Nat) (x : Byte) : (g.tagSet r x).parked = g.parked := rfl
@[simp] theorem Group.tagSet_waits (g : Group) (r : Nat) (x : Byte) : (g.tagSet r x).waits = g.waits := rfl
@[simp] theorem Group.tagSet_keptWaits (g : Group) (r : Nat) (x : Byte) : (g.tagSet r x).keptWaits = g.keptWaits := rfl
@[simp] theorem Group.tagSet_conds (g : Group) (r : Nat) (x : Byte) : (g.tagSet r x).conds = g.conds := rfl
@[simp] theorem Group.tagSet_resume (g : Group) (r : Nat) (x : Byte) : (g.tagSet r x).resume = g.resume := rfl
@[simp] theorem Group.tagSet_triggered (g : Group) (r : Nat) (x : Byte) : (g.tagSet r x).triggered = g.triggered := rfl
@[simp] theorem Group.tagSet_ended (g : Group) (r : Nat) (x : Byte) : (g.tagSet r x).ended = g.ended := rfl
@[simp] theorem Group.tagSet_ending (g : Group) (r : Nat) (x : Byte) : (g.tagSet r x).ending = g.ending := rfl
@[simp] theorem Group.tagSet_stq (g : Group) (r : Nat) (x : Byte) : (g.tagSet r x).stq = g.stq := rfl
@[simp] theorem Group.tagSet_stqWait (g : Group) (r : Nat) (x : Byte) : (g.tagSet r x).stqWait = g.stqWait := rfl
@[simp] theorem Group.tagSet_acq (g : Group) (r : Nat) (x : Byte) : (g.tagSet r x).acq = g.acq := rfl
@[simp] theorem Group.tagSet_lanesAt (g : Group) (r : Nat) (x : Byte) : (g.tagSet r x).lanesAt = g.lanesAt := rfl
@[simp] theorem Group.tagSet_pend (g : Group) (r : Nat) (x : Byte) : (g.tagSet r x).pend = g.pend := rfl
@[simp] theorem Group.tagSet_ready (g : Group) (r : Nat) (x : Byte) : (g.tagSet r x).ready = g.ready := rfl
@[simp] theorem Group.tagSet_readySince (g : Group) (r : Nat) (x : Byte) : (g.tagSet r x).readySince = g.readySince := rfl
@[simp] theorem Group.tagSet_lost (g : Group) (r : Nat) (x : Byte) : (g.tagSet r x).lost = g.lost := rfl
@[simp] theorem Group.tagSet_overdueAt (g : Group) (r : Nat) (x : Byte) : (g.tagSet r x).overdueAt = g.overdueAt := rfl
@[simp] theorem Group.tagSet_streak (g : Group) (r : Nat) (x : Byte) : (g.tagSet r x).streak = g.streak := rfl
@[simp] theorem Group.tagSet_killEnd (g : Group) (r : Nat) (x : Byte) : (g.tagSet r x).killEnd = g.killEnd := rfl
@[simp] theorem Group.tagSet_runWaits (g : Group) (r : Nat) (x : Byte) : (g.tagSet r x).runWaits = g.runWaits := rfl

/-! ### `Group.setTok` -/

@[simp] theorem Group.setTok_cid (g : Group) (n : Nat) (b : Bool) : (g.setTok n b).cid = g.cid := rfl
@[simp] theorem Group.setTok_gidx (g : Group) (n : Nat) (b : Bool) : (g.setTok n b).gidx = g.gidx := rfl
@[simp] theorem Group.setTok_idx (g : Group) (n : Nat) (b : Bool) : (g.setTok n b).idx = g.idx := rfl
@[simp] theorem Group.setTok_role (g : Group) (n : Nat) (b : Bool) : (g.setTok n b).role = g.role := rfl
@[simp] theorem Group.setTok_w (g : Group) (n : Nat) (b : Bool) : (g.setTok n b).w = g.w := rfl
@[simp] theorem Group.setTok_vpc (g : Group) (n : Nat) (b : Bool) : (g.setTok n b).vpc = g.vpc := rfl
@[simp] theorem Group.setTok_s (g : Group) (n : Nat) (b : Bool) : (g.setTok n b).s = g.s := rfl
@[simp] theorem Group.setTok_m (g : Group) (n : Nat) (b : Bool) : (g.setTok n b).m = g.m := rfl
@[simp] theorem Group.setTok_v (g : Group) (n : Nat) (b : Bool) : (g.setTok n b).v = g.v := rfl
@[simp] theorem Group.setTok_scale (g : Group) (n : Nat) (b : Bool) : (g.setTok n b).scale = g.scale := rfl
@[simp] theorem Group.setTok_tag (g : Group) (n : Nat) (b : Bool) : (g.setTok n b).tag = g.tag := rfl
@[simp] theorem Group.setTok_ts (g : Group) (n : Nat) (b : Bool) : (g.setTok n b).ts = g.ts := rfl
@[simp] theorem Group.setTok_th (g : Group) (n : Nat) (b : Bool) : (g.setTok n b).th = g.th := rfl
@[simp] theorem Group.setTok_vl (g : Group) (n : Nat) (b : Bool) : (g.setTok n b).vl = g.vl := rfl
@[simp] theorem Group.setTok_vtype (g : Group) (n : Nat) (b : Bool) : (g.setTok n b).vtype = g.vtype := rfl
@[simp] theorem Group.setTok_frm (g : Group) (n : Nat) (b : Bool) : (g.setTok n b).frm = g.frm := rfl
@[simp] theorem Group.setTok_fflags (g : Group) (n : Nat) (b : Bool) : (g.setTok n b).fflags = g.fflags := rfl
@[simp] theorem Group.setTok_sat (g : Group) (n : Nat) (b : Bool) : (g.setTok n b).sat = g.sat := rfl
@[simp] theorem Group.setTok_sgen (g : Group) (n : Nat) (b : Bool) : (g.setTok n b).sgen = g.sgen := rfl
@[simp] theorem Group.setTok_dmode (g : Group) (n : Nat) (b : Bool) : (g.setTok n b).dmode = g.dmode := rfl
@[simp] theorem Group.setTok_fstat (g : Group) (n : Nat) (b : Bool) : (g.setTok n b).fstat = g.fstat := rfl
@[simp] theorem Group.setTok_fft (g : Group) (n : Nat) (b : Bool) : (g.setTok n b).fft = g.fft := rfl
@[simp] theorem Group.setTok_rpz (g : Group) (n : Nat) (b : Bool) : (g.setTok n b).rpz = g.rpz := rfl
@[simp] theorem Group.setTok_rstr (g : Group) (n : Nat) (b : Bool) : (g.setTok n b).rstr = g.rstr := rfl
@[simp] theorem Group.setTok_trap (g : Group) (n : Nat) (b : Bool) : (g.setTok n b).trap = g.trap := rfl
@[simp] theorem Group.setTok_tcause (g : Group) (n : Nat) (b : Bool) : (g.setTok n b).tcause = g.tcause := rfl
@[simp] theorem Group.setTok_tepc (g : Group) (n : Nat) (b : Bool) : (g.setTok n b).tepc = g.tepc := rfl
@[simp] theorem Group.setTok_tlanes (g : Group) (n : Nat) (b : Bool) : (g.setTok n b).tlanes = g.tlanes := rfl
@[simp] theorem Group.setTok_taddr (g : Group) (n : Nat) (b : Bool) : (g.setTok n b).taddr = g.taddr := rfl
@[simp] theorem Group.setTok_parked (g : Group) (n : Nat) (b : Bool) : (g.setTok n b).parked = g.parked := rfl
@[simp] theorem Group.setTok_waits (g : Group) (n : Nat) (b : Bool) : (g.setTok n b).waits = g.waits := rfl
@[simp] theorem Group.setTok_keptWaits (g : Group) (n : Nat) (b : Bool) : (g.setTok n b).keptWaits = g.keptWaits := rfl
@[simp] theorem Group.setTok_conds (g : Group) (n : Nat) (b : Bool) : (g.setTok n b).conds = g.conds := rfl
@[simp] theorem Group.setTok_resume (g : Group) (n : Nat) (b : Bool) : (g.setTok n b).resume = g.resume := rfl
@[simp] theorem Group.setTok_triggered (g : Group) (n : Nat) (b : Bool) : (g.setTok n b).triggered = g.triggered := rfl
@[simp] theorem Group.setTok_ended (g : Group) (n : Nat) (b : Bool) : (g.setTok n b).ended = g.ended := rfl
@[simp] theorem Group.setTok_ending (g : Group) (n : Nat) (b : Bool) : (g.setTok n b).ending = g.ending := rfl
@[simp] theorem Group.setTok_stq (g : Group) (n : Nat) (b : Bool) : (g.setTok n b).stq = g.stq := rfl
@[simp] theorem Group.setTok_stqWait (g : Group) (n : Nat) (b : Bool) : (g.setTok n b).stqWait = g.stqWait := rfl
@[simp] theorem Group.setTok_acq (g : Group) (n : Nat) (b : Bool) : (g.setTok n b).acq = g.acq := rfl
@[simp] theorem Group.setTok_lanesAt (g : Group) (n : Nat) (b : Bool) : (g.setTok n b).lanesAt = g.lanesAt := rfl
@[simp] theorem Group.setTok_pend (g : Group) (n : Nat) (b : Bool) : (g.setTok n b).pend = g.pend := rfl
@[simp] theorem Group.setTok_ready (g : Group) (n : Nat) (b : Bool) : (g.setTok n b).ready = g.ready := rfl
@[simp] theorem Group.setTok_readySince (g : Group) (n : Nat) (b : Bool) : (g.setTok n b).readySince = g.readySince := rfl
@[simp] theorem Group.setTok_lost (g : Group) (n : Nat) (b : Bool) : (g.setTok n b).lost = g.lost := rfl
@[simp] theorem Group.setTok_overdueAt (g : Group) (n : Nat) (b : Bool) : (g.setTok n b).overdueAt = g.overdueAt := rfl
@[simp] theorem Group.setTok_streak (g : Group) (n : Nat) (b : Bool) : (g.setTok n b).streak = g.streak := rfl
@[simp] theorem Group.setTok_killEnd (g : Group) (n : Nat) (b : Bool) : (g.setTok n b).killEnd = g.killEnd := rfl
@[simp] theorem Group.setTok_runWaits (g : Group) (n : Nat) (b : Bool) : (g.setTok n b).runWaits = g.runWaits := rfl

/-! ### `Group.orFlags` -/

@[simp] theorem Group.orFlags_cid (g : Group) (n : Nat) : (g.orFlags n).cid = g.cid := rfl
@[simp] theorem Group.orFlags_gidx (g : Group) (n : Nat) : (g.orFlags n).gidx = g.gidx := rfl
@[simp] theorem Group.orFlags_idx (g : Group) (n : Nat) : (g.orFlags n).idx = g.idx := rfl
@[simp] theorem Group.orFlags_role (g : Group) (n : Nat) : (g.orFlags n).role = g.role := rfl
@[simp] theorem Group.orFlags_w (g : Group) (n : Nat) : (g.orFlags n).w = g.w := rfl
@[simp] theorem Group.orFlags_vpc (g : Group) (n : Nat) : (g.orFlags n).vpc = g.vpc := rfl
@[simp] theorem Group.orFlags_s (g : Group) (n : Nat) : (g.orFlags n).s = g.s := rfl
@[simp] theorem Group.orFlags_m (g : Group) (n : Nat) : (g.orFlags n).m = g.m := rfl
@[simp] theorem Group.orFlags_v (g : Group) (n : Nat) : (g.orFlags n).v = g.v := rfl
@[simp] theorem Group.orFlags_scale (g : Group) (n : Nat) : (g.orFlags n).scale = g.scale := rfl
@[simp] theorem Group.orFlags_tag (g : Group) (n : Nat) : (g.orFlags n).tag = g.tag := rfl
@[simp] theorem Group.orFlags_tk (g : Group) (n : Nat) : (g.orFlags n).tk = g.tk := rfl
@[simp] theorem Group.orFlags_ts (g : Group) (n : Nat) : (g.orFlags n).ts = g.ts := rfl
@[simp] theorem Group.orFlags_th (g : Group) (n : Nat) : (g.orFlags n).th = g.th := rfl
@[simp] theorem Group.orFlags_vl (g : Group) (n : Nat) : (g.orFlags n).vl = g.vl := rfl
@[simp] theorem Group.orFlags_vtype (g : Group) (n : Nat) : (g.orFlags n).vtype = g.vtype := rfl
@[simp] theorem Group.orFlags_frm (g : Group) (n : Nat) : (g.orFlags n).frm = g.frm := rfl
@[simp] theorem Group.orFlags_sat (g : Group) (n : Nat) : (g.orFlags n).sat = g.sat := rfl
@[simp] theorem Group.orFlags_sgen (g : Group) (n : Nat) : (g.orFlags n).sgen = g.sgen := rfl
@[simp] theorem Group.orFlags_dmode (g : Group) (n : Nat) : (g.orFlags n).dmode = g.dmode := rfl
@[simp] theorem Group.orFlags_fstat (g : Group) (n : Nat) : (g.orFlags n).fstat = g.fstat := rfl
@[simp] theorem Group.orFlags_fft (g : Group) (n : Nat) : (g.orFlags n).fft = g.fft := rfl
@[simp] theorem Group.orFlags_rpz (g : Group) (n : Nat) : (g.orFlags n).rpz = g.rpz := rfl
@[simp] theorem Group.orFlags_rstr (g : Group) (n : Nat) : (g.orFlags n).rstr = g.rstr := rfl
@[simp] theorem Group.orFlags_trap (g : Group) (n : Nat) : (g.orFlags n).trap = g.trap := rfl
@[simp] theorem Group.orFlags_tcause (g : Group) (n : Nat) : (g.orFlags n).tcause = g.tcause := rfl
@[simp] theorem Group.orFlags_tepc (g : Group) (n : Nat) : (g.orFlags n).tepc = g.tepc := rfl
@[simp] theorem Group.orFlags_tlanes (g : Group) (n : Nat) : (g.orFlags n).tlanes = g.tlanes := rfl
@[simp] theorem Group.orFlags_taddr (g : Group) (n : Nat) : (g.orFlags n).taddr = g.taddr := rfl
@[simp] theorem Group.orFlags_parked (g : Group) (n : Nat) : (g.orFlags n).parked = g.parked := rfl
@[simp] theorem Group.orFlags_waits (g : Group) (n : Nat) : (g.orFlags n).waits = g.waits := rfl
@[simp] theorem Group.orFlags_keptWaits (g : Group) (n : Nat) : (g.orFlags n).keptWaits = g.keptWaits := rfl
@[simp] theorem Group.orFlags_conds (g : Group) (n : Nat) : (g.orFlags n).conds = g.conds := rfl
@[simp] theorem Group.orFlags_resume (g : Group) (n : Nat) : (g.orFlags n).resume = g.resume := rfl
@[simp] theorem Group.orFlags_triggered (g : Group) (n : Nat) : (g.orFlags n).triggered = g.triggered := rfl
@[simp] theorem Group.orFlags_ended (g : Group) (n : Nat) : (g.orFlags n).ended = g.ended := rfl
@[simp] theorem Group.orFlags_ending (g : Group) (n : Nat) : (g.orFlags n).ending = g.ending := rfl
@[simp] theorem Group.orFlags_stq (g : Group) (n : Nat) : (g.orFlags n).stq = g.stq := rfl
@[simp] theorem Group.orFlags_stqWait (g : Group) (n : Nat) : (g.orFlags n).stqWait = g.stqWait := rfl
@[simp] theorem Group.orFlags_acq (g : Group) (n : Nat) : (g.orFlags n).acq = g.acq := rfl
@[simp] theorem Group.orFlags_lanesAt (g : Group) (n : Nat) : (g.orFlags n).lanesAt = g.lanesAt := rfl
@[simp] theorem Group.orFlags_pend (g : Group) (n : Nat) : (g.orFlags n).pend = g.pend := rfl
@[simp] theorem Group.orFlags_ready (g : Group) (n : Nat) : (g.orFlags n).ready = g.ready := rfl
@[simp] theorem Group.orFlags_readySince (g : Group) (n : Nat) : (g.orFlags n).readySince = g.readySince := rfl
@[simp] theorem Group.orFlags_lost (g : Group) (n : Nat) : (g.orFlags n).lost = g.lost := rfl
@[simp] theorem Group.orFlags_overdueAt (g : Group) (n : Nat) : (g.orFlags n).overdueAt = g.overdueAt := rfl
@[simp] theorem Group.orFlags_streak (g : Group) (n : Nat) : (g.orFlags n).streak = g.streak := rfl
@[simp] theorem Group.orFlags_killEnd (g : Group) (n : Nat) : (g.orFlags n).killEnd = g.killEnd := rfl
@[simp] theorem Group.orFlags_runWaits (g : Group) (n : Nat) : (g.orFlags n).runWaits = g.runWaits := rfl

/-! ### `Group.sSet` -/

@[simp] theorem Group.sSet_cid (g : Group) (r : Nat) (x : Word64) : (g.sSet r x).cid = g.cid := by
  unfold Group.sSet; split <;> rfl
@[simp] theorem Group.sSet_gidx (g : Group) (r : Nat) (x : Word64) : (g.sSet r x).gidx = g.gidx := by
  unfold Group.sSet; split <;> rfl
@[simp] theorem Group.sSet_idx (g : Group) (r : Nat) (x : Word64) : (g.sSet r x).idx = g.idx := by
  unfold Group.sSet; split <;> rfl
@[simp] theorem Group.sSet_role (g : Group) (r : Nat) (x : Word64) : (g.sSet r x).role = g.role := by
  unfold Group.sSet; split <;> rfl
@[simp] theorem Group.sSet_w (g : Group) (r : Nat) (x : Word64) : (g.sSet r x).w = g.w := by
  unfold Group.sSet; split <;> rfl
@[simp] theorem Group.sSet_vpc (g : Group) (r : Nat) (x : Word64) : (g.sSet r x).vpc = g.vpc := by
  unfold Group.sSet; split <;> rfl
@[simp] theorem Group.sSet_m (g : Group) (r : Nat) (x : Word64) : (g.sSet r x).m = g.m := by
  unfold Group.sSet; split <;> rfl
@[simp] theorem Group.sSet_v (g : Group) (r : Nat) (x : Word64) : (g.sSet r x).v = g.v := by
  unfold Group.sSet; split <;> rfl
@[simp] theorem Group.sSet_scale (g : Group) (r : Nat) (x : Word64) : (g.sSet r x).scale = g.scale := by
  unfold Group.sSet; split <;> rfl
@[simp] theorem Group.sSet_tag (g : Group) (r : Nat) (x : Word64) : (g.sSet r x).tag = g.tag := by
  unfold Group.sSet; split <;> rfl
@[simp] theorem Group.sSet_tk (g : Group) (r : Nat) (x : Word64) : (g.sSet r x).tk = g.tk := by
  unfold Group.sSet; split <;> rfl
@[simp] theorem Group.sSet_ts (g : Group) (r : Nat) (x : Word64) : (g.sSet r x).ts = g.ts := by
  unfold Group.sSet; split <;> rfl
@[simp] theorem Group.sSet_th (g : Group) (r : Nat) (x : Word64) : (g.sSet r x).th = g.th := by
  unfold Group.sSet; split <;> rfl
@[simp] theorem Group.sSet_vl (g : Group) (r : Nat) (x : Word64) : (g.sSet r x).vl = g.vl := by
  unfold Group.sSet; split <;> rfl
@[simp] theorem Group.sSet_vtype (g : Group) (r : Nat) (x : Word64) : (g.sSet r x).vtype = g.vtype := by
  unfold Group.sSet; split <;> rfl
@[simp] theorem Group.sSet_frm (g : Group) (r : Nat) (x : Word64) : (g.sSet r x).frm = g.frm := by
  unfold Group.sSet; split <;> rfl
@[simp] theorem Group.sSet_fflags (g : Group) (r : Nat) (x : Word64) : (g.sSet r x).fflags = g.fflags := by
  unfold Group.sSet; split <;> rfl
@[simp] theorem Group.sSet_sat (g : Group) (r : Nat) (x : Word64) : (g.sSet r x).sat = g.sat := by
  unfold Group.sSet; split <;> rfl
@[simp] theorem Group.sSet_sgen (g : Group) (r : Nat) (x : Word64) : (g.sSet r x).sgen = g.sgen := by
  unfold Group.sSet; split <;> rfl
@[simp] theorem Group.sSet_dmode (g : Group) (r : Nat) (x : Word64) : (g.sSet r x).dmode = g.dmode := by
  unfold Group.sSet; split <;> rfl
@[simp] theorem Group.sSet_fstat (g : Group) (r : Nat) (x : Word64) : (g.sSet r x).fstat = g.fstat := by
  unfold Group.sSet; split <;> rfl
@[simp] theorem Group.sSet_fft (g : Group) (r : Nat) (x : Word64) : (g.sSet r x).fft = g.fft := by
  unfold Group.sSet; split <;> rfl
@[simp] theorem Group.sSet_rpz (g : Group) (r : Nat) (x : Word64) : (g.sSet r x).rpz = g.rpz := by
  unfold Group.sSet; split <;> rfl
@[simp] theorem Group.sSet_rstr (g : Group) (r : Nat) (x : Word64) : (g.sSet r x).rstr = g.rstr := by
  unfold Group.sSet; split <;> rfl
@[simp] theorem Group.sSet_trap (g : Group) (r : Nat) (x : Word64) : (g.sSet r x).trap = g.trap := by
  unfold Group.sSet; split <;> rfl
@[simp] theorem Group.sSet_tcause (g : Group) (r : Nat) (x : Word64) : (g.sSet r x).tcause = g.tcause := by
  unfold Group.sSet; split <;> rfl
@[simp] theorem Group.sSet_tepc (g : Group) (r : Nat) (x : Word64) : (g.sSet r x).tepc = g.tepc := by
  unfold Group.sSet; split <;> rfl
@[simp] theorem Group.sSet_tlanes (g : Group) (r : Nat) (x : Word64) : (g.sSet r x).tlanes = g.tlanes := by
  unfold Group.sSet; split <;> rfl
@[simp] theorem Group.sSet_taddr (g : Group) (r : Nat) (x : Word64) : (g.sSet r x).taddr = g.taddr := by
  unfold Group.sSet; split <;> rfl
@[simp] theorem Group.sSet_parked (g : Group) (r : Nat) (x : Word64) : (g.sSet r x).parked = g.parked := by
  unfold Group.sSet; split <;> rfl
@[simp] theorem Group.sSet_waits (g : Group) (r : Nat) (x : Word64) : (g.sSet r x).waits = g.waits := by
  unfold Group.sSet; split <;> rfl
@[simp] theorem Group.sSet_keptWaits (g : Group) (r : Nat) (x : Word64) : (g.sSet r x).keptWaits = g.keptWaits := by
  unfold Group.sSet; split <;> rfl
@[simp] theorem Group.sSet_conds (g : Group) (r : Nat) (x : Word64) : (g.sSet r x).conds = g.conds := by
  unfold Group.sSet; split <;> rfl
@[simp] theorem Group.sSet_resume (g : Group) (r : Nat) (x : Word64) : (g.sSet r x).resume = g.resume := by
  unfold Group.sSet; split <;> rfl
@[simp] theorem Group.sSet_triggered (g : Group) (r : Nat) (x : Word64) : (g.sSet r x).triggered = g.triggered := by
  unfold Group.sSet; split <;> rfl
@[simp] theorem Group.sSet_ended (g : Group) (r : Nat) (x : Word64) : (g.sSet r x).ended = g.ended := by
  unfold Group.sSet; split <;> rfl
@[simp] theorem Group.sSet_ending (g : Group) (r : Nat) (x : Word64) : (g.sSet r x).ending = g.ending := by
  unfold Group.sSet; split <;> rfl
@[simp] theorem Group.sSet_stq (g : Group) (r : Nat) (x : Word64) : (g.sSet r x).stq = g.stq := by
  unfold Group.sSet; split <;> rfl
@[simp] theorem Group.sSet_stqWait (g : Group) (r : Nat) (x : Word64) : (g.sSet r x).stqWait = g.stqWait := by
  unfold Group.sSet; split <;> rfl
@[simp] theorem Group.sSet_acq (g : Group) (r : Nat) (x : Word64) : (g.sSet r x).acq = g.acq := by
  unfold Group.sSet; split <;> rfl
@[simp] theorem Group.sSet_lanesAt (g : Group) (r : Nat) (x : Word64) : (g.sSet r x).lanesAt = g.lanesAt := by
  unfold Group.sSet; split <;> rfl
@[simp] theorem Group.sSet_pend (g : Group) (r : Nat) (x : Word64) : (g.sSet r x).pend = g.pend := by
  unfold Group.sSet; split <;> rfl
@[simp] theorem Group.sSet_ready (g : Group) (r : Nat) (x : Word64) : (g.sSet r x).ready = g.ready := by
  unfold Group.sSet; split <;> rfl
@[simp] theorem Group.sSet_readySince (g : Group) (r : Nat) (x : Word64) : (g.sSet r x).readySince = g.readySince := by
  unfold Group.sSet; split <;> rfl
@[simp] theorem Group.sSet_lost (g : Group) (r : Nat) (x : Word64) : (g.sSet r x).lost = g.lost := by
  unfold Group.sSet; split <;> rfl
@[simp] theorem Group.sSet_overdueAt (g : Group) (r : Nat) (x : Word64) : (g.sSet r x).overdueAt = g.overdueAt := by
  unfold Group.sSet; split <;> rfl
@[simp] theorem Group.sSet_streak (g : Group) (r : Nat) (x : Word64) : (g.sSet r x).streak = g.streak := by
  unfold Group.sSet; split <;> rfl
@[simp] theorem Group.sSet_killEnd (g : Group) (r : Nat) (x : Word64) : (g.sSet r x).killEnd = g.killEnd := by
  unfold Group.sSet; split <;> rfl
@[simp] theorem Group.sSet_runWaits (g : Group) (r : Nat) (x : Word64) : (g.sSet r x).runWaits = g.runWaits := by
  unfold Group.sSet; split <;> rfl

/-! ### `Group.setLoc` -/

@[simp] theorem Group.setLoc_cid (g : Group) (l x : Nat) : (g.setLoc l x).cid = g.cid := by
  unfold Group.setLoc; split_ifs <;> simp
@[simp] theorem Group.setLoc_gidx (g : Group) (l x : Nat) : (g.setLoc l x).gidx = g.gidx := by
  unfold Group.setLoc; split_ifs <;> simp
@[simp] theorem Group.setLoc_idx (g : Group) (l x : Nat) : (g.setLoc l x).idx = g.idx := by
  unfold Group.setLoc; split_ifs <;> simp
@[simp] theorem Group.setLoc_role (g : Group) (l x : Nat) : (g.setLoc l x).role = g.role := by
  unfold Group.setLoc; split_ifs <;> simp
@[simp] theorem Group.setLoc_w (g : Group) (l x : Nat) : (g.setLoc l x).w = g.w := by
  unfold Group.setLoc; split_ifs <;> simp
@[simp] theorem Group.setLoc_vpc (g : Group) (l x : Nat) : (g.setLoc l x).vpc = g.vpc := by
  unfold Group.setLoc; split_ifs <;> simp
@[simp] theorem Group.setLoc_tk (g : Group) (l x : Nat) : (g.setLoc l x).tk = g.tk := by
  unfold Group.setLoc; split_ifs <;> simp
@[simp] theorem Group.setLoc_ts (g : Group) (l x : Nat) : (g.setLoc l x).ts = g.ts := by
  unfold Group.setLoc; split_ifs <;> simp
@[simp] theorem Group.setLoc_th (g : Group) (l x : Nat) : (g.setLoc l x).th = g.th := by
  unfold Group.setLoc; split_ifs <;> simp
@[simp] theorem Group.setLoc_vtype (g : Group) (l x : Nat) : (g.setLoc l x).vtype = g.vtype := by
  unfold Group.setLoc; split_ifs <;> simp
@[simp] theorem Group.setLoc_frm (g : Group) (l x : Nat) : (g.setLoc l x).frm = g.frm := by
  unfold Group.setLoc; split_ifs <;> simp
@[simp] theorem Group.setLoc_fflags (g : Group) (l x : Nat) : (g.setLoc l x).fflags = g.fflags := by
  unfold Group.setLoc; split_ifs <;> simp
@[simp] theorem Group.setLoc_sat (g : Group) (l x : Nat) : (g.setLoc l x).sat = g.sat := by
  unfold Group.setLoc; split_ifs <;> simp
@[simp] theorem Group.setLoc_sgen (g : Group) (l x : Nat) : (g.setLoc l x).sgen = g.sgen := by
  unfold Group.setLoc; split_ifs <;> simp
@[simp] theorem Group.setLoc_dmode (g : Group) (l x : Nat) : (g.setLoc l x).dmode = g.dmode := by
  unfold Group.setLoc; split_ifs <;> simp
@[simp] theorem Group.setLoc_fstat (g : Group) (l x : Nat) : (g.setLoc l x).fstat = g.fstat := by
  unfold Group.setLoc; split_ifs <;> simp
@[simp] theorem Group.setLoc_fft (g : Group) (l x : Nat) : (g.setLoc l x).fft = g.fft := by
  unfold Group.setLoc; split_ifs <;> simp
@[simp] theorem Group.setLoc_rpz (g : Group) (l x : Nat) : (g.setLoc l x).rpz = g.rpz := by
  unfold Group.setLoc; split_ifs <;> simp
@[simp] theorem Group.setLoc_rstr (g : Group) (l x : Nat) : (g.setLoc l x).rstr = g.rstr := by
  unfold Group.setLoc; split_ifs <;> simp
@[simp] theorem Group.setLoc_trap (g : Group) (l x : Nat) : (g.setLoc l x).trap = g.trap := by
  unfold Group.setLoc; split_ifs <;> simp
@[simp] theorem Group.setLoc_tcause (g : Group) (l x : Nat) : (g.setLoc l x).tcause = g.tcause := by
  unfold Group.setLoc; split_ifs <;> simp
@[simp] theorem Group.setLoc_tepc (g : Group) (l x : Nat) : (g.setLoc l x).tepc = g.tepc := by
  unfold Group.setLoc; split_ifs <;> simp
@[simp] theorem Group.setLoc_tlanes (g : Group) (l x : Nat) : (g.setLoc l x).tlanes = g.tlanes := by
  unfold Group.setLoc; split_ifs <;> simp
@[simp] theorem Group.setLoc_taddr (g : Group) (l x : Nat) : (g.setLoc l x).taddr = g.taddr := by
  unfold Group.setLoc; split_ifs <;> simp
@[simp] theorem Group.setLoc_parked (g : Group) (l x : Nat) : (g.setLoc l x).parked = g.parked := by
  unfold Group.setLoc; split_ifs <;> simp
@[simp] theorem Group.setLoc_waits (g : Group) (l x : Nat) : (g.setLoc l x).waits = g.waits := by
  unfold Group.setLoc; split_ifs <;> simp
@[simp] theorem Group.setLoc_keptWaits (g : Group) (l x : Nat) : (g.setLoc l x).keptWaits = g.keptWaits := by
  unfold Group.setLoc; split_ifs <;> simp
@[simp] theorem Group.setLoc_conds (g : Group) (l x : Nat) : (g.setLoc l x).conds = g.conds := by
  unfold Group.setLoc; split_ifs <;> simp
@[simp] theorem Group.setLoc_resume (g : Group) (l x : Nat) : (g.setLoc l x).resume = g.resume := by
  unfold Group.setLoc; split_ifs <;> simp
@[simp] theorem Group.setLoc_triggered (g : Group) (l x : Nat) : (g.setLoc l x).triggered = g.triggered := by
  unfold Group.setLoc; split_ifs <;> simp
@[simp] theorem Group.setLoc_ended (g : Group) (l x : Nat) : (g.setLoc l x).ended = g.ended := by
  unfold Group.setLoc; split_ifs <;> simp
@[simp] theorem Group.setLoc_ending (g : Group) (l x : Nat) : (g.setLoc l x).ending = g.ending := by
  unfold Group.setLoc; split_ifs <;> simp
@[simp] theorem Group.setLoc_stq (g : Group) (l x : Nat) : (g.setLoc l x).stq = g.stq := by
  unfold Group.setLoc; split_ifs <;> simp
@[simp] theorem Group.setLoc_stqWait (g : Group) (l x : Nat) : (g.setLoc l x).stqWait = g.stqWait := by
  unfold Group.setLoc; split_ifs <;> simp
@[simp] theorem Group.setLoc_acq (g : Group) (l x : Nat) : (g.setLoc l x).acq = g.acq := by
  unfold Group.setLoc; split_ifs <;> simp
@[simp] theorem Group.setLoc_lanesAt (g : Group) (l x : Nat) : (g.setLoc l x).lanesAt = g.lanesAt := by
  unfold Group.setLoc; split_ifs <;> simp
@[simp] theorem Group.setLoc_pend (g : Group) (l x : Nat) : (g.setLoc l x).pend = g.pend := by
  unfold Group.setLoc; split_ifs <;> simp
@[simp] theorem Group.setLoc_ready (g : Group) (l x : Nat) : (g.setLoc l x).ready = g.ready := by
  unfold Group.setLoc; split_ifs <;> simp
@[simp] theorem Group.setLoc_readySince (g : Group) (l x : Nat) : (g.setLoc l x).readySince = g.readySince := by
  unfold Group.setLoc; split_ifs <;> simp
@[simp] theorem Group.setLoc_lost (g : Group) (l x : Nat) : (g.setLoc l x).lost = g.lost := by
  unfold Group.setLoc; split_ifs <;> simp
@[simp] theorem Group.setLoc_overdueAt (g : Group) (l x : Nat) : (g.setLoc l x).overdueAt = g.overdueAt := by
  unfold Group.setLoc; split_ifs <;> simp
@[simp] theorem Group.setLoc_streak (g : Group) (l x : Nat) : (g.setLoc l x).streak = g.streak := by
  unfold Group.setLoc; split_ifs <;> simp
@[simp] theorem Group.setLoc_killEnd (g : Group) (l x : Nat) : (g.setLoc l x).killEnd = g.killEnd := by
  unfold Group.setLoc; split_ifs <;> simp
@[simp] theorem Group.setLoc_runWaits (g : Group) (l x : Nat) : (g.setLoc l x).runWaits = g.runWaits := by
  unfold Group.setLoc; split_ifs <;> simp

end Sys2Proof.Machine
end

