-- ==== Sys2Proof/Laws/Tab.lean ====
section
/-! SUPPORT. Reading a sparse table after a write, and its canonical form. -/

namespace Sys2Proof.Tab

variable {α : Type}

theorem find_nil (i : Nat) : find ([] : Tab α) i = none := rfl

theorem find_cons (k : Nat) (v : α) (t : Tab α) (i : Nat) : find ((k, v) :: t) i = if i = k then some v else find t i := rfl

/-- A key the table does not hold is not found. -/
theorem find_none_of_not_mem {m : Tab α} {i : Nat} (h : ∀ e ∈ m, e.1 ≠ i) : find m i = none := by
  induction m with
  | nil => rfl
  | cons e t ih =>
    obtain ⟨k, v⟩ := e
    have hk : k ≠ i := h (k, v) (by simp)
    rw [find_cons, if_neg (Ne.symm hk)]
    exact ih (fun e he => h e (by simp [he]))

theorem find_del_self (m : Tab α) (i : Nat) : find (del m i) i = none :=
  find_none_of_not_mem (fun e he => by simpa [del] using (List.mem_filter.mp he).2)

theorem find_del_of_ne {i j : Nat} (m : Tab α) (h : j ≠ i) : find (del m i) j = find m j := by
  induction m with
  | nil => rfl
  | cons e t ih =>
    obtain ⟨k, v⟩ := e
    by_cases hk : k = i
    · subst hk
      have : del ((k, v) :: t) k = del t k := by simp [del]
      rw [this, ih, find_cons, if_neg h]
    · have : del ((k, v) :: t) i = (k, v) :: del t i := by simp [del, hk]
      rw [this, find_cons, find_cons, ih]

theorem find_ins_self {t : Tab α} {i : Nat} (x : α) (h : ∀ e ∈ t, e.1 ≠ i) : find (ins i x t) i = some x := by
  induction t with
  | nil => simp [ins, find]
  | cons e t ih =>
    obtain ⟨k, v⟩ := e
    have hk : k ≠ i := h (k, v) (by simp)
    unfold ins
    split
    · simp [find_cons]
    · rw [find_cons, if_neg (Ne.symm hk)]
      exact ih (fun e he => h e (by simp [he]))

theorem find_ins_of_ne {t : Tab α} {i j : Nat} (x : α) (h : j ≠ i) : find (ins i x t) j = find t j := by
  induction t with
  | nil => simp [ins, find, h]
  | cons e t ih =>
    obtain ⟨k, v⟩ := e
    unfold ins
    split
    · rw [find_cons, if_neg h]
    · rw [find_cons, find_cons, ih]

theorem not_mem_del (m : Tab α) (i : Nat) : ∀ e ∈ del m i, e.1 ≠ i := fun e he => by
  simpa [del] using (List.mem_filter.mp he).2

@[simp] theorem find_put_self (m : Tab α) (i : Nat) (x : α) : find (put m i x) i = some x :=
  find_ins_self x (not_mem_del m i)

theorem find_put_of_ne {i j : Nat} (m : Tab α) (x : α) (h : j ≠ i) : find (put m i x) j = find m j := by
  rw [put, find_ins_of_ne x h, find_del_of_ne m h]

theorem find_put (m : Tab α) (i j : Nat) (x : α) : find (put m i x) j = if j = i then some x else find m j := by
  split
  · subst j; exact find_put_self m i x
  · exact find_put_of_ne m x ‹_›

theorem find_upd (m : Tab α) (i j : Nat) (f : α → α) : find (upd m i f) j = if j = i then (find m i).map f else find m j := by
  unfold upd
  cases h : find m i with
  | none => split <;> simp_all
  | some x => simp only [find_put, Option.map_some]

@[simp] theorem find_upd_self (m : Tab α) (i : Nat) (f : α → α) : find (upd m i f) i = (find m i).map f := by
  simp [find_upd]

theorem find_upd_of_ne {i j : Nat} (m : Tab α) (f : α → α) (h : j ≠ i) : find (upd m i f) j = find m j := by
  simp [find_upd, h]

/-- Read after write: the value written where it was written, the old one elsewhere. -/
theorem get_set [DecidableEq α] (d : α) (m : Tab α) (i j : Nat) (x : α) :
    get d (set d m i x) j = if j = i then x else get d m j := by
  unfold get set
  by_cases hx : x = d <;> by_cases hj : j = i
  · subst hj; simp [hx, find_del_self]
  · simp [hx, hj, find_del_of_ne m hj]
  · subst hj; simp [hx]
  · simp [hx, hj, find_put_of_ne m x hj]

@[simp] theorem get_set_self [DecidableEq α] (d : α) (m : Tab α) (i : Nat) (x : α) : get d (set d m i x) i = x := by
  simp [get_set]

theorem get_set_of_ne [DecidableEq α] {i j : Nat} (d : α) (m : Tab α) (x : α) (h : j ≠ i) :
    get d (set d m i x) j = get d m j := by simp [get_set, h]

/-! ### The canonical form -/

/-- The canonical form as sortedness of the keys and absence of the default. -/
theorem wf_iff [DecidableEq α] (d : α) (m : Tab α) :
    wf d m = true ↔ (m.map (·.1)).Pairwise (· < ·) ∧ ∀ e ∈ m, e.2 ≠ d := by
  induction m with
  | nil => simp [wf]
  | cons e t ih =>
    obtain ⟨k, v⟩ := e
    cases t with
    | nil => simp [wf]
    | cons e' t' =>
      obtain ⟨k', v'⟩ := e'
      simp only [wf, Bool.and_eq_true, decide_eq_true_eq, bne_iff_ne, ih]
      constructor
      · rintro ⟨⟨hv, hk⟩, hp, hd⟩
        refine ⟨?_, ?_⟩
        · rw [List.map_cons, List.pairwise_cons]
          refine ⟨fun a ha => ?_, hp⟩
          rw [List.map_cons, List.pairwise_cons] at hp
          rw [List.map_cons] at ha
          rcases List.mem_cons.mp ha with h | h
          · exact h ▸ hk
          · exact lt_trans hk (hp.1 a h)
        · intro e he
          rcases List.mem_cons.mp he with h | h
          · exact h ▸ hv
          · exact hd e h
      · rintro ⟨hp, hd⟩
        rw [List.map_cons, List.pairwise_cons] at hp
        exact ⟨⟨hd (k, v) (by simp), hp.1 k' (by simp)⟩, hp.2, fun e he => hd e (by simp [he])⟩

theorem wf_del [DecidableEq α] {d : α} {m : Tab α} (i : Nat) (h : wf d m = true) : wf d (del m i) = true := by
  rw [wf_iff] at h ⊢
  refine ⟨?_, fun e he => h.2 e (List.mem_filter.mp he).1⟩
  exact h.1.sublist ((List.filter_sublist (l := m)).map _)

theorem mem_ins {e : Nat × α} {i : Nat} {x : α} {t : Tab α} : e ∈ ins i x t ↔ e = (i, x) ∨ e ∈ t := by
  induction t with
  | nil => simp [ins]
  | cons a t ih =>
    obtain ⟨k, v⟩ := a
    unfold ins
    split
    · simp
    · simp [ih]; tauto

theorem sorted_ins {i : Nat} {x : α} {t : Tab α} (h : (t.map (·.1)).Pairwise (· < ·)) (hi : ∀ e ∈ t, e.1 ≠ i) :
    ((ins i x t).map (·.1)).Pairwise (· < ·) := by
  induction t with
  | nil => simp [ins]
  | cons a t ih =>
    obtain ⟨k, v⟩ := a
    rw [List.map_cons, List.pairwise_cons] at h
    unfold ins
    split
    · rename_i hik
      rw [List.map_cons, List.pairwise_cons]
      refine ⟨fun a ha => ?_, by rw [List.map_cons, List.pairwise_cons]; exact h⟩
      rw [List.map_cons] at ha
      rcases List.mem_cons.mp ha with h' | h'
      · exact h' ▸ hik
      · exact lt_trans hik (h.1 a h')
    · rename_i hik
      have hk : k ≠ i := hi (k, v) (by simp)
      have hlt : k < i := by omega
      rw [List.map_cons, List.pairwise_cons]
      refine ⟨fun a ha => ?_, ih h.2 (fun e he => hi e (by simp [he]))⟩
      obtain ⟨e, he, rfl⟩ := List.mem_map.mp ha
      rcases mem_ins.mp he with h' | h'
      · exact h' ▸ hlt
      · exact h.1 _ (List.mem_map_of_mem h')

theorem wf_put [DecidableEq α] {d : α} {m : Tab α} (i : Nat) {x : α} (h : wf d m = true) (hx : x ≠ d) :
    wf d (put m i x) = true := by
  have hd := wf_del i h
  rw [wf_iff] at hd ⊢
  refine ⟨sorted_ins hd.1 (not_mem_del m i), fun e he => ?_⟩
  rcases mem_ins.mp he with h' | h'
  · exact h' ▸ hx
  · exact hd.2 e h'

theorem wf_set [DecidableEq α] {d : α} {m : Tab α} (i : Nat) (x : α) (h : wf d m = true) : wf d (set d m i x) = true := by
  unfold set
  split
  · exact wf_del i h
  · exact wf_put i h ‹_›

end Sys2Proof.Tab
end

