-- ==== Sys2Proof/Laws/Issue.lean ====
section
/-! SUPPORT. What the shared operations of Ops can do: the issue of an instruction, register writes, the step past an instruction,
traps. Statements about instructions are proved from these. -/

namespace Sys2Proof.Machine

/-! ### The context of an instruction -/

/-- What `ctxOf` names: the slot's run, its group, cohort and launch. -/
theorem ctxOf_some {s : State} {c : Ctx} (h : ctxOf s = some c) :
    c.slot = s.turn ∧ s.runs.find c.slot = some c.run ∧ s.groups.find c.run.gid = some c.g ∧
      s.cohorts.find c.g.cid = some c.co ∧ s.launches.find c.co.launch = some c.la ∧ c.tick = s.tick := by
  unfold ctxOf at h
  split at h
  · cases h
  · split at h
    · cases h
    · split at h
      · cases h
      · split at h
        · cases h
        · cases h
          exact ⟨rfl, ‹_›, ‹_›, ‹_›, ‹_›, rfl⟩

/-- The accessor of an instruction is its group's. -/
theorem whoOfGid_of_ctx {s : State} {c : Ctx} (h : ctxOf s = some c) : whoOfGid s c.run.gid = some (whoOf s c) := by
  obtain ⟨-, -, hg, hc, hl, -⟩ := ctxOf_some h
  simp [whoOfGid, whoOf, hg, hc, hl]

/-! ### Issuing -/

theorem issue_ok {s s' : State} {c : Ctx} {sz : Nat} {f : Ctx → Except Trap State} (h : ctxOf s = some c) (hf : f c = .ok s') :
    issue sz s f = .next (retire sz c.slot s') := by
  simp [issue, h, hf]

theorem issue_error {s : State} {c : Ctx} {sz : Nat} {f : Ctx → Except Trap State} {t : Trap} (h : ctxOf s = some c)
    (hf : f c = .error t) : issue sz s f = .next (takeTrap c t s) := by
  simp [issue, h, hf]

/-- All an instruction can do: stop for want of a run, complete, or trap. -/
theorem issue_cases (sz : Nat) (s : State) (f : Ctx → Except Trap State) :
    (ctxOf s = none ∧ issue sz s f = .fault .notIssuing) ∨
    ∃ c, ctxOf s = some c ∧ ((∃ s', f c = .ok s' ∧ issue sz s f = .next (retire sz c.slot s')) ∨
      (∃ t, f c = .error t ∧ issue sz s f = .next (takeTrap c t s))) := by
  cases h : ctxOf s with
  | none => exact .inl ⟨rfl, by simp [issue, h]⟩
  | some c =>
    cases hf : f c with
    | ok s' => exact .inr ⟨c, rfl, .inl ⟨s', hf, issue_ok h hf⟩⟩
    | error t => exact .inr ⟨c, rfl, .inr ⟨t, hf, issue_error h hf⟩⟩

theorem issueRole_ok {r : Role} {s s' : State} {c : Ctx} {sz : Nat} {early : Ctx → Option Trap} {f : Ctx → Except Trap State}
    (h : ctxOf s = some c) (he : early c = none) (hr : c.g.role = r) (hf : f c = .ok s') :
    issueRole r sz s early f = .next (retire sz c.slot s') := issue_ok h (by simp [he, hr, hf])

/-! ### The group's notes -/

@[simp] theorem unnoted_unnoted (g : Group) : g.unnoted.unnoted = g.unnoted := by
  simp [Group.unnoted, List.map_map, Function.comp_def]

theorem note_clean (loc old : Nat) (p : Pend) :
    ({ p.note loc old with clob := [], olds := [] } : Pend) = { p with clob := [], olds := [] } := by
  unfold Pend.note
  dsimp only
  split <;> split <;> rfl

/-- A scalar's location written: the scalar alone. -/
theorem setLoc_notes (g : Group) (l x : Nat) (ps : Tab Pend) (ls : Tab Nat) :
    ({ g with pend := ps, lanesAt := ls } : Group).setLoc l x = { g.setLoc l x with pend := ps, lanesAt := ls } := by
  unfold Group.setLoc
  split
  · unfold Group.sSet; split <;> rfl
  · split
    · rfl
    · split
      · rfl
      · split
        · rfl
        · split <;> rfl

theorem getLoc_notes (g : Group) (l : Nat) (ps : Tab Pend) (ls : Tab Nat) :
    ({ g with pend := ps, lanesAt := ls } : Group).getLoc l = g.getLoc l := rfl

theorem setLoc_pend_eq (g : Group) (l x : Nat) : (g.setLoc l x).pend = g.pend := by simp

theorem write_unnoted (g : Group) (w : Wr) : (g.write w).unnoted = (g.setLoc w.loc (merge (g.getLoc w.loc) w)).unnoted := by
  unfold Group.write
  dsimp only
  split
  · rfl
  · simp [Group.unnoted, List.map_map, Function.comp_def, note_clean]

theorem unnoted_setLoc {g h : Group} (e : g.unnoted = h.unnoted) (w : Wr) :
    (g.setLoc w.loc (merge (g.getLoc w.loc) w)).unnoted = (h.setLoc w.loc (merge (h.getLoc w.loc) w)).unnoted := by
  have key : ∀ g : Group, (g.setLoc w.loc (merge (g.getLoc w.loc) w)).unnoted =
      g.unnoted.setLoc w.loc (merge (g.unnoted.getLoc w.loc) w) := by
    intro g
    show ({ (g.setLoc w.loc (merge (g.getLoc w.loc) w)) with
      lanesAt := []
      pend := (g.setLoc w.loc (merge (g.getLoc w.loc) w)).pend.map (fun e => (e.1, { e.2 with clob := [], olds := [] })) } : Group) = _
    rw [setLoc_pend_eq]
    exact (setLoc_notes g w.loc _ _ _).symm
  rw [key g, key h, e]

/-- Writes entered one after another. -/
def Group.putEach (g : Group) (ws : List Wr) : Group :=
  ws.foldl (fun g w => g.setLoc w.loc (merge (g.getLoc w.loc) w)) g

theorem putAll_eq (g : Group) (ws : List Wr) : g.putAll ws = g.putEach (joinWrs ws) := rfl
theorem putAll_nil (g : Group) : g.putAll [] = g := rfl
theorem putAll_single (g : Group) (w : Wr) : g.putAll [w] = g.setLoc w.loc (merge (g.getLoc w.loc) w) := rfl
theorem putEach_cons (g : Group) (w : Wr) (ws : List Wr) :
    g.putEach (w :: ws) = (g.setLoc w.loc (merge (g.getLoc w.loc) w)).putEach ws := rfl

/-- Joining brings no new location. -/
theorem joinWrs_loc {ws : List Wr} {w : Wr} (h : w ∈ joinWrs ws) : ∃ x ∈ ws, x.loc = w.loc := by
  induction ws generalizing w with
  | nil => simp [joinWrs] at h
  | cons x t ih =>
    unfold joinWrs at h
    dsimp only at h
    split at h
    · rcases List.mem_cons.mp h with rfl | h
      · exact ⟨x, by simp, rfl⟩
      · obtain ⟨y, hy, e⟩ := ih (List.mem_of_mem_filter h)
        exact ⟨y, by simp [hy], e⟩
    · rcases List.mem_cons.mp h with rfl | h
      · exact ⟨w, by simp, rfl⟩
      · obtain ⟨y, hy, e⟩ := ih h
        exact ⟨y, by simp [hy], e⟩

theorem unnoted_putEach {g h : Group} (e : g.unnoted = h.unnoted) (ws : List Wr) : (g.putEach ws).unnoted = (h.putEach ws).unnoted := by
  induction ws generalizing g h with
  | nil => exact e
  | cons w ws ih => exact ih (unnoted_setLoc e w)

theorem unnoted_putAll {g h : Group} (e : g.unnoted = h.unnoted) (ws : List Wr) : (g.putAll ws).unnoted = (h.putAll ws).unnoted :=
  unnoted_putEach e _

/-! ### Register writes -/

theorem OnlyIssuer.refl {s : State} {c : Ctx} (h : ctxOf s = some c) : OnlyIssuer c s s c.g c.run := by
  obtain ⟨-, hr, hg, -⟩ := ctxOf_some h
  exact ⟨rfl, hg, fun _ _ => rfl, hr, fun _ _ => rfl, fun _ => rfl⟩

/-- The issuing group changed. -/
theorem OnlyIssuer.updG {c : Ctx} {s s1 : State} {g : Group} {r : Run} (h : OnlyIssuer c s s1 g r) (f : Group → Group) :
    OnlyIssuer c s (s1.updG c.run.gid f) (f g) r where
  rest := by rw [h.rest]; rfl
  group := by simp [State.updG, h.group]
  groups j hj := by simp [State.updG, Tab.find_upd_of_ne _ _ hj, h.groups j hj]
  run := h.run
  runs := h.runs
  bytes := h.bytes

/-- The issuing run changed. -/
theorem OnlyIssuer.updR {c : Ctx} {s s1 : State} {g : Group} {r : Run} (h : OnlyIssuer c s s1 g r) (f : Run → Run) :
    OnlyIssuer c s (s1.updR c.slot f) g (f r) where
  rest := by rw [h.rest]; rfl
  group := h.group
  groups := h.groups
  run := by simp [State.updR, h.run]
  runs k hk := by simp [State.updR, Tab.find_upd_of_ne _ _ hk, h.runs k hk]
  bytes := h.bytes

/-- The words of the temporaries after writes, in order. -/
def Run.putTemps (tick : Nat) (r : Run) (ws : List Wr) : Run :=
  { r with t := ws.foldl (fun t w => if isTempLoc w.loc then
      Tab.put t (w.loc - locV 2000 0) (BitVec.ofNat 32 (merge
        ((Tab.find t (w.loc - locV 2000 0)).getD (Config.freeWord tick (w.loc - locV 2000 0))).toNat w)) else t) r.t }

/-- WHAT REGISTER WRITES DO: the issuing group's registers and the run's temporaries hold them; nothing else changes. -/
theorem commitW_only {c : Ctx} {s s1 : State} {g : Group} {r : Run} (ws : List Wr) (h : OnlyIssuer c s s1 g r) :
    ∃ g1 r1, OnlyIssuer c s (commitW c ws s1) g1 r1 ∧
      g1.unnoted = (g.putEach ((joinWrs ws).filter (fun w => !isTempLoc w.loc))).unnoted ∧
      r1.unnoted = (r.putTemps c.tick (joinWrs ws)).unnoted := by
  unfold commitW
  generalize joinWrs ws = js
  induction js generalizing s1 g r with
  | nil => exact ⟨g, r, h, rfl, rfl⟩
  | cons w ws ih =>
    simp only [List.foldl_cons]
    by_cases ht : isTempLoc w.loc = true
    · rw [if_pos ht]
      obtain ⟨g1, r1, h1, hg, hr⟩ := ih (h.updR _)
      refine ⟨g1, r1, h1, ?_, ?_⟩
      · simp [ht, hg]
      · refine hr.trans ?_; simp [Run.putTemps, Run.unnoted, ht]
    · simp only [Bool.not_eq_true] at ht
      rw [if_neg (by simp [ht])]
      simp only [h.group]
      have h' := h.updG (fun g => g.write w)
      split
      · obtain ⟨g1, r1, h1, hg, hr⟩ := ih h'
        refine ⟨g1, r1, h1, ?_, ?_⟩
        · rw [hg, List.filter_cons_of_pos (by simp [ht]), putEach_cons]
          exact unnoted_putEach (write_unnoted g w) _
        · refine hr.trans ?_; simp [Run.putTemps, Run.unnoted, ht]
      · obtain ⟨g1, r1, h1, hg, hr⟩ := ih (h'.updR _)
        refine ⟨g1, r1, h1, ?_, ?_⟩
        · rw [hg, List.filter_cons_of_pos (by simp [ht]), putEach_cons]
          exact unnoted_putEach (write_unnoted g w) _
        · refine hr.trans ?_; simp [Run.putTemps, Run.unnoted, ht]

/-- A write of all bits of a location puts the value there. -/
theorem merge_full {n old x : Nat} (l : Nat) (ho : old < 2 ^ n) (hx : x < 2 ^ n) : merge old ⟨l, 2 ^ n - 1, x⟩ = x := by
  apply Nat.eq_of_testBit_eq
  intro i
  simp only [merge, Nat.testBit_or, Nat.testBit_and, Nat.testBit_xor, Nat.testBit_two_pow_sub_one]
  by_cases hi : i < n
  · cases ho : old.testBit i <;> simp [hi]
  · have h1 : old.testBit i = false := Nat.testBit_lt_two_pow (lt_of_lt_of_le ho (Nat.pow_le_pow_right (by decide) (by omega)))
    have h2 : x.testBit i = false := Nat.testBit_lt_two_pow (lt_of_lt_of_le hx (Nat.pow_le_pow_right (by decide) (by omega)))
    simp [hi, h1, h2]

/-- A scalar written whole (R70). -/
theorem putAll_wrS (g : Group) (d : Nat) (x : Word64) (hd : d < 64) : g.putAll (wrS d x) = g.sSet d x := by
  unfold wrS
  split
  · subst d; simp [putAll_nil, Group.sSet]
  · simp only [putAll_single, locS]
    have hm : merge (g.getLoc d) ⟨d, 2 ^ 64 - 1, x.toNat⟩ = x.toNat := by
      refine merge_full d ?_ x.isLt
      unfold Group.getLoc
      rw [if_pos hd]
      exact (g.sGet d).isLt
    rw [hm, Group.setLoc, if_pos hd]
    simp

/-- A mask register written whole. -/
theorem putAll_wrM (g : Group) (d : Nat) (x : VReg) (hd : d < 16) : g.putAll (wrM d x) = g.mSet d x := by
  have h0 : locM d - 64 = d := by unfold locM; omega
  have hg : ∀ g : Group, g.getLoc (locM d) = (g.mGet d).toNat := by
    intro g
    unfold Group.getLoc
    rw [if_neg (by unfold locM; omega), if_pos (by unfold locM; omega), h0]
  have hm : merge (g.getLoc (locM d)) ⟨locM d, 2 ^ 1024 - 1, x.toNat⟩ = x.toNat :=
    merge_full _ (by rw [hg]; exact (g.mGet d).isLt) x.isLt
  simp only [wrM, putAll_single]
  rw [hm, Group.setLoc, if_neg (by unfold locM; omega), if_pos (by unfold locM; omega), h0]
  simp

theorem isTempLoc_locS {r : Nat} (h : r < 64) : isTempLoc (locS r) = false := by
  exact decide_eq_false (by unfold locV locS; omega)
theorem isTempLoc_locM {r : Nat} (h : r < 16) : isTempLoc (locM r) = false := by
  exact decide_eq_false (by unfold locV locM; omega)
theorem isTempLoc_locV {r L : Nat} (h : r < 256) (hL : L < 32) : isTempLoc (locV r L) = false := by
  exact decide_eq_false (by unfold locV; omega)

theorem putTemps_window (tick : Nat) (r : Run) {ws : List Wr} (h : ∀ w ∈ ws, isTempLoc w.loc = false) :
    r.putTemps tick ws = r := by
  have key : ∀ (ws : List Wr) (t : Tab Word32), (∀ w ∈ ws, isTempLoc w.loc = false) →
      ws.foldl (fun t w => if isTempLoc w.loc then
        Tab.put t (w.loc - locV 2000 0) (BitVec.ofNat 32 (merge
          ((Tab.find t (w.loc - locV 2000 0)).getD (Config.freeWord tick (w.loc - locV 2000 0))).toNat w)) else t) t = t := by
    intro ws
    induction ws with
    | nil => intros; rfl
    | cons w ws ih => intro t hw; simp [hw w (by simp), ih t (fun x hx => hw x (by simp [hx]))]
  simp only [Run.putTemps, key ws r.t h]

/-- AN INSTRUCTION THAT WRITES REGISTERS OF ITS GROUP AND NOTHING ELSE completes with them written. -/
theorem does_commit {i : Instr} {sz : Nat} {s : State} {c : Ctx} {f : Ctx → Except Trap State} {ws : List Wr}
    (h : ctxOf s = some c) (he : exec i s = issue sz s f) (hf : f c = .ok (commitW c ws s))
    (hw : ∀ w ∈ ws, isTempLoc w.loc = false) : Does i sz c s (c.g.putAll ws) c.run := by
  obtain ⟨g1, r1, h1, hg, hr⟩ := commitW_only ws (OnlyIssuer.refl h)
  have hj : ∀ w ∈ joinWrs ws, isTempLoc w.loc = false := fun w hm => by
    obtain ⟨x, hx, e⟩ := joinWrs_loc hm
    exact e ▸ hw x hx
  refine ⟨_, g1, r1, he.trans (issue_ok h hf), h1, ?_, ?_⟩
  · rw [hg, List.filter_eq_self.mpr (by simpa using hj), putAll_eq]
  · rw [hr, putTemps_window _ _ hj]

/-! ### The step past an instruction -/

/-- The registers of a group that no end of a run touches: all but lanes, life, waits, tokens, pending work and what a trap return
restores. -/
def Group.regs (g : Group) : Group :=
  { g with vpc := [], ended := false, ending := false, waits := [], keptWaits := [], runWaits := [], conds := [], resume := none, parked := false
           stq := [], stqWait := [], ready := false, readySince := 0, tk := 0, pend := [], trap := false, tepc := 0 }

theorem regs_abortCopies (g : Group) : g.abortCopies.regs = g.regs := rfl
theorem regs_endNow (g : Group) : g.endNow.regs = g.regs := rfl
theorem regs_exitLanes (g : Group) (x : Word32) : (g.exitLanes x).regs = g.regs := rfl
theorem regs_advance (g : Group) (r : Run) : (g.advance r).regs = g.regs := rfl
theorem regs_leaveTrap (g : Group) (r : Run) : (g.leaveTrap r).regs = g.regs := by
  unfold Group.leaveTrap
  dsimp only
  split
  · rfl
  · split <;> rfl

/-- A test of a group's waits changes nothing else. -/
theorem meetWaits_frame (gid : Nat) (s : State) :
    meetWaits gid s = { s with groups := (meetWaits gid s).groups } ∧
    (∀ j, j ≠ gid → (meetWaits gid s).groups.find j = s.groups.find j) ∧
    (∀ g, s.groups.find gid = some g → ∃ g1, (meetWaits gid s).groups.find gid = some g1 ∧ g1.regs = g.regs ∧ g1.ending = g.ending) := by
  have key : meetWaits gid s = s ∨ meetWaits gid s = s.updG gid (fun g => { g with waits := [] }) := by
    unfold meetWaits
    repeat' split
    all_goals first | exact .inl rfl | exact .inr rfl
  rcases key with e | e <;> rw [e]
  · exact ⟨rfl, fun _ _ => rfl, fun g hg => ⟨g, hg, rfl, rfl⟩⟩
  · exact ⟨rfl, fun j hj => by simp [State.updG, Tab.find_upd_of_ne _ _ hj],
      fun g hg => ⟨{ g with waits := [] }, by simp [State.updG, hg], rfl, rfl⟩⟩

/-- A group whose gang ended meanwhile ends, and its pushed copies stop; any other stays (R90). -/
theorem stopGroup_frame (gid : Nat) (s : State) :
    stopGroup gid s = { s with groups := (stopGroup gid s).groups, cohorts := (stopGroup gid s).cohorts } ∧
    (∀ j, j ≠ gid → (stopGroup gid s).groups.find j = s.groups.find j) ∧
    (∀ g, s.groups.find gid = some g → (g.ending = false → stopGroup gid s = s) ∧
      ∃ g1, (stopGroup gid s).groups.find gid = some g1 ∧ g1.regs = g.regs) := by
  unfold stopGroup
  cases h : s.groups.find gid with
  | none => exact ⟨rfl, fun _ _ => rfl, fun g hg => by cases hg⟩
  | some g =>
    dsimp only
    by_cases he : g.ending = true
    · rw [if_neg (by simp [he])]
      refine ⟨rfl, fun j hj => by simp [State.updG, State.updC, Tab.find_upd_of_ne _ _ hj], fun g' hg => ?_⟩
      cases hg
      exact ⟨fun hf => by simp [hf] at he, { g.endNow.abortCopies with ending := false }, by simp [State.updG, State.updC, h], rfl⟩
    · rw [if_pos (by simp [he])]
      exact ⟨rfl, fun _ _ => rfl, fun g' hg => ⟨fun _ => rfl, g', by rw [← hg, h], rfl⟩⟩

/-- The group as the end of its run leaves it, before waits and a stop are looked at: no register moves but those a trap return restores. -/
theorem endRun_eq {s : State} {slot : Nat} {r : Run} (h : s.runs.find slot = some r) :
    ∃ f : Group → Group, (∀ g, (f g).regs = g.regs ∧ (f g).ending = g.ending) ∧
      endRun slot s = stopGroup r.gid (meetWaits r.gid (({ s with runs := s.runs.del slot } : State).updG r.gid f)) := by
  refine ⟨_, ?_, by unfold endRun; rw [h]⟩
  intro g
  by_cases ht : r.tret = true
  · simp only [ht, if_true]
    refine ⟨regs_leaveTrap g r, ?_⟩
    unfold Group.leaveTrap
    dsimp only
    repeat' split
    all_goals rfl
  · simp only [ht]
    by_cases hx : r.exits = true
    · simp only [hx]; exact ⟨rfl, rfl⟩
    · simp only [hx]; exact ⟨rfl, rfl⟩

/-- THE END OF A RUN changes only its slot and its group, and of the group no register but those a trap return restores; where the group's
gang ended meanwhile, also the copies it pushed. -/
theorem endRun_frame {s : State} {slot : Nat} {r : Run} (h : s.runs.find slot = some r) :
    endRun slot s = { s with groups := (endRun slot s).groups, runs := s.runs.del slot, cohorts := (endRun slot s).cohorts } ∧
    (∀ j, j ≠ r.gid → (endRun slot s).groups.find j = s.groups.find j) ∧
    (∀ g, s.groups.find r.gid = some g → (g.ending = false → (endRun slot s).cohorts = s.cohorts) ∧
      ∃ g1, (endRun slot s).groups.find r.gid = some g1 ∧ g1.regs = g.regs) := by
  obtain ⟨f, hf, e⟩ := endRun_eq h
  generalize hu : ({ s with runs := s.runs.del slot } : State).updG r.gid f = u at e
  obtain ⟨h1, h2, h3⟩ := meetWaits_frame r.gid u
  obtain ⟨k1, k2, k3⟩ := stopGroup_frame r.gid (meetWaits r.gid u)
  rw [← e] at k1 k2 k3
  refine ⟨by rw [k1, h1, ← hu]; rfl, fun j hj => ?_, fun g hg => ?_⟩
  · rw [k2 j hj, h2 j hj, ← hu]; simp [State.updG, Tab.find_upd_of_ne _ _ hj]
  · obtain ⟨g1, hg1, hr, he⟩ := h3 (f g) (by rw [← hu]; simp [State.updG, hg])
    obtain ⟨k4, g2, hg2, hr2⟩ := k3 g1 hg1
    refine ⟨fun hn => ?_, g2, hg2, hr2.trans (hr.trans (hf g).1)⟩
    rw [k4 (he.trans ((hf g).2.trans hn)), h1, ← hu]; rfl

/-- THE STEP PAST AN INSTRUCTION changes only its slot and its group, and of the group no register but those a trap return restores; where
the group's gang ended meanwhile and the run ends, also the copies it pushed. -/
theorem retire_frame {s : State} {sz slot : Nat} {r : Run} (h : s.runs.find slot = some r) :
    retire sz slot s = { s with groups := (retire sz slot s).groups, runs := (retire sz slot s).runs, cohorts := (retire sz slot s).cohorts } ∧
    (∀ j, j ≠ r.gid → (retire sz slot s).groups.find j = s.groups.find j) ∧
    (∀ k, k ≠ slot → (retire sz slot s).runs.find k = s.runs.find k) ∧
    (∀ g, s.groups.find r.gid = some g → (g.ending = false → (retire sz slot s).cohorts = s.cohorts) ∧
      ∃ g1, (retire sz slot s).groups.find r.gid = some g1 ∧ g1.regs = g.regs) := by
  unfold retire
  rw [h]
  dsimp only
  have hr : (s.updR slot (fun r' => { r' with buf := r.buf.drop sz, off := r'.off + sz / 2 })).runs.find slot =
      some { r with buf := r.buf.drop sz, off := r.off + sz / 2 } := by simp [State.updR, h]
  split
  · obtain ⟨h1, h2, h3⟩ := endRun_frame hr
    refine ⟨by rw [h1]; rfl, h2, fun k hk => ?_, h3⟩
    rw [h1]
    simp [State.updR, Tab.find_del_of_ne _ hk, Tab.find_upd_of_ne _ _ hk]
  · refine ⟨rfl, fun _ _ => rfl, fun k hk => by simp [State.updR, Tab.find_upd_of_ne _ _ hk], fun g hg => ⟨fun _ => rfl, g, hg, rfl⟩⟩

end Sys2Proof.Machine
end

