-- ==== Sys2Proof/Laws/Memory.lean ====
section
/-! SUPPORT. The laws of a memory: read after write, and that every operation on it keeps its canonical form. -/

namespace Sys2Proof.Machine

/-- A memory's canonical form is that of a table whose default is zero. -/
theorem memory_wf_eq (m : List Host.Cell) : Memory.wf m = Tab.wf (0 : BitVec 8) m := by
  induction m with
  | nil => rfl
  | cons e t ih =>
    obtain ⟨k, b⟩ := e
    cases t with
    | nil => rfl
    | cons e' t' => obtain ⟨k', b'⟩ := e'; simp only [Memory.wf, Tab.wf, ih]

theorem memory_wf_iff (m : List Host.Cell) :
    Memory.wf m = true ↔ (m.map (·.1)).Pairwise (· < ·) ∧ ∀ e ∈ m, e.2 ≠ 0 := by
  rw [memory_wf_eq, Tab.wf_iff]

theorem cellGet_eq_get (m : List Host.Cell) (a : Nat) : cellGet m a = Tab.get (0 : BitVec 8) m a := by
  induction m with
  | nil => rfl
  | cons e t ih =>
    obtain ⟨k, b⟩ := e
    simp only [cellGet, Tab.get, Tab.find]
    split
    · rfl
    · rw [ih, Tab.get]

/-- Every address below a list's entries reads as zero. -/
theorem cellGet_of_lt {m : List Host.Cell} {a : Nat} (h : ∀ e ∈ m, a < e.1) : cellGet m a = 0 := by
  rw [cellGet_eq_get, Tab.get, Tab.find_none_of_not_mem (fun e he => (h e he).ne')]
  rfl

theorem memory_wf_cons {k : Nat} {b : Byte} {t : List Host.Cell} :
    Memory.wf ((k, b) :: t) = true ↔ b ≠ 0 ∧ (∀ e ∈ t, k < e.1) ∧ Memory.wf t = true := by
  simp only [memory_wf_iff, List.map_cons, List.pairwise_cons, List.forall_mem_cons, List.forall_mem_map]
  tauto

/-- An entry of a memory after a write is the byte written or was there. -/
theorem mem_cellSet {m : List Host.Cell} {a : Nat} {x : Byte} {e : Host.Cell} (h : e ∈ cellSet m a x) :
    e = (a, x) ∨ e ∈ m := by
  induction m with
  | nil => unfold cellSet at h; split at h <;> simp_all
  | cons c t ih =>
    obtain ⟨k, b⟩ := c
    unfold cellSet at h
    split at h
    · split at h <;> simp_all
    · split at h
      · split at h
        · exact .inr (by simp [h])
        · rcases List.mem_cons.mp h with h | h <;> simp_all
      · rcases List.mem_cons.mp h with h | h
        · simp [h]
        · rcases ih h with h | h <;> simp [h]

/-- Writing a byte keeps the canonical form. -/
theorem wf_cellSet {m : List Host.Cell} (a : Nat) (x : Byte) (h : Memory.wf m = true) : Memory.wf (cellSet m a x) = true := by
  induction m with
  | nil => unfold cellSet; split <;> simp_all [Memory.wf]
  | cons c t ih =>
    obtain ⟨k, b⟩ := c
    obtain ⟨hb, hk, ht⟩ := memory_wf_cons.mp h
    unfold cellSet
    split
    · rename_i hak
      split
      · exact h
      · refine memory_wf_cons.mpr ⟨‹_›, fun e he => ?_, h⟩
        rcases List.mem_cons.mp he with h' | h'
        · exact h' ▸ hak
        · exact lt_trans hak (hk e h')
    · split
      · subst a
        split
        · exact ht
        · exact memory_wf_cons.mpr ⟨‹_›, hk, ht⟩
      · refine memory_wf_cons.mpr ⟨hb, fun e he => ?_, ih ht⟩
        rcases mem_cellSet he with h' | h'
        · subst h'; show k < a; omega
        · exact hk e h'

/-- Read after write of one byte. -/
theorem cellGet_cellSet {m : List Host.Cell} (a y : Nat) (x : Byte) (h : Memory.wf m = true) :
    cellGet (cellSet m a x) y = if y = a then x else cellGet m y := by
  induction m with
  | nil => unfold cellSet; split <;> simp_all [cellGet]
  | cons c t ih =>
    obtain ⟨k, b⟩ := c
    obtain ⟨hb, hk, ht⟩ := memory_wf_cons.mp h
    unfold cellSet
    split
    · rename_i hak
      by_cases hy : y = a
      · subst hy
        split
        · rename_i hx
          rw [cellGet_of_lt (m := (k, b) :: t) (fun e he => by
            rcases List.mem_cons.mp he with h' | h'
            · exact h' ▸ hak
            · exact lt_trans hak (hk e h'))]
          simp [hx]
        · simp [cellGet]
      · split <;> simp [cellGet, hy]
    · split
      · subst a
        by_cases hy : y = k
        · subst hy
          split
          · rename_i hx
            rw [cellGet_of_lt hk]; simp [hx]
          · simp [cellGet]
        · split <;> simp [cellGet, hy]
      · rename_i hak hne
        by_cases hyk : y = k
        · subst hyk
          have : ¬ y = a := fun h' => hne h'.symm
          simp [cellGet, this]
        · simp only [cellGet, if_neg hyk]
          exact ih ht

/-- Writing bytes keeps the canonical form. -/
theorem wf_cellsSet (bs : List Byte) : ∀ {m : List Host.Cell} (a : Nat), Memory.wf m = true → Memory.wf (cellsSet m a bs) = true := by
  induction bs with
  | nil => exact fun _ h => h
  | cons b t ih => exact fun a h => ih (a + 1) (wf_cellSet a b h)

/-- READ AFTER WRITE: the bytes written where they were written, the old ones everywhere else. -/
theorem cellGet_cellsSet (bs : List Byte) : ∀ {m : List Host.Cell} (a y : Nat), Memory.wf m = true →
    cellGet (cellsSet m a bs) y = if a ≤ y ∧ y < a + bs.length then bs.getD (y - a) 0 else cellGet m y := by
  induction bs with
  | nil => intro m a y _; rw [cellsSet, if_neg (by simp)]
  | cons b t ih =>
    intro m a y h
    rw [cellsSet, ih (a + 1) y (wf_cellSet a b h), cellGet_cellSet a y b h]
    by_cases hy : y = a
    · subst hy
      have : ¬ (y + 1 ≤ y ∧ y < y + 1 + t.length) := by omega
      simp
    · by_cases hr : a + 1 ≤ y ∧ y < a + 1 + t.length
      · have h2 : a ≤ y ∧ y < a + (b :: t).length := by simp; omega
        rw [if_pos hr, if_pos h2]
        obtain ⟨k, rfl⟩ : ∃ k, y = a + 1 + k := ⟨y - (a + 1), by omega⟩
        have e1 : a + 1 + k - (a + 1) = k := by omega
        have e2 : a + 1 + k - a = k + 1 := by omega
        rw [e1, e2]; simp
      · have h2 : ¬ (a ≤ y ∧ y < a + (b :: t).length) := by simp; omega
        rw [if_neg hr, if_neg h2, if_neg hy]

/-- A byte outside the bytes written is unchanged. -/
theorem cellGet_cellsSet_of_outside {m : List Host.Cell} (bs : List Byte) (a y : Nat) (h : Memory.wf m = true)
    (hy : y < a ∨ a + bs.length ≤ y) : cellGet (cellsSet m a bs) y = cellGet m y := by
  rw [cellGet_cellsSet bs a y h, if_neg (by omega)]

/-- The bytes written read back. -/
theorem cellsGet_cellsSet {m : List Host.Cell} (bs : List Byte) (a : Nat) (h : Memory.wf m = true) :
    cellsGet (cellsSet m a bs) a bs.length = bs := by
  apply List.ext_getElem
  · simp [cellsGet]
  · intro i h1 h2
    simp only [cellsGet, List.getElem_map, List.getElem_range]
    rw [cellGet_cellsSet bs a (a + i) h, if_pos (by omega)]
    simp [List.getD, h2]

/-- A part of a memory keeps the canonical form. -/
theorem wf_filter {m : List Host.Cell} (p : Host.Cell → Bool) (h : Memory.wf m = true) : Memory.wf (m.filter p) = true := by
  rw [memory_wf_iff] at h ⊢
  exact ⟨h.1.sublist ((List.filter_sublist (l := m)).map _), fun e he => h.2 e (List.mem_filter.mp he).1⟩

/-- Memories one above the other. -/
theorem wf_append {m n : List Host.Cell} (hm : Memory.wf m = true) (hn : Memory.wf n = true)
    (h : ∀ e ∈ m, ∀ f ∈ n, e.1 < f.1) : Memory.wf (m ++ n) = true := by
  rw [memory_wf_iff] at hm hn ⊢
  refine ⟨?_, fun e he => ?_⟩
  · rw [List.map_append, List.pairwise_append]
    refine ⟨hm.1, hn.1, fun a ha b hb => ?_⟩
    obtain ⟨e, he, rfl⟩ := List.mem_map.mp ha
    obtain ⟨f, hf, rfl⟩ := List.mem_map.mp hb
    exact h e he f hf
  · rcases List.mem_append.mp he with h' | h'
    · exact hm.2 e h'
    · exact hn.2 e h'

/-- The non-zero bytes of a block as a memory. -/
theorem wf_block (pa n : Nat) (f : Nat → Byte) :
    Memory.wf ((List.range n).filterMap (fun i => if f i = 0 then none else some (pa + i, f i))) = true := by
  rw [memory_wf_iff]
  constructor
  · rw [List.pairwise_map, List.pairwise_filterMap]
    refine List.Pairwise.imp ?_ (List.pairwise_lt_range (n := n))
    intro i j hij b hb b' hb'
    split at hb <;> split at hb' <;> simp_all
    subst hb; subst hb'; simpa using hij
  · intro e he
    obtain ⟨i, _, hi⟩ := List.mem_filterMap.mp he
    split at hi
    · cases hi
    · cases hi; assumption

/-- Where the entries of a block lie. -/
theorem mem_block {pa n : Nat} {f : Nat → Byte} {e : Host.Cell}
    (h : e ∈ (List.range n).filterMap (fun i => if f i = 0 then none else some (pa + i, f i))) : pa ≤ e.1 ∧ e.1 < pa + n := by
  obtain ⟨i, hi, h'⟩ := List.mem_filterMap.mp h
  have := List.mem_range.mp hi
  split at h'
  · cases h'
  · cases h'; constructor <;> (simp; try omega)

/-- A block written whole into a memory keeps the canonical form. -/
theorem wf_splice {m : List Host.Cell} (pa n : Nat) (f : Nat → Byte) (h : Memory.wf m = true) :
    Memory.wf (m.filter (fun c => decide (c.1 < pa)) ++
      (List.range n).filterMap (fun i => if f i = 0 then none else some (pa + i, f i)) ++
      m.filter (fun c => decide (pa + n ≤ c.1))) = true := by
  refine wf_append (wf_append (wf_filter _ h) (wf_block pa n f) ?_) (wf_filter _ h) ?_
  · intro e he g hg
    have h1 := of_decide_eq_true (List.mem_filter.mp he).2
    have h2 := mem_block hg
    omega
  · intro e he g hg
    have h2 := of_decide_eq_true (List.mem_filter.mp hg).2
    rcases List.mem_append.mp he with h' | h'
    · have h1 := of_decide_eq_true (List.mem_filter.mp h').2
      omega
    · have h1 := mem_block h'
      omega

/-- Physical bytes written keep the canonical form. -/
theorem wf_pmWr (s : State) (pa n v : Nat) (h : Memory.wf s.mem = true) : Memory.wf (s.pmWr pa n v).mem = true :=
  wf_cellsSet _ pa h

/-- Reset memory has the canonical form. -/
theorem wf_reset : Memory.wf State.reset.mem = true := rfl

end Sys2Proof.Machine
end

