-- ==== Sys2Proof/Laws/PerInstr.lean ====
section
/-! SUPPORT. One lemma per constructor of `Instr` for the family `WordFits`: the two readings of well-formedness agree, and the word of a
well-formed instruction has two or four bytes and fits them (R55, R63). -/

namespace Sys2Proof.Laws.WordFits

/-- `wellFormed` decides `WellFormed`; a word that `encodeWord` gives a well-formed instruction is of 2 or 4 bytes, and fits. -/
def Statement (i : Instr) : Prop :=
  (i.wellFormed = true ↔ i.WellFormed) ∧ ∀ n w, i.WellFormed → encodeWord i = some (n, w) → (n = 2 ∨ n = 4) ∧ w < 2 ^ (8 * n)

/-- Two bytes and their bound. -/
theorem two : (2 = 2 ∨ 2 = 4) ∧ 65536 = 2 ^ (8 * 2) := by decide
/-- Four bytes and their bound. -/
theorem four : (4 = 2 ∨ 4 = 4) ∧ 4294967296 = 2 ^ (8 * 4) := by decide

/-- The family for an event, which has no word. -/
theorem event {i : Instr} (e : encodeWord i = none) (h : i.WellFormed → i.wellFormed = true) (t : i.WellFormed) : Statement i :=
  ⟨fun _ => t, h⟩ |> fun p => ⟨p, fun n w _ x => by rw [e] at x; exact absurd x (by simp)⟩

/-- The family for an encoded instruction, from its word and its bound. -/
theorem word {i : Instr} {n b w : Nat} (p : (n = 2 ∨ n = 4) ∧ b = 2 ^ (8 * n)) (e : encodeWord i = some (n, w))
    (d : i.wellFormed = true ↔ i.WellFormed) (h : i.WellFormed → w < b) : Statement i :=
  ⟨d, fun n' w' t x => by
    rw [e] at x
    obtain ⟨rfl, rfl⟩ := Prod.mk.inj (Option.some.inj x)
    exact ⟨p.1, p.2 ▸ h t⟩⟩

theorem matrixStepPerform (x0 : Nat) (x1 : Nat) (x2 : List (Nat × Nat)) : Statement (.matrixStepPerform x0 x1 x2) :=
  event rfl (fun _ => rfl) trivial
theorem ztileAccessPerform (x0 : Nat) (x1 : Nat) (x2 : List (Nat × Nat)) : Statement (.ztileAccessPerform x0 x1 x2) :=
  event rfl (fun _ => rfl) trivial
theorem teamTransferArrival (x0 : Nat) (x1 : Nat) (x2 : List (Nat × Nat)) : Statement (.teamTransferArrival x0 x1 x2) :=
  event rfl (fun _ => rfl) trivial
theorem ztileQueueRoom (x0 : Nat) : Statement (.ztileQueueRoom x0) :=
  event rfl (fun _ => rfl) trivial
theorem waveletRequestDone (x0 : Nat) (x1 : Nat) : Statement (.waveletRequestDone x0 x1) :=
  event rfl (fun _ => rfl) trivial
theorem latticeWritePerform (x0 : Nat) (x1 : Nat) : Statement (.latticeWritePerform x0 x1) :=
  event rfl (fun _ => rfl) trivial
theorem lwaitTimeout (x0 : Nat) (x1 : Nat) : Statement (.lwaitTimeout x0 x1) :=
  event rfl (fun _ => rfl) trivial
theorem latticeQueueRoom (x0 : Nat) : Statement (.latticeQueueRoom x0) :=
  event rfl (fun _ => rfl) trivial
theorem exchangeRoundStart (x0 : Nat) : Statement (.exchangeRoundStart x0) :=
  event rfl (fun _ => rfl) trivial
theorem exchangeTransferArrival (x0 : Nat) (x1 : Nat) : Statement (.exchangeTransferArrival x0 x1) :=
  event rfl (fun _ => rfl) trivial
theorem latticePageClear (x0 : Nat) : Statement (.latticePageClear x0) :=
  event rfl (fun _ => rfl) trivial
theorem loadDataArrival (x0 : Nat) (x1 : Nat) (x2 : List Nat) (x3 : Nat) : Statement (.loadDataArrival x0 x1 x2 x3) :=
  event rfl (fun _ => rfl) trivial
theorem atomicPerform (x0 : Nat) (x1 : Nat) : Statement (.atomicPerform x0 x1) :=
  event rfl (fun _ => rfl) trivial
theorem cbloadTableWrite (x0 : Nat) (x1 : Nat) : Statement (.cbloadTableWrite x0 x1) :=
  event rfl (fun _ => rfl) trivial
theorem cbloadQueueRoom (x0 : Nat) : Statement (.cbloadQueueRoom x0) :=
  event rfl (fun _ => rfl) trivial
theorem storeQueueRoom (x0 : Nat) : Statement (.storeQueueRoom x0) :=
  event rfl (fun _ => rfl) trivial
theorem coherenceRequest (x0 : Nat) (x1 : Nat) (x2 : Bool) : Statement (.coherenceRequest x0 x1 x2) :=
  event rfl (fun _ => rfl) trivial
theorem transientRequestTimeout (x0 : Nat) (x1 : Nat) (x2 : Bool) : Statement (.transientRequestTimeout x0 x1 x2) :=
  event rfl (fun _ => rfl) trivial
theorem regionMerge (x0 : Nat) (x1 : Nat) : Statement (.regionMerge x0 x1) :=
  event rfl (fun _ => rfl) trivial
theorem lockUpdateArrival (x0 : Nat) (x1 : Nat) (x2 : Nat) (x3 : Nat) (x4 : Nat) (x5 : Option (List Byte)) : Statement (.lockUpdateArrival x0 x1 x2 x3 x4 x5) :=
  event rfl (fun _ => rfl) trivial
theorem writerLockTimeout (x0 : Nat) : Statement (.writerLockTimeout x0) :=
  event rfl (fun _ => rfl) trivial
theorem replicaLockTimeout (x0 : Nat) (x1 : Nat) (x2 : Nat) : Statement (.replicaLockTimeout x0 x1 x2) :=
  event rfl (fun _ => rfl) trivial
theorem copyChunkDelivery (x0 : Nat) (x1 : Nat) (x2 : Bool) : Statement (.copyChunkDelivery x0 x1 x2) :=
  event rfl (fun _ => rfl) trivial
theorem weightPageCheck (x0 : ChanRef) (x1 : Bool) : Statement (.weightPageCheck x0 x1) :=
  event rfl (fun _ => rfl) trivial
theorem copySlotFree (x0 : Nat) : Statement (.copySlotFree x0) :=
  event rfl (fun _ => rfl) trivial
theorem slotPick (x0 : Nat) : Statement (.slotPick x0) :=
  event rfl (fun _ => rfl) trivial
theorem asyncConditionDelivery (x0 : Nat) : Statement (.asyncConditionDelivery x0) :=
  event rfl (fun _ => rfl) trivial
theorem groupRelease (x0 : Nat) (x1 : Nat) : Statement (.groupRelease x0 x1) :=
  event rfl (fun _ => rfl) trivial
theorem preemption (x0 : Nat) (x1 : Option Nat) : Statement (.preemption x0 x1) :=
  event rfl (fun _ => rfl) trivial
theorem restore (x0 : Nat) (x1 : Nat) (x2 : List CohortPlace) : Statement (.restore x0 x1 x2) :=
  event rfl (fun _ => rfl) trivial
theorem gangSuspend (x0 : Nat) : Statement (.gangSuspend x0) :=
  event rfl (fun _ => rfl) trivial
theorem faultQueueRoom (x0 : Nat) : Statement (.faultQueueRoom x0) :=
  event rfl (fun _ => rfl) trivial
theorem directoryReadRequest (x0 : PageRef) (x1 : Nat) (x2 : Nat) (x3 : Bool) : Statement (.directoryReadRequest x0 x1 x2 x3) :=
  event rfl (fun _ => rfl) trivial
theorem directoryWriteRequest (x0 : PageRef) (x1 : Nat) (x2 : Nat) (x3 : Nat) : Statement (.directoryWriteRequest x0 x1 x2 x3) :=
  event rfl (fun _ => rfl) trivial
theorem directoryRelease (x0 : PageRef) (x1 : Asker) (x2 : Leaving) : Statement (.directoryRelease x0 x1 x2) :=
  event rfl (fun _ => rfl) trivial
theorem replicateRequest (x0 : PageRef) (x1 : Nat) (x2 : Nat) (x3 : Nat) : Statement (.replicateRequest x0 x1 x2 x3) :=
  event rfl (fun _ => rfl) trivial
theorem unreplicateRequest (x0 : PageRef) (x1 : Nat) (x2 : Nat) : Statement (.unreplicateRequest x0 x1 x2) :=
  event rfl (fun _ => rfl) trivial
theorem readerAddition (x0 : PageRef) (x1 : Nat) (x2 : Nat) (x3 : Nat) (x4 : Nat) : Statement (.readerAddition x0 x1 x2 x3 x4) :=
  event rfl (fun _ => rfl) trivial
theorem probe (x0 : Nat) (x1 : Nat) (x2 : Nat) (x3 : Nat) : Statement (.probe x0 x1 x2 x3) :=
  event rfl (fun _ => rfl) trivial
theorem notHereReply (x0 : Nat) : Statement (.notHereReply x0) :=
  event rfl (fun _ => rfl) trivial
theorem invalidation (x0 : PageRef) (x1 : Nat) (x2 : Option Nat) (x3 : Nat) (x4 : Nat) (x5 : Option Nat) : Statement (.invalidation x0 x1 x2 x3 x4 x5) :=
  event rfl (fun _ => rfl) trivial
theorem pageShipmentArrival (x0 : Nat) (x1 : Nat) (x2 : Nat) (x3 : Nat) (x4 : Bool) (x5 : Nat) (x6 : List Byte) : Statement (.pageShipmentArrival x0 x1 x2 x3 x4 x5 x6) :=
  event rfl (fun _ => rfl) trivial
theorem recordReplay (x0 : Nat) (x1 : Nat) : Statement (.recordReplay x0 x1) :=
  event rfl (fun _ => rfl) trivial
theorem writeBackArrival (x0 : Nat) (x1 : Nat) (x2 : Nat) (x3 : Nat) (x4 : List Byte) : Statement (.writeBackArrival x0 x1 x2 x3 x4) :=
  event rfl (fun _ => rfl) trivial
theorem writeBackAck (x0 : Nat) (x1 : Nat) : Statement (.writeBackAck x0 x1) :=
  event rfl (fun _ => rfl) trivial
theorem filterAddition (x0 : Nat) (x1 : Nat) (x2 : List Nat) (x3 : Bool) : Statement (.filterAddition x0 x1 x2 x3) :=
  event rfl (fun _ => rfl) trivial
theorem filterRebuild (x0 : Nat) : Statement (.filterRebuild x0) :=
  event rfl (fun _ => rfl) trivial
theorem meridianAttemptTimeout (x0 : Nat) (x1 : Nat) : Statement (.meridianAttemptTimeout x0 x1) :=
  event rfl (fun _ => rfl) trivial
theorem declineQueueRoom : Statement (.declineQueueRoom) :=
  event rfl (fun _ => rfl) trivial
theorem frameWaitTimeout (x0 : Nat) (x1 : Nat) : Statement (.frameWaitTimeout x0 x1) :=
  event rfl (fun _ => rfl) trivial
theorem supply (x0 : Nat) (x1 : Nat) (x2 : Nat) : Statement (.supply x0 x1 x2) :=
  event rfl (fun _ => rfl) trivial
theorem retry (x0 : Nat) : Statement (.retry x0) :=
  event rfl (fun _ => rfl) trivial
theorem refuse (x0 : Nat) : Statement (.refuse x0) :=
  event rfl (fun _ => rfl) trivial
theorem kill (x0 : Nat) : Statement (.kill x0) :=
  event rfl (fun _ => rfl) trivial
theorem replicate (x0 : Nat) (x1 : Nat) (x2 : Nat) : Statement (.replicate x0 x1 x2) :=
  event rfl (fun _ => rfl) trivial
theorem unreplicate (x0 : Nat) (x1 : Nat) : Statement (.unreplicate x0 x1) :=
  event rfl (fun _ => rfl) trivial
theorem pageMigration (x0 : PageRef) (x1 : Nat) (x2 : Nat) (x3 : Option (Nat × List (BitVec 8))) : Statement (.pageMigration x0 x1 x2 x3) :=
  event rfl (fun _ => rfl) trivial
theorem migrationCutover (x0 : PageRef) (x1 : Cutover) : Statement (.migrationCutover x0 x1) :=
  event rfl (fun _ => rfl) trivial
theorem head (x0 : Nat) (x1 : Nat) (x2 : Bool) (x3 : Bool) (x4 : List Byte) : Statement (.head x0 x1 x2 x3 x4) :=
  event rfl (fun _ => rfl) trivial
theorem body (x0 : Nat) (x1 : Nat) (x2 : Bool) (x3 : Bool) (x4 : List Byte) : Statement (.body x0 x1 x2 x3 x4) :=
  event rfl (fun _ => rfl) trivial
theorem ack (x0 : Nat) (x1 : Nat) : Statement (.ack x0 x1) :=
  event rfl (fun _ => rfl) trivial
theorem retryFlit (x0 : Nat) (x1 : Nat) : Statement (.retryFlit x0 x1) :=
  event rfl (fun _ => rfl) trivial
theorem credit (x0 : Nat) (x1 : Nat) (x2 : Nat) : Statement (.credit x0 x1 x2) :=
  event rfl (fun _ => rfl) trivial
theorem train (x0 : Nat) : Statement (.train x0) :=
  event rfl (fun _ => rfl) trivial
theorem idle (x0 : Nat) : Statement (.idle x0) :=
  event rfl (fun _ => rfl) trivial
theorem laneLockLoss (x0 : Nat) : Statement (.laneLockLoss x0) :=
  event rfl (fun _ => rfl) trivial
theorem linkTrained (x0 : Nat) : Statement (.linkTrained x0) :=
  event rfl (fun _ => rfl) trivial
theorem ackTimer (x0 : Nat) : Statement (.ackTimer x0) :=
  event rfl (fun _ => rfl) trivial
theorem creditTimer (x0 : Nat) : Statement (.creditTimer x0) :=
  event rfl (fun _ => rfl) trivial
theorem loadRequest (x0 : Pkt) : Statement (.loadRequest x0) :=
  event rfl (fun _ => rfl) trivial
theorem storeRequest (x0 : Pkt) : Statement (.storeRequest x0) :=
  event rfl (fun _ => rfl) trivial
theorem atomicRequest (x0 : Pkt) : Statement (.atomicRequest x0) :=
  event rfl (fun _ => rfl) trivial
theorem flagStore (x0 : Pkt) : Statement (.flagStore x0) :=
  event rfl (fun _ => rfl) trivial
theorem flagStoreRelease (x0 : Nat) (x1 : Nat) : Statement (.flagStoreRelease x0 x1) :=
  event rfl (fun _ => rfl) trivial
theorem floorNotice (x0 : Pkt) : Statement (.floorNotice x0) :=
  event rfl (fun _ => rfl) trivial
theorem loadReply (x0 : Pkt) : Statement (.loadReply x0) :=
  event rfl (fun _ => rfl) trivial
theorem acknowledgement (x0 : Pkt) : Statement (.acknowledgement x0) :=
  event rfl (fun _ => rfl) trivial
theorem atomicReply (x0 : Pkt) : Statement (.atomicReply x0) :=
  event rfl (fun _ => rfl) trivial
theorem refusal (x0 : Pkt) : Statement (.refusal x0) :=
  event rfl (fun _ => rfl) trivial
theorem refusalSend (x0 : Nat) : Statement (.refusalSend x0) :=
  event rfl (fun _ => rfl) trivial
theorem e2eAttemptTimeout (x0 : Nat) (x1 : Nat) : Statement (.e2eAttemptTimeout x0 x1) :=
  event rfl (fun _ => rfl) trivial
theorem e2eWindowRoom (x0 : Nat) : Statement (.e2eWindowRoom x0) :=
  event rfl (fun _ => rfl) trivial
theorem queueDoorbell (x0 : Nat) (x1 : Nat) : Statement (.queueDoorbell x0 x1) :=
  event rfl (fun _ => rfl) trivial
theorem packetAdmission (x0 : Nat) (x1 : Nat) (x2 : Bool) (x3 : List (List CohortPlace)) : Statement (.packetAdmission x0 x1 x2 x3) :=
  event rfl (fun _ => rfl) trivial
theorem admissionWaitTimeout (x0 : Nat) (x1 : Nat) : Statement (.admissionWaitTimeout x0 x1) :=
  event rfl (fun _ => rfl) trivial
theorem reserve (x0 : Nat) (x1 : Nat) (x2 : Nat) (x3 : Nat) (x4 : List Byte) (x5 : List (List CohortPlace)) : Statement (.reserve x0 x1 x2 x3 x4 x5) :=
  event rfl (fun _ => rfl) trivial
theorem grant (x0 : Nat) (x1 : Nat) (x2 : Bool) : Statement (.grant x0 x1 x2) :=
  event rfl (fun _ => rfl) trivial
theorem commit (x0 : Nat) (x1 : Nat) : Statement (.commit x0 x1) :=
  event rfl (fun _ => rfl) trivial
theorem rollback (x0 : Nat) : Statement (.rollback x0) :=
  event rfl (fun _ => rfl) trivial
theorem gangReserveTimeout (x0 : Nat) : Statement (.gangReserveTimeout x0) :=
  event rfl (fun _ => rfl) trivial
theorem gangRetryTimer (x0 : Nat) (x1 : List (List CohortPlace)) : Statement (.gangRetryTimer x0 x1) :=
  event rfl (fun _ => rfl) trivial
theorem gangStart (x0 : Nat) : Statement (.gangStart x0) :=
  event rfl (fun _ => rfl) trivial
theorem energyTick (x0 : EnergyMeter) : Statement (.energyTick x0) :=
  event rfl (fun _ => rfl) trivial
theorem npartWrite (x0 : Nat) : Statement (.npartWrite x0) :=
  event rfl (fun _ => rfl) trivial
theorem splitRegisterWrite (x0 : Nat) (x1 : Nat) : Statement (.splitRegisterWrite x0 x1) :=
  event rfl (fun _ => rfl) trivial
theorem registerWrite (x0 : Nat) (x1 : Nat) : Statement (.registerWrite x0 x1) :=
  event rfl (fun _ => rfl) trivial
theorem sensorSample (x0 : Sample) : Statement (.sensorSample x0) :=
  event rfl (fun _ => rfl) trivial
theorem hotHoldTimeout (x0 : Nat) : Statement (.hotHoldTimeout x0) :=
  event rfl (fun _ => rfl) trivial
theorem thermalMigration (x0 : Nat) (x1 : List CohortPlace) : Statement (.thermalMigration x0 x1) :=
  event rfl (fun _ => rfl) trivial
theorem clockStepDown (x0 : Nat) : Statement (.clockStepDown x0) :=
  event rfl (fun _ => rfl) trivial
theorem clockStepUp (x0 : Nat) : Statement (.clockStepUp x0) :=
  event rfl (fun _ => rfl) trivial
theorem criticalTimeout (x0 : FatalErr) : Statement (.criticalTimeout x0) :=
  event rfl (fun _ => rfl) trivial
theorem watchdogExpiry : Statement (.watchdogExpiry) :=
  event rfl (fun _ => rfl) trivial
theorem firmwareImageWrite (x0 : Nat) (x1 : Bool) : Statement (.firmwareImageWrite x0 x1) :=
  event rfl (fun _ => rfl) trivial
theorem antiRollbackRaise : Statement (.antiRollbackRaise) :=
  event rfl (fun _ => rfl) trivial
theorem dumpclr : Statement (.dumpclr) :=
  event rfl (fun _ => rfl) trivial
theorem powerUp (x0 : Bool) : Statement (.powerUp x0) :=
  event rfl (fun _ => rfl) trivial
theorem tlbInvalidationComplete (x0 : Nat) : Statement (.tlbInvalidationComplete x0) :=
  event rfl (fun _ => rfl) trivial
theorem replicaConfirmation (x0 : Nat) (x1 : Nat) : Statement (.replicaConfirmation x0 x1) :=
  event rfl (fun _ => rfl) trivial
theorem meridianReply (x0 : Nat) (x1 : Nat) (x2 : Nat) (x3 : MerReply) : Statement (.meridianReply x0 x1 x2 x3) :=
  event rfl (fun _ => rfl) trivial
theorem directoryAcknowledgement (x0 : PageRef) (x1 : Nat) (x2 : DirAnswer) : Statement (.directoryAcknowledgement x0 x1 x2) :=
  event rfl (fun _ => rfl) trivial
theorem unknownKindFlit (x0 : Nat) : Statement (.unknownKindFlit x0) :=
  event rfl (fun _ => rfl) trivial
theorem reachabilityReport (x0 : Nat) (x1 : Nat) (x2 : Bool) : Statement (.reachabilityReport x0 x1 x2) :=
  event rfl (fun _ => rfl) trivial
theorem gangContactLost (x0 : GangEnd) : Statement (.gangContactLost x0) :=
  event rfl (fun _ => rfl) trivial
theorem bar2WindowAccess (x0 : Nat) (x1 : Nat) (x2 : Option (List Byte)) : Statement (.bar2WindowAccess x0 x1 x2) :=
  event rfl (fun _ => rfl) trivial
theorem hostCoreStore (x0 : HostStore) : Statement (.hostCoreStore x0) :=
  event rfl (fun _ => rfl) trivial
theorem logEntryFlashWrite : Statement (.logEntryFlashWrite) :=
  event rfl (fun _ => rfl) trivial
theorem powerLoss : Statement (.powerLoss) :=
  event rfl (fun _ => rfl) trivial
theorem deviceReset : Statement (.deviceReset) :=
  event rfl (fun _ => rfl) trivial
theorem runHead (t : Nat) (p : Nat) (a : Nat) (l : Nat) : Statement (.runHead t p a l) :=
  word four rfl decide_eq_true_iff (fun (h : t < 2 ∧ p < 2 ∧ a < 65536 ∧ l < 64) => by omega)
theorem pad : Statement (.pad) :=
  word two rfl (iff_of_true rfl trivial) (fun _ => by decide)
theorem vmov (f : HF) : Statement (.vmov f) :=
  word two rfl decide_eq_true_iff (fun (h : f.m < 2 ∧ f.vs < 32 ∧ f.vd < 32 ∧ (f.m ≠ 0 ∨ f.vs ≠ 0 ∨ f.vd ≠ 0)) => by omega)
theorem vaddI32H (f : HF) : Statement (.vaddI32H f) :=
  word two rfl decide_eq_true_iff (fun (h : f.m < 2 ∧ f.vs < 32 ∧ f.vd < 32) => by omega)
theorem vsubI32H (f : HF) : Statement (.vsubI32H f) :=
  word two rfl decide_eq_true_iff (fun (h : f.m < 2 ∧ f.vs < 32 ∧ f.vd < 32) => by omega)
theorem vmulI32H (f : HF) : Statement (.vmulI32H f) :=
  word two rfl decide_eq_true_iff (fun (h : f.m < 2 ∧ f.vs < 32 ∧ f.vd < 32) => by omega)
theorem vandH (f : HF) : Statement (.vandH f) :=
  word two rfl decide_eq_true_iff (fun (h : f.m < 2 ∧ f.vs < 32 ∧ f.vd < 32) => by omega)
theorem vorH (f : HF) : Statement (.vorH f) :=
  word two rfl decide_eq_true_iff (fun (h : f.m < 2 ∧ f.vs < 32 ∧ f.vd < 32) => by omega)
theorem vxorH (f : HF) : Statement (.vxorH f) :=
  word two rfl decide_eq_true_iff (fun (h : f.m < 2 ∧ f.vs < 32 ∧ f.vd < 32) => by omega)
theorem vshlI32H (f : HF) : Statement (.vshlI32H f) :=
  word two rfl decide_eq_true_iff (fun (h : f.m < 2 ∧ f.vs < 32 ∧ f.vd < 32) => by omega)
theorem vsraI32H (f : HF) : Statement (.vsraI32H f) :=
  word two rfl decide_eq_true_iff (fun (h : f.m < 2 ∧ f.vs < 32 ∧ f.vd < 32) => by omega)
theorem vaddF32H (f : HF) : Statement (.vaddF32H f) :=
  word two rfl decide_eq_true_iff (fun (h : f.m < 2 ∧ f.vs < 32 ∧ f.vd < 32) => by omega)
theorem vsubF32H (f : HF) : Statement (.vsubF32H f) :=
  word two rfl decide_eq_true_iff (fun (h : f.m < 2 ∧ f.vs < 32 ∧ f.vd < 32) => by omega)
theorem vmulF32H (f : HF) : Statement (.vmulF32H f) :=
  word two rfl decide_eq_true_iff (fun (h : f.m < 2 ∧ f.vs < 32 ∧ f.vd < 32) => by omega)
theorem vmaxF32H (f : HF) : Statement (.vmaxF32H f) :=
  word two rfl decide_eq_true_iff (fun (h : f.m < 2 ∧ f.vs < 32 ∧ f.vd < 32) => by omega)
theorem vminF32H (f : HF) : Statement (.vminF32H f) :=
  word two rfl decide_eq_true_iff (fun (h : f.m < 2 ∧ f.vs < 32 ∧ f.vd < 32) => by omega)
theorem vaddBf16x2H (f : HF) : Statement (.vaddBf16x2H f) :=
  word two rfl decide_eq_true_iff (fun (h : f.m < 2 ∧ f.vs < 32 ∧ f.vd < 32) => by omega)
theorem vmulBf16x2H (f : HF) : Statement (.vmulBf16x2H f) :=
  word two rfl decide_eq_true_iff (fun (h : f.m < 2 ∧ f.vs < 32 ∧ f.vd < 32) => by omega)
theorem nop : Statement (.nop) :=
  word four rfl (iff_of_true rfl trivial) (fun _ => by decide)
theorem exit : Statement (.exit) :=
  word four rfl (iff_of_true rfl trivial) (fun _ => by decide)
theorem tret : Statement (.tret) :=
  word four rfl (iff_of_true rfl trivial) (fun _ => by decide)
theorem brk (i : Nat) : Statement (.brk i) :=
  word four rfl decide_eq_true_iff (fun (h : i < 64) => by omega)
theorem waitdep : Statement (.waitdep) :=
  word four rfl (iff_of_true rfl trivial) (fun _ => by decide)
theorem trigger : Statement (.trigger) :=
  word four rfl (iff_of_true rfl trivial) (fun _ => by decide)
theorem tkrd (a : Nat) : Statement (.tkrd a) :=
  word four rfl decide_eq_true_iff (fun (h : a < 64) => by omega)
theorem bra (o : Int) : Statement (.bra o) :=
  word four rfl decide_eq_true_iff (fun (h : -131072 ≤ o ∧ o < 131072) => by omega)
theorem call (o : Int) (l : Nat) : Statement (.call o l) :=
  word four rfl decide_eq_true_iff (fun (h : -131072 ≤ o ∧ o < 131072 ∧ l < 32) => by omega)
theorem brm (o : Int) (k : Nat) : Statement (.brm o k) :=
  word four rfl decide_eq_true_iff (fun (h : -131072 ≤ o ∧ o < 131072 ∧ k < 16) => by omega)
theorem brmz (o : Int) (k : Nat) : Statement (.brmz o k) :=
  word four rfl decide_eq_true_iff (fun (h : -131072 ≤ o ∧ o < 131072 ∧ k < 16) => by omega)
theorem brany (o : Int) (k : Nat) : Statement (.brany o k) :=
  word four rfl decide_eq_true_iff (fun (h : -131072 ≤ o ∧ o < 131072 ∧ k < 16) => by omega)
theorem brall (o : Int) (k : Nat) : Statement (.brall o k) :=
  word four rfl decide_eq_true_iff (fun (h : -131072 ≤ o ∧ o < 131072 ∧ k < 16) => by omega)
theorem bnz (o : Int) (c : Nat) : Statement (.bnz o c) :=
  word four rfl decide_eq_true_iff (fun (h : -131072 ≤ o ∧ o < 131072 ∧ c < 32) => by omega)
theorem bz (o : Int) (c : Nat) : Statement (.bz o c) :=
  word four rfl decide_eq_true_iff (fun (h : -131072 ≤ o ∧ o < 131072 ∧ c < 32) => by omega)
theorem jmp (a : Nat) : Statement (.jmp a) :=
  word four rfl decide_eq_true_iff (fun (h : a < 64) => by omega)
theorem jmpv (a : Nat) : Statement (.jmpv a) :=
  word four rfl decide_eq_true_iff (fun (h : a < 64) => by omega)
theorem calli (a : Nat) (b : Nat) : Statement (.calli a b) :=
  word four rfl decide_eq_true_iff (fun (h : a < 64 ∧ b < 64) => by omega)
theorem callv (a : Nat) (b : Nat) : Statement (.callv a b) :=
  word four rfl decide_eq_true_iff (fun (h : a < 64 ∧ b < 64) => by omega)
theorem setvl (d : Nat) (n : Nat) (p : Nat) (g : Nat) (e : Nat) : Statement (.setvl d n p g e) :=
  word four rfl decide_eq_true_iff (fun (h : d < 64 ∧ n < 64 ∧ p < 2 ∧ g < 4 ∧ e < 8 ∧ e < 5) => by omega)
theorem setvlr (d : Nat) (n : Nat) (c : Nat) : Statement (.setvlr d n c) :=
  word four rfl decide_eq_true_iff (fun (h : d < 64 ∧ n < 64 ∧ c < 64) => by omega)
theorem mand (d : Nat) (a : Nat) (b : Nat) : Statement (.mand d a b) :=
  word four rfl decide_eq_true_iff (fun (h : d < 16 ∧ a < 16 ∧ b < 16) => by omega)
theorem mor (d : Nat) (a : Nat) (b : Nat) : Statement (.mor d a b) :=
  word four rfl decide_eq_true_iff (fun (h : d < 16 ∧ a < 16 ∧ b < 16) => by omega)
theorem mxor (d : Nat) (a : Nat) (b : Nat) : Statement (.mxor d a b) :=
  word four rfl decide_eq_true_iff (fun (h : d < 16 ∧ a < 16 ∧ b < 16) => by omega)
theorem mandn (d : Nat) (a : Nat) (b : Nat) : Statement (.mandn d a b) :=
  word four rfl decide_eq_true_iff (fun (h : d < 16 ∧ a < 16 ∧ b < 16) => by omega)
theorem morn (d : Nat) (a : Nat) (b : Nat) : Statement (.morn d a b) :=
  word four rfl decide_eq_true_iff (fun (h : d < 16 ∧ a < 16 ∧ b < 16) => by omega)
theorem mnot (d : Nat) (a : Nat) : Statement (.mnot d a) :=
  word four rfl decide_eq_true_iff (fun (h : d < 16 ∧ a < 16) => by omega)
theorem mmov (d : Nat) (a : Nat) : Statement (.mmov d a) :=
  word four rfl decide_eq_true_iff (fun (h : d < 16 ∧ a < 16) => by omega)
theorem mvl (d : Nat) : Statement (.mvl d) :=
  word four rfl decide_eq_true_iff (fun (h : d < 16) => by omega)
theorem mact (d : Nat) : Statement (.mact d) :=
  word four rfl decide_eq_true_iff (fun (h : d < 16) => by omega)
theorem mpop (d : Nat) (a : Nat) : Statement (.mpop d a) :=
  word four rfl decide_eq_true_iff (fun (h : d < 64 ∧ a < 16) => by omega)
theorem mfirst (d : Nat) (a : Nat) : Statement (.mfirst d a) :=
  word four rfl decide_eq_true_iff (fun (h : d < 64 ∧ a < 16) => by omega)
theorem mrds (d : Nat) (a : Nat) (k : Nat) : Statement (.mrds d a k) :=
  word four rfl decide_eq_true_iff (fun (h : d < 64 ∧ a < 16 ∧ k < 64 ∧ k < 16) => by omega)
theorem mwrs (d : Nat) (b : Nat) (k : Nat) : Statement (.mwrs d b k) :=
  word four rfl decide_eq_true_iff (fun (h : d < 16 ∧ b < 64 ∧ k < 64 ∧ k < 16) => by omega)
theorem barArrive (a : Nat) (b : Nat) (c : Nat) : Statement (.barArrive a b c) :=
  word four rfl decide_eq_true_iff (fun (h : a < 16 ∧ b < 64 ∧ c < 64) => by omega)
theorem barCharge (a : Nat) (b : Nat) : Statement (.barCharge a b) :=
  word four rfl decide_eq_true_iff (fun (h : a < 16 ∧ b < 64) => by omega)
theorem barWait (a : Nat) (b : Nat) : Statement (.barWait a b) :=
  word four rfl decide_eq_true_iff (fun (h : a < 16 ∧ b < 64) => by omega)
theorem stgArrive (n : Nat) (k : Nat) : Statement (.stgArrive n k) :=
  word four rfl decide_eq_true_iff (fun (h : n < 8 ∧ k < 16) => by omega)
theorem stgWait (n : Nat) (k : Nat) (p : Nat) : Statement (.stgWait n k p) :=
  word four rfl decide_eq_true_iff (fun (h : n < 8 ∧ k < 16 ∧ p < 2) => by omega)
theorem csrr (a : Nat) (n : Nat) : Statement (.csrr a n) :=
  word four rfl decide_eq_true_iff (fun (h : a < 64 ∧ n < 64 ∧ csrNumber n) => by omega)
theorem csrw (a : Nat) (n : Nat) : Statement (.csrw a n) :=
  word four rfl decide_eq_true_iff (fun (h : a < 64 ∧ n < 64 ∧ csrNumber n) => by omega)
theorem csrset (a : Nat) (n : Nat) : Statement (.csrset a n) :=
  word four rfl decide_eq_true_iff (fun (h : a < 64 ∧ n < 64 ∧ csrNumber n) => by omega)
theorem csrclr (a : Nat) (n : Nat) : Statement (.csrclr a n) :=
  word four rfl decide_eq_true_iff (fun (h : a < 64 ∧ n < 64 ∧ csrNumber n) => by omega)
theorem rdts (a : Nat) (n : Nat) : Statement (.rdts a n) :=
  word four rfl decide_eq_true_iff (fun (h : a < 64 ∧ n < 64 ∧ n < 8) => by omega)
theorem wrts (a : Nat) (n : Nat) : Statement (.wrts a n) :=
  word four rfl decide_eq_true_iff (fun (h : a < 64 ∧ n < 64 ∧ n < 8) => by omega)
theorem rdvpc (a : Nat) : Statement (.rdvpc a) :=
  word four rfl decide_eq_true_iff (fun (h : a < 64) => by omega)
theorem tlbiVa (a : Nat) (b : Nat) : Statement (.tlbiVa a b) :=
  word four rfl decide_eq_true_iff (fun (h : a < 64 ∧ b < 64) => by omega)
theorem tlbiAsid (a : Nat) : Statement (.tlbiAsid a) :=
  word four rfl decide_eq_true_iff (fun (h : a < 64) => by omega)
theorem ptsync : Statement (.ptsync) :=
  word four rfl (iff_of_true rfl trivial) (fun _ => by decide)
theorem add (d : Nat) (a : Nat) (b : Nat) : Statement (.add d a b) :=
  word four rfl decide_eq_true_iff (fun (h : d < 64 ∧ a < 64 ∧ b < 64) => by omega)
theorem sub (d : Nat) (a : Nat) (b : Nat) : Statement (.sub d a b) :=
  word four rfl decide_eq_true_iff (fun (h : d < 64 ∧ a < 64 ∧ b < 64) => by omega)
theorem mul (d : Nat) (a : Nat) (b : Nat) : Statement (.mul d a b) :=
  word four rfl decide_eq_true_iff (fun (h : d < 64 ∧ a < 64 ∧ b < 64) => by omega)
theorem mulh (d : Nat) (a : Nat) (b : Nat) : Statement (.mulh d a b) :=
  word four rfl decide_eq_true_iff (fun (h : d < 64 ∧ a < 64 ∧ b < 64) => by omega)
theorem mulhu (d : Nat) (a : Nat) (b : Nat) : Statement (.mulhu d a b) :=
  word four rfl decide_eq_true_iff (fun (h : d < 64 ∧ a < 64 ∧ b < 64) => by omega)
theorem div (d : Nat) (a : Nat) (b : Nat) : Statement (.div d a b) :=
  word four rfl decide_eq_true_iff (fun (h : d < 64 ∧ a < 64 ∧ b < 64) => by omega)
theorem divu (d : Nat) (a : Nat) (b : Nat) : Statement (.divu d a b) :=
  word four rfl decide_eq_true_iff (fun (h : d < 64 ∧ a < 64 ∧ b < 64) => by omega)
theorem rem (d : Nat) (a : Nat) (b : Nat) : Statement (.rem d a b) :=
  word four rfl decide_eq_true_iff (fun (h : d < 64 ∧ a < 64 ∧ b < 64) => by omega)
theorem remu (d : Nat) (a : Nat) (b : Nat) : Statement (.remu d a b) :=
  word four rfl decide_eq_true_iff (fun (h : d < 64 ∧ a < 64 ∧ b < 64) => by omega)
theorem and (d : Nat) (a : Nat) (b : Nat) : Statement (.and d a b) :=
  word four rfl decide_eq_true_iff (fun (h : d < 64 ∧ a < 64 ∧ b < 64) => by omega)
theorem or (d : Nat) (a : Nat) (b : Nat) : Statement (.or d a b) :=
  word four rfl decide_eq_true_iff (fun (h : d < 64 ∧ a < 64 ∧ b < 64) => by omega)
theorem xor (d : Nat) (a : Nat) (b : Nat) : Statement (.xor d a b) :=
  word four rfl decide_eq_true_iff (fun (h : d < 64 ∧ a < 64 ∧ b < 64) => by omega)
theorem andn (d : Nat) (a : Nat) (b : Nat) : Statement (.andn d a b) :=
  word four rfl decide_eq_true_iff (fun (h : d < 64 ∧ a < 64 ∧ b < 64) => by omega)
theorem shl (d : Nat) (a : Nat) (b : Nat) : Statement (.shl d a b) :=
  word four rfl decide_eq_true_iff (fun (h : d < 64 ∧ a < 64 ∧ b < 64) => by omega)
theorem shr (d : Nat) (a : Nat) (b : Nat) : Statement (.shr d a b) :=
  word four rfl decide_eq_true_iff (fun (h : d < 64 ∧ a < 64 ∧ b < 64) => by omega)
theorem sra (d : Nat) (a : Nat) (b : Nat) : Statement (.sra d a b) :=
  word four rfl decide_eq_true_iff (fun (h : d < 64 ∧ a < 64 ∧ b < 64) => by omega)
theorem ror (d : Nat) (a : Nat) (b : Nat) : Statement (.ror d a b) :=
  word four rfl decide_eq_true_iff (fun (h : d < 64 ∧ a < 64 ∧ b < 64) => by omega)
theorem slt (d : Nat) (a : Nat) (b : Nat) : Statement (.slt d a b) :=
  word four rfl decide_eq_true_iff (fun (h : d < 64 ∧ a < 64 ∧ b < 64) => by omega)
theorem sltu (d : Nat) (a : Nat) (b : Nat) : Statement (.sltu d a b) :=
  word four rfl decide_eq_true_iff (fun (h : d < 64 ∧ a < 64 ∧ b < 64) => by omega)
theorem seq (d : Nat) (a : Nat) (b : Nat) : Statement (.seq d a b) :=
  word four rfl decide_eq_true_iff (fun (h : d < 64 ∧ a < 64 ∧ b < 64) => by omega)
theorem min (d : Nat) (a : Nat) (b : Nat) : Statement (.min d a b) :=
  word four rfl decide_eq_true_iff (fun (h : d < 64 ∧ a < 64 ∧ b < 64) => by omega)
theorem max (d : Nat) (a : Nat) (b : Nat) : Statement (.max d a b) :=
  word four rfl decide_eq_true_iff (fun (h : d < 64 ∧ a < 64 ∧ b < 64) => by omega)
theorem minu (d : Nat) (a : Nat) (b : Nat) : Statement (.minu d a b) :=
  word four rfl decide_eq_true_iff (fun (h : d < 64 ∧ a < 64 ∧ b < 64) => by omega)
theorem maxu (d : Nat) (a : Nat) (b : Nat) : Statement (.maxu d a b) :=
  word four rfl decide_eq_true_iff (fun (h : d < 64 ∧ a < 64 ∧ b < 64) => by omega)
theorem clz (d : Nat) (a : Nat) : Statement (.clz d a) :=
  word four rfl decide_eq_true_iff (fun (h : d < 64 ∧ a < 64) => by omega)
theorem popc (d : Nat) (a : Nat) : Statement (.popc d a) :=
  word four rfl decide_eq_true_iff (fun (h : d < 64 ∧ a < 64) => by omega)
theorem addi (d : Nat) (a : Nat) (i : Int) : Statement (.addi d a i) :=
  word four rfl decide_eq_true_iff (fun (h : d < 64 ∧ a < 64 ∧ -2048 ≤ i ∧ i < 2048) => by omega)
theorem andi (d : Nat) (a : Nat) (i : Int) : Statement (.andi d a i) :=
  word four rfl decide_eq_true_iff (fun (h : d < 64 ∧ a < 64 ∧ -2048 ≤ i ∧ i < 2048) => by omega)
theorem ori (d : Nat) (a : Nat) (i : Int) : Statement (.ori d a i) :=
  word four rfl decide_eq_true_iff (fun (h : d < 64 ∧ a < 64 ∧ -2048 ≤ i ∧ i < 2048) => by omega)
theorem xori (d : Nat) (a : Nat) (i : Int) : Statement (.xori d a i) :=
  word four rfl decide_eq_true_iff (fun (h : d < 64 ∧ a < 64 ∧ -2048 ≤ i ∧ i < 2048) => by omega)
theorem shli (d : Nat) (a : Nat) (n : Nat) : Statement (.shli d a n) :=
  word four rfl decide_eq_true_iff (fun (h : d < 64 ∧ a < 64 ∧ n < 64) => by omega)
theorem shri (d : Nat) (a : Nat) (n : Nat) : Statement (.shri d a n) :=
  word four rfl decide_eq_true_iff (fun (h : d < 64 ∧ a < 64 ∧ n < 64) => by omega)
theorem srai (d : Nat) (a : Nat) (n : Nat) : Statement (.srai d a n) :=
  word four rfl decide_eq_true_iff (fun (h : d < 64 ∧ a < 64 ∧ n < 64) => by omega)
theorem rori (d : Nat) (a : Nat) (n : Nat) : Statement (.rori d a n) :=
  word four rfl decide_eq_true_iff (fun (h : d < 64 ∧ a < 64 ∧ n < 64) => by omega)
theorem lui (d : Nat) (i : Int) : Statement (.lui d i) :=
  word four rfl decide_eq_true_iff (fun (h : d < 64 ∧ -131072 ≤ i ∧ i < 131072) => by omega)
theorem seqi (d : Nat) (a : Nat) (i : Int) : Statement (.seqi d a i) :=
  word four rfl decide_eq_true_iff (fun (h : d < 64 ∧ a < 64 ∧ -512 ≤ i ∧ i < 512) => by omega)
theorem slti (d : Nat) (a : Nat) (i : Int) : Statement (.slti d a i) :=
  word four rfl decide_eq_true_iff (fun (h : d < 64 ∧ a < 64 ∧ -512 ≤ i ∧ i < 512) => by omega)
theorem sltiu (d : Nat) (a : Nat) (i : Int) : Statement (.sltiu d a i) :=
  word four rfl decide_eq_true_iff (fun (h : d < 64 ∧ a < 64 ∧ -512 ≤ i ∧ i < 512) => by omega)
theorem sgti (d : Nat) (a : Nat) (i : Int) : Statement (.sgti d a i) :=
  word four rfl decide_eq_true_iff (fun (h : d < 64 ∧ a < 64 ∧ -512 ≤ i ∧ i < 512) => by omega)
theorem pspace (d : Nat) (a : Nat) (k : Nat) : Statement (.pspace d a k) :=
  word four rfl decide_eq_true_iff (fun (h : d < 64 ∧ a < 64 ∧ k < 8) => by omega)
theorem prank (d : Nat) (a : Nat) (b : Nat) : Statement (.prank d a b) :=
  word four rfl decide_eq_true_iff (fun (h : d < 64 ∧ a < 64 ∧ b < 64) => by omega)
theorem ppol (d : Nat) (a : Nat) (p : Nat) : Statement (.ppol d a p) :=
  word four rfl decide_eq_true_iff (fun (h : d < 64 ∧ a < 64 ∧ p < 2) => by omega)
theorem pget (d : Nat) (a : Nat) (k : Nat) : Statement (.pget d a k) :=
  word four rfl decide_eq_true_iff (fun (h : d < 64 ∧ a < 64 ∧ k < 4) => by omega)
theorem vadd (f : LV) (t : Nat) : Statement (.vadd f t) :=
  word four rfl decide_eq_true_iff (fun (h : f.vs2 < 32 ∧ f.vs1 < 32 ∧ f.vd < 32 ∧ f.vb < 8 ∧ f.pr < 16 ∧ t < 4 ∧ f.pr ≠ 8) => by omega)
theorem vsub (f : LV) (t : Nat) : Statement (.vsub f t) :=
  word four rfl decide_eq_true_iff (fun (h : f.vs2 < 32 ∧ f.vs1 < 32 ∧ f.vd < 32 ∧ f.vb < 8 ∧ f.pr < 16 ∧ t < 4 ∧ f.pr ≠ 8) => by omega)
theorem vmul (f : LV) (t : Nat) : Statement (.vmul f t) :=
  word four rfl decide_eq_true_iff (fun (h : f.vs2 < 32 ∧ f.vs1 < 32 ∧ f.vd < 32 ∧ f.vb < 8 ∧ f.pr < 16 ∧ t < 4 ∧ f.pr ≠ 8) => by omega)
theorem vmulhI (f : LV) : Statement (.vmulhI f) :=
  word four rfl decide_eq_true_iff (fun (h : f.vs2 < 32 ∧ f.vs1 < 32 ∧ f.vd < 32 ∧ f.vb < 8 ∧ f.pr < 16 ∧ f.pr ≠ 8) => by omega)
theorem vmulhN (f : LV) : Statement (.vmulhN f) :=
  word four rfl decide_eq_true_iff (fun (h : f.vs2 < 32 ∧ f.vs1 < 32 ∧ f.vd < 32 ∧ f.vb < 8 ∧ f.pr < 16 ∧ f.pr ≠ 8) => by omega)
theorem vmulhIn (f : LV) : Statement (.vmulhIn f) :=
  word four rfl decide_eq_true_iff (fun (h : f.vs2 < 32 ∧ f.vs1 < 32 ∧ f.vd < 32 ∧ f.vb < 8 ∧ f.pr < 16 ∧ f.pr ≠ 8) => by omega)
theorem vminI (f : LV) : Statement (.vminI f) :=
  word four rfl decide_eq_true_iff (fun (h : f.vs2 < 32 ∧ f.vs1 < 32 ∧ f.vd < 32 ∧ f.vb < 8 ∧ f.pr < 16 ∧ f.pr ≠ 8) => by omega)
theorem vminN (f : LV) : Statement (.vminN f) :=
  word four rfl decide_eq_true_iff (fun (h : f.vs2 < 32 ∧ f.vs1 < 32 ∧ f.vd < 32 ∧ f.vb < 8 ∧ f.pr < 16 ∧ f.pr ≠ 8) => by omega)
theorem vmaxI (f : LV) : Statement (.vmaxI f) :=
  word four rfl decide_eq_true_iff (fun (h : f.vs2 < 32 ∧ f.vs1 < 32 ∧ f.vd < 32 ∧ f.vb < 8 ∧ f.pr < 16 ∧ f.pr ≠ 8) => by omega)
theorem vmaxN (f : LV) : Statement (.vmaxN f) :=
  word four rfl decide_eq_true_iff (fun (h : f.vs2 < 32 ∧ f.vs1 < 32 ∧ f.vd < 32 ∧ f.vb < 8 ∧ f.pr < 16 ∧ f.pr ≠ 8) => by omega)
theorem vaddsI (f : LV) : Statement (.vaddsI f) :=
  word four rfl decide_eq_true_iff (fun (h : f.vs2 < 32 ∧ f.vs1 < 32 ∧ f.vd < 32 ∧ f.vb < 8 ∧ f.pr < 16 ∧ f.pr ≠ 8) => by omega)
theorem vaddsN (f : LV) : Statement (.vaddsN f) :=
  word four rfl decide_eq_true_iff (fun (h : f.vs2 < 32 ∧ f.vs1 < 32 ∧ f.vd < 32 ∧ f.vb < 8 ∧ f.pr < 16 ∧ f.pr ≠ 8) => by omega)
theorem vavgI (f : LV) : Statement (.vavgI f) :=
  word four rfl decide_eq_true_iff (fun (h : f.vs2 < 32 ∧ f.vs1 < 32 ∧ f.vd < 32 ∧ f.vb < 8 ∧ f.pr < 16 ∧ f.pr ≠ 8) => by omega)
theorem vavgN (f : LV) : Statement (.vavgN f) :=
  word four rfl decide_eq_true_iff (fun (h : f.vs2 < 32 ∧ f.vs1 < 32 ∧ f.vd < 32 ∧ f.vb < 8 ∧ f.pr < 16 ∧ f.pr ≠ 8) => by omega)
theorem vsubsI (f : LV) : Statement (.vsubsI f) :=
  word four rfl decide_eq_true_iff (fun (h : f.vs2 < 32 ∧ f.vs1 < 32 ∧ f.vd < 32 ∧ f.vb < 8 ∧ f.pr < 16 ∧ f.pr ≠ 8) => by omega)
theorem vsubsN (f : LV) : Statement (.vsubsN f) :=
  word four rfl decide_eq_true_iff (fun (h : f.vs2 < 32 ∧ f.vs1 < 32 ∧ f.vd < 32 ∧ f.vb < 8 ∧ f.pr < 16 ∧ f.pr ≠ 8) => by omega)
theorem vabsdI (f : LV) : Statement (.vabsdI f) :=
  word four rfl decide_eq_true_iff (fun (h : f.vs2 < 32 ∧ f.vs1 < 32 ∧ f.vd < 32 ∧ f.vb < 8 ∧ f.pr < 16 ∧ f.pr ≠ 8) => by omega)
theorem vabsdN (f : LV) : Statement (.vabsdN f) :=
  word four rfl decide_eq_true_iff (fun (h : f.vs2 < 32 ∧ f.vs1 < 32 ∧ f.vd < 32 ∧ f.vb < 8 ∧ f.pr < 16 ∧ f.pr ≠ 8) => by omega)
theorem vand (f : LV) : Statement (.vand f) :=
  word four rfl decide_eq_true_iff (fun (h : f.vs2 < 32 ∧ f.vs1 < 32 ∧ f.vd < 32 ∧ f.vb < 8 ∧ f.pr < 16 ∧ f.pr ≠ 8) => by omega)
theorem vor (f : LV) : Statement (.vor f) :=
  word four rfl decide_eq_true_iff (fun (h : f.vs2 < 32 ∧ f.vs1 < 32 ∧ f.vd < 32 ∧ f.vb < 8 ∧ f.pr < 16 ∧ f.pr ≠ 8) => by omega)
theorem vxor (f : LV) : Statement (.vxor f) :=
  word four rfl decide_eq_true_iff (fun (h : f.vs2 < 32 ∧ f.vs1 < 32 ∧ f.vd < 32 ∧ f.vb < 8 ∧ f.pr < 16 ∧ f.pr ≠ 8) => by omega)
theorem vandn (f : LV) : Statement (.vandn f) :=
  word four rfl decide_eq_true_iff (fun (h : f.vs2 < 32 ∧ f.vs1 < 32 ∧ f.vd < 32 ∧ f.vb < 8 ∧ f.pr < 16 ∧ f.pr ≠ 8) => by omega)
theorem vshlVector (f : LV) : Statement (.vshlVector f) :=
  word four rfl decide_eq_true_iff (fun (h : f.vs2 < 32 ∧ f.vs1 < 32 ∧ f.vd < 32 ∧ f.vb < 8 ∧ f.pr < 16 ∧ f.pr ≠ 8) => by omega)
theorem vsrlVector (f : LV) : Statement (.vsrlVector f) :=
  word four rfl decide_eq_true_iff (fun (h : f.vs2 < 32 ∧ f.vs1 < 32 ∧ f.vd < 32 ∧ f.vb < 8 ∧ f.pr < 16 ∧ f.pr ≠ 8) => by omega)
theorem vsraVector (f : LV) : Statement (.vsraVector f) :=
  word four rfl decide_eq_true_iff (fun (h : f.vs2 < 32 ∧ f.vs1 < 32 ∧ f.vd < 32 ∧ f.vb < 8 ∧ f.pr < 16 ∧ f.pr ≠ 8) => by omega)
theorem vrsraVector (f : LV) : Statement (.vrsraVector f) :=
  word four rfl decide_eq_true_iff (fun (h : f.vs2 < 32 ∧ f.vs1 < 32 ∧ f.vd < 32 ∧ f.vb < 8 ∧ f.pr < 16 ∧ f.pr ≠ 8) => by omega)
theorem vshlScalar (f : LV) : Statement (.vshlScalar f) :=
  word four rfl decide_eq_true_iff (fun (h : f.vs2 < 32 ∧ f.vs1 < 32 ∧ f.vd < 32 ∧ f.vb < 8 ∧ f.pr < 16 ∧ f.pr ≠ 8) => by omega)
theorem vsrlScalar (f : LV) : Statement (.vsrlScalar f) :=
  word four rfl decide_eq_true_iff (fun (h : f.vs2 < 32 ∧ f.vs1 < 32 ∧ f.vd < 32 ∧ f.vb < 8 ∧ f.pr < 16 ∧ f.pr ≠ 8) => by omega)
theorem vsraScalar (f : LV) : Statement (.vsraScalar f) :=
  word four rfl decide_eq_true_iff (fun (h : f.vs2 < 32 ∧ f.vs1 < 32 ∧ f.vd < 32 ∧ f.vb < 8 ∧ f.pr < 16 ∧ f.pr ≠ 8) => by omega)
theorem vrsraScalar (f : LV) : Statement (.vrsraScalar f) :=
  word four rfl decide_eq_true_iff (fun (h : f.vs2 < 32 ∧ f.vs1 < 32 ∧ f.vd < 32 ∧ f.vb < 8 ∧ f.pr < 16 ∧ f.pr ≠ 8) => by omega)
theorem vshlImm (f : LV) : Statement (.vshlImm f) :=
  word four rfl decide_eq_true_iff (fun (h : f.vs2 < 32 ∧ f.vs1 < 32 ∧ f.vd < 32 ∧ f.vb < 8 ∧ f.pr < 16 ∧ f.pr ≠ 8) => by omega)
theorem vsrlImm (f : LV) : Statement (.vsrlImm f) :=
  word four rfl decide_eq_true_iff (fun (h : f.vs2 < 32 ∧ f.vs1 < 32 ∧ f.vd < 32 ∧ f.vb < 8 ∧ f.pr < 16 ∧ f.pr ≠ 8) => by omega)
theorem vsraImm (f : LV) : Statement (.vsraImm f) :=
  word four rfl decide_eq_true_iff (fun (h : f.vs2 < 32 ∧ f.vs1 < 32 ∧ f.vd < 32 ∧ f.vb < 8 ∧ f.pr < 16 ∧ f.pr ≠ 8) => by omega)
theorem vrsraImm (f : LV) : Statement (.vrsraImm f) :=
  word four rfl decide_eq_true_iff (fun (h : f.vs2 < 32 ∧ f.vs1 < 32 ∧ f.vd < 32 ∧ f.vb < 8 ∧ f.pr < 16 ∧ f.pr ≠ 8) => by omega)
theorem vcmpeq (f : LV) : Statement (.vcmpeq f) :=
  word four rfl decide_eq_true_iff (fun (h : f.vs2 < 32 ∧ f.vs1 < 32 ∧ f.vd < 16 ∧ f.vb < 8 ∧ f.pr < 16 ∧ f.pr ≠ 8) => by omega)
theorem vcmpne (f : LV) : Statement (.vcmpne f) :=
  word four rfl decide_eq_true_iff (fun (h : f.vs2 < 32 ∧ f.vs1 < 32 ∧ f.vd < 16 ∧ f.vb < 8 ∧ f.pr < 16 ∧ f.pr ≠ 8) => by omega)
theorem vcmpltI (f : LV) : Statement (.vcmpltI f) :=
  word four rfl decide_eq_true_iff (fun (h : f.vs2 < 32 ∧ f.vs1 < 32 ∧ f.vd < 16 ∧ f.vb < 8 ∧ f.pr < 16 ∧ f.pr ≠ 8) => by omega)
theorem vcmpltN (f : LV) : Statement (.vcmpltN f) :=
  word four rfl decide_eq_true_iff (fun (h : f.vs2 < 32 ∧ f.vs1 < 32 ∧ f.vd < 16 ∧ f.vb < 8 ∧ f.pr < 16 ∧ f.pr ≠ 8) => by omega)
theorem vpmac2I16x2 (f : LV) : Statement (.vpmac2I16x2 f) :=
  word four rfl decide_eq_true_iff (fun (h : f.vs2 < 32 ∧ f.vs1 < 32 ∧ f.vd < 32 ∧ f.vb < 8 ∧ f.pr < 16 ∧ f.pr ≠ 8) => by omega)
theorem vpmac2I16x2Scalar (f : LV) : Statement (.vpmac2I16x2Scalar f) :=
  word four rfl decide_eq_true_iff (fun (h : f.vs2 < 32 ∧ f.vs1 < 32 ∧ f.vd < 32 ∧ f.vb < 8 ∧ f.pr < 16 ∧ f.pr ≠ 8) => by omega)
theorem vpaddsI16x2 (f : LV) : Statement (.vpaddsI16x2 f) :=
  word four rfl decide_eq_true_iff (fun (h : f.vs2 < 32 ∧ f.vs1 < 32 ∧ f.vd < 32 ∧ f.vb < 8 ∧ f.pr < 16 ∧ f.pr ≠ 8) => by omega)
theorem vmac (f : LV) : Statement (.vmac f) :=
  word four rfl decide_eq_true_iff (fun (h : f.vs2 < 32 ∧ f.vs1 < 32 ∧ f.vd < 32 ∧ f.vb < 8 ∧ f.pr < 16 ∧ f.pr ≠ 8) => by omega)
theorem vaddScalar (f : LV) : Statement (.vaddScalar f) :=
  word four rfl decide_eq_true_iff (fun (h : f.vs2 < 32 ∧ f.vs1 < 32 ∧ f.vd < 32 ∧ f.vb < 8 ∧ f.pr < 16 ∧ f.pr ≠ 8) => by omega)
theorem vsubScalar (f : LV) : Statement (.vsubScalar f) :=
  word four rfl decide_eq_true_iff (fun (h : f.vs2 < 32 ∧ f.vs1 < 32 ∧ f.vd < 32 ∧ f.vb < 8 ∧ f.pr < 16 ∧ f.pr ≠ 8) => by omega)
theorem vrsub (f : LV) : Statement (.vrsub f) :=
  word four rfl decide_eq_true_iff (fun (h : f.vs2 < 32 ∧ f.vs1 < 32 ∧ f.vd < 32 ∧ f.vb < 8 ∧ f.pr < 16 ∧ f.pr ≠ 8) => by omega)
theorem vmulScalar (f : LV) : Statement (.vmulScalar f) :=
  word four rfl decide_eq_true_iff (fun (h : f.vs2 < 32 ∧ f.vs1 < 32 ∧ f.vd < 32 ∧ f.vb < 8 ∧ f.pr < 16 ∧ f.pr ≠ 8) => by omega)
theorem vsel (f : LV) : Statement (.vsel f) :=
  word four rfl decide_eq_true_iff (fun (h : f.vs2 < 32 ∧ f.vs1 < 32 ∧ f.vd < 32 ∧ f.vb < 8 ∧ f.pr < 16 ∧ f.pr ≠ 8 ∧ f.pr ≠ 0) => by omega)
theorem vsplat (s : Nat) (d : Nat) (b : Nat) (p : Nat) : Statement (.vsplat s d b p) :=
  word four rfl decide_eq_true_iff (fun (h : s < 32 ∧ d < 32 ∧ b < 8 ∧ p < 16 ∧ p ≠ 8) => by omega)
theorem vid (d : Nat) (b : Nat) (p : Nat) : Statement (.vid d b p) :=
  word four rfl decide_eq_true_iff (fun (h : d < 32 ∧ b < 8 ∧ p < 16 ∧ p ≠ 8) => by omega)
theorem vaddF (f : LV) (t : Nat) : Statement (.vaddF f t) :=
  word four rfl decide_eq_true_iff (fun (h : f.vs2 < 32 ∧ f.vs1 < 32 ∧ f.vd < 32 ∧ f.vb < 8 ∧ f.pr < 16 ∧ t < 4 ∧ f.pr ≠ 8) => by omega)
theorem vsubF (f : LV) (t : Nat) : Statement (.vsubF f t) :=
  word four rfl decide_eq_true_iff (fun (h : f.vs2 < 32 ∧ f.vs1 < 32 ∧ f.vd < 32 ∧ f.vb < 8 ∧ f.pr < 16 ∧ t < 4 ∧ f.pr ≠ 8) => by omega)
theorem vmulF (f : LV) (t : Nat) : Statement (.vmulF f t) :=
  word four rfl decide_eq_true_iff (fun (h : f.vs2 < 32 ∧ f.vs1 < 32 ∧ f.vd < 32 ∧ f.vb < 8 ∧ f.pr < 16 ∧ t < 4 ∧ f.pr ≠ 8) => by omega)
theorem vdivF (f : LV) (t : Nat) : Statement (.vdivF f t) :=
  word four rfl decide_eq_true_iff (fun (h : f.vs2 < 32 ∧ f.vs1 < 32 ∧ f.vd < 32 ∧ f.vb < 8 ∧ f.pr < 16 ∧ t < 4 ∧ f.pr ≠ 8) => by omega)
theorem vfmaF (f : LV) (t : Nat) : Statement (.vfmaF f t) :=
  word four rfl decide_eq_true_iff (fun (h : f.vs2 < 32 ∧ f.vs1 < 32 ∧ f.vd < 32 ∧ f.vb < 8 ∧ f.pr < 16 ∧ t < 4 ∧ f.pr ≠ 8) => by omega)
theorem vfmsF (f : LV) (t : Nat) : Statement (.vfmsF f t) :=
  word four rfl decide_eq_true_iff (fun (h : f.vs2 < 32 ∧ f.vs1 < 32 ∧ f.vd < 32 ∧ f.vb < 8 ∧ f.pr < 16 ∧ t < 4 ∧ f.pr ≠ 8) => by omega)
theorem vfnmaF (f : LV) (t : Nat) : Statement (.vfnmaF f t) :=
  word four rfl decide_eq_true_iff (fun (h : f.vs2 < 32 ∧ f.vs1 < 32 ∧ f.vd < 32 ∧ f.vb < 8 ∧ f.pr < 16 ∧ t < 4 ∧ f.pr ≠ 8) => by omega)
theorem vminF (f : LV) (t : Nat) : Statement (.vminF f t) :=
  word four rfl decide_eq_true_iff (fun (h : f.vs2 < 32 ∧ f.vs1 < 32 ∧ f.vd < 32 ∧ f.vb < 8 ∧ f.pr < 16 ∧ t < 4 ∧ f.pr ≠ 8) => by omega)
theorem vmaxF (f : LV) (t : Nat) : Statement (.vmaxF f t) :=
  word four rfl decide_eq_true_iff (fun (h : f.vs2 < 32 ∧ f.vs1 < 32 ∧ f.vd < 32 ∧ f.vb < 8 ∧ f.pr < 16 ∧ t < 4 ∧ f.pr ≠ 8) => by omega)
theorem vfcmpeq (f : LV) : Statement (.vfcmpeq f) :=
  word four rfl decide_eq_true_iff (fun (h : f.vs2 < 32 ∧ f.vs1 < 32 ∧ f.vd < 16 ∧ f.vb < 8 ∧ f.pr < 16 ∧ f.pr ≠ 8) => by omega)
theorem vfcmplt (f : LV) : Statement (.vfcmplt f) :=
  word four rfl decide_eq_true_iff (fun (h : f.vs2 < 32 ∧ f.vs1 < 32 ∧ f.vd < 16 ∧ f.vb < 8 ∧ f.pr < 16 ∧ f.pr ≠ 8) => by omega)
theorem vfcmple (f : LV) : Statement (.vfcmple f) :=
  word four rfl decide_eq_true_iff (fun (h : f.vs2 < 32 ∧ f.vs1 < 32 ∧ f.vd < 16 ∧ f.vb < 8 ∧ f.pr < 16 ∧ f.pr ≠ 8) => by omega)
theorem vfcmpun (f : LV) : Statement (.vfcmpun f) :=
  word four rfl decide_eq_true_iff (fun (h : f.vs2 < 32 ∧ f.vs1 < 32 ∧ f.vd < 16 ∧ f.vb < 8 ∧ f.pr < 16 ∧ f.pr ≠ 8) => by omega)
theorem vsqrt (f : LW) : Statement (.vsqrt f) :=
  word four rfl decide_eq_true_iff (fun (h : f.a < 256 ∧ f.b < 256 ∧ f.ia < 2 ∧ f.ib < 2 ∧ f.pr < 16 ∧ f.pr ≠ 8 ∧ (f.ia = 1 → f.a < 64) ∧ (f.ib = 1 → f.b < 64)) => by omega)
theorem vabs (f : LW) : Statement (.vabs f) :=
  word four rfl decide_eq_true_iff (fun (h : f.a < 256 ∧ f.b < 256 ∧ f.ia < 2 ∧ f.ib < 2 ∧ f.pr < 16 ∧ f.pr ≠ 8 ∧ (f.ia = 1 → f.a < 64) ∧ (f.ib = 1 → f.b < 64)) => by omega)
theorem vneg (f : LW) : Statement (.vneg f) :=
  word four rfl decide_eq_true_iff (fun (h : f.a < 256 ∧ f.b < 256 ∧ f.ia < 2 ∧ f.ib < 2 ∧ f.pr < 16 ∧ f.pr ≠ 8 ∧ (f.ia = 1 → f.a < 64) ∧ (f.ib = 1 → f.b < 64)) => by omega)
theorem vclass (f : LW) : Statement (.vclass f) :=
  word four rfl decide_eq_true_iff (fun (h : f.a < 256 ∧ f.b < 256 ∧ f.ia < 2 ∧ f.ib < 2 ∧ f.pr < 16 ∧ f.pr ≠ 8 ∧ (f.ia = 1 → f.a < 64) ∧ (f.ib = 1 → f.b < 64)) => by omega)
theorem vaddFScalar (f : LV) : Statement (.vaddFScalar f) :=
  word four rfl decide_eq_true_iff (fun (h : f.vs2 < 32 ∧ f.vs1 < 32 ∧ f.vd < 32 ∧ f.vb < 8 ∧ f.pr < 16 ∧ f.pr ≠ 8) => by omega)
theorem vmulFScalar (f : LV) : Statement (.vmulFScalar f) :=
  word four rfl decide_eq_true_iff (fun (h : f.vs2 < 32 ∧ f.vs1 < 32 ∧ f.vd < 32 ∧ f.vb < 8 ∧ f.pr < 16 ∧ f.pr ≠ 8) => by omega)
theorem vfmaFScalar (f : LV) : Statement (.vfmaFScalar f) :=
  word four rfl decide_eq_true_iff (fun (h : f.vs2 < 32 ∧ f.vs1 < 32 ∧ f.vd < 32 ∧ f.vb < 8 ∧ f.pr < 16 ∧ f.pr ≠ 8) => by omega)
theorem vsubFScalar (f : LV) : Statement (.vsubFScalar f) :=
  word four rfl decide_eq_true_iff (fun (h : f.vs2 < 32 ∧ f.vs1 < 32 ∧ f.vd < 32 ∧ f.vb < 8 ∧ f.pr < 16 ∧ f.pr ≠ 8) => by omega)
theorem vaddBf16x2 (f : LV) : Statement (.vaddBf16x2 f) :=
  word four rfl decide_eq_true_iff (fun (h : f.vs2 < 32 ∧ f.vs1 < 32 ∧ f.vd < 32 ∧ f.vb < 8 ∧ f.pr < 16 ∧ f.pr ≠ 8) => by omega)
theorem vsubBf16x2 (f : LV) : Statement (.vsubBf16x2 f) :=
  word four rfl decide_eq_true_iff (fun (h : f.vs2 < 32 ∧ f.vs1 < 32 ∧ f.vd < 32 ∧ f.vb < 8 ∧ f.pr < 16 ∧ f.pr ≠ 8) => by omega)
theorem vmulBf16x2 (f : LV) : Statement (.vmulBf16x2 f) :=
  word four rfl decide_eq_true_iff (fun (h : f.vs2 < 32 ∧ f.vs1 < 32 ∧ f.vd < 32 ∧ f.vb < 8 ∧ f.pr < 16 ∧ f.pr ≠ 8) => by omega)
theorem vfmaBf16x2 (f : LV) : Statement (.vfmaBf16x2 f) :=
  word four rfl decide_eq_true_iff (fun (h : f.vs2 < 32 ∧ f.vs1 < 32 ∧ f.vd < 32 ∧ f.vb < 8 ∧ f.pr < 16 ∧ f.pr ≠ 8) => by omega)
theorem vfcvt (f : LW) (t : Nat) : Statement (.vfcvt f t) :=
  word four rfl decide_eq_true_iff (fun (h : f.a < 256 ∧ f.b < 256 ∧ f.ia < 2 ∧ f.ib < 2 ∧ f.pr < 16 ∧ t < 4 ∧ f.pr ≠ 8 ∧ (f.ia = 1 → f.a < 64) ∧ (f.ib = 1 → f.b < 64)) => by omega)
theorem vfcvtI (f : LW) : Statement (.vfcvtI f) :=
  word four rfl decide_eq_true_iff (fun (h : f.a < 256 ∧ f.b < 256 ∧ f.ia < 2 ∧ f.ib < 2 ∧ f.pr < 16 ∧ f.pr ≠ 8 ∧ (f.ia = 1 → f.a < 64) ∧ (f.ib = 1 → f.b < 64)) => by omega)
theorem vfcvtN (f : LW) : Statement (.vfcvtN f) :=
  word four rfl decide_eq_true_iff (fun (h : f.a < 256 ∧ f.b < 256 ∧ f.ia < 2 ∧ f.ib < 2 ∧ f.pr < 16 ∧ f.pr ≠ 8 ∧ (f.ia = 1 → f.a < 64) ∧ (f.ib = 1 → f.b < 64)) => by omega)
theorem vfcvtzI (f : LW) : Statement (.vfcvtzI f) :=
  word four rfl decide_eq_true_iff (fun (h : f.a < 256 ∧ f.b < 256 ∧ f.ia < 2 ∧ f.ib < 2 ∧ f.pr < 16 ∧ f.pr ≠ 8 ∧ (f.ia = 1 → f.a < 64) ∧ (f.ib = 1 → f.b < 64)) => by omega)
theorem vfcvtzN (f : LW) : Statement (.vfcvtzN f) :=
  word four rfl decide_eq_true_iff (fun (h : f.a < 256 ∧ f.b < 256 ∧ f.ia < 2 ∧ f.ib < 2 ∧ f.pr < 16 ∧ f.pr ≠ 8 ∧ (f.ia = 1 → f.a < 64) ∧ (f.ib = 1 → f.b < 64)) => by omega)
theorem vicvtI (f : LW) : Statement (.vicvtI f) :=
  word four rfl decide_eq_true_iff (fun (h : f.a < 256 ∧ f.b < 256 ∧ f.ia < 2 ∧ f.ib < 2 ∧ f.pr < 16 ∧ f.pr ≠ 8 ∧ (f.ia = 1 → f.a < 64) ∧ (f.ib = 1 → f.b < 64)) => by omega)
theorem vicvtN (f : LW) : Statement (.vicvtN f) :=
  word four rfl decide_eq_true_iff (fun (h : f.a < 256 ∧ f.b < 256 ∧ f.ia < 2 ∧ f.ib < 2 ∧ f.pr < 16 ∧ f.pr ≠ 8 ∧ (f.ia = 1 → f.a < 64) ∧ (f.ib = 1 → f.b < 64)) => by omega)
theorem vsext (f : LW) : Statement (.vsext f) :=
  word four rfl decide_eq_true_iff (fun (h : f.a < 256 ∧ f.b < 256 ∧ f.ia < 2 ∧ f.ib < 2 ∧ f.pr < 16 ∧ f.pr ≠ 8 ∧ (f.ia = 1 → f.a < 64) ∧ (f.ib = 1 → f.b < 64)) => by omega)
theorem vzext (f : LW) : Statement (.vzext f) :=
  word four rfl decide_eq_true_iff (fun (h : f.a < 256 ∧ f.b < 256 ∧ f.ia < 2 ∧ f.ib < 2 ∧ f.pr < 16 ∧ f.pr ≠ 8 ∧ (f.ia = 1 → f.a < 64) ∧ (f.ib = 1 → f.b < 64)) => by omega)
theorem vnarrow (f : LW) : Statement (.vnarrow f) :=
  word four rfl decide_eq_true_iff (fun (h : f.a < 256 ∧ f.b < 256 ∧ f.ia < 2 ∧ f.ib < 2 ∧ f.pr < 16 ∧ f.pr ≠ 8 ∧ (f.ia = 1 → f.a < 64) ∧ (f.ib = 1 → f.b < 64)) => by omega)
theorem vnarrows (f : LW) : Statement (.vnarrows f) :=
  word four rfl decide_eq_true_iff (fun (h : f.a < 256 ∧ f.b < 256 ∧ f.ia < 2 ∧ f.ib < 2 ∧ f.pr < 16 ∧ f.pr ≠ 8 ∧ (f.ia = 1 → f.a < 64) ∧ (f.ib = 1 → f.b < 64)) => by omega)
theorem vmxcvtToMx (f : LW) (t : Nat) : Statement (.vmxcvtToMx f t) :=
  word four rfl decide_eq_true_iff (fun (h : f.a < 256 ∧ f.b < 256 ∧ f.ia < 2 ∧ f.ib < 2 ∧ f.pr = 0 ∧ t < 4 ∧ (f.ia = 1 → f.a < 64) ∧ (f.ib = 1 → f.b < 64)) => by omega)
theorem vmxcvtFromMx (f : LW) (t : Nat) : Statement (.vmxcvtFromMx f t) :=
  word four rfl decide_eq_true_iff (fun (h : f.a < 256 ∧ f.b < 256 ∧ f.ia < 2 ∧ f.ib < 2 ∧ f.pr = 0 ∧ t < 4 ∧ (f.ia = 1 → f.a < 64) ∧ (f.ib = 1 → f.b < 64)) => by omega)
theorem vmxcvtMxint8F32 (f : LW) : Statement (.vmxcvtMxint8F32 f) :=
  word four rfl decide_eq_true_iff (fun (h : f.a < 256 ∧ f.b < 256 ∧ f.ia < 2 ∧ f.ib < 2 ∧ f.pr = 0 ∧ (f.ia = 1 → f.a < 64) ∧ (f.ib = 1 → f.b < 64)) => by omega)
theorem vmxcvtF32Mxint8 (f : LW) : Statement (.vmxcvtF32Mxint8 f) :=
  word four rfl decide_eq_true_iff (fun (h : f.a < 256 ∧ f.b < 256 ∧ f.ia < 2 ∧ f.ib < 2 ∧ f.pr = 0 ∧ (f.ia = 1 → f.a < 64) ∧ (f.ib = 1 → f.b < 64)) => by omega)
theorem vbfpcvtBfp8F32 (f : LW) : Statement (.vbfpcvtBfp8F32 f) :=
  word four rfl decide_eq_true_iff (fun (h : f.a < 256 ∧ f.b < 256 ∧ f.ia < 2 ∧ f.ib < 2 ∧ f.pr = 0 ∧ (f.ia = 1 → f.a < 64) ∧ (f.ib = 1 → f.b < 64)) => by omega)
theorem vbfpcvtF32Bfp8 (f : LW) : Statement (.vbfpcvtF32Bfp8 f) :=
  word four rfl decide_eq_true_iff (fun (h : f.a < 256 ∧ f.b < 256 ∧ f.ia < 2 ∧ f.ib < 2 ∧ f.pr = 0 ∧ (f.ia = 1 → f.a < 64) ∧ (f.ib = 1 → f.b < 64)) => by omega)
theorem vexp2 (f : LW) : Statement (.vexp2 f) :=
  word four rfl decide_eq_true_iff (fun (h : f.a < 256 ∧ f.b < 256 ∧ f.ia < 2 ∧ f.ib < 2 ∧ f.pr < 16 ∧ f.pr ≠ 8 ∧ (f.ia = 1 → f.a < 64) ∧ (f.ib = 1 → f.b < 64)) => by omega)
theorem vlog2 (f : LW) : Statement (.vlog2 f) :=
  word four rfl decide_eq_true_iff (fun (h : f.a < 256 ∧ f.b < 256 ∧ f.ia < 2 ∧ f.ib < 2 ∧ f.pr < 16 ∧ f.pr ≠ 8 ∧ (f.ia = 1 → f.a < 64) ∧ (f.ib = 1 → f.b < 64)) => by omega)
theorem vexp (f : LW) : Statement (.vexp f) :=
  word four rfl decide_eq_true_iff (fun (h : f.a < 256 ∧ f.b < 256 ∧ f.ia < 2 ∧ f.ib < 2 ∧ f.pr < 16 ∧ f.pr ≠ 8 ∧ (f.ia = 1 → f.a < 64) ∧ (f.ib = 1 → f.b < 64)) => by omega)
theorem vlog (f : LW) : Statement (.vlog f) :=
  word four rfl decide_eq_true_iff (fun (h : f.a < 256 ∧ f.b < 256 ∧ f.ia < 2 ∧ f.ib < 2 ∧ f.pr < 16 ∧ f.pr ≠ 8 ∧ (f.ia = 1 → f.a < 64) ∧ (f.ib = 1 → f.b < 64)) => by omega)
theorem vrcp (f : LW) : Statement (.vrcp f) :=
  word four rfl decide_eq_true_iff (fun (h : f.a < 256 ∧ f.b < 256 ∧ f.ia < 2 ∧ f.ib < 2 ∧ f.pr < 16 ∧ f.pr ≠ 8 ∧ (f.ia = 1 → f.a < 64) ∧ (f.ib = 1 → f.b < 64)) => by omega)
theorem vrsq (f : LW) : Statement (.vrsq f) :=
  word four rfl decide_eq_true_iff (fun (h : f.a < 256 ∧ f.b < 256 ∧ f.ia < 2 ∧ f.ib < 2 ∧ f.pr < 16 ∧ f.pr ≠ 8 ∧ (f.ia = 1 → f.a < 64) ∧ (f.ib = 1 → f.b < 64)) => by omega)
theorem vtanh (f : LW) : Statement (.vtanh f) :=
  word four rfl decide_eq_true_iff (fun (h : f.a < 256 ∧ f.b < 256 ∧ f.ia < 2 ∧ f.ib < 2 ∧ f.pr < 16 ∧ f.pr ≠ 8 ∧ (f.ia = 1 → f.a < 64) ∧ (f.ib = 1 → f.b < 64)) => by omega)
theorem vsin (f : LW) : Statement (.vsin f) :=
  word four rfl decide_eq_true_iff (fun (h : f.a < 256 ∧ f.b < 256 ∧ f.ia < 2 ∧ f.ib < 2 ∧ f.pr < 16 ∧ f.pr ≠ 8 ∧ (f.ia = 1 → f.a < 64) ∧ (f.ib = 1 → f.b < 64)) => by omega)
theorem vcos (f : LW) : Statement (.vcos f) :=
  word four rfl decide_eq_true_iff (fun (h : f.a < 256 ∧ f.b < 256 ∧ f.ia < 2 ∧ f.ib < 2 ∧ f.pr < 16 ∧ f.pr ≠ 8 ∧ (f.ia = 1 → f.a < 64) ∧ (f.ib = 1 → f.b < 64)) => by omega)
theorem vmovW (f : LW) : Statement (.vmovW f) :=
  word four rfl decide_eq_true_iff (fun (h : f.a < 256 ∧ f.b < 256 ∧ f.ia < 2 ∧ f.ib < 2 ∧ f.pr < 16 ∧ f.pr ≠ 8 ∧ (f.ia = 1 → f.a < 64) ∧ (f.ib = 1 → f.b < 64)) => by omega)
theorem vscget (f : LW) : Statement (.vscget f) :=
  word four rfl decide_eq_true_iff (fun (h : f.a < 256 ∧ f.b < 256 ∧ f.ia < 2 ∧ f.ib < 2 ∧ f.pr = 0 ∧ (f.ia = 1 → f.a < 64) ∧ (f.ib = 1 → f.b < 64)) => by omega)
theorem vscput (f : LW) : Statement (.vscput f) :=
  word four rfl decide_eq_true_iff (fun (h : f.a < 256 ∧ f.b < 256 ∧ f.ia < 2 ∧ f.ib < 2 ∧ f.pr = 0 ∧ (f.ia = 1 → f.a < 64) ∧ (f.ib = 1 → f.b < 64)) => by omega)
theorem vslidedn (d : Nat) (m : Nat) (s : Nat) (k : Nat) : Statement (.vslidedn d m s k) :=
  word four rfl decide_eq_true_iff (fun (h : d < 64 ∧ m < 16 ∧ s < 64 ∧ k < 4) => by omega)
theorem vslideup (d : Nat) (m : Nat) (s : Nat) (k : Nat) : Statement (.vslideup d m s k) :=
  word four rfl decide_eq_true_iff (fun (h : d < 64 ∧ m < 16 ∧ s < 64 ∧ k < 4) => by omega)
theorem vperm (d : Nat) (m : Nat) (s : Nat) : Statement (.vperm d m s) :=
  word four rfl decide_eq_true_iff (fun (h : d < 64 ∧ m < 16 ∧ s < 64) => by omega)
theorem vrev (d : Nat) (m : Nat) (s : Nat) : Statement (.vrev d m s) :=
  word four rfl decide_eq_true_iff (fun (h : d < 64 ∧ m < 16 ∧ s < 64) => by omega)
theorem vredsum (d : Nat) (m : Nat) (s : Nat) : Statement (.vredsum d m s) :=
  word four rfl decide_eq_true_iff (fun (h : d < 64 ∧ m < 16 ∧ s < 64) => by omega)
theorem vredmaxI (d : Nat) (m : Nat) (s : Nat) : Statement (.vredmaxI d m s) :=
  word four rfl decide_eq_true_iff (fun (h : d < 64 ∧ m < 16 ∧ s < 64) => by omega)
theorem vredmaxN (d : Nat) (m : Nat) (s : Nat) : Statement (.vredmaxN d m s) :=
  word four rfl decide_eq_true_iff (fun (h : d < 64 ∧ m < 16 ∧ s < 64) => by omega)
theorem vredminI (d : Nat) (m : Nat) (s : Nat) : Statement (.vredminI d m s) :=
  word four rfl decide_eq_true_iff (fun (h : d < 64 ∧ m < 16 ∧ s < 64) => by omega)
theorem vredminN (d : Nat) (m : Nat) (s : Nat) : Statement (.vredminN d m s) :=
  word four rfl decide_eq_true_iff (fun (h : d < 64 ∧ m < 16 ∧ s < 64) => by omega)
theorem vredand (d : Nat) (m : Nat) (s : Nat) : Statement (.vredand d m s) :=
  word four rfl decide_eq_true_iff (fun (h : d < 64 ∧ m < 16 ∧ s < 64) => by omega)
theorem vredor (d : Nat) (m : Nat) (s : Nat) : Statement (.vredor d m s) :=
  word four rfl decide_eq_true_iff (fun (h : d < 64 ∧ m < 16 ∧ s < 64) => by omega)
theorem vredsumF (d : Nat) (m : Nat) (s : Nat) : Statement (.vredsumF d m s) :=
  word four rfl decide_eq_true_iff (fun (h : d < 64 ∧ m < 16 ∧ s < 64) => by omega)
theorem vredmaxF (d : Nat) (m : Nat) (s : Nat) : Statement (.vredmaxF d m s) :=
  word four rfl decide_eq_true_iff (fun (h : d < 64 ∧ m < 16 ∧ s < 64) => by omega)
theorem vredminF (d : Nat) (m : Nat) (s : Nat) : Statement (.vredminF d m s) :=
  word four rfl decide_eq_true_iff (fun (h : d < 64 ∧ m < 16 ∧ s < 64) => by omega)
theorem vscansum (d : Nat) (m : Nat) : Statement (.vscansum d m) :=
  word four rfl decide_eq_true_iff (fun (h : d < 64 ∧ m < 16) => by omega)
theorem vscansumF (d : Nat) (m : Nat) : Statement (.vscansumF d m) :=
  word four rfl decide_eq_true_iff (fun (h : d < 64 ∧ m < 16) => by omega)
theorem vscanmaxI (d : Nat) (m : Nat) : Statement (.vscanmaxI d m) :=
  word four rfl decide_eq_true_iff (fun (h : d < 64 ∧ m < 16) => by omega)
theorem vexscansum (d : Nat) (m : Nat) : Statement (.vexscansum d m) :=
  word four rfl decide_eq_true_iff (fun (h : d < 64 ∧ m < 16) => by omega)
theorem vqxX1 (d : Nat) (m : Nat) : Statement (.vqxX1 d m) :=
  word four rfl decide_eq_true_iff (fun (h : d < 64 ∧ m < 16) => by omega)
theorem vqxX2 (d : Nat) (m : Nat) : Statement (.vqxX2 d m) :=
  word four rfl decide_eq_true_iff (fun (h : d < 64 ∧ m < 16) => by omega)
theorem vqxX3 (d : Nat) (m : Nat) : Statement (.vqxX3 d m) :=
  word four rfl decide_eq_true_iff (fun (h : d < 64 ∧ m < 16) => by omega)
theorem vqxB0 (d : Nat) (m : Nat) : Statement (.vqxB0 d m) :=
  word four rfl decide_eq_true_iff (fun (h : d < 64 ∧ m < 16) => by omega)
theorem vqxB1 (d : Nat) (m : Nat) : Statement (.vqxB1 d m) :=
  word four rfl decide_eq_true_iff (fun (h : d < 64 ∧ m < 16) => by omega)
theorem vqxB2 (d : Nat) (m : Nat) : Statement (.vqxB2 d m) :=
  word four rfl decide_eq_true_iff (fun (h : d < 64 ∧ m < 16) => by omega)
theorem vqxB3 (d : Nat) (m : Nat) : Statement (.vqxB3 d m) :=
  word four rfl decide_eq_true_iff (fun (h : d < 64 ∧ m < 16) => by omega)
theorem mxlda (d : Nat) (c : Nat) (s : Nat) (k : Nat) : Statement (.mxlda d c s k) :=
  word four rfl decide_eq_true_iff (fun (h : d < 256 ∧ c < 4 ∧ s < 64 ∧ k < 16 ∧ c < 2) => by omega)
theorem mxldb (d : Nat) (c : Nat) (s : Nat) (k : Nat) : Statement (.mxldb d c s k) :=
  word four rfl decide_eq_true_iff (fun (h : d < 256 ∧ c < 4 ∧ s < 64 ∧ k < 16 ∧ c < 2) => by omega)
theorem mxlds (d : Nat) (c : Nat) (s : Nat) (k : Nat) : Statement (.mxlds d c s k) :=
  word four rfl decide_eq_true_iff (fun (h : d < 256 ∧ c < 4 ∧ s < 64 ∧ k < 16 ∧ c < 3) => by omega)
theorem mxstep (z : Nat) (c : Nat) (k : Nat) : Statement (.mxstep z c k) :=
  word four rfl decide_eq_true_iff (fun (h : z < 256 ∧ c < 64 ∧ k < 16 ∧ z < 10 ∧ c < 63) => by omega)
theorem mxloop (z : Nat) (c : Nat) (k : Nat) : Statement (.mxloop z c k) :=
  word four rfl decide_eq_true_iff (fun (h : z < 256 ∧ c < 64 ∧ k < 16 ∧ z < 10 ∧ c < 63) => by omega)
theorem mxspstep (z : Nat) (c : Nat) (k : Nat) : Statement (.mxspstep z c k) :=
  word four rfl decide_eq_true_iff (fun (h : z < 256 ∧ c < 64 ∧ k < 16 ∧ z < 10 ∧ c < 63) => by omega)
theorem mxsploop (z : Nat) (c : Nat) (k : Nat) : Statement (.mxsploop z c k) :=
  word four rfl decide_eq_true_iff (fun (h : z < 256 ∧ c < 64 ∧ k < 16 ∧ z < 10 ∧ c < 63) => by omega)
theorem mxrdz (v : Nat) (p : Nat) (k : Nat) : Statement (.mxrdz v p k) :=
  word four rfl decide_eq_true_iff (fun (h : v < 256 ∧ p < 64 ∧ k < 16) => by omega)
theorem mxwrz (v : Nat) (p : Nat) (k : Nat) : Statement (.mxwrz v p k) :=
  word four rfl decide_eq_true_iff (fun (h : v < 256 ∧ p < 64 ∧ k < 16) => by omega)
theorem mxtred (z : Nat) (n : Nat) (k : Nat) : Statement (.mxtred z n k) :=
  word four rfl decide_eq_true_iff (fun (h : z < 256 ∧ n < 8 ∧ k < 16 ∧ z < 10) => by omega)
theorem mxtmov (z : Nat) (n : Nat) (k : Nat) : Statement (.mxtmov z n k) :=
  word four rfl decide_eq_true_iff (fun (h : z < 256 ∧ n < 8 ∧ k < 16 ∧ z < 10) => by omega)
theorem mxelog (d : Nat) (n : Nat) : Statement (.mxelog d n) :=
  word four rfl decide_eq_true_iff (fun (h : d < 64 ∧ n < 16) => by omega)
theorem mxestat (d : Nat) : Statement (.mxestat d) :=
  word four rfl decide_eq_true_iff (fun (h : d < 64) => by omega)
theorem mxeclr : Statement (.mxeclr) :=
  word four rfl (iff_of_true rfl trivial) (fun _ => by decide)
theorem wfwd (t : Nat) (k : Nat) : Statement (.wfwd t k) :=
  word four rfl decide_eq_true_iff (fun (h : t < 64 ∧ k < 16) => by omega)
theorem winv (t : Nat) (k : Nat) : Statement (.winv t k) :=
  word four rfl decide_eq_true_iff (fun (h : t < 64 ∧ k < 16) => by omega)
theorem wthr (t : Nat) (k : Nat) : Statement (.wthr t k) :=
  word four rfl decide_eq_true_iff (fun (h : t < 64 ∧ k < 16) => by omega)
theorem wthset (n : Nat) (a : Nat) : Statement (.wthset n a) :=
  word four rfl decide_eq_true_iff (fun (h : n < 8 ∧ a < 64) => by omega)
theorem wst (t : Nat) (b : Nat) (k : Nat) : Statement (.wst t b k) :=
  word four rfl decide_eq_true_iff (fun (h : t < 64 ∧ b < 64 ∧ k < 16) => by omega)
theorem wld (t : Nat) (b : Nat) (k : Nat) : Statement (.wld t b k) :=
  word four rfl decide_eq_true_iff (fun (h : t < 64 ∧ b < 64 ∧ k < 16) => by omega)
theorem wldRaw (t : Nat) (b : Nat) (k : Nat) : Statement (.wldRaw t b k) :=
  word four rfl decide_eq_true_iff (fun (h : t < 64 ∧ b < 64 ∧ k < 16 ∧ b ≠ 63) => by omega)
theorem wtag (t : Nat) (g : Nat) (k : Nat) : Statement (.wtag t g k) :=
  word four rfl decide_eq_true_iff (fun (h : t < 64 ∧ g < 256 ∧ k < 16 ∧ wtagOk g) => by omega)
theorem wcnt (d : Nat) (n : Nat) : Statement (.wcnt d n) :=
  word four rfl decide_eq_true_iff (fun (h : d < 64 ∧ n < 16) => by omega)
theorem ljoin (v : Nat) (r : Nat) (b : Nat) : Statement (.ljoin v r b) :=
  word four rfl decide_eq_true_iff (fun (h : v < 64 ∧ r < 2 ∧ b < 64) => by omega)
theorem ljoinV (v : Nat) (r : Nat) (b : Nat) : Statement (.ljoinV v r b) :=
  word four rfl decide_eq_true_iff (fun (h : v < 256 ∧ r < 2 ∧ b < 64 ∧ v < 255) => by omega)
theorem lput (v : Nat) (r : Nat) (b : Nat) (k : Nat) : Statement (.lput v r b k) :=
  word four rfl decide_eq_true_iff (fun (h : v < 64 ∧ r < 2 ∧ b < 64 ∧ k < 16) => by omega)
theorem lputV (v : Nat) (r : Nat) (b : Nat) (k : Nat) : Statement (.lputV v r b k) :=
  word four rfl decide_eq_true_iff (fun (h : v < 256 ∧ r < 2 ∧ b < 64 ∧ k < 16 ∧ v < 255) => by omega)
theorem lget (d : Nat) (q : Nat) (b : Nat) (k : Nat) : Statement (.lget d q b k) :=
  word four rfl decide_eq_true_iff (fun (h : d < 64 ∧ q < 2 ∧ b < 64 ∧ k < 16) => by omega)
theorem lgetV (d : Nat) (q : Nat) (b : Nat) (k : Nat) : Statement (.lgetV d q b k) :=
  word four rfl decide_eq_true_iff (fun (h : d < 256 ∧ q < 2 ∧ b < 64 ∧ k < 16 ∧ d < 255) => by omega)
theorem lwait (d : Nat) (q : Nat) (b : Nat) (k : Nat) : Statement (.lwait d q b k) :=
  word four rfl decide_eq_true_iff (fun (h : d < 64 ∧ q < 2 ∧ b < 64 ∧ k < 16 ∧ d ≠ 0 ∧ d ≠ 63) => by omega)
theorem lxsched (d : Nat) (a : Nat) : Statement (.lxsched d a) :=
  word four rfl decide_eq_true_iff (fun (h : d < 64 ∧ a < 64) => by omega)
theorem lxnow (k : Nat) : Statement (.lxnow k) :=
  word four rfl decide_eq_true_iff (fun (h : k < 16) => by omega)
theorem ltype (d : Nat) (b : Nat) (k : Nat) : Statement (.ltype d b k) :=
  word four rfl decide_eq_true_iff (fun (h : d < 64 ∧ b < 64 ∧ k < 16) => by omega)
theorem lclr (b : Nat) (k : Nat) : Statement (.lclr b k) :=
  word four rfl decide_eq_true_iff (fun (h : b < 64 ∧ k < 16) => by omega)
theorem ldv (f : MV) : Statement (.ldv f) :=
  word four rfl decide_eq_true_iff (fun (h : f.vr < 32 ∧ f.vx < 32 ∧ f.vb < 8 ∧ f.sb < 32 ∧ f.tk < 16 ∧ f.pm < 4 ∧ f.pm ≠ 3) => by omega)
theorem stv (f : MV) : Statement (.stv f) :=
  word four rfl decide_eq_true_iff (fun (h : f.vr < 32 ∧ f.vx < 32 ∧ f.vb < 8 ∧ f.sb < 32 ∧ f.tk = 0 ∧ f.pm < 4 ∧ f.pm ≠ 3) => by omega)
theorem ldg (f : MV) : Statement (.ldg f) :=
  word four rfl decide_eq_true_iff (fun (h : f.vr < 32 ∧ f.vx < 32 ∧ f.vb < 8 ∧ f.sb < 32 ∧ f.tk < 16 ∧ f.pm < 4 ∧ f.pm ≠ 3) => by omega)
theorem stg (f : MV) : Statement (.stg f) :=
  word four rfl decide_eq_true_iff (fun (h : f.vr < 32 ∧ f.vx < 32 ∧ f.vb < 8 ∧ f.sb < 32 ∧ f.tk = 0 ∧ f.pm < 4 ∧ f.pm ≠ 3) => by omega)
theorem ldff (f : MV) : Statement (.ldff f) :=
  word four rfl decide_eq_true_iff (fun (h : f.vr < 32 ∧ f.vx < 32 ∧ f.vb < 8 ∧ f.sb < 32 ∧ f.tk < 16 ∧ f.pm < 4 ∧ f.pm ≠ 3) => by omega)
theorem ldr (r : Nat) (m : Nat) (b : Nat) (s : Nat) (k : Nat) (p : Nat) : Statement (.ldr r m b s k p) :=
  word four rfl decide_eq_true_iff (fun (h : r < 32 ∧ m < 16 ∧ b < 8 ∧ s < 32 ∧ k < 16 ∧ p < 4 ∧ p ≠ 3) => by omega)
theorem ld (d : Nat) (b : Nat) (k : Nat) (i : Int) : Statement (.ld d b k i) :=
  word four rfl decide_eq_true_iff (fun (h : d < 64 ∧ b < 64 ∧ k < 16 ∧ -128 ≤ i ∧ i < 128) => by omega)
theorem st (d : Nat) (b : Nat) (i : Int) : Statement (.st d b i) :=
  word four rfl decide_eq_true_iff (fun (h : d < 64 ∧ b < 64 ∧ -128 ≤ i ∧ i < 128) => by omega)
theorem atAdd (f : MA) : Statement (.atAdd f) :=
  word four rfl decide_eq_true_iff (fun (h : f.vr < 32 ∧ f.vx < 32 ∧ f.vb < 8 ∧ f.sb < 32 ∧ f.tk < 16) => by omega)
theorem atSwap (f : MA) : Statement (.atSwap f) :=
  word four rfl decide_eq_true_iff (fun (h : f.vr < 32 ∧ f.vx < 32 ∧ f.vb < 8 ∧ f.sb < 32 ∧ f.tk < 16) => by omega)
theorem atCas (f : MA) : Statement (.atCas f) :=
  word four rfl decide_eq_true_iff (fun (h : f.vr < 32 ∧ f.vx < 32 ∧ f.vb < 8 ∧ f.sb < 32 ∧ f.tk < 16) => by omega)
theorem atFadd (f : MA) : Statement (.atFadd f) :=
  word four rfl decide_eq_true_iff (fun (h : f.vr < 32 ∧ f.vx < 32 ∧ f.vb < 8 ∧ f.sb < 32 ∧ f.tk < 16) => by omega)
theorem atAnd (f : MA) : Statement (.atAnd f) :=
  word four rfl decide_eq_true_iff (fun (h : f.vr < 32 ∧ f.vx < 32 ∧ f.vb < 8 ∧ f.sb < 32 ∧ f.tk < 16) => by omega)
theorem atOr (f : MA) : Statement (.atOr f) :=
  word four rfl decide_eq_true_iff (fun (h : f.vr < 32 ∧ f.vx < 32 ∧ f.vb < 8 ∧ f.sb < 32 ∧ f.tk < 16) => by omega)
theorem atMax (f : MA) : Statement (.atMax f) :=
  word four rfl decide_eq_true_iff (fun (h : f.vr < 32 ∧ f.vx < 32 ∧ f.vb < 8 ∧ f.sb < 32 ∧ f.tk < 16) => by omega)
theorem atMaxu (f : MA) : Statement (.atMaxu f) :=
  word four rfl decide_eq_true_iff (fun (h : f.vr < 32 ∧ f.vx < 32 ∧ f.vb < 8 ∧ f.sb < 32 ∧ f.tk < 16) => by omega)
theorem fenceAcq (c : Nat) : Statement (.fenceAcq c) :=
  word four rfl decide_eq_true_iff (fun (h : c < 8 ∧ c < 7) => by omega)
theorem fenceRel (c : Nat) : Statement (.fenceRel c) :=
  word four rfl decide_eq_true_iff (fun (h : c < 8 ∧ c < 7) => by omega)
theorem fenceAr (c : Nat) : Statement (.fenceAr c) :=
  word four rfl decide_eq_true_iff (fun (h : c < 8 ∧ c < 7) => by omega)
theorem fenceSc (c : Nat) : Statement (.fenceSc c) :=
  word four rfl decide_eq_true_iff (fun (h : c < 8 ∧ c < 7) => by omega)
theorem fenceAck (k : Nat) : Statement (.fenceAck k) :=
  word four rfl decide_eq_true_iff (fun (h : k < 16) => by omega)
theorem lda (d : Nat) (m : Nat) (b : Nat) (k : Nat) : Statement (.lda d m b k) :=
  word four rfl decide_eq_true_iff (fun (h : d < 64 ∧ m < 8 ∧ b < 64 ∧ k < 16 ∧ m < 7) => by omega)
theorem ldaSc (d : Nat) (m : Nat) (b : Nat) (k : Nat) : Statement (.ldaSc d m b k) :=
  word four rfl decide_eq_true_iff (fun (h : d < 64 ∧ m < 8 ∧ b < 64 ∧ k < 16 ∧ m < 7) => by omega)
theorem stl (d : Nat) (m : Nat) (b : Nat) : Statement (.stl d m b) :=
  word four rfl decide_eq_true_iff (fun (h : d < 64 ∧ m < 8 ∧ b < 64 ∧ m < 7) => by omega)
theorem stlSc (d : Nat) (m : Nat) (b : Nat) : Statement (.stlSc d m b) :=
  word four rfl decide_eq_true_iff (fun (h : d < 64 ∧ m < 8 ∧ b < 64 ∧ m < 7) => by omega)
theorem ldb (v : Nat) (m : Nat) (i : Nat) (k : Nat) : Statement (.ldb v m i k) :=
  word four rfl decide_eq_true_iff (fun (h : v < 64 ∧ m < 16 ∧ i < 64 ∧ k < 16) => by omega)
theorem stb (v : Nat) (m : Nat) (i : Nat) : Statement (.stb v m i) :=
  word four rfl decide_eq_true_iff (fun (h : v < 64 ∧ m < 16 ∧ i < 64) => by omega)
theorem cbload (w : Nat) (k : Nat) (s : Nat) (t : Nat) : Statement (.cbload w k s t) :=
  word four rfl decide_eq_true_iff (fun (h : w < 8 ∧ k < 4 ∧ s < 64 ∧ t < 16) => by omega)
theorem ldcb (d : Nat) (k : Nat) (s : Nat) (t : Nat) : Statement (.ldcb d k s t) :=
  word four rfl decide_eq_true_iff (fun (h : d < 256 ∧ k < 4 ∧ s < 64 ∧ t < 16) => by omega)
theorem pref (c : Nat) (l : Nat) (s : Nat) : Statement (.pref c l s) :=
  word four rfl decide_eq_true_iff (fun (h : c < 256 ∧ l < 2 ∧ s < 64) => by omega)
theorem mcnt (d : Nat) (k : Nat) : Statement (.mcnt d k) :=
  word four rfl decide_eq_true_iff (fun (h : d < 64 ∧ k < 8) => by omega)
theorem pagereq (b : Nat) (k : Nat) : Statement (.pagereq b k) :=
  word four rfl decide_eq_true_iff (fun (h : b < 64 ∧ k < 16) => by omega)
theorem pagereqW (b : Nat) (k : Nat) : Statement (.pagereqW b k) :=
  word four rfl decide_eq_true_iff (fun (h : b < 64 ∧ k < 16) => by omega)
theorem pagehint (b : Nat) : Statement (.pagehint b) :=
  word four rfl decide_eq_true_iff (fun (h : b < 64) => by omega)
theorem pagehintW (b : Nat) : Statement (.pagehintW b) :=
  word four rfl decide_eq_true_iff (fun (h : b < 64) => by omega)
theorem pagerel (b : Nat) (k : Nat) : Statement (.pagerel b k) :=
  word four rfl decide_eq_true_iff (fun (h : b < 64 ∧ k < 16) => by omega)
theorem cp (s : Nat) (q : Nat) (k : Nat) : Statement (.cp s q k) :=
  word four rfl decide_eq_true_iff (fun (h : s < 64 ∧ q < 64 ∧ k < 16) => by omega)
theorem cp2d (s : Nat) (q : Nat) (k : Nat) : Statement (.cp2d s q k) :=
  word four rfl decide_eq_true_iff (fun (h : s < 64 ∧ q < 64 ∧ k < 16) => by omega)
theorem cpfill (s : Nat) (q : Nat) (k : Nat) : Statement (.cpfill s q k) :=
  word four rfl decide_eq_true_iff (fun (h : s < 64 ∧ q < 64 ∧ k < 16) => by omega)
theorem cpver (s : Nat) (q : Nat) (k : Nat) : Statement (.cpver s q k) :=
  word four rfl decide_eq_true_iff (fun (h : s < 64 ∧ q < 64 ∧ k < 16) => by omega)
theorem cpwp (d : Nat) (h : Nat) : Statement (.cpwp d h) :=
  word four rfl decide_eq_true_iff (fun (h : d < 64 ∧ h < 8) => by omega)
theorem cpwpClr (d : Nat) (h : Nat) : Statement (.cpwpClr d h) :=
  word four rfl decide_eq_true_iff (fun (h : d < 64 ∧ h < 8) => by omega)
theorem cpnum (d : Nat) : Statement (.cpnum d) :=
  word four rfl decide_eq_true_iff (fun (h : d < 64) => by omega)
theorem cpseed (h : Nat) (a : Nat) : Statement (.cpseed h a) :=
  word four rfl decide_eq_true_iff (fun (h : h < 8 ∧ a < 64) => by omega)
theorem cproot (k : Nat) (b : Nat) (t : Nat) : Statement (.cproot k b t) :=
  word four rfl decide_eq_true_iff (fun (h : k < 16 ∧ b < 64 ∧ t < 16) => by omega)
theorem cprootClr (k : Nat) (t : Nat) : Statement (.cprootClr k t) :=
  word four rfl decide_eq_true_iff (fun (h : k < 16 ∧ t < 16) => by omega)
theorem fxstat (d : Nat) : Statement (.fxstat d) :=
  word four rfl decide_eq_true_iff (fun (h : d < 64) => by omega)
theorem fxclr (a : Nat) : Statement (.fxclr a) :=
  word four rfl decide_eq_true_iff (fun (h : a < 64) => by omega)
theorem fxrank (d : Nat) : Statement (.fxrank d) :=
  word four rfl decide_eq_true_iff (fun (h : d < 64) => by omega)
theorem fxpath (d : Nat) (a : Nat) : Statement (.fxpath d a) :=
  word four rfl decide_eq_true_iff (fun (h : d < 64 ∧ a < 64) => by omega)
theorem fxsto (d : Nat) (b : Nat) : Statement (.fxsto d b) :=
  word four rfl decide_eq_true_iff (fun (h : d < 64 ∧ b < 64) => by omega)
theorem fxstoRel (d : Nat) (b : Nat) : Statement (.fxstoRel d b) :=
  word four rfl decide_eq_true_iff (fun (h : d < 64 ∧ b < 64) => by omega)
theorem fxcnt (d : Nat) (k : Nat) : Statement (.fxcnt d k) :=
  word four rfl decide_eq_true_iff (fun (h : d < 64 ∧ k < 8) => by omega)

end Sys2Proof.Laws.WordFits
end

