-- ==== Sys2Proof/Tests/Slice0.lean ====
section
/-! SUPPORT. Tests: ill-formed terms that the checks refuse, words of the spec's encodings that decode as they should, single steps on small
states, and a state that meets the hypotheses of each statement. Expected results are the spec's, or worked out by hand from its rules. -/

set_option Elab.async false

open Sys2Proof Sys2Proof.Machine

namespace Sys2Proof.Tests

/-! ### Small states -/

/-- A privileged launch with one cohort on core 0. -/
def tLa : Launch := { pkt := 0x1000, priv := true, win := 64, zt := 10, ch := 8, code := 0x40000000, clen := 64 }
/-- Its cohort, with group 3. -/
def tCo : Cohort := { launch := 1, team := 0, tcoh := 0, core := 0, cidx := 0, gids := [3], nz := 10 }
/-- A group with all lanes live at word 0. -/
def tG (r : Role) : Group := { cid := 2, gidx := 0, idx := 0, role := r, w := 1024, vpc := List.replicate 32 (.live 0) }
/-- A run of one 32-bit instruction at word 0, its head executed. -/
def tR : Run := { gid := 3, word := 0, len := 2, aset := BitVec.allOnes 32, head := false, buf := [0, 0, 0, 0] }
/-- The machine with that launch, cohort, group and run. -/
def tS (la : Launch) (co : Cohort) (g : Group) (r : Run) : State :=
  { State.reset with nextId := 9, launches := [(1, la)], cohorts := [(2, co)], groups := [(3, g)], runs := [(0, r)] }
/-- Its context. -/
def tC (la : Launch) (co : Cohort) (g : Group) (r : Run) : Ctx := ⟨0, r, g, co, la, 0⟩
/-- The group after an instruction. -/
def gAfter (i : Instr) (s : State) : Option Group := match exec i s with
  | .next t => t.groups.find 3
  | _ => none
/-- The trap condition and DETAIL an instruction leaves in `tcause`, with a handler enabled. -/
def trapOf (i : Instr) (s : State) : Option (Nat × Nat) :=
  (gAfter i s).bind (fun g => if g.trap then some (g.tcause.toNat % 256, g.tcause.toNat / 65536) else none)

/-- A vector group: s1 = 5, s2 = 7, s3 = 4095, s4 = 4096, s5 = 1000, s6 = 2^63. -/
def gV : Group := { tG .vector with s := [(1, 5), (2, 7), (3, 4095), (4, 4096), (5, 1000), (6, 0x8000000000000000)] }
def sV : State := tS tLa tCo gV tR
def cV : Ctx := tC tLa tCo gV tR
/-- The same group in the other roles. -/
def gM : Group := { gV with role := .matrix }
def sM : State := tS tLa tCo gM tR
def cM : Ctx := tC tLa tCo gM tR
def gC : Group := { gV with role := .copy }
def sC : State := tS tLa tCo gC tR
def cC : Ctx := tC tLa tCo gC tR
/-- With a trap handler at word 16. -/
def tCoH : Cohort := { tCo with tvecEn := true, tvecWord := 16 }
def sH : State := tS tLa tCoH gV tR
def cH : Ctx := tC tLa tCoH gV tR
/-- A page table: ASID 0's entry, one TABLE entry, and two leaves that map the first and the second 2^30 bytes to 2^30 with RD, W and X (R155 to R160), the code segment in the second; behind it
a run of one `NOP` at word 0. -/
def tMem : List Host.Cell := [(1, 0x80), (2, 0x04), (0x40000, 0x07), (0x40002, 0x08), (0x80000, 0xC1), (0x80001, 0x01), (0x80003, 0x40), (0x80008, 0xC1), (0x80009, 0x01), (0x8000B, 0x40),
  (0x40000000, 0xFF), (0x40000001, 0x02), (0x40000004, 0x01)]
def sP : State := { sV with mem := tMem }

/-- A computation answers `a`; it fails. -/
def okIs {α : Type} [BEq α] (x : Except Trap α) (a : α) : Bool := match x with
  | .ok b => b == a
  | .error _ => false
def errIs {α : Type} (x : Except Trap α) (t : Trap) : Bool := match x with
  | .ok _ => false
  | .error e => e == t
theorem okIs_eq {α : Type} [BEq α] [LawfulBEq α] {x : Except Trap α} {a : α} (h : okIs x a = true) : x = .ok a := by
  cases x <;> simp_all [okIs]
theorem errIs_eq {α : Type} {x : Except Trap α} {t : Trap} (h : errIs x t = true) : x = .error t := by
  cases x <;> simp_all [errIs]
/-- An operand lies among the registers there are, as a Bool. -/
def inThere (o : VOp) : Bool := decide (1 ≤ o.n) && decide (o.n ≤ 8) && if o.temp then decide (o.idx + o.n ≤ 8) else decide (o.idx + o.n ≤ 256)
theorem inThere_iff {o : VOp} (h : inThere o = true) : o.exists' := by
  simp only [inThere, Bool.and_eq_true, decide_eq_true_eq] at h
  refine ⟨h.1.1, h.1.2, ?_⟩
  cases ht : o.temp <;> simp_all
/-- A lane instruction may execute here: what the hypotheses of its statement ask for. -/
def LaneReady (c : Ctx) (n : Nat) (d : VOp) (srcs tagged : List VOp) (k : TagClass) (F : Option Fmt) (t : Nat) (rc : Recon) : Prop :=
  laneChecks c true n [d] (d :: srcs) = .ok () ∧ tagRule c k tagged F = .ok (t, rc) ∧ d.exists' ∧ ∀ o ∈ srcs, o.exists'
theorem laneReady {c : Ctx} {n : Nat} {d : VOp} {srcs tagged : List VOp} {k : TagClass} {F : Option Fmt} {t : Nat} {rc : Recon}
    (h : (okIs (laneChecks c true n [d] (d :: srcs)) () && okIs (tagRule c k tagged F) (t, rc) && inThere d && srcs.all inThere) = true) :
    LaneReady c n d srcs tagged k F t rc := by
  simp only [Bool.and_eq_true] at h
  exact ⟨okIs_eq h.1.1.1, okIs_eq h.1.1.2, inThere_iff h.1.2, fun o ho => inThere_iff (List.all_eq_true.1 h.2 o ho)⟩
/-- No group of the state waits at a barrier behind releases, as a Bool; the whole of `Settled` so. -/
def noBar : Wait → Bool
  | .barAfter .. => false
  | _ => true
theorem noBar_ne {w : Wait} (h : noBar w = true) : ∀ b sb id, w ≠ .barAfter b sb id := by
  intro b sb id e; subst e; simp [noBar] at h
def settledB (s : State) (gid : Nat) (g : Group) : Bool :=
  g.stq.isEmpty && g.stqWait.isEmpty && g.acq.isEmpty && g.pend.all (fun e => e.2.op != .fenceAck) &&
    (g.waits ++ g.keptWaits ++ g.runWaits).all noBar && s.runs.all (fun e => e.2.gid != gid || e.2.waits.all noBar)
theorem settled_of {s : State} {gid : Nat} {g : Group} (h : settledB s gid g = true) : Settled s gid g := by
  simp only [settledB, Bool.and_eq_true, List.isEmpty_iff, List.all_eq_true, bne_iff_ne, Bool.or_eq_true] at h
  obtain ⟨⟨⟨⟨⟨h1, h2⟩, h3⟩, h4⟩, h5⟩, h6⟩ := h
  exact ⟨h1, h2, h3, h4, fun w hw => noBar_ne (h5 w hw), fun e he hg w hw =>
    noBar_ne ((h6 e he).resolve_left (fun hn => hn hg) w hw)⟩
theorem calm_of {s : State} (h : (s.groups.all (fun e => settledB s e.1 e.2) && s.stalled.isEmpty && s.moves.isEmpty) = true) : Calm s := by
  simp only [Bool.and_eq_true, List.isEmpty_iff, List.all_eq_true] at h
  refine ⟨fun gid g hg => settled_of ?_, h.1.2, h.2⟩
  have : ∀ {t : Tab Group}, t.find gid = some g → (gid, g) ∈ t := by
    intro t; induction t with
    | nil => intro h; cases h
    | cons e t ih =>
      intro h; rw [Tab.find_cons] at h
      split at h
      · cases h; simp_all
      · exact List.mem_cons_of_mem _ (ih h)
  exact h.1.1 _ (this hg)
/-- A computation answers a value with a property. -/
def okAnd {ε α : Type} (x : Except ε α) (p : α → Bool) : Bool := match x with
  | .ok a => p a
  | .error _ => false
theorem okEx {ε α : Type} {x : Except ε α} {p : α → Bool} (h : okAnd x p = true) : ∃ a, x = .ok a ∧ p a = true := by
  cases x <;> simp_all [okAnd]
theorem allEx {ε α β : Type} {l : List β} {f : β → Except ε α} {q : β → α → Bool} (h : l.all (fun r => okAnd (f r) (q r)) = true) :
    ∀ r ∈ l, ∃ a, f r = .ok a ∧ q r a = true := fun r hr => okEx (List.all_eq_true.1 h r hr)

/-! ### Ill-formed terms, one for each kind of check -/

theorem test_ill_scalar_bounds : ¬(Instr.add 64 0 0).WellFormed ∧ ¬(Instr.add 0 64 0).WellFormed ∧ ¬(Instr.add 0 0 64).WellFormed ∧
    ¬(Instr.tkrd 64).WellFormed ∧ ¬(Instr.brk 64).WellFormed := by dsimp only [Instr.WellFormed]; and_intros <;> decide
theorem test_ill_immediates : ¬(Instr.addi 1 1 2048).WellFormed ∧ ¬(Instr.addi 1 1 (-2049)).WellFormed ∧ ¬(Instr.lui 1 131072).WellFormed ∧
    ¬(Instr.lui 1 (-131073)).WellFormed ∧ ¬(Instr.seqi 1 1 512).WellFormed ∧ ¬(Instr.sgti 1 1 (-513)).WellFormed ∧ ¬(Instr.shli 1 1 64).WellFormed ∧
    ¬(Instr.bra 131072).WellFormed ∧ ¬(Instr.call (-131073) 0).WellFormed ∧ ¬(Instr.ld 0 0 0 128).WellFormed ∧ ¬(Instr.st 0 0 (-129)).WellFormed := by
  dsimp only [Instr.WellFormed]; and_intros <;> decide
theorem test_ill_heads : ¬(Instr.runHead 2 0 0 1).WellFormed ∧ ¬(Instr.runHead 0 2 0 1).WellFormed ∧ ¬(Instr.runHead 0 0 65536 1).WellFormed ∧
    ¬(Instr.runHead 0 0 0 64).WellFormed := by dsimp only [Instr.WellFormed]; and_intros <;> decide
theorem test_ill_halfwords : ¬(Instr.vaddI32H ⟨2, 0, 0⟩).WellFormed ∧ ¬(Instr.vaddI32H ⟨0, 32, 0⟩).WellFormed ∧ ¬(Instr.vaddI32H ⟨0, 0, 32⟩).WellFormed ∧
    ¬(Instr.vmov ⟨0, 0, 0⟩).WellFormed := by dsimp only [Instr.WellFormed]; and_intros <;> decide
theorem test_ill_control : ¬(Instr.setvl 1 1 0 0 5).WellFormed ∧ ¬(Instr.mand 16 0 0).WellFormed ∧ ¬(Instr.mrds 0 0 16).WellFormed ∧
    ¬(Instr.csrr 0 0x0E).WellFormed ∧ ¬(Instr.csrw 0 0x28).WellFormed ∧ ¬(Instr.rdts 0 8).WellFormed ∧ ¬(Instr.stgWait 8 0 0).WellFormed ∧
    ¬(Instr.pget 0 0 4).WellFormed := by dsimp only [Instr.WellFormed]; and_intros <;> decide
theorem test_ill_lanes : ¬(Instr.vadd ⟨32, 0, 0, 0, 0⟩ 0).WellFormed ∧ ¬(Instr.vadd ⟨0, 0, 0, 8, 0⟩ 0).WellFormed ∧ ¬(Instr.vadd ⟨0, 0, 0, 0, 8⟩ 0).WellFormed ∧
    ¬(Instr.vadd ⟨0, 0, 0, 0, 0⟩ 4).WellFormed ∧ ¬(Instr.vcmpeq ⟨0, 0, 16, 0, 0⟩).WellFormed ∧ ¬(Instr.vsel ⟨0, 0, 0, 0, 0⟩).WellFormed ∧
    ¬(Instr.vsqrt ⟨64, 0, 1, 0, 0⟩).WellFormed ∧ ¬(Instr.vsqrt ⟨0, 64, 0, 1, 0⟩).WellFormed ∧ ¬(Instr.vscget ⟨0, 0, 0, 0, 1⟩).WellFormed ∧
    ¬(Instr.vslidedn 0 0 0 4).WellFormed := by dsimp only [Instr.WellFormed]; and_intros <;> decide
theorem test_ill_engines : ¬(Instr.mxstep 10 0 0).WellFormed ∧ ¬(Instr.mxstep 0 63 0).WellFormed ∧ ¬(Instr.mxlda 0 2 0 0).WellFormed ∧
    ¬(Instr.mxlds 0 3 0 0).WellFormed ∧ ¬(Instr.mxtmov 0 8 0).WellFormed ∧ ¬(Instr.wtag 0 2 0).WellFormed ∧ ¬(Instr.wtag 0 29 0).WellFormed ∧
    ¬(Instr.wldRaw 0 63 0).WellFormed ∧ ¬(Instr.lputV 255 0 0 0).WellFormed ∧ ¬(Instr.lwait 0 0 0 0).WellFormed ∧ ¬(Instr.lwait 63 0 0 0).WellFormed ∧
    ¬(Instr.cpwp 0 8).WellFormed ∧ ¬(Instr.fxcnt 0 8).WellFormed := by dsimp only [Instr.WellFormed]; and_intros <;> decide
theorem test_ill_memory : ¬(Instr.ldv ⟨0, 0, 0, 0, 0, 3⟩).WellFormed ∧ ¬(Instr.stv ⟨0, 0, 0, 0, 1, 0⟩).WellFormed ∧ ¬(Instr.ldv ⟨0, 0, 0, 32, 0, 0⟩).WellFormed ∧
    ¬(Instr.ldr 0 16 0 0 0 0).WellFormed ∧ ¬(Instr.atAdd ⟨0, 0, 0, 0, 16⟩).WellFormed ∧ ¬(Instr.fenceAcq 7).WellFormed ∧ ¬(Instr.lda 0 7 0 0).WellFormed ∧
    ¬(Instr.cbload 8 0 0 0).WellFormed ∧ ¬(Instr.pagereq 64 0).WellFormed := by dsimp only [Instr.WellFormed]; and_intros <;> decide

/-! ### Words of the spec's encodings: the opcode table's fixed bits with its fields filled in -/

/-- A word of `n` bytes decodes to the instruction, at that length, and is what `encode` writes for it. -/
noncomputable def reads (n : Nat) (row : Nat × Instr) : Bool :=
  (match decode (toBytes n row.1) with
  | .ok (i, k) => i == row.2 && k == n
  | .error _ => false) && encode row.2 == some (toBytes n row.1)
/-- A word that is refused, and why. -/
noncomputable def refuses (row : Nat × DecodeError) : Bool := match decode (toBytes 4 row.1) with
  | .ok _ => false
  | .error e => e == row.2
theorem test_decode_refuses : ([(0x00004101, .mustBeZero), (0x000000FB, .reservedMajor), (0x00003F01, .reservedMinor), (0x62102261, .reservedPredicate),
    (0x40008075, .indirect),
    (0x003C625F, .reservedPredicate), (0x9003E15F, .reservedPredicate)] : List (Nat × DecodeError)).all refuses = true := by decide +kernel
theorem test_decode_halfword : ([
    (0x0000, .pad), (0x8F60, .vmov ⟨1, 3, 27⟩), (0xB262, .vaddI32H ⟨1, 12, 19⟩), (0xFA24, .vsubI32H ⟨1, 30, 17⟩),
    (0x8866, .vmulI32H ⟨1, 2, 3⟩), (0xB868, .vandH ⟨1, 14, 3⟩), (0x8E4A, .vorH ⟨1, 3, 18⟩), (0x8B6C, .vxorH ⟨1, 2, 27⟩),
    (0xFD0E, .vshlI32H ⟨1, 31, 8⟩), (0xCE70, .vsraI32H ⟨1, 19, 19⟩), (0x8912, .vaddF32H ⟨1, 2, 8⟩), (0xCB94, .vsubF32H ⟨1, 18, 28⟩),
    (0xA9D6, .vmulF32H ⟨1, 10, 14⟩), (0xC898, .vmaxF32H ⟨1, 18, 4⟩), (0xCB7A, .vminF32H ⟨1, 18, 27⟩),
    (0x927C, .vaddBf16x2H ⟨1, 4, 19⟩), (0xB09E, .vmulBf16x2H ⟨1, 12, 4⟩)] :
    List (Nat × Instr)).all (reads 2) = true := by decide +kernel
theorem test_decode_controlA : ([
    (0xD9452AFF, .runHead 1 1 25876 42), (0x00000001, .nop), (0x00000101, .exit), (0x00000201, .tret), (0x90000301, .brk 36),
    (0x00000401, .waitdep), (0x00000501, .trigger), (0xB8000601, .tkrd 46), (0x10130003, .bra 16460), (0x907AA203, .call (-114198) 2),
    (0x9E778405, .brm (-99874) 4), (0x7F155B05, .brmz 130133 11), (0x881F2705, .brany (-122756) 7), (0xC6F8B605, .brall (-58398) 6),
    (0x7731D307, .bnz 122055 19), (0xEC66EF07, .bz (-20069) 15), (0x60000009, .jmp 24), (0x50000109, .jmpv 20),
    (0x43300209, .calli 16 51), (0x32D00309, .callv 12 45), (0xC90EC00B, .setvl 50 16 1 3 3), (0x8A0E410B, .setvlr 34 32 57),
    (0x18C2000D, .mand 6 12 8), (0x14A0810D, .mor 5 10 2), (0x0891C20D, .mxor 2 9 7), (0x0CD1830D, .mandn 3 13 6),
    (0x0CF2040D, .morn 3 15 8), (0x1C10050D, .mnot 7 1)] :
    List (Nat × Instr)).all (reads 4) = true := by decide +kernel
theorem test_decode_controlB : ([
    (0x2C20060D, .mmov 11 2), (0x3400070D, .mvl 13), (0x2400080D, .mact 9), (0x94D0090D, .mpop 37 13), (0xE4E00A0D, .mfirst 57 14),
    (0x54634B0D, .mrds 21 6 13), (0x1A700C0D, .mwrs 6 39 0), (0x2B47800F, .barArrive 10 52 30), (0x0B60010F, .barCharge 2 54),
    (0x0BD0020F, .barWait 2 61), (0x0C800011, .stgArrive 3 8), (0x18B04111, .stgWait 6 11 1), (0x11000013, .csrr 4 16),
    (0xAA700113, .csrw 42 39), (0x4E000213, .csrset 19 32), (0xE5F00313, .csrclr 57 31), (0x08014413, .rdts 2 5),
    (0x7801C513, .wrts 30 7), (0x2C000613, .rdvpc 11), (0xA0800015, .tlbiVa 40 8), (0x80000115, .tlbiAsid 32), (0x00000215, .ptsync)] :
    List (Nat × Instr)).all (reads 4) = true := by decide +kernel
theorem test_decode_scalarA : ([
    (0x10EC8021, .add 4 14 50), (0x4C9C0121, .sub 19 9 48), (0x41A68221, .mul 16 26 26), (0xEF880321, .mulh 59 56 32),
    (0x18B74421, .mulhu 6 11 29), (0x6A448521, .div 26 36 18), (0xE49D4621, .divu 57 9 53), (0x73890721, .rem 28 56 36),
    (0x4AE6C821, .remu 18 46 27), (0x5ECE4921, .and 23 44 57), (0x67E3CA21, .or 25 62 15), (0x28630B21, .xor 10 6 12),
    (0x28FACC21, .andn 10 15 43), (0x3C180D21, .shl 15 1 32), (0xDA630E21, .shr 54 38 12), (0x45304F21, .sra 17 19 1),
    (0x29B8D021, .ror 10 27 35), (0x62895121, .slt 24 40 37), (0x57D25221, .sltu 21 61 9), (0xB7785321, .seq 45 55 33),
    (0xF68A9421, .min 61 40 42), (0xB3011521, .max 44 48 4), (0x7BAE1621, .minu 30 58 56), (0xCBDE1721, .maxu 50 61 56),
    (0xB3401821, .clz 44 52), (0x91A01921, .popc 36 26), (0x69A64F23, .addi 26 26 1615), (0x1DFA2725, .andi 7 31 (-1497))] :
    List (Nat × Instr)).all (reads 4) = true := by decide +kernel
theorem test_decode_scalarB : ([
    (0x68430D27, .ori 26 4 781), (0x14E70D29, .xori 5 14 1805), (0x2C80162B, .shli 11 8 22), (0x9C40472B, .shri 39 4 7),
    (0x06508A2B, .srai 1 37 10), (0x8C70FD2B, .rori 35 7 61), (0x6274782D, .lui 24 (-101256)), (0x0853802F, .seqi 2 5 (-128)),
    (0x3A85822F, .slti 14 40 386), (0x2A99032F, .sltiu 10 41 259), (0xF97E692F, .sgti 62 23 (-407)), (0x61F04031, .pspace 24 31 1),
    (0x23780131, .prank 8 55 32), (0xFDE04231, .ppol 63 30 1), (0x7D404331, .pget 31 20 1)] :
    List (Nat × Instr)).all (reads 4) = true := by decide +kernel
theorem test_decode_laneA : ([
    (0x2930F241, .vadd ⟨5, 4, 24, 3, 12⟩ 2), (0x86EEA543, .vsub ⟨16, 27, 23, 2, 9⟩ 1), (0x3FFF5945, .vmul ⟨7, 31, 31, 5, 6⟩ 1),
    (0xBCBC7447, .vmulhI ⟨23, 18, 30, 1, 13⟩), (0x8AABC947, .vmulhN ⟨17, 10, 21, 7, 2⟩), (0xBF135A47, .vmulhIn ⟨23, 28, 9, 5, 6⟩),
    (0xF199D049, .vminI ⟨30, 6, 12, 7, 4⟩), (0x94B35949, .vminN ⟨18, 18, 25, 5, 6⟩), (0xAA29F44B, .vmaxI ⟨21, 8, 20, 7, 13⟩),
    (0xCF0FD14B, .vmaxN ⟨25, 28, 7, 7, 4⟩), (0xDB71D04D, .vaddsI ⟨27, 13, 24, 7, 4⟩), (0x3C60F14D, .vaddsN ⟨7, 17, 16, 3, 12⟩),
    (0x0874EE4D, .vavgI ⟨1, 1, 26, 3, 11⟩), (0x49EF5B4D, .vavgN ⟨9, 7, 23, 5, 6⟩), (0x7EBD984F, .vsubsI ⟨15, 26, 30, 6, 6⟩),
    (0xFB06894F, .vsubsN ⟨31, 12, 3, 2, 2⟩), (0x440ED24F, .vabsdI ⟨8, 16, 7, 3, 4⟩), (0x853B7B4F, .vabsdN ⟨16, 20, 29, 5, 14⟩),
    (0x0C3D9851, .vand ⟨1, 16, 30, 6, 6⟩), (0xD547ED51, .vor ⟨26, 21, 3, 7, 11⟩), (0x279BF251, .vxor ⟨4, 30, 13, 7, 12⟩),
    (0xC9E09F51, .vandn ⟨25, 7, 16, 2, 7⟩), (0xD5567453, .vshlVector ⟨26, 21, 11, 1, 13⟩),
    (0xFE1B1D53, .vsrlVector ⟨31, 24, 13, 4, 7⟩), (0xC7C78E53, .vsraVector ⟨24, 31, 3, 6, 3⟩),
    (0x3142AB53, .vrsraVector ⟨6, 5, 1, 2, 10⟩), (0xEBF58C55, .vshlScalar ⟨29, 15, 26, 6, 3⟩),
    (0xA6E92D55, .vsrlScalar ⟨20, 27, 20, 4, 11⟩)] :
    List (Nat × Instr)).all (reads 4) = true := by decide +kernel
theorem test_decode_laneB : ([
    (0xF30B6655, .vsraScalar ⟨30, 12, 5, 5, 9⟩), (0x2843F355, .vrsraScalar ⟨5, 1, 1, 7, 12⟩),
    (0xA923BC57, .vshlImm ⟨21, 4, 17, 6, 15⟩), (0x2BB8B957, .vsrlImm ⟨5, 14, 28, 2, 14⟩), (0xE1C2D257, .vsraImm ⟨28, 7, 1, 3, 4⟩),
    (0x5451EB57, .vrsraImm ⟨10, 17, 8, 7, 10⟩), (0x5A533859, .vcmpeq ⟨11, 9, 9, 4, 14⟩), (0x289F9959, .vcmpne ⟨5, 2, 15, 6, 6⟩),
    (0xEBD77A59, .vcmpltI ⟨29, 15, 11, 5, 14⟩), (0xEC4FFF59, .vcmpltN ⟨29, 17, 7, 7, 15⟩),
    (0xEC4B4C5B, .vpmac2I16x2 ⟨29, 17, 5, 5, 3⟩), (0x8C43ED5B, .vpmac2I16x2Scalar ⟨17, 17, 1, 7, 11⟩),
    (0xC9A8765B, .vpaddsI16x2 ⟨25, 6, 20, 1, 13⟩), (0xD14CAF5B, .vmac ⟨26, 5, 6, 2, 11⟩), (0xA609445D, .vaddScalar ⟨20, 24, 4, 5, 1⟩),
    (0x5DA3655D, .vsubScalar ⟨11, 22, 17, 5, 9⟩), (0x86B27E5D, .vrsub ⟨16, 26, 25, 1, 15⟩), (0x9090975D, .vmulScalar ⟨18, 2, 8, 2, 5⟩),
    (0x16496C5F, .vsel ⟨2, 25, 4, 5, 11⟩), (0x9003FD5F, .vsplat 18 1 7 15), (0x003C665F, .vid 30 1 9),
    (0x5D236561, .vaddF ⟨11, 20, 17, 5, 9⟩ 1), (0xBA5F6663, .vsubF ⟨23, 9, 15, 5, 9⟩ 2), (0x8FD1A665, .vmulF ⟨17, 31, 8, 6, 9⟩ 2),
    (0xF4BABA67, .vdivF ⟨30, 18, 29, 2, 14⟩ 2), (0x2B892E69, .vfmaF ⟨5, 14, 4, 4, 11⟩ 2), (0x1D91096B, .vfmsF ⟨3, 22, 8, 4, 2⟩ 1),
    (0xB2B47D6D, .vfnmaF ⟨22, 10, 26, 1, 15⟩ 1)] :
    List (Nat × Instr)).all (reads 4) = true := by decide +kernel
theorem test_decode_laneC : ([
    (0xFDEB996F, .vminF ⟨31, 23, 21, 6, 6⟩ 1), (0x4F4B1371, .vmaxF ⟨9, 29, 5, 4, 4⟩ 3), (0xF90F0C73, .vfcmpeq ⟨31, 4, 7, 4, 3⟩),
    (0xB6C8B173, .vfcmplt ⟨22, 27, 4, 2, 12⟩), (0x744EDE73, .vfcmple ⟨14, 17, 7, 3, 7⟩), (0x3B0C7373, .vfcmpun ⟨7, 12, 6, 1, 12⟩),
    (0x5E056C75, .vsqrt ⟨94, 5, 0, 1, 11⟩), (0x55850975, .vabs ⟨85, 133, 0, 0, 2⟩), (0x16047E75, .vneg ⟨22, 4, 0, 1, 15⟩),
    (0xC2225F75, .vclass ⟨194, 34, 0, 1, 7⟩), (0xBAC6C477, .vaddFScalar ⟨23, 11, 3, 3, 1⟩),
    (0xD5CD3D77, .vmulFScalar ⟨26, 23, 6, 4, 15⟩), (0x1A7E6E77, .vfmaFScalar ⟨3, 9, 31, 1, 11⟩),
    (0x1E926B77, .vsubFScalar ⟨3, 26, 9, 1, 10⟩), (0xE206F879, .vaddBf16x2 ⟨28, 8, 3, 3, 14⟩),
    (0x23C2E579, .vsubBf16x2 ⟨4, 15, 1, 3, 9⟩), (0x77BCEA79, .vmulBf16x2 ⟨14, 30, 30, 3, 10⟩),
    (0x28A39379, .vfmaBf16x2 ⟨5, 2, 17, 6, 4⟩), (0xF11D4581, .vfcvt ⟨241, 29, 0, 1, 1⟩ 1), (0xA10F6C83, .vfcvtI ⟨161, 15, 0, 1, 11⟩),
    (0x59CE0583, .vfcvtN ⟨89, 206, 0, 0, 1⟩), (0x3C829283, .vfcvtzI ⟨60, 130, 1, 0, 4⟩), (0x2912E783, .vfcvtzN ⟨41, 18, 1, 1, 9⟩),
    (0xB1385085, .vicvtI ⟨177, 56, 0, 1, 4⟩), (0xFE194585, .vicvtN ⟨254, 25, 0, 1, 1⟩), (0x2F2AEC87, .vsext ⟨47, 42, 1, 1, 11⟩),
    (0x9A3F2D87, .vzext ⟨154, 63, 0, 0, 11⟩), (0x0533DA87, .vnarrow ⟨5, 51, 1, 1, 6⟩)] :
    List (Nat × Instr)).all (reads 4) = true := by decide +kernel
theorem test_decode_laneD : ([
    (0x3F091B87, .vnarrows ⟨63, 9, 0, 0, 6⟩), (0x56620289, .vmxcvtToMx ⟨86, 98, 0, 0, 0⟩ 2),
    (0x82C7028B, .vmxcvtFromMx ⟨130, 199, 0, 0, 0⟩ 2), (0x6717408D, .vmxcvtMxint8F32 ⟨103, 23, 0, 1, 0⟩),
    (0x4E22418D, .vmxcvtF32Mxint8 ⟨78, 34, 0, 1, 0⟩), (0x0454828D, .vbfpcvtBfp8F32 ⟨4, 84, 1, 0, 0⟩),
    (0x0CD4038D, .vbfpcvtF32Bfp8 ⟨12, 212, 0, 0, 0⟩), (0x1608AC91, .vexp2 ⟨22, 8, 1, 0, 11⟩), (0x61D62D91, .vlog2 ⟨97, 214, 0, 0, 11⟩),
    (0x7E443691, .vexp ⟨126, 68, 0, 0, 13⟩), (0xA9075791, .vlog ⟨169, 7, 0, 1, 5⟩), (0x3D3BF093, .vrcp ⟨61, 59, 1, 1, 12⟩),
    (0x1962BD93, .vrsq ⟨25, 98, 1, 0, 15⟩), (0x9E226A93, .vtanh ⟨158, 34, 0, 1, 10⟩), (0x02A78793, .vsin ⟨2, 167, 1, 0, 1⟩),
    (0x3D05EC95, .vcos ⟨61, 5, 1, 1, 11⟩), (0x3685AC97, .vmovW ⟨54, 133, 1, 0, 11⟩), (0xFF254197, .vscget ⟨255, 37, 0, 1, 0⟩),
    (0x050BC297, .vscput ⟨5, 11, 1, 1, 0⟩), (0x8E450399, .vslidedn 14 9 5 3), (0x4AE20699, .vslideup 10 7 34 2),
    (0x89F5009B, .vperm 9 11 53), (0xE1B9019B, .vrev 33 14 57), (0x6E8F009D, .vredsum 46 6 15), (0xBA9A019D, .vredmaxI 58 10 26),
    (0x4B7D029D, .vredmaxN 11 5 61), (0xAC9A039D, .vredminI 44 10 26), (0xAF5B049D, .vredminN 47 9 27)] :
    List (Nat × Instr)).all (reads 4) = true := by decide +kernel
theorem test_decode_laneE : ([
    (0x9988059D, .vredand 25 10 8), (0x81B1069D, .vredor 1 10 49), (0xB688079D, .vredsumF 54 10 8), (0x6E7A089D, .vredmaxF 46 5 58),
    (0xD398099D, .vredminF 19 14 24), (0x5A800A9D, .vscansum 26 6), (0xC5800B9D, .vscansumF 5 14), (0xB1800C9D, .vscanmaxI 49 10),
    (0x52400D9D, .vexscansum 18 5), (0x76C0009F, .vqxX1 54 7), (0xA940019F, .vqxX2 41 9), (0x7F80029F, .vqxX3 63 6),
    (0xA180039F, .vqxB0 33 10), (0x7280049F, .vqxB1 50 6), (0xB940059F, .vqxB2 57 9), (0xDAC0069F, .vqxB3 26 15)] :
    List (Nat × Instr)).all (reads 4) = true := by decide +kernel
theorem test_decode_matrix : ([
    (0x8D6F20A1, .mxlda 141 1 47 2), (0x0D5B81A1, .mxldb 13 1 27 8), (0x9EAAE2A1, .mxlds 158 2 42 14), (0x092010A3, .mxstep 9 32 1),
    (0x093C90A5, .mxloop 9 60 9), (0x090B80A7, .mxspstep 9 11 8), (0x091651A7, .mxsploop 9 22 5), (0x4D11C0A9, .mxrdz 77 17 12),
    (0xBE3FB1A9, .mxwrz 190 63 11), (0x0904B0AB, .mxtred 9 4 11), (0x090381AB, .mxtmov 9 3 8), (0x240B00AD, .mxelog 36 11),
    (0x1A0001AD, .mxestat 26), (0x000002AD, .mxeclr)] :
    List (Nat × Instr)).all (reads 4) = true := by decide +kernel
theorem test_decode_wavelet : ([
    (0x080030B1, .wfwd 8 3), (0x2A0031B1, .winv 42 3), (0x050040B3, .wthr 5 4), (0x053A01B3, .wthset 5 58), (0x342090B5, .wst 52 32 9),
    (0x0F1DF1B5, .wld 15 29 15), (0x167181B5, .wldRaw 22 49 8), (0x1CA990B7, .wtag 28 169 9), (0x0D0401B7, .wcnt 13 4),
    (0x065600B9, .ljoin 6 1 22), (0x8FD500B9, .ljoinV 143 1 21), (0x1051D1B9, .lput 16 1 17 13), (0x92F911B9, .lputV 146 1 57 1),
    (0x305970BB, .lget 48 1 25 7), (0xBFD950BB, .lgetV 191 1 25 5), (0x166051BB, .lwait 22 1 32 5), (0x253E00BD, .lxsched 37 62),
    (0x000061BD, .lxnow 6), (0x092C90BF, .ltype 9 44 9), (0x0022B1BF, .lclr 34 11)] :
    List (Nat × Instr)).all (reads 4) = true := by decide +kernel
theorem test_decode_memoryA : ([
    (0xD739CAC1, .ldv ⟨26, 28, 7, 7, 2, 2⟩), (0xEA2342C3, .stv ⟨29, 8, 4, 13, 0, 2⟩), (0x7B9F39C5, .ldg ⟨15, 14, 3, 28, 14, 1⟩),
    (0x28A5C2C7, .stg ⟨5, 2, 4, 23, 0, 2⟩), (0xFCE04AC9, .ldff ⟨31, 19, 4, 1, 2, 2⟩), (0xF3FC7ACB, .ldr 30 15 7 17 14 2),
    (0xFDD4C9CD, .ld 63 29 4 (-55)), (0x1CF028CF, .st 7 15 40), (0x2C7138D1, .atAdd ⟨5, 17, 6, 4, 14⟩),
    (0xC5F735D1, .atSwap ⟨24, 23, 6, 28, 13⟩), (0xEBCCB6D1, .atCas ⟨29, 15, 1, 18, 13⟩), (0x107953D1, .atFadd ⟨2, 1, 7, 5, 4⟩),
    (0x9F8D70D3, .atAnd ⟨19, 30, 1, 21, 12⟩), (0x57D555D3, .atOr ⟨10, 31, 2, 21, 5⟩), (0x8D65F6D3, .atMax ⟨17, 21, 4, 23, 13⟩),
    (0x210AA7D3, .atMaxu ⟨4, 4, 1, 10, 9⟩), (0x060000D5, .fenceAcq 6), (0x0E0000D5, .fenceRel 6), (0x160000D5, .fenceAr 6),
    (0x1E0000D5, .fenceSc 6), (0x000041D5, .fenceAck 4), (0xC12352D5, .lda 1 6 35 5), (0xBE6AE2D5, .ldaSc 62 4 42 14),
    (0xA22403D5, .stl 34 4 36), (0x7EEE03D5, .stlSc 62 3 46), (0x4260F0D7, .ldb 2 5 32 15), (0xEA8601D7, .stb 42 14 6),
    (0x0D2B70D9, .cbload 3 1 43 7)] :
    List (Nat × Instr)).all (reads 4) = true := by decide +kernel
theorem test_decode_memoryB : ([
    (0xED8F81D9, .ldcb 237 2 15 8), (0x096E00DB, .pref 9 1 46), (0x1B0301DB, .mcnt 27 3), (0x002C70DD, .pagereq 44 7),
    (0x010D10DD, .pagereqW 13 1), (0x003401DD, .pagehint 52), (0x011301DD, .pagehintW 19), (0x0030E2DD, .pagerel 48 14)] :
    List (Nat × Instr)).all (reads 4) = true := by decide +kernel
theorem test_decode_copy : ([
    (0x210540E1, .cp 33 5 4), (0x203F41E1, .cp2d 32 63 4), (0x1432E0E3, .cpfill 20 50 14), (0x0D0F80E5, .cpver 13 15 8),
    (0x0F0300E7, .cpwp 15 3), (0x318300E7, .cpwpClr 49 3), (0x070001E7, .cpnum 7), (0x052000E9, .cpseed 5 32),
    (0x0A0CF0EB, .cproot 10 12 15), (0x840080EB, .cprootClr 4 8), (0x1B0000ED, .fxstat 27), (0x003B01ED, .fxclr 59),
    (0x2B0002ED, .fxrank 43), (0x043D03ED, .fxpath 4 61), (0x270A00EF, .fxsto 39 10), (0x3C1A01EF, .fxstoRel 60 26),
    (0x040200F1, .fxcnt 4 2)] :
    List (Nat × Instr)).all (reads 4) = true := by decide +kernel

/-! ### The spec's own worked words (R10 to R15, R69 to R76) -/

theorem test_decode_spec_examples_control : ([
    (0x0C006423, .addi 3 0 100), (0x1032C00B, .setvl 4 3 0 1 3), (0x62100261, .vaddF ⟨12, 8, 8, 0, 0⟩ 2), (0x00016307, .bz 5 3),
    (0x0C310121, .sub 3 3 4), (0x14510021, .add 5 5 4), (0xFFFE4003, .bra (-7)), (0x00000101, .exit), (0x52504641, .vadd ⟨10, 9, 8, 1, 1⟩ 2),
    (0x000105FF, .runHead 0 0 4 5), (0x5020415B, .vpmac2I16x2Scalar ⟨10, 0, 16, 1, 0⟩), (0x20090099, .vslidedn 32 0 9 0),
    (0x64204357, .vrsraImm ⟨12, 16, 16, 1, 0⟩)] : List (Nat × Instr)).all (reads 4) = true := by decide +kernel
theorem test_decode_spec_examples_units : ([
    (0x020800E1, .cp 2 8 0), (0x030C10E1, .cp 3 12 1), (0x040000E7, .cpwp 4 0), (0x050100E7, .cpwp 5 1), (0x080300D9, .cbload 2 0 3 0),
    (0x080211D9, .ldcb 8 0 2 1), (0x400100C3, .stv ⟨8, 0, 0, 4, 0, 0⟩), (0x000A50A1, .mxlda 0 0 10 5), (0x001490A5, .mxloop 0 20 9),
    (0x001650A7, .mxspstep 0 22 5), (0x001E40A9, .mxrdz 0 30 4), (0x0000A0AB, .mxtred 0 0 10), (0x084500B9, .ljoin 8 1 5),
    (0x0A4511BB, .lwait 10 1 5 1), (0x010520DD, .pagereqW 5 2), (0x000532DD, .pagerel 5 3), (0x0A0002ED, .fxrank 10), (0x0B0400EF, .fxsto 11 4),
    (0x000D01B3, .wthset 0 13), (0x0A1580B5, .wst 10 21 8), (0x0B1591B5, .wld 11 21 9), (0x0C56A1B5, .wldRaw 12 22 10),
    (0x000011D5, .fenceAck 1)] : List (Nat × Instr)).all (reads 4) = true := by decide +kernel

/-! ### Single steps: scalar and control instructions. Values worked out from the rules named. -/

/-- A scalar register after an instruction. -/
def sOut (i : Instr) (s : State) (r : Nat) : Option Nat := (gAfter i s).map (fun g => (g.sGet r).toNat)
/-- The machine with two scalar values. -/
def sAB (a b : Nat) : State := tS tLa tCo { gV with s := [(1, BitVec.ofNat 64 a), (2, BitVec.ofNat 64 b)] } tR
/-- R131: division by zero. -/
theorem test_div_by_zero : sOut (.div 3 1 2) (sAB 9 0) 3 = some (2 ^ 64 - 1) ∧ sOut (.remu 3 1 2) (sAB 9 0) 3 = some 9 := by decide +kernel
/-- R131: the most negative number by -1. -/
theorem test_div_overflow : sOut (.div 3 1 2) (sAB (2 ^ 63) (2 ^ 64 - 1)) 3 = some (2 ^ 63) ∧
    sOut (.rem 3 1 2) (sAB (2 ^ 63) (2 ^ 64 - 1)) 3 = some 0 := by decide +kernel
/-- R130: signed division and remainder truncate towards zero: -7 / 2 = -3, rest -1. -/
theorem test_div_truncates : sOut (.div 3 1 2) (sAB (2 ^ 64 - 7) 2) 3 = some (2 ^ 64 - 3) ∧
    sOut (.rem 3 1 2) (sAB (2 ^ 64 - 7) 2) 3 = some (2 ^ 64 - 1) := by decide +kernel
/-- R130: the high half of (-1)·(-1) signed is 0, unsigned 2^64 - 2. -/
theorem test_mul_high : sOut (.mulh 3 1 2) (sAB (2 ^ 64 - 1) (2 ^ 64 - 1)) 3 = some 0 ∧
    sOut (.mulhu 3 1 2) (sAB (2 ^ 64 - 1) (2 ^ 64 - 1)) 3 = some (2 ^ 64 - 2) := by decide +kernel
theorem test_scalar_wraps : sOut (.add 1 1 1) (sAB (2 ^ 63) 0) 1 = some 0 ∧ sOut (.sub 3 1 2) (sAB 0 1) 3 = some (2 ^ 64 - 1) := by decide +kernel
theorem test_scalar_zero_register : sOut (.addi 0 1 5) (sAB 9 0) 0 = some 0 ∧ sOut (.addi 3 0 (-2048)) (sAB 9 0) 3 = some (2 ^ 64 - 2048) := by
  decide +kernel
theorem test_scalar_shifts : sOut (.srai 3 1 63) (sAB (2 ^ 63) 0) 3 = some (2 ^ 64 - 1) ∧ sOut (.ror 3 1 2) (sAB 1 1) 3 = some (2 ^ 63) := by
  decide +kernel
/-- R134. -/
theorem test_lui : sOut (.lui 3 (-131072)) (sAB 0 0) 3 = some (2 ^ 64 - 2 ^ 29) := by decide +kernel
/-- R136: bit 63 of sA, space 1 in bits 62:60, the rank in bits 59:48, bits 47:0 of sA. -/
theorem test_prank : sOut (.prank 3 1 2) (sAB 0xF123456789ABCDEF 0x5A5) 3 = some 0x95A5456789ABCDEF := by decide +kernel
theorem test_prank_out_of_range : trapOf (.prank 3 1 2) (tS tLa tCoH { gV with s := [(2, 4096)] } tR) = some (0x07, 0) := by decide +kernel
theorem test_pget_rank : sOut (.pget 3 1 1) (sAB 0x95A5456789ABCDEF 0) 3 = some 0x5A5 ∧ sOut (.pget 3 1 1) (sAB 0xA5A5456789ABCDEF 0) 3 = some 0 := by
  decide +kernel

/-- A lane's PC after an instruction that ends the run. -/
def pcOut (i : Instr) (s : State) (L : Nat) : Option LanePC := (gAfter i s).map (fun g => g.lane L)
/-- R122, R123: the target is counted from the branch's own word, here 1. -/
theorem test_bra_target : pcOut (.bra 40) sV 5 = some (.live 41) ∧ pcOut (.bra (-2)) sV 5 = some (.live 0xFFFFFFFD) := by decide +kernel
/-- R58, R123: the link is the word of the next run in sequence: a head and one word behind it. -/
theorem test_call_links : (gAfter (.call 40 7) sV).map (fun g => (laneWord (g.vGet 7) 31).toNat) = some 2 := by decide +kernel
theorem test_call_window : trapOf (.call 40 31) (tS tLa tCoH { gV with w := 16 } tR) = some (0x06, 0) := by decide +kernel
/-- R125: `BZ` is taken when the scalar is zero. -/
theorem test_bz : pcOut (.bz 20 9) sV 0 = some (.live 21) ∧ pcOut (.bz 20 1) sV 0 = some (.live 2) := by decide +kernel
/-- R128: an exit of all lanes leaves no lane live. -/
theorem test_exit : (match exec .exit sV with
    | .next t => (t.groups.find 3).all (fun g => g.vpc.all (fun p => p == .exited || p == .helper))
    | _ => false) = true := by decide +kernel
/-- R104, R127: `BREAK`, CODE 0x12, with its code in DETAIL. -/
theorem test_break : trapOf (.brk 36) sH = some (0x12, 36) := by decide +kernel
/-- R141: the lowest one bit of an empty mask. -/
theorem test_mfirst_none : sOut (.mfirst 3 5) sV 3 = some (2 ^ 64 - 1) := by decide +kernel
theorem test_mandn : (gAfter (.mandn 3 0 4) (tS tLa tCo { gV with m := [(0, 0b1100), (4, 0b1010)] } tR)).map (fun g => g.mGet 3) = some 0b0100 := by
  decide +kernel

/-! ### Single steps: vector instructions -/

/-- A vector group at a `vtype` (SEW 4·2^n in bits 2:0, R138), with registers, `vl`, `frm` and `sgen`. -/
def gU (vtype vl frm sgen : Nat) (v : Tab VReg) : Group :=
  { gV with vtype := vtype, vl := vl, frm := frm, sgen := sgen, v := v, w := 64 }
def sU (vtype vl frm sgen : Nat) (v : Tab VReg) : State := tS tLa tCoH (gU vtype vl frm sgen v) tR
/-- The elements from `e` on, `n` bits wide, of a register after an instruction. -/
def eOut (i : Instr) (s : State) (r n e : Nat) : Option Nat := (gAfter i s).map (fun g => (g.vGet r).toNat / 2 ^ (n * e) % 2 ^ n)
/-- The flags and `sgen` after an instruction. -/
def fOut (i : Instr) (s : State) : Option (Nat × Nat) := (gAfter i s).map (fun g => (g.fflags, g.sgen))

/-- R139: the loop of the spec's strip-mining example: 100 elements asked for, 64 given, under `e32` and g2. -/
theorem test_setvl : (gAfter (.setvl 4 3 0 1 3) (tS tLa tCo { gV with s := [(3, 100)] } tR)).map (fun g => (g.sGet 4, g.vl, g.vtype)) = some (64, 64, 0x0B) := by
  decide +kernel
/-- R221: addition wraps at the element width; elements past `vl` and their neighbours stay. -/
theorem test_vadd_wraps : eOut (.vadd ⟨2, 1, 3, 0, 0⟩ 0) (sU 1 2 0 1 [(1, 0x00FFFF), (2, 0x010201), (3, 0xAA0000)]) 3 8 0 = some 0 ∧
    eOut (.vadd ⟨2, 1, 3, 0, 0⟩ 0) (sU 1 2 0 1 [(1, 0x00FFFF), (2, 0x010201), (3, 0xAA0000)]) 3 24 0 = some 0xAA0100 := by decide +kernel
/-- R40, R42: the worked conversion of 1 + 2^-9 to BF16 under stochastic rounding. -/
theorem test_sr_conversion : eOut (.vfcvt ⟨8, 4, 0, 0, 0⟩ 0) (sU 2 2 4 0xC0000001 [(4, 0x3F8040003F804000)]) 8 32 0 = some 0x3F803F81 ∧
    fOut (.vfcvt ⟨8, 4, 0, 0, 0⟩ 0) (sU 2 2 4 0xC0000001 [(4, 0x3F8040003F804000)]) = some (1, 0xE0200003) := by decide +kernel
/-- R43: 2^40 to I32 gives the bound and sets NV alone; 0.5 sets NX alone. -/
theorem test_float_to_int : fOut (.vfcvtI ⟨8, 4, 0, 0, 0⟩) (sU 3 1 0 1 [(4, 0x53800000)]) = some (16, 1) ∧
    eOut (.vfcvtI ⟨8, 4, 0, 0, 0⟩) (sU 3 1 0 1 [(4, 0x53800000)]) 8 32 0 = some 0x7FFFFFFF ∧
    fOut (.vfcvtI ⟨8, 4, 0, 0, 0⟩) (sU 3 1 0 1 [(4, 0x3F000000)]) = some (1, 1) := by decide +kernel
/-- R233: an infinity narrowed to E4M3 is NaN and sets no flag. -/
theorem test_inf_to_e4m3 : eOut (.vfcvt ⟨8, 4, 0, 0, 0⟩ 0) (sU 1 1 0 1 [(4, 0x7F800000)]) 8 8 0 = some 0x7F ∧
    fOut (.vfcvt ⟨8, 4, 0, 0, 0⟩ 0) (sU 1 1 0 1 [(4, 0x7F800000)]) = some (0, 1) := by decide +kernel
/-- R37: 1 + 2^-24 lies half-way; RNE takes the even neighbour, and NX is set. -/
theorem test_vaddF_rne : eOut (.vaddF ⟨2, 1, 3, 0, 0⟩ 2) (sU 3 1 0 1 [(1, 0x3F800000), (2, 0x33800000)]) 3 32 0 = some 0x3F800000 ∧
    fOut (.vaddF ⟨2, 1, 3, 0, 0⟩ 2) (sU 3 1 0 1 [(1, 0x3F800000), (2, 0x33800000)]) = some (1, 1) := by decide +kernel
/-- R243: the signed maximum of -1 and -3 is -1, sign-extended into the scalar; the unsigned one of no element is 0. -/
theorem test_vredmax : sOut (.vredmaxI 7 0 4) (sU 1 2 0 1 [(4, 0xFDFF)]) 7 = some (2 ^ 64 - 1) ∧ sOut (.vredmaxN 7 5 4) (sU 1 2 0 1 [(4, 0xFDFF)]) 7 = some 0 := by
  decide +kernel
/-- R241: sliding down by 1 takes the fill value at the end. -/
theorem test_vslidedn : eOut (.vslidedn 4 0 2 0) (sU 1 3 0 1 [(4, 0x030201)]) 4 24 0 = some 0x070302 := by decide +kernel
/-- R242: each element of vD is replaced by the element of the source it indexes. -/
theorem test_vperm : eOut (.vperm 4 0 5) (sU 1 3 0 1 [(4, 0x000102), (5, 0x0C0B0A)]) 4 24 0 = some 0x0A0B0C := by decide +kernel
/-- R51: the truncated term does not break the tie: 1.0. -/
theorem test_fusedDot_truncates : fusedDot (Fmt.f32.decode 0x3F800000)
    [(Fmt.bf16.decode 0x3980, Fmt.bf16.decode 0x3980), (Fmt.bf16.decode 0x3080, Fmt.bf16.decode 0x3080)] = (0x3F800000, 1) := by decide +kernel
/-- Another role traps with ROLE. -/
theorem test_vadd_role : trapOf (.vadd ⟨2, 1, 3, 0, 0⟩ 2) (tS tLa tCoH gM tR) = some (0x05, 0) := by decide +kernel

/-- R237: the worked `VADD` of two E4M3 blocks: element 0x79 under scale 0x7A, no flag. -/
def sMx : State :=
  tS tLa tCo { gV with vtype := 1, vl := 128, v := [(1, 0x38), (2, 0x38)], scale := [(1, 0x7F7F7F7F), (2, 0x7F7F7F82)], w := 64 } tR
theorem test_mx_vadd : eOut (.vaddF ⟨2, 1, 3, 0, 0⟩ 0) sMx 3 16 0 = some 0x79 ∧ fOut (.vaddF ⟨2, 1, 3, 0, 0⟩ 0) sMx = some (0, 1) ∧
    (gAfter (.vaddF ⟨2, 1, 3, 0, 0⟩ 0) sMx).map (fun g => (g.scale.get 0 3).toNat % 256) = some 0x7A := by decide +kernel
/-- The barrier and the scalar 5 after an instruction. -/
def bOut (i : Instr) (s : State) : Option (Barrier × Nat) := match exec i s with
  | .next t => (t.cohorts.find 2).bind (fun co => (t.groups.find 3).map (fun g => (co.bars.get {} 2, (g.sGet 5).toNat)))
  | _ => none
def sBar (b : Barrier) : State := tS tLa { tCo with bars := [(2, b)] } gV tR
/-- R24, R142: the arrival that completes the barrier: ARRIVED 2 of 2, PEND -5 + 5 = 0, GEN goes from 65,535 to 0; the ticket is 65,535. -/
theorem test_bar_arrive : bOut (.barArrive 2 1 5) (sBar { pend := -5, gen := 65535, arrived := 1, target := 2 }) =
    some ({ pend := 0, gen := 0, arrived := 0, target := 2 }, 65535) := by decide +kernel
/-- R25: at ARRIVED = 16 an arrival sets ERR and changes nothing else. -/
theorem test_bar_arrive_full : (bOut (.barArrive 2 1 5) (sBar { pend := 1, gen := 4, arrived := 16, target := 16 })).map (fun x => x.1) =
    some { pend := 1, gen := 4, err := true, arrived := 16, target := 16 } := by decide +kernel
/-- R149: an access to a number that is no register. -/
theorem test_csrr_illegal : trapOf (.csrr 3 0x28) sH = some (1, 0) := by decide +kernel
theorem test_csrw_frm_keeps_mode : (gAfter (.csrw 1 0x02) (tS tLa tCo { gV with frm := 3, s := [(1, 0xD)] } tR)).map (fun g => g.frm) = some 0xB := by
  decide +kernel
/-- R26: the lowest-addressed byte is the least significant. -/
theorem test_memory_little_endian : cellGet ((State.pmWr State.reset 0x1000 4 0x04030201).mem) 0x1003 = 4 ∧
    State.pmRd (State.pmWr State.reset 0x1000 4 0x04030201) 0x1001 2 = 0x0302 := by decide +kernel
/-- R128: with its last lane gone the group is no longer running, and its run ends. -/
theorem test_exit_releases : (match exec .exit sV with
    | .next t => (t.runs.find 0).isNone
    | _ => false) = true := by decide +kernel
/-- R104 to R106, R111: what a trap saves: CODE and DETAIL, the body offset behind a `BREAK` that stands first, ASET and FLANES; and the handler's word. -/
theorem test_trap_saves : (gAfter (.brk 36) sH).map (fun g => (g.trap, g.tcause, g.tepc, g.tlanes, g.lane 31)) =
    some (true, 0x240012, 0x0000000200000000, 0xFFFFFFFFFFFFFFFF, .live 16) := by decide +kernel
/-! ### Witnesses: each statement's hypotheses are met, at the bounds of their ranges -/

theorem witness_ScalarBinaryResults : ctxOf sV = some cV ∧ (0 : Nat) < 64 ∧ (63 : Nat) < 64 := by decide +kernel
theorem witness_ScalarCountsAndImmediates : ctxOf sV = some cV ∧ (63 : Nat) < 64 ∧ ((-2048 : Int) ≤ -2048 ∧ (-2048 : Int) ≤ 2047) ∧
    ((-131072 : Int) ≤ 131071 ∧ (131071 : Int) ≤ 131071) ∧ ((-512 : Int) ≤ 511 ∧ (511 : Int) ≤ 511) := by decide +kernel
theorem witness_PointerConstruction : ctxOf sV = some cV ∧ (63 : Nat) < 64 ∧ cV.sn 3 < 4096 ∧ 4096 ≤ cV.sn 4 ∧ (7 : Nat) < 8 ∧ (1 : Nat) < 2 := by
  decide +kernel
theorem witness_ControlTransfers : ctxOf sV = some cV ∧ (255 : Nat) < 256 ∧ 255 < cV.g.w ∧
    (let g := { gV with w := 16 }
     ctxOf (tS tLa tCo g tR) = some (tC tLa tCo g tR) ∧ 15 < (tC tLa tCo g tR).g.w ∧ (tC tLa tCo g tR).g.w ≤ 16) := by decide +kernel
theorem witness_PlainSystemInstructions : ctxOf sV = some cV ∧ (63 : Nat) < 64 := by decide +kernel
theorem witness_RunEndMovesLanes : sV.runs.find 0 = some tR ∧ sV.groups.find tR.gid = some gV ∧ tR.tret = false ∧ tR.exits = false ∧ gV.ending = false ∧
    (tS tLa tCo { gV with ending := true } tR).groups.find tR.gid = some { gV with ending := true } ∧
    (let r := { tR with exits := true }
     (tS tLa tCo gV r).runs.find 0 = some r ∧ (tS tLa tCo gV r).groups.find r.gid = some gV ∧ r.tret = false ∧ r.exits = true) := by decide +kernel
theorem witness_StepPastChangesOnlyItsGroup : sV.runs.find 0 = some tR ∧ sV.groups.find tR.gid = some gV ∧ 2 < tR.buf.length ∧
    ¬ 4 < tR.buf.length ∧ tR.tret = false ∧ gV.ending = false := by decide +kernel
theorem witness_SetVectorLength : ctxOf sV = some cV ∧ cV.g.vl < 2 ^ 64 ∧ (1 < 2 ∧ 3 < 4 ∧ 4 < 5) ∧
    (let g := { gV with s := [(1, 0xDC), (2, 256), (3, 0x20), (4, 5)] }
     let c := tC tLa tCo g tR
     ctxOf (tS tLa tCo g tR) = some c ∧ (c.sn 1 < 256 ∧ (c.sn 1).testBit 5 = false ∧ c.sn 1 % 8 < 5) ∧ 256 ≤ c.sn 2 ∧
       (c.sn 3).testBit 5 = true ∧ 5 ≤ c.sn 4 % 8) := by decide +kernel
theorem witness_MaskRegisterResults :
    (let g := { gV with m := [(0, 1 <<< 1023), (1, 1)] }
     let c := tC tLa tCo g tR
     ctxOf (tS tLa tCo g tR) = some c ∧ (1023 < 1024 ∧ (c.m 0).getLsbD 1023 = true ∧ ∀ j, j < 1023 → (c.m 0).getLsbD j = false) ∧
       (c.m 1).getLsbD 0 = true ∧ c.m 2 = 0 ∧ 15 < 16 ∧ 63 < 64) := by decide +kernel
theorem witness_BarrierRulesAndWaits :
    (let x : Barrier := { pend := 5, arrived := 16, target := 16 }
     let y : Barrier := { pend := -1, arrived := 1, target := 2, gen := 65535 }
     x.arrived = 16 ∧ x.pend + -2147483654 < -2147483648 ∧ 2147483647 < x.pend + 2147483643 ∧
       (-2147483648 ≤ y.pend + -2147483647 ∧ y.pend + -2147483647 ≤ 2147483647) ∧ (y.target ≤ y.arrived + 1 ∧ y.pend + 1 = 0) ∧
       (y.arrived + 0 < y.target ∨ y.pend + 2 ≠ 0) ∧ y.gen < 65536) ∧
    ctxOf sV = some cV ∧ cV.g.releasesBefore sV.nextId = false ∧
    (let g := { gV with stq := [.rel 7 (.store ⟨0, 8, none, 0⟩ 0 0)] }
     ctxOf (tS tLa tCo g tR) = some (tC tLa tCo g tR) ∧ g.releasesBefore (tS tLa tCo g tR).nextId = true) := by decide +kernel
theorem quiet_sV : Quiet sV cV := ⟨settled_of (by decide +kernel), rfl, rfl, rfl, rfl, nofun⟩
theorem witness_ReleasesTakeEffect : ctxOf sV = some cV ∧ 15 < 16 ∧ 63 < 64 ∧ Quiet sV cV := ⟨rfl, by decide, by decide, quiet_sV⟩
theorem witness_ControlRegisterReads : ctxOf sV = some cV ∧ (63 < 64 ∧ 15 < 16 ∧ 7 < 8 ∧ 0x28 ≤ 0x28) ∧
    (cV.g.fstat.trank < 4096 ∧ cV.g.fstat.tocnt < 65536 ∧ cV.g.fstat.unkcnt < 65536) ∧
    (let g := { gV with idx := 31, gidx := 15, w := 256 }
     let c := tC { tLa with prio := 7 } { tCo with core := 319, cidx := 3, tcoh := 7 } g tR
     ctxOf (tS { tLa with prio := 7 } { tCo with core := 319, cidx := 3, tcoh := 7 } g tR) = some c ∧ c.co.core < 320 ∧ c.co.cidx < 4 ∧ c.g.idx < 32 ∧
       c.co.tcoh < 8 ∧ c.g.gidx < 16 ∧ c.la.prio < 8 ∧ c.g.w ≤ 256) := by decide +kernel
theorem witness_ControlRegisterWriteForms : ctxOf sV = some cV ∧ cV.g.vl < 2 ^ 64 ∧ cV.sn 4 % 8 < 5 ∧ 5 ≤ cV.sn 1 % 8 ∧ cV.g.fflags < 32 ∧
    (cV.co.tvecWord < 2 ^ 32 ∧ (cV.co.bar 15).target < 32 ∧ (15 : Nat) < 16) ∧ ((cV.g.vtype ||| cV.sn 4) &&& 0xDF) % 8 < 5 ∧
    5 ≤ ((cV.g.vtype ||| cV.sn 2) &&& 0xDF) % 8 ∧ (cV.g.vtype &&& (0xDF ^^^ (cV.sn 4 &&& 0xDF))) % 8 < 5 := by
  decide +kernel
theorem witness_ControlVectorMoves : ctxOf sV = some cV ∧ 63 < 64 ∧ 7 < 8 ∧ 63 < cV.g.w ∧
    (let g := { gV with w := 16 }
     ctxOf (tS tLa tCo g tR) = some (tC tLa tCo g tR) ∧ (tC tLa tCo g tR).g.w ≤ 16) := by decide +kernel
theorem witness_PrivilegedAndFabricRegisters : (ctxOf sV = some cV ∧ cV.la.priv = true ∧ cV.g.role = .vector ∧
      sV.rankOf (sV.partOf cV.co.core) = none ∧ cV.sn 3 < 4096 ∧ 4096 ≤ cV.sn 4 ∧ cV.g.stq = [] ∧ cV.g.stqWait = []) ∧
    (let s := { tS { tLa with priv := false } tCo gM tR with cfg := [(State.pblock 0 + 0x20, 0x8FFF)] }
     let c := tC { tLa with priv := false } tCo gM tR
     ctxOf s = some c ∧ c.la.priv = false ∧ c.g.role ≠ .vector ∧ s.rankOf (s.partOf c.co.core) = some 4095) := by decide +kernel
theorem witness_TrapEntry : ctxOf sH = some cH ∧ cH.g.trap = false ∧ cH.co.tvecEn = true ∧ cH.g.ending = false ∧
    ctxOf (tS tLa tCo { gV with ending := true } tR) = some (tC tLa tCo { gV with ending := true } tR) := by decide +kernel
theorem witness_FatalTrap : (ctxOf sV = some cV ∧ cV.co.tvecEn = false ∧ cV.g.ending = false ∧ cV.la.failed = 0 ∧
      cV.co.launch ∈ sV.gangLids cV.co.launch ∧ cV.run.gid ∈ sV.launchGids cV.co.launch) ∧
    (let s : State := { sV with groups := [(3, gV), (4, gV)], cohorts := [(2, { tCo with gids := [3, 4] })], runs := [(0, tR), (4, { tR with gid := 4 })] }
     ctxOf s = some { cV with co := { tCo with gids := [3, 4] } } ∧ 4 ∈ s.launchGids 1 ∧ 4 ≠ tR.gid ∧ (∃ e ∈ s.runs, e.2.gid = 4) ∧ gV.ended = false) ∧
    (let g := { gV with trap := true }
     let c := tC tLa tCoH g tR
     ctxOf (tS tLa tCoH g tR) = some c ∧ c.g.trap = true ∧ c.la.failed = 0 ∧ c.run.gid ∈ (tS tLa tCoH g tR).launchGids c.co.launch) := by
  decide +kernel
/-- sP in a handler that returns: `tlanes` names all lanes, `tepc` the word, offset and HEAD given. -/
def gT (tepc : Nat) : Group := { gV with trap := true, tlanes := 0xFFFFFFFF00000000, tepc := BitVec.ofNat 64 tepc }
def sT (tepc : Nat) : State := { tS tLa tCoH (gT tepc) tR with mem := tMem ++ [(0x40000008, 0xFF), (0x4000000C, 0xFF), (0x4000000D, 0x01)] }
def cT (tepc : Nat) : Ctx := tC tLa tCoH (gT tepc) tR
theorem witness_TrapReturn_forms : (∀ t ∈ [2 ^ 38, 0, 1, 2, 2 ^ 32, 2 ^ 33], ctxOf (sT t) = some (cT t) ∧
      liveOf (cT t).g (cT t).run.aset = (BitVec.ofNat 32 ((cT t).g.tlanes.toNat / 2 ^ 32) &&& (cT t).g.liveSet)) ∧
    (let g := { gT 0 with tlanes := 0x0000000F00000000 }
     ctxOf (tS tLa tCoH g tR) = some (tC tLa tCoH g tR) ∧ liveOf g tR.aset ≠ (BitVec.ofNat 32 (g.tlanes.toNat / 2 ^ 32) &&& g.liveSet)) := by
  decide +kernel
theorem witness_TrapReturn_fetch : fetchWord (sT 0) (whoOf (sT 0) (cT 0)) 0 = .ok 0x2FF ∧ isHead 0x2FF = true ∧
    fetchRun (sT 0) (whoOf (sT 0) (cT 0)) 0 0x2FF = .ok ([0], [1, 0, 0, 0]) ∧ headLen 0x2FF = 2 ∧ 1 ∉ [0] ∧
    fetchWord (sT 1) (whoOf (sT 1) (cT 1)) 1 = .ok 1 ∧ isHead 1 = false ∧
    fetchWord (sT 2) (whoOf (sT 2) (cT 2)) 2 = .ok 0xFF ∧ fetchRun (sT 2) (whoOf (sT 2) (cT 2)) 2 0xFF = .error { code := 0x01 } ∧
    fetchWord sV (whoOf sV cV) 0 = .error { code := 0x07, detail := 9, addr := 0x40000000 } :=
  ⟨okIs_eq (by decide +kernel), by decide, okIs_eq (by decide +kernel), by decide, by decide, okIs_eq (by decide +kernel), by decide,
    okIs_eq (by decide +kernel), errIs_eq (by decide +kernel), errIs_eq (by decide +kernel)⟩
theorem witness_TrapReturn_end : (let r := { tR with tret := true }
    ∀ t ∈ [2 ^ 38, 2 ^ 39], (tS tLa tCoH (gT t) r).runs.find 0 = some r ∧ (tS tLa tCoH (gT t) r).groups.find r.gid = some (gT t) ∧
      r.tret = true ∧ (gT t).killEnd = false ∧ (gT t).ending = false ∧ ((gT t).tepc.getLsbD 38 = true ∨ (gT t).tepc.getLsbD 38 = false)) := by decide +kernel
/-- A slot at the head of the run at word 0. -/
def rHead : Run := { gid := 3, word := 0, aset := BitVec.allOnes 32, buf := [0xFF, 2, 0, 0] }
theorem witness_FetchingAndRunHeads_head :
    (let s : State := { tS tLa tCo gV rHead with mem := tMem }
     let c := tC tLa tCo gV rHead
     ctxOf s = some c ∧ (1 < 2 ∧ 65535 < 2 ^ 16 ∧ 63 < 64) ∧ c.run.head = true ∧ fetchRun s (whoOf s c) c.run.word 0x2FF = .ok ([0], [1, 0, 0, 0]) ∧
       fetchRun s (whoOf s c) c.run.word 0xFF = .error { code := 0x01 } ∧ ctxOf sV = some cV ∧ cV.run.head = false) :=
  ⟨rfl, by decide, rfl, okIs_eq (by decide +kernel), errIs_eq (by decide +kernel), rfl, rfl⟩
theorem witness_FetchingAndRunHeads_bodies : headLen 0xFF = 0 ∧ 48 < headLen 0x31FF ∧ headLen 0x30FF = 48 ∧
    (whoOf sP cV).clen < 62 + 1 + (headLen 0x4FF + 1) / 2 ∧ 61 + 1 + (headLen 0x4FF + 1) / 2 ≤ (whoOf sP cV).clen ∧
    fetchWords sP (whoOf sP cV) 1 1 = .ok [1] ∧ bodyShape 0 ((halfwords [1]).take 2) = some [0] ∧ bodyShape 0 ((halfwords [1]).take 1) = none ∧
    (∃ t, fetchWords sP (whoOf sP cV) 63 2 = .error t) ∧
    (bodyShape 0 (List.replicate 48 0)).any (fun o => decide (24 < o.length)) = true := by
  refine ⟨by decide, by decide, by decide, by decide +kernel, by decide +kernel, okIs_eq (by decide +kernel), by decide, by decide, ?_, by decide⟩
  exact ⟨{ code := 0x02 }, errIs_eq (by decide +kernel)⟩
/-- The same page with other permission bits. -/
def sLeaf (b0 b1 : Byte) : State := { sV with mem := [(1, 0x80), (2, 0x04), (0x40000, 0x07), (0x40002, 0x08), (0x80000, b0), (0x80001, b1), (0x80003, 0x40)] }
theorem witness_FetchingAndRunHeads_words : (whoOf sP cV).clen ≤ 64 ∧ 63 < (whoOf sP cV).clen ∧ xlate sV (whoOf sV cV) .fetch 0 = .error 9 ∧
    (∀ row ∈ [((0xC1 : Byte), (1 : Byte), 1, true, false), (0xC1, 0, 1, false, false), (0xC1, 3, 1, true, true)],
      ∃ x, xlate (sLeaf row.1 row.2.1) (whoOf sV cV) .fetch 0 = .ok x ∧ x.leaf.st = row.2.2.1 ∧ x.leaf.x = row.2.2.2.1 ∧ x.leaf.priv = row.2.2.2.2) := by
  refine ⟨by decide, by decide, rfl, ?_⟩
  intro row hr
  simp only [List.mem_cons, List.not_mem_nil, or_false] at hr
  rcases hr with rfl | rfl | rfl <;> exact ⟨_, rfl, by decide +kernel, by decide +kernel, by decide +kernel⟩
theorem witness_StepRunsTheDecodedInstruction :
    (let s : State := { sV with agenda := [.issue 0] }
     let r := { tR with buf := [0xFB, 0, 0, 0] }
     let s2 : State := { tS tLa tCo gV r with agenda := [.issue 0] }
     s.agenda = .issue 0 :: [] ∧ s.runs.find 0 = some tR ∧ decode tR.buf = .ok (.pad, 2) ∧ s2.runs.find 0 = some r ∧
       decode r.buf = .error .reservedMajor ∧ ctxOf { s2 with tick := 1, agenda := [], turn := 0 } = some { tC tLa tCo gV r with tick := 1 }) :=
  ⟨rfl, rfl, rfl, rfl, rfl, rfl⟩
theorem witness_StepFollowsTheAgenda : (let s : State := { sV with agenda := [.issue 1, .event (.groupRelease 3 0), .time 4] }
    s.agenda = .issue 1 :: [.event (.groupRelease 3 0), .time 4] ∧ s.runs.find 1 = none) ∧
    ({ sV with agenda := [.event (.slotPick 0)] } : State).agenda = .event (.slotPick 0) :: [] ∧
    (let s : State := { sV with agenda := [.time 8192] }
     s.agenda = .time 8192 :: [] ∧ deadlines s ≠ [] ∧ ∀ e ∈ (deadlines s).map (·.1), s.now < e ∧ s.now + 8192 ≤ e) := ⟨⟨rfl, rfl⟩, rfl, by decide +kernel⟩
/-- A vector group under another `vtype`, window and tags. -/
def gW (vtype w : Nat) (tag : Tab Byte) : Group := { gV with vtype := vtype, w := w, tag := tag, vl := 1024 }
def sW (vtype w : Nat) (tag : Tab Byte) : State := tS tLa tCo (gW vtype w tag) tR
def cW (vtype w : Nat) (tag : Tab Byte) : Ctx := tC tLa tCo (gW vtype w tag) tR
theorem ctx_cW (vtype w : Nat) (tag : Tab Byte) : ctxOf (sW vtype w tag) = some (cW vtype w tag) := rfl
theorem witness_LaneCheckOrder :
    (let o : VOp := ⟨255, 1, false⟩
     let t8 : VOp := ⟨8, 1, true⟩
     let t7 : VOp := ⟨7, 1, true⟩
     ¬(t8.temp = false ∨ t8.idx + t8.n ≤ 8) ∧ (t7.temp = false ∨ t7.idx + t7.n ≤ 8) ∧ cM.g.role ≠ .vector ∧ cV.g.role = .vector ∧
       ¬((⟨4, 2, false⟩ : VOp).temp ≠ (⟨5, 2, false⟩ : VOp).temp ∨ (4 = 5 ∧ 2 = 2) ∨ 4 + 2 ≤ 5 ∨ 5 + 2 ≤ 4) ∧ 4 + 2 ≤ 6 ∧
       (cW 3 255 []).g.w < o.idx + o.n ∧ o.idx + o.n ≤ (cW 3 256 []).g.w) := by decide +kernel
theorem witness_DomainTagRules : (∀ r ∈ [0, 1], (cW 3 256 [(0, 5), (1, 5)]).tag r = 5) ∧ (∀ o ∈ [(⟨2, 1, false⟩ : VOp)], haarRegs cV o = []) ∧
    (let c : Ctx := { cV with g := { gW 3 256 [(0, 5)] with dmode := true } }
     c.g.dmode = true ∧ haarRegs c ⟨0, 1, false⟩ ≠ []) := by decide +kernel
/-- Blocks of level 3, two registers each: whole and uniform, at both ends of the window; cut by the operand; of two levels; under `dmode`. -/
theorem witness_DomainTagRules_blocks :
    (let whole := fun (c : Ctx) (o : VOp) => ∀ j ∈ (List.range o.n).map (o.idx + ·), c.tag j % 4 = 1 → o.idx ≤ 2 * (j / 2) ∧ 2 * (j / 2) + 2 ≤ o.idx + o.n
     let uniform := fun (c : Ctx) (o : VOp) => ∀ j ∈ (List.range o.n).map (o.idx + ·), c.tag j % 4 = 1 →
       ∀ i, i < 2 → c.tag (2 * (j / 2) + i) % 4 = 1 ∧ c.tag (2 * (j / 2) + i) / 4 % 8 = c.tag j / 4 % 8
     let c := cW 3 256 [(254, 13), (255, 13)]
     c.tag 254 % 4 = 1 ∧ c.tag 254 / 4 % 8 = 3 ∧ whole c ⟨254, 2, false⟩ ∧ uniform c ⟨254, 2, false⟩ ∧ c.g.dmode = false ∧ 254 + 2 ≤ 256 ∧
       ¬whole c ⟨255, 1, false⟩ ∧ (∀ r ∈ [254, 255], c.tag r = 13) ∧
       whole (cW 3 256 [(2, 13), (3, 9)]) ⟨2, 2, false⟩ ∧ ¬uniform (cW 3 256 [(2, 13), (3, 9)]) ⟨2, 2, false⟩ ∧
       (cW 3 256 [(2, 13), (3, 9)]).tag 2 ≠ (cW 3 256 [(2, 13), (3, 9)]).tag 3) ∧
    (let c : Ctx := { cV with g := { gW 3 256 [(254, 13), (255, 13)] with dmode := true } }
     c.g.dmode = true ∧ haarRegs c ⟨254, 2, false⟩ = [(254, 3), (255, 3)]) := by decide +kernel
/-- Ready for a lane instruction of two sources in registers 255, 254, 253 at a `vtype`. -/
theorem ready_cW : ∀ row ∈ [(1, some Fmt.e4m3), (2, some .bf16), (3, some .f32), (4, none)], ∀ k ∈ [TagClass.copy, .linear, .nonlinear],
    LaneReady (cW row.1 256 []) 2 ⟨253, 1, false⟩ [⟨254, 1, false⟩, ⟨255, 1, false⟩] [⟨253, 1, false⟩, ⟨254, 1, false⟩, ⟨255, 1, false⟩] k row.2 0 {} := by
  simp only [List.mem_cons, List.not_mem_nil, or_false, forall_eq_or_imp, forall_eq]
  exact ⟨⟨laneReady rfl, laneReady rfl, laneReady rfl⟩, ⟨laneReady rfl, laneReady rfl, laneReady rfl⟩, ⟨laneReady rfl, laneReady rfl, laneReady rfl⟩,
    laneReady rfl, laneReady rfl, laneReady rfl⟩
/-- The operands of the forms LV and LW there. -/
theorem ops_cW : ∀ v ∈ [1, 2, 3, 4], bankOp (cW v 256 []) 7 29 (cW v 256 []).g.grp = ⟨253, 1, false⟩ ∧
    bankOp (cW v 256 []) 7 31 (cW v 256 []).g.grp = ⟨255, 1, false⟩ ∧ wideOp (cW v 256 []) 255 0 (cW v 256 []).g.grp = ⟨255, 1, false⟩ ∧
    (cW v 256 []).g.sew = 4 * 2 ^ v ∧ (cW v 256 []).g.sew ≤ 64 := by decide +kernel
/-- The traps of the same forms: another role; a window of 16 registers; under `dmode` a Haar-tagged block. -/
theorem traps_cW : laneChecks cM true 2 [⟨1, 1, false⟩] [⟨1, 1, false⟩, ⟨2, 1, false⟩] = .error { code := 0x05 } ∧
    laneChecks (cW 3 16 []) true 2 [⟨16, 1, false⟩] [⟨16, 1, false⟩, ⟨2, 1, false⟩] = .error { code := 0x06, addr := 16 } ∧
    (let c : Ctx := { cV with g := { gW 3 256 [(0, 5)] with dmode := true } }
     tagRule c .nonlinear [⟨0, 1, false⟩] (some .f32) = .error { code := 0x0C, detail := 1 }) :=
  ⟨errIs_eq rfl, errIs_eq rfl, errIs_eq rfl⟩
theorem witness_IntegerVectorResults : ctxOf (sW 4 256 []) = some (cW 4 256 []) ∧ (cW 4 256 []).g.sew ≤ 64 ∧ ((cW 4 256 []).g.sew == 8 * 2 ^ 3) = true ∧
    LaneReady (cW 4 256 []) 2 ⟨253, 1, false⟩ [⟨254, 1, false⟩, ⟨255, 1, false⟩] [⟨254, 1, false⟩, ⟨255, 1, false⟩] .nonlinear none 0 {} :=
  ⟨rfl, by decide +kernel, by decide +kernel, laneReady rfl⟩
theorem witness_IntegerScalarAndPackedResults : ctxOf (sW 3 256 []) = some (cW 3 256 []) ∧ ((cW 3 256 []).g.sew == 32) = true ∧
    LaneReady (cW 3 256 []) 2 ⟨253, 1, false⟩ [⟨254, 1, false⟩, ⟨255, 1, false⟩] [⟨253, 1, false⟩, ⟨254, 1, false⟩, ⟨255, 1, false⟩] .nonlinear
      (some .f32) 0 {} ∧
    LaneReady (cW 3 256 []) 2 ⟨253, 1, false⟩ [⟨254, 1, false⟩] [⟨254, 1, false⟩] .nonlinear (some .f32) 0 {} :=
  ⟨rfl, by decide +kernel, laneReady rfl, laneReady rfl⟩
theorem witness_CompareResults : ctxOf (sW 2 256 []) = some (cW 2 256 []) ∧ (cW 2 256 []).g.sew ≤ 64 ∧ 15 < 16 ∧
    laneChecks (cW 2 256 []) true 2 [] [⟨254, 1, false⟩, ⟨255, 1, false⟩] = .ok () ∧
    tagRule (cW 2 256 []) .nonlinear [⟨254, 1, false⟩, ⟨255, 1, false⟩] (some .bf16) = .ok (0, {}) ∧ (⟨254, 1, false⟩ : VOp).exists' ∧
    (⟨255, 1, false⟩ : VOp).exists' := ⟨rfl, by decide +kernel, by decide, okIs_eq rfl, okIs_eq rfl, inThere_iff rfl, inThere_iff rfl⟩
theorem witness_HalfwordFormResults : ctxOf sV = some cV ∧ 31 < 256 ∧ laneChecks cV true 0 [⟨31, 1, false⟩] [⟨31, 1, false⟩, ⟨30, 1, false⟩] = .ok () ∧
    tagRule cV .nonlinear [⟨31, 1, false⟩, ⟨30, 1, false⟩] (some .f32) = .ok (0, {}) ∧
    tagRule (cW 3 256 [(30, 5), (31, 5)]) .linear [⟨31, 1, false⟩, ⟨30, 1, false⟩] (some .bf16) = .ok (5, {}) :=
  ⟨rfl, by decide, okIs_eq rfl, okIs_eq rfl, okIs_eq rfl⟩
theorem witness_FloatElementResults : ∀ row ∈ [(0, 2), (1, 2), (2, 3), (3, 4)], ctxOf (sW row.2 256 []) = some (cW row.2 256 []) ∧
    (cW row.2 256 []).g.sew = (fmtT row.1).bits ∧
    LaneReady (cW row.2 256 []) 2 ⟨253, 1, false⟩ [⟨254, 1, false⟩, ⟨255, 1, false⟩] [⟨254, 1, false⟩, ⟨255, 1, false⟩] .linear
      (reconFmt (cW row.2 256 []).g.sew) 0 {} := by
  simp only [List.mem_cons, List.not_mem_nil, or_false, forall_eq_or_imp, forall_eq]
  exact ⟨⟨rfl, rfl, laneReady rfl⟩, ⟨rfl, rfl, laneReady rfl⟩, ⟨rfl, rfl, laneReady rfl⟩, rfl, rfl, laneReady rfl⟩
theorem witness_SelectAndSpecialFunctions : ∀ v ∈ [2, 3], ctxOf (sW v 256 []) = some (cW v 256 []) ∧ (cW v 256 []).g.sew ≤ 64 ∧
    LaneReady (cW v 256 []) 2 ⟨253, 1, false⟩ [⟨255, 1, false⟩] [⟨255, 1, false⟩] .nonlinear (reconFmt (cW v 256 []).g.sew) 0 {} ∧
    LaneReady (cW v 256 []) 2 ⟨253, 1, false⟩ [] [] .nonlinear (reconFmt (cW v 256 []).g.sew) 0 {} := by
  simp only [List.mem_cons, List.not_mem_nil, or_false, forall_eq_or_imp, forall_eq]
  exact ⟨⟨rfl, by decide +kernel, laneReady rfl, laneReady rfl⟩, rfl, by decide +kernel, laneReady rfl, laneReady rfl⟩
theorem witness_ConversionResults :
    (let c := cW 1 256 []
     ctxOf (sW 1 256 []) = some c ∧ fcvtPair 0 4 = none ∧ fcvtPair 3 8 = some { dst := .f .f32, src := .f .e5m2 } ∧
       LaneReady c 0 ⟨248, 4, false⟩ [⟨255, 1, false⟩] [⟨255, 1, false⟩] .copy (some .e4m3) 0 {}) ∧
    (8 < max ((cW 0x11 256 []).g.grp * (32 / 8)) (cW 0x11 256 []).g.grp ∧ max ((cW 0x09 256 []).g.grp * (32 / 8)) (cW 0x09 256 []).g.grp ≤ 8) :=
  ⟨⟨rfl, rfl, rfl, laneReady rfl⟩, by decide +kernel⟩
theorem witness_BlockInstructions :
    (let c := cW 1 256 []
     ctxOf (sW 1 256 []) = some c ∧ mxSel 3 8 = some (.mx .e2m3) ∧ mxSel 1 4 = none ∧ c.g.grp * (32 / 8) ≤ 8 ∧
       LaneReady c 0 ⟨255, 1, false⟩ [⟨248, 4, false⟩] [⟨248, 4, false⟩] .copy (some .e4m3) 0 {} ∧ mxFmtT 8 1 = some .e5m2 ∧
       LaneReady c 2 ⟨253, 1, false⟩ [⟨254, 1, false⟩, ⟨255, 1, false⟩] [⟨254, 1, false⟩, ⟨255, 1, false⟩] .linear (some .e4m3) 0 {}) ∧
    (8 < (cW 0x11 256 []).g.grp * (32 / 8)) ∧ ((FVal.inf false).isInf = true ∧ (FVal.fin false 0 1).isNan = false ∧ (FVal.fin false 0 1).isInf = false) :=
  ⟨⟨rfl, rfl, rfl, by decide +kernel, laneReady rfl, rfl, laneReady rfl⟩, by decide +kernel, rfl, rfl, rfl⟩
theorem witness_SidecarMoves : ctxOf (sW 3 256 []) = some (cW 3 256 []) ∧
    laneChecks (cW 3 256 []) true 0 [⟨31, 1, false⟩] [⟨31, 1, false⟩, ⟨30, 1, false⟩] = .ok () ∧
    laneChecks (cW 3 256 []) true 0 [⟨255, 1, false⟩] [⟨255, 1, false⟩, ⟨7, 1, true⟩] = .ok () ∧ (⟨255, 1, false⟩ : VOp).exists' ∧
    (⟨7, 1, true⟩ : VOp).exists' ∧ (⟨255, 1, false⟩ : VOp).temp = false := ⟨rfl, okIs_eq rfl, okIs_eq rfl, inThere_iff rfl, inThere_iff rfl, rfl⟩
theorem witness_CrossLaneMoves :
    (let c := cW 3 256 []
     ctxOf (sW 3 256 []) = some c ∧ c.g.sew ≤ 64 ∧ LaneReady c 2 ⟨63, 1, false⟩ [⟨62, 1, false⟩] [⟨63, 1, false⟩, ⟨62, 1, false⟩] .nonlinear (some .f32) 0 {} ∧
       LaneReady c 2 ⟨63, 1, false⟩ [] [⟨63, 1, false⟩] .nonlinear (some .f32) 0 {} ∧ laneChecks c true 0 [⟨63, 1, false⟩] [⟨63, 1, false⟩] = .ok () ∧
       (c.m 0).setWidth 32 &&& ~~~c.run.aset = (0 : Word32)) ∧
    (let c : Ctx := { cV with run := { tR with aset := 1 } }
     (c.m 0).setWidth 32 &&& ~~~c.run.aset ≠ (0 : Word32)) :=
  ⟨⟨rfl, by decide +kernel, laneReady rfl, laneReady rfl, okIs_eq rfl, by decide +kernel⟩, by decide +kernel⟩
theorem witness_ReductionAndScanResults :
    (let c := cW 3 256 []
     ctxOf (sW 3 256 []) = some c ∧ c.g.sew ≤ 64 ∧ 63 < 64 ∧ laneChecks c true 2 [] [⟨63, 1, false⟩] = .ok () ∧
       tagRule c .nonlinear [⟨63, 1, false⟩] (some .f32) = .ok (0, {}) ∧ (⟨63, 1, false⟩ : VOp).exists' ∧
       (c.m 0).setWidth 32 &&& ~~~c.run.aset = (0 : Word32) ∧ LaneReady c 2 ⟨63, 1, false⟩ [] [⟨63, 1, false⟩] .nonlinear (some .f32) 0 {}) :=
  ⟨rfl, by decide +kernel, by decide, okIs_eq rfl, okIs_eq rfl, inThere_iff rfl, by decide +kernel, laneReady rfl⟩
/-- sP with 2^26 bytes of die SRAM, s1 a pointer into the page, s2 into the SRAM, s3 into the window. -/
def gP : Group := { gV with s := [(1, 0x1000), (2, 0x2000000003FFFFF8), (3, 0x3000000000000008), (4, 0x1000000000000010), (5, 0x1004)] }
def sA : State := { tS tLa tCo gP tR with mem := tMem, cfg := [(0x1000, 8), (0x1400, 8)] }
def cA : Ctx := tC tLa tCo gP tR
theorem quiet_sA : Quiet sA cA := ⟨settled_of (by decide +kernel), rfl, rfl, rfl, rfl, nofun⟩
theorem here_sA (a : Acc) (h : a = .rd ∨ a = .wr) : Here sA cA a 0x1000 8 0x40001000 := by
  rcases h with rfl | rfl
  · exact ⟨okIs_eq (by decide +kernel), fun _ b => by cases b <;> rfl, nofun⟩
  · exact ⟨okIs_eq (by decide +kernel), fun _ b => by cases b <;> rfl, nofun⟩
theorem witness_PointersAndFaultOrder_spaces :
    (4 ≤ 0x4000000000000000 / 2 ^ 60 % 8 ∧ 4 ≤ 0xF000000000000000 / 2 ^ 60 % 8) ∧
    (0x1FFF000000000004 / 2 ^ 60 % 8 = 1 ∧ 0x1FFF000000000004 % 8 ≠ 0 ∧ 0x9000000000000010 / 2 ^ 60 % 8 = 1 ∧ 0x9000000000000010 % 8 = 0) ∧
    (sA.sramSize 0 ≤ 2 ^ 26 ∧ 0x3FFFFF8 < sA.sramSize 0 ∧ 0 ∈ sA.partDies 0 ∧ sA.dies.testBit 7 = true ∧
      (4 ∉ ({ sA with npart := 2 } : State).partDies 0) ∧ ({ sA with dies := 0x7F } : State).dies.testBit 7 = false ∧
      0x2000000020000000 % 2 ^ 60 / 2 ^ 29 ≠ 0) ∧
    (128 * cA.g.w ≤ 0x20000 ∧ 0x1FFF8 < 128 * cA.g.w) ∧ xlate sV (whoOf sV cV) .rd 0 = .error 9 ∧
    (∃ x, xlate sA (whoOf sA cA) .rd 0x1000 = .ok x ∧ permFault (whoOf sA cA) .rd 0x1000 x.leaf = none) ∧
    (∃ x, xlate (sLeaf 0x81 1) (whoOf sV cV) .rd 8 = .ok x ∧ permFault (whoOf sV cV) .rd 8 x.leaf = some 2) :=
  ⟨by decide, by decide, by decide +kernel, by decide, rfl, ⟨_, rfl, by decide +kernel⟩, _, rfl, by decide +kernel⟩
theorem witness_PointersAndFaultOrder_faults :
    (let w : Trap := { code := 6 }
     let p : Trap := { code := 9 }
     ([(0, p), (1, w), (2, w)] = [(0, p)] ++ (1, w) :: [(2, w)] ∧ w.code = 6 ∧ ∀ f ∈ [(0, p)], f.2.code ≠ 6) ∧
       (∀ f ∈ [(31, p)], f.2.code ≠ 6)) ∧ cA.g.tk.getLsbD 15 = false ∧ ({ gP with tk := 0x8000 } : Group).tk.getLsbD 15 = true := by decide +kernel
theorem witness_ScalarLoads_issue : ctxOf sA = some cA ∧ Quiet sA cA ∧ cA.g.tk.getLsbD 15 = false ∧
    cA.s 1 + BitVec.ofInt 64 (8 * 0) = 0x1000 ∧ Here sA cA .rd 0x1000 8 0x40001000 ∧
    placeOf sA (whoOf sA cA) .rd 0x1004 8 = .error { code := 0x08, addr := 0x1004 } ∧
    (let g := { gP with tk := 0x8000 }
     ctxOf (tS tLa tCo g tR) = some (tC tLa tCo g tR) ∧ (tC tLa tCo g tR).g.tk.getLsbD 15 = true) ∧ 6 < 7 ∧ 7 ≤ 7 :=
  ⟨rfl, quiet_sA, by decide +kernel, by decide +kernel, here_sA .rd (.inl rfl), errIs_eq (by decide +kernel), ⟨rfl, by decide +kernel⟩, by decide, by decide⟩
/-- A load whose data has arrived: s7 receives 9, token 15 clears. -/
def pL : Pend := { tok := some 15, op := .load none, wrs := [⟨7, 2 ^ 64 - 1, 9⟩], dst := [(7, 1)] }
def gL : Group := { gP with tk := 0x8000, pend := [(8, pL)] }
theorem witness_ScalarLoads_arrival : ((tS tLa tCo gL tR).groups.find 3 = some gL ∧ gL.pend.find 8 = some pL ∧ pL.op = .load none ∧ pL.tok = some 15 ∧ pL.bad = [] ∧
    pL.left = 0 ∧ pL.els = [] ∧ pL.behind = [] ∧ pL.clob = [] ∧ pL.ecc = none ∧ pL.flags = 0 ∧ pL.fev = [] ∧ gL.ended = false) ∧
    Settled (tS tLa tCo gL tR) 3 gL := ⟨by decide +kernel, settled_of (by decide +kernel)⟩
theorem witness_ScalarStores : ctxOf sA = some cA ∧ Quiet sA cA ∧ Memory.wf sA.mem = true ∧ Memory.wf sA.sram = true ∧ Here sA cA .wr 0x1000 8 0x40001000 ∧
    placeOf sA (whoOf sA cA) .wr (cA.s 2).toNat 8 = .ok (.sram 0x3FFFFF8) ∧ placeOf sA (whoOf sA cA) .wr (cA.s 3).toNat 8 = .ok (.win 8) ∧
    (∃ t, placeOf sA (whoOf sA cA) .wr (cA.s 5).toNat 8 = .error t) :=
  ⟨rfl, quiet_sA, by decide +kernel, rfl, here_sA .wr (.inr rfl), okIs_eq (by decide +kernel), okIs_eq (by decide +kernel), { code := 8, addr := 0x1004 },
    errIs_eq (by decide +kernel)⟩
/-- Two elements at SEW 64, active, at s1; a buffer record in s8 to s11 (8-byte elements, zero outside the extent). -/
def gB : Group := { gP with vtype := 4, vl := 2, s := gP.s ++ [(8, 0x1000), (9, 16), (10, 8), (11, 3)] }
def sB : State := { sA with groups := [(3, gB)] }
def cB : Ctx := tC tLa tCo gB tR
theorem witness_VectorLoads : ctxOf sB = some cB ∧ groupsFit cB [⟨255, 1, false⟩] = .ok () ∧
    memChecks cB (some 15) (worst cB cB.g.sew (liveFaults cB [0, 1] (fun e => faultAt sB cB .rd (0x1000 + 8 * e) 8))) = .ok () ∧
    (cB.g.sew ≠ 4 ∧ apart (⟨3, 1, false⟩ : VOp) ⟨4, 1, false⟩ = true ∧ apart (⟨3, 2, false⟩ : VOp) ⟨4, 2, false⟩ = false) ∧
    ((bufRec cB 8).zero = true ∧ (bufRec cB 8).bmode ≠ 3 ∧ 8 * 2 ^ (bufRec cB 8).width = cB.g.sew) ∧ (bufRec cB 4).width ≠ 3 ∧
    ([1].find? (fun e => !cB.g.isHelper (laneOf 64 e) && (faultAt sB cB .rd (0x7FFFFFF8 + 8 * e) 8).isSome) = some 1) ∧
    ([1].find? (fun e => !cB.g.isHelper (laneOf 64 e) && (faultAt sB cB .rd (0x1000 + 8 * e) 8).isSome) = none) ∧
    ((∀ e ∈ [0, 15], e < 1024 / cB.g.sew * 1) ∧ 255 + 1 ≤ 256 ∧ cB.g.vl < 2 ^ 64 ∧ cB.g.sew ∈ [4, 8, 16, 32, 64] ∧ 255 < 256 ∧ 31 < 32 ∧ 1023 < 1024 ∧
      2 ^ 64 - 1 < 2 ^ 64) ∧
    (let g := { gB with vtype := 0 }
     ctxOf (tS tLa tCo g tR) = some (tC tLa tCo g tR) ∧ (tC tLa tCo g tR).g.sew = 4) ∧
    groupsFit (cW 3 16 []) [⟨16, 1, false⟩] = .error { code := 6, addr := 16 } :=
  ⟨rfl, okIs_eq rfl, okIs_eq (by decide +kernel), by decide +kernel, by decide +kernel, by decide +kernel, by decide +kernel, by decide +kernel,
    by decide +kernel, by decide +kernel, errIs_eq rfl⟩
theorem witness_VectorStores_issue : ctxOf sB = some cB ∧ groupsFit cB [⟨255, 1, false⟩] = .ok () ∧
    memChecks cB none (worst cB cB.g.sew (liveFaults cB [0, 1] (fun e => faultAt sB cB .wr (0x1000 + 8 * e) 8))) = .ok () ∧ cB.g.sew ≠ 4 ∧
    (bufRec cB 8).zero = true ∧ 8 * 2 ^ (bufRec cB 8).width = cB.g.sew :=
  ⟨rfl, okIs_eq rfl, okIs_eq (by decide +kernel), by decide +kernel, by decide +kernel, by decide +kernel⟩
/-- One load element and one store element, the latter of a nibble, at 0x1000. -/
theorem witness_VectorStoresAndElements :
    (let u := whoOf sA cA
     let e : LdEl := ⟨0x1000, 8, none, .s 7, false, none⟩
     let g := { gP with pend := [(8, { op := .load none, els := [(0, e)], tok := some 1 })] }
     let s : State := { sA with groups := [(3, g)] }
     let f : StEl := ⟨0x1000, 1, some 1, 5⟩
     s.groups.find u.gid = some g ∧ g.pend.find 8 = some { op := .load none, els := [(0, e)], tok := some 1 } ∧
       placeOf s u .rd e.ptr e.n = .ok (.phys 0x40001000 1) ∧ g.meetsAt s u 8 e.ptr e.n = false ∧
       g.loadsTile 8 e = false ∧
       0x40001000 / 128 ∉ s.poison ∧ Memory.wf s.mem = true ∧ placeOf s u .wr f.ptr f.n = .ok (.phys 0x40001000 1) ∧
       mustWait s u 7 f.ptr (.phys 0x40001000 1) true = false ∧ g.storeWaits s u 7 f = false ∧
       (∃ x, xlate (dropHeld u.gid 7 0 s) u .wr (f.ptr % 2 ^ 60) = .ok x) ∧ f.nib = some 1 ∧ (1 < 2 ∧ f.n = 1)) :=
  ⟨rfl, rfl, okIs_eq (by decide +kernel), by decide +kernel, by decide +kernel, nofun, by decide +kernel, okIs_eq (by decide +kernel),
    by decide +kernel, by decide +kernel, ⟨_, rfl⟩, rfl, by decide⟩
theorem witness_AtomicInstructions_issue : ctxOf sB = some cB ∧ 15 < 16 ∧ cB.g.sew = 64 ∧ apart (⟨255, 1, false⟩ : VOp) ⟨254, 1, false⟩ = true ∧
    groupsFit cB [⟨253, 1, false⟩, ⟨255, 1, false⟩, ⟨254, 1, false⟩] = .ok () ∧
    memChecks cB (some 15) (worst cB 64 (liveFaults cB [0, 1] (fun _ => faultAt sB cB .at 0x1000 8))) = .ok () ∧
    ((List.range cB.g.vlmax).filter (fun e => decide (e < cB.g.vl) && cB.act (laneOf 64 e) && true)) = [0, 1] ∧ 0x1000 / 2 ^ 60 % 8 ≠ 1 ∧ placeOf sB (whoOf sB cB) .at 0x1000 8 = .ok (.phys 0x40001000 1) ∧
    (cW 1 256 []).g.sew ≠ 32 ∧ (cW 1 256 []).g.sew ≠ 64 :=
  ⟨rfl, by decide, by decide +kernel, by decide, okIs_eq rfl, okIs_eq (by decide +kernel), by decide +kernel, by decide +kernel, okIs_eq (by decide +kernel),
    by decide +kernel, by decide +kernel⟩
theorem witness_AtomicInstructions_perform :
    (let u := whoOf sB cB
     let e : AtEl := ⟨15, 0x1000, 2 ^ 64 - 1, 0, false⟩
     let p : Pend := { tok := some 15, op := .atomic 64 7 1 [e] }
     let g := { gB with pend := [(8, p)] }
     let s : State := { sB with groups := [(3, g)] }
     s.groups.find u.gid = some g ∧ g.pend.find 8 = some p ∧ Memory.wf s.mem = true ∧ 0x40001000 / 128 ∉ s.poison ∧
       (∃ x, xlate s u .at (e.ptr % 2 ^ 60) = .ok x) ∧ p.op = .atomic 64 7 1 [e] ∧ e.v < 2 ^ 64 ∧ e.nv < 2 ^ 64 ∧ 7 < 8) :=
  ⟨rfl, rfl, by decide +kernel, nofun, ⟨_, rfl⟩, rfl, by decide, by decide, by decide⟩
theorem witness_FencesPagesAndFlags : (ctxOf sA = some cA ∧ Quiet sA cA ∧ 15 < 16 ∧ 6 < 7 ∧ 7 ≤ 7 ∧ cA.g.tk.getLsbD 15 = false ∧
      ({ gP with tk := 0x8000 } : Group).tk.getLsbD 15 = true) ∧
    (cA.sn 1 / 2 ^ 60 % 8 = 0 ∧ cA.sn 2 / 2 ^ 60 % 8 ≠ 0 ∧ cA.sn 4 / 2 ^ 60 % 8 = 1 ∧ cA.sn 4 % 8 = 0 ∧ cA.g.role = .vector) ∧
    (∃ x, xlate sA (whoOf sA cA) .wr (cA.sn 1 % 2 ^ 60) = .ok x ∧ permFault (whoOf sA cA) .wr (cA.sn 1 % 2 ^ 60) x.leaf = none ∧
      ¬(x.leaf.st = 2 ∨ x.leaf.st = 6 ∨ (x.leaf.st = 3 ∧ true = true))) ∧
    (sA.chains.find (keyOf sA 0 0 0) = none ∧ frameOf sA (keyOf sA 0 0 0) = none) ∧ xlate sV (whoOf sV cV) .wr 8 = .error 9 :=
  ⟨⟨rfl, quiet_sA, by decide +kernel⟩, by decide +kernel, ⟨_, rfl, by decide +kernel, by decide +kernel⟩, by decide +kernel, rfl⟩
/-- A remote page: the level-0 leaf of the page at 0 is ABSENT-REMOTE, readable and writable. -/
def mRemote : List Host.Cell := [(1, 0x80), (2, 0x04), (0x40000, 0x07), (0x40002, 0x08), (0x80000, 0x07), (0x80002, 0x0C), (0xC0000, 0x07), (0xC0001, 0x10), (0xC0002, 0x0C),
  (0xC1000, 0xC2)]
theorem witness_FencesPagesAndFlags_asks :
    (∃ x, xlate { sA with mem := mRemote } (whoOf sA cA) .wr 0x1000 = .ok x ∧ permFault (whoOf sA cA) .wr 0x1000 x.leaf = none ∧ x.leaf.st = 2) ∧
    (∃ x, xlate (sLeaf 0x41 1) (whoOf sA cA) .wr 0x1000 = .ok x ∧ permFault (whoOf sA cA) .wr 0x1000 x.leaf = some 3) :=
  ⟨⟨_, rfl, by decide +kernel, by decide +kernel⟩, _, rfl, by decide +kernel⟩
/-- A matrix group with pointer s1, pitch s2, and descriptors in s3 (BF16 step, A at 0, B at 16), s5 (malformed), s7 (B outside the window). -/
def gX : Group := { gM with s := [(1, 0x1000), (2, 64), (3, 16 * 2 ^ 44), (5, 1), (7, 1001 * 2 ^ 44), (9, 9), (11, 127), (12, 10), (13, 128)] }
def sX : State := { tS { tLa with cohorts := 2 } { tCo with nz := 10 } gX tR with mem := tMem }
def cX : Ctx := tC { tLa with cohorts := 2 } { tCo with nz := 10 } gX tR
theorem witness_MatrixInstructions_loads : ctxOf sX = some cX ∧ cX.g.role = .matrix ∧ (63 < 64 ∧ 15 < 16) ∧
    groupsFit cX [⟨976, 96 * 64 / 128, false⟩] = .ok () ∧ groupsFit cX [⟨977, 48, false⟩] = .error { code := 6, addr := 1024 } ∧
    memChecks cX (some 15) ((List.range 96).findSome? (fun r => (List.range 2).findSome? (fun (i : Nat) =>
      fragErr sX (whoOf sX cX) (wrap 64 ((wrap 64 ((cX.sn 1 : Int) + (r : Int) * (cX.s 2).toInt) : Nat) + (32 * i : Nat))) 32))) = .ok () ∧
    memChecks cX (some 15) ((List.range 32).findSome? (fun (i : Nat) => fragErr sX (whoOf sX cX) (wrap 64 ((cX.sn 1 : Int) + (8 * i : Nat))) 8)) = .ok () ∧
    (∃ t, memChecks cX (some 15) (fragErr sX (whoOf sX cX) 0x3000000000000000 32) = .error t) :=
  ⟨rfl, rfl, by decide, okIs_eq rfl, errIs_eq rfl, okIs_eq (by decide +kernel), okIs_eq (by decide +kernel),
    { code := 7, detail := 8, addr := 0x3000000000000000 }, errIs_eq (by decide +kernel)⟩
theorem witness_MatrixInstructions_steps : mxJob 9 false false (cX.sn 5) 0 = none ∧ cX.g.tk.getLsbD 15 = false ∧
    (∃ j, mxJob 9 false false (cX.sn 3) 0 = some j ∧ 9 < cX.co.nz ∧ j.outside cX.g.w = none ∧ (∀ r ∈ allRegs j.steps j.aRegs j.baseA, cX.tag r = 0) ∧
      (∀ r ∈ allRegs j.steps (if j.fmt = 10 then 3 * j.m else 24) j.baseB, cX.tag r % 4 ≠ 1)) ∧
    (∃ j, mxJob 9 false false (cX.sn 7) 0 = some j ∧ j.outside cX.g.w = some 1024) ∧ (tC tLa { tCo with nz := 9 } gX tR).co.nz ≤ 9 ∧
    ({ gX with tk := 0x8000 } : Group).tk.getLsbD 15 = true :=
  ⟨rfl, rfl, ⟨_, rfl, by decide +kernel, by decide +kernel, by decide +kernel, by decide +kernel⟩, ⟨_, rfl, by decide +kernel⟩, by decide +kernel, by decide +kernel⟩
/-- The tags of a step's operands: the A fragments of one tag, of two, of a tag that is no domain; B registers 16 to 39 that carry whole blocks of
level 3, blocks of two levels, a block of level 6 that reaches beyond them; the formats with a reconstruction and one without. -/
theorem witness_MatrixInstructions_tags :
    (let c := fun (tag : Tab Byte) (dm : Bool) => ({ cX with g := { gX with tag := tag, dmode := dm } } : Ctx)
     let L := fun (tag : Tab Byte) r => (c tag false).tag r / 4 % 8
     let U := fun tag r => if L tag r ≤ 2 then 1 else 2 ^ (L tag r - 2)
     let first := fun tag r => U tag r * (r / U tag r)
     let bs := (List.range 24).map (· + 16)
     let haar := fun tag => bs.filter (fun r => (c tag false).tag r % 4 == 1)
     let whole := fun tag => ∀ r ∈ haar tag, ∀ i, i < U tag r → first tag r + i ∈ bs
     let uniform := fun tag => ∀ r ∈ haar tag, ∀ i, i < U tag r → (c tag false).tag (first tag r + i) % 4 = 1 ∧ L tag (first tag r + i) = L tag r
     let oneA := fun (tag : Tab Byte) => (∀ r ∈ List.range 16, (c tag false).tag r = (c tag false).tag 0) ∧ (c tag false).tag 0 % 4 < 2
     (∃ j, mxJob 9 false false (cX.sn 3) 0 = some j ∧ j.outside cX.g.w = none ∧ (j.baseA 0).toNat = 0 ∧ allRegs j.steps j.aRegs j.baseA = List.range 16 ∧
       allRegs j.steps (if j.fmt = 10 then 3 * j.m else 24) j.baseB = bs ∧ j.fmt ∈ [0, 2, 4]) ∧
     (∃ j, mxJob 9 false false (16 * 2 ^ 44 + 1 * 2 ^ 22) 0 = some j ∧ j.outside cX.g.w = none ∧ j.fmt ∉ [0, 2, 4]) ∧
     oneA [] ∧ oneA ((List.range 16).map (fun i => (i, 5))) ∧ ¬oneA [(15, 5)] ∧ ¬oneA ((List.range 16).map (fun i => (i, 2))) ∧
     haar [] = [] ∧ (whole [(38, 13), (39, 13)] ∧ uniform [(38, 13), (39, 13)] ∧ haar [(38, 13), (39, 13)] = [38, 39]) ∧
     (whole [(16, 13), (17, 9)] ∧ ¬uniform [(16, 13), (17, 9)]) ∧ ¬whole [(39, 25)] ∧ oneA [(39, 25)] ∧ (c [] true).g.dmode = true ∧ (c [] false).g.dmode = false) ∧
    (cV.g.role ≠ .matrix ∧ mxJob 9 false false (cV.sn 0) 0 ≠ none ∧ 2 < 3 ∧ 62 < 63) := by
  refine ⟨⟨⟨_, rfl, ?_⟩, ⟨_, rfl, ?_⟩, ?_⟩, ?_⟩ <;> decide +kernel
theorem witness_MatrixInstructions_access : (cX.sn 9 % 16 < 10 ∧ cX.sn 9 < 128 ∧ cX.sn 9 % 16 < cX.co.nz) ∧ (10 ≤ cX.sn 12 % 16) ∧ (128 ≤ cX.sn 13) ∧
    (1000 + 24 ≤ cX.g.w ∧ cX.g.w < 1001 + 24) ∧ (∀ j, j < 24 → cX.tag (1000 + j) = cX.tag 1000) ∧
    (let c : Ctx := { cX with g := { gX with tag := [(1023, 2)] } }
     ∃ j, j < 24 ∧ c.tag (1000 + j) ≠ c.tag 1000) ∧
    (1 ≠ cX.co.tcoh ∧ 1 < cX.la.cohorts ∧ 0 = cX.co.tcoh ∧ cX.la.cohorts ≤ 2) ∧ (tC tLa { tCo with nz := 9 } gX tR).co.nz ≤ cX.sn 9 % 16 ∧
    (cV.g.role ≠ .matrix ∧ cV.sn 1 % 16 < 10 ∧ cV.sn 1 < 128) ∧ ({ tLa with priv := false } : Launch).priv = false :=
  ⟨by decide +kernel, by decide +kernel, by decide +kernel, by decide +kernel, by decide +kernel, ⟨23, by decide, by decide +kernel⟩, by decide +kernel,
    by decide +kernel, by decide +kernel, rfl⟩
/-- A cohort whose tile 9 has one operation in its order, and a second cohort of its team. -/
def pX (op : POp) : Pend := { tok := some 15, op := op }
def sZ (op : POp) (zq : List (Nat × Nat)) : State :=
  { tS tLa { tCo with zq := zq } { gX with tk := 0x8000, pend := [(8, pX op)] } tR with
    cohorts := [(2, { tCo with zq := zq }), (4, { tCo with tcoh := 1, core := 1, gids := [] })] }
theorem witness_MatrixResults :
    (∃ j, mxJob 9 false false (cX.sn 3) 0 = some j ∧ j.tagA = 0 ∧ zHead (sZ (.mx j) [(3, 8)]) { tCo with zq := [(3, 8)] } 9 = some (3, 8, pX (.mx j)) ∧
      (({ tCo with zq := [(3, 8)] } : Cohort).ztile 9).tag = j.tagA) ∧
    (∀ op ∈ [POp.mxwrz 0 9 7 0, .mxrdz 0 9 0, .mxt 9 1 true none], (sZ op [(3, 8)]).cohorts.find 2 = some { tCo with zq := [(3, 8)] } ∧
      (sZ op [(3, 8)]).groups.find 3 = some { gX with tk := 0x8000, pend := [(8, pX op)] } ∧
      zHead (sZ op [(3, 8)]) { tCo with zq := [(3, 8)] } 9 = some (3, 8, pX op) ∧ rdzDone (sZ op [(3, 8)]) { tCo with zq := [(3, 8)] } 9 = none) ∧
    (let op : POp := .mxt 9 1 false (some { el := [(6143, 1)], tag := 0 })
     let co2 : Cohort := { tCo with tcoh := 1, core := 1, gids := [] }
     (sZ op []).cohorts.find 4 = some co2 ∧ co2.resident = true ∧ (sZ op []).cohorts.find gX.cid = some tCo ∧ teamCohort (sZ op []) tCo 1 = some (4, co2) ∧
       transferFits (sZ op []) co2 9 = true ∧ (co2.ztile 9).tag = 0) := by
  refine ⟨⟨_, rfl, by decide +kernel, by decide +kernel, by decide +kernel⟩, by decide +kernel, by decide +kernel⟩
theorem witness_MatrixResults_read : (sZ (.mxrdz 0 9 0) []).cohorts.find 2 = some tCo ∧ rdzDone (sZ (.mxrdz 0 9 0) []) tCo 9 = some (3, 8) := by decide +kernel
/-- A transfer that comes to a tile with a waiting instruction; one at the head of its tile's order; one whose target cohort is gone. -/
theorem witness_MatrixResults_transfers :
    (let op : POp := .mxt 9 1 true (some { el := [(6143, 1)], tag := 0 })
     let co2 : Cohort := { tCo with tcoh := 1, core := 1, gids := [], zq := [(3, 7)] }
     let g : Group := { gX with tk := 0x8000, pend := [(7, pX (.mxrdz 0 9 0)), (8, pX op)] }
     let s : State := { sZ op [] with groups := [(3, g)], cohorts := [(2, tCo), (4, co2)] }
     s.cohorts.find 4 = some co2 ∧ co2.resident = true ∧ s.groups.find 3 = some g ∧ g.pend.find 8 = some (pX op) ∧ s.cohorts.find g.cid = some tCo ∧
       teamCohort s tCo 1 = some (4, co2) ∧ transferFits s co2 9 = false ∧ (3, 8) ∉ co2.zq) ∧
    (let op : POp := .mxt 9 1 false (some { el := [(6143, 1)], tag := 0 })
     let co2 : Cohort := { tCo with tcoh := 1, core := 1, gids := [], zq := [(3, 8)] }
     let s : State := { sZ op [] with cohorts := [(2, tCo), (4, co2)] }
     s.cohorts.find 4 = some co2 ∧ zHead s co2 9 = some (3, 8, pX op) ∧ rdzDone s co2 9 = none ∧ (co2.ztile 9).tag = 0 ∧ teamCohort s tCo 2 = none) ∧
    (∃ j, mxJob 9 false false (cX.sn 3) 0 = some j ∧ j.next = 0 ∧ j.zi = false ∧ (({ tCo with z := [(9, { tag := 5 })] } : Cohort).ztile 9).tag ≠ j.tagA) := by
  refine ⟨by decide +kernel, by decide +kernel, _, rfl, ?_⟩
  decide +kernel
/-- A vector group with a tile of level 1, 16 columns of FP32, at register 0, tagged as transformed or not; pointer s1, pitch s2. -/
def gY (t : Byte) (x : Nat) : Group :=
  { gV with s := [(1, 0x1000), (2, 64), (3, BitVec.ofNat 64 x), (4, 0xC000000000)], tag := if t = 0 then [] else (List.range 32).map (fun i => (i, t)) }
def sY (t : Byte) (x : Nat) : State := { tS tLa tCo (gY t x) tR with mem := tMem }
def cY (t : Byte) (x : Nat) : Ctx := tC tLa tCo (gY t x) tR
theorem witness_WaveletInstructions_checks : ctxOf (sY 0 0) = some (cY 0 0) ∧ tileDesc ((cY 0 0).sn 3) 3 = none ∧
    (∃ x, tileDesc ((cY 0 (2 ^ 25 + 2 ^ 31 + 2 ^ 32)).sn 3) 3 = some x ∧ x.x = true ∧ (cY 0 0).co.gids.length ≤ x.gidx) ∧
    (∃ x, tileDesc ((cY 0 (2 ^ 25 + 1008)).sn 3) 3 = some x ∧ x.x = false ∧ (cY 0 0).g.w < x.base + x.nr) ∧ cM.g.role ≠ .vector :=
  ⟨rfl, rfl, ⟨_, rfl, rfl, by decide +kernel⟩, ⟨_, rfl, rfl, by decide +kernel⟩, by decide⟩
theorem witness_WaveletInstructions_tiles : ∀ t ∈ [(0 : Byte), 5, 9], ctxOf (sY t (2 ^ 25)) = some (cY t (2 ^ 25)) ∧
    ∃ x, tileDesc ((cY t (2 ^ 25)).sn 3) 3 = some x ∧ x.x = false ∧ (cY t (2 ^ 25)).g.role = .vector ∧ x.base + x.nr ≤ (cY t (2 ^ 25)).g.w ∧
      (cY t (2 ^ 25)).g.tk.getLsbD 15 = false ∧
      (t = 0 → ∀ y ∈ (List.range x.nr).map (fun i => tagFor (cY t (2 ^ 25)) (gY t (2 ^ 25)) (x.base + i)), y = 0) ∧
      (t = 5 → ∀ y ∈ (List.range x.nr).map (fun i => tagFor (cY t (2 ^ 25)) (gY t (2 ^ 25)) (x.base + i)), y % 4 = 1 ∧ y / 4 % 8 = x.l) ∧
      (t = 9 → ¬∀ y ∈ (List.range x.nr).map (fun i => tagFor (cY t (2 ^ 25)) (gY t (2 ^ 25)) (x.base + i)), y % 4 = 1 ∧ y / 4 % 8 = x.l) ∧
      spanErr (sY t (2 ^ 25)) (whoOf (sY t (2 ^ 25)) (cY t (2 ^ 25))) .wr ((cY t (2 ^ 25)).sn 1) x.maxBytes = none := by
  simp only [List.mem_cons, List.not_mem_nil, or_false, forall_eq_or_imp, forall_eq]
  refine ⟨⟨rfl, _, rfl, rfl, rfl, ?_⟩, ⟨rfl, _, rfl, rfl, rfl, ?_⟩, rfl, _, rfl, rfl, rfl, ?_⟩ <;> decide +kernel
theorem witness_WaveletInstructions_spans :
    (spanErr (sY 0 0) (whoOf (sY 0 0) (cY 0 0)) .wr 0x3000000000000000 64).isSome = true ∧
    (spanErr (sY 0 0) (whoOf (sY 0 0) (cY 0 0)) .rd 0x1008 64).isSome = true ∧ (cY 0 0).sn 2 % 32 = 0 ∧ 1 ≠ 63 ∧
    (∀ r : Nat, r < 64 → spanErr (sY 0 0) (whoOf (sY 0 0) (cY 0 0)) .rd (wrap 64 (((cY 0 0).sn 1 : Int) + (r * (cY 0 0).sn 2 : Nat))) 64 = none) ∧
    ((cY 0 0).sn 4 / 2 ^ 38 % 4 = 3 ∧ (cY 0 0).sn 1 / 2 ^ 38 % 4 ≠ 3 ∧ 15 < 16) := by decide +kernel
/-- A tile of the cohort's other group (X = 1), group 4, with its tags; a pitch that is no multiple of 32 bytes with the pointer good and bad. -/
theorem witness_WaveletInstructions_others :
    (∀ ty ∈ [(0 : Byte), 5, 9],
      let co : Cohort := { tCo with gids := [3, 4] }
      let x := 2 ^ 25 + 2 ^ 31 + 2 ^ 32
      let g2 := gY ty 0
      let s : State := { sY 0 x with cohorts := [(2, co)], groups := [(3, gY 0 x), (4, g2)] }
      let c : Ctx := { cY 0 x with co := co }
      ctxOf s = some c ∧ s.groups.find 4 = some g2 ∧ ∃ d, tileDesc (c.sn 3) 3 = some d ∧ d.x = true ∧ d.gidx < c.co.gids.length ∧
        c.co.gids.getD d.gidx 3 = 4 ∧ d.base + d.nr ≤ g2.w ∧ c.g.tk.getLsbD 15 = false ∧
        (ty = 0 → ∀ y ∈ (List.range d.nr).map (fun i => tagFor c g2 (d.base + i)), y = 0) ∧
        (ty = 5 → ∀ y ∈ (List.range d.nr).map (fun i => tagFor c g2 (d.base + i)), y % 4 = 1 ∧ y / 4 % 8 = d.l) ∧
        (ty = 9 → ¬∀ y ∈ (List.range d.nr).map (fun i => tagFor c g2 (d.base + i)), y % 4 = 1 ∧ y / 4 % 8 = d.l)) ∧
    memChecks (cY 0 0) (some 15) (spanErr (sY 0 0) (whoOf (sY 0 0) (cY 0 0)) .wr 0x1000 64) = .ok () ∧
    memChecks (cY 0 0) (some 15) (spanErr (sY 0 0) (whoOf (sY 0 0) (cY 0 0)) .rd 0x3000000000000000 64) =
      .error { code := 7, detail := 8, addr := 0x3000000000000000 } ∧
    (33 % 32 ≠ 0 ∧ spanErr (sY 0 0) (whoOf (sY 0 0) (cY 0 0)) .rd 0x1000 32 = none ∧
      (spanErr (sY 0 0) (whoOf (sY 0 0) (cY 0 0)) .rd 0x3000000000000000 32).map (·.code) = some 7) ∧ 15 < 16 := by
  refine ⟨?_, okIs_eq (by decide +kernel), errIs_eq (by decide +kernel), by decide +kernel, by decide⟩
  simp only [List.mem_cons, List.not_mem_nil, or_false, forall_eq_or_imp, forall_eq]
  refine ⟨⟨rfl, rfl, _, rfl, ?_⟩, ⟨rfl, rfl, _, rfl, ?_⟩, rfl, rfl, _, rfl, ?_⟩ <;> decide +kernel
theorem witness_WaveletResults :
    ((1 ≤ 6 ∧ 63 < (List.replicate 64 (FVal.fin false 0 1)).length) ∧ (rowLevel 6 0 = 0 ∧ rowLevel 6 63 ≠ 0 ∧ thMode 0x7FC00000 < 2 ∧
      (thTheta 0x7FC00000).isNan = true ∧ 2 ≤ thMode (2 ^ 39))) ∧
    (∃ x, tileDesc (2 ^ 25) 3 = some x ∧ x.x = false ∧ ∀ op ∈ [WvOp.fwd, .inv, .thr, .tag 5],
      let p : Pend := { tok := some 15, op := .wavelet x op 0 false }
      let g := { gY 0 0 with tk := 0x8000, pend := [(8, p)] }
      let s := tS tLa tCo g tR
      s.groups.find 3 = some g ∧ g.pend.find 8 = some p ∧ s.cohorts.find g.cid = some tCo ∧ tCo.resident = true ∧ mayPerform s 3 8 3 x op = true) :=
  ⟨by decide +kernel, _, rfl, rfl, by decide +kernel⟩
/-- The row rules: no threshold, a NaN, an infinite and a finite one in both magnitude modes; a column's ends; a tile at the end of the window. -/
theorem witness_WaveletResults_rows :
    (∀ F ∈ [Fmt.f32, .bf16, .e4m3], F ∈ [Fmt.f32, .bf16, .e4m3]) ∧ (1 ≤ 1 ∧ 6 ≤ 6 ∧ 63 < 64 ∧ 63 % 2 ^ 1 = 2 ^ (1 - 1) ∧ 32 % 2 ^ 6 = 2 ^ (6 - 1) ∧ 0 % 2 ^ 6 = 0) ∧
    (∀ m ∈ [0, 1], (m * 2 ^ 38 + 0x3F800000) / 2 ^ 38 % 4 = m ∧ (Fmt.f32.decode ((m * 2 ^ 38 + 0x7FC00000) % 2 ^ 32)).isNan = true ∧
      Fmt.f32.decode ((m * 2 ^ 38 + 0x7F800000) % 2 ^ 32) = .inf false ∧ Fmt.f32.decode ((m * 2 ^ 38 + 0x3F800000) % 2 ^ 32) ≠ .inf false ∧
      (Fmt.f32.decode ((m * 2 ^ 38 + 0x3F800000) % 2 ^ 32)).isNan = false) ∧
    ((Fmt.f32.decode 0x7FC00001).isNan = true ∧ (Fmt.f32.decode 0x3F800000).isNan = false) ∧
    (∃ d, tileDesc (2 ^ 25 + 224) 3 = some d ∧ d.base + d.nr ≤ 256 ∧ d.fmt < 3 ∧ 16 ∣ d.c ∧ 0 < d.c ∧ d.c ≤ 256 ∧ (1 ≤ d.l ∧ d.l ≤ 6 ∧ d.th < 8) ∧
      (let cols := tileCols (gY 0 0).getLoc d
       cols.length = d.c ∧ ∀ c ∈ cols, c.length = 64 ∧ ∀ y ∈ c, y < 2 ^ (8 * d.w)) ∧ rowLevel d.l 63 ≠ 0 ∧ (2 ^ 64 - 1).testBit 63 = true ∧
      (2 ^ 63 - 1).testBit 63 = false ∧ 2 * 2 ^ 38 / 2 ^ 38 % 4 = 2) := by
  refine ⟨by decide +kernel, by decide, by decide +kernel, by decide +kernel, _, rfl, ?_⟩
  decide +kernel
/-- The words a `WLD` has collected: 32 bytes of a header, whole or of another kind, and rows behind it. -/
def hdr (w0 : Nat) (rest : List Wr) : List Wr :=
  [⟨locV scratchReg 0, 2 ^ 32 - 1, w0 % 2 ^ 32⟩, ⟨locV scratchReg 1, 2 ^ 32 - 1, w0 / 2 ^ 32⟩, ⟨locV scratchReg 2, 2 ^ 32 - 1, 0x55555555⟩,
    ⟨locV scratchReg 3, 2 ^ 32 - 1, 0x55555555⟩] ++ rest
theorem witness_WaveletResults_memory :
    ∃ x, tileDesc (2 ^ 25) 3 = some x ∧ x.x = false ∧
    (∀ row ∈ [(WvOp.st 0x1000 true, false), (.st 0x1000 false, false), (.st (2 ^ 60) true, false), (.ld 0x1000, false), (.raw 0x1000 64, false), (.ld 0x1000, true)],
      let p : Pend := { tok := some 15, op := .wavelet x row.1 0 false, void := row.2 }
      let g := { gY 0 0 with tk := 0x8000, pend := [(8, p)] }
      let s := tS tLa tCo g tR
      s.groups.find 3 = some g ∧ g.pend.find 8 = some p ∧ s.cohorts.find g.cid = some tCo ∧ tCo.resident = true ∧ mayPerform s 3 8 3 x row.1 = true ∧
        p.void = row.2 ∧ p.els = [] ∧ p.left = 0 ∧ p.wrs = [] ∧ g.ended = false ∧ (whoOfGid s 3).isSome = true) ∧
    ((List.range 64).map (fun (i : Nat) => wrap 64 ((0x1000 : Int) + (8 * i : Nat)))).all (fun a => a / 2 ^ 60 % 8 != 1) = true ∧
    ((List.range 64).map (fun (i : Nat) => wrap 64 (((2 ^ 60 : Nat) : Int) + (8 * i : Nat)))).all (fun a => a / 2 ^ 60 % 8 == 1) = true ∧
    (∀ row ∈ [(hdr (32 * 2 ^ 48 + 16 * 2 ^ 16 + 256 + 6) [], true), (hdr (32 * 2 ^ 48 + 16 * 2 ^ 16 + 256 + 5) [], false),
        (hdr (32 * 2 ^ 48 + 16 * 2 ^ 16 + 256 + 6) (List.replicate 5 ⟨locV scratchReg 8, 2 ^ 32 - 1, 7⟩), true)],
      let p : Pend := { tok := some 15, op := .wavelet x (.ld 0x1000) 0 false, wrs := row.1 }
      let h := p.word64 0 + p.word64 1 * 2 ^ 64 + p.word64 2 * 2 ^ 128 + p.word64 3 * 2 ^ 192
      let F := fun i n => h / 256 ^ i % 256 ^ n
      p.wrs ≠ [] ∧ (row.2 = true ↔ (F 0 1 % 4 = 2 ∧ F 0 1 / 4 % 8 = F 1 1 ∧ F 0 1 / 32 = F 5 1 ∧ 1 ≤ F 1 1 ∧ F 1 1 ≤ 6 ∧ F 4 1 ≤ 2 ∧ F 2 2 % 16 = 0 ∧ 16 ≤ F 2 2 ∧
        F 2 2 ≤ 256 ∧ (∀ r, r < 64 → r % 2 ^ F 1 1 = 0 → (F 8 8).testBit r = true) ∧ F 6 2 = ((List.range 64).filter (fun r => (F 8 8).testBit r)).length ∧
        F 16 16 = 0 ∧ F 2 2 = x.c ∧ F 4 1 = x.fmt ∧ F 1 1 = x.l)) ∧ 0 < p.word64 0 / 2 ^ 48 % 65536) ∧
    (hdr 6 []).length < 9 ∧ 9 ≤ (hdr 6 (List.replicate 5 ⟨0, 0, 0⟩)).length ∧ 16 ∣ x.c ∧ 0 < x.c ∧ x.c ≤ 256 ∧ x.fmt < 3 := by
  refine ⟨_, rfl, rfl, ?_, by decide +kernel, by decide +kernel, ?_, by decide, by decide, by decide, by decide, by decide, by decide⟩ <;> decide +kernel
/-- A copy group: 64 bytes from s3 = 0x2000 to s2 = 0x1000 on channel 7; the same with a reserved CMD; a full set of copy slots. -/
def gK (cmd : Nat) : Group := { gC with s := [(2, 0x1000), (3, 0x2000), (4, 64), (5, BitVec.ofNat 64 cmd)] }
def sK (la : Launch) (co : Cohort) (cmd : Nat) : State := { tS la co (gK cmd) tR with mem := tMem }
def cK (la : Launch) (co : Cohort) (cmd : Nat) : Ctx := tC la co (gK cmd) tR
theorem witness_CopyInstructions : ctxOf (sK tLa tCo 7) = some (cK tLa tCo 7) ∧ (sK tLa tCo 7).launches.find (cK tLa tCo 7).co.launch = some (cK tLa tCo 7).la ∧
    (60 < 61 ∧ copyBad 0 2 60 (cK tLa tCo (2 ^ 26)) = some { code := 1, detail := 8 } ∧ copyBad 0 2 60 (cK tLa tCo 7) = none ∧
      (cK tLa tCo 7).g.role = .copy) ∧ ({ tLa with ch := 7 } : Launch).ch ≤ 7 ∧ 7 < tLa.ch ∧
    memChecks (cK tLa tCo 7) (some 15) (copyFaults (sK tLa tCo 7) (cK tLa tCo 7) (copyJob (cK tLa tCo 7) 0 (copyDesc (cK tLa tCo 7) 0 2) 9 none)).head? = .ok () ∧
    slotsUsed (sK tLa tCo 7) 0 < 128 ∧
    (let j := copyJob (cK tLa tCo 7) 0 (copyDesc (cK tLa tCo 7) 0 2) 9 none
     128 ≤ slotsUsed (sK tLa { tCo with chans := [(0, { q := List.replicate 128 (.copy j) })] } 7) 0) ∧
    (cK tLa tCo 7).g.tk.getLsbD 15 = false ∧ (cK tLa tCo 7).la.priv = true ∧
    (∀ i, i < 32 → faultAt (sK tLa tCo 7) (cK tLa tCo 7) .rd (wrap 64 (((cK tLa tCo 7).sn 2 : Int) + (i : Nat))) 1 = none) :=
  ⟨rfl, rfl, by decide +kernel, by decide, by decide, okIs_eq (by decide +kernel), by decide +kernel, by decide +kernel, rfl, rfl, by decide +kernel⟩
theorem witness_CopyInstructions_traps : copyBad 0 2 60 (tC tLa tCo { gK 7 with role := .vector } tR) = none ∧
    (∃ t, memChecks (cK tLa tCo 7) (some 15) (copyFaults sV (cK tLa tCo 7) (copyJob (cK tLa tCo 7) 0 { copyDesc (cK tLa tCo 7) 0 2 with
      dst := 0x3000000000020000 } 9 none)).head? = .error t) ∧ ({ gK 7 with tk := 0x8000 } : Group).tk.getLsbD 15 = true :=
  ⟨by decide +kernel, ⟨{ code := 6, addr := 1024 }, errIs_eq (by decide +kernel)⟩, by decide +kernel⟩
/-- What the statement calls a bad descriptor of DETAIL 8, on numbers. -/
def bad8 (kind dst src lens cmd str pages : Nat) : Bool :=
  let rows := lens / 2 ^ 32 % 2 ^ 16 + 1
  let len := lens % 2 ^ 31
  let conv := cmd / 2 ^ 8 % 8
  let rm := cmd / 2 ^ 11 % 8
  let x := cmd.testBit 17
  let gidx := cmd / 2 ^ 18 % 16
  let dlen := if conv = 1 ∨ conv = 2 then len / 2 else if conv = 3 ∨ conv = 4 then 2 * len else len
  let dAt := fun (r k : Nat) => wrap 64 ((dst : Int) + (r : Int) * (BitVec.ofNat 32 (str / 2 ^ 32)).toInt + (k : Int))
  let sAt := fun (r k : Nat) => wrap 64 ((src : Int) + (r : Int) * (BitVec.ofNat 32 str).toInt + (k : Int))
  let out := fun (p a : Nat) => a / 2 ^ 60 % 8 ≠ p / 2 ^ 60 % 8 ∨ (p / 2 ^ 60 % 8 = 1 ∧ a / 2 ^ 48 % 2 ^ 12 ≠ p / 2 ^ 48 % 2 ^ 12)
  decide (cmd / 2 ^ 26 ≠ 0 ∨ (kind ≠ 3 ∧ cmd / 2 ^ 22 % 16 ≠ 0) ∨ (x = false ∧ gidx ≠ 0) ∨ (x = true ∧ dst / 2 ^ 60 % 8 ≠ 3) ∨
    cmd / 2 ^ 15 % 4 = 3 ∨ 5 ≤ conv ∨ rm = 5 ∨ rm = 6 ∨ (conv = 0 ∧ (rm ≠ 0 ∨ cmd.testBit 14 = true)) ∨ lens / 2 ^ 48 ≠ 0 ∨
    lens.testBit 31 = true ∨ pages / 2 ^ 40 ≠ 0 ∨ len = 0 ∨ ((conv = 1 ∨ conv = 2) ∧ len % 2 = 1) ∨ (2 ≤ kind ∧ conv ≠ 0) ∨
    (kind = 3 ∧ (len % 65536 ≠ 0 ∨ 24 < pages / 2 ^ 32 % 256 ∨ 2 ^ (pages / 2 ^ 32 % 256) < pages % 2 ^ 32 + len / 65536)) ∨
    (kind ≠ 1 ∧ rows ≠ 1) ∨ 2 ^ 31 - 1 < rows * dlen ∨ (∃ r ∈ List.range rows, out dst (dAt r 0) ∨ out dst (dAt r (dlen - 1))) ∨
    (kind ≠ 2 ∧ ∃ r ∈ List.range rows, out src (sAt r 0) ∨ out src (sAt r (len - 1))))
theorem witness_CopyInstructions_descriptors :
    ¬bad8 0 0x1000 0x2000 64 7 0 0 ∧ ¬bad8 1 0x1000 0x2000 (3 * 2 ^ 32 + 16) 7 (64 * 2 ^ 32 + 64) 0 ∧ ¬bad8 2 0x1000 7 (2 ^ 31 - 1) 7 0 0 ∧
    ¬bad8 3 0x40000 0x20000 65536 7 0 (24 * 2 ^ 32) ∧ ¬bad8 0 0x3000000000000000 0x2000 64 (2 ^ 17 + 2 ^ 18 + 7) 0 0 ∧
    (∀ d ∈ [(0, 64, 2 ^ 26, 0, 0), (0, 64, 2 ^ 22, 0, 0), (0, 64, 2 ^ 18, 0, 0), (0, 64, 2 ^ 17, 0, 0), (0, 64, 3 * 2 ^ 15, 0, 0), (0, 64, 5 * 2 ^ 8, 0, 0),
        (0, 64, 2 ^ 8 + 5 * 2 ^ 11, 0, 0), (0, 64, 2 ^ 8 + 6 * 2 ^ 11, 0, 0), (0, 64, 2 ^ 11, 0, 0), (0, 64, 2 ^ 14, 0, 0), (0, 2 ^ 48 + 64, 0, 0, 0),
        (0, 2 ^ 31 + 64, 0, 0, 0), (0, 64, 0, 0, 2 ^ 40), (0, 0, 0, 0, 0), (0, 63, 2 ^ 8, 0, 0), (2, 64, 2 ^ 8, 0, 0), (3, 64, 0, 0, 0),
        (3, 65536, 0, 0, 25 * 2 ^ 32), (3, 65536, 0, 0, 1), (0, 2 ^ 32 + 64, 0, 0, 0), (0, 2 ^ 30, 3 * 2 ^ 8, 0, 0)],
      bad8 d.1 0x1000 0x2000 d.2.1 d.2.2.1 d.2.2.2.1 d.2.2.2.2) ∧ bad8 0 0x0FFFFFFFFFFFFFFF 0x2000 64 7 0 0 ∧ bad8 0 0x1000 0x0FFFFFFFFFFFFFFF 64 7 0 0 ∧
    ((2 ^ 17 + 2 ^ 18 + 7).testBit 17 = true ∧ tCo.gids.length ≤ (2 ^ 17 + 2 ^ 18 + 7) / 2 ^ 18 % 16) ∧
    (let at' := fun (p k : Nat) => wrap 64 ((p : Int) + (0 : Int) * 0 + (k : Int)) % 2 ^ 60
     (at' 0x1000 0 ≤ at' 0x103F 63 ∧ at' 0x103F 0 ≤ at' 0x1000 63) ∧ ¬(at' 0x1000 0 ≤ at' 0x1040 63 ∧ at' 0x1040 0 ≤ at' 0x1000 63)) := by decide +kernel
theorem witness_CopyInstructions_pointers :
    ((0x3000000000001FFF : Nat) / 2 ^ 60 % 8 = 3 ∧ 0x3000000000001FFF % 2 ^ 60 < 128 * 64 ∧ ¬0x3000000000002000 % 2 ^ 60 < 128 * 64) ∧
    (4 ≤ 0x4000000000000000 / 2 ^ 60 % 8 ∧ 0x1FFFFFFFFFFFFFFF / 2 ^ 60 % 8 < 2) ∧
    (let absent := fun a : Nat => a / 2 ^ 29 % 2 ^ 31 ≠ 0 ∨ sA.dies.testBit (a / 2 ^ 26 % 8) = false ∨ sA.sramSize (a / 2 ^ 26 % 8) ≤ a % 2 ^ 26
     absent 0x2000000020000000 ∧ ¬absent 0x2000000003FFFFFF ∧ ¬absent 0x2000000000000000) ∧
    (let s : State := { sA with npart := 2, cfg := (List.range 8).map (fun d => (0x1000 + 0x400 * d, 8)) }
     (s.partDies 0).contains (0x2000000010000000 / 2 ^ 26 % 8) = false ∧ (s.partDies 0).contains (0x2000000000000000 / 2 ^ 26 % 8) = true) := by decide +kernel
/-- A lattice page of type 1 (four bytes) at 0, of type 6 at 0x10000. -/
def mLat : List Host.Cell := [(1, 0x80), (2, 0x04), (0x40000, 0x07), (0x40002, 0x08), (0x80000, 0x07), (0x80002, 0x0C), (0xC0000, 0x07), (0xC0001, 0x10),
  (0xC0002, 0x0C), (0xC1000, 0xC5), (0xC1002, 0x20), (0xC1006, 0x01), (0xC1008, 0xC5), (0xC100A, 0x21), (0xC100E, 0x06)]
def gA' : Group := { gV with s := [(1, 0x1000), (2, 0x10000), (3, 0x8000000000002000), (4, 0x2000), (5, 1), (6, 0x1002)] }
def sLt : State := { tS tLa tCo gA' tR with mem := mLat }
def cLt : Ctx := tC tLa tCo gA' tR
theorem witness_LatticeInstructions : ctxOf sLt = some cLt ∧ (63 < 64 ∧ 15 < 16) ∧ cLt.g.role = .vector ∧ cM.g.role ≠ .vector ∧
    memChecks cLt (some 15) (latErr sLt (whoOf sLt cLt) .wr false (cLt.sn 1)) = .ok () ∧
    memChecks cLt none (latErr sLt (whoOf sLt cLt) .wr false (cLt.sn 6)) = .error { code := 8, addr := 0x1002 } ∧
    latErr sLt (whoOf sLt cLt) .wr true (cLt.sn 2) = some { code := 0x0E, detail := 2, addr := 0x10000 } ∧ (1022 + 2 ≤ cLt.g.w ∧ cLt.g.w < 1023 + 2) ∧
    memChecks cLt (some 15) (worst cLt 32 ((lanesOf (liveOf cLt.g cLt.run.aset)).filterMap (fun L =>
      (latErr sLt (whoOf sLt cLt) .rd true (wrap 64 ((cLt.sn 1 : Int) + sext 32 (cLt.vw 1 L)))).map (fun t => (L, t))))) = .ok () ∧
    (cLt.sn 3 / 2 ^ 20 % 2 ^ 43 = 0 ∧ cLt.sn 3 % 256 = 0 ∧ (cLt.sn 3).testBit 63 = true ∧ (cLt.sn 4).testBit 63 = false ∧ cLt.sn 4 % 256 = 0) ∧
    cLt.sn 5 % 256 ≠ 0 ∧ cLt.g.tk.getLsbD 15 = false ∧ 2 ≤ (sLt.partDies (sLt.partOf cLt.co.core)).length ∧ latErr sLt (whoOf sLt cLt) .wr false (cLt.sn 1) = none ∧
    cLt.sn 1 / 2 ^ 60 % 8 = 0 ∧ (∃ x, xlate sLt (whoOf sLt cLt) .rd (cLt.sn 1 % 2 ^ 60) = .ok x ∧ (x.leaf.priv = false ∨ cLt.la.priv = true) ∧
      ¬(x.leaf.st = 5 ∧ cLt.sn 1 % 2 ^ 60 % latWidth x.leaf.aux ≠ 0) ∧ x.leaf.st = 5 ∧ cLt.sn 6 % 2 ^ 60 % latWidth x.leaf.aux ≠ 0) ∧
    xlate (sLeaf 0 0) (whoOf sV cV) .rd (cV.sn 1 % 2 ^ 60) = .error 2 ∧
    (∃ x, xlate (sLeaf 0xC1 3) (whoOf sV cV) .rd (cV.sn 1 % 2 ^ 60) = .ok x ∧ x.leaf.priv = true ∧ x.leaf.st ≠ 5) :=
  ⟨rfl, by decide, rfl, by decide, okIs_eq (by decide +kernel), errIs_eq (by decide +kernel), by decide +kernel, by decide +kernel, okIs_eq (by decide +kernel),
    by decide +kernel, by decide +kernel, rfl, by decide +kernel, by decide +kernel, by decide +kernel, ⟨_, rfl, by decide +kernel⟩, rfl, _, rfl,
    by decide +kernel⟩
/-- Pages a lattice instruction may not use, each at its place in the order of the checks: no translation, an odd address, no RD, the code segment,
no W, PRIV, another kind, a wide type. -/
theorem witness_LatticeInstructions_order :
    (let leaf := fun (b0 b1 aux : Byte) => ({ sV with mem := [(1, 0x80), (2, 0x04), (0x40000, 0x07), (0x40002, 0x08), (0x80000, 0x07), (0x80002, 0x0C), (0xC0000, 0x07), (0xC0001, 0x10),
       (0xC0002, 0x0C), (0xC1000, b0), (0xC1001, b1), (0xC1002, 0x20), (0xC1006, aux)] } : State)
     let u : Who := { whoOf sV cV with priv := false }
     (∀ row ∈ [((0xC5 : Byte), (0 : Byte), (1 : Byte), 1, true, true, false, 5), (0x85, 0, 1, 1, false, true, false, 5), (0x45, 0, 1, 1, true, false, false, 5),
         (0xC5, 2, 1, 1, true, true, true, 5), (0xC1, 0, 0, 0, true, true, false, 1), (0xC5, 0, 6, 6, true, true, false, 5), (0xC5, 0, 4, 4, true, true, false, 5),
         (0xC5, 0, 7, 7, true, true, false, 5)],
       ∃ x, xlate (leaf row.1 row.2.1 row.2.2.1) u .rd 0x20 = .ok x ∧ decide ((x.leaf.aux, x.leaf.rd, x.leaf.wr, x.leaf.priv, x.leaf.st) = row.2.2.2 ∧
         inCode u 0x20 x.leaf.lvl = false) = true)) ∧
    (0x22 % 4 ≠ 0 ∧ 0x20 % 32 = 0) ∧ (∃ x, xlate sP (whoOf sP cV) .rd 0x40000000 = .ok x ∧ inCode (whoOf sP cV) 0x40000000 x.leaf.lvl = true) ∧
    ((0x1000000000000000 : Nat) / 2 ^ 60 % 8 ≠ 0) ∧ xlate sV (whoOf sV cV) .rd 0x20 = .error 9 := by
  refine ⟨?_, by decide, ⟨_, rfl, by decide +kernel⟩, by decide, rfl⟩
  exact allEx (by decide +kernel)
theorem witness_LatticeCells : (1 ≤ 7 ∧ 7 ≤ 7 ∧ 2 ^ 256 - 1 < 2 ^ (8 * latWidth 7)) ∧ (isNan32 0x3F800000 = false ∧ 0x3F800000 < 2 ^ (8 * latWidth 5)) ∧
    (let e : LatEl := ⟨1, 0x1000, 0x201000, 1, 7⟩
     Memory.wf sLt.mem = true ∧ 1 ≤ e.ty ∧ e.ty ≤ 6 ∧ e.v < 2 ^ (8 * latWidth e.ty) ∧ latGe e.ty e.v (cellAt sLt e.pa e.ty) = true ∧
       latGe e.ty e.v (cellAt { sLt with mem := mLat ++ [(0x201000, 8)] } e.pa e.ty) = false) ∧
    isNan32 0x7FC00000 = true ∧
    (let e : LatEl := ⟨1, 0x1000, 7 * 2 ^ 36 + 0x201000, 7, 2 ^ 32 - 1⟩
     Memory.wf sLt.mem = true ∧ e.ty = 7 ∧ e.v < 2 ^ 32 ∧ e.pa / 2 ^ 36 < 8 ∧ cellAt sLt e.pa 7 / 2 ^ (32 * 7) % 2 ^ 32 ≤ e.v ∧
       0 < cellAt { sLt with mem := mLat ++ [(7 * 2 ^ 36 + 0x20101C, 8)] } e.pa 7 / 2 ^ (32 * 7) % 2 ^ 32) := by decide +kernel
theorem witness_MemoryEngineEvents_coherence :
    (let a : Transient := ⟨3, 3, 2048, []⟩
     let b : Transient := ⟨4, 4, 0, []⟩
     let s : State := { State.reset with coh := [(7, { persist := [(1, true), (2, false)], tries := [a, b] }), (8, { persist := [(1, true)] })], now := 2048 }
     (tokOf s 0).persist = [] ∧ (tokOf s 8).persist = [(1, true)] ∧ heldByCopy s 0 0 0 false (128 * 8) = false ∧
       (tokOf s 7).persist = (1, true) :: [(2, false)] ∧ (∀ p ∈ (tokOf s 7).tries, p.agent ≠ 5) ∧ (∀ p ∈ (tokOf s 7).persist, p.1 ≠ 5) ∧
       (tokOf s 7).tries.find? (fun p => p.agent == 3) = some a ∧ a.due ≤ s.now ∧ a.tries < 4 ∧
       (tokOf s 7).tries.find? (fun p => p.agent == 4) = some b ∧ 4 ≤ b.tries ∧ b.due ≤ s.now) ∧
    (let x : Region := ⟨0, 32768, some 0, 0⟩
     let y : Region := ⟨32768, 32768, some 1, 0⟩
     let s : State := { State.reset with regions := [x, y], now := 900000 }
     s.regions.find? (fun r => r.base == 0 && 2 * r.size == 65536) = some x ∧
       s.regions.find? (fun r => 2 * r.base == 2 * 0 + 65536 && 2 * r.size == 65536) = some y ∧ 0 % 65536 = 0 ∧ x.quiet + 900000 ≤ s.now) := by decide +kernel
/-- A held store of 64 entries and one of one. -/
def held (n : Nat) : Held := .store 7 ((List.range n).map (fun i => (i, ⟨128 * i, 8, none, 0⟩)))
theorem witness_MemoryEngineEvents_queues :
    (let g := { gV with stq := [held 64], stqWait := [held 1] }
     g.stqWait = held 1 :: [] ∧ 64 < stqUsed g + (held 1).size ∧ g.stq ≠ []) ∧
    (let g := { gV with stq := [held 63], stqWait := [held 1] }
     g.stqWait = held 1 :: [] ∧ stqUsed g + (held 1).size ≤ 64) := by decide +kernel
theorem witness_MemoryEngineEvents_lattice :
    (let e : LatEl := ⟨1, 0x1000, 0x201000, 1, 7⟩
     let f : LatEl := ⟨1, 0x1004, 0x201004, 1, 7⟩
     let p : Pend := { tok := some 15, op := .lwrite true false [e] [] }
     let q : Pend := { tok := some 14, op := .lwait f 62 (some 5) }
     let g := { gA' with tk := 0xC000, pend := [(8, p), (9, q)] }
     let s : State := { sLt with groups := [(3, g)], now := 7000 }
     s.groups.find 3 = some g ∧ g.pend.find 8 = some p ∧ latMayWrite g 8 = true ∧ (∀ x ∈ [e], latFree s 3 g 8 p x = true) ∧ p.void = false ∧ ({ p with void := true } : Pend).void = true ∧
       g.pend.find 9 = some q ∧ q.tok = some 14 ∧ waitEnd s g 5 ≤ s.now ∧ latFree s 3 g 9 q f = true ∧ q.wrs = [] ∧
       q.bad = [] ∧ q.clob = [] ∧ q.ecc = none ∧ q.flags = 0 ∧ q.fev = [] ∧ g.ended = false ∧ settledB s 3 g = true ∧ 62 + 1 < 64) ∧
    (let s : State := { State.reset with now := 8192 }
     let x := s.lattice 0
     x.round = none ∧ x.clears = [] ∧ (x.period ≠ 0 ∧ x.started + x.period * 256 ≤ s.now) ∧ x.distance (s.partDies 0).length ≠ 0) ∧
    (let p : XPair := ⟨0, 1, [], [(8 * 0x201000 / 128 + 1, List.replicate 128 1)]⟩
     let s : State := { State.reset with lattices := [(0, { round := some [p] }), (1, { clears := [⟨3, 8, 0x200000, 1, 0⟩] })] }
     (s.lattice 0).round = some [p] ∧ p.snapHi ≠ [] ∧ (s.lattice 1).round = none ∧ (s.lattice 1).clears ≠ []) ∧ Memory.wf sLt.mem = true := by decide +kernel
/-- A condition waits for a group blocked on a barrier at a run boundary, with a handler. -/
def gD : Group := { gV with conds := [⟨0x0A, 2, 0x40, some 1⟩], waits := [.bar 0 1] }
theorem witness_CoreAndCopyEvents_picks : (sV.runs.find 0).isSome = true ∧
    (let s : State := { sP with runs := [] }
     ∃ u, whoOfGid s 3 = some u ∧ fetchWord s u 0 = .ok 0x2FF ∧ s.runs.find 0 = none ∧ s.halted = false ∧ s.npartAsked = none ∧
       slotGroups s 0 = [(3, gV)] ∧ s.groups.find 3 = some gV ∧ s.cohorts.find gV.cid = some tCo ∧ s.launches.find tCo.launch = some tLa ∧
       gV.conds = [] ∧ gV.waits = [] ∧ gV.parked = false ∧ gV.resume = none ∧ gV.issueAddr = some 0 ∧ isHead 0x2FF = true ∧
       gV.tk.toNat &&& headAwait 0x2FF = 0 ∧ contended s = false) :=
  ⟨rfl, _, rfl, okIs_eq (by decide +kernel), by decide +kernel⟩
theorem witness_CoreAndCopyEvents_groups :
    (let s : State := { tS tLa tCoH gD tR with runs := [] }
     s.groups.find 3 = some gD ∧ s.cohorts.find gD.cid = some tCoH ∧ s.launches.find tCoH.launch = some tLa ∧ gD.conds ≠ [] ∧ gD.issueAddr = some 0 ∧
       gD.ended = false ∧ gD.ending = false ∧ atBoundary s gD = true ∧ gD.trap = false ∧ tCoH.tvecEn = true) ∧ atBoundary (tS tLa tCoH gD tR) gD = false ∧
    (let g := { gV with ended := true, waits := [.tlbi 7] }
     let s : State := { tS tLa { tCo with gids := [3, 4] } g tR with groups := [(3, g), (4, gV)], runs := [] }
     s.groups.find 3 = some g ∧ g.releasable = true ∧ s.cohorts.find g.cid = some { tCo with gids := [3, 4] } ∧ 4 ∈ [3, 4] ∧
       (s.groups.find 4).isSome = true ∧ g.waits = .tlbi 7 :: [] ∧
       ∀ e ∈ (releaseCohort g.cid { tS tLa tCo g tR with groups := [], runs := [] }).cohorts, e.2.launch ≠ tCo.launch) ∧
    (sV.groups.find 3 = some gV ∧ gV.releasable = false) := by decide +kernel
/-- A fill of 256 bytes at 0x1040 as the head of channel 7. -/
def jF : CopyJob := copyJob (cK tLa tCo 7) 2 { dst := 0x1040, src := 0x0102030405060708, lens := 256, cmd := 7, str := 0, tree := 0, pages := 0 } 8 none
def tCoF : Cohort := { tCo with chans := [(7, { q := [.copy jF] })] }
def sF : State := { tS tLa tCoF { gK 7 with pend := [(8, { tok := some 1, op := .copy 7 4 none })], tk := 2 } tR with mem := tMem }
theorem witness_CoreAndCopyEvents_chunks : headCopy sF 2 7 = some jF ∧ (∃ u, copyWho sF jF = some u ∧
      placeOf sF u .wr jF.chunk.1.1 1 = .ok (.phys 0x40001040 1) ∧ heldByCopy sF u.gid jF.pid u.core true 0x40001040 = false ∧
      (∃ x, xlate sF u .wr (jF.chunk.1.1 % 2 ^ 60) = .ok x)) ∧ sF.cohorts.find 2 = some tCoF ∧ jF.sent = false ∧ jF.abort = false ∧ copyFree sF jF = true ∧
    jF.failing = none ∧ (jF.kind = 2 ∧ jF.kind ≠ 3) ∧ 0 < jF.dlen ∧ bits jF.chunk.1.1 62 60 = 0 ∧ Memory.wf sF.mem = true ∧ jF.done + jF.chunk.1.2 < jF.total ∧
    ({ jF with abort := true } : CopyJob).abort = true :=
  ⟨by decide +kernel, ⟨_, rfl, okIs_eq (by decide +kernel), by decide +kernel, _, rfl⟩, by decide +kernel, rfl, rfl, by decide +kernel, rfl, by decide +kernel,
    by decide +kernel, by decide +kernel, by decide +kernel, by decide +kernel, rfl⟩
/-- R310: the SHA-256 of "abc", the example of FIPS 180-4. -/
theorem test_sha256 : sha256 [0x61, 0x62, 0x63] = [0xBA, 0x78, 0x16, 0xBF, 0x8F, 0x01, 0xCF, 0xEA, 0x41, 0x41, 0x40, 0xDE, 0x5D, 0xAE, 0x22, 0x23, 0xB0, 0x03,
    0x61, 0xA3, 0x96, 0x17, 0x7A, 0x9C, 0xB4, 0x10, 0xFF, 0x61, 0xF2, 0x00, 0x15, 0xAD] := by decide +kernel
/-- A weight page at 0x20000, to be checked against the node `bs` and the root, in a tree of one leaf. -/
def jW (pg bs : List Byte) (root : Option Nat) : CopyJob :=
  { copyJob (cK tLa tCo 7) 3 { dst := 0x40000, src := 0x20000, lens := 65536, cmd := 7, str := 0, tree := 0x10000, pages := 0 } 8 root with
    buf := [(0x20000, pg), (0x10020, bs)] }
def sK3 (j : CopyJob) : State :=
  { tS tLa { tCo with chans := [(7, { q := [.copy j] })] } { gK 7 with pend := [(8, { tok := some 1, op := .copy 7 4 none })], tk := 2 } tR with mem := tMem }
theorem jW_page (pg bs : List Byte) (r : Option Nat) (a : Nat) (h : 0x20000 ≤ a) (h' : a - 0x20000 < pg.length) :
    (jW pg bs r).byteAt a = some pg[a - 0x20000] := by simp [CopyJob.byteAt, jW, h, List.getElem?_eq_getElem h']
theorem jW_node (pg bs : List Byte) (r : Option Nat) (a : Nat) (h : 0x10020 ≤ a) (h2 : a < 0x20000) (h' : a - 0x10020 < bs.length) :
    (jW pg bs r).byteAt a = some bs[a - 0x10020] := by
  simp [CopyJob.byteAt, jW, h, show ¬131072 ≤ a by omega, List.getElem?_eq_getElem h']
theorem missing_of_read {j : CopyJob} {a n : Nat} (h : ∀ w ∈ wordsIn a n, (j.byteAt w).isSome = true) : missing j a n = [] := by
  have : (wordsIn a n).filter (fun w => (j.byteAt w).isNone) = [] := by
    simp only [List.filter_eq_nil_iff]
    intro w hw
    simpa [Option.isSome_iff_ne_none] using h w hw
  rw [missing, this]
  rfl
theorem jW_gathered (pg bs : List Byte) (r : Option Nat) (h : pg.length = 65536) : gathered (jW pg bs r) 0x20000 65536 = pg := by
  refine List.ext_getElem (by simp only [gathered, List.length_map, List.length_range, h]) fun i h1 h2 => ?_
  simp only [gathered, List.getElem_map, List.getElem_range, Nat.mod_eq_of_lt (show 131072 + i < 2 ^ 63 by omega)]
  rw [jW_page pg bs r _ (by omega) (by omega)]
  simp
theorem jW_gathered_node (pg bs : List Byte) (r : Option Nat) (h : bs.length = 32) : gathered (jW pg bs r) 0x10020 32 = bs := by
  refine List.ext_getElem (by simp only [gathered, List.length_map, List.length_range, h]) fun i h1 h2 => ?_
  simp only [gathered, List.getElem_map, List.getElem_range, Nat.mod_eq_of_lt (show 65568 + i < 2 ^ 63 by omega)]
  rw [jW_node pg bs r _ (by omega) (by omega) (by omega)]
  simp
theorem hashBlocks_length (n : Nat) (bs : List Byte) (h : List Nat) (hh : h.length = 8) : (hashBlocks n bs h).length = 8 := by
  induction n generalizing bs h with
  | zero => exact hh
  | succ n ih =>
    refine ih _ _ ?_
    have turn : ∀ (ks : List Nat) (t : HashTurn), t.a.length = 4 → t.e.length = 4 →
        (ks.foldl HashTurn.next t).a.length = 4 ∧ (ks.foldl HashTurn.next t).e.length = 4 := by
      intro ks
      induction ks with
      | nil => exact fun _ h1 h2 => ⟨h1, h2⟩
      | cons k ks ih => exact fun t h1 h2 => ih _ (by simp [HashTurn.next, h1]) (by simp [HashTurn.next, h2])
    have := turn turnKeys ⟨(List.range 16).map (fun i => beBytes ((bs.drop (4 * i)).take 4)), h.take 4, h.drop 4⟩ (by simp [hh]) (by simp [hh])
    simp [hh, this.1, this.2]
theorem toBytes_four (x : Nat) : (toBytes 4 x).reverse.length = 4 := by simp [toBytes]
theorem sha256_length (m : List Byte) : (sha256 m).length = 32 := by
  simp only [sha256, List.length_flatMap, toBytes_four]
  rw [List.map_const', List.sum_replicate, hashBlocks_length _ _ _ rfl]
  rfl
theorem witness_CoreAndCopyEvents_pages : (let j := jW [] [] none
      headCopy (sK3 j) 2 7 = some j ∧ (copyWho (sK3 j) j).isSome = true ∧ (sK3 j).cohorts.find 2 = some { tCo with chans := [(7, { q := [.copy j] })] } ∧
        j.sent = false ∧ j.failing = none ∧ j.kind = 3 ∧ j.checked ≤ j.done / 65536 ∧ j.abort = false ∧ copyFree (sK3 j) j = true ∧ j.root = none) ∧
    (∀ pg bs, pg.length = 65536 → bs.length = 32 → ∀ root, let j := jW pg bs (some root)
      headCopy (sK3 j) 2 7 = some j ∧ (copyWho (sK3 j) j).isSome = true ∧ j.sent = false ∧ j.failing = none ∧ j.kind = 3 ∧ j.checked ≤ j.done / 65536 ∧ j.abort = false ∧
        copyFree (sK3 j) j = true ∧ j.root = some root ∧ j.srcAt 0 (65536 * (j.done / 65536)) = 0x20000 ∧ 2 ^ j.logp + j.first + j.done / 65536 = 1 ∧
        treeNodes (j.logp + 1) 1 = [] ∧ nodeSpan j.tree 1 = (0x10020, 32) ∧ missing j 0x20000 65536 = [] ∧ missing j 0x10020 32 = [] ∧
        gathered j 0x20000 65536 = pg ∧ gathered j 0x10020 32 = bs ∧ ∀ h, digestOf (climb 1 [] h) = digestOf h) ∧
    (∃ pg : List Byte, pg.length = 65536 ∧ (sha256 pg).length = 32 ∧ ∃ bs : List Byte, bs.length = 32 ∧ sha256 pg ≠ bs) ∧
    (∀ h, digestOf h ≠ digestOf h + 1) := by
  refine ⟨⟨rfl, rfl, rfl, rfl, rfl, rfl, by decide +kernel, rfl, rfl, rfl⟩, fun pg bs hp hl root => ?_, ?_, fun _ => Nat.ne_of_lt (Nat.lt_succ_self _)⟩
  · refine ⟨rfl, rfl, rfl, rfl, rfl, Nat.zero_le _, rfl, rfl, rfl,
      by simp [jW, copyJob, CopyJob.srcAt, wrap], by simp [jW, copyJob, bits], rfl, rfl, missing_of_read ?_, missing_of_read ?_, jW_gathered pg bs _ hp,
      jW_gathered_node pg bs _ hl, fun _ => rfl⟩
    · intro w hw
      simp only [wordsIn, List.mem_map, List.mem_range] at hw
      obtain ⟨i, hi, rfl⟩ := hw
      rw [jW_page pg bs _ _ (by omega) (by omega)]
      rfl
    · intro w hw
      simp only [wordsIn, List.mem_map, List.mem_range] at hw
      obtain ⟨i, hi, rfl⟩ := hw
      rw [jW_node pg bs _ _ (by omega) (by omega) (by omega)]
      rfl
  · obtain ⟨pg, hp⟩ : ∃ pg : List Byte, pg.length = 65536 := ⟨List.replicate 65536 0, List.length_replicate⟩
    refine ⟨pg, hp, sha256_length pg, (sha256 pg).map (· + 1), by simp [sha256_length], fun h => ?_⟩
    have h0 := congrArg (fun l => l[0]?) h
    simp only [List.getElem?_map, List.getElem?_eq_getElem (show 0 < (sha256 pg).length by simp [sha256_length]), Option.map_some, Option.some.injEq] at h0
    bv_omega
/-- A copy that failed its check, with line 511 of the page still to be poisoned, and none. -/
theorem witness_CoreAndCopyEvents_failing : ∀ row ∈ [(511, 1), (512, 2)],
    (let j : CopyJob := { jW [] [] none with failing := some row }
     let s := sK3 j
     headCopy s 2 7 = some j ∧ j.sent = false ∧ j.abort = false ∧ Memory.wf s.mem = true ∧ ∃ u, copyWho s j = some u ∧
       placeOf s u .wr (j.dstAt 0 (65536 * (j.done / 65536) + 128 * 511)) 128 = .ok (.phys 0x4004FF80 1) ∧
       heldByCopy s u.gid j.pid u.core true 0x4004FF80 = false) := by
  simp only [List.mem_cons, List.not_mem_nil, or_false, forall_eq_or_imp, forall_eq]
  exact ⟨⟨rfl, rfl, rfl, by decide +kernel, _, rfl, okIs_eq (by decide +kernel), by decide +kernel⟩,
    rfl, rfl, rfl, by decide +kernel, _, rfl, okIs_eq (by decide +kernel), by decide +kernel⟩
theorem witness_CoreAndCopyEvents_slots :
    (let p : Pend := { tok := some 1, op := .copy 7 4 (some jF), accepted := false }
     let g := { gK 7 with pend := [(8, p)], tk := 2 }
     let s : State := { tS tLa tCo g tR with runs := [] }
     s.groups.find 3 = some g ∧ s.cohorts.find g.cid = some tCo ∧ slotsUsed s tCo.core < 128 ∧ (∀ e ∈ s.runs, e.2.gid ≠ 3) ∧ (whoOfGid s 3).isSome = true ∧
       g.pend.find? (fun e => !e.2.accepted && (match e.2.op with
         | .copy _ _ (some _) => true
         | _ => false)) = some (8, p)) := by decide +kernel
theorem witness_CodebooksAndPrefetch : ctxOf sA = some cA ∧ (63 < 64 ∧ 15 < 16) ∧ (cA.sn 2 / 128 * 128 / 2 ^ 60 % 8 ≠ 0 ∧ cA.sn 1 / 128 * 128 / 2 ^ 60 % 8 = 0) ∧
    xlate sV (whoOf sV cV) .rd (cV.sn 1 / 128 * 128 % 2 ^ 60) = .error 9 ∧
    memChecks cA (some 15) ((List.range (2 ^ (7 + 1))).findSome? (fun j => faultAt sA cA .rd (wrap 64 ((cA.sn 1 : Int) + (2 * j : Nat))) 2)) = .ok () ∧
    (∃ e, memChecks cA (some 15) (some { code := 9 }) = .error e) ∧ cA.g.sew ≠ 16 ∧
    (let g := { gP with vtype := 2 }
     let c := tC tLa tCo g tR
     let s : State := { sA with groups := [(3, g)] }
     ctxOf s = some c ∧ c.g.sew = 16 ∧ groupsFit c [⟨255, 1, false⟩] = .ok () ∧ c.g.tk.getLsbD 15 = false ∧ ((s.core c.co.core).slot 3).loads = [] ∧
       (∀ j, j ≤ ((s.core c.co.core).slot 3).b * c.g.vlmax / 8 → faultAt s c .rd (wrap 64 ((c.sn 1 : Int) + (j : Nat))) 1 = none)) :=
  ⟨rfl, by decide, by decide +kernel, rfl, okIs_eq (by decide +kernel), ⟨_, rfl⟩, by decide +kernel, rfl, by decide +kernel, okIs_eq rfl, by decide +kernel,
    rfl, by decide +kernel⟩
theorem witness_CodebooksAndPrefetch_table :
    (let p : Pend := { tok := some 15, op := .cbload 3 1, wrs := [⟨locV scratchReg 0, 2 ^ 32 - 1, 0x3F80⟩, ⟨locV scratchReg 1, 2 ^ 32 - 1, 0x4000⟩] }
     let g := { gV with pend := [(8, p)] }
     let s : State := { tS tLa tCo g tR with cores := [(0, { cb := [(3, { loads := [(3, 8)] })] })] }
     let x := (s.core 0).slot 3
     x.loads = (3, 8) :: [] ∧ s.groups.find 3 = some g ∧ settledB s 3 g = true ∧ g.pend.find 8 = some p ∧ p.op = .cbload 3 1 ∧
       p.left = 0 ∧ p.els = [] ∧ p.bad = [] ∧ p.void = false ∧ ldcbPending s 0 3 x.ver = false ∧ ({ p with void := true } : Pend).void = true) := by decide +kernel
/-! The page with VPN 0 of GASID 5, which ASID 0 binds: absent, here, or a locked replica; a directory record and space for it. -/
def mPage (st : Byte) : List Host.Cell := [(1, 0x80), (2, 0x04), (0x40000, 0x07), (0x40002, 0x08), (0x80000, 0x07), (0x80002, 0x0C), (0xC0000, 0x07),
  (0xC0001, 0x10), (0xC0002, 0x0C), (0xC1000, st), (0xC1001, 1), (0xC1003, 0x40)]
def kPage : Nat := dirKey 5 0
def spPage : Space := { members := [10, 11], key := 0, buckets := [], tenants := [1] }
def dPage : DirRec := { home := 10 }
def frPage : Frame := ⟨0, 0, 5, 0, 0x40000000, true, true, true, 0, false, false, 3⟩
def rec3 (kind : Nat) : FaultRec := ⟨77, 0, 0, 0, 0, 0, 0, kind, 0, 0, 0, 0, 5, 1, 0, 0, 3, 8, .access, 0⟩
def chPage (ph : Phase) : Chain := { recs := [rec3 3], phase := ph }
def sPage (st : Byte) : State := { State.reset with binds := [(0, 5)], mem := mPage st, spaces := [(5, spPage)], dir := [(kPage, dPage)] }
theorem witness_MeridianEvents_directory : Calm sV ∧
    (let s := sPage 0xC1
     (∃ sp, s.spaces.find 5 = some sp ∧ 1 ∈ sp.tenants) ∧ (¬∃ sp, s.spaces.find 5 = some sp ∧ 2 ∈ sp.tenants) ∧ s.dir.find kPage = some dPage ∧
       s.dir.find (dirKey 5 1) = none ∧ s.spaces.find 6 = none ∧ s.spaces.find 5 ≠ none) := by
  refine ⟨calm_of (by decide +kernel), ⟨⟨spPage, by decide +kernel⟩, ?_, by decide +kernel⟩⟩
  rintro ⟨sp, h, ht⟩
  cases h
  exact absurd ht (by decide)
/-- Requests of each kind: known, repeated, queued behind another, in service; with and without holders to tell, and with orders still owed. -/
theorem witness_MeridianEvents_requests :
    (let d : DirRec := { dPage with rels := [(4, 7)], busy := some (.read 4, [7]), queue := [.write 9] }
     d.knows (.release 4 7) = true ∧ d.knows (.release 4 8) = false ∧ d.knows (.write 4) = false ∧ .write 4 ∉ d.queue ∧ DReq.read 4 ≠ .write 4 ∧
       (DReq.write 9).repeats = false ∧ .write 9 ∈ d.queue ∧ (DReq.store 9).repeats = true) ∧
    (∀ q ∈ [DReq.read 4, .write 4, .supplied 4 true, .replicate 4 3, .newHome 10 11 1], dPage.busy = none ∧ dPage.queue = [] ∧ dPage.knows q = false ∧
      (plan spPage 5 0 { dPage with queue := [q] } q).wait ≠ []) ∧
    (∀ q ∈ [DReq.store 4, .release 4 1, .unreplicate 4, .remove 4 10], dPage.knows q = false ∧
      (plan spPage 5 0 { dPage with queue := [q] } q).wait = [] ∧ (plan spPage 5 0 { dPage with queue := [q] } q).owed = []) := by decide +kernel
/-- Acknowledgements: of the last, another and no holder; behind a first set of orders with a second and without; with a reason, of a request
that fails and of one that goes on; of an entry still owed. -/
theorem witness_MeridianEvents_acknowledgements :
    (let d : DirRec := { dPage with busy := some (.read 4, [7, 9]) }
     2 = (d.version + 1) % 2 ^ 64 ∧ 1 ≠ (d.version + 1) % 2 ^ 64 ∧ 7 ∈ [7, 9] ∧ 8 ∉ [7, 9] ∧ [7, 9].filter (· != 7) ≠ [] ∧ [7].filter (· != 7) = [] ∧ d.queue = [] ∧
       ¬(2 = d.version ∧ 7 ∈ d.owed)) ∧
    (let d : DirRec := { dPage with owed := [7] }
     1 = d.version ∧ 7 ∈ d.owed) ∧
    (let sp : Space := { spPage with members := [10, 11, 12] }
     let d : DirRec := { dPage with state := .shared, readers := 2, owner := 0xFFFF }
     let e : DirRec := { d with busy := some (.write 12, [11]) }
     e.stage = 1 ∧ (plan sp 5 0 { e with busy := none } (.write 12)).wait2 ≠ [] ∧ (plan sp 5 0 { e with busy := none } (.write 11)).wait2 = []) ∧
    (let d : DirRec := { dPage with state := .locked, readers := 3 }
     (plan spPage 5 0 d (.remove 11 10)).anyway = true ∧ (plan spPage 5 0 d (.remove 11 10)).owed = [] ∧ (plan spPage 5 0 dPage (.read 4)).anyway = false ∧
       (DReq.replicate 4 3).mailbox = true ∧ dPage.state ≠ .shared) ∧ (255 ≠ 0 ∧ 5 ≠ 0 ∧ 5 ≠ 255) := by decide +kernel
theorem witness_MeridianEvents_others :
    (dPage.version = 1 ∧ dPage.state ≠ .locked ∧ dPage.source spPage = some 10 ∧ dPage.source spPage ≠ some 11 ∧ dPage.busy = none ∧ dPage.queue = []) ∧
    (let d : DirRec := { dPage with version := 2, state := .shared, owner := 10, readers := 2 }
     d.version = 1 + 1 ∧ d.state = .shared ∧ d.source spPage = some 10 ∧ 11 ∈ ranksIn spPage d.readers ∧ 12 ∉ ranksIn spPage d.readers) ∧
    (let s : State := { sPage 0xC1 with cfg := [(State.pblock 0 + 0x20, 0x800B)] }
     ownMember s spPage = some 1 ∧ s.now < s.filterAt.get 0 5 + 90000000 ∧
       ({ s with now := 90000000 } : State).filterAt.get 0 5 + 90000000 ≤ ({ s with now := 90000000 } : State).now) := by decide +kernel
theorem witness_MeridianEvents_holders :
    (let s := sPage 0xC1
     supplies s kPage = true ∧ s.tenantOf (holderPart s kPage) ≠ 1 ∧ s.tenantOf (holderPart s kPage) = 0 ∧ supplies (sPage 0xC2) kPage = false ∧
       s.homes.find kPage = none ∧ pageOf s kPage = some 0x40000000 ∧ frameOf s kPage = none ∧ s.migr.find kPage = none ∧ Memory.wf s.mem = true) ∧
    (let s : State := { sPage 0xC1 with homes := [(kPage, 0x40000000)], vers := [(kPage, 4)] }
     s.homes.find kPage = some 0x40000000 ∧ 3 < s.vers.get 0 kPage ∧ s.vers.get 0 kPage ≤ 4) ∧
    (let s : State := { sPage 0xC2 with homes := [(kPage, 0x40000000)], chains := [(kPage, { chPage (.asked 2) with frame := 0x50000000 })] }
     s.chains.find kPage = some { chPage (.asked 2) with frame := 0x50000000 } ∧ s.vers.get 0 kPage ≤ 1 ∧ frameOf s kPage = none ∧
       s.homes.find kPage = some 0x40000000 ∧ 1 % 16 ≠ 4 ∧ ({ s with homes := [] } : State).homes.find kPage = none ∧ 0x50000000 ≠ 0) ∧
    (let p : ProbeOut := ⟨9, false, 4, 5, 0, 18000, 1, 1, 0, 0⟩
     let s : State := { sPage 0xC1 with probes := [p], now := 18000 }
     s.probes.find? (fun x => x.id == p.id) = some p ∧ p.wait = false ∧ p.due ≤ s.now ∧ ({ s with now := 17999 } : State).now < p.due) := by decide +kernel
/-- R345: a move waits while the page is locked; old, repeated and new moves; a move of a page that is not here; a poisoned page at its home. -/
theorem witness_MeridianEvents_invalidations :
    (let l : Lock := { id := 6, key := kPage, off := 0x80, own := false, writer := 10, step := 1, left := [], gid := 0, hid := 0, el := 0, pkt := none
                       part := 0, data := [], since := 0 }
     let m : Move := ⟨5, 0, 4, some 11, 6, 65546, none⟩
     let s : State := { sPage 0xC1 with vers := [(kPage, 3)] }
     m ∉ s.moves ∧ moveWaits { s with locks := [l] } m = true ∧ moveWaits s m = false ∧ s.vers.get 0 kPage < 4 ∧ 2 < s.vers.get 0 kPage ∧
       3 = s.vers.get 0 kPage ∧ 3 ≠ 0 ∧ pageOf s kPage = some 0x40000000 ∧ badHome s kPage 0x40000000 = false ∧ 6 % 16 = 6 ∧
       badHome { s with poison := [0x40000000 / 128] } kPage 0x40000000 = true ∧ moveWaits { s with poison := [0x40000000 / 128] } m = false) ∧
    (let m : Move := ⟨5, 0, 4, none, 2, 65546, some 11⟩
     let s := sPage 0xC1
     moveWaits s m = false ∧ 2 % 16 = 2 ∧ moveWaits (sPage 0xC2) m = false ∧ pageOf (sPage 0xC2) kPage = none ∧ 2 % 16 ≠ 6) ∧
    (∀ row ∈ [(some 11, 6), (none, 7), (none, 19), (none, 3)],
      moveWaits (sPage 0xC2) ⟨5, 0, 4, row.1, row.2, 65546, none⟩ = false ∧ moveWaits (sPage 0xC1) ⟨5, 0, 4, row.1, row.2, 65546, none⟩ = false ∧
        (sPage 0xC2).vers.get 0 kPage < 4 ∧ badHome (sPage 0xC1) kPage 0x40000000 = false) ∧ (7 % 16 = 7 ∧ 23 % 16 = 7 ∧ 19 % 16 ≠ 7 ∧ 19 % 16 ≠ 6) := by decide +kernel
theorem witness_MeridianEvents_replies :
    (let s : State := { sPage 0xC2 with chains := [(kPage, chPage (.asked 0))], vers := [(kPage, 3)] }
     2 ≠ 0 ∧ 2 < s.vers.get 0 kPage ∧ s.vers.get 0 kPage ≤ 3 ∧ s.chains.find kPage = some (chPage (.asked 0)) ∧ (chPage (.asked 0)).phase = .asked 0) ∧
    (let c : Chain := { chPage (.asked 2) with attempts := 1 }
     let s : State := { sPage 0xC2 with chains := [(kPage, c)], now := 900000, dir := [] }
     s.chains.find kPage = some c ∧ c.phase = .asked 2 ∧ c.since + 900000 ≤ s.now ∧ c.attempts < 3 ∧ s.dir.find kPage = none ∧ s.mail = [] ∧ s.locks = [] ∧
       s.migr.find kPage = none ∧ s.probes = [] ∧ s.tells = []) ∧
    (let s : State := { sPage 0xC1 with chains := [(kPage, chPage (.leaving true false))], frames := [frPage] }
     s.chains.find kPage = some (chPage (.leaving true false)) ∧ frameOf s kPage = some frPage ∧ (chPage (.leaving true false)).phase = .leaving true false) := by
  decide +kernel
/-- R339, R340: records replayed: none left, of a generation gone, a write to a shared page, a load whose elements remain, one that is done. -/
theorem witness_MeridianEvents_replay :
    (({ chPage (.replay 1) with recs := [] } : Chain).recs = []) ∧
    (let r : FaultRec := ⟨77, 0, 0, 0, 0, 0, 0, 1, 1, 0, 0, 0, 5, 1, 0, 0, 3, 8, .access, 0⟩
     asidGen (sPage 0xC6) 0 0 ≠ ({ r with gen := 9 } : FaultRec).gen ∧ asidGen (sPage 0xC6) 0 0 = r.gen ∧ r.role = .access ∧ r.kind ≠ 7 ∧ r.flags % 2 = 1) ∧
    (let u := whoOf sA cA
     let e : LdEl := ⟨0x20, 8, none, .s 7, false, none⟩
     let g := { gP with pend := [(8, { op := .load none, els := [(0, e)], tok := some 1 })] }
     let r : FaultRec := ⟨77, 0, 0, 0, 0, 0, 0, 0, 0, 0, 0, 0, 5, 1, 0, 0, 3, 8, .access, 0⟩
     let c : Chain := { recs := [r], phase := .replay 1 }
     let s : State := { sPage 0xC6 with groups := [(3, g)], cohorts := sA.cohorts, launches := sA.launches, chains := [(kPage, c)] }
     let done := fun st : Nat =>
       let s1 := performRecord r (mapLeaves kPage (fun pte => setBits pte 0 4 st) { s with chains := s.chains.del kPage })
       let s2 := shootKey kPage (mapLeaves kPage (fun pte => setBits pte 0 4 6) s1)
       recordDone s { s2 with chains := s2.chains.put kPage c } r
     s.chains.find kPage = some c ∧ asidGen s r.part r.asid = r.gen ∧ 1 ≠ 3 ∧ u.gid = 3 ∧ done 1 = true ∧
       (let h := { gP with stq := [.store 7 [(0, ⟨0x20, 8, none, 5⟩)]], pend := g.pend }
        let s' : State := { s with groups := [(3, h)] }
        recordDone s' { performRecord r (mapLeaves kPage (fun pte => setBits pte 0 4 1) { s' with chains := [] }) with chains := [(kPage, c)] } r = false)) := by
  decide +kernel
theorem witness_MeridianEvents_declined :
    (let c : Chain := { chPage .noFrame with since := 1 }
     let s : State := { sPage 0xC2 with chains := [(kPage, c)], now := 9000001 }
     ∃ c, (retryFrames s).chains.find kPage = some c ∧ c.lacksFrame = true ∧ evicting (65536 * c.part + c.asid) kPage (retryFrames s) = false ∧
       c.since + 9000000 ≤ (retryFrames s).now ∧ c.since = 1 ∧ (retryFrames { s with now := 9000000 }).now = 9000000) ∧ (sPage 0xC1).chains = [] ∧
    (let c : Chain := { chPage .declined with frame := 0x50000000, inQueue := true }
     let s : State := { sPage 0xC2 with chains := [(kPage, c)] }
     declinedKey s 77 = some (kPage, c) ∧ declinedKey s 78 = none ∧ c.phase = .declined ∧ c.recs.find? (fun r => r.role != .pagerel) = some (rec3 3) ∧
       c.recs = [rec3 3] ∧ (rec3 3).kind = 3 ∧ c.frame ≠ 0 ∧ ({ c with frame := 0 } : Chain).frame = 0 ∧
       (let c1 : Chain := { c with phase := .supplied 0x60000000 1 false, frame := 0, since := s.now, reason := 0, inQueue := false }
        framesUsed { s with chains := s.chains.put kPage c1 } 0 < quotaOf { s with chains := s.chains.put kPage c1 } 0)) ∧
    (let c := chPage .declined
     c.phase = .declined ∧ c.inQueue = false ∧ c.recs.find? (fun r => r.role != .pagerel) = some (rec3 3) ∧ ([] : List FaultRec).length < 256 ∧
       256 ≤ (List.replicate 256 (rec3 3)).length) := by
  refine ⟨⟨{ chPage .noFrame with since := 1 }, ?_⟩, rfl, by decide +kernel, by decide +kernel⟩
  decide +kernel
/-- What a RETRY begins again: an ask, a SUPPLY, a wait for a frame, or the giving up of a page whose home declined it. -/
theorem witness_MeridianEvents_retried :
    (∀ f ∈ [none, some (.asked 3), some (.supplied 0x60000000 1 false), some .noFrame],
      let c : Chain := { chPage .declined with inQueue := true, failed := f }
      let s : State := { sPage 0xC2 with chains := [(kPage, c)] }
      declinedKey s 77 = some (kPage, c) ∧ c.phase = .declined ∧ c.failed = f) ∧
    (let c : Chain := { recs := [{ rec3 7 with role := .writeBack }], phase := .leaving true true, inQueue := true }
     let s : State := { sPage 0xC6 with chains := [(kPage, c)], frames := [frPage] }
     declinedKey s 77 = some (kPage, c) ∧ c.phase = .leaving true true ∧ frameOf s kPage = some frPage) := by decide +kernel
theorem witness_MeridianEvents_moves :
    (let s : State := { sPage 0xC1 with migr := [(kPage, { home := 11, copied := 512, marked := [] }), (dirKey 5 1, { home := 11, copied := 511, marked := [] })] }
     s.migr.find kPage = some { home := 11, copied := 512, marked := [] } ∧ 512 ≤ 512 ∧ s.migr.find (dirKey 5 1) = some { home := 11, copied := 511, marked := [] } ∧
       511 < 512 ∧ pageOf s kPage = some 0x40000000 ∧ pageBusy s kPage 0x40000000 = false ∧ s.chains.find kPage = none) ∧
    (let s : State := { sPage 0xC2 with incoming := [(kPage, 0x40000000)], vers := [(kPage, 4)] }
     pageOf s kPage = none ∧ s.incoming.find kPage = some 0x40000000 ∧ s.poison = [] ∧ frameOf s kPage = none ∧ s.vers.get 0 kPage ≤ 5) ∧
    ({ sPage 0xC2 with incoming := [(kPage, 0x40000000)], vers := [(kPage, 4)] } : State).vers.get 0 kPage > 3 ∧
    (∀ i, i < 512 → isLocked (sPage 0xC1) kPage (128 * i) true = false ∧ heldByCopy (sPage 0xC1) 0 0 0 false (0x40000000 + 128 * i) = false) ∧
    (stateOf (sPage 0xC1) kPage = 1 ∧ (sPage 0xC1).migr.find kPage = none ∧ sV.groups = [(3, gV)] ∧ sV.cohorts.find gV.cid = some tCo ∧ dieOf tCo.core = 0) := by
  decide +kernel
theorem witness_MeridianEvents_locks :
    (let l : Lock := { id := 6, key := kPage, off := 0x80, own := true, writer := 10, step := 1, left := [7, 9], gid := 3, hid := 8, el := 0, pkt := none
                       part := 0, data := [], since := 0 }
     let r : Lock := { l with own := false, id := 4 }
     let s : State := { sPage 0xC4 with locks := [l, r], now := 18000, lockSets := [(kPage, [7, 9])], frames := [frPage] }
     ownLock s 6 = some l ∧ l.left.filter (· != 7) ≠ [] ∧ ([7] : List Nat).filter (· != 7) = [] ∧ ({ l with step := 2 } : Lock).step = 2 ∧ l.since + 18000 ≤ s.now ∧
       ({ s with now := 17999 } : State).now < l.since + 18000 ∧ lockedHere s kPage = some 0x40000000 ∧ lockedHere { s with lockSets := [] } kPage = none ∧
       isLocked s kPage 0x100 false = false ∧ isLocked s kPage 0x80 false = true ∧ pageOf s kPage = some 0x40000000 ∧ frameOf s kPage = some frPage ∧
       s.locks.find? (fun x => !x.own && x.id == 4 && x.writer == 10 && x.key == kPage) = some r ∧
       s.locks.any (fun x => !x.own && x.id == 4 && x.writer == 10 && x.key == kPage) = true ∧
       s.locks.find? (fun x => !x.own && x.id == 5 && x.writer == 10 && x.key == kPage) = none ∧
       s.locks.any (fun x => !x.own && x.id == 5 && x.writer == 10 && x.key == kPage) = false ∧
       s.locks.find? (fun x => !x.own && x.key == kPage && x.off / 128 == 0x80 / 128) = some r ∧ r.since + 18000 ≤ s.now) := by decide +kernel
/-- A link that has sent images 5 and 6, and one that is down; a packet from rank 4 to rank 10, which partition 0 has. -/
def lUp : Link := { retryBuf := [(5, []), (6, [])], unacked := 1, owed := 1, rxSeq := 9, txSeq := 7 }
def pk : Pkt := { src := 4, dst := 10, path := 0, num := 0, floor := 0, tenant := 0, off := 0, op := 0, size := 8, data := [], counts := [0, 0, 0, 0] }
def sN : State :=
  { State.reset with cfg := [(State.pblock 0 + 0x20, 0x800A)], links := [(0, lUp), (1, { lUp with up := false }), (2, { lUp with rejecting := true })], heldFlags := [pk]
                     refusals := [(8, (pk, 32, 18000))], now := 72000 }
theorem witness_LinkAndFabricEvents_links : (sN.link 0).up = true ∧ 8 ≠ (sN.link 0).rxSeq ∧ (sN.link 0).rejecting = false ∧ (sN.link 2).rejecting = true ∧
    (sN.link 2).up = true ∧ 9 = (sN.link 0).rxSeq ∧ (sN.link 1).up = false ∧ (sN.link 0).retryBuf.dropWhile (fun e => e.1 != 6) ≠ [] ∧ (sN.link 0).retryNum ≠ 6 ∧
    (sN.link 0).unacked ≠ 0 ∧ (sN.link 0).owed ≠ 0 ∧
    (let l : Link := { lUp with retryNum := 6, retries := 7 }
     l.retryBuf.dropWhile (fun e => e.1 != 6) ≠ [] ∧ l.retryNum = 6 ∧ l.retries = 7) := by decide +kernel
/-- A link without credits of channel 0 holds a packet. -/
def lFull : Link := { txSent := [256, 0], waiting := [⟨0, 1, pk, packetBytes 1 pk, true⟩] }
theorem witness_LinkAndFabricEvents_credits : lUp.up = true ∧ lUp.waiting = [] ∧
    (let l : Link := { lFull with txFreed := [1, 0] }
     l.nextTx = some ⟨0, 1, pk, packetBytes 1 pk, true⟩ ∧
       ({ l with waiting := ⟨0, 1, pk, [1], false⟩ :: l.waiting } : Link).nextTx = some ⟨0, 1, pk, [1], false⟩) := by decide +kernel
/-- R366: with 256 flits not freed nothing goes out; the credit of one flit lets it go. -/
theorem test_credit : lFull.nextTx = none ∧ (match exec (.credit 0 1 0) { State.reset with links := [(0, lFull)] } with
    | .next t => some ((t.link 0).waiting, (t.link 0).txSent, t.outbox)
    | _ => none) = some ([], [257, 0], [.packet 1 pk]) := by decide +kernel
theorem witness_LinkAndFabricEvents_packets : sN.partOfRank pk.dst = some 0 ∧ sN.heldFlags = [pk] ∧ flagReady sN 0 pk = true ∧
    sN.refusals.find 8 = some (pk, 32, 18000) ∧ 18000 ≤ sN.now ∧ ({ sN with now := 17999 } : State).now < 18000 ∧ State.reset.heldFlags = [] ∧
    (let r : Req := { gid := 3, core := 0, part := 0, rank := 4, opc := 1, off := 0, op := 0, size := 8, data := [], pid := none, els := [], at' := [], copy := none, num := some 5 }
     let s : State := { sN with reqs := [(7, r)] }
     reqOf s (4 / 4096) (4 % 4096) 5 = some (7, r) ∧ r.since + 72000 ≤ s.now ∧ ({ s with now := 71999 } : State).now < r.since + 72000) := by decide +kernel
/-- A packet of one team of one cohort of one group with 16 window registers, of a priority; its place on core 0, or on core 8. -/
def packet (prio : Byte) : List Byte := List.replicate 12 0 ++ [64] ++ List.replicate 11 0 ++ [1, 0, 1, 1, 1, prio] ++ List.replicate 98 0
def at0 : List (List CohortPlace) := [[⟨0, 0, [0]⟩]]
def at8 : List CohortPlace := [⟨8, 0, [0]⟩]
/-- Partition 0 with rank 10, a pool of frames, its queue table at 2^30 + 2^16 with queue 1 valid. -/
def sE : State :=
  { State.reset with
    cfg := [(State.pblock 0, 0x40010000), (State.pblock 0 + 16, 0x50000000), (State.pblock 0 + 24, 0x60000000), (State.pblock 0 + 0x20, 0x800A)]
    mem := tMem ++ [(0x40010032, 4), (0x40010033, 1)] }
theorem witness_FrontEndAndManagementEvents_queues : ({ sE with halted := true } : State).serving = false ∧ sE.serving = true ∧ (queueDesc sE 0 1).isSome = true ∧
    (let h : Head := ⟨7, 0x1000, 0, packet 3⟩
     let s : State := { sE with queues := [(qkey 0 1, { head := some h, waiting := some 0 })], now := 90000000 }
     (s.queue 0 1).head = some h ∧ (s.queue 0 1).waiting = some 0 ∧ 0 + 90000000 ≤ s.now ∧ ({ s with now := 89999999 } : State).now < 0 + 90000000) ∧
    0 < sE.npart ∧ State.reset.rankOf 0 = none := by decide +kernel
/-- R392: a head packet with no group table; one with a table of this rank alone, legal, illegal, or with a producer that has failed. -/
def packetT (clen dep : Byte) : List Byte :=
  List.replicate 12 0 ++ [clen, 0, 0, 0, 0x10] ++ List.replicate 7 0 ++ [1, 0, 1, 1, 1, 3] ++ List.replicate 18 0 ++ [dep] ++ List.replicate 79 0
def sAd (b : List Byte) : State :=
  { sE with
    mem := tMem ++ [(0x40000010, 1), (0x40000018, 10), (0x40010032, 4), (0x40010033, 1)], history := [⟨0, 0x40, 1, 2⟩]
    queues := [(qkey 0 1, { head := some ⟨7, 0x1000, 0, b⟩ })] }
theorem witness_FrontEndAndManagementEvents_admission :
    (let l := fun b : List Byte => ({ pktLaunch b 0x1000 0 0 with queue := some 1, index := 0 } : Launch)
     (sAd (packetT 64 0)).serving = true ∧ (sAd (packetT 64 0)).npartAsked = none ∧
       ((queueDesc (sAd (packetT 64 0)) 0 1).map (fun d => (d.asid, d.kq))) = some (0, false) ∧
       (∀ b ∈ [packet 3, packetT 64 0, packetT 64 0x40, packetT 0 0], ((sAd b).queue 0 1).head = some ⟨7, 0x1000, 0, b⟩ ∧ gangOfQueue (sAd b) 0 1 = none) ∧
       groupTable (sAd (packet 3)) (l (packet 3)) = none ∧
       (∀ b ∈ [packetT 64 0, packetT 64 0x40, packetT 0 0], groupTable (sAd b) (l b) = some [10]) ∧ pktLegal (packetT 0 0) (l (packetT 0 0)) = false ∧
       (∀ b ∈ [packetT 64 0, packetT 64 0x40], let s := sAd b
         (pktLegal b (l b) = true ∧ (l b).priv = false ∧ everFits s (l b) = true ∧ donePlace s (l b) ≠ none) ∧
         (producers s 0 7 b).2 = decide (b = packetT 64 0x40)) ∧
       (let s := sAd (packetT 64 0)
        let la := l (packetT 64 0)
        outranked s 0 la.prio 1 = false ∧ [10].length ≤ 1 ∧ feasible s la = true ∧ energyFits s la = true ∧ placeFits s la at0 = true ∧
          (startLaunch 7 { la with deps := (producers s 0 7 (packetT 64 0)).1 } at0 s).isSome = true)) := by decide +kernel
theorem witness_FrontEndAndManagementEvents_reserve : (sE.rankOf 0).isSome = true ∧ sE.gangs.find (16 * 7 + 0) = none ∧
    gangAnswer sE { pktLaunch (packet 3) 0x1000 0 0 with gang := some 7 } none at0 = some true ∧
    gangAnswer sE { pktLaunch (packet 3) 0x1000 0 1 with gang := some 7 } none at0 = some false ∧ gangKeys sE 7 = [] := by decide +kernel
/-- A reservation of gang 7 in partition 0. -/
def gg (coord held : Bool) (start : Option Nat) (lid : Option Nat) : Gang :=
  { gang := 7, part := 0, coord := coord, ranks := [10, 11], addr := 0x1000, pkt := packet 3, asid := 0, queue := 1, place := at0, held := held, start := start, lid := lid
    refused := !held }
def sG (g : Gang) : State := { sE with gangs := [(112, g)], now := 90000 * 2 }
theorem witness_FrontEndAndManagementEvents_gangs :
    (∀ g ∈ [gg true true none none, gg false true none none, gg false true (some 180000) none, gg false true (some 180001) none, gg true false none none,
        gg false false (some 5) (some 1)], gangKeys (sG g) 7 = [112] ∧ (sG g).gangs.find 112 = some g) ∧
    (let g := gg true true none none
     10 ∈ g.ranks ∧ 10 ∉ g.granted ∧ g.granted.length + 1 < g.ranks.length ∧ (sG g).now ≤ g.sentAt + 1800000 ∧
       ({ g with granted := [11] } : Gang).granted.length + 1 = g.ranks.length ∧ 10 ∉ [11]) ∧
    ((gg true true none none).sentAt + 1800000 ≤ ({ sG (gg true true none none) with now := 1800000 } : State).now ∧
      (sG (gg true true none none)).now < (gg true true none none).sentAt + 1800000) ∧
    ((gg true false none none).refused = true ∧ ∀ n ∈ [9000 * (20 + 7), 89999999],
      (gg true false none none).sentAt + 9000 * (20 + 7 % 64) ≤ n ∧ n < (gg true false none none).firstAt + 90000000) ∧
    180000 ≤ (sG (gg false true (some 180000) none)).now ∧ (sG (gg false true (some 180001) none)).now < 180001 := by decide +kernel
theorem witness_FrontEndAndManagementEvents_start :
    (let g := gg false true (some 180000) none
     let s := sG g
     let la : Launch := { g.launch with queue := none, index := 0, deps := (producers s g.part s.nextId g.pkt).1 }
     s.npartAsked = none ∧ s.serving = true ∧ gangCancelled s 7 = false ∧
       (startLaunch s.nextId la g.place (updGang 112 (fun g => { g with lid := some s.nextId, held := false, saves := [] }) { s with nextId := s.nextId + 1 })).isSome = true) ∧
    (let g : Gang := { gg false true (some 180000) none with pkt := packetT 64 0x40 }
     let s : State := { sG g with history := [⟨0, 0x40, 1, 2⟩] }
     s.gangs.find 112 = some g ∧ gangKeys s 7 = [112] ∧ gangCancelled s 7 = true) := by decide +kernel
theorem witness_FrontEndAndManagementEvents_energy :
    (sE.npart ≤ 1 ∧ 0 < sE.npart ∧ sE.now < (sE.account 0).tickAt + 9000000 ∧ (sE.account 0).tickAt + 9000000 ≤ ({ sE with now := 9000000 } : State).now) ∧
    (let s : State := { sE with launches := [(1, { tLa with occ := 3 })] }
     s.launches.find 1 = some { tLa with occ := 3 } ∧ ({ tLa with occ := 3 } : Launch).part = 0 ∧
       (s.launches.filter (fun x => x.2.part == 0)).foldl (fun n x => n + x.2.occ) 0 ≠ 0 ∧ (sE.launches.filter (fun x => x.2.part == 0)).foldl (fun n x => n + x.2.occ) 0 = 0) := by
  decide +kernel
/-- A launch whose cohort has been resident for 4 ms, and a head packet of higher priority that waits; its runs have ended. -/
def laP : Launch := { pktLaunch (packet 0) 0x1000 0 0 with win := 1 }
def sQ : State :=
  { sE with launches := [(1, laP)], cohorts := [(2, { tCo with nz := 0 })], groups := [(3, { gV with w := 16 })], now := 36000000
            queues := [(qkey 0 1, { head := some ⟨7, 0x2000, 0, packet 3⟩, waiting := some 0 })] }
def tHot : Therm := { temp := 980, level := .hot, since := 0, hotAsked := true }
theorem witness_FrontEndAndManagementEvents_teams : sQ.launches.find 1 = some laP ∧ onOneChip sQ laP = true ∧ higherWaits sQ laP.part laP.prio = true ∧
    residentFor sQ (gangCohorts sQ 1) = true ∧ gangCohorts sQ 1 ≠ [] ∧ sQ.runs = [] ∧ sQ.serving = true ∧ sQ.npartAsked = none ∧
    (let s : State := { sQ with therm := [(0, { tHot with hotAsked := false })] }
     (migrant s (teamCluster (cohortsOf s 1 (some 0)))).map (·.2) = some (1, 0) ∧ (coolers s laP 0 980).find? (isCoolest s laP 0 980) = some 1 ∧ (s.therms 0).temp = 980) ∧
    (let s : State := { sQ with cohorts := [(2, { tCo with nz := 0, resident := false })] }
     let cs := cohortsOf s 1 (some 0)
     cs ≠ [] ∧ (∀ c ∈ cs, c.2.resident = false ∧ restorable s c.2 = true) ∧ headHolds s laP.part = false ∧ restoreFits s laP cs at8 = true ∧
       restoreFits s laP cs [⟨8, 0, [32]⟩] = false) := by decide +kernel
theorem witness_FrontEndAndManagementEvents_registers : sE.powered = true ∧ registerMask 0x2020 ≠ 0 ∧ registerMask 0x29D0 ≠ 0 ∧ registerMask 0x3200 ≠ 0 ∧
    (7 < 8 ∧ sE.dies.testBit 7 = true ∧ 8 % 16 ≤ 8 ∧ ∀ e ∈ sE.cohorts, e.2.resident = false) ∧ (sE.runs = [] ∧ sE.enabledDies.length = 8 ∧ 8 ∈ [1, 2, 4, 8]) ∧
    (sE.booted = true ∧ 2 ^ 34 - 1 < 2 ^ 34) ∧ sE.halted = false ∧ ({ sE with booted := false } : State).booted = false ∧
    ({ sE with powered := false } : State).powered = false := by decide +kernel
/-- A host access to an ordinary page, to one whose line is locked, and to a locked replica. -/
theorem witness_FrontEndAndManagementEvents_window :
    (lineHeld sE 0 0x1000 false [1, 3, 4] = false ∧ lineHeld sE 0 0x1007 false [1, 3, 4] = false ∧ lineHeld sE 0 0x1000 true [1, 4] = false) ∧
    (let l : Lock := { id := 6, key := kPage, off := 0x80, own := true, writer := 10, step := 2, left := [7], gid := 3, hid := 8, el := 0, pkt := none, part := 0
                       data := [], since := 0 }
     let s : State := { sPage 0xC4 with locks := [l] }
     lineHeld s 0 0x80 true [1, 4] = true ∧ lineHeld s 0 0x80 false [1, 3, 4] = true ∧ 0 < [(5 : Byte)].length) ∧
    (let s := sPage 0xC4
     s.booted = true ∧ s.powered = true ∧ 0 < s.npart ∧ lineHeld s 0 0x20 true [1, 4] = false ∧ feFind s 0 0 0x20 true [1] = none ∧
       feFind s 0 0 0x20 true [4] = some 0x40000020) ∧
    (feFind sE 0 0 (2 ^ 34 - 1) true [1] = none ∧ feFind sE 0 0 (2 ^ 34 - 1) true [4] = none ∧ lineHeld sE 0 (2 ^ 34 - 1) true [1, 4] = false) := by decide +kernel
/-- Samples: a first one, one too early, one in time; no temperature at Shutdown. -/
theorem witness_FrontEndAndManagementEvents_samples :
    (let x : Sample := { temps := List.replicate 40 0, amps := [] }
     let s : State := { sE with samples := [x], sampledAt := 0, now := 8999999 }
     sE.samples = [] ∧ s.samples ≠ [] ∧ s.now < s.sampledAt + 9000000 ∧ s.sampledAt + 9000000 ≤ ({ s with now := 9000000 } : State).now ∧
       (∀ c, c < 40 → levelOf (x.temps.getD c 0) ≠ .shutdown) ∧ 39 < x.temps.length ∧ s.dies.testBit (39 / 5) = true) ∧
    (let b := dumpBase State.reset
     let s : State := { State.reset with halted := true, mem := [(b, 0x4D), (b + 1, 0x4C), (b + 2, 0x4B), (b + 3, 0x44), (b + 4, 1)] }
     s.halted = true ∧ s.powered = true ∧ dumpKept s = true) := by decide +kernel
theorem witness_FrontEndAndManagementEvents_thermal :
    (let s : State := { sQ with therm := [(0, tHot)], now := 90000000 }
     (s.therms 0).level = .hot ∧ (s.therms 0).since + 90000000 ≤ s.now ∧ (s.therms 1).hotAsked = false) ∧
    (let s : State := { sQ with therm := [(0, { level := .critical, clock := 60, lastStep := 0 }), (1, { level := .critical, clock := 50, floorSince := some 0 }),
        (2, { temp := 759, clock := 90, coolSince := 0 })], now := 900000000 }
     (s.therms 0).level = .critical ∧ 50 < (s.therms 0).clock ∧ (s.therms 0).lastStep + 9000000 ≤ s.now ∧ (s.therms 1).floorSince = some 0 ∧
       (s.therms 1).level = .critical ∧ (s.therms 1).clock = 50 ∧ 0 + 900000000 ≤ s.now ∧ (s.therms 2).temp < 760 ∧ (s.therms 2).clock < 100 ∧
       (s.therms 2).coolSince + 90000000 ≤ s.now ∧ (s.therms 2).lastStep + 9000000 ≤ s.now) := by decide +kernel
theorem witness_FrontEndAndManagementEvents_migration :
    (let s : State := { sQ with therm := [(0, tHot)] }
     s.serving = true ∧ (s.therms 0).hotAsked = true ∧ migrating s 0 = false ∧ migrant s 0 = some (0, 1, 0) ∧ migrant s 1 = none ∧ (s.therms 1).hotAsked = false ∧
       s.launches.find 1 = some laP ∧ clusterOf 8 = 1 ∧ isCoolest s laP 0 980 1 = true ∧ (s.therms 0).temp = 980) := by decide +kernel
theorem witness_FrontEndAndManagementEvents_power :
    (let e : LogE := ⟨0, 0, 3, 0, []⟩
     let w : RootWr := ⟨0, 15, some 7, 3, 8⟩
     let s : State := { sE with mgmt := { writing := [(e, some w), (e, none)] } }
     s.mgmt.writing = (e, some w) :: [(e, none)] ∧ w.digest = some 7 ∧ ({ w with digest := none } : RootWr).digest = none) ∧ (sE.booted = true ∧ sE.powered = true ∧ sE.halted = false) ∧
    (let s : State := { sE with booted := false }
     s.booted = false ∧ s.halted = false ∧ bootSlot s.mgmt = some 0 ∧ dumpKept s = false ∧ 0 = s.mgmt.slot) ∧
    (feRead sE 0 0 0x1000 8 [1, 3, 4] = some (List.replicate 8 0) ∧ feFind sE 0 0 0x1000 true [1] = some 0x40001000 ∧ 0x1000 < 2 ^ 34 ∧ Memory.wf sE.mem = true) := by
  decide +kernel
theorem witness_FrontEndAndManagementEvents_split : sE.powered = true ∧ sE.enabledDies.length = 8 ∧ 8 ∈ [1, 2, 4, 8] ∧
    (∀ e ∈ sE.cohorts, e.2.resident = false ∧ e.2.leaving = false) ∧ sE.runs = [] ∧ ({ sE with runs := [(0, tR)] } : State).runs ≠ [] := by decide +kernel
theorem witness_StepKeepsMemoryCanonical : Memory.wf sP.mem = true ∧ Memory.wf sP.sram = true ∧
    ({ sP with agenda := [.time 4] } : State).agenda = [.time 4] := by decide +kernel
theorem witness_step_answers : (match step { sP with agenda := [.issue 0] } with
    | .next _ => true
    | _ => false) = true := by decide +kernel
theorem witness_DecodeInvertsEncode : (Instr.vaddF ⟨31, 30, 29, 7, 15⟩ 3).WellFormed ∧ (encode (.vaddF ⟨31, 30, 29, 7, 15⟩ 3)).isSome = true := by
  refine ⟨?_, by decide +kernel⟩
  dsimp only [Instr.WellFormed]
  decide +kernel
theorem witness_EncodeInvertsDecode : decode (toBytes 4 0xFFFE4003 ++ [1]) = .ok (.bra (-7), 4) := rfl
theorem witness_ImmediateMajors : ctxOf sV = some cV ∧ ((63 : Nat) < 64 ∧ (-2048 : Int) ≤ -2048 ∧ (2047 : Int) ≤ 2047 ∧ (-131072 : Int) ≤ -131072 ∧ (131071 : Int) ≤ 131071) ∧
    (0 < 1 ∧ 1 < 16) ∧ (-(2 ^ 29 : Int) ≤ -(2 ^ 29) ∧ -(2 ^ 29 : Int) ≤ 2 ^ 29 - 2049) ∧
    (let g := { gV with s := [(63, BitVec.ofInt 64 (-(2 ^ 29)))] }
     ctxOf (tS tLa tCo g tR) = some (tC tLa tCo g tR) ∧ (tC tLa tCo g tR).s 63 = BitVec.ofInt 64 (-131072 * 2 ^ 12)) := by decide +kernel
end Sys2Proof.Tests
end

section
/-! PROOFS. What the shapes of an instruction's effect make of its completion: nothing of its own, a change outside groups and runs, a change
of its run or of its group, one scalar written, a trap. The statements about instructions cite these and unfold no update of the state. -/

namespace Sys2Proof.Machine

/-- A base that keeps groups and runs holds the issuer as its context names it, and is itself a state in which nothing more has changed. -/
theorem OnlyIssuer.of_base {s base : State} {c : Ctx} (h : ctxOf s = some c) (hg : base.groups = s.groups) (hr : base.runs = s.runs) :
    OnlyIssuer c base base c.g c.run := by
  obtain ⟨-, hrun, hgrp, -⟩ := ctxOf_some h
  exact ⟨rfl, hg ▸ hgrp, fun _ _ => rfl, hr ▸ hrun, fun _ _ => rfl, fun _ => rfl⟩

/-- No write of a scalar is one of a temporary. -/
theorem isTempLoc_of_mem_wrS {d : Nat} {x : Word64} (hd : d < 64) : ∀ w ∈ wrS d x, isTempLoc w.loc = false := by
  intro w hw
  unfold wrS at hw
  split at hw
  · cases hw
  · rw [List.mem_singleton.mp hw]
    exact isTempLoc_locS hd

section Completion

variable {i : Instr} {sz : Nat} {s : State} {c : Ctx} {f : Ctx → Except Trap State}

/-- An instruction whose effect leaves groups and runs alone. -/
theorem doesOn_base {base : State} (h : ctxOf s = some c) (he : exec i s = issue sz s f) (hf : f c = .ok base)
    (hg : base.groups = s.groups) (hr : base.runs = s.runs) : DoesOn i sz c s base c.g c.run :=
  ⟨base, c.g, c.run, he.trans (issue_ok h hf), .of_base h hg hr, rfl, rfl⟩

/-- An instruction without an effect of its own. -/
theorem does_nothing (h : ctxOf s = some c) (he : exec i s = issue sz s f) (hf : f c = .ok s) : Does i sz c s c.g c.run :=
  doesOn_base h he hf rfl rfl

/-- An instruction that changes its run, and otherwise only what lies outside groups and runs. -/
theorem doesOn_updR {base : State} {u : Run → Run} (h : ctxOf s = some c) (he : exec i s = issue sz s f)
    (hf : f c = .ok (base.updR c.slot u)) (hg : base.groups = s.groups) (hr : base.runs = s.runs) :
    DoesOn i sz c s base c.g (u c.run) :=
  ⟨_, c.g, u c.run, he.trans (issue_ok h hf), (OnlyIssuer.of_base h hg hr).updR u, rfl, rfl⟩

/-- An instruction that changes its run alone. -/
theorem does_updR {u : Run → Run} (h : ctxOf s = some c) (he : exec i s = issue sz s f) (hf : f c = .ok (s.updR c.slot u)) :
    Does i sz c s c.g (u c.run) := doesOn_updR h he hf rfl rfl

/-- An instruction that changes its group alone. -/
theorem does_updG {u : Group → Group} (h : ctxOf s = some c) (he : exec i s = issue sz s f) (hf : f c = .ok (updCtxG c u s)) :
    Does i sz c s (u c.g) c.run :=
  ⟨_, u c.g, c.run, he.trans (issue_ok h hf), (OnlyIssuer.refl h).updG u, rfl, rfl⟩

/-- An instruction that writes one scalar (R70). -/
theorem does_wrS {d : Nat} {x : Word64} (h : ctxOf s = some c) (hd : d < 64) (he : exec i s = issue sz s f)
    (hf : f c = .ok (commitW c (wrS d x) s)) : Does i sz c s (c.g.sSet d x) c.run :=
  putAll_wrS c.g d x hd ▸ does_commit h he hf (isTempLoc_of_mem_wrS hd)

/-- An instruction that traps (R61). -/
theorem exec_trap {t : Trap} (h : ctxOf s = some c) (he : exec i s = issue sz s f) (hf : f c = .error t) :
    exec i s = .next (takeTrap c t s) := he.trans (issue_error h hf)

end Completion

end Sys2Proof.Machine
end

section
/-! PROOFS. The plain system instructions (R59, R87, R101, R127). -/

namespace Sys2Proof.Machine

theorem exec_nop (s : State) : exec .nop s = execNop s := rfl
theorem exec_pad (s : State) : exec .pad s = execPad s := rfl
theorem exec_exit (s : State) : exec .exit s = execExit s := rfl
theorem exec_waitdep (s : State) : exec .waitdep s = execWaitdep s := rfl
theorem exec_tkrd (d : Nat) (s : State) : exec (.tkrd d) s = execTkrd d s := rfl

/-- `BREAK` traps with its operand as DETAIL, its run already at the instruction behind it (R105). -/
theorem exec_brk {s : State} {c : Ctx} (i : Nat) (h : ctxOf s = some c) :
    exec (.brk i) s =
      .next (takeTrap { c with run := { c.run with off := c.run.off + 2 } } { code := 0x12, detail := i } s) := by
  change execBrk i s = _
  simp only [execBrk, h]

/-- Settles O5: each instruction by the shape of its effect. -/
theorem plainSystemInstructions : Obligations.PlainSystemInstructions := by
  intro s c d i h hd
  refine ⟨?nop, ?pad, ?exit, ?waitdep, ?tkrd, exec_brk i h⟩
  case nop => exact does_nothing h (exec_nop s) rfl
  case pad => exact does_nothing h (exec_pad s) rfl
  case exit => exact does_updR h (exec_exit s) rfl
  case waitdep => exact does_updR h (exec_waitdep s) rfl
  case tkrd => exact does_wrS h hd (exec_tkrd d s) rfl

end Sys2Proof.Machine
end

section
/-! PROOFS. Barriers: a change and its completion test, tickets, TARGET (R24, R25); `BAR.CHARGE` and the waits (R129, R142, R146). -/

namespace Sys2Proof.Machine

namespace Barrier

/-- A change that would leave the range of PEND, or a seventeenth arrival, sets ERR and nothing else (R25). -/
theorem change_refused {x : Barrier} {n : Int} {arr : Bool}
    (h : (arr = true ∧ x.arrived = 16) ∨ x.pend + n < -2147483648 ∨ 2147483647 < x.pend + n) :
    x.change n arr = { x with err := true } := by
  unfold change
  rcases h with harr | hrange
  · rw [if_pos harr]
  · dsimp only
    rw [if_pos hrange, ite_self]

/-- Any other change moves PEND and ARRIVED together; the completion test follows (R24). -/
theorem change_accepted {x : Barrier} {n : Int} {arr : Bool} (harr : ¬(arr = true ∧ x.arrived = 16))
    (hlo : -2147483648 ≤ x.pend + n) (hhi : x.pend + n ≤ 2147483647) :
    x.change n arr = Barrier.test { x with pend := x.pend + n, arrived := x.arrived + if arr then 1 else 0 } := by
  unfold change
  rw [if_neg harr]
  exact if_neg (by omega)

/-- A barrier that is complete starts its next generation (R24). -/
theorem test_complete {x : Barrier} (ha : x.target ≤ x.arrived) (hp : x.pend = 0) :
    x.test = { x with gen := (x.gen + 1) % 65536, arrived := 0 } := if_pos ⟨ha, hp⟩

/-- The completion test changes no other barrier. -/
theorem test_incomplete {x : Barrier} (h : x.arrived < x.target ∨ x.pend ≠ 0) : x.test = x :=
  if_neg (fun ⟨ha, hp⟩ => h.elim (fun hlt => absurd ha (Nat.not_le.mpr hlt)) (fun hne => hne hp))

/-- A ticket is passed while the generation is 1 to 32,767 beyond it, modulo 65,536 (R25). -/
theorem passed_iff {x : Barrier} {t : Nat} (hg : x.gen < 65536) (ht : t < 65536) :
    x.passed t = true ↔ ∃ k, 1 ≤ k ∧ k ≤ 32767 ∧ x.gen = (t + k) % 65536 := by
  simp only [passed, Bool.and_eq_true, decide_eq_true_eq]
  constructor
  · rintro ⟨hlo, hhi⟩
    exact ⟨_, hlo, hhi, by omega⟩
  · rintro ⟨k, hlo, hhi, hk⟩
    omega

/-- A new TARGET as R25 bounds it: zero counts as 1. -/
theorem setTarget_eq (x : Barrier) (t : Nat) :
    x.setTarget t = if 16 < t then { x with err := true } else Barrier.test { x with target := max 1 t } := by
  have hmax : (if t = 0 then 1 else t) = max 1 t := by split <;> omega
  rw [setTarget, hmax]

end Barrier

theorem exec_barCharge (a b : Nat) (s : State) : exec (.barCharge a b) s = execBarCharge a b s := rfl
theorem exec_barWait (a b : Nat) (s : State) : exec (.barWait a b) s = execBarWait a b s := rfl
theorem exec_stgWait (n k p : Nat) (s : State) : exec (.stgWait n k p) s = execStgWait n k p s := rfl

/-- `BAR.WAIT` gives its run one wait, and takes one of the model's names (R142). -/
theorem doesOn_barWait {s : State} {c : Ctx} (a b : Nat) (h : ctxOf s = some c) :
    DoesOn (.barWait a b) 4 c s { s with nextId := s.nextId + 1 } c.g { c.run with waits := c.run.waits ++
      [(if c.g.releasesBefore s.nextId then .barAfter a b s.nextId else .bar a (c.sn b % 65536) : Wait)] } :=
  doesOn_updR h (exec_barWait a b s) rfl rfl rfl

/-- Settles O10: the rules of a barrier's change by its refusals and its completion test, the instructions by the shape of their effect. -/
theorem barrierRulesAndWaits : Obligations.BarrierRulesAndWaits := by
  refine ⟨fun x n arr t => ⟨Barrier.change_refused, fun harr hlo hhi => ?changes, Barrier.passed_iff, x.setTarget_eq t⟩,
    fun s c a b k p h => ⟨?charge, fun hheld => ?now, fun hheld => ?behind, ?stage⟩⟩
  case changes =>
    rw [Barrier.change_accepted harr hlo hhi]
    exact ⟨fun ⟨hk, hp⟩ => (Barrier.test_complete hk hp).trans (by rw [hp]), fun hopen => Barrier.test_incomplete hopen⟩
  case charge => exact doesOn_base h (exec_barCharge a b s) rfl rfl rfl
  case now => simpa [hheld] using doesOn_barWait a b h
  case behind => simpa [hheld] using doesOn_barWait a b h
  case stage => exact does_updR h (exec_stgWait a k p s) rfl

end Sys2Proof.Machine
end

section
/-! PROOFS. `CSRR` and the words of the control registers with fields: `gstat`, `fstat`, the barrier state word (R23, R112, R147 to R149, R378). -/

namespace Sys2Proof.Machine

/-! ### Words as fields side by side -/

/-- A field put below the others. -/
theorem ofNat_append_ofNat (n : Nat) {m a b : Nat} (hb : b < 2 ^ m) :
    BitVec.ofNat n a ++ BitVec.ofNat m b = BitVec.ofNat (n + m) (a * 2 ^ m + b) := by
  apply BitVec.eq_of_toNat_eq
  have hlt : a % 2 ^ n * 2 ^ m + b < 2 ^ n * 2 ^ m := by
    calc a % 2 ^ n * 2 ^ m + b < (a % 2 ^ n + 1) * 2 ^ m := by rw [Nat.succ_mul]; omega
      _ ≤ 2 ^ n * 2 ^ m := Nat.mul_le_mul_right _ (Nat.mod_lt _ (Nat.two_pow_pos n))
  have hsplit : a * 2 ^ m + b = 2 ^ n * 2 ^ m * (a / 2 ^ n) + (a % 2 ^ n * 2 ^ m + b) := by
    nth_rewrite 1 [← Nat.div_add_mod a (2 ^ n)]
    ring
  rw [BitVec.toNat_append, BitVec.toNat_ofNat, BitVec.toNat_ofNat, BitVec.toNat_ofNat, Nat.mod_eq_of_lt hb,
    ← Nat.shiftLeft_add_eq_or_of_lt hb, Nat.shiftLeft_eq, pow_add, hsplit, Nat.mul_add_mod, Nat.mod_eq_of_lt hlt]

/-- A flag put below the other fields. -/
theorem ofNat_append_ofBool (n a : Nat) (b : Bool) : BitVec.ofNat n a ++ BitVec.ofBool b = BitVec.ofNat (n + 1) (a * 2 + b2n b) := by
  cases b
  · exact ofNat_append_ofNat n (m := 1) (b := 0) (by decide)
  · exact ofNat_append_ofNat n (m := 1) (b := 1) (by decide)

/-- `gstat` is its fields side by side (R112). -/
theorem gstat_fields {g : Group} {co : Cohort} {la : Launch} (hcore : co.core < 320) (hcidx : co.cidx < 4) (hidx : g.idx < 32)
    (htcoh : co.tcoh < 8) (hgidx : g.gidx < 16) (hprio : la.prio < 8) (hw : g.w ≤ 256) :
    (BitVec.ofNat 16 0 ++ BitVec.ofNat 9 co.core ++ BitVec.ofNat 2 co.cidx ++ BitVec.ofNat 5 g.idx ++ BitVec.ofNat 3 co.tcoh ++
      BitVec.ofNat 4 g.gidx ++ BitVec.ofNat 3 la.prio ++ BitVec.ofNat 2 g.role.code ++ BitVec.ofNat 7 (g.w / 16) ++ BitVec.ofNat 5 0 ++
      BitVec.ofBool g.fft ++ BitVec.ofBool g.rpz ++ BitVec.ofBool g.rstr ++ BitVec.ofBool g.trap ++ BitVec.ofNat 4 0 :
      BitVec (16 + 9 + 2 + 5 + 3 + 4 + 3 + 2 + 7 + 5 + 1 + 1 + 1 + 1 + 4)) = BitVec.ofNat 64 (gstatOf g co la) := by
  have hrole : g.role.code < 2 ^ 2 := by cases g.role <;> decide
  rw [ofNat_append_ofNat 16 (by omega), ofNat_append_ofNat _ (by omega), ofNat_append_ofNat _ (by omega), ofNat_append_ofNat _ (by omega),
    ofNat_append_ofNat _ (by omega), ofNat_append_ofNat _ (by omega), ofNat_append_ofNat _ hrole, ofNat_append_ofNat _ (by omega),
    ofNat_append_ofNat _ (by omega), ofNat_append_ofBool, ofNat_append_ofBool, ofNat_append_ofBool, ofNat_append_ofBool,
    ofNat_append_ofNat _ (by omega)]
  refine congrArg (BitVec.ofNat 64) ?_
  unfold gstatOf
  omega

/-- `fstat` is its fields side by side (R378). -/
theorem fstat_fields {f : FStat} (hrank : f.trank < 4096) (hto : f.tocnt < 65536) (hunk : f.unkcnt < 65536) :
    (BitVec.ofNat 12 f.trank ++ BitVec.ofNat 4 0 ++ BitVec.ofNat 16 f.tocnt ++ BitVec.ofNat 16 f.unkcnt ++ BitVec.ofNat 12 0 ++
      BitVec.ofBool f.nopath ++ BitVec.ofBool f.rej ++ BitVec.ofBool f.unk ++ BitVec.ofBool f.tmo :
      BitVec (12 + 4 + 16 + 16 + 12 + 1 + 1 + 1 + 1)) = BitVec.ofNat 64 f.word := by
  rw [ofNat_append_ofNat 12 (by omega), ofNat_append_ofNat _ (by omega), ofNat_append_ofNat _ (by omega), ofNat_append_ofNat _ (by omega),
    ofNat_append_ofBool, ofNat_append_ofBool, ofNat_append_ofBool, ofNat_append_ofBool]
  refine congrArg (BitVec.ofNat 64) ?_
  unfold FStat.word
  omega

/-- The state word of a barrier: PEND as a signed number above the other fields (R23). -/
theorem barrier_word_fields (x : Barrier) :
    BitVec.ofNat 64 x.word = BitVec.ofInt 64 (x.pend * 2 ^ 32) +
      BitVec.ofNat 64 (x.gen * 2 ^ 16 + (if x.err then 2 ^ 15 else 0) + x.arrived * 2 ^ 8 + x.target) := by
  have herr : b2n x.err * 2 ^ 15 = if x.err then 2 ^ 15 else 0 := by cases x.err <;> rfl
  have hpend : BitVec.ofNat 64 ((x.pend % (2 ^ 32 : Nat)).toNat * 2 ^ 32) = BitVec.ofInt 64 (x.pend * 2 ^ 32) := by
    apply BitVec.eq_of_toNat_eq
    rw [BitVec.toNat_ofNat, BitVec.toNat_ofInt]
    omega
  rw [Barrier.word, herr, ← hpend, ← BitVec.ofNat_add]
  simp only [Nat.add_assoc]

/-! ### `CSRR` -/

/-- From 0x0E on a number is looked up among the barriers, then the rings. -/
theorem csrRead_of_ge {g : Group} {co : Cohort} {la : Launch} {n : Nat} (h : 14 ≤ n) :
    csrRead g co la n = if n < 0x20 then (co.bar (n - 0x10)).word else co.ring (n - 0x20) := by
  obtain ⟨k, rfl⟩ := Nat.exists_eq_add_of_le' h
  rfl

theorem csrRead_bar {g : Group} {co : Cohort} {la : Launch} {b : Nat} (h : b < 16) : csrRead g co la (0x10 + b) = (co.bar b).word := by
  rw [csrRead_of_ge (by omega), if_pos (by omega), Nat.add_sub_cancel_left]

theorem csrRead_ring {g : Group} {co : Cohort} {la : Launch} (n : Nat) : csrRead g co la (0x20 + n) = co.ring n := by
  rw [csrRead_of_ge (by omega), if_neg (by omega), Nat.add_sub_cancel_left]

theorem exec_csrr (d n : Nat) (s : State) : exec (.csrr d n) s = execCsrr d n s := rfl

section Reads

variable {s : State} {c : Ctx} {d n : Nat}

/-- `CSRR` of a register: the scalar receives what the register reads as (R149). -/
theorem does_csrr {x : Word64} (h : ctxOf s = some c) (hd : d < 64) (hn : ¬(n = 0x0E ∨ n = 0x0F ∨ 0x28 ≤ n))
    (hx : BitVec.ofNat 64 (csrRead c.g c.co c.la n) = x) : Does (.csrr d n) 4 c s (c.g.sSet d x) c.run :=
  hx ▸ does_wrS h hd (exec_csrr d n s) (if_neg hn)

/-- `CSRR` of a number that is no register raises ILLEGAL (R149). -/
theorem exec_csrr_illegal (h : ctxOf s = some c) (hn : n = 0x0E ∨ n = 0x0F ∨ 0x28 ≤ n) :
    exec (.csrr d n) s = .next (takeTrap c { code := 0x01 } s) := exec_trap h (exec_csrr d n s) (if_pos hn)

end Reads

/-- Settles O12: `CSRR` writes what `csrRead` gives; the registers one by one, and those of several fields by their fields. -/
theorem controlRegisterReads : Obligations.ControlRegisterReads := by
  intro s c d h hd
  refine ⟨fun row hrow => ?plain, fun hcore hcidx hidx htcoh hgidx hprio hw => ?gstat, fun hrank hto hunk => ?fstat, fun b hb => ?bar,
    fun n hn => ?ring, fun n hn => exec_csrr_illegal h hn⟩
  case plain =>
    have hread : csrRead c.g c.co c.la row.1 = row.2 ∧ row.1 < 0x0E := by
      revert row
      simp [csrRead, b2n, Cohort.tvec]
    exact does_csrr h hd (by omega) (by rw [hread.1])
  case gstat => exact does_csrr h hd (by decide) (gstat_fields hcore hcidx hidx htcoh hgidx hprio hw).symm
  case fstat => exact does_csrr h hd (by decide) (fstat_fields hrank hto hunk).symm
  case bar => exact does_csrr h hd (by omega) (by rw [csrRead_bar hb, barrier_word_fields])
  case ring => exact does_csrr h hd (by omega) (by rw [csrRead_ring])

end Sys2Proof.Machine
end

section
/-! PROOFS. TLB invalidations and `PTSYNC` (R129, R150); the fabric instructions on registers (R14, R378, R386, R388). -/

namespace Sys2Proof.Machine

/-! ### Privilege and role -/

theorem exec_tlbiVa (a b : Nat) (s : State) : exec (.tlbiVa a b) s = execTlbiVa a b s := rfl
theorem exec_tlbiAsid (a : Nat) (s : State) : exec (.tlbiAsid a) s = execTlbiAsid a s := rfl
theorem exec_ptsync (s : State) : exec .ptsync s = execPtsync s := rfl
theorem exec_fxstat (d : Nat) (s : State) : exec (.fxstat d) s = execFxstat d s := rfl
theorem exec_fxclr (a : Nat) (s : State) : exec (.fxclr a) s = execFxclr a s := rfl
theorem exec_fxrank (d : Nat) (s : State) : exec (.fxrank d) s = execFxrank d s := rfl
theorem exec_fxpath (d a : Nat) (s : State) : exec (.fxpath d a) s = execFxpath d a s := rfl
theorem exec_fxcnt (d k : Nat) (s : State) : exec (.fxcnt d k) s = execFxcnt d k s := rfl
theorem exec_fxsto (d b : Nat) (s : State) : exec (.fxsto d b) s = execFxsto d b s := rfl
theorem exec_fxstoRel (d b : Nat) (s : State) : exec (.fxstoRel d b) s = execFxstoRel d b s := rfl

section Checks

variable {i : Instr} {s : State} {c : Ctx} {f : Ctx → Except Trap State}

/-- A privileged instruction outside a privileged launch raises PERM (R150). -/
theorem exec_priv_trap (h : ctxOf s = some c) (he : exec i s = privIssue s f) (hp : c.la.priv = false) :
    exec i s = .next (takeTrap c { code := 0x09, detail := 1 } s) :=
  exec_trap h he (if_neg (by rw [hp]; exact Bool.false_ne_true))

/-- A fabric instruction in a group of another role raises ROLE (R14). -/
theorem exec_fabric_trap (h : ctxOf s = some c) (he : exec i s = fxIssue s f) (hr : c.g.role ≠ .vector) :
    exec i s = .next (takeTrap c { code := 0x05 } s) := exec_trap h he (if_neg hr)

/-- A fabric instruction that writes one scalar. -/
theorem does_fabric_wrS {d : Nat} {x : Word64} (h : ctxOf s = some c) (hd : d < 64) (hr : c.g.role = .vector)
    (he : exec i s = fxIssue s f) (hf : f c = .ok (commitW c (wrS d x) s)) : Does i 4 c s (c.g.sSet d x) c.run :=
  does_wrS h hd he ((if_pos hr).trans hf)

/-- A TLB invalidation completes: its translations go at once, and the run waits for the end of the invalidation (R129, R150). -/
theorem doesOn_tlbi {asid : Ctx → Nat} {page : Ctx → Option Nat} (h : ctxOf s = some c) (he : exec i s = tlbi asid page s)
    (hp : c.la.priv = true) :
    DoesOn i 4 c s { invalidate (s.partOf c.co.core) (asid c) (page c) s with nextId := s.nextId + 1 } c.g
      { c.run with waits := c.run.waits ++ [.tlbi s.nextId] } :=
  doesOn_updR h he (if_pos hp) rfl rfl

end Checks

/-! ### What an invalidation drops -/

theorem mem_invalidate_walks {part asid : Nat} {page : Option Nat} {s : State} {e : WalkE} :
    e ∈ (invalidate part asid page s).walks ↔ e ∈ s.walks ∧ ¬(e.part = part ∧ e.asid = asid) := by
  simp [invalidate, -not_and, not_and_or]

theorem mem_invalidate_page_tlb {part asid va : Nat} {s : State} {e : TlbE} :
    e ∈ (invalidate part asid (some va) s).tlb ↔
      e ∈ s.tlb ∧ ¬(e.part = part ∧ e.asid = asid ∧ e.page = va / 2 ^ pageBits e.lvl) := by
  simp [invalidate, -not_and, not_and_or, or_assoc]

theorem mem_invalidate_asid_tlb {part asid : Nat} {s : State} {e : TlbE} :
    e ∈ (invalidate part asid none s).tlb ↔ e ∈ s.tlb ∧ ¬(e.part = part ∧ e.asid = asid) := by
  simp [invalidate, -not_and, not_and_or]

/-! ### Fabric registers -/

/-- `FXCLR` field by field (R378, R386). -/
theorem FStat.clear_eq (f : FStat) (x : Nat) :
    f.clear x = { f with tmo := f.tmo && !x.testBit 0, tocnt := if x.testBit 0 then 0 else f.tocnt
                         unk := f.unk && !x.testBit 1, unkcnt := if x.testBit 1 then 0 else f.unkcnt
                         rej := f.rej && !x.testBit 2, nopath := f.nopath && !x.testBit 3 } := by
  unfold FStat.clear
  cases x.testBit 0 <;> cases x.testBit 1 <;> simp

/-- The sum of the powers of two of a rising list has a one bit exactly at its members. -/
theorem testBit_foldl_two_pow {l : List Nat} (hl : l.SortedLT) (p : Nat) :
    (l.foldl (fun x k => x + 2 ^ k) 0).testBit p = decide (p ∈ l) := by
  rw [← List.foldl_map (f := fun k => 2 ^ k), ← List.sum_eq_foldl, Bool.eq_iff_iff, ← Nat.mem_bitIndices,
    Nat.bitIndices_sum_map_two_pow hl, decide_eq_true_iff]

/-- Live paths are listed in rising order. -/
theorem sortedLT_livePaths (s : State) (part rank : Nat) : (livePaths s part rank).SortedLT := by
  unfold livePaths
  split
  · exact List.Pairwise.sortedLT .nil
  · exact ((List.pairwise_lt_range (n := 4)).filter _).sortedLT

/-- Settles O15: the privileged instructions by what an invalidation drops, the fabric instructions by what they write. -/
theorem privilegedAndFabricRegisters : Obligations.PrivilegedAndFabricRegisters := by
  refine ⟨fun s c a b h => ⟨fun hp => ⟨?va, ?asid, fun hstq hwait => ?ptsync, ?held⟩, fun hp => ?perm⟩,
    fun s c d a k h hd => ⟨fun hr => ⟨?fxstat, ?fxclr, fun r hrank => ?rank, fun hrank => ?norank, fun hsn => ?far, fun hsn => ?near, ?fxcnt⟩,
      fun hr => ?role⟩⟩
  case va => exact ⟨_, doesOn_tlbi h (exec_tlbiVa a b s) hp, rfl, fun e => mem_invalidate_page_tlb,
    fun e => mem_invalidate_walks (page := some (c.sn b % 2 ^ 60))⟩
  case asid => exact ⟨_, doesOn_tlbi h (exec_tlbiAsid a s) hp, rfl, fun e => mem_invalidate_asid_tlb, fun e => mem_invalidate_walks (page := none)⟩
  case ptsync => exact does_nothing h (exec_ptsync s) ((if_pos hp).trans (by simp [hstq, hwait]))
  case held => exact ⟨_, (exec_ptsync s).trans (issue_ok h (if_pos hp))⟩
  case perm =>
    simp only [List.forall_mem_cons]
    exact ⟨exec_priv_trap h (exec_tlbiVa a b s) hp, exec_priv_trap h (exec_tlbiAsid a s) hp, exec_priv_trap h (exec_ptsync s) hp, nofun⟩
  case fxstat => exact does_fabric_wrS h hd hr (exec_fxstat d s) rfl
  case fxclr => exact FStat.clear_eq c.g.fstat (c.sn a) ▸ does_updG h (exec_fxclr a s) (if_pos hr)
  case rank => exact does_fabric_wrS h hd hr (exec_fxrank d s) (by rw [hrank, Nat.add_comm])
  case norank => exact does_fabric_wrS h hd hr (exec_fxrank d s) (by rw [hrank])
  case far => exact does_fabric_wrS h hd hr (exec_fxpath d a s) (by dsimp only; rw [if_neg (by omega)]; rfl)
  case near =>
    refine ⟨_, does_fabric_wrS h hd hr (exec_fxpath d a s) rfl, fun p hp => ?_⟩
    rw [if_pos (by omega), BitVec.getLsbD_ofNat, testBit_foldl_two_pow (sortedLT_livePaths ..)]
    simp [hp]
  case fxcnt => exact does_fabric_wrS h hd hr (exec_fxcnt d k s) rfl
  case role =>
    simp only [List.forall_mem_cons]
    exact ⟨exec_fabric_trap h (exec_fxstat d s) hr, exec_fabric_trap h (exec_fxclr a s) hr, exec_fabric_trap h (exec_fxrank d s) hr,
      exec_fabric_trap h (exec_fxpath d a s) hr, exec_fabric_trap h (exec_fxcnt d k s) hr, exec_fabric_trap h (exec_fxsto d a s) hr,
      exec_fabric_trap h (exec_fxstoRel d a s) hr, nofun⟩

end Sys2Proof.Machine
end

section
/-! PROOFS. `CSRW`, `CSRSET` and `CSRCLR`, register by register (R35, R39, R47, R104 to R106, R138, R147 to R149, R280, R378). -/

namespace Sys2Proof.Machine

/-! ### Bits of a number under a mask -/

/-- What lies outside a mask is clear before the bits under it are set. -/
theorem or_and_mask (old x m : Nat) : (old &&& m ||| x) &&& m = (old ||| x) &&& m := by
  apply Nat.eq_of_testBit_eq
  intro i
  simp only [Nat.testBit_and, Nat.testBit_or]
  cases m.testBit i <;> simp

/-- Clearing, under a mask, the bits a number has. -/
theorem clear_and_mask (old x m : Nat) : old &&& m &&& (old &&& m ^^^ x) &&& m = old &&& (m ^^^ x &&& m) := by
  apply Nat.eq_of_testBit_eq
  intro i
  simp only [Nat.testBit_and, Nat.testBit_xor]
  cases m.testBit i <;> cases old.testBit i <;> simp

/-- The complement of the low `n` bits within them. -/
theorem two_pow_sub_one_xor_and (n x : Nat) : 2 ^ n - 1 ^^^ x &&& (2 ^ n - 1) = 2 ^ n - 1 - x % 2 ^ n := by
  have hx : x % 2 ^ n < 2 ^ n := Nat.mod_lt _ (Nat.two_pow_pos n)
  apply Nat.eq_of_testBit_eq
  intro i
  rw [show 2 ^ n - 1 - x % 2 ^ n = 2 ^ n - (x % 2 ^ n + 1) by omega, Nat.testBit_two_pow_sub_succ hx]
  simp only [Nat.testBit_xor, Nat.testBit_and, Nat.testBit_two_pow_sub_one, Nat.testBit_mod_two_pow]
  cases decide (i < n) <;> simp

/-- A flag as its bit. -/
theorem and_one_beq_one (x : Nat) : (x &&& 1 == 1) = x.testBit 0 := by
  rw [Nat.and_one_is_mod, Nat.testBit_zero]
  rfl

theorem testBit_zero_b2n (b : Bool) : (b2n b).testBit 0 = b := by cases b <;> rfl

/-! ### The three forms -/

/-- From 0x0E on a number is looked up among the barriers; the rings have no field to write. -/
theorem csrStore_of_ge {c : Ctx} {n v w1c : Nat} {s : State} (h : 14 ≤ n) :
    csrStore c n v w1c true s = if 0x10 ≤ n ∧ n < 0x20 then
      updBar c.g.cid (n - 0x10) (fun x => Barrier.setTarget { x with err := x.err && !w1c.testBit 15 } (v % 32)) s else s := by
  obtain ⟨k, rfl⟩ := Nat.exists_eq_add_of_le' h
  rfl

/-- TARGET is what a barrier's word has to write (R23). -/
theorem csrRW_bar {b : Nat} (h : b < 16) : csrRW (0x10 + b) = 2 ^ 5 - 1 := by
  have hge {n : Nat} (hn : 14 ≤ n) : csrRW n = if 0x10 ≤ n ∧ n < 0x20 then 0x1F else 0 := by
    obtain ⟨k, rfl⟩ := Nat.exists_eq_add_of_le' hn
    rfl
  rw [hge (by omega), if_pos (by omega)]
  rfl

/-- The RW bits a control register receives: `f` of its old ones and the scalar (R149). -/
def csrNew (c : Ctx) (a n : Nat) (f : Nat → Nat → Nat) : Nat := f (csrRead c.g c.co c.la n &&& csrRW n) (c.sn a) &&& csrRW n

theorem exec_csrw (a n : Nat) (s : State) : exec (.csrw a n) s = csrWrite a n (fun _ x => x) true s := rfl
theorem exec_csrset (a n : Nat) (s : State) : exec (.csrset a n) s = csrWrite a n (fun old x => old ||| x) false s := rfl
theorem exec_csrclr (a n : Nat) (s : State) : exec (.csrclr a n) s = csrWrite a n (fun old x => old &&& (old ^^^ x)) false s := rfl

theorem csrNew_csrw (c : Ctx) (a n : Nat) : csrNew c a n (fun _ x => x) = c.sn a &&& csrRW n := rfl
theorem csrNew_csrset (c : Ctx) (a n : Nat) :
    csrNew c a n (fun old x => old ||| x) = (csrRead c.g c.co c.la n ||| c.sn a) &&& csrRW n := or_and_mask _ _ _
theorem csrNew_csrclr (c : Ctx) (a n : Nat) :
    csrNew c a n (fun old x => old &&& (old ^^^ x)) = csrRead c.g c.co c.la n &&& (csrRW n ^^^ c.sn a &&& csrRW n) :=
  clear_and_mask _ _ _

/-- The RW bits of a register whose RW field is its low `k` bits. -/
theorem csrNew_csrw_low (c : Ctx) (a : Nat) {n k : Nat} (hm : csrRW n = 2 ^ k - 1) :
    csrNew c a n (fun _ x => x) = c.sn a % 2 ^ k := by rw [csrNew_csrw, hm, Nat.and_two_pow_sub_one_eq_mod]
theorem csrNew_csrset_low (c : Ctx) (a : Nat) {n k old : Nat} (hm : csrRW n = 2 ^ k - 1) (ho : csrRead c.g c.co c.la n % 2 ^ k = old % 2 ^ k) :
    csrNew c a n (fun old x => old ||| x) = (old ||| c.sn a) % 2 ^ k := by
  rw [csrNew_csrset, hm, Nat.and_two_pow_sub_one_eq_mod, Nat.or_mod_two_pow, ho, ← Nat.or_mod_two_pow]
theorem csrNew_csrclr_low (c : Ctx) (a : Nat) {n k old : Nat} (hm : csrRW n = 2 ^ k - 1) (ho : csrRead c.g c.co c.la n % 2 ^ k = old) :
    csrNew c a n (fun old x => old &&& (old ^^^ x)) = old &&& (2 ^ k - 1 - c.sn a % 2 ^ k) := by
  have hlt : 2 ^ k - 1 - c.sn a % 2 ^ k < 2 ^ k := by have := Nat.two_pow_pos k; omega
  rw [csrNew_csrclr, hm, two_pow_sub_one_xor_and, ← Nat.mod_eq_of_lt (Nat.and_lt_two_pow _ hlt), Nat.and_mod_two_pow, ho,
    Nat.mod_eq_of_lt hlt]

/-- The RW bits of a register that is one word. -/
theorem ofNat_csrNew_csrw (c : Ctx) (a n : Nat) : BitVec.ofNat 64 (csrNew c a n (fun _ x => x)) = c.s a &&& BitVec.ofNat 64 (csrRW n) := by
  rw [csrNew_csrw, BitVec.ofNat_and, Ctx.sn, BitVec.ofNat_toNat, BitVec.setWidth_eq]
theorem ofNat_csrNew_csrset {c : Ctx} (a : Nat) {n : Nat} {r : Word64} (hr : csrRead c.g c.co c.la n = r.toNat) :
    BitVec.ofNat 64 (csrNew c a n (fun old x => old ||| x)) = (r ||| c.s a) &&& BitVec.ofNat 64 (csrRW n) := by
  rw [csrNew_csrset, hr, BitVec.ofNat_and, BitVec.ofNat_or, Ctx.sn, BitVec.ofNat_toNat, BitVec.ofNat_toNat, BitVec.setWidth_eq,
    BitVec.setWidth_eq]
theorem ofNat_csrNew_csrclr {c : Ctx} (a : Nat) {n : Nat} {r : Word64} (hr : csrRead c.g c.co c.la n = r.toNat) :
    BitVec.ofNat 64 (csrNew c a n (fun old x => old &&& (old ^^^ x))) = (r &&& ~~~c.s a) &&& BitVec.ofNat 64 (csrRW n) := by
  rw [csrNew_csrclr, hr, BitVec.ofNat_and, BitVec.ofNat_xor, BitVec.ofNat_and, Ctx.sn, BitVec.ofNat_toNat, BitVec.ofNat_toNat,
    BitVec.setWidth_eq, BitVec.setWidth_eq]
  ext i hi
  simp only [BitVec.getElem_and, BitVec.getElem_xor, BitVec.getElem_not]
  cases (BitVec.ofNat 64 (csrRW n))[i] <;> simp

/-- The new value of a register that is one flag. -/
theorem csrNew_csrset_flag {c : Ctx} (a : Nat) {n : Nat} {b : Bool} (hm : csrRW n = 1) (hr : csrRead c.g c.co c.la n = b2n b) :
    (csrNew c a n (fun old x => old ||| x) == 1) = (b || (c.sn a).testBit 0) := by
  rw [csrNew_csrset, hm, hr, and_one_beq_one, Nat.testBit_or, testBit_zero_b2n]
theorem csrNew_csrclr_flag {c : Ctx} (a : Nat) {n : Nat} {b : Bool} (hm : csrRW n = 1) (hr : csrRead c.g c.co c.la n = b2n b) :
    (csrNew c a n (fun old x => old &&& (old ^^^ x)) == 1) = (b && !(c.sn a).testBit 0) := by
  rw [csrNew, hm, hr, and_one_beq_one, Nat.testBit_and, Nat.testBit_xor, Nat.testBit_and, testBit_zero_b2n, Nat.testBit_one_zero, Bool.and_true]
  cases b <;> simp

section Writes

variable {i : Instr} {s : State} {c : Ctx} {a n v : Nat} {f : Nat → Nat → Nat} {w1c : Bool}

/-- A write form of a number that is no register raises ILLEGAL. -/
theorem exec_csrWrite_illegal (h : ctxOf s = some c) (he : exec i s = csrWrite a n f w1c s) (hn : n = 0x0E ∨ n = 0x0F ∨ 0x28 ≤ n) :
    exec i s = .next (takeTrap c { code := 0x01 } s) := exec_trap h he (if_pos hn)

/-- A `vtype` with a reserved SEW raises ILLEGAL (R138). -/
theorem exec_csrWrite_vtype_illegal (h : ctxOf s = some c) (he : exec i s = csrWrite a 0x01 f w1c s) (hv : csrNew c a 0x01 f = v)
    (hsew : 5 ≤ v % 8) : exec i s = .next (takeTrap c { code := 0x01 } s) :=
  exec_trap h he ((if_neg (by decide)).trans (if_pos ⟨rfl, show 5 ≤ csrNew c a 0x01 f % 8 from hv.symm ▸ hsew⟩))

/-- Any other write stores the RW bits and clears W1C fields. -/
theorem csrWrite_effect (hn : ¬(n = 0x0E ∨ n = 0x0F ∨ 0x28 ≤ n)) (hsew : n = 0x01 → v % 8 < 5) (hv : csrNew c a n f = v) :
    (if n = 0x0E ∨ n = 0x0F ∨ 0x28 ≤ n then .error .illegal
      else if n = 0x01 ∧ 5 ≤ csrNew c a n f % 8 then .error .illegal
      else .ok (csrStore c n (csrNew c a n f) (if w1c then c.sn a else 0) true s) : Except Trap State) =
      .ok (csrStore c n v (if w1c then c.sn a else 0) true s) := by
  rw [if_neg hn, if_neg (fun hr => by have := hsew hr.1; omega), hv]

/-- A write of a register of the group. -/
theorem does_csr {u : Group → Group} (h : ctxOf s = some c) (he : exec i s = csrWrite a n f w1c s) (hn : n < 0x0E) (hn1 : n ≠ 0x01)
    (hv : csrNew c a n f = v) (hu : csrStore c n v (if w1c then c.sn a else 0) true s = updCtxG c u s) : Does i 4 c s (u c.g) c.run :=
  does_updG h he ((csrWrite_effect (by omega) (fun h1 => absurd h1 hn1) hv).trans (congrArg _ hu))

/-- A write of a register that has no field to write (R148: `vl`, the ring words). -/
theorem does_csr_nothing (h : ctxOf s = some c) (he : exec i s = csrWrite a n f w1c s) (hn : n = 0x00 ∨ 0x20 ≤ n ∧ n < 0x28) :
    Does i 4 c s c.g c.run := by
  refine does_nothing h he ((csrWrite_effect (by omega) (by omega) rfl).trans (congrArg _ ?_))
  rcases hn with rfl | ⟨hlo, hhi⟩
  · rfl
  · rw [csrStore_of_ge (by omega), if_neg (by omega)]

/-- `vtype` with a SEW that is not reserved bounds `vl` (R138). -/
theorem does_csr_vtype (h : ctxOf s = some c) (he : exec i s = csrWrite a 0x01 f w1c s) (hvl : c.g.vl < 2 ^ 64) (hsew : v % 8 < 5)
    (hv : csrNew c a 0x01 f = v) :
    Does i 4 c s { c.g with vtype := v, vl := min c.g.vl (1024 / (4 * 2 ^ (v % 8)) * 2 ^ (v / 8 % 4)) } c.run := by
  obtain ⟨s1, g, r, hnext, honly, hg, hr⟩ := does_updG (u := fun g => { g with vtype := v }.write ⟨locVl, 2 ^ 64 - 1, min g.vl (vlmaxOf v)⟩)
    h he ((csrWrite_effect (by decide) (fun _ => hsew) hv).trans rfl)
  refine ⟨s1, g, r, hnext, honly, hg.trans ((write_unnoted _ _).trans ?_), hr⟩
  have hmerge : merge c.g.vl ⟨locVl, 2 ^ 64 - 1, min c.g.vl (vlmaxOf v)⟩ = min c.g.vl (vlmaxOf v) :=
    merge_full locVl hvl (lt_of_le_of_lt (Nat.min_le_left _ _) hvl)
  exact congrArg (fun x => Group.unnoted { c.g with vtype := v, vl := x }) hmerge

theorem does_csr_frm (h : ctxOf s = some c) (he : exec i s = csrWrite a 0x02 f w1c s) (hv : csrNew c a 0x02 f = v) :
    Does i 4 c s { c.g with frm := if v % 8 < 5 then v else v / 8 * 8 + c.g.frm % 8 } c.run := by
  have hfrm : (if v % 8 < 5 then v else v / 8 * 8 + c.g.frm % 8) = v / 8 * 8 + (if v % 8 < 5 then v % 8 else c.g.frm % 8) := by
    split <;> omega
  rw [hfrm]
  exact does_csr (u := fun g => { g with frm := v / 8 * 8 + (if v % 8 < 5 then v % 8 else g.frm % 8) }) h he (by decide) (by decide) hv rfl

theorem does_csr_fflags (h : ctxOf s = some c) (he : exec i s = csrWrite a 0x03 f w1c s) (hv : csrNew c a 0x03 f = v) :
    Does i 4 c s { c.g with fflags := v } c.run :=
  does_csr (u := fun g => { g with fflags := v }) h he (by decide) (by decide) hv rfl

theorem does_csr_sat (h : ctxOf s = some c) (he : exec i s = csrWrite a 0x04 f w1c s) (hv : csrNew c a 0x04 f = v) :
    Does i 4 c s { c.g with sat := v == 1 } c.run :=
  does_csr (u := fun g => { g with sat := v == 1 }) h he (by decide) (by decide) hv rfl

theorem does_csr_sgen (h : ctxOf s = some c) (he : exec i s = csrWrite a 0x05 f w1c s) (hv : csrNew c a 0x05 f = v) :
    Does i 4 c s { c.g with sgen := if v = 0 then 1 else v } c.run :=
  does_csr (u := fun g => { g with sgen := if v = 0 then 1 else v }) h he (by decide) (by decide) hv rfl

theorem does_csr_dmode (h : ctxOf s = some c) (he : exec i s = csrWrite a 0x06 f w1c s) (hv : csrNew c a 0x06 f = v) :
    Does i 4 c s { c.g with dmode := v == 1 } c.run :=
  does_csr (u := fun g => { g with dmode := v == 1 }) h he (by decide) (by decide) hv rfl

/-- The error bits of `gstat` are W1C (R112). -/
theorem does_csr_gstat {x : Nat} (h : ctxOf s = some c) (he : exec i s = csrWrite a 0x07 f w1c s) (hx : (if w1c then c.sn a else 0) = x) :
    Does i 4 c s { c.g with rstr := c.g.rstr && !x.testBit 5, rpz := c.g.rpz && !x.testBit 6, fft := c.g.fft && !x.testBit 7 } c.run :=
  does_csr (u := fun g => { g with rstr := g.rstr && !x.testBit 5, rpz := g.rpz && !x.testBit 6, fft := g.fft && !x.testBit 7 }) h he
    (by decide) (by decide) rfl (hx ▸ rfl)

theorem does_csr_fstat {x : Nat} (h : ctxOf s = some c) (he : exec i s = csrWrite a 0x08 f w1c s) (hx : (if w1c then c.sn a else 0) = x) :
    Does i 4 c s { c.g with fstat := c.g.fstat.clear x } c.run :=
  does_csr (u := fun g => { g with fstat := g.fstat.clear x }) h he (by decide) (by decide) rfl (hx ▸ rfl)

theorem does_csr_tcause (h : ctxOf s = some c) (he : exec i s = csrWrite a 0x09 f w1c s) (hv : csrNew c a 0x09 f = v) :
    Does i 4 c s { c.g with tcause := BitVec.ofNat 64 v } c.run :=
  does_csr (u := fun g => { g with tcause := BitVec.ofNat 64 v }) h he (by decide) (by decide) hv rfl

theorem does_csr_tepc (h : ctxOf s = some c) (he : exec i s = csrWrite a 0x0A f w1c s) (hv : csrNew c a 0x0A f = v) :
    Does i 4 c s { c.g with tepc := BitVec.ofNat 64 v } c.run :=
  does_csr (u := fun g => { g with tepc := BitVec.ofNat 64 v }) h he (by decide) (by decide) hv rfl

theorem does_csr_tlanes (h : ctxOf s = some c) (he : exec i s = csrWrite a 0x0B f w1c s) (hv : csrNew c a 0x0B f = v) :
    Does i 4 c s { c.g with tlanes := BitVec.ofNat 64 v } c.run :=
  does_csr (u := fun g => { g with tlanes := BitVec.ofNat 64 v }) h he (by decide) (by decide) hv rfl

theorem does_csr_taddr (h : ctxOf s = some c) (he : exec i s = csrWrite a 0x0C f w1c s) (hv : csrNew c a 0x0C f = v) :
    Does i 4 c s { c.g with taddr := BitVec.ofNat 64 v } c.run :=
  does_csr (u := fun g => { g with taddr := BitVec.ofNat 64 v }) h he (by decide) (by decide) hv rfl

theorem doesOn_csr_tvec (h : ctxOf s = some c) (he : exec i s = csrWrite a 0x0D f w1c s) (hv : csrNew c a 0x0D f = v) :
    DoesOn i 4 c s (s.updC c.g.cid (fun co => { co with tvecEn := v.testBit 63, tvecWord := v % 2 ^ 32 })) c.g c.run :=
  doesOn_base h he ((csrWrite_effect (n := 0x0D) (by decide) (fun h1 => absurd h1 (by decide)) hv).trans rfl) rfl rfl

/-- A barrier: ERR is W1C, TARGET is written as R25 bounds it. -/
theorem doesOn_csr_bar {b x : Nat} (h : ctxOf s = some c) (hb : b < 16) (he : exec i s = csrWrite a (0x10 + b) f w1c s)
    (hv : csrNew c a (0x10 + b) f = v) (hlt : v < 32) (hx : (if w1c then c.sn a else 0) = x) :
    DoesOn i 4 c s (updBar c.g.cid b (fun y => Barrier.setTarget { y with err := y.err && !x.testBit 15 } v) s) c.g c.run := by
  refine doesOn_base h he ((csrWrite_effect (by omega) (by omega) hv).trans (congrArg _ ?_)) rfl rfl
  rw [csrStore_of_ge (by omega), if_pos (by omega), hx, Nat.add_sub_cancel_left, Nat.mod_eq_of_lt hlt]

end Writes


/-! ### Values of the RW fields -/

/-- The RW bits of `vtype` with its SEW (R138). -/
theorem and_vtype_mod (x : Nat) : (x &&& 0xDF) % 8 = x % 8 := by
  rw [show 8 = 2 ^ 3 by rfl, Nat.and_mod_two_pow]
  exact Nat.and_two_pow_sub_one_eq_mod _ 3 |>.trans (Nat.mod_mod _ _)

theorem mod_and_vtype (x : Nat) : x % 256 &&& 0xDF = x &&& 0xDF := by
  have h := Nat.and_mod_two_pow (a := x) (b := 0xDF) (n := 8)
  rw [Nat.mod_eq_of_lt (Nat.and_lt_two_pow x (show 0xDF < 2 ^ 8 by decide))] at h
  exact h.symm

/-- The enable bit and the word index of `tvec` (R148). -/
theorem testBit_and_tvec (x : Nat) : (x &&& csrRW 0x0D).testBit 63 = x.testBit 63 := by
  rw [Nat.testBit_and, show (csrRW 0x0D).testBit 63 = true by decide, Bool.and_true]
theorem and_tvec_mod (x : Nat) : (x &&& csrRW 0x0D) % 2 ^ 32 = x % 2 ^ 32 := by
  rw [Nat.and_mod_two_pow]
  exact Nat.and_two_pow_sub_one_eq_mod _ 32 |>.trans (Nat.mod_mod _ _)

theorem testBit_tvec {co : Cohort} (h : co.tvecWord < 2 ^ 32) : co.tvec.testBit 63 = co.tvecEn := by
  have hlt : co.tvecWord < 2 ^ 63 := by omega
  unfold Cohort.tvec
  cases co.tvecEn
  · simp [b2n, Nat.testBit_lt_two_pow hlt]
  · rw [b2n, if_pos rfl, Nat.one_mul, Nat.testBit_two_pow_add_eq, Nat.testBit_lt_two_pow hlt, Bool.not_false]

theorem tvec_mod {co : Cohort} (h : co.tvecWord < 2 ^ 32) : co.tvec % 2 ^ 32 = co.tvecWord := by
  unfold Cohort.tvec
  omega

theorem testBit_clear_tvec (x : Nat) : (csrRW 0x0D ^^^ x &&& csrRW 0x0D).testBit 63 = !x.testBit 63 := by
  rw [Nat.testBit_xor, testBit_and_tvec, show (csrRW 0x0D).testBit 63 = true by decide, Bool.true_xor]

theorem clear_tvec_mod (x : Nat) : (csrRW 0x0D ^^^ x &&& csrRW 0x0D) % 2 ^ 32 = 2 ^ 32 - 1 - x % 2 ^ 32 := by
  rw [Nat.xor_mod_two_pow, Nat.and_mod_two_pow, show csrRW 0x0D % 2 ^ 32 = 2 ^ 32 - 1 by decide, two_pow_sub_one_xor_and, Nat.mod_mod]

/-- Settles O13: each form gives a register's RW field its new value, and the register takes it by its own rule. -/
theorem controlRegisterWriteForms : Obligations.ControlRegisterWriteForms := by
  refine ⟨fun s c a h hvl => ?write, fun s c a h hvl => ?modify⟩
  case write =>
    have low {n k : Nat} (hm : csrRW n = 2 ^ k - 1) := csrNew_csrw_low c a hm
    refine ⟨?vl, fun hsew => ?vtype, fun hsew => ?reserved, fun hrm => ?frm, fun hrm => ?keeps, ?fflags, ?sat, ?sgen, ?dmode, ?gstat, ?fstat,
      ?tcause, ?tepc, ?tlanes, ?taddr, ?tvec, fun b hb => ?bar, fun n hn => ?ring⟩
    case vl => exact does_csr_nothing h (exec_csrw a 0x00 s) (by decide)
    case vtype =>
      refine does_csr_vtype h (exec_csrw a 0x01 s) hvl ?_ ((csrNew_csrw c a 1).trans (mod_and_vtype _).symm)
      rw [mod_and_vtype, and_vtype_mod]
      exact hsew
    case reserved => exact exec_csrWrite_vtype_illegal h (exec_csrw a 0x01 s) rfl (by rw [csrNew_csrw]; exact (and_vtype_mod _).symm ▸ hsew)
    case frm =>
      have hdoes := does_csr_frm h (exec_csrw a 0x02 s) (low (k := 4) rfl)
      rw [if_pos (by omega)] at hdoes
      exact hdoes
    case keeps =>
      have hdoes := does_csr_frm h (exec_csrw a 0x02 s) (low (k := 4) rfl)
      rw [if_neg (by omega), show c.sn a % 2 ^ 4 / 8 = c.sn a / 8 % 2 by omega] at hdoes
      exact hdoes
    case fflags => exact does_csr_fflags h (exec_csrw a 0x03 s) (low (k := 5) rfl)
    case sat => exact and_one_beq_one (c.sn a) ▸ does_csr_sat h (exec_csrw a 0x04 s) rfl
    case sgen => exact does_csr_sgen h (exec_csrw a 0x05 s) (low (k := 32) rfl)
    case dmode => exact and_one_beq_one (c.sn a) ▸ does_csr_dmode h (exec_csrw a 0x06 s) rfl
    case gstat => exact does_csr_gstat h (exec_csrw a 0x07 s) rfl
    case fstat => exact FStat.clear_eq c.g.fstat (c.sn a) ▸ does_csr_fstat h (exec_csrw a 0x08 s) rfl
    case tcause => exact ofNat_csrNew_csrw c a 0x09 ▸ does_csr_tcause h (exec_csrw a 0x09 s) rfl
    case tepc => exact ofNat_csrNew_csrw c a 0x0A ▸ does_csr_tepc h (exec_csrw a 0x0A s) rfl
    case tlanes => exact (ofNat_csrNew_csrw c a 0x0B).trans BitVec.and_allOnes ▸ does_csr_tlanes h (exec_csrw a 0x0B s) rfl
    case taddr => exact (ofNat_csrNew_csrw c a 0x0C).trans BitVec.and_allOnes ▸ does_csr_taddr h (exec_csrw a 0x0C s) rfl
    case tvec =>
      have hdoes := doesOn_csr_tvec h (exec_csrw a 0x0D s) (csrNew_csrw c a 0x0D)
      rw [testBit_and_tvec, and_tvec_mod] at hdoes
      exact hdoes
    case bar =>
      have hdoes := doesOn_csr_bar h hb (exec_csrw a (0x10 + b) s) (low (k := 5) (csrRW_bar hb)) (Nat.mod_lt _ (by decide)) rfl
      simp only [Barrier.setTarget_eq] at hdoes
      exact hdoes
    case ring => exact does_csr_nothing h (exec_csrw a (0x20 + n) s) (by omega)
  case modify =>
    refine ⟨fun n hn => ?none, ?vtype, ?frm, ?sgen, ?dmodeSet, ?dmodeClr, ?tcauseSet, ?tcauseClr, ?tepcSet, ?tepcClr, ?taddrSet, ?taddrClr,
      fun hw => ?tvec, fun b hb ht => ?bar, fun hf => ?fflags, ?satSet, ?satClr, ?gstatSet, ?gstatClr, ?fstatSet, ?fstatClr, ?tlanesSet,
      ?tlanesClr, fun n hn => ?illegal⟩
    case none => exact ⟨does_csr_nothing h (exec_csrset a n s) hn, does_csr_nothing h (exec_csrclr a n s) hn⟩
    case vtype =>
      simp only [List.forall_mem_cons]
      exact ⟨⟨fun hsew => does_csr_vtype h (exec_csrset a 0x01 s) hvl hsew (csrNew_csrset c a 0x01),
          exec_csrWrite_vtype_illegal h (exec_csrset a 0x01 s) (csrNew_csrset c a 0x01)⟩,
        ⟨fun hsew => does_csr_vtype h (exec_csrclr a 0x01 s) hvl hsew (csrNew_csrclr c a 0x01),
          exec_csrWrite_vtype_illegal h (exec_csrclr a 0x01 s) (csrNew_csrclr c a 0x01)⟩, nofun⟩
    case frm =>
      simp only [List.forall_mem_cons]
      exact ⟨does_csr_frm h (exec_csrset a 0x02 s) (csrNew_csrset_low c a (k := 4) rfl rfl),
        does_csr_frm h (exec_csrclr a 0x02 s) (csrNew_csrclr_low c a (k := 4) rfl rfl), nofun⟩
    case sgen =>
      simp only [List.forall_mem_cons]
      exact ⟨does_csr_sgen h (exec_csrset a 0x05 s) (csrNew_csrset_low c a (k := 32) rfl rfl),
        does_csr_sgen h (exec_csrclr a 0x05 s) (csrNew_csrclr_low c a (k := 32) rfl rfl), nofun⟩
    case dmodeSet => exact csrNew_csrset_flag a (n := 0x06) (b := c.g.dmode) rfl rfl ▸ does_csr_dmode h (exec_csrset a 0x06 s) rfl
    case dmodeClr => exact csrNew_csrclr_flag a (n := 0x06) (b := c.g.dmode) rfl rfl ▸ does_csr_dmode h (exec_csrclr a 0x06 s) rfl
    case tcauseSet => exact ofNat_csrNew_csrset a (n := 0x09) rfl ▸ does_csr_tcause h (exec_csrset a 0x09 s) rfl
    case tcauseClr => exact ofNat_csrNew_csrclr a (n := 0x09) rfl ▸ does_csr_tcause h (exec_csrclr a 0x09 s) rfl
    case tepcSet => exact ofNat_csrNew_csrset a (n := 0x0A) rfl ▸ does_csr_tepc h (exec_csrset a 0x0A s) rfl
    case tepcClr => exact ofNat_csrNew_csrclr a (n := 0x0A) rfl ▸ does_csr_tepc h (exec_csrclr a 0x0A s) rfl
    case taddrSet => exact (ofNat_csrNew_csrset a (n := 0x0C) rfl).trans BitVec.and_allOnes ▸ does_csr_taddr h (exec_csrset a 0x0C s) rfl
    case taddrClr => exact (ofNat_csrNew_csrclr a (n := 0x0C) rfl).trans BitVec.and_allOnes ▸ does_csr_taddr h (exec_csrclr a 0x0C s) rfl
    case tvec =>
      have hread : csrRead c.g c.co c.la 0x0D = c.co.tvec := rfl
      have hset := doesOn_csr_tvec h (exec_csrset a 0x0D s) (csrNew_csrset c a 0x0D)
      have hclr := doesOn_csr_tvec h (exec_csrclr a 0x0D s) (csrNew_csrclr c a 0x0D)
      rw [testBit_and_tvec, and_tvec_mod, hread, Nat.testBit_or, testBit_tvec hw, Nat.or_mod_two_pow, tvec_mod hw] at hset
      rw [hread, Nat.testBit_and, testBit_clear_tvec, testBit_tvec hw, Nat.and_mod_two_pow, tvec_mod hw, clear_tvec_mod] at hclr
      rw [Nat.or_mod_two_pow, Nat.mod_eq_of_lt hw]
      exact ⟨hset, hclr⟩
    case bar =>
      have hread : csrRead c.g c.co c.la (0x10 + b) % 2 ^ 5 = (c.co.bar b).target % 2 ^ 5 := by
        rw [csrRead_bar hb, Barrier.word]
        omega
      have hset := doesOn_csr_bar h hb (exec_csrset a (0x10 + b) s) (csrNew_csrset_low c a (csrRW_bar hb) hread) (Nat.mod_lt _ (by decide)) rfl
      have hclr := doesOn_csr_bar h hb (exec_csrclr a (0x10 + b) s) (csrNew_csrclr_low c a (csrRW_bar hb) (hread.trans (Nat.mod_eq_of_lt ht)))
        (lt_of_le_of_lt Nat.and_le_left ht) rfl
      simp only [Barrier.setTarget_eq, Bool.false_eq_true, if_false, Nat.zero_testBit, Bool.not_false, Bool.and_true] at hset hclr
      simp only [List.forall_mem_cons]
      exact ⟨hset, hclr, nofun⟩
    case fflags =>
      have hset := csrNew_csrset_low c a (n := 0x03) (k := 5) (old := c.g.fflags) rfl rfl
      rw [Nat.or_mod_two_pow, Nat.mod_eq_of_lt hf] at hset
      exact ⟨does_csr_fflags h (exec_csrset a 0x03 s) hset,
        does_csr_fflags h (exec_csrclr a 0x03 s) (csrNew_csrclr_low c a (k := 5) rfl (Nat.mod_eq_of_lt hf))⟩
    case satSet => exact csrNew_csrset_flag a (n := 0x04) (b := c.g.sat) rfl rfl ▸ does_csr_sat h (exec_csrset a 0x04 s) rfl
    case satClr => exact csrNew_csrclr_flag a (n := 0x04) (b := c.g.sat) rfl rfl ▸ does_csr_sat h (exec_csrclr a 0x04 s) rfl
    case gstatSet => simpa using does_csr_gstat h (exec_csrset a 0x07 s) rfl
    case gstatClr => simpa using does_csr_gstat h (exec_csrclr a 0x07 s) rfl
    case fstatSet => simpa [FStat.clear] using does_csr_fstat h (exec_csrset a 0x08 s) rfl
    case fstatClr => simpa [FStat.clear] using does_csr_fstat h (exec_csrclr a 0x08 s) rfl
    case tlanesSet => exact (ofNat_csrNew_csrset a (n := 0x0B) rfl).trans BitVec.and_allOnes ▸ does_csr_tlanes h (exec_csrset a 0x0B s) rfl
    case tlanesClr => exact (ofNat_csrNew_csrclr a (n := 0x0B) rfl).trans BitVec.and_allOnes ▸ does_csr_tlanes h (exec_csrclr a 0x0B s) rfl
    case illegal => exact ⟨exec_csrWrite_illegal h (exec_csrw a n s) hn, exec_csrWrite_illegal h (exec_csrset a n s) hn,
      exec_csrWrite_illegal h (exec_csrclr a n s) hn⟩

end Sys2Proof.Machine
end

section
/-! PROOFS. What register writes leave behind: the value a location holds after a list of writes, in a group and in the temporaries of a
run (R66, R120, R220, R234, R278). -/

namespace Sys2Proof.Machine

/-! ### A list of writes to a location -/

theorem testBit_merge (old : Nat) (w : Wr) (i : Nat) :
    (merge old w).testBit i = if w.mask.testBit i then w.val.testBit i else old.testBit i := by
  simp only [merge, Nat.testBit_or, Nat.testBit_and, Nat.testBit_xor]
  cases w.mask.testBit i <;> simp

theorem merge_lt {n old : Nat} {w : Wr} (ho : old < 2 ^ n) (hm : w.mask < 2 ^ n) : merge old w < 2 ^ n :=
  Nat.or_lt_two_pow (lt_of_le_of_lt Nat.and_le_left ho) (Nat.and_lt_two_pow _ hm)

theorem merge_over (old : Nat) (a b : Wr) : merge old (a.over b) = merge (merge old a) b := by
  apply Nat.eq_of_testBit_eq
  intro i
  simp only [testBit_merge, Wr.over, Nat.testBit_or]
  cases b.mask.testBit i <;> simp

/-- What a location that held `old` holds after writes, one after another. -/
def afterWrs (ws : List Wr) (l old : Nat) : Nat := (ws.filter (fun w => w.loc == l)).foldl merge old

@[simp] theorem afterWrs_nil (l old : Nat) : afterWrs [] l old = old := rfl

theorem afterWrs_cons (w : Wr) (ws : List Wr) (l old : Nat) :
    afterWrs (w :: ws) l old = afterWrs ws l (if w.loc = l then merge old w else old) := by
  unfold afterWrs
  by_cases h : w.loc = l <;> simp [h]

theorem afterWrs_append (ws xs : List Wr) (l old : Nat) : afterWrs (ws ++ xs) l old = afterWrs xs l (afterWrs ws l old) := by
  simp [afterWrs]

theorem afterWrs_of_not_mem {ws : List Wr} {l : Nat} (old : Nat) (h : ∀ w ∈ ws, w.loc ≠ l) : afterWrs ws l old = old := by
  unfold afterWrs
  rw [List.filter_eq_nil_iff.mpr (fun w hw => by simpa using h w hw)]
  rfl

/-- Writes elsewhere may be left out. -/
theorem afterWrs_filter {p : Wr → Bool} (ws : List Wr) {l : Nat} (old : Nat) (h : ∀ w ∈ ws, w.loc = l → p w = true) :
    afterWrs (ws.filter p) l old = afterWrs ws l old := by
  unfold afterWrs
  rw [List.filter_filter]
  refine congrArg (List.foldl merge old) (List.filter_congr fun w hw => ?_)
  by_cases hl : w.loc = l
  · simp [hl, h w hw hl]
  · simp [hl]

/-- A bit on whose value all writes that cover it agree. -/
theorem testBit_afterWrs {ws : List Wr} {l i : Nat} {b : Bool}
    (h : ∀ w ∈ ws, w.loc = l → w.mask.testBit i = true → w.val.testBit i = b) (old : Nat) :
    (afterWrs ws l old).testBit i = if ∃ w ∈ ws, w.loc = l ∧ w.mask.testBit i = true then b else old.testBit i := by
  induction ws generalizing old with
  | nil => simp
  | cons w ws ih =>
    rw [afterWrs_cons, ih (fun x hx => h x (List.mem_cons_of_mem _ hx))]
    simp only [List.exists_mem_cons_iff]
    by_cases hw : w.loc = l ∧ w.mask.testBit i = true
    · rw [if_pos hw.1, testBit_merge, if_pos hw.2, h w List.mem_cons_self hw.1 hw.2, ite_self, if_pos (Or.inl hw)]
    · have hkeep : (if w.loc = l then merge old w else old).testBit i = old.testBit i := by
        split
        · rw [testBit_merge, if_neg (fun hm => hw ⟨‹_›, hm⟩)]
        · rfl
      rw [hkeep]
      exact if_congr (by simp [hw]) rfl rfl

/-! ### Joined writes -/

theorem joinWrs_cons (w : Wr) (ws : List Wr) : joinWrs (w :: ws) = match (joinWrs ws).find? (fun x => x.loc == w.loc) with
    | some x => w.over x :: (joinWrs ws).filter (fun y => y.loc != w.loc)
    | none => w :: joinWrs ws := rfl

/-- Joined writes go to different locations. -/
theorem joinWrs_pairwise (ws : List Wr) : (joinWrs ws).Pairwise (fun a b => a.loc ≠ b.loc) := by
  induction ws with
  | nil => exact .nil
  | cons w ws ih =>
    rw [joinWrs_cons]
    split
    · refine List.Pairwise.cons (fun y hy => ?_) (ih.filter _)
      have := (List.mem_filter.mp hy).2
      exact fun e => by simp [← e, Wr.over] at this
    · rename_i hnone
      refine List.Pairwise.cons (fun y hy e => ?_) ih
      have := List.find?_eq_none.mp hnone y hy
      exact this (by simp [e])

/-- Of writes to different locations one at most counts. -/
theorem afterWrs_of_pairwise {ws : List Wr} {x : Wr} (hp : ws.Pairwise (fun a b => a.loc ≠ b.loc)) (hx : x ∈ ws) (old : Nat) :
    afterWrs ws x.loc old = merge old x := by
  induction ws generalizing old with
  | nil => cases hx
  | cons w ws ih =>
    rw [List.pairwise_cons] at hp
    obtain ⟨hne, hp⟩ := hp
    rw [afterWrs_cons]
    rcases List.mem_cons.mp hx with rfl | hx
    · rw [if_pos rfl, afterWrs_of_not_mem _ (fun y hy => (hne y hy).symm)]
    · rw [if_neg (hne x hx), ih hp hx]

/-- JOINING writes of one location changes no value (R120). -/
theorem afterWrs_joinWrs (ws : List Wr) (l old : Nat) : afterWrs (joinWrs ws) l old = afterWrs ws l old := by
  induction ws generalizing old with
  | nil => rfl
  | cons w ws ih =>
    rw [joinWrs_cons, afterWrs_cons w ws, ← ih]
    split
    · rename_i x hfind
      have hloc : x.loc = w.loc := by simpa using List.find?_some hfind
      have hmem : x ∈ joinWrs ws := List.mem_of_find?_eq_some hfind
      rw [afterWrs_cons]
      by_cases hl : w.loc = l
      · rw [if_pos hl, if_pos (show (w.over x).loc = l from hl), afterWrs_of_not_mem _ (fun y hy e => ?_), merge_over, ← hl, ← hloc,
          afterWrs_of_pairwise (joinWrs_pairwise ws) hmem]
        have := (List.mem_filter.mp hy).2
        simp [e, hl] at this
      · rw [if_neg hl, if_neg (show ¬(w.over x).loc = l from hl), afterWrs_filter _ _ (fun y _ e => by simpa [e] using Ne.symm hl)]
    · rw [afterWrs_cons]

/-- Joined masks are made of the masks joined. -/
theorem joinWrs_mask_lt {n l : Nat} {ws : List Wr} (h : ∀ w ∈ ws, w.loc = l → w.mask < 2 ^ n) :
    ∀ w ∈ joinWrs ws, w.loc = l → w.mask < 2 ^ n := by
  induction ws with
  | nil => exact h
  | cons w ws ih =>
    have ih := ih (fun x hx => h x (List.mem_cons_of_mem _ hx))
    rw [joinWrs_cons]
    split
    · rename_i x hfind
      have hloc : x.loc = w.loc := by simpa using List.find?_some hfind
      rw [List.forall_mem_cons]
      exact ⟨fun hl => Nat.or_lt_two_pow (h w List.mem_cons_self hl) (ih x (List.mem_of_find?_eq_some hfind) (hloc.trans hl)),
        fun y hy => ih y (List.mem_filter.mp hy).1⟩
    · rw [List.forall_mem_cons]
      exact ⟨h w List.mem_cons_self, ih⟩

/-! ### Fields of numbers -/

theorem testBit_setBits (x off w v i : Nat) :
    (setBits x off w v).testBit i = if off ≤ i ∧ i < off + w then v.testBit (i - off) else x.testBit i := by
  have hx : x = 2 ^ off * (2 ^ w * (x / 2 ^ off / 2 ^ w) + x / 2 ^ off % 2 ^ w) + x % 2 ^ off := by
    rw [Nat.div_add_mod, Nat.div_add_mod]
  have hs : setBits x off w v = 2 ^ off * (2 ^ w * (x / 2 ^ off / 2 ^ w) + v % 2 ^ w) + x % 2 ^ off := by
    unfold setBits
    nth_rewrite 1 [hx]
    rw [Nat.mul_add, Nat.mul_add, Nat.mul_comm (x / 2 ^ off % 2 ^ w), Nat.mul_comm (v % 2 ^ w)]
    omega
  have hlo : x % 2 ^ off < 2 ^ off := Nat.mod_lt _ (Nat.two_pow_pos off)
  have hv : v % 2 ^ w < 2 ^ w := Nat.mod_lt _ (Nat.two_pow_pos w)
  rw [hs, Nat.testBit_two_pow_mul_add _ hlo, Nat.testBit_two_pow_mul_add _ hv]
  by_cases h1 : i < off
  · rw [if_pos h1, if_neg (by omega), Nat.testBit_mod_two_pow]
    simp [h1]
  · rw [if_neg h1]
    by_cases h2 : i - off < w
    · rw [if_pos h2, if_pos (by omega), Nat.testBit_mod_two_pow]
      simp [h2]
    · rw [if_neg h2, if_neg (by omega), Nat.testBit_div_two_pow, Nat.testBit_div_two_pow]
      congr 1
      omega

theorem testBit_laneWord (r : VReg) (L i : Nat) : (laneWord r L).toNat.testBit i = (decide (i < 32) && r.toNat.testBit (32 * L + i)) := by
  rw [laneWord, BitVec.toNat_ofNat, Nat.testBit_mod_two_pow, Nat.testBit_div_two_pow, Nat.add_comm]

theorem laneWord_setLaneWord (r : VReg) {L L' : Nat} (x : Word32) (hL : L < 32) (hL' : L' < 32) :
    laneWord (setLaneWord r L x) L' = if L' = L then x else laneWord r L' := by
  apply BitVec.eq_of_toNat_eq
  apply Nat.eq_of_testBit_eq
  intro i
  rw [testBit_laneWord, setLaneWord, BitVec.toNat_ofNat, Nat.testBit_mod_two_pow, testBit_setBits]
  by_cases hi : i < 32
  · by_cases h : L' = L
    · subst h
      rw [if_pos rfl, if_pos (by omega), Nat.add_sub_cancel_left]
      simp [hi]
      omega
    · rw [if_neg h, if_neg (by omega), testBit_laneWord]
      simp [hi]
      omega
  · have hx : ∀ y : Word32, y.toNat.testBit i = false := fun y =>
      Nat.testBit_lt_two_pow (lt_of_lt_of_le y.isLt (Nat.pow_le_pow_right (by decide) (by omega)))
    rw [hx]
    simp [hi]

/-! ### Locations of a group -/

/-- The locations of vector words and their sidecars: scale bytes, tags, lane words. -/
def IsVec (l : Nat) : Prop := 1024 ≤ l ∧ l ≠ locVl
/-- Width of such a location. -/
def vecBits (l : Nat) : Nat := if l < 65536 then 8 else 32

theorem isVec_locV (r L : Nat) : IsVec (locV r L) := by unfold IsVec locV locVl; omega
theorem isVec_locTag {r : Nat} (h : r < 256) : IsVec (locTag r) := by unfold IsVec locTag locVl; omega
theorem isVec_locScale {r k : Nat} (h : r < 256) (hk : k < 8) : IsVec (locScale r k) := by unfold IsVec locScale locVl; omega
theorem vecBits_locV (r L : Nat) : vecBits (locV r L) = 32 := if_neg (by unfold locV; omega)
theorem vecBits_locTag {r : Nat} (h : r < 256) : vecBits (locTag r) = 8 := if_pos (by unfold locTag; omega)
theorem vecBits_locScale {r k : Nat} (h : r < 256) (hk : k < 8) : vecBits (locScale r k) = 8 := if_pos (by unfold locScale; omega)

theorem locV_inj {r r' L L' : Nat} (hL : L < 32) (hL' : L' < 32) : locV r L = locV r' L' ↔ r = r' ∧ L = L' := by unfold locV; omega

/-- A lane word is its location. -/
theorem getLoc_locV (g : Group) {r L : Nat} (hL : L < 32) : g.getLoc (locV r L) = (laneWord (g.vGet r) L).toNat := by
  unfold Group.getLoc locV
  rw [if_neg (by omega), if_neg (by omega), if_neg (by omega), if_neg (by unfold locVl; omega), if_neg (by omega),
    show (65536 + 32 * r + L - 65536) / 32 = r by omega, show (65536 + 32 * r + L) % 32 = L by omega]

/-- A tag is its location. -/
theorem getLoc_locTag (g : Group) {r : Nat} (hr : r < 256) : g.getLoc (locTag r) = (g.tagGet r).toNat := by
  unfold Group.getLoc locTag
  rw [if_neg (by omega), if_neg (by omega), if_neg (by omega), if_neg (by unfold locVl; omega), if_pos (by omega), Nat.add_sub_cancel_left]

/-- A scale byte is its location. -/
theorem getLoc_locScale (g : Group) {r k : Nat} (hr : r < 256) (hk : k < 8) :
    g.getLoc (locScale r k) = (g.scaleGet r).toNat / 2 ^ (8 * k) % 256 := by
  unfold Group.getLoc locScale
  rw [if_neg (by omega), if_neg (by omega), if_pos (by omega), show (1024 + 8 * r + k - 1024) / 8 = r by omega,
    show (1024 + 8 * r + k) % 8 = k by omega]

theorem getLoc_lt (g : Group) {l : Nat} (h : IsVec l) : g.getLoc l < 2 ^ vecBits l := by
  obtain ⟨h1, h2⟩ := h
  unfold Group.getLoc vecBits
  rw [if_neg (by omega), if_neg (by omega), if_neg h2]
  by_cases hs : l < 16384
  · rw [if_pos hs, if_pos (by omega)]
    exact Nat.mod_lt _ (by decide)
  · rw [if_neg hs]
    split <;> exact BitVec.isLt _

/-- A location written whole holds the value. -/
theorem getLoc_setLoc_self (g : Group) {l : Nat} (x : Nat) (h : IsVec l) : (g.setLoc l x).getLoc l = x % 2 ^ vecBits l := by
  obtain ⟨h1, h2⟩ := h
  unfold Group.setLoc Group.getLoc vecBits
  simp only [if_neg (show ¬l < 64 by omega), if_neg (show ¬l < 1024 by omega), if_neg h2]
  by_cases hs : l < 16384
  · simp only [if_pos hs, if_pos (show l < 65536 by omega)]
    apply Nat.eq_of_testBit_eq
    intro i
    simp only [Group.scaleGet, Group.scaleSet, Tab.get_set_self, show 256 = 2 ^ 8 by rfl, Nat.testBit_mod_two_pow, Nat.testBit_div_two_pow,
      BitVec.toNat_ofNat, testBit_setBits]
    by_cases hi : i < 8
    · rw [if_pos (by omega), Nat.add_sub_cancel]
      simp [hi]
      omega
    · simp [hi]
  · simp only [if_neg hs]
    by_cases ht : l < 65536
    · simp only [if_pos ht, Group.tagGet, Group.tagSet, Tab.get_set_self, BitVec.toNat_ofNat]
    · simp only [if_neg ht, Group.vGet, Group.vSet, Tab.get_set_self]
      rw [laneWord_setLaneWord _ _ (by omega) (by omega), if_pos rfl, BitVec.toNat_ofNat]

theorem setLoc_v (g : Group) {l : Nat} (x : Nat) (h : l < 65536) : (g.setLoc l x).v = g.v := by
  unfold Group.setLoc
  split_ifs <;> simp

theorem setLoc_tag (g : Group) {l : Nat} (x : Nat) (h : l < 16384 ∨ 65536 ≤ l) : (g.setLoc l x).tag = g.tag := by
  unfold Group.setLoc
  split_ifs
  · simp
  · simp
  · simp
  · simp
  · omega
  · simp

theorem setLoc_scale (g : Group) {l : Nat} (x : Nat) (h : l < 1024 ∨ 16384 ≤ l) : (g.setLoc l x).scale = g.scale := by
  unfold Group.setLoc
  split_ifs
  · simp
  · simp
  · omega
  · simp
  · simp
  · simp

/-- A location of vector words or sidecars written: nothing else of the group changes. -/
theorem setLoc_isVec (g : Group) {l : Nat} (x : Nat) (h : IsVec l) :
    g.setLoc l x = { g with v := (g.setLoc l x).v, tag := (g.setLoc l x).tag, scale := (g.setLoc l x).scale } := by
  obtain ⟨h1, h2⟩ := h
  unfold Group.setLoc
  rw [if_neg (by omega), if_neg (by omega), if_neg h2]
  split_ifs <;> rfl

/-- No other location of vector words or sidecars changes. -/
theorem getLoc_setLoc_of_ne (g : Group) {l l' : Nat} (x : Nat) (h : l ≠ l') (hl : IsVec l) : (g.setLoc l' x).getLoc l = g.getLoc l := by
  obtain ⟨h1, h2⟩ := hl
  unfold Group.getLoc
  simp only [if_neg (show ¬l < 64 by omega), if_neg (show ¬l < 1024 by omega), if_neg h2]
  by_cases hs : l < 16384
  · simp only [if_pos hs, Group.scaleGet]
    by_cases hs' : l' < 1024 ∨ 16384 ≤ l'
    · rw [setLoc_scale g x hs']
    · unfold Group.setLoc
      simp only [if_neg (show ¬l' < 64 by omega), if_neg (show ¬l' < 1024 by omega), if_pos (show l' < 16384 by omega), Group.scaleSet,
        Group.scaleGet, Tab.get_set]
      split
      · rename_i hr
        rw [hr]
        apply Nat.eq_of_testBit_eq
        intro i
        simp only [show 256 = 2 ^ 8 by rfl, Nat.testBit_mod_two_pow, Nat.testBit_div_two_pow, BitVec.toNat_ofNat, testBit_setBits]
        by_cases hi : i < 8
        · rw [if_neg (by omega), decide_eq_true (show i + 8 * (l % 8) < 64 by omega), Bool.true_and]
        · simp [hi]
      · rfl
  · simp only [if_neg hs]
    by_cases ht : l < 65536
    · simp only [if_pos ht, Group.tagGet]
      by_cases ht' : l' < 16384 ∨ 65536 ≤ l'
      · rw [setLoc_tag g x ht']
      · unfold Group.setLoc
        simp only [if_neg (show ¬l' < 64 by omega), if_neg (show ¬l' < 1024 by omega), if_neg (show ¬l' < 16384 by omega)]
        split
        · rfl
        · rw [if_pos (by omega), Group.tagSet, Tab.get_set_of_ne _ _ _ (by omega)]
    · simp only [if_neg ht, Group.vGet]
      by_cases ht' : l' < 65536
      · rw [setLoc_v g x ht']
      · unfold Group.setLoc
        simp only [if_neg (show ¬l' < 64 by omega), if_neg (show ¬l' < 1024 by omega), if_neg (show ¬l' < 16384 by omega),
          if_neg (show l' ≠ locVl by unfold locVl; omega), if_neg ht', Group.vSet, Group.vGet, Tab.get_set]
        split
        · rename_i hr
          rw [hr, laneWord_setLaneWord _ _ (by omega) (by omega), if_neg (by omega)]
        · rfl

/-! ### Register writes of a lane instruction -/

/-- Writes to vector words and sidecars alone, none beyond its location's width. -/
def VecWrs (ws : List Wr) : Prop := ∀ w ∈ ws, IsVec w.loc ∧ w.mask < 2 ^ vecBits w.loc

theorem vecWrs_append {ws xs : List Wr} : VecWrs (ws ++ xs) ↔ VecWrs ws ∧ VecWrs xs := List.forall_mem_append

theorem VecWrs.mask_lt {ws : List Wr} (h : VecWrs ws) {l : Nat} : ∀ w ∈ ws, w.loc = l → w.mask < 2 ^ vecBits l :=
  fun w hw hl => hl ▸ (h w hw).2

theorem vecWrs_joinWrs {ws : List Wr} (h : VecWrs ws) : VecWrs (joinWrs ws) := fun w hw => by
  obtain ⟨x, hx, hl⟩ := joinWrs_loc hw
  exact ⟨hl ▸ (h x hx).1, joinWrs_mask_lt h.mask_lt w hw rfl⟩

/-- What a group's locations hold after writes, one after another. -/
theorem getLoc_putEach {g : Group} {ws : List Wr} {l : Nat} (hl : IsVec l) (h : VecWrs ws) :
    (g.putEach ws).getLoc l = afterWrs ws l (g.getLoc l) := by
  induction ws generalizing g with
  | nil => rfl
  | cons w ws ih =>
    rw [putEach_cons, ih (fun x hx => h x (List.mem_cons_of_mem _ hx)), afterWrs_cons]
    congr 1
    split
    · rename_i hw
      subst hw
      rw [getLoc_setLoc_self _ _ hl, Nat.mod_eq_of_lt (merge_lt (getLoc_lt g hl) (h w List.mem_cons_self).2)]
    · exact getLoc_setLoc_of_ne g _ (Ne.symm ‹_›) hl

/-- What a group's locations hold after the writes of one operation. -/
theorem getLoc_putAll {g : Group} {ws : List Wr} {l : Nat} (hl : IsVec l) (h : VecWrs ws) :
    (g.putAll ws).getLoc l = afterWrs ws l (g.getLoc l) := by
  rw [putAll_eq, getLoc_putEach hl (vecWrs_joinWrs h), afterWrs_joinWrs]

/-- Writes to vector words and sidecars change nothing else of the group. -/
theorem putEach_vecWrs {g : Group} {ws : List Wr} (h : VecWrs ws) :
    g.putEach ws = { g with v := (g.putEach ws).v, tag := (g.putEach ws).tag, scale := (g.putEach ws).scale } := by
  induction ws generalizing g with
  | nil => rfl
  | cons w ws ih =>
    rw [putEach_cons, ih (fun x hx => h x (List.mem_cons_of_mem _ hx)), setLoc_isVec g _ (h w List.mem_cons_self).1]

/-- The group after writes to vector words and sidecars, but for the group's own notes. -/
theorem unnoted_of_putEach {g g1 : Group} {ws : List Wr} (h : VecWrs ws) (hg : g1.unnoted = (g.putEach ws).unnoted) :
    g1.unnoted = { g.unnoted with v := g1.v, tag := g1.tag, scale := g1.scale } := by
  have hv : g1.unnoted.v = (g.putEach ws).unnoted.v := by rw [hg]
  have ht : g1.unnoted.tag = (g.putEach ws).unnoted.tag := by rw [hg]
  have hs : g1.unnoted.scale = (g.putEach ws).unnoted.scale := by rw [hg]
  change g1.v = (g.putEach ws).v at hv
  change g1.tag = (g.putEach ws).tag at ht
  change g1.scale = (g.putEach ws).scale at hs
  rw [hv, ht, hs, hg]
  exact congrArg Group.unnoted (putEach_vecWrs h)

/-- Scale sidecars stay where none is written. -/
theorem scale_putEach {g : Group} {ws : List Wr} (h : ∀ w ∈ ws, 16384 ≤ w.loc) : (g.putEach ws).scale = g.scale := by
  induction ws generalizing g with
  | nil => rfl
  | cons w ws ih =>
    rw [putEach_cons, ih (fun x hx => h x (List.mem_cons_of_mem _ hx)), setLoc_scale g _ (.inr (h w List.mem_cons_self))]

/-- Word `k` of the temporaries of a run. -/
def Run.temp (r : Run) (tick k : Nat) : Word32 := (r.t.find k).getD (Config.freeWord tick k)

/-- What the temporaries hold after writes. -/
theorem temp_putTemps {r : Run} {tick k : Nat} {ws : List Wr} (h : VecWrs ws) :
    ((r.putTemps tick ws).temp tick k).toNat = afterWrs ws (locV 2000 0 + k) (r.temp tick k).toNat := by
  induction ws generalizing r with
  | nil => rfl
  | cons w ws ih =>
    have hstep : (r.putTemps tick [w]).temp tick k =
        if w.loc = locV 2000 0 + k then BitVec.ofNat 32 (merge (r.temp tick k).toNat w) else r.temp tick k := by
      unfold Run.temp Run.putTemps isTempLoc
      simp only [List.foldl_cons, List.foldl_nil]
      by_cases ht : locV 2000 0 ≤ w.loc
      · rw [if_pos (decide_eq_true ht), Tab.find_put]
        by_cases hk : w.loc = locV 2000 0 + k
        · rw [if_pos (by omega), if_pos hk, Option.getD_some, show w.loc - locV 2000 0 = k by omega]
        · rw [if_neg (by omega), if_neg hk]
      · rw [if_neg (by simpa using ht), if_neg (by omega)]
    have hcons : r.putTemps tick (w :: ws) = (r.putTemps tick [w]).putTemps tick ws := rfl
    rw [hcons, ih (fun x hx => h x (List.mem_cons_of_mem _ hx)), hstep, afterWrs_cons]
    congr 1
    split
    · have hm := (h w List.mem_cons_self).2
      rw [‹w.loc = _›, vecBits, if_neg (by unfold locV; omega)] at hm
      rw [BitVec.toNat_ofNat, Nat.mod_eq_of_lt (merge_lt (r.temp tick k).isLt hm)]
    · rfl

/-! ### Words as they are held -/

/-- A held word is a location of the group, or a word of the run's temporaries. -/
theorem heldWord_eq {g : Group} {r : Run} {tick reg L : Nat} (hL : L < 32) :
    heldWord g r tick reg L = if 2000 ≤ reg then (r.temp tick (32 * (reg - 2000) + L)).toNat else g.getLoc (locV reg L) := by
  rw [getLoc_locV g hL]
  rfl

theorem heldWord_lt {g : Group} {r : Run} {tick reg L : Nat} : heldWord g r tick reg L < 2 ^ 32 := by
  unfold heldWord
  split <;> exact BitVec.isLt _

/-- What a word holds after register writes. -/
theorem heldWord_after {g g1 : Group} {r r1 : Run} {tick reg L : Nat} {ws : List Wr} (h : VecWrs ws) (hL : L < 32)
    (hg : g1.unnoted = (g.putEach ((joinWrs ws).filter (fun w => !isTempLoc w.loc))).unnoted)
    (hr : r1.unnoted = (r.putTemps tick (joinWrs ws)).unnoted) :
    heldWord g1 r1 tick reg L = afterWrs ws (locV reg L) (heldWord g r tick reg L) := by
  have hj := vecWrs_joinWrs h
  rw [heldWord_eq hL, heldWord_eq hL]
  split
  · have ht : r1.unnoted.t = (r.putTemps tick (joinWrs ws)).unnoted.t := by rw [hr]
    change r1.t = (r.putTemps tick (joinWrs ws)).t at ht
    have htemp := temp_putTemps (r := r) (tick := tick) (k := 32 * (reg - 2000) + L) hj
    rw [show locV 2000 0 + (32 * (reg - 2000) + L) = locV reg L by unfold locV; omega, afterWrs_joinWrs] at htemp
    rw [← htemp, Run.temp, ht]
    rfl
  · have hv : g1.getLoc (locV reg L) = (g.putEach ((joinWrs ws).filter (fun w => !isTempLoc w.loc))).getLoc (locV reg L) :=
      congrArg (fun g => g.getLoc (locV reg L)) hg
    rw [hv, getLoc_putEach (isVec_locV _ _) (fun w hw => hj w (List.mem_filter.mp hw).1), afterWrs_filter _ _ (fun w _ hl => ?_),
      afterWrs_joinWrs]
    have hlt : w.loc < locV 2000 0 := by rw [hl]; unfold locV; omega
    simp [isTempLoc, hlt]

/-! ### The commit of a lane instruction -/

theorem OnlyIssuer.addWcnt {c : Ctx} {s s1 : State} {g : Group} {r : Run} (h : OnlyIssuer c s s1 g r) (core k n : Nat) :
    OnlyIssuer c (addWcnt core k n s) (addWcnt core k n s1) g r := by
  unfold Machine.addWcnt
  split
  · exact h
  · exact ⟨by rw [h.rest]; rfl, h.group, h.groups, h.run, h.runs, h.bytes⟩

theorem OnlyIssuer.countRecon {c : Ctx} {s s1 : State} {g : Group} {r : Run} (h : OnlyIssuer c s s1 g r) (core : Nat) (rc : Recon) :
    OnlyIssuer c (countRecon core rc s) (countRecon core rc s1) g r := by
  unfold Machine.countRecon
  split
  · exact h
  · exact (h.addWcnt ..).addWcnt ..

/-- The group `g1` and run `r1` after a lane instruction's writes `ws`, the rest of the group as in `gx`. -/
structure LaneWritten (c : Ctx) (ws : List Wr) (gx g1 : Group) (r1 : Run) : Prop where
  words : ∀ reg L, L < 32 → heldWord g1 r1 c.tick reg L = afterWrs ws (locV reg L) (heldWord c.g c.run c.tick reg L)
  locs : ∀ l, IsVec l → l < 65536 → g1.getLoc l = afterWrs ws l (c.g.getLoc l)
  scale : (∀ w ∈ ws, 16384 ≤ w.loc) → g1.scale = gx.scale
  group : g1.unnoted = { gx.unnoted with v := g1.v, tag := g1.tag, scale := g1.scale }
  run : r1.unnoted = { c.run.unnoted with t := r1.t }

/-- A change of `sgen` beside the writes (R39). -/
theorem LaneWritten.sgen {c : Ctx} {ws : List Wr} {gx g1 : Group} {r1 : Run} (h : LaneWritten c ws gx g1 r1) (x : Nat) :
    LaneWritten c ws { gx with sgen := x } { g1 with sgen := x } r1 where
  words := h.words
  locs := h.locs
  scale := h.scale
  group := congrArg (fun g : Group => { g with sgen := x }) h.group
  run := h.run

/-- The tags a lane instruction writes (R225). -/
def tagWrs (o : VOp) (tag : Nat) (ws : List Wr) : List Wr := (writtenRegs o ws).flatMap (fun x => wrTag x tag)

/-- WHAT THE COMMIT OF A LANE INSTRUCTION DOES (R48, R225): reconstruction, results and tags are written, flags and `sat` added. -/
theorem commitLane_written {s : State} {c : Ctx} (h : ctxOf s = some c) (o : VOp) (tag : Nat) (rc : Recon) (res : LaneRes)
    (hw : VecWrs (rc.res.wrs ++ res.wrs ++ tagWrs o tag res.wrs)) :
    ∃ g1 r1, OnlyIssuer c (countRecon c.co.core rc s) (commitLane c o tag rc res s) g1 r1 ∧
      LaneWritten c (rc.res.wrs ++ res.wrs ++ tagWrs o tag res.wrs)
        { c.g with fflags := c.g.fflags ||| (rc.res.flags ||| res.flags), sat := c.g.sat || res.sat } g1 r1 := by
  obtain ⟨g0, r1, honly, hg, hr⟩ := commitW_only (rc.res.wrs ++ res.wrs ++ tagWrs o tag res.wrs) (OnlyIssuer.refl h)
  have hj := vecWrs_joinWrs hw
  have hf : VecWrs ((joinWrs (rc.res.wrs ++ res.wrs ++ tagWrs o tag res.wrs)).filter (fun w => !isTempLoc w.loc)) :=
    fun w hw' => hj w (List.mem_filter.mp hw').1
  refine ⟨_, r1, (honly.countRecon c.co.core rc).updG _, fun reg L hL => heldWord_after (g1 := g0) hw hL hg hr, fun l hl hlt => ?_,
    fun hlo => ?_, ?_, ?_⟩
  · have hv : g0.getLoc l = _ := congrArg (fun g => g.getLoc l) hg
    change g0.getLoc l = _
    rw [hv]
    change Group.getLoc (Group.putEach _ _) l = _
    rw [getLoc_putEach hl hf, afterWrs_filter _ _ (fun w _ hloc => ?_), afterWrs_joinWrs]
    have htemp : w.loc < locV 2000 0 := by rw [hloc]; unfold locV; omega
    simp [isTempLoc, htemp]
  · have hs : g0.unnoted.scale = (c.g.putEach ((joinWrs (rc.res.wrs ++ res.wrs ++ tagWrs o tag res.wrs)).filter
        (fun w => !isTempLoc w.loc))).unnoted.scale := by rw [hg]
    refine Eq.trans hs (scale_putEach fun w hw' => ?_)
    obtain ⟨x, hx, hloc⟩ := joinWrs_loc (List.mem_filter.mp hw').1
    exact hloc ▸ hlo x hx
  · have hg0 := unnoted_of_putEach hf hg
    exact congrArg (fun x : Group => { x with fflags := x.fflags ||| (rc.res.flags ||| res.flags), sat := x.sat || res.sat }) hg0
  · have ht : r1.unnoted = { r1.unnoted with t := r1.t } := rfl
    rw [ht, hr]
    rfl

end Sys2Proof.Machine
end

section
/-! PROOFS. Element writes: which bits of which words they cover, and what the elements, words and tags of a destination are after them
(R220, R222, R225). -/

namespace Sys2Proof.Machine

/-! ### Bits of one element -/

/-- The widths of an element's place in a register (R220). -/
def ElWidth (w : Nat) : Prop := w = 4 ∨ w = 8 ∨ w = 16 ∨ w = 32 ∨ w = 64

/-- Every SEW up to 64 is one of them. -/
theorem elWidth_sew {g : Group} (h : g.sew ≤ 64) : ElWidth g.sew := by
  have hk : g.vtype % 8 < 5 := by
    by_contra hk
    have : 2 ^ 5 ≤ 2 ^ (g.vtype % 8) := Nat.pow_le_pow_right (by decide) (by omega)
    unfold Group.sew at h
    omega
  unfold ElWidth Group.sew
  generalize g.vtype % 8 = k at hk
  interval_cases k <;> decide

/-- Element `e` lies in register `e * w / 1024` of its operand, from bit `e * w % 1024`, inside one word or over two. -/
theorem elWidth_place {w : Nat} (hw : ElWidth w) (e : Nat) : e * w % 1024 + w ≤ 1024 ∧
    ((w ≤ 32 ∧ e * w % 1024 % 32 + w ≤ 32) ∨ (w = 64 ∧ e * w % 1024 % 32 = 0)) := by
  rcases hw with rfl | rfl | rfl | rfl | rfl <;> omega

theorem elWidth_pos {w : Nat} (hw : ElWidth w) : 0 < w := by
  rcases hw with rfl | rfl | rfl | rfl | rfl <;> decide

/-- Places of different elements do not meet. -/
theorem eq_of_places_meet {w e e' p : Nat} (hreg : e * w / 1024 = e' * w / 1024) (h1 : e * w % 1024 ≤ p) (h2 : p < e * w % 1024 + w)
    (h3 : e' * w % 1024 ≤ p) (h4 : p < e' * w % 1024 + w) : e = e' := by
  have hdiv : ∀ e, e * w % 1024 ≤ p → p < e * w % 1024 + w → (1024 * (e * w / 1024) + p) / w = e := by
    intro e hlo hhi
    have := Nat.div_add_mod (e * w) 1024
    refine Nat.div_eq_of_lt_le (by omega) ?_
    have := Nat.add_one_mul e w
    omega
  rw [← hdiv e h1 h2, ← hdiv e' h3 h4, hreg]

theorem VOp.reg_inj {o : VOp} {i j : Nat} : o.reg i = o.reg j ↔ i = j := by
  unfold VOp.reg tempReg
  split <;> omega

section Bits

variable {o : VOp} {w e x : Nat} {wr : Wr}

theorem wrElt_small (h : w ≤ 32) : wrElt o w e x =
    [⟨locV (o.reg (e * w / 1024)) (e * w % 1024 / 32), (2 ^ w - 1) * 2 ^ (e * w % 1024 % 32), x % 2 ^ w * 2 ^ (e * w % 1024 % 32)⟩] :=
  if_pos h

theorem wrElt_large (h : w = 64) : wrElt o w e x =
    [wrV (o.reg (e * w / 1024)) (e * w % 1024 / 32) (x % 2 ^ w % 2 ^ 32), wrV (o.reg (e * w / 1024)) (e * w % 1024 / 32 + 1) (x % 2 ^ w / 2 ^ 32)] :=
  if_neg (by omega)

/-- An element's writes go to words of its register. -/
theorem wrElt_loc (hw : ElWidth w) (h : wr ∈ wrElt o w e x) : ∃ L, L < 32 ∧ wr.loc = locV (o.reg (e * w / 1024)) L ∧ wr.mask < 2 ^ 32 := by
  obtain ⟨hfit, hword⟩ := elWidth_place hw e
  rcases hword with ⟨hs, hin⟩ | ⟨hl, hat⟩
  · rw [wrElt_small hs, List.mem_singleton] at h
    refine ⟨e * w % 1024 / 32, by omega, by rw [h], ?_⟩
    rw [h]
    calc (2 ^ w - 1) * 2 ^ (e * w % 1024 % 32) < 2 ^ w * 2 ^ (e * w % 1024 % 32) :=
          Nat.mul_lt_mul_of_pos_right (Nat.sub_lt (Nat.two_pow_pos w) (by decide)) (Nat.two_pow_pos _)
      _ = 2 ^ (w + e * w % 1024 % 32) := (Nat.pow_add ..).symm
      _ ≤ 2 ^ 32 := Nat.pow_le_pow_right (by decide) (by omega)
  · rw [wrElt_large hl, List.mem_cons, List.mem_singleton] at h
    rcases h with rfl | rfl
    · exact ⟨e * w % 1024 / 32, by omega, rfl, show 2 ^ 32 - 1 < 2 ^ 32 by decide⟩
    · exact ⟨e * w % 1024 / 32 + 1, by omega, rfl, show 2 ^ 32 - 1 < 2 ^ 32 by decide⟩

/-- Which bits an element's writes cover. -/
theorem wrElt_covers (hw : ElWidth w) {reg L i : Nat} (hL : L < 32) (hi : i < 32) :
    (∃ wr ∈ wrElt o w e x, wr.loc = locV reg L ∧ wr.mask.testBit i = true) ↔
      o.reg (e * w / 1024) = reg ∧ e * w % 1024 ≤ 32 * L + i ∧ 32 * L + i < e * w % 1024 + w := by
  obtain ⟨hfit, hword⟩ := elWidth_place hw e
  rcases hword with ⟨hs, hin⟩ | ⟨hl, hat⟩
  · simp only [wrElt_small hs, List.mem_singleton, exists_eq_left, locV_inj (show e * w % 1024 / 32 < 32 by omega) hL, Nat.testBit_mul_two_pow,
      Nat.testBit_two_pow_sub_one, Bool.and_eq_true, decide_eq_true_eq]
    constructor
    · rintro ⟨⟨hr, hk⟩, hlo, hhi⟩
      exact ⟨hr, by omega, by omega⟩
    · rintro ⟨hr, hlo, hhi⟩
      exact ⟨⟨hr, by omega⟩, by omega, by omega⟩
  · simp only [wrElt_large hl, List.exists_mem_cons_iff, wrV, locV_inj (show e * w % 1024 / 32 < 32 by omega) hL,
      locV_inj (show e * w % 1024 / 32 + 1 < 32 by omega) hL, Nat.testBit_two_pow_sub_one, hi, decide_true, and_true, List.not_mem_nil, false_and,
      exists_false, or_false]
    constructor
    · rintro (⟨hr, hk⟩ | ⟨hr, hk⟩) <;> exact ⟨hr, by omega, by omega⟩
    · rintro ⟨hr, hlo, hhi⟩
      by_cases hk : e * w % 1024 / 32 = L
      · exact .inl ⟨hr, hk⟩
      · exact .inr ⟨hr, by omega⟩

/-- The value of a bit an element's writes cover. -/
theorem wrElt_bit (hw : ElWidth w) {reg L i : Nat} (hL : L < 32) (h : wr ∈ wrElt o w e x) (hloc : wr.loc = locV reg L)
    (hm : wr.mask.testBit i = true) : wr.val.testBit i = (x % 2 ^ w).testBit (32 * L + i - e * w % 1024) := by
  obtain ⟨hfit, hword⟩ := elWidth_place hw e
  rcases hword with ⟨hs, hin⟩ | ⟨hl, hat⟩
  · rw [wrElt_small hs, List.mem_singleton] at h
    subst h
    have hk := ((locV_inj (by omega) hL).mp hloc).2
    simp only [Nat.testBit_mul_two_pow, Nat.testBit_two_pow_sub_one, Bool.and_eq_true, decide_eq_true_eq] at hm ⊢
    rw [decide_eq_true hm.1, Bool.true_and]
    congr 1
    omega
  · rw [wrElt_large hl, List.mem_cons, List.mem_singleton] at h
    rcases h with rfl | rfl
    · have hk := ((locV_inj (by omega) hL).mp hloc).2
      simp only [wrV, Nat.testBit_two_pow_sub_one, decide_eq_true_eq] at hm ⊢
      rw [Nat.testBit_mod_two_pow, decide_eq_true hm, Bool.true_and]
      congr 1
      omega
    · have hk := ((locV_inj (by omega) hL).mp hloc).2
      simp only [wrV, Nat.testBit_two_pow_sub_one, decide_eq_true_eq] at hm ⊢
      rw [Nat.testBit_div_two_pow]
      congr 1
      omega

/-- The bits of an element as it is held. -/
theorem testBit_heldEl {g : Group} {r : Run} {tick : Nat} (hw : ElWidth w) (j : Nat) :
    (heldEl g r tick o w e).testBit j = (decide (j < w) &&
      (heldWord g r tick (o.reg (e * w / 1024)) ((e * w % 1024 + j) / 32)).testBit ((e * w % 1024 + j) % 32)) := by
  obtain ⟨hfit, hword⟩ := elWidth_place hw e
  unfold heldEl
  dsimp only
  rcases hword with ⟨hs, hin⟩ | ⟨hl, hat⟩
  · rw [if_pos hs, Nat.testBit_mod_two_pow, Nat.testBit_div_two_pow]
    by_cases hj : j < w
    · rw [show (e * w % 1024 + j) / 32 = e * w % 1024 / 32 by omega, show (e * w % 1024 + j) % 32 = j + e * w % 1024 % 32 by omega]
    · simp [hj]
  · rw [if_neg (by omega), Nat.add_comm (heldWord ..), Nat.mul_comm, Nat.testBit_two_pow_mul_add _ heldWord_lt]
    by_cases hj : j < 32
    · rw [if_pos hj, decide_eq_true (show j < w by omega), Bool.true_and, show (e * w % 1024 + j) / 32 = e * w % 1024 / 32 by omega,
        show (e * w % 1024 + j) % 32 = j by omega]
    · rw [if_neg hj]
      by_cases hj2 : j < w
      · rw [decide_eq_true hj2, Bool.true_and, show (e * w % 1024 + j) / 32 = e * w % 1024 / 32 + 1 by omega,
          show (e * w % 1024 + j) % 32 = j - 32 by omega]
      · rw [decide_eq_false hj2, Bool.false_and]
        exact Nat.testBit_lt_two_pow (lt_of_lt_of_le heldWord_lt (Nat.pow_le_pow_right (by decide) (by omega)))

end Bits

/-! ### A destination written element by element -/

/-- The writes `ws` to vector words are those of the elements of `o` that receive a value, `new e` in element `e`. -/
def ElWrs (o : VOp) (w : Nat) (new : Nat → Option Nat) (ws : List Wr) : Prop :=
  ∀ wr, (wr ∈ ws ∧ 65536 ≤ wr.loc) ↔ ∃ e x, e < 1024 / w * o.n ∧ new e = some x ∧ wr ∈ wrElt o w e x

/-- An element of a group lies in one of its registers. -/
theorem elWidth_reg {w n e : Nat} (hw : ElWidth w) (he : e < 1024 / w * n) : e * w / 1024 < n := by
  rcases hw with rfl | rfl | rfl | rfl | rfl <;> omega

section Elements

variable {o : VOp} {w tick : Nat} {new : Nat → Option Nat} {ws : List Wr} {g g1 : Group} {r r1 : Run}

/-- WHAT ELEMENTS HOLD after they are written: each its new value, or the old one where it receives none. -/
theorem heldEl_after (hw : ElWidth w) (hws : ElWrs o w new ws) (hx : ∀ e x, new e = some x → x < 2 ^ w)
    (h : ∀ reg L, L < 32 → heldWord g1 r1 tick reg L = afterWrs ws (locV reg L) (heldWord g r tick reg L)) {e : Nat} (he : e < 1024 / w * o.n) :
    heldEl g1 r1 tick o w e = (new e).getD (heldEl g r tick o w e) := by
  obtain ⟨hfit, -⟩ := elWidth_place hw e
  apply Nat.eq_of_testBit_eq
  intro j
  rw [testBit_heldEl hw]
  by_cases hj : j < w
  · have hL : (e * w % 1024 + j) / 32 < 32 := by omega
    have hbit : 32 * ((e * w % 1024 + j) / 32) + (e * w % 1024 + j) % 32 = e * w % 1024 + j := Nat.div_add_mod _ _
    have hmem : ∀ wr ∈ ws, wr.loc = locV (o.reg (e * w / 1024)) ((e * w % 1024 + j) / 32) → wr.mask.testBit ((e * w % 1024 + j) % 32) = true →
        ∃ x, new e = some x ∧ wr ∈ wrElt o w e x := by
      intro wr hwr hloc hm
      obtain ⟨e', x, -, hnew, hin⟩ := (hws wr).mp ⟨hwr, by rw [hloc]; unfold locV; omega⟩
      obtain ⟨hreg, hlo, hhi⟩ := (wrElt_covers hw hL (Nat.mod_lt _ (by decide))).mp ⟨wr, hin, hloc, hm⟩
      have : e' = e := eq_of_places_meet (VOp.reg_inj.mp hreg) hlo hhi (by omega) (by omega)
      exact ⟨x, this ▸ hnew, this ▸ hin⟩
    rw [decide_eq_true hj, Bool.true_and, h _ _ hL, testBit_afterWrs (b := ((new e).getD 0).testBit j)]
    · cases hnew : new e with
      | none =>
        rw [if_neg, Option.getD_none, testBit_heldEl hw, decide_eq_true hj, Bool.true_and]
        rintro ⟨wr, hwr, hloc, hm⟩
        obtain ⟨x, hx', -⟩ := hmem wr hwr hloc hm
        rw [hnew] at hx'
        cases hx'
      | some x =>
        obtain ⟨wr, hin, hloc, hm⟩ := (wrElt_covers (o := o) (e := e) (x := x) hw hL (Nat.mod_lt (e * w % 1024 + j) (by decide))).mpr
          ⟨rfl, by omega, by omega⟩
        rw [if_pos ⟨wr, ((hws wr).mpr ⟨e, x, he, hnew, hin⟩).1, hloc, hm⟩]
        rfl
    · intro wr hwr hloc hm
      obtain ⟨x, hnew, hin⟩ := hmem wr hwr hloc hm
      rw [wrElt_bit hw hL hin hloc hm, hbit, Nat.add_sub_cancel_left, hnew, Option.getD_some, Nat.mod_eq_of_lt (hx e x hnew)]
  · rw [decide_eq_false hj, Bool.false_and]
    have hhigh : ∀ y < 2 ^ w, y.testBit j = false := fun y hy =>
      Nat.testBit_lt_two_pow (lt_of_lt_of_le hy (Nat.pow_le_pow_right (by decide) (by omega)))
    cases hnew : new e with
    | none => rw [Option.getD_none, testBit_heldEl hw, decide_eq_false hj, Bool.false_and]
    | some x => exact (hhigh x (hx e x hnew)).symm

/-- Words of other registers stay. -/
theorem heldWord_of_not_reg (hw : ElWidth w) (hws : ElWrs o w new ws) {reg L : Nat} (hL : L < 32) (h : ∀ k, k < o.n → reg ≠ o.reg k) (old : Nat) :
    afterWrs ws (locV reg L) old = old := by
  refine afterWrs_of_not_mem old fun wr hwr hloc => ?_
  obtain ⟨e, x, he, -, hin⟩ := (hws wr).mp ⟨hwr, by rw [hloc]; unfold locV; omega⟩
  obtain ⟨L', hL', hloc', -⟩ := wrElt_loc hw hin
  exact h _ (elWidth_reg hw he) ((locV_inj hL hL').mp (hloc.symm.trans hloc')).1

/-- The registers of which some word is written are those with an element that receives a value (R225). -/
theorem mem_writtenRegs (hw : ElWidth w) (hws : ElWrs o w new ws) {reg : Nat} :
    reg ∈ writtenRegs o ws ↔ ∃ k, k < o.n ∧ reg = o.reg k ∧ ∃ i, i < 1024 / w ∧ (new (1024 / w * k + i)).isSome = true := by
  have hsplit : ∀ e, e = 1024 / w * (e * w / 1024) + e % (1024 / w) ∧ e % (1024 / w) < 1024 / w := by
    intro e
    rcases hw with rfl | rfl | rfl | rfl | rfl <;> omega
  have hjoin : ∀ k i, i < 1024 / w → (1024 / w * k + i) * w / 1024 = k := by
    intro k i hi
    rcases hw with rfl | rfl | rfl | rfl | rfl <;> omega
  have hin : ∀ k i, k < o.n → i < 1024 / w → 1024 / w * k + i < 1024 / w * o.n := fun k i hk hi =>
    calc 1024 / w * k + i < 1024 / w * (k + 1) := by rw [Nat.mul_add_one]; omega
      _ ≤ 1024 / w * o.n := Nat.mul_le_mul_left _ hk
  simp only [writtenRegs, List.mem_filter, List.mem_map, List.mem_range, List.any_eq_true, Bool.and_eq_true, decide_eq_true_eq]
  constructor
  · rintro ⟨⟨k, hk, rfl⟩, wr, hwr, hlo, hhi⟩
    obtain ⟨e, x, -, hnew, hel⟩ := (hws wr).mp ⟨hwr, by unfold locV at hlo; omega⟩
    obtain ⟨L, hL, hloc, -⟩ := wrElt_loc hw hel
    have hreg : o.reg (e * w / 1024) = o.reg k := by unfold locV at hloc hlo hhi; omega
    refine ⟨k, hk, rfl, e % (1024 / w), (hsplit e).2, ?_⟩
    rw [← VOp.reg_inj.mp hreg, ← (hsplit e).1, hnew]
    rfl
  · rintro ⟨k, hk, rfl, i, hi, hsome⟩
    obtain ⟨x, hnew⟩ := Option.isSome_iff_exists.mp hsome
    obtain ⟨hfit, -⟩ := elWidth_place hw (1024 / w * k + i)
    have hL : (1024 / w * k + i) * w % 1024 / 32 < 32 := by omega
    obtain ⟨wr, hel, hloc, -⟩ := (wrElt_covers (o := o) (e := 1024 / w * k + i) (x := x) hw hL (Nat.mod_lt ((1024 / w * k + i) * w % 1024)
      (show 0 < 32 by decide))).mpr ⟨rfl, by omega, by have := elWidth_pos hw; omega⟩
    rw [hjoin k i hi] at hloc
    exact ⟨⟨k, hk, rfl⟩, wr, ((hws wr).mpr ⟨_, x, hin k i hk hi, hnew, hel⟩).1, by unfold locV at hloc ⊢; omega,
      by unfold locV at hloc ⊢; omega⟩

end Elements

/-! ### Results of the elements together -/

theorem wrs_foldl_and {α : Type} (f : α → LaneRes) (l : List α) (a : LaneRes) :
    (l.foldl (fun acc e => acc.and (f e)) a).wrs = a.wrs ++ l.flatMap (fun e => (f e).wrs) := by
  induction l generalizing a with
  | nil => simp
  | cons e l ih => rw [List.foldl_cons, ih, List.flatMap_cons, ← List.append_assoc]; rfl

theorem sat_foldl_and {α : Type} (f : α → LaneRes) (l : List α) (a : LaneRes) :
    (l.foldl (fun acc e => acc.and (f e)) a).sat = (a.sat || l.any (fun e => (f e).sat)) := by
  induction l generalizing a with
  | nil => simp
  | cons e l ih => rw [List.foldl_cons, ih, List.any_cons, ← Bool.or_assoc]; rfl

theorem flags_foldl_and {α : Type} (f : α → LaneRes) (l : List α) (a : LaneRes) :
    (l.foldl (fun acc e => acc.and (f e)) a).flags = l.foldl (fun n e => n ||| (f e).flags) a.flags := by
  induction l generalizing a with
  | nil => rfl
  | cons e l ih => exact ih _

theorem testBit_foldl_or {α : Type} (f : α → Nat) (l : List α) (a i : Nat) :
    (l.foldl (fun n e => n ||| f e) a).testBit i = (a.testBit i || l.any (fun e => (f e).testBit i)) := by
  induction l generalizing a with
  | nil => simp
  | cons e l ih => rw [List.foldl_cons, ih, Nat.testBit_or, List.any_cons, Bool.or_assoc]

theorem any_congr_mem {α : Type} {p q : α → Bool} {l : List α} (h : ∀ e ∈ l, p e = q e) : l.any p = l.any q := by
  rw [Bool.eq_iff_iff, List.any_eq_true, List.any_eq_true]
  exact exists_congr fun e => and_congr_right fun he => by rw [h e he]

/-- Elements left out of a sum of flags raise none. -/
theorem foldl_or_filter {α : Type} {p : α → Bool} {f f' : α → Nat} {l : List α} (h : ∀ e ∈ l, f e = if p e then f' e else 0) (a b : Nat) :
    a ||| (b ||| l.foldl (fun n e => n ||| f e) 0) = (l.filter p).foldl (fun n e => n ||| f' e) (a ||| b) := by
  apply Nat.eq_of_testBit_eq
  intro i
  rw [Nat.testBit_or, Nat.testBit_or, testBit_foldl_or, testBit_foldl_or, Nat.zero_testBit, Bool.false_or, List.any_filter, Nat.testBit_or,
    Bool.or_assoc]
  congr 2
  refine any_congr_mem fun e he => ?_
  rw [h e he]
  cases p e <;> simp

/-! ### Elements by their classes -/

section Classes

variable {c : Ctx} {o : VOp} {w : Nat} {pred : Nat → Bool} {f : Nat → ElRes}

theorem mem_policyW {wr : Wr} {e : Nat} {b : Bool} :
    wr ∈ policyW o w e b ↔ ∃ x, (if b then some (2 ^ w - 1) else none) = some x ∧ wr ∈ wrElt o w e x := by
  cases b <;> simp [policyW]

theorem wrElt_mod (o : VOp) (w e x : Nat) : wrElt o w e (x % 2 ^ w) = wrElt o w e x := by
  unfold wrElt
  rw [Nat.mod_mod]

/-- An element's class says which value it receives (R222). -/
theorem mem_elemClass_wrs {wr : Wr} (e : Nat) :
    wr ∈ (elemClass c o w pred f e).wrs ↔ ∃ x, laneNew c w pred f e = some x ∧ wr ∈ wrElt o w e x := by
  unfold elemClass laneNew
  dsimp only
  split
  · simp
  · split
    · exact mem_policyW
    · split
      · exact mem_policyW
      · simp [wrElt_mod]

theorem laneNew_lt {e x : Nat} (h : laneNew c w pred f e = some x) : x < 2 ^ w := by
  have hpos := Nat.two_pow_pos w
  unfold laneNew at h
  split_ifs at h <;> cases h
  · omega
  · omega
  · exact Nat.mod_lt _ hpos

theorem elemClass_of_active {e : Nat} (h : activeEl c w pred e = true) : elemClass c o w pred f e =
    { wrs := wrElt o w e (f e).val, flags := if c.g.isLive (laneOf w e) then (f e).flags else 0, sat := (f e).sat && c.g.isLive (laneOf w e) } := by
  simp only [activeEl, Bool.and_eq_true, decide_eq_true_eq] at h
  obtain ⟨⟨hvl, hact⟩, hp⟩ := h
  simp [elemClass, hact, hp, Nat.not_le.mpr hvl]

theorem elemClass_of_inactive {e : Nat} (h : activeEl c w pred e = false) :
    (elemClass c o w pred f e).flags = 0 ∧ (elemClass c o w pred f e).sat = false := by
  unfold elemClass
  dsimp only
  by_cases hact : c.act (laneOf w e) = true
  · by_cases hvl : c.g.vl ≤ e
    · simp [hact, hvl]
    · have hp : pred e = false := by simpa [activeEl, hact, Nat.lt_of_not_le hvl] using h
      simp [hact, hvl, hp]
  · simp [hact]

/-- Flags and `sat` come from the active elements of live lanes (R48, R53, R88). -/
theorem elemClass_flags (e : Nat) :
    (elemClass c o w pred f e).flags = if activeEl c w pred e && c.g.isLive (laneOf w e) then (f e).flags else 0 := by
  cases h : activeEl c w pred e with
  | false => rw [(elemClass_of_inactive h).1]; rfl
  | true => rw [elemClass_of_active h, Bool.true_and]

theorem elemClass_sat (e : Nat) : (elemClass c o w pred f e).sat = (activeEl c w pred e && c.g.isLive (laneOf w e) && (f e).sat) := by
  cases h : activeEl c w pred e with
  | false => rw [(elemClass_of_inactive h).2]; rfl
  | true => rw [elemClass_of_active h, Bool.true_and, Bool.and_comm]

end Classes

/-- The elements `es` of a destination by their classes, none but those with `p`. -/
theorem elWrs_of_classes {c : Ctx} {o : VOp} {w : Nat} {pred p : Nat → Bool} {f : Nat → ElRes} {ws : List Wr} (hw : ElWidth w)
    (h : ws = (List.range (1024 / w * o.n)).flatMap (fun e => if p e then (elemClass c o w pred f e).wrs else [])) :
    ElWrs o w (fun e => if p e then laneNew c w pred f e else none) ws := by
  intro wr
  rw [h]
  simp only [List.mem_flatMap, List.mem_range]
  constructor
  · rintro ⟨⟨e, he, hin⟩, -⟩
    cases hp : p e with
    | false => simp [hp] at hin
    | true =>
      rw [hp, if_pos rfl, mem_elemClass_wrs] at hin
      obtain ⟨x, hnew, hel⟩ := hin
      exact ⟨e, x, he, by rw [if_pos hp, hnew], hel⟩
  · rintro ⟨e, x, he, hnew, hel⟩
    obtain ⟨L, -, hloc, -⟩ := wrElt_loc hw hel
    cases hp : p e with
    | false => simp [hp] at hnew
    | true =>
      rw [hp, if_pos rfl] at hnew
      exact ⟨⟨e, he, by rw [hp, if_pos rfl, mem_elemClass_wrs]; exact ⟨x, hnew, hel⟩⟩, by rw [hloc]; unfold locV; omega⟩

end Sys2Proof.Machine
end

section
/-! PROOFS. The lane instructions with an element-wise destination: what a forced reconstruction writes, the completion `LaneDone` of a
commit, and the forms of the statements (R61, R222 to R226, R281, R282). -/

namespace Sys2Proof.Machine

/-! ### What a reconstruction writes -/

/-- Writes to words and tags of window registers. -/
def WindowWrs (ws : List Wr) : Prop := ∀ w ∈ ws, (∃ reg L, reg < 256 ∧ L < 32 ∧ w.loc = locV reg L ∧ w.mask < 2 ^ 32) ∨
  ∃ reg, reg < 256 ∧ w.loc = locTag reg ∧ w.mask = 255

theorem WindowWrs.vecWrs {ws : List Wr} (h : WindowWrs ws) : VecWrs ws := fun w hw => by
  rcases h w hw with ⟨reg, L, hreg, hL, hloc, hm⟩ | ⟨reg, hreg, hloc, hm⟩
  · rw [hloc]
    exact ⟨isVec_locV reg L, by rw [vecBits_locV]; exact hm⟩
  · rw [hloc, hm]
    exact ⟨isVec_locTag hreg, by rw [vecBits_locTag hreg]; decide⟩

theorem WindowWrs.le_loc {ws : List Wr} (h : WindowWrs ws) : ∀ w ∈ ws, 16384 ≤ w.loc := fun w hw => by
  rcases h w hw with ⟨reg, L, -, -, hloc, -⟩ | ⟨reg, -, hloc, -⟩
  · rw [hloc]; unfold locV; omega
  · rw [hloc]; unfold locTag; omega

/-- Words are held after writes of window registers as the group that has taken them holds them. -/
theorem WindowWrs.heldWord_putAll {ws : List Wr} (h : WindowWrs ws) (g : Group) (r : Run) (tick reg : Nat) {L : Nat} (hL : L < 32) :
    heldWord (g.putAll ws) r tick reg L = afterWrs ws (locV reg L) (heldWord g r tick reg L) := by
  rw [heldWord_eq hL, heldWord_eq hL]
  split
  · refine (afterWrs_of_not_mem _ fun w hw hloc => ?_).symm
    rcases h w hw with ⟨reg', L', hreg, hL', hloc', -⟩ | ⟨reg', hreg, hloc', -⟩
    · have := ((locV_inj hL hL').mp (hloc.symm.trans hloc')).1
      omega
    · rw [hloc'] at hloc
      unfold locTag locV at hloc
      omega
  · exact getLoc_putAll (isVec_locV _ _) h.vecWrs

/-- A block of a reconstruction lies in window registers. -/
theorem reconBlock_wrs {c : Ctx} {F : Fmt} {b u L : Nat} (hF : F.bits = 8 ∨ F.bits = 16 ∨ F.bits = 32) (hb : b + u ≤ 256) :
    WindowWrs (reconBlock c F b u L).wrs := by
  have hw : ElWidth F.bits := by unfold ElWidth; omega
  unfold reconBlock
  dsimp only
  rw [wrs_foldl_and]
  intro wr hwr
  simp only [List.mem_append, List.mem_flatMap, List.mem_range] at hwr
  rcases hwr with ⟨i, hi, hin⟩ | ⟨j, hj, r, hr, hin⟩
  · rw [wrTag, if_neg (by omega), List.mem_singleton] at hin
    exact .inr ⟨b + i, by omega, by rw [hin], by rw [hin]⟩
  · obtain ⟨L, hL, hloc, hm⟩ := wrElt_loc hw hin
    refine .inl ⟨_, L, ?_, hL, hloc, hm⟩
    have hplace : (r % 4 * 256 + j * F.bits) / F.bits * F.bits / 1024 = 0 := by
      rcases hF with h | h | h <;> rw [h] at hj ⊢ <;> omega
    rw [hplace]
    simp only [VOp.reg, Bool.false_eq_true, if_false]
    omega

/-- WHAT A RECONSTRUCTION WRITES: words and tags of the blocks inside its operands. -/
theorem reconRegs_wrs {c : Ctx} {hs : List (Nat × Nat × Bool)} {w : Nat} {rc : Recon} (h : reconRegs c hs (reconFmt w) = .ok rc)
    (hin : ∀ x ∈ hs, x.2.2 = true → (haarBlock x.1 x.2.1).1 + (haarBlock x.1 x.2.1).2 ≤ 256) : WindowWrs rc.res.wrs := by
  unfold reconRegs at h
  dsimp only at h
  split at h
  · cases h
    exact nofun
  · split at h
    · cases h
    · rename_i hall
      split at h
      · cases h
      · split at h
        · cases h
        · split at h
          · cases h
          · rename_i F hF
            cases h
            dsimp only
            rw [wrs_foldl_and]
            intro wr hwr
            simp only [List.nil_append, List.mem_flatMap, List.mem_eraseDups, List.mem_map] at hwr
            obtain ⟨b, ⟨x, hx, rfl⟩, hmem⟩ := hwr
            rw [Bool.not_eq_true, Bool.not_eq_false'] at hall
            refine reconBlock_wrs ?_ (hin x hx (List.all_eq_true.mp hall x hx)) wr hmem
            unfold reconFmt at hF
            split at hF <;> cases hF <;> decide

/-- THE TAG RULE writes words and tags of window registers alone. -/
theorem tagRule_wrs {c : Ctx} {k : TagClass} {srcs : List VOp} {w tag : Nat} {rc : Recon} (h : tagRule c k srcs (reconFmt w) = .ok (tag, rc))
    (hin : ∀ o ∈ srcs, o.exists') : WindowWrs rc.res.wrs := by
  have hrec : ∀ {rc}, reconstruct c srcs (reconFmt w) = .ok rc → WindowWrs rc.res.wrs := by
    intro rc hrc
    refine reconRegs_wrs hrc fun x hx hfit => ?_
    simp only [List.mem_flatMap, List.mem_map] at hx
    obtain ⟨o, ho, y, hy, rfl⟩ := hx
    simp only [Bool.and_eq_true, decide_eq_true_eq] at hfit
    obtain ⟨-, -, hex⟩ := hin o ho
    have htemp : o.temp = false := by
      cases ht : o.temp with
      | false => rfl
      | true => simp [haarRegs, ht] at hy
    rw [htemp] at hex
    exact hfit.2.trans hex
  unfold tagRule at h
  split at h
  · cases h; exact nofun
  · cases h; exact nofun
  · cases hr : reconstruct c srcs (reconFmt w) with
    | error t => rw [hr] at h; cases h
    | ok rc' =>
      rw [hr] at h
      cases h
      exact hrec hr

/-! ### The completion of a commit -/

/-- The tags written are those of registers with a word written (R225). -/
theorem mem_tagWrs {o : VOp} {tag : Nat} {ws : List Wr} {wr : Wr} :
    wr ∈ tagWrs o tag ws ↔ ∃ reg, reg ∈ writtenRegs o ws ∧ reg < 2000 ∧ wr = ⟨locTag reg, 255, tag⟩ := by
  simp only [tagWrs, List.mem_flatMap]
  refine exists_congr fun reg => and_congr_right fun _ => ?_
  unfold wrTag
  split
  · simp; omega
  · simp; omega

/-- The registers of a destination there is: window registers or temporaries. -/
theorem VOp.exists'.reg_lt {o : VOp} (ho : o.exists') {k : Nat} (hk : k < o.n) : o.reg k < 256 ∨ 2000 ≤ o.reg k := by
  obtain ⟨-, -, hin⟩ := ho
  unfold VOp.reg tempReg
  split
  · omega
  · rw [if_neg ‹_›] at hin
    omega

theorem tagWrs_window {o : VOp} (ho : o.exists') (tag : Nat) (ws : List Wr) : WindowWrs (tagWrs o tag ws) := by
  intro wr hwr
  obtain ⟨reg, hreg, hlt, rfl⟩ := mem_tagWrs.mp hwr
  simp only [writtenRegs, List.mem_filter, List.mem_map, List.mem_range] at hreg
  obtain ⟨⟨k, hk, rfl⟩, -⟩ := hreg
  have := ho.reg_lt hk
  exact .inr ⟨_, by omega, rfl, rfl⟩

/-- A byte whose writes all replace it by the same value. -/
theorem afterWrs_byte {ws : List Wr} {l x old : Nat} (hold : old < 256) (h : ∀ wr ∈ ws, wr.loc = l → wr = ⟨l, 255, x⟩) :
    afterWrs ws l old = if ∃ wr ∈ ws, wr.loc = l then x % 256 else old := by
  split
  · rename_i hin
    obtain ⟨wr, hwr, hloc⟩ := hin
    apply Nat.eq_of_testBit_eq
    intro i
    rw [testBit_afterWrs (b := x.testBit i) (fun wr hwr hloc _ => by rw [h wr hwr hloc]), show 256 = 2 ^ 8 by rfl, Nat.testBit_mod_two_pow]
    by_cases hi : i < 8
    · have hm : (255 : Nat).testBit i = true := (Nat.testBit_two_pow_sub_one 8 i).trans (decide_eq_true hi)
      rw [if_pos ⟨wr, hwr, hloc, by rw [h wr hwr hloc]; exact hm⟩, decide_eq_true hi, Bool.true_and]
    · rw [if_neg ?_, decide_eq_false hi, Bool.false_and]
      · exact Nat.testBit_lt_two_pow (lt_of_lt_of_le (show old < 2 ^ 8 from hold) (Nat.pow_le_pow_right (by decide) (by omega)))
      · rintro ⟨wr, hwr, hloc, hm⟩
        rw [h wr hwr hloc] at hm
        exact hi (of_decide_eq_true ((Nat.testBit_two_pow_sub_one 8 i).symm.trans hm))
  · rename_i hnot
    exact afterWrs_of_not_mem _ fun wr hwr hloc => hnot ⟨wr, hwr, hloc⟩

/-- What a tag is after the tags written. -/
theorem afterWrs_tagWrs {o : VOp} {tag reg old : Nat} {ws : List Wr} (hreg : reg < 256) (hold : old < 256) :
    afterWrs (tagWrs o tag ws) (locTag reg) old = if reg ∈ writtenRegs o ws then tag % 256 else old := by
  have hcov : ∀ wr, wr ∈ tagWrs o tag ws ∧ wr.loc = locTag reg ↔ reg ∈ writtenRegs o ws ∧ wr = ⟨locTag reg, 255, tag⟩ := by
    intro wr
    rw [mem_tagWrs]
    constructor
    · rintro ⟨⟨reg', hin, -, rfl⟩, hloc⟩
      obtain rfl : reg' = reg := by simpa [locTag] using hloc
      exact ⟨hin, rfl⟩
    · rintro ⟨hin, rfl⟩
      exact ⟨⟨reg, hin, by omega, rfl⟩, rfl⟩
  rw [afterWrs_byte hold fun wr hwr hloc => ((hcov wr).mp ⟨hwr, hloc⟩).2]
  simp only [hcov, exists_and_left, exists_eq, and_true]

section Done

variable {i : Instr} {sz : Nat} {s s1 : State} {c : Ctx} {rc : Recon} {o : VOp} {w tag : Nat} {new : Nat → Option Nat} {ws : List Wr}
  {gx g1 : Group} {r1 : Run}

/-- Element writes go to words within their width. -/
theorem ElWrs.vecWrs (hw : ElWidth w) (hws : ElWrs o w new ws) (hlo : ∀ wr ∈ ws, 65536 ≤ wr.loc) : VecWrs ws := by
  intro wr hwr
  obtain ⟨e, x, -, -, hin⟩ := (hws wr).mp ⟨hwr, hlo wr hwr⟩
  obtain ⟨L, -, hloc, hm⟩ := wrElt_loc hw hin
  rw [hloc]
  exact ⟨isVec_locV _ _, by rw [vecBits_locV]; exact hm⟩

/-- Words after the writes of a lane instruction: the elements' writes on what the reconstruction left. -/
theorem LaneWritten.heldWord (h : LaneWritten c (rc.res.wrs ++ ws ++ tagWrs o tag ws) gx g1 r1) (hrc : WindowWrs rc.res.wrs)
    (reg L : Nat) (hL : L < 32) : heldWord g1 r1 c.tick reg L =
      afterWrs ws (locV reg L) (Machine.heldWord (c.g.putAll rc.res.wrs) c.run c.tick reg L) := by
  rw [h.words reg L hL, afterWrs_append, afterWrs_append, hrc.heldWord_putAll _ _ _ _ hL]
  refine afterWrs_of_not_mem _ fun wr hwr hloc => ?_
  obtain ⟨reg', hreg', hlt, rfl⟩ := mem_tagWrs.mp hwr
  simp only [locTag, locV] at hloc
  omega

/-- Tags after the writes of a lane instruction (R225). -/
theorem LaneWritten.tagGet (h : LaneWritten c (rc.res.wrs ++ ws ++ tagWrs o tag ws) gx g1 r1) (hrc : WindowWrs rc.res.wrs)
    (hws : ∀ wr ∈ ws, ∀ reg, reg < 256 → wr.loc ≠ locTag reg) {reg : Nat} (hreg : reg < 256) :
    g1.tagGet reg = if reg ∈ writtenRegs o ws then BitVec.ofNat 8 tag else (c.g.putAll rc.res.wrs).tagGet reg := by
  apply BitVec.eq_of_toNat_eq
  have hloc := h.locs (locTag reg) (isVec_locTag hreg) (by unfold locTag; omega)
  rw [afterWrs_append, afterWrs_append, ← getLoc_putAll (isVec_locTag hreg) hrc.vecWrs, afterWrs_of_not_mem _ (fun wr hwr => hws wr hwr reg hreg),
    getLoc_locTag _ hreg, getLoc_locTag _ hreg, afterWrs_tagWrs hreg (BitVec.isLt _)] at hloc
  rw [hloc]
  split
  · rw [BitVec.toNat_ofNat]
  · rfl

/-- A window register of a destination with an element that receives a value. -/
theorem mem_writtenRegs_window (hw : ElWidth w) (hws : ElWrs o w new ws) {reg : Nat} (hreg : reg < 256) :
    reg ∈ writtenRegs o ws ↔ o.temp = false ∧ o.idx ≤ reg ∧ reg < o.idx + o.n ∧
      (List.range (1024 / w)).any (fun k => (new (1024 / w * (reg - o.idx) + k)).isSome) = true := by
  rw [mem_writtenRegs hw hws]
  simp only [List.any_eq_true, List.mem_range]
  constructor
  · rintro ⟨k, hk, rfl, hsome⟩
    cases ht : o.temp with
    | true => simp [VOp.reg, ht, tempReg] at hreg; omega
    | false =>
      have hr : o.reg k = o.idx + k := by simp [VOp.reg, ht]
      rw [hr, Nat.add_sub_cancel_left]
      exact ⟨rfl, by omega, by omega, hsome⟩
  · rintro ⟨ht, hlo, hhi, hsome⟩
    exact ⟨reg - o.idx, by omega, by simp [VOp.reg, ht]; omega, hsome⟩

/-- THE COMPLETION OF A LANE INSTRUCTION from the writes of its commit. -/
theorem laneDone_of_written (hnext : exec i s = .next (retire sz c.slot s1)) (honly : OnlyIssuer c (countRecon c.co.core rc s) s1 g1 r1)
    (h : LaneWritten c (rc.res.wrs ++ ws ++ tagWrs o tag ws) gx g1 r1) (hrc : WindowWrs rc.res.wrs) (ho : o.exists') (hw : ElWidth w)
    (hws : ElWrs o w new ws) (hlo : ∀ wr ∈ ws, 65536 ≤ wr.loc) (hx : ∀ e x, new e = some x → x < 2 ^ w) :
    LaneDone i sz c s rc o w tag new gx s1 g1 r1 where
  next := hnext
  only := honly
  els e he := heldEl_after hw hws hx (h.heldWord hrc) he
  words reg L hL hreg := by rw [h.heldWord hrc reg L hL, heldWord_of_not_reg hw hws hL hreg]
  tags reg hreg := by
    rw [h.tagGet hrc (fun wr hwr r _ hloc => by have := hlo wr hwr; unfold locTag at hloc; omega) hreg]
    exact if_congr (mem_writtenRegs_window hw hws hreg) rfl rfl
  group := by
    have hs : g1.scale = gx.scale := h.scale fun wr hwr => by
      rcases List.mem_append.mp hwr with hwr | hwr
      · rcases List.mem_append.mp hwr with hwr | hwr
        · exact hrc.le_loc wr hwr
        · have := hlo wr hwr; omega
      · exact (tagWrs_window ho tag ws).le_loc wr hwr
    rw [h.group, hs]
    rfl
  run := h.run

end Done

/-! ### Results by element -/

/-- A result without effect. -/
theorem LaneRes.and_empty (a : LaneRes) : a.and {} = a := by simp [LaneRes.and]

/-- The results of the elements with `p`, one after another. -/
theorem foldl_and_if {f : Nat → LaneRes} (p : Nat → Bool) (l : List Nat) (a : LaneRes) :
    l.foldl (fun acc e => if p e then acc.and (f e) else acc) a = l.foldl (fun acc e => acc.and (if p e then f e else {})) a :=
  congrArg (fun g => l.foldl g a) (funext fun acc => funext fun e => by cases p e <;> simp [LaneRes.and_empty])

/-- The elements with `p` of a destination group of `n` registers by their classes. -/
def elemClasses (c : Ctx) (o : VOp) (w n : Nat) (pred p : Nat → Bool) (f : Nat → ElRes) : LaneRes :=
  (List.range (1024 / w * n)).foldl (fun acc e => acc.and (if p e then elemClass c o w pred f e else {})) {}

theorem elemwise_eq (c : Ctx) (o : VOp) (w : Nat) (pred : Nat → Bool) (f : Nat → ElRes) :
    elemwise c o w pred f = elemClasses c o w o.n pred (fun _ => true) f := rfl

/-- The flags and `sat` of the elements with `p` together (R48). -/
theorem flagged_classes (g : Group) (c : Ctx) (o : VOp) (w n : Nat) (pred p : Nat → Bool) (f : Nat → ElRes) (more : Nat) :
    g.flagged ((flagEls c w n pred).filter p) f more = { g with
      fflags := g.fflags ||| (more ||| (elemClasses c o w n pred p f).flags)
      sat := g.sat || (elemClasses c o w n pred p f).sat } := by
  have hfl : ∀ e, (if p e then elemClass c o w pred f e else {}).flags =
      if p e && (activeEl c w pred e && c.g.isLive (laneOf w e)) then (f e).flags else 0 := fun e => by
    cases p e
    · rfl
    · exact elemClass_flags e
  have hsat : ∀ e, (if p e then elemClass c o w pred f e else {}).sat =
      (p e && (activeEl c w pred e && c.g.isLive (laneOf w e)) && (f e).sat) := fun e => by
    cases p e
    · rfl
    · exact elemClass_sat e
  unfold Group.flagged flagEls elemClasses
  rw [flags_foldl_and, sat_foldl_and, foldl_or_filter (fun e _ => hfl e), Bool.false_or, List.filter_filter, List.any_filter,
    any_congr_mem (fun e _ => hsat e)]

theorem elWrs_elemClasses {c : Ctx} {o : VOp} {w : Nat} {pred : Nat → Bool} {f : Nat → ElRes} (hw : ElWidth w) (p : Nat → Bool) :
    ElWrs o w (fun e => if p e then laneNew c w pred f e else none) (elemClasses c o w o.n pred p f).wrs := by
  refine elWrs_of_classes hw ?_
  rw [elemClasses, wrs_foldl_and]
  exact congrArg (List.flatMap · _) (funext fun e => by cases p e <;> rfl)

theorem le_loc_elemClasses {c : Ctx} {o : VOp} {w n : Nat} {pred p : Nat → Bool} {f : Nat → ElRes} (hw : ElWidth w) :
    ∀ wr ∈ (elemClasses c o w n pred p f).wrs, 65536 ≤ wr.loc := by
  intro wr hwr
  rw [elemClasses, wrs_foldl_and] at hwr
  simp only [List.nil_append, List.mem_flatMap] at hwr
  obtain ⟨e, -, hin⟩ := hwr
  cases hp : p e with
  | false => simp [hp] at hin
  | true =>
    rw [hp, if_pos rfl, mem_elemClass_wrs] at hin
    obtain ⟨x, -, hel⟩ := hin
    obtain ⟨L, -, hloc, -⟩ := wrElt_loc hw hel
    rw [hloc]
    unfold locV
    omega

/-- Reading an element gives a number of its width. -/
theorem elt_lt (c : Ctx) (o : VOp) (w e : Nat) : elt c o w e < 2 ^ w := by
  unfold elt
  dsimp only
  split <;> exact Nat.mod_lt _ (Nat.two_pow_pos w)

/-- `vtype` stays as registers are written. -/
theorem sew_after (c : Ctx) (ws : List Wr) : (c.after ws).g.sew = c.g.sew := by
  have key : ∀ g : Group, (ws.foldl (fun g w => g.setLoc w.loc (merge (g.getLoc w.loc) w)) g).vtype = g.vtype := by
    induction ws with
    | nil => exact fun _ => rfl
    | cons w ws ih => intro g; rw [List.foldl_cons, ih, Group.setLoc_vtype]
  unfold Group.sew
  exact congrArg (fun v => 4 * 2 ^ (v % 8)) (key c.g)

/-! ### The forms -/

section Forms

variable {i : Instr} {sz : Nat} {s : State} {c : Ctx} {d : VOp} {srcs tagged : List VOp} {w detail : Nat} {legal : Bool} {k : TagClass}
  {pred : Ctx → Nat → Bool} {res : Ctx → Nat → ElRes} {f : Ctx → Except Trap State} {run : Ctx → LaneRes}

/-- The body of a lane instruction with its operands at hand: checks, tags, then `done` (R61). -/
def laneSteps (c : Ctx) (legal : Bool) (detail : Nat) (d : VOp) (srcs tagged : List VOp) (k : TagClass) (F : Option Fmt)
    (done : Nat → Recon → State) : Except Trap State := do
  laneChecks c legal detail [d] (d :: srcs)
  let (tag, rc) ← tagRule c k tagged F
  return done tag rc

/-- The order of R61: a failed check traps, else what the tags call for, else the instruction completes. -/
theorem exec_of_laneSteps {F : Option Fmt} {done : Nat → Recon → State} (h : ctxOf s = some c) (he : exec i s = issue sz s f)
    (hf : f c = laneSteps c legal detail d srcs tagged k F done) :
    (∀ t, laneChecks c legal detail [d] (d :: srcs) = .error t → exec i s = .next (takeTrap c t s)) ∧
    (laneChecks c legal detail [d] (d :: srcs) = .ok () →
      (∀ t, tagRule c k tagged F = .error t → exec i s = .next (takeTrap c t s)) ∧
      (∀ tag rc, tagRule c k tagged F = .ok (tag, rc) → exec i s = .next (retire sz c.slot (done tag rc)))) := by
  unfold laneSteps at hf
  refine ⟨fun t hchk => exec_trap h he (by rw [hf, hchk]; rfl), fun hchk => ⟨fun t ht => exec_trap h he (by rw [hf, hchk, ht]; rfl),
    fun tag rc ht => he.trans (issue_ok h (by rw [hf, hchk, ht]; rfl))⟩⟩

/-- Operands there are, tags among them: what their reconstruction writes. -/
theorem tagRule_wrs_of_subset {tag : Nat} {rc : Recon} (htag : ∀ o ∈ tagged, o ∈ d :: srcs) (ht : tagRule c k tagged (reconFmt w) = .ok (tag, rc))
    (hd : d.exists') (hs : ∀ o ∈ srcs, o.exists') : WindowWrs rc.res.wrs :=
  tagRule_wrs ht fun o ho => (List.mem_cons.mp (htag o ho)).elim (fun e => e ▸ hd) (hs o)

/-- The commit of elements by their classes: the registers as `LaneWritten` has them, flags and `sat` as `Group.flagged`. -/
theorem commit_elemClasses {rc : Recon} (h : ctxOf s = some c) (hrc : WindowWrs rc.res.wrs) (hd : d.exists') (hw : ElWidth w) (tag : Nat) (c' : Ctx)
    (pred p : Nat → Bool) (res : Nat → ElRes) :
    ∃ g1 r1, OnlyIssuer c (countRecon c.co.core rc s) (commitLane c d tag rc (elemClasses c' d w d.n pred p res) s) g1 r1 ∧
      LaneWritten c (rc.res.wrs ++ (elemClasses c' d w d.n pred p res).wrs ++ tagWrs d tag (elemClasses c' d w d.n pred p res).wrs)
        (c.g.flagged ((flagEls c' w d.n pred).filter p) res rc.res.flags) g1 r1 := by
  rw [flagged_classes _ _ d]
  exact commitLane_written h d tag rc _ (vecWrs_append.mpr ⟨vecWrs_append.mpr ⟨hrc.vecWrs,
    (elWrs_elemClasses hw p).vecWrs hw (le_loc_elemClasses hw)⟩, (tagWrs_window hd tag _).vecWrs⟩)

/-- A LANE INSTRUCTION whose results are element by element. -/
theorem elementForm_of_steps (h : ctxOf s = some c) (hw : ElWidth w) (htag : ∀ o ∈ tagged, o ∈ d :: srcs) (he : exec i s = issue sz s f)
    (hf : f c = laneSteps c legal detail d srcs tagged k (reconFmt w) (fun tag rc => commitLane c d tag rc (run (c.after rc.res.wrs)) s))
    (hrun : ∀ ws, run (c.after ws) = elemwise (c.after ws) d w (pred (c.after ws)) (res (c.after ws))) :
    ElementForm i sz c s legal detail d srcs tagged w k (reconFmt w) pred res := by
  obtain ⟨hfail, hpass⟩ := exec_of_laneSteps h he hf
  refine ⟨hfail, fun hchk => ⟨(hpass hchk).1, fun tag rc ht hd hs => ?_⟩⟩
  have hnext := (hpass hchk).2 tag rc ht
  have hrc := tagRule_wrs_of_subset htag ht hd hs
  rw [hrun, elemwise_eq] at hnext
  obtain ⟨g1, r1, honly, hwr⟩ := commit_elemClasses h hrc hd hw tag (c.after rc.res.wrs) (pred (c.after rc.res.wrs)) (fun _ => true)
    (res (c.after rc.res.wrs))
  rw [List.filter_true] at hwr
  exact ⟨_, g1, r1, laneDone_of_written hnext honly hwr hrc hd hw (elWrs_elemClasses hw _) (le_loc_elemClasses hw) (fun _ _ => laneNew_lt)⟩

/-- The general lane instruction (`laneElem`) with results element by element. -/
theorem elementForm_of_laneElem {legal' : Ctx → Bool} {ops : Ctx → VOp × List VOp} {readsD : Bool} {run' : Ctx → VOp → List VOp → LaneRes}
    (h : ctxOf s = some c) (hsew : c.g.sew ≤ 64) (he : exec i s = laneElem sz s legal' ops readsD k (fun c => reconFmt c.g.sew) run')
    (hl : legal' c = legal) (hops : ops c = (d, srcs))
    (hrun : ∀ c' : Ctx, c'.g.sew = c.g.sew → run' c' d srcs = elemwise c' d c.g.sew (pred c') (res c')) :
    ElementForm i sz c s legal 2 d srcs (if readsD then d :: srcs else srcs) c.g.sew k (reconFmt c.g.sew) pred res := by
  refine elementForm_of_steps h (elWidth_sew hsew) ?_ he (run := fun c' => run' c' d srcs) ?_ (fun ws => hrun _ (sew_after c ws))
  · cases readsD
    · exact fun o ho => List.mem_cons_of_mem _ ho
    · exact fun o ho => ho
  · rw [laneBody, hops, hl]
    rfl

end Forms

section Formats

variable {legal legal' : Ctx → Bool} {k : TagClass} {op : Ctx → Nat → Nat → Nat → ElRes}

/-- Format LV with two vector sources. -/
theorem formVV_of_lvv {mk : LV → Instr} {op' : Ctx → Nat → Nat → Nat → ElRes} (he : ∀ f s, exec (mk f) s = lvv f legal' k op' s)
    (hl : ∀ c, c.g.sew ≤ 64 → legal' c = legal c)
    (hop : ∀ c x y d, ElWidth c.g.sew → x < 2 ^ c.g.sew → y < 2 ^ c.g.sew → op' c c.g.sew x y = op c x y d) : FormVV mk legal k false op :=
  fun s c f h hsew => elementForm_of_laneElem h hsew (he f s) (hl c hsew) rfl fun c' hs => by
    rw [← hs]
    exact congrArg (elemwise c' _ _ _) (funext fun e => hop _ _ _ _ (hs ▸ elWidth_sew hsew) (elt_lt ..) (elt_lt ..))

/-- Format LV with two vector sources and the old destination. -/
theorem formVV_of_lvvd {mk : LV → Instr} {op' : Ctx → Nat → Nat → Nat → Nat → ElRes} (he : ∀ f s, exec (mk f) s = lvvd f legal' op' s)
    (hl : ∀ c, c.g.sew ≤ 64 → legal' c = legal c)
    (hop : ∀ c x y d, x < 2 ^ c.g.sew → y < 2 ^ c.g.sew → d < 2 ^ c.g.sew → op' c c.g.sew x y d = op c x y d) :
    FormVV mk legal .nonlinear true op :=
  fun s c f h hsew => elementForm_of_laneElem h hsew (he f s) (hl c hsew) rfl fun c' hs => by
    rw [← hs]
    exact congrArg (elemwise c' _ _ _) (funext fun e => hop _ _ _ _ (elt_lt ..) (elt_lt ..) (elt_lt ..))

/-- Format LV with a vector and a scalar. -/
theorem formVX_of_lvx {mk : LV → Instr} {op' : Ctx → Nat → Nat → Nat → ElRes} (he : ∀ f s, exec (mk f) s = lvx f legal' k (scal f) op' s)
    (hl : ∀ c, c.g.sew ≤ 64 → legal' c = legal c)
    (hop : ∀ c x y d, x < 2 ^ c.g.sew → y < 2 ^ c.g.sew → op' c c.g.sew x y = op c x y d) : FormVX mk legal k false true op :=
  fun s c f h hsew => elementForm_of_laneElem h hsew (he f s) (hl c hsew) rfl fun c' hs => by
    rw [← hs]
    exact congrArg (elemwise c' _ _ _) (funext fun e => hop _ _ _ _ (elt_lt ..) (Nat.mod_lt _ (Nat.two_pow_pos _)))

/-- Format LV with a vector, a scalar and the old destination. -/
theorem formVX_of_lvxd {mk : LV → Instr} {op' : Ctx → Nat → Nat → Nat → Nat → ElRes} (he : ∀ f s, exec (mk f) s = lvxd f legal' (scal f) op' s)
    (hl : ∀ c, c.g.sew ≤ 64 → legal' c = legal c)
    (hop : ∀ c x y d, x < 2 ^ c.g.sew → y < 2 ^ c.g.sew → d < 2 ^ c.g.sew → op' c c.g.sew x y d = op c x y d) :
    FormVX mk legal .nonlinear true true op :=
  fun s c f h hsew => elementForm_of_laneElem h hsew (he f s) (hl c hsew) rfl fun c' hs => by
    rw [← hs]
    exact congrArg (elemwise c' _ _ _) (funext fun e => hop _ _ _ _ (elt_lt ..) (Nat.mod_lt _ (Nat.two_pow_pos _)) (elt_lt ..))

/-- Format LW with one vector source. -/
theorem formLW_of_lw1 {mk : LW → Instr} {op : Ctx → Nat → ElRes} (he : ∀ f s, exec (mk f) s = lw1 f legal' k op s)
    (hl : ∀ c, c.g.sew ≤ 64 → legal' c = legal c) : FormLW mk legal k op :=
  fun s c f h hsew => elementForm_of_laneElem h hsew (he f s) (hl c hsew) rfl fun c' hs => by
    rw [← hs]
    rfl

end Formats

end Sys2Proof.Machine
end

section
/-! PROOFS. Integer element operations as operations on the integers a width holds (R28, R48, R53, R230), and the lane instructions that
use them. -/

namespace Sys2Proof.Machine

/-! ### Integers of a width -/

theorem wrap_eq (w : Nat) (i : Int) : wrap w i = (BitVec.ofInt w i).toNat := (BitVec.toNat_ofInt i).symm

theorem wrapR_eq (w : Nat) (i : Int) : wrapR w i = { val := (BitVec.ofInt w i).toNat } := by rw [wrapR, wrap_eq]

theorem intVal_true {w : Nat} (hw : 0 < w) (x : Nat) : intVal true w x = (BitVec.ofNat w x).toInt := by
  obtain ⟨k, rfl⟩ := Nat.exists_eq_add_one.mpr hw
  have hpow := Nat.pow_succ (n := 2) (m := k)
  simp only [intVal, if_true, sext, BitVec.toInt_eq_toNat_cond, BitVec.toNat_ofNat, Nat.add_sub_cancel]
  split <;> split <;> omega

theorem intVal_false (w x : Nat) : intVal false w x = ((BitVec.ofNat w x).toNat : Int) := by rw [BitVec.toNat_ofNat]; rfl

/-- A number below 2^w is the one its bits name. -/
theorem toNat_ofNat_of_lt {w x : Nat} (h : x < 2 ^ w) : (BitVec.ofNat w x).toNat = x := by rw [BitVec.toNat_ofNat, Nat.mod_eq_of_lt h]

theorem toNat_ofInt_natCast {w x : Nat} (h : x < 2 ^ w) : (BitVec.ofInt w (x : Int)).toNat = x := by
  rw [BitVec.ofInt_natCast, toNat_ofNat_of_lt h]

/-- An element is the one its integer value names. -/
theorem toNat_ofInt_intVal {w x : Nat} (hw : 0 < w) (h : x < 2 ^ w) (sgn : Bool) : (BitVec.ofInt w (intVal sgn w x)).toNat = x := by
  cases sgn
  · rw [intVal_false, toNat_ofNat_of_lt h, toNat_ofInt_natCast h]
  · rw [intVal_true hw, BitVec.ofInt_toInt, toNat_ofNat_of_lt h]

theorem intVal_bounds {w : Nat} (hw : 0 < w) (sgn : Bool) (x : Nat) : intMin sgn w ≤ intVal sgn w x ∧ intVal sgn w x ≤ intMax sgn w := by
  obtain ⟨k, rfl⟩ := Nat.exists_eq_add_one.mpr hw
  have hpow := Nat.pow_succ (n := 2) (m := k)
  have hlt := Nat.mod_lt x (Nat.two_pow_pos (k + 1))
  cases sgn
  · simp only [intMin, intMax, intVal, Bool.false_eq_true, if_false]
    omega
  · simp only [intMin, intMax, intVal, if_true, sext, Nat.add_sub_cancel]
    split <;> omega

/-! ### The operations -/

section Ops

variable {w x y : Nat}

theorem minR_eq (hw : 0 < w) (hx : x < 2 ^ w) (hy : y < 2 ^ w) (sgn : Bool) :
    minR sgn w x y = { val := (BitVec.ofInt w (min (intVal sgn w x) (intVal sgn w y))).toNat } := by
  rw [minR, min_def]
  split
  · rw [toNat_ofInt_intVal hw hx]
  · rw [toNat_ofInt_intVal hw hy]

theorem maxR_eq (hw : 0 < w) (hx : x < 2 ^ w) (hy : y < 2 ^ w) (sgn : Bool) :
    maxR sgn w x y = { val := (BitVec.ofInt w (max (intVal sgn w x) (intVal sgn w y))).toNat } := by
  rw [maxR, max_def]
  split
  · rw [toNat_ofInt_intVal hw hy]
  · rw [toNat_ofInt_intVal hw hx]

/-- Saturation clamps to the bounds of the format, and tells whether it changed the value. -/
theorem satR_eq (sgn : Bool) (w : Nat) (i : Int) : satR sgn w i =
    { val := (BitVec.ofInt w (max (intMin sgn w) (min (intMax sgn w) i))).toNat, sat := decide (i < intMin sgn w ∨ intMax sgn w < i) } := by
  have hle : intMin sgn w ≤ intMax sgn w := by
    have h1 := Nat.two_pow_pos w
    have h2 := Nat.two_pow_pos (w - 1)
    cases sgn <;> simp only [intMin, intMax, Bool.false_eq_true, if_false, if_true] <;> omega
  unfold satR saturate
  dsimp only
  rw [wrap_eq]
  by_cases h1 : i < intMin sgn w
  · rw [if_pos h1, show max (intMin sgn w) (min (intMax sgn w) i) = intMin sgn w by omega, decide_eq_true (Or.inl h1)]
  · rw [if_neg h1]
    by_cases h2 : intMax sgn w < i
    · rw [if_pos h2, show max (intMin sgn w) (min (intMax sgn w) i) = intMax sgn w by omega, decide_eq_true (Or.inr h2)]
    · rw [if_neg h2, show max (intMin sgn w) (min (intMax sgn w) i) = i by omega, decide_eq_false (by omega)]

theorem satR_true (w : Nat) (i : Int) : satR true w i =
    { val := (BitVec.ofInt w (max (-(2 ^ (w - 1) : Nat)) (min ((2 ^ (w - 1) : Nat) - 1) i))).toNat
      sat := decide (i < (-(2 ^ (w - 1) : Nat)) ∨ ((2 ^ (w - 1) : Nat) : Int) - 1 < i) } := satR_eq true w i

theorem satR_false (w : Nat) (i : Int) : satR false w i =
    { val := (BitVec.ofInt w (max 0 (min ((2 ^ w : Nat) - 1) i))).toNat, sat := decide (i < 0 ∨ ((2 ^ w : Nat) : Int) - 1 < i) } :=
  satR_eq false w i

theorem absdR_eq (hw : 0 < w) (sgn : Bool) :
    absdR sgn w x y = { val := (BitVec.ofInt w ((intVal sgn w x - intVal sgn w y).natAbs : Int)).toNat } := by
  obtain ⟨hx1, hx2⟩ := intVal_bounds hw sgn x
  obtain ⟨hy1, hy2⟩ := intVal_bounds hw sgn y
  have hspan : intMax sgn w - intMin sgn w = (2 ^ w : Nat) - 1 := by
    obtain ⟨k, rfl⟩ := Nat.exists_eq_add_one.mpr hw
    have hpow := Nat.pow_succ (n := 2) (m := k)
    cases sgn <;> simp only [intMin, intMax, Bool.false_eq_true, if_false, if_true, Nat.add_sub_cancel] <;> omega
  rw [absdR, toNat_ofInt_natCast (by omega)]

theorem roundShift_eq (i : Int) (k : Nat) : roundShift i k = (i + ((2 ^ k : Nat) : Int) / 2) / (2 ^ k : Nat) := by
  unfold roundShift
  cases k with
  | zero => simp
  | succ k =>
    rw [if_neg (Nat.succ_ne_zero k), Nat.add_sub_cancel, Nat.pow_succ]
    congr 2
    omega

theorem shlR_eq (n : Nat) : shlR w x n = { val := (BitVec.ofInt w ((x : Int) * (2 ^ (n % w) : Nat))).toNat } := by
  rw [shlR, ← Int.natCast_mul, BitVec.ofInt_natCast, BitVec.toNat_ofNat]

theorem srlR_eq (hx : x < 2 ^ w) (n : Nat) : srlR w x n = { val := (BitVec.ofInt w ((x : Int) / (2 ^ (n % w) : Nat))).toNat } := by
  rw [srlR, ← Int.natCast_ediv, toNat_ofInt_natCast (lt_of_le_of_lt (Nat.div_le_self _ _) hx)]

theorem avgR_eq (sgn : Bool) : avgR sgn w x y = { val := (BitVec.ofInt w ((intVal sgn w x + intVal sgn w y + 1) / 2)).toNat } := by
  rw [avgR, wrapR_eq, roundShift_eq]
  rfl

/-- `s1 AND NOT s2` inside the width. -/
theorem and_xor_self (hx : x < 2 ^ w) (hy : y < 2 ^ w) : x &&& (x ^^^ y) = (BitVec.ofNat w x &&& ~~~BitVec.ofNat w y).toNat := by
  rw [BitVec.toNat_and, toNat_ofNat_of_lt hx, BitVec.toNat_not, toNat_ofNat_of_lt hy]
  apply Nat.eq_of_testBit_eq
  intro i
  rw [Nat.testBit_and, Nat.testBit_xor, Nat.testBit_and, Nat.sub_sub, Nat.add_comm 1, Nat.testBit_two_pow_sub_succ hy]
  by_cases hi : i < w
  · cases x.testBit i <;> simp [hi]
  · rw [Nat.testBit_lt_two_pow (lt_of_lt_of_le hx (Nat.pow_le_pow_right (by decide) (by omega)))]
    rfl

end Ops

/-! ### The instructions -/

theorem sew8up_eq (c : Ctx) : sew8up c = decide (8 ≤ c.g.sew ∧ c.g.sew ≤ 64) := (Bool.decide_and ..).symm

theorem exec_vadd (f : LV) (t : Nat) (s : State) : exec (.vadd f t) s = execVadd f t s := rfl
theorem exec_vsub (f : LV) (t : Nat) (s : State) : exec (.vsub f t) s = execVsub f t s := rfl
theorem exec_vmul (f : LV) (t : Nat) (s : State) : exec (.vmul f t) s = execVmul f t s := rfl
theorem exec_vmulhI (f : LV) (s : State) : exec (.vmulhI f) s = execVmulhI f s := rfl
theorem exec_vmulhN (f : LV) (s : State) : exec (.vmulhN f) s = execVmulhN f s := rfl
theorem exec_vmulhIn (f : LV) (s : State) : exec (.vmulhIn f) s = execVmulhIn f s := rfl
theorem exec_vminI (f : LV) (s : State) : exec (.vminI f) s = execVminI f s := rfl
theorem exec_vminN (f : LV) (s : State) : exec (.vminN f) s = execVminN f s := rfl
theorem exec_vmaxI (f : LV) (s : State) : exec (.vmaxI f) s = execVmaxI f s := rfl
theorem exec_vmaxN (f : LV) (s : State) : exec (.vmaxN f) s = execVmaxN f s := rfl
theorem exec_vaddsI (f : LV) (s : State) : exec (.vaddsI f) s = execVaddsI f s := rfl
theorem exec_vaddsN (f : LV) (s : State) : exec (.vaddsN f) s = execVaddsN f s := rfl
theorem exec_vsubsI (f : LV) (s : State) : exec (.vsubsI f) s = execVsubsI f s := rfl
theorem exec_vsubsN (f : LV) (s : State) : exec (.vsubsN f) s = execVsubsN f s := rfl
theorem exec_vavgI (f : LV) (s : State) : exec (.vavgI f) s = execVavgI f s := rfl
theorem exec_vavgN (f : LV) (s : State) : exec (.vavgN f) s = execVavgN f s := rfl
theorem exec_vabsdI (f : LV) (s : State) : exec (.vabsdI f) s = execVabsdI f s := rfl
theorem exec_vabsdN (f : LV) (s : State) : exec (.vabsdN f) s = execVabsdN f s := rfl
theorem exec_vshlVector (f : LV) (s : State) : exec (.vshlVector f) s = execVshlVector f s := rfl
theorem exec_vsrlVector (f : LV) (s : State) : exec (.vsrlVector f) s = execVsrlVector f s := rfl
theorem exec_vsraVector (f : LV) (s : State) : exec (.vsraVector f) s = execVsraVector f s := rfl
theorem exec_vrsraVector (f : LV) (s : State) : exec (.vrsraVector f) s = execVrsraVector f s := rfl
theorem exec_vmac (f : LV) (s : State) : exec (.vmac f) s = execVmac f s := rfl
theorem exec_vand (f : LV) (s : State) : exec (.vand f) s = execVand f s := rfl
theorem exec_vor (f : LV) (s : State) : exec (.vor f) s = execVor f s := rfl
theorem exec_vxor (f : LV) (s : State) : exec (.vxor f) s = execVxor f s := rfl
theorem exec_vandn (f : LV) (s : State) : exec (.vandn f) s = execVandn f s := rfl

/-- An instruction with two vector sources, from its operation on elements. -/
theorem formVV_sew8up {mk : LV → Instr} {op' : Nat → Nat → Nat → ElRes} {op : Ctx → Nat → Nat → ElRes}
    (he : ∀ f s, exec (mk f) s = lvv f sew8up .nonlinear (fun _ w x y => op' w x y) s)
    (hop : ∀ (c : Ctx) x y, 0 < c.g.sew → x < 2 ^ c.g.sew → y < 2 ^ c.g.sew → op' c.g.sew x y = op c x y) :
    FormVV mk (fun c => decide (8 ≤ c.g.sew ∧ c.g.sew ≤ 64)) .nonlinear false (fun c x y _ => op c x y) :=
  formVV_of_lvv he (fun c _ => sew8up_eq c) (fun c x y _ hw hx hy => hop c x y (elWidth_pos hw) hx hy)

/-- The bitwise instructions take any SEW. -/
theorem formVV_bits {mk : LV → Instr} {op : Nat → Nat → ElRes} {op' : Ctx → Nat → Nat → ElRes}
    (he : ∀ f s, exec (mk f) s = lvv f (fun _ => true) .nonlinear (fun _ _ x y => op x y) s)
    (hop : ∀ (c : Ctx) x y, x < 2 ^ c.g.sew → y < 2 ^ c.g.sew → op x y = op' c x y) :
    FormVV mk (fun _ => true) .nonlinear false (fun c x y _ => op' c x y) :=
  formVV_of_lvv he (fun _ _ => rfl) (fun c x y _ _ hx hy => hop c x y hx hy)

/-- Settles O24: each instruction's operation on elements, as one on integers. -/
theorem integerVectorResults : Obligations.IntegerVectorResults := by
  refine ⟨fun t ht => ⟨?add, ?sub, ?mul⟩, ?rows, ?mac, ?bits⟩
  case add =>
    refine formVV_of_lvv (fun f s => exec_vadd f t s) (fun _ _ => rfl) fun c x y _ _ hx hy => ?_
    simp only [wrapR_eq, toNat_ofNat_of_lt hx, toNat_ofNat_of_lt hy]
  case sub =>
    refine formVV_of_lvv (fun f s => exec_vsub f t s) (fun _ _ => rfl) fun c x y _ _ hx hy => ?_
    simp only [wrapR_eq, toNat_ofNat_of_lt hx, toNat_ofNat_of_lt hy]
  case mul =>
    refine formVV_of_lvv (fun f s => exec_vmul f t s) (fun _ _ => rfl) fun c x y _ _ hx hy => ?_
    simp only [wrapR_eq, toNat_ofNat_of_lt hx, toNat_ofNat_of_lt hy]
  case rows =>
    simp only [List.forall_mem_cons]
    exact ⟨formVV_sew8up exec_vmulhI fun c x y hw _ _ => by simp only [mulhR, wrapR_eq, intVal_true hw],
      formVV_sew8up exec_vmulhN fun c x y hw hx hy => by simp only [mulhR, wrapR_eq, intVal_false],
      formVV_sew8up exec_vmulhIn fun c x y hw hx hy => by simp only [mulhR, wrapR_eq, intVal_true hw, intVal_false],
      formVV_sew8up exec_vminI fun c x y hw hx hy => by simp only [minR_eq hw hx hy, intVal_true hw],
      formVV_sew8up exec_vminN fun c x y hw hx hy => by simp only [minR_eq hw hx hy, intVal_false],
      formVV_sew8up exec_vmaxI fun c x y hw hx hy => by simp only [maxR_eq hw hx hy, intVal_true hw],
      formVV_sew8up exec_vmaxN fun c x y hw hx hy => by simp only [maxR_eq hw hx hy, intVal_false],
      formVV_sew8up exec_vaddsI fun c x y hw hx hy => by simp only [satR_true, intVal_true hw],
      formVV_sew8up exec_vaddsN fun c x y hw hx hy => by simp only [satR_false, intVal_false],
      formVV_sew8up exec_vsubsI fun c x y hw hx hy => by simp only [satR_true, intVal_true hw],
      formVV_sew8up exec_vsubsN fun c x y hw hx hy => by simp only [satR_false, intVal_false],
      formVV_sew8up exec_vavgI fun c x y hw hx hy => by simp only [avgR_eq, intVal_true hw],
      formVV_sew8up exec_vavgN fun c x y hw hx hy => by simp only [avgR_eq, intVal_false],
      formVV_sew8up exec_vabsdI fun c x y hw hx hy => by simp only [absdR_eq hw, intVal_true hw],
      formVV_sew8up exec_vabsdN fun c x y hw hx hy => by simp only [absdR_eq hw, intVal_false],
      formVV_sew8up exec_vshlVector fun c x y hw hx hy => by simp only [shlR_eq, toNat_ofNat_of_lt hx],
      formVV_sew8up exec_vsrlVector fun c x y hw hx hy => by simp only [srlR_eq hx, toNat_ofNat_of_lt hx],
      formVV_sew8up exec_vsraVector fun c x y hw hx hy => by simp only [sraR, wrapR_eq, intVal_true hw],
      formVV_sew8up exec_vrsraVector fun c x y hw hx hy => by simp only [rsraR, wrapR_eq, roundShift_eq, intVal_true hw], nofun⟩
  case mac =>
    refine formVV_of_lvvd exec_vmac (fun c _ => sew8up_eq c) fun c x y d hx hy hd => ?_
    simp only [wrapR_eq, toNat_ofNat_of_lt hx, toNat_ofNat_of_lt hy, toNat_ofNat_of_lt hd]
  case bits =>
    simp only [List.forall_mem_cons]
    exact ⟨formVV_bits exec_vand fun c x y hx hy => by simp only [BitVec.toNat_and, toNat_ofNat_of_lt hx, toNat_ofNat_of_lt hy],
      formVV_bits exec_vor fun c x y hx hy => by simp only [BitVec.toNat_or, toNat_ofNat_of_lt hx, toNat_ofNat_of_lt hy],
      formVV_bits exec_vxor fun c x y hx hy => by simp only [BitVec.toNat_xor, toNat_ofNat_of_lt hx, toNat_ofNat_of_lt hy],
      formVV_bits exec_vandn fun c x y hx hy => by rw [and_xor_self hx hy], nofun⟩

end Sys2Proof.Machine
end

section
/-! PROOFS. The floating-point instructions on elements (R221, R228, R229). -/

namespace Sys2Proof.Machine

theorem exec_vaddF (f : LV) (t : Nat) (s : State) : exec (.vaddF f t) s = execVaddF f t s := rfl
theorem exec_vsubF (f : LV) (t : Nat) (s : State) : exec (.vsubF f t) s = execVsubF f t s := rfl
theorem exec_vmulF (f : LV) (t : Nat) (s : State) : exec (.vmulF f t) s = execVmulF f t s := rfl
theorem exec_vdivF (f : LV) (t : Nat) (s : State) : exec (.vdivF f t) s = execVdivF f t s := rfl
theorem exec_vfmaF (f : LV) (t : Nat) (s : State) : exec (.vfmaF f t) s = execVfmaF f t s := rfl
theorem exec_vfmsF (f : LV) (t : Nat) (s : State) : exec (.vfmsF f t) s = execVfmsF f t s := rfl
theorem exec_vfnmaF (f : LV) (t : Nat) (s : State) : exec (.vfnmaF f t) s = execVfnmaF f t s := rfl
theorem exec_vminF (f : LV) (t : Nat) (s : State) : exec (.vminF f t) s = execVminF f t s := rfl
theorem exec_vmaxF (f : LV) (t : Nat) (s : State) : exec (.vmaxF f t) s = execVmaxF f t s := rfl
theorem exec_vsqrt (f : LW) (s : State) : exec (.vsqrt f) s = execVsqrt f s := rfl
theorem exec_vabs (f : LW) (s : State) : exec (.vabs f) s = execVabs f s := rfl
theorem exec_vneg (f : LW) (s : State) : exec (.vneg f) s = execVneg f s := rfl
theorem exec_vclass (f : LW) (s : State) : exec (.vclass f) s = execVclass f s := rfl
theorem exec_vaddFScalar (f : LV) (s : State) : exec (.vaddFScalar f) s = execVaddFScalar f s := rfl
theorem exec_vmulFScalar (f : LV) (s : State) : exec (.vmulFScalar f) s = execVmulFScalar f s := rfl
theorem exec_vsubFScalar (f : LV) (s : State) : exec (.vsubFScalar f) s = execVsubFScalar f s := rfl
theorem exec_vfmaFScalar (f : LV) (s : State) : exec (.vfmaFScalar f) s = execVfmaFScalar f s := rfl
theorem exec_vaddBf16x2 (f : LV) (s : State) : exec (.vaddBf16x2 f) s = execVaddBf16x2 f s := rfl
theorem exec_vsubBf16x2 (f : LV) (s : State) : exec (.vsubBf16x2 f) s = execVsubBf16x2 f s := rfl
theorem exec_vmulBf16x2 (f : LV) (s : State) : exec (.vmulBf16x2 f) s = execVmulBf16x2 f s := rfl
theorem exec_vfmaBf16x2 (f : LV) (s : State) : exec (.vfmaBf16x2 f) s = execVfmaBf16x2 f s := rfl

/-- The widths that name a format of majors 0x39 to 0x3B (R221). -/
theorem sewFloat_eq {c : Ctx} (h : c.g.sew ≤ 64) : sewFloat c = (c.g.sew == 16 || c.g.sew == 32 || c.g.sew == 64) := by
  unfold sewFloat
  rcases elWidth_sew h with h | h | h | h | h <;> rw [h] <;> rfl

/-- A format of majors 0x30 to 0x38 is as wide as an element, and is none of the MX formats (R221). -/
theorem fmtT_bits (t : Nat) : ElWidth (fmtT t).bits ∧ mxFmtT (fmtT t).bits t = none := by
  unfold ElWidth fmtT
  split <;> simp [Fmt.bits, mxFmtT]

/-- What `VADD`, `VSUB`, `VMUL` write: results on elements, or on MX blocks where T and SEW name an MX format (R228, R237). -/
def lvfRun (f : LV) (t : Nat) (mo : MxOp) (op : FEnv → Nat → Nat → ElRes) (c : Ctx) (d a b : VOp) : LaneRes :=
  match mxFmtT c.g.sew t with
  | some F => blockwise (c.g.vlmax / 32) (mxBlock c F mo d a b)
  | none => elemwise c d c.g.sew (predOf c f.pr) (fun e => op (fenv c (fmtT t)) (elt c a c.g.sew e) (elt c b c.g.sew e))

section MajorFloat

variable {i : Instr} {s : State} {c : Ctx} {f : LV} {t : Nat} {k : TagClass} {mo : MxOp} {op : FEnv → Nat → Nat → ElRes}

/-- The body of `VADD`, `VSUB`, `VMUL` once the predicate and the format are allowed. -/
theorem lvf_steps (hpr : (mxFmtT c.g.sew t).isNone = true ∨ f.pr = 0) (hfmt : fmtLegal t c = true ∨ (mxFmtT c.g.sew t).isSome = true) :
    (do
      need ((mxFmtT c.g.sew t).isNone || decide (f.pr = 0)) (.illegal 0)
      laneBody s (fun c => fmtLegal t c || (mxFmtT c.g.sew t).isSome) (lv3 f) false k (fun c => reconFmt c.g.sew)
        (fun c d ss => lvfRun f t mo op c d (srcN ss 0) (srcN ss 1)) c) =
      laneSteps c true 2 (bankOp c f.vb f.vd c.g.grp) [bankOp c f.vb f.vs1 c.g.grp, bankOp c f.vb f.vs2 c.g.grp]
        [bankOp c f.vb f.vs1 c.g.grp, bankOp c f.vb f.vs2 c.g.grp] k (reconFmt c.g.sew)
        (fun tag rc => commitLane c (bankOp c f.vb f.vd c.g.grp) tag rc (lvfRun f t mo op (c.after rc.res.wrs) (bankOp c f.vb f.vd c.g.grp)
          (bankOp c f.vb f.vs1 c.g.grp) (bankOp c f.vb f.vs2 c.g.grp)) s) := by
  have h1 : ((mxFmtT c.g.sew t).isNone || decide (f.pr = 0)) = true := by simpa using hpr
  have h2 : (fmtLegal t c || (mxFmtT c.g.sew t).isSome) = true := by simpa using hfmt
  rw [h1, laneBody, h2]
  rfl

theorem exec_lvf (he : exec i s = lvf f t k mo op s) : exec i s = issue 4 s (fun c => do
    need ((mxFmtT c.g.sew t).isNone || decide (f.pr = 0)) (.illegal 0)
    laneBody s (fun c => fmtLegal t c || (mxFmtT c.g.sew t).isSome) (lv3 f) false k (fun c => reconFmt c.g.sew)
      (fun c d ss => lvfRun f t mo op c d (srcN ss 0) (srcN ss 1)) c) := he

/-- `VADD`, `VSUB`, `VMUL` on elements (R228). -/
theorem elementForm_of_lvf (h : ctxOf s = some c) (hsew : c.g.sew = (fmtT t).bits) (he : exec i s = lvf f t k mo op s) :
    ElementForm i 4 c s true 2 (bankOp c f.vb f.vd c.g.grp) [bankOp c f.vb f.vs1 c.g.grp, bankOp c f.vb f.vs2 c.g.grp]
      [bankOp c f.vb f.vs1 c.g.grp, bankOp c f.vb f.vs2 c.g.grp] c.g.sew k (reconFmt c.g.sew) (fun c' => predOf c' f.pr)
      (fun c' e => op (fenv c' (fmtT t)) (elt c' (bankOp c f.vb f.vs1 c.g.grp) c.g.sew e) (elt c' (bankOp c f.vb f.vs2 c.g.grp) c.g.sew e)) := by
  obtain ⟨hw, hmx⟩ := fmtT_bits t
  rw [← hsew] at hw hmx
  refine elementForm_of_steps h hw (fun o ho => List.mem_cons_of_mem _ ho) (exec_lvf he) (run := fun c' => lvfRun f t mo op c' _ _ _)
    (lvf_steps (.inl (by rw [hmx]; rfl)) (.inl (beq_iff_eq.mpr hsew))) (fun ws => ?_)
  rw [lvfRun, sew_after, hmx]

end MajorFloat

/-- Settles O28: each instruction by its format, its operation on elements as the entries give it. -/
theorem floatElementResults : Obligations.FloatElementResults := by
  refine ⟨fun t _ s c f h hsew => ⟨elementForm_of_lvf h hsew (exec_vaddF f t s), elementForm_of_lvf h hsew (exec_vsubF f t s),
      elementForm_of_lvf h hsew (exec_vmulF f t s)⟩,
    fun t _ => ⟨formVV_of_lvv (fun f s => exec_vdivF f t s) (fun _ _ => rfl) (fun _ _ _ _ _ _ _ => rfl),
      formVV_of_lvvd (fun f s => exec_vfmaF f t s) (fun _ _ => rfl) (fun _ _ _ _ _ _ _ => rfl),
      formVV_of_lvvd (fun f s => exec_vfmsF f t s) (fun _ _ => rfl) (fun _ _ _ _ _ _ _ => rfl),
      formVV_of_lvvd (fun f s => exec_vfnmaF f t s) (fun _ _ => rfl) (fun _ _ _ _ _ _ _ => rfl),
      formVV_of_lvv (fun f s => exec_vminF f t s) (fun _ _ => rfl) (fun _ _ _ _ _ _ _ => rfl),
      formVV_of_lvv (fun f s => exec_vmaxF f t s) (fun _ _ => rfl) (fun _ _ _ _ _ _ _ => rfl)⟩,
    formLW_of_lw1 exec_vsqrt (fun _ => sewFloat_eq), formLW_of_lw1 exec_vabs (fun _ => sewFloat_eq),
    formLW_of_lw1 exec_vneg (fun _ => sewFloat_eq), formLW_of_lw1 exec_vclass (fun _ => sewFloat_eq),
    formVX_of_lvx exec_vaddFScalar (fun _ => sewFloat_eq) (fun _ _ _ _ _ _ => rfl),
    formVX_of_lvx exec_vmulFScalar (fun _ => sewFloat_eq) (fun _ _ _ _ _ _ => rfl),
    formVX_of_lvx exec_vsubFScalar (fun _ => sewFloat_eq) (fun _ _ _ _ _ _ => rfl),
    formVX_of_lvxd exec_vfmaFScalar (fun _ => sewFloat_eq) (fun _ _ _ _ _ _ _ => rfl),
    formVV_of_lvv exec_vaddBf16x2 (fun _ _ => rfl) (fun _ _ _ _ _ _ _ => rfl),
    formVV_of_lvv exec_vsubBf16x2 (fun _ _ => rfl) (fun _ _ _ _ _ _ _ => rfl),
    formVV_of_lvv exec_vmulBf16x2 (fun _ _ => rfl) (fun _ _ _ _ _ _ _ => rfl),
    formVV_of_lvvd exec_vfmaBf16x2 (fun _ _ => rfl) (fun _ _ _ _ _ _ _ => rfl)⟩

end Sys2Proof.Machine
end

section
/-! PROOFS. The conversions between floating point and integers, widening and narrowing (R39, R40, R43, R233). -/

namespace Sys2Proof.Machine

theorem exec_vfcvt (f : LW) (t : Nat) (s : State) : exec (.vfcvt f t) s = execVfcvt f t s := rfl
theorem exec_vfcvtI (f : LW) (s : State) : exec (.vfcvtI f) s = execVfcvtI f s := rfl
theorem exec_vfcvtN (f : LW) (s : State) : exec (.vfcvtN f) s = execVfcvtN f s := rfl
theorem exec_vfcvtzI (f : LW) (s : State) : exec (.vfcvtzI f) s = execVfcvtzI f s := rfl
theorem exec_vfcvtzN (f : LW) (s : State) : exec (.vfcvtzN f) s = execVfcvtzN f s := rfl
theorem exec_vicvtI (f : LW) (s : State) : exec (.vicvtI f) s = execVicvtI f s := rfl
theorem exec_vicvtN (f : LW) (s : State) : exec (.vicvtN f) s = execVicvtN f s := rfl
theorem exec_vsext (f : LW) (s : State) : exec (.vsext f) s = execVsext f s := rfl
theorem exec_vzext (f : LW) (s : State) : exec (.vzext f) s = execVzext f s := rfl
theorem exec_vnarrow (f : LW) (s : State) : exec (.vnarrow f) s = execVnarrow f s := rfl
theorem exec_vnarrows (f : LW) (s : State) : exec (.vnarrows f) s = execVnarrows f s := rfl

/-! ### The pairs of T and SEW -/

/-- The destination side of a conversion at SEW `w`: as wide as SEW, or wider by a power of two. -/
def WidensFrom (w : Nat) (v : Conv) : Prop :=
  ElWidth v.dst.bits ∧ ∀ n, 1024 / w * n = 1024 / v.dst.bits * (n * (v.dst.bits / w))

theorem fcvtPair_widens {t w : Nat} {v : Conv} (h : fcvtPair t w = some v) : WidensFrom w v := by
  unfold fcvtPair at h
  split at h <;> cases h <;> simp [WidensFrom, ElWidth, Side.bits, Fmt.bits] <;> omega

theorem fltFor_eq {w : Nat} {F : Fmt} (h : fltFor w = some F) : (w = 8 ∨ w = 16 ∨ w = 32) ∧ F = .f32 ∨ w = 64 ∧ F = .f64 := by
  unfold fltFor at h
  split at h <;> cases h <;> decide

theorem f2iPair_widens {sgn rtz : Bool} {w : Nat} {v : Conv} (h : f2iPair sgn rtz w = some v) : WidensFrom w v := by
  obtain ⟨F, hF, rfl⟩ := Option.map_eq_some_iff.mp h
  rcases fltFor_eq hF with ⟨rfl | rfl | rfl, -⟩ | ⟨rfl, -⟩ <;> simp [WidensFrom, ElWidth, Side.bits]

theorem i2fPair_widens {sgn : Bool} {w : Nat} {v : Conv} (h : i2fPair sgn w = some v) : WidensFrom w v := by
  obtain ⟨F, hF, rfl⟩ := Option.map_eq_some_iff.mp h
  rcases fltFor_eq hF with ⟨rfl | rfl | rfl, rfl⟩ | ⟨rfl, rfl⟩ <;> simp [WidensFrom, ElWidth, Side.bits, Fmt.bits] <;> omega

theorem i2iPair_widens {wide sgn sat : Bool} {w : Nat} {v : Conv} (h : i2iPair wide sgn sat w = some v) : WidensFrom w v := by
  unfold i2iPair at h
  split at h
  · rename_i hw
    rcases hw with rfl | rfl | rfl <;> cases wide <;> cases h <;> simp [WidensFrom, ElWidth, Side.bits] <;> omega
  · cases h

/-! ### The steps of a conversion -/

section Convert

variable {s : State} {c : Ctx} {f : LW} {v : Conv}

/-- The lanes of both sides of element `e` are active. -/
def Conv.both (v : Conv) (c : Ctx) (e : Nat) : Bool := c.act (laneOf v.dst.bits e) && c.act (laneOf v.src.bits e)

/-- The rounding mode of a conversion (R43). -/
def Conv.mode (v : Conv) (c : Ctx) : Rm := if v.rtz then .rtz else c.g.rm

/-- Element `e` converted, its source read from `b` as `c'` has it (R40, R43). -/
def Conv.res (v : Conv) (c c' : Ctx) (b : VOp) (e : Nat) : ElRes :=
  v.eval (v.mode c) c.g.fz (srWord c.g.sgen (laneOf v.dst.bits e) (srPlace v.dst.bits e)) (elt c' b v.src.bits e)

/-- Some active element is converted: under SR `sgen` advances (R39). -/
def Conv.any (v : Conv) (c : Ctx) (f : LW) : Bool :=
  (List.range (1024 / c.g.sew * c.g.grp)).any (fun e => decide (e < c.g.vl) && v.both c e && predOf c f.pr e)

/-- The elements below a bound are those of a range up to it. -/
theorem any_range_min (m n : Nat) (p : Nat → Bool) : (List.range (min m n)).any p = (List.range n).any (fun e => decide (e < m) && p e) := by
  rw [Bool.eq_iff_iff]
  simp only [List.any_eq_true, List.mem_range, Bool.and_eq_true, decide_eq_true_eq]
  exact ⟨fun ⟨e, he, hp⟩ => ⟨e, by omega, by omega, hp⟩, fun ⟨e, he, hm, hp⟩ => ⟨e, by omega, hp⟩⟩

/-- What a conversion leaves behind: its elements committed, and under SR `sgen` advanced. -/
def convDone (s : State) (c : Ctx) (f : LW) (v : Conv) (d b : VOp) (tag : Nat) (rc : Recon) : State :=
  let s1 := commitLane c d tag rc (elemClasses c d v.dst.bits d.n (predOf c f.pr) (v.both c) (v.res c (c.after rc.res.wrs) b)) s
  if v.mode c = .sr ∧ v.any c f = true then updCtxG c (fun g => { g with sgen := sgenAdvance g.sgen }) s1 else s1

theorem wideOp_n (c : Ctx) (r ind n : Nat) : (wideOp c r ind n).n = n := by
  unfold wideOp vOp
  split_ifs <;> rfl

/-- What a conversion leaves behind, its operands by their sides. -/
theorem convDone_eq (hv : WidensFrom c.g.sew v) (b : VOp) (tag : Nat) (rc : Recon) :
    convDone s c f v (wideOp c f.a f.ia (c.g.grp * (v.dst.bits / c.g.sew))) b tag rc =
      let d := wideOp c f.a f.ia (c.g.grp * (v.dst.bits / c.g.sew))
      let r := (List.range (1024 / c.g.sew * c.g.grp)).foldl (fun acc e => if v.both c e then
        acc.and (elemClass c d v.dst.bits (predOf c f.pr) (v.res c (c.after rc.res.wrs) b) e) else acc) ({} : LaneRes)
      let any := (List.range (min c.g.vl (1024 / c.g.sew * c.g.grp))).any (fun e => v.both c e && predOf c f.pr e)
      let s1 := commitLane c d tag rc r s
      if v.mode c = .sr ∧ any = true then updCtxG c (fun g => { g with sgen := sgenAdvance g.sgen }) s1 else s1 := by
  dsimp only
  rw [foldl_and_if, any_range_min, hv.2]
  simp only [convDone, elemClasses, wideOp_n, Conv.any, hv.2, Bool.and_assoc]

/-- The steps of a conversion whose pair there is, its operands within eight registers (R233). -/
theorem exec_convert {i : Instr} {pair : Nat → Option Conv} (he : exec i s = convert f pair s) (hp : pair c.g.sew = some v)
    (hv : WidensFrom c.g.sew v) (hfit : max (c.g.grp * (v.dst.bits / c.g.sew)) (c.g.grp * (v.src.bits / c.g.sew)) ≤ 8) :
    ∃ body : Ctx → Except Trap State, exec i s = issue 4 s body ∧
      let d := wideOp c f.a f.ia (c.g.grp * (v.dst.bits / c.g.sew))
      let b := wideOp c f.b f.ib (c.g.grp * (v.src.bits / c.g.sew))
      body c = laneSteps c true 0 d [b] [b] .copy (reconFmt c.g.sew) (convDone s c f v d b) := by
  refine ⟨_, he, ?_⟩
  dsimp only
  rw [hp]
  dsimp only
  rw [decide_eq_true hfit]
  unfold laneSteps
  simp only [convDone_eq hv]
  rfl

/-- What a conversion leaves behind: each element whose lanes on both sides are active, by its class, and `sgen` (R39, R233). -/
theorem convDone_written (h : ctxOf s = some c) (hv : WidensFrom c.g.sew v) {d b : VOp} {tag : Nat} {rc : Recon} (hrc : WindowWrs rc.res.wrs)
    (hd : d.exists') :
    let gx := c.g.flagged ((flagEls c v.dst.bits d.n (predOf c f.pr)).filter (v.both c)) (v.res c (c.after rc.res.wrs) b) rc.res.flags
    let ws := (elemClasses c d v.dst.bits d.n (predOf c f.pr) (v.both c) (v.res c (c.after rc.res.wrs) b)).wrs
    ∃ g1 r1, OnlyIssuer c (countRecon c.co.core rc s) (convDone s c f v d b tag rc) g1 r1 ∧
      LaneWritten c (rc.res.wrs ++ ws ++ tagWrs d tag ws)
        (if v.mode c = .sr ∧ v.any c f = true then { gx with sgen := sgenAdvance c.g.sgen } else gx) g1 r1 := by
  obtain ⟨g1, r1, honly, hwr⟩ := commit_elemClasses (s := s) h hrc hd hv.1 tag c (predOf c f.pr) (v.both c) (v.res c (c.after rc.res.wrs) b)
  unfold convDone
  dsimp only
  split
  · have hs : g1.unnoted.sgen = c.g.sgen := by rw [hwr.group]; rfl
    refine ⟨_, r1, honly.updG _, ?_⟩
    rw [show g1.sgen = c.g.sgen from hs]
    exact hwr.sgen _
  · exact ⟨g1, r1, honly, hwr⟩

/-- A CONVERSION of majors 0x40 to 0x43 (R233). -/
theorem formConvert_of_convert {mk : LW → Instr} {pair : Nat → Option Conv} (he : ∀ f s, exec (mk f) s = convert f pair s)
    (hpair : ∀ w v, pair w = some v → WidensFrom w v) : FormConvert mk pair := by
  intro s c f h hsew
  refine ⟨fun hnone => exec_trap h (he f s) (by rw [hnone]; rfl), fun v hp => ⟨fun hwide => exec_trap h (he f s) ?wide, fun hfit => ?steps⟩⟩
  case wide =>
    rw [hp]
    dsimp only
    rw [decide_eq_false (by omega)]
    rfl
  case steps =>
    have hv := hpair _ v hp
    obtain ⟨body, hbody, hsteps⟩ := exec_convert (he f s) hp hv hfit
    obtain ⟨hfail, hpass⟩ := exec_of_laneSteps h hbody hsteps
    refine ⟨hfail, fun hchk => ⟨(hpass hchk).1, fun tag rc ht hd hb => ?_⟩⟩
    have hrc := tagRule_wrs ht (List.forall_mem_singleton.mpr hb)
    obtain ⟨g1, r1, honly, hwr⟩ := convDone_written (f := f) h hv hrc hd (b := wideOp c f.b f.ib (c.g.grp * (v.src.bits / c.g.sew))) (tag := tag)
    exact ⟨_, g1, r1, laneDone_of_written ((hpass hchk).2 tag rc ht) honly hwr hrc hd hv.1 (elWrs_elemClasses hv.1 _) (le_loc_elemClasses hv.1)
      (fun e x hx => by split at hx; exacts [laneNew_lt hx, nomatch hx])⟩

end Convert

/-- Settles O30: each conversion by the pairs T and SEW name. -/
theorem conversionResults : Obligations.ConversionResults :=
  ⟨fun t _ => formConvert_of_convert (fun f s => exec_vfcvt f t s) (fun _ _ => fcvtPair_widens),
    formConvert_of_convert exec_vfcvtI (fun _ _ => f2iPair_widens), formConvert_of_convert exec_vfcvtN (fun _ _ => f2iPair_widens),
    formConvert_of_convert exec_vfcvtzI (fun _ _ => f2iPair_widens), formConvert_of_convert exec_vfcvtzN (fun _ _ => f2iPair_widens),
    formConvert_of_convert exec_vicvtI (fun _ _ => i2fPair_widens), formConvert_of_convert exec_vicvtN (fun _ _ => i2fPair_widens),
    formConvert_of_convert exec_vsext (fun _ _ => i2iPair_widens), formConvert_of_convert exec_vzext (fun _ _ => i2iPair_widens),
    formConvert_of_convert exec_vnarrow (fun _ _ => i2iPair_widens), formConvert_of_convert exec_vnarrows (fun _ _ => i2iPair_widens)⟩

end Sys2Proof.Machine
end

section
/-! PROOFS. The cells of the lattice engine: the order of each type and its join, and what one performed join or put leaves. -/

namespace Sys2Proof.Machine

/-! ### Numbers as bytes -/

theorem length_toBytes (n x : Nat) : (toBytes n x).length = n := by
  induction n generalizing x with
  | zero => rfl
  | succ n ih => rw [toBytes, List.length_cons, ih]

theorem fromBytes_toBytes (n x : Nat) : fromBytes (toBytes n x) = x % 2 ^ (8 * n) := by
  induction n generalizing x with
  | zero => simp [toBytes, fromBytes, Nat.mod_one]
  | succ n ih =>
    rw [toBytes, fromBytes, ih, BitVec.toNat_ofNat, show 2 ^ (8 * (n + 1)) = 256 * 2 ^ (8 * n) by rw [Nat.mul_succ, Nat.pow_add]; ring,
      Nat.mod_mul]

theorem fromBytes_lt (l : List Byte) : fromBytes l < 2 ^ (8 * l.length) := by
  induction l with
  | nil => simp [fromBytes]
  | cons b t ih =>
    have hb := b.isLt
    rw [fromBytes, List.length_cons, Nat.mul_succ, Nat.pow_add]
    omega

theorem cellAt_lt (s : State) (pa ty : Nat) : cellAt s pa ty < 2 ^ (8 * latWidth ty) := by
  simpa [cellAt, cellsGet] using fromBytes_lt (cellsGet s.mem pa (latWidth ty))

/-! ### One update of a cell -/

/-- A cell updated holds the new value. -/
theorem cellAt_setCell {s : State} {pa ty x : Nat} (h : Memory.wf s.mem = true) (hx : x < 2 ^ (8 * latWidth ty)) :
    cellAt (setCell pa ty x s) pa ty = x := by
  unfold setCell
  split
  · next he => exact he.symm
  · have := cellsGet_cellsSet (toBytes (latWidth ty) x) pa h
    rw [length_toBytes] at this
    rw [cellAt, this, fromBytes_toBytes, Nat.mod_eq_of_lt hx]

/-- A cell updated leaves every byte outside it. -/
theorem cellGet_setCell {s : State} {pa ty x y : Nat} (h : Memory.wf s.mem = true) (hy : y < pa ∨ pa + latWidth ty ≤ y) :
    cellGet (setCell pa ty x s).mem y = cellGet s.mem y := by
  unfold setCell
  split
  · rfl
  · exact cellGet_cellsSet_of_outside _ pa y h (by rwa [length_toBytes])

/-! ### The slots of a `GCNT8` cell -/

/-- Slot `i` of a `GCNT8` value. -/
def slot (x i : Nat) : Nat := x / 2 ^ (32 * i) % 2 ^ 32

theorem slot_lt (x i : Nat) : slot x i < 2 ^ 32 := Nat.mod_lt _ (by decide)

/-- The number whose 32-bit digits are the first `n` values of `f`. -/
def sumSlots (f : Nat → Nat) (n : Nat) : Nat := (List.range n).foldl (fun x i => x + f i % 2 ^ 32 * 2 ^ (32 * i)) 0

theorem sumSlots_succ (f : Nat → Nat) (n : Nat) : sumSlots f (n + 1) = sumSlots f n + f n % 2 ^ 32 * 2 ^ (32 * n) := by
  simp [sumSlots, List.range_succ]

theorem sumSlots_lt (f : Nat → Nat) (n : Nat) : sumSlots f n < 2 ^ (32 * n) := by
  induction n with
  | zero => simp [sumSlots]
  | succ n ih =>
    have hd : f n % 2 ^ 32 * 2 ^ (32 * n) ≤ (2 ^ 32 - 1) * 2 ^ (32 * n) := Nat.mul_le_mul_right _ (by omega)
    rw [sumSlots_succ, Nat.mul_succ, Nat.pow_add]
    omega

theorem slot_sumSlots (f : Nat → Nat) {n i : Nat} (hi : i < n) : slot (sumSlots f n) i = f i % 2 ^ 32 := by
  induction n with
  | zero => omega
  | succ n ih =>
    rw [sumSlots_succ, slot]
    rcases Nat.lt_succ_iff_lt_or_eq.mp hi with h | rfl
    · have e : 2 ^ (32 * n) = 2 ^ (32 * i) * (2 ^ 32 * 2 ^ (32 * (n - i - 1))) := by
        rw [← Nat.pow_add, ← Nat.pow_add]; congr 1; omega
      rw [e, show f n % 2 ^ 32 * (2 ^ (32 * i) * (2 ^ 32 * 2 ^ (32 * (n - i - 1)))) =
          2 ^ (32 * i) * (2 ^ 32 * (f n % 2 ^ 32 * 2 ^ (32 * (n - i - 1)))) by ring,
        Nat.add_mul_div_left _ _ (Nat.two_pow_pos _), Nat.add_mul_mod_self_left]
      exact ih h
    · rw [Nat.add_mul_div_right _ _ (Nat.two_pow_pos _), Nat.div_eq_of_lt (sumSlots_lt f i), Nat.zero_add, Nat.mod_mod]

theorem ofSlots_lt (l : List Nat) : ofSlots l < 2 ^ (8 * latWidth 7) := sumSlots_lt _ 8

theorem slot_ofSlots (l : List Nat) {i : Nat} (hi : i < 8) : slot (ofSlots l) i = l.getD i 0 % 2 ^ 32 := slot_sumSlots _ hi

theorem getD_slotsOf (x : Nat) {i : Nat} (hi : i < 8) : (slotsOf x).getD i 0 = slot x i := by
  simp [slotsOf, slot, List.getD, hi]

/-- A `GCNT8` value with one slot set. -/
theorem slot_ofSlots_set {x d v i : Nat} (hd : d < 8) (hv : v < 2 ^ 32) (hi : i < 8) :
    slot (ofSlots ((slotsOf x).set d v)) i = if i = d then v else slot x i := by
  rw [slot_ofSlots _ hi]
  split
  · next h => subst h; simpa [slotsOf, hi] using hv
  · next h =>
    rw [← Nat.mod_eq_of_lt (slot_lt x i), ← getD_slotsOf x hi]
    simp [List.getD, Ne.symm h]

theorem latJoin_gcnt8 (a b : Nat) : latJoin 7 a b = ofSlots ((List.range 8).map (fun i => max (slot a i) (slot b i))) := rfl

theorem slot_latJoin (a b : Nat) {i : Nat} (hi : i < 8) : slot (latJoin 7 a b) i = max (slot a i) (slot b i) := by
  have := slot_lt a i
  have := slot_lt b i
  rw [latJoin_gcnt8, slot_ofSlots _ hi]
  simp only [List.getD, List.getElem?_map, List.getElem?_range hi, Option.map_some, Option.getD_some]
  omega

theorem latGe_gcnt8 (a b : Nat) : latGe 7 a b = true ↔ ∀ i < 8, slot b i ≤ slot a i := by
  simp only [latGe, List.all_eq_true, List.mem_range, decide_eq_true_eq, slot]

/-! ### The order of a type and its join (R54) -/

theorem FVal.not_below_self (x : FVal) : FVal.below x x = false := by
  cases x with
  | nan _ => rfl
  | inf b => cases b <;> rfl
  | fin b n d => simp [FVal.below, FVal.lt]

/-- Of two values not both are below the other. -/
theorem FVal.below_asymm (x y : FVal) (h : FVal.below x y = true) : FVal.below y x = false := by
  cases x with
  | nan _ => simp [FVal.below, FVal.lt, FVal.eq] at h
  | inf a => cases y with
    | nan _ => simp [FVal.below, FVal.lt, FVal.eq] at h
    | inf b => revert h; cases a <;> cases b <;> decide
    | fin b n d => revert h; cases a <;> simp [FVal.below, FVal.lt, FVal.eq]
  | fin a n d => cases y with
    | nan _ => simp [FVal.below, FVal.lt, FVal.eq] at h
    | inf b => revert h; cases b <;> simp [FVal.below, FVal.lt, FVal.eq]
    | fin b n' d' =>
      simp only [FVal.below, FVal.lt, FVal.eq, FVal.sign, Bool.or_eq_true, Bool.and_eq_true, decide_eq_true_eq, Bool.not_eq_true'] at h
      simp only [FVal.below, FVal.lt, FVal.eq, FVal.sign, Bool.or_eq_false_iff, Bool.and_eq_false_iff, decide_eq_false_iff_not,
        Bool.not_eq_false']
      rcases h with h | ⟨⟨h, rfl⟩, rfl⟩
      · exact ⟨by omega, .inl (.inl (by omega))⟩
      · exact ⟨by omega, .inl (.inr rfl)⟩

/-- A type whose order is linear: all but the bit sets and `GCNT8`. -/
def Linear (ty : Nat) : Prop := ty ≠ 4 ∧ ty ≠ 7

theorem latJoin_linear {ty : Nat} (h : Linear ty) (a b : Nat) : latJoin ty a b = if latGe ty a b then a else b := by
  obtain ⟨h4, h7⟩ := h
  unfold latJoin
  split
  · contradiction
  · contradiction
  · rfl

/-- A value is at or above itself. -/
theorem latGe_refl (ty a : Nat) : latGe ty a a = true := by
  unfold latGe
  split
  case h_4 => simp [FVal.not_below_self]
  all_goals simp

/-- Of two values of a linear type one is at or above the other. -/
theorem latGe_total {ty a b : Nat} (h : Linear ty) (hb : ty = 5 → isNan32 b = false) (hge : latGe ty a b = false) :
    latGe ty b a = true := by
  obtain ⟨h4, h7⟩ := h
  revert hge
  unfold latGe
  split
  case h_1 => simp only [decide_eq_false_iff_not, decide_eq_true_eq]; omega
  case h_2 => simp only [decide_eq_false_iff_not, decide_eq_true_eq]; omega
  case h_3 => contradiction
  case h_4 =>
    rw [hb rfl]
    cases isNan32 a with
    | true => simp
    | false =>
      simp only [Bool.false_or, Bool.not_false, Bool.true_and, Bool.not_eq_false']
      intro h
      rw [FVal.below_asymm _ _ h]
      rfl
  case h_5 => contradiction
  case h_6 => simp only [decide_eq_false_iff_not, decide_eq_true_eq]; omega

theorem FVal.not_below_negInf (x : FVal) : FVal.below x (.inf true) = false := by
  cases x with
  | nan _ => rfl
  | inf b => cases b <;> rfl
  | fin b n d => rfl

/-- Every value is at or above the bottom element. -/
theorem latGe_latBottom {ty a : Nat} (ha : a < 2 ^ (8 * latWidth ty)) (h5 : ty = 5 → isNan32 a = false) :
    latGe ty a (latBottom ty) = true := by
  unfold latGe
  split
  case h_1 =>
    simp only [latBottom, sext, decide_eq_true_eq]
    split <;> split <;> omega
  case h_2 => exact decide_eq_true (Nat.le_of_lt_succ ha)
  case h_3 => simp [latBottom]
  case h_4 =>
    rw [h5 rfl, show Fmt.f32.decode (latBottom 5) = .inf true from rfl, FVal.not_below_negInf]
    exact Bool.or_true _
  case h_5 => simp [latBottom]
  case h_6 h2 h3 _ h5' _ => simp [latBottom]

/-- The join of a type is at or above both its arguments, and joining again changes nothing. -/
theorem latJoin_upper {ty a b : Nat} (h5 : ty = 5 → isNan32 b = false) :
    latGe ty (latJoin ty a b) a = true ∧ latGe ty (latJoin ty a b) b = true ∧ latJoin ty (latJoin ty a b) b = latJoin ty a b := by
  by_cases h4 : ty = 4
  · subst h4
    refine ⟨?_, ?_, ?_⟩ <;> simp only [latGe, latJoin, beq_iff_eq] <;> refine Nat.eq_of_testBit_eq fun i => ?_ <;>
      simp only [Nat.testBit_and, Nat.testBit_or] <;> cases a.testBit i <;> cases b.testBit i <;> rfl
  by_cases h7 : ty = 7
  · subst h7
    refine ⟨(latGe_gcnt8 _ _).mpr fun i hi => ?_, (latGe_gcnt8 _ _).mpr fun i hi => ?_, ?_⟩
    · rw [slot_latJoin a b hi]; exact le_max_left _ _
    · rw [slot_latJoin a b hi]; exact le_max_right _ _
    · rw [latJoin_gcnt8 (latJoin 7 a b) b, latJoin_gcnt8 a b]
      congr 1
      refine List.map_congr_left fun i hi => ?_
      rw [← latJoin_gcnt8, slot_latJoin a b (List.mem_range.mp hi), max_assoc, max_self]
  · simp only [latJoin_linear ⟨h4, h7⟩]
    by_cases h : latGe ty a b = true
    · simp [h, latGe_refl]
    · rw [Bool.not_eq_true] at h
      simp [h, latGe_refl, latGe_total ⟨h4, h7⟩ h5 h]

/-- The join of two values fits their cell. -/
theorem latJoin_lt {ty a b : Nat} (ha : a < 2 ^ (8 * latWidth ty)) (hb : b < 2 ^ (8 * latWidth ty)) :
    latJoin ty a b < 2 ^ (8 * latWidth ty) := by
  by_cases h4 : ty = 4
  · subst h4; exact Nat.or_lt_two_pow ha hb
  by_cases h7 : ty = 7
  · subst h7; exact ofSlots_lt _
  · rw [latJoin_linear ⟨h4, h7⟩]
    split
    · exact ha
    · exact hb

/-! ### One element performed (R323, R324) -/

section
variable {e : LatEl} {s : State}

/-- A NaN joined or put changes nothing, and the put is refused. -/
theorem latWrite_nan (h5 : e.ty = 5) (hn : isNan32 e.v = true) : latWrite false e s = (s, none) ∧ latWrite true e s = (s, some 2) := by
  simp [latWrite, h5, hn]

variable (hn : e.ty = 5 → isNan32 e.v = false)
include hn

theorem not_nanWrite : (e.ty == 5 && isNan32 e.v) = false := by
  cases h : e.ty == 5 with
  | false => rfl
  | true => exact hn (beq_iff_eq.mp h)

theorem latWrite_join {w : Nat} (hw : latNew false e.ty (cellAt s e.pa e.ty) e.v (e.pa / 2 ^ 36) = w) :
    latWrite false e s = (setCell e.pa e.ty (latJoin e.ty (cellAt s e.pa e.ty) w) s, none) := by
  simp only [latWrite, not_nanWrite hn, hw, Bool.false_eq_true, if_false]

theorem latWrite_put {w : Nat} (hw : latNew true e.ty (cellAt s e.pa e.ty) e.v (e.pa / 2 ^ 36) = w)
    (h : latGe e.ty w (cellAt s e.pa e.ty) = true) : latWrite true e s = (setCell e.pa e.ty w s, none) := by
  simp only [latWrite, not_nanWrite hn, hw, h, Bool.false_eq_true, if_true, if_false]

theorem latWrite_refused {w : Nat} (hw : latNew true e.ty (cellAt s e.pa e.ty) e.v (e.pa / 2 ^ 36) = w)
    (h : latGe e.ty w (cellAt s e.pa e.ty) = false) : latWrite true e s = (s, some 1) := by
  simp only [latWrite, not_nanWrite hn, hw, h, Bool.false_eq_true, if_true, if_false]

end

theorem latNew_of_ne {ty : Nat} (h : ty ≠ 7) (put : Bool) (old v d : Nat) : latNew put ty old v d = v := if_neg h

theorem latNew_gcnt8 (put : Bool) (old v d : Nat) :
    latNew put 7 old v d = ofSlots ((slotsOf old).set d (if put then v else min ((slotsOf old).getD d 0 + v) 0xFFFFFFFF)) := if_pos rfl

/-- A value with slot `d` set is at or above the old one where it does not lower that slot. -/
theorem latGe_set_slot {x old d v : Nat} (hd : d < 8) (hx : ∀ i < 8, slot x i = if i = d then v else slot old i) :
    latGe 7 x old = decide (slot old d ≤ v) := by
  rw [Bool.eq_iff_iff, latGe_gcnt8, decide_eq_true_eq]
  constructor
  · intro h
    simpa [hx d hd] using h d hd
  · intro h i hi
    rw [hx i hi]
    split
    · next e => exact e ▸ h
    · exact le_rfl

/-- A `GCNT8` cell with one slot replaced: the other slots and every byte outside the cell as they were. -/
theorem setCell_slot {s : State} {pa x d v : Nat} (hwf : Memory.wf s.mem = true) (hx : x < 2 ^ (8 * latWidth 7))
    (hs : ∀ i < 8, slot x i = if i = d then v else slot (cellAt s pa 7) i) :
    (∀ i < 8, slot (cellAt (setCell pa 7 x s) pa 7) i = if i = d then v else slot (cellAt s pa 7) i) ∧
    ∀ y, y < pa ∨ pa + 32 ≤ y → cellGet (setCell pa 7 x s).mem y = cellGet s.mem y := by
  rw [cellAt_setCell hwf hx]
  exact ⟨hs, fun y hy => cellGet_setCell hwf hy⟩

/-- Settles O49: the order of a type first (`latJoin_upper`, `latGe_latBottom`); then one element, by the type of its cell. -/
theorem latticeCells : Obligations.LatticeCells := by
  unfold Obligations.LatticeCells
  refine ⟨fun ty a b _ _ ha _ h5 => ?_, fun s e hwf _ h6 hn hv => ?_, fun s e h5 hn => latWrite_nan h5 hn, fun s e hwf h7 hv hd => ?_⟩
  · obtain ⟨h1, h2, h3⟩ := latJoin_upper (a := a) fun h => (h5 h).2
    exact ⟨h1, h2, h3, latGe_latBottom ha fun h => (h5 h).1⟩
  · have hnew : ∀ put, latNew put e.ty (cellAt s e.pa e.ty) e.v (e.pa / 2 ^ 36) = e.v := fun put => latNew_of_ne (by omega) put _ _ _
    have hold := cellAt_lt s e.pa e.ty
    refine ⟨?_, fun h => latWrite_refused hn (hnew true) h, fun h => ?_⟩
    · rw [latWrite_join hn (hnew false)]
      exact ⟨rfl, cellAt_setCell hwf (latJoin_lt hold hv), fun y hy => cellGet_setCell hwf hy⟩
    · dsimp only
      rw [latWrite_put hn (hnew true) h]
      exact ⟨rfl, cellAt_setCell hwf hv, fun y hy => cellGet_setCell hwf hy⟩
  · obtain ⟨mask, ptr, pa, ty, v⟩ := e
    obtain rfl : ty = 7 := h7
    change v < 2 ^ 32 at hv
    change pa / 2 ^ 36 < 8 at hd
    have hn : (7 : Nat) = 5 → isNan32 v = false := by omega
    have hput : ∀ i < 8, slot (latNew true 7 (cellAt s pa 7) v (pa / 2 ^ 36)) i = if i = pa / 2 ^ 36 then v else slot (cellAt s pa 7) i :=
      fun i hi => by rw [latNew_gcnt8]; exact slot_ofSlots_set hd hv hi
    have hge := latGe_set_slot hd hput
    refine ⟨?_, fun h => latWrite_refused hn rfl ?_, fun h => ?_⟩
    · dsimp only
      rw [latWrite_join hn rfl]
      refine ⟨rfl, setCell_slot hwf (ofSlots_lt _) fun i hi => ?_⟩
      have hlt := slot_lt (cellAt s pa 7) i
      rw [slot_latJoin _ _ hi, latNew_gcnt8, slot_ofSlots_set hd (by simp) hi, getD_slotsOf _ hd]
      split
      · next e => subst e; simp only [Bool.false_eq_true, if_false, slot] at hlt ⊢; omega
      · exact max_self _
    · exact hge.trans (decide_eq_false (Nat.not_le.mpr h))
    · dsimp only
      rw [latWrite_put hn rfl (hge.trans (decide_eq_true h))]
      exact ⟨rfl, setCell_slot hwf (latNew_gcnt8 .. ▸ ofSlots_lt _) hput⟩

end Sys2Proof.Machine
end

section
/-! PROOFS. The instructions on MX and BFP8 blocks (R235 to R237): what a processed block writes, its encoding (R44, R45), and the
completion of conversions and of arithmetic. -/

namespace Sys2Proof.Machine

/-! ### The group after a reconstruction -/

section After

variable {c : Ctx} {ws : List Wr}

/-- After writes to vector words and sidecars the rest of the group reads as before. -/
theorem VecWrs.group_after (h : VecWrs ws) (c : Ctx) : ∃ v t sc p, (c.after ws).g = { c.g with v := v, tag := t, scale := sc, pend := p } :=
  ⟨_, _, _, _, congrArg (fun g : Group => { g with pend := if ws.isEmpty then c.g.pend else [] }) (putEach_vecWrs (g := c.g) h)⟩

theorem VecWrs.vl_after (h : VecWrs ws) : (c.after ws).g.vl = c.g.vl := by
  obtain ⟨_, _, _, _, e⟩ := h.group_after c; rw [e]
theorem VecWrs.ta_after (h : VecWrs ws) : (c.after ws).g.ta = c.g.ta := by
  obtain ⟨_, _, _, _, e⟩ := h.group_after c; rw [e]; rfl
theorem VecWrs.fz_after (h : VecWrs ws) : (c.after ws).g.fz = c.g.fz := by
  obtain ⟨_, _, _, _, e⟩ := h.group_after c; rw [e]; rfl
theorem VecWrs.rmArith_after (h : VecWrs ws) : (c.after ws).g.rmArith = c.g.rmArith := by
  obtain ⟨_, _, _, _, e⟩ := h.group_after c; rw [e]; rfl
theorem VecWrs.vlmax_after (h : VecWrs ws) : (c.after ws).g.vlmax = c.g.vlmax := by
  obtain ⟨_, _, _, _, e⟩ := h.group_after c; rw [e]; rfl
theorem VecWrs.isLive_after (h : VecWrs ws) (L : Nat) : (c.after ws).g.isLive L = c.g.isLive L := by
  obtain ⟨_, _, _, _, e⟩ := h.group_after c; rw [e]; rfl

end After

/-! ### One block -/

theorem LaneRes.wrs_and (a b : LaneRes) : (a.and b).wrs = a.wrs ++ b.wrs := rfl
theorem LaneRes.flags_and (a b : LaneRes) : (a.and b).flags = a.flags ||| b.flags := rfl
theorem LaneRes.sat_and (a b : LaneRes) : (a.and b).sat = (a.sat || b.sat) := rfl

/-- What a block instruction gives for a block: its elements with their flags, and the scale where one is written; none for a block that is
not processed. -/
abbrev BlockOut := Option (List (Nat × Nat) × Option Nat)

/-- An element of a processed block: its result below `vl`, the tail policy above (R235). -/
def blockEl (c : Ctx) (o : VOp) (w e : Nat) (x : Nat × Nat) : LaneRes :=
  if e < c.g.vl then { wrs := wrElt o w e x.1, flags := if c.g.isLive (laneOf w e) then x.2 else 0 }
  else { wrs := policyW o w e c.g.ta }

theorem blockWrites_eq (c : Ctx) (o : VOp) (w n k : Nat) (els : List (Nat × Nat)) :
    blockWrites c o w n k els = (List.range n).foldl (fun acc i => acc.and (blockEl c o w (k * n + i) (els.getD i (0, 0)))) {} := by
  have step : (fun (acc : LaneRes) i => acc.and (blockEl c o w (k * n + i) (els.getD i (0, 0)))) = fun acc i =>
      if k * n + i < c.g.vl then acc.and
        { wrs := wrElt o w (k * n + i) (els.getD i (0, 0)).1, flags := if c.g.isLive (laneOf w (k * n + i)) then (els.getD i (0, 0)).2 else 0 }
      else acc.and { wrs := policyW o w (k * n + i) c.g.ta } := by
    funext acc i
    unfold blockEl
    split <;> rfl
  rw [step]
  rfl

/-- What a block writes and which flags it raises. -/
def blockRes (c : Ctx) (o : VOp) (w n : Nat) (res : Nat → BlockOut) (k : Nat) : LaneRes :=
  match res k with
  | none => {}
  | some b => (blockWrites c o w n k b.1).and
      { wrs := match b.2 with
          | some x => wrBlockScale o (1024 / w / n) k x
          | none => [] }

/-- The value element `e` receives. -/
def blockNew (c : Ctx) (w n : Nat) (res : Nat → BlockOut) (e : Nat) : Option Nat :=
  match res (e / n) with
  | none => none
  | some b => if e < c.g.vl then some ((b.1.getD (e % n) (0, 0)).1 % 2 ^ w) else if c.g.ta then some (2 ^ w - 1) else none

/-- Blocks that fill registers: elements of width `w`, `n` of them in a block, at most eight blocks in a register (R33, R34, R234). -/
def BlockShape (w n : Nat) : Prop := ElWidth w ∧ 0 < n ∧ 1024 / w / n ≤ 8 ∧ 1024 / w / n * n = 1024 / w

section Block

variable {c : Ctx} {o : VOp} {w n : Nat} {res : Nat → BlockOut} {wr : Wr}

theorem blockNew_lt {e x : Nat} (h : blockNew c w n res e = some x) : x < 2 ^ w := by
  have hpos := Nat.two_pow_pos w
  unfold blockNew at h
  split at h
  · cases h
  · split_ifs at h <;> cases h
    · exact Nat.mod_lt _ hpos
    · omega

theorem isSome_blockNew (e : Nat) : (blockNew c w n res e).isSome = ((res (e / n)).isSome && (decide (e < c.g.vl) || c.g.ta)) := by
  unfold blockNew
  cases res (e / n) with
  | none => rfl
  | some b =>
    by_cases hvl : e < c.g.vl
    · simp [hvl]
    · cases hta : c.g.ta <;> simp [hvl]

theorem div_block {k i : Nat} (hi : i < n) : (k * n + i) / n = k := by
  rw [Nat.mul_comm, Nat.mul_add_div (by omega), Nat.div_eq_of_lt hi, Nat.add_zero]

theorem mod_block {k i : Nat} (hi : i < n) : (k * n + i) % n = i := by
  rw [Nat.mul_comm, Nat.mul_add_mod, Nat.mod_eq_of_lt hi]

/-- The value an element of block `k` receives. -/
theorem blockNew_block {k i : Nat} (hi : i < n) : blockNew c w n res (k * n + i) = match res k with
    | none => none
    | some b => if k * n + i < c.g.vl then some ((b.1.getD i (0, 0)).1 % 2 ^ w) else if c.g.ta then some (2 ^ w - 1) else none := by
  rw [blockNew, div_block hi, mod_block hi]

/-- An element's writes are those of the value it receives. -/
theorem mem_blockEl_wrs {k i : Nat} {b : List (Nat × Nat) × Option Nat} (hi : i < n) (hb : res k = some b) :
    wr ∈ (blockEl c o w (k * n + i) (b.1.getD i (0, 0))).wrs ↔
      ∃ x, blockNew c w n res (k * n + i) = some x ∧ wr ∈ wrElt o w (k * n + i) x := by
  rw [blockNew_block hi, hb, blockEl]
  dsimp only
  split
  · simp [wrElt_mod]
  · exact mem_policyW

/-- The writes of a block: its elements' and its scale's. -/
theorem mem_blockRes_wrs {k : Nat} : wr ∈ (blockRes c o w n res k).wrs ↔
    (∃ i x, i < n ∧ blockNew c w n res (k * n + i) = some x ∧ wr ∈ wrElt o w (k * n + i) x) ∨
    ∃ els x, res k = some (els, some x) ∧ wr ∈ wrBlockScale o (1024 / w / n) k x := by
  unfold blockRes
  cases hk : res k with
  | none =>
    refine iff_of_false List.not_mem_nil ?_
    rintro (⟨i, x, hi, hx, -⟩ | ⟨_, _, h, -⟩)
    · rw [blockNew_block hi, hk] at hx
      cases hx
    · cases h
  | some b =>
    obtain ⟨els, sc⟩ := b
    rw [LaneRes.wrs_and, blockWrites_eq, List.mem_append, wrs_foldl_and, List.nil_append, List.mem_flatMap]
    refine or_congr ?_ ?_
    · simp only [List.mem_range]
      constructor
      · rintro ⟨i, hi, hwr⟩
        obtain ⟨x, hx, hin⟩ := (mem_blockEl_wrs hi hk).mp hwr
        exact ⟨i, x, hi, hx, hin⟩
      · rintro ⟨i, x, hi, hx, hin⟩
        exact ⟨i, hi, (mem_blockEl_wrs hi hk).mpr ⟨x, hx, hin⟩⟩
    · cases sc with
      | none => simp
      | some x => simp

theorem blockRes_sat (k : Nat) : (blockRes c o w n res k).sat = false := by
  unfold blockRes
  split
  · rfl
  · rw [LaneRes.sat_and, blockWrites_eq, sat_foldl_and]
    have : ∀ e x, (blockEl c o w e x).sat = false := fun e x => by unfold blockEl; split <;> rfl
    simp [this]

/-- The flags of a block: of its elements below `vl` in live lanes. -/
theorem testBit_blockRes_flags (k y : Nat) : (blockRes c o w n res k).flags.testBit y = (List.range n).any (fun i =>
    match res k with
    | none => false
    | some b => decide (k * n + i < c.g.vl) && c.g.isLive (laneOf w (k * n + i)) && ((b.1.getD i (0, 0)).2).testBit y) := by
  unfold blockRes
  cases res k with
  | none => simp
  | some b =>
    dsimp only
    rw [LaneRes.flags_and, blockWrites_eq, flags_foldl_and, Nat.or_zero, testBit_foldl_or, Nat.zero_testBit, Bool.false_or]
    refine any_congr_mem fun i _ => ?_
    unfold blockEl
    by_cases hvl : k * n + i < c.g.vl
    · cases c.g.isLive (laneOf w (k * n + i)) <;> simp [hvl]
    · simp [hvl]

/-- The scale of a block is a byte of a register of its group (R234). -/
theorem mem_wrBlockScale {per k x : Nat} : wr ∈ wrBlockScale o per k x ↔
    o.reg (k / per) < 2000 ∧ wr = ⟨locScale (o.reg (k / per)) (k % per), 255, x⟩ := by
  unfold wrBlockScale wrScale
  split
  · simp; omega
  · simp; omega

end Block

/-! ### The blocks of a register group -/

theorem mem_blockwise_wrs {count : Nat} {f : Nat → LaneRes} {wr : Wr} : wr ∈ (blockwise count f).wrs ↔ ∃ k, k < count ∧ wr ∈ (f k).wrs := by
  simp [blockwise, wrs_foldl_and]

section Blocks

variable {c : Ctx} {o : VOp} {w n : Nat} {res : Nat → BlockOut} {wr : Wr}

/-- All blocks of the group `o`. -/
def blockAll (c : Ctx) (o : VOp) (w n : Nat) (res : Nat → BlockOut) : LaneRes := blockwise (1024 / w / n * o.n) (blockRes c o w n res)

theorem blockAll_sat : (blockAll c o w n res).sat = false := by
  simp [blockAll, blockwise, sat_foldl_and, blockRes_sat]

variable (hs : BlockShape w n)
include hs

theorem BlockShape.per_pos : 0 < 1024 / w / n := by
  obtain ⟨hw, -, -, hfill⟩ := hs
  have : 0 < 1024 / w := by rcases hw with rfl | rfl | rfl | rfl | rfl <;> decide
  exact Nat.pos_of_ne_zero fun h => by rw [h] at hfill; omega

theorem BlockShape.count_mul (m : Nat) : 1024 / w / n * m * n = 1024 / w * m := by
  rw [Nat.mul_right_comm, hs.2.2.2]

/-- The blocks' elements are those of the group. -/
theorem BlockShape.lt_iff {k i m : Nat} (hi : i < n) : k < 1024 / w / n * m ↔ k * n + i < 1024 / w * m := by
  rw [← hs.count_mul m]
  constructor
  · intro h
    calc k * n + i < (k + 1) * n := by rw [Nat.add_one_mul]; omega
      _ ≤ _ := Nat.mul_le_mul_right _ h
  · intro h
    exact Nat.lt_of_mul_lt_mul_right (a := n) (by omega)

/-- A scale written is a byte of a window register. -/
theorem scaleWr_of_block (ho : o.exists') {k x : Nat} (hk : k < 1024 / w / n * o.n) (h : wr ∈ wrBlockScale o (1024 / w / n) k x) :
    o.temp = false ∧ k / (1024 / w / n) < o.n ∧ o.idx + k / (1024 / w / n) < 256 ∧ k % (1024 / w / n) < 8 ∧
      wr = ⟨locScale (o.idx + k / (1024 / w / n)) (k % (1024 / w / n)), 255, x⟩ := by
  obtain ⟨hreg, rfl⟩ := mem_wrBlockScale.mp h
  have hin : k / (1024 / w / n) < o.n := Nat.div_lt_of_lt_mul hk
  have hper := Nat.mod_lt k hs.per_pos
  have hle := hs.2.2.1
  have htemp : o.temp = false := by
    cases ht : o.temp with
    | false => rfl
    | true => simp [VOp.reg, ht, tempReg] at hreg
  have hr : o.reg (k / (1024 / w / n)) = o.idx + k / (1024 / w / n) := by simp [VOp.reg, htemp]
  obtain ⟨-, -, hwin⟩ := ho
  rw [htemp] at hwin
  simp only [Bool.false_eq_true, if_false] at hwin
  exact ⟨htemp, hin, by omega, by omega, by rw [hr]⟩

/-- What the blocks write: the elements that receive a value, and scales. -/
theorem mem_blockAll_wrs : wr ∈ (blockAll c o w n res).wrs ↔
    (∃ e x, e < 1024 / w * o.n ∧ blockNew c w n res e = some x ∧ wr ∈ wrElt o w e x) ∨
    ∃ k els x, k < 1024 / w / n * o.n ∧ res k = some (els, some x) ∧ wr ∈ wrBlockScale o (1024 / w / n) k x := by
  have hn := hs.2.1
  simp only [blockAll, mem_blockwise_wrs, mem_blockRes_wrs, and_or_left, exists_or]
  refine or_congr ⟨?_, ?_⟩ ⟨?_, ?_⟩
  · rintro ⟨k, hk, i, x, hi, hx, hin⟩
    exact ⟨k * n + i, x, (hs.lt_iff hi).mp hk, hx, hin⟩
  · rintro ⟨e, x, he, hx, hin⟩
    have hsplit : e / n * n + e % n = e := Nat.div_add_mod' e n
    have hi := Nat.mod_lt e hn
    exact ⟨e / n, (hs.lt_iff hi).mpr (by rwa [hsplit]), e % n, x, hi, by rwa [hsplit], by rwa [hsplit]⟩
  · rintro ⟨k, hk, els, x, h, hin⟩
    exact ⟨k, els, x, hk, h, hin⟩
  · rintro ⟨k, els, x, hk, h, hin⟩
    exact ⟨k, hk, els, x, h, hin⟩

/-- Of words the blocks write those of their elements. -/
theorem elWrs_blockAll (ho : o.exists') : ElWrs o w (blockNew c w n res) (blockAll c o w n res).wrs := by
  intro wr
  rw [mem_blockAll_wrs hs]
  constructor
  · rintro ⟨h | ⟨k, els, x, hk, -, hin⟩, hlo⟩
    · exact h
    · obtain ⟨-, -, hreg, hj, rfl⟩ := scaleWr_of_block hs ho hk hin
      simp only [locScale] at hlo
      omega
  · rintro ⟨e, x, he, hx, hin⟩
    obtain ⟨L, -, hloc, -⟩ := wrElt_loc hs.1 hin
    exact ⟨.inl ⟨e, x, he, hx, hin⟩, by rw [hloc]; unfold locV; omega⟩

/-- The blocks write words and scale bytes. -/
theorem blockAll_wrs (ho : o.exists') (h : wr ∈ (blockAll c o w n res).wrs) :
    (∃ reg L, L < 32 ∧ wr.loc = locV reg L ∧ wr.mask < 2 ^ 32) ∨ ∃ reg j, reg < 256 ∧ j < 8 ∧ wr.loc = locScale reg j ∧ wr.mask = 255 := by
  rcases (mem_blockAll_wrs hs).mp h with ⟨e, x, -, -, hin⟩ | ⟨k, els, x, hk, -, hin⟩
  · obtain ⟨L, hL, hloc, hm⟩ := wrElt_loc hs.1 hin
    exact .inl ⟨_, L, hL, hloc, hm⟩
  · obtain ⟨-, -, hreg, hj, rfl⟩ := scaleWr_of_block hs ho hk hin
    exact .inr ⟨_, _, hreg, hj, rfl, rfl⟩

theorem vecWrs_blockAll (ho : o.exists') : VecWrs (blockAll c o w n res).wrs := by
  intro wr hwr
  rcases blockAll_wrs hs ho hwr with ⟨reg, L, -, hloc, hm⟩ | ⟨reg, j, hreg, hj, hloc, hm⟩
  · rw [hloc]
    exact ⟨isVec_locV reg L, by rw [vecBits_locV]; exact hm⟩
  · rw [hloc, hm]
    exact ⟨isVec_locScale hreg hj, by rw [vecBits_locScale hreg hj]; decide⟩

/-- The blocks write no tag. -/
theorem blockAll_ne_locTag (ho : o.exists') (h : wr ∈ (blockAll c o w n res).wrs) {reg : Nat} (hreg : reg < 256) : wr.loc ≠ locTag reg := by
  rcases blockAll_wrs hs ho h with ⟨r, L, -, hloc, -⟩ | ⟨r, j, hr, hj, hloc, -⟩
  · rw [hloc]; unfold locV locTag; omega
  · rw [hloc]; unfold locScale locTag; omega

/-- The block whose scale is byte `j` of register `reg`, if one is. -/
def scaleBlock (o : VOp) (per : Nat) (res : Nat → BlockOut) (reg j : Nat) : BlockOut :=
  if o.temp = false ∧ o.idx ≤ reg ∧ reg < o.idx + o.n ∧ j < per then res (per * (reg - o.idx) + j) else none

/-- The writes of a scale byte: those of its block. -/
theorem blockAll_scale (ho : o.exists') {reg j : Nat} (hreg : reg < 256) (hj : j < 8) :
    (wr ∈ (blockAll c o w n res).wrs ∧ wr.loc = locScale reg j) ↔
      ∃ els x, scaleBlock o (1024 / w / n) res reg j = some (els, some x) ∧ wr = ⟨locScale reg j, 255, x⟩ := by
  constructor
  · rintro ⟨hwr, hloc⟩
    rcases (mem_blockAll_wrs hs).mp hwr with ⟨e, x, -, -, hin⟩ | ⟨k, els, x, hk, hres, hsc⟩
    · obtain ⟨L, -, hloc', -⟩ := wrElt_loc hs.1 hin
      rw [hloc'] at hloc
      unfold locV locScale at hloc
      omega
    · obtain ⟨htemp, hin, hreg', hj', rfl⟩ := scaleWr_of_block hs ho hk hsc
      have hat : o.idx + k / (1024 / w / n) = reg ∧ k % (1024 / w / n) = j := by
        simp only [locScale] at hloc
        omega
      obtain ⟨rfl, rfl⟩ := hat
      refine ⟨els, x, ?_, rfl⟩
      rw [scaleBlock, if_pos ⟨htemp, Nat.le_add_right _ _, Nat.add_lt_add_left hin _, Nat.mod_lt k hs.per_pos⟩, Nat.add_sub_cancel_left,
        Nat.div_add_mod, hres]
  · rintro ⟨els, x, hblk, rfl⟩
    unfold scaleBlock at hblk
    split at hblk
    · rename_i hin
      obtain ⟨htemp, hlo, hhi, hjp⟩ := hin
      have hdiv : (1024 / w / n * (reg - o.idx) + j) / (1024 / w / n) = reg - o.idx := by
        rw [Nat.mul_add_div hs.per_pos, Nat.div_eq_of_lt hjp, Nat.add_zero]
      have hmod : (1024 / w / n * (reg - o.idx) + j) % (1024 / w / n) = j := by rw [Nat.mul_add_mod, Nat.mod_eq_of_lt hjp]
      have hr : o.reg (reg - o.idx) = reg := by simp [VOp.reg, htemp]; omega
      refine ⟨(mem_blockAll_wrs hs).mpr (.inr ⟨_, els, x, ?_, hblk, ?_⟩), rfl⟩
      · calc 1024 / w / n * (reg - o.idx) + j < 1024 / w / n * (reg - o.idx + 1) := by rw [Nat.mul_add_one]; omega
          _ ≤ _ := Nat.mul_le_mul_left _ (by omega)
      · rw [mem_wrBlockScale, hdiv, hmod, hr]
        exact ⟨by omega, rfl⟩
    · cases hblk

/-- A scale byte after the blocks (R234). -/
theorem afterWrs_blockAll_scale (ho : o.exists') {reg j old : Nat} (hreg : reg < 256) (hj : j < 8) (hold : old < 256) :
    afterWrs (blockAll c o w n res).wrs (locScale reg j) old = match scaleBlock o (1024 / w / n) res reg j with
      | some (_, some x) => x % 256
      | _ => old := by
  have hwr := fun wr => blockAll_scale (c := c) (res := res) (wr := wr) hs ho hreg hj
  split
  · next els x hblk =>
    have hone : ∀ wr, wr ∈ (blockAll c o w n res).wrs ∧ wr.loc = locScale reg j ↔ wr = ⟨locScale reg j, 255, x⟩ := fun wr => by
      rw [hwr, hblk]
      simp
    rw [afterWrs_byte hold fun wr h hloc => (hone wr).mp ⟨h, hloc⟩, if_pos ⟨_, (hone _).mpr rfl⟩]
  · next hno =>
    refine afterWrs_of_not_mem old fun wr h hloc => ?_
    obtain ⟨els, x, hblk, -⟩ := (hwr wr).mp ⟨h, hloc⟩
    exact hno els x hblk

/-- The flags of the blocks: from elements below `vl` in live lanes. -/
theorem testBit_blockAll_flags (y : Nat) : (blockAll c o w n res).flags.testBit y = (List.range (1024 / w * o.n)).any (fun e =>
    match res (e / n) with
    | none => false
    | some b => decide (e < c.g.vl) && c.g.isLive (laneOf w e) && ((b.1.getD (e % n) (0, 0)).2).testBit y) := by
  have hn := hs.2.1
  rw [blockAll, blockwise, flags_foldl_and, testBit_foldl_or, Nat.zero_testBit, Bool.false_or, Bool.eq_iff_iff]
  simp only [testBit_blockRes_flags, List.any_eq_true, List.mem_range]
  constructor
  · rintro ⟨k, hk, i, hi, h⟩
    exact ⟨k * n + i, (hs.lt_iff hi).mp hk, by rwa [div_block hi, mod_block hi]⟩
  · rintro ⟨e, he, h⟩
    have hi := Nat.mod_lt e hn
    have hsplit : e / n * n + e % n = e := Nat.div_add_mod' e n
    exact ⟨e / n, (hs.lt_iff hi).mpr (by rwa [hsplit]), e % n, hi, by rwa [hsplit]⟩

end Blocks

/-! ### The completion of a block instruction -/

section Done

variable {i : Instr} {s : State} {c : Ctx} {rc : Recon} {o : VOp} {w n tag : Nat} {res : Nat → BlockOut}

/-- Scale bytes are untouched by a reconstruction and by tags. -/
theorem WindowWrs.afterWrs_locScale {ws : List Wr} (h : WindowWrs ws) {reg j : Nat} (hreg : reg < 256) (hj : j < 8) (old : Nat) :
    afterWrs ws (locScale reg j) old = old :=
  afterWrs_of_not_mem old fun wr hwr hloc => by
    have := h.le_loc wr hwr
    unfold locScale at hloc
    omega

/-- THE COMPLETION OF A BLOCK INSTRUCTION from the commit of its blocks. -/
theorem blocksDone_of_commit (h : ctxOf s = some c) (hs : BlockShape w n) (hrc : WindowWrs rc.res.wrs) (ho : o.exists')
    (hnext : exec i s = .next (retire 4 c.slot (commitLane c o tag rc (blockAll c o w n res) s))) :
    ∃ s1 g r, BlocksDone i c s rc o w n tag res s1 g r := by
  have hw := hs.1
  have hels := elWrs_blockAll (c := c) (res := res) hs ho
  obtain ⟨g1, r1, honly, hwr⟩ := commitLane_written h o tag rc (blockAll c o w n res) (vecWrs_append.mpr ⟨vecWrs_append.mpr ⟨hrc.vecWrs,
    vecWrs_blockAll hs ho⟩, (tagWrs_window ho tag _).vecWrs⟩)
  refine ⟨_, g1, r1, ⟨hnext, honly, fun e he => ?_, fun reg L hL hreg => ?_, fun reg j hreg hj => ?_, fun reg hreg => ?_,
    fun x => ?_, ?_, hwr.run⟩⟩
  · dsimp only
    rw [heldEl_after hw hels (fun _ _ => blockNew_lt) (hwr.heldWord hrc) he, blockNew]
    cases res (e / n) with
    | none => rfl
    | some b =>
      dsimp only
      split_ifs <;> rfl
  · rw [hwr.heldWord hrc reg L hL, heldWord_of_not_reg hw hels hL hreg]
  · have hloc := hwr.locs (locScale reg j) (isVec_locScale hreg hj) (by unfold locScale; omega)
    rw [afterWrs_append, afterWrs_append, hrc.afterWrs_locScale hreg hj, (tagWrs_window ho tag _).afterWrs_locScale hreg hj,
      afterWrs_blockAll_scale hs ho hreg hj (by rw [getLoc_locScale _ hreg hj]; exact Nat.mod_lt _ (by decide)), getLoc_locScale _ hreg hj,
      getLoc_locScale _ hreg hj, Nat.pow_mul] at hloc
    exact hloc
  · rw [hwr.tagGet hrc (fun wr hin r hr => blockAll_ne_locTag hs ho hin hr) hreg]
    simp only [mem_writtenRegs_window hw hels hreg, isSome_blockNew]
  · have hfl : g1.unnoted.fflags = c.g.fflags ||| (rc.res.flags ||| (blockAll c o w n res).flags) := by rw [hwr.group]; rfl
    rw [show g1.fflags = _ from hfl, ← Nat.lor_assoc, Nat.testBit_or]
    exact congrArg ((c.g.fflags ||| rc.res.flags).testBit x || ·) (testBit_blockAll_flags hs x)
  · have hg := hwr.group
    rw [blockAll_sat, Bool.or_false] at hg
    have hfl : g1.unnoted.fflags = c.g.fflags ||| (rc.res.flags ||| (blockAll c o w n res).flags) := by rw [hg]; rfl
    rw [show g1.fflags = _ from hfl, hg]
    rfl

end Done

end Sys2Proof.Machine
end

section
/-! PROOFS. MX and BFP8 blocks: their encoding (R44, R45), conversions (R235, R236) and arithmetic (R237). -/

namespace Sys2Proof.Machine

theorem exec_vmxcvtToMx (f : LW) (t : Nat) (s : State) : exec (.vmxcvtToMx f t) s = execVmxcvtToMx f t s := rfl
theorem exec_vmxcvtFromMx (f : LW) (t : Nat) (s : State) : exec (.vmxcvtFromMx f t) s = execVmxcvtFromMx f t s := rfl
theorem exec_vmxcvtMxint8F32 (f : LW) (s : State) : exec (.vmxcvtMxint8F32 f) s = execVmxcvtMxint8F32 f s := rfl
theorem exec_vmxcvtF32Mxint8 (f : LW) (s : State) : exec (.vmxcvtF32Mxint8 f) s = execVmxcvtF32Mxint8 f s := rfl
theorem exec_vbfpcvtBfp8F32 (f : LW) (s : State) : exec (.vbfpcvtBfp8F32 f) s = execVbfpcvtBfp8F32 f s := rfl
theorem exec_vbfpcvtF32Bfp8 (f : LW) (s : State) : exec (.vbfpcvtF32Bfp8 f) s = execVbfpcvtF32Bfp8 f s := rfl

/-! ### Encoding (R44, R45) -/

/-- The mantissa of a finite value: rounded, and clamped with overflow flags (R44, R45). -/
theorem mantissa_fin (mode : Rm) {lo hi : Int} (h : lo ≤ hi) (neg : Bool) (n d : Nat) : mantissa mode lo hi (.fin neg n d) =
    (max lo (min hi (roundInt mode 0 neg n d).1),
      if (roundInt mode 0 neg n d).1 < lo ∨ hi < (roundInt mode 0 neg n d).1 then Fl.of + Fl.nx
      else if (roundInt mode 0 neg n d).2 then Fl.nx else 0) := by
  unfold mantissa
  dsimp only
  generalize roundInt mode 0 neg n d = q
  obtain ⟨q, ix⟩ := q
  dsimp only
  split
  · rename_i hlo
    rw [if_pos (.inl hlo), max_eq_left (by omega)]
  · split
    · rename_i hhi
      rw [if_pos (.inr hhi), min_eq_left (by omega), max_eq_right h]
    · rw [if_neg (by omega), min_eq_right (by omega), max_eq_right (by omega)]
      rfl

/-- A mantissa byte: bounds `lo` and 127 (R44, R45). -/
def mantByte (mode : Rm) (lo : Int) (x : FVal) : Nat × Nat := (wrap 8 (mantissa mode lo 127 x).1, (mantissa mode lo 127 x).2)

theorem mantByte_fin (mode : Rm) {lo : Int} (h : lo ≤ 127) (neg : Bool) (n d : Nat) : mantByte mode lo (.fin neg n d) =
    ((BitVec.ofInt 8 (max lo (min 127 (roundInt mode 0 neg n d).1))).toNat,
      if (roundInt mode 0 neg n d).1 < lo ∨ 127 < (roundInt mode 0 neg n d).1 then Fl.of + Fl.nx
      else if (roundInt mode 0 neg n d).2 then Fl.nx else 0) := by
  rw [mantByte, mantissa_fin mode h, wrap_eq]

section Encode

variable {F : Option Fmt} {mode : Rm} {fz : Bool} {xs : List FVal}

/-- The exponent X that R44 gives the scale of finite values. -/
def mxExp (F : Option Fmt) (xs : List FVal) : Int :=
  match amaxExp xs with
  | none => -127
  | some e => max (-127) (min 127 (e - (F.map emaxElem).getD 0))

/-- An element under the scale `2^X` (R44). -/
def mxElemOut (F : Option Fmt) (mode : Rm) (fz : Bool) (X : Int) (x : FVal) : Nat × Nat :=
  match F with
  | some f => roundVal f mode true fz 0 (x.scale2 (-X))
  | none => mantByte mode (-127) ((x.scale2 (-X)).scale2 6)

/-- A block that holds a NaN or an infinity (R44). -/
theorem mxEncode_special (h : ∃ x ∈ xs, x.isNan = true ∨ x.isInf = true) :
    mxEncode F mode fz xs = ⟨255, xs.map (fun x => (0, if x.isNan then Fl.nv else 0))⟩ :=
  if_pos (by simpa using h)

/-- A block of finite values (R44). -/
theorem mxEncode_finite (h : ∀ x ∈ xs, x.isNan = false ∧ x.isInf = false) :
    mxEncode F mode fz xs = ⟨(mxExp F xs + 127).toNat, xs.map (mxElemOut F mode fz (mxExp F xs))⟩ := by
  have hno : ¬(xs.any (fun x => x.isNan || x.isInf)) = true := by simpa using h
  unfold mxEncode
  rw [if_neg hno]
  unfold mxExp mxElemOut
  cases F <;> rfl

/-- The shared exponent of a BFP8 block (R45). -/
def bfpExp (xs : List FVal) : Int :=
  match amaxExp xs with
  | none => 0
  | some e => max 0 (min 255 (e + 128))

/-- A BFP8 block (R45). -/
theorem bfpEncode_eq : bfpEncode 8 xs = ⟨(bfpExp xs).toNat, (xs.map (fun x => x.scale2 (134 - bfpExp xs))).map (mantByte .rne (-128))⟩ := by
  have hexp : ((8 : Nat) : Int) - 1 + 127 - bfpExp xs = 134 - bfpExp xs := by omega
  rw [← hexp, List.map_map]
  rfl

theorem bfpEncode_length : (bfpEncode 8 xs).els.length = xs.length := by
  rw [bfpEncode_eq, List.length_map, List.length_map]

/-- An element of a BFP8 block (R45). -/
theorem bfp8_elem {i : Nat} {x : FVal} (h : (xs.map (fun x => x.scale2 (134 - bfpExp xs)))[i]? = some x) :
    (bfpEncode 8 xs).els[i]? = some (mantByte .rne (-128) x) := by
  rw [bfpEncode_eq, List.getElem?_map, h]
  rfl

/-- A mantissa byte of BFP8, by the kind of its value (R45). -/
theorem mantByte_bfp (x : FVal) : mantByte .rne (-128) x = match x with
    | .nan _ => (0, Fl.nv)
    | .inf neg => (if neg then 0x80 else 0x7F, Fl.of + Fl.nx)
    | .fin neg n d =>
      let q := roundInt .rne 0 neg n d
      ((BitVec.ofInt 8 (max (-128) (min 127 q.1))).toNat, if q.1 < -128 ∨ 127 < q.1 then Fl.of + Fl.nx else if q.2 then Fl.nx else 0) := by
  cases x with
  | nan _ => rfl
  | inf neg => cases neg <;> rfl
  | fin neg n d => exact mantByte_fin .rne (by decide) neg n d

/-- An element of a block of finite values (R44). -/
theorem mxEncode_els (h : ∀ x ∈ xs, x.isNan = false ∧ x.isInf = false) :
    (mxEncode F mode fz xs).els = xs.map (mxElemOut F mode fz (mxExp F xs)) := congrArg BlockRes.els (mxEncode_finite h)

/-- An element of an MXINT8 block of finite values (R44). -/
theorem mxint8_elem {X : Int} {i : Nat} {neg : Bool} {n d : Nat} (h : (xs.map (fun x => (x.scale2 (-X)).scale2 6))[i]? = some (.fin neg n d)) :
    (xs.map (mxElemOut none mode fz X))[i]? = some ((BitVec.ofInt 8 (max (-127) (min 127 (roundInt mode 0 neg n d).1))).toNat,
      if (roundInt mode 0 neg n d).1 < -127 ∨ 127 < (roundInt mode 0 neg n d).1 then Fl.of + Fl.nx
      else if (roundInt mode 0 neg n d).2 then Fl.nx else 0) := by
  rw [List.getElem?_map, Option.map_eq_some_iff] at h ⊢
  obtain ⟨x, hx, hfin⟩ := h
  exact ⟨x, hx, by rw [mxElemOut, hfin, mantByte_fin mode (by decide)]⟩

end Encode

/-! ### Conversions (R235, R236) -/

/-- The value of an integer element (R33, R34). -/
theorem intScaled_eq (x : Nat) (e : Int) :
    intScaled 8 x e = dyadic (decide ((BitVec.ofNat 8 x).toInt < 0)) (BitVec.ofNat 8 x).toInt.natAbs e := by
  rw [← intVal_true (show 0 < 8 by decide) x]
  rfl

/-- A block is processed: its first element is below `vl`, and the lanes of its elements are active on all sides (R235). -/
def runsBlock (c : Ctx) (n k : Nat) (sides : List Nat) : Bool :=
  decide (k * n < c.g.vl) && (List.range n).all (fun i => sides.all (fun v => c.act (laneOf v (k * n + i))))

theorem blockRuns_after {c : Ctx} {ws : List Wr} (h : VecWrs ws) (n k : Nat) (sides : List Nat) :
    blockRuns (c.after ws) n k sides = runsBlock c n k sides := by
  unfold blockRuns runsBlock blockLanes
  rw [h.vl_after, Bool.eq_iff_iff]
  simp only [Bool.and_eq_true, List.all_eq_true, List.mem_eraseDups, List.forall_mem_map]
  exact and_congr_right fun _ => ⟨fun h i hi v hv => h v hv i hi, fun h v hv i hi => h i hi v hv⟩

/-- What a block writes is the same after a reconstruction. -/
theorem blockWrites_after {c : Ctx} {ws : List Wr} (h : VecWrs ws) (o : VOp) (w n k : Nat) (els : List (Nat × Nat)) :
    blockWrites (c.after ws) o w n k els = blockWrites c o w n k els := by
  unfold blockWrites
  simp only [h.vl_after, h.ta_after, h.isLive_after]

theorem blockRes_none {c : Ctx} {o : VOp} {w n k : Nat} {res : Nat → BlockOut} (h : res k = none) : blockRes c o w n res k = {} := by
  rw [blockRes, h]

theorem blockRes_scaled {c : Ctx} {o : VOp} {w n k x : Nat} {els : List (Nat × Nat)} {res : Nat → BlockOut} (h : res k = some (els, some x)) :
    blockRes c o w n res k = (blockWrites c o w n k els).and { wrs := wrBlockScale o (1024 / w / n) k x } := by
  rw [blockRes, h]

theorem blockRes_plain {c : Ctx} {o : VOp} {w n k : Nat} {els : List (Nat × Nat)} {res : Nat → BlockOut} (h : res k = some (els, none)) :
    blockRes c o w n res k = blockWrites c o w n k els := by
  rw [blockRes, h]
  exact LaneRes.and_empty _

section Conversion

variable {i : Instr} {s : State} {c c' : Ctx} {f : LW} {b : BlockFmt} {into : Bool} {d v : VOp}

/-- What a conversion gives for block `k`: into the format its elements and scale, out of it each element rounded to F32 (R235, R236). -/
def convOut (c c' : Ctx) (b : BlockFmt) (into : Bool) (v : VOp) (k : Nat) : BlockOut :=
  if runsBlock c b.count k [b.width, 32] then
    if into then
      let r := b.encode c.g.rmArith c.g.fz ((List.range b.count).map (fun i =>
        if k * b.count + i < c.g.vl then decodeFz .f32 c.g.fz (elt c' v 32 (k * b.count + i)) else .fin false 0 1))
      some (r.els, some r.scale)
    else some ((List.range b.count).map (fun i =>
      roundVal .f32 c.g.rmArith false c.g.fz 0 (b.value c.g.fz (rdBlockScale c' v b.per k) (elt c' v b.width (k * b.count + i)))), none)
  else none

/-- The width of the destination's elements. -/
def BlockFmt.dstWidth (b : BlockFmt) (into : Bool) : Nat := if into then b.width else 32

/-- A block converted writes what `convOut` gives. -/
theorem convBlock_eq {ws : List Wr} (h : VecWrs ws) (k : Nat) :
    convBlock (c.after ws) b into d v k = blockRes c d (b.dstWidth into) b.count (convOut c (c.after ws) b into v) k := by
  unfold convBlock
  dsimp only
  rw [blockRuns_after h, h.rmArith_after, h.fz_after, h.vl_after, blockWrites_after h, blockWrites_after h]
  cases hruns : runsBlock c b.count k [b.width, 32] with
  | false => exact (blockRes_none (by rw [convOut, hruns]; rfl)).symm
  | true => cases into with
    | true => exact (blockRes_scaled (by rw [convOut, hruns]; rfl)).symm
    | false => exact (blockRes_plain (by rw [convOut, hruns]; rfl)).symm

/-- The blocks of a format fill registers, on both sides (R33, R34). -/
theorem BlockFmt.shape (b : BlockFmt) (into : Bool) : BlockShape (b.dstWidth into) b.count := by
  have key : ∀ w n, (w = 4 ∨ w = 8 ∨ w = 32) → (n = 32 ∨ n = 16 ∧ w ≠ 4) → BlockShape w n := by
    rintro w n (rfl | rfl | rfl) (rfl | ⟨rfl, h⟩) <;> simp [BlockShape, ElWidth] at *
  refine key _ _ ?_ ?_
  · cases into <;> cases b <;> simp [BlockFmt.dstWidth, BlockFmt.width]
    rename_i F
    by_cases h : F.bits = 4 <;> simp [h]
  · cases into <;> cases b <;> simp [BlockFmt.count, BlockFmt.dstWidth, BlockFmt.width]

/-- `convOut` in the words of the formats: SEW `w`, an element's value by its format (R33, R34, R236). -/
def convRes (c c' : Ctx) (w : Nat) (b : BlockFmt) (into : Bool) (v : VOp) (k : Nat) : BlockOut :=
  let n := if b = .bfp8 then 16 else 32
  let xs := (List.range n).map (fun i => if k * n + i < c.g.vl then decodeFz .f32 c.g.fz (elt c' v 32 (k * n + i)) else .fin false 0 1)
  let enc := match b with
    | .mx F => mxEncode (some F) c.g.rmArith c.g.fz xs
    | .mxint8 => mxEncode none c.g.rmArith c.g.fz xs
    | .bfp8 => bfpEncode 8 xs
  let per := 1024 / w / n
  let dec := fun i =>
    let x := elt c' v w (k * n + i)
    let sc := c'.scale (v.reg (k / per)) (k % per)
    let q := (BitVec.ofNat 8 x).toInt
    match b with
    | .mx F => if sc = 255 then FVal.nan false else (decodeFz F c.g.fz (x % 2 ^ F.bits)).scale2 ((sc : Int) - 127)
    | .mxint8 => if sc = 255 then FVal.nan false else dyadic (decide (q < 0)) q.natAbs ((sc : Int) - 127 - 6)
    | .bfp8 => dyadic (decide (q < 0)) q.natAbs ((sc : Int) - 127 - 7)
  if runsBlock c n k [w, 32] then
    if into then some (enc.els, some enc.scale)
    else some ((List.range n).map (fun i => roundVal .f32 c.g.rmArith false c.g.fz 0 (dec i)), none)
  else none

theorem convOut_eq (b : BlockFmt) (into : Bool) (v : VOp) : convOut c c' b into v = convRes c c' b.width b into v := by
  funext k
  unfold convOut convRes
  cases b with
  | mx F => rfl
  | mxint8 => simp only [BlockFmt.value, intScaled_eq]; rfl
  | bfp8 => simp only [BlockFmt.value, intScaled_eq]; rfl

variable {sel : Nat → Option BlockFmt}

/-- The steps of a block conversion whose format there is (R235, R236). -/
theorem exec_blockConvert (he : exec i s = blockConvert f into sel s) (hsel : sel c.g.sew = some b) (hpr : f.pr = 0)
    (hfit : c.g.grp * (32 / c.g.sew) ≤ 8) (hd : d = wideOp c f.a f.ia (if into then c.g.grp else c.g.grp * (32 / c.g.sew)))
    (hv : v = wideOp c f.b f.ib (if into then c.g.grp * (32 / c.g.sew) else c.g.grp)) :
    ∃ body : Ctx → Except Trap State, exec i s = issue 4 s body ∧
      body c = laneSteps c true 0 d [v] [v] .copy (reconFmt c.g.sew) (fun tag rc => commitLane c d tag rc
        (blockwise (1024 / c.g.sew * c.g.grp / b.count) (convBlock (c.after rc.res.wrs) b into d v)) s) := by
  refine ⟨_, he, ?_⟩
  subst hd hv
  dsimp only
  rw [hsel]
  dsimp only
  rw [hpr, decide_eq_true hfit]
  rfl

/-- As many blocks as fill the destination (R235). -/
theorem blockCount (hb : b.width = c.g.sew) (hd : d.n = if into then c.g.grp else c.g.grp * (32 / c.g.sew)) :
    1024 / c.g.sew * c.g.grp / b.count = 1024 / b.dstWidth into / b.count * d.n := by
  have hs := b.shape into
  refine Nat.div_eq_of_eq_mul_left hs.2.1 ?_
  rw [hs.count_mul, hd, ← hb, BlockFmt.dstWidth]
  cases into with
  | true => rfl
  | false =>
    have hw : b.width = 4 ∨ b.width = 8 := by
      unfold BlockFmt.width
      split
      · split
        · exact .inl rfl
        · exact .inr rfl
      · exact .inr rfl
      · exact .inr rfl
    rcases hw with hw | hw <;> rw [hw] <;> simp only [Bool.false_eq_true, if_false] <;> omega

/-- All blocks converted (R235). -/
theorem convBlocks_eq {ws : List Wr} (h : VecWrs ws) (hb : b.width = c.g.sew) (hd : d.n = if into then c.g.grp else c.g.grp * (32 / c.g.sew)) :
    blockwise (1024 / c.g.sew * c.g.grp / b.count) (convBlock (c.after ws) b into d v) =
      blockAll c d (if into then c.g.sew else 32) (if b = .bfp8 then 16 else 32) (convRes c (c.after ws) c.g.sew b into v) := by
  have hn : (if b = .bfp8 then 16 else 32) = b.count := by cases b <;> rfl
  rw [blockAll, blockCount hb hd, hn, ← hb, ← convOut_eq]
  exact congrArg (blockwise _) (funext fun k => convBlock_eq h k)

/-- A BLOCK CONVERSION of majors 0x44 to 0x46 (R235, R236). -/
theorem blockConversion {res : BlockFmt → Recon → Nat → BlockOut} (h : ctxOf s = some c) (he : exec i s = blockConvert f into sel s)
    (hwidth : ∀ w b, sel w = some b → b.width = w) (hres : ∀ b rc, convRes c (c.after rc.res.wrs) c.g.sew b into v = res b rc)
    (hdo : d = wideOp c f.a f.ia (if into then c.g.grp else c.g.grp * (32 / c.g.sew)))
    (hvo : v = wideOp c f.b f.ib (if into then c.g.grp * (32 / c.g.sew) else c.g.grp)) :
    (sel c.g.sew = none → exec i s = .next (takeTrap c { code := 0x01, detail := 2 } s)) ∧
    (∀ b, sel c.g.sew = some b →
      (f.pr ≠ 0 ∨ 8 < c.g.grp * (32 / c.g.sew) → exec i s = .next (takeTrap c { code := 0x01 } s)) ∧
      (f.pr = 0 → c.g.grp * (32 / c.g.sew) ≤ 8 →
        (∀ t, laneChecks c true 0 [d] [d, v] = .error t → exec i s = .next (takeTrap c t s)) ∧
        (laneChecks c true 0 [d] [d, v] = .ok () →
          (∀ t, tagRule c .copy [v] (reconFmt c.g.sew) = .error t → exec i s = .next (takeTrap c t s)) ∧
          (∀ tag rc, tagRule c .copy [v] (reconFmt c.g.sew) = .ok (tag, rc) → d.exists' → v.exists' →
            ∃ s1 g r, BlocksDone i c s rc d (if into then c.g.sew else 32) (if b = .bfp8 then 16 else 32) tag (res b rc) s1 g r)))) := by
  refine ⟨fun hnone => exec_trap h he (by rw [hnone]; rfl), fun b hb => ⟨fun hbad => exec_trap h he ?bad, fun hpr hfit => ?good⟩⟩
  case bad =>
    have hno : (decide (f.pr = 0) && decide (c.g.grp * (32 / c.g.sew) ≤ 8)) = false := by
      rw [Bool.and_eq_false_iff, decide_eq_false_iff_not, decide_eq_false_iff_not, Nat.not_le]
      exact hbad
    rw [hb]
    dsimp only
    rw [hno]
    rfl
  case good =>
    have hwb := hwidth _ b hb
    obtain ⟨body, hbody, hsteps⟩ := exec_blockConvert he hb hpr hfit hdo hvo
    obtain ⟨hfail, hpass⟩ := exec_of_laneSteps h hbody hsteps
    refine ⟨hfail, fun hchk => ⟨(hpass hchk).1, fun tag rc ht hd hv => ?_⟩⟩
    have hrc := tagRule_wrs ht (List.forall_mem_singleton.mpr hv)
    have hnext := (hpass hchk).2 tag rc ht
    have hdn : d.n = if into then c.g.grp else c.g.grp * (32 / c.g.sew) := by rw [hdo, wideOp_n]
    have hshape : BlockShape (if into then c.g.sew else 32) (if b = .bfp8 then 16 else 32) := by
      have := b.shape into
      rw [BlockFmt.dstWidth, hwb] at this
      cases b <;> exact this
    rw [convBlocks_eq hrc.vecWrs hwb hdn, hres] at hnext
    exact blocksDone_of_commit h hshape hrc hd hnext

end Conversion

/-! ### Arithmetic on MX blocks (R237) -/

section Arithmetic

variable {i : Instr} {s : State} {c c' : Ctx} {f : LV} {t : Nat} {F : Fmt} {mo : MxOp} {d a b : VOp}

/-- The formats of MX arithmetic are as wide as an element (R221). -/
theorem mxFmtT_bits {w : Nat} (h : mxFmtT w t = some F) : F.bits = w ∧ (w = 4 ∨ w = 8) := by
  unfold mxFmtT at h
  split at h <;> cases h <;> decide

/-- What MX arithmetic gives for block `k`: a scale of 255 on a side makes the result NaN, else the exact results are encoded (R237). -/
def mxRes (c c' : Ctx) (w : Nat) (F : Fmt) (op : FVal → FVal → FVal) (a b : VOp) (k : Nat) : BlockOut :=
  let per := 32 / w
  let sc := fun v : VOp => c'.scale (v.reg (k / per)) (k % per)
  let val := fun (v : VOp) (i : Nat) => if 32 * k + i < c.g.vl then
    (if sc v = 255 then FVal.nan false else (decodeFz F c.g.fz (elt c' v w (32 * k + i))).scale2 ((sc v : Int) - 127)) else FVal.fin false 0 1
  let enc := mxEncode (some F) c.g.rmArith c.g.fz ((List.range 32).map (fun i => op (val a i) (val b i)))
  if runsBlock c 32 k [w] then
    (if sc a = 255 ∨ sc b = 255 then some (List.replicate 32 (0, 0), some 255) else some (enc.els, some enc.scale))
  else none

/-- A block added, subtracted or multiplied writes what `mxRes` gives. -/
theorem mxBlock_eq {ws : List Wr} (h : VecWrs ws) (hF : F.bits = 4 ∨ F.bits = 8) (k : Nat) : mxBlock (c.after ws) F mo d a b k =
    blockRes c d F.bits 32 (mxRes c (c.after ws) F.bits F (mo.eval (c.g.rmArith == .rdn)) a b) k := by
  have hper : 32 / F.bits = 1024 / F.bits / 32 := by rcases hF with hF | hF <;> rw [hF]
  unfold mxBlock
  dsimp only
  rw [blockRuns_after h, h.rmArith_after, h.fz_after, h.vl_after, blockWrites_after h]
  cases hruns : runsBlock c 32 k [F.bits] with
  | false => exact (blockRes_none (by rw [mxRes, hruns]; rfl)).symm
  | true =>
    by_cases hsc : rdBlockScale (c.after ws) a (32 / F.bits) k = 255 ∨ rdBlockScale (c.after ws) b (32 / F.bits) k = 255
    · rw [if_pos hsc, blockRes_scaled (x := 255) (els := List.replicate 32 (0, 0)) (by rw [mxRes, hruns]; exact if_pos hsc), ← hper]
      rfl
    · rw [if_neg hsc, blockRes_scaled (by rw [mxRes, hruns]; exact if_neg hsc), ← hper]
      rfl

/-- All blocks of MX arithmetic (R237). -/
theorem lvfRun_mx {op : FEnv → Nat → Nat → ElRes} {ws : List Wr} (h : VecWrs ws) (hF : mxFmtT c.g.sew t = some F) (hd : d.n = c.g.grp) :
    lvfRun f t mo op (c.after ws) d a b =
      blockAll c d c.g.sew 32 (mxRes c (c.after ws) c.g.sew F (mo.eval (c.g.rmArith == .rdn)) a b) := by
  obtain ⟨hbits, hw⟩ := mxFmtT_bits hF
  have hcount : (c.after ws).g.vlmax / 32 = 1024 / c.g.sew / 32 * d.n := by
    rw [h.vlmax_after, Group.vlmax, hd]
    rcases hw with hw | hw <;> rw [hw] <;> omega
  rw [lvfRun, sew_after, hF]
  dsimp only
  rw [hcount, blockAll, ← hbits]
  exact congrArg (blockwise _) (funext fun k => mxBlock_eq h (hbits ▸ hw) k)

theorem bankOp_n (c : Ctx) (vb r n : Nat) : (bankOp c vb r n).n = n := by
  unfold bankOp vOp
  split_ifs <;> rfl

/-- MX arithmetic takes no predicate (R235). -/
theorem mxArith_predicate {k : TagClass} {op : FEnv → Nat → Nat → ElRes} (h : ctxOf s = some c) (he : exec i s = lvf f t k mo op s)
    (hF : mxFmtT c.g.sew t = some F) (hpr : f.pr ≠ 0) : exec i s = .next (takeTrap c { code := 0x01 } s) :=
  exec_trap h (exec_lvf he) (by
    have hno : ((mxFmtT c.g.sew t).isNone || decide (f.pr = 0)) = false := by rw [hF, decide_eq_false hpr]; rfl
    rw [hno]
    rfl)

/-- `VADD`, `VSUB`, `VMUL` ON MX BLOCKS (R237). -/
theorem mxArith {k : TagClass} {op : FEnv → Nat → Nat → ElRes} (h : ctxOf s = some c) (he : exec i s = lvf f t k mo op s)
    (hF : mxFmtT c.g.sew t = some F) (hpr : f.pr = 0) :
    let d := bankOp c f.vb f.vd c.g.grp
    let a := bankOp c f.vb f.vs1 c.g.grp
    let b := bankOp c f.vb f.vs2 c.g.grp
    (∀ t, laneChecks c true 2 [d] [d, a, b] = .error t → exec i s = .next (takeTrap c t s)) ∧
    (laneChecks c true 2 [d] [d, a, b] = .ok () →
      (∀ t, tagRule c k [a, b] (reconFmt c.g.sew) = .error t → exec i s = .next (takeTrap c t s)) ∧
      (∀ tag rc, tagRule c k [a, b] (reconFmt c.g.sew) = .ok (tag, rc) → d.exists' → a.exists' → b.exists' →
        ∃ s1 g r, BlocksDone i c s rc d c.g.sew 32 tag
          (mxRes c (c.after rc.res.wrs) c.g.sew F (mo.eval (c.g.rmArith == .rdn)) a b) s1 g r)) := by
  obtain ⟨hfail, hpass⟩ := exec_of_laneSteps h (exec_lvf he) (lvf_steps (.inr hpr) (.inr (by rw [hF]; rfl)))
  refine ⟨hfail, fun hchk => ⟨(hpass hchk).1, fun tag rc ht hd ha hb => ?_⟩⟩
  have hrc := tagRule_wrs ht (List.forall_mem_cons.mpr ⟨ha, List.forall_mem_singleton.mpr hb⟩)
  have hnext := (hpass hchk).2 tag rc ht
  have hshape : BlockShape c.g.sew 32 := by
    rcases (mxFmtT_bits hF).2 with hw | hw <;> rw [hw] <;> simp [BlockShape, ElWidth]
  rw [lvfRun_mx hrc.vecWrs hF (bankOp_n ..)] at hnext
  exact blocksDone_of_commit h hshape hrc hd hnext

end Arithmetic

/-! ### The statement -/

theorem mxSel_width {t w : Nat} {b : BlockFmt} (h : mxSel t w = some b) : b.width = w := by
  unfold mxSel at h
  split at h <;> cases h <;> decide

theorem at8_width {b b' : BlockFmt} {w : Nat} (hb : b.width = 8) (h : at8 b w = some b') : b'.width = w := by
  unfold at8 at h
  split at h
  · rename_i hw
    cases h
    rw [hb, hw]
  · cases h

/-- Settles O31: conversions and arithmetic by what each block gives (`blocksDone_of_commit`), then the encodings of R44 and R45. -/
theorem blockInstructions : Obligations.BlockInstructions := by
  refine ⟨fun s c h => ⟨fun f t => ?conversions, fun f t F hF hpr => ?predicate, fun f t F hF hpr => ?arithmetic⟩,
    fun F mode fz xs => ⟨fun hx => ?special, fun hx => ?finite⟩, fun xs => ?bfp⟩
  case conversions =>
    refine List.forall_mem_cons.mpr ⟨?_, List.forall_mem_cons.mpr ⟨?_, List.forall_mem_cons.mpr ⟨?_, List.forall_mem_cons.mpr ⟨?_,
      List.forall_mem_cons.mpr ⟨?_, List.forall_mem_singleton.mpr ?_⟩⟩⟩⟩⟩
    · exact blockConversion h (exec_vmxcvtToMx f t s) (fun _ _ => mxSel_width) (fun b _ => by cases b <;> rfl) rfl rfl
    · exact blockConversion h (exec_vmxcvtFromMx f t s) (fun _ _ => mxSel_width) (fun b _ => by cases b <;> rfl) rfl rfl
    · exact blockConversion h (exec_vmxcvtMxint8F32 f s) (fun _ _ => at8_width rfl) (fun b _ => by cases b <;> rfl) rfl rfl
    · exact blockConversion h (exec_vmxcvtF32Mxint8 f s) (fun _ _ => at8_width rfl) (fun b _ => by cases b <;> rfl) rfl rfl
    · exact blockConversion h (exec_vbfpcvtBfp8F32 f s) (fun _ _ => at8_width rfl) (fun b _ => by cases b <;> rfl) rfl rfl
    · exact blockConversion h (exec_vbfpcvtF32Bfp8 f s) (fun _ _ => at8_width rfl) (fun b _ => by cases b <;> rfl) rfl rfl
  case predicate =>
    exact List.forall_mem_cons.mpr ⟨mxArith_predicate h (exec_vaddF f t s) hF hpr, List.forall_mem_cons.mpr
      ⟨mxArith_predicate h (exec_vsubF f t s) hF hpr, List.forall_mem_singleton.mpr (mxArith_predicate h (exec_vmulF f t s) hF hpr)⟩⟩
  case arithmetic =>
    exact List.forall_mem_cons.mpr ⟨mxArith h (exec_vaddF f t s) hF hpr, List.forall_mem_cons.mpr
      ⟨mxArith h (exec_vsubF f t s) hF hpr, List.forall_mem_singleton.mpr (mxArith h (exec_vmulF f t s) hF hpr)⟩⟩
  case special => exact ⟨congrArg BlockRes.scale (mxEncode_special hx), congrArg BlockRes.els (mxEncode_special hx)⟩
  case finite =>
    refine ⟨congrArg BlockRes.scale (mxEncode_finite hx), (congrArg List.length (mxEncode_els hx)).trans (List.length_map _),
      fun f hf => ?_, fun hF i neg n d hfin => ?_⟩
    · subst hf
      exact mxEncode_els hx
    · subst hF
      exact (congrArg (·[i]?) (mxEncode_els hx)).trans (mxint8_elem hfin)
  case bfp => exact ⟨congrArg BlockRes.scale bfpEncode_eq, bfpEncode_length, fun i x hx => (bfp8_elem hx).trans (congrArg some (mantByte_bfp x))⟩

end Sys2Proof.Machine
end

section
/-! PROOFS. The encoding and the decoder are inverse to each other (R55, R63, R69, R71, R72): every form is read back from its word, and every
word that decodes is the word of what it decodes to. An arithmetic of fields serves both: what one field of a sum of fields is, and how the
fields of a word join to the word. -/

namespace Sys2Proof.RoundTrip

-- The proofs of a hundred majors, each of some seconds, would else wait for one another in as many threads.
set_option Elab.async false

/-! ### The two statements of one instruction, and the arithmetic of fields -/

/-- An instruction that has an encoding is read back from it (R55): from the halfword where it has two bytes, from the word where it has
four; bit 0 tells them apart. -/
def Reads (i : Instr) : Prop :=
  ∀ n x, i.WellFormed → encodeWord i = some (n, x) →
    (n = 2 ∧ x < 65536 ∧ x % 2 = 0 ∧ decode16 x = .ok i) ∨ (n = 4 ∧ x < 4294967296 ∧ x % 2 = 1 ∧ decode32 x = .ok i)

/-- What a decoder answers for the `n` bytes of `w`, if it answers an instruction, is well formed and has them as its encoding. -/
def Reencodes (n w : Nat) (r : Except DecodeError Instr) : Prop := ∀ i, r = .ok i → i.WellFormed ∧ encodeWord i = some (n, w)

section Reading

variable {i : Instr} {x m : Nat} {f : Nat → Except DecodeError Instr}

theorem Reads.event (e : encodeWord i = none) : Reads i := fun n y _ h => by rw [e] at h; cases h

/-- A 16-bit form (R63). -/
theorem Reads.half (e : encodeWord i = some (2, x)) (h : i.WellFormed → decode16 x = .ok i)
    (hx : i.WellFormed → x < 65536 ∧ x % 2 = 0 := by dsimp only [Instr.WellFormed]; omega) : Reads i :=
  fun n y hi hy => by
    obtain ⟨rfl, rfl⟩ := Prod.mk.inj (Option.some.inj (e.symm.trans hy))
    exact .inl ⟨rfl, (hx hi).1, (hx hi).2, h hi⟩

/-- An instruction of one major: its word has the major's bits, and the major's decoder reads the instruction from it (R69, R71). -/
theorem Reads.word (hf : ∀ {w}, w / 2 % 128 = m → decode32 w = f w) (e : encodeWord i = some (4, x)) (h : i.WellFormed → f x = .ok i)
    (hm : x % 256 = 2 * m + 1 := by omega) (hx : i.WellFormed → x < 4294967296 := by dsimp only [Instr.WellFormed]; omega) : Reads i :=
  fun n y hi hy => by
    obtain ⟨rfl, rfl⟩ := Prod.mk.inj (Option.some.inj (e.symm.trans hy))
    exact .inr ⟨rfl, hx hi, by omega, (hf (by omega)).trans (h hi)⟩

end Reading

/-! What a field of a word is whose terms stand highest first: a term above it falls away, its own term is its value, what lies below it falls
away; the constant bits, which stand last, may reach above the lowest operand. -/

section Fields

variable {a k c : Nat}

theorem field_drop {v b : Nat} (h : b % (a * k) = 0) : (v * b + c) / a % k = c / a % k := by
  obtain ⟨q, rfl⟩ := Nat.dvd_of_mod_eq_zero h
  rcases Nat.eq_zero_or_pos a with rfl | ha
  · simp
  · rw [show v * (a * k * q) + c = c + a * (k * (v * q)) by ring, Nat.add_mul_div_left _ _ ha, Nat.add_mul_mod_self_left]

theorem field_take {v : Nat} (hc : c < a) (hv : v < k) : (v * a + c) / a % k = v := by
  rw [Nat.add_comm, Nat.add_mul_div_right _ _ (by omega), Nat.div_eq_of_lt hc, Nat.zero_add, Nat.mod_eq_of_lt hv]

theorem field_zero (h : c < a) : c / a % k = 0 := by rw [Nat.div_eq_of_lt h, Nat.zero_mod]

/-- Where a term above the field follows one below it: the upper part of a split mask operand (R69). -/
theorem field_drop_second {y v b : Nat} (h : b % (a * k) = 0) : (y + (v * b + c)) / a % k = (y + c) / a % k := by
  rw [Nat.add_left_comm, field_drop h]

theorem field_take_second {y v : Nat} (hc : y + c < a) (hv : v < k) : (y + (v * a + c)) / a % k = v := by
  rw [Nat.add_left_comm, field_take hc hv]

theorem field_constant {y : Nat} (h : y % (a * k) + c % a < a) : (y + c) / a % k = c / a % k := by
  have hy : y + c = y % (a * k) + c % a + a * (c / a + k * (y / (a * k))) := by
    conv_lhs => rw [← Nat.mod_add_div y (a * k), ← Nat.mod_add_div c a]
    ring
  rw [hy, Nat.add_mul_div_left _ _ (by omega), Nat.div_eq_of_lt h, Nat.zero_add, Nat.add_mul_mod_self_left]

end Fields

/-! Fields put together again, highest first: the highest is all there is above its place; each further one, and the zero fields between, make
the quotient by its own place. -/

theorem word_top {w a k : Nat} (h : w < a * k) : w / a % k = w / a :=
  Nat.mod_eq_of_lt (Nat.div_lt_of_lt_mul h)

theorem word_join {w b a k : Nat} (h : w / b * b = w / (a * k) * (a * k)) : w / b * b + w / a % k * a = w / a * a := by
  rw [h, ← Nat.div_div_eq_div_mul]
  conv_rhs => rw [← Nat.div_add_mod (w / a) k]
  ring

theorem word_join_second {w b a k : Nat} (h : w / b * b = w / (a * k) * (a * k)) : w / a % k * a + w / b * b = w / a * a := by
  rw [Nat.add_comm, word_join h]

theorem split_div {x y k : Nat} (h : y < k) : (x * k + y) / k = x := by
  rw [Nat.add_comm, Nat.add_mul_div_right _ _ (by omega), Nat.div_eq_of_lt h, Nat.zero_add]

theorem split_mod {x y k : Nat} (h : y < k) : (x * k + y) % k = y := by
  rw [Nat.add_comm, Nat.add_mul_mod_self_right, Nat.mod_eq_of_lt h]

section Reencoding

variable {n w : Nat} {c : Prop} [Decidable c]

@[simp] theorem Reencodes.error {e : DecodeError} : Reencodes n w (.error e) := nofun

/-- Behind a check of the decoder. -/
theorem Reencodes.guard {e : DecodeError} {r : Except DecodeError Instr} (h : ¬c → Reencodes n w r) :
    Reencodes n w (if c then .error e else r) := by
  split
  · exact .error
  · exact h ‹_›

/-- By a field that selects among arms. -/
theorem Reencodes.select {r q : Except DecodeError Instr} (hr : c → Reencodes n w r) (hq : ¬c → Reencodes n w q) :
    Reencodes n w (if c then r else q) := by
  split
  · exact hr ‹_›
  · exact hq ‹_›

/-- At an instruction without operands, or with one in an unbroken word. -/
theorem Reencodes.ok {i : Instr} {x : Nat} (e : encodeWord i = some (n, x) := by rfl)
    (hi : i.WellFormed := by dsimp only [Instr.WellFormed] <;> omega) (hx : x = w := by omega) : Reencodes n w (.ok i) := by
  rintro _ ⟨⟩
  exact ⟨hi, hx ▸ e⟩

/-- At an instruction whose operands are fields of the word: they are within their bounds, and join to the word. -/
theorem Reencodes.fields {i : Instr} {x : Nat} (e : encodeWord i = some (n, x) := by rfl)
    (hi : i.WellFormed := by dsimp only [Instr.WellFormed] <;> omega)
    (hx : x = w := by simp (disch := omega) only [split_div, split_mod, word_top, word_join, word_join_second] <;>
      omega) : Reencodes n w (.ok i) := .ok e hi hx

end Reencoding

/-! What an immediate holds: a value of its range, whose two's complement are the bits (R64). -/

theorem sext_18 (x : Nat) : -131072 ≤ sext 18 x ∧ sext 18 x < 131072 ∧ (sext 18 x % 262144).toNat = x % 262144 := by
  unfold sext
  split <;> omega

theorem sext_12 (x : Nat) : -2048 ≤ sext 12 x ∧ sext 12 x < 2048 ∧ (sext 12 x % 4096).toNat = x % 4096 := by
  unfold sext
  split <;> omega

theorem sext_10 (x : Nat) : -512 ≤ sext 10 x ∧ sext 10 x < 512 ∧ (sext 10 x % 1024).toNat = x % 1024 := by
  unfold sext
  split <;> omega

theorem sext_8 (x : Nat) : -128 ≤ sext 8 x ∧ sext 8 x < 128 ∧ (sext 8 x % 256).toNat = x % 256 := by
  unfold sext
  split <;> omega

/-! The operand that an entry fixes to zero is no field of its word. -/

theorem LW.mk_unpredicated {f : LW} (h : f.pr = 0) : (⟨f.a, f.b, f.ia, f.ib, 0⟩ : LW) = f := by rw [← h]

theorem MV.mk_untokened {f : MV} (h : f.tk = 0) : (⟨f.vr, f.vx, f.vb, f.sb, 0, f.pm⟩ : MV) = f := by rw [← h]

/-! ### The forms of 32 bits, by their majors -/

/-! Each major has its decoder (R71). -/

theorem decode32_M00 {w : Nat} (h : w / 2 % 128 = 0) : decode32 w = decodeM00 w := by rw [decode32, h]; rfl
theorem decode32_M01 {w : Nat} (h : w / 2 % 128 = 1) : decode32 w = decodeM01 w := by rw [decode32, h]; rfl
theorem decode32_M02 {w : Nat} (h : w / 2 % 128 = 2) : decode32 w = decodeM02 w := by rw [decode32, h]; rfl
theorem decode32_M03 {w : Nat} (h : w / 2 % 128 = 3) : decode32 w = decodeM03 w := by rw [decode32, h]; rfl
theorem decode32_M04 {w : Nat} (h : w / 2 % 128 = 4) : decode32 w = decodeM04 w := by rw [decode32, h]; rfl
theorem decode32_M05 {w : Nat} (h : w / 2 % 128 = 5) : decode32 w = decodeM05 w := by rw [decode32, h]; rfl
theorem decode32_M06 {w : Nat} (h : w / 2 % 128 = 6) : decode32 w = decodeM06 w := by rw [decode32, h]; rfl
theorem decode32_M07 {w : Nat} (h : w / 2 % 128 = 7) : decode32 w = decodeM07 w := by rw [decode32, h]; rfl
theorem decode32_M08 {w : Nat} (h : w / 2 % 128 = 8) : decode32 w = decodeM08 w := by rw [decode32, h]; rfl
theorem decode32_M09 {w : Nat} (h : w / 2 % 128 = 9) : decode32 w = decodeM09 w := by rw [decode32, h]; rfl
theorem decode32_M0A {w : Nat} (h : w / 2 % 128 = 10) : decode32 w = decodeM0A w := by rw [decode32, h]; rfl
theorem decode32_M10 {w : Nat} (h : w / 2 % 128 = 16) : decode32 w = decodeM10 w := by rw [decode32, h]; rfl
theorem decode32_M11 {w : Nat} (h : w / 2 % 128 = 17) : decode32 w = decodeM11 w := by rw [decode32, h]; rfl
theorem decode32_M12 {w : Nat} (h : w / 2 % 128 = 18) : decode32 w = decodeM12 w := by rw [decode32, h]; rfl
theorem decode32_M13 {w : Nat} (h : w / 2 % 128 = 19) : decode32 w = decodeM13 w := by rw [decode32, h]; rfl
theorem decode32_M14 {w : Nat} (h : w / 2 % 128 = 20) : decode32 w = decodeM14 w := by rw [decode32, h]; rfl
theorem decode32_M15 {w : Nat} (h : w / 2 % 128 = 21) : decode32 w = decodeM15 w := by rw [decode32, h]; rfl
theorem decode32_M16 {w : Nat} (h : w / 2 % 128 = 22) : decode32 w = decodeM16 w := by rw [decode32, h]; rfl
theorem decode32_M17 {w : Nat} (h : w / 2 % 128 = 23) : decode32 w = decodeM17 w := by rw [decode32, h]; rfl
theorem decode32_M18 {w : Nat} (h : w / 2 % 128 = 24) : decode32 w = decodeM18 w := by rw [decode32, h]; rfl
theorem decode32_M20 {w : Nat} (h : w / 2 % 128 = 32) : decode32 w = decodeM20 w := by rw [decode32, h]; rfl
theorem decode32_M21 {w : Nat} (h : w / 2 % 128 = 33) : decode32 w = decodeM21 w := by rw [decode32, h]; rfl
theorem decode32_M22 {w : Nat} (h : w / 2 % 128 = 34) : decode32 w = decodeM22 w := by rw [decode32, h]; rfl
theorem decode32_M23 {w : Nat} (h : w / 2 % 128 = 35) : decode32 w = decodeM23 w := by rw [decode32, h]; rfl
theorem decode32_M24 {w : Nat} (h : w / 2 % 128 = 36) : decode32 w = decodeM24 w := by rw [decode32, h]; rfl
theorem decode32_M25 {w : Nat} (h : w / 2 % 128 = 37) : decode32 w = decodeM25 w := by rw [decode32, h]; rfl
theorem decode32_M26 {w : Nat} (h : w / 2 % 128 = 38) : decode32 w = decodeM26 w := by rw [decode32, h]; rfl
theorem decode32_M27 {w : Nat} (h : w / 2 % 128 = 39) : decode32 w = decodeM27 w := by rw [decode32, h]; rfl
theorem decode32_M28 {w : Nat} (h : w / 2 % 128 = 40) : decode32 w = decodeM28 w := by rw [decode32, h]; rfl
theorem decode32_M29 {w : Nat} (h : w / 2 % 128 = 41) : decode32 w = decodeM29 w := by rw [decode32, h]; rfl
theorem decode32_M2A {w : Nat} (h : w / 2 % 128 = 42) : decode32 w = decodeM2A w := by rw [decode32, h]; rfl
theorem decode32_M2B {w : Nat} (h : w / 2 % 128 = 43) : decode32 w = decodeM2B w := by rw [decode32, h]; rfl
theorem decode32_M2C {w : Nat} (h : w / 2 % 128 = 44) : decode32 w = decodeM2C w := by rw [decode32, h]; rfl
theorem decode32_M2D {w : Nat} (h : w / 2 % 128 = 45) : decode32 w = decodeM2D w := by rw [decode32, h]; rfl
theorem decode32_M2E {w : Nat} (h : w / 2 % 128 = 46) : decode32 w = decodeM2E w := by rw [decode32, h]; rfl
theorem decode32_M2F {w : Nat} (h : w / 2 % 128 = 47) : decode32 w = decodeM2F w := by rw [decode32, h]; rfl
theorem decode32_M30 {w : Nat} (h : w / 2 % 128 = 48) : decode32 w = decodeM30 w := by rw [decode32, h]; rfl
theorem decode32_M31 {w : Nat} (h : w / 2 % 128 = 49) : decode32 w = decodeM31 w := by rw [decode32, h]; rfl
theorem decode32_M32 {w : Nat} (h : w / 2 % 128 = 50) : decode32 w = decodeM32 w := by rw [decode32, h]; rfl
theorem decode32_M33 {w : Nat} (h : w / 2 % 128 = 51) : decode32 w = decodeM33 w := by rw [decode32, h]; rfl
theorem decode32_M34 {w : Nat} (h : w / 2 % 128 = 52) : decode32 w = decodeM34 w := by rw [decode32, h]; rfl
theorem decode32_M35 {w : Nat} (h : w / 2 % 128 = 53) : decode32 w = decodeM35 w := by rw [decode32, h]; rfl
theorem decode32_M36 {w : Nat} (h : w / 2 % 128 = 54) : decode32 w = decodeM36 w := by rw [decode32, h]; rfl
theorem decode32_M37 {w : Nat} (h : w / 2 % 128 = 55) : decode32 w = decodeM37 w := by rw [decode32, h]; rfl
theorem decode32_M38 {w : Nat} (h : w / 2 % 128 = 56) : decode32 w = decodeM38 w := by rw [decode32, h]; rfl
theorem decode32_M39 {w : Nat} (h : w / 2 % 128 = 57) : decode32 w = decodeM39 w := by rw [decode32, h]; rfl
theorem decode32_M3A {w : Nat} (h : w / 2 % 128 = 58) : decode32 w = decodeM3A w := by rw [decode32, h]; rfl
theorem decode32_M3B {w : Nat} (h : w / 2 % 128 = 59) : decode32 w = decodeM3B w := by rw [decode32, h]; rfl
theorem decode32_M3C {w : Nat} (h : w / 2 % 128 = 60) : decode32 w = decodeM3C w := by rw [decode32, h]; rfl
theorem decode32_M40 {w : Nat} (h : w / 2 % 128 = 64) : decode32 w = decodeM40 w := by rw [decode32, h]; rfl
theorem decode32_M41 {w : Nat} (h : w / 2 % 128 = 65) : decode32 w = decodeM41 w := by rw [decode32, h]; rfl
theorem decode32_M42 {w : Nat} (h : w / 2 % 128 = 66) : decode32 w = decodeM42 w := by rw [decode32, h]; rfl
theorem decode32_M43 {w : Nat} (h : w / 2 % 128 = 67) : decode32 w = decodeM43 w := by rw [decode32, h]; rfl
theorem decode32_M44 {w : Nat} (h : w / 2 % 128 = 68) : decode32 w = decodeM44 w := by rw [decode32, h]; rfl
theorem decode32_M45 {w : Nat} (h : w / 2 % 128 = 69) : decode32 w = decodeM45 w := by rw [decode32, h]; rfl
theorem decode32_M46 {w : Nat} (h : w / 2 % 128 = 70) : decode32 w = decodeM46 w := by rw [decode32, h]; rfl
theorem decode32_M48 {w : Nat} (h : w / 2 % 128 = 72) : decode32 w = decodeM48 w := by rw [decode32, h]; rfl
theorem decode32_M49 {w : Nat} (h : w / 2 % 128 = 73) : decode32 w = decodeM49 w := by rw [decode32, h]; rfl
theorem decode32_M4A {w : Nat} (h : w / 2 % 128 = 74) : decode32 w = decodeM4A w := by rw [decode32, h]; rfl
theorem decode32_M4B {w : Nat} (h : w / 2 % 128 = 75) : decode32 w = decodeM4B w := by rw [decode32, h]; rfl
theorem decode32_M4C {w : Nat} (h : w / 2 % 128 = 76) : decode32 w = decodeM4C w := by rw [decode32, h]; rfl
theorem decode32_M4D {w : Nat} (h : w / 2 % 128 = 77) : decode32 w = decodeM4D w := by rw [decode32, h]; rfl
theorem decode32_M4E {w : Nat} (h : w / 2 % 128 = 78) : decode32 w = decodeM4E w := by rw [decode32, h]; rfl
theorem decode32_M4F {w : Nat} (h : w / 2 % 128 = 79) : decode32 w = decodeM4F w := by rw [decode32, h]; rfl
theorem decode32_M50 {w : Nat} (h : w / 2 % 128 = 80) : decode32 w = decodeM50 w := by rw [decode32, h]; rfl
theorem decode32_M51 {w : Nat} (h : w / 2 % 128 = 81) : decode32 w = decodeM51 w := by rw [decode32, h]; rfl
theorem decode32_M52 {w : Nat} (h : w / 2 % 128 = 82) : decode32 w = decodeM52 w := by rw [decode32, h]; rfl
theorem decode32_M53 {w : Nat} (h : w / 2 % 128 = 83) : decode32 w = decodeM53 w := by rw [decode32, h]; rfl
theorem decode32_M54 {w : Nat} (h : w / 2 % 128 = 84) : decode32 w = decodeM54 w := by rw [decode32, h]; rfl
theorem decode32_M55 {w : Nat} (h : w / 2 % 128 = 85) : decode32 w = decodeM55 w := by rw [decode32, h]; rfl
theorem decode32_M56 {w : Nat} (h : w / 2 % 128 = 86) : decode32 w = decodeM56 w := by rw [decode32, h]; rfl
theorem decode32_M58 {w : Nat} (h : w / 2 % 128 = 88) : decode32 w = decodeM58 w := by rw [decode32, h]; rfl
theorem decode32_M59 {w : Nat} (h : w / 2 % 128 = 89) : decode32 w = decodeM59 w := by rw [decode32, h]; rfl
theorem decode32_M5A {w : Nat} (h : w / 2 % 128 = 90) : decode32 w = decodeM5A w := by rw [decode32, h]; rfl
theorem decode32_M5B {w : Nat} (h : w / 2 % 128 = 91) : decode32 w = decodeM5B w := by rw [decode32, h]; rfl
theorem decode32_M5C {w : Nat} (h : w / 2 % 128 = 92) : decode32 w = decodeM5C w := by rw [decode32, h]; rfl
theorem decode32_M5D {w : Nat} (h : w / 2 % 128 = 93) : decode32 w = decodeM5D w := by rw [decode32, h]; rfl
theorem decode32_M5E {w : Nat} (h : w / 2 % 128 = 94) : decode32 w = decodeM5E w := by rw [decode32, h]; rfl
theorem decode32_M5F {w : Nat} (h : w / 2 % 128 = 95) : decode32 w = decodeM5F w := by rw [decode32, h]; rfl
theorem decode32_M60 {w : Nat} (h : w / 2 % 128 = 96) : decode32 w = decodeM60 w := by rw [decode32, h]; rfl
theorem decode32_M61 {w : Nat} (h : w / 2 % 128 = 97) : decode32 w = decodeM61 w := by rw [decode32, h]; rfl
theorem decode32_M62 {w : Nat} (h : w / 2 % 128 = 98) : decode32 w = decodeM62 w := by rw [decode32, h]; rfl
theorem decode32_M63 {w : Nat} (h : w / 2 % 128 = 99) : decode32 w = decodeM63 w := by rw [decode32, h]; rfl
theorem decode32_M64 {w : Nat} (h : w / 2 % 128 = 100) : decode32 w = decodeM64 w := by rw [decode32, h]; rfl
theorem decode32_M65 {w : Nat} (h : w / 2 % 128 = 101) : decode32 w = decodeM65 w := by rw [decode32, h]; rfl
theorem decode32_M66 {w : Nat} (h : w / 2 % 128 = 102) : decode32 w = decodeM66 w := by rw [decode32, h]; rfl
theorem decode32_M67 {w : Nat} (h : w / 2 % 128 = 103) : decode32 w = decodeM67 w := by rw [decode32, h]; rfl
theorem decode32_M68 {w : Nat} (h : w / 2 % 128 = 104) : decode32 w = decodeM68 w := by rw [decode32, h]; rfl
theorem decode32_M69 {w : Nat} (h : w / 2 % 128 = 105) : decode32 w = decodeM69 w := by rw [decode32, h]; rfl
theorem decode32_M6A {w : Nat} (h : w / 2 % 128 = 106) : decode32 w = decodeM6A w := by rw [decode32, h]; rfl
theorem decode32_M6B {w : Nat} (h : w / 2 % 128 = 107) : decode32 w = decodeM6B w := by rw [decode32, h]; rfl
theorem decode32_M6C {w : Nat} (h : w / 2 % 128 = 108) : decode32 w = decodeM6C w := by rw [decode32, h]; rfl
theorem decode32_M6D {w : Nat} (h : w / 2 % 128 = 109) : decode32 w = decodeM6D w := by rw [decode32, h]; rfl
theorem decode32_M6E {w : Nat} (h : w / 2 % 128 = 110) : decode32 w = decodeM6E w := by rw [decode32, h]; rfl
theorem decode32_M70 {w : Nat} (h : w / 2 % 128 = 112) : decode32 w = decodeM70 w := by rw [decode32, h]; rfl
theorem decode32_M71 {w : Nat} (h : w / 2 % 128 = 113) : decode32 w = decodeM71 w := by rw [decode32, h]; rfl
theorem decode32_M72 {w : Nat} (h : w / 2 % 128 = 114) : decode32 w = decodeM72 w := by rw [decode32, h]; rfl
theorem decode32_M73 {w : Nat} (h : w / 2 % 128 = 115) : decode32 w = decodeM73 w := by rw [decode32, h]; rfl
theorem decode32_M74 {w : Nat} (h : w / 2 % 128 = 116) : decode32 w = decodeM74 w := by rw [decode32, h]; rfl
theorem decode32_M75 {w : Nat} (h : w / 2 % 128 = 117) : decode32 w = decodeM75 w := by rw [decode32, h]; rfl
theorem decode32_M76 {w : Nat} (h : w / 2 % 128 = 118) : decode32 w = decodeM76 w := by rw [decode32, h]; rfl
theorem decode32_M77 {w : Nat} (h : w / 2 % 128 = 119) : decode32 w = decodeM77 w := by rw [decode32, h]; rfl
theorem decode32_M78 {w : Nat} (h : w / 2 % 128 = 120) : decode32 w = decodeM78 w := by rw [decode32, h]; rfl
theorem decode32_M7F {w : Nat} (h : w / 2 % 128 = 127) : decode32 w = decodeM7F w := by rw [decode32, h]; rfl

/-! The forms of each major are read back from their words. -/

@[simp] theorem reads_M00 :
    Reads .nop ∧ Reads .exit ∧ Reads .tret ∧ (∀ i, Reads (.brk i)) ∧ Reads .waitdep ∧ Reads .trigger ∧ (∀ a, Reads (.tkrd a)) := by
  and_intros <;> intros
  all_goals
    refine .word decode32_M00 rfl fun h => ?_
    dsimp only [Instr.WellFormed] at h
    simp (disch := omega) only [decodeM00, field_zero, field_take, field_drop, if_neg]

@[simp] theorem reads_M01 : (∀ o, Reads (.bra o)) ∧ (∀ o l, Reads (.call o l)) := by
  and_intros <;> intros
  all_goals
    refine .word decode32_M01 rfl fun h => ?_
    dsimp only [Instr.WellFormed] at h
    simp (disch := omega) only [decodeM01, Nat.add_assoc, field_constant, field_zero, field_take, if_neg, sext]
    congr <;> omega

@[simp] theorem reads_M02 :
    (∀ o k, Reads (.brm o k)) ∧ (∀ o k, Reads (.brmz o k)) ∧ (∀ o k, Reads (.brany o k)) ∧ (∀ o k, Reads (.brall o k)) := by
  and_intros <;> intros
  all_goals
    refine .word decode32_M02 rfl fun h => ?_
    dsimp only [Instr.WellFormed] at h
    simp (disch := omega) only [decodeM02, Nat.add_assoc, field_constant, field_zero, field_take, sext]
    congr <;> omega

@[simp] theorem reads_M03 : (∀ o c, Reads (.bnz o c)) ∧ (∀ o c, Reads (.bz o c)) := by
  and_intros <;> intros
  all_goals
    refine .word decode32_M03 rfl fun h => ?_
    dsimp only [Instr.WellFormed] at h
    simp (disch := omega) only [decodeM03, Nat.add_assoc, field_constant, field_zero, field_take, sext]
    congr <;> omega

@[simp] theorem reads_M04 : (∀ a, Reads (.jmp a)) ∧ (∀ a, Reads (.jmpv a)) ∧ (∀ a b, Reads (.calli a b)) ∧ (∀ a b, Reads (.callv a b)) := by
  and_intros <;> intros
  all_goals
    refine .word decode32_M04 rfl fun h => ?_
    dsimp only [Instr.WellFormed] at h
    simp (disch := omega) only [decodeM04, Nat.add_assoc, field_zero, field_take, field_drop, if_neg]

@[simp] theorem reads_M05 : (∀ d n p g e, Reads (.setvl d n p g e)) ∧ (∀ d n c, Reads (.setvlr d n c)) := by
  and_intros <;> intros
  all_goals
    refine .word decode32_M05 rfl fun h => ?_
    dsimp only [Instr.WellFormed] at h
    simp (disch := omega) only [decodeM05, Nat.add_assoc, field_zero, field_take, field_drop, if_neg]

@[simp] theorem reads_M06 :
    (∀ d a b, Reads (.mand d a b)) ∧ (∀ d a b, Reads (.mor d a b)) ∧ (∀ d a b, Reads (.mxor d a b)) ∧ (∀ d a b, Reads (.mandn d a b)) ∧
    (∀ d a b, Reads (.morn d a b)) ∧ (∀ d a, Reads (.mnot d a)) ∧ (∀ d a, Reads (.mmov d a)) ∧ (∀ d, Reads (.mvl d)) ∧
    (∀ d, Reads (.mact d)) ∧ (∀ d a, Reads (.mpop d a)) ∧ (∀ d a, Reads (.mfirst d a)) ∧ (∀ d a k, Reads (.mrds d a k)) ∧
    (∀ d b k, Reads (.mwrs d b k)) := by
  and_intros <;> intros
  all_goals
    refine .word decode32_M06 rfl fun h => ?_
    dsimp only [Instr.WellFormed] at h
    simp (disch := omega) only [decodeM06, Nat.add_assoc, field_zero, field_take, field_drop, if_neg]

@[simp] theorem reads_M07 : (∀ a b c, Reads (.barArrive a b c)) ∧ (∀ a b, Reads (.barCharge a b)) ∧ (∀ a b, Reads (.barWait a b)) := by
  and_intros <;> intros
  all_goals
    refine .word decode32_M07 rfl fun h => ?_
    dsimp only [Instr.WellFormed] at h
    simp (disch := omega) only [decodeM07, Nat.add_assoc, field_zero, field_take, field_drop, if_neg]

@[simp] theorem reads_M08 : (∀ n k, Reads (.stgArrive n k)) ∧ (∀ n k p, Reads (.stgWait n k p)) := by
  and_intros <;> intros
  all_goals
    refine .word decode32_M08 rfl fun h => ?_
    dsimp only [Instr.WellFormed] at h
    simp (disch := omega) only [decodeM08, Nat.add_assoc, field_zero, field_take, field_drop, if_neg]

@[simp] theorem reads_M09_checked :
    (∀ a n, Reads (.csrr a n)) ∧ (∀ a n, Reads (.csrw a n)) ∧ (∀ a n, Reads (.csrset a n)) ∧ (∀ a n, Reads (.csrclr a n)) := by
  and_intros <;> intros
  all_goals
    refine .word decode32_M09 rfl fun h => ?_
    dsimp only [Instr.WellFormed] at h
    simp (disch := omega) only [decodeM09, Nat.add_assoc, field_zero, field_take, field_drop, if_neg, not_true_eq_false, h.2.2]
    congr

@[simp] theorem reads_M09 : (∀ a n, Reads (.rdts a n)) ∧ (∀ a n, Reads (.wrts a n)) ∧ (∀ a, Reads (.rdvpc a)) := by
  and_intros <;> intros
  all_goals
    refine .word decode32_M09 rfl fun h => ?_
    dsimp only [Instr.WellFormed] at h
    simp (disch := omega) only [decodeM09, Nat.add_assoc, field_zero, field_take, field_drop, if_neg]

@[simp] theorem reads_M0A : (∀ a b, Reads (.tlbiVa a b)) ∧ (∀ a, Reads (.tlbiAsid a)) ∧ Reads .ptsync := by
  and_intros <;> intros
  all_goals
    refine .word decode32_M0A rfl fun h => ?_
    dsimp only [Instr.WellFormed] at h
    simp (disch := omega) only [decodeM0A, Nat.add_assoc, field_zero, field_take, field_drop, if_neg]

@[simp] theorem reads_M10 :
    (∀ d a b, Reads (.add d a b)) ∧ (∀ d a b, Reads (.sub d a b)) ∧ (∀ d a b, Reads (.mul d a b)) ∧ (∀ d a b, Reads (.mulh d a b)) ∧
    (∀ d a b, Reads (.mulhu d a b)) ∧ (∀ d a b, Reads (.div d a b)) ∧ (∀ d a b, Reads (.divu d a b)) ∧ (∀ d a b, Reads (.rem d a b)) ∧
    (∀ d a b, Reads (.remu d a b)) ∧ (∀ d a b, Reads (.and d a b)) ∧ (∀ d a b, Reads (.or d a b)) ∧ (∀ d a b, Reads (.xor d a b)) ∧
    (∀ d a b, Reads (.andn d a b)) ∧ (∀ d a b, Reads (.shl d a b)) ∧ (∀ d a b, Reads (.shr d a b)) ∧ (∀ d a b, Reads (.sra d a b)) ∧
    (∀ d a b, Reads (.ror d a b)) ∧ (∀ d a b, Reads (.slt d a b)) ∧ (∀ d a b, Reads (.sltu d a b)) ∧ (∀ d a b, Reads (.seq d a b)) ∧
    (∀ d a b, Reads (.min d a b)) ∧ (∀ d a b, Reads (.max d a b)) ∧ (∀ d a b, Reads (.minu d a b)) ∧ (∀ d a b, Reads (.maxu d a b)) ∧
    (∀ d a, Reads (.clz d a)) ∧ (∀ d a, Reads (.popc d a)) := by
  and_intros <;> intros
  all_goals
    refine .word decode32_M10 rfl fun h => ?_
    dsimp only [Instr.WellFormed] at h
    simp (disch := omega) only [decodeM10, Nat.add_assoc, field_zero, field_take, field_drop, if_neg]

@[simp] theorem reads_M11 : ∀ d a i, Reads (.addi d a i) := by
  intros
  refine .word decode32_M11 rfl fun h => ?_
  dsimp only [Instr.WellFormed] at h
  simp (disch := omega) only [decodeM11, Nat.add_assoc, field_take, field_drop, sext]
  congr
  omega

@[simp] theorem reads_M12 : ∀ d a i, Reads (.andi d a i) := by
  intros
  refine .word decode32_M12 rfl fun h => ?_
  dsimp only [Instr.WellFormed] at h
  simp (disch := omega) only [decodeM12, Nat.add_assoc, field_take, field_drop, sext]
  congr
  omega

@[simp] theorem reads_M13 : ∀ d a i, Reads (.ori d a i) := by
  intros
  refine .word decode32_M13 rfl fun h => ?_
  dsimp only [Instr.WellFormed] at h
  simp (disch := omega) only [decodeM13, Nat.add_assoc, field_take, field_drop, sext]
  congr
  omega

@[simp] theorem reads_M14 : ∀ d a i, Reads (.xori d a i) := by
  intros
  refine .word decode32_M14 rfl fun h => ?_
  dsimp only [Instr.WellFormed] at h
  simp (disch := omega) only [decodeM14, Nat.add_assoc, field_take, field_drop, sext]
  congr
  omega

@[simp] theorem reads_M15 :
    (∀ d a n, Reads (.shli d a n)) ∧ (∀ d a n, Reads (.shri d a n)) ∧ (∀ d a n, Reads (.srai d a n)) ∧ (∀ d a n, Reads (.rori d a n)) := by
  and_intros <;> intros
  all_goals
    refine .word decode32_M15 rfl fun h => ?_
    dsimp only [Instr.WellFormed] at h
    simp (disch := omega) only [decodeM15, Nat.add_assoc, field_constant, field_zero, field_take, if_neg] <;> congr <;> omega

@[simp] theorem reads_M16 : ∀ d i, Reads (.lui d i) := by
  intros
  refine .word decode32_M16 rfl fun h => ?_
  dsimp only [Instr.WellFormed] at h
  simp (disch := omega) only [decodeM16, Nat.add_assoc, field_take, field_drop, sext]
  congr
  omega

@[simp] theorem reads_M17 :
    (∀ d a i, Reads (.seqi d a i)) ∧ (∀ d a i, Reads (.slti d a i)) ∧ (∀ d a i, Reads (.sltiu d a i)) ∧ (∀ d a i, Reads (.sgti d a i)) := by
  and_intros <;> intros
  all_goals
    refine .word decode32_M17 rfl fun h => ?_
    dsimp only [Instr.WellFormed] at h
    simp (disch := omega) only [decodeM17, Nat.add_assoc, field_constant, field_zero, field_take, sext]
    congr
    omega

@[simp] theorem reads_M18 :
    (∀ d a k, Reads (.pspace d a k)) ∧ (∀ d a b, Reads (.prank d a b)) ∧ (∀ d a p, Reads (.ppol d a p)) ∧ (∀ d a k,
      Reads (.pget d a k)) := by
  and_intros <;> intros
  all_goals
    refine .word decode32_M18 rfl fun h => ?_
    dsimp only [Instr.WellFormed] at h
    simp (disch := omega) only [decodeM18, Nat.add_assoc, field_zero, field_take, field_drop, if_neg]

@[simp] theorem reads_M20 : ∀ f t, Reads (.vadd f t) := by
  intros
  refine .word decode32_M20 rfl fun h => ?_
  dsimp only [Instr.WellFormed] at h
  simp (disch := omega) only [decodeM20, Nat.add_assoc, field_take, field_drop, if_neg]

@[simp] theorem reads_M21 : ∀ f t, Reads (.vsub f t) := by
  intros
  refine .word decode32_M21 rfl fun h => ?_
  dsimp only [Instr.WellFormed] at h
  simp (disch := omega) only [decodeM21, Nat.add_assoc, field_take, field_drop, if_neg]

@[simp] theorem reads_M22 : ∀ f t, Reads (.vmul f t) := by
  intros
  refine .word decode32_M22 rfl fun h => ?_
  dsimp only [Instr.WellFormed] at h
  simp (disch := omega) only [decodeM22, Nat.add_assoc, field_take, field_drop, if_neg]

@[simp] theorem reads_M23 : (∀ f, Reads (.vmulhI f)) ∧ (∀ f, Reads (.vmulhN f)) ∧ (∀ f, Reads (.vmulhIn f)) := by
  and_intros <;> intros
  all_goals
    refine .word decode32_M23 rfl fun h => ?_
    dsimp only [Instr.WellFormed] at h
    simp (disch := omega) only [decodeM23, Nat.add_assoc, field_zero, field_take, field_drop, if_neg]

@[simp] theorem reads_M24 : (∀ f, Reads (.vminI f)) ∧ (∀ f, Reads (.vminN f)) := by
  and_intros <;> intros
  all_goals
    refine .word decode32_M24 rfl fun h => ?_
    dsimp only [Instr.WellFormed] at h
    simp (disch := omega) only [decodeM24, Nat.add_assoc, field_zero, field_take, field_drop, if_neg]

@[simp] theorem reads_M25 : (∀ f, Reads (.vmaxI f)) ∧ (∀ f, Reads (.vmaxN f)) := by
  and_intros <;> intros
  all_goals
    refine .word decode32_M25 rfl fun h => ?_
    dsimp only [Instr.WellFormed] at h
    simp (disch := omega) only [decodeM25, Nat.add_assoc, field_zero, field_take, field_drop, if_neg]

@[simp] theorem reads_M26 : (∀ f, Reads (.vaddsI f)) ∧ (∀ f, Reads (.vaddsN f)) ∧ (∀ f, Reads (.vavgI f)) ∧ (∀ f, Reads (.vavgN f)) := by
  and_intros <;> intros
  all_goals
    refine .word decode32_M26 rfl fun h => ?_
    dsimp only [Instr.WellFormed] at h
    simp (disch := omega) only [decodeM26, Nat.add_assoc, field_zero, field_take, field_drop, if_neg]

@[simp] theorem reads_M27 : (∀ f, Reads (.vsubsI f)) ∧ (∀ f, Reads (.vsubsN f)) ∧ (∀ f, Reads (.vabsdI f)) ∧ (∀ f, Reads (.vabsdN f)) := by
  and_intros <;> intros
  all_goals
    refine .word decode32_M27 rfl fun h => ?_
    dsimp only [Instr.WellFormed] at h
    simp (disch := omega) only [decodeM27, Nat.add_assoc, field_zero, field_take, field_drop, if_neg]

@[simp] theorem reads_M28 : (∀ f, Reads (.vand f)) ∧ (∀ f, Reads (.vor f)) ∧ (∀ f, Reads (.vxor f)) ∧ (∀ f, Reads (.vandn f)) := by
  and_intros <;> intros
  all_goals
    refine .word decode32_M28 rfl fun h => ?_
    dsimp only [Instr.WellFormed] at h
    simp (disch := omega) only [decodeM28, Nat.add_assoc, field_zero, field_take, field_drop, if_neg]

@[simp] theorem reads_M29 :
    (∀ f, Reads (.vshlVector f)) ∧ (∀ f, Reads (.vsrlVector f)) ∧ (∀ f, Reads (.vsraVector f)) ∧ (∀ f, Reads (.vrsraVector f)) := by
  and_intros <;> intros
  all_goals
    refine .word decode32_M29 rfl fun h => ?_
    dsimp only [Instr.WellFormed] at h
    simp (disch := omega) only [decodeM29, Nat.add_assoc, field_zero, field_take, field_drop, if_neg]

@[simp] theorem reads_M2A :
    (∀ f, Reads (.vshlScalar f)) ∧ (∀ f, Reads (.vsrlScalar f)) ∧ (∀ f, Reads (.vsraScalar f)) ∧ (∀ f, Reads (.vrsraScalar f)) := by
  and_intros <;> intros
  all_goals
    refine .word decode32_M2A rfl fun h => ?_
    dsimp only [Instr.WellFormed] at h
    simp (disch := omega) only [decodeM2A, Nat.add_assoc, field_zero, field_take, field_drop, if_neg]

@[simp] theorem reads_M2B :
    (∀ f, Reads (.vshlImm f)) ∧ (∀ f, Reads (.vsrlImm f)) ∧ (∀ f, Reads (.vsraImm f)) ∧ (∀ f, Reads (.vrsraImm f)) := by
  and_intros <;> intros
  all_goals
    refine .word decode32_M2B rfl fun h => ?_
    dsimp only [Instr.WellFormed] at h
    simp (disch := omega) only [decodeM2B, Nat.add_assoc, field_zero, field_take, field_drop, if_neg]

@[simp] theorem reads_M2C :
    (∀ f, Reads (.vcmpeq f)) ∧ (∀ f, Reads (.vcmpne f)) ∧ (∀ f, Reads (.vcmpltI f)) ∧ (∀ f, Reads (.vcmpltN f)) := by
  and_intros <;> intros
  all_goals
    refine .word decode32_M2C rfl fun h => ?_
    dsimp only [Instr.WellFormed] at h
    simp (disch := omega) only [decodeM2C, Nat.add_assoc, field_zero, field_take, field_drop, if_neg]

@[simp] theorem reads_M2D :
    (∀ f, Reads (.vpmac2I16x2 f)) ∧ (∀ f, Reads (.vpmac2I16x2Scalar f)) ∧ (∀ f, Reads (.vpaddsI16x2 f)) ∧ (∀ f, Reads (.vmac f)) := by
  and_intros <;> intros
  all_goals
    refine .word decode32_M2D rfl fun h => ?_
    dsimp only [Instr.WellFormed] at h
    simp (disch := omega) only [decodeM2D, Nat.add_assoc, field_zero, field_take, field_drop, if_neg]

@[simp] theorem reads_M2E :
    (∀ f, Reads (.vaddScalar f)) ∧ (∀ f, Reads (.vsubScalar f)) ∧ (∀ f, Reads (.vrsub f)) ∧ (∀ f, Reads (.vmulScalar f)) := by
  and_intros <;> intros
  all_goals
    refine .word decode32_M2E rfl fun h => ?_
    dsimp only [Instr.WellFormed] at h
    simp (disch := omega) only [decodeM2E, Nat.add_assoc, field_zero, field_take, field_drop, if_neg]

@[simp] theorem reads_M2F : (∀ f, Reads (.vsel f)) ∧ (∀ s d b p, Reads (.vsplat s d b p)) ∧ (∀ d b p, Reads (.vid d b p)) := by
  and_intros <;> intros
  all_goals
    refine .word decode32_M2F rfl fun h => ?_
    dsimp only [Instr.WellFormed] at h
    simp (disch := omega) only [decodeM2F, Nat.add_assoc, field_constant, field_zero, field_take, ↓if_neg]

@[simp] theorem reads_M30 : ∀ f t, Reads (.vaddF f t) := by
  intros
  refine .word decode32_M30 rfl fun h => ?_
  dsimp only [Instr.WellFormed] at h
  simp (disch := omega) only [decodeM30, Nat.add_assoc, field_take, field_drop, if_neg]

@[simp] theorem reads_M31 : ∀ f t, Reads (.vsubF f t) := by
  intros
  refine .word decode32_M31 rfl fun h => ?_
  dsimp only [Instr.WellFormed] at h
  simp (disch := omega) only [decodeM31, Nat.add_assoc, field_take, field_drop, if_neg]

@[simp] theorem reads_M32 : ∀ f t, Reads (.vmulF f t) := by
  intros
  refine .word decode32_M32 rfl fun h => ?_
  dsimp only [Instr.WellFormed] at h
  simp (disch := omega) only [decodeM32, Nat.add_assoc, field_take, field_drop, if_neg]

@[simp] theorem reads_M33 : ∀ f t, Reads (.vdivF f t) := by
  intros
  refine .word decode32_M33 rfl fun h => ?_
  dsimp only [Instr.WellFormed] at h
  simp (disch := omega) only [decodeM33, Nat.add_assoc, field_take, field_drop, if_neg]

@[simp] theorem reads_M34 : ∀ f t, Reads (.vfmaF f t) := by
  intros
  refine .word decode32_M34 rfl fun h => ?_
  dsimp only [Instr.WellFormed] at h
  simp (disch := omega) only [decodeM34, Nat.add_assoc, field_take, field_drop, if_neg]

@[simp] theorem reads_M35 : ∀ f t, Reads (.vfmsF f t) := by
  intros
  refine .word decode32_M35 rfl fun h => ?_
  dsimp only [Instr.WellFormed] at h
  simp (disch := omega) only [decodeM35, Nat.add_assoc, field_take, field_drop, if_neg]

@[simp] theorem reads_M36 : ∀ f t, Reads (.vfnmaF f t) := by
  intros
  refine .word decode32_M36 rfl fun h => ?_
  dsimp only [Instr.WellFormed] at h
  simp (disch := omega) only [decodeM36, Nat.add_assoc, field_take, field_drop, if_neg]

@[simp] theorem reads_M37 : ∀ f t, Reads (.vminF f t) := by
  intros
  refine .word decode32_M37 rfl fun h => ?_
  dsimp only [Instr.WellFormed] at h
  simp (disch := omega) only [decodeM37, Nat.add_assoc, field_take, field_drop, if_neg]

@[simp] theorem reads_M38 : ∀ f t, Reads (.vmaxF f t) := by
  intros
  refine .word decode32_M38 rfl fun h => ?_
  dsimp only [Instr.WellFormed] at h
  simp (disch := omega) only [decodeM38, Nat.add_assoc, field_take, field_drop, if_neg]

@[simp] theorem reads_M39 :
    (∀ f, Reads (.vfcmpeq f)) ∧ (∀ f, Reads (.vfcmplt f)) ∧ (∀ f, Reads (.vfcmple f)) ∧ (∀ f, Reads (.vfcmpun f)) := by
  and_intros <;> intros
  all_goals
    refine .word decode32_M39 rfl fun h => ?_
    dsimp only [Instr.WellFormed] at h
    simp (disch := omega) only [decodeM39, Nat.add_assoc, field_zero, field_take, field_drop, if_neg]

@[simp] theorem reads_M3A : (∀ f, Reads (.vsqrt f)) ∧ (∀ f, Reads (.vabs f)) ∧ (∀ f, Reads (.vneg f)) ∧ (∀ f, Reads (.vclass f)) := by
  and_intros <;> intros
  all_goals
    refine .word decode32_M3A rfl fun h => ?_
    dsimp only [Instr.WellFormed] at h
    simp (disch := omega) only [decodeM3A, Nat.add_assoc, field_zero, field_take, field_drop, if_neg]

@[simp] theorem reads_M3B :
    (∀ f, Reads (.vaddFScalar f)) ∧ (∀ f, Reads (.vmulFScalar f)) ∧ (∀ f, Reads (.vfmaFScalar f)) ∧ (∀ f, Reads (.vsubFScalar f)) := by
  and_intros <;> intros
  all_goals
    refine .word decode32_M3B rfl fun h => ?_
    dsimp only [Instr.WellFormed] at h
    simp (disch := omega) only [decodeM3B, Nat.add_assoc, field_zero, field_take, field_drop, if_neg]

@[simp] theorem reads_M3C :
    (∀ f, Reads (.vaddBf16x2 f)) ∧ (∀ f, Reads (.vsubBf16x2 f)) ∧ (∀ f, Reads (.vmulBf16x2 f)) ∧ (∀ f, Reads (.vfmaBf16x2 f)) := by
  and_intros <;> intros
  all_goals
    refine .word decode32_M3C rfl fun h => ?_
    dsimp only [Instr.WellFormed] at h
    simp (disch := omega) only [decodeM3C, Nat.add_assoc, field_zero, field_take, field_drop, if_neg]

@[simp] theorem reads_M40 : ∀ f t, Reads (.vfcvt f t) := by
  intros
  refine .word decode32_M40 rfl fun h => ?_
  dsimp only [Instr.WellFormed] at h
  simp (disch := omega) only [decodeM40, Nat.add_assoc, field_take, field_drop, if_neg]

@[simp] theorem reads_M41 :
    (∀ f, Reads (.vfcvtI f)) ∧ (∀ f, Reads (.vfcvtN f)) ∧ (∀ f, Reads (.vfcvtzI f)) ∧ (∀ f, Reads (.vfcvtzN f)) := by
  and_intros <;> intros
  all_goals
    refine .word decode32_M41 rfl fun h => ?_
    dsimp only [Instr.WellFormed] at h
    simp (disch := omega) only [decodeM41, Nat.add_assoc, field_zero, field_take, field_drop, if_neg]

@[simp] theorem reads_M42 : (∀ f, Reads (.vicvtI f)) ∧ (∀ f, Reads (.vicvtN f)) := by
  and_intros <;> intros
  all_goals
    refine .word decode32_M42 rfl fun h => ?_
    dsimp only [Instr.WellFormed] at h
    simp (disch := omega) only [decodeM42, Nat.add_assoc, field_zero, field_take, field_drop, if_neg]

@[simp] theorem reads_M43 : (∀ f, Reads (.vsext f)) ∧ (∀ f, Reads (.vzext f)) ∧ (∀ f, Reads (.vnarrow f)) ∧ (∀ f, Reads (.vnarrows f)) := by
  and_intros <;> intros
  all_goals
    refine .word decode32_M43 rfl fun h => ?_
    dsimp only [Instr.WellFormed] at h
    simp (disch := omega) only [decodeM43, Nat.add_assoc, field_zero, field_take, field_drop, if_neg]

@[simp] theorem reads_M44 : ∀ f t, Reads (.vmxcvtToMx f t) := by
  intros
  refine .word decode32_M44 rfl fun h => ?_
  dsimp only [Instr.WellFormed] at h
  simp (disch := omega) only [decodeM44, Nat.add_assoc, field_zero, field_take, field_drop, if_neg, LW.mk_unpredicated]

@[simp] theorem reads_M45 : ∀ f t, Reads (.vmxcvtFromMx f t) := by
  intros
  refine .word decode32_M45 rfl fun h => ?_
  dsimp only [Instr.WellFormed] at h
  simp (disch := omega) only [decodeM45, Nat.add_assoc, field_zero, field_take, field_drop, if_neg, LW.mk_unpredicated]

@[simp] theorem reads_M46 :
    (∀ f, Reads (.vmxcvtMxint8F32 f)) ∧ (∀ f, Reads (.vmxcvtF32Mxint8 f)) ∧ (∀ f, Reads (.vbfpcvtBfp8F32 f)) ∧
    (∀ f, Reads (.vbfpcvtF32Bfp8 f)) := by
  and_intros <;> intros
  all_goals
    refine .word decode32_M46 rfl fun h => ?_
    dsimp only [Instr.WellFormed] at h
    simp (disch := omega) only [decodeM46, Nat.add_assoc, field_zero, field_take, field_drop, if_neg, LW.mk_unpredicated]

@[simp] theorem reads_M48 : (∀ f, Reads (.vexp2 f)) ∧ (∀ f, Reads (.vlog2 f)) ∧ (∀ f, Reads (.vexp f)) ∧ (∀ f, Reads (.vlog f)) := by
  and_intros <;> intros
  all_goals
    refine .word decode32_M48 rfl fun h => ?_
    dsimp only [Instr.WellFormed] at h
    simp (disch := omega) only [decodeM48, Nat.add_assoc, field_zero, field_take, field_drop, if_neg]

@[simp] theorem reads_M49 : (∀ f, Reads (.vrcp f)) ∧ (∀ f, Reads (.vrsq f)) ∧ (∀ f, Reads (.vtanh f)) ∧ (∀ f, Reads (.vsin f)) := by
  and_intros <;> intros
  all_goals
    refine .word decode32_M49 rfl fun h => ?_
    dsimp only [Instr.WellFormed] at h
    simp (disch := omega) only [decodeM49, Nat.add_assoc, field_zero, field_take, field_drop, if_neg]

@[simp] theorem reads_M4A : ∀ f, Reads (.vcos f) := by
  intros
  refine .word decode32_M4A rfl fun h => ?_
  dsimp only [Instr.WellFormed] at h
  simp (disch := omega) only [decodeM4A, Nat.add_assoc, field_zero, field_take, field_drop, if_neg]

@[simp] theorem reads_M4B : (∀ f, Reads (.vmovW f)) ∧ (∀ f, Reads (.vscget f)) ∧ (∀ f, Reads (.vscput f)) := by
  and_intros <;> intros
  all_goals
    refine .word decode32_M4B rfl fun h => ?_
    dsimp only [Instr.WellFormed] at h
    simp (disch := omega) only [decodeM4B, Nat.add_assoc, field_zero, field_take, field_drop, if_neg, LW.mk_unpredicated]

@[simp] theorem reads_M4C : (∀ d m s k, Reads (.vslidedn d m s k)) ∧ (∀ d m s k, Reads (.vslideup d m s k)) := by
  and_intros <;> intros
  all_goals
    refine .word decode32_M4C rfl fun h => ?_
    dsimp only [Instr.WellFormed] at h
    simp (disch := omega) only [decodeM4C, Nat.add_assoc, field_constant, Nat.div_add_mod', field_drop_second, field_take, ↓if_pos,
      ↓if_neg] <;> congr <;> omega

@[simp] theorem reads_M4D : (∀ d m s, Reads (.vperm d m s)) ∧ (∀ d m s, Reads (.vrev d m s)) := by
  and_intros <;> intros
  all_goals
    refine .word decode32_M4D rfl fun h => ?_
    dsimp only [Instr.WellFormed] at h
    simp (disch := omega) only [decodeM4D, Nat.add_assoc, Nat.div_add_mod', field_take_second, field_drop_second, field_zero, field_take,
      field_drop, if_neg]

@[simp] theorem reads_M4E :
    (∀ d m s, Reads (.vredsum d m s)) ∧ (∀ d m s, Reads (.vredmaxI d m s)) ∧ (∀ d m s, Reads (.vredmaxN d m s)) ∧
    (∀ d m s, Reads (.vredminI d m s)) ∧ (∀ d m s, Reads (.vredminN d m s)) ∧ (∀ d m s, Reads (.vredand d m s)) ∧
    (∀ d m s, Reads (.vredor d m s)) ∧ (∀ d m s, Reads (.vredsumF d m s)) ∧ (∀ d m s, Reads (.vredmaxF d m s)) ∧
    (∀ d m s, Reads (.vredminF d m s)) ∧ (∀ d m, Reads (.vscansum d m)) ∧ (∀ d m, Reads (.vscansumF d m)) ∧ (∀ d m,
      Reads (.vscanmaxI d m)) ∧
    (∀ d m, Reads (.vexscansum d m)) := by
  and_intros <;> intros
  all_goals
    refine .word decode32_M4E rfl fun h => ?_
    dsimp only [Instr.WellFormed] at h
    simp (disch := omega) only [decodeM4E, Nat.add_assoc, Nat.div_add_mod', field_take_second, field_drop_second, field_zero, field_take,
      field_drop, if_neg]

@[simp] theorem reads_M4F :
    (∀ d m, Reads (.vqxX1 d m)) ∧ (∀ d m, Reads (.vqxX2 d m)) ∧ (∀ d m, Reads (.vqxX3 d m)) ∧ (∀ d m, Reads (.vqxB0 d m)) ∧
    (∀ d m, Reads (.vqxB1 d m)) ∧ (∀ d m, Reads (.vqxB2 d m)) ∧ (∀ d m, Reads (.vqxB3 d m)) := by
  and_intros <;> intros
  all_goals
    refine .word decode32_M4F rfl fun h => ?_
    dsimp only [Instr.WellFormed] at h
    simp (disch := omega) only [decodeM4F, Nat.add_assoc, Nat.div_add_mod', field_take_second, field_drop_second, field_zero, field_take,
      field_drop, if_neg]

@[simp] theorem reads_M50 :
    (∀ d c s k, Reads (.mxlda d c s k)) ∧ (∀ d c s k, Reads (.mxldb d c s k)) ∧ (∀ d c s k, Reads (.mxlds d c s k)) := by
  and_intros <;> intros
  all_goals
    refine .word decode32_M50 rfl fun h => ?_
    dsimp only [Instr.WellFormed] at h
    simp (disch := omega) only [decodeM50, Nat.add_assoc, field_zero, field_take, field_drop, if_neg]

@[simp] theorem reads_M51 : ∀ z c k, Reads (.mxstep z c k) := by
  intros
  refine .word decode32_M51 rfl fun h => ?_
  dsimp only [Instr.WellFormed] at h
  simp (disch := omega) only [decodeM51, Nat.add_assoc, field_zero, field_take, field_drop, if_neg]

@[simp] theorem reads_M52 : ∀ z c k, Reads (.mxloop z c k) := by
  intros
  refine .word decode32_M52 rfl fun h => ?_
  dsimp only [Instr.WellFormed] at h
  simp (disch := omega) only [decodeM52, Nat.add_assoc, field_zero, field_take, field_drop, if_neg]

@[simp] theorem reads_M53 : (∀ z c k, Reads (.mxspstep z c k)) ∧ (∀ z c k, Reads (.mxsploop z c k)) := by
  and_intros <;> intros
  all_goals
    refine .word decode32_M53 rfl fun h => ?_
    dsimp only [Instr.WellFormed] at h
    simp (disch := omega) only [decodeM53, Nat.add_assoc, field_zero, field_take, field_drop, if_neg]

@[simp] theorem reads_M54 : (∀ v p k, Reads (.mxrdz v p k)) ∧ (∀ v p k, Reads (.mxwrz v p k)) := by
  and_intros <;> intros
  all_goals
    refine .word decode32_M54 rfl fun h => ?_
    dsimp only [Instr.WellFormed] at h
    simp (disch := omega) only [decodeM54, Nat.add_assoc, field_zero, field_take, field_drop, if_neg]

@[simp] theorem reads_M55 : (∀ z n k, Reads (.mxtred z n k)) ∧ (∀ z n k, Reads (.mxtmov z n k)) := by
  and_intros <;> intros
  all_goals
    refine .word decode32_M55 rfl fun h => ?_
    dsimp only [Instr.WellFormed] at h
    simp (disch := omega) only [decodeM55, Nat.add_assoc, field_zero, field_take, field_drop, if_neg]

@[simp] theorem reads_M56 : (∀ d n, Reads (.mxelog d n)) ∧ (∀ d, Reads (.mxestat d)) ∧ Reads .mxeclr := by
  and_intros <;> intros
  all_goals
    refine .word decode32_M56 rfl fun h => ?_
    dsimp only [Instr.WellFormed] at h
    simp (disch := omega) only [decodeM56, Nat.add_assoc, field_zero, field_take, field_drop, if_neg]

@[simp] theorem reads_M58 : (∀ t k, Reads (.wfwd t k)) ∧ (∀ t k, Reads (.winv t k)) := by
  and_intros <;> intros
  all_goals
    refine .word decode32_M58 rfl fun h => ?_
    dsimp only [Instr.WellFormed] at h
    simp (disch := omega) only [decodeM58, Nat.add_assoc, field_zero, field_take, field_drop, if_neg]

@[simp] theorem reads_M59 : (∀ t k, Reads (.wthr t k)) ∧ (∀ n a, Reads (.wthset n a)) := by
  and_intros <;> intros
  all_goals
    refine .word decode32_M59 rfl fun h => ?_
    dsimp only [Instr.WellFormed] at h
    simp (disch := omega) only [decodeM59, Nat.add_assoc, field_zero, field_take, field_drop, if_neg]

@[simp] theorem reads_M5A : (∀ t b k, Reads (.wst t b k)) ∧ (∀ t b k, Reads (.wld t b k)) ∧ (∀ t b k, Reads (.wldRaw t b k)) := by
  and_intros <;> intros
  all_goals
    refine .word decode32_M5A rfl fun h => ?_
    dsimp only [Instr.WellFormed] at h
    simp (disch := omega) only [decodeM5A, Nat.add_assoc, field_constant, field_zero, field_take, ↓if_pos, ↓if_neg] <;> congr <;> omega

@[simp] theorem reads_M5B_checked : ∀ t g k, Reads (.wtag t g k) := by
  intros
  refine .word decode32_M5B rfl fun h => ?_
  dsimp only [Instr.WellFormed] at h
  simp (disch := omega) only [decodeM5B, Nat.add_assoc, field_zero, field_take, field_drop, if_neg, not_true_eq_false, h.2.2.2]
  congr

@[simp] theorem reads_M5B : ∀ d n, Reads (.wcnt d n) := by
  intros
  refine .word decode32_M5B rfl fun h => ?_
  dsimp only [Instr.WellFormed] at h
  simp (disch := omega) only [decodeM5B, Nat.add_assoc, field_zero, field_take, field_drop, if_neg]

@[simp] theorem reads_M5C :
    (∀ v r b, Reads (.ljoin v r b)) ∧ (∀ v r b, Reads (.ljoinV v r b)) ∧ (∀ v r b k, Reads (.lput v r b k)) ∧
    (∀ v r b k, Reads (.lputV v r b k)) := by
  and_intros <;> intros
  all_goals
    refine .word decode32_M5C rfl fun h => ?_
    dsimp only [Instr.WellFormed] at h
    simp (disch := omega) only [decodeM5C, Nat.add_assoc, field_constant, field_zero, field_take, ↓if_pos, ↓if_neg] <;> congr <;> omega

@[simp] theorem reads_M5D :
    (∀ d q b k, Reads (.lget d q b k)) ∧ (∀ d q b k, Reads (.lgetV d q b k)) ∧ (∀ d q b k, Reads (.lwait d q b k)) := by
  and_intros <;> intros
  all_goals
    refine .word decode32_M5D rfl fun h => ?_
    dsimp only [Instr.WellFormed] at h
    simp (disch := omega) only [decodeM5D, Nat.add_assoc, field_constant, field_zero, field_take, ↓if_pos, ↓if_neg] <;> congr <;> omega

@[simp] theorem reads_M5E : (∀ d a, Reads (.lxsched d a)) ∧ (∀ k, Reads (.lxnow k)) := by
  and_intros <;> intros
  all_goals
    refine .word decode32_M5E rfl fun h => ?_
    dsimp only [Instr.WellFormed] at h
    simp (disch := omega) only [decodeM5E, Nat.add_assoc, field_zero, field_take, field_drop, if_neg]

@[simp] theorem reads_M5F : (∀ d b k, Reads (.ltype d b k)) ∧ (∀ b k, Reads (.lclr b k)) := by
  and_intros <;> intros
  all_goals
    refine .word decode32_M5F rfl fun h => ?_
    dsimp only [Instr.WellFormed] at h
    simp (disch := omega) only [decodeM5F, Nat.add_assoc, field_zero, field_take, field_drop, if_neg]

@[simp] theorem reads_M60 : ∀ f, Reads (.ldv f) := by
  intros
  refine .word decode32_M60 rfl fun h => ?_
  dsimp only [Instr.WellFormed] at h
  simp (disch := omega) only [decodeM60, Nat.add_assoc, field_take, field_drop, if_neg]

@[simp] theorem reads_M61 : ∀ f, Reads (.stv f) := by
  intros
  refine .word decode32_M61 rfl fun h => ?_
  dsimp only [Instr.WellFormed] at h
  simp (disch := omega) only [decodeM61, Nat.add_assoc, field_zero, field_take, field_drop, if_neg, MV.mk_untokened]

@[simp] theorem reads_M62 : ∀ f, Reads (.ldg f) := by
  intros
  refine .word decode32_M62 rfl fun h => ?_
  dsimp only [Instr.WellFormed] at h
  simp (disch := omega) only [decodeM62, Nat.add_assoc, field_take, field_drop, if_neg]

@[simp] theorem reads_M63 : ∀ f, Reads (.stg f) := by
  intros
  refine .word decode32_M63 rfl fun h => ?_
  dsimp only [Instr.WellFormed] at h
  simp (disch := omega) only [decodeM63, Nat.add_assoc, field_zero, field_take, field_drop, if_neg, MV.mk_untokened]

@[simp] theorem reads_M64 : ∀ f, Reads (.ldff f) := by
  intros
  refine .word decode32_M64 rfl fun h => ?_
  dsimp only [Instr.WellFormed] at h
  simp (disch := omega) only [decodeM64, Nat.add_assoc, field_take, field_drop, if_neg]

@[simp] theorem reads_M65 : ∀ r m b s k p, Reads (.ldr r m b s k p) := by
  intros
  refine .word decode32_M65 rfl fun h => ?_
  dsimp only [Instr.WellFormed] at h
  simp (disch := omega) only [decodeM65, Nat.add_assoc, field_zero, field_take, field_drop, if_neg]

@[simp] theorem reads_M66 : ∀ d b k i, Reads (.ld d b k i) := by
  intros
  refine .word decode32_M66 rfl fun h => ?_
  dsimp only [Instr.WellFormed] at h
  simp (disch := omega) only [decodeM66, Nat.add_assoc, field_take, field_drop, sext]
  congr
  omega

@[simp] theorem reads_M67 : ∀ d b i, Reads (.st d b i) := by
  intros
  refine .word decode32_M67 rfl fun h => ?_
  dsimp only [Instr.WellFormed] at h
  simp (disch := omega) only [decodeM67, Nat.add_assoc, field_zero, field_take, field_drop, if_neg, sext]
  congr
  omega

@[simp] theorem reads_M68 : (∀ f, Reads (.atAdd f)) ∧ (∀ f, Reads (.atSwap f)) ∧ (∀ f, Reads (.atCas f)) ∧ (∀ f, Reads (.atFadd f)) := by
  and_intros <;> intros
  all_goals
    refine .word decode32_M68 rfl fun h => ?_
    dsimp only [Instr.WellFormed] at h
    simp (disch := omega) only [decodeM68, Nat.add_assoc, field_zero, field_take, field_drop]

@[simp] theorem reads_M69 : (∀ f, Reads (.atAnd f)) ∧ (∀ f, Reads (.atOr f)) ∧ (∀ f, Reads (.atMax f)) ∧ (∀ f, Reads (.atMaxu f)) := by
  and_intros <;> intros
  all_goals
    refine .word decode32_M69 rfl fun h => ?_
    dsimp only [Instr.WellFormed] at h
    simp (disch := omega) only [decodeM69, Nat.add_assoc, field_zero, field_take, field_drop]

@[simp] theorem reads_M6A :
    (∀ c, Reads (.fenceAcq c)) ∧ (∀ c, Reads (.fenceRel c)) ∧ (∀ c, Reads (.fenceAr c)) ∧ (∀ c, Reads (.fenceSc c)) ∧
    (∀ k, Reads (.fenceAck k)) ∧ (∀ d m b k, Reads (.lda d m b k)) ∧ (∀ d m b k, Reads (.ldaSc d m b k)) ∧ (∀ d m b, Reads (.stl d m b)) ∧
    (∀ d m b, Reads (.stlSc d m b)) := by
  and_intros <;> intros
  all_goals
    refine .word decode32_M6A rfl fun h => ?_
    dsimp only [Instr.WellFormed] at h
    simp (disch := omega) only [decodeM6A, Nat.add_assoc, field_constant, Nat.div_add_mod', field_drop_second, field_zero, field_take,
      ↓if_pos, ↓if_neg] <;> congr <;> omega

@[simp] theorem reads_M6B : (∀ v m i k, Reads (.ldb v m i k)) ∧ (∀ v m i, Reads (.stb v m i)) := by
  and_intros <;> intros
  all_goals
    refine .word decode32_M6B rfl fun h => ?_
    dsimp only [Instr.WellFormed] at h
    simp (disch := omega) only [decodeM6B, Nat.add_assoc, Nat.div_add_mod', field_take_second, field_drop_second, field_zero, field_take,
      field_drop, if_neg]

@[simp] theorem reads_M6C : (∀ w k s t, Reads (.cbload w k s t)) ∧ (∀ d k s t, Reads (.ldcb d k s t)) := by
  and_intros <;> intros
  all_goals
    refine .word decode32_M6C rfl fun h => ?_
    dsimp only [Instr.WellFormed] at h
    simp (disch := omega) only [decodeM6C, Nat.add_assoc, field_zero, field_take, field_drop, if_neg]

@[simp] theorem reads_M6D : (∀ c l s, Reads (.pref c l s)) ∧ (∀ d k, Reads (.mcnt d k)) := by
  and_intros <;> intros
  all_goals
    refine .word decode32_M6D rfl fun h => ?_
    dsimp only [Instr.WellFormed] at h
    simp (disch := omega) only [decodeM6D, Nat.add_assoc, field_zero, field_take, field_drop, if_neg]

@[simp] theorem reads_M6E :
    (∀ b k, Reads (.pagereq b k)) ∧ (∀ b k, Reads (.pagereqW b k)) ∧ (∀ b, Reads (.pagehint b)) ∧ (∀ b, Reads (.pagehintW b)) ∧
    (∀ b k, Reads (.pagerel b k)) := by
  and_intros <;> intros
  all_goals
    refine .word decode32_M6E rfl fun h => ?_
    dsimp only [Instr.WellFormed] at h
    simp (disch := omega) only [decodeM6E, Nat.add_assoc, field_constant, field_zero, field_take, ↓if_pos, ↓if_neg] <;> congr <;> omega

@[simp] theorem reads_M70 : (∀ s q k, Reads (.cp s q k)) ∧ (∀ s q k, Reads (.cp2d s q k)) := by
  and_intros <;> intros
  all_goals
    refine .word decode32_M70 rfl fun h => ?_
    dsimp only [Instr.WellFormed] at h
    simp (disch := omega) only [decodeM70, Nat.add_assoc, field_zero, field_take, field_drop, if_neg]

@[simp] theorem reads_M71 : ∀ s q k, Reads (.cpfill s q k) := by
  intros
  refine .word decode32_M71 rfl fun h => ?_
  dsimp only [Instr.WellFormed] at h
  simp (disch := omega) only [decodeM71, Nat.add_assoc, field_zero, field_take, field_drop, if_neg]

@[simp] theorem reads_M72 : ∀ s q k, Reads (.cpver s q k) := by
  intros
  refine .word decode32_M72 rfl fun h => ?_
  dsimp only [Instr.WellFormed] at h
  simp (disch := omega) only [decodeM72, Nat.add_assoc, field_zero, field_take, field_drop, if_neg]

@[simp] theorem reads_M73 : (∀ d h, Reads (.cpwp d h)) ∧ (∀ d h, Reads (.cpwpClr d h)) ∧ (∀ d, Reads (.cpnum d)) := by
  and_intros <;> intros
  all_goals
    refine .word decode32_M73 rfl fun h => ?_
    dsimp only [Instr.WellFormed] at h
    simp (disch := omega) only [decodeM73, Nat.add_assoc, field_constant, field_zero, field_take, ↓if_pos, ↓if_neg] <;> congr <;> omega

@[simp] theorem reads_M74 : ∀ h a, Reads (.cpseed h a) := by
  intros
  refine .word decode32_M74 rfl fun h => ?_
  dsimp only [Instr.WellFormed] at h
  simp (disch := omega) only [decodeM74, Nat.add_assoc, field_zero, field_take, field_drop, if_neg]

@[simp] theorem reads_M75 : (∀ k b t, Reads (.cproot k b t)) ∧ (∀ k t, Reads (.cprootClr k t)) := by
  and_intros <;> intros
  all_goals
    refine .word decode32_M75 rfl fun h => ?_
    dsimp only [Instr.WellFormed] at h
    simp (disch := omega) only [decodeM75, Nat.add_assoc, field_constant, field_zero, field_take, ↓if_pos, ↓if_neg] <;> congr <;> omega

@[simp] theorem reads_M76 :
    (∀ d, Reads (.fxstat d)) ∧ (∀ a, Reads (.fxclr a)) ∧ (∀ d, Reads (.fxrank d)) ∧ (∀ d a, Reads (.fxpath d a)) := by
  and_intros <;> intros
  all_goals
    refine .word decode32_M76 rfl fun h => ?_
    dsimp only [Instr.WellFormed] at h
    simp (disch := omega) only [decodeM76, Nat.add_assoc, field_zero, field_take, field_drop, if_neg]

@[simp] theorem reads_M77 : (∀ d b, Reads (.fxsto d b)) ∧ (∀ d b, Reads (.fxstoRel d b)) := by
  and_intros <;> intros
  all_goals
    refine .word decode32_M77 rfl fun h => ?_
    dsimp only [Instr.WellFormed] at h
    simp (disch := omega) only [decodeM77, Nat.add_assoc, field_zero, field_take, field_drop, if_neg]

@[simp] theorem reads_M78 : ∀ d k, Reads (.fxcnt d k) := by
  intros
  refine .word decode32_M78 rfl fun h => ?_
  dsimp only [Instr.WellFormed] at h
  simp (disch := omega) only [decodeM78, Nat.add_assoc, field_zero, field_take, field_drop, if_neg]

@[simp] theorem reads_M7F : ∀ t p a l, Reads (.runHead t p a l) := by
  intros
  refine .word decode32_M7F rfl fun h => ?_
  dsimp only [Instr.WellFormed] at h
  simp (disch := omega) only [decodeM7F, Nat.add_assoc, field_take, field_drop]

/-! What each major's decoder reads from a word of its major has the word as its encoding. -/

@[simp] theorem reencodes_M00 {w : Nat} (hw : w < 4294967296) (hm : w % 256 = 1) : Reencodes 4 w (decodeM00 w) := by
  unfold decodeM00
  split
  case h_1 | h_2 | h_3 | h_4 | h_5 | h_6 | h_7 => exact .guard fun _ => .ok
  case h_8 => exact .error

@[simp] theorem reencodes_M01 {w : Nat} (hw : w < 4294967296) (hm : w % 256 = 3) : Reencodes 4 w (decodeM01 w) := by
  obtain ⟨hlo, hhi, himm⟩ := sext_18 (w / 16384 % 262144)
  rw [Nat.mod_mod] at himm
  unfold decodeM01
  split
  case h_1 => exact .guard fun _ => .ok (hx := by rw [himm]; omega)
  case h_2 => exact .ok (hx := by rw [himm]; omega)
  case h_3 => exact .error

@[simp] theorem reencodes_M02 {w : Nat} (hw : w < 4294967296) (hm : w % 256 = 5) : Reencodes 4 w (decodeM02 w) := by
  obtain ⟨hlo, hhi, himm⟩ := sext_18 (w / 16384 % 262144)
  rw [Nat.mod_mod] at himm
  unfold decodeM02
  split
  case h_1 | h_2 | h_3 | h_4 => exact .ok (hx := by rw [himm]; omega)
  case h_5 => exact .error

@[simp] theorem reencodes_M03 {w : Nat} (hw : w < 4294967296) (hm : w % 256 = 7) : Reencodes 4 w (decodeM03 w) := by
  obtain ⟨hlo, hhi, himm⟩ := sext_18 (w / 16384 % 262144)
  rw [Nat.mod_mod] at himm
  unfold decodeM03
  split
  case h_1 | h_2 => exact .ok (hx := by rw [himm]; omega)
  case h_3 => exact .error

@[simp] theorem reencodes_M04 {w : Nat} (hw : w < 4294967296) (hm : w % 256 = 9) : Reencodes 4 w (decodeM04 w) := by
  unfold decodeM04
  split
  case h_1 | h_2 => exact .guard fun _ => .ok
  case h_3 | h_4 => exact .guard fun _ => .fields
  case h_5 => exact .error

@[simp] theorem reencodes_M05 {w : Nat} (hw : w < 4294967296) (hm : w % 256 = 11) : Reencodes 4 w (decodeM05 w) := by
  unfold decodeM05
  split
  case h_1 => exact .guard fun _ => .fields
  case h_2 => exact .fields
  case h_3 => exact .error

@[simp] theorem reencodes_M06 {w : Nat} (hw : w < 4294967296) (hm : w % 256 = 13) : Reencodes 4 w (decodeM06 w) := by
  unfold decodeM06
  split
  case h_1 | h_2 | h_3 | h_4 | h_5 | h_6 | h_7 => exact .guard fun _ => .guard fun _ => .guard fun _ => .fields
  case h_8 | h_9 => exact .guard fun _ => .guard fun _ => .ok
  case h_10 | h_11 | h_12 | h_13 => exact .guard fun _ => .guard fun _ => .fields
  case h_14 => exact .error

@[simp] theorem reencodes_M07 {w : Nat} (hw : w < 4294967296) (hm : w % 256 = 15) : Reencodes 4 w (decodeM07 w) := by
  unfold decodeM07
  split
  case h_1 => exact .guard fun _ => .fields
  case h_2 | h_3 => exact .guard fun _ => .guard fun _ => .fields
  case h_4 => exact .error

@[simp] theorem reencodes_M08 {w : Nat} (hw : w < 4294967296) (hm : w % 256 = 17) : Reencodes 4 w (decodeM08 w) := by
  unfold decodeM08
  split
  case h_1 | h_2 => exact .guard fun _ => .guard fun _ => .guard fun _ => .fields
  case h_3 => exact .error

@[simp] theorem reencodes_M09 {w : Nat} (hw : w < 4294967296) (hm : w % 256 = 19) : Reencodes 4 w (decodeM09 w) := by
  unfold decodeM09
  split
  case h_1 | h_2 | h_3 | h_4 => exact .guard fun _ => .guard fun hn => .fields (hi := ⟨by omega, by omega, not_not.mp hn⟩)
  case h_5 | h_6 => exact .guard fun _ => .guard fun _ => .fields
  case h_7 => exact .guard fun _ => .ok
  case h_8 => exact .error

@[simp] theorem reencodes_M0A {w : Nat} (hw : w < 4294967296) (hm : w % 256 = 21) : Reencodes 4 w (decodeM0A w) := by
  unfold decodeM0A
  split
  case h_1 => exact .guard fun _ => .fields
  case h_2 | h_3 => exact .guard fun _ => .ok
  case h_4 => exact .error

@[simp] theorem reencodes_M10 {w : Nat} (hw : w < 4294967296) (hm : w % 256 = 33) : Reencodes 4 w (decodeM10 w) := by
  unfold decodeM10
  split
  case h_1 | h_2 | h_3 | h_4 | h_5 | h_6 | h_7 | h_8 | h_9 | h_10 | h_11 | h_12 | h_13 | h_14 | h_15 | h_16 | h_17 | h_18 | h_19 | h_20 |
    h_21 | h_22 | h_23 | h_24 =>
    exact .fields
  case h_25 | h_26 => exact .guard fun _ => .fields
  case h_27 => exact .error

@[simp] theorem reencodes_M11 {w : Nat} (hw : w < 4294967296) (hm : w % 256 = 35) : Reencodes 4 w (decodeM11 w) := by
  obtain ⟨hlo, hhi, himm⟩ := sext_12 (w / 256 % 4096)
  rw [Nat.mod_mod] at himm
  unfold decodeM11
  exact .ok (hx := by rw [himm]; omega)

@[simp] theorem reencodes_M12 {w : Nat} (hw : w < 4294967296) (hm : w % 256 = 37) : Reencodes 4 w (decodeM12 w) := by
  obtain ⟨hlo, hhi, himm⟩ := sext_12 (w / 256 % 4096)
  rw [Nat.mod_mod] at himm
  unfold decodeM12
  exact .ok (hx := by rw [himm]; omega)

@[simp] theorem reencodes_M13 {w : Nat} (hw : w < 4294967296) (hm : w % 256 = 39) : Reencodes 4 w (decodeM13 w) := by
  obtain ⟨hlo, hhi, himm⟩ := sext_12 (w / 256 % 4096)
  rw [Nat.mod_mod] at himm
  unfold decodeM13
  exact .ok (hx := by rw [himm]; omega)

@[simp] theorem reencodes_M14 {w : Nat} (hw : w < 4294967296) (hm : w % 256 = 41) : Reencodes 4 w (decodeM14 w) := by
  obtain ⟨hlo, hhi, himm⟩ := sext_12 (w / 256 % 4096)
  rw [Nat.mod_mod] at himm
  unfold decodeM14
  exact .ok (hx := by rw [himm]; omega)

@[simp] theorem reencodes_M15 {w : Nat} (hw : w < 4294967296) (hm : w % 256 = 43) : Reencodes 4 w (decodeM15 w) := by
  unfold decodeM15
  split
  case h_1 | h_2 | h_3 | h_4 => exact .guard fun _ => .fields
  case h_5 => exact .error

@[simp] theorem reencodes_M16 {w : Nat} (hw : w < 4294967296) (hm : w % 256 = 45) : Reencodes 4 w (decodeM16 w) := by
  obtain ⟨hlo, hhi, himm⟩ := sext_18 (w / 256 % 262144)
  rw [Nat.mod_mod] at himm
  unfold decodeM16
  exact .ok (hx := by rw [himm]; omega)

@[simp] theorem reencodes_M17 {w : Nat} (hw : w < 4294967296) (hm : w % 256 = 47) : Reencodes 4 w (decodeM17 w) := by
  obtain ⟨hlo, hhi, himm⟩ := sext_10 (w / 256 % 1024)
  rw [Nat.mod_mod] at himm
  unfold decodeM17
  split
  case h_1 | h_2 | h_3 | h_4 => exact .ok (hx := by rw [himm]; omega)
  case h_5 => exact .error

@[simp] theorem reencodes_M18 {w : Nat} (hw : w < 4294967296) (hm : w % 256 = 49) : Reencodes 4 w (decodeM18 w) := by
  unfold decodeM18
  split
  case h_1 | h_3 | h_4 => exact .guard fun _ => .fields
  case h_2 => exact .fields
  case h_5 => exact .error

@[simp] theorem reencodes_M20 {w : Nat} (hw : w < 4294967296) (hm : w % 256 = 65) : Reencodes 4 w (decodeM20 w) := by
  unfold decodeM20
  exact .guard fun _ => .fields

@[simp] theorem reencodes_M21 {w : Nat} (hw : w < 4294967296) (hm : w % 256 = 67) : Reencodes 4 w (decodeM21 w) := by
  unfold decodeM21
  exact .guard fun _ => .fields

@[simp] theorem reencodes_M22 {w : Nat} (hw : w < 4294967296) (hm : w % 256 = 69) : Reencodes 4 w (decodeM22 w) := by
  unfold decodeM22
  exact .guard fun _ => .fields

@[simp] theorem reencodes_M23 {w : Nat} (hw : w < 4294967296) (hm : w % 256 = 71) : Reencodes 4 w (decodeM23 w) := by
  unfold decodeM23
  split
  case h_1 | h_2 | h_3 => exact .guard fun _ => .fields
  case h_4 => exact .error

@[simp] theorem reencodes_M24 {w : Nat} (hw : w < 4294967296) (hm : w % 256 = 73) : Reencodes 4 w (decodeM24 w) := by
  unfold decodeM24
  split
  case h_1 | h_2 => exact .guard fun _ => .fields
  case h_3 => exact .error

@[simp] theorem reencodes_M25 {w : Nat} (hw : w < 4294967296) (hm : w % 256 = 75) : Reencodes 4 w (decodeM25 w) := by
  unfold decodeM25
  split
  case h_1 | h_2 => exact .guard fun _ => .fields
  case h_3 => exact .error

@[simp] theorem reencodes_M26 {w : Nat} (hw : w < 4294967296) (hm : w % 256 = 77) : Reencodes 4 w (decodeM26 w) := by
  unfold decodeM26
  split
  case h_1 | h_2 | h_3 | h_4 => exact .guard fun _ => .fields
  case h_5 => exact .error

@[simp] theorem reencodes_M27 {w : Nat} (hw : w < 4294967296) (hm : w % 256 = 79) : Reencodes 4 w (decodeM27 w) := by
  unfold decodeM27
  split
  case h_1 | h_2 | h_3 | h_4 => exact .guard fun _ => .fields
  case h_5 => exact .error

@[simp] theorem reencodes_M28 {w : Nat} (hw : w < 4294967296) (hm : w % 256 = 81) : Reencodes 4 w (decodeM28 w) := by
  unfold decodeM28
  split
  case h_1 | h_2 | h_3 | h_4 => exact .guard fun _ => .fields
  case h_5 => exact .error

@[simp] theorem reencodes_M29 {w : Nat} (hw : w < 4294967296) (hm : w % 256 = 83) : Reencodes 4 w (decodeM29 w) := by
  unfold decodeM29
  split
  case h_1 | h_2 | h_3 | h_4 => exact .guard fun _ => .fields
  case h_5 => exact .error

@[simp] theorem reencodes_M2A {w : Nat} (hw : w < 4294967296) (hm : w % 256 = 85) : Reencodes 4 w (decodeM2A w) := by
  unfold decodeM2A
  split
  case h_1 | h_2 | h_3 | h_4 => exact .guard fun _ => .fields
  case h_5 => exact .error

@[simp] theorem reencodes_M2B {w : Nat} (hw : w < 4294967296) (hm : w % 256 = 87) : Reencodes 4 w (decodeM2B w) := by
  unfold decodeM2B
  split
  case h_1 | h_2 | h_3 | h_4 => exact .guard fun _ => .fields
  case h_5 => exact .error

@[simp] theorem reencodes_M2C {w : Nat} (hw : w < 4294967296) (hm : w % 256 = 89) : Reencodes 4 w (decodeM2C w) := by
  unfold decodeM2C
  split
  case h_1 | h_2 | h_3 | h_4 => exact .guard fun _ => .guard fun _ => .fields
  case h_5 => exact .error

@[simp] theorem reencodes_M2D {w : Nat} (hw : w < 4294967296) (hm : w % 256 = 91) : Reencodes 4 w (decodeM2D w) := by
  unfold decodeM2D
  split
  case h_1 | h_2 | h_3 | h_4 => exact .guard fun _ => .fields
  case h_5 => exact .error

@[simp] theorem reencodes_M2E {w : Nat} (hw : w < 4294967296) (hm : w % 256 = 93) : Reencodes 4 w (decodeM2E w) := by
  unfold decodeM2E
  split
  case h_1 | h_2 | h_3 | h_4 => exact .guard fun _ => .fields
  case h_5 => exact .error

@[simp] theorem reencodes_M2F {w : Nat} (hw : w < 4294967296) (hm : w % 256 = 95) : Reencodes 4 w (decodeM2F w) := by
  unfold decodeM2F
  split
  case h_1 | h_2 | h_3 => exact .guard fun _ => .guard fun _ => .fields
  case h_4 => exact .error

@[simp] theorem reencodes_M30 {w : Nat} (hw : w < 4294967296) (hm : w % 256 = 97) : Reencodes 4 w (decodeM30 w) := by
  unfold decodeM30
  exact .guard fun _ => .fields

@[simp] theorem reencodes_M31 {w : Nat} (hw : w < 4294967296) (hm : w % 256 = 99) : Reencodes 4 w (decodeM31 w) := by
  unfold decodeM31
  exact .guard fun _ => .fields

@[simp] theorem reencodes_M32 {w : Nat} (hw : w < 4294967296) (hm : w % 256 = 101) : Reencodes 4 w (decodeM32 w) := by
  unfold decodeM32
  exact .guard fun _ => .fields

@[simp] theorem reencodes_M33 {w : Nat} (hw : w < 4294967296) (hm : w % 256 = 103) : Reencodes 4 w (decodeM33 w) := by
  unfold decodeM33
  exact .guard fun _ => .fields

@[simp] theorem reencodes_M34 {w : Nat} (hw : w < 4294967296) (hm : w % 256 = 105) : Reencodes 4 w (decodeM34 w) := by
  unfold decodeM34
  exact .guard fun _ => .fields

@[simp] theorem reencodes_M35 {w : Nat} (hw : w < 4294967296) (hm : w % 256 = 107) : Reencodes 4 w (decodeM35 w) := by
  unfold decodeM35
  exact .guard fun _ => .fields

@[simp] theorem reencodes_M36 {w : Nat} (hw : w < 4294967296) (hm : w % 256 = 109) : Reencodes 4 w (decodeM36 w) := by
  unfold decodeM36
  exact .guard fun _ => .fields

@[simp] theorem reencodes_M37 {w : Nat} (hw : w < 4294967296) (hm : w % 256 = 111) : Reencodes 4 w (decodeM37 w) := by
  unfold decodeM37
  exact .guard fun _ => .fields

@[simp] theorem reencodes_M38 {w : Nat} (hw : w < 4294967296) (hm : w % 256 = 113) : Reencodes 4 w (decodeM38 w) := by
  unfold decodeM38
  exact .guard fun _ => .fields

@[simp] theorem reencodes_M39 {w : Nat} (hw : w < 4294967296) (hm : w % 256 = 115) : Reencodes 4 w (decodeM39 w) := by
  unfold decodeM39
  split
  case h_1 | h_2 | h_3 | h_4 => exact .guard fun _ => .guard fun _ => .fields
  case h_5 => exact .error

@[simp] theorem reencodes_M3A {w : Nat} (hw : w < 4294967296) (hm : w % 256 = 117) : Reencodes 4 w (decodeM3A w) := by
  unfold decodeM3A
  split
  case h_1 | h_2 | h_3 | h_4 => exact .guard fun _ => .guard fun _ => .guard fun _ => .fields
  case h_5 => exact .error

@[simp] theorem reencodes_M3B {w : Nat} (hw : w < 4294967296) (hm : w % 256 = 119) : Reencodes 4 w (decodeM3B w) := by
  unfold decodeM3B
  split
  case h_1 | h_2 | h_3 | h_4 => exact .guard fun _ => .fields
  case h_5 => exact .error

@[simp] theorem reencodes_M3C {w : Nat} (hw : w < 4294967296) (hm : w % 256 = 121) : Reencodes 4 w (decodeM3C w) := by
  unfold decodeM3C
  split
  case h_1 | h_2 | h_3 | h_4 => exact .guard fun _ => .fields
  case h_5 => exact .error

@[simp] theorem reencodes_M40 {w : Nat} (hw : w < 4294967296) (hm : w % 256 = 129) : Reencodes 4 w (decodeM40 w) := by
  unfold decodeM40
  exact .guard fun _ => .guard fun _ => .guard fun _ => .fields

@[simp] theorem reencodes_M41 {w : Nat} (hw : w < 4294967296) (hm : w % 256 = 131) : Reencodes 4 w (decodeM41 w) := by
  unfold decodeM41
  split
  case h_1 | h_2 | h_3 | h_4 => exact .guard fun _ => .guard fun _ => .guard fun _ => .fields
  case h_5 => exact .error

@[simp] theorem reencodes_M42 {w : Nat} (hw : w < 4294967296) (hm : w % 256 = 133) : Reencodes 4 w (decodeM42 w) := by
  unfold decodeM42
  split
  case h_1 | h_2 => exact .guard fun _ => .guard fun _ => .guard fun _ => .fields
  case h_3 => exact .error

@[simp] theorem reencodes_M43 {w : Nat} (hw : w < 4294967296) (hm : w % 256 = 135) : Reencodes 4 w (decodeM43 w) := by
  unfold decodeM43
  split
  case h_1 | h_2 | h_3 | h_4 => exact .guard fun _ => .guard fun _ => .guard fun _ => .fields
  case h_5 => exact .error

@[simp] theorem reencodes_M44 {w : Nat} (hw : w < 4294967296) (hm : w % 256 = 137) : Reencodes 4 w (decodeM44 w) := by
  unfold decodeM44
  exact .guard fun _ => .guard fun _ => .guard fun _ => .fields

@[simp] theorem reencodes_M45 {w : Nat} (hw : w < 4294967296) (hm : w % 256 = 139) : Reencodes 4 w (decodeM45 w) := by
  unfold decodeM45
  exact .guard fun _ => .guard fun _ => .guard fun _ => .fields

@[simp] theorem reencodes_M46 {w : Nat} (hw : w < 4294967296) (hm : w % 256 = 141) : Reencodes 4 w (decodeM46 w) := by
  unfold decodeM46
  split
  case h_1 | h_2 | h_3 | h_4 => exact .guard fun _ => .guard fun _ => .guard fun _ => .fields
  case h_5 => exact .error

@[simp] theorem reencodes_M48 {w : Nat} (hw : w < 4294967296) (hm : w % 256 = 145) : Reencodes 4 w (decodeM48 w) := by
  unfold decodeM48
  split
  case h_1 | h_2 | h_3 | h_4 => exact .guard fun _ => .guard fun _ => .guard fun _ => .fields
  case h_5 => exact .error

@[simp] theorem reencodes_M49 {w : Nat} (hw : w < 4294967296) (hm : w % 256 = 147) : Reencodes 4 w (decodeM49 w) := by
  unfold decodeM49
  split
  case h_1 | h_2 | h_3 | h_4 => exact .guard fun _ => .guard fun _ => .guard fun _ => .fields
  case h_5 => exact .error

@[simp] theorem reencodes_M4A {w : Nat} (hw : w < 4294967296) (hm : w % 256 = 149) : Reencodes 4 w (decodeM4A w) := by
  unfold decodeM4A
  split
  case h_1 => exact .guard fun _ => .guard fun _ => .guard fun _ => .fields
  case h_2 => exact .error

@[simp] theorem reencodes_M4B {w : Nat} (hw : w < 4294967296) (hm : w % 256 = 151) : Reencodes 4 w (decodeM4B w) := by
  unfold decodeM4B
  split
  case h_1 | h_2 | h_3 => exact .guard fun _ => .guard fun _ => .guard fun _ => .fields
  case h_4 => exact .error

@[simp] theorem reencodes_M4C {w : Nat} (hw : w < 4294967296) (hm : w % 256 = 153) : Reencodes 4 w (decodeM4C w) := by
  unfold decodeM4C
  exact .select (fun _ => .guard fun _ => .fields) fun _ =>
    .select (fun _ => .guard fun _ => .fields) fun _ =>
    .error

@[simp] theorem reencodes_M4D {w : Nat} (hw : w < 4294967296) (hm : w % 256 = 155) : Reencodes 4 w (decodeM4D w) := by
  unfold decodeM4D
  split
  case h_1 | h_2 => exact .guard fun _ => .fields
  case h_3 => exact .error

@[simp] theorem reencodes_M4E {w : Nat} (hw : w < 4294967296) (hm : w % 256 = 157) : Reencodes 4 w (decodeM4E w) := by
  unfold decodeM4E
  split
  case h_1 | h_2 | h_3 | h_4 | h_5 | h_6 | h_7 | h_8 | h_9 | h_10 | h_11 | h_12 | h_13 | h_14 => exact .guard fun _ => .fields
  case h_15 => exact .error

@[simp] theorem reencodes_M4F {w : Nat} (hw : w < 4294967296) (hm : w % 256 = 159) : Reencodes 4 w (decodeM4F w) := by
  unfold decodeM4F
  split
  case h_1 | h_2 | h_3 | h_4 | h_5 | h_6 | h_7 => exact .guard fun _ => .fields
  case h_8 => exact .error

@[simp] theorem reencodes_M50 {w : Nat} (hw : w < 4294967296) (hm : w % 256 = 161) : Reencodes 4 w (decodeM50 w) := by
  unfold decodeM50
  split
  case h_1 | h_2 | h_3 => exact .guard fun _ => .fields
  case h_4 => exact .error

@[simp] theorem reencodes_M51 {w : Nat} (hw : w < 4294967296) (hm : w % 256 = 163) : Reencodes 4 w (decodeM51 w) := by
  unfold decodeM51
  split
  case h_1 => exact .guard fun _ => .guard fun _ => .guard fun _ => .fields
  case h_2 => exact .error

@[simp] theorem reencodes_M52 {w : Nat} (hw : w < 4294967296) (hm : w % 256 = 165) : Reencodes 4 w (decodeM52 w) := by
  unfold decodeM52
  split
  case h_1 => exact .guard fun _ => .guard fun _ => .guard fun _ => .fields
  case h_2 => exact .error

@[simp] theorem reencodes_M53 {w : Nat} (hw : w < 4294967296) (hm : w % 256 = 167) : Reencodes 4 w (decodeM53 w) := by
  unfold decodeM53
  split
  case h_1 | h_2 => exact .guard fun _ => .guard fun _ => .guard fun _ => .fields
  case h_3 => exact .error

@[simp] theorem reencodes_M54 {w : Nat} (hw : w < 4294967296) (hm : w % 256 = 169) : Reencodes 4 w (decodeM54 w) := by
  unfold decodeM54
  split
  case h_1 | h_2 => exact .guard fun _ => .fields
  case h_3 => exact .error

@[simp] theorem reencodes_M55 {w : Nat} (hw : w < 4294967296) (hm : w % 256 = 171) : Reencodes 4 w (decodeM55 w) := by
  unfold decodeM55
  split
  case h_1 | h_2 => exact .guard fun _ => .guard fun _ => .fields
  case h_3 => exact .error

@[simp] theorem reencodes_M56 {w : Nat} (hw : w < 4294967296) (hm : w % 256 = 173) : Reencodes 4 w (decodeM56 w) := by
  unfold decodeM56
  split
  case h_1 => exact .guard fun _ => .guard fun _ => .guard fun _ => .fields
  case h_2 => exact .guard fun _ => .guard fun _ => .ok
  case h_3 => exact .guard fun _ => .ok
  case h_4 => exact .error

@[simp] theorem reencodes_M58 {w : Nat} (hw : w < 4294967296) (hm : w % 256 = 177) : Reencodes 4 w (decodeM58 w) := by
  unfold decodeM58
  split
  case h_1 | h_2 => exact .guard fun _ => .guard fun _ => .fields
  case h_3 => exact .error

@[simp] theorem reencodes_M59 {w : Nat} (hw : w < 4294967296) (hm : w % 256 = 179) : Reencodes 4 w (decodeM59 w) := by
  unfold decodeM59
  split
  case h_1 => exact .guard fun _ => .guard fun _ => .fields
  case h_2 => exact .guard fun _ => .guard fun _ => .guard fun _ => .fields
  case h_3 => exact .error

@[simp] theorem reencodes_M5A {w : Nat} (hw : w < 4294967296) (hm : w % 256 = 181) : Reencodes 4 w (decodeM5A w) := by
  unfold decodeM5A
  split
  case h_1 => exact .guard fun _ => .guard fun _ => .fields
  case h_2 =>
    exact .select (fun _ => .guard fun _ => .guard fun _ => .fields) fun _ =>
      .select (fun _ => .guard fun _ => .guard fun _ => .guard fun _ => .fields) fun _ =>
      .error
  case h_3 => exact .error

@[simp] theorem reencodes_M5B {w : Nat} (hw : w < 4294967296) (hm : w % 256 = 183) : Reencodes 4 w (decodeM5B w) := by
  unfold decodeM5B
  split
  case h_1 => exact .guard fun _ => .guard fun hn => .fields (hi := ⟨by omega, by omega, by omega, not_not.mp hn⟩)
  case h_2 => exact .guard fun _ => .guard fun _ => .guard fun _ => .fields
  case h_3 => exact .error

@[simp] theorem reencodes_M5C {w : Nat} (hw : w < 4294967296) (hm : w % 256 = 185) : Reencodes 4 w (decodeM5C w) := by
  unfold decodeM5C
  split
  case h_1 =>
    exact .select (fun _ => .guard fun _ => .guard fun _ => .fields) fun _ =>
      .select (fun _ => .guard fun _ => .guard fun _ => .fields) fun _ =>
      .error
  case h_2 =>
    exact .select (fun _ => .guard fun _ => .fields) fun _ =>
      .select (fun _ => .guard fun _ => .fields) fun _ =>
      .error
  case h_3 => exact .error

@[simp] theorem reencodes_M5D {w : Nat} (hw : w < 4294967296) (hm : w % 256 = 187) : Reencodes 4 w (decodeM5D w) := by
  unfold decodeM5D
  split
  case h_1 =>
    exact .select (fun _ => .guard fun _ => .fields) fun _ =>
      .select (fun _ => .guard fun _ => .fields) fun _ =>
      .error
  case h_2 => exact .guard fun _ => .guard fun _ => .guard fun _ => .guard fun _ => .fields
  case h_3 => exact .error

@[simp] theorem reencodes_M5E {w : Nat} (hw : w < 4294967296) (hm : w % 256 = 189) : Reencodes 4 w (decodeM5E w) := by
  unfold decodeM5E
  split
  case h_1 => exact .guard fun _ => .guard fun _ => .guard fun _ => .fields
  case h_2 => exact .guard fun _ => .ok
  case h_3 => exact .error

@[simp] theorem reencodes_M5F {w : Nat} (hw : w < 4294967296) (hm : w % 256 = 191) : Reencodes 4 w (decodeM5F w) := by
  unfold decodeM5F
  split
  case h_1 => exact .guard fun _ => .guard fun _ => .fields
  case h_2 => exact .guard fun _ => .fields
  case h_3 => exact .error

@[simp] theorem reencodes_M60 {w : Nat} (hw : w < 4294967296) (hm : w % 256 = 193) : Reencodes 4 w (decodeM60 w) := by
  unfold decodeM60
  exact .guard fun _ => .fields

@[simp] theorem reencodes_M61 {w : Nat} (hw : w < 4294967296) (hm : w % 256 = 195) : Reencodes 4 w (decodeM61 w) := by
  unfold decodeM61
  exact .guard fun _ => .guard fun _ => .fields

@[simp] theorem reencodes_M62 {w : Nat} (hw : w < 4294967296) (hm : w % 256 = 197) : Reencodes 4 w (decodeM62 w) := by
  unfold decodeM62
  exact .guard fun _ => .fields

@[simp] theorem reencodes_M63 {w : Nat} (hw : w < 4294967296) (hm : w % 256 = 199) : Reencodes 4 w (decodeM63 w) := by
  unfold decodeM63
  exact .guard fun _ => .guard fun _ => .fields

@[simp] theorem reencodes_M64 {w : Nat} (hw : w < 4294967296) (hm : w % 256 = 201) : Reencodes 4 w (decodeM64 w) := by
  unfold decodeM64
  exact .guard fun _ => .fields

@[simp] theorem reencodes_M65 {w : Nat} (hw : w < 4294967296) (hm : w % 256 = 203) : Reencodes 4 w (decodeM65 w) := by
  unfold decodeM65
  exact .guard fun _ => .guard fun _ => .fields

@[simp] theorem reencodes_M66 {w : Nat} (hw : w < 4294967296) (hm : w % 256 = 205) : Reencodes 4 w (decodeM66 w) := by
  obtain ⟨hlo, hhi, himm⟩ := sext_8 (w / 256 % 256)
  rw [Nat.mod_mod] at himm
  unfold decodeM66
  exact .ok (hx := by rw [himm]; omega)

@[simp] theorem reencodes_M67 {w : Nat} (hw : w < 4294967296) (hm : w % 256 = 207) : Reencodes 4 w (decodeM67 w) := by
  obtain ⟨hlo, hhi, himm⟩ := sext_8 (w / 256 % 256)
  rw [Nat.mod_mod] at himm
  unfold decodeM67
  exact .guard fun _ => .ok (hx := by rw [himm]; omega)

@[simp] theorem reencodes_M68 {w : Nat} (hw : w < 4294967296) (hm : w % 256 = 209) : Reencodes 4 w (decodeM68 w) := by
  unfold decodeM68
  split
  case h_1 | h_2 | h_3 | h_4 => exact .fields
  case h_5 => exact .error

@[simp] theorem reencodes_M69 {w : Nat} (hw : w < 4294967296) (hm : w % 256 = 211) : Reencodes 4 w (decodeM69 w) := by
  unfold decodeM69
  split
  case h_1 | h_2 | h_3 | h_4 => exact .fields
  case h_5 => exact .error

@[simp] theorem reencodes_M6A {w : Nat} (hw : w < 4294967296) (hm : w % 256 = 213) : Reencodes 4 w (decodeM6A w) := by
  unfold decodeM6A
  split
  case h_1 =>
    exact .select (fun _ => .guard fun _ => .guard fun _ => .guard fun _ => .ok) fun _ =>
      .select (fun _ => .guard fun _ => .guard fun _ => .guard fun _ => .ok) fun _ =>
      .select (fun _ => .guard fun _ => .guard fun _ => .guard fun _ => .ok) fun _ =>
      .select (fun _ => .guard fun _ => .guard fun _ => .guard fun _ => .ok) fun _ =>
      .error
  case h_2 => exact .guard fun _ => .ok
  case h_3 =>
    exact .select (fun _ => .guard fun _ => .fields) fun _ =>
      .select (fun _ => .guard fun _ => .fields) fun _ =>
      .error
  case h_4 =>
    exact .select (fun _ => .guard fun _ => .guard fun _ => .fields) fun _ =>
      .select (fun _ => .guard fun _ => .guard fun _ => .fields) fun _ =>
      .error
  case h_5 => exact .error

@[simp] theorem reencodes_M6B {w : Nat} (hw : w < 4294967296) (hm : w % 256 = 215) : Reencodes 4 w (decodeM6B w) := by
  unfold decodeM6B
  split
  case h_1 => exact .fields
  case h_2 => exact .guard fun _ => .fields
  case h_3 => exact .error

@[simp] theorem reencodes_M6C {w : Nat} (hw : w < 4294967296) (hm : w % 256 = 217) : Reencodes 4 w (decodeM6C w) := by
  unfold decodeM6C
  split
  case h_1 => exact .guard fun _ => .guard fun _ => .fields
  case h_2 => exact .fields
  case h_3 => exact .error

@[simp] theorem reencodes_M6D {w : Nat} (hw : w < 4294967296) (hm : w % 256 = 219) : Reencodes 4 w (decodeM6D w) := by
  unfold decodeM6D
  split
  case h_1 => exact .guard fun _ => .guard fun _ => .fields
  case h_2 => exact .guard fun _ => .guard fun _ => .guard fun _ => .fields
  case h_3 => exact .error

@[simp] theorem reencodes_M6E {w : Nat} (hw : w < 4294967296) (hm : w % 256 = 221) : Reencodes 4 w (decodeM6E w) := by
  unfold decodeM6E
  split
  case h_1 =>
    exact .select (fun _ => .guard fun _ => .guard fun _ => .fields) fun _ =>
      .select (fun _ => .guard fun _ => .guard fun _ => .ok) fun _ =>
      .error
  case h_2 =>
    exact .select (fun _ => .guard fun _ => .guard fun _ => .guard fun _ => .ok) fun _ =>
      .select (fun _ => .guard fun _ => .guard fun _ => .guard fun _ => .ok) fun _ =>
      .error
  case h_3 => exact .guard fun _ => .fields
  case h_4 => exact .error

@[simp] theorem reencodes_M70 {w : Nat} (hw : w < 4294967296) (hm : w % 256 = 225) : Reencodes 4 w (decodeM70 w) := by
  unfold decodeM70
  split
  case h_1 | h_2 => exact .guard fun _ => .guard fun _ => .fields
  case h_3 => exact .error

@[simp] theorem reencodes_M71 {w : Nat} (hw : w < 4294967296) (hm : w % 256 = 227) : Reencodes 4 w (decodeM71 w) := by
  unfold decodeM71
  split
  case h_1 => exact .guard fun _ => .guard fun _ => .fields
  case h_2 => exact .error

@[simp] theorem reencodes_M72 {w : Nat} (hw : w < 4294967296) (hm : w % 256 = 229) : Reencodes 4 w (decodeM72 w) := by
  unfold decodeM72
  split
  case h_1 => exact .guard fun _ => .guard fun _ => .fields
  case h_2 => exact .error

@[simp] theorem reencodes_M73 {w : Nat} (hw : w < 4294967296) (hm : w % 256 = 231) : Reencodes 4 w (decodeM73 w) := by
  unfold decodeM73
  split
  case h_1 =>
    exact .select (fun _ => .guard fun _ => .guard fun _ => .guard fun _ => .fields) fun _ =>
      .select (fun _ => .guard fun _ => .guard fun _ => .guard fun _ => .fields) fun _ =>
      .error
  case h_2 => exact .guard fun _ => .guard fun _ => .ok
  case h_3 => exact .error

@[simp] theorem reencodes_M74 {w : Nat} (hw : w < 4294967296) (hm : w % 256 = 233) : Reencodes 4 w (decodeM74 w) := by
  unfold decodeM74
  split
  case h_1 => exact .guard fun _ => .guard fun _ => .guard fun _ => .fields
  case h_2 => exact .error

@[simp] theorem reencodes_M75 {w : Nat} (hw : w < 4294967296) (hm : w % 256 = 235) : Reencodes 4 w (decodeM75 w) := by
  unfold decodeM75
  split
  case h_1 =>
    exact .select (fun _ => .guard fun _ => .guard fun _ => .fields) fun _ =>
      .select (fun _ => .guard fun _ => .guard fun _ => .ok) fun _ =>
      .error
  case h_2 => exact .error

@[simp] theorem reencodes_M76 {w : Nat} (hw : w < 4294967296) (hm : w % 256 = 237) : Reencodes 4 w (decodeM76 w) := by
  unfold decodeM76
  split
  case h_1 | h_2 | h_3 => exact .guard fun _ => .guard fun _ => .ok
  case h_4 => exact .guard fun _ => .guard fun _ => .guard fun _ => .fields
  case h_5 => exact .error

@[simp] theorem reencodes_M77 {w : Nat} (hw : w < 4294967296) (hm : w % 256 = 239) : Reencodes 4 w (decodeM77 w) := by
  unfold decodeM77
  split
  case h_1 | h_2 => exact .guard fun _ => .guard fun _ => .guard fun _ => .fields
  case h_3 => exact .error

@[simp] theorem reencodes_M78 {w : Nat} (hw : w < 4294967296) (hm : w % 256 = 241) : Reencodes 4 w (decodeM78 w) := by
  unfold decodeM78
  split
  case h_1 => exact .guard fun _ => .guard fun _ => .guard fun _ => .fields
  case h_2 => exact .error

@[simp] theorem reencodes_M7F {w : Nat} (hw : w < 4294967296) (hm : w % 256 = 255) : Reencodes 4 w (decodeM7F w) := by
  unfold decodeM7F
  exact .fields

/-! ### Every form, and the bytes -/

@[simp] theorem reads_pad : Reads .pad := .half rfl fun _ => rfl

@[simp] theorem reads_half :
    (∀ f, Reads (.vmov f)) ∧ (∀ f, Reads (.vaddI32H f)) ∧ (∀ f, Reads (.vsubI32H f)) ∧ (∀ f, Reads (.vmulI32H f)) ∧ (∀ f,
      Reads (.vandH f)) ∧
    (∀ f, Reads (.vorH f)) ∧ (∀ f, Reads (.vxorH f)) ∧ (∀ f, Reads (.vshlI32H f)) ∧ (∀ f, Reads (.vsraI32H f)) ∧
    (∀ f, Reads (.vaddF32H f)) ∧ (∀ f, Reads (.vsubF32H f)) ∧ (∀ f, Reads (.vmulF32H f)) ∧ (∀ f, Reads (.vmaxF32H f)) ∧
    (∀ f, Reads (.vminF32H f)) ∧ (∀ f, Reads (.vaddBf16x2H f)) ∧ (∀ f, Reads (.vmulBf16x2H f)) := by
  and_intros <;> intro f
  all_goals
    refine .half rfl fun h => ?_
    dsimp only [Instr.WellFormed] at h
    simp (disch := omega) only [decode16, if_neg, Nat.add_assoc, field_take, field_constant]

/-- Each form by the lemma of its major; what they leave are the events. -/
theorem reads (i : Instr) : Reads i := by
  cases i <;> try simp
  all_goals exact .event rfl

theorem reencodes_half {w : Nat} (hw : w < 65536) (hm : w % 2 = 0) : Reencodes 2 w (decode16 w) := by
  unfold decode16
  refine .select (fun _ => .ok) fun _ => ?_
  split
  case h_17 => exact .error
  all_goals exact .fields

theorem reencodes_word {w : Nat} (hw : w < 4294967296) (hm : w % 2 = 1) : Reencodes 4 w (decode32 w) := by
  unfold decode32
  split <;> simp (disch := omega)

/-! Between the bytes and the word. -/

theorem decode_toBytes_two {x : Nat} (hx : x < 65536) (h0 : x % 2 = 0) (rest : List Byte) {i : Instr} (h : decode16 x = .ok i) :
    decode (toBytes 2 x ++ rest) = .ok (i, 2) := by
  have e : x % 256 + 256 * (x / 256 % 256) = x := by omega
  simp [toBytes, decode, e, h, show x % 256 % 2 = 0 by omega]

theorem decode_toBytes_four {x : Nat} (hx : x < 4294967296) (h1 : x % 2 = 1) (rest : List Byte) {i : Instr} (h : decode32 x = .ok i) :
    decode (toBytes 4 x ++ rest) = .ok (i, 4) := by
  have e : x % 256 + 256 * (x / 256 % 256) + 65536 * (x / 256 / 256 % 256) + 16777216 * (x / 256 / 256 / 256 % 256) = x := by omega
  simp only [toBytes, decode, List.cons_append, BitVec.toNat_ofNat, Nat.reducePow, e, h, show ¬x % 256 % 2 = 0 by omega, if_false]

theorem toBytes_two (b0 b1 : Byte) : toBytes 2 (b0.toNat + 256 * b1.toNat) = [b0, b1] := by
  simp only [toBytes, List.cons.injEq, ← BitVec.toNat_inj, BitVec.toNat_ofNat, and_true]
  omega

theorem toBytes_four (b0 b1 b2 b3 : Byte) :
    toBytes 4 (b0.toNat + 256 * b1.toNat + 65536 * b2.toNat + 16777216 * b3.toNat) = [b0, b1, b2, b3] := by
  simp only [toBytes, List.cons.injEq, ← BitVec.toNat_inj, BitVec.toNat_ofNat, and_true]
  omega

theorem encode_of_encodeWord {i : Instr} {n x : Nat} (h : encodeWord i = some (n, x)) : encode i = some (toBytes n x) := by
  rw [encode, h]

theorem encodeWord_of_encode {i : Instr} {b : List Byte} (h : encode i = some b) : ∃ n x, encodeWord i = some (n, x) ∧ b = toBytes n x := by
  unfold encode at h
  split at h
  next n x e => exact ⟨n, x, e, (Option.some.inj h).symm⟩
  next => cases h

/-- What `decode` answers, it reads from a halfword or from a word. -/
theorem decode_ok {b : List Byte} {i : Instr} {n : Nat} (h : decode b = .ok (i, n)) :
    (∃ x, n = 2 ∧ x < 65536 ∧ x % 2 = 0 ∧ decode16 x = .ok i ∧ toBytes 2 x = b.take 2) ∨
    (∃ x, n = 4 ∧ x < 4294967296 ∧ x % 2 = 1 ∧ decode32 x = .ok i ∧ toBytes 4 x = b.take 4) := by
  unfold decode at h
  split at h
  case h_2 => cases h
  case h_1 b0 b1 t =>
    split at h
    case isTrue h0 =>
      split at h
      case h_2 => cases h
      case h_1 e =>
        cases h
        exact .inl ⟨_, rfl, by omega, by omega, e, toBytes_two b0 b1⟩
    case isFalse h1 =>
      split at h
      case h_2 => cases h
      case h_1 b2 b3 _ =>
        split at h
        case h_2 => cases h
        case h_1 e =>
          cases h
          exact .inr ⟨_, rfl, by omega, by omega, e, toBytes_four b0 b1 b2 b3⟩

/-- Settles O57: every well-formed instruction is read back from its word (`reads`), and its bytes are those of its word. -/
theorem decodeInvertsEncode : Obligations.DecodeInvertsEncode := by
  intro i b rest hi hb
  obtain ⟨n, x, e, rfl⟩ := encodeWord_of_encode hb
  rw [Machine.length_toBytes]
  rcases reads i n x hi e with ⟨rfl, hx, h0, h⟩ | ⟨rfl, hx, h1, h⟩
  · exact decode_toBytes_two hx h0 rest h
  · exact decode_toBytes_four hx h1 rest h

/-- Settles O58: every halfword and every word that decodes has the fields of its instruction as its own bits (`reencodes_half`,
`reencodes_word`). -/
theorem encodeInvertsDecode : Obligations.EncodeInvertsDecode := by
  intro i n b h
  rcases decode_ok h with ⟨x, rfl, hx, h0, e, hb⟩ | ⟨x, rfl, hx, h1, e, hb⟩
  · obtain ⟨hi, he⟩ := reencodes_half hx h0 i e
    exact ⟨hi, by rw [encode_of_encodeWord he, hb]⟩
  · obtain ⟨hi, he⟩ := reencodes_word hx h1 i e
    exact ⟨hi, by rw [encode_of_encodeWord he, hb]⟩

end Sys2Proof.RoundTrip
end

section
/-! PROOFS. A slot's turn runs what its bytes decode to (R55, R61); words written out from the tables (R69, R71, R72). -/

namespace Sys2Proof.Machine

section Turn

variable {s : State} {r : Run} {i : Instr} {n : Nat} {e : DecodeError} {c : Ctx}

/-- A slot in a run whose bytes decode executes the instruction. -/
theorem turnStep_decoded (hr : s.runs.find s.turn = some r) (h : decode r.buf = .ok (i, n)) : turnStep s = exec i s := by
  simp only [turnStep, hr, issueBytes, h]

/-- A slot in a run whose bytes are no instruction takes the trap ILLEGAL. -/
theorem turnStep_undecoded (hr : s.runs.find s.turn = some r) (h : decode r.buf = .error e) (hc : ctxOf s = some c) :
    turnStep s = .next (takeTrap c { code := 0x01 } s) := by
  simp only [turnStep, hr, issueBytes, h, undecoded, hc]
  rfl

theorem step_issue {sl : Nat} {rest : List Act} (h : s.agenda = .issue sl :: rest) :
    step s = settleStep (turnStep { s with tick := s.tick + 1, agenda := rest, turn := sl }) := by
  simp only [step, h]

end Turn

/-- Settles O20: the turn of a slot in a run, by what its bytes decode to. -/
theorem stepRunsTheDecodedInstruction : Obligations.StepRunsTheDecodedInstruction := by
  intro s sl rest r ha hr
  refine ⟨fun i tail h => ?_, fun e c h hc => ?_⟩ <;> rw [step_issue ha]
  · exact congrArg settleStep (turnStep_decoded hr h)
  · exact congrArg settleStep (turnStep_undecoded hr h hc)

/-- Settles O56: each word evaluated. -/
theorem decodeSamples : Obligations.DecodeSamples := by
  refine ⟨?_, rfl, rfl, rfl⟩
  simp only [List.forall_mem_cons]
  exact ⟨rfl, rfl, rfl, rfl, rfl, rfl, rfl, rfl, nofun⟩

end Sys2Proof.Machine
end

section
/-! PROOFS. The operand checks of the lane instructions in their order (R61, R65, R66, R75). -/

namespace Sys2Proof.Machine

section Checks

variable {c : Ctx} {legal : Bool} {n : Nat} {ds os : List VOp}

theorem laneChecks_illegal (h : legal = false) : laneChecks c legal n ds os = .error { code := 0x01, detail := n } := by
  subst h; rfl

theorem laneChecks_temps (hl : legal = true) (h : os.all tempFits = false) :
    laneChecks c legal n ds os = .error { code := 0x01, detail := 0x0A } := by
  subst hl; rw [laneChecks, h]; rfl

theorem laneChecks_role (hl : legal = true) (ht : os.all tempFits = true) (h : c.g.role ≠ .vector) :
    laneChecks c legal n ds os = .error { code := 0x05 } := by
  subst hl; rw [laneChecks, ht, beq_false_of_ne h]; rfl

theorem laneChecks_overlap (hl : legal = true) (ht : os.all tempFits = true) (hr : c.g.role = .vector)
    (h : ds.all (fun a => os.all (apart a)) = false) : laneChecks c legal n ds os = .error { code := 0x03 } := by
  subst hl; rw [laneChecks, ht, hr, h]; rfl

/-- What remains is the window. -/
theorem laneChecks_window (hl : legal = true) (ht : os.all tempFits = true) (hr : c.g.role = .vector)
    (ha : ds.all (fun a => os.all (apart a)) = true) : laneChecks c legal n ds os = match os.findSome? (beyond c.g.w) with
      | some i => .error (.window i)
      | none => .ok () := by
  subst hl; rw [laneChecks, ht, hr, ha]; rfl

end Checks

theorem tempFits_iff (o : VOp) : tempFits o = true ↔ o.temp = false ∨ o.idx + o.n ≤ 8 := by simp [tempFits]

theorem apart_iff (a b : VOp) : apart a b = true ↔
    a.temp ≠ b.temp ∨ (a.idx = b.idx ∧ a.n = b.n) ∨ a.idx + a.n ≤ b.idx ∨ b.idx + b.n ≤ a.idx := by
  simp [apart, or_assoc]

theorem beyond_of_inside {w : Nat} {o : VOp} (h : o.temp = true ∨ o.idx + o.n ≤ w) : beyond w o = none := if_pos h

theorem beyond_of_not_inside {w : Nat} {o : VOp} (h : ¬(o.temp = true ∨ o.idx + o.n ≤ w)) : beyond w o = some (max o.idx w) := if_neg h

/-- Settles O22: the checks by which of them fails first. -/
theorem laneCheckOrder : Obligations.LaneCheckOrder := by
  intro c legal n d srcs
  refine ⟨laneChecks_illegal, fun hl => ⟨fun ⟨o, ho, h⟩ => ?temps, fun hfit => ?fits⟩⟩
  case temps => exact laneChecks_temps hl (List.all_eq_false.mpr ⟨o, ho, (tempFits_iff o).not.mpr h⟩)
  have ht : (d :: srcs).all tempFits = true := List.all_eq_true.mpr fun o ho => (tempFits_iff o).mpr (hfit o ho)
  refine ⟨laneChecks_role hl ht, fun hr => ⟨fun ⟨o, ho, h⟩ => ?overlap, fun hap => ?apart⟩⟩
  case overlap =>
    refine laneChecks_overlap hl ht hr ?_
    rw [List.all_cons, List.all_nil, Bool.and_true]
    exact List.all_eq_false.mpr ⟨o, ho, (apart_iff d o).not.mpr h⟩
  have ha : [d].all (fun a => (d :: srcs).all (apart a)) = true := by
    rw [List.all_cons, List.all_nil, Bool.and_true]
    exact List.all_eq_true.mpr fun o ho => (apart_iff d o).mpr (hap o ho)
  rw [laneChecks_window hl ht hr ha]
  refine ⟨fun pre o post e hpre ho => ?_, fun hin => ?_⟩
  · rw [e, List.findSome?_append, List.findSome?_eq_none_iff.mpr fun x hx => beyond_of_inside (hpre x hx), Option.none_or,
      List.findSome?_cons, beyond_of_not_inside ho]
    rfl
  · rw [List.findSome?_eq_none_iff.mpr fun x hx => beyond_of_inside (hin x hx)]

end Sys2Proof.Machine
end

section
/-! PROOFS. Where a pointer leads (R151 to R154), and which of an instruction's faulting elements decides (R61, R65). -/

namespace Sys2Proof.Machine

/-! ### Lane sets -/

theorem foldl_lane_bits (f : Nat → Bool) (n : Nat) :
    (List.range n).foldl (fun acc L => if f L then acc + 2 ^ L else acc) 0 < 2 ^ n ∧
    ∀ L, L < n → ((List.range n).foldl (fun acc L => if f L then acc + 2 ^ L else acc) 0).testBit L = f L := by
  induction n with
  | zero => exact ⟨by simp, nofun⟩
  | succ n ih =>
    obtain ⟨hlt, hbit⟩ := ih
    simp only [List.range_succ, List.foldl_append, List.foldl_cons, List.foldl_nil]
    generalize (List.range n).foldl (fun acc L => if f L then acc + 2 ^ L else acc) 0 = x at hlt hbit
    refine ⟨by split <;> omega, fun L hL => ?_⟩
    rcases Nat.lt_succ_iff_lt_or_eq.mp hL with h | rfl
    · split
      · rw [Nat.add_comm, Nat.testBit_two_pow_add_gt h, hbit L h]
      · exact hbit L h
    · cases hf : f L
      · simpa [hf] using Nat.testBit_lt_two_pow hlt
      · simp [Nat.add_comm x, Nat.testBit_two_pow_add_eq, Nat.testBit_lt_two_pow hlt]

theorem inSet_laneSet (f : Nat → Bool) {L : Nat} (hL : L < 32) : inSet (laneSet f) L = f L := by
  rw [inSet, laneSet, BitVec.getLsbD_ofNat, (foldl_lane_bits f 32).2 L hL]
  simp [hL]

theorem inSet_liveOf (g : Group) (a : Word32) {L : Nat} (hL : L < 32) : inSet (liveOf g a) L = (inSet a L && g.isLive L) := by
  rw [← inSet_laneSet g.isLive hL]
  exact BitVec.getLsbD_and

theorem laneOf_lt (w e : Nat) : laneOf w e < 32 := by unfold laneOf; omega

/-! ### Where a pointer leads -/

section Places

variable {s : State} {u : Who} {a : Acc} {ptr n : Nat}

theorem bits_space (ptr : Nat) : bits ptr 62 60 = ptr / 2 ^ 60 % 8 := rfl

theorem placeOf_virtual (h : ptr / 2 ^ 60 % 8 = 0) : placeOf s u a ptr n = place0 s u a ptr n := by
  rw [placeOf, bits_space, h]; rfl

theorem placeOf_fabric (h : ptr / 2 ^ 60 % 8 = 1) : placeOf s u a ptr n =
    if ptr % n ≠ 0 then .error { code := 0x08, addr := ptr } else .ok (.fabric (ptr / 2 ^ 48 % 4096) (ptr % 2 ^ 48)) := by
  rw [placeOf, bits_space, h]; rfl

theorem placeOf_sram (h : ptr / 2 ^ 60 % 8 = 2) : placeOf s u a ptr n =
    if ptr % 2 ^ 60 / 2 ^ 29 ≠ 0 ∨ s.dies.testBit (ptr / 2 ^ 26 % 8) = false ∨ s.sramSize (ptr / 2 ^ 26 % 8) ≤ ptr % 2 ^ 26 then
      .error { code := 0x07, detail := 5, addr := ptr }
    else if ptr % n ≠ 0 then .error { code := 0x08, addr := ptr }
    else if ptr / 2 ^ 26 % 8 ∉ s.partDies u.part then .error { code := 0x09, detail := 5, addr := ptr }
    else .ok (.sram (ptr / 2 ^ 26 % 8 * 2 ^ 26 + ptr % 2 ^ 26)) := by
  have hb : bits ptr 59 29 = ptr % 2 ^ 60 / 2 ^ 29 := by unfold bits; omega
  rw [placeOf, bits_space, h]
  simp only [hb, show bits ptr 28 26 = ptr / 2 ^ 26 % 8 from rfl, Bool.not_eq_true', List.contains_eq_mem, decide_eq_false_iff_not]

theorem placeOf_window (h : ptr / 2 ^ 60 % 8 = 3) : placeOf s u a ptr n =
    if 128 * u.w ≤ ptr % 2 ^ 60 then .error { code := 0x06, addr := ptr % 2 ^ 60 / 128 }
    else if ptr % n ≠ 0 then .error { code := 0x08, addr := ptr }
    else .ok (.win (ptr % 2 ^ 60)) := by
  rw [placeOf, bits_space, h]; rfl

theorem placeOf_no_space (h : 4 ≤ ptr / 2 ^ 60 % 8) : placeOf s u a ptr n = .error { code := 0x07, detail := 1, addr := ptr } := by
  unfold placeOf
  dsimp only
  rw [bits_space]
  split
  case h_5 => rfl
  all_goals omega

theorem place0_untranslated {d : Nat} (h : xlate s u a (ptr % 2 ^ 60) = .error d) :
    place0 s u a ptr n = .error { code := 0x07, detail := d, addr := ptr } := by
  simp only [place0, h]

theorem place0_unaligned {x : Xlat} (h : xlate s u a (ptr % 2 ^ 60) = .ok x) (hn : ptr % 2 ^ 60 % n ≠ 0) :
    place0 s u a ptr n = .error { code := 0x08, addr := ptr } := by
  simp only [place0, h]
  exact if_pos hn

theorem place0_denied {x : Xlat} {d : Nat} (h : xlate s u a (ptr % 2 ^ 60) = .ok x) (hn : ptr % 2 ^ 60 % n = 0)
    (hd : permFault u a (ptr % 2 ^ 60) x.leaf = some d) : place0 s u a ptr n = .error { code := 0x09, detail := d, addr := ptr } := by
  simp only [place0, h, hd]
  exact if_neg (not_not.mpr hn)

end Places

/-! ### The faulting elements of an instruction -/

/-- The lanes of faulting elements. -/
def faultLanes (w : Nat) (fs : List (Nat × Trap)) : Nat := fs.foldl (fun m f => m ||| 2 ^ laneOf w f.1) 0

theorem testBit_faultLanes (w : Nat) (fs : List (Nat × Trap)) (L : Nat) :
    (faultLanes w fs).testBit L = fs.any (fun f => laneOf w f.1 == L) := by
  rw [faultLanes, testBit_foldl_or]
  simp [Nat.testBit_two_pow, BEq.beq]

/-- The lanes a trap of faulting elements reports: the live ones of the active set that have such an element. -/
def reportLanes (c : Ctx) (fs : List (Nat × Trap)) : Nat := faultLanes c.g.sew fs &&& (liveOf c.g c.run.aset).toNat

theorem testBit_reportLanes (c : Ctx) (fs : List (Nat × Trap)) {L : Nat} (hL : L < 32) : (reportLanes c fs).testBit L =
    (inSet c.run.aset L && c.g.isLive L && fs.any (fun f => laneOf c.g.sew f.1 == L)) := by
  rw [reportLanes, Nat.testBit_and, testBit_faultLanes, Bool.and_comm, BitVec.testBit_toNat]
  exact congrArg (· && _) (inSet_liveOf c.g c.run.aset hL)

section Worst

variable {c : Ctx} {e k : Nat} {t : Trap} {pre post fs : List (Nat × Trap)} {tok : Option Nat}

/-- The first WINDOW among the faults decides. -/
theorem worst_window (ht : t.code = 6) (hpre : ∀ f ∈ pre, f.2.code ≠ 6) :
    worst c c.g.sew (pre ++ (e, t) :: post) = some { t with lanes := some (reportLanes c (pre ++ (e, t) :: post)) } := by
  have hf : (pre ++ (e, t) :: post).find? (fun f => f.2.code == 6) = some (e, t) :=
    List.find?_eq_some_iff_append.mpr ⟨by simpa using ht, pre, post, rfl, by simpa using hpre⟩
  simp only [worst, hf]; rfl

/-- Without WINDOW, the first fault does. -/
theorem worst_first (h : ∀ f ∈ (e, t) :: post, f.2.code ≠ 6) :
    worst c c.g.sew ((e, t) :: post) = some { t with lanes := some (reportLanes c ((e, t) :: post)) } := by
  have hf : ((e, t) :: post).find? (fun f => f.2.code == 6) = none := List.find?_eq_none.mpr (by simpa using h)
  simp only [worst, hf]; rfl

theorem memChecks_window (ht : t.code = 6) : memChecks c tok (some t) = .error t := if_pos ht

theorem memChecks_no_token (t : Trap) : memChecks c none (some t) = .error t := by rw [memChecks, ite_self]

theorem memChecks_pending (ht : t.code ≠ 6) (hk : c.g.tk.getLsbD k = true) : memChecks c (some k) (some t) = .error { code := 0x0B } := by
  simp only [memChecks, if_neg ht, Group.tokPending, hk]; rfl

theorem memChecks_free (ht : t.code ≠ 6) (hk : c.g.tk.getLsbD k = false) : memChecks c (some k) (some t) = .error t := by
  simp [memChecks, ht, Group.tokPending, hk]

theorem bindable_pending (hk : c.g.tk.getLsbD k = true) : bindable c k = .error { code := 0x0B } := if_pos hk

theorem bindable_free (hk : c.g.tk.getLsbD k = false) : bindable c k = .ok () := if_neg (Bool.not_eq_true _ ▸ hk)

end Worst

/-- Settles O35: the places by the space of the pointer, the faults by the element that decides. -/
theorem pointersAndFaultOrder : Obligations.PointersAndFaultOrder := by
  refine ⟨fun s u a ptr n => ⟨placeOf_no_space, fun hsp => ?fabric, fun hsp => ?sram, fun hsp => ?window, fun hsp => ?virtual⟩,
    fun c fs k => ⟨?none, ?windowFault, ?first⟩⟩
  case fabric =>
    rw [placeOf_fabric hsp]
    exact ⟨fun h => if_pos h, fun h => if_neg (not_not.mpr h)⟩
  case sram =>
    rw [placeOf_sram hsp]
    exact ⟨fun h => if_pos h, fun hb hn => (if_neg hb).trans (if_pos hn),
      fun hb hn hd => (if_neg hb).trans ((if_neg (not_not.mpr hn)).trans (if_pos hd)),
      fun hb hn hd => (if_neg hb).trans ((if_neg (not_not.mpr hn)).trans (if_neg (not_not.mpr hd)))⟩
  case window =>
    rw [placeOf_window hsp]
    exact ⟨fun h => if_pos h, fun hw hn => (if_neg (by omega)).trans (if_pos hn),
      fun hw hn => (if_neg (by omega)).trans (if_neg (not_not.mpr hn))⟩
  case virtual =>
    rw [placeOf_virtual hsp]
    exact ⟨fun d h => place0_untranslated h, fun x h => ⟨place0_unaligned h, fun hn d hd => place0_denied h hn hd⟩⟩
  case none =>
    rintro rfl
    exact ⟨rfl, bindable_pending, bindable_free⟩
  case windowFault =>
    rintro pre e t post rfl ht hpre tok
    rw [worst_window ht hpre]
    exact ⟨_, memChecks_window ht, fun L hL => testBit_reportLanes c _ hL⟩
  case first =>
    rintro e t post rfl h
    rw [worst_first h]
    have ht := h _ List.mem_cons_self
    refine ⟨memChecks_pending ht, ?_⟩
    rintro tok (rfl | ⟨rfl, hk⟩)
    · exact ⟨_, memChecks_no_token _, fun L hL => testBit_reportLanes c _ hL⟩
    · exact ⟨_, memChecks_free ht hk, fun L hL => testBit_reportLanes c _ hL⟩

end Sys2Proof.Machine
end

section
/-! PROOFS. A register written in all its lane words at once, and the moves of the temporaries' copies and of the PCs (R65, R85, R149). -/

namespace Sys2Proof.Tab

variable {α : Type} {t : Tab α} {i : Nat}

theorem del_of_not_mem (h : ∀ e ∈ t, e.1 ≠ i) : del t i = t :=
  List.filter_eq_self.mpr fun e he => bne_iff_ne.mpr (h e he)

theorem del_ins (x : α) (h : ∀ e ∈ t, e.1 ≠ i) : del (ins i x t) i = t := by
  induction t with
  | nil => simp [ins, del]
  | cons e t ih =>
    obtain ⟨k, v⟩ := e
    have hk : k ≠ i := h (k, v) List.mem_cons_self
    have ht : ∀ e ∈ t, e.1 ≠ i := fun e he => h e (List.mem_cons_of_mem _ he)
    unfold ins
    split
    · rw [del, List.filter_cons_of_neg (by simp)]
      exact del_of_not_mem h
    · rw [del, List.filter_cons_of_pos (by simpa using hk)]
      exact congrArg _ (ih ht)

theorem del_set [DecidableEq α] (d x : α) (m : Tab α) (i : Nat) : del (set d m i x) i = del m i := by
  unfold set
  split
  · exact del_of_not_mem (not_mem_del m i)
  · exact del_ins x (not_mem_del m i)

/-- The later of two writes to one key counts. -/
theorem set_set [DecidableEq α] (d x y : α) (m : Tab α) (i : Nat) : set d (set d m i x) i y = set d m i y := by
  rw [set, put, del_set]; rfl

end Sys2Proof.Tab

namespace Sys2Proof.Machine

/-! ### Registers by their lane words -/

theorem laneWord_eq_slot (r : VReg) (L : Nat) : (laneWord r L).toNat = slot r.toNat L := BitVec.toNat_ofNat _ _

theorem ofLanes_eq_sumSlots (f : Nat → Word32) : (ofLanes f).toNat = sumSlots (fun L => (f L).toNat) 32 := by
  have e : (List.range 32).foldl (fun acc L => acc + (f L).toNat * 2 ^ (32 * L)) 0 = sumSlots (fun L => (f L).toNat) 32 := by
    simp only [sumSlots, Nat.mod_eq_of_lt (BitVec.isLt _)]
  rw [ofLanes, e]
  exact toNat_ofNat_of_lt (w := 32 * 32) (sumSlots_lt _ 32)

theorem laneWord_ofLanes (f : Nat → Word32) {L : Nat} (hL : L < 32) : laneWord (ofLanes f) L = f L := by
  apply BitVec.eq_of_toNat_eq
  rw [laneWord_eq_slot, ofLanes_eq_sumSlots, slot_sumSlots _ hL, Nat.mod_eq_of_lt (BitVec.isLt _)]

/-- A register is its lane words. -/
theorem VReg.ext_laneWord {x y : VReg} (h : ∀ L, L < 32 → laneWord x L = laneWord y L) : x = y := by
  apply BitVec.eq_of_toNat_eq
  apply Nat.eq_of_testBit_eq
  intro i
  by_cases hi : i < 1024
  · have hw := congrArg (fun w : Word32 => w.toNat.testBit (i % 32)) (h (i / 32) (by omega))
    simpa [testBit_laneWord, Nat.mod_lt, Nat.div_add_mod] using hw
  · rw [BitVec.testBit_toNat, BitVec.testBit_toNat, BitVec.getLsbD_of_ge x i (by omega), BitVec.getLsbD_of_ge y i (by omega)]

/-! ### All lane words of a register written -/

theorem joinWrs_of_pairwise {ws : List Wr} (h : ws.Pairwise (fun a b => a.loc ≠ b.loc)) : joinWrs ws = ws := by
  induction ws with
  | nil => rfl
  | cons w ws ih =>
    obtain ⟨hne, hp⟩ := List.pairwise_cons.mp h
    have hf : ws.find? (fun x => x.loc == w.loc) = none := List.find?_eq_none.mpr fun x hx e => hne x hx (eq_of_beq e).symm
    rw [joinWrs_cons, ih hp, hf]

theorem setLoc_locV (g : Group) {r L : Nat} (hL : L < 32) (x : Word32) :
    g.setLoc (locV r L) x.toNat = g.vSet r (setLaneWord (g.vGet r) L x) := by
  unfold Group.setLoc locV
  rw [if_neg (by omega), if_neg (by omega), if_neg (by omega), if_neg (by unfold locVl; omega), if_neg (by omega),
    show (65536 + 32 * r + L - 65536) / 32 = r by omega, show (65536 + 32 * r + L) % 32 = L by omega, BitVec.ofNat_toNat,
    BitVec.setWidth_eq]

/-- A lane word written whole. -/
theorem setLoc_wrV (g : Group) {r L : Nat} (hL : L < 32) (x : Word32) :
    g.setLoc (wrV r L x.toNat).loc (merge (g.getLoc (wrV r L x.toNat).loc) (wrV r L x.toNat)) =
      g.vSet r (setLaneWord (g.vGet r) L x) := by
  have hold : g.getLoc (locV r L) < 2 ^ 32 := getLoc_locV g hL ▸ BitVec.isLt _
  rw [show merge (g.getLoc (wrV r L x.toNat).loc) (wrV r L x.toNat) = x.toNat from merge_full _ hold x.isLt]
  exact setLoc_locV g hL x

theorem vSet_vSet (g : Group) (r : Nat) (x y : VReg) : (g.vSet r x).vSet r y = g.vSet r y := by
  simp only [Group.vSet, Tab.set_set]

theorem vGet_vSet (g : Group) (r : Nat) (x : VReg) : (g.vSet r x).vGet r = x := Tab.get_set_self ..

/-- A register with its first lane words replaced. -/
def setLaneWords (x : VReg) (f : Nat → Word32) (n : Nat) : VReg := (List.range n).foldl (fun y L => setLaneWord y L (f L)) x

theorem setLaneWords_succ (x : VReg) (f : Nat → Word32) (n : Nat) :
    setLaneWords x f (n + 1) = setLaneWord (setLaneWords x f n) n (f n) := by simp [setLaneWords, List.range_succ]

theorem laneWord_setLaneWords (x : VReg) (f : Nat → Word32) {n L : Nat} (hn : n ≤ 32) (hL : L < 32) :
    laneWord (setLaneWords x f n) L = if L < n then f L else laneWord x L := by
  induction n with
  | zero => rfl
  | succ n ih =>
    rw [setLaneWords_succ, laneWord_setLaneWord _ _ (by omega) hL, ih (by omega)]
    by_cases h : L = n
    · subst h; simp
    · rw [if_neg h]
      exact if_congr (by omega) rfl rfl

theorem setLaneWords_all (x : VReg) (f : Nat → Word32) : setLaneWords x f 32 = ofLanes f :=
  VReg.ext_laneWord fun L hL => by rw [laneWord_setLaneWords x f le_rfl hL, if_pos hL, laneWord_ofLanes f hL]

/-- The writes of the first lane words of a register. -/
def wordWrs (r : Nat) (f : Nat → Word32) (n : Nat) : List Wr := (List.range n).map (fun L => wrV r L (f L).toNat)

theorem mem_wordWrs {r n : Nat} {f : Nat → Word32} {w : Wr} : w ∈ wordWrs r f n ↔ ∃ L < n, wrV r L (f L).toNat = w := by
  simp [wordWrs]

theorem putEach_wordWrs (g : Group) (r : Nat) (f : Nat → Word32) {n : Nat} (hn : n < 32) :
    g.putEach (wordWrs r f (n + 1)) = g.vSet r (setLaneWords (g.vGet r) f (n + 1)) := by
  induction n with
  | zero => exact setLoc_wrV g hn (f 0)
  | succ n ih =>
    have e : g.putEach (wordWrs r f (n + 1 + 1)) = (g.putEach (wordWrs r f (n + 1))).putEach [wrV r (n + 1) (f (n + 1)).toNat] := by
      rw [wordWrs, List.range_succ, List.map_append]
      exact List.foldl_append
    rw [e, ih (by omega)]
    exact (setLoc_wrV _ hn _).trans (by rw [vGet_vSet, vSet_vSet, ← setLaneWords_succ])

theorem putAll_wordWrs (g : Group) (r : Nat) (f : Nat → Word32) : g.putAll (wordWrs r f 32) = g.vSet r (ofLanes f) := by
  have hp : (wordWrs r f 32).Pairwise (fun a b => a.loc ≠ b.loc) :=
    List.pairwise_map.mpr ((List.pairwise_lt_range (n := 32)).imp fun {a b} h => by simp only [wrV, locV]; omega)
  rw [putAll_eq, joinWrs_of_pairwise hp, putEach_wordWrs g r f (by decide), setLaneWords_all]

/-- An instruction that writes one whole register, sidecars unchanged. -/
theorem does_wordWrs {i : Instr} {sz : Nat} {s : State} {c : Ctx} {f : Ctx → Except Trap State} {r : Nat} (w : Nat → Word32)
    (h : ctxOf s = some c) (hr : r < 256) (he : exec i s = issue sz s f) (hf : f c = .ok (commitW c (wordWrs r w 32) s)) :
    Does i sz c s (c.g.vSet r (ofLanes w)) c.run := by
  rw [← putAll_wordWrs]
  refine does_commit h he hf fun wr hw => ?_
  obtain ⟨L, hL, rfl⟩ := mem_wordWrs.mp hw
  exact isTempLoc_locV hr hL

/-! ### The moves -/

theorem exec_rdts (a n : Nat) (s : State) : exec (.rdts a n) s = execRdts a n s := rfl
theorem exec_wrts (a n : Nat) (s : State) : exec (.wrts a n) s = execWrts a n s := rfl
theorem exec_rdvpc (a : Nat) (s : State) : exec (.rdvpc a) s = execRdvpc a s := rfl

theorem inWindow_ok {c : Ctx} {v : Nat} (h : v < c.g.w) : inWindow c v = .ok () := if_pos h
theorem inWindow_error {c : Ctx} {v : Nat} (h : c.g.w ≤ v) : inWindow c v = .error { code := 0x06, addr := v } := if_neg (by omega)

theorem need_ok {b : Bool} {t : Trap} (h : b = true) : need b t = .ok () := if_pos h

/-- Settles O14: each move by its writes, or by its window check. -/
theorem controlVectorMoves : Obligations.ControlVectorMoves := by
  intro s c v n h hv hn
  refine ⟨fun hw => ⟨?rdts, ⟨c.vr v, ?wrts, fun L hL => ?word⟩, ⟨ofLanes (fun L => BitVec.ofNat 32 (c.g.lane L).word), ?rdvpc,
    fun L hL => ?pc⟩⟩,
    fun hw => ?window⟩
  case rdts =>
    rw [show c.g.ts.get 0 n = ofLanes (laneWord (c.g.ts.get 0 n)) from VReg.ext_laneWord fun L hL => (laneWord_ofLanes _ hL).symm]
    refine does_wordWrs _ h (by omega) (exec_rdts v n s) ?_
    rw [inWindow_ok hw, need_ok (decide_eq_true hn)]; rfl
  case wrts =>
    refine does_updG (u := fun g => { g with ts := g.ts.set 0 n (c.vr v) }) h (exec_wrts v n s) ?_
    rw [inWindow_ok hw, need_ok (decide_eq_true hn)]; rfl
  case word => rw [Ctx.vr, laneWord_ofLanes _ hL, BitVec.toNat_ofNat]
  case rdvpc =>
    refine does_wordWrs _ h (by omega) (exec_rdvpc v s) ?_
    rw [inWindow_ok hw]; rfl
  case pc =>
    rw [laneWord_ofLanes _ hL, BitVec.toNat_ofNat]
    cases c.g.lane L <;> rfl
  case window =>
    simp only [List.forall_mem_cons]
    refine ⟨exec_trap h (exec_rdts v n s) ?_, exec_trap h (exec_wrts v n s) ?_, exec_trap h (exec_rdvpc v s) ?_, nofun⟩
    all_goals rw [inWindow_error hw]
    · rw [need_ok (decide_eq_true hn)]; rfl
    · rw [need_ok (decide_eq_true hn)]; rfl
    · rfl

end Sys2Proof.Machine
end

section
/-! PROOFS. The 16-bit forms on whole words (R63, R227). Their operands are single registers, whose number only the window bounds: what a
reconstruction of them writes lies below the temporaries. -/

namespace Sys2Proof.Machine

/-! ### Writes below the temporaries -/

/-- Writes to words and tags of registers that are no temporaries. -/
def RegWrs (ws : List Wr) : Prop := ∀ w ∈ ws, (∃ reg L, reg < 2000 ∧ L < 32 ∧ w.loc = locV reg L ∧ w.mask < 2 ^ 32) ∨
  ∃ reg, reg < 2000 ∧ w.loc = locTag reg ∧ w.mask = 255

theorem RegWrs.vecWrs {ws : List Wr} (h : RegWrs ws) : VecWrs ws := fun w hw => by
  rcases h w hw with ⟨reg, L, hreg, hL, hloc, hm⟩ | ⟨reg, hreg, hloc, hm⟩
  · rw [hloc]
    exact ⟨isVec_locV reg L, by rw [vecBits_locV]; exact hm⟩
  · rw [hloc, hm, vecBits, if_pos (by unfold locTag; omega)]
    exact ⟨by unfold IsVec locTag locVl; omega, by decide⟩

theorem RegWrs.le_loc {ws : List Wr} (h : RegWrs ws) : ∀ w ∈ ws, 16384 ≤ w.loc := fun w hw => by
  rcases h w hw with ⟨reg, L, -, -, hloc, -⟩ | ⟨reg, -, hloc, -⟩
  · rw [hloc]; unfold locV; omega
  · rw [hloc]; unfold locTag; omega

/-- No temporary is among them: the group alone takes them. -/
theorem RegWrs.heldWord_putAll {ws : List Wr} (h : RegWrs ws) (g : Group) (r : Run) (tick reg : Nat) {L : Nat} (hL : L < 32) :
    heldWord (g.putAll ws) r tick reg L = afterWrs ws (locV reg L) (heldWord g r tick reg L) := by
  rw [heldWord_eq hL, heldWord_eq hL]
  split
  · refine (afterWrs_of_not_mem _ fun w hw hloc => ?_).symm
    rcases h w hw with ⟨reg', L', hreg, hL', hloc', -⟩ | ⟨reg', hreg, hloc', -⟩ <;> rw [hloc'] at hloc
    · unfold locV at hloc; omega
    · unfold locTag locV at hloc; omega
  · exact getLoc_putAll (isVec_locV _ _) h.vecWrs

/-- A location whose writes all replace it by the same value. -/
theorem afterWrs_whole {n l x old : Nat} {ws : List Wr} (hold : old < 2 ^ n) (h : ∀ wr ∈ ws, wr.loc = l → wr.mask = 2 ^ n - 1 ∧
    wr.val = x) :
    afterWrs ws l old = if ∃ wr ∈ ws, wr.loc = l then x % 2 ^ n else old := by
  split
  next hin =>
    obtain ⟨wr, hwr, hloc⟩ := hin
    apply Nat.eq_of_testBit_eq
    intro i
    rw [testBit_afterWrs (b := x.testBit i) (fun wr hwr hloc _ => by rw [(h wr hwr hloc).2]), Nat.testBit_mod_two_pow]
    have hm : ∀ wr ∈ ws, wr.loc = l → wr.mask.testBit i = decide (i < n) := fun wr hwr hloc => by
      rw [(h wr hwr hloc).1, Nat.testBit_two_pow_sub_one]
    by_cases hi : i < n
    · rw [if_pos ⟨wr, hwr, hloc, (hm wr hwr hloc).trans (decide_eq_true hi)⟩, decide_eq_true hi, Bool.true_and]
    · rw [if_neg (fun ⟨wr, hwr, hloc, hbit⟩ => hi (of_decide_eq_true ((hm wr hwr hloc).symm.trans hbit))), decide_eq_false hi,
        Bool.false_and]
      exact Nat.testBit_lt_two_pow (lt_of_lt_of_le hold (Nat.pow_le_pow_right (by decide) (Nat.le_of_not_lt hi)))
  next hnot => exact afterWrs_of_not_mem _ fun wr hwr hloc => hnot ⟨wr, hwr, hloc⟩

/-! ### Reconstruction of single registers -/

section Single

variable {c : Ctx} {F : Fmt} {rc : Recon} {tag : Nat} {k : TagClass} {srcs : List VOp}

theorem reconBlock_regWrs {b u L : Nat} (hF : ElWidth F.bits) (hF8 : 8 ≤ F.bits)
    (hb : b + u ≤ 2000) : RegWrs (reconBlock c F b u L).wrs := by
  unfold reconBlock
  dsimp only
  rw [wrs_foldl_and]
  intro wr hwr
  simp only [List.mem_append, List.mem_flatMap, List.mem_range] at hwr
  rcases hwr with ⟨i, hi, hin⟩ | ⟨j, hj, r, hr, hin⟩
  · rw [wrTag, if_neg (by omega), List.mem_singleton] at hin
    exact .inr ⟨b + i, by omega, by rw [hin], by rw [hin]⟩
  · obtain ⟨L, hL, hloc, hm⟩ := wrElt_loc hF hin
    refine .inl ⟨_, L, ?_, hL, hloc, hm⟩
    have hplace : (r % 4 * 256 + j * F.bits) / F.bits * F.bits / 1024 = 0 := by
      rcases hF with h | h | h | h | h <;> rw [h] at hj ⊢ <;> omega
    rw [hplace]
    simp only [VOp.reg, Bool.false_eq_true, if_false]
    omega

/-- A Haar-tagged register is no temporary: those read tag 0 (R66). -/
theorem lt_of_mem_haarRegs {o : VOp} {x : Nat × Nat} (hx : x ∈ haarRegs c o) : ∃ i, i < o.n ∧ x.1 = o.idx + i ∧ x.1 < 2000 := by
  unfold haarRegs at hx
  split at hx
  · cases hx
  · simp only [List.mem_filterMap, List.mem_range] at hx
    obtain ⟨i, hi, hx⟩ := hx
    split at hx
    next htag =>
      cases hx
      refine ⟨i, hi, rfl, Nat.lt_of_not_le fun hle => ?_⟩
      simp [Ctx.tag, hle] at htag
    next => cases hx

/-- WHAT A RECONSTRUCTION OF SINGLE REGISTERS WRITES. -/
theorem reconstruct_regWrs (h : reconstruct c srcs (some F) = .ok rc) (hF : ElWidth F.bits) (hF8 : 8 ≤ F.bits) (hs : ∀ o ∈ srcs, o.n = 1) :
    RegWrs rc.res.wrs := by
  unfold reconstruct reconRegs at h
  dsimp only at h
  split at h
  · cases h; exact nofun
  · split at h
    · cases h
    · rename_i hall
      split at h
      · cases h
      · split at h
        · cases h
        · cases h
          dsimp only
          rw [wrs_foldl_and]
          intro wr hwr
          simp only [List.nil_append, List.mem_flatMap, List.mem_eraseDups, List.mem_map] at hwr
          obtain ⟨b, ⟨x, ⟨o, ho, y, hy, rfl⟩, rfl⟩, hmem⟩ := hwr
          rw [Bool.not_eq_true, Bool.not_eq_false'] at hall
          have hfit := List.all_eq_true.mp hall _ (List.mem_flatMap.mpr ⟨o, ho, List.mem_map.mpr ⟨y, hy, rfl⟩⟩)
          simp only [Bool.and_eq_true, decide_eq_true_eq, hs o ho] at hfit
          obtain ⟨i, hi, hreg, hlt⟩ := lt_of_mem_haarRegs hy
          exact reconBlock_regWrs hF hF8 (show (haarBlock y.1 y.2).1 + (haarBlock y.1 y.2).2 ≤ 2000 by omega) wr hmem

theorem tagRule_regWrs (h : tagRule c k srcs (some F) = .ok (tag, rc)) (hF : ElWidth F.bits) (hF8 : 8 ≤ F.bits) (hs : ∀ o ∈ srcs, o.n = 1) :
    RegWrs rc.res.wrs := by
  unfold tagRule at h
  split at h
  · cases h; exact nofun
  · cases h; exact nofun
  · cases hr : reconstruct c srcs (some F) with
    | error t => rw [hr] at h; cases h
    | ok rc' =>
      rw [hr] at h
      cases h
      exact reconstruct_regWrs hr hF hF8 hs

end Single

/-! ### The words of a 16-bit form -/

/-- Lane `L` takes part: it is in the active set and the predicate holds (R63). -/
def halfAct (c : Ctx) (f : HF) (L : Nat) : Bool := c.act L && hPred c f L
/-- Its result. -/
def halfRes (c : Ctx) (f : HF) (op : Nat → Nat → ElRes) (L : Nat) : ElRes := op (c.vw f.vd L) (c.vw f.vs L)

/-- The flags of the live lanes that take part, added to `a`. -/
def halfFlags (g : Group) (c : Ctx) (f : HF) (op : Nat → Nat → ElRes) (a : Nat) : Nat :=
  ((List.range 32).filter (fun L => halfAct c f L && g.isLive L)).foldl (fun n L => n ||| (halfRes c f op L).flags) a

section Words

variable {c : Ctx} {f : HF} {op : Nat → Nat → ElRes}

theorem hPred_eq (c : Ctx) (f : HF) (L : Nat) : hPred c f L = (f.m == 0 || (c.m 0).getLsbD L) := by
  unfold hPred
  split <;> simp [*]

theorem hWords_eq (c : Ctx) (f : HF) (op : Nat → Nat → ElRes) : hWords c f op = (List.range 32).foldl (fun acc L => acc.and
    (if halfAct c f L then { wrs := [wrV f.vd L (halfRes c f op L).val], flags := if c.g.isLive L then (halfRes c f op L).flags else 0 }
     else {})) {} := foldl_and_if (halfAct c f) _ _

theorem mem_hWords_wrs {wr : Wr} : wr ∈ (hWords c f op).wrs ↔ ∃ L, L < 32 ∧ halfAct c f L = true ∧
    wr = wrV f.vd L (halfRes c f op L).val := by
  rw [hWords_eq, wrs_foldl_and]
  simp only [List.nil_append, List.mem_flatMap, List.mem_range]
  refine exists_congr fun L => and_congr_right fun _ => ?_
  cases halfAct c f L <;> simp

theorem hWords_sat : (hWords c f op).sat = false := by
  rw [hWords_eq, sat_foldl_and, Bool.false_or, List.any_eq_false]
  intro L _
  cases halfAct c f L <;> simp

/-- Flags come from live lanes that take part. -/
theorem hWords_flags (a b : Nat) : a ||| (b ||| (hWords c f op).flags) =
    halfFlags c.g c f op (a ||| b) := by
  rw [hWords_eq, flags_foldl_and]
  refine foldl_or_filter (fun L _ => ?_) a b
  cases halfAct c f L <;> simp

theorem hWords_regWrs (hvd : f.vd < 256) : RegWrs (hWords c f op).wrs := fun wr hwr => by
  obtain ⟨L, hL, -, rfl⟩ := mem_hWords_wrs.mp hwr
  exact .inl ⟨f.vd, L, by omega, hL, rfl, by simp [wrV]⟩

/-- What a word holds after them. -/
theorem afterWrs_hWords {reg L old : Nat} (hL : L < 32) (hold : old < 2 ^ 32) : afterWrs (hWords c f op).wrs (locV reg L) old =
    if reg = f.vd ∧ halfAct c f L = true then (halfRes c f op L).val % 2 ^ 32 else old := by
  have hmem : ∀ wr, wr ∈ (hWords c f op).wrs ∧ wr.loc = locV reg L ↔
      (reg = f.vd ∧ halfAct c f L = true) ∧ wr = wrV f.vd L (halfRes c f op L).val := by
    intro wr
    rw [mem_hWords_wrs]
    constructor
    · rintro ⟨⟨L', hL', hact, rfl⟩, hloc⟩
      obtain ⟨hreg, rfl⟩ := (locV_inj hL' hL).mp hloc
      exact ⟨⟨hreg.symm, hact⟩, rfl⟩
    · rintro ⟨⟨rfl, hact⟩, rfl⟩
      exact ⟨⟨L, hL, hact, rfl⟩, rfl⟩
  rw [afterWrs_whole (x := (halfRes c f op L).val) hold fun wr hwr hloc => by rw [((hmem wr).mp ⟨hwr, hloc⟩).2]; exact ⟨rfl, rfl⟩]
  simp only [hmem, exists_and_left, exists_eq, and_true]

theorem mem_writtenRegs_hWords {reg : Nat} : reg ∈ writtenRegs ⟨f.vd, 1, false⟩ (hWords c f op).wrs ↔
    reg = f.vd ∧ ∃ L, L < 32 ∧ halfAct c f L = true := by
  simp only [writtenRegs, List.mem_filter, List.mem_map, List.mem_range, List.any_eq_true, Bool.and_eq_true, decide_eq_true_eq,
    mem_hWords_wrs]
  constructor
  · rintro ⟨⟨k, hk, rfl⟩, wr, ⟨L, hL, hact, -⟩, -⟩
    exact ⟨by simp [VOp.reg]; omega, L, hL, hact⟩
  · rintro ⟨rfl, L, hL, hact⟩
    exact ⟨⟨0, by omega, rfl⟩, _, ⟨L, hL, hact, rfl⟩, by simp only [wrV, locV]; omega, by simp only [wrV, locV]; omega⟩

end Words

/-! ### The completion -/

section Done

variable {c : Ctx} {rc : Recon} {o : VOp} {tag : Nat} {ws : List Wr} {gx g1 : Group} {r1 : Run}

/-- Words after the commit, on what the reconstruction left. -/
theorem LaneWritten.heldWord_regWrs (h : LaneWritten c (rc.res.wrs ++ ws ++ tagWrs o tag ws) gx g1 r1) (hrc : RegWrs rc.res.wrs)
    (reg L : Nat) (hL : L < 32) : Machine.heldWord g1 r1 c.tick reg L =
      afterWrs ws (locV reg L) (Machine.heldWord (c.g.putAll rc.res.wrs) c.run c.tick reg L) := by
  rw [h.words reg L hL, afterWrs_append, afterWrs_append, hrc.heldWord_putAll _ _ _ _ hL]
  refine afterWrs_of_not_mem _ fun wr hwr hloc => ?_
  obtain ⟨reg', hreg', hlt, rfl⟩ := mem_tagWrs.mp hwr
  simp only [locTag, locV] at hloc
  omega

/-- Tags after the commit. -/
theorem LaneWritten.tagGet_regWrs (h : LaneWritten c (rc.res.wrs ++ ws ++ tagWrs o tag ws) gx g1 r1) (hrc : RegWrs rc.res.wrs)
    (hws : ∀ wr ∈ ws, 65536 ≤ wr.loc) {reg : Nat} (hreg : reg < 256) :
    g1.tagGet reg = if reg ∈ writtenRegs o ws then BitVec.ofNat 8 tag else (c.g.putAll rc.res.wrs).tagGet reg := by
  apply BitVec.eq_of_toNat_eq
  have hloc := h.locs (locTag reg) (isVec_locTag hreg) (by unfold locTag; omega)
  rw [afterWrs_append, afterWrs_append, ← getLoc_putAll (isVec_locTag hreg) hrc.vecWrs,
    afterWrs_of_not_mem (ws := ws) _ (fun wr hwr e => by have := hws wr hwr; unfold locTag at e; omega),
    getLoc_locTag _ hreg, getLoc_locTag _ hreg, afterWrs_tagWrs hreg (BitVec.isLt _)] at hloc
  rw [hloc]
  split
  · rw [BitVec.toNat_ofNat]
  · rfl

end Done

/-- An element of 32 bits of one window register is a word of it. -/
theorem heldEl_word (g : Group) (r : Run) (tick reg : Nat) {e : Nat} (he : e < 32) :
    heldEl g r tick ⟨reg, 1, false⟩ 32 e = heldWord g r tick reg e := by
  simp only [heldEl, VOp.reg, Bool.false_eq_true, if_false, le_refl, if_true]
  rw [show e * 32 / 1024 = 0 by omega, show e * 32 % 1024 / 32 = e by omega, show e * 32 % 1024 % 32 = 0 by omega, Nat.pow_zero,
    Nat.div_one,
    Nat.add_zero, Nat.mod_eq_of_lt heldWord_lt]

/-- THE COMPLETION OF A 16-BIT FORM: the words of the lanes that take part, the tag of their register, the flags. -/
theorem laneDone_half {i : Instr} {s : State} {c c' : Ctx} {f : HF} {rc : Recon} {tag : Nat} {op : Nat → Nat → ElRes} (h : ctxOf s = some c)
    (hvd : f.vd < 256) (hrc : RegWrs rc.res.wrs) (hlive : ∀ L, c'.g.isLive L = c.g.isLive L)
    (hnext : exec i s = .next (retire 2 c.slot (commitLane c ⟨f.vd, 1, false⟩ tag rc (hWords c' f op) s))) :
    ∃ s1 g r, LaneDone i 2 c s rc ⟨f.vd, 1, false⟩ 32 tag
      (fun L => if halfAct c' f L then some ((halfRes c' f op L).val % 2 ^ 32) else none)
      { c.g with fflags := halfFlags c.g c' f op (c.g.fflags ||| rc.res.flags) } s1 g r := by
  have hd : VOp.exists' ⟨f.vd, 1, false⟩ := ⟨le_rfl, Nat.le_add_left 1 7, by rw [if_neg Bool.false_ne_true]; exact hvd⟩
  have hws := hWords_regWrs (c := c') (op := op) hvd
  have htag := tagWrs_window hd tag (hWords c' f op).wrs
  have hlo : ∀ wr ∈ (hWords c' f op).wrs, 65536 ≤ wr.loc := fun wr hwr => by
    obtain ⟨L, -, -, rfl⟩ := mem_hWords_wrs.mp hwr
    simp only [wrV, locV]; omega
  obtain ⟨g1, r1, honly, hw⟩ := commitLane_written h ⟨f.vd, 1, false⟩ tag rc (hWords c' f op)
    (vecWrs_append.mpr ⟨vecWrs_append.mpr ⟨hrc.vecWrs, hws.vecWrs⟩, htag.vecWrs⟩)
  rw [hWords_flags, hWords_sat, Bool.or_false] at hw
  rw [show halfFlags c'.g c' f op = halfFlags c.g c' f op by funext a; simp only [halfFlags, hlive]] at hw
  have hword := hw.heldWord_regWrs hrc
  refine ⟨_, g1, r1, hnext, honly, fun e he => ?els, fun reg L hL hreg => ?words, fun reg hreg => ?tags, ?group, hw.run⟩
  case els =>
    rw [heldEl_word _ _ _ _ (by omega), heldEl_word _ _ _ _ (by omega), hword f.vd e (by omega), afterWrs_hWords (by omega) heldWord_lt]
    cases halfAct c' f e <;> simp
  case words =>
    rw [hword reg L hL, afterWrs_hWords hL heldWord_lt, if_neg (fun ⟨e, _⟩ => hreg 0 Nat.one_pos e)]
  case tags =>
    rw [hw.tagGet_regWrs hrc hlo hreg]
    refine if_congr ?_ rfl rfl
    rw [mem_writtenRegs_hWords]
    constructor
    · rintro ⟨rfl, L, hL, hact⟩
      exact ⟨rfl, le_rfl, Nat.lt_succ_self _, List.any_eq_true.mpr ⟨L, List.mem_range.mpr hL, by simp [hact]⟩⟩
    · rintro ⟨-, hlo, hhi, hany⟩
      obtain rfl : reg = f.vd := by dsimp only at hlo hhi; omega
      obtain ⟨L, hL, hsome⟩ := List.any_eq_true.mp hany
      refine ⟨rfl, L, List.mem_range.mp hL, ?_⟩
      simpa using hsome
  case group =>
    have hs := hw.scale fun wr hwr => by
      rcases List.mem_append.mp hwr with hwr | hwr
      · exact (List.mem_append.mp hwr).elim (hrc.le_loc wr) (hws.le_loc wr)
      · exact htag.le_loc wr hwr
    rw [hw.group, hs]
    rfl

/-- A 16-bit form whose operation gives the words and flags of `op'`. -/
theorem formHalf_of_half {mk : HF → Instr} {k : TagClass} {F : Fmt} {op op' : Ctx → Nat → Nat → ElRes}
    (he : ∀ f s, exec (mk f) s = half f k F op s) (hF : ElWidth F.bits ∧ 8 ≤ F.bits) (hval : ∀ c x y,
      (op c x y).val % 2 ^ 32 = (op' c x y).val % 2 ^ 32)
    (hfl : ∀ c x y, (op c x y).flags = (op' c x y).flags) : FormHalf mk k F op' := by
  intro s c f h hvd
  obtain ⟨hfail, hpass⟩ := exec_of_laneSteps (d := ⟨f.vd, 1, false⟩) (srcs := [⟨f.vs, 1, false⟩]) (legal := true) (detail := 0)
    (done := fun tag rc => commitLane c ⟨f.vd, 1, false⟩ tag rc (hWords (c.after rc.res.wrs) f (op (c.after rc.res.wrs))) s) h (he f s) rfl
  refine ⟨hfail, fun hchk => ⟨(hpass hchk).1, fun tag rc ht => ?_⟩⟩
  have hrc := tagRule_regWrs ht hF.1 hF.2 (by simp)
  have hdone := laneDone_half h hvd hrc hrc.vecWrs.isLive_after ((hpass hchk).2 tag rc ht)
  simpa only [halfFlags, halfAct, halfRes, hPred_eq, hval, hfl] using hdone

/-! ### The forms -/

theorem exec_vaddI32H (f : HF) (s : State) : exec (.vaddI32H f) s = execVaddI32H f s := rfl
theorem exec_vsubI32H (f : HF) (s : State) : exec (.vsubI32H f) s = execVsubI32H f s := rfl
theorem exec_vmulI32H (f : HF) (s : State) : exec (.vmulI32H f) s = execVmulI32H f s := rfl
theorem exec_vandH (f : HF) (s : State) : exec (.vandH f) s = execVandH f s := rfl
theorem exec_vorH (f : HF) (s : State) : exec (.vorH f) s = execVorH f s := rfl
theorem exec_vxorH (f : HF) (s : State) : exec (.vxorH f) s = execVxorH f s := rfl
theorem exec_vshlI32H (f : HF) (s : State) : exec (.vshlI32H f) s = execVshlI32H f s := rfl
theorem exec_vsraI32H (f : HF) (s : State) : exec (.vsraI32H f) s = execVsraI32H f s := rfl
theorem exec_vaddF32H (f : HF) (s : State) : exec (.vaddF32H f) s = execVaddF32H f s := rfl
theorem exec_vsubF32H (f : HF) (s : State) : exec (.vsubF32H f) s = execVsubF32H f s := rfl
theorem exec_vmulF32H (f : HF) (s : State) : exec (.vmulF32H f) s = execVmulF32H f s := rfl
theorem exec_vmaxF32H (f : HF) (s : State) : exec (.vmaxF32H f) s = execVmaxF32H f s := rfl
theorem exec_vminF32H (f : HF) (s : State) : exec (.vminF32H f) s = execVminF32H f s := rfl
theorem exec_vaddBf16x2H (f : HF) (s : State) : exec (.vaddBf16x2H f) s = execVaddBf16x2H f s := rfl
theorem exec_vmulBf16x2H (f : HF) (s : State) : exec (.vmulBf16x2H f) s = execVmulBf16x2H f s := rfl

theorem f32_width : ElWidth Fmt.f32.bits ∧ 8 ≤ Fmt.f32.bits := by unfold ElWidth; decide
theorem bf16_width : ElWidth Fmt.bf16.bits ∧ 8 ≤ Fmt.bf16.bits := by unfold ElWidth; decide

/-- An integer form: its word is `op'`. -/
theorem formHalf_int {mk : HF → Instr} {op : Nat → Nat → ElRes} {op' : Nat → Nat → Word32}
    (he : ∀ f s, exec (mk f) s = half f .nonlinear .f32 (fun _ => op) s) (hfl : ∀ x y, (op x y).flags = 0)
    (hval : ∀ x y, BitVec.ofNat 32 (op x y).val = op' x y) : FormHalf mk .nonlinear .f32 (fun _ x y => { val := (op' x y).toNat }) :=
  formHalf_of_half he f32_width (fun _ x y => by rw [← hval, BitVec.toNat_ofNat, Nat.mod_mod]) fun _ x y => hfl x y

theorem ofNat_wrapR (i : Int) : BitVec.ofNat 32 (wrapR 32 i).val = BitVec.ofInt 32 i := by
  rw [wrapR_eq, BitVec.ofNat_toNat, BitVec.setWidth_eq]

/-- Settles O27: each form by its operation, the integer ones on the words modulo 2^32. -/
theorem halfwordFormResults : Obligations.HalfwordFormResults := by
  refine ⟨?ints, formHalf_of_half exec_vaddF32H f32_width (fun _ _ _ => rfl) fun _ _ _ => rfl,
    formHalf_of_half exec_vsubF32H f32_width (fun _ _ _ => rfl) fun _ _ _ => rfl,
    formHalf_of_half exec_vmulF32H f32_width (fun _ _ _ => rfl) fun _ _ _ => rfl,
    formHalf_of_half exec_vmaxF32H f32_width (fun _ _ _ => rfl) fun _ _ _ => rfl,
    formHalf_of_half exec_vminF32H f32_width (fun _ _ _ => rfl) fun _ _ _ => rfl,
    formHalf_of_half exec_vaddBf16x2H bf16_width (fun _ _ _ => rfl) fun _ _ _ => rfl,
    formHalf_of_half exec_vmulBf16x2H bf16_width (fun _ _ _ => rfl) fun _ _ _ => rfl⟩
  case ints =>
    simp only [List.forall_mem_cons]
    have none : ∀ (_ _ : Nat), (0 : Nat) = 0 := fun _ _ => rfl
    refine ⟨formHalf_int exec_vaddI32H none fun x y => ?add, formHalf_int exec_vsubI32H none fun x y => ?sub,
      formHalf_int exec_vmulI32H none fun x y => ?mul, formHalf_int exec_vandH none fun x y => ?and,
      formHalf_int exec_vorH none fun x y => ?or, formHalf_int exec_vxorH none fun x y => ?xor,
      formHalf_int exec_vshlI32H none fun x y => ?shl, formHalf_int exec_vsraI32H none fun x y => ?sra, nofun⟩
    case add => rw [ofNat_wrapR, BitVec.ofInt_add, BitVec.ofInt_natCast, BitVec.ofInt_natCast]
    case sub =>
      rw [ofNat_wrapR, Int.sub_eq_add_neg, BitVec.ofInt_add, BitVec.ofInt_neg, BitVec.ofInt_natCast, BitVec.ofInt_natCast,
        BitVec.sub_eq_add_neg]
    case mul => rw [ofNat_wrapR, BitVec.ofInt_mul, BitVec.ofInt_natCast, BitVec.ofInt_natCast]
    case and => exact BitVec.ofNat_and
    case or => exact BitVec.ofNat_or
    case xor => exact BitVec.ofNat_xor
    case shl => simp [← BitVec.toNat_inj, shlR, Nat.shiftLeft_eq]
    case sra =>
      rw [sraR, ofNat_wrapR, intVal_true (by decide), BitVec.sshiftRight, Int.shiftRight_eq_div_pow]

end Sys2Proof.Machine
end

section
/-! PROOFS. A run head whose fetch changes a group. The translation of the body sets A in its leaf entry (R156); where a store that a
`PTSYNC` has made visible is still held for that entry, A goes into the held store too (R163), and held stores are kept in their groups. -/

namespace Sys2Proof.Machine.HeldEntry

/-- A table that maps the second 2^30 bytes to the first of memory's frames above the tables, and the first 2^30, where the tables stand, to
themselves; A is clear in both leaves. The code segment holds a `NOP` behind its first word. -/
def tables : List Host.Cell := [(1, 0x80), (2, 0x04), (0x40000, 0x07), (0x40002, 0x08), (0x80000, 0xC1), (0x80001, 0x01), (0x80008, 0xC1),
  (0x80009, 0x01), (0x8000B, 0x40), (0x40000004, 0x01)]

/-- The second leaf as it stands in memory, stored by the group at its virtual address. -/
def entry : StEl := { ptr := 0x80008, n := 8, nib := none, val := 0x400001C1 }

def launch : Launch := { pkt := 0x1000, priv := true, win := 64, zt := 10, ch := 8, code := 0x40000000, clen := 64 }
def cohort : Cohort := { launch := 1, team := 0, tcoh := 0, core := 0, cidx := 0, gids := [3], nz := 10 }
/-- The group holds the store of the entry, and behind it a `PTSYNC`. -/
def group : Group := { cid := 2, gidx := 0, idx := 0, role := .vector, w := 1024, vpc := List.replicate 32 (.live 0)
                       stq := [.store 5 [(0, entry)], .rel 6 .ptsync] }
/-- At the head of a run of two halfwords. -/
def run : Run := { gid := 3, word := 0, aset := BitVec.allOnes 32, head := true, buf := [0xFF, 2, 0, 0] }

def state : State := { State.reset with nextId := 9, launches := [(1, launch)], cohorts := [(2, cohort)], groups := [(3, group)], runs := [(0, run)]
                                        mem := tables }
def ctx : Ctx := ⟨0, run, group, cohort, launch, 0⟩

theorem ctxOf_state : ctxOf state = some ctx := rfl

/-- The body is fetched. -/
theorem fetchRun_state : fetchRun state (whoOf state ctx) 0 0x2FF = .ok ([0], [1, 0, 0, 0]) := by
  have h : (match fetchRun state (whoOf state ctx) 0 0x2FF with
    | .ok b => b == ([0], [1, 0, 0, 0])
    | .error _ => false) = true := by decide +kernel
  split at h
  next b e => rw [e, eq_of_beq h]
  next => cases h

/-- The held store of group 3 as an outcome leaves it. -/
def heldAfter : Out → List Held
  | .next s => ((s.groups.find 3).map (·.stq)).getD []
  | _ => []

/-- The walker's A is in the held store after the head. -/
theorem heldAfter_runHead : heldAfter (exec (.runHead 0 0 0 2) state) = [.store 5 [(0, { entry with val := 0x400009C1 })],
    .rel 6 .ptsync] := by
  decide +kernel

/-- Refutes O19: the first part says that the groups stay as they are at the head of a run; here the group's held store of the leaf entry
takes the A that the fetch of the body sets in that entry. -/
theorem not_fetchingAndRunHeads : ¬Obligations.FetchingAndRunHeads := by
  rintro ⟨hhead, -⟩
  obtain ⟨-, hruns⟩ := hhead state ctx 0 0 0 2 ctxOf_state (by decide) (by decide) (by decide) (by decide)
  obtain ⟨s1, hnext, hgroups, -⟩ := (hruns rfl).2 [0] [1, 0, 0, 0] fetchRun_state
  have hkept : heldAfter (.next s1) = group.stq := by rw [heldAfter, hgroups]; rfl
  rw [← hnext, heldAfter_runHead] at hkept
  exact absurd hkept (by decide)

end Sys2Proof.Machine.HeldEntry
end

section
/-! PROOFS. What the end of a run leaves in its group: lanes, waits, and all that stays (R58, R85, R87, R90, R129). -/

namespace Sys2Proof.Machine

/-! ### Lanes -/

theorem lane_of_vpc {g : Group} {f : Nat → LanePC} (h : g.vpc = (List.range 32).map f) {L : Nat} (hL : L < 32) : g.lane L = f L := by
  simp [Group.lane, h, List.getD, hL]

theorem vpc_advance (g : Group) (r : Run) : (g.advance r).vpc = (List.range 32).map (fun L => match g.lane L with
    | .live pc => if inSet r.aset L then .live ((r.xfer.find L).getD (pcOf r.next)) else .live pc
    | p => p) := rfl

theorem lane_advance (g : Group) (r : Run) {L : Nat} (hL : L < 32) : (g.advance r).lane L = match g.lane L with
    | .live pc => if inSet r.aset L then .live ((r.xfer.find L).getD (pcOf r.next)) else .live pc
    | p => p := lane_of_vpc (vpc_advance g r) hL

theorem pcOf_next (r : Run) : pcOf r.next = pcOf (r.word + 1 + (r.len + 1) / 2) := by
  rw [Run.next]
  push_cast
  rfl

/-- A live lane stays where it is not in the set that exits. -/
def Group.staysOut (g : Group) (a : Word32) (L : Nat) : Bool := g.isLive L && !inSet a L

/-- A lane of the quad of `L` stays. -/
def Group.quadStays (g : Group) (a : Word32) (L : Nat) : Bool :=
  g.staysOut a (4 * (L / 4)) || g.staysOut a (4 * (L / 4) + 1) || g.staysOut a (4 * (L / 4) + 2) || g.staysOut a (4 * (L / 4) + 3)

theorem vpc_exitLanes (g : Group) (x : Word32) : (g.exitLanes x).vpc = (List.range 32).map (fun L =>
    let quad := (List.range 4).any (fun k => g.staysOut x (4 * (L / 4) + k))
    match g.lane L with
    | .live pc => if inSet x L then (if quad then .helper else .exited) else .live pc
    | .helper => if quad then .helper else .exited
    | .exited => .exited) := rfl

theorem staysOut_live (g : Group) (a : Word32) {L : Nat} (hL : L < 32) : g.staysOut (liveOf g a) L = g.staysOut a L := by
  rw [Group.staysOut, inSet_liveOf g a hL, Group.staysOut]
  cases g.isLive L <;> simp

/-- `exitLanes` of the live lanes of an active set (R85). -/
theorem lane_exitLanes (g : Group) (a : Word32) {L : Nat} (hL : L < 32) : (g.exitLanes (liveOf g a)).lane L = match g.lane L with
    | .live pc => if g.staysOut a L then .live pc else if g.quadStays a L then .helper else .exited
    | .helper => if g.quadStays a L then .helper else .exited
    | .exited => .exited := by
  have hq : (List.range 4).any (fun k => g.staysOut (liveOf g a) (4 * (L / 4) + k)) = g.quadStays a L := by
    simp only [List.range, List.range.loop, List.any_cons, List.any_nil, Bool.or_false, Nat.add_zero, ← Bool.or_assoc, Group.quadStays]
    rw [staysOut_live g a (by omega), staysOut_live g a (by omega), staysOut_live g a (by omega), staysOut_live g a (by omega)]
  rw [lane_of_vpc (vpc_exitLanes g _) hL, hq]
  cases h : g.lane L with
  | live pc =>
    have hlive : g.isLive L = true := by rw [Group.isLive, h]
    simp only [inSet_liveOf g a hL, hlive, Group.staysOut, Bool.and_true, Bool.true_and]
    cases inSet a L <;> rfl
  | helper => rfl
  | exited => rfl

theorem isLive_exitLanes (g : Group) (a : Word32) {L : Nat} (hL : L < 32) : (g.exitLanes (liveOf g a)).isLive L = g.staysOut a L := by
  unfold Group.isLive
  rw [lane_exitLanes g a hL]
  cases h : g.lane L with
  | live pc =>
    cases hs : g.staysOut a L
    · cases g.quadStays a L <;> rfl
    · rfl
  | helper => cases g.quadStays a L <;> simp [Group.staysOut, Group.isLive, h]
  | exited => simp [Group.staysOut, Group.isLive, h]

/-- The group has ended where no lane stays. -/
theorem ended_exitLanes (g : Group) (a : Word32) : (g.exitLanes (liveOf g a)).ended = true ↔ ∀ L, L < 32 → g.staysOut a L = false := by
  have h : (g.exitLanes (liveOf g a)).ended = !(List.range 32).any (g.exitLanes (liveOf g a)).isLive := by
    refine congrArg (!·) ((List.any_map ..).trans (any_congr_mem fun L hL => ?_))
    rw [Group.isLive, lane_of_vpc (vpc_exitLanes g _) (List.mem_range.mp hL)]
    rfl
  rw [h, Bool.not_eq_true', List.any_eq_false]
  simp only [List.mem_range, Bool.not_eq_true]
  exact forall_congr' fun L => forall_congr' fun hL => by rw [isLive_exitLanes g a hL]

/-! ### Waits -/

section Waits

variable {s : State} {gid : Nat} {g : Group}

/-- Launches count as triggered by what their groups have executed, whatever they wait for. -/
theorem isTriggered_waits (ws : List Wait)
    (lid : Nat) : isTriggered (s.updG gid (fun g => { g with waits := ws })) lid = isTriggered s lid := by
  have hg : ∀ j, (match (s.updG gid (fun g => { g with waits := ws })).groups.find j with
      | some g => g.triggered || g.ended
      | none => true) = match s.groups.find j with
      | some g => g.triggered || g.ended
      | none => true := by
    intro j
    by_cases hj : j = gid
    · subst hj
      rw [State.updG, Tab.find_upd_self]
      cases s.groups.find j <;> rfl
    · rw [State.updG, Tab.find_upd_of_ne _ _ hj]
  unfold isTriggered
  rw [show (s.updG gid (fun g => { g with waits := ws })).launches = s.launches from rfl]
  cases s.launches.find lid with
  | none => rfl
  | some l => exact congrArg (fun p => l.finished || (!(s.launchGids lid).isEmpty && (s.launchGids lid).all p)) (funext hg)

/-- Whether a wait holds does not depend on what groups wait for. -/
theorem waitHolds_waits (ws ws' : List Wait) (co : Cohort) (la : Launch) (w : Wait) :
    waitHolds (s.updG gid (fun g => { g with waits := ws })) { g with waits := ws' } co la w = waitHolds s g co la w := by
  cases w with
  | dep => exact congrArg la.deps.all (funext (isTriggered_waits ws))
  | _ => rfl

theorem waitHolds_group (ws : List Wait) (co : Cohort) (la : Launch) (w : Wait) :
    waitHolds s { g with waits := ws } co la w = waitHolds s g co la w := by cases w <;> rfl

theorem meetWaits_cases (gid : Nat) (s : State) :
    meetWaits gid s = s ∨ meetWaits gid s = s.updG gid (fun g => { g with waits := [] }) := by
  unfold meetWaits
  split
  · exact .inl rfl
  · split
    · exact .inl rfl
    · split
      · exact .inl rfl
      · split
        · exact .inr rfl
        · exact .inl rfl

theorem waitsLeft_meetWaits (ws ws' : List Wait) : waitsLeft (meetWaits gid s) { g with waits := ws' } ws = waitsLeft s g ws := by
  rcases meetWaits_cases gid s with e | e <;> rw [e] <;> unfold waitsLeft
  · simp only [funext (waitHolds_group (g := g) ws' _ _)]
  · simp only [funext (waitHolds_waits (g := g) [] ws' _ _)]
    rfl

/-- A run boundary leaves a group its waits, or none where all hold (R129). -/
theorem find_meetWaits (hg : s.groups.find gid = some g) :
    (meetWaits gid s).groups.find gid = some { g with waits := waitsLeft s g g.waits } := by
  unfold meetWaits waitsLeft
  rw [hg]
  dsimp only
  cases s.cohorts.find g.cid with
  | none => exact hg
  | some co =>
    dsimp only
    cases s.launches.find co.launch with
    | none => exact hg
    | some la =>
      dsimp only
      cases hall : g.waits.all (waitHolds s g co la) with
      | false => simpa using hg
      | true =>
        cases hw : g.waits with
        | nil => simp [hg, ← hw]
        | cons w ws => simp [State.updG, hg]

end Waits

/-! ### The end of a run -/

/-- The group as the end of its run leaves it before its waits are tested. -/
def Group.runEnd (g : Group) (r : Run) (tick : Nat) : Group :=
  let g1 := if r.tret then g.leaveTrap r
    else
      let g2 := if r.exits then g.exitLanes (r.aset &&& g.liveSet) else g.advance r
      { g2 with waits := g2.waits ++ r.waits }
  { g1 with parked := r.park && g1.tk != 0, readySince := tick }

section RunEnd

variable {s : State} {slot sz : Nat} {r : Run} {g : Group}

theorem endRun_runEnd (hr : s.runs.find slot = some r) : endRun slot s = stopGroup r.gid (meetWaits r.gid
    (({ s with runs := s.runs.del slot } : State).updG r.gid (fun g => g.runEnd r s.tick))) := by
  unfold endRun
  rw [hr]
  rfl

theorem ending_runEnd (g : Group) (r : Run) (tick : Nat) : (g.runEnd r tick).ending = g.ending := by
  unfold Group.runEnd Group.leaveTrap
  cases r.tret
  · cases r.exits <;> rfl
  · cases g.killEnd
    · cases g.tepc.toNat.testBit 38 <;> rfl
    · rfl

/-- The slot is free. -/
theorem runs_endRun (hr : s.runs.find slot = some r) : (endRun slot s).runs.find slot = none := by
  rw [(endRun_frame hr).1]
  exact Tab.find_del_self ..

/-- A group whose gang goes on is left its waits, or none where all hold. -/
theorem find_endRun (hr : s.runs.find slot = some r) (hg : s.groups.find r.gid = some g) (he : g.ending = false) :
    (endRun slot s).groups.find r.gid = some { g.runEnd r s.tick with
      waits := waitsLeft (endRun slot s) (g.runEnd r s.tick) (g.runEnd r s.tick).waits } := by
  rw [endRun_runEnd hr]
  generalize hu : ({ s with runs := s.runs.del slot } : State).updG r.gid (fun g => g.runEnd r s.tick) = u
  have hgu : u.groups.find r.gid = some (g.runEnd r s.tick) := by rw [← hu, State.updG, Tab.find_upd_self, hg]; rfl
  have hm := find_meetWaits hgu
  have hstop := ((stopGroup_frame r.gid (meetWaits r.gid u)).2.2 _ hm).1 ((ending_runEnd g r s.tick).trans he)
  rw [hstop, hm]
  have hw : waitsLeft (meetWaits r.gid u) (g.runEnd r s.tick) (g.runEnd r s.tick).waits = waitsLeft u (g.runEnd r s.tick)
    (g.runEnd r s.tick).waits :=
    waitsLeft_meetWaits (g := g.runEnd r s.tick) (g.runEnd r s.tick).waits (g.runEnd r s.tick).waits
  rw [hw]

/-- A group whose gang ended meanwhile ends (R90). -/
theorem find_stopGroup {gid : Nat} (hg : s.groups.find gid = some g) (he : g.ending = true) :
    (stopGroup gid s).groups.find gid = some { g.endNow.abortCopies with ending := false } := by
  unfold stopGroup
  rw [hg]
  simp [he, State.updG, State.updC, hg]

theorem find_endRun_ending (hr : s.runs.find slot = some r) (hg : s.groups.find r.gid = some g) (he : g.ending = true) :
    ∃ g0 : Group, (endRun slot s).groups.find r.gid = some { g0.endNow.abortCopies with ending := false } := by
  rw [endRun_runEnd hr]
  generalize hu : ({ s with runs := s.runs.del slot } : State).updG r.gid (fun g => g.runEnd r s.tick) = u
  have hgu : u.groups.find r.gid = some (g.runEnd r s.tick) := by rw [← hu, State.updG, Tab.find_upd_self, hg]; rfl
  exact ⟨_, find_stopGroup (find_meetWaits hgu) ((ending_runEnd g r s.tick).trans he)⟩

theorem runEnd_next (htret : r.tret = false) (hx : r.exits = false) (tick : Nat) : g.runEnd r tick =
    { g.advance r with waits := g.waits ++ r.waits, parked := r.park && g.tk != 0, readySince := tick } := by
  unfold Group.runEnd
  rw [htret, hx]
  rfl

theorem runEnd_exit (htret : r.tret = false) (hx : r.exits = true) (tick : Nat) : g.runEnd r tick =
    { g.exitLanes (liveOf g r.aset) with waits := g.waits ++ r.waits, parked := r.park && g.tk != 0, readySince := tick } := by
  unfold Group.runEnd
  rw [htret, hx]
  rfl

theorem lane_endNow (g : Group) {L : Nat} (hL : L < 32) : ({ g.endNow.abortCopies with ending := false } : Group).lane L = .exited := by
  show (List.replicate 32 LanePC.exited).getD L .exited = .exited
  rw [List.getD, List.getElem?_replicate, if_pos hL]
  rfl

end RunEnd

/-- Settles O6: the group of a run's end as `runEnd` gives it, lane by lane, and its waits as they are tested; or the group ended. -/
theorem runEndMovesLanes : Obligations.RunEndMovesLanes := by
  refine ⟨fun s slot r g hr hg htret hx he => ?goes, fun s slot r g hr hg htret hx he => ?exits, fun s slot r g hr hg he => ?ends⟩
  case goes =>
    have h := find_endRun hr hg he
    rw [runEnd_next htret hx] at h
    refine ⟨_, h, runs_endRun hr, rfl, rfl, fun L hL => ?_⟩
    rw [← pcOf_next]
    exact lane_advance g r hL
  case exits =>
    have h := find_endRun hr hg he
    rw [runEnd_exit htret hx] at h
    exact ⟨_, h, ended_exitLanes g r.aset, fun L hL => lane_exitLanes g r.aset hL⟩
  case ends =>
    obtain ⟨g0, h⟩ := find_endRun_ending hr hg he
    exact ⟨_, h, runs_endRun hr, rfl, rfl, rfl, fun L hL => lane_endNow g0 hL⟩

/-! ### What stays -/

/-- A group without what the end of a run that is no trap return may change in it. -/
def Group.still (g : Group) : Group := { g with vpc := [], ended := false, waits := [], parked := false, readySince := 0 }

theorem still_runEnd {r : Run} (htret : r.tret = false) (g : Group) (tick : Nat) : (g.runEnd r tick).still = g.still := by
  cases hx : r.exits
  · rw [runEnd_next htret hx]; rfl
  · rw [runEnd_exit htret hx]; rfl

/-- The step past an instruction that ends no run. -/
theorem retire_goes_on {s : State} {sz slot : Nat} {r : Run} (hr : s.runs.find slot = some r) (h : sz < r.buf.length) :
    retire sz slot s = s.updR slot (fun r' => { r' with buf := r.buf.drop sz, off := r'.off + sz / 2 }) := by
  unfold retire
  rw [hr]
  exact if_neg (by simpa using h)

/-- The step past an instruction leaves a group whose gang goes on, without a trap return, all but lanes, life, waits and PARK. -/
theorem find_retire_still {s : State} {sz slot : Nat} {r : Run} {g : Group} (hr : s.runs.find slot = some r)
    (hg : s.groups.find r.gid = some g) (htret : r.tret = false) (he : g.ending = false) :
    ∃ g1, (retire sz slot s).groups.find r.gid = some g1 ∧ g1.still = g.still := by
  by_cases h : sz < r.buf.length
  · exact ⟨g, by rw [retire_goes_on hr h]; exact hg, rfl⟩
  · have hb : (r.buf.drop sz).isEmpty = true := by simpa using h
    have hr' : (s.updR slot (fun r' => { r' with buf := r.buf.drop sz, off := r'.off + sz / 2 })).runs.find slot =
        some { r with buf := r.buf.drop sz, off := r.off + sz / 2 } := by rw [State.updR, Tab.find_upd_self, hr]; rfl
    have hend := find_endRun hr' hg he
    unfold retire
    rw [hr]
    dsimp only
    rw [if_pos hb]
    exact ⟨_, hend, still_runEnd (r := { r with buf := r.buf.drop sz, off := r.off + sz / 2 }) htret g s.tick⟩

/-- Settles O7: the frame of the step past an instruction, and what its end of a run leaves in the group. -/
theorem stepPastChangesOnlyItsGroup : Obligations.StepPastChangesOnlyItsGroup := by
  intro s sz slot r g hr hg t
  obtain ⟨hframe, hgroups, hruns, hgroup⟩ := retire_frame (sz := sz) hr
  obtain ⟨hcohorts, g1, hg1, hregs⟩ := hgroup g hg
  refine ⟨hframe, hcohorts, fun a => ?bytes, hgroups, hruns, fun h => ?goesOn, g1, hg1, ?_⟩
  case bytes =>
    show cellGet (retire sz slot s).mem a = _
    rw [hframe]
  case goesOn =>
    rw [show t = _ from retire_goes_on hr h]
    exact ⟨hg, by rw [State.updR, Tab.find_upd_self, hr]; rfl⟩
  have reg : ∀ {α : Type} (f : Group → α), f g1.regs = f g.regs := fun f => congrArg f hregs
  refine ⟨reg (·.s), reg (·.m), reg (·.v), reg (·.scale), reg (·.tag), reg (·.ts), reg (·.th), reg (·.vl), reg (·.vtype), reg (·.frm),
    reg (·.fflags), reg (·.sat), reg (·.sgen), reg (·.dmode), reg (·.fstat), reg (·.fft), reg (·.rpz), reg (·.rstr), reg (·.tcause),
      reg (·.tlanes), reg (·.taddr), fun htret he => ?_⟩
  obtain ⟨g2, hg2, hstill⟩ := find_retire_still (sz := sz) hr hg htret he
  obtain rfl : g1 = g2 := Option.some.inj (hg1.symm.trans hg2)
  have kept : ∀ {α : Type} (f : Group → α), f g1.still = f g.still := fun f => congrArg f hstill
  exact ⟨kept (·.tepc), kept (·.trap), kept (·.tk), kept (·.pend), kept (·.stq), kept (·.conds)⟩

end Sys2Proof.Machine
end

section
/-! PROOFS. Taking a trap: what of the state a trap's entry touches, and what it leaves in its group (R61, R90, R91, R102 to R106). -/

namespace Sys2Proof.Machine

/-! ### The temporaries as a trap copies them -/

/-- The copies of the first `n` temporaries. -/
theorem get_foldl_set {α : Type} [DecidableEq α] (d : α) (f : Nat → α) (n : Nat) {k : Nat} (hk : k < n) :
    Tab.get d ((List.range n).foldl (fun acc k => Tab.set d acc k (f k)) []) k = f k := by
  induction n with
  | zero => omega
  | succ n ih =>
    rw [List.range_succ, List.foldl_append, List.foldl_cons, List.foldl_nil, Tab.get_set]
    split
    next h => rw [h]
    next h => exact ih (by omega)

theorem laneWord_tempsOf (tick : Nat) (r : Run) {k L : Nat} (hk : k < 8) (hL : L < 32) :
    laneWord ((tempsOf tick r).get 0 k) L = (r.t.find (32 * k + L)).getD (Config.freeWord tick (32 * k + L)) := by
  rw [tempsOf, get_foldl_set _ _ 8 hk, laneWord_ofLanes _ hL]

theorem pcOf_natCast (n : Nat) : pcOf n = min n 0xFFFFFFFD := by
  unfold pcOf
  split <;> omega

/-! ### The parts of a trap's entry -/

section Entry

variable {s : State} {c : Ctx} {t : Trap} {gid : Nat} {g : Group} {co : Cohort} {la : Launch} {q : TrapRegs} {aset : Word32}
  {ts : Tab VReg} {rw : List Wait}

/-- Before its entry a trap drops TLB entries and counts: in the rest of the state nothing changes.
(The temporaries' copies get a name here: `tempsOf`, once unfolded, is too large a term to compare.) -/
theorem takeTrap_eq (c : Ctx) (t : Trap) (s : State) : ∃ ts tlb cores, ts = tempsOf c.tick c.run ∧ takeTrap c t s = dateTrap c.run.gid
    (enterTrap c.run.gid (trapRegs t c.run.head c.run.off c.run.word (liveOf c.g c.run.aset)) (liveOf c.g c.run.aset)
      (some ts) c.run.waits { s with tlb := tlb, cores := cores }) := by
  unfold takeTrap dropDenied
  dsimp only
  split
  · split <;> exact ⟨_, _, _, rfl, rfl⟩
  · split <;> exact ⟨_, _, _, rfl, rfl⟩

/-- A group's runs leave their slots. -/
def State.withoutRuns (s : State) (gid : Nat) : State := { s with runs := s.runs.filter (fun r => r.2.gid != gid) }

theorem not_mem_withoutRuns (s : State) (gid : Nat) : ∀ e ∈ (s.withoutRuns gid).runs, e.2.gid ≠ gid := fun e he => by
  simpa using (List.mem_filter.mp he).2

/-- With a handler enabled and TRAP clear the group goes to the handler. -/
theorem enterTrap_handler (hg : s.groups.find gid = some g) (hco : s.cohorts.find g.cid = some co)
    (hla : s.launches.find co.launch = some la)
    (he : g.ending = false) (ht : g.trap = false) (hv : co.tvecEn = true) : enterTrap gid q aset (some ts) rw s =
      (s.withoutRuns gid).updG gid (fun g => { g.enterTrap q aset co.tvecWord with
        ts := ts, runWaits := rw, parked := false }) := by
  unfold enterTrap
  simp only [hg, hco, hla, he, ht, hv]
  rfl

/-- A group whose gang ended during the run ends. -/
theorem enterTrap_ending (hg : s.groups.find gid = some g) (hco : s.cohorts.find g.cid = some co)
    (hla : s.launches.find co.launch = some la)
    (he : g.ending = true) : enterTrap gid q aset (some ts) rw s = stopGroup gid (s.withoutRuns gid) := by
  unfold enterTrap
  simp only [hg, hco, hla, he]
  rfl

theorem vpc_enterTrap (g : Group) (q : TrapRegs) (aset : Word32) (handler : Nat) : (g.enterTrap q aset handler).vpc =
    (List.range 32).map (fun L => match g.lane L with
      | .live pc => if inSet aset L then .live (pcOf handler) else .live pc
      | p => p) := rfl

theorem lane_enterTrap (g : Group) (q : TrapRegs) (aset : Word32) (handler : Nat) {L : Nat} (hL : L < 32) :
    (g.enterTrap q aset handler).lane L = match g.lane L with
      | .live pc => if inSet aset L then .live (min handler 0xFFFFFFFD) else .live pc
      | p => p :=
  pcOf_natCast handler ▸ lane_of_vpc (vpc_enterTrap g q aset handler) hL

theorem find_updG (hg : s.groups.find gid = some g) (f : Group → Group) : (s.updG gid f).groups.find gid = some (f g) := by
  rw [State.updG, Tab.find_upd_self, hg]
  rfl

theorem find_dateTrap_self (hg : s.groups.find gid = some g) : (dateTrap gid s).groups.find gid = some { g with readySince := s.tick } :=
  find_updG hg _

theorem find_dateTrap_of_ne {j : Nat} (h : j ≠ gid) : (dateTrap gid s).groups.find j = s.groups.find j := by
  rw [dateTrap, State.updG, Tab.find_upd_of_ne _ _ h]

end Entry

/-- The group of an instruction that traps, in its handler with the temporaries' copies `ts`. -/
def Ctx.inHandler (c : Ctx) (t : Trap) (ts : Tab VReg) (tick : Nat) : Group :=
  { c.g.enterTrap (trapRegs t c.run.head c.run.off c.run.word (liveOf c.g c.run.aset)) (liveOf c.g c.run.aset) c.co.tvecWord with
    ts := ts, runWaits := c.run.waits, parked := false, readySince := tick }

theorem ts_inHandler (c : Ctx) (t : Trap) (ts : Tab VReg) (tick : Nat) : (c.inHandler t ts tick).ts = ts := rfl

theorem lane_inHandler (c : Ctx) (t : Trap) (ts : Tab VReg)
    (tick : Nat) {L : Nat} (hL : L < 32) : (c.inHandler t ts tick).lane L = match c.g.lane L with
    | .live pc => if inSet (liveOf c.g c.run.aset) L then .live (min c.co.tvecWord 0xFFFFFFFD) else .live pc
    | p => p :=
  lane_enterTrap c.g (trapRegs t c.run.head c.run.off c.run.word (liveOf c.g c.run.aset)) _ _ hL

/-- The trap registers of the handler (R102 to R106). -/
theorem inHandler_eq (c : Ctx) (t : Trap) (ts : Tab VReg) (tick : Nat) : c.inHandler t ts tick = { c.g with
    tcause := BitVec.ofNat 64 (t.detail % 2 ^ 16 * 2 ^ 16 + t.code)
    tepc := BitVec.ofNat 64 (if c.run.head then 2 ^ 38 + c.run.word else c.run.off * 2 ^ 32 + c.run.word)
    tlanes := BitVec.ofNat 64 ((liveOf c.g c.run.aset).toNat * 2 ^ 32 +
      if c.run.head then (liveOf c.g c.run.aset).toNat else t.lanes.getD (liveOf c.g c.run.aset).toNat)
    taddr := BitVec.ofNat 64 t.addr, trap := true, parked := false, runWaits := c.run.waits, readySince := tick
    ts := ts, vpc := (c.inHandler t ts tick).vpc } := by
  have hepc : (trapRegs t c.run.head c.run.off c.run.word (liveOf c.g c.run.aset)).tepc =
      if c.run.head then 2 ^ 38 + c.run.word else c.run.off * 2 ^ 32 + c.run.word := by
    unfold trapRegs
    split <;> exact Nat.add_comm _ _
  have haddr : BitVec.ofNat 64 (t.addr % 2 ^ 64) = BitVec.ofNat 64 t.addr := by
    rw [← BitVec.toNat_inj, BitVec.toNat_ofNat, BitVec.toNat_ofNat, Nat.mod_mod]
  rw [← hepc, ← haddr]
  rfl

/-- An instruction's trap that a handler takes: its group is in the handler, and has no run. -/
theorem takeTrap_handler {s : State} {c : Ctx} (t : Trap) (h : ctxOf s = some c) (ht : c.g.trap = false) (hv : c.co.tvecEn = true)
    (he : c.g.ending = false) : ∃ ts, ts = tempsOf c.tick c.run ∧ (takeTrap c t s).groups.find c.run.gid = some (c.inHandler t ts s.tick) ∧
      (∀ e ∈ (takeTrap c t s).runs, e.2.gid ≠ c.run.gid) ∧
      (∀ j, j ≠ c.run.gid → (takeTrap c t s).groups.find j = s.groups.find j) ∧ (takeTrap c t s).mem = s.mem ∧
      (takeTrap c t s).sram = s.sram ∧ (takeTrap c t s).cohorts = s.cohorts := by
  obtain ⟨-, -, hg, hco, hla, -⟩ := ctxOf_some h
  obtain ⟨ts, tlb, cores, hts, e⟩ := takeTrap_eq c t s
  rw [e, enterTrap_handler (s := { s with tlb := tlb, cores := cores }) hg hco hla he ht hv]
  refine ⟨ts, hts, ?_, not_mem_withoutRuns _ _, fun j hj => ?_, rfl, rfl, rfl⟩
  · exact find_dateTrap_self (find_updG (s := State.withoutRuns { s with tlb := tlb, cores := cores } c.run.gid) hg _)
  · rw [find_dateTrap_of_ne hj, State.updG, Tab.find_upd_of_ne _ _ hj]
    rfl

/-- An instruction's trap in a group whose gang has ended: the group ends. -/
theorem takeTrap_ending {s : State} {c : Ctx} (t : Trap) (h : ctxOf s = some c) (he : c.g.ending = true) :
    (takeTrap c t s).groups.find c.run.gid = some { c.g.endNow.abortCopies with ending := false, readySince := s.tick } ∧
      (∀ e ∈ (takeTrap c t s).runs, e.2.gid ≠ c.run.gid) ∧
      (∀ j, j ≠ c.run.gid → (takeTrap c t s).groups.find j = s.groups.find j) ∧ (takeTrap c t s).mem = s.mem := by
  obtain ⟨-, -, hg, hco, hla, -⟩ := ctxOf_some h
  obtain ⟨ts, tlb, cores, -, e⟩ := takeTrap_eq c t s
  rw [e, enterTrap_ending (s := { s with tlb := tlb, cores := cores }) hg hco hla he]
  generalize hs : State.withoutRuns { s with tlb := tlb, cores := cores } c.run.gid = s0
  have hg0 : s0.groups.find c.run.gid = some c.g := hs ▸ hg
  obtain ⟨hframe, hothers, -⟩ := stopGroup_frame c.run.gid s0
  refine ⟨(find_dateTrap_self (find_stopGroup hg0 he)).trans ?_, fun r hr => ?_, fun j hj => ?_, ?_⟩
  · rw [hframe, ← hs]
    rfl
  · refine not_mem_withoutRuns { s with tlb := tlb, cores := cores } c.run.gid r ?_
    rw [hs]
    exact congrArg State.runs hframe ▸ hr
  · rw [find_dateTrap_of_ne hj, hothers j hj, ← hs]
    rfl
  · exact (congrArg State.mem hframe).trans (hs ▸ rfl)

/-- Settles O16: the entry into the handler, and the end of a group whose gang ended meanwhile. -/
theorem trapEntry : Obligations.TrapEntry := by
  refine ⟨fun s c t h ht hv he => ?handler, fun s c t h he => ?ending⟩
  case handler =>
    obtain ⟨ts, hts, hgroup, hruns, hothers, hmem, hsram, hcohorts⟩ := takeTrap_handler t h ht hv he
    exact ⟨_, hgroup, hruns, hothers, hmem, hsram, hcohorts, inHandler_eq c t ts s.tick,
      fun k L hk hL => by rw [ts_inHandler, hts, laneWord_tempsOf c.tick c.run hk hL], fun L hL => lane_inHandler c t ts s.tick hL⟩
  case ending =>
    obtain ⟨hgroup, hruns, hothers, hmem⟩ := takeTrap_ending t h he
    exact ⟨_, hgroup, hruns, rfl, rfl, fun L hL => lane_endNow c.g hL, rfl, hothers, hmem⟩

end Sys2Proof.Machine
end

section
/-! PROOFS. Branches, jumps and calls: the targets they enter, the links they write, their window checks (R65, R85, R87, R122 to R126). -/

namespace Sys2Proof.Machine

theorem exec_bra (o : Int) (s : State) : exec (.bra o) s = execBra o s := rfl
theorem exec_brm (o : Int) (k : Nat) (s : State) : exec (.brm o k) s = brMask k o (fun b _ L => b L) s := rfl
theorem exec_brmz (o : Int) (k : Nat) (s : State) : exec (.brmz o k) s = brMask k o (fun b _ L => !b L) s := rfl
theorem exec_brany (o : Int) (k : Nat) (s : State) : exec (.brany o k) s = brMask k o (fun b A _ => A.any b) s := rfl
theorem exec_brall (o : Int) (k : Nat) (s : State) : exec (.brall o k) s = brMask k o (fun b A _ => A.all b) s := rfl
theorem exec_bnz (o : Int) (k : Nat) (s : State) : exec (.bnz o k) s = execBnz o k s := rfl
theorem exec_bz (o : Int) (k : Nat) (s : State) : exec (.bz o k) s = execBz o k s := rfl
theorem exec_jmp (k : Nat) (s : State) : exec (.jmp k) s = execJmp k s := rfl
theorem exec_jmpv (k : Nat) (s : State) : exec (.jmpv k) s = execJmpv k s := rfl
theorem exec_call (o : Int) (b : Nat) (s : State) : exec (.call o b) s = execCall o b s := rfl
theorem exec_calli (a b : Nat) (s : State) : exec (.calli a b) s = execCalli a b s := rfl
theorem exec_callv (a b : Nat) (s : State) : exec (.callv a b) s = execCallv a b s := rfl

/-- The lanes a transfer moves: the live ones of the active set (R122). -/
def Ctx.movers (c : Ctx) : List Nat := lanesOf (liveOf c.g c.run.aset)

theorem lt_of_mem_movers {c : Ctx} {L : Nat} (h : L ∈ c.movers) : L < 32 := List.mem_range.mp (List.mem_filter.mp h).1

theorem setXfer_eq (c : Ctx) (f : Nat → Option Nat) (s : State) : setXfer c f s = s.updR c.slot (fun r => r.target c.movers f) := rfl

theorem unnoted_target (r : Run) (l : List Nat) (f : Nat → Option Nat) : (r.target l f).unnoted = r.unnoted.target l f := rfl

theorem here_eq (c : Ctx) : c.here = (c.run.word + 1 + c.run.off / 2 : Nat) := by
  rw [Ctx.here]
  push_cast
  rfl

theorem isTempLoc_of_mem_linkW {c : Ctx} {b : Nat} (hb : b < 256) : ∀ w ∈ linkW c b, isTempLoc w.loc = false := fun w hw => by
  obtain ⟨L, hL, rfl⟩ := List.mem_map.mp hw
  exact isTempLoc_locV hb (lt_of_mem_movers hL)

/-- Writes of window registers: the issuing group holds them, its run keeps all but notes. -/
theorem commitW_window {s : State} {c : Ctx} {ws : List Wr} (h : ctxOf s = some c) (hw : ∀ w ∈ ws, isTempLoc w.loc = false) :
    ∃ g r, OnlyIssuer c s (commitW c ws s) g r ∧ g.unnoted = (c.g.putAll ws).unnoted ∧ r.unnoted = c.run.unnoted := by
  obtain ⟨g, r, honly, hg, hr⟩ := commitW_only ws (OnlyIssuer.refl h)
  have hj : ∀ w ∈ joinWrs ws, isTempLoc w.loc = false := fun w hm => by
    obtain ⟨x, hx, e⟩ := joinWrs_loc hm
    exact e ▸ hw x hx
  exact ⟨g, r, honly, by rw [hg, List.filter_eq_self.mpr (by simpa using hj), putAll_eq], by rw [hr, putTemps_window _ _ hj]⟩

section Transfers

variable {i : Instr} {sz : Nat} {s : State} {c : Ctx} {F : Ctx → Except Trap State} {f t : Nat → Option Nat}

/-- A transfer without a link. -/
theorem does_transfer (h : ctxOf s = some c) (he : exec i s = issue sz s F) (hF : F c = .ok (setXfer c f s)) (hf : f = t) :
    Does i sz c s c.g (c.run.target c.movers t) := hf ▸ does_updR h he hF

/-- A branch on a mask register (R124). -/
theorem does_brMask {o : Int} {k : Nat} {take : (Nat → Bool) → List Nat → Nat → Bool} (h : ctxOf s = some c)
    (he : exec i s = brMask k o take s)
    (ht : (fun L => if take (fun K => (c.m k).getLsbD K) c.movers L then some (pcOf (c.here + o)) else none) = t) :
    Does i 4 c s c.g (c.run.target c.movers t) := does_transfer h he rfl ht

/-- A transfer that writes a link to `b` (R123). -/
theorem does_call {b : Nat} (h : ctxOf s = some c) (hb : b < 256) (he : exec i s = issue sz s F)
    (hF : F c = .ok (setXfer c f (commitW c (linkW c b) s))) (hf : f = t) :
    Does i sz c s (c.g.putAll (linkW c b)) (c.run.target c.movers t) := by
  obtain ⟨g, r, honly, hg, hr⟩ := commitW_window h (isTempLoc_of_mem_linkW hb)
  exact ⟨_, g, r.target c.movers f, he.trans (issue_ok h hF), honly.updR _, hg, by rw [unnoted_target, hr, hf]; rfl⟩

end Transfers

/-- A branch to a place relative to itself enters the word the statement names (R122). -/
theorem relative_target (c : Ctx) (o : Int) : pcOf (c.here + o) = pcOf ((c.run.word + 1 + c.run.off / 2 : Nat) + o) := by rw [here_eq]

/-- Settles O4: transfers by the targets they enter, calls with their link beside; the window checks first. -/
theorem controlTransfers : Obligations.ControlTransfers := by
  refine ⟨fun s c o k h => ?_, fun s c o a b h hb => ?_⟩
  · refine ⟨does_transfer h (exec_bra o s) rfl ?bra, does_brMask h (exec_brm o k s) ?brm, does_brMask h (exec_brmz o k s) ?brmz,
      does_brMask h (exec_brany o k s) ?brany, does_brMask h (exec_brall o k s) ?brall, does_transfer h (exec_bnz o k s) rfl ?bnz,
      does_transfer h (exec_bz o k s) rfl ?bz, does_transfer h (exec_jmp k s) rfl rfl, fun hk => ?jmpv⟩
    case bra => rw [relative_target]
    case brm => rw [relative_target]
    case brmz =>
      funext L
      rw [relative_target]
      by_cases hm : (c.m k).getLsbD L = true
      · rw [if_neg (by simp [hm]), if_pos hm]
      · rw [if_pos (by simp [hm]), if_neg hm]
    case brany => simp only [relative_target, List.any_eq_true, Ctx.movers]
    case brall => simp only [relative_target, List.all_eq_true, Ctx.movers]
    case bnz => rw [relative_target]
    case bz => rw [relative_target]
    case jmpv =>
      refine does_transfer h (exec_jmpv k s) ?_ rfl
      rw [inWindow_ok hk]
      rfl
  · refine ⟨fun hw => ⟨?call, ?calli, fun ha => ?callv⟩, fun hw => ⟨?callOut, ?calliOut, ?callvOut⟩, fun hw ha => ?callvTarget, fun ha => ?jmpvOut⟩
    case call =>
      rw [← relative_target]
      refine does_call h hb (exec_call o b s) ?_ rfl
      rw [inWindow_ok hw]
      rfl
    case calli =>
      refine does_call h hb (exec_calli a b s) ?_ rfl
      rw [inWindow_ok hw]
      rfl
    case callv =>
      refine does_call h hb (exec_callv a b s) ?_ rfl
      rw [inWindow_ok hw, inWindow_ok ha]
      rfl
    case callOut =>
      refine exec_trap h (exec_call o b s) ?_
      rw [inWindow_error hw]
      rfl
    case calliOut =>
      refine exec_trap h (exec_calli a b s) ?_
      rw [inWindow_error hw]
      rfl
    case callvOut =>
      refine exec_trap h (exec_callv a b s) ?_
      rw [inWindow_error hw]
      rfl
    case callvTarget =>
      refine exec_trap h (exec_callv a b s) ?_
      rw [inWindow_ok hw, inWindow_error ha]
      rfl
    case jmpvOut =>
      refine exec_trap h (exec_jmpv a s) ?_
      rw [inWindow_error ha]
      rfl

end Sys2Proof.Machine
end

section
/-! PROOFS. The trap return: what `TRET` refuses, how it marks its run, and what the end of that run restores (R107). -/

namespace Sys2Proof.Machine

/-! ### The checks of `TRET` -/

/-- The lanes `tlanes`.ASET names (R106). -/
def Group.savedSet (g : Group) : Word32 := BitVec.ofNat 32 (g.tlanes.toNat / 2 ^ 32)
/-- The live ones among them, which `TRET` has to be executed by (R107). -/
def Group.returnSet (g : Group) : Word32 := g.savedSet &&& g.liveSet
/-- `tepc`.WORD (R105). -/
def Group.epcWord (g : Group) : Nat := g.tepc.toNat % 2 ^ 32
/-- `tepc`.OFF (R105). -/
def Group.epcOff (g : Group) : Nat := g.tepc.toNat / 2 ^ 32 % 64

/-- What a return into a run keeps of it, read from its head and its body (R107). -/
def Group.resumeAt (g : Group) (head : Nat) (body : List Byte) : Resume :=
  { word := g.epcWord, off := g.epcOff, aset := g.savedSet, len := headLen head, tmp := headTmp head, park := headPark head
    await := headAwait head, buf := body.drop (2 * g.epcOff) }

/-- `TRET` with HEAD = 0 in the right active set: it reads the run at `tepc`.WORD (R107). -/
def returnInside (s : State) (c : Ctx) (u : Who) : Except Trap State :=
  match fetchWord s u c.g.epcWord with
  | .error _ => .error (.illegal 0x000B)
  | .ok h =>
    if !isHead h then .error (.illegal 0x000B)
    else match fetchRun s u c.g.epcWord h with
      | .error _ => .error (.illegal 0x000B)
      | .ok (offs, body) =>
        if c.g.epcOff ≠ headLen h ∧ !offs.contains c.g.epcOff then .error .illegal
        else .ok (s.updR c.slot (fun r => { r with tret := true, res := some (c.g.resumeAt h body) }))

/-- The effect of `TRET`: in another active set none, to a head, into a run (R107). -/
def tretEffect (s : State) (c : Ctx) : Except Trap State :=
  if liveOf c.g c.run.aset ≠ c.g.returnSet then .error .illegal
  else if c.g.tepc.getLsbD 38 then .ok (s.updR c.slot (fun r => { r with tret := true }))
  else match whoOfGid s c.run.gid with
    | none => .error .illegal
    | some u => returnInside s c u

theorem exec_tret (s : State) : exec .tret s = issue 4 s (tretEffect s) := rfl

section Tret

variable {s : State} {c : Ctx} {h : Nat} {t : Trap}

theorem exec_tret_otherSet (hc : ctxOf s = some c) (hne : liveOf c.g c.run.aset ≠ c.g.returnSet) :
    exec .tret s = .next (takeTrap c { code := 0x01 } s) := exec_trap hc (exec_tret s) (if_pos hne)

theorem does_tret_head (hc : ctxOf s = some c) (hset : liveOf c.g c.run.aset = c.g.returnSet) (hh : c.g.tepc.getLsbD 38 = true) :
    Does .tret 4 c s c.g { c.run with tret := true } :=
  does_updR hc (exec_tret s) (u := fun r => { r with tret := true }) ((if_neg (not_not_intro hset)).trans (if_pos hh))

variable (hc : ctxOf s = some c) (hset : liveOf c.g c.run.aset = c.g.returnSet) (hh : c.g.tepc.getLsbD 38 = false)

include hc hset hh

/-- In the right active set, with HEAD = 0, `TRET` does what reading the run gives. -/
theorem tretEffect_inside : tretEffect s c = returnInside s c (whoOf s c) := by
  rw [tretEffect, if_neg (not_not_intro hset), if_neg (Bool.eq_false_iff.mp hh), whoOfGid_of_ctx hc]

theorem exec_tret_refused (he : returnInside s c (whoOf s c) = .error t) : exec .tret s = .next (takeTrap c t s) :=
  exec_trap hc (exec_tret s) ((tretEffect_inside hc hset hh).trans he)

theorem does_tret_inside {res : Resume}
    (ho : returnInside s c (whoOf s c) = .ok (s.updR c.slot (fun r => { r with tret := true, res := some res }))) :
    Does .tret 4 c s c.g { c.run with tret := true, res := some res } :=
  does_updR hc (exec_tret s) (u := fun r => { r with tret := true, res := some res }) ((tretEffect_inside hc hset hh).trans ho)

end Tret

section Reading

variable {s : State} {c : Ctx} {u : Who} {h : Nat} {e : Trap} {offs : List Nat} {body : List Byte}

theorem returnInside_noWord (hw : fetchWord s u c.g.epcWord = .error e) : returnInside s c u = .error { code := 0x01, detail := 0x0B } := by
  rw [returnInside, hw]
  rfl

variable (hw : fetchWord s u c.g.epcWord = .ok h)

include hw

theorem returnInside_noHead (hh : isHead h = false) : returnInside s c u = .error { code := 0x01, detail := 0x0B } := by
  rw [returnInside, hw]
  dsimp only
  rw [hh]
  rfl

variable (hh : isHead h = true)

include hh

theorem returnInside_noRun (hr : fetchRun s u c.g.epcWord h = .error e) : returnInside s c u = .error { code := 0x01, detail := 0x0B } := by
  rw [returnInside, hw]
  dsimp only
  rw [hh, hr]
  rfl

variable (hr : fetchRun s u c.g.epcWord h = .ok (offs, body))

include hr

/-- OFF begins an instruction, or stands behind the last: the return can take place. -/
theorem returnInside_run : returnInside s c u = if c.g.epcOff ≠ headLen h ∧ c.g.epcOff ∉ offs then .error { code := 0x01 }
    else .ok (s.updR c.slot (fun r => { r with tret := true, res := some (c.g.resumeAt h body) })) := by
  rw [returnInside, hw]
  dsimp only
  rw [hh, hr]
  simp only [Bool.not_true, Bool.false_eq_true, if_false, Bool.not_eq_true', List.contains_eq_mem, decide_eq_false_iff_not]
  rfl

end Reading

/-! ### The end of the run -/

theorem inSet_savedSet (g : Group) {L : Nat} (hL : L < 32) : inSet g.savedSet L = g.tlanes.getLsbD (32 + L) := by
  rw [inSet, Group.savedSet, BitVec.getLsbD_ofNat, Nat.testBit_div_two_pow]
  simp [hL, BitVec.getLsbD, Nat.add_comm]

/-- `tepc` with WAIT cleared. -/
theorem getLsbD_clearWait (x : Word64) {b : Nat} (hb : b < 64) :
    (BitVec.ofNat 64 (setBits x.toNat 39 1 0)).getLsbD b = if b = 39 then false else x.getLsbD b := by
  rw [BitVec.getLsbD_ofNat, testBit_setBits, decide_eq_true hb, Bool.true_and, Nat.zero_testBit]
  exact if_congr (by omega) rfl rfl

/-- A lane after a trap return (R107). -/
def Group.returned (g : Group) (L : Nat) : LanePC :=
  match g.lane L with
  | .live pc => if inSet g.savedSet L then .live (pcOf g.epcWord) else .live pc
  | p => p

/-- What a trap return leaves in a group that no condition ends (R107). -/
theorem leaveTrap_eq {g : Group} (r : Run) (hk : g.killEnd = false) : g.leaveTrap r = { g with
    trap := false
    vpc := (List.range 32).map g.returned
    waits := r.waits ++ (if g.tepc.getLsbD 39 then g.keptWaits else [])
    keptWaits := []
    tepc := BitVec.ofNat 64 (setBits g.tepc.toNat 39 1 0)
    resume := if g.tepc.getLsbD 38 then none else r.res
    runWaits := if g.tepc.getLsbD 38 then [] else g.runWaits } := by
  unfold Group.leaveTrap
  rw [hk]
  cases hh : g.tepc.getLsbD 38 <;> simp only [BitVec.getLsbD] at hh <;> rw [hh] <;> rfl

theorem runEnd_tret {g : Group} {r : Run} (hr : r.tret = true) (tick : Nat) : g.runEnd r tick =
    { g.leaveTrap r with parked := r.park && (g.leaveTrap r).tk != 0, readySince := tick } := by
  rw [Group.runEnd, hr]
  rfl

/-- Settles O18: the checks in their order by what `TRET` reads, and the fields that the end of its run restores. -/
theorem trapReturn : Obligations.TrapReturn := by
  refine ⟨fun s c hc => ⟨exec_tret_otherSet hc, does_tret_head hc, fun hset hh => ⟨fun e hw => ?noWord, fun h hw => ⟨fun hn => ?noHead,
    fun hhead => ⟨fun e hr => ?noRun, fun offs body hr => ⟨fun hoff hnot => ?noOff, fun hoff => ?goes⟩⟩⟩⟩⟩,
    fun s slot r g hr hg htret hk he => ?restores⟩
  case noWord => exact exec_tret_refused hc hset hh (returnInside_noWord hw)
  case noHead => exact exec_tret_refused hc hset hh (returnInside_noHead hw hn)
  case noRun => exact exec_tret_refused hc hset hh (returnInside_noRun hw hhead hr)
  case noOff => exact exec_tret_refused hc hset hh ((returnInside_run hw hhead hr).trans (if_pos ⟨hoff, hnot⟩))
  case goes =>
    have hno : ¬(c.g.epcOff ≠ headLen h ∧ c.g.epcOff ∉ offs) := fun hn => hoff.elim hn.1 hn.2
    exact ⟨c.g.resumeAt h body, does_tret_inside hc hset hh ((returnInside_run hw hhead hr).trans (if_neg hno)),
      rfl, rfl, rfl, rfl, rfl, rfl, rfl, rfl⟩
  case restores =>
    have h := find_endRun hr hg he
    rw [runEnd_tret htret, leaveTrap_eq r hk] at h
    refine ⟨_, h, runs_endRun hr, rfl, fun b hb => getLsbD_clearWait g.tepc hb, rfl, rfl, fun hh => if_pos hh,
      fun hh => if_neg (Bool.eq_false_iff.mp hh), rfl, rfl, rfl, rfl, rfl, rfl, rfl, fun L hL => ?_⟩
    refine (lane_of_vpc (f := g.returned) rfl hL).trans ?_
    rw [Group.returned, inSet_savedSet g hL]
    rfl

end Sys2Proof.Machine
end

section
/-! PROOFS. The steps that run no instruction of a slot: the pick at a run boundary, an event, a time that passes no deadline (R99). -/

namespace Sys2Proof.Machine

section Agenda

variable {s : State} {rest : List Act}

theorem step_issue_boundary {sl : Nat} (ha : s.agenda = .issue sl :: rest) (hr : s.runs.find sl = none) :
    step s = settleStep (exec (.slotPick sl) { s with tick := s.tick + 1, agenda := rest, turn := sl }) := by
  rw [step_issue ha, turnStep, hr]
  rfl

theorem step_event {i : Instr} (ha : s.agenda = .event i :: rest) :
    step s = settleStep (exec i { s with tick := s.tick + 1, agenda := rest }) := by
  simp only [step, ha]

theorem step_time {d : Nat} (ha : s.agenda = .time d :: rest) :
    step s = settleStep (.next (timeStep d { s with tick := s.tick + 1, agenda := rest })) := by
  simp only [step, ha]

/-- Nothing happens at an instant at which nothing is due. -/
theorem atInstant_none (h : ∀ e ∈ deadlines s, s.now < e.1) : atInstant s = none := by
  have hdue : (deadlines s).filter (fun e => decide (e.1 ≤ s.now)) = [] :=
    List.filter_eq_nil_iff.mpr fun e he => by simpa using h e he
  rw [atInstant, hdue]
  split <;> rfl

theorem foldl_min_eq {d : Nat} {l : List Nat} (h : ∀ x ∈ l, d ≤ x) : l.foldl min d = d := by
  induction l with
  | nil => rfl
  | cons x l ih =>
    obtain ⟨hx, hl⟩ := List.forall_mem_cons.mp h
    rw [List.foldl_cons, Nat.min_eq_left hx, ih hl]

/-- A time that ends before every later deadline passes whole. -/
theorem untilNext_eq {d : Nat} (h : ∀ e ∈ deadlines s, s.now + d ≤ e.1) : untilNext s d = d := by
  refine foldl_min_eq fun x hx => ?_
  obtain ⟨e, he, rfl⟩ := List.mem_map.mp hx
  have := h e (List.mem_filter.mp he).1
  omega

theorem timeStep_free {d : Nat} (h : ∀ e ∈ deadlines s, s.now < e.1 ∧ s.now + d ≤ e.1) : timeStep d s = passTime d s := by
  rw [timeStep, atInstant_none fun e he => (h e he).1]
  dsimp only
  rw [untilNext_eq fun e he => (h e he).2, if_neg (Nat.lt_irrefl d)]

/-- Changes of cores alone, one after another, change cores alone. -/
theorem foldl_cores {α : Type} (f : State → α → State) (hf : ∀ s a, ∃ cores, f s a = { s with cores := cores }) (l : List α) (s : State) :
    ∃ cores, l.foldl f s = { s with cores := cores } := by
  induction l generalizing s with
  | nil => exact ⟨s.cores, rfl⟩
  | cons a l ih =>
    obtain ⟨cores, e⟩ := hf s a
    rw [List.foldl_cons, e]
    exact ih _

/-- Time passing counts clocks and occupied cores, and nothing else. -/
theorem passTime_eq (d : Nat) (s : State) : ∃ cores launches fxcnt,
    passTime d s = { s with now := s.now + d, cores := cores, launches := launches, fxcnt := fxcnt } := by
  unfold passTime
  dsimp only
  obtain ⟨cores, e⟩ := foldl_cores (fun s' k => if stalledExpansions s' k = 0 then s' else s'.updCore k (fun q =>
      { q with mcnt := q.mcnt.set 0 4 ((q.mcnt.get 0 4 + stalledExpansions s' k *
        ((s.now + d) * (s.therms (clusterOf k)).clock / 400 - s.now * (s.therms (clusterOf k)).clock / 400)) % 2 ^ 64) }))
    (fun s k => by split <;> exact ⟨_, rfl⟩) s.cores.keys s
  rw [e]
  exact ⟨_, _, _, rfl⟩

end Agenda

/-- Settles O21: what the agenda names, and the time that passes by its parts. -/
theorem stepFollowsTheAgenda : Obligations.StepFollowsTheAgenda := by
  refine fun s rest => ⟨fun sl => step_issue_boundary, fun i => step_event, fun d ha hd => ?time⟩
  case time =>
    obtain ⟨cores, launches, fxcnt, e⟩ := passTime_eq d { s with tick := s.tick + 1, agenda := rest }
    refine ⟨_, step_time ha, ?_⟩
    rw [timeStep_free (s := { s with tick := s.tick + 1, agenda := rest }) hd, e]
    exact ⟨rfl, rfl, rfl, rfl⟩

end Sys2Proof.Machine
end

section
/-! PROOFS. What reset and the start of a group leave (R95, R138, R148, R167, R403, R404, R410). -/

namespace Sys2Proof.Machine

theorem cfgGet_reset (off : Nat) : State.reset.cfgGet off = 0 := rfl

theorem rankOf_reset (k : Nat) : State.reset.rankOf k = none := by
  rw [State.rankOf, cfgGet_reset]
  rfl

theorem sramSize_reset (d : Nat) : State.reset.sramSize d = 0 := by
  rw [State.sramSize, cfgGet_reset]
  rfl

/-- A word of a partition's block of the configuration reads as its register (R404). -/
theorem bar0_pblock (s : State) {k i : Nat} (hk : k < 8) (hi : i < 8) :
    s.bar0 (0x2000 + 0x40 * k + 8 * i) = some (BitVec.ofNat 64 (s.cfgGet (0x2000 + 0x40 * k + 8 * i))) := by
  unfold State.bar0
  dsimp only
  rw [if_neg (by omega), if_neg (by omega), if_neg (by omega), if_pos (by omega)]

theorem lane_startGroup (l : Launch) (cid i idx : Nat) {L : Nat} (hL : L < 32) :
    (startGroup l cid i idx).lane L = .live (min l.entry 0xFFFFFFFD) := by
  show (List.replicate 32 (LanePC.live (pcOf l.entry))).getD L .exited = _
  rw [List.getD, List.getElem?_replicate, if_pos hL, pcOf_natCast]
  rfl

/-- `s1` of a new group is its packet, every other scalar is zero (R95). -/
theorem sGet_startGroup (l : Launch) (cid i idx r : Nat) :
    (startGroup l cid i idx).sGet r = if r = 1 then BitVec.ofNat 64 l.pkt else 0 := by
  have hs : (startGroup l cid i idx).s = if l.pkt % 2 ^ 64 = 0 then [] else [(1, BitVec.ofNat 64 l.pkt)] := rfl
  have hzero : l.pkt % 2 ^ 64 = 0 → BitVec.ofNat 64 l.pkt = 0 := fun h => by
    rw [← BitVec.toNat_inj, BitVec.toNat_ofNat, h]
    rfl
  unfold Group.sGet
  rw [hs]
  split
  next h0 => rw [if_neg (by omega)]
  next h0 =>
    split
    next hp => split <;> simp [Tab.get, Tab.find, hzero hp]
    next hp => split <;> simp_all [Tab.get, Tab.find]

/-- `m0` of a new group is all ones, every other mask register is zero (R95). -/
theorem mGet_startGroup (l : Launch) (cid i idx r : Nat) :
    (startGroup l cid i idx).mGet r = if r = 0 then BitVec.allOnes 1024 else 0 := by
  show Tab.get 0 [(0, BitVec.allOnes 1024)] r = _
  rw [Tab.get, Tab.find_cons]
  split <;> rfl

theorem fstat_word_clear : ({} : FStat).word = 0 := by decide

/-- Settles O55: the state after reset field by field, and the registers of a group that starts. -/
theorem resetValues : Obligations.ResetValues := by
  refine ⟨⟨rfl, rfl, rfl, rfl, rfl, rfl, rfl, wf_reset, fun a => ⟨rfl, rfl⟩, sramSize_reset, fun k off _ _ => cfgGet_reset _, rankOf_reset, rfl, rfl,
    rfl, rfl, rfl, fun k i hk hi => bar0_pblock _ hk hi, rfl, rfl, rfl, rfl, rfl⟩, fun l cid i idx co => ?group⟩
  case group =>
    refine ⟨fun L hL => lane_startGroup l cid i idx hL, sGet_startGroup l cid i idx 1, fun r hr => ?_, mGet_startGroup l cid i idx 0,
      fun r hr => ?_, fun r => rfl, fun r => rfl, fun r => rfl, rfl, rfl, rfl, rfl, ?_⟩
    · rw [sGet_startGroup, if_neg hr]
    · rw [mGet_startGroup, if_neg hr]
    · simp only [List.forall_mem_cons]
      exact ⟨rfl, rfl, rfl, rfl, fstat_word_clear, rfl, rfl, rfl, rfl, nofun⟩

end Sys2Proof.Machine
end

section
/-! PROOFS. A fatal trap (R90, R108): what ends of the launches of a gang and of their groups. -/

namespace Sys2Proof.Machine

section EndWith

variable {g : Group}

/-- A group with no run in progress has ended after its gang's end, however often that is said. -/
theorem iterate_endWith_still (g : Group) (n : Nat) : ((fun h : Group => h.endWith false)^[n + 1] g).ended = true ∧
    ∀ L, L < 32 → ((fun h : Group => h.endWith false)^[n + 1] g).lane L = .exited := by
  rw [Function.iterate_succ_apply']
  generalize (fun h : Group => h.endWith false)^[n] g = g'
  exact ⟨rfl, fun L hL => lane_endNow g' hL⟩

theorem endWith_inRun (h : g.ended = false) : g.endWith true = { g with ending := true } := by
  rw [Group.endWith, h]
  rfl

/-- A group in a run is marked to end with it, and stays where it is. -/
theorem iterate_endWith_inRun (h : g.ended = false) (n : Nat) :
    (fun h : Group => h.endWith true)^[n + 1] g = { g with ending := true } := by
  induction n with
  | zero => exact endWith_inRun h
  | succ n ih =>
    rw [Function.iterate_succ_apply', ih]
    exact endWith_inRun h

end EndWith

/-- What the end of its gang leaves in a launch's part (R108, R395). -/
def Launch.failWith (status : Nat) (rec : List Word64) (l : Launch) : Launch :=
  if l.failed = 0 then { l with failed := status, trapRec := rec } else l

theorem failWith_failWith {status : Nat} (rec : List Word64) (h : status ≠ 0) (l : Launch) :
    (l.failWith status rec).failWith status rec = l.failWith status rec := by
  by_cases hl : l.failed = 0
  · have hf : l.failWith status rec = { l with failed := status, trapRec := rec } := if_pos hl
    rw [hf]
    exact if_neg h
  · have hf : l.failWith status rec = l := if_neg hl
    rw [hf, hf]

section EndLaunch

variable (lid status : Nat) (rec : List Word64) (s : State)

/-- A group has a run in progress. -/
def State.inRun (s : State) (gid : Nat) : Bool := s.runs.any (fun r => r.2.gid == gid)

/-- The groups of a list end, one after another. -/
def endGroups (gids : List Nat) (s : State) : State := gids.foldl (fun s gid => s.updG gid (fun g => g.endWith (s.inRun gid))) s

theorem endGroups_frame (gids : List Nat) (s : State) : ∃ gs, endGroups gids s = { s with groups := gs } := by
  induction gids generalizing s with
  | nil => exact ⟨_, rfl⟩
  | cons gid gids ih => exact ih (s.updG gid (fun g => g.endWith (s.inRun gid)))

theorem find_endGroups (gids : List Nat) (s : State) (gid : Nat) : (endGroups gids s).groups.find gid =
    (s.groups.find gid).map (fun g => (fun h : Group => h.endWith (s.inRun gid))^[gids.count gid] g) := by
  induction gids generalizing s with
  | nil => exact Option.map_id'.symm
  | cons j gids ih =>
    refine (ih (s.updG j (fun g => g.endWith (s.inRun j)))).trans ?_
    rw [State.updG, Tab.find_upd]
    split
    · next hj =>
      rw [← hj, List.count_cons_self, Option.map_map]
      rfl
    · next hj =>
      rw [List.count_cons_of_ne (Ne.symm hj)]
      rfl

/-- The copies of a launch's channels are told to stop: the cohorts keep their launches and groups. -/
def abortChans (lid : Nat) (c : Nat × Cohort) : Nat × Cohort :=
  if c.2.launch == lid then (c.1, { c.2 with chans := c.2.chans.map (fun (h : Nat × Chan) => (h.1, h.2.abort)) }) else c

theorem endLaunch_eq : endLaunch lid status rec s = { s with
    groups := (endGroups (s.launchGids lid) s).groups
    cohorts := s.cohorts.map (abortChans lid)
    launches := s.launches.upd lid (Launch.failWith status rec) } := by
  show State.updL { endGroups (s.launchGids lid) s with cohorts := (endGroups (s.launchGids lid) s).cohorts.map (abortChans lid) }
    lid (Launch.failWith status rec) = _
  obtain ⟨gs, h⟩ := endGroups_frame (s.launchGids lid) s
  generalize endGroups (s.launchGids lid) s = t at h ⊢
  subst h
  rfl

theorem launch_abortChans (c : Nat × Cohort) : (abortChans lid c).2.launch = c.2.launch := by
  unfold abortChans
  split <;> rfl

theorem gids_abortChans (c : Nat × Cohort) : (abortChans lid c).2.gids = c.2.gids := by
  unfold abortChans
  split <;> rfl

theorem launchGids_endLaunch (l : Nat) : (endLaunch lid status rec s).launchGids l = s.launchGids l := by
  rw [endLaunch_eq]
  unfold State.launchGids
  simp only [List.filter_map, List.flatMap_map, gids_abortChans, Function.comp_def, launch_abortChans]

end EndLaunch

/-- Parts of a gang end, one after another. -/
def endParts (lids : List Nat) (status : Nat) (rec : List Word64) (s : State) : State := lids.foldl (fun s l => endLaunch l status rec s) s

section EndParts

variable (lids : List Nat) (status : Nat) (rec : List Word64) (s : State)

theorem runs_endParts : (endParts lids status rec s).runs = s.runs := by
  induction lids generalizing s with
  | nil => rfl
  | cons l lids ih => exact (ih (endLaunch l status rec s)).trans (by rw [endLaunch_eq])

theorem mem_endParts : (endParts lids status rec s).mem = s.mem := by
  induction lids generalizing s with
  | nil => rfl
  | cons l lids ih => exact (ih (endLaunch l status rec s)).trans (by rw [endLaunch_eq])

/-- Each group of a part is ended at least once. -/
theorem find_endParts (gid : Nat) : ∃ n, (endParts lids status rec s).groups.find gid =
    (s.groups.find gid).map (fun g => (fun h : Group => h.endWith (s.inRun gid))^[n] g) ∧
    ∀ l ∈ lids, gid ∈ s.launchGids l → 0 < n := by
  induction lids generalizing s with
  | nil => exact ⟨0, Option.map_id'.symm, fun l hl => absurd hl List.not_mem_nil⟩
  | cons j lids ih =>
    obtain ⟨n, hfind, hpos⟩ := ih (endLaunch j status rec s)
    have hruns : (endLaunch j status rec s).inRun gid = s.inRun gid := by rw [endLaunch_eq]; rfl
    have hgroups : (endLaunch j status rec s).groups = (endGroups (s.launchGids j) s).groups := by rw [endLaunch_eq]
    refine ⟨n + (s.launchGids j).count gid, ?_, fun l hl hgid => ?_⟩
    · refine hfind.trans ?_
      rw [hgroups, find_endGroups, Option.map_map, hruns]
      congr 1
      funext g
      exact (Function.iterate_add_apply _ n _ g).symm
    · rcases List.mem_cons.mp hl with rfl | hl
      · exact Nat.add_pos_right _ (List.count_pos_iff.mpr hgid)
      · exact Nat.add_pos_left (hpos l hl (by rwa [launchGids_endLaunch])) _

theorem launches_endParts {status : Nat} (h : status ≠ 0) {lid : Nat} (hl : lid ∈ lids) :
    (endParts lids status rec s).launches.find lid = (s.launches.find lid).map (Launch.failWith status rec) := by
  induction lids generalizing s with
  | nil => exact absurd hl List.not_mem_nil
  | cons j lids ih =>
    have hj : (endLaunch j status rec s).launches = s.launches.upd j (Launch.failWith status rec) := by rw [endLaunch_eq]
    by_cases hin : lid ∈ lids
    · refine (ih (endLaunch j status rec s) hin).trans ?_
      rw [hj, Tab.find_upd]
      split
      · next e =>
        rw [e, Option.map_map]
        congr 1
        funext l
        exact failWith_failWith rec h l
      · rfl
    · obtain rfl : lid = j := (List.mem_cons.mp hl).resolve_right hin
      have hrest : ∀ (lids : List Nat) (s : State), lid ∉ lids → (endParts lids status rec s).launches.find lid = s.launches.find lid := by
        intro lids
        induction lids with
        | nil => exact fun _ _ => rfl
        | cons k lids ih =>
          intro s hk
          refine (ih (endLaunch k status rec s) (fun h => hk (List.mem_cons_of_mem _ h))).trans ?_
          rw [endLaunch_eq]
          exact Tab.find_upd_of_ne _ _ (fun e => hk (e ▸ List.mem_cons_self))
      refine (hrest lids _ hin).trans ?_
      rw [hj, Tab.find_upd_self]

end EndParts

section FatalTrap

/-- The trap registers of a group that ends with a fatal trap. -/
def Group.recordTrap (q : TrapRegs) (g : Group) : Group :=
  { g with tcause := BitVec.ofNat 64 q.tcause, tepc := BitVec.ofNat 64 q.tepc, tlanes := BitVec.ofNat 64 q.tlanes,
           taddr := BitVec.ofNat 64 q.taddr }

/-- The words of a fatal trap's error record (R395). -/
def trapRecord (q : TrapRegs) (g : Group) (co : Cohort) (la : Launch) : List Word64 :=
  [BitVec.ofNat 64 q.tcause, BitVec.ofNat 64 q.tepc, BitVec.ofNat 64 q.tlanes, BitVec.ofNat 64 q.taddr, BitVec.ofNat 64 (gstatOf g co la)]

theorem enterTrap_fatal {s : State} {gid : Nat} {g : Group} {co : Cohort} {la : Launch} {q : TrapRegs} {aset : Word32} {ts : Tab VReg}
    {rw : List Wait} (hg : s.groups.find gid = some g) (hco : s.cohorts.find g.cid = some co) (hla : s.launches.find co.launch = some la)
    (he : g.ending = false) (hf : g.trap = true ∨ co.tvecEn = false) : enterTrap gid q aset (some ts) rw s =
      endParts (s.gangLids co.launch) 2 (trapRecord q g co la) ((s.withoutRuns gid).updG gid (Group.recordTrap q)) := by
  have hfatal : (g.trap || !co.tvecEn) = true := by rcases hf with h | h <;> simp [h]
  unfold enterTrap
  simp only [hg, hco, hla, he, hfatal]
  rfl

/-- The runs of other groups stay in their slots. -/
theorem find_withoutRuns {s : State} {gid k : Nat} {r : Run} (h : s.runs.find k = some r) (hr : r.gid ≠ gid) :
    (s.withoutRuns gid).runs.find k = some r := by
  show Tab.find (s.runs.filter (fun r => r.2.gid != gid)) k = some r
  generalize s.runs = runs at h ⊢
  induction runs with
  | nil => cases h
  | cons e runs ih =>
    obtain ⟨j, x⟩ := e
    rw [Tab.find_cons] at h
    split at h
    · next hk =>
      obtain rfl := Option.some.inj h
      rw [List.filter_cons_of_pos (by simpa using hr), Tab.find_cons, if_pos hk]
    · next hk =>
      rw [List.filter_cons]
      split
      · rw [Tab.find_cons, if_neg hk, ih h]
      · exact ih h

theorem inRun_withoutRuns_self (s : State) (gid : Nat) : (s.withoutRuns gid).inRun gid = false :=
  List.any_eq_false.mpr fun e he => by simpa using not_mem_withoutRuns s gid e he

theorem inRun_withoutRuns_of_ne (s : State) {gid j : Nat} (h : j ≠ gid) : (s.withoutRuns gid).inRun j = s.inRun j := by
  unfold State.inRun State.withoutRuns
  rw [List.any_filter]
  congr 1
  funext e
  by_cases he : e.2.gid = j
  · simp [he, h]
  · simp [he]

variable {s : State} {c : Ctx} {q : TrapRegs} {rec : List Word64}

/-- The state after a fatal trap, but for the time at which the group counts as ready. -/
def afterFatal (s : State) (c : Ctx) (q : TrapRegs) (rec : List Word64) : State :=
  endParts (s.gangLids c.co.launch) 2 rec ((s.withoutRuns c.run.gid).updG c.run.gid (Group.recordTrap q))

/-- Each group of the gang, with its trap registers set if it is the one that trapped, ends at least once. -/
theorem find_afterFatal (s : State) (c : Ctx) (q : TrapRegs) (rec : List Word64) {lid gid : Nat} (hl : lid ∈ s.gangLids c.co.launch)
    (hgid : gid ∈ s.launchGids lid) : ∃ n, (afterFatal s c q rec).groups.find gid =
      ((if gid = c.run.gid then (s.groups.find gid).map (Group.recordTrap q) else s.groups.find gid)).map
        (fun g => (fun h : Group => h.endWith ((s.withoutRuns c.run.gid).inRun gid))^[n + 1] g) := by
  obtain ⟨n, hfind, hn⟩ := find_endParts (s.gangLids c.co.launch) 2 rec ((s.withoutRuns c.run.gid).updG c.run.gid (Group.recordTrap q)) gid
  obtain ⟨n, rfl⟩ := Nat.exists_eq_succ_of_ne_zero (hn lid hl hgid).ne'
  refine ⟨n, hfind.trans ?_⟩
  rw [State.updG, Tab.find_upd]
  split <;> simp_all <;> rfl

/-- A group that trapped, or that has no run, ends at once. -/
theorem ended_afterFatal {lid gid : Nat} {g : Group} (hl : lid ∈ s.gangLids c.co.launch) (hgid : gid ∈ s.launchGids lid)
    (hg : (afterFatal s c q rec).groups.find gid = some g) (hr : gid = c.run.gid ∨ ∀ e ∈ s.runs, e.2.gid ≠ gid) :
    g.ended = true ∧ ∀ L, L < 32 → g.lane L = .exited := by
  have hin : (s.withoutRuns c.run.gid).inRun gid = false := by
    by_cases h : gid = c.run.gid
    · exact h ▸ inRun_withoutRuns_self s gid
    · rw [inRun_withoutRuns_of_ne s h]
      exact List.any_eq_false.mpr fun e he => by simpa using hr.resolve_left h e he
  obtain ⟨n, hfind⟩ := find_afterFatal s c q rec hl hgid
  rw [hg, hin] at hfind
  obtain ⟨g', -, rfl⟩ := Option.map_eq_some_iff.mp hfind.symm
  exact iterate_endWith_still g' n

/-- A group in a run, other than the one that trapped, ends with its run. -/
theorem ending_afterFatal {lid gid : Nat} {g0 g : Group} (hl : lid ∈ s.gangLids c.co.launch) (hgid : gid ∈ s.launchGids lid)
    (hg0 : s.groups.find gid = some g0) (hg : (afterFatal s c q rec).groups.find gid = some g) (hne : gid ≠ c.run.gid)
    (hr : ∃ e ∈ s.runs, e.2.gid = gid) (he : g0.ended = false) : g.ending = true ∧ g.vpc = g0.vpc := by
  have hin : (s.withoutRuns c.run.gid).inRun gid = true := by
    rw [inRun_withoutRuns_of_ne s hne]
    exact List.any_eq_true.mpr (hr.imp fun e he => ⟨he.1, beq_iff_eq.mpr he.2⟩)
  obtain ⟨n, hfind⟩ := find_afterFatal s c q rec hl hgid
  rw [hg, hin, if_neg hne, hg0] at hfind
  obtain rfl : g = { g0 with ending := true } := (Option.some.inj hfind).trans (iterate_endWith_inRun he n)
  exact ⟨rfl, rfl⟩

theorem runs_afterFatal : (afterFatal s c q rec).runs = (s.withoutRuns c.run.gid).runs := runs_endParts _ _ _ _

theorem launches_afterFatal {lid : Nat} {l : Launch} (hl : lid ∈ s.gangLids c.co.launch) (h : s.launches.find lid = some l)
    (hf : l.failed = 0) : (afterFatal s c q rec).launches.find lid = some { l with failed := 2, trapRec := rec } := by
  refine (launches_endParts _ rec _ (by decide) hl).trans ?_
  show (s.launches.find lid).map _ = _
  rw [h, Option.map_some, Launch.failWith, if_pos hf]

/-- A fatal trap is `afterFatal`, from a state that differs in TLBs and counters only. -/
theorem takeTrap_fatal (t : Trap) (h : ctxOf s = some c) (he : c.g.ending = false) (hf : c.g.trap = true ∨ c.co.tvecEn = false) :
    ∃ tlb cores, takeTrap c t s = dateTrap c.run.gid (afterFatal { s with tlb := tlb, cores := cores } c
      (trapRegs t c.run.head c.run.off c.run.word (liveOf c.g c.run.aset))
      (trapRecord (trapRegs t c.run.head c.run.off c.run.word (liveOf c.g c.run.aset)) c.g c.co c.la)) := by
  obtain ⟨-, -, hg, hco, hla, -⟩ := ctxOf_some h
  obtain ⟨ts, tlb, cores, -, e⟩ := takeTrap_eq c t s
  exact ⟨tlb, cores, e.trans (congrArg _ (enterTrap_fatal (s := { s with tlb := tlb, cores := cores }) hg hco hla he hf))⟩

/-- The time at which a group counts as ready is no part of what it has ended with. -/
theorem find_of_dateTrap {gid j : Nat} {g : Group} (h : (dateTrap gid s).groups.find j = some g) :
    ∃ g1, s.groups.find j = some g1 ∧ g1.ended = g.ended ∧ g1.ending = g.ending ∧ g1.vpc = g.vpc := by
  by_cases hj : j = gid
  · subst hj
    rw [dateTrap, State.updG, Tab.find_upd_self] at h
    obtain ⟨g1, h1, rfl⟩ := Option.map_eq_some_iff.mp h
    exact ⟨g1, h1, rfl, rfl, rfl⟩
  · exact ⟨g, find_dateTrap_of_ne hj ▸ h, rfl, rfl, rfl⟩

end FatalTrap

/-- Settles O17: the parts of the gang end one after another; a group ends at once (`ended_afterFatal`), or with its run
(`ending_afterFatal`). -/
theorem fatalTrap : Obligations.FatalTrap := by
  intro s c t h hf he u q
  obtain ⟨tlb, cores, hu⟩ : ∃ tlb cores, u = dateTrap c.run.gid (afterFatal { s with tlb := tlb, cores := cores } c q _) :=
    takeTrap_fatal t h he hf
  rw [hu]
  have hruns := runs_afterFatal (s := { s with tlb := tlb, cores := cores }) (c := c) (q := q) (rec := trapRecord q c.g c.co c.la)
  refine ⟨fun lid hl gid hgid g0 g hg0 hg => ?groups, fun e he => ?runs, fun k r hk hr => ?kept, fun lid hl l0 hl0 h0 => ?record, ?mem⟩
  case groups =>
    obtain ⟨g1, hg1, hended, hending, hvpc⟩ := find_of_dateTrap hg
    have hlane : ∀ L, g.lane L = g1.lane L := fun L => by rw [Group.lane, ← hvpc]; rfl
    refine ⟨fun hr => ?_, fun hne hr hg0' => ?_⟩
    · obtain ⟨hend, hexit⟩ := ended_afterFatal (s := { s with tlb := tlb, cores := cores }) hl hgid hg1 hr
      exact ⟨hended ▸ hend, fun L hL => (hlane L).trans (hexit L hL)⟩
    · rw [← hending, ← hvpc]
      exact ending_afterFatal (s := { s with tlb := tlb, cores := cores }) hl hgid hg0 hg1 hne hr hg0'
  case runs => exact not_mem_withoutRuns s c.run.gid e (hruns ▸ he)
  case kept => exact (congrArg (Tab.find · k) hruns).trans (find_withoutRuns (s := { s with tlb := tlb, cores := cores }) hk hr)
  case record => exact ⟨_, launches_afterFatal (s := { s with tlb := tlb, cores := cores }) hl hl0 h0, rfl, rfl⟩
  case mem => exact mem_endParts _ _ _ _

end Sys2Proof.Machine
end

section
/-! PROOFS. A vector load whose residency register does not exist. The statement about what a load leaves gives its elements for any
`probe`; a mask register number of 16 or more names another location, and here the bit that the load writes there is that of its own
element (R209 has no such register). -/

namespace Sys2Proof.Machine.ProbeAtElement

/-- A bit of a location after writes, whatever else is written. -/
theorem testBit_getLoc_putEach {l i : Nat} (hl : IsVec l) (hi : i < vecBits l) (ws : List Wr) {g : Group} {old : Nat}
    (h : (g.getLoc l).testBit i = old.testBit i) : ((g.putEach ws).getLoc l).testBit i = (afterWrs ws l old).testBit i := by
  induction ws generalizing g old with
  | nil => exact h
  | cons w ws ih =>
    rw [putEach_cons, afterWrs_cons]
    refine ih ?_
    split
    · rename_i hw
      rw [hw, getLoc_setLoc_self _ _ hl, Nat.testBit_mod_two_pow, decide_eq_true hi, Bool.true_and, testBit_merge, testBit_merge, h]
    · rename_i hw
      rw [getLoc_setLoc_of_ne g _ (Ne.symm hw) hl, h]

/-- The last write decides. -/
theorem testBit_getLoc_putAll_last {l i : Nat} (hl : IsVec l) (hi : i < vecBits l) (g : Group) (ws : List Wr) {w : Wr} (hw : w.loc = l)
    (hm : w.mask.testBit i = true) : ((g.putAll (ws ++ [w])).getLoc l).testBit i = w.val.testBit i := by
  rw [putAll_eq, testBit_getLoc_putEach hl hi _ rfl, afterWrs_joinWrs, afterWrs_append, afterWrs_cons, if_pos hw]
  exact (testBit_merge _ _ _).trans (if_pos hm)

def launch : Launch := { pkt := 0x1000, priv := true, win := 64, zt := 10, ch := 8, code := 0x40000000, clen := 64 }
def cohort : Cohort := { launch := 1, team := 0, tcoh := 0, core := 0, cidx := 0, gids := [3], nz := 10 }
/-- All lanes are live. -/
def group : Group := { cid := 2, gidx := 0, idx := 0, role := .vector, w := 1024, vpc := List.replicate 32 (.live 0) }
/-- At an instruction behind the head of its run. -/
def run : Run := { gid := 3, word := 0, len := 2, aset := BitVec.allOnes 32, head := false, buf := [0, 0, 0, 0] }

def state : State := { State.reset with nextId := 9, launches := [(1, launch)], cohorts := [(2, cohort)], groups := [(3, group)],
                                        runs := [(0, run)] }
def ctx : Ctx := ⟨0, run, group, cohort, launch, 0⟩

/-- The number of a mask register, were there so many, whose location is the first word of v0. -/
def reg : Nat := 65472

theorem locM_reg : locM reg = locV 0 0 := rfl

/-- The one element of the load, to v0. -/
def dst : VOp := ⟨0, 1, false⟩

/-- What the load writes for an element that gives 1, and for its residency. -/
def written : List Wr := [⟨locV 0 0, 2 ^ 32 - 1, 1⟩, ⟨locM reg, 1, 0⟩]

/-- After these writes the element is even, whatever was written before. -/
theorem testBit_written (ws : List Wr) : (heldEl (group.putAll (ws ++ written)) run 0 dst 32 0).testBit 0 = false := by
  show (((group.putAll (ws ++ written)).getLoc (locV 0 0)) / 2 ^ 0 % 2 ^ 32).testBit 0 = false
  rw [Nat.pow_zero, Nat.div_one, Nat.testBit_mod_two_pow, written, List.append_cons,
    testBit_getLoc_putAll_last (isVec_locV 0 0) (by decide) group _ locM_reg rfl]
  rfl

/-- Refutes O38: the element of a load in lane 0 that gives 1 leaves 0 in its register, where the bit of its own residency
is written to the same word after it. -/
theorem not_vectorLoads : ¬Obligations.VectorLoads := by
  intro h
  obtain ⟨-, -, -, hleft⟩ := h state ctx rfl
  obtain ⟨p, -, -, -, -, -, hvals⟩ := hleft none dst [0] [] (fun _ => true) 0 (fun _ => 0) 0 [] (some reg) (by decide) rfl (by decide)
    (by decide) (by decide)
  obtain ⟨helts, -⟩ := (hvals (fun _ => 1)).1 (fun x hx => absurd hx List.not_mem_nil)
  have hone : heldEl (group.putAll (p.wrs ++ written)) run 0 dst 32 0 = 1 := helts 0 (by decide)
  exact absurd (hone ▸ testBit_written p.wrs) (by decide)

end Sys2Proof.Machine.ProbeAtElement
end

section
/-! PROOFS. A pick that loses a held store. A change of a group keeps one entry for its key; a table that lists the key of the picked group
twice loses the second entry with it, and here that entry's held store is the leaf of the code's page, visible to walks (R150, R163). -/

namespace Sys2Proof.Machine.ListedTwice

/-- A table that maps the first 2^30 bytes to themselves; the leaf of the second 2^30, at 0x80008, is zero. The code segment begins with
a head. -/
def tables : List Host.Cell := [(1, 0x80), (2, 0x04), (0x40000, 0x07), (0x40002, 0x08), (0x80000, 0xC1), (0x80001, 0x01),
  (0x40000000, 0xFF), (0x40000001, 2), (0x40000004, 0x01)]

/-- The second leaf, stored by a group at its virtual address. -/
def entry : StEl := { ptr := 0x80008, n := 8, nib := none, val := 0x400001C1 }

def launch : Launch := { pkt := 0x1000, priv := true, win := 64, zt := 10, ch := 8, code := 0x40000000, clen := 64 }
def cohort : Cohort := { launch := 1, team := 0, tcoh := 0, core := 0, cidx := 0, gids := [3], nz := 10 }
/-- All lanes are live at word 0. -/
def group : Group := { cid := 2, gidx := 0, idx := 0, role := .vector, w := 1024, vpc := List.replicate 32 (.live 0) }
/-- Another group under the same key, ended, that holds the store of the entry, and behind it a `PTSYNC`. -/
def hidden : Group := { group with ended := true, stq := [.store 5 [(0, entry)], .rel 6 .ptsync] }

def state : State := { State.reset with nextId := 9, launches := [(1, launch)], cohorts := [(2, cohort)],
                                        groups := [(3, group), (3, hidden)], mem := tables }

def who : Who := { gid := 3, core := 0, part := 0, asid := 0, priv := true, code := 0x40000000, clen := 64, w := 1024 }

/-- The head is fetched. -/
theorem fetchWord_state : fetchWord state who 0 = .ok 0x2FF := by
  have h : (match fetchWord state who 0 with
    | .ok w => w == 0x2FF
    | .error _ => false) = true := by decide +kernel
  split at h
  next w e => rw [e, eq_of_beq h]
  next => cases h

/-- An outcome leaves the first slot free. -/
def leavesFree : Out → Bool
  | .next s => (s.runs.find 0).isNone
  | _ => false

/-- After the pick no store is held: the fetch of the head faults, and the gang ends. -/
theorem leavesFree_slotPick : leavesFree (exec (.slotPick 0) state) = true := by decide +kernel

/-- Refutes O51: the first part says that the pick of a slot's one group starts its run where its head can be fetched; here the pick drops
the group listed behind it under the same key, whose held store made the code's page valid, before it fetches. -/
theorem not_coreAndCopyEvents : ¬Obligations.CoreAndCopyEvents := by
  rintro ⟨hpick, -⟩
  have hslot : slotGroups state 0 = [(3, group)] := rfl
  have hissue : group.issueAddr = some 0 := by decide +kernel
  obtain ⟨s1, hnext, hrun⟩ := (hpick state 0).2 3 0 0x2FF group cohort launch who rfl rfl rfl hslot rfl rfl rfl rfl rfl rfl rfl rfl hissue
    fetchWord_state rfl (by decide) rfl
  have hfree : leavesFree (.next s1) = true := hnext ▸ leavesFree_slotPick
  rw [leavesFree, hrun] at hfree
  exact absurd hfree (by decide)

end Sys2Proof.Machine.ListedTwice
end

section
/-! PROOFS. What the operations shared by the front end and the management leave unchanged: token homes, the log, a pending operation's end,
resolutions and frames, gangs and launches that end. -/

namespace Sys2Proof.Machine

/-- What each step of a fold keeps, the fold keeps. -/
theorem keeps_foldl {α β γ : Type} (π : α → γ) {f : α → β → α} (h : ∀ a b, π (f a b) = π a) (l : List β) (a : α) :
    π (l.foldl f a) = π a := by
  induction l generalizing a with
  | nil => rfl
  | cons b l ih => exact (ih (f a b)).trans (h a b)

theorem mem_of_find {α : Type} {m : Tab α} {k : Nat} {x : α} (h : m.find k = some x) : (k, x) ∈ m := by
  induction m with
  | nil => cases h
  | cons e m ih =>
    rw [Tab.find_cons] at h
    split at h
    · next hk => exact hk ▸ Option.some.inj h ▸ List.mem_cons_self
    · exact List.mem_cons_of_mem _ (ih h)

theorem exists_find_of_mem {α : Type} {m : Tab α} {e : Nat × α} (h : e ∈ m) : ∃ x, m.find e.1 = some x := by
  induction m with
  | nil => cases h
  | cons d m ih =>
    rw [show Tab.find (d :: m) e.1 = if e.1 = d.1 then some d.2 else Tab.find m e.1 from rfl]
    split
    · exact ⟨_, rfl⟩
    · next hk => exact ih ((List.mem_cons.mp h).resolve_left fun he => hk (he ▸ rfl))

/-! ### Lines and tokens -/

/-- The state but for L1 slices, tokens and the counters of the cores. -/
def State.sansLines (s : State) : State := { s with l1 := [], coh := [], cores := [] }

theorem sansLines_endPf (bad : Nat → Nat × Nat → Bool) (s : State) : (endPf bad s).sansLines = s.sansLines := by
  unfold endPf
  exact keeps_foldl State.sansLines (fun _ _ => by rfl) _ s

theorem sansLines_dropLines (bad : L1Line → Bool) (s : State) : (dropLines bad s).sansLines = s.sansLines := by
  unfold dropLines
  dsimp only
  split
  · rfl
  · refine (keeps_foldl State.sansLines (fun s x => (sansLines_endPf _ _).trans ?_) _ _).trans rfl
    split <;> rfl

theorem sansLines_homeTake (line n : Nat) (s : State) : (homeTake line n s).sansLines = s.sansLines := by
  refine Eq.trans ?_ (sansLines_dropLines (fun x => decide (line ≤ x.line) && decide (x.line < line + n)) s)
  unfold homeTake
  dsimp only
  split <;> rfl

/-- The state but for the bytes of memory, its poison, lines and tokens. -/
def State.sansMem (s : State) : State := { s.sansLines with mem := [], poison := [] }

theorem sansMem_clearPoison (ps : List Place) (s : State) : (clearPoison ps s).sansMem = s.sansMem := by
  unfold clearPoison
  split <;> rfl

theorem mem_clearPoison (ps : List Place) (s : State) : (clearPoison ps s).mem = s.mem := by
  unfold clearPoison
  split <;> rfl

/-- A home's write changes memory, and what is known of its lines, alone. -/
theorem sansMem_homeWrite (pa : Nat) (data : List Byte) (s : State) : (homeWrite pa data s).sansMem = s.sansMem :=
  (sansMem_clearPoison _ _).trans
    (congrArg (fun t : State => { t with mem := [], poison := [] }) (sansLines_homeTake (pa / 128) ((pa + data.length + 127) / 128 - pa / 128) s))

theorem mem_homeWrite (pa : Nat) (data : List Byte) (s : State) : (homeWrite pa data s).mem = cellsSet s.mem pa data :=
  mem_clearPoison _ _

/-! ### The partitions asked for -/

/-- How the package is divided, how it is asked to be, and whether a run is in progress. -/
def State.division (s : State) : Nat × Option Nat × Bool := (s.npart, s.npartAsked, s.runs.isEmpty)

theorem division_endPf (bad : Nat → Nat × Nat → Bool) (s : State) : (endPf bad s).division = s.division :=
  show (endPf bad s).sansLines.division = s.sansLines.division from congrArg _ (sansLines_endPf bad s)

theorem division_dropLines (bad : L1Line → Bool) (s : State) : (dropLines bad s).division = s.division :=
  show (dropLines bad s).sansLines.division = s.sansLines.division from congrArg _ (sansLines_dropLines bad s)

theorem division_homeTake (line n : Nat) (s : State) : (homeTake line n s).division = s.division :=
  show (homeTake line n s).sansLines.division = s.sansLines.division from congrArg _ (sansLines_homeTake line n s)

theorem division_homeWrite (pa : Nat) (data : List Byte) (s : State) : (homeWrite pa data s).division = s.division :=
  show (homeWrite pa data s).sansMem.division = s.sansMem.division from congrArg _ (sansMem_homeWrite pa data s)

/-- Messages change the outbox alone. -/
theorem division_sends {β : Type} (m : β → Msg) (l : List β) (s : State) : (l.foldl (fun s r => s.send (m r)) s).division = s.division :=
  keeps_foldl State.division (fun _ _ => by rfl) l s

theorem division_noteLanding (gid : Nat) (ws : List Wr) (s : State) : (noteLanding gid ws s).division = s.division := by
  unfold noteLanding
  split
  · rfl
  · split
    · rfl
    · show (_, _, List.isEmpty (List.map _ s.runs)) = _
      rw [List.isEmpty_map]
      rfl

theorem division_finish (gid pid : Nat) (s : State) : (finish gid pid s).division = s.division :=
  (division_noteLanding _ _ _ : _)

/-! ### Pages and frames -/

theorem division_askOn (port key op part arg ver : Nat) (s : State) : (askOn port key op part arg ver s).division = s.division := by
  unfold askOn
  split <;> rfl

theorem division_ask (key stage : Nat) (s : State) : (ask key stage s).division = s.division := by
  unfold ask
  split
  · rfl
  · dsimp only
    split
    · rfl
    · exact (division_askOn _ _ _ _ _ _ _).trans rfl
    · rfl

theorem division_pushDecline (key : Nat) (s : State) : (pushDecline key s).division = s.division := by
  unfold pushDecline
  split
  · rfl
  · split
    · rfl
    · split <;> rfl

theorem division_decline (key reason : Nat) (s : State) : (decline key reason s).division = s.division := by
  unfold decline
  split
  · rfl
  · dsimp only
    split
    · exact (keeps_foldl State.division (fun _ _ => division_finish _ _ _) _ _).trans rfl
    · exact (division_pushDecline _ _).trans rfl

theorem division_mapLeaves (key : Nat) (f : Nat → Nat) (s : State) : (mapLeaves key f s).division = s.division := by
  refine keeps_foldl State.division (fun s l => ?_) _ s
  split
  · rfl
  · exact (division_homeTake (l.2.1 / 128) 1 s : _)

theorem division_shootKey (key : Nat) (s : State) : (shootKey key s).division = s.division :=
  keeps_foldl State.division (fun _ _ => by rfl) _ s

theorem division_gatherPage (pa : Nat) (s : State) : (gatherPage pa s).division = s.division :=
  (division_endPf _ _).trans (division_homeTake (pa / 65536 * 512) 512 s)

theorem division_enterAbsent (key kind home : Nat) (s : State) : (enterAbsent key kind home s).division = s.division :=
  (division_shootKey _ _).trans (division_mapLeaves _ _ _)

theorem division_toTransit (key pa : Nat) (s : State) : (toTransit key pa s).division = s.division :=
  (division_gatherPage _ _).trans ((division_shootKey _ _).trans (division_mapLeaves _ _ _))

theorem division_dropPage (key : Nat) (f : Frame) (s : State) : (dropPage key f s).division = s.division :=
  (division_gatherPage _ _).trans ((division_enterAbsent _ _ _ _).trans rfl)

theorem division_leaveAttempt (key : Nat) (f : Frame) (s : State) : (leaveAttempt key f s).division = s.division := by
  unfold leaveAttempt
  split
  · rfl
  · dsimp only
    split
    · split
      · rfl
      · exact (division_askOn _ _ _ _ _ _ _).trans rfl
    · split
      · rfl
      · exact (division_askOn _ _ _ _ _ _ _).trans rfl

theorem division_releaseFrame (key : Nat) (f : Frame) (s : State) : (releaseFrame key f s).division = s.division := by
  unfold releaseFrame
  split
  · exact (division_askOn _ _ _ _ _ _ _).trans (division_dropPage key f s)
  · exact (division_leaveAttempt _ _ _).trans (division_toTransit key f.pa s)

theorem division_clockHand (a n : Nat) (s : State) : (clockHand a n s).1.division = s.division := by
  induction n generalizing s with
  | zero => rfl
  | succ n ih =>
    unfold clockHand
    dsimp only
    split
    · rfl
    · split
      · exact (ih _).trans rfl
      · split
        · exact (ih _).trans ((division_shootKey _ _).trans ((division_mapLeaves _ _ _).trans rfl))
        · rfl

theorem division_evict (a key : Nat) (s : State) : (evict a key s).division = s.division := by
  have hhand := division_clockHand a (2 * (s.frames.filter (Frame.countsFor s a)).length) s
  unfold evict
  split
  · rfl
  · dsimp only
    split
    · next e =>
      rw [e] at hhand
      split
      · exact hhand
      · exact (division_releaseFrame _ _ _).trans hhand
    · next e =>
      rw [e] at hhand
      exact hhand

theorem division_beginResolution (key : Nat) (s : State) : (beginResolution key s).division = s.division := by
  unfold beginResolution
  split
  · rfl
  · next c _ =>
    split
    · exact division_decline _ _ _
    · split
      · exact division_decline _ _ _
      · split
        · exact division_ask _ _ _
        · dsimp only
          have hevict : (if quotaOf s (65536 * c.part + c.asid) ≤ framesUsed s (65536 * c.part + c.asid) ∧ (!c.hintOnly) = true then
              evict (65536 * c.part + c.asid) key s else s).division = s.division := by
            split
            · exact division_evict _ _ _
            · rfl
          generalize (if quotaOf s (65536 * c.part + c.asid) ≤ framesUsed s (65536 * c.part + c.asid) ∧ (!c.hintOnly) = true then
              evict (65536 * c.part + c.asid) key s else s) = s1 at hevict ⊢
          split
          · exact (division_ask _ _ _).trans hevict
          · split <;> exact hevict
          · exact hevict

theorem division_trySupply (key : Nat) (s : State) : (trySupply key s).division = s.division := by
  unfold trySupply
  split
  · rfl
  · next c _ =>
    split
    · dsimp only
      have hevict : (if quotaOf s (65536 * c.part + c.asid) ≤ framesUsed s (65536 * c.part + c.asid) then
          evict (65536 * c.part + c.asid) key s else s).division = s.division := by
        split
        · exact division_evict _ _ _
        · rfl
      generalize (if quotaOf s (65536 * c.part + c.asid) ≤ framesUsed s (65536 * c.part + c.asid) then
          evict (65536 * c.part + c.asid) key s else s) = s1 at hevict ⊢
      split
      · exact (division_askOn _ _ _ _ _ _ _).trans hevict
      · exact hevict
    · rfl

theorem division_startHints (s : State) : (startHints s).division = s.division := by
  refine keeps_foldl State.division (fun s c => ?_) _ s
  split
  · split
    · exact division_beginResolution _ _
    · rfl
  · rfl

theorem division_retryFrames (s : State) : (retryFrames s).division = s.division := by
  refine (division_startHints _).trans (keeps_foldl State.division (fun s c => ?_) _ s)
  split
  · rfl
  · split
    · refine Eq.trans ?_ (division_beginResolution c.1 s)
      dsimp only
      split
      · split <;> rfl
      · rfl
    · exact division_trySupply _ _

theorem division_restartChain (key : Nat) (s : State) : (restartChain key s).division = s.division := by
  unfold restartChain
  split
  · rfl
  · split
    · rfl
    · exact (division_beginResolution _ _).trans rfl

theorem division_withdraw (gone : FaultRec → Bool) (s : State) : (withdraw gone s).division = s.division := by
  refine (division_startHints _).trans ((keeps_foldl State.division (fun s c => ?_) _ _).trans rfl)
  split
  · split
    · rfl
    · exact division_restartChain _ _
  · rfl

/-! ### Launches and gangs that end -/

theorem division_updQueue (part q : Nat) (f : Queue → Queue) (s : State) : (updQueue part q f s).division = s.division := rfl

theorem division_endLaunch (lid status : Nat) (rec : List Word64) (s : State) : (endLaunch lid status rec s).division = s.division :=
  (keeps_foldl State.division (fun _ _ => by rfl) (s.launchGids lid) s : _)

theorem division_errorWords (part q index : Nat) (s : State) : (errorWords part q index s).division = s.division := by
  unfold errorWords
  split
  · rfl
  · split
    · exact (division_homeWrite _ _ _).trans (division_homeWrite _ _ _)
    · rfl

theorem division_writeRecord (l : Launch) (status mj : Nat) (s : State) : (writeRecord l status mj s).division = s.division := by
  unfold writeRecord
  split
  · exact (division_homeWrite _ _ _).trans (division_homeWrite _ _ _)
  · split
    · exact division_errorWords _ _ _ _
    · rfl

theorem division_cancelDependents (id : Nat) (s : State) : (cancelDependents id s).division = s.division :=
  keeps_foldl State.division (fun _ _ => keeps_foldl State.division (fun _ _ => division_endLaunch _ _ _ _) _ _) _ s

theorem division_failGang (lid : Nat) (l : Launch) (status : Nat) (rec : List Word64) (s : State) :
    (failGang lid l status rec s).division = s.division := by
  unfold failGang
  split
  · rfl
  · split
    · rfl
    · exact (keeps_foldl State.division (fun _ _ => division_endLaunch _ _ _ _) _ _).trans (division_sends _ _ s)

theorem division_completeLaunch (lid mj : Nat) (s : State) : (completeLaunch lid mj s).division = s.division := by
  unfold completeLaunch
  split
  · rfl
  · next l _ =>
    generalize (if l.failed = 0 then 1 else l.failed) = status
    have hrecord (s : State) : (remember ⟨l.part, l.pkt, lid, status⟩ (writeRecord l status mj s)).division = s.division :=
      (division_writeRecord _ _ _ _ : _)
    show (if status = 1 then _ else _ : State).division = _
    split
    · exact (hrecord _).trans rfl
    · exact (division_cancelDependents _ _).trans ((division_failGang _ _ _ _ _).trans ((hrecord _).trans rfl))

theorem division_releaseCohort (cid : Nat) (s : State) : (releaseCohort cid s).division = s.division := by
  unfold releaseCohort
  split
  · rfl
  · split
    · rfl
    · exact (division_retryFrames _).trans rfl

theorem division_releaseGang (key : Nat) (s : State) : (releaseGang key s).division = s.division := by
  unfold releaseGang
  split
  · rfl
  · split <;> rfl

theorem division_rollBack (key : Nat) (s : State) : (rollBack key s).division = s.division := by
  unfold rollBack
  split
  · rfl
  · exact (division_releaseGang _ _).trans (division_sends _ _ s)

theorem division_dropReservation (key : Nat) (s : State) : (dropReservation key s).division = s.division := by
  unfold dropReservation
  split
  · rfl
  · split
    · rfl
    · split
      · exact (division_rollBack _ _).trans rfl
      · exact division_releaseGang _ _

theorem division_endGang (lid : Nat) (s : State) : (endGang lid s).division = s.division := by
  refine (division_completeLaunch _ _ _).trans ((keeps_foldl State.division (fun _ _ => division_releaseCohort _ _) _ _).trans ?_)
  exact (division_endLaunch lid 7 [] _).trans (division_withdraw _ s)

/-- The gangs of the old partitions are over, and the new ones stand (R403): the first part of `rebuild`. -/
def redivide (n : Nat) (s : State) : State :=
  if n = s.npart then s
  else
    let b := (s.gangs.keys.foldl (fun s k => dropReservation k s) s).launches.keys.foldl (fun s l => endGang l s)
      (s.gangs.keys.foldl (fun s k => dropReservation k s) s)
    { b with
      npart := n
      lattices := (List.range n).map (fun k => (k, { started := s.now }))
      queues := b.queues.filter (fun (q : Nat × Queue) => decide (q.1 / 4096 < n))
      cfg := b.cfg.filter (fun (c : Nat × Nat) => !(decide (0x2800 ≤ c.1) && decide (c.1 < 0x2A00)))
      energy := (List.range n).map (fun k => (k, { bal := 1000 * (2600 / n), tickAt := s.now })) }

theorem npartAsked_redivide (n : Nat) (s : State) : (redivide n s).npartAsked = s.npartAsked := by
  unfold redivide
  split
  · rfl
  · refine congrArg (fun d : Nat × Option Nat × Bool => d.2.1) (?_ : State.division _ = s.division)
    exact (keeps_foldl State.division (fun _ _ => division_endGang _ _) _ _).trans
      (keeps_foldl State.division (fun _ _ => division_dropReservation _ _) _ s)

theorem npart_redivide (n : Nat) (s : State) : (redivide n s).npart = n := by
  unfold redivide
  split
  · exact (by assumption : n = s.npart).symm
  · rfl

theorem rebuild_eq (n : Nat) (s : State) : rebuild n s = logEvent 8 0xFF (logData (redivide n { s with npartAsked := none })) none
    (dropLines (fun _ => true) { redivide n { s with npartAsked := none } with tlb := [], walks := [] }) := rfl

/-- The partitions rebuilt: so many, no request for them, and no translation left (R403). -/
theorem rebuild_npart (n : Nat) (s : State) : (rebuild n s).npart = n ∧ (rebuild n s).npartAsked = none ∧ (rebuild n s).tlb = [] ∧
    (rebuild n s).walks = [] := by
  rw [rebuild_eq]
  have hlines := sansLines_dropLines (fun _ => true) { redivide n { s with npartAsked := none } with tlb := [], walks := [] }
  exact ⟨(congrArg State.npart hlines).trans (npart_redivide n _), (congrArg State.npartAsked hlines).trans (npartAsked_redivide n _),
    congrArg State.tlb hlines, congrArg State.walks hlines⟩

/-! ### Teams that leave -/

/-- Where a cohort stands: resident, or asked to leave. -/
def State.seat (s : State) (cid : Nat) : Option (Bool × Bool) := (s.cohorts.find cid).map (fun co => (co.resident, co.leaving))

theorem seat_updC_of_ne {s : State} {cid k : Nat} (f : Cohort → Cohort) (h : k ≠ cid) : (s.updC cid f).seat k = s.seat k := by
  rw [State.seat, State.updC, Tab.find_upd_of_ne _ _ h]
  rfl

/-- A change of a cohort, by what it does to its seat. -/
theorem seat_updC_self {s : State} {cid : Nat} {f : Cohort → Cohort} {φ : Bool × Bool → Bool × Bool}
    (h : ∀ co, ((f co).resident, (f co).leaving) = φ (co.resident, co.leaving)) : (s.updC cid f).seat cid = (s.seat cid).map φ := by
  rw [State.seat, State.seat, State.updC, Tab.find_upd_self, Option.map_map, Option.map_map]
  congr 1
  funext co
  exact h co

/-- A change of a cohort that leaves its seat. -/
theorem seat_updC {s : State} {cid : Nat} {f : Cohort → Cohort} (h : ∀ co, (f co).resident = co.resident ∧ (f co).leaving = co.leaving) (k : Nat) :
    (s.updC cid f).seat k = s.seat k := by
  by_cases hk : k = cid
  · subst hk
    exact (seat_updC_self (φ := id) fun co => Prod.ext (h co).1 (h co).2).trans Option.map_id_apply
  · exact seat_updC_of_ne f hk

/-- The division, and every cohort's seat. -/
def State.standing (s : State) : (Nat × Option Nat × Bool) × (Nat → Option (Bool × Bool)) := (s.division, s.seat)

theorem standing_updC {s : State} {cid : Nat} {f : Cohort → Cohort} (h : ∀ co, (f co).resident = co.resident ∧ (f co).leaving = co.leaving) :
    (s.updC cid f).standing = s.standing := Prod.ext rfl (funext (seat_updC h))

theorem cohorts_noteLanding (gid : Nat) (ws : List Wr) (s : State) : (noteLanding gid ws s).cohorts = s.cohorts := by
  unfold noteLanding
  split
  · rfl
  · split <;> rfl

theorem cohorts_finish (gid pid : Nat) (s : State) : (finish gid pid s).cohorts = s.cohorts :=
  show (noteLanding gid _ s).cohorts = s.cohorts from cohorts_noteLanding _ _ s

theorem seat_of_cohorts {s t : State} (h : t.cohorts = s.cohorts) : t.seat = s.seat := by
  unfold State.seat
  rw [h]

theorem standing_finish (gid pid : Nat) (s : State) : (finish gid pid s).standing = s.standing :=
  Prod.ext (division_finish gid pid s) (seat_of_cohorts (cohorts_finish gid pid s))

theorem standing_domainEnds (gid pid : Nat) (s : State) : (domainEnds gid pid s).standing = s.standing :=
  (standing_finish gid pid _).trans rfl

theorem standing_updPend (gid pid : Nat) (f : Pend → Pend) (s : State) : (updPend gid pid f s).standing = s.standing := rfl

theorem standing_setZ (cid zt : Nat) (z : ZTile) (s : State) : (setZ cid zt z s).standing = s.standing :=
  standing_updC fun _ => ⟨rfl, rfl⟩

theorem standing_logAll (s0 : State) (core gid zt step : Nat) (errs : List (Nat × Nat)) (f : Nat → Nat → Nat × Nat × Nat) (s : State) :
    (logAll s0 core gid zt step errs f s).standing = s.standing :=
  keeps_foldl State.standing (fun _ _ => by rfl) _ s

theorem standing_landTransfer (tid gid pid : Nat) (errs : List (Nat × Nat)) (s : State) :
    (landTransfer tid gid pid errs s).standing = s.standing := by
  have hdrop : (zDrop tid gid pid s).standing = s.standing := standing_updC fun _ => ⟨rfl, rfl⟩
  unfold landTransfer
  dsimp only
  split
  · split
    · split
      · exact (standing_domainEnds _ _ _).trans hdrop
      · exact (standing_finish _ _ _).trans ((standing_updPend _ _ _ _).trans ((standing_setZ _ _ _ _).trans
          ((standing_logAll _ _ _ _ _ _ _ _).trans hdrop)))
    · exact hdrop
  · exact hdrop

theorem standing_performTransfer (first : Bool) (gid pid : Nat) (errs : List (Nat × Nat)) (s : State) :
    (performTransfer first gid pid errs s).standing = s.standing := by
  unfold performTransfer
  split
  · split
    · split
      · exact standing_finish _ _ _
      · split
        · rfl
        · split
          · exact standing_landTransfer _ _ _ _ _
          · split
            · rfl
            · exact standing_updC fun _ => ⟨rfl, rfl⟩
    · rfl
  · rfl

theorem standing_settleTiles (cs : List (Nat × Cohort)) (s : State) : (settleTiles cs s).standing = s.standing := by
  refine keeps_foldl State.standing (fun s c => keeps_foldl State.standing (fun s gid => keeps_foldl State.standing (fun s e => ?_) _ s) _ s) _ s
  split
  · split
    · exact standing_finish _ _ _
    · rfl
  · exact standing_performTransfer _ _ _ _ _
  · rfl

theorem standing_saveImage (cid : Nat) (s : State) : (saveImage cid s).standing = s.standing := by
  unfold saveImage
  split
  · rfl
  · split <;> rfl

theorem division_askLeave (dest : Option Nat) (cs : List (Nat × Cohort)) (s : State) : (askLeave dest cs s).division = s.division :=
  keeps_foldl State.division (fun _ _ => by rfl) _ s

/-- A resident cohort that is asked to leave is marked; a cohort keeps its residence. -/
theorem seat_askLeave (dest : Option Nat) (cs : List (Nat × Cohort)) (s : State) (cid : Nat) :
    (askLeave dest cs s).seat cid = if ∃ e ∈ cs, e.1 = cid then (s.seat cid).map (fun x => (x.1, x.1 || x.2)) else s.seat cid := by
  induction cs generalizing s with
  | nil => simp [askLeave]
  | cons c cs ih =>
    refine (ih _).trans ?_
    by_cases hc : c.1 = cid
    · subst hc
      rw [seat_updC_self (φ := fun x => (x.1, x.1 || x.2)) fun co => by split <;> simp_all,
        if_pos (⟨c, List.mem_cons_self, rfl⟩ : ∃ e ∈ c :: cs, e.1 = c.1), Option.map_map]
      have hidem : (fun x : Bool × Bool => (x.1, x.1 || x.2)) ∘ (fun x : Bool × Bool => (x.1, x.1 || x.2)) =
          fun x => (x.1, x.1 || x.2) := by
        funext ⟨r, l⟩
        cases r <;> rfl
      rw [hidem, ite_self]
    · rw [seat_updC_of_ne _ (Ne.symm hc)]
      exact if_congr (by simp [hc]) rfl rfl

theorem standing_forgetAll (gids : List Nat) (s : State) :
    (gids.foldl (fun s gid => s.updG gid (fun g => { g.forgetOlds with ready := false, lost := 0, streak := 0 })) s).standing = s.standing :=
  keeps_foldl State.standing (fun _ _ => by rfl) _ s

/-- A cohort leaves its core. -/
def takeSeat (c : Nat × Cohort) (s : State) : State :=
  saveImage c.1 ((c.2.gids.foldl (fun s gid => s.updG gid (fun g => { g.forgetOlds with ready := false, lost := 0, streak := 0 })) s).updC c.1
    (fun co => { co with resident := false, leaving := false }))

theorem suspend_eq (cs : List (Nat × Cohort)) (s : State) : suspend cs s = cs.foldl (fun s c => takeSeat c s) (settleTiles cs s) := rfl

theorem division_takeSeat (c : Nat × Cohort) (s : State) : (takeSeat c s).division = s.division :=
  (congrArg Prod.fst (standing_saveImage _ _)).trans (congrArg Prod.fst (standing_forgetAll c.2.gids s) : _)

theorem seat_takeSeat (c : Nat × Cohort) (s : State) (cid : Nat) :
    (takeSeat c s).seat cid = if c.1 = cid then (s.seat cid).map (fun _ => (false, false)) else s.seat cid := by
  have hforget := congrFun (congrArg Prod.snd (standing_forgetAll c.2.gids s)) cid
  refine (congrFun (congrArg Prod.snd (standing_saveImage _ _)) cid).trans ?_
  show State.seat _ cid = _
  split
  · next h =>
    subst h
    exact (seat_updC_self (φ := fun _ => (false, false)) fun _ => rfl).trans (congrArg (Option.map _) hforget)
  · next h => exact (seat_updC_of_ne _ (Ne.symm h)).trans hforget

/-- Cohorts that leave are neither resident nor leaving; the others stay where they are. -/
theorem seat_suspend (cs : List (Nat × Cohort)) (s : State) (cid : Nat) :
    (suspend cs s).seat cid = if ∃ e ∈ cs, e.1 = cid then (s.seat cid).map (fun _ => (false, false)) else s.seat cid := by
  have hsettle : (settleTiles cs s).seat = s.seat := congrArg Prod.snd (standing_settleTiles cs s)
  rw [suspend_eq, ← hsettle]
  clear hsettle
  generalize settleTiles cs s = s
  induction cs generalizing s with
  | nil => simp
  | cons c cs ih =>
    refine (ih (takeSeat c s)).trans ?_
    rw [seat_takeSeat]
    by_cases hc : c.1 = cid
    · rw [if_pos hc, if_pos (⟨c, List.mem_cons_self, hc⟩ : ∃ e ∈ c :: cs, e.1 = cid), Option.map_map]
      exact ite_self _
    · rw [if_neg hc]
      exact if_congr (by simp [hc]) rfl rfl

theorem division_suspend (cs : List (Nat × Cohort)) (s : State) : (suspend cs s).division = s.division :=
  (keeps_foldl State.division (fun _ _ => division_takeSeat _ _) cs _).trans (congrArg Prod.fst (standing_settleTiles cs s))

theorem division_takeLeaving (s : State) : (takeLeaving s).division = s.division := by
  unfold takeLeaving
  dsimp only
  split
  · rfl
  · exact division_suspend _ _

/-- A cohort stays where it is, or leaves. -/
theorem seat_takeLeaving (s : State) (cid : Nat) : (takeLeaving s).seat cid = s.seat cid ∨
    (takeLeaving s).seat cid = (s.seat cid).map (fun _ => (false, false)) := by
  unfold takeLeaving
  dsimp only
  split
  · exact .inl rfl
  · rw [seat_suspend]
    split
    · exact .inr rfl
    · exact .inl rfl

/-- With no run in progress every cohort that is asked to leave has left. -/
theorem seat_takeLeaving_of_leaving {s : State} {cid : Nat} {r : Bool} (hruns : s.runs = []) (h : s.seat cid = some (r, true)) :
    (takeLeaving s).seat cid = some (false, false) := by
  obtain ⟨co, hco, hseat⟩ := Option.map_eq_some_iff.mp h
  have hmem : (cid, co) ∈ s.cohorts.filter (fun (c : Nat × Cohort) => c.2.leaving) :=
    List.mem_filter.mpr ⟨mem_of_find hco, congrArg Prod.snd hseat⟩
  unfold takeLeaving
  dsimp only
  rw [if_neg (fun he => List.ne_nil_of_mem hmem (List.isEmpty_iff.mp he)), seat_suspend, if_pos, h]
  · rfl
  · exact ⟨_, List.mem_filter.mpr ⟨hmem, by simp [inRun, hruns]⟩, rfl⟩

/-- Cohorts asked to leave: each is on its way, and gone if no run is in progress. -/
theorem leaves_of_asked {s : State} {dest : Option Nat} {cs : List (Nat × Cohort)} {e : Nat × Cohort} (he : e ∈ cs) (hs : e ∈ s.cohorts) :
    ∃ co, (takeLeaving (askLeave dest cs s)).cohorts.find e.1 = some co ∧ (co.resident = true → co.leaving = true) ∧
      (s.runs = [] → co.resident = false) := by
  obtain ⟨co, hco⟩ := exists_find_of_mem hs
  have hasked : (askLeave dest cs s).seat e.1 = some (co.resident, co.resident || co.leaving) := by
    rw [seat_askLeave, if_pos ⟨e, he, rfl⟩, State.seat, hco]
    rfl
  have hleft : ∀ x : Bool × Bool, (takeLeaving (askLeave dest cs s)).seat e.1 = some x → (x.1 = true → x.2 = true) →
      (s.runs = [] → x.1 = false) → ∃ co, (takeLeaving (askLeave dest cs s)).cohorts.find e.1 = some co ∧
        (co.resident = true → co.leaving = true) ∧ (s.runs = [] → co.resident = false) := fun x hx h1 h2 => by
    obtain ⟨co', hco', rfl⟩ := Option.map_eq_some_iff.mp hx
    exact ⟨co', hco', h1, h2⟩
  rcases seat_takeLeaving (askLeave dest cs s) e.1 with hstay | hgone
  · refine hleft _ (hstay.trans hasked) (fun h => by simp [show co.resident = true from h]) fun hruns => ?_
    have hask : (askLeave dest cs s).runs = [] := List.isEmpty_iff.mp <|
      (congrArg (fun d : Nat × Option Nat × Bool => d.2.2) (division_askLeave dest cs s)).trans (List.isEmpty_iff.mpr hruns)
    cases hr : co.resident with
    | false => rfl
    | true =>
      rw [hr] at hasked
      have := (seat_takeLeaving_of_leaving hask hasked).symm.trans (hstay.trans hasked)
      cases this
  · exact hleft (false, false) (hgone.trans (by rw [hasked]; rfl)) nofun fun _ => rfl

end Sys2Proof.Machine
end

section
/-! PROOFS. Events of queues, admission and energy (R389 to R392, R397, R411). -/

namespace Sys2Proof.Machine

section Queues

variable {s : State} {part q : Nat}

theorem exec_queueDoorbell : exec (.queueDoorbell part q) s = execQueueDoorbell part q s := rfl
theorem exec_packetAdmission (b : Bool) (pl : List (List CohortPlace)) :
    exec (.packetAdmission part q b pl) s = execPacketAdmission part q b pl s := rfl
theorem exec_admissionWaitTimeout : exec (.admissionWaitTimeout part q) s = execAdmissionWaitTimeout part q s := rfl
theorem exec_energyTick (t : EnergyMeter) : exec (.energyTick t) s = execEnergyTick t s := rfl

theorem queue_updQueue (f : Queue → Queue) (s : State) : (updQueue part q f s).queue part q = f (s.queue part q) :=
  Tab.get_set_self _ _ _ _

theorem queueDoorbell_idle (h : s.serving = false) : exec (.queueDoorbell part q) s = .next s := by
  rw [exec_queueDoorbell, execQueueDoorbell, h]
  rfl

theorem packetAdmission_idle (b : Bool) (pl : List (List CohortPlace)) (h : s.serving = false) :
    exec (.packetAdmission part q b pl) s = .next s := by
  rw [exec_packetAdmission, execPacketAdmission, h]
  rfl

/-- A queue whose doorbell rings is mapped, whichever queue gives way. -/
theorem queueDoorbell_maps {x : QDesc} (h : s.serving = true) (hq : queueDesc s part q = some x) :
    ∃ s1, exec (.queueDoorbell part q) s = .next s1 ∧ s1.mem = s.mem ∧ (s1.queue part q).mapped = true ∧
      (s1.queue part q).lastPending = s.now := by
  have hup : ∀ t : State, t.mem = s.mem → t.now = s.now → ∃ s1,
      (.next (updQueue part q (fun x => { x with mapped := true, lastPending := s.now }) t) : Out) = .next s1 ∧ s1.mem = s.mem ∧
      (s1.queue part q).mapped = true ∧ (s1.queue part q).lastPending = s.now := fun t hm _ =>
    ⟨_, rfl, hm, by rw [queue_updQueue], by rw [queue_updQueue]⟩
  rw [exec_queueDoorbell, execQueueDoorbell, hq, if_neg (by rw [h]; decide)]
  dsimp only
  split
  · exact hup s rfl rfl
  · split
    · exact hup s rfl rfl
    · split
      · exact hup s rfl rfl
      · exact hup _ rfl rfl

theorem packetAdmission_serving (b : Bool) (pl : List (List CohortPlace)) (h : s.serving = true) (hn : s.npartAsked = none) :
    exec (.packetAdmission part q b pl) s = .next (admitHead part q b pl s) := by
  rw [exec_packetAdmission, execPacketAdmission, if_pos ⟨h, by rw [hn]; rfl⟩]

/-- A head packet that has been read is not read again. -/
theorem readHead_of_head {h : Head} (b : Bool) (d : QDesc) (hh : (s.queue part q).head = some h) : readHead part q b d s = s := by
  unfold readHead
  split
  · rfl
  · exact if_pos (.inr (.inl (by rw [hh]; rfl)))

/-- The launch that a head packet describes. -/
def headLaunch (part q : Nat) (d : QDesc) (h : Head) : Launch :=
  { pktLaunch h.bytes h.addr part d.asid with queue := some q, index := h.index }

/-- A packet of no gang that has been read, and the launch it describes, by the ranks of its process-group table: the last part of
`admitHead`. -/
def admitPacket (part q : Nat) (pl : List (List CohortPlace)) (d : QDesc) (h : Head) (l : Launch) (ranks : List Nat) (s : State) : State :=
  if !pktLegal h.bytes l ∨ (l.priv ∧ !d.kq) ∨ !everFits s l ∨ (donePlace s l).isNone then refuseHead part q h l 5 s
  else if (producers s part h.id h.bytes).2 then refuseHead part q h l 4 s
  else if outranked s part l.prio q then (if feasible s l then s else waitSpace part q s)
  else if 1 < ranks.length then
    let id := ((s.rankOf part).getD 0) * 2 ^ 48 + s.gangSeq % 2 ^ 48
    let g : Gang := { gang := id, part := part, coord := true, ranks := ranks, addr := h.addr, pkt := h.bytes, asid := d.asid, queue := q
                      firstAt := s.now, refused := true, sentAt := s.now }
    let s1 := { s with gangs := s.gangs.put (16 * id + part) g, gangSeq := s.gangSeq + 1 }
    match gangAnswer s1 l (some q) pl with
    | none => s
    | some _ => tryGang (16 * id + part) pl s1
  else if !feasible s l then waitSpace part q s
  else if !energyFits s l ∨ !placeFits s l pl then s
  else match startLaunch h.id { l with deps := (producers s part h.id h.bytes).1 } pl s with
    | none => waitSpace part q s
    | some s1 => updEnergy part (fun a => { a with rsvd := a.rsvd + l.energy }) (takeHead part q s1)

section Head

variable {b : Bool} {pl : List (List CohortPlace)} {d : QDesc} {h : Head} {l : Launch} {ranks : List Nat}

theorem admitHead_of_head (b : Bool) (pl : List (List CohortPlace)) (hd : queueDesc s part q = some d) (hh : (s.queue part q).head = some h)
    (hg : gangOfQueue s part q = none) : admitHead part q b pl s = match groupTable s (headLaunch part q d h) with
      | none => refuseHead part q h (headLaunch part q d h) 5 s
      | some ranks => admitPacket part q pl d h (headLaunch part q d h) ranks s := by
  unfold admitHead
  rw [hd]
  dsimp only
  rw [readHead_of_head b d hh, hh]
  dsimp only
  rw [hg]
  rfl

/-- What refuses a packet with status 5 (R393, R394, R396). -/
def badPacket (s : State) (d : QDesc) (h : Head) (l : Launch) : Prop :=
  pktLegal h.bytes l = false ∨ (l.priv = true ∧ d.kq = false) ∨ everFits s l = false ∨ donePlace s l = none

theorem badPacket_iff : ((!pktLegal h.bytes l) = true ∨ (l.priv = true ∧ (!d.kq) = true) ∨ (!everFits s l) = true ∨
    (donePlace s l).isNone = true) ↔ badPacket s d h l := by
  simp [badPacket]

theorem admitPacket_bad (hbad : badPacket s d h l) : admitPacket part q pl d h l ranks s = refuseHead part q h l 5 s :=
  if_pos (badPacket_iff.mpr hbad)

theorem admitPacket_cancelled (hbad : ¬badPacket s d h l) (hdeps : (producers s part h.id h.bytes).2 = true) :
    admitPacket part q pl d h l ranks s = refuseHead part q h l 4 s :=
  (if_neg (mt badPacket_iff.mp hbad)).trans (if_pos hdeps)

theorem admitPacket_admitted {s1 : State} (hbad : ¬badPacket s d h l) (hdeps : (producers s part h.id h.bytes).2 = false)
    (hout : outranked s part l.prio q = false) (hranks : ranks.length ≤ 1) (hfit : feasible s l = true) (henergy : energyFits s l = true)
    (hplace : placeFits s l pl = true) (hstart : startLaunch h.id { l with deps := (producers s part h.id h.bytes).1 } pl s = some s1) :
    admitPacket part q pl d h l ranks s = updEnergy part (fun a => { a with rsvd := a.rsvd + l.energy }) (takeHead part q s1) := by
  unfold admitPacket
  rw [if_neg (mt badPacket_iff.mp hbad), hdeps, if_neg (by decide), hout, if_neg (by decide), if_neg (Nat.not_lt.mpr hranks), hfit,
    if_neg (by decide), henergy, hplace, if_neg (by decide), hstart]

end Head

/-! ### Waiting for space -/

theorem admissionWaitTimeout_due {h : Head} {t : Nat} (hh : (s.queue part q).head = some h) (hw : (s.queue part q).waiting = some t)
    (hdue : t + 90000000 ≤ s.now) :
    ∃ s1, exec (.admissionWaitTimeout part q) s = .next s1 ∧ (s1.queue part q).holding = true ∧ s1.mem = s.mem := by
  rw [exec_admissionWaitTimeout, execAdmissionWaitTimeout, hh, hw]
  dsimp only
  rw [if_pos hdue]
  exact ⟨_, rfl, by rw [queue_updQueue], rfl⟩

theorem admissionWaitTimeout_early {h : Head} {t : Nat} (hh : (s.queue part q).head = some h) (hw : (s.queue part q).waiting = some t)
    (hearly : s.now < t + 90000000) : exec (.admissionWaitTimeout part q) s = .next s := by
  rw [exec_admissionWaitTimeout, execAdmissionWaitTimeout, hh, hw]
  dsimp only
  rw [if_neg (by omega)]

end Queues

/-! ### Energy -/

theorem find_map_val {α : Type} (g : α → α) (m : Tab α) (k : Nat) : Tab.find (m.map (fun e => (e.1, g e.2))) k = (m.find k).map g := by
  induction m with
  | nil => rfl
  | cons e m ih =>
    rw [List.map_cons, Tab.find_cons, ih, show Tab.find (e :: m) k = if k = e.1 then some e.2 else Tab.find m k from rfl]
    split <;> rfl

section Energy

variable {s : State} {part : Nat}

/-- The core-clocks of a partition's launches since the last metering. -/
def occTotal (s : State) (part : Nat) : Nat :=
  (s.launches.filter (fun (x : Nat × Launch) => x.2.part == part)).foldl (fun n x => n + x.2.occ) 0

/-- A launch's share of what has been metered (R411). -/
def metered (s : State) (part mj : Nat) (l : Launch) : Launch :=
  if l.part = part ∧ occTotal s part ≠ 0 then { l with occ := 0, met := l.met + mj * 2 ^ 32 * l.occ / occTotal s part } else l

theorem meter_eq (part mj : Nat) (s : State) : ∃ ls, meter part mj s = { s with launches := ls } ∧
    ∀ lid, Tab.find ls lid = (s.launches.find lid).map (metered s part mj) := by
  unfold meter
  show ∃ ls, (if occTotal s part = 0 then s else _) = _ ∧ _
  by_cases h0 : occTotal s part = 0
  · rw [if_pos h0]
    refine ⟨_, rfl, fun lid => ?_⟩
    have hid : metered s part mj = id := funext fun l => if_neg fun h => h.2 h0
    rw [hid, Option.map_id]
    rfl
  · rw [if_neg h0]
    refine ⟨_, rfl, fun lid => ?_⟩
    rw [← find_map_val]
    congr 1
    refine List.map_congr_left fun e _ => ?_
    by_cases he : e.2.part = part
    · rw [if_pos he, metered, if_pos ⟨he, h0⟩]
      rfl
    · rw [if_neg he, metered, if_neg fun h => he h.1]

theorem energyTick_due {mj : Nat} (hpart : part < s.npart) (hdue : (s.account part).tickAt + 9000000 ≤ s.now) :
    ∃ s1, exec (.energyTick ⟨part, mj⟩) s = .next s1 ∧ s1.mem = s.mem ∧
      s1.account part = { bal := min ((s.account part).debits.foldl (fun (b : Int) d => b - (d.1 : Int)) (s.account part).bal + (capw s part : Int))
                            (energyCeil s part : Int)
                          rsvd := (s.account part).debits.foldl (fun n d => n - d.2) (s.account part).rsvd, debits := [], tickAt := s.now } ∧
      ∀ lid l, s.launches.find lid = some l → s1.launches.find lid = some (metered s part mj l) := by
  obtain ⟨ls, hmeter, hls⟩ := meter_eq part mj s
  rw [exec_energyTick, execEnergyTick]
  dsimp only
  rw [if_neg (by omega), hmeter]
  exact ⟨_, rfl, rfl, Tab.get_set_self _ _ _ _, fun lid l h => (hls lid).trans (by rw [h]; rfl)⟩

theorem energyTick_early {mj : Nat} (h : s.npart ≤ part ∨ s.now < (s.account part).tickAt + 9000000) :
    exec (.energyTick ⟨part, mj⟩) s = .next s := by
  rw [exec_energyTick, execEnergyTick]
  dsimp only
  rw [if_pos h]

end Energy

end Sys2Proof.Machine
end

section
/-! PROOFS. Events of gangs: reservations, their answers, commitment, retries, starts and ends (R392, R395, R397, R399). -/

namespace Sys2Proof.Machine

section Gangs

variable {s : State} {gang key part : Nat} {g : Gang}

theorem exec_reserve (asid addr : Nat) (pkt : List Byte) (pl : List (List CohortPlace)) :
    exec (.reserve gang part asid addr pkt pl) s = execReserve gang part asid addr pkt pl s := rfl
theorem exec_grant (r : Nat) (ok : Bool) : exec (.grant gang r ok) s = execGrant gang r ok s := rfl
theorem exec_commit (t : Nat) : exec (.commit gang t) s = execCommit gang t s := rfl
theorem exec_rollback : exec (.rollback gang) s = execRollback gang s := rfl
theorem exec_gangReserveTimeout : exec (.gangReserveTimeout gang) s = execGangReserveTimeout gang s := rfl
theorem exec_gangRetryTimer (pl : List (List CohortPlace)) : exec (.gangRetryTimer gang pl) s = execGangRetryTimer gang pl s := rfl
theorem exec_gangStart : exec (.gangStart gang) s = execGangStart gang s := rfl
theorem exec_gangContactLost (x : GangEnd) : exec (.gangContactLost x) s = execGangContactLost x s := rfl

/-- A change of a gang counts by what it makes of that gang. -/
theorem updGang_congr (hf : s.gangs.find key = some g) {f h : Gang → Gang} (e : f g = h g) : updGang key f s = updGang key h s := by
  unfold updGang Tab.upd
  rw [hf]
  dsimp only
  rw [e]

theorem gangs_sends {β : Type} (m : State → β → Msg) (l : List β) (s : State) : (l.foldl (fun s r => s.send (m s r)) s).gangs = s.gangs :=
  keeps_foldl State.gangs (fun _ _ => by rfl) l s

/-! ### Reservations -/

/-- The launch of a reservation from another chip. -/
def reservedLaunch (gang part asid addr : Nat) (pkt : List Byte) : Launch := { pktLaunch pkt addr part asid with gang := some gang }

/-- The part of a gang that another chip coordinates. -/
def reservedGang (s : State) (gang part asid addr : Nat) (pkt : List Byte) : Gang :=
  { gang := gang, part := part, coord := false, addr := addr, pkt := pkt, asid := asid, queue := 0
    ranks := (groupTable s (reservedLaunch gang part asid addr pkt)).getD [gang / 2 ^ 48, (s.rankOf part).getD 0] }

theorem reserve_idle (asid addr : Nat) (pkt : List Byte) (pl : List (List CohortPlace)) (h : s.rankOf part = none) :
    exec (.reserve gang part asid addr pkt pl) s = .next s := by
  rw [exec_reserve, execReserve, if_pos (.inr (.inl (by rw [h]; rfl)))]

theorem gangs_holdGang {pl : List (List CohortPlace)} (h : s.gangs.find key = some g) :
    (holdGang key pl s).gangs.find key = some { g with held := true, place := pl, saves := (saveRoom s g.launch).getD [] } := by
  unfold holdGang
  rw [h]
  show ((updGang key _ s).gangs.find key) = _
  rw [updGang, Tab.find_upd_self, h]
  rfl

section Reserve

variable {asid addr : Nat} {pkt : List Byte} {pl : List (List CohortPlace)} (hpart : part < s.npart) (hrank : (s.rankOf part).isSome = true)
  (hnew : s.gangs.find (16 * gang + part) = none)

include hpart hrank hnew

theorem reserve_eq : exec (.reserve gang part asid addr pkt pl) s =
    match gangAnswer s (reservedLaunch gang part asid addr pkt) none pl with
    | none => .next s
    | some false => .next (s.send (.grant (gang / 2 ^ 48) gang false))
    | some true => .next ((holdGang (16 * gang + part) pl { s with
        gangs := s.gangs.put (16 * gang + part) (reservedGang s gang part asid addr pkt) }).send (.grant (gang / 2 ^ 48) gang true)) := by
  have hidle : ¬(s.npart ≤ part ∨ (s.rankOf part).isNone = true ∨ (s.gangs.find (16 * gang + part)).isSome = true) := by
    obtain ⟨r, hr⟩ := Option.isSome_iff_exists.mp hrank
    simp [hnew, hr, hpart]
  rw [exec_reserve, execReserve]
  dsimp only
  rw [if_neg hidle]
  show (.next (match gangAnswer s (reservedLaunch gang part asid addr pkt) none pl with
    | none => _
    | some false => _
    | some true => _) : Out) = _
  split <;> rfl

theorem reserve_refused (h : gangAnswer s (reservedLaunch gang part asid addr pkt) none pl = some false) :
    exec (.reserve gang part asid addr pkt pl) s = .next (s.send (.grant (gang / 2 ^ 48) gang false)) := by
  rw [reserve_eq hpart hrank hnew, h]

theorem reserve_granted (h : gangAnswer s (reservedLaunch gang part asid addr pkt) none pl = some true) :
    ∃ s1, exec (.reserve gang part asid addr pkt pl) s = .next s1 ∧ (s1.gangs.find (16 * gang + part)).any (fun g => g.held) = true ∧
      .grant (gang / 2 ^ 48) gang true ∈ s1.outbox := by
  rw [reserve_eq hpart hrank hnew, h]
  refine ⟨_, rfl, ?_, List.mem_append_right _ (List.mem_singleton.mpr rfl)⟩
  show ((holdGang _ _ _).gangs.find _).any _ = true
  rw [gangs_holdGang (Tab.find_put_self _ _ _)]
  rfl

end Reserve

/-! ### A gang with no part here -/

section NoPart

variable (hk : gangKeys s gang = [])

include hk

theorem grant_noPart (r : Nat) (ok : Bool) : exec (.grant gang r ok) s = .next s := by rw [exec_grant, execGrant, hk]; rfl

theorem gangEvent_noPart (t p : Nat) : ∀ i ∈ [Instr.commit gang t, .rollback gang, .gangReserveTimeout gang, .gangRetryTimer gang [],
    .gangStart gang, .gangContactLost ⟨gang, .lost⟩, .gangContactLost ⟨gang, .failed p []⟩], exec i s = .next s := by
  have hend : ∀ st rec, endGangHere gang st rec s = s := fun st rec => by rw [endGangHere, hk]; rfl
  simp only [List.forall_mem_cons]
  refine ⟨?commit, ?rollback, ?timeout, ?retry, ?start, ?lost, congrArg _ (hend p []), nofun⟩
  case commit => rw [exec_commit, execCommit, hk]; rfl
  case rollback => rw [exec_rollback, execRollback, hk]; rfl
  case timeout => rw [exec_gangReserveTimeout, execGangReserveTimeout, hk]; rfl
  case retry => rw [exec_gangRetryTimer, execGangRetryTimer, hk]; rfl
  case start =>
    rw [exec_gangStart, execGangStart, hk]
    dsimp only
    rw [if_pos (.inr (.inr rfl))]
  case lost =>
    rw [exec_gangContactLost, execGangContactLost]
    dsimp only
    have htell : ∀ st, tellGang gang st s = s := fun st => by rw [tellGang, hk]; rfl
    rw [htell, ite_self, hend]

end NoPart

/-! ### A gang with one part here -/

section OnePart

variable (hk : gangKeys s gang = [key]) (hf : s.gangs.find key = some g)

include hk hf

section Coordinator

variable (hcoord : g.coord = true) (hheld : g.held = true) (hstart : g.start = none)

include hcoord hheld hstart

/-- What the answer of a rank of the gang makes of the coordinator (R399). -/
theorem grant_eq {r : Nat} (hr : r ∈ g.ranks) (ok : Bool) : exec (.grant gang r ok) s = .next (if !ok then rollBack key s else
    let granted := if g.granted.contains r then g.granted else r :: g.granted
    let s1 := updGang key (fun g => { g with granted := granted }) s
    if granted.length = g.ranks.length ∧ s.now ≤ g.sentAt + 1800000 then
      (g.ranks.filter (fun r => some r != s.rankOf g.part)).foldl (fun s r => s.send (.commit r gang (s.now + 450000)))
        (updGang key (fun g => { g with start := some (s.now + 450000) }) s1)
    else s1) := by
  have hidle : ¬((!g.coord) = true ∨ (!g.held) = true ∨ g.start.isSome = true ∨ (!g.ranks.contains r) = true) := by
    simp [hcoord, hheld, hstart, hr]
  rw [exec_grant, execGrant, hk, List.foldl_cons, List.foldl_nil, hf]
  dsimp only
  rw [if_neg hidle]

theorem grant_refused {r : Nat} (hr : r ∈ g.ranks) : exec (.grant gang r false) s = .next (rollBack key s) :=
  grant_eq hk hf hcoord hheld hstart hr false

theorem grant_new {r : Nat} (hr : r ∈ g.ranks) (hnew : r ∉ g.granted) : exec (.grant gang r true) s = .next (
    if (r :: g.granted).length = g.ranks.length ∧ s.now ≤ g.sentAt + 1800000 then
      (g.ranks.filter (fun r => some r != s.rankOf g.part)).foldl (fun s r => s.send (.commit r gang (s.now + 450000)))
        (updGang key (fun g => { g with start := some (s.now + 450000) }) (updGang key (fun h => { h with granted := r :: g.granted }) s))
    else updGang key (fun h => { h with granted := r :: g.granted }) s) := by
  have hc : g.granted.contains r = false := by simpa using hnew
  rw [grant_eq hk hf hcoord hheld hstart hr, hc]
  rfl

theorem grant_more {r : Nat} (hr : r ∈ g.ranks) (hnew : r ∉ g.granted) (hmore : g.granted.length + 1 < g.ranks.length) :
    exec (.grant gang r true) s = .next (updGang key (fun g => { g with granted := r :: g.granted }) s) := by
  rw [grant_new hk hf hcoord hheld hstart hr hnew, if_neg fun h => hmore.ne h.1]
  exact congrArg _ (updGang_congr hf rfl)

theorem grant_last {r : Nat} (hr : r ∈ g.ranks) (hnew : r ∉ g.granted) (hlast : g.granted.length + 1 = g.ranks.length)
    (htime : s.now ≤ g.sentAt + 1800000) : ∃ s1, exec (.grant gang r true) s = .next s1 ∧
      s1.gangs.find key = some { g with granted := r :: g.granted, start := some (s.now + 450000) } := by
  rw [grant_new hk hf hcoord hheld hstart hr hnew, if_pos ⟨hlast, htime⟩]
  refine ⟨_, rfl, ?_⟩
  rw [gangs_sends (fun s r => .commit r gang (s.now + 450000))]
  show ((s.gangs.upd key _).upd key _).find key = _
  rw [Tab.find_upd_self, Tab.find_upd_self, hf]
  rfl

theorem gangReserveTimeout_due (h : g.sentAt + 1800000 ≤ s.now) : exec (.gangReserveTimeout gang) s = .next (rollBack key s) := by
  rw [exec_gangReserveTimeout, execGangReserveTimeout, hk, List.foldl_cons, List.foldl_nil, hf]
  dsimp only
  rw [if_pos ⟨hcoord, hheld, by rw [hstart]; rfl, h⟩]

omit hcoord hheld hstart in
theorem gangReserveTimeout_early (h : s.now < g.sentAt + 1800000) : exec (.gangReserveTimeout gang) s = .next s := by
  rw [exec_gangReserveTimeout, execGangReserveTimeout, hk, List.foldl_cons, List.foldl_nil, hf]
  dsimp only
  rw [if_neg fun hn => Nat.not_le.mpr h hn.2.2.2]

end Coordinator

theorem commit_held (t : Nat) (hcoord : g.coord = false) (hheld : g.held = true) (hstart : g.start = none) :
    ∃ s1, exec (.commit gang t) s = .next s1 ∧ s1.gangs.find key = some { g with start := some t } := by
  rw [exec_commit, execCommit, hk]
  refine ⟨_, rfl, ?_⟩
  rw [List.foldl_cons, List.foldl_nil, updGang, Tab.find_upd_self, hf, Option.map_some, hcoord, hheld, hstart]
  rfl

theorem rollback_uncommitted (hcoord : g.coord = false) (hstart : g.start = none) :
    ∃ s1, exec (.rollback gang) s = .next s1 ∧ s1.gangs.find key = none := by
  rw [exec_rollback, execRollback, hk, List.foldl_cons, List.foldl_nil, hf]
  dsimp only
  rw [if_neg (by simp [hcoord, hstart])]
  exact ⟨_, rfl, Tab.find_del_self _ _⟩

section Retry

variable (pl : List (List CohortPlace)) (hcoord : g.coord = true) (hrefused : g.refused = true) (hstart : g.start = none)
  (hdue : g.sentAt + 9000 * (20 + gang % 64) ≤ s.now)

include hcoord hrefused hstart hdue

theorem gangRetryTimer_again (h : s.now < g.firstAt + 90000000) : exec (.gangRetryTimer gang pl) s = .next (tryGang key pl s) := by
  rw [exec_gangRetryTimer, execGangRetryTimer, hk, List.foldl_cons, List.foldl_nil, hf]
  dsimp only
  rw [if_neg (by simp [hcoord, hrefused, hstart, hdue]), if_neg (by omega)]

theorem gangRetryTimer_given_up {h : Head} (hover : g.firstAt + 90000000 ≤ s.now) (hh : (s.queue g.part g.queue).head = some h) :
    exec (.gangRetryTimer gang pl) s = .next (refuseHead g.part g.queue h g.launch 6 { s with gangs := s.gangs.del key }) := by
  rw [exec_gangRetryTimer, execGangRetryTimer, hk, List.foldl_cons, List.foldl_nil, hf]
  dsimp only
  rw [if_neg (by simp [hcoord, hrefused, hstart, hdue]), if_pos hover, hh]

end Retry

section Start

variable {t : Nat} (hstart : g.start = some t) (hlid : g.lid = none)

include hstart hlid

/-- A part of the gang is to start by now. -/
theorem due_iff : ((gangKeys s gang).any (fun key => (s.gangs.find key).any (fun g => g.start.any (fun t => decide (t ≤ s.now)) && g.lid.isNone)))
    = decide (t ≤ s.now) := by
  rw [hk, List.any_cons, List.any_nil, hf, Option.any_some, hstart, hlid]
  simp

theorem gangStart_early (h : s.now < t) : exec (.gangStart gang) s = .next s := by
  rw [exec_gangStart, execGangStart]
  dsimp only
  rw [due_iff hk hf hstart hlid, if_pos (.inr (.inr (by simpa using h)))]

variable (hdue : t ≤ s.now) (hn : s.npartAsked = none) (hs : s.serving = true)

include hdue hn hs

theorem gangStart_due : exec (.gangStart gang) s = .next (if gangCancelled s gang then endGangHere gang 4 [] (tellGang gang 4 s) else
    let head := if g.coord then (s.queue g.part g.queue).head else none
    let id := (head.map (·.id)).getD s.nextId
    match startLaunch id { g.launch with
        queue := if g.coord then some g.queue else none, index := (head.map (·.index)).getD 0, deps := (producers s g.part id g.pkt).1 } g.place
        (updGang key (fun g => { g with lid := some id, held := false, saves := [] }) { s with nextId := s.nextId + 1 }) with
    | some s2 => if g.coord then takeHead g.part g.queue s2 else s2
    | none => s) := by
  rw [exec_gangStart, execGangStart]
  dsimp only
  rw [due_iff hk hf hstart hlid, if_neg (by simp [hs, hn, hdue]), hk, List.foldl_cons, List.foldl_nil, hf]
  dsimp only
  rw [hstart, hlid]
  dsimp only
  rw [if_neg (Nat.not_lt.mpr hdue)] <;> rfl

theorem gangStart_cancelled (hc : gangCancelled s gang = true) :
    exec (.gangStart gang) s = .next (endGangHere gang 4 [] (tellGang gang 4 s)) := by
  rw [gangStart_due hk hf hstart hlid hdue hn hs, if_pos hc]

theorem gangStart_member {s2 : State} (hc : gangCancelled s gang = false) (hcoord : g.coord = false)
    (hl : startLaunch s.nextId { g.launch with queue := none, index := 0, deps := (producers s g.part s.nextId g.pkt).1 } g.place
      (updGang key (fun g => { g with lid := some s.nextId, held := false, saves := [] }) { s with nextId := s.nextId + 1 }) = some s2) :
    exec (.gangStart gang) s = .next s2 := by
  rw [gangStart_due hk hf hstart hlid hdue hn hs, hc, if_neg (by decide), hcoord]
  dsimp only
  simp only [Bool.false_eq_true, ↓reduceIte, Option.map_none, Option.getD_none]
  rw [hl]

end Start

section Lost

variable {t lid : Nat} (hstart : g.start = some t) (hlid : g.lid = some lid)

include hstart hlid

theorem endGangHere_started (st : Nat) (rec : List Word64) : endGangHere gang st rec s = endLaunch lid st rec s := by
  rw [endGangHere, hk, List.foldl_cons, List.foldl_nil, hf]
  dsimp only
  rw [hstart, hlid]

theorem gangContactLost_failed (st : Nat) (rec : List Word64) : exec (.gangContactLost ⟨gang, .failed st rec⟩) s = .next (endLaunch lid st rec s) :=
  congrArg _ (endGangHere_started hk hf hstart hlid st rec)

theorem gangContactLost_lost :
    exec (.gangContactLost ⟨gang, .lost⟩) s = .next (endLaunch lid (2 + Config.freeNat s.tick gang % 6) [] s) := by
  have hany : ((gangKeys s gang).any fun key => (s.gangs.find key).any (·.lid.isSome)) = true := by
    rw [hk, List.any_cons, hf, Option.any_some, hlid]
    rfl
  rw [exec_gangContactLost, execGangContactLost]
  dsimp only
  rw [hany, if_neg (by decide), endGangHere_started hk hf hstart hlid]

end Lost

end OnePart

end Gangs

end Sys2Proof.Machine
end

section
/-! PROOFS. Teams that leave and return, and the partitions (R113, R114, R118, R403, R413). -/

namespace Sys2Proof.Machine

section Teams

variable {s : State} {lid team : Nat} {la : Launch}

theorem exec_preemption (t : Option Nat) : exec (.preemption lid t) s = execPreemption lid t s := rfl
theorem exec_gangSuspend : exec (.gangSuspend lid) s = execGangSuspend lid s := rfl
theorem exec_restore (pl : List CohortPlace) : exec (.restore lid team pl) s = execRestore lid team pl s := rfl
theorem exec_npartWrite (n : Nat) : exec (.npartWrite n) s = execNpartWrite n s := rfl

theorem mem_of_gangCohorts {e : Nat × Cohort} (h : e ∈ gangCohorts s lid) : e ∈ s.cohorts := by
  obtain ⟨l, -, he⟩ := List.mem_flatMap.mp h
  exact (List.mem_filter.mp he).1

theorem preemption_leaves (h : s.launches.find lid = some la) (hchip : onOneChip s la = true) (hwait : higherWaits s la.part la.prio = true)
    (hres : residentFor s (gangCohorts s lid) = true) :
    ∃ t, exec (.preemption lid none) s = .next t ∧ ∀ e ∈ gangCohorts s lid, ∃ co, t.cohorts.find e.1 = some co ∧
      (co.resident = true → co.leaving = true) ∧ (s.runs = [] → co.resident = false) := by
  rw [exec_preemption, execPreemption, h]
  dsimp only
  rw [if_pos ⟨hchip, hwait, hres⟩]
  exact ⟨_, rfl, fun e he => leaves_of_asked he (mem_of_gangCohorts he)⟩

theorem gangSuspend_leaves (lid : Nat) : ∃ t, exec (.gangSuspend lid) s = .next t ∧ ∀ e ∈ gangCohorts s lid, ∃ co,
    t.cohorts.find e.1 = some co ∧ (co.resident = true → co.leaving = true) ∧ (s.runs = [] → co.resident = false) :=
  ⟨_, rfl, fun _ he => leaves_of_asked he (mem_of_gangCohorts he)⟩

theorem preemption_team {k : Nat} (h : s.launches.find lid = some la)
    (hm : (migrant s (teamCluster (cohortsOf s lid (some team)))).map (·.2) = some (lid, team))
    (hk : (coolers s la (teamCluster (cohortsOf s lid (some team))) (s.therms (teamCluster (cohortsOf s lid (some team)))).temp).find?
      (isCoolest s la (teamCluster (cohortsOf s lid (some team))) (s.therms (teamCluster (cohortsOf s lid (some team)))).temp) = some k) :
    exec (.preemption lid (some team)) s = .next (startMigration (teamCluster (cohortsOf s lid (some team))) k s) := by
  rw [exec_preemption, execPreemption, h]
  dsimp only
  rw [if_pos hm, hk]

/-! ### Restore -/

section Restore

variable {pl : List CohortPlace} (hs : s.serving = true) (hn : s.npartAsked = none) (h : s.launches.find lid = some la)

include hs hn h

theorem restore_eq : exec (.restore lid team pl) s = .next (
    if (cohortsOf s lid (some team)).all (fun c => !c.2.resident && restorable s c.2) = true ∧
      (headHolds s la.part = true → (cohortsOf s lid (some team)).any (fun c => c.2.dest.isSome) = true) ∧
      restoreFits s la (cohortsOf s lid (some team)) pl = true then restoreTeam la (cohortsOf s lid (some team)) pl s else s) := by
  rw [exec_restore, execRestore, if_pos ⟨hs, by rw [hn]; rfl⟩, tryRestore, h]

theorem restore_unfit (hf : restoreFits s la (cohortsOf s lid (some team)) pl = false) : exec (.restore lid team pl) s = .next s := by
  rw [restore_eq hs hn h, if_neg fun hc => by rw [hf] at hc; exact absurd hc.2.2 (by decide)]

theorem restore_fit (hc : ∀ c ∈ cohortsOf s lid (some team), c.2.resident = false ∧ restorable s c.2 = true) (hh : headHolds s la.part = false)
    (hf : restoreFits s la (cohortsOf s lid (some team)) pl = true) :
    exec (.restore lid team pl) s = .next (restoreTeam la (cohortsOf s lid (some team)) pl s) := by
  rw [restore_eq hs hn h, if_pos]
  refine ⟨List.all_eq_true.mpr fun c hmem => ?_, fun h' => ?_, hf⟩
  · rw [(hc c hmem).1, (hc c hmem).2]
    rfl
  · rw [hh] at h'
    cases h'

end Restore

/-- A cohort placed again. -/
def returnCohort (la : Launch) (e : (Nat × Cohort) × CohortPlace) (s : State) : State :=
  (liveGids s e.1.2).zipIdx.foldl (fun s g => s.updG g.1 (fun x => { x with idx := e.2.groups.getD g.2 0, rstr := true, ready := false }))
    (s.updC e.1.1 (fun co => co.return s la e.2))

theorem restoreTeam_eq (la : Launch) (cs : List (Nat × Cohort)) (pl : List CohortPlace) (s : State) :
    restoreTeam la cs pl s = (cs.zip pl).foldl (fun s e => returnCohort la e s) s := rfl

theorem seat_returnCohort (la : Launch) (e : (Nat × Cohort) × CohortPlace) (s : State) (cid : Nat) :
    (returnCohort la e s).seat cid = if e.1.1 = cid then (s.seat cid).map (fun _ => (true, false)) else s.seat cid := by
  refine (congrFun (keeps_foldl State.seat (fun _ _ => by rfl) _ _) cid).trans ?_
  split
  · next h =>
    subst h
    exact seat_updC_self (φ := fun _ => (true, false)) fun _ => rfl
  · next h => exact seat_updC_of_ne _ (Ne.symm h)

theorem seat_returned (la : Launch) (l : List ((Nat × Cohort) × CohortPlace)) (s : State) (cid : Nat) :
    (l.foldl (fun s e => returnCohort la e s) s).seat cid =
      if ∃ e ∈ l, e.1.1 = cid then (s.seat cid).map (fun _ => (true, false)) else s.seat cid := by
  induction l generalizing s with
  | nil => simp
  | cons e l ih =>
    refine (ih (returnCohort la e s)).trans ?_
    rw [seat_returnCohort]
    by_cases he : e.1.1 = cid
    · rw [if_pos he, if_pos (⟨e, List.mem_cons_self, he⟩ : ∃ d ∈ e :: l, d.1.1 = cid), Option.map_map]
      exact ite_self _
    · rw [if_neg he]
      exact if_congr (by simp [he]) rfl rfl

/-- The cohorts of a team that returns are resident again. -/
theorem restoreTeam_resident {t : Option Nat} {pl : List CohortPlace} (la : Launch) :
    ∀ e ∈ (cohortsOf s lid t).zip pl, ∃ co, (restoreTeam la (cohortsOf s lid t) pl s).cohorts.find e.1.1 = some co ∧
      co.resident = true ∧ co.leaving = false := fun e he => by
  obtain ⟨co, hco⟩ := exists_find_of_mem (List.mem_filter.mp (List.of_mem_zip he).1).1
  have hseat : (restoreTeam la (cohortsOf s lid t) pl s).seat e.1.1 = some (true, false) := by
    rw [restoreTeam_eq, seat_returned, if_pos ⟨e, he, rfl⟩, State.seat, hco]
    rfl
  obtain ⟨co', hco', hflags⟩ := Option.map_eq_some_iff.mp hseat
  exact ⟨co', hco', congrArg Prod.fst hflags, congrArg Prod.snd hflags⟩

/-! ### Partitions -/

/-- A property that a change of a cohort keeps. -/
theorem forall_upd {α : Type} {P : α → Prop} {m : Tab α} {k : Nat} {f : α → α} (h : ∀ e ∈ m, P e.2) (hf : ∀ x, P x → P (f x)) :
    ∀ e ∈ m.upd k f, P e.2 := fun e he => by
  unfold Tab.upd at he
  split at he
  · next x hx =>
    rcases Tab.mem_ins.mp he with rfl | hm
    · exact hf x (h _ (mem_of_find hx))
    · exact h e (List.mem_filter.mp hm).1
  · exact h e he

theorem idle_askLeave (dest : Option Nat) (cs : List (Nat × Cohort)) (s : State)
    (h : ∀ e ∈ s.cohorts, e.2.resident = false ∧ e.2.leaving = false) :
    ∀ e ∈ (askLeave dest cs s).cohorts, e.2.resident = false ∧ e.2.leaving = false := by
  induction cs generalizing s with
  | nil => exact h
  | cons c cs ih =>
    refine ih _ (forall_upd (P := fun co : Cohort => co.resident = false ∧ co.leaving = false) h fun co hco => ?_)
    rw [hco.1, if_neg (by decide)]
    exact hco

theorem takeLeaving_idle (h : ∀ e ∈ s.cohorts, e.2.leaving = false) : takeLeaving s = s := by
  have hout : s.cohorts.filter (fun (c : Nat × Cohort) => c.2.leaving) = [] :=
    List.filter_eq_nil_iff.mpr fun e he => by simp [h e he]
  unfold takeLeaving
  dsimp only
  rw [hout]
  rfl

section Partitions

variable {n : Nat} (hb : s.booted = true) (hp : s.powered = true) (hd : s.enabledDies.length = 8) (hn : n ∈ [1, 2, 4, 8])

include hb hp hd hn

theorem npartWrite_eq : exec (.npartWrite n) s = .next (takeRequests (askLeave none s.cohorts { s with npartAsked := some n })) := by
  have hmod : n % 16 = n := by
    simp only [List.mem_cons, List.not_mem_nil, or_false] at hn
    omega
  have hok : ¬((!([1, 2, 4, 8] : List Nat).contains n) = true ∨ (!s.open') = true) := by
    rw [State.open', hb, hp, List.contains_iff_mem.mpr hn]
    decide
  rw [exec_npartWrite, execNpartWrite, hmod, hd]
  exact congrArg _ (if_neg hok)

/-- While a run is in progress the partitions stand. -/
theorem npartWrite_inRun (hr : s.runs ≠ []) : ∃ s1, exec (.npartWrite n) s = .next s1 ∧ s1.npart = s.npart ∧ s1.npartAsked = some n := by
  refine ⟨_, npartWrite_eq hb hp hd hn, ?_⟩
  have hdiv := (division_takeLeaving (askLeave none s.cohorts { s with npartAsked := some n })).trans (division_askLeave _ _ _)
  have hruns : s.runs.isEmpty = false := List.isEmpty_eq_false_iff.mpr hr
  unfold takeRequests
  dsimp only
  generalize takeLeaving (askLeave none s.cohorts { s with npartAsked := some n }) = t at hdiv ⊢
  obtain ⟨hnpart, hasked, hempty⟩ : t.npart = s.npart ∧ t.npartAsked = some n ∧ t.runs.isEmpty = s.runs.isEmpty := by
    simpa [State.division] using hdiv
  rw [hasked]
  dsimp only
  rw [hempty, hruns, if_neg (by simp)]
  exact ⟨hnpart, hasked⟩

/-- With nothing resident the partitions are rebuilt. -/
theorem npartWrite_idle (hr : s.runs = []) (hc : ∀ e ∈ s.cohorts, e.2.resident = false ∧ e.2.leaving = false) :
    ∃ s1, exec (.npartWrite n) s = .next s1 ∧ s1.npart = n ∧ s1.npartAsked = none ∧ s1.tlb = [] ∧ s1.walks = [] := by
  refine ⟨_, npartWrite_eq hb hp hd hn, ?_⟩
  have hidle := idle_askLeave none s.cohorts { s with npartAsked := some n } hc
  have hdiv := division_askLeave none s.cohorts { s with npartAsked := some n }
  generalize askLeave none s.cohorts { s with npartAsked := some n } = t at hidle hdiv ⊢
  obtain ⟨-, hasked, hempty⟩ : t.npart = s.npart ∧ t.npartAsked = some n ∧ t.runs.isEmpty = s.runs.isEmpty := by
    simpa [State.division] using hdiv
  have hrebuild : takeRequests t = rebuild n t := by
    unfold takeRequests
    rw [takeLeaving_idle fun e he => (hidle e he).2]
    dsimp only
    rw [hasked]
    dsimp only
    rw [hempty, hr, if_pos ⟨rfl, by simpa using fun k co he => (hidle (k, co) he).1⟩]
  rw [hrebuild]
  exact rebuild_npart n t

end Partitions

end Teams

end Sys2Proof.Machine
end

section
/-! PROOFS. Configuration registers, host cores and the host's window (R7, R167, R401, R402). -/

namespace Sys2Proof.Machine

section Registers

variable {s : State}

theorem exec_registerWrite (off v : Nat) : exec (.registerWrite off v) s = execRegisterWrite off v s := rfl
theorem exec_splitRegisterWrite (die v : Nat) : exec (.splitRegisterWrite die v) s = execSplitRegisterWrite die v s := rfl
theorem exec_dumpclr : exec .dumpclr s = execDumpclr s := rfl
theorem exec_firmwareImageWrite (v : Nat) (ok : Bool) : exec (.firmwareImageWrite v ok) s = execFirmwareImageWrite v ok s := rfl
theorem exec_hostCoreStore (h : HostStore) : exec (.hostCoreStore h) s = execHostCoreStore h s := rfl

theorem open_iff : s.open' = true ↔ s.booted = true ∧ s.powered = true := Bool.and_eq_true_iff

/-- Before step 5 of power-up no configuration is accepted. -/
theorem configuration_closed (h : s.booted = false ∨ s.powered = false) (x y : Nat) (ok : Bool) :
    ∀ i ∈ [Instr.registerWrite x y, .npartWrite x, .splitRegisterWrite x y, .dumpclr, .firmwareImageWrite x ok], exec i s = .next s := by
  have hc : ¬s.open' = true := fun ho => by
    obtain ⟨hb, hp⟩ := open_iff.mp ho
    rcases h with h | h
    · exact absurd (hb.symm.trans h) (by decide)
    · exact absurd (hp.symm.trans h) (by decide)
  have hn : (!s.open') = true := by simpa using hc
  simp only [List.forall_mem_cons]
  refine ⟨?register, ?npart, ?split, ?dump, ?firmware, nofun⟩
  case register => rw [exec_registerWrite, execRegisterWrite, if_pos (.inl hn)]
  case npart => exact congrArg _ (if_pos (.inr hn))
  case split => exact congrArg _ (if_pos (.inl hn))
  case dump => rw [exec_dumpclr, execDumpclr, if_neg hc]
  case firmware => rw [exec_firmwareImageWrite, execFirmwareImageWrite, if_pos hn]

/-- A byte of a list from which entries of other addresses go. -/
theorem cellGet_filter {m : List Host.Cell} {p : Nat → Bool} {a : Nat} (h : p a = true) : cellGet (m.filter (fun c => p c.1)) a = cellGet m a := by
  induction m with
  | nil => rfl
  | cons c m ih =>
    obtain ⟨k, b⟩ := c
    rw [List.filter_cons]
    by_cases hk : a = k
    · subst hk
      rw [if_pos h, cellGet, cellGet, if_pos rfl, if_pos rfl]
    · split
      · rw [cellGet, cellGet, if_neg hk, if_neg hk, ih]
      · rw [ih, cellGet, if_neg hk]

/-- The LLC trimmed: but for itself, lines and counters, the state stays. -/
theorem sansLines_trimLlc (die : Nat) (s : State) : { (trimLlc die s).sansLines with llc := [] } = { s.sansLines with llc := [] } :=
  congrArg (fun t : State => { t with llc := [] }) (sansLines_endPf _ _)

theorem cfgGet_trimLlc (die off : Nat) (s : State) : (trimLlc die s).cfgGet off = s.cfgGet off :=
  show State.cfgGet { (trimLlc die s).sansLines with llc := [] } off = _ from sansLines_trimLlc die s ▸ rfl

theorem mem_trimLlc (die : Nat) (s : State) : (trimLlc die s).mem = s.mem :=
  show State.mem { (trimLlc die s).sansLines with llc := [] } = _ from sansLines_trimLlc die s ▸ rfl

theorem sram_trimLlc (die : Nat) (s : State) : (trimLlc die s).sram = s.sram :=
  show State.sram { (trimLlc die s).sansLines with llc := [] } = _ from sansLines_trimLlc die s ▸ rfl

variable (hb : s.booted = true) (hp : s.powered = true)

include hb hp

theorem registerWrite_masked {off : Nat} (v : Nat) (hm : registerMask off ≠ 0) : ∃ s1, exec (.registerWrite off v) s = .next s1 ∧
    s1.cfgGet off = v &&& registerMask off ∧ ∀ k, k ≠ off → s1.cfgGet k = s.cfgGet k := by
  have ho := open_iff.mpr ⟨hb, hp⟩
  rw [exec_registerWrite, execRegisterWrite, if_neg (by simp [ho, hm])]
  refine ⟨_, rfl, ?_, fun k hk => ?_⟩
  · show (Tab.find _ off).getD 0 = _
    rw [Tab.find_put_self]
    rfl
  · show (Tab.find _ k).getD 0 = _
    rw [Tab.find_put_of_ne _ _ hk]
    rfl

/-- Ways that move to program-visible SRAM, or away, leave the bytes of those that stay. -/
theorem splitRegisterWrite_keeps {die v : Nat} (hdie : die < 8) (hd : s.dies.testBit die = true) (hv : v % 16 ≤ 8)
    (hc : ∀ e ∈ s.cohorts, e.2.resident = false) : ∃ s1, exec (.splitRegisterWrite die v) s = .next s1 ∧ s1.sramSize die = v % 16 * 2 ^ 23 ∧
      s1.mem = s.mem ∧ ∀ off, off < min (s.sramSize die) (v % 16 * 2 ^ 23) → off < 2 ^ 26 →
        cellGet s1.sram (die * 2 ^ 26 + off) = cellGet s.sram (die * 2 ^ 26 + off) := by
  have hidle : s.cohorts.any (fun (c : Nat × Cohort) => c.2.resident && s.partOf c.2.core == s.partOfDie die) = false :=
    List.any_eq_false.mpr fun e he => by rw [hc e he, Bool.false_and]; decide
  have ho := open_iff.mpr ⟨hb, hp⟩
  rw [exec_splitRegisterWrite, execSplitRegisterWrite]
  dsimp only
  rw [hidle, if_neg (by simp [ho, hd, hv, hdie])]
  refine ⟨_, rfl, ?_, ?_, fun off hoff h26 => ?_⟩
  · rw [State.sramSize, cfgGet_trimLlc]
    show Tab.get 0 (Tab.set 0 _ _ _) _ % 16 * _ = _
    rw [Tab.get_set_self, Nat.mod_mod]
  · rw [mem_trimLlc]
  · rw [sram_trimLlc]
    refine cellGet_filter (p := fun k => !(k / 2 ^ 26 == die && decide (min (s.sramSize die) (v % 16 * 2 ^ 23) ≤ k % 2 ^ 26))) ?_
    have hk : (die * 2 ^ 26 + off) % 2 ^ 26 = off := by omega
    rw [hk, decide_eq_false (Nat.not_le.mpr hoff), Bool.and_false]
    rfl

end Registers

/-! ### Host cores -/

section HostCores

variable {s : State} (hs : s.serving = true)

include hs

theorem hostCoreStore_serving (h : HostStore) : exec (.hostCoreStore h) s = .next (hostStore h s) := by
  rw [exec_hostCoreStore, execHostCoreStore, if_pos hs]

theorem hostCoreStore_bytes {pa : Nat} {data : List Byte} (hm : Memory.wf s.mem = true) : ∃ s1,
    exec (.hostCoreStore (.bytes pa data)) s = .next s1 ∧ (∀ i, i < data.length → cellGet s1.mem (pa + i) = data.getD i 0) ∧
      ∀ y, y < pa ∨ pa + data.length ≤ y → cellGet s1.mem y = cellGet s.mem y := by
  refine ⟨_, hostCoreStore_serving hs _, fun i hi => ?_, fun y hy => ?_⟩
  · show cellGet (homeWrite pa data s).mem _ = _
    rw [mem_homeWrite, cellGet_cellsSet _ _ _ hm, if_pos (by omega), Nat.add_sub_cancel_left]
  · show cellGet (homeWrite pa data s).mem _ = _
    rw [mem_homeWrite, cellGet_cellsSet_of_outside _ _ _ hm hy]

end HostCores

/-! ### The host's window -/

section Window

variable {s : State} {part va : Nat}

theorem exec_bar2WindowAccess (w : Option (List Byte)) : exec (.bar2WindowAccess part va w) s = execBar2WindowAccess part va w s := rfl

theorem askOn_eq (port key op part arg ver : Nat) (s : State) : ∃ o, askOn port key op part arg ver s = { s with outbox := o } := by
  unfold askOn
  split <;> exact ⟨_, rfl⟩

theorem markMigrated_eq (key off : Nat) (s : State) : ∃ m, markMigrated key off s = { s with migr := m } := by
  unfold markMigrated
  split
  · split <;> exact ⟨_, rfl⟩
  · exact ⟨_, rfl⟩

/-- A store to a locked page waits for its turn: nothing is written yet. -/
theorem startLock_eq (l : Lock) (s : State) : ∃ o id p, startLock l s = { s with
    locks := s.locks ++ [{ l with id := id, step := 0, left := [], since := s.now, tries := 1, port := p }], nextId := s.nextId + 1, outbox := o } := by
  obtain ⟨o, h⟩ := askOn_eq (attemptPort s l.key 0 1 false) l.key 8 l.part 0 0 { s with
    locks := s.locks ++ [{ l with id := s.nextId, step := 0, left := [], since := s.now, tries := 1, port := attemptPort s l.key 0 1 false }]
    nextId := s.nextId + 1 }
  exact ⟨o, _, _, h⟩

theorem groups_markMigrated (key off : Nat) (s : State) : (markMigrated key off s).groups = s.groups := by
  obtain ⟨_, h⟩ := markMigrated_eq key off s
  rw [h]

theorem mem_markMigrated (key off : Nat) (s : State) : (markMigrated key off s).mem = s.mem := by
  obtain ⟨_, h⟩ := markMigrated_eq key off s
  rw [h]

theorem groups_homeWrite (pa : Nat) (data : List Byte) (s : State) : (homeWrite pa data s).groups = s.groups :=
  show (homeWrite pa data s).sansMem.groups = s.sansMem.groups from congrArg _ (sansMem_homeWrite pa data s)

theorem groups_startLock (l : Lock) (s : State) : (startLock l s).groups = s.groups := by
  obtain ⟨_, _, _, h⟩ := startLock_eq l s
  rw [h]

theorem groups_hostWrite (part va : Nat) (bs : List Byte) (s : State) : (hostWrite part va bs s).groups = s.groups := by
  refine keeps_foldl State.groups (fun s i => ?_) _ s
  dsimp only
  split
  · exact (groups_markMigrated _ _ _).trans (groups_homeWrite _ _ s)
  · split
    · rfl
    · exact groups_startLock _ s
  · rfl

/-- The host's write of one byte, by the page it meets. -/
theorem hostWrite_byte (b : Byte) : hostWrite part va [b] s = match feFind s part 0 va true [1], feFind s part 0 va true [4] with
    | some pa, _ => markMigrated (keyOf s part 0 (va / 65536)) (va % 65536) (homeWrite pa [b] s)
    | none, some _ => startLock { id := 0, key := keyOf s part 0 (va / 65536), off := va % 65536, own := true, writer := 0, step := 0, left := []
                                  gid := 0, hid := 0, el := 0, pkt := none, part := part, data := [b], since := 0, host := true } s
    | none, none => s := by
  have htake : List.take (128 - va % 128) [b] = [b] := List.take_of_length_le (by rw [List.length_singleton]; omega)
  show (match feFind s part 0 (va + 0) true [1], feFind s part 0 (va + 0) true [4] with
    | some pa, _ => _
    | none, some _ => _
    | none, none => _) = _
  rw [Nat.add_zero]
  split
  · rfl
  · rw [if_neg fun h => absurd h.1 (by decide), List.drop_zero, htake]
  · rfl

variable (hb : s.booted = true) (hp : s.powered = true) (hpart : part < s.npart) (hva : va < 2 ^ 34)

include hb hp hpart hva

theorem inWindow_open : ¬((!s.open') = true ∨ s.npart ≤ part ∨ 2 ^ 34 ≤ va) := by
  have ho := open_iff.mpr ⟨hb, hp⟩
  rintro (h | h | h)
  · rw [ho] at h
    cases h
  · omega
  · omega

theorem bar2_read_eq : exec (.bar2WindowAccess part va none) s = .next (
    if lineHeld s part va false [1, 3, 4] ∨ lineHeld s part (va + 7) false [1, 3, 4] then s
    else s.send (.hostData part va ((feRead s part 0 va 8 [1, 3, 4]).getD ((List.range 8).map (Config.internalByte s.tick))))) := by
  rw [exec_bar2WindowAccess, execBar2WindowAccess, if_neg (inWindow_open hb hp hpart hva)]

theorem bar2_write_eq (bs : List Byte) : exec (.bar2WindowAccess part va (some bs)) s = .next (
    if (List.range bs.length).any (fun i => lineHeld s part (va + i) true [1, 4]) then s else hostWrite part va bs s) := by
  rw [exec_bar2WindowAccess, execBar2WindowAccess, if_neg (inWindow_open hb hp hpart hva)]

theorem bar2_read_held (h : (lineHeld s part va false [1, 3, 4] || lineHeld s part (va + 7) false [1, 3, 4]) = true) :
    exec (.bar2WindowAccess part va none) s = .next s := by
  rw [bar2_read_eq hb hp hpart hva, if_pos (Bool.or_eq_true_iff.mp h)]

theorem bar2_read (h : (lineHeld s part va false [1, 3, 4] || lineHeld s part (va + 7) false [1, 3, 4]) = false) :
    exec (.bar2WindowAccess part va none) s = .next (s.send (.hostData part va ((feRead s part 0 va 8 [1, 3, 4]).getD
      ((List.range 8).map (Config.internalByte s.tick))))) := by
  rw [bar2_read_eq hb hp hpart hva, if_neg fun hn => by rw [← Bool.or_eq_true_iff, h] at hn; cases hn]

theorem bar2_write_groups (bs : List Byte) : ∃ s1, exec (.bar2WindowAccess part va (some bs)) s = .next s1 ∧ s1.groups = s.groups := by
  refine ⟨_, bar2_write_eq hb hp hpart hva bs, ?_⟩
  split
  · rfl
  · exact groups_hostWrite _ _ _ _

theorem bar2_write_held {bs : List Byte} {i : Nat} (hi : i < bs.length) (h : lineHeld s part (va + i) true [1, 4] = true) :
    exec (.bar2WindowAccess part va (some bs)) s = .next s := by
  rw [bar2_write_eq hb hp hpart hva, if_pos (List.any_eq_true.mpr ⟨i, List.mem_range.mpr hi, h⟩)]

section Byte

variable (b : Byte) (hfree : lineHeld s part va true [1, 4] = false)

include hfree

theorem bar2_byte_eq : exec (.bar2WindowAccess part va (some [b])) s = .next (hostWrite part va [b] s) := by
  have hany : ((List.range [b].length).any fun i => lineHeld s part (va + i) true [1, 4]) = false := by
    simpa using hfree
  rw [bar2_write_eq hb hp hpart hva, hany]
  rfl

theorem bar2_byte_resident {pa : Nat} (hm : Memory.wf s.mem = true) (hf : feFind s part 0 va true [1] = some pa) :
    ∃ s1, exec (.bar2WindowAccess part va (some [b])) s = .next s1 ∧ cellGet s1.mem pa = b := by
  refine ⟨_, bar2_byte_eq hb hp hpart hva b hfree, ?_⟩
  rw [hostWrite_byte, hf]
  dsimp only
  rw [mem_markMigrated, mem_homeWrite, cellGet_cellsSet _ _ _ hm, if_pos (by simp), Nat.sub_self]
  rfl

theorem bar2_byte_locked {pa : Nat} (h1 : feFind s part 0 va true [1] = none) (h4 : feFind s part 0 va true [4] = some pa) :
    ∃ s1 l, exec (.bar2WindowAccess part va (some [b])) s = .next s1 ∧ s1.mem = s.mem ∧ s1.locks = s.locks ++ [l] ∧ l.own = true ∧
      l.host = true ∧ l.key = keyOf s part 0 (va / 65536) ∧ l.off = va % 65536 ∧ l.data = [b] ∧ l.step = 0 := by
  rw [bar2_byte_eq hb hp hpart hva b hfree, hostWrite_byte, h1, h4]
  obtain ⟨_, _, _, h⟩ := startLock_eq { id := 0, key := keyOf s part 0 (va / 65536), off := va % 65536, own := true, writer := 0, step := 0
                                        left := [], gid := 0, hid := 0, el := 0, pkt := none, part := part, data := [b], since := 0, host := true } s
  exact ⟨_, _, congrArg _ h, rfl, rfl, rfl, rfl, rfl, rfl, rfl, rfl⟩

theorem bar2_byte_away (h1 : feFind s part 0 va true [1] = none) (h4 : feFind s part 0 va true [4] = none) :
    exec (.bar2WindowAccess part va (some [b])) s = .next s := by
  rw [bar2_byte_eq hb hp hpart hva b hfree, hostWrite_byte, h1, h4]

end Byte

end Window

end Sys2Proof.Machine
end

section
/-! PROOFS. Fatal errors and the dump, temperature, the log, firmware and power (R407 to R409, R412 to R417). -/

namespace Sys2Proof.Machine

/-! ### Fatal errors and the dump -/

section Fatal

variable {s : State}

theorem halted_logEvent (kind part : Nat) (data : List Byte) (root : Option RootWr) (s : State) :
    (logEvent kind part data root s).halted = s.halted := rfl

theorem halted_writeDump (cause time : Nat) (s : State) : (writeDump cause time s).halted = s.halted := by
  unfold writeDump
  dsimp only
  obtain ⟨dir, body⟩ := layOut 1 (dumpSections s)
  rfl

/-- A dump that is due, of an error other than a Shutdown temperature, leaves the device halted. -/
theorem halted_tryDump {cause time : Nat} (h : s.dying = some (cause, time)) (hc : cause ≠ 0) : (tryDump s).halted = s.halted := by
  unfold tryDump
  rw [h]
  dsimp only
  split
  · rfl
  · rw [halted_logEvent]
    split
    · rfl
    · exact halted_writeDump _ _ _

theorem fatal_halts {cause : Nat} (hc : cause ≠ 0) (hh : s.halted = false) (hp : s.powered = true) : (fatal cause s).halted = true := by
  have hf : fatal cause s = tryDump { s with halted := true, dying := some (cause, s.now) } := by
    unfold fatal
    rw [hp, hh]
    rfl
  rw [hf, halted_tryDump rfl hc]

theorem exec_watchdogExpiry : exec .watchdogExpiry s = execWatchdogExpiry s := rfl
theorem exec_criticalTimeout (e : FatalErr) : exec (.criticalTimeout e) s = execCriticalTimeout e s := rfl

theorem watchdogExpiry_halts (hh : s.halted = false) (hp : s.powered = true) :
    ∃ s1, exec .watchdogExpiry s = .next s1 ∧ s1.halted = true := ⟨_, exec_watchdogExpiry, fatal_halts (by decide) hh hp⟩

/-- An error while halted with a dump kept is only logged (R416). -/
theorem watchdogExpiry_kept (hh : s.halted = true) (hp : s.powered = true) (hk : dumpKept s = true) :
    exec .watchdogExpiry s = .next (logEvent 7 0xFF (logData s) none s) := by
  rw [exec_watchdogExpiry, execWatchdogExpiry, fatal, hp, if_neg (by decide), if_pos hh, if_pos hk]

theorem badState_halts (hb : s.booted = true) (hh : s.halted = false) (hp : s.powered = true) :
    ∃ s1, exec (.criticalTimeout .badState) s = .next s1 ∧ s1.halted = true := by
  rw [exec_criticalTimeout, execCriticalTimeout, if_pos hb]
  exact ⟨_, rfl, fatal_halts (by decide) hh hp⟩

theorem critical_halts {c t : Nat} (hf : (s.therms c).floorSince = some t) (hl : (s.therms c).level = .critical) (hq : (s.therms c).clock = 50)
    (ht : t + 900000000 ≤ s.now) (hh : s.halted = false) (hp : s.powered = true) :
    ∃ s1, exec (.criticalTimeout (.critical c)) s = .next s1 ∧ s1.halted = true := by
  rw [exec_criticalTimeout, execCriticalTimeout]
  dsimp only
  rw [hf]
  dsimp only
  rw [if_pos ⟨hl, hq, ht⟩]
  exact ⟨_, rfl, fatal_halts (by decide) hh hp⟩

theorem cellGet_zeroRange {pa n a : Nat} (h1 : pa ≤ a) (h2 : a < pa + n) (s : State) : cellGet (zeroRange pa n s).mem a = 0 := by
  unfold zeroRange
  dsimp only
  generalize s.mem = m
  induction m with
  | nil => rfl
  | cons c m ih =>
    rw [List.filter_cons]
    split
    · next hc =>
      obtain ⟨k, b⟩ := c
      have hk : a ≠ k := fun e => by subst e; simp at hc; omega
      rw [cellGet, if_neg hk, ih]
    · exact ih

theorem dumpclr_clears (hb : s.booted = true) (hp : s.powered = true) : exec .dumpclr s = .next (zeroRange (dumpBase s) (2 ^ 30) s) := by
  rw [exec_dumpclr, execDumpclr, if_pos (open_iff.mpr ⟨hb, hp⟩)]

end Fatal

/-! ### Temperature -/

section Temperature

variable {s : State} {c : Nat}

theorem exec_sensorSample (x : Sample) : exec (.sensorSample x) s = execSensorSample x s := rfl
theorem exec_hotHoldTimeout : exec (.hotHoldTimeout c) s = execHotHoldTimeout c s := rfl
theorem exec_thermalMigration (pl : List CohortPlace) : exec (.thermalMigration c pl) s = execThermalMigration c pl s := rfl
theorem exec_clockStepDown : exec (.clockStepDown c) s = execClockStepDown c s := rfl
theorem exec_clockStepUp : exec (.clockStepUp c) s = execClockStepUp c s := rfl

theorem therms_updTherm (f : Therm → Therm) (s : State) : (updTherm c f s).therms c = f (s.therms c) := Tab.get_set_self _ _ _ _

theorem therms_updTherm_of_ne {k : Nat} (f : Therm → Therm) (s : State) (h : k ≠ c) : (updTherm c f s).therms k = s.therms k :=
  Tab.get_set_of_ne _ _ _ h

/-- A cluster's temperature and level, as sampled. -/
def State.heat (s : State) (c : Nat) : Int × Level := ((s.therms c).temp, (s.therms c).level)

theorem heat_logEvent (kind part : Nat) (data : List Byte) (root : Option RootWr) (s : State) :
    (logEvent kind part data root s).heat = s.heat := rfl

theorem heat_sampleCluster_self (c : Nat) (t : Int) (s : State) : (sampleCluster c t s).heat c = (t, levelOf t) := by
  unfold sampleCluster
  dsimp only
  split
  · rw [State.heat, therms_updTherm]
  · rw [heat_logEvent, State.heat, therms_updTherm]

theorem heat_sampleCluster_of_ne {k : Nat} (t : Int) (s : State) (h : k ≠ c) : (sampleCluster c t s).heat k = s.heat k := by
  unfold sampleCluster
  dsimp only
  split
  · rw [State.heat, therms_updTherm_of_ne _ _ h]
    rfl
  · rw [heat_logEvent, State.heat, therms_updTherm_of_ne _ _ h]
    rfl

theorem heat_samples (f : Nat → Int) (l : List Nat) (s : State) (c : Nat) :
    (l.foldl (fun s c => sampleCluster c (f c) s) s).heat c = if c ∈ l then (f c, levelOf (f c)) else s.heat c := by
  induction l generalizing s with
  | nil => rfl
  | cons k l ih =>
    refine (ih _).trans ?_
    by_cases hk : c = k
    · subst hk
      rw [heat_sampleCluster_self, ite_self, if_pos List.mem_cons_self]
    · rw [heat_sampleCluster_of_ne _ _ hk]
      exact if_congr (by simp [hk]) rfl rfl

/-- What a cluster's sample leaves alone. -/
theorem sampleCluster_keeps (c : Nat) (t : Int) (s : State) : ((sampleCluster c t s).samples, (sampleCluster c t s).sampledAt,
    (sampleCluster c t s).halted) = (s.samples, s.sampledAt, s.halted) := by
  unfold sampleCluster
  dsimp only
  split <;> rfl

section Sample

variable {x : Sample} (hp : s.powered = true)

include hp

omit hp in
theorem sensorSample_early (hs : s.samples ≠ []) (ht : s.now < s.sampledAt + 9000000) : exec (.sensorSample x) s = .next s := by
  rw [exec_sensorSample, execSensorSample]
  dsimp only
  rw [if_pos (.inr ⟨by simpa using hs, ht⟩)]

theorem sensorSample_due (h : s.samples = [] ∨ s.sampledAt + 9000000 ≤ s.now) (hx : ∀ c, c < 40 → levelOf (x.temps.getD c 0) ≠ .shutdown) :
    ∃ s1, exec (.sensorSample x) s = .next s1 ∧ s1.samples = (x :: s.samples).take 64 ∧ s1.sampledAt = s.now ∧ s1.halted = s.halted ∧
      ∀ c, c < 40 → c < x.temps.length → s.dies.testBit (c / 5) = true →
        (s1.therms c).temp = x.temps.getD c 0 ∧ (s1.therms c).level = levelOf (x.temps.getD c 0) := by
  have hdue : ¬((!s.powered) = true ∨ (!s.samples.isEmpty) = true ∧ s.now < s.sampledAt + 9000000) := by
    rw [hp]
    rcases h with h | h
    · simp [h]
    · simp [h]
  rw [exec_sensorSample, execSensorSample]
  dsimp only
  rw [if_neg hdue]
  generalize hcs : (List.range 40).filter (fun c => s.dies.testBit (c / 5) && decide (c < x.temps.length)) = cs
  have hmem : ∀ c, c ∈ cs ↔ c < 40 ∧ s.dies.testBit (c / 5) = true ∧ c < x.temps.length := fun c => by
    rw [← hcs, List.mem_filter, List.mem_range, Bool.and_eq_true, decide_eq_true_iff]
  have hkeeps := keeps_foldl (fun t : State => (t.samples, t.sampledAt, t.halted)) (f := fun s c => sampleCluster c (x.temps.getD c 0) s)
    (fun s c => sampleCluster_keeps c _ s) cs { s with samples := (x :: s.samples).take 64, sampledAt := s.now }
  have hheat := heat_samples (fun c => x.temps.getD c 0) cs { s with samples := (x :: s.samples).take 64, sampledAt := s.now }
  generalize cs.foldl (fun s c => sampleCluster c (x.temps.getD c 0) s) { s with samples := (x :: s.samples).take 64, sampledAt := s.now } = t
    at hkeeps hheat ⊢
  have hin : ∀ c ∈ cs, (t.therms c).temp = x.temps.getD c 0 ∧ (t.therms c).level = levelOf (x.temps.getD c 0) := fun c hc => by
    have := (hheat c).trans (if_pos hc)
    exact ⟨congrArg Prod.fst this, congrArg Prod.snd this⟩
  have hcool : (cs.any fun c => (t.therms c).level == .shutdown) = false :=
    List.any_eq_false.mpr fun c hc => by
      rw [(hin c hc).2]
      simpa using hx c ((hmem c).mp hc).1
  rw [hcool]
  exact ⟨t, rfl, congrArg (·.1) hkeeps, congrArg (·.2.1) hkeeps, congrArg (·.2.2) hkeeps, fun c h40 hlen hd => hin c ((hmem c).mpr ⟨h40, hd, hlen⟩)⟩

end Sample

theorem hotHoldTimeout_due (hl : (s.therms c).level = .hot) (ht : (s.therms c).since + 90000000 ≤ s.now) :
    ∃ s1, exec (.hotHoldTimeout c) s = .next s1 ∧ s1.therms c = { s.therms c with hotAsked := true } := by
  rw [exec_hotHoldTimeout, execHotHoldTimeout]
  dsimp only
  rw [if_pos ⟨hl, ht⟩]
  exact ⟨_, rfl, therms_updTherm _ _⟩

theorem thermalMigration_none (pl : List CohortPlace) (h : s.serving = false ∨ migrant s c = none) : exec (.thermalMigration c pl) s = .next s := by
  rw [exec_thermalMigration, execThermalMigration]
  rcases h with h | h
  · rw [if_pos (by rw [h]; rfl)]
  · rw [h]
    exact congrArg _ (ite_self _)

theorem startMigration_idle (k : Nat) (ha : (s.therms c).hotAsked = false) : startMigration c k s = s := by
  unfold startMigration
  rw [if_pos (.inl (by rw [ha]; rfl))]

theorem thermalMigration_unasked (pl : List CohortPlace) (ha : (s.therms c).hotAsked = false) (hm : migrating s c = false) :
    exec (.thermalMigration c pl) s = .next s := by
  rw [exec_thermalMigration, execThermalMigration]
  split
  · rfl
  · split
    · rfl
    · split
      · rfl
      · rw [startMigration_idle _ ha]
        dsimp only
        rw [hm]
        rfl

/-- The team of a hot cluster that is to move, on its way (R413). -/
def startedMigration (c k lid team : Nat) (la : Launch) (s : State) : State :=
  takeLeaving (askLeave (some k) (cohortsOf s lid (some team)) (logEvent 6 la.part (logData s) none (updTherm c (fun x => { x with hotAsked := false }) s)))

theorem startMigration_eq {t lid team k : Nat} {la : Launch} (ha : (s.therms c).hotAsked = true) (hm : migrating s c = false)
    (hg : migrant s c = some (t, lid, team)) (hl : s.launches.find lid = some la) (hk : isCoolest s la c (s.therms c).temp k = true) :
    startMigration c k s = startedMigration c k lid team la s := by
  unfold startMigration
  rw [if_neg (by simp [ha, hm]), hg]
  dsimp only
  rw [hl]
  dsimp only
  rw [hk]
  rfl

theorem thermalMigration_starts {p : CohortPlace} {pl : List CohortPlace} {t lid team : Nat} {la : Launch} (hs : s.serving = true)
    (ha : (s.therms c).hotAsked = true) (hm : migrating s c = false) (hg : migrant s c = some (t, lid, team))
    (hl : s.launches.find lid = some la) (hk : isCoolest s la c (s.therms c).temp (clusterOf p.core) = true) :
    exec (.thermalMigration c (p :: pl)) s = .next (if migrating (startedMigration c (clusterOf p.core) lid team la s) c then
      tryRestore lid team (p :: pl) (startedMigration c (clusterOf p.core) lid team la s)
      else startedMigration c (clusterOf p.core) lid team la s) := by
  rw [exec_thermalMigration, execThermalMigration, hs, if_neg (by decide), hg]
  dsimp only [List.head?_cons]
  rw [startMigration_eq ha hm hg hl hk]

theorem therms_setClock (p : Nat) (s : State) : (setClock c p s).therms c = { s.therms c with clock := p, lastStep := s.now } :=
  therms_updTherm _ _

theorem clockStepDown_due (hl : (s.therms c).level = .critical) (hq : 50 < (s.therms c).clock) (ht : (s.therms c).lastStep + 9000000 ≤ s.now) :
    ∃ s1, exec (.clockStepDown c) s = .next s1 ∧ (s1.therms c).clock = (s.therms c).clock - 10 ∧ (s1.therms c).lastStep = s.now := by
  rw [exec_clockStepDown, execClockStepDown, if_pos ⟨hl, hq, ht⟩]
  exact ⟨_, rfl, by rw [therms_updTherm, therms_setClock], by rw [therms_updTherm, therms_setClock]⟩

theorem clockStepUp_due (hh : (s.therms c).temp < 760) (hq : (s.therms c).clock < 100) (hc : (s.therms c).coolSince + 90000000 ≤ s.now)
    (ht : (s.therms c).lastStep + 9000000 ≤ s.now) : ∃ s1, exec (.clockStepUp c) s = .next s1 ∧ (s1.therms c).clock = (s.therms c).clock + 10 := by
  rw [exec_clockStepUp, execClockStepUp, if_pos ⟨hh, hq, hc, ht⟩]
  exact ⟨_, rfl, by rw [therms_updTherm, therms_setClock]⟩

end Temperature

/-! ### The log, firmware and power -/

section Power

variable {s : State}

theorem exec_logEntryFlashWrite : exec .logEntryFlashWrite s = execLogEntryFlashWrite s := rfl
theorem exec_antiRollbackRaise : exec .antiRollbackRaise s = execAntiRollbackRaise s := rfl
theorem exec_powerUp (r : Bool) : exec (.powerUp r) s = execPowerUp r s := rfl

theorem noteLanding_eq (gid : Nat) (ws : List Wr) (s : State) : ∃ rs, noteLanding gid ws s = { s with runs := rs } := by
  unfold noteLanding
  split
  · exact ⟨_, rfl⟩
  · split <;> exact ⟨_, rfl⟩

/-- The end of a pending operation changes groups and runs alone. -/
theorem finish_eq (gid pid : Nat) (s : State) : ∃ rs gs, finish gid pid s = { s with runs := rs, groups := gs } := by
  obtain ⟨rs, h⟩ := noteLanding_eq gid ((((s.groups.find gid).bind (fun g => if g.ended then none else g.pend.find pid)).map (·.wrs)).getD []) s
  unfold finish
  dsimp only
  rw [h]
  exact ⟨_, _, rfl⟩

/-- The root slots after the write that waited for a log entry, unless its gang has ended (R108, R309). -/
def rootsAfter (s : State) (w : RootWr) : Tab Nat :=
  if (pendOf s w.gid w.pid).any (fun p => !p.void) then (match w.digest with
    | some d => s.roots.put (16 * w.part + w.slot) d
    | none => s.roots.del (16 * w.part + w.slot)) else s.roots

/-- The flash log has become `log`, with the root-slot write that waited for its newest entry: a part of `execLogEntryFlashWrite`. -/
def flashWrite (log : List LogE) (root : Option RootWr) (t : List (LogE × Option RootWr)) (s : State) : State :=
  let s1 := { s with mgmt := { s.mgmt with writing := t, log := log } }
  match root with
  | none => s1
  | some r =>
    if !(pendOf s1 r.gid r.pid).any (fun p => !p.void) then finish r.gid r.pid s1
    else finish r.gid r.pid { s1 with roots := match r.digest with
      | some d => s1.roots.put (16 * r.part + r.slot) d
      | none => s1.roots.del (16 * r.part + r.slot) }

theorem execLogEntryFlashWrite_eq : execLogEntryFlashWrite s = .next (match s.mgmt.writing with
    | [] => s
    | (e, root) :: t => flashWrite ((s.mgmt.log ++ [e]).drop ((s.mgmt.log ++ [e]).length - 4096)) root t s) := rfl

/-- The root-slot write is performed, and its operation ends. -/
theorem flashWrite_root (log : List LogE) (w : RootWr) (t : List (LogE × Option RootWr)) (s : State) :
    (flashWrite log (some w) t s).mgmt = { s.mgmt with writing := t, log := log } ∧ (flashWrite log (some w) t s).roots = rootsAfter s w := by
  unfold flashWrite rootsAfter
  dsimp only
  have hpend : pendOf { s with mgmt := { s.mgmt with writing := t, log := log } } w.gid w.pid = pendOf s w.gid w.pid := rfl
  rw [hpend]
  cases (pendOf s w.gid w.pid).any (fun p => !p.void) with
  | false =>
    obtain ⟨rs, gs, hf⟩ := finish_eq w.gid w.pid { s with mgmt := { s.mgmt with writing := t, log := log } }
    simp only [Bool.not_false, ↓reduceIte, Bool.false_eq_true, hf, and_self]
  | true =>
    obtain ⟨rs, gs, hf⟩ := finish_eq w.gid w.pid { s with mgmt := { s.mgmt with writing := t, log := log }, roots := match w.digest with
      | some d => s.roots.put (16 * w.part + w.slot) d
      | none => s.roots.del (16 * w.part + w.slot) }
    simp only [Bool.not_true, ↓reduceIte, Bool.false_eq_true]
    rw [hf]
    exact ⟨rfl, rfl⟩

section Flash

variable {e : LogE} {t : List (LogE × Option RootWr)}

theorem logEntryFlashWrite_eq {r : Option RootWr} (h : s.mgmt.writing = (e, r) :: t) :
    exec .logEntryFlashWrite s = .next (flashWrite ((s.mgmt.log ++ [e]).drop (s.mgmt.log.length + 1 - 4096)) r t s) := by
  rw [exec_logEntryFlashWrite, execLogEntryFlashWrite_eq, h]
  dsimp only
  rw [List.length_append, List.length_singleton]

/-- What waits for the new log entry changes the root slots alone. -/
theorem flashWrite_stores (log : List LogE) (r : Option RootWr) (t : List (LogE × Option RootWr)) (s : State) :
    (flashWrite log r t s).mgmt.writing = t ∧ (flashWrite log r t s).mgmt.log = log ∧ (r = none → (flashWrite log r t s).roots = s.roots) ∧
      ∀ w, r = some w → (flashWrite log r t s).roots = rootsAfter s w := by
  cases r with
  | none => exact ⟨rfl, rfl, fun _ => rfl, nofun⟩
  | some w =>
    obtain ⟨hm, hr⟩ := flashWrite_root log w t s
    rw [hm, hr]
    exact ⟨rfl, rfl, nofun, fun _ hw => by rw [Option.some.inj hw]⟩

/-- The oldest log entry reaches the flash, with what waits for it. -/
theorem logEntryFlashWrite_stores {r : Option RootWr} (h : s.mgmt.writing = (e, r) :: t) : ∃ s1, exec .logEntryFlashWrite s = .next s1 ∧
    s1.mgmt.writing = t ∧ s1.mgmt.log = (s.mgmt.log ++ [e]).drop (s.mgmt.log.length + 1 - 4096) ∧ (r = none → s1.roots = s.roots) ∧
    ∀ w, r = some w → s1.roots = rootsAfter s w :=
  Exists.intro _ (And.intro (logEntryFlashWrite_eq h) (flashWrite_stores _ r t s))

end Flash

theorem firmwareImageWrite_slot (v : Nat) (ok : Bool) (hb : s.booted = true) (hp : s.powered = true) :
    ∃ s1, exec (.firmwareImageWrite v ok) s = .next s1 ∧
      s1.mgmt.slots = s.mgmt.slots.set (1 - s.mgmt.slot) (some (v, ok && decide (s.mgmt.antiRollback ≤ v))) := by
  have ho : ¬(!s.open') = true := by rw [open_iff.mpr ⟨hb, hp⟩]; decide
  rw [exec_firmwareImageWrite, execFirmwareImageWrite, if_neg ho]
  refine ⟨_, rfl, ?_⟩
  dsimp only
  split <;> rfl

theorem antiRollbackRaise_max (hb : s.booted = true) (hp : s.powered = true) : ∃ s1, exec .antiRollbackRaise s = .next s1 ∧
    s1.mgmt = { s.mgmt with antiRollback := max s.mgmt.antiRollback s.mgmt.version } := by
  rw [exec_antiRollbackRaise, execAntiRollbackRaise, if_pos ⟨hb, hp⟩]
  exact ⟨_, rfl, rfl⟩

theorem powerUp_idle (r : Bool) (h : (s.booted = true ∧ s.powered = true) ∨ s.halted = true) : exec (.powerUp r) s = .next s := by
  rw [exec_powerUp, execPowerUp, if_pos h]

theorem now_ite_logEvent (b : Bool) (kind part : Nat) (data : List Byte) (r : Option RootWr) (s : State) :
    (if b then logEvent kind part data r s else s).now = s.now := by cases b <;> rfl

/-- Power-up reaches step 5: the slot named boots, and memory is scrubbed where no dump is kept (R417). -/
theorem powerUp_boots {k : Nat} (hb : s.booted = false) (hh : s.halted = false) (hk : bootSlot s.mgmt = some k) :
    ∃ s1, exec (.powerUp true) s = .next s1 ∧ s1.booted = true ∧ s1.powered = true ∧ s1.groups = [] ∧ s1.sram = [] ∧ s1.mgmt.slot = k ∧
      s1.lattices = [(0, { started := s.now })] ∧ ∀ a, dumpKept s = false → k = s.mgmt.slot → cellGet s1.mem a = 0 := by
  rw [exec_powerUp, execPowerUp, if_neg (by simp [hb, hh]), hk]
  refine ⟨_, rfl, rfl, rfl, rfl, rfl, rfl, ?_, fun a hdump hsame => ?_⟩
  · exact congrArg (fun n => [(0, ({ started := n } : Lattice))]) (now_ite_logEvent (k != s.mgmt.slot) _ _ _ _ { s with powered := true })
  · subst hsame
    have hkeep : dumpKept { s with powered := true } = false := hdump
    simp only [bne_self_eq_false, Bool.false_eq_true, ↓reduceIte, Bool.not_true, hkeep]
    rfl

theorem powerLoss_blank : ∃ s1, exec .powerLoss s = .next s1 ∧ s1.mem = [] ∧ s1.sram = [] ∧ s1.groups = [] ∧ s1.powered = false ∧
    s1.booted = false ∧ s1.roots = s.roots ∧ s1.mgmt.log = s.mgmt.log := ⟨_, rfl, rfl, rfl, rfl, rfl, rfl, rfl, rfl⟩

theorem deviceReset_blank : ∃ s1, exec .deviceReset s = .next s1 ∧ s1.mem = s.mem ∧ s1.groups = [] ∧ s1.halted = false ∧ s1.booted = false ∧
    s1.powered = s.powered := ⟨_, rfl, rfl, rfl, rfl, rfl, rfl⟩

end Power

end Sys2Proof.Machine
end

section
/-! PROOFS. The statement about events of the front end and of the management, from the lemmas about each event. -/

namespace Sys2Proof.Machine

/-- A head packet without a valid process-group table is refused (R398). -/
theorem packetAdmission_untabled {s : State} {part q : Nat} (b : Bool) (pl : List (List CohortPlace)) {d : QDesc} {h : Head} (hs : s.serving = true)
    (hn : s.npartAsked = none) (hd : queueDesc s part q = some d) (hh : (s.queue part q).head = some h) (hg : gangOfQueue s part q = none)
    (ht : groupTable s (headLaunch part q d h) = none) :
    exec (.packetAdmission part q b pl) s = .next (refuseHead part q h (headLaunch part q d h) 5 s) := by
  rw [packetAdmission_serving b pl hs hn, admitHead_of_head b pl hd hh hg, ht]

theorem packetAdmission_tabled {s : State} {part q : Nat} (b : Bool) (pl : List (List CohortPlace)) {d : QDesc} {h : Head} {ranks : List Nat}
    (hs : s.serving = true) (hn : s.npartAsked = none) (hd : queueDesc s part q = some d) (hh : (s.queue part q).head = some h)
    (hg : gangOfQueue s part q = none) (ht : groupTable s (headLaunch part q d h) = some ranks) :
    exec (.packetAdmission part q b pl) s = .next (admitPacket part q pl d h (headLaunch part q d h) ranks s) := by
  rw [packetAdmission_serving b pl hs hn, admitHead_of_head b pl hd hh hg, ht]

/-- Settles O54, from the lemma about each event. -/
theorem frontEndAndManagementEvents : Obligations.FrontEndAndManagementEvents := by
  intro s part q gang
  refine ⟨fun hs => ⟨queueDoorbell_idle hs, fun b p => packetAdmission_idle b p hs⟩, fun x hs hx => queueDoorbell_maps hs hx,
    fun b pl hs hn => packetAdmission_serving b pl hs hn, ?admission, fun h t hh hw => ⟨admissionWaitTimeout_due hh hw, admissionWaitTimeout_early hh hw⟩,
    fun mj => ⟨energyTick_early, energyTick_due⟩, fun asid addr pkt pl => reserve_idle asid addr pkt pl,
    fun asid addr pkt pl hp hr hnew => ⟨reserve_refused hp hr hnew, reserve_granted hp hr hnew⟩,
    fun hk => ⟨grant_noPart hk, gangEvent_noPart hk q part⟩, ?gang, fun lid la hl hc hw hr => preemption_leaves hl hc hw hr,
    fun lid team k la hl hm hk => preemption_team hl hm hk, gangSuspend_leaves, ?restore, configuration_closed,
    fun off v hb hp hm => registerWrite_masked hb hp v hm, fun die v hb hp h8 hd hv hc => splitRegisterWrite_keeps hb hp h8 hd hv hc,
    fun n hb hp hd hn => ⟨npartWrite_idle hb hp hd hn, npartWrite_inRun hb hp hd hn⟩, fun h hs => hostCoreStore_serving hs h,
    fun pa data hs hm => hostCoreStore_bytes hs hm, ?window, watchdogExpiry_halts, watchdogExpiry_kept,
    fun hb hp => ⟨dumpclr_clears hb hp, fun a h1 h2 => cellGet_zeroRange h1 h2 s⟩, fun x hp => ⟨sensorSample_early, sensorSample_due hp⟩, ?cluster,
    badState_halts, fun e r t => logEntryFlashWrite_stores, fun v ok => firmwareImageWrite_slot v ok, antiRollbackRaise_max,
    fun hb hp r => powerUp_idle r (.inl ⟨hb, hp⟩), fun hh r => powerUp_idle r (.inr hh), fun k => powerUp_boots, powerLoss_blank, deviceReset_blank⟩
  case admission =>
    intro b pl d h hs hn hd hh hg
    refine ⟨packetAdmission_untabled b pl hs hn hd hh hg, fun ranks ht => ?_⟩
    have he := packetAdmission_tabled b pl hs hn hd hh hg ht
    exact ⟨fun hbad => he.trans (congrArg _ (admitPacket_bad hbad)), fun hok hdeps => he.trans (congrArg _ (admitPacket_cancelled hok hdeps)),
      fun s1 hok hdeps ho h1 hf hen hpl hst => he.trans (congrArg _ (admitPacket_admitted hok hdeps ho h1 hf hen hpl hst))⟩
  case gang =>
    intro key g hk hf
    exact ⟨fun hc hh hst => ⟨fun r hr => ⟨grant_refused hk hf hc hh hst hr, grant_more hk hf hc hh hst hr, grant_last hk hf hc hh hst hr⟩,
        gangReserveTimeout_due hk hf hc hh hst, gangReserveTimeout_early hk hf⟩,
      commit_held hk hf q, rollback_uncommitted hk hf, fun pl hc hr hst hd => gangRetryTimer_again hk hf pl hc hr hst hd,
      fun pl h hc hr hst hd => gangRetryTimer_given_up hk hf pl hc hr hst hd, fun t hst hl => gangStart_early hk hf hst hl,
      fun t s2 hc hst hl hd hn hs hx => gangStart_member hk hf hst hl hd hn hs hx hc,
      fun t hst hl hd hn hs => gangStart_cancelled hk hf hst hl hd hn hs,
      fun t lid hst hl => ⟨gangContactLost_lost hk hf hst hl, gangContactLost_failed hk hf hst hl⟩⟩
  case restore =>
    exact fun lid team pl la hs hn hl => ⟨restore_unfit hs hn hl, fun hc hh hfit => ⟨_, restore_fit hs hn hl hc hh hfit, rfl, restoreTeam_resident la⟩⟩
  case window =>
    intro va hb hp hpart hva
    exact ⟨bar2_read_held hb hp hpart hva, fun hfree => ⟨_, bar2_read hb hp hpart hva hfree⟩,
      fun bs hfree hr => by rw [bar2_read hb hp hpart hva hfree, hr, Option.getD_some], bar2_write_groups hb hp hpart hva,
      fun bs i => bar2_write_held hb hp hpart hva, fun b hfree => ⟨fun pa => bar2_byte_resident hb hp hpart hva b hfree,
        fun pa => bar2_byte_locked hb hp hpart hva b hfree, bar2_byte_away hb hp hpart hva b hfree⟩⟩
  case cluster =>
    intro c
    exact ⟨hotHoldTimeout_due, thermalMigration_none, thermalMigration_unasked, fun p pl t lid team la => thermalMigration_starts,
      clockStepDown_due, clockStepUp_due, fun t => critical_halts⟩

end Sys2Proof.Machine
end

section
/-! PROOFS. The values of the scalar instructions (R130, R131, R133) in the library's bit-vector operations. -/

namespace Sys2Proof.Machine

/-! ### Multiplication and division -/

/-- The upper half of a product of integers is that of the product at twice the width. -/
theorem extractLsb'_ofInt_mul (x y : Int) :
    BitVec.extractLsb' 64 64 (BitVec.ofInt 128 x * BitVec.ofInt 128 y) = BitVec.ofInt 64 (x * y / (2 ^ 64 : Nat)) := by
  rw [← BitVec.ofInt_mul]
  generalize x * y = p
  apply BitVec.eq_of_toNat_eq
  rw [BitVec.extractLsb'_toNat, Nat.shiftRight_eq_div_pow, BitVec.toNat_ofInt, BitVec.toNat_ofInt]
  omega

theorem mulh_eq (x y : Word64) :
    BitVec.ofInt 64 (x.toInt * y.toInt / (2 ^ 64 : Nat)) = BitVec.extractLsb' 64 64 (x.signExtend 128 * y.signExtend 128) :=
  (extractLsb'_ofInt_mul x.toInt y.toInt).symm

theorem mulhu_eq (x y : Word64) :
    BitVec.ofNat 64 (x.toNat * y.toNat / 2 ^ 64) = BitVec.extractLsb' 64 64 (x.setWidth 128 * y.setWidth 128) := by
  have h := extractLsb'_ofInt_mul x.toNat y.toNat
  rw [BitVec.ofInt_natCast, BitVec.ofInt_natCast, BitVec.ofNat_toNat, BitVec.ofNat_toNat] at h
  rw [h, ← BitVec.ofInt_natCast]
  norm_cast

theorem divS_eq (x y : Word64) : divS x y = if y = 0 then BitVec.allOnes 64 else x.sdiv y := by
  have h : BitVec.ofInt 64 (x.toInt.tdiv y.toInt) = x.sdiv y := by
    apply BitVec.eq_of_toInt_eq
    rw [BitVec.toInt_ofInt, BitVec.toInt_sdiv]
  rw [divS, h]

theorem divU_eq (x y : Word64) : divU x y = if y = 0 then BitVec.allOnes 64 else x / y := by rw [divU, ← BitVec.udiv_def]

theorem remS_eq (x y : Word64) : remS x y = if y = 0 then x else x.srem y := by
  rw [remS, ← BitVec.toInt_srem, BitVec.ofInt_toInt]

theorem remU_eq (x y : Word64) : remU x y = if y = 0 then x else x % y := by rw [remU, ← BitVec.umod_def]

/-! ### Shifts -/

theorem ofNat_mul_two_pow (x : Word64) (n : Nat) : BitVec.ofNat 64 (x.toNat * 2 ^ n) = x <<< n := by
  apply BitVec.eq_of_toNat_eq
  rw [BitVec.toNat_ofNat, BitVec.toNat_shiftLeft, Nat.shiftLeft_eq]

theorem ofNat_div_two_pow (x : Word64) (n : Nat) : BitVec.ofNat 64 (x.toNat / 2 ^ n) = x >>> n := by
  rw [← Nat.shiftRight_eq_div_pow, ← BitVec.toNat_ushiftRight, BitVec.ofNat_toNat, BitVec.setWidth_eq]

theorem sar_eq (x : Word64) (n : Nat) : sar x n = x.sshiftRight n := by
  rw [sar, ← Int.shiftRight_eq_div_pow, BitVec.sshiftRight]

theorem ror_eq (x : Word64) {n : Nat} (h : n < 64) : ror x n = x.rotateRight n := by
  have hpow : 2 ^ 64 = 2 ^ (64 - n) * 2 ^ n := by rw [← Nat.pow_add, Nat.sub_add_cancel h.le]
  have hlow : x.toNat / 2 ^ n < 2 ^ (64 - n) := Nat.div_lt_of_lt_mul (by rw [Nat.mul_comm, ← hpow]; exact x.isLt)
  have hsum : x.toNat / 2 ^ n + x.toNat % 2 ^ n * 2 ^ (64 - n) = (x.rotateRight n).toNat := by
    rw [BitVec.toNat_rotateRight, Nat.mod_eq_of_lt h, Nat.shiftRight_eq_div_pow, Nat.shiftLeft_eq, Nat.mul_comm x.toNat, hpow,
      Nat.mul_mod_mul_left, Nat.or_comm, ← Nat.two_pow_add_eq_or_of_lt hlow, Nat.mul_comm, Nat.add_comm]
  rw [ror, hsum, BitVec.ofNat_toNat, BitVec.setWidth_eq]

/-! ### Comparisons -/

theorem b64_slt (x y : Word64) : b64 (decide (x.toInt < y.toInt)) = if x.slt y then 1 else 0 := by rw [b64, BitVec.slt_eq_decide]

theorem b64_ult (x y : Word64) : b64 (decide (x.toNat < y.toNat)) = if x.ult y then 1 else 0 := by rw [b64, BitVec.ult_eq_decide]

theorem b64_beq (x y : Word64) : b64 (x == y) = if x = y then 1 else 0 := by simp [b64]

/-- Where a key tells all values apart, a choice by `≤` is that by `<`. -/
theorem ite_le_eq_ite_lt {α β ι : Type} [LinearOrder ι] {k : α → ι} (hk : ∀ {x y}, k x = k y → x = y) (f : α → α → β) (x y : α) :
    (if k x ≤ k y then f x y else f y x) = if k x < k y then f x y else f y x := by
  rcases lt_trichotomy (k x) (k y) with h | h | h
  · rw [if_pos h.le, if_pos h]
  · rw [hk h, if_pos le_rfl, ite_self]
  · rw [if_neg h.not_ge, if_neg h.not_gt]

theorem ite_toInt_le {β : Type} (f : Word64 → Word64 → β) (x y : Word64) :
    (if x.toInt ≤ y.toInt then f x y else f y x) = if x.slt y then f x y else f y x := by
  simp only [ite_le_eq_ite_lt BitVec.eq_of_toInt_eq, BitVec.slt_iff_toInt_lt]

theorem ite_toNat_le {β : Type} (f : Word64 → Word64 → β) (x y : Word64) :
    (if x.toNat ≤ y.toNat then f x y else f y x) = if x.ult y then f x y else f y x := by
  simp only [ite_le_eq_ite_lt BitVec.eq_of_toNat_eq, BitVec.ult_iff_lt, BitVec.lt_def]

/-! ### Bits counted from below and from above -/

theorem popN_eq_countP (x : Nat) : ∀ n, popN x n = (List.range n).countP (fun i => x.testBit i)
  | 0 => rfl
  | n + 1 => by
    rw [List.range_succ, List.countP_append, List.countP_singleton, popN, popN_eq_countP x n, Nat.add_comm, b2n]

theorem ofNat_popN {w : Nat} (x : BitVec w) :
    BitVec.ofNat 64 (popN x.toNat w) = BitVec.ofNat 64 ((List.range w).countP (fun i => x.getLsbD i)) :=
  congrArg _ (popN_eq_countP x.toNat w)

theorem clzN_eq_length_takeWhile (x : Nat) : ∀ n, clzN x n = ((List.range n).reverse.takeWhile (fun i => !x.testBit i)).length
  | 0 => rfl
  | n + 1 => by
    rw [List.range_succ, List.reverse_append, List.reverse_singleton, List.singleton_append, List.takeWhile_cons, clzN,
      clzN_eq_length_takeWhile x n]
    cases x.testBit n <;> rfl

/-- The lowest one bit from bit `i` on. -/
theorem lowestBit_eq_some {x j : Nat} (hj : x.testBit j = true) :
    ∀ {i n}, i ≤ j → j < i + n → (∀ k, i ≤ k → k < j → x.testBit k = false) → lowestBit x i n = some j
  | i, 0, hij, hjn, _ => absurd hjn (Nat.not_lt.mpr hij)
  | i, n + 1, hij, hjn, hlow => by
    unfold lowestBit
    rcases Nat.eq_or_lt_of_le hij with rfl | hlt
    · rw [if_pos hj]
    · rw [hlow i le_rfl hlt, if_neg Bool.false_ne_true]
      exact lowestBit_eq_some hj hlt (by omega) fun k hk => hlow k (by omega)

theorem lowestBit_zero : ∀ i n, lowestBit 0 i n = none
  | _, 0 => rfl
  | i, n + 1 => by rw [lowestBit, Nat.zero_testBit, if_neg Bool.false_ne_true, lowestBit_zero]

end Sys2Proof.Machine
end

section
/-! PROOFS. The scalar instructions (R70, R130 to R135): what their shapes write, and each instruction's value. -/

namespace Sys2Proof.Machine

section Shapes

variable {i : Instr} {s : State} {c : Ctx} {d a b : Nat} {x : Word64}

/-- An instruction whose effect is one scalar, of a value that depends on what it reads. -/
theorem does_scalar {sz : Nat} {f : Ctx → Word64} (h : ctxOf s = some c) (hd : d < 64)
    (he : exec i s = issue sz s fun c => .ok (commitW c (wrS d (f c)) s)) (hx : f c = x) : Does i sz c s (c.g.sSet d x) c.run :=
  hx ▸ does_wrS h hd he rfl

/-- A scalar instruction of two operands writes its value of them (R130). -/
theorem does_alu {f : Word64 → Word64 → Word64} (h : ctxOf s = some c) (hd : d < 64) (he : exec i s = alu d a b f s)
    (hx : f (c.s a) (c.s b) = x) : Does i 4 c s (c.g.sSet d x) c.run := does_scalar h hd he hx

/-- A scalar instruction of one operand writes its value of it (R130, R132). -/
theorem does_alu1 {f : Word64 → Word64} (h : ctxOf s = some c) (hd : d < 64) (he : exec i s = alu1 d a f s)
    (hx : f (c.s a) = x) : Does i 4 c s (c.g.sSet d x) c.run := does_scalar h hd he hx

end Shapes

/-- The instruction writes `f sA sB` to sD, and nothing else. -/
def ComputesBinary (mk : Nat → Nat → Nat → Instr) (f : Word64 → Word64 → Word64) : Prop :=
  ∀ (s : State) (c : Ctx) (d a b : Nat), ctxOf s = some c → d < 64 → Does (mk d a b) 4 c s (c.g.sSet d (f (c.s a) (c.s b))) c.run

theorem computesBinary_of_alu {mk : Nat → Nat → Nat → Instr} {f' f : Word64 → Word64 → Word64}
    (he : ∀ d a b s, exec (mk d a b) s = alu d a b f' s) (hf : ∀ x y, f' x y = f x y) : ComputesBinary mk f :=
  fun s _ d a b h hd => does_alu h hd (he d a b s) (hf _ _)

theorem exec_add (d a b : Nat) (s : State) : exec (.add d a b) s = execAdd d a b s := rfl
theorem exec_sub (d a b : Nat) (s : State) : exec (.sub d a b) s = execSub d a b s := rfl
theorem exec_mul (d a b : Nat) (s : State) : exec (.mul d a b) s = execMul d a b s := rfl
theorem exec_mulh (d a b : Nat) (s : State) : exec (.mulh d a b) s = execMulh d a b s := rfl
theorem exec_mulhu (d a b : Nat) (s : State) : exec (.mulhu d a b) s = execMulhu d a b s := rfl
theorem exec_div (d a b : Nat) (s : State) : exec (.div d a b) s = execDiv d a b s := rfl
theorem exec_divu (d a b : Nat) (s : State) : exec (.divu d a b) s = execDivu d a b s := rfl
theorem exec_rem (d a b : Nat) (s : State) : exec (.rem d a b) s = execRem d a b s := rfl
theorem exec_remu (d a b : Nat) (s : State) : exec (.remu d a b) s = execRemu d a b s := rfl
theorem exec_and (d a b : Nat) (s : State) : exec (.and d a b) s = execAnd d a b s := rfl
theorem exec_or (d a b : Nat) (s : State) : exec (.or d a b) s = execOr d a b s := rfl
theorem exec_xor (d a b : Nat) (s : State) : exec (.xor d a b) s = execXor d a b s := rfl
theorem exec_andn (d a b : Nat) (s : State) : exec (.andn d a b) s = execAndn d a b s := rfl
theorem exec_shl (d a b : Nat) (s : State) : exec (.shl d a b) s = execShl d a b s := rfl
theorem exec_shr (d a b : Nat) (s : State) : exec (.shr d a b) s = execShr d a b s := rfl
theorem exec_sra (d a b : Nat) (s : State) : exec (.sra d a b) s = execSra d a b s := rfl
theorem exec_ror (d a b : Nat) (s : State) : exec (.ror d a b) s = execRor d a b s := rfl
theorem exec_slt (d a b : Nat) (s : State) : exec (.slt d a b) s = execSlt d a b s := rfl
theorem exec_sltu (d a b : Nat) (s : State) : exec (.sltu d a b) s = execSltu d a b s := rfl
theorem exec_seq (d a b : Nat) (s : State) : exec (.seq d a b) s = execSeq d a b s := rfl
theorem exec_min (d a b : Nat) (s : State) : exec (.min d a b) s = execMin d a b s := rfl
theorem exec_max (d a b : Nat) (s : State) : exec (.max d a b) s = execMax d a b s := rfl
theorem exec_minu (d a b : Nat) (s : State) : exec (.minu d a b) s = execMinu d a b s := rfl
theorem exec_maxu (d a b : Nat) (s : State) : exec (.maxu d a b) s = execMaxu d a b s := rfl

/-- Settles O1: each instruction by the value of its operation. -/
theorem scalarBinaryResults : Obligations.ScalarBinaryResults := by
  unfold Obligations.ScalarBinaryResults
  simp only [List.forall_mem_cons]
  refine ⟨?add, ?sub, ?mul, ?mulh, ?mulhu, ?div, ?divu, ?rem, ?remu, ?and, ?or, ?xor, ?andn, ?shl, ?shr, ?sra, ?ror, ?slt, ?sltu, ?seq,
    ?min, ?max, ?minu, ?maxu, nofun⟩
  case add => exact computesBinary_of_alu exec_add fun _ _ => rfl
  case sub => exact computesBinary_of_alu exec_sub fun _ _ => rfl
  case mul => exact computesBinary_of_alu exec_mul fun _ _ => rfl
  case mulh => exact computesBinary_of_alu exec_mulh mulh_eq
  case mulhu => exact computesBinary_of_alu exec_mulhu mulhu_eq
  case div => exact computesBinary_of_alu exec_div divS_eq
  case divu => exact computesBinary_of_alu exec_divu divU_eq
  case rem => exact computesBinary_of_alu exec_rem remS_eq
  case remu => exact computesBinary_of_alu exec_remu remU_eq
  case and => exact computesBinary_of_alu exec_and fun _ _ => rfl
  case or => exact computesBinary_of_alu exec_or fun _ _ => rfl
  case xor => exact computesBinary_of_alu exec_xor fun _ _ => rfl
  case andn => exact computesBinary_of_alu exec_andn fun _ _ => rfl
  case shl => exact computesBinary_of_alu exec_shl fun x _ => ofNat_mul_two_pow x _
  case shr => exact computesBinary_of_alu exec_shr fun x _ => ofNat_div_two_pow x _
  case sra => exact computesBinary_of_alu exec_sra fun x _ => sar_eq x _
  case ror => exact computesBinary_of_alu exec_ror fun x _ => ror_eq x (Nat.mod_lt _ (by decide))
  case slt => exact computesBinary_of_alu exec_slt b64_slt
  case sltu => exact computesBinary_of_alu exec_sltu b64_ult
  case seq => exact computesBinary_of_alu exec_seq b64_beq
  case min => exact computesBinary_of_alu exec_min (ite_toInt_le fun x _ => x)
  case max => exact computesBinary_of_alu exec_max (ite_toInt_le fun _ y => y)
  case minu => exact computesBinary_of_alu exec_minu (ite_toNat_le fun x _ => x)
  case maxu => exact computesBinary_of_alu exec_maxu (ite_toNat_le fun _ y => y)

end Sys2Proof.Machine
end

section
/-! PROOFS. The scalar instructions of one operand (R130, R132 to R135). -/

namespace Sys2Proof.Machine

theorem exec_clz (d a : Nat) (s : State) : exec (.clz d a) s = execClz d a s := rfl
theorem exec_popc (d a : Nat) (s : State) : exec (.popc d a) s = execPopc d a s := rfl
theorem exec_addi (d a : Nat) (imm : Int) (s : State) : exec (.addi d a imm) s = execAddi d a imm s := rfl
theorem exec_andi (d a : Nat) (imm : Int) (s : State) : exec (.andi d a imm) s = execAndi d a imm s := rfl
theorem exec_ori (d a : Nat) (imm : Int) (s : State) : exec (.ori d a imm) s = execOri d a imm s := rfl
theorem exec_xori (d a : Nat) (imm : Int) (s : State) : exec (.xori d a imm) s = execXori d a imm s := rfl
theorem exec_shli (d a n : Nat) (s : State) : exec (.shli d a n) s = execShli d a n s := rfl
theorem exec_shri (d a n : Nat) (s : State) : exec (.shri d a n) s = execShri d a n s := rfl
theorem exec_srai (d a n : Nat) (s : State) : exec (.srai d a n) s = execSrai d a n s := rfl
theorem exec_rori (d a n : Nat) (s : State) : exec (.rori d a n) s = execRori d a n s := rfl
theorem exec_lui (d : Nat) (imm : Int) (s : State) : exec (.lui d imm) s = execLui d imm s := rfl
theorem exec_seqi (d a : Nat) (imm : Int) (s : State) : exec (.seqi d a imm) s = execSeqi d a imm s := rfl
theorem exec_slti (d a : Nat) (imm : Int) (s : State) : exec (.slti d a imm) s = execSlti d a imm s := rfl
theorem exec_sltiu (d a : Nat) (imm : Int) (s : State) : exec (.sltiu d a imm) s = execSltiu d a imm s := rfl
theorem exec_sgti (d a : Nat) (imm : Int) (s : State) : exec (.sgti d a imm) s = execSgti d a imm s := rfl

/-- An immediate of 10 bits is the value of its word (R64). -/
theorem toInt_ofInt_imm {imm : Int} (hlo : -512 ≤ imm) (hhi : imm ≤ 511) : (BitVec.ofInt 64 imm).toInt = imm :=
  BitVec.toInt_ofInt_eq_self (by decide) (by omega) (by omega)

section Immediates

variable {s : State} {c : Ctx} {d : Nat} (a : Nat) (h : ctxOf s = some c) (hd : d < 64)

include h hd

/-! The operations and the shifts hold for immediates of any size; only the rotation and the comparisons need the range of theirs. -/

theorem does_addi (imm : Int) : Does (.addi d a imm) 4 c s (c.g.sSet d (c.s a + BitVec.ofInt 64 imm)) c.run :=
  does_alu1 h hd (exec_addi d a imm s) rfl
theorem does_andi (imm : Int) : Does (.andi d a imm) 4 c s (c.g.sSet d (c.s a &&& BitVec.ofInt 64 imm)) c.run :=
  does_alu1 h hd (exec_andi d a imm s) rfl
theorem does_ori (imm : Int) : Does (.ori d a imm) 4 c s (c.g.sSet d (c.s a ||| BitVec.ofInt 64 imm)) c.run :=
  does_alu1 h hd (exec_ori d a imm s) rfl
theorem does_xori (imm : Int) : Does (.xori d a imm) 4 c s (c.g.sSet d (c.s a ^^^ BitVec.ofInt 64 imm)) c.run :=
  does_alu1 h hd (exec_xori d a imm s) rfl

theorem does_shli (n : Nat) : Does (.shli d a n) 4 c s (c.g.sSet d (c.s a <<< n)) c.run :=
  does_alu1 h hd (exec_shli d a n s) (ofNat_mul_two_pow _ _)
theorem does_shri (n : Nat) : Does (.shri d a n) 4 c s (c.g.sSet d (c.s a >>> n)) c.run :=
  does_alu1 h hd (exec_shri d a n s) (ofNat_div_two_pow _ _)
theorem does_srai (n : Nat) : Does (.srai d a n) 4 c s (c.g.sSet d ((c.s a).sshiftRight n)) c.run :=
  does_alu1 h hd (exec_srai d a n s) (sar_eq _ _)
theorem does_rori {n : Nat} (hn : n < 64) : Does (.rori d a n) 4 c s (c.g.sSet d ((c.s a).rotateRight n)) c.run :=
  does_alu1 h hd (exec_rori d a n s) (ror_eq _ hn)

/-- `LUI`, of any value (R134). -/
theorem does_lui (imm : Int) : Does (.lui d imm) 4 c s (c.g.sSet d (BitVec.ofInt 64 (imm * 2 ^ 12))) c.run :=
  does_wrS h hd (exec_lui d imm s) rfl

/-- The four comparisons with an immediate (R135). -/
theorem does_compare_immediate {imm : Int} (hlo : -512 ≤ imm) (hhi : imm ≤ 511) :
    Does (.seqi d a imm) 4 c s (c.g.sSet d (if c.s a = BitVec.ofInt 64 imm then 1 else 0)) c.run ∧
    Does (.slti d a imm) 4 c s (c.g.sSet d (if (c.s a).slt (BitVec.ofInt 64 imm) then 1 else 0)) c.run ∧
    Does (.sltiu d a imm) 4 c s (c.g.sSet d (if (c.s a).ult (BitVec.ofInt 64 imm) then 1 else 0)) c.run ∧
    Does (.sgti d a imm) 4 c s (c.g.sSet d (if (BitVec.ofInt 64 imm).slt (c.s a) then 1 else 0)) c.run := by
  have hs := b64_slt (c.s a) (BitVec.ofInt 64 imm)
  have hg := b64_slt (BitVec.ofInt 64 imm) (c.s a)
  rw [toInt_ofInt_imm hlo hhi] at hs hg
  exact ⟨does_alu1 h hd (exec_seqi d a imm s) (b64_beq _ _), does_alu1 h hd (exec_slti d a imm s) hs,
    does_alu1 h hd (exec_sltiu d a imm s) (b64_ult _ _), does_alu1 h hd (exec_sgti d a imm s) hg⟩

end Immediates

theorem ofInt_mul_two_pow_12 (imm : Int) : BitVec.ofInt 64 (imm * 2 ^ 12) = BitVec.ofInt 64 imm <<< 12 := by
  rw [BitVec.ofInt_mul, BitVec.shiftLeft_eq_mul_twoPow]
  rfl

/-- Settles O2: the two counts, and the instructions with an immediate by their kinds. -/
theorem scalarCountsAndImmediates : Obligations.ScalarCountsAndImmediates := by
  refine ⟨fun s c d a h hd => ⟨?clz, ?popc⟩, fun s c d a h hd => ⟨fun imm _ _ => ?operations, fun n hn => ?shifts, fun imm _ _ => ?lui,
    fun imm hlo hhi => does_compare_immediate a h hd hlo hhi⟩⟩
  case clz => exact does_alu1 h hd (exec_clz d a s) (congrArg _ (clzN_eq_length_takeWhile _ 64))
  case popc => exact does_alu1 h hd (exec_popc d a s) (ofNat_popN _)
  case operations => exact ⟨does_addi a h hd imm, does_andi a h hd imm, does_ori a h hd imm, does_xori a h hd imm⟩
  case shifts => exact ⟨does_shli a h hd n, does_shri a h hd n, does_srai a h hd n, does_rori a h hd hn⟩
  case lui => exact ofInt_mul_two_pow_12 imm ▸ does_lui h hd imm

end Sys2Proof.Machine
end

section
/-! PROOFS. Pointer construction (R136): a field put into a word, and a field read. -/

namespace Sys2Proof.Machine

theorem exec_pspace (d a k : Nat) (s : State) : exec (.pspace d a k) s = execPspace d a k s := rfl
theorem exec_prank (d a b : Nat) (s : State) : exec (.prank d a b) s = execPrank d a b s := rfl
theorem exec_ppol (d a p : Nat) (s : State) : exec (.ppol d a p) s = execPpol d a p s := rfl
theorem exec_pget (d a k : Nat) (s : State) : exec (.pget d a k) s = execPget d a k s := rfl

/-- A field replaced in a word: what stands above it, the new value, what stands below it. -/
theorem ofNat_setBits (hi w lo x v : Nat) :
    BitVec.ofNat (hi + w + lo) (setBits x lo w v) =
      (BitVec.ofNat (hi + w + lo) x).extractLsb' (w + lo) hi ++ BitVec.ofNat w v ++ (BitVec.ofNat (hi + w + lo) x).extractLsb' 0 lo := by
  apply BitVec.eq_of_getLsbD_eq
  intro i hi'
  simp only [BitVec.getLsbD_append, BitVec.getLsbD_extractLsb', BitVec.getLsbD_ofNat, testBit_setBits, hi', decide_true, Bool.true_and]
  by_cases hlo : i < lo
  · rw [if_neg (by omega), if_pos hlo, Nat.zero_add, decide_eq_true hlo, decide_eq_true hi', Bool.true_and, Bool.true_and]
  · by_cases hw : i - lo < w
    · rw [if_pos (by omega), if_neg hlo, if_pos hw, decide_eq_true hw, Bool.true_and]
    · rw [if_neg (by omega), if_neg hlo, if_neg hw, decide_eq_true (by omega), show w + lo + (i - lo - w) = i by omega,
        decide_eq_true hi', Bool.true_and, Bool.true_and]

/-- A field of a word as a number. -/
theorem bits_toNat {n : Nat} (x : BitVec n) (hi lo : Nat) : bits x.toNat hi lo = (x.extractLsb' lo (hi + 1 - lo)).toNat := by
  rw [bits, BitVec.extractLsb'_toNat, Nat.shiftRight_eq_div_pow]

theorem pspace_fields (x : Word64) (k : Nat) :
    BitVec.ofNat 64 (setBits x.toNat 60 3 k) =
      (x.extractLsb' 63 1 ++ BitVec.ofNat 3 k ++ x.extractLsb' 0 60 : BitVec (1 + 3 + 60)) := by
  have h := ofNat_setBits 1 3 60 x.toNat k
  rwa [BitVec.ofNat_toNat, BitVec.setWidth_eq] at h

theorem ppol_fields (x : Word64) (p : Nat) :
    BitVec.ofNat 64 (setBits x.toNat 63 1 p) = (BitVec.ofNat 1 p ++ x.extractLsb' 0 63 : BitVec (1 + 63)) := by
  have h := ofNat_setBits 0 1 63 x.toNat p
  rw [BitVec.ofNat_toNat, BitVec.setWidth_eq] at h
  exact h.trans (congrArg (fun top : BitVec 1 => top ++ x.extractLsb' 0 63) (BitVec.zero_width_append _ _))

theorem prank_fields (x : Word64) (r : Nat) :
    BitVec.ofNat 64 (setBits (setBits x.toNat 60 3 1) 48 12 r) =
      (x.extractLsb' 63 1 ++ BitVec.ofNat 3 1 ++ BitVec.ofNat 12 r ++ x.extractLsb' 0 48 : BitVec (1 + 3 + 12 + 48)) := by
  refine (ofNat_setBits 4 12 48 _ r).trans ?_
  rw [show BitVec.ofNat (4 + 12 + 48) (setBits x.toNat 60 3 1) = _ from pspace_fields x 1]
  congr 1
  · congr 1
    exact BitVec.extractLsb'_append_eq_left
  · exact (BitVec.extractLsb'_append_eq_of_add_le (by decide)).trans (BitVec.extractLsb'_extractLsb'_of_le (by decide))

/-- A field read as a word of its own. -/
theorem ofNat_bits (x : Word64) (hi lo : Nat) :
    BitVec.ofNat 64 (bits x.toNat hi lo) = (x.extractLsb' lo (hi + 1 - lo)).setWidth 64 := by
  rw [bits_toNat, BitVec.ofNat_toNat]

/-- The pointer's space is 1 (R136). -/
theorem space_eq_one (x : Word64) : bits x.toNat 62 60 = 1 ↔ x.extractLsb' 60 3 = 1 := by
  rw [bits_toNat, ← BitVec.toNat_inj]
  rfl

/-- The rank a pointer names: 0 where it names none. -/
theorem pget_rank (x : Word64) :
    BitVec.ofNat 64 (if bits x.toNat 62 60 = 1 then bits x.toNat 59 48 else 0) =
      if x.extractLsb' 60 3 = 1 then (x.extractLsb' 48 12).setWidth 64 else 0 := by
  rw [apply_ite (BitVec.ofNat 64), ofNat_bits]
  exact if_congr (space_eq_one x) rfl rfl

/-- The offset of a pointer, which is shorter where the pointer names a rank. -/
theorem pget_offset (x : Word64) :
    BitVec.ofNat 64 (if bits x.toNat 62 60 = 1 then bits x.toNat 47 0 else bits x.toNat 59 0) =
      if x.extractLsb' 60 3 = 1 then (x.extractLsb' 0 48).setWidth 64 else (x.extractLsb' 0 60).setWidth 64 := by
  rw [apply_ite (BitVec.ofNat 64), ofNat_bits, ofNat_bits]
  exact if_congr (space_eq_one x) rfl rfl

/-- Settles O3: the pieces of each result are its fields; `PRANK` checks its rank first. -/
theorem pointerConstruction : Obligations.PointerConstruction := by
  intro s c d a b h hd
  refine ⟨fun k _ => ?space, fun hr => ?rank, fun hr => ?trap, fun p _ => ?pol, ?getSpace, ?getRank, ?getOffset, ?getPol⟩
  case space => exact does_alu1 h hd (exec_pspace d a k s) (pspace_fields _ k)
  case rank => exact prank_fields (c.s a) (c.sn b) ▸ does_wrS h hd (exec_prank d a b s) (if_neg (Nat.not_le.mpr hr))
  case trap => exact exec_trap h (exec_prank d a b s) (if_pos hr)
  case pol => exact does_alu1 h hd (exec_ppol d a p s) (ppol_fields _ p)
  case getSpace => exact does_alu1 h hd (exec_pget d a 0 s) (ofNat_bits _ 62 60)
  case getRank => exact does_alu1 h hd (exec_pget d a 1 s) (pget_rank _)
  case getOffset => exact does_alu1 h hd (exec_pget d a 2 s) (pget_offset _)
  case getPol => exact does_alu1 h hd (exec_pget d a 3 s) (ofNat_bits _ 63 63)

end Sys2Proof.Machine
end

section
/-! PROOFS. The vector length: `SETVL` and `SETVLR` (R138, R139). -/

namespace Sys2Proof.Machine

theorem exec_setvl (d n p g e : Nat) (s : State) : exec (.setvl d n p g e) s = execSetvl d n p g e s := rfl
theorem exec_setvlr (d n k : Nat) (s : State) : exec (.setvlr d n k) s = execSetvlr d n k s := rfl

section Shapes

variable {i : Instr} {sz : Nat} {s : State} {c : Ctx} {d : Nat} {f : Ctx → Except Trap State}

/-- An instruction that changes its group, to `g` but for the group's own notes, and then writes one scalar. -/
theorem does_updG_wrS {u : Group → Group} {g : Group} {x : Word64} (h : ctxOf s = some c) (hd : d < 64) (he : exec i s = issue sz s f)
    (hf : f c = .ok (commitW c (wrS d x) (updCtxG c u s))) (hg : (u c.g).unnoted = g.unnoted) :
    Does i sz c s (g.sSet d x) c.run := by
  obtain ⟨g1, r1, honly, hg1, hr1⟩ := commitW_only (wrS d x) ((OnlyIssuer.refl h).updG u)
  have hwindow : ∀ w ∈ joinWrs (wrS d x), isTempLoc w.loc = false := fun w hw => by
    obtain ⟨y, hy, hloc⟩ := joinWrs_loc hw
    exact hloc ▸ isTempLoc_of_mem_wrS hd y hy
  refine ⟨_, g1, r1, he.trans (issue_ok h hf), honly, ?_, by rw [hr1, putTemps_window _ _ hwindow]⟩
  rw [hg1, List.filter_eq_self.mpr (by simpa using hwindow), ← putAll_eq, unnoted_putAll hg, putAll_wrS _ _ _ hd]

/-- `vtype` set, `vl` and sD the lesser of the number asked for and VLMAX (R138, R139). -/
theorem does_setVl {n vt : Nat} (h : ctxOf s = some c) (hd : d < 64) (hvl : c.g.vl < 2 ^ 64) (hn : n < 2 ^ 64)
    (he : exec i s = issue sz s f) (hf : f c = .ok (setVl c d n vt s)) :
    Does i sz c s (({ c.g with vtype := vt, vl := min n (vlmaxOf vt) } : Group).sSet d (BitVec.ofNat 64 (min n (vlmaxOf vt)))) c.run := by
  refine does_updG_wrS h hd he hf ((write_unnoted _ _).trans ?_)
  have hmerge : merge c.g.vl ⟨locVl, 2 ^ 64 - 1, min n (vlmaxOf vt)⟩ = min n (vlmaxOf vt) :=
    merge_full locVl hvl (lt_of_le_of_lt (Nat.min_le_left _ _) hn)
  exact congrArg (fun x => Group.unnoted { c.g with vtype := vt, vl := x }) hmerge

end Shapes

/-- The fields that `SETVL` packs into `vtype` (R138). -/
theorem vlmaxOf_fields {p g e : Nat} (hg : g < 4) (he : e < 5) : vlmaxOf (p * 192 + g * 8 + e) = 1024 / (4 * 2 ^ e) * 2 ^ g := by
  rw [vlmaxOf, show (p * 192 + g * 8 + e) % 8 = e by omega, show (p * 192 + g * 8 + e) / 8 % 4 = g by omega]

/-- Settles O8: both set `vtype` and `vl` alike; `SETVLR` checks its operand first. -/
theorem setVectorLength : Obligations.SetVectorLength := by
  intro s c d n h hd hvl
  refine ⟨fun p g e _ hg he => ?setvl, fun k => ⟨fun h256 h5 hsew => ?setvlr, fun hbad => ?illegal⟩⟩
  case setvl =>
    have hdoes := does_setVl h hd hvl (c.s n).isLt (exec_setvl d n p g e s) rfl
    rw [vlmaxOf_fields hg he] at hdoes
    rwa [show p * 128 + p * 64 + g * 8 + e = p * 192 + g * 8 + e by omega]
  case setvlr =>
    refine does_setVl h hd hvl (c.s n).isLt (exec_setvlr d n k s) (if_neg ?_)
    rintro (h1 | h1 | h1)
    · omega
    · exact Bool.false_ne_true (h5.symm.trans h1)
    · omega
  case illegal => exact exec_trap h (exec_setvlr d n k s) (if_pos hbad)

end Sys2Proof.Machine
end

section
/-! PROOFS. The mask registers: logic on whole registers, counts, 64-bit pieces (R141). -/

namespace Sys2Proof.Machine

theorem exec_mand (d a b : Nat) (s : State) : exec (.mand d a b) s = execMand d a b s := rfl
theorem exec_mor (d a b : Nat) (s : State) : exec (.mor d a b) s = execMor d a b s := rfl
theorem exec_mxor (d a b : Nat) (s : State) : exec (.mxor d a b) s = execMxor d a b s := rfl
theorem exec_mandn (d a b : Nat) (s : State) : exec (.mandn d a b) s = execMandn d a b s := rfl
theorem exec_morn (d a b : Nat) (s : State) : exec (.morn d a b) s = execMorn d a b s := rfl
theorem exec_mnot (d a : Nat) (s : State) : exec (.mnot d a) s = execMnot d a s := rfl
theorem exec_mmov (d a : Nat) (s : State) : exec (.mmov d a) s = execMmov d a s := rfl
theorem exec_mvl (d : Nat) (s : State) : exec (.mvl d) s = execMvl d s := rfl
theorem exec_mact (d : Nat) (s : State) : exec (.mact d) s = execMact d s := rfl
theorem exec_mpop (d a : Nat) (s : State) : exec (.mpop d a) s = execMpop d a s := rfl
theorem exec_mfirst (d a : Nat) (s : State) : exec (.mfirst d a) s = execMfirst d a s := rfl
theorem exec_mrds (d a k : Nat) (s : State) : exec (.mrds d a k) s = execMrds d a k s := rfl
theorem exec_mwrs (d b k : Nat) (s : State) : exec (.mwrs d b k) s = execMwrs d b k s := rfl

section Shapes

variable {i : Instr} {sz : Nat} {s : State} {c : Ctx} {d : Nat} {f : Ctx → Except Trap State}

/-- An instruction that writes one mask register (R141). -/
theorem does_wrM {x : VReg} (h : ctxOf s = some c) (hd : d < 16) (he : exec i s = issue sz s f)
    (hf : f c = .ok (commitW c (wrM d x) s)) : Does i sz c s (c.g.mSet d x) c.run :=
  putAll_wrM c.g d x hd ▸ does_commit h he hf fun w hw => by
    rw [List.mem_singleton.mp hw]
    exact isTempLoc_locM hd

/-- A mask-register operation on whole registers (R141). -/
theorem does_maskOp {a b : Nat} {op : VReg → VReg → VReg} {x : VReg} (h : ctxOf s = some c) (hd : d < 16)
    (he : exec i s = maskOp d a b op s) (hx : op (c.m a) (c.m b) = x) : Does i 4 c s (c.g.mSet d x) c.run :=
  hx ▸ does_wrM h hd he rfl

end Shapes

/-- Ones below `vl`, of which a mask register holds at most 1,024. -/
theorem getLsbD_ones_below {vl e : Nat} (he : e < 1024) : (BitVec.ofNat 1024 (2 ^ min vl 1024 - 1)).getLsbD e = decide (e < vl) := by
  rw [BitVec.getLsbD_ofNat, Nat.testBit_two_pow_sub_one, decide_eq_true he, Bool.true_and]
  exact decide_eq_decide.mpr (by omega)

theorem ofNat_div_eq_extractLsb' {n : Nat} (x : BitVec n) (k : Nat) : BitVec.ofNat 64 (x.toNat / 2 ^ k) = x.extractLsb' k 64 := by
  rw [← Nat.shiftRight_eq_div_pow]
  rfl

/-! ### One 64-bit piece of a mask register written -/

/-- The mask register `r` with piece `k` replaced. -/
def setPiece (r : VReg) (k : Nat) (x : Word64) : VReg := BitVec.ofNat 1024 (setBits r.toNat (64 * k) 64 x.toNat)

theorem getLsbD_setPiece (r : VReg) (k : Nat) (x : Word64) {e : Nat} (he : e < 1024) :
    (setPiece r k x).getLsbD e = if 64 * k ≤ e ∧ e < 64 * k + 64 then x.getLsbD (e - 64 * k) else r.getLsbD e := by
  rw [setPiece, BitVec.getLsbD_ofNat, testBit_setBits, decide_eq_true he, Bool.true_and]
  rfl

/-- The piece reads back. -/
theorem extractLsb'_setPiece (r : VReg) {k : Nat} (hk : k < 16) (x : Word64) : (setPiece r k x).extractLsb' (64 * k) 64 = x := by
  apply BitVec.eq_of_getLsbD_eq
  intro i hi
  rw [BitVec.getLsbD_extractLsb', getLsbD_setPiece r k x (by omega), if_pos (by omega), Nat.add_sub_cancel_left, decide_eq_true hi,
    Bool.true_and]

/-- A write of one piece, whose mask covers it alone. -/
theorem merge_piece (r : VReg) (k l : Nat) (x : Word64) :
    merge r.toNat ⟨l, (2 ^ 64 - 1) * 2 ^ (64 * k), x.toNat * 2 ^ (64 * k)⟩ = setBits r.toNat (64 * k) 64 x.toNat := by
  apply Nat.eq_of_testBit_eq
  intro i
  rw [testBit_merge, testBit_setBits]
  simp only [Nat.testBit_mul_two_pow, Nat.testBit_two_pow_sub_one, Bool.and_eq_true, decide_eq_true_eq]
  by_cases hi : 64 * k ≤ i ∧ i < 64 * k + 64
  · rw [if_pos hi, if_pos (by omega), decide_eq_true hi.1, Bool.true_and]
  · rw [if_neg hi, if_neg (by omega)]

theorem getLoc_locM (g : Group) {d : Nat} (hd : d < 16) : g.getLoc (locM d) = (g.mGet d).toNat := by
  rw [Group.getLoc, if_neg (by unfold locM; omega), if_pos (by unfold locM; omega), locM, Nat.add_sub_cancel_left]

theorem setLoc_locM (g : Group) {d : Nat} (hd : d < 16) (x : Nat) : g.setLoc (locM d) x = g.mSet d (BitVec.ofNat 1024 x) := by
  rw [Group.setLoc, if_neg (by unfold locM; omega), if_pos (by unfold locM; omega), locM, Nat.add_sub_cancel_left]

theorem does_mwrs {s : State} {c : Ctx} {d k : Nat} (b : Nat) (h : ctxOf s = some c) (hd : d < 16) :
    Does (.mwrs d b k) 4 c s (c.g.mSet d (setPiece (c.g.mGet d) k (c.s b))) c.run := by
  have hdoes := does_commit h (exec_mwrs d b k s) rfl fun w hw => by
    rw [List.mem_singleton.mp hw]
    exact isTempLoc_locM hd
  rwa [putAll_single, setLoc_locM _ hd, getLoc_locM _ hd, Ctx.sn, merge_piece] at hdoes

/-- Settles O9: the logic on whole registers, then the moves between them and the scalars. -/
theorem maskRegisterResults : Obligations.MaskRegisterResults := by
  refine ⟨fun s c d a b h hd => ⟨?mand, ?mor, ?mxor, ?mandn, ?morn, ?mnot, ?mmov, ?mact, ?mvl⟩,
    fun s c d m k b h hd hm hk => ⟨?mpop, fun i hi hone hlow => ?mfirst, fun hzero => ?mfirstNone, ?mrds, ?mwrs⟩⟩
  case mand => exact does_maskOp h hd (exec_mand d a b s) rfl
  case mor => exact does_maskOp h hd (exec_mor d a b s) rfl
  case mxor => exact does_maskOp h hd (exec_mxor d a b s) rfl
  case mandn => exact does_maskOp h hd (exec_mandn d a b s) rfl
  case morn => exact does_maskOp h hd (exec_morn d a b s) rfl
  case mnot => exact does_maskOp h hd (exec_mnot d a s) rfl
  case mmov => exact does_maskOp h hd (exec_mmov d a s) rfl
  case mact => exact does_wrM h hd (exec_mact d s) rfl
  case mvl => exact ⟨_, does_wrM h hd (exec_mvl d s) rfl, fun e he => getLsbD_ones_below he⟩
  case mpop => exact does_scalar h hd (exec_mpop d m s) (ofNat_popN _)
  case mfirst =>
    have hfirst : lowestBit (c.m m).toNat 0 1024 = some i := lowestBit_eq_some hone (Nat.zero_le i) (by omega) fun j _ => hlow j
    exact does_scalar h hd (exec_mfirst d m s) (by rw [hfirst])
  case mfirstNone =>
    have hnone : lowestBit (c.m m).toNat 0 1024 = none := by
      rw [hzero, BitVec.ofNat_eq_ofNat, BitVec.toNat_zero, lowestBit_zero]
    exact does_scalar h hd (exec_mfirst d m s) (by rw [hnone])
  case mrds => exact does_scalar h hd (exec_mrds d m k s) (ofNat_div_eq_extractLsb' _ _)
  case mwrs =>
    refine ⟨_, does_mwrs b h hm, extractLsb'_setPiece _ hk _, fun e he hne => ?_⟩
    rw [getLsbD_setPiece _ _ _ he, if_neg (by omega)]

end Sys2Proof.Machine
end

section
/-! PROOFS. Majors 0x11 to 0x16: their words (R55, R71), and the values that `LUI` and `ADDI` build together (R132 to R134). -/

namespace Sys2Proof.Machine

/-! ### Words that decode -/

/-- The word of a well-formed instruction decodes to it. -/
theorem decode_word {i : Instr} {x w : Nat} (hi : i.WellFormed) (he : encodeWord i = some (4, x)) (hw : w = x) :
    decode (toBytes 4 w) = .ok (i, 4) := by
  have h := RoundTrip.decodeInvertsEncode i (toBytes 4 w) [] hi (hw ▸ RoundTrip.encode_of_encodeWord he)
  rwa [List.append_nil, length_toBytes] at h

/-- A word that its major refuses is refused. -/
theorem decode_word_error {w : Nat} {e : DecodeError} (hw : w < 4294967296) (h1 : w % 2 = 1) (h : decode32 w = .error e) :
    decode (toBytes 4 w) = .error e := by
  have hsum : w % 256 + 256 * (w / 256 % 256) + 65536 * (w / 256 / 256 % 256) + 16777216 * (w / 256 / 256 / 256 % 256) = w := by omega
  simp only [toBytes, decode, BitVec.toNat_ofNat, Nat.reducePow, hsum, h, show ¬w % 256 % 2 = 0 by omega, if_false]

/-- The zero bits 19:16 of the shifts by immediate (R133). -/
theorem decodeM15_mustBeZero {w : Nat} (hz : w / 65536 % 16 ≠ 0) : decodeM15 w = .error .mustBeZero := by
  unfold decodeM15
  split
  case h_5 h0 h1 h2 h3 =>
    obtain h | h | h | h : w / 16384 % 4 = 0 ∨ w / 16384 % 4 = 1 ∨ w / 16384 % 4 = 2 ∨ w / 16384 % 4 = 3 := by omega
    exacts [(h0 h).elim, (h1 h).elim, (h2 h).elim, (h3 h).elim]
  all_goals exact if_pos hz

theorem decode_shift_mustBeZero {w : Nat} (hw : w < 4294967296) (hm : w % 256 = 43) (hz : w / 65536 % 16 ≠ 0) :
    decode (toBytes 4 w) = .error .mustBeZero :=
  decode_word_error hw (by omega) ((RoundTrip.decode32_M15 (by omega)).trans (decodeM15_mustBeZero hz))

/-! ### Values of `LUI` with `ADDI` -/

/-- Every value of the range is an upper part of 18 bits and a lower part of 12, both signed. -/
theorem lui_addi_split {v : Int} (hlo : -(2 ^ 29) ≤ v) (hhi : v ≤ 2 ^ 29 - 2049) :
    ∃ hi lo : Int, -131072 ≤ hi ∧ hi ≤ 131071 ∧ -2048 ≤ lo ∧ lo ≤ 2047 ∧ hi * 2 ^ 12 + lo = v :=
  ⟨(v + 2048) / 4096, (v + 2048) % 4096 - 2048, by omega, by omega, by omega, by omega, by omega⟩

/-- Settles O60: each word by its encoding, each effect by the instruction's own lemma. -/
theorem immediateMajors : Obligations.ImmediateMajors := by
  refine ⟨?immediates, ?shifts, fun d imm hd hlo hhi => ⟨?luiWord, fun s c h => does_lui h hd imm⟩, fun v hlo hhi => ?values⟩
  case immediates =>
    intro d a imm hd ha hlo hhi
    have hwf : d < 64 ∧ a < 64 ∧ -2048 ≤ imm ∧ imm < 2048 := ⟨hd, ha, hlo, by omega⟩
    simp only [List.forall_mem_cons]
    exact ⟨⟨decode_word hwf rfl (by omega), fun _ _ h => does_addi a h hd imm⟩,
      ⟨decode_word hwf rfl (by omega), fun _ _ h => does_andi a h hd imm⟩,
      ⟨decode_word hwf rfl (by omega), fun _ _ h => does_ori a h hd imm⟩,
      ⟨decode_word hwf rfl (by omega), fun _ _ h => does_xori a h hd imm⟩, nofun⟩
  case shifts =>
    intro d a n hd ha hn
    have hwf : d < 64 ∧ a < 64 ∧ n < 64 := ⟨hd, ha, hn⟩
    have hzero : ∀ k, k < 4 → ∀ z, 0 < z → z < 16 →
        decode (toBytes 4 (d * 2 ^ 26 + a * 2 ^ 20 + k * 2 ^ 14 + n * 2 ^ 8 + (2 * 0x15 + 1) + z * 2 ^ 16)) = .error .mustBeZero :=
      fun k _ z _ _ => decode_shift_mustBeZero (by omega) (by omega) (by omega)
    simp only [List.forall_mem_cons]
    exact ⟨⟨decode_word hwf rfl (by omega), hzero 0 (by decide), fun _ _ h => does_shli a h hd n⟩,
      ⟨decode_word hwf rfl (by omega), hzero 1 (by decide), fun _ _ h => does_shri a h hd n⟩,
      ⟨decode_word hwf rfl (by omega), hzero 2 (by decide), fun _ _ h => does_srai a h hd n⟩,
      ⟨decode_word hwf rfl (by omega), hzero 3 (by decide), fun _ _ h => does_rori a h hd hn⟩, nofun⟩
  case luiWord => exact decode_word (i := .lui d imm) ⟨hd, hlo, by omega⟩ rfl (by omega)
  case values =>
    obtain ⟨hi, lo, h1, h2, h3, h4, hv⟩ := lui_addi_split hlo hhi
    refine ⟨hi, lo, h1, h2, h3, h4, fun s s1 c c1 d h hc1 _ hd => ⟨does_lui h hd hi, fun hread => ?_⟩⟩
    have hsum : c1.s d + BitVec.ofInt 64 lo = BitVec.ofInt 64 v := by rw [hread, ← BitVec.ofInt_add, hv]
    exact hsum ▸ does_addi d hc1 hd lo

end Sys2Proof.Machine
end
